-- ==== Sys2Proof/Word.lean ====
section
/-! DEFINITION. The word types of the SX-9 and the small types that the operands of commands are made of. Bit 0 is the
least significant bit (spec/00_scope.md R6). -/

namespace Sys2Proof

/-- A 32-bit word: a register, or a word of memory. -/
abbrev Word := BitVec 32

/-- A byte. -/
abbrev Byte := BitVec 8

/-- Who makes an access (spec/07_memory.md Table 07-2, spec/09_interrupt_controller.md R382). A core thread is named by
its physical slot 9c + s and its thread number. -/
inductive Initiator where
  | core (slot : Fin 144) (thr : Fin 4)
  | ferry (n : Fin 64)
  | route
  | breakwater
  | scrubber
  | remote (m : Fin 8)
  | host
  | debug
  | loader
  | controlPort
  deriving DecidableEq, Repr

/-- What a read of up to 32 bytes finds in its ECC words (spec/07_memory.md R321, R322): no error, single-bit errors in the words named,
or an uncorrectable error in the word named; words count from the one that holds the first byte read. -/
inductive EccHit where
  | ok
  | ce (ws : List (Fin 4) := [0])
  | ue (w : Fin 4 := 0)
  deriving DecidableEq, Repr

/-- What else comes about in a Ferry channel on the edge on which an ABORT is registered (spec/08_ferry.md R364): nothing, the end of its
program fetch, the end of a read beat by its request, or a step of its program. -/
inductive AbortEdge where
  | none
  | fetched
  | read (id : Nat)
  | ack (id : Nat)
  | step
  deriving DecidableEq, Repr

/-- An ABORT of a channel, and what its edge brings. -/
structure AbortInfo where
  chan : Fin 64
  edge : AbortEdge := .none
  deriving DecidableEq, Repr

/-- The passage of time before an event on a core that can bring an entry: CCLK since the core's last event, and what the vector entry
reads of the entry find, first to last (spec/06_exceptions_worlds.md R256). -/
structure EntryInfo where
  dt  : Nat
  vec : List EccHit := []
  deriving DecidableEq, Repr

/-- What a grant finds, and what the arbitration of a bank does not take from the state (spec/07_memory.md R307, R309, R321, R721): the ECC
outcome of the beat, requests still on their way to the bank, and whether Breakwater's two grants of the last 10 FCLK hold its own back. -/
structure GrantInfo where
  ecc   : EccHit := .ok
  late  : List Nat := []
  quota : Bool := false
  deriving DecidableEq, Repr

/-- A scrub read (spec/07_memory.md R308, R324): the ECC it finds, and the FCLK that it has waited at the head of its class's queue. -/
structure ScrubInfo where
  ecc  : EccHit
  wait : Nat := 0
  deriving DecidableEq, Repr

/-- The write-back of a corrected word (spec/07_memory.md R308, R321): its address, and the FCLK that it has waited at the head of its
class's queue. -/
structure WbInfo where
  word : BitVec 44
  wait : Nat := 0
  deriving DecidableEq, Repr

/-- The end of a take-over (spec/10_breakwater.md Table 10-4): the logical core, and the 8-byte words of its code copy, by number, in which the
copying finds an error, each with whether it is uncorrectable (spec/07_memory.md R321, R322). -/
structure TakeInfo where
  lcore : Fin 128
  errs  : List (Nat × Bool) := []
  deriving DecidableEq, Repr

/-- A request at the head of its class's queue, by its number, and the FCLK that it has waited there (spec/07_memory.md R308). -/
structure LiftInfo where
  id   : Nat
  wait : Nat
  deriving DecidableEq, Repr

/-- The byte enables of a host write, and what it finds in the 32-byte blocks that it writes in part, first to last
(spec/07_memory.md R323). -/
structure HostMask where
  be   : List Bool
  eccs : List EccHit := []
  deriving DecidableEq, Repr

/-- What shows a parity error when a bundle is read (spec/05_core_pipeline.md R234): a line of the I-cache or of the D-cache, by its number
(address / 64), or the bundle's entry of the loop buffer. -/
inductive ParityHit where
  | none
  | icache (line : Nat)
  | dcache (line : Nat)
  | loopBuffer
  deriving DecidableEq, Repr

/-- An interrupt source: shared source n (32 to 415), or private source id of a thread (spec/09_interrupt_controller.md
R374). -/
inductive SrcRef where
  | shared (n : Fin 416)
  | priv (slot : Fin 144) (thr : Fin 4) (id : Fin 32)
  deriving DecidableEq, Repr

/-- One update of a Tide reference (spec/02_tide.md R49 to R58): its source and instance; the signed phase error in ps;
the signed frequency error to the reference, the TKCLK offset and the reference's offset from their nominals, all in
0.001 ppm; whether it is of the Tide's rate family; the whole part of the sample-count error and whether a fraction
follows it; whether expected updates were missed before it. -/
structure RefUpdate where
  src      : Nat
  sel      : Fin 64
  perr     : Word
  ferr     : Word
  offs     : Word
  refOfs   : Word
  family   : Bool
  err      : BitVec 64
  fraction : Bool
  gap      : Bool
  deriving DecidableEq, Repr

/-- What the passage of time gives a bundle's issue (spec/05_core_pipeline.md): `dt` CCLK since the core's last event, `sb` of them in
which the bundle waited for the store buffer; a parity error met; the 8-byte words of the core's own local memory, by address, in which the
bundle's fetch, its loads or its partial stores find a single-bit error (`ce`) or an uncorrectable one (`ue`); and what the vector entry
reads of an entry find, first to last. -/
structure IssueInfo where
  dt  : Nat
  sb  : Nat := 0
  par : ParityHit := .none
  ce  : List Nat := []
  ue  : List Nat := []
  vec : List EccHit := []
  deriving DecidableEq, Repr

/-- What the far end of a Strand link sends in training (spec/13_strand_camps.md Table 13-2), and the lanes that lock at both
ends at each rate: protocol version, FEAT0 to FEAT3, camp ID, device ID, session nonce, capabilities in the layout of STRn_CAP,
next expected sequence number, and whether it decides for lanes 2 and 3 where both lane pairs lock (R516). -/
structure FarEnd where
  ver    : Nat
  feats  : List Word
  camp   : BitVec 16
  dev    : Fin 8
  nonce  : BitVec 64
  cap    : Word
  next   : Fin 4096
  lock10 : BitVec 4
  lock25 : BitVec 4
  pair   : Bool
  deriving DecidableEq, Repr

/-- A flit as it arrives (FLIT_RECEIVE): its bytes, and how many FEC codewords of it were corrected and were uncorrectable (Table 13-9). -/
structure FlitIn where
  bytes  : List Byte
  corr   : Nat
  uncorr : Nat
  deriving DecidableEq, Repr

/-- What the boot ROM finds outside the device (spec/14_host_network_memory.md R578 to R583): whether every flash operation succeeds,
the flash's SFDP signature, the modes that its tables declare and that confirm, its ID, density in KiB and erase size in bytes;
raw capacity in MiB and settled speed code of each LPDDR5X channel, 0 for a channel that trains at no speed. -/
structure BootEnv where
  flashOk : Bool
  sfdp    : Bool
  modes   : BitVec 7
  id      : BitVec 24
  sizeK   : Word
  erase   : Nat
  raw0    : BitVec 16
  raw1    : BitVec 16
  speed0  : Fin 7
  speed1  : Fin 7
  deriving DecidableEq, Repr

end Sys2Proof
end

