-- ==== Sys2Proof/Syntax.lean ====
section
/-! DEFINITION. The commands of the SX-9 block: one constructor for each row of spec/opcode_table.json, with the row's
operands. The docstring of a constructor gives its rule and the row's summary. Operands that many rows share: `slot` a physical slot 9c + s;
`thr` a thread; `lcore` a logical core; `n`, `p`, `g`, `c`, `k`, `j`, `e`, `m`, `pt` the number of the unit that the row's registers
are indexed by; `ini` who makes the access; `v` the word written; `dt` the clock cycles of the unit that have passed since its last
event; `id` the number of an outstanding fabric request; `ecc` what a read finds, `eccs` what the reads of each 32-byte block find, first to
last; `e` in a core row the time before an event that can bring an entry, and what the vector entry reads find; `g` what a grant finds and the
arbitration takes from outside; `t` what time and the fetch unit give a bundle's issue; `bytes` what arrives on a link; `din` the level of DIN at the rising and at the falling edge of each BCLK from a frame's start edge on,
through its last bit; `off`, `addr` where. An operand with another name is what that name says of the event. -/

namespace Sys2Proof

/-- A command: a step of the part, whole and indivisible. -/
inductive Instr where
  /-- SAMPLE_BOUNDARY (R40): The phase wraps to 0 after P TKCLK cycles and the sample count increases by 1. -/
  | sampleBoundary
  /-- TIDE_FRAME_BOUNDARY (R44): After N elapsed sample periods a tide frame ends; TIDE_FRAME advances, TIDE_FRAME_START is set and frame_tick is set. -/
  | tideFrameBoundary
  /-- REFERENCE_UPDATE (R52): A WCLK edge, FSYNC start, gPTP sync, CRF timestamp or keeper beacon reaches the Tide lock loop. -/
  | referenceUpdate (u : RefUpdate)
  /-- LOCK_ACHIEVED (R50): In ACQUIRE, lock_count consecutive updates fall within the limits and the Tide enters LOCKED. -/
  | lockAchieved
  /-- HOLDOVER_ENTRY (R51): In LOCKED, 4 expected updates are missed or the phase error exceeds 1 µs, and the Tide enters HOLDOVER. -/
  | holdoverEntry (missed4 : Bool)
  /-- REFERENCE_RETURN (R56): A lost reference gives updates for 8 consecutive intervals and the Tide enters ACQUIRE on it. -/
  | referenceReturn
  /-- FALLBACK_SWITCH (R61): After fb_delay ms in HOLDOVER the Tide switches to the fallback source and enters ACQUIRE. -/
  | fallbackSwitch
  /-- SAMPLE_COUNT_STEP (R58): At the next frame boundary the sample count steps by the integer part of the error, and late compares fire. -/
  | sampleCountStep
  /-- TIDE_RATE_RESTART (R87): After a full pitch that changes Fs, the first sample at the new rate begins with the counts at 0. -/
  | tideRateRestart
  /-- COMPARE_MATCH (R64): An armed tide compare matches: its pending bit and count are set and its action is taken. -/
  | compareMatch (n : Fin 256)
  /-- COMPARE_GPIO_OUTPUT (R75): 3 TKCLK after a GPIO compare matches, the pin output changes. -/
  | compareGpioOutput
  /-- CMP_TGT_LOW_WRITE (R67): A write of the low target word is held in the staging register without arming. -/
  | cmpTgtLowWrite (n : Fin 256) (v : Word)
  /-- CMP_ARM (R67): A write of the high target word arms the compare with the staged low word and clears its count and fired bit. -/
  | cmpArm (n : Fin 256) (v : Word)
  /-- CMP_MODE_OFF (R89): A write of mode 0 to TIDE_CMPn_CTL stops and disarms the compare at once. -/
  | cmpModeOff (n : Fin 256) (v : Word)
  /-- SNAPSHOT (R83): A write of 1 to TIDE_SNAP captures count, phase, beat position and TIDE_FRAME on one edge. -/
  | snapshot
  /-- TEMPO_PUSH (R77): TIDE_TQ_PUSH with kind 0 pushes a tempo entry, or sets tempo_ovf when the queue is full. -/
  | tempoPush
  /-- LOCATE_PUSH (R77): TIDE_TQ_PUSH with kind 1 pushes a locate entry, or sets tempo_ovf when the queue is full. -/
  | locatePush
  /-- TEMPO_QUEUE_FLUSH (R77): A write of 1 to TIDE_TQ_FLUSH discards every queued tempo entry. -/
  | tempoQueueFlush
  /-- TEMPO_ENTRY_APPLY (R78): The queue head whose AT is reached applies its tempo or locate, late entries at the next boundary. -/
  | tempoEntryApply
  /-- TIDE_REF_WRITE (R47): A write of TIDE_REF selects a new reference and moves the lock state to FREE or ACQUIRE. -/
  | tideRefWrite (v : Word)
  /-- BUNDLE_ISSUE (R191): A thread's bundle issues in RR; its operations read operands and take effect. -/
  | bundleIssue (slot : Fin 144) (thr : Fin 4) (t : IssueInfo)
  /-- LONG_OP_RETIRE (R165): A long operation retires, writes its destination or raises division by zero. -/
  | longOpRetire (slot : Fin 144) (thr : Fin 4) (j : Nat) (e : EntryInfo)
  /-- WAITT_RELEASE (R186): The compare fires and the waiting WAITT bundle issues 4–8 CCLK later. -/
  | waittRelease (slot : Fin 144) (thr : Fin 4) (t : IssueInfo)
  /-- INTERRUPT_ENTRY (R224): The core samples a request it may take and runs the 18-CCLK entry sequence. -/
  | interruptEntry (slot : Fin 144) (thr : Fin 4) (e : EntryInfo)
  /-- FAR_ACCESS_RESPONSE (R229): Far load data, a fill or a fault response arrives and the stalled thread resumes or faults. -/
  | farAccessResponse (slot : Fin 144) (thr : Fin 4) (id : Nat) (e : EntryInfo)
  /-- I_CACHE_LINE_FILL (R200): An I-cache miss fill completes and the thread fetches again. -/
  | iCacheLineFill (slot : Fin 144) (thr : Fin 4) (id : Nat) (dt : Nat)
  /-- POSTED_WRITE_ACK (R188): A posted store is acknowledged or faults, updating the fault record and PSTAT.pwf. -/
  | postedWriteAck (slot : Fin 144) (thr : Fin 4) (id : Nat) (dt : Nat)
  /-- STORE_BUFFER_DRAIN (R240): In Legacy T2 the oldest store-buffer entry drains through a free port 1. -/
  | storeBufferDrain (slot : Fin 144) (thr : Fin 4) (dt : Nat)
  /-- ICACHE_INVALIDATE (R232): CORE_CACHE_INV.ic invalidates the whole I-cache. -/
  | icacheInvalidate (slot : Fin 144)
  /-- DCACHE_INVALIDATE (R232): CORE_CACHE_INV.dc invalidates the whole D-cache. -/
  | dcacheInvalidate (slot : Fin 144)
  /-- CORE_COUNTER_CLEAR (R244): A write to CORE_CNT_CLR clears the pipeline counters. -/
  | coreCounterClear (slot : Fin 144)
  /-- PTIMER_EXPIRE (R397): PTIMER_CNT passes from 1 to 0, sets PSTAT.tmr and reloads. -/
  | ptimerExpire (slot : Fin 144) (thr : Fin 4) (dt : Nat)
  /-- SOURCE_LEVEL_CHANGE (R383): A source's synchronised level changes and the source enters or leaves PENDING. -/
  | sourceLevelChange (src : SrcRef)
  /-- IC_CLAIM (R391): A core load of IC_CLAIM takes the highest eligible source into ACTIVE or returns 0x3FF. -/
  | icClaim (slot : Fin 144) (thr : Fin 4)
  /-- IC_DONE (R394): A write of an ACTIVE source ID moves it to HOLDOFF. -/
  | icDone (ini : Initiator) (id : Fin 1024)
  /-- HOLDOFF_END (R394): After 4 controller cycles a source leaves HOLDOFF for PENDING or INACTIVE. -/
  | holdoffEnd (src : SrcRef)
  /-- IC_DBELL (R396): A write to IC_DBELL rings a doorbell of a thread of a logical core. -/
  | icDbell (ini : Initiator) (v : Word)
  /-- IC_PEND_SET (R384): Sets swpend of shared sources. -/
  | icPendSet (ini : Initiator) (k : Fin 13) (v : Word)
  /-- IC_PEND_CLR (R384): Clears swpend of shared sources. -/
  | icPendClr (ini : Initiator) (k : Fin 13) (v : Word)
  /-- IC_MASK_SET (R381): Masks shared sources. -/
  | icMaskSet (ini : Initiator) (k : Fin 13) (v : Word)
  /-- IC_MASK_CLR (R381): Unmasks shared sources. -/
  | icMaskClr (ini : Initiator) (k : Fin 13) (v : Word)
  /-- IC_SRC_CFG_WRITE (R404): A write of IC_SRCn_CFG changes a source's target from the next SYSCLK. -/
  | icSrcCfgWrite (ini : Initiator) (n : Fin 416) (v : Word)
  /-- WATCHDOG_FIRE (R408): A core's frame watchdog reaches its budget while the core is not done. -/
  | watchdogFire (lcore : Fin 128) (dt : Nat)
  /-- COMMIT_DEADLINE (R409): At b + T − 8 µs Breakwater begins the commit and stops cores not done. -/
  | commitDeadline (pt : Fin 32)
  /-- COMMIT (R410): The last core is done; Breakwater decides the outcome, loads descriptors and writes the commit word. -/
  | commit (pt : Fin 32)
  /-- LOCAL_UE_DETECT (R419): An uncorrectable error in the core's own local memory or I-TCM is a core fault. -/
  | localUeDetect (slot : Fin 144) (addr : BitVec 44) (kind : Fin 3) (dt : Nat)
  /-- PARITY_DETECT (R419): A parity error in registers, latches, save sets or shadow stack is a core fault. -/
  | parityDetect (slot : Fin 144) (dt : Nat)
  /-- RESIDUE_MISMATCH (R419): The modulo-7 residue check of a product or sum fails. -/
  | residueMismatch (slot : Fin 144) (dt : Nat)
  /-- STATE_FAULT (R423): An uncorrectable error in other memory marks the partition frame failed. -/
  | stateFault (lcore : Fin 128) (addr : BitVec 44) (dt : Nat)
  /-- TAKE_OVER_RELEASE (R428): Restore done, the thread-start record is loaded and the new slot's threads released. -/
  | takeOverRelease (lcore : TakeInfo)
  /-- REPLAY_RESTART (R430): Every core of the partition restarts the frame together from thread-start records. -/
  | replayRestart (pt : Fin 32) (intime : Bool)
  /-- DEGRADED_EXIT (R447): At the tide frame boundary after the last retired cluster is restored, SYS_MODE leaves DEGRADED. -/
  | degradedExit
  /-- LOG_POP (R450): A write to BWTR_LOG_POP removes the oldest log entry. -/
  | logPop
  /-- FAULT_INJECTION (R452): A write to BWTR_INJ registers an injected detector on a logical core. -/
  | faultInjection (ini : Initiator) (v : Word)
  /-- INJECTED_FAULT_RAISE (R452): The awaited event occurs and the injected detector fires. -/
  | injectedFaultRaise (lcore : Fin 128) (dt : Nat)
  /-- VERIFY (R468): Runs checks 1 to 15 on the staged image without applying. -/
  | verify (ini : Initiator)
  /-- PITCH (R472): Checks the staged image and begins a full pitch or a partial re-pitch. -/
  | pitch (ini : Initiator)
  /-- FETCH (R480): Copies flash slot A or B into the staging window. -/
  | fetch (ini : Initiator) (slot : Bool)
  /-- STORE (R481): Writes the staged image into a flash slot with its trailer. -/
  | store (ini : Initiator) (slot : Bool)
  /-- ARB_COMMIT (R482): Journals and raises QFA_FLOOR to QFA_VER. -/
  | arbCommit (ini : Initiator)
  /-- ABANDON (R471): Returns the loader to IDLE with code 16 where accepted. -/
  | abandon (ini : Initiator)
  /-- QFA_CMD_UNDEFINED (R471): A QFA_CMD code 0 or 7 has no effect and sets cmd_err. -/
  | qfaCmdUndefined (ini : Initiator) (seven : Bool)
  /-- CHECKS_COMPLETE (R468): The loader's reading and checks end with done, fail or the wait for B0. -/
  | checksComplete
  /-- FETCH_COMPLETE (R684): The flash copy ends and the tag is kept with the staged length. -/
  | fetchComplete
  /-- STORE_COMPLETE (R481): The commit byte of the slot is programmed and STORE ends. -/
  | storeComplete
  /-- PITCH_B0 (R472): At the next tide frame boundary the device enters PITCH, stops cores and enters APPLY. -/
  | pitchB0
  /-- APPLY_END (R473): The loader has applied every section and sets QFA_HASH, QFA_VER and done. -/
  | applyEnd
  /-- RELEASE_POINT (R473): At the first tide frame boundary after APPLY the device enters RUN or DEGRADED. -/
  | releasePoint (us : Nat)
  /-- STAGED_READ_UE (R474): An uncorrectable error on a staged read ends the loader command with code 17. -/
  | stagedReadUe (addr : BitVec 44)
  /-- REPITCH_STOP (R476): At PTn's next frame compare fire its cores stop and the partial APPLY begins. -/
  | repitchStop
  /-- REPITCH_APPLY_END (R477): Partial APPLY ends and compare 224 + n is programmed. -/
  | repitchApplyEnd
  /-- REPITCH_START (R477): At the first fire PTn's entries take effect and its threads start. -/
  | repitchStart
  /-- FABRIC_ACCESS (R314): A bank grants a beat, which reads or writes the memory or fails. -/
  | fabricAccess (id : Nat) (g : GrantInfo)
  /-- ECC_WRITE_BACK (R321): The corrected word is written back when the bank is free. -/
  | eccWriteBack (word : WbInfo)
  /-- REQUEST_LIFT (R308): A class 2, 3 or 4 request waits 22, 10 or 56 FCLK and becomes lifted. -/
  | requestLift (q : LiftInfo)
  /-- LOCAL_STARVATION (R302): An external local-bank wait exceeds MEMC_LSTARV_LIM and is recorded. -/
  | localStarvation (slot : Fin 144) (wait : Nat)
  /-- SCRUB_PASS_START (R325): Every period × 10 ms a scrub pass starts, or scrub_late is set. -/
  | scrubPassStart (eng : Fin 17)
  /-- SCRUB_WORD_READ (R324): The scrubber reads a word, corrects or logs it. -/
  | scrubWordRead (eng : Fin 17) (word : BitVec 44) (ecc : ScrubInfo)
  /-- SCRUB_PASS_END (R325): A pass finishes; the Reservoir engine counts it. -/
  | scrubPassEnd (eng : Fin 17)
  /-- BANK_WAKE_COMPLETE (R328): The bank is ON and queued accesses are served. -/
  | bankWakeComplete (unit : Fin 48) (stall : Nat)
  /-- BANK_IDLE_POWER_DOWN (R330): After MEMC_WAKE_IDLE µs without access a woken bank returns to its state. -/
  | bankIdlePowerDown (unit : Fin 48)
  /-- MEMC_UE_POP (R333): Removes the oldest uncorrectable-error log entry. -/
  | memcUePop
  /-- MOVE (R346): 1-D move with width conversion. -/
  | move (n : Fin 64)
  /-- MOVX (R346): 2-D move with strides. -/
  | movx (n : Fin 64)
  /-- FERRY_LOOP (R344): Opens a Ferry loop. -/
  | ferryLoop (n : Fin 64)
  /-- ENDL (R344): Decrements and closes or repeats the innermost loop. -/
  | endl (n : Fin 64)
  /-- WAIT_TIDE_COMPARE (R353): WAIT kind 0 on a tide compare. -/
  | waitTideCompare (n : Fin 64)
  /-- WAIT_EVENT_FIFO (R354): WAIT kind 1 on an event FIFO level. -/
  | waitEventFifo (n : Fin 64)
  /-- WAIT_FLAG (R354): WAIT kind 2 on a Ferry flag, optionally taking it. -/
  | waitFlag (n : Fin 64)
  /-- FERRY_WAIT_RELEASE (R353): A registered Ferry WAIT releases and the channel continues. -/
  | ferryWaitRelease (n : Fin 64)
  /-- SIGNAL_INTERRUPT (R356): After writes drain, sets FRYn_STAT.sig. -/
  | signalInterrupt (n : Fin 64)
  /-- SIGNAL_SET_FLAG (R356): After writes drain, sets a Ferry flag. -/
  | signalSetFlag (n : Fin 64)
  /-- SIGNAL_CLEAR_FLAG (R356): After writes drain, clears a Ferry flag. -/
  | signalClearFlag (n : Fin 64)
  /-- FENCE (R357): Waits for the channel's writes and checks the fault record. -/
  | fence (n : Fin 64)
  /-- CRC_INIT (R352): Sets the check mode and seed. -/
  | crcInit (n : Fin 64)
  /-- CRC_FOLD (R352): Reads and folds bytes into the running check. -/
  | crcFold (n : Fin 64)
  /-- CRC_STORE (R352): Writes the running check after earlier writes complete. -/
  | crcStore (n : Fin 64)
  /-- PARK (R365): Arms a snoop on the PARK word's bank and enters PARKED. -/
  | park (n : Fin 64)
  /-- PARK_WAKE (R366): A granted write to the snooped bank wakes the channel to refetch. -/
  | parkWake (n : Fin 64)
  /-- JUMP (R342): Continues at the target, discarding held program words. -/
  | jump (n : Fin 64)
  /-- END (R345): Waits as a FENCE and ends the program. -/
  | endProg (n : Fin 64)
  /-- FERRY_NOP (R343): Ferry instruction with no effect. -/
  | ferryNop (n : Fin 64)
  /-- FERRY_FETCH (R342): A program block arrives or its fetch faults. -/
  | ferryFetch (n : Fin 64) (id : Nat)
  /-- FERRY_READ_DATA (R358): A read beat returns data or a fault sends the channel to ERROR. -/
  | ferryReadData (n : Fin 64) (id : Nat)
  /-- FERRY_WRITE_ACK (R350): A write beat is acknowledged or faults, advancing half, full, pause or completion. -/
  | ferryWriteAck (n : Fin 64) (id : Nat)
  /-- START (R372): Ferry command START runs the channel at FRYn_PC. -/
  | start (n : Fin 64)
  /-- PAUSE (R359): Ferry command PAUSE stops reads and pauses with exact state. -/
  | pause (n : Fin 64)
  /-- RESUME (R360): Ferry command RESUME returns to the paused state. -/
  | resume (n : Fin 64)
  /-- STOP (R361): Ferry command STOP halts at an instruction boundary. -/
  | stop (n : Fin 64)
  /-- ABORT (R362): Ferry command ABORT kills the channel or reports late. -/
  | abort (x : AbortInfo)
  /-- CLEAR (R373): Ferry command CLEAR returns the channel to IDLE. -/
  | clear (n : Fin 64)
  /-- FERRY_CMD_UNDEFINED (R724): A FRYn_CMD code 0 or 7 sets cmd_err. -/
  | ferryCmdUndefined (n : Fin 64)
  /-- FERRY_PC_WRITE (R373): Writes to PC or check registers take effect only in halted states. -/
  | ferryPcWrite (n : Fin 64) (which : Fin 4) (v : Word)
  /-- FLAG_SET (R355): FRY_FLAG_SET sets Ferry flags. -/
  | flagSet (hi : Bool) (v : Word)
  /-- FLAG_CLR (R355): FRY_FLAG_CLR clears Ferry flags. -/
  | flagClr (hi : Bool) (v : Word)
  /-- SAP_FRAME (R491): A SAP frame starts and carries input of period p + 1 and output of p − 2mN. -/
  | sapFrame (n : Fin 64) (bclk : Nat) (din : List (Bool × Bool))
  /-- FRAME_MISSING (R503): No start edge after F BCLK; the port frames itself and sets sync_lost after 4. -/
  | frameMissing (n : Fin 64) (din : List (Bool × Bool))
  /-- BCLK_LOST (R504): No BCLK edge for 256 TKCLK; the group flags clk_lost. -/
  | bclkLost (g : Fin 8)
  /-- BCLK_RETURN (R504): Bit-clock edges return and clk_ok is set. -/
  | bclkReturn (g : Fin 8)
  /-- SAP_INPUT_WRITE_ACK (R495): An input route's writes are acknowledged and the frame flag may be set. -/
  | sapInputWriteAck (id : Nat)
  /-- SAP_OUTPUT_READ (R498): An output route issues its reads for period p after the commit. -/
  | sapOutputRead (r : Nat)
  /-- SAP_GRP_CFG_WRITE (R487): A group configuration write is judged and applied or refused. -/
  | sapGrpCfgWrite (g : Fin 8) (v : Word)
  /-- SAP_CFG_WRITE (R487): A port configuration write is judged and applied or refused. -/
  | sapCfgWrite (n : Fin 64) (v : Word)
  /-- SAP_PORT_START (R487): An enabled port or group starts framing at the next sample boundary. -/
  | sapPortStart (n : Fin 64)
  /-- SAP_GATE_WRITE (R501): A software write of SAPn_GATE takes effect on the next TKCLK edge. -/
  | sapGateWrite (n : Fin 64) (v : Word)
  /-- LINK_ENABLE (R515): STRn_CTL.en rises: a nonce is drawn and training starts. -/
  | linkEnable (n : Fin 8)
  /-- LINK_RETRAIN (R517): A write of retrain forces full training. -/
  | linkRetrain (n : Fin 8)
  /-- TRAINING_END (R514): Training reaches UP or REFUSED, resuming or resetting the link epoch. -/
  | trainingEnd (n : Fin 8) (far : FarEnd)
  /-- FLIT_RECEIVE (R520): A flit arrives and is accepted, discarded or naks. -/
  | flitReceive (n : Fin 8) (flit : FlitIn)
  /-- REPLAY_TIMEOUT (R522): 2 µs without acknowledgement triggers a replay. -/
  | replayTimeout (n : Fin 8)
  /-- LINK_BUDGET_EXPIRE (R523): A flit stays unacknowledged 16 µs and the link fails to RETRAIN. -/
  | linkBudgetExpire (n : Fin 8)
  /-- LANE_LOCK_LOSS (R534): Lane lock is lost, replay is held and the link retrains. -/
  | laneLockLoss (n : Fin 8)
  /-- RD (R525): A remote read request is served. -/
  | rd (n : Fin 8) (ecc : EccHit)
  /-- WR (R525): A remote write request is served. -/
  | wr (n : Fin 8) (ecc : EccHit)
  /-- CPL (R525): A read completion ends its request. -/
  | cpl (n : Fin 8)
  /-- WACK (R525): Write acknowledgements end their requests. -/
  | wack (n : Fin 8)
  /-- PWFN (R525): A posted-write fault notice ends a write with an error. -/
  | pwfn (n : Fin 8)
  /-- TRANSACTION_TIMEOUT (R530): An outstanding transaction times out after its link left UP. -/
  | transactionTimeout (n : Fin 8) (tag : Fin 256)
  /-- WFQ_POP (R533): Removes the oldest write-fault queue entry. -/
  | wfqPop (n : Fin 8)
  /-- STR_TTO_WRITE (R531): A write of STRn_TTO below 64 µs is ignored and sets cfg_err. -/
  | strTtoWrite (n : Fin 8) (v : Word)
  /-- STREAM_BLOCK_SEND (R536): After a commit, an output stream sends the frame's block. -/
  | streamBlockSend (r : Nat)
  /-- STREAM_FLIT (R539): A stream flit is held, completes a block or is dropped. -/
  | streamFlit (n : Fin 8)
  /-- STREAM_BLOCK_DEADLINE (R539): 2 µs before the boundary incomplete blocks are written with zeros. -/
  | streamBlockDeadline (pt : Fin 32)
  /-- HELLO (R540): A HELLO is recorded and admission or quarantine is decided. -/
  | hello (n : Fin 8)
  /-- HELLO_TIMER (R540): Every 1 ms a member sends HELLO on its UP links. -/
  | helloTimer
  /-- BEACON (R543): A keeper beacon updates time lock, membership and beat position. -/
  | beacon (n : Fin 8)
  /-- TEMPO (R545): A TEMPO message is pushed into the member's tempo queue. -/
  | tempo (n : Fin 8)
  /-- DELAY (R541): A DELAY message updates the link's one-way delay. -/
  | delay (n : Fin 8) (rtt : Option Nat) (turn : Nat)
  /-- DELAY_TIMER (R541): Every 1 ms a link starts a DELAY measurement. -/
  | delayTimer (n : Fin 8)
  /-- MEMBER_LOSS (R549): No link to a member UP for CAMP_LOSS ms; it is removed. -/
  | memberLoss (m : Fin 8)
  /-- COMMAND_FRAGMENT (R589): A COMMAND fragment is gathered into an envelope. -/
  | commandFragment (n : Fin 8)
  /-- RESPONSE_FRAGMENT (R589): A RESPONSE fragment is received. -/
  | responseFragment (n : Fin 8)
  /-- PCIE_LINK_UP (R555): PCI Express training settles a speed and width. -/
  | pcieLinkUp (gen : Fin 8) (width : Fin 16)
  /-- PCIE_MEMORY_READ (R558): A host BAR read is split, checked and completed. -/
  | pcieMemoryRead (bar : Fin 3) (off : Nat) (len : Nat) (eccs : List EccHit)
  /-- PCIE_MEMORY_WRITE (R558): A host BAR write is split, checked and issued. -/
  | pcieMemoryWrite (bar : Fin 3) (off : Nat) (data : List Byte) (be : HostMask)
  /-- MSIX_UNMASK (R560): Clearing a mask sends a pending vector's message. -/
  | msixUnmask (en : Bool) (mask : Bool)
  /-- FUNCTION_RESET (R564): PERST_N, hot reset, link down or FLR resets the function and mailbox. -/
  | functionReset (kind : Fin 4)
  /-- MB_IN_WRITE (R563): A mailbox write is taken or discarded while busy. -/
  | mbInWrite (k : Fin 1024) (v : Word)
  /-- MB_GO (R562): The host hands the mailbox envelope to the command processor. -/
  | mbGo (len : Word)
  /-- MB_ACK (R562): Clears the mailbox resp bit. -/
  | mbAck (v : Word)
  /-- ETH_MODE_TIMEOUT (R566): After 20 ms without lock the port tries the next mode. -/
  | ethModeTimeout (p : Fin 2)
  /-- ETH_LINK_LOSS (R566): Loss of lock sets the link down and restarts the mode cycle. -/
  | ethLinkLoss (p : Fin 2)
  /-- ETH_FRAME_RECEIVE (R568): A received frame is classified and dispatched. -/
  | ethFrameReceive (p : Fin 2) (bytes : List Byte) (bad : Bool) (now : BitVec 64)
  /-- ETH_FRAME_SEND (R567): The port transmits the next frame in strict priority order. -/
  | ethFrameSend (p : Fin 2) (gainA : Nat) (gainB : Nat) (now : BitVec 64)
  /-- AAF_TALKER_SEND (R570): After a commit the talker sends the frame's PDUs. -/
  | aafTalkerSend (e : Fin 64)
  /-- CRF_TALKER_SEND (R573): A CRF talker sends one PDU per tide frame. -/
  | crfTalkerSend (e : Fin 64)
  /-- LISTENER_FILL (R572): 2 µs before a frame boundary missing listener samples are zeroed. -/
  | listenerFill (pt : Fin 32)
  /-- STREAM_ENTRY_CFG_WRITE (R574): A talker or listener CFG write is judged and applied or refused. -/
  | streamEntryCfgWrite (talker : Bool) (e : Fin 64) (v : Word)
  /-- TXH_WRITE (R576): A frame length is accepted or refused with tx_full. -/
  | txhWrite (p : Fin 2) (v : Word)
  /-- TXF_WRITE (R576): A word of the accepted frame enters the transmit FIFO. -/
  | txfWrite (p : Fin 2) (v : Word)
  /-- RXF_READ (R575): A read returns and removes the next receive FIFO word. -/
  | rxfRead (p : Fin 2)
  /-- PTP_SET (R569): A write of ETHp_PTP_SET_HI applies the grandmaster start time. -/
  | ptpSet (p : Fin 2) (v : Word) (now : BitVec 64)
  /-- MR4_POLL (R582): Every 16 ms the controller reads MR4 and sets the refresh rate. -/
  | mr4Poll (r0 : BitVec 5) (r1 : BitVec 5)
  /-- DDR_TRACKING (R581): Every DDRC_TRK ms a tracking pause runs. -/
  | ddrTracking (ok : Bool)
  /-- FLASH_RENEGOTIATE (R585): A write of reneg renegotiates the flash mode. -/
  | flashRenegotiate (v : Word)
  /-- COMMAND_ENVELOPE (R591): The processor takes one envelope and runs the acceptance steps. -/
  | commandEnvelope
  /-- SET_MODE_ANCHOR_RESET (R597): After the response is read out or 1 ms, the WARM reset begins. -/
  | setModeAnchorReset (ms : Bool)
  /-- SEC_CP_GO (R588): The control port hands its envelope to the command processor. -/
  | secCpGo (v : Word)
  /-- SEC_CP_ACK (R588): Clears the control-port resp bit. -/
  | secCpAck (v : Word)
  /-- JOURNAL_APPEND (R599): JRNL_WR appends a Landward record, compacting first if needed. -/
  | journalAppend (ini : Initiator) (v : Word)
  /-- JOURNAL_READ (R605): JRNL_RD copies the record in force into JRNL_RBUF. -/
  | journalRead (ini : Initiator) (v : Word)
  /-- EVI_PIN_CHANGE (R609): An event input changes level and a filter run starts or a glitch is counted. -/
  | eviPinChange (pin : Fin 128) (level : Bool) (dt : Nat)
  /-- EVI_CHANGE_ACCEPT (R609): A change holds for n × s EVCLK and is accepted by the pin's detector. -/
  | eviChangeAccept (pin : Fin 128) (dt : Nat)
  /-- EVI_ENTRY_POP (R620): A read of EVI_Gg_E3 removes the oldest entry. -/
  | eviEntryPop (g : Fin 16)
  /-- EVI_FLUSH (R620): A write of EVI_Gg_FLUSH empties the FIFO. -/
  | eviFlush (g : Fin 16) (v : Word)
  /-- EVI_PIN_CFG_WRITE (R618): A write of EVI_Gg_PINi resets the pin's detector. -/
  | eviPinCfgWrite (pin : Fin 128) (v : Word)
  /-- QPOS_WRITE (R616): A write sets a quadrature position. -/
  | qposWrite (g : Fin 16) (k : Fin 4) (v : Word)
  /-- GPIO_SET (R624): Sets GPIO_OUT bits. -/
  | gpioSet (k : Fin 3) (v : Word)
  /-- GPIO_CLR (R624): Clears GPIO_OUT bits. -/
  | gpioClr (k : Fin 3) (v : Word)
  /-- GPIO_TGL (R624): Inverts GPIO_OUT bits. -/
  | gpioTgl (k : Fin 3) (v : Word)
  /-- GPIO_OUT_WRITE (R625): A write of GPIO_OUT changes the pins within 3 TKCLK. -/
  | gpioOutWrite (k : Fin 3) (v : Word)
  /-- GPIO_INPUT_EDGE (R627): A synchronised GP pin edge sets its interrupt status. -/
  | gpioInputEdge (j : Fin 72) (level : Bool)
  /-- PIN_SWITCH (R629): A write changing func, od or OE registers a switch and holds the pad. -/
  | pinSwitch (j : Fin 72) (oe : Bool) (v : Word)
  /-- PIN_SWITCH_APPLY (R629): At e + 2 the new function's output applies. -/
  | pinSwitchApply (j : Fin 72)
  /-- OP_REQUEST (R642): A write of CKP_CL_OPc.target requests an operating point. -/
  | opRequest (c : Fin 16) (t : Fin 8)
  /-- CCLK_LOWER (R643): At a tide frame boundary a cluster divider lowers CCLK. -/
  | cclkLower (c : Fin 16)
  /-- VOUT_COMMAND_ACK (R643): The regulator acknowledges VOUT_COMMAND and vhi is updated. -/
  | voutCommandAck
  /-- READ_VOUT (R643): A READ_VOUT result advances the DVFS sequence. -/
  | readVout (mv : BitVec 16)
  /-- SETTLE_EXPIRE (R643): After settle µs vlo is raised. -/
  | settleExpire
  /-- CCLK_RAISE (R643): At a tide frame boundary a cluster divider raises CCLK. -/
  | cclkRaise (c : Fin 16)
  /-- PMBUS_TIMEOUT (R645): A PMBus transaction is NACKed or times out and is retried. -/
  | pmbusTimeout
  /-- VR_RETRY (R646): A write of CKP_VR_RETRY rereads the regulator and resumes. -/
  | vrRetry
  /-- PLL_UNLOCK (R634): A PLL loses lock and its clocks stop. -/
  | pllUnlock (p : Fin 7)
  /-- PLL_RELOCK (R634): A PLL relocks and its clocks resume. -/
  | pllRelock (p : Fin 7)
  /-- MODE_REQUEST (R648): A SYS_MODE_REQ write requests a transition or is refused. -/
  | modeRequest (ini : Initiator) (v : Word)
  /-- NEAP_ENTRY (R650): At the next boundary clusters and banks take their NEAP states. -/
  | neapEntry
  /-- NEAP_EXIT (R652): Clusters and banks return to ON and the device returns to RUN. -/
  | neapExit
  /-- SHORE_ENTRY (R653): At the next boundary SYS_MODE becomes SHORE and Seaward partitions stop. -/
  | shoreEntry
  /-- SHORE_EXIT (R653): Seaward partitions restart from thread-start records. -/
  | shoreExit
  /-- LOW_POWER_ENTRY (R654): At the next boundary the BIVOUAC or LANTERN entry sequence runs. -/
  | lowPowerEntry
  /-- WAKE (R657): An enabled wake class reaches the Lantern and is recorded. -/
  | wake (cls : Fin 5) (id : Fin 416) (dt : Nat)
  /-- BIVOUAC_RETURN (R658): After the wake the device restores power and returns to its previous mode. -/
  | bivouacReturn
  /-- LANTERN_BOOT (R659): After PMB_CTL and the internal hold the device boots as after COLD. -/
  | lanternBoot (straps : BitVec 8)
  /-- RTC_COMPARE_REACHED (R669): The RTC reaches a compare target and sets its flag. -/
  | rtcCompareReached (k : Fin 2) (dt : Nat)
  /-- WOKE_CLEAR (R669): A write of 1 to LANT_STAT.woke also clears LANT_WAKE0.valid. -/
  | wokeClear
  /-- CP_ADDRESS_MATCH (R661): The control port matches its address and acknowledges, stretches or wakes. -/
  | cpAddressMatch (a : BitVec 7)
  /-- CP_WRITE (R662): A control-port write transfer stores bytes or words. -/
  | cpWrite (off : BitVec 16) (data : List Byte)
  /-- CP_READ (R662): A control-port read transfer returns bytes. -/
  | cpRead (off : BitVec 16) (n : Nat)
  /-- EXTEST (R665): Boundary-scan test, entering TEST where permitted. -/
  | extest (bits : List Bool)
  /-- SAMPLE_PRELOAD (R664): Boundary-scan sample and preload. -/
  | samplePreload (bits : List Bool)
  /-- IDCODE (R664): Reads the 32-bit device identification. -/
  | idcode
  /-- CLAMP (R665): Holds outputs with bypass, entering TEST where permitted. -/
  | clamp
  /-- HIGHZ (R665): Floats outputs, entering TEST where permitted. -/
  | highz
  /-- EXTEST_PULSE (R665): IEEE 1149.6 pulse test. -/
  | extestPulse (bits : List Bool)
  /-- EXTEST_TRAIN (R665): IEEE 1149.6 train test. -/
  | extestTrain (bits : List Bool)
  /-- BYPASS (R664): Selects the 1-bit bypass register. -/
  | bypass (code : BitVec 8)
  /-- DBGACC (R666): Makes one 4-byte class 4 debug access or reports refused. -/
  | dbgacc (addr : BitVec 44) (data : Word) (op : Fin 4) (ecc : EccHit)
  /-- HALT_REQUEST (R666): HALTREQ with 1 stops partitions at the next frame boundary. -/
  | haltRequest
  /-- HALT_RELEASE (R666): HALTREQ with 0 resumes the mode entered from. -/
  | haltRelease
  /-- TEMP_UPDATE (R707): Every 1 ms CKP_TEMP updates and may set temp_hi. -/
  | tempUpdate (v : BitVec 12)
  /-- COLD_RESET (R671): PWRON_N falls and the whole device resets. -/
  | coldReset
  /-- POWER_ON_RELEASE (R682): PWRON_N rises; straps are sampled and the boot begins. -/
  | powerOnRelease (straps : BitVec 8)
  /-- RESET_N_LOW (R674): RESET_N falls; MUTE_N and READY drop and the hold is set. -/
  | resetNLow
  /-- WARM_RESET (R674): A recognised RESET_N low resets all but the kept items and enters ANCHOR. -/
  | warmReset
  /-- RESET_N_RISE (R674): RESET_N rises and the device leaves ANCHOR for BOOT. -/
  | resetNRise
  /-- CLUSTER_RESET (R672): A write of SYS_CLRST resets one cluster or is refused. -/
  | clusterReset (ini : Initiator) (c : Fin 16) (lost : List Nat)
  /-- CLUSTER_RESET_COMPLETE (R672): Within 20 µs the cluster's reset completes. -/
  | clusterResetComplete (c : Fin 16)
  /-- MUTE_SET (R677): A write of SYS_MUTE_SET sets the mute hold. -/
  | muteSet (ini : Initiator) (v : Word)
  /-- BOOT_FROM_FLASH (R685): The boot ROM runs the boot steps up to PITCH. -/
  | bootFromFlash (env : BootEnv)
  /-- REGISTER_WRITE (R7): A write to a register without a row of its own acts as its access code gives. -/
  | registerWrite (ini : Initiator) (addr : BitVec 44) (v : Word)
  /-- REGISTER_READ_CLEAR (R9): A read of an RC register returns its value and clears it, keeping any event of the same cycle. -/
  | registerReadClear (ini : Initiator) (addr : BitVec 44)
  /-- STRAND_SIGNAL_RETURN (R518): The far end's signal appears or returns on an enabled link, and training starts. -/
  | strandSignalReturn (n : Fin 8)
  /-- FLIT_SEND (R527): The transmitter sends the next flit of a link in the order of replays, management, due stream, completions, posted and non-posted requests, or an idle flit. -/
  | flitSend (n : Fin 8)
  /-- ETH_LINK_UP (R566): An Ethernet port locks in a mode, sets ETHp_MODE and link up and raises link_chg. -/
  | ethLinkUp (p : Fin 2)
  /-- GPTP_MESSAGE_TIMER (R569): The gPTP engine's interval timer sends peer-delay requests and, as grandmaster, Announce, Sync and Follow_Up. -/
  | gptpMessageTimer (p : Fin 2) (kind : Fin 3) (now : BitVec 64)
  /-- VR_READBACK_TIMEOUT (R645): READ_VOUT has not reached its target within CKP_VR_TMO µs of a command's acknowledgement, which is a regulator failure. -/
  | vrReadbackTimeout
  /-- JOURNAL_OPERATION_COMPLETE (R599): A journal append, read, compaction or ARB record finishes in flash: the commit byte reads back, busy clears and rec, comp, rd_done or the new floor takes effect. -/
  | journalOperationComplete (ok : Bool)
  /-- FLASH_RENEGOTIATION_COMPLETE (R585): Flash renegotiation ends, SYS_FLASH_MODE is updated and waiting flash operations proceed. -/
  | flashRenegotiationComplete (modes : BitVec 7) (sfdp : Bool)
  /-- LOW_POWER_ENTRY_COMPLETE (R654): The BIVOUAC or LANTERN entry sequence ends within 2 ms and SYS_MODE reads the new mode. -/
  | lowPowerEntryComplete
  /-- SUPPLIES_VALID (R648): The supplies become valid with PWRON_N held low and the device leaves OFF for ANCHOR. -/
  | suppliesValid
  /-- PERST_N_RELEASE (R687): PERST_N rises and the PCI Express endpoint begins link training. -/
  | perstNRelease
  deriving DecidableEq, Repr

end Sys2Proof
end

