-- ==== Sys2Proof/Decode.lean ====
section
/-! DEFINITION. The command that a word spells. The table of operations gives its rows no bits: a command reaches the block as an
access, a pin event or an event of its own, never as a word, so no word spells one. -/

namespace Sys2Proof

/-- The command that the bits of a word spell by spec/opcode_table.json: no row has bits. -/
def decodeTableWord (_ _ : Nat) : Option Instr := none

end Sys2Proof
end

