-- ==== Sys2Proof/Config.lean ====
section
/-! DEFINITION. What the implementation fixes and what the spec leaves open: opaque constants without a body, so that no
proof can lean on a value of one. -/

namespace Sys2Proof

/-- The n-th value that the random source gives (the session nonces of spec/13_strand_camps.md R515): a free value. -/
opaque Config.randomDraw : Nat → BitVec 64

/-- The 64-bit device identity in the one-time-programmable memory (spec/15_commands_journal.md Table 15-9 SEC_UID). -/
opaque Config.otpUid : BitVec 64

/-- The 256-bit key of a key slot (0 to 3) and generation (0 to 3) in the one-time-programmable memory, as 32 bytes, most
significant first (spec/15_commands_journal.md R598, spec/11_quafa.md R455). -/
opaque Config.otpKey : Nat → Nat → BitVec 256

/-- The current generation of a key slot in the one-time-programmable memory, before any KEY_ROLL (Table 15-9 SEC_KEYGEN). -/
opaque Config.otpGen : Nat → BitVec 2

/-- Whether a key slot's generation holds a key (Table 15-9 SEC_KEYGEN, Table 15-5 KEY_ROLL). -/
opaque Config.otpHolds : Nat → Nat → Bool

/-- A value that an operation leaves open: the n-th such value the machine has met. -/
opaque Config.freeValue : Nat → BitVec 64

/-- What a reserved value of an enumerated register field acts as, by field and value (spec/00_scope.md R12): see `legal` in
Machine/Ops.lean, which bounds it to the values that the field's table defines. -/
opaque Config.reservedCode : Nat → Nat → Nat

/-- Whether a fused multiply-add of zero and infinity onto a quiet NaN signals invalid: IEEE 754-2019 leaves it to the
implementation (spec/04_tuitin_operations.md R159). -/
opaque Config.fmaInvalidOnQuietNan : Bool

/-- Which words of the class X majors, in the Legacy T2 profile, are T2's long operations (spec/03_tuitin_model.md R131): by major and
function code, a function of Table 04-14 (0 to 5; T2 has no binary64), or none. No table of the spec gives T2's encodings. -/
opaque Config.t2Long : Nat → Nat → Option (Fin 6)

/-- The boundary-scan cell that gives the level of pin 0 (BCLK), 1 (FSYNC) or 2 (DOUT) of a serial audio port in TEST: the spec names the
register and not its layout (spec/17_clock_power_test.md R665). -/
opaque Config.scanCell : Nat → Nat → Nat

/-- The boundary-scan cell that enables the driver of that pin. -/
opaque Config.scanEnable : Nat → Nat → Nat

end Sys2Proof
end

