-- ==== Sys2Proof/Machine/SMap.lean ====
section
/-! DEFINITION. Sparse maps: a list of (key, value) pairs in one canonical form, keys strictly rising and no entry equal
to what an unlisted key reads as. Memory, the device registers and every table of like things in State are held so. -/

namespace Sys2Proof.Machine

/-- A sparse map from Nat keys. -/
abbrev SMap (α : Type) := List (Nat × α)

/-- The value at a key; `d` says what an unlisted key reads as. -/
def smGet {α : Type} (d : Nat → α) : SMap α → Nat → α
  | [], k => d k
  | (k', v) :: m, k => if k = k' then v else smGet d m k

/-- Insert or replace an entry, keeping the keys in rising order. -/
def smPut {α : Type} : SMap α → Nat → α → SMap α
  | [], k, v => [(k, v)]
  | (k', v') :: m, k, v =>
    if k < k' then (k, v) :: (k', v') :: m
    else if k = k' then (k, v) :: m
    else (k', v') :: smPut m k v

/-- Remove the entries of a key. -/
def smDel {α : Type} : SMap α → Nat → SMap α
  | [], _ => []
  | (k', v') :: m, k => if k = k' then smDel m k else (k', v') :: smDel m k

/-- Write a value: the value an unlisted key reads as removes the entry, so equal maps are equal lists. -/
def smSet {α : Type} [DecidableEq α] (d : Nat → α) (m : SMap α) (k : Nat) (v : α) : SMap α :=
  if v = d k then smDel m k else smPut m k v

/-- Keep the entries whose key satisfies `p`; every other key reads as unlisted again. -/
def smKeep {α : Type} (p : Nat → Bool) : SMap α → SMap α
  | [] => []
  | (k, v) :: m => if p k then (k, v) :: smKeep p m else smKeep p m

/-- Change every listed value. -/
def smMap {α : Type} [DecidableEq α] (d : Nat → α) (f : α → α) (m : SMap α) : SMap α :=
  m.foldl (fun r e => smSet d r e.1 (f e.2)) []

/-- Are all keys of the map above `k`, in rising order? -/
def smAbove {α : Type} (k : Nat) : SMap α → Bool
  | [] => true
  | (k', _) :: m => decide (k < k') && smAbove k' m

/-- The canonical form: strictly rising keys, no entry equal to what an unlisted key reads as. -/
def smWf {α : Type} [DecidableEq α] (d : Nat → α) : SMap α → Bool
  | [] => true
  | (k, v) :: m => decide (v ≠ d k) && smAbove k m && smWf d m

end Sys2Proof.Machine
end

