-- ==== Sys2Proof/Machine/RegTable.lean ====
section
/-! DEFINITION. The device registers: their physical addresses and, for each, which of its bits a write replaces
(RW), a write replaces in BOOT and PITCH alone (RWL), a written 1 clears (W1C) or sets (W1S), a read clears (RC), and
its COLD-reset value. The source is the register index (spec/20_register_index.md, Table 20-1, R712 to R714) with the
field tables of each chapter; the access codes are those of Table 00-5 (R7). -/

namespace Sys2Proof.Machine

/-- SYS_CHIPID, Table 00-2 R3. -/
abbrev aSysChipid : Nat := 0x40000000
/-- SYS_MODE, Table 17-13. -/
abbrev aSysMode : Nat := 0x40000010
/-- SYS_MODE_REQ, Table 17-13. -/
abbrev aSysModeReq : Nat := 0x40000014
/-- SYS_RST_CAUSE, Table 18-8. -/
abbrev aSysRstCause : Nat := 0x40000020
/-- SYS_STRAP, Table 18-8. -/
abbrev aSysStrap : Nat := 0x40000024
/-- SYS_BOOT_STAT, Table 18-8. -/
abbrev aSysBootStat : Nat := 0x40000028
/-- SYS_BOOT_TIME, Table 18-8. -/
abbrev aSysBootTime : Nat := 0x4000002C
/-- SYS_MUTE, Table 18-8. -/
abbrev aSysMute : Nat := 0x40000030
/-- SYS_MUTE_SET, Table 18-8. -/
abbrev aSysMuteSet : Nat := 0x40000034
/-- SYS_CLRST, Table 18-8. -/
abbrev aSysClrst : Nat := 0x40000040
/-- SYS_CLRST_STAT, Table 18-8. -/
abbrev aSysClrstStat : Nat := 0x40000044
/-- SYS_FLASH_CAP, Table 14-12. -/
abbrev aSysFlashCap : Nat := 0x40000100
/-- SYS_FLASH_MODE, Table 14-12. -/
abbrev aSysFlashMode : Nat := 0x40000104
/-- SYS_FLASH_ID, Table 14-12. -/
abbrev aSysFlashId : Nat := 0x40000108
/-- SYS_FLASH_SIZE, Table 14-12. -/
abbrev aSysFlashSize : Nat := 0x4000010C
/-- SYS_FLASH_CTL, Table 14-12. -/
abbrev aSysFlashCtl : Nat := 0x40000110
/-- TIDE_CFG, Table 02-8. -/
abbrev aTideCfg : Nat := 0x40010000
/-- TIDE_REF, Table 02-9. -/
abbrev aTideRef : Nat := 0x40010004
/-- TIDE_HOLD, Table 02-10. -/
abbrev aTideHold : Nat := 0x40010008
/-- TIDE_STAT, Table 02-11. -/
abbrev aTideStat : Nat := 0x4001000C
/-- TIDE_IEN, Table 02-11. -/
abbrev aTideIen : Nat := 0x40010010
/-- TIDE_PERR, Table 02-7. -/
abbrev aTidePerr : Nat := 0x40010014
/-- TIDE_FERR, Table 02-7. -/
abbrev aTideFerr : Nat := 0x40010018
/-- TIDE_STEP_AMT, Table 02-7. -/
abbrev aTideStepAmt : Nat := 0x4001001C
/-- TIDE_STEP_AT_LO, Table 02-7. -/
abbrev aTideStepAtLo : Nat := 0x40010020
/-- TIDE_STEP_AT_HI, Table 02-7. -/
abbrev aTideStepAtHi : Nat := 0x40010024
/-- TIDE_STAMP_LO, Table 02-7. -/
abbrev aTideStampLo : Nat := 0x40010030
/-- TIDE_STAMP_HI, Table 02-7. -/
abbrev aTideStampHi : Nat := 0x40010034
/-- TIDE_SNAP, Table 02-7. -/
abbrev aTideSnap : Nat := 0x40010038
/-- TIDE_SNAP_CNT_LO, Table 02-7. -/
abbrev aTideSnapCntLo : Nat := 0x40010040
/-- TIDE_SNAP_CNT_HI, Table 02-7. -/
abbrev aTideSnapCntHi : Nat := 0x40010044
/-- TIDE_SNAP_PHASE, Table 02-7. -/
abbrev aTideSnapPhase : Nat := 0x40010048
/-- TIDE_SNAP_BEAT_LO, Table 02-7. -/
abbrev aTideSnapBeatLo : Nat := 0x4001004C
/-- TIDE_SNAP_BEAT_HI, Table 02-7. -/
abbrev aTideSnapBeatHi : Nat := 0x40010050
/-- TIDE_SNAP_FRAME, Table 02-7. -/
abbrev aTideSnapFrame : Nat := 0x40010054
/-- TIDE_FRAME, Table 02-7. -/
abbrev aTideFrame : Nat := 0x40010060
/-- TIDE_FRAME_START_LO, Table 02-7. -/
abbrev aTideFrameStartLo : Nat := 0x40010064
/-- TIDE_FRAME_START_HI, Table 02-7. -/
abbrev aTideFrameStartHi : Nat := 0x40010068
/-- TIDE_FRAME_POS, Table 02-7. -/
abbrev aTideFramePos : Nat := 0x4001006C
/-- TIDE_BEAT_LO, Table 02-7. -/
abbrev aTideBeatLo : Nat := 0x40010080
/-- TIDE_BEAT_HI, Table 02-7. -/
abbrev aTideBeatHi : Nat := 0x40010084
/-- TIDE_TEMPO_LO, Table 02-7. -/
abbrev aTideTempoLo : Nat := 0x40010088
/-- TIDE_TEMPO_HI, Table 02-7. -/
abbrev aTideTempoHi : Nat := 0x4001008C
/-- TIDE_TQ_AT_LO, Table 02-7. -/
abbrev aTideTqAtLo : Nat := 0x40010090
/-- TIDE_TQ_AT_HI, Table 02-7. -/
abbrev aTideTqAtHi : Nat := 0x40010094
/-- TIDE_TQ_VAL_LO, Table 02-7. -/
abbrev aTideTqValLo : Nat := 0x40010098
/-- TIDE_TQ_VAL_HI, Table 02-7. -/
abbrev aTideTqValHi : Nat := 0x4001009C
/-- TIDE_TQ_PUSH, Table 02-14. -/
abbrev aTideTqPush : Nat := 0x400100A0
/-- TIDE_TQ_STAT, Table 02-7. -/
abbrev aTideTqStat : Nat := 0x400100A4
/-- TIDE_TQ_FLUSH, Table 02-7. -/
abbrev aTideTqFlush : Nat := 0x400100A8
/-- TIDE_CKO, Table 02-14. -/
abbrev aTideCko (i : Nat) : Nat := 0x400100C0 + 0x4 * i
/-- TIDE_ORG_LO, Table 02-7. -/
abbrev aTideOrgLo : Nat := 0x400100D0
/-- TIDE_ORG_HI, Table 02-7. -/
abbrev aTideOrgHi : Nat := 0x400100D4
/-- TIDE_CMP_PEND, Table 02-7. -/
abbrev aTideCmpPend (i : Nat) : Nat := 0x40010100 + 0x4 * i
/-- TIDE_CMP_LATE, Table 02-7. -/
abbrev aTideCmpLate (i : Nat) : Nat := 0x40010120 + 0x4 * i
/-- TIDE_CMP_TGT_LO, Table 02-7. -/
abbrev aTideCmpTgtLo (i : Nat) : Nat := 0x40011000 + 0x20 * i
/-- TIDE_CMP_TGT_HI, Table 02-7. -/
abbrev aTideCmpTgtHi (i : Nat) : Nat := 0x40011004 + 0x20 * i
/-- TIDE_CMP_CTL, Table 02-12. -/
abbrev aTideCmpCtl (i : Nat) : Nat := 0x40011008 + 0x20 * i
/-- TIDE_CMP_ACT, Table 02-13. -/
abbrev aTideCmpAct (i : Nat) : Nat := 0x4001100C + 0x20 * i
/-- TIDE_CMP_PER, Table 02-7. -/
abbrev aTideCmpPer (i : Nat) : Nat := 0x40011010 + 0x20 * i
/-- TIDE_CMP_CNT, Table 02-7. -/
abbrev aTideCmpCnt (i : Nat) : Nat := 0x40011014 + 0x20 * i
/-- IC_CLAIM, Table 09-6. -/
abbrev aIcClaim : Nat := 0x40020000
/-- IC_DONE, Table 09-5. -/
abbrev aIcDone : Nat := 0x40020004
/-- IC_DBELL, Table 09-6. -/
abbrev aIcDbell : Nat := 0x40020008
/-- IC_STAT, Table 09-6. -/
abbrev aIcStat : Nat := 0x40020010
/-- IC_SPUR, Table 09-5. -/
abbrev aIcSpur : Nat := 0x40020014
/-- IC_PEND, Table 09-5 (k = 1-12). -/
abbrev aIcPend (i : Nat) : Nat := 0x40020104 + 0x4 * i
/-- IC_PEND_SET, Table 09-5 (k = 1-12). -/
abbrev aIcPendSet (i : Nat) : Nat := 0x40020144 + 0x4 * i
/-- IC_PEND_CLR, Table 09-5 (k = 1-12). -/
abbrev aIcPendClr (i : Nat) : Nat := 0x40020184 + 0x4 * i
/-- IC_MASK, Table 09-5 (k = 1-12). -/
abbrev aIcMask (i : Nat) : Nat := 0x400201C4 + 0x4 * i
/-- IC_MASK_SET, Table 09-5 (k = 1-12). -/
abbrev aIcMaskSet (i : Nat) : Nat := 0x40020204 + 0x4 * i
/-- IC_MASK_CLR, Table 09-5 (k = 1-12). -/
abbrev aIcMaskClr (i : Nat) : Nat := 0x40020244 + 0x4 * i
/-- IC_LEVEL, Table 09-5 (k = 1-12). -/
abbrev aIcLevel (i : Nat) : Nat := 0x40020284 + 0x4 * i
/-- IC_ACTIVE, Table 09-5 (k = 1-12). -/
abbrev aIcActive (i : Nat) : Nat := 0x400202C4 + 0x4 * i
/-- IC_CNT, Table 09-5 (j = 8-103). -/
abbrev aIcCnt (i : Nat) : Nat := 0x40020420 + 0x4 * i
/-- IC_LW, Table 09-6. -/
abbrev aIcLw (i : Nat) : Nat := 0x40020800 + 0x4 * i
/-- IC_SRC_CFG, Table 09-6 (n = 32-415). -/
abbrev aIcSrcCfg (i : Nat) : Nat := 0x40021080 + 0x4 * i
/-- IC_RUN, Table 09-6. -/
abbrev aIcRun (i : Nat) : Nat := 0x40022000 + 0x4 * i
/-- BWTR_CFG, Table 10-7. -/
abbrev aBwtrCfg : Nat := 0x40030000
/-- BWTR_STAT, Table 10-7. -/
abbrev aBwtrStat : Nat := 0x40030004
/-- BWTR_LOG_CNT, Table 10-6. -/
abbrev aBwtrLogCnt : Nat := 0x40030010
/-- BWTR_LOG_LOST, Table 10-6. -/
abbrev aBwtrLogLost : Nat := 0x40030014
/-- BWTR_LOG_W, Table 10-5. -/
abbrev aBwtrLogW (i : Nat) : Nat := 0x40030020 + 0x4 * i
/-- BWTR_LOG_POP, Table 10-6. -/
abbrev aBwtrLogPop : Nat := 0x40030038
/-- BWTR_INJ, Table 10-7. -/
abbrev aBwtrInj : Nat := 0x40030040
/-- BWTR_SLOTMAP, Table 10-6. -/
abbrev aBwtrSlotmap (i : Nat) : Nat := 0x40030080 + 0x4 * i
/-- BWTR_CSTAT, Table 10-7. -/
abbrev aBwtrCstat (i : Nat) : Nat := 0x400300C0 + 0x4 * i
/-- BWTR_CEVT, Table 10-7. -/
abbrev aBwtrCevt (i : Nat) : Nat := 0x40030100 + 0x4 * i
/-- BWTR_CIEN, Table 10-6. -/
abbrev aBwtrCien (i : Nat) : Nat := 0x40030140 + 0x4 * i
/-- BWTR_CFLT, Table 10-6. -/
abbrev aBwtrCflt (i : Nat) : Nat := 0x40030180 + 0x4 * i
/-- BWTR_PT_CW_LO, Table 10-6. -/
abbrev aBwtrPtCwLo (i : Nat) : Nat := 0x40031000 + 0x20 * i
/-- BWTR_PT_CW_HI, Table 10-6. -/
abbrev aBwtrPtCwHi (i : Nat) : Nat := 0x40031004 + 0x20 * i
/-- BWTR_PT_STAT, Table 10-7. -/
abbrev aBwtrPtStat (i : Nat) : Nat := 0x40031008 + 0x20 * i
/-- BWTR_PT_REPLAY, Table 10-6. -/
abbrev aBwtrPtReplay (i : Nat) : Nat := 0x4003100C + 0x20 * i
/-- BWTR_PT_BRIDGE, Table 10-6. -/
abbrev aBwtrPtBridge (i : Nat) : Nat := 0x40031010 + 0x20 * i
/-- BWTR_PT_SLIP, Table 10-6. -/
abbrev aBwtrPtSlip (i : Nat) : Nat := 0x40031014 + 0x20 * i
/-- BWTR_PT_MAXRUN, Table 10-6. -/
abbrev aBwtrPtMaxrun (i : Nat) : Nat := 0x40031018 + 0x20 * i
/-- QFA_CMD, Table 11-15. -/
abbrev aQfaCmd : Nat := 0x40040000
/-- QFA_STAT, Table 11-15. -/
abbrev aQfaStat : Nat := 0x40040004
/-- QFA_IEN, Table 11-14. -/
abbrev aQfaIen : Nat := 0x40040008
/-- QFA_ERR, Table 11-15. -/
abbrev aQfaErr : Nat := 0x4004000C
/-- QFA_ERR_AUX, Table 11-15. -/
abbrev aQfaErrAux : Nat := 0x40040010
/-- QFA_STG_BASE, Table 11-14. -/
abbrev aQfaStgBase : Nat := 0x40040018
/-- QFA_STG_BASE_HI, Table 11-14. -/
abbrev aQfaStgBaseHi : Nat := 0x4004001C
/-- QFA_STG_LIM, Table 11-14. -/
abbrev aQfaStgLim : Nat := 0x40040020
/-- QFA_HASH, Table 11-14. -/
abbrev aQfaHash : Nat := 0x40040028
/-- QFA_HASH_HI, Table 11-14. -/
abbrev aQfaHashHi : Nat := 0x4004002C
/-- QFA_VER, Table 11-14. -/
abbrev aQfaVer : Nat := 0x40040030
/-- QFA_FLOOR, Table 11-14. -/
abbrev aQfaFloor : Nat := 0x40040034
/-- QFA_SLOTA_OFF, Table 11-14. -/
abbrev aQfaSlotaOff : Nat := 0x40040038
/-- QFA_SLOTB_OFF, Table 11-14. -/
abbrev aQfaSlotbOff : Nat := 0x4004003C
/-- QFA_SLOT_SIZE, Table 11-14. -/
abbrev aQfaSlotSize : Nat := 0x40040040
/-- QFA_SLOTA_INFO, Table 11-14. -/
abbrev aQfaSlotaInfo : Nat := 0x40040044
/-- QFA_SLOTB_INFO, Table 11-14. -/
abbrev aQfaSlotbInfo : Nat := 0x40040048
/-- QFA_GAP, Table 11-14. -/
abbrev aQfaGap : Nat := 0x40040050
/-- CKP_STAT, Table 17-12. -/
abbrev aCkpStat : Nat := 0x40050000
/-- CKP_IEN, Table 17-11. -/
abbrev aCkpIen : Nat := 0x40050004
/-- CKP_CL_OP, Table 17-11. -/
abbrev aCkpClOp (i : Nat) : Nat := 0x40050010 + 0x4 * i
/-- CKP_VR_CFG, Table 17-11. -/
abbrev aCkpVrCfg : Nat := 0x40050050
/-- CKP_VR_STAT, Table 17-11. -/
abbrev aCkpVrStat : Nat := 0x40050054
/-- CKP_VR_VOUT, Table 17-11. -/
abbrev aCkpVrVout : Nat := 0x40050058
/-- CKP_VR_TMO, Table 17-11. -/
abbrev aCkpVrTmo : Nat := 0x4005005C
/-- CKP_VR_RETRY, Table 17-11. -/
abbrev aCkpVrRetry : Nat := 0x40050060
/-- CKP_PLL_STAT, Table 17-11. -/
abbrev aCkpPllStat : Nat := 0x40050070
/-- CKP_NEAP_CL, Table 17-11. -/
abbrev aCkpNeapCl : Nat := 0x40050080
/-- CKP_CL_PWR, Table 17-11. -/
abbrev aCkpClPwr : Nat := 0x40050084
/-- CKP_TEMP, Table 17-11. -/
abbrev aCkpTemp : Nat := 0x40050090
/-- CKP_TEMP_HI, Table 17-11. -/
abbrev aCkpTempHi : Nat := 0x40050094
/-- CKP_XRST_CNT, Table 17-11. -/
abbrev aCkpXrstCnt : Nat := 0x400500A0
/-- CKP_XDROP, Table 17-11. -/
abbrev aCkpXdrop : Nat := 0x400500A4
/-- CKP_XLAST, Table 17-11. -/
abbrev aCkpXlast : Nat := 0x400500A8
/-- LANT_STAT, Table 17-15. -/
abbrev aLantStat : Nat := 0x40060000
/-- LANT_IEN, Table 17-14. -/
abbrev aLantIen : Nat := 0x40060004
/-- LANT_WAKE_EN, Table 17-14. -/
abbrev aLantWakeEn : Nat := 0x40060010
/-- LANT_WAKE, Table 17-14. -/
abbrev aLantWake (i : Nat) : Nat := 0x40060020 + 0x4 * i
/-- LANT_RTC_LO, Table 17-14. -/
abbrev aLantRtcLo : Nat := 0x40060030
/-- LANT_RTC_HI, Table 17-14. -/
abbrev aLantRtcHi : Nat := 0x40060034
/-- LANT_RTCCMP_LO, Table 17-14. -/
abbrev aLantRtccmpLo (i : Nat) : Nat := 0x40060040 + 0x8 * i
/-- LANT_RTCCMP_HI, Table 17-14. -/
abbrev aLantRtccmpHi (i : Nat) : Nat := 0x40060044 + 0x8 * i
/-- LANT_CP_CFG, Table 17-14. -/
abbrev aLantCpCfg : Nat := 0x40060060
/-- LANT_PWR_DLY, Table 17-14. -/
abbrev aLantPwrDly : Nat := 0x40060064
/-- LANT_RAM_ADDR, Table 17-14. -/
abbrev aLantRamAddr : Nat := 0x40060070
/-- LANT_RAM_DATA, Table 17-14. -/
abbrev aLantRamData : Nat := 0x40060074
/-- SEC_STAT, Table 15-10. -/
abbrev aSecStat : Nat := 0x40070000
/-- SEC_IEN, Table 15-9. -/
abbrev aSecIen : Nat := 0x40070004
/-- SEC_UID_LO, Table 15-9. -/
abbrev aSecUidLo : Nat := 0x40070008
/-- SEC_UID_HI, Table 15-9. -/
abbrev aSecUidHi : Nat := 0x4007000C
/-- SEC_KEYGEN, Table 15-9. -/
abbrev aSecKeygen : Nat := 0x40070010
/-- SEC_FLOOR_LO, Table 15-9. -/
abbrev aSecFloorLo (i : Nat) : Nat := 0x40070020 + 0x8 * i
/-- SEC_FLOOR_HI, Table 15-9. -/
abbrev aSecFloorHi (i : Nat) : Nat := 0x40070024 + 0x8 * i
/-- SEC_CEIL_LO, Table 15-9. -/
abbrev aSecCeilLo (i : Nat) : Nat := 0x40070040 + 0x8 * i
/-- SEC_CEIL_HI, Table 15-9. -/
abbrev aSecCeilHi (i : Nat) : Nat := 0x40070044 + 0x8 * i
/-- SEC_DBG, Table 15-9. -/
abbrev aSecDbg : Nat := 0x40070060
/-- SEC_CMD_CNT, Table 15-9. -/
abbrev aSecCmdCnt : Nat := 0x40070064
/-- SEC_CMD_REJ, Table 15-9. -/
abbrev aSecCmdRej : Nat := 0x40070068
/-- SEC_LAST, Table 15-9. -/
abbrev aSecLast : Nat := 0x4007006C
/-- SEC_CP_IN, Table 15-9. -/
abbrev aSecCpIn (i : Nat) : Nat := 0x40071000 + 0x4 * i
/-- SEC_CP_OUT, Table 15-9. -/
abbrev aSecCpOut (i : Nat) : Nat := 0x40072000 + 0x4 * i
/-- SEC_CP_GO, Table 15-9. -/
abbrev aSecCpGo : Nat := 0x40073000
/-- SEC_CP_STAT, Table 15-9. -/
abbrev aSecCpStat : Nat := 0x40073004
/-- SEC_CP_ACK, Table 15-9. -/
abbrev aSecCpAck : Nat := 0x40073008
/-- JRNL_STAT, Table 15-12. -/
abbrev aJrnlStat : Nat := 0x40080000
/-- JRNL_IEN, Table 15-11. -/
abbrev aJrnlIen : Nat := 0x40080004
/-- JRNL_BASE, Table 15-11. -/
abbrev aJrnlBase : Nat := 0x40080008
/-- JRNL_SECT, Table 15-11. -/
abbrev aJrnlSect : Nat := 0x4008000C
/-- JRNL_GEN, Table 15-11. -/
abbrev aJrnlGen : Nat := 0x40080010
/-- JRNL_USED, Table 15-11. -/
abbrev aJrnlUsed : Nat := 0x40080014
/-- JRNL_SEQ, Table 15-11. -/
abbrev aJrnlSeq : Nat := 0x40080018
/-- JRNL_WR, Table 15-11. -/
abbrev aJrnlWr : Nat := 0x40080020
/-- JRNL_RD, Table 15-11. -/
abbrev aJrnlRd : Nat := 0x40080024
/-- JRNL_RD_STAT, Table 15-11. -/
abbrev aJrnlRdStat : Nat := 0x40080028
/-- JRNL_RD_SEQ, Table 15-11. -/
abbrev aJrnlRdSeq : Nat := 0x4008002C
/-- JRNL_WBUF, Table 15-11. -/
abbrev aJrnlWbuf (i : Nat) : Nat := 0x40081000 + 0x4 * i
/-- JRNL_RBUF, Table 15-11. -/
abbrev aJrnlRbuf (i : Nat) : Nat := 0x40082000 + 0x4 * i
/-- EVI_G_CFG, Table 16-4. -/
abbrev aEviGCfg (i : Nat) : Nat := 0x40090000 + 0x100 * i
/-- EVI_G_STAT, Table 16-4. -/
abbrev aEviGStat (i : Nat) : Nat := 0x40090004 + 0x100 * i
/-- EVI_G_IEN, Table 16-4. -/
abbrev aEviGIen (i : Nat) : Nat := 0x40090008 + 0x100 * i
/-- EVI_G_THR, Table 16-4. -/
abbrev aEviGThr (i : Nat) : Nat := 0x4009000C + 0x100 * i
/-- EVI_G_CNT, Table 16-4. -/
abbrev aEviGCnt (i : Nat) : Nat := 0x40090010 + 0x100 * i
/-- EVI_G_LOST, Table 16-4. -/
abbrev aEviGLost (i : Nat) : Nat := 0x40090014 + 0x100 * i
/-- EVI_G_GLITCH, Table 16-4. -/
abbrev aEviGGlitch (i : Nat) : Nat := 0x40090018 + 0x100 * i
/-- EVI_G_SEQERR, Table 16-4. -/
abbrev aEviGSeqerr (i : Nat) : Nat := 0x4009001C + 0x100 * i
/-- EVI_G_LWK, Table 16-4. -/
abbrev aEviGLwk (i : Nat) : Nat := 0x40090020 + 0x100 * i
/-- EVI_G_PIN, Table 16-4. -/
abbrev aEviGPin (i j : Nat) : Nat := 0x40090030 + 0x100 * i + 0x4 * j
/-- EVI_G_E, Table 16-4. -/
abbrev aEviGE (i j : Nat) : Nat := 0x40090050 + 0x100 * i + 0x4 * j
/-- EVI_G_FLUSH, Table 16-4. -/
abbrev aEviGFlush (i : Nat) : Nat := 0x40090060 + 0x100 * i
/-- EVI_G_QPOS, Table 16-4. -/
abbrev aEviGQpos (i j : Nat) : Nat := 0x40090070 + 0x100 * i + 0x4 * j
/-- PIN_SEL, Table 16-6. -/
abbrev aPinSel (i : Nat) : Nat := 0x400A0000 + 0x4 * i
/-- PIN_EVIPAD, Table 16-5. -/
abbrev aPinEvipad (i : Nat) : Nat := 0x400A0200 + 0x4 * i
/-- GPIO_OUT, Table 16-5. -/
abbrev aGpioOut (i : Nat) : Nat := 0x400A0300 + 0x4 * i
/-- GPIO_SET, Table 16-5. -/
abbrev aGpioSet (i : Nat) : Nat := 0x400A0310 + 0x4 * i
/-- GPIO_CLR, Table 16-5. -/
abbrev aGpioClr (i : Nat) : Nat := 0x400A0320 + 0x4 * i
/-- GPIO_TGL, Table 16-5. -/
abbrev aGpioTgl (i : Nat) : Nat := 0x400A0330 + 0x4 * i
/-- GPIO_OE, Table 16-5. -/
abbrev aGpioOe (i : Nat) : Nat := 0x400A0340 + 0x4 * i
/-- GPIO_IN, Table 16-5. -/
abbrev aGpioIn (i : Nat) : Nat := 0x400A0350 + 0x4 * i
/-- GPIO_INT_CFG, Table 16-5. -/
abbrev aGpioIntCfg (i : Nat) : Nat := 0x400A0360 + 0x4 * i
/-- GPIO_INT_STAT, Table 16-5. -/
abbrev aGpioIntStat (i : Nat) : Nat := 0x400A0380 + 0x4 * i
/-- MEMC_CFG, Table 07-8. -/
abbrev aMemcCfg : Nat := 0x400B0000
/-- MEMC_STAT, Table 07-8. -/
abbrev aMemcStat : Nat := 0x400B0004
/-- MEMC_IEN, Table 07-7. -/
abbrev aMemcIen : Nat := 0x400B0008
/-- MEMC_CE_THR, Table 07-7. -/
abbrev aMemcCeThr : Nat := 0x400B0010
/-- MEMC_CE_CNT, Table 07-7. -/
abbrev aMemcCeCnt : Nat := 0x400B0014
/-- MEMC_SCRUB_CFG, Table 07-7. -/
abbrev aMemcScrubCfg : Nat := 0x400B0020
/-- MEMC_SCRUB_PASS, Table 07-7. -/
abbrev aMemcScrubPass : Nat := 0x400B0024
/-- MEMC_UE_CNT, Table 07-7. -/
abbrev aMemcUeCnt : Nat := 0x400B0030
/-- MEMC_UE_ADDR_LO, Table 07-7. -/
abbrev aMemcUeAddrLo : Nat := 0x400B0034
/-- MEMC_UE_ADDR_HI, Table 07-7. -/
abbrev aMemcUeAddrHi : Nat := 0x400B0038
/-- MEMC_UE_SRC, Table 07-9. -/
abbrev aMemcUeSrc : Nat := 0x400B003C
/-- MEMC_UE_POP, Table 07-7. -/
abbrev aMemcUePop : Nat := 0x400B0040
/-- MEMC_LSTARV_LIM, Table 07-7. -/
abbrev aMemcLstarvLim : Nat := 0x400B0050
/-- MEMC_RMT_CFG, Table 07-8. -/
abbrev aMemcRmtCfg : Nat := 0x400B0060
/-- MEMC_RPWR_STAT, Table 07-7. -/
abbrev aMemcRpwrStat : Nat := 0x400B0070
/-- MEMC_RPWR_DOWN, Table 07-7. -/
abbrev aMemcRpwrDown : Nat := 0x400B0074
/-- MEMC_RPWR_RET, Table 07-7. -/
abbrev aMemcRpwrRet : Nat := 0x400B0078
/-- MEMC_WAKE_IDLE, Table 07-7. -/
abbrev aMemcWakeIdle : Nat := 0x400B007C
/-- MEMC_WAKE_CNT, Table 07-7. -/
abbrev aMemcWakeCnt : Nat := 0x400B0080
/-- MEMC_WAKE_MAX, Table 07-7. -/
abbrev aMemcWakeMax : Nat := 0x400B0084
/-- MEMC_LSTARV, Table 07-8. -/
abbrev aMemcLstarv (i : Nat) : Nat := 0x400B1000 + 0x4 * i
/-- DDRC_CAP, Table 14-10. -/
abbrev aDdrcCap : Nat := 0x400C0000
/-- DDRC_MODE, Table 14-10. -/
abbrev aDdrcMode : Nat := 0x400C0004
/-- DDRC_SIZE, Table 14-10. -/
abbrev aDdrcSize : Nat := 0x400C0008
/-- DDRC_CHSIZE, Table 14-10. -/
abbrev aDdrcChsize : Nat := 0x400C000C
/-- DDRC_STAT, Table 14-10. -/
abbrev aDdrcStat : Nat := 0x400C0010
/-- DDRC_IEN, Table 14-10. -/
abbrev aDdrcIen : Nat := 0x400C0014
/-- DDRC_CE_CNT, Table 14-10. -/
abbrev aDdrcCeCnt : Nat := 0x400C0018
/-- DDRC_CE_THR, Table 14-10. -/
abbrev aDdrcCeThr : Nat := 0x400C001C
/-- DDRC_UE_ADDR, Table 14-10. -/
abbrev aDdrcUeAddr : Nat := 0x400C0020
/-- DDRC_UE_ADDR_HI, Table 14-10. -/
abbrev aDdrcUeAddrHi : Nat := 0x400C0024
/-- DDRC_UE_CNT, Table 14-10. -/
abbrev aDdrcUeCnt : Nat := 0x400C0028
/-- DDRC_TEMP, Table 14-10. -/
abbrev aDdrcTemp : Nat := 0x400C0030
/-- DDRC_TRK, Table 14-10. -/
abbrev aDdrcTrk : Nat := 0x400C0034
/-- PCIE_CAP, Table 14-5. -/
abbrev aPcieCap : Nat := 0x400D0000
/-- PCIE_LINK, Table 14-5. -/
abbrev aPcieLink : Nat := 0x400D0004
/-- PCIE_STAT, Table 14-6. -/
abbrev aPcieStat : Nat := 0x400D0008
/-- PCIE_IEN, Table 14-5. -/
abbrev aPcieIen : Nat := 0x400D000C
/-- PCIE_ACC, Table 14-5. -/
abbrev aPcieAcc : Nat := 0x400D0010
/-- PCIE_REF_ADDR, Table 14-5. -/
abbrev aPcieRefAddr : Nat := 0x400D0014
/-- PCIE_REF_ADDR_HI, Table 14-5. -/
abbrev aPcieRefAddrHi : Nat := 0x400D0018
/-- PCIE_AER_CNT, Table 14-5. -/
abbrev aPcieAerCnt : Nat := 0x400D001C
/-- PCIE_HDB_CLR, Table 14-5. -/
abbrev aPcieHdbClr : Nat := 0x400D0040
/-- PCIE_DDB_SET, Table 14-5. -/
abbrev aPcieDdbSet : Nat := 0x400D0044
/-- PCIE_MSIXMAP, Table 14-5. -/
abbrev aPcieMsixmap (i : Nat) : Nat := 0x400D0100 + 0x4 * i
/-- PCIE_MSIX_ADDR, Table 14-5. -/
abbrev aPcieMsixAddr (i : Nat) : Nat := 0x400D8000 + 0x10 * i
/-- PCIE_MSIX_ADDR_HI, Table 14-5. -/
abbrev aPcieMsixAddrHi (i : Nat) : Nat := 0x400D8004 + 0x10 * i
/-- PCIE_MSIX_DATA, Table 14-5. -/
abbrev aPcieMsixData (i : Nat) : Nat := 0x400D8008 + 0x10 * i
/-- PCIE_MSIX_CTL, Table 14-5. -/
abbrev aPcieMsixCtl (i : Nat) : Nat := 0x400D800C + 0x10 * i
/-- PCIE_PBA, Table 14-5. -/
abbrev aPciePba (i : Nat) : Nat := 0x400D8400 + 0x4 * i
/-- PCIE_MB_IN, Table 14-5. -/
abbrev aPcieMbIn (i : Nat) : Nat := 0x400D9000 + 0x4 * i
/-- PCIE_MB_OUT, Table 14-5. -/
abbrev aPcieMbOut (i : Nat) : Nat := 0x400DA000 + 0x4 * i
/-- PCIE_MB_GO, Table 14-5. -/
abbrev aPcieMbGo : Nat := 0x400DB000
/-- PCIE_MB_STAT, Table 14-5. -/
abbrev aPcieMbStat : Nat := 0x400DB004
/-- PCIE_MB_ACK, Table 14-5. -/
abbrev aPcieMbAck : Nat := 0x400DB008
/-- PCIE_HDB, Table 14-5. -/
abbrev aPcieHdb : Nat := 0x400DB010
/-- PCIE_DDB, Table 14-5. -/
abbrev aPcieDdb : Nat := 0x400DB014
/-- ETH_CFG, Table 14-8. -/
abbrev aEthCfg (i : Nat) : Nat := 0x400E0000 + 0x10000 * i
/-- ETH_CAP, Table 14-8. -/
abbrev aEthCap (i : Nat) : Nat := 0x400E0004 + 0x10000 * i
/-- ETH_MODE, Table 14-8. -/
abbrev aEthMode (i : Nat) : Nat := 0x400E0008 + 0x10000 * i
/-- ETH_STAT, Table 14-8. -/
abbrev aEthStat (i : Nat) : Nat := 0x400E000C + 0x10000 * i
/-- ETH_IEN, Table 14-8. -/
abbrev aEthIen (i : Nat) : Nat := 0x400E0010 + 0x10000 * i
/-- ETH_MAC_LO, Table 14-8. -/
abbrev aEthMacLo (i : Nat) : Nat := 0x400E0014 + 0x10000 * i
/-- ETH_MAC_HI, Table 14-8. -/
abbrev aEthMacHi (i : Nat) : Nat := 0x400E0018 + 0x10000 * i
/-- ETH_MCHASH_LO, Table 14-8. -/
abbrev aEthMchashLo (i : Nat) : Nat := 0x400E0020 + 0x10000 * i
/-- ETH_MCHASH_HI, Table 14-8. -/
abbrev aEthMchashHi (i : Nat) : Nat := 0x400E0024 + 0x10000 * i
/-- ETH_CBS_A, Table 14-8. -/
abbrev aEthCbsA (i : Nat) : Nat := 0x400E0030 + 0x10000 * i
/-- ETH_CBS_B, Table 14-8. -/
abbrev aEthCbsB (i : Nat) : Nat := 0x400E0034 + 0x10000 * i
/-- ETH_FIFO_CFG, Table 14-8. -/
abbrev aEthFifoCfg (i : Nat) : Nat := 0x400E0040 + 0x10000 * i
/-- ETH_RX_LEVEL, Table 14-8. -/
abbrev aEthRxLevel (i : Nat) : Nat := 0x400E0044 + 0x10000 * i
/-- ETH_TXH, Table 14-8. -/
abbrev aEthTxh (i : Nat) : Nat := 0x400E0048 + 0x10000 * i
/-- ETH_RX_DROP, Table 14-8. -/
abbrev aEthRxDrop (i : Nat) : Nat := 0x400E0050 + 0x10000 * i
/-- ETH_RX_BAD, Table 14-8. -/
abbrev aEthRxBad (i : Nat) : Nat := 0x400E0054 + 0x10000 * i
/-- ETH_PTP_CFG, Table 14-8. -/
abbrev aEthPtpCfg (i : Nat) : Nat := 0x400E0100 + 0x10000 * i
/-- ETH_PTP_Q, Table 14-8. -/
abbrev aEthPtpQ (i : Nat) : Nat := 0x400E0104 + 0x10000 * i
/-- ETH_PTP_LAT, Table 14-8. -/
abbrev aEthPtpLat (i : Nat) : Nat := 0x400E0108 + 0x10000 * i
/-- ETH_PTP_STAT, Table 14-8. -/
abbrev aEthPtpStat (i : Nat) : Nat := 0x400E010C + 0x10000 * i
/-- ETH_PTP_GMID_LO, Table 14-8. -/
abbrev aEthPtpGmidLo (i : Nat) : Nat := 0x400E0110 + 0x10000 * i
/-- ETH_PTP_GMID_HI, Table 14-8. -/
abbrev aEthPtpGmidHi (i : Nat) : Nat := 0x400E0114 + 0x10000 * i
/-- ETH_PTP_PDELAY, Table 14-8. -/
abbrev aEthPtpPdelay (i : Nat) : Nat := 0x400E0118 + 0x10000 * i
/-- ETH_PTP_OFS, Table 14-8. -/
abbrev aEthPtpOfs (i : Nat) : Nat := 0x400E011C + 0x10000 * i
/-- ETH_PTP_TIME_LO, Table 14-8. -/
abbrev aEthPtpTimeLo (i : Nat) : Nat := 0x400E0120 + 0x10000 * i
/-- ETH_PTP_TIME_HI, Table 14-8. -/
abbrev aEthPtpTimeHi (i : Nat) : Nat := 0x400E0124 + 0x10000 * i
/-- ETH_PTP_SET_LO, Table 14-8. -/
abbrev aEthPtpSetLo (i : Nat) : Nat := 0x400E0128 + 0x10000 * i
/-- ETH_PTP_SET_HI, Table 14-8. -/
abbrev aEthPtpSetHi (i : Nat) : Nat := 0x400E012C + 0x10000 * i
/-- ETH_TK_CFG, Table 14-9. -/
abbrev aEthTkCfg (i : Nat) : Nat := 0x400E4000 + 0x40 * i
/-- ETH_LS_CFG, Table 14-9. -/
abbrev aEthLsCfg (i : Nat) : Nat := 0x400E5000 + 0x40 * i
/-- ETH_TK_SID_LO, Table 14-9. -/
abbrev aEthTkSidLo (i : Nat) : Nat := 0x400E4004 + 0x40 * i
/-- ETH_TK_SID_HI, Table 14-9. -/
abbrev aEthTkSidHi (i : Nat) : Nat := 0x400E4008 + 0x40 * i
/-- ETH_LS_SID_LO, Table 14-9. -/
abbrev aEthLsSidLo (i : Nat) : Nat := 0x400E5004 + 0x40 * i
/-- ETH_LS_SID_HI, Table 14-9. -/
abbrev aEthLsSidHi (i : Nat) : Nat := 0x400E5008 + 0x40 * i
/-- ETH_TK_DA_LO, Table 14-9. -/
abbrev aEthTkDaLo (i : Nat) : Nat := 0x400E400C + 0x40 * i
/-- ETH_TK_DA_HI, Table 14-9. -/
abbrev aEthTkDaHi (i : Nat) : Nat := 0x400E4010 + 0x40 * i
/-- ETH_TK_VLAN, Table 14-9. -/
abbrev aEthTkVlan (i : Nat) : Nat := 0x400E4014 + 0x40 * i
/-- ETH_TK_ADDR, Table 14-9. -/
abbrev aEthTkAddr (i : Nat) : Nat := 0x400E4018 + 0x40 * i
/-- ETH_TK_ADDR_HI, Table 14-9. -/
abbrev aEthTkAddrHi (i : Nat) : Nat := 0x400E401C + 0x40 * i
/-- ETH_LS_ADDR, Table 14-9. -/
abbrev aEthLsAddr (i : Nat) : Nat := 0x400E5018 + 0x40 * i
/-- ETH_LS_ADDR_HI, Table 14-9. -/
abbrev aEthLsAddrHi (i : Nat) : Nat := 0x400E501C + 0x40 * i
/-- ETH_TK_LAT, Table 14-9. -/
abbrev aEthTkLat (i : Nat) : Nat := 0x400E4020 + 0x40 * i
/-- ETH_LS_STRIDE, Table 14-9. -/
abbrev aEthLsStride (i : Nat) : Nat := 0x400E5020 + 0x40 * i
/-- ETH_TK_CNT, Table 14-9. -/
abbrev aEthTkCnt (i : Nat) : Nat := 0x400E4024 + 0x40 * i
/-- ETH_LS_STAT, Table 14-9. -/
abbrev aEthLsStat (i : Nat) : Nat := 0x400E5024 + 0x40 * i
/-- ETH_TK_DROP, Table 14-9. -/
abbrev aEthTkDrop (i : Nat) : Nat := 0x400E4028 + 0x40 * i
/-- ETH_LS_LATE, Table 14-9. -/
abbrev aEthLsLate (i : Nat) : Nat := 0x400E5028 + 0x40 * i
/-- ETH_LS_MISS, Table 14-9. -/
abbrev aEthLsMiss (i : Nat) : Nat := 0x400E502C + 0x40 * i
/-- ETH_LS_ERR, Table 14-9. -/
abbrev aEthLsErr (i : Nat) : Nat := 0x400E5030 + 0x40 * i
/-- ETH_RXF, Table 14-8. -/
abbrev aEthRxf (i j : Nat) : Nat := 0x400E8000 + 0x10000 * i + 0x4 * j
/-- ETH_TXF, Table 14-8. -/
abbrev aEthTxf (i j : Nat) : Nat := 0x400E9000 + 0x10000 * i + 0x4 * j
/-- SAP_CFG, Table 12-5. -/
abbrev aSapCfg (i : Nat) : Nat := 0x40100000 + 0x1000 * i
/-- SAP_STAT, Table 12-5. -/
abbrev aSapStat (i : Nat) : Nat := 0x40100004 + 0x1000 * i
/-- SAP_IEN, Table 12-4. -/
abbrev aSapIen (i : Nat) : Nat := 0x40100008 + 0x1000 * i
/-- SAP_IN_MASK, Table 12-4. -/
abbrev aSapInMask (i : Nat) : Nat := 0x4010000C + 0x1000 * i
/-- SAP_OUT_MASK, Table 12-4. -/
abbrev aSapOutMask (i : Nat) : Nat := 0x40100010 + 0x1000 * i
/-- SAP_GATE, Table 12-4. -/
abbrev aSapGate (i : Nat) : Nat := 0x40100014 + 0x1000 * i
/-- SAP_SLIP, Table 12-4. -/
abbrev aSapSlip (i : Nat) : Nat := 0x40100018 + 0x1000 * i
/-- SAP_DROP, Table 12-4. -/
abbrev aSapDrop (i : Nat) : Nat := 0x4010001C + 0x1000 * i
/-- SAP_LAST, Table 12-4. -/
abbrev aSapLast (i : Nat) : Nat := 0x40100020 + 0x1000 * i
/-- SAP_LAST_HI, Table 12-4. -/
abbrev aSapLastHi (i : Nat) : Nat := 0x40100024 + 0x1000 * i
/-- SAP_GRP_CFG, Table 12-7. -/
abbrev aSapGrpCfg (i : Nat) : Nat := 0x40140000 + 0x100 * i
/-- SAP_GRP_STAT, Table 12-7. -/
abbrev aSapGrpStat (i : Nat) : Nat := 0x40140004 + 0x100 * i
/-- SAP_GRP_MEAS, Table 12-6. -/
abbrev aSapGrpMeas (i : Nat) : Nat := 0x40140008 + 0x100 * i
/-- SAP_RT_STAT, Table 12-7. -/
abbrev aSapRtStat (i : Nat) : Nat := 0x40141000 + 0x4 * i
/-- STR_CTL, Table 13-10. -/
abbrev aStrCtl (i : Nat) : Nat := 0x40200000 + 0x10000 * i
/-- STR_CAP, Table 13-10. -/
abbrev aStrCap (i : Nat) : Nat := 0x40200004 + 0x10000 * i
/-- STR_STAT, Table 13-11. -/
abbrev aStrStat (i : Nat) : Nat := 0x40200008 + 0x10000 * i
/-- STR_IEN, Table 13-9. -/
abbrev aStrIen (i : Nat) : Nat := 0x4020000C + 0x10000 * i
/-- STR_MODE, Table 13-10. -/
abbrev aStrMode (i : Nat) : Nat := 0x40200010 + 0x10000 * i
/-- STR_PEER, Table 13-10. -/
abbrev aStrPeer (i : Nat) : Nat := 0x40200014 + 0x10000 * i
/-- STR_PEER_NONCE_LO, Table 13-9. -/
abbrev aStrPeerNonceLo (i : Nat) : Nat := 0x40200018 + 0x10000 * i
/-- STR_PEER_NONCE_HI, Table 13-9. -/
abbrev aStrPeerNonceHi (i : Nat) : Nat := 0x4020001C + 0x10000 * i
/-- STR_NONCE_LO, Table 13-9. -/
abbrev aStrNonceLo (i : Nat) : Nat := 0x40200020 + 0x10000 * i
/-- STR_NONCE_HI, Table 13-9. -/
abbrev aStrNonceHi (i : Nat) : Nat := 0x40200024 + 0x10000 * i
/-- STR_EPOCH, Table 13-9. -/
abbrev aStrEpoch (i : Nat) : Nat := 0x40200028 + 0x10000 * i
/-- STR_TTO, Table 13-9. -/
abbrev aStrTto (i : Nat) : Nat := 0x4020002C + 0x10000 * i
/-- STR_DELAY, Table 13-9. -/
abbrev aStrDelay (i : Nat) : Nat := 0x40200030 + 0x10000 * i
/-- STR_TAGS, Table 13-9. -/
abbrev aStrTags (i : Nat) : Nat := 0x40200034 + 0x10000 * i
/-- STR_CRCERR, Table 13-9. -/
abbrev aStrCrcerr (i : Nat) : Nat := 0x40200040 + 0x10000 * i
/-- STR_REPLAY, Table 13-9. -/
abbrev aStrReplay (i : Nat) : Nat := 0x40200044 + 0x10000 * i
/-- STR_FAIL, Table 13-9. -/
abbrev aStrFail (i : Nat) : Nat := 0x40200048 + 0x10000 * i
/-- STR_LATE, Table 13-9. -/
abbrev aStrLate (i : Nat) : Nat := 0x4020004C + 0x10000 * i
/-- STR_SDROP, Table 13-9. -/
abbrev aStrSdrop (i : Nat) : Nat := 0x40200050 + 0x10000 * i
/-- STR_FEC_CORR, Table 13-9. -/
abbrev aStrFecCorr (i : Nat) : Nat := 0x40200058 + 0x10000 * i
/-- STR_FEC_UNCORR, Table 13-9. -/
abbrev aStrFecUncorr (i : Nat) : Nat := 0x4020005C + 0x10000 * i
/-- STR_SLAST, Table 13-9. -/
abbrev aStrSlast (i : Nat) : Nat := 0x40200054 + 0x10000 * i
/-- STR_WFQ_CNT, Table 13-9. -/
abbrev aStrWfqCnt (i : Nat) : Nat := 0x40200060 + 0x10000 * i
/-- STR_WFQ_W, Table 13-13. -/
abbrev aStrWfqW (i j : Nat) : Nat := 0x40200064 + 0x10000 * i + 0x4 * j
/-- STR_WFQ_POP, Table 13-9. -/
abbrev aStrWfqPop (i : Nat) : Nat := 0x40200074 + 0x10000 * i
/-- CAMP_CFG, Table 13-15. -/
abbrev aCampCfg : Nat := 0x40280000
/-- CAMP_STAT, Table 13-15. -/
abbrev aCampStat : Nat := 0x40280004
/-- CAMP_IEN, Table 13-14. -/
abbrev aCampIen : Nat := 0x40280008
/-- CAMP_EPOCH, Table 13-14. -/
abbrev aCampEpoch : Nat := 0x4028000C
/-- CAMP_KEEPER, Table 13-14. -/
abbrev aCampKeeper : Nat := 0x40280010
/-- CAMP_MAP, Table 13-14. -/
abbrev aCampMap : Nat := 0x40280014
/-- CAMP_LINKS_LO, Table 13-14. -/
abbrev aCampLinksLo : Nat := 0x40280018
/-- CAMP_LINKS_HI, Table 13-14. -/
abbrev aCampLinksHi : Nat := 0x4028001C
/-- CAMP_LOSS, Table 13-14. -/
abbrev aCampLoss : Nat := 0x40280020
/-- CAMP_BEAT_FIX, Table 13-14. -/
abbrev aCampBeatFix : Nat := 0x40280024
/-- CAMP_MEM_HASH_LO, Table 13-14. -/
abbrev aCampMemHashLo (i : Nat) : Nat := 0x40280100 + 0x10 * i
/-- CAMP_MEM_HASH_HI, Table 13-14. -/
abbrev aCampMemHashHi (i : Nat) : Nat := 0x40280104 + 0x10 * i
/-- CAMP_MEM_VER, Table 13-14. -/
abbrev aCampMemVer (i : Nat) : Nat := 0x40280108 + 0x10 * i
/-- CAMP_MEM_INFO, Table 13-14. -/
abbrev aCampMemInfo (i : Nat) : Nat := 0x4028010C + 0x10 * i
/-- CAMP_MEM_EPOCH, Table 13-14. -/
abbrev aCampMemEpoch (i : Nat) : Nat := 0x40280180 + 0x4 * i
/-- FRY_CFG, Table 08-11. -/
abbrev aFryCfg (i : Nat) : Nat := 0x40300000 + 0x1000 * i
/-- FRY_CMD, Table 08-10. -/
abbrev aFryCmd (i : Nat) : Nat := 0x40300004 + 0x1000 * i
/-- FRY_STAT, Table 08-11. -/
abbrev aFryStat (i : Nat) : Nat := 0x40300008 + 0x1000 * i
/-- FRY_IEN, Table 08-10. -/
abbrev aFryIen (i : Nat) : Nat := 0x4030000C + 0x1000 * i
/-- FRY_PC, Table 08-10. -/
abbrev aFryPc (i : Nat) : Nat := 0x40300010 + 0x1000 * i
/-- FRY_PC_HI, Table 08-10. -/
abbrev aFryPcHi (i : Nat) : Nat := 0x40300014 + 0x1000 * i
/-- FRY_ABT, Table 08-10. -/
abbrev aFryAbt (i : Nat) : Nat := 0x40300018 + 0x1000 * i
/-- FRY_ERR, Table 08-10. -/
abbrev aFryErr (i : Nat) : Nat := 0x4030001C + 0x1000 * i
/-- FRY_ERR_ADDR, Table 08-10. -/
abbrev aFryErrAddr (i : Nat) : Nat := 0x40300020 + 0x1000 * i
/-- FRY_ERR_ADDR_HI, Table 08-10. -/
abbrev aFryErrAddrHi (i : Nat) : Nat := 0x40300024 + 0x1000 * i
/-- FRY_ERR_PC, Table 08-10. -/
abbrev aFryErrPc (i : Nat) : Nat := 0x40300028 + 0x1000 * i
/-- FRY_ERR_PC_HI, Table 08-10. -/
abbrev aFryErrPcHi (i : Nat) : Nat := 0x4030002C + 0x1000 * i
/-- FRY_CHK, Table 08-10. -/
abbrev aFryChk (i : Nat) : Nat := 0x40300030 + 0x1000 * i
/-- FRY_CHKCFG, Table 08-10. -/
abbrev aFryChkcfg (i : Nat) : Nat := 0x40300034 + 0x1000 * i
/-- FRY_SRC, Table 08-10. -/
abbrev aFrySrc (i : Nat) : Nat := 0x40300040 + 0x1000 * i
/-- FRY_SRC_HI, Table 08-10. -/
abbrev aFrySrcHi (i : Nat) : Nat := 0x40300044 + 0x1000 * i
/-- FRY_DST, Table 08-10. -/
abbrev aFryDst (i : Nat) : Nat := 0x40300048 + 0x1000 * i
/-- FRY_DST_HI, Table 08-10. -/
abbrev aFryDstHi (i : Nat) : Nat := 0x4030004C + 0x1000 * i
/-- FRY_REM, Table 08-10. -/
abbrev aFryRem (i : Nat) : Nat := 0x40300050 + 0x1000 * i
/-- FRY_ROWS, Table 08-10. -/
abbrev aFryRows (i : Nat) : Nat := 0x40300054 + 0x1000 * i
/-- FRY_LOOP0, Table 08-10. -/
abbrev aFryLoop0 (i : Nat) : Nat := 0x40300058 + 0x1000 * i
/-- FRY_LOOP1, Table 08-10. -/
abbrev aFryLoop1 (i : Nat) : Nat := 0x4030005C + 0x1000 * i
/-- FRY_HOLD, Table 08-10. -/
abbrev aFryHold (i : Nat) : Nat := 0x40300060 + 0x1000 * i
/-- FRY_TAGS, Table 08-10. -/
abbrev aFryTags (i : Nat) : Nat := 0x40300064 + 0x1000 * i
/-- FRY_WAKES, Table 08-10. -/
abbrev aFryWakes (i : Nat) : Nat := 0x40300070 + 0x1000 * i
/-- FRY_MOVED, Table 08-10. -/
abbrev aFryMoved (i : Nat) : Nat := 0x40300074 + 0x1000 * i
/-- FRY_WIN, Table 08-10. -/
abbrev aFryWin (i j : Nat) : Nat := 0x40300080 + 0x1000 * i + 0x10 * j
/-- FRY_WIN_HI, Table 08-11. -/
abbrev aFryWinHi (i j : Nat) : Nat := 0x40300084 + 0x1000 * i + 0x10 * j
/-- FRY_WIN_LIM, Table 08-10. -/
abbrev aFryWinLim (i j : Nat) : Nat := 0x40300088 + 0x1000 * i + 0x10 * j
/-- FRYG_FLAG, Table 08-12. -/
abbrev aFrygFlag : Nat := 0x40340000
/-- FRYG_FLAG_HI, Table 08-12. -/
abbrev aFrygFlagHi : Nat := 0x40340004
/-- FRYG_FLAG_SET, Table 08-12. -/
abbrev aFrygFlagSet : Nat := 0x40340008
/-- FRYG_FLAG_SET_HI, Table 08-12. -/
abbrev aFrygFlagSetHi : Nat := 0x4034000C
/-- FRYG_FLAG_CLR, Table 08-12. -/
abbrev aFrygFlagClr : Nat := 0x40340010
/-- FRYG_FLAG_CLR_HI, Table 08-12. -/
abbrev aFrygFlagClrHi : Nat := 0x40340014
/-- CORE_PIPE_CFG, Table 05-13. -/
abbrev aCorePipeCfg (i : Nat) : Nat := 0x41000200 + 0x10000 * i
/-- CORE_CACHE_CFG, Table 05-14. -/
abbrev aCoreCacheCfg (i : Nat) : Nat := 0x41000204 + 0x10000 * i
/-- CORE_CACHE_INV, Table 05-15. -/
abbrev aCoreCacheInv (i : Nat) : Nat := 0x41000208 + 0x10000 * i
/-- CORE_PIPE_STAT, Table 05-15. -/
abbrev aCorePipeStat (i : Nat) : Nat := 0x4100020C + 0x10000 * i
/-- CORE_CYC, Table 05-12. -/
abbrev aCoreCyc (i : Nat) : Nat := 0x41000210 + 0x10000 * i
/-- CORE_ISSUE, Table 05-12. -/
abbrev aCoreIssue (i : Nat) : Nat := 0x41000214 + 0x10000 * i
/-- CORE_BRMISP, Table 05-12. -/
abbrev aCoreBrmisp (i : Nat) : Nat := 0x41000218 + 0x10000 * i
/-- CORE_FQ_EMPTY, Table 05-12. -/
abbrev aCoreFqEmpty (i : Nat) : Nat := 0x4100021C + 0x10000 * i
/-- CORE_DC_MISS, Table 05-12. -/
abbrev aCoreDcMiss (i : Nat) : Nat := 0x41000220 + 0x10000 * i
/-- CORE_IC_MISS, Table 05-12. -/
abbrev aCoreIcMiss (i : Nat) : Nat := 0x41000224 + 0x10000 * i
/-- CORE_CPAR, Table 05-12. -/
abbrev aCoreCpar (i : Nat) : Nat := 0x41000228 + 0x10000 * i
/-- CORE_SB_FULL, Table 05-12. -/
abbrev aCoreSbFull (i : Nat) : Nat := 0x4100022C + 0x10000 * i
/-- CORE_CNT_CLR, Table 05-12. -/
abbrev aCoreCntClr (i : Nat) : Nat := 0x41000230 + 0x10000 * i

/-- One row of the register index: `count` registers `stride` bytes apart and, inside each, `count2` registers
`stride2` bytes apart (1 where the register has one index or none). -/
structure RegRow where
  base    : Nat
  stride  : Nat
  count   : Nat
  stride2 : Nat
  count2  : Nat
  rw      : Nat
  rwl     : Nat
  w1c     : Nat
  w1s     : Nat
  rc      : Nat
  reset   : Nat
  deriving DecidableEq, Repr

/-- Is `a` one of the registers of the row? -/
def RegRow.has (r : RegRow) (a : Nat) : Bool :=
  decide (r.base ≤ a) &&
  (let o := a - r.base
   let q := o % r.stride
   decide (o / r.stride < r.count) && decide (q % r.stride2 = 0) && decide (q / r.stride2 < r.count2))

/-- The rows of the SYS block. -/
def rowsSys1 : List RegRow :=
  [⟨0x40000000, 4, 1, 4, 1, 0, 0, 0, 0, 0, 0x5A0900B1⟩,
   ⟨0x40000010, 4, 1, 4, 1, 0, 0, 0, 0, 0, 0x12⟩,
   ⟨0x40000014, 4, 1, 4, 1, 0, 0, 0, 0, 0, 0⟩,
   ⟨0x40000020, 4, 1, 4, 1, 0, 0, 0x1F, 0, 0, 1⟩,
   ⟨0x40000024, 4, 1, 4, 1, 0, 0, 0, 0, 0, 0⟩,
   ⟨0x40000028, 4, 1, 4, 1, 0, 0, 0, 0, 0, 0⟩,
   ⟨0x4000002C, 4, 1, 4, 1, 0, 0, 0, 0, 0, 0⟩,
   ⟨0x40000030, 4, 1, 4, 1, 0, 0, 0, 0, 0, 1⟩,
   ⟨0x40000034, 4, 1, 4, 1, 0, 0, 0, 0, 0, 0⟩,
   ⟨0x40000040, 4, 1, 4, 1, 0, 0, 0, 0, 0, 0⟩,
   ⟨0x40000044, 4, 1, 4, 1, 0, 0, 0x10000, 0, 0, 0⟩,
   ⟨0x40000100, 4, 1, 4, 1, 7, 0, 0, 0, 0, 1⟩]

/-- The rows of the SYS block, continued. -/
def rowsSys2 : List RegRow :=
  [⟨0x40000104, 4, 1, 4, 1, 0, 0, 0, 0, 0, 6⟩,
   ⟨0x40000108, 4, 1, 4, 1, 0, 0, 0, 0, 0, 0⟩,
   ⟨0x4000010C, 4, 1, 4, 1, 0, 0, 0, 0, 0, 0⟩,
   ⟨0x40000110, 4, 1, 4, 1, 0, 0, 0, 0, 0, 0⟩]

/-- All rows of the SYS block. -/
def rowsSys : List RegRow := rowsSys1 ++ rowsSys2

/-- The rows of the TIDE block. -/
def rowsTide1 : List RegRow :=
  [⟨0x40010000, 4, 1, 4, 1, 0, 0x3F07, 0, 0, 0, 0x801⟩,
   ⟨0x40010004, 4, 1, 4, 1, 0x3FF1FFF, 0, 0, 0, 0, 0⟩,
   ⟨0x40010008, 4, 1, 4, 1, 0xFFFFFF, 0, 0, 0, 0, 0x200000⟩,
   ⟨0x4001000C, 4, 1, 4, 1, 0, 0, 0xFF00, 0, 0, 0⟩,
   ⟨0x40010010, 4, 1, 4, 1, 0xFF00, 0, 0, 0, 0, 0⟩,
   ⟨0x40010014, 4, 1, 4, 1, 0, 0, 0, 0, 0, 0⟩,
   ⟨0x40010018, 4, 1, 4, 1, 0, 0, 0, 0, 0, 0⟩,
   ⟨0x4001001C, 4, 1, 4, 1, 0, 0, 0, 0, 0, 0⟩,
   ⟨0x40010020, 4, 1, 4, 1, 0, 0, 0, 0, 0, 0⟩,
   ⟨0x40010024, 4, 1, 4, 1, 0, 0, 0, 0, 0, 0⟩,
   ⟨0x40010030, 4, 1, 4, 1, 0, 0, 0, 0, 0, 0⟩,
   ⟨0x40010034, 4, 1, 4, 1, 0, 0, 0, 0, 0, 0⟩]

/-- The rows of the TIDE block, continued. -/
def rowsTide2 : List RegRow :=
  [⟨0x40010038, 4, 1, 4, 1, 0, 0, 0, 0, 0, 0⟩,
   ⟨0x40010040, 4, 1, 4, 1, 0, 0, 0, 0, 0, 0⟩,
   ⟨0x40010044, 4, 1, 4, 1, 0, 0, 0, 0, 0, 0⟩,
   ⟨0x40010048, 4, 1, 4, 1, 0, 0, 0, 0, 0, 0⟩,
   ⟨0x4001004C, 4, 1, 4, 1, 0, 0, 0, 0, 0, 0⟩,
   ⟨0x40010050, 4, 1, 4, 1, 0, 0, 0, 0, 0, 0⟩,
   ⟨0x40010054, 4, 1, 4, 1, 0, 0, 0, 0, 0, 0⟩,
   ⟨0x40010060, 4, 1, 4, 1, 0, 0, 0, 0, 0, 0⟩,
   ⟨0x40010064, 4, 1, 4, 1, 0, 0, 0, 0, 0, 0⟩,
   ⟨0x40010068, 4, 1, 4, 1, 0, 0, 0, 0, 0, 0⟩,
   ⟨0x4001006C, 4, 1, 4, 1, 0, 0, 0, 0, 0, 0⟩,
   ⟨0x40010080, 4, 1, 4, 1, 0, 0, 0, 0, 0, 0⟩]

/-- The rows of the TIDE block, continued. -/
def rowsTide3 : List RegRow :=
  [⟨0x40010084, 4, 1, 4, 1, 0, 0, 0, 0, 0, 0⟩,
   ⟨0x40010088, 4, 1, 4, 1, 0, 0, 0, 0, 0, 0⟩,
   ⟨0x4001008C, 4, 1, 4, 1, 0, 0, 0, 0, 0, 0⟩,
   ⟨0x40010090, 4, 1, 4, 1, 0xFFFFFFFF, 0, 0, 0, 0, 0⟩,
   ⟨0x40010094, 4, 1, 4, 1, 0xFFFF, 0, 0, 0, 0, 0⟩,
   ⟨0x40010098, 4, 1, 4, 1, 0xFFFFFFFF, 0, 0, 0, 0, 0⟩,
   ⟨0x4001009C, 4, 1, 4, 1, 0xFFFFFFFF, 0, 0, 0, 0, 0⟩,
   ⟨0x400100A0, 4, 1, 4, 1, 0, 0, 0, 0, 0, 0⟩,
   ⟨0x400100A4, 4, 1, 4, 1, 0, 0, 0, 0, 0, 0⟩,
   ⟨0x400100A8, 4, 1, 4, 1, 0, 0, 0, 0, 0, 0⟩,
   ⟨0x400100C0, 4, 4, 4, 1, 0x107, 0, 0, 0, 0, 0⟩,
   ⟨0x400100D0, 4, 1, 4, 1, 0xFFFFFFFF, 0, 0, 0, 0, 0⟩]

/-- The rows of the TIDE block, continued. -/
def rowsTide4 : List RegRow :=
  [⟨0x400100D4, 4, 1, 4, 1, 0xFFFFFFFF, 0, 0, 0, 0, 0⟩,
   ⟨0x40010100, 4, 8, 4, 1, 0, 0, 0xFFFFFFFF, 0, 0, 0⟩,
   ⟨0x40010120, 4, 8, 4, 1, 0, 0, 0xFFFFFFFF, 0, 0, 0⟩,
   ⟨0x40011000, 0x20, 0x100, 0x20, 1, 0, 0, 0, 0, 0, 0⟩,
   ⟨0x40011004, 0x20, 0x100, 0x20, 1, 0, 0, 0, 0, 0, 0⟩,
   ⟨0x40011008, 0x20, 0x100, 0x20, 1, 0xF77, 0, 0, 0, 0, 0⟩,
   ⟨0x4001100C, 0x20, 0x100, 0x20, 1, 0x11F1F7F, 0, 0, 0, 0, 0⟩,
   ⟨0x40011010, 0x20, 0x100, 0x20, 1, 0xFFFFFFFF, 0, 0, 0, 0, 0⟩,
   ⟨0x40011014, 0x20, 0x100, 0x20, 1, 0, 0, 0, 0, 0, 0⟩]

/-- All rows of the TIDE block. -/
def rowsTide : List RegRow := rowsTide1 ++ rowsTide2 ++ rowsTide3 ++ rowsTide4

/-- The rows of the IC block. -/
def rowsIc1 : List RegRow :=
  [⟨0x40020000, 4, 1, 4, 1, 0, 0, 0, 0, 0, 0x3FF⟩,
   ⟨0x40020004, 4, 1, 4, 1, 0, 0, 0, 0, 0, 0⟩,
   ⟨0x40020008, 4, 1, 4, 1, 0, 0, 0, 0, 0, 0⟩,
   ⟨0x40020010, 4, 1, 4, 1, 0, 0, 7, 0, 0, 0⟩,
   ⟨0x40020014, 4, 1, 4, 1, 0, 0, 0, 0, 0xFFFFFFFF, 0⟩,
   ⟨0x40020104, 4, 0xC, 4, 1, 0, 0, 0, 0, 0, 0⟩,
   ⟨0x40020144, 4, 0xC, 4, 1, 0, 0, 0, 0, 0, 0⟩,
   ⟨0x40020184, 4, 0xC, 4, 1, 0, 0, 0, 0, 0, 0⟩,
   ⟨0x400201C4, 4, 0xC, 4, 1, 0, 0, 0, 0, 0, 0xFFFFFFFF⟩,
   ⟨0x40020204, 4, 0xC, 4, 1, 0, 0, 0, 0, 0, 0⟩,
   ⟨0x40020244, 4, 0xC, 4, 1, 0, 0, 0, 0, 0, 0⟩,
   ⟨0x40020284, 4, 0xC, 4, 1, 0, 0, 0, 0, 0, 0⟩]

/-- The rows of the IC block, continued. -/
def rowsIc2 : List RegRow :=
  [⟨0x400202C4, 4, 0xC, 4, 1, 0, 0, 0, 0, 0, 0⟩,
   ⟨0x40020420, 4, 0x60, 4, 1, 0, 0, 0, 0, 0xFFFFFFFF, 0⟩,
   ⟨0x40020800, 4, 0x20, 4, 1, 0x81FF, 0, 0, 0, 0, 0⟩,
   ⟨0x40021080, 4, 0x180, 4, 1, 0xF337F, 0, 0, 0, 0, 0x1000⟩,
   ⟨0x40022000, 4, 0x200, 4, 1, 0, 0, 0, 0, 0, 0⟩]

/-- All rows of the IC block. -/
def rowsIc : List RegRow := rowsIc1 ++ rowsIc2

/-- The rows of the BWTR block. -/
def rowsBwtr1 : List RegRow :=
  [⟨0x40030000, 4, 1, 4, 1, 0, 0x30F, 0, 0, 0, 0x204⟩,
   ⟨0x40030004, 4, 1, 4, 1, 0, 0, 0x300, 0, 0, 0⟩,
   ⟨0x40030010, 4, 1, 4, 1, 0, 0, 0, 0, 0, 0⟩,
   ⟨0x40030014, 4, 1, 4, 1, 0, 0, 0, 0, 0xFFFFFFFF, 0⟩,
   ⟨0x40030020, 4, 5, 4, 1, 0, 0, 0, 0, 0, 0⟩,
   ⟨0x40030038, 4, 1, 4, 1, 0, 0, 0, 0, 0, 0⟩,
   ⟨0x40030040, 4, 1, 4, 1, 0, 0, 0, 0, 0, 0⟩,
   ⟨0x40030080, 4, 0x10, 4, 1, 0, 0, 0, 0, 0, 0x76543210⟩,
   ⟨0x400300C0, 4, 0x10, 4, 1, 0, 0, 0, 0, 0, 0xFF⟩,
   ⟨0x40030100, 4, 0x10, 4, 1, 0, 0, 0xFF, 0, 0, 0⟩,
   ⟨0x40030140, 4, 0x10, 4, 1, 0xFF, 0, 0, 0, 0, 0⟩,
   ⟨0x40030180, 4, 0x10, 4, 1, 0, 0, 0, 0, 0, 0⟩]

/-- The rows of the BWTR block, continued. -/
def rowsBwtr2 : List RegRow :=
  [⟨0x40031000, 0x20, 0x20, 0x20, 1, 0, 0, 0, 0, 0, 0⟩,
   ⟨0x40031004, 0x20, 0x20, 0x20, 1, 0, 0, 0, 0, 0, 0⟩,
   ⟨0x40031008, 0x20, 0x20, 0x20, 1, 0, 0, 0, 0, 0, 0⟩,
   ⟨0x4003100C, 0x20, 0x20, 0x20, 1, 0, 0, 0, 0, 0xFFFFFFFF, 0⟩,
   ⟨0x40031010, 0x20, 0x20, 0x20, 1, 0, 0, 0, 0, 0xFFFFFFFF, 0⟩,
   ⟨0x40031014, 0x20, 0x20, 0x20, 1, 0, 0, 0, 0, 0xFFFFFFFF, 0⟩,
   ⟨0x40031018, 0x20, 0x20, 0x20, 1, 0, 0, 0, 0, 0xFFFFFFFF, 0⟩]

/-- All rows of the BWTR block. -/
def rowsBwtr : List RegRow := rowsBwtr1 ++ rowsBwtr2

/-- The rows of the QFA block. -/
def rowsQfa1 : List RegRow :=
  [⟨0x40040000, 4, 1, 4, 1, 0, 0, 0, 0, 0, 0⟩,
   ⟨0x40040004, 4, 1, 4, 1, 0, 0, 0xF00, 0, 0, 0⟩,
   ⟨0x40040008, 4, 1, 4, 1, 0xF00, 0, 0, 0, 0, 0⟩,
   ⟨0x4004000C, 4, 1, 4, 1, 0, 0, 0, 0, 0, 0⟩,
   ⟨0x40040010, 4, 1, 4, 1, 0, 0, 0, 0, 0, 0⟩,
   ⟨0x40040018, 4, 1, 4, 1, 0xFFFFFFC0, 0, 0, 0, 0, 0⟩,
   ⟨0x4004001C, 4, 1, 4, 1, 0xFFF, 0, 0, 0, 0, 0x10⟩,
   ⟨0x40040020, 4, 1, 4, 1, 0xFFFFFFFF, 0, 0, 0, 0, 0x3FFFFFF⟩,
   ⟨0x40040028, 4, 1, 4, 1, 0, 0, 0, 0, 0, 0⟩,
   ⟨0x4004002C, 4, 1, 4, 1, 0, 0, 0, 0, 0, 0⟩,
   ⟨0x40040030, 4, 1, 4, 1, 0, 0, 0, 0, 0, 0⟩,
   ⟨0x40040034, 4, 1, 4, 1, 0, 0, 0, 0, 0, 0⟩]

/-- The rows of the QFA block, continued. -/
def rowsQfa2 : List RegRow :=
  [⟨0x40040038, 4, 1, 4, 1, 0, 0, 0, 0, 0, 0⟩,
   ⟨0x4004003C, 4, 1, 4, 1, 0, 0, 0, 0, 0, 0⟩,
   ⟨0x40040040, 4, 1, 4, 1, 0, 0, 0, 0, 0, 0⟩,
   ⟨0x40040044, 4, 1, 4, 1, 0, 0, 0, 0, 0, 0⟩,
   ⟨0x40040048, 4, 1, 4, 1, 0, 0, 0, 0, 0, 0⟩,
   ⟨0x40040050, 4, 1, 4, 1, 0, 0, 0, 0, 0xFFFF, 0⟩]

/-- All rows of the QFA block. -/
def rowsQfa : List RegRow := rowsQfa1 ++ rowsQfa2

/-- The rows of the CKP block. -/
def rowsCkp1 : List RegRow :=
  [⟨0x40050000, 4, 1, 4, 1, 0, 0, 0x7F00, 0, 0, 0⟩,
   ⟨0x40050004, 4, 1, 4, 1, 0x7F00, 0, 0, 0, 0, 0⟩,
   ⟨0x40050010, 4, 0x10, 4, 1, 7, 0, 0, 0, 0, 0⟩,
   ⟨0x40050050, 4, 1, 4, 1, 0xFF007F, 0, 0, 0, 0, 0x320040⟩,
   ⟨0x40050054, 4, 1, 4, 1, 0, 0, 0, 0, 0, 0⟩,
   ⟨0x40050058, 4, 1, 4, 1, 0, 0, 0, 0, 0, 0⟩,
   ⟨0x4005005C, 4, 1, 4, 1, 0xFFFF, 0, 0, 0, 0, 0x7D0⟩,
   ⟨0x40050060, 4, 1, 4, 1, 0, 0, 0, 0, 0, 0⟩,
   ⟨0x40050070, 4, 1, 4, 1, 0, 0, 0, 0, 0, 0⟩,
   ⟨0x40050080, 4, 1, 4, 1, 0xFFFFFFFF, 0, 0, 0, 0, 0⟩,
   ⟨0x40050084, 4, 1, 4, 1, 0, 0, 0, 0, 0, 0⟩,
   ⟨0x40050090, 4, 1, 4, 1, 0, 0, 0, 0, 0, 0⟩]

/-- The rows of the CKP block, continued. -/
def rowsCkp2 : List RegRow :=
  [⟨0x40050094, 4, 1, 4, 1, 0xFFF, 0, 0, 0, 0, 0x190⟩,
   ⟨0x400500A0, 4, 1, 4, 1, 0, 0, 0, 0, 0xFFFFFFFF, 0⟩,
   ⟨0x400500A4, 4, 1, 4, 1, 0, 0, 0, 0, 0xFFFFFFFF, 0⟩,
   ⟨0x400500A8, 4, 1, 4, 1, 0, 0, 0, 0, 0, 0⟩]

/-- All rows of the CKP block. -/
def rowsCkp : List RegRow := rowsCkp1 ++ rowsCkp2

/-- The rows of the LANT block. -/
def rowsLant : List RegRow :=
  [⟨0x40060000, 4, 1, 4, 1, 0, 0, 0x3F00, 0, 0, 0⟩,
   ⟨0x40060004, 4, 1, 4, 1, 0x3F00, 0, 0, 0, 0, 0⟩,
   ⟨0x40060010, 4, 1, 4, 1, 0xF, 0, 0, 0, 0, 0⟩,
   ⟨0x40060020, 4, 3, 4, 1, 0, 0, 0, 0, 0, 0⟩,
   ⟨0x40060030, 4, 1, 4, 1, 0, 0, 0, 0, 0, 0⟩,
   ⟨0x40060034, 4, 1, 4, 1, 0, 0, 0, 0, 0, 0⟩,
   ⟨0x40060040, 8, 2, 8, 1, 0xFFFFFFFF, 0, 0, 0, 0, 0⟩,
   ⟨0x40060044, 8, 2, 8, 1, 0x8000FFFF, 0, 0, 0, 0, 0⟩,
   ⟨0x40060060, 4, 1, 4, 1, 0x7C, 0, 0, 0, 0, 0x58⟩,
   ⟨0x40060064, 4, 1, 4, 1, 0xFF, 0, 0, 0, 0, 0xA⟩,
   ⟨0x40060070, 4, 1, 4, 1, 0xFFFC, 0, 0, 0, 0, 0⟩,
   ⟨0x40060074, 4, 1, 4, 1, 0, 0, 0, 0, 0, 0⟩]

/-- The rows of the SEC block. -/
def rowsSec1 : List RegRow :=
  [⟨0x40070000, 4, 1, 4, 1, 0, 0, 0xF, 0, 0, 0⟩,
   ⟨0x40070004, 4, 1, 4, 1, 0xF, 0, 0, 0, 0, 0⟩,
   ⟨0x40070008, 4, 1, 4, 1, 0, 0, 0, 0, 0, 0⟩,
   ⟨0x4007000C, 4, 1, 4, 1, 0, 0, 0, 0, 0, 0⟩,
   ⟨0x40070010, 4, 1, 4, 1, 0, 0, 0, 0, 0, 0⟩,
   ⟨0x40070020, 8, 4, 8, 1, 0, 0, 0, 0, 0, 0⟩,
   ⟨0x40070024, 8, 4, 8, 1, 0, 0, 0, 0, 0, 0⟩,
   ⟨0x40070040, 8, 4, 8, 1, 0, 0, 0, 0, 0, 0⟩,
   ⟨0x40070044, 8, 4, 8, 1, 0, 0, 0, 0, 0, 0⟩,
   ⟨0x40070060, 4, 1, 4, 1, 0, 0, 0, 0, 0, 0⟩,
   ⟨0x40070064, 4, 1, 4, 1, 0, 0, 0, 0, 0xFFFFFFFF, 0⟩,
   ⟨0x40070068, 4, 1, 4, 1, 0, 0, 0, 0, 0xFFFFFFFF, 0⟩]

/-- The rows of the SEC block, continued. -/
def rowsSec2 : List RegRow :=
  [⟨0x4007006C, 4, 1, 4, 1, 0, 0, 0, 0, 0, 0⟩,
   ⟨0x40071000, 4, 0x400, 4, 1, 0xFFFFFFFF, 0, 0, 0, 0, 0⟩,
   ⟨0x40072000, 4, 0x400, 4, 1, 0, 0, 0, 0, 0, 0⟩,
   ⟨0x40073000, 4, 1, 4, 1, 0, 0, 0, 0, 0, 0⟩,
   ⟨0x40073004, 4, 1, 4, 1, 0, 0, 0x100, 0, 0, 0⟩,
   ⟨0x40073008, 4, 1, 4, 1, 0, 0, 0, 0, 0, 0⟩]

/-- All rows of the SEC block. -/
def rowsSec : List RegRow := rowsSec1 ++ rowsSec2

/-- The rows of the JRNL block. -/
def rowsJrnl1 : List RegRow :=
  [⟨0x40080000, 4, 1, 4, 1, 0, 0, 0x3F00, 0, 0, 0⟩,
   ⟨0x40080004, 4, 1, 4, 1, 0x3F00, 0, 0, 0, 0, 0⟩,
   ⟨0x40080008, 4, 1, 4, 1, 0, 0, 0, 0, 0, 0⟩,
   ⟨0x4008000C, 4, 1, 4, 1, 0, 0, 0, 0, 0, 0⟩,
   ⟨0x40080010, 4, 1, 4, 1, 0, 0, 0, 0, 0, 0⟩,
   ⟨0x40080014, 4, 1, 4, 1, 0, 0, 0, 0, 0, 0⟩,
   ⟨0x40080018, 4, 1, 4, 1, 0, 0, 0, 0, 0, 0⟩,
   ⟨0x40080020, 4, 1, 4, 1, 0, 0, 0, 0, 0, 0⟩,
   ⟨0x40080024, 4, 1, 4, 1, 0, 0, 0, 0, 0, 0⟩,
   ⟨0x40080028, 4, 1, 4, 1, 0, 0, 0, 0, 0, 0⟩,
   ⟨0x4008002C, 4, 1, 4, 1, 0, 0, 0, 0, 0, 0⟩,
   ⟨0x40081000, 4, 0x100, 4, 1, 0xFFFFFFFF, 0, 0, 0, 0, 0⟩]

/-- The rows of the JRNL block, continued. -/
def rowsJrnl2 : List RegRow :=
  [⟨0x40082000, 4, 0x100, 4, 1, 0, 0, 0, 0, 0, 0⟩]

/-- All rows of the JRNL block. -/
def rowsJrnl : List RegRow := rowsJrnl1 ++ rowsJrnl2

/-- The rows of the EVI block. -/
def rowsEvi1 : List RegRow :=
  [⟨0x40090000, 0x100, 0x10, 0x100, 1, 0xFF07, 0, 0, 0, 0, 0⟩,
   ⟨0x40090004, 0x100, 0x10, 0x100, 1, 0, 0, 0x700, 0, 0, 0⟩,
   ⟨0x40090008, 0x100, 0x10, 0x100, 1, 0x701, 0, 0, 0, 0, 0⟩,
   ⟨0x4009000C, 0x100, 0x10, 0x100, 1, 0x7FF, 0, 0, 0, 0, 1⟩,
   ⟨0x40090010, 0x100, 0x10, 0x100, 1, 0, 0, 0, 0, 0, 0⟩,
   ⟨0x40090014, 0x100, 0x10, 0x100, 1, 0, 0, 0, 0, 0xFFFFFFFF, 0⟩,
   ⟨0x40090018, 0x100, 0x10, 0x100, 1, 0, 0, 0, 0, 0xFFFFFFFF, 0⟩,
   ⟨0x4009001C, 0x100, 0x10, 0x100, 1, 0, 0, 0, 0, 0xFFFFFFFF, 0⟩,
   ⟨0x40090020, 0x100, 0x10, 0x100, 1, 0xFF, 0, 0, 0, 0, 0⟩,
   ⟨0x40090030, 0x100, 0x10, 4, 8, 0xFF, 0, 0, 0, 0, 0⟩,
   ⟨0x40090050, 0x100, 0x10, 4, 4, 0, 0, 0, 0, 0, 0⟩,
   ⟨0x40090060, 0x100, 0x10, 0x100, 1, 0, 0, 0, 0, 0, 0⟩]

/-- The rows of the EVI block, continued. -/
def rowsEvi2 : List RegRow :=
  [⟨0x40090070, 0x100, 0x10, 4, 4, 0xFFFFFFFF, 0, 0, 0, 0, 0⟩]

/-- All rows of the EVI block. -/
def rowsEvi : List RegRow := rowsEvi1 ++ rowsEvi2

/-- The rows of the PIN block. -/
def rowsPin : List RegRow :=
  [⟨0x400A0000, 4, 0x48, 4, 1, 0xF77, 0, 0, 0, 0, 0x550⟩,
   ⟨0x400A0200, 4, 0x10, 4, 1, 0x700, 0, 0, 0, 0, 0x500⟩,
   ⟨0x400A0300, 4, 3, 4, 1, 0xFFFFFFFF, 0, 0, 0, 0, 0⟩,
   ⟨0x400A0310, 4, 3, 4, 1, 0, 0, 0, 0, 0, 0⟩,
   ⟨0x400A0320, 4, 3, 4, 1, 0, 0, 0, 0, 0, 0⟩,
   ⟨0x400A0330, 4, 3, 4, 1, 0, 0, 0, 0, 0, 0⟩,
   ⟨0x400A0340, 4, 3, 4, 1, 0xFFFFFFFF, 0, 0, 0, 0, 0⟩,
   ⟨0x400A0350, 4, 3, 4, 1, 0, 0, 0, 0, 0, 0⟩,
   ⟨0x400A0360, 4, 5, 4, 1, 0xFFFFFFFF, 0, 0, 0, 0, 0⟩,
   ⟨0x400A0380, 4, 3, 4, 1, 0, 0, 0xFFFFFFFF, 0, 0, 0⟩]

/-- The rows of the MEMC block. -/
def rowsMemc1 : List RegRow :=
  [⟨0x400B0000, 4, 1, 4, 1, 1, 0, 0, 0, 0, 1⟩,
   ⟨0x400B0004, 4, 1, 4, 1, 0, 0, 0x3F, 0, 0, 0⟩,
   ⟨0x400B0008, 4, 1, 4, 1, 0x3F, 0, 0, 0, 0, 0⟩,
   ⟨0x400B0010, 4, 1, 4, 1, 0xFFFF, 0, 0, 0, 0, 0x100⟩,
   ⟨0x400B0014, 4, 1, 4, 1, 0, 0, 0, 0, 0xFFFFFFFF, 0⟩,
   ⟨0x400B0020, 4, 1, 4, 1, 0xFF, 0, 0, 0, 0, 0x64⟩,
   ⟨0x400B0024, 4, 1, 4, 1, 0, 0, 0, 0, 0, 0⟩,
   ⟨0x400B0030, 4, 1, 4, 1, 0, 0, 0, 0, 0, 0⟩,
   ⟨0x400B0034, 4, 1, 4, 1, 0, 0, 0, 0, 0, 0⟩,
   ⟨0x400B0038, 4, 1, 4, 1, 0, 0, 0, 0, 0, 0⟩,
   ⟨0x400B003C, 4, 1, 4, 1, 0, 0, 0, 0, 0, 0⟩,
   ⟨0x400B0040, 4, 1, 4, 1, 0, 0, 0, 0, 0, 0⟩]

/-- The rows of the MEMC block, continued. -/
def rowsMemc2 : List RegRow :=
  [⟨0x400B0050, 4, 1, 4, 1, 0xFFFF, 0, 0, 0, 0, 0x40⟩,
   ⟨0x400B0060, 4, 1, 4, 1, 3, 0, 0, 0, 0, 1⟩,
   ⟨0x400B0070, 4, 1, 4, 1, 0, 0, 0, 0, 0, 0xFFFFFFFF⟩,
   ⟨0x400B0074, 4, 1, 4, 1, 0xFFFFFFFF, 0, 0, 0, 0, 0⟩,
   ⟨0x400B0078, 4, 1, 4, 1, 0xFFFFFFFF, 0, 0, 0, 0, 0⟩,
   ⟨0x400B007C, 4, 1, 4, 1, 0xFFFF, 0, 0, 0, 0, 0x3E8⟩,
   ⟨0x400B0080, 4, 1, 4, 1, 0, 0, 0, 0, 0xFFFFFFFF, 0⟩,
   ⟨0x400B0084, 4, 1, 4, 1, 0, 0, 0, 0, 0xFFFF, 0⟩,
   ⟨0x400B1000, 4, 0x90, 4, 1, 0, 0, 0, 0, 0xFFFFFFFF, 0⟩]

/-- All rows of the MEMC block. -/
def rowsMemc : List RegRow := rowsMemc1 ++ rowsMemc2

/-- The rows of the DDRC block. -/
def rowsDdrc1 : List RegRow :=
  [⟨0x400C0000, 4, 1, 4, 1, 0, 0x107, 0, 0, 0, 6⟩,
   ⟨0x400C0004, 4, 1, 4, 1, 0, 0, 0, 0, 0, 0⟩,
   ⟨0x400C0008, 4, 1, 4, 1, 0, 0, 0, 0, 0, 0⟩,
   ⟨0x400C000C, 4, 1, 4, 1, 0, 0, 0, 0, 0, 0⟩,
   ⟨0x400C0010, 4, 1, 4, 1, 0, 0, 0xF, 0, 0, 0⟩,
   ⟨0x400C0014, 4, 1, 4, 1, 0xF, 0, 0, 0, 0, 0⟩,
   ⟨0x400C0018, 4, 1, 4, 1, 0, 0, 0, 0, 0xFFFFFFFF, 0⟩,
   ⟨0x400C001C, 4, 1, 4, 1, 0xFFFF, 0, 0, 0, 0, 0x100⟩,
   ⟨0x400C0020, 4, 1, 4, 1, 0, 0, 0, 0, 0, 0⟩,
   ⟨0x400C0024, 4, 1, 4, 1, 0, 0, 0, 0, 0, 0⟩,
   ⟨0x400C0028, 4, 1, 4, 1, 0, 0, 0, 0, 0xFFFFFFFF, 0⟩,
   ⟨0x400C0030, 4, 1, 4, 1, 0, 0, 0, 0, 0, 0⟩]

/-- The rows of the DDRC block, continued. -/
def rowsDdrc2 : List RegRow :=
  [⟨0x400C0034, 4, 1, 4, 1, 0xFFFF, 0, 0, 0, 0, 0x64⟩]

/-- All rows of the DDRC block. -/
def rowsDdrc : List RegRow := rowsDdrc1 ++ rowsDdrc2

/-- The rows of the PCIE block. -/
def rowsPcie1 : List RegRow :=
  [⟨0x400D0000, 4, 1, 4, 1, 0xF7, 0, 0, 0, 0, 0x84⟩,
   ⟨0x400D0004, 4, 1, 4, 1, 0, 0, 0, 0, 0, 0⟩,
   ⟨0x400D0008, 4, 1, 4, 1, 0, 0, 0xCB00, 0, 0, 0⟩,
   ⟨0x400D000C, 4, 1, 4, 1, 0xFF00, 0, 0, 0, 0, 0⟩,
   ⟨0x400D0010, 4, 1, 4, 1, 7, 0, 0, 0, 0, 1⟩,
   ⟨0x400D0014, 4, 1, 4, 1, 0, 0, 0, 0, 0, 0⟩,
   ⟨0x400D0018, 4, 1, 4, 1, 0, 0, 0, 0, 0, 0⟩,
   ⟨0x400D001C, 4, 1, 4, 1, 0, 0, 0, 0, 0xFFFFFFFF, 0⟩,
   ⟨0x400D0040, 4, 1, 4, 1, 0, 0, 0, 0, 0, 0⟩,
   ⟨0x400D0044, 4, 1, 4, 1, 0, 0, 0, 0, 0, 0⟩,
   ⟨0x400D0100, 4, 0x40, 4, 1, 0x81FF, 0, 0, 0, 0, 0⟩,
   ⟨0x400D8000, 0x10, 0x40, 0x10, 1, 0xFFFFFFFC, 0, 0, 0, 0, 0⟩]

/-- The rows of the PCIE block, continued. -/
def rowsPcie2 : List RegRow :=
  [⟨0x400D8004, 0x10, 0x40, 0x10, 1, 0xFFFFFFFF, 0, 0, 0, 0, 0⟩,
   ⟨0x400D8008, 0x10, 0x40, 0x10, 1, 0xFFFFFFFF, 0, 0, 0, 0, 0⟩,
   ⟨0x400D800C, 0x10, 0x40, 0x10, 1, 1, 0, 0, 0, 0, 1⟩,
   ⟨0x400D8400, 4, 2, 4, 1, 0, 0, 0, 0, 0, 0⟩,
   ⟨0x400D9000, 4, 0x400, 4, 1, 0xFFFFFFFF, 0, 0, 0, 0, 0⟩,
   ⟨0x400DA000, 4, 0x400, 4, 1, 0, 0, 0, 0, 0, 0⟩,
   ⟨0x400DB000, 4, 1, 4, 1, 0, 0, 0, 0, 0, 0⟩,
   ⟨0x400DB004, 4, 1, 4, 1, 0, 0, 0x100, 0, 0, 0⟩,
   ⟨0x400DB008, 4, 1, 4, 1, 0, 0, 0, 0, 0, 0⟩,
   ⟨0x400DB010, 4, 1, 4, 1, 0, 0, 0, 0xFFFFFFFF, 0, 0⟩,
   ⟨0x400DB014, 4, 1, 4, 1, 0, 0, 0xFFFFFFFF, 0, 0, 0⟩]

/-- All rows of the PCIE block. -/
def rowsPcie : List RegRow := rowsPcie1 ++ rowsPcie2

/-- The rows of the ETH block. -/
def rowsEth1 : List RegRow :=
  [⟨0x400E0000, 0x10000, 2, 0x10000, 1, 7, 0, 0, 0, 0, 0⟩,
   ⟨0x400E0004, 0x10000, 2, 0x10000, 1, 7, 0, 0, 0, 0, 7⟩,
   ⟨0x400E0008, 0x10000, 2, 0x10000, 1, 0, 0, 0, 0, 0, 0⟩,
   ⟨0x400E000C, 0x10000, 2, 0x10000, 1, 0, 0, 0x7700, 0, 0, 0⟩,
   ⟨0x400E0010, 0x10000, 2, 0x10000, 1, 0x7F00, 0, 0, 0, 0, 0⟩,
   ⟨0x400E0014, 0x10000, 2, 0x10000, 1, 0xFFFFFFFF, 0, 0, 0, 0, 0⟩,
   ⟨0x400E0018, 0x10000, 2, 0x10000, 1, 0xFFFF, 0, 0, 0, 0, 0⟩,
   ⟨0x400E0020, 0x10000, 2, 0x10000, 1, 0xFFFFFFFF, 0, 0, 0, 0, 0⟩,
   ⟨0x400E0024, 0x10000, 2, 0x10000, 1, 0xFFFFFFFF, 0, 0, 0, 0, 0⟩,
   ⟨0x400E0030, 0x10000, 2, 0x10000, 1, 0x7FFFFFF, 0, 0, 0, 0, 0x3000000⟩,
   ⟨0x400E0034, 0x10000, 2, 0x10000, 1, 0x7FFFFFF, 0, 0, 0, 0, 0x2000000⟩,
   ⟨0x400E0040, 0x10000, 2, 0x10000, 1, 0x13F, 0, 0, 0, 0, 0⟩]

/-- The rows of the ETH block, continued. -/
def rowsEth2 : List RegRow :=
  [⟨0x400E0044, 0x10000, 2, 0x10000, 1, 0, 0, 0, 0, 0, 0⟩,
   ⟨0x400E0048, 0x10000, 2, 0x10000, 1, 0, 0, 0, 0, 0, 0⟩,
   ⟨0x400E0050, 0x10000, 2, 0x10000, 1, 0, 0, 0, 0, 0xFFFFFFFF, 0⟩,
   ⟨0x400E0054, 0x10000, 2, 0x10000, 1, 0, 0, 0, 0, 0xFFFFFFFF, 0⟩,
   ⟨0x400E0100, 0x10000, 2, 0x10000, 1, 0xFFFF03, 0, 0, 0, 0, 0xF8F600⟩,
   ⟨0x400E0104, 0x10000, 2, 0x10000, 1, 0xFFFFFFFF, 0, 0, 0, 0, 0x4E5DFEF8⟩,
   ⟨0x400E0108, 0x10000, 2, 0x10000, 1, 0xFFFFFFFF, 0, 0, 0, 0, 0⟩,
   ⟨0x400E010C, 0x10000, 2, 0x10000, 1, 0, 0, 0, 0, 0, 0⟩,
   ⟨0x400E0110, 0x10000, 2, 0x10000, 1, 0, 0, 0, 0, 0, 0⟩,
   ⟨0x400E0114, 0x10000, 2, 0x10000, 1, 0, 0, 0, 0, 0, 0⟩,
   ⟨0x400E0118, 0x10000, 2, 0x10000, 1, 0, 0, 0, 0, 0, 0⟩,
   ⟨0x400E011C, 0x10000, 2, 0x10000, 1, 0, 0, 0, 0, 0, 0⟩]

/-- The rows of the ETH block, continued. -/
def rowsEth3 : List RegRow :=
  [⟨0x400E0120, 0x10000, 2, 0x10000, 1, 0, 0, 0, 0, 0, 0⟩,
   ⟨0x400E0124, 0x10000, 2, 0x10000, 1, 0, 0, 0, 0, 0, 0⟩,
   ⟨0x400E0128, 0x10000, 2, 0x10000, 1, 0xFFFFFFFF, 0, 0, 0, 0, 0⟩,
   ⟨0x400E012C, 0x10000, 2, 0x10000, 1, 0xFFFFFFFF, 0, 0, 0, 0, 0⟩,
   ⟨0x400E4000, 0x40, 0x40, 0x40, 1, 0x7FFFFF, 0, 0, 0, 0, 0⟩,
   ⟨0x400E5000, 0x40, 0x40, 0x40, 1, 0x3F1FFFFF, 0, 0, 0, 0, 0⟩,
   ⟨0x400E4004, 0x40, 0x40, 0x40, 1, 0xFFFFFFFF, 0, 0, 0, 0, 0⟩,
   ⟨0x400E4008, 0x40, 0x40, 0x40, 1, 0xFFFFFFFF, 0, 0, 0, 0, 0⟩,
   ⟨0x400E5004, 0x40, 0x40, 0x40, 1, 0xFFFFFFFF, 0, 0, 0, 0, 0⟩,
   ⟨0x400E5008, 0x40, 0x40, 0x40, 1, 0xFFFFFFFF, 0, 0, 0, 0, 0⟩,
   ⟨0x400E400C, 0x40, 0x40, 0x40, 1, 0xFFFFFFFF, 0, 0, 0, 0, 0⟩,
   ⟨0x400E4010, 0x40, 0x40, 0x40, 1, 0xFFFF, 0, 0, 0, 0, 0⟩]

/-- The rows of the ETH block, continued. -/
def rowsEth4 : List RegRow :=
  [⟨0x400E4014, 0x40, 0x40, 0x40, 1, 0xFFF, 0, 0, 0, 0, 2⟩,
   ⟨0x400E4018, 0x40, 0x40, 0x40, 1, 0xFFFFFFFF, 0, 0, 0, 0, 0⟩,
   ⟨0x400E401C, 0x40, 0x40, 0x40, 1, 0xFFF, 0, 0, 0, 0, 0⟩,
   ⟨0x400E5018, 0x40, 0x40, 0x40, 1, 0xFFFFFFFF, 0, 0, 0, 0, 0⟩,
   ⟨0x400E501C, 0x40, 0x40, 0x40, 1, 0xFFF, 0, 0, 0, 0, 0⟩,
   ⟨0x400E4020, 0x40, 0x40, 0x40, 1, 0xFFFFFFFF, 0, 0, 0, 0, 0x1E8480⟩,
   ⟨0x400E5020, 0x40, 0x40, 0x40, 1, 0xFFFFFFFF, 0, 0, 0, 0, 0⟩,
   ⟨0x400E4024, 0x40, 0x40, 0x40, 1, 0, 0, 0, 0, 0xFFFFFFFF, 0⟩,
   ⟨0x400E5024, 0x40, 0x40, 0x40, 1, 0, 0, 0, 0, 0, 0⟩,
   ⟨0x400E4028, 0x40, 0x40, 0x40, 1, 0, 0, 0, 0, 0xFFFFFFFF, 0⟩,
   ⟨0x400E5028, 0x40, 0x40, 0x40, 1, 0, 0, 0, 0, 0xFFFFFFFF, 0⟩,
   ⟨0x400E502C, 0x40, 0x40, 0x40, 1, 0, 0, 0, 0, 0xFFFFFFFF, 0⟩]

/-- The rows of the ETH block, continued. -/
def rowsEth5 : List RegRow :=
  [⟨0x400E5030, 0x40, 0x40, 0x40, 1, 0, 0, 0, 0, 0xFFFFFFFF, 0⟩,
   ⟨0x400E8000, 0x10000, 2, 4, 0x400, 0, 0, 0, 0, 0, 0⟩,
   ⟨0x400E9000, 0x10000, 2, 4, 0x400, 0, 0, 0, 0, 0, 0⟩]

/-- All rows of the ETH block. -/
def rowsEth : List RegRow := rowsEth1 ++ rowsEth2 ++ rowsEth3 ++ rowsEth4 ++ rowsEth5

/-- The rows of the SAP block. -/
def rowsSap : List RegRow :=
  [⟨0x40100000, 0x1000, 0x40, 0x1000, 1, 0x1FFFF, 0, 0, 0, 0, 0⟩,
   ⟨0x40100004, 0x1000, 0x40, 0x1000, 1, 0, 0, 0xFF00, 0, 0, 0⟩,
   ⟨0x40100008, 0x1000, 0x40, 0x1000, 1, 0xFF00, 0, 0, 0, 0, 0⟩,
   ⟨0x4010000C, 0x1000, 0x40, 0x1000, 1, 0, 0xFFFFFFFF, 0, 0, 0, 0⟩,
   ⟨0x40100010, 0x1000, 0x40, 0x1000, 1, 0, 0xFFFFFFFF, 0, 0, 0, 0⟩,
   ⟨0x40100014, 0x1000, 0x40, 0x1000, 1, 0xFFFFFFFF, 0, 0, 0, 0, 0xFFFFFFFF⟩,
   ⟨0x40100018, 0x1000, 0x40, 0x1000, 1, 0, 0, 0, 0, 0xFFFFFFFF, 0⟩,
   ⟨0x4010001C, 0x1000, 0x40, 0x1000, 1, 0, 0, 0, 0, 0xFFFFFFFF, 0⟩,
   ⟨0x40100020, 0x1000, 0x40, 0x1000, 1, 0, 0, 0, 0, 0, 0⟩,
   ⟨0x40100024, 0x1000, 0x40, 0x1000, 1, 0, 0, 0, 0, 0, 0⟩]

/-- The rows of the SAPG block. -/
def rowsSapg : List RegRow :=
  [⟨0x40140000, 0x100, 8, 0x100, 1, 0x77FFF, 0, 0, 0, 0, 0x2000⟩,
   ⟨0x40140004, 0x100, 8, 0x100, 1, 0, 0, 0x300, 0, 0, 0⟩,
   ⟨0x40140008, 0x100, 8, 0x100, 1, 0, 0, 0, 0, 0, 0⟩,
   ⟨0x40141000, 4, 0x800, 4, 1, 0, 0, 0, 0, 0, 0⟩]

/-- The rows of the STR block. -/
def rowsStr1 : List RegRow :=
  [⟨0x40200000, 0x10000, 8, 0x10000, 1, 1, 0, 0, 0, 0, 0⟩,
   ⟨0x40200004, 0x10000, 8, 0x10000, 1, 0x3F, 0, 0, 0, 0, 0x1A⟩,
   ⟨0x40200008, 0x10000, 8, 0x10000, 1, 0, 0, 0xFFF00, 0, 0, 0⟩,
   ⟨0x4020000C, 0x10000, 8, 0x10000, 1, 0xFFF00, 0, 0, 0, 0, 0⟩,
   ⟨0x40200010, 0x10000, 8, 0x10000, 1, 0, 0, 0, 0, 0, 0⟩,
   ⟨0x40200014, 0x10000, 8, 0x10000, 1, 0, 0, 0, 0, 0, 0⟩,
   ⟨0x40200018, 0x10000, 8, 0x10000, 1, 0, 0, 0, 0, 0, 0⟩,
   ⟨0x4020001C, 0x10000, 8, 0x10000, 1, 0, 0, 0, 0, 0, 0⟩,
   ⟨0x40200020, 0x10000, 8, 0x10000, 1, 0, 0, 0, 0, 0, 0⟩,
   ⟨0x40200024, 0x10000, 8, 0x10000, 1, 0, 0, 0, 0, 0, 0⟩,
   ⟨0x40200028, 0x10000, 8, 0x10000, 1, 0, 0, 0, 0, 0, 0⟩,
   ⟨0x4020002C, 0x10000, 8, 0x10000, 1, 0xFFFF, 0, 0, 0, 0, 0x40⟩]

/-- The rows of the STR block, continued. -/
def rowsStr2 : List RegRow :=
  [⟨0x40200030, 0x10000, 8, 0x10000, 1, 0, 0, 0, 0, 0, 0⟩,
   ⟨0x40200034, 0x10000, 8, 0x10000, 1, 0, 0, 0, 0, 0, 0⟩,
   ⟨0x40200040, 0x10000, 8, 0x10000, 1, 0, 0, 0, 0, 0xFFFFFFFF, 0⟩,
   ⟨0x40200044, 0x10000, 8, 0x10000, 1, 0, 0, 0, 0, 0xFFFFFFFF, 0⟩,
   ⟨0x40200048, 0x10000, 8, 0x10000, 1, 0, 0, 0, 0, 0xFFFFFFFF, 0⟩,
   ⟨0x4020004C, 0x10000, 8, 0x10000, 1, 0, 0, 0, 0, 0xFFFFFFFF, 0⟩,
   ⟨0x40200050, 0x10000, 8, 0x10000, 1, 0, 0, 0, 0, 0xFFFFFFFF, 0⟩,
   ⟨0x40200058, 0x10000, 8, 0x10000, 1, 0, 0, 0, 0, 0xFFFFFFFF, 0⟩,
   ⟨0x4020005C, 0x10000, 8, 0x10000, 1, 0, 0, 0, 0, 0xFFFFFFFF, 0⟩,
   ⟨0x40200054, 0x10000, 8, 0x10000, 1, 0, 0, 0, 0, 0, 0⟩,
   ⟨0x40200060, 0x10000, 8, 0x10000, 1, 0, 0, 0, 0, 0, 0⟩,
   ⟨0x40200064, 0x10000, 8, 4, 4, 0, 0, 0, 0, 0, 0⟩]

/-- The rows of the STR block, continued. -/
def rowsStr3 : List RegRow :=
  [⟨0x40200074, 0x10000, 8, 0x10000, 1, 0, 0, 0, 0, 0, 0⟩]

/-- All rows of the STR block. -/
def rowsStr : List RegRow := rowsStr1 ++ rowsStr2 ++ rowsStr3

/-- The rows of the CAMP block. -/
def rowsCamp1 : List RegRow :=
  [⟨0x40280000, 4, 1, 4, 1, 0, 0xFFFF0FFF, 0, 0, 0, 0⟩,
   ⟨0x40280004, 4, 1, 4, 1, 0, 0, 0x3F00, 0, 0, 0⟩,
   ⟨0x40280008, 4, 1, 4, 1, 0x3F00, 0, 0, 0, 0, 0⟩,
   ⟨0x4028000C, 4, 1, 4, 1, 0, 0, 0, 0, 0, 0⟩,
   ⟨0x40280010, 4, 1, 4, 1, 0, 0, 0, 0, 0, 0⟩,
   ⟨0x40280014, 4, 1, 4, 1, 0, 0, 0, 0, 0, 0⟩,
   ⟨0x40280018, 4, 1, 4, 1, 0, 0xFFFFFFFF, 0, 0, 0, 0⟩,
   ⟨0x4028001C, 4, 1, 4, 1, 0, 0xFFFFFFFF, 0, 0, 0, 0⟩,
   ⟨0x40280020, 4, 1, 4, 1, 0xFFFF, 0, 0, 0, 0, 0xA⟩,
   ⟨0x40280024, 4, 1, 4, 1, 0, 0, 0, 0, 0xFFFFFFFF, 0⟩,
   ⟨0x40280100, 0x10, 8, 0x10, 1, 0, 0, 0, 0, 0, 0⟩,
   ⟨0x40280104, 0x10, 8, 0x10, 1, 0, 0, 0, 0, 0, 0⟩]

/-- The rows of the CAMP block, continued. -/
def rowsCamp2 : List RegRow :=
  [⟨0x40280108, 0x10, 8, 0x10, 1, 0, 0, 0, 0, 0, 0⟩,
   ⟨0x4028010C, 0x10, 8, 0x10, 1, 0, 0, 0, 0, 0, 0⟩,
   ⟨0x40280180, 4, 8, 4, 1, 0, 0, 0, 0, 0, 0⟩]

/-- All rows of the CAMP block. -/
def rowsCamp : List RegRow := rowsCamp1 ++ rowsCamp2

/-- The rows of the FRY block. -/
def rowsFry1 : List RegRow :=
  [⟨0x40300000, 0x1000, 0x40, 0x1000, 1, 0, 3, 0, 0, 0, 0⟩,
   ⟨0x40300004, 0x1000, 0x40, 0x1000, 1, 0, 0, 0, 0, 0, 0⟩,
   ⟨0x40300008, 0x1000, 0x40, 0x1000, 1, 0, 0, 0x3FF00, 0, 0, 0⟩,
   ⟨0x4030000C, 0x1000, 0x40, 0x1000, 1, 0x3FF00, 0, 0, 0, 0, 0⟩,
   ⟨0x40300010, 0x1000, 0x40, 0x1000, 1, 0xFFFFFFF8, 0, 0, 0, 0, 0⟩,
   ⟨0x40300014, 0x1000, 0x40, 0x1000, 1, 0xFFF, 0, 0, 0, 0, 0⟩,
   ⟨0x40300018, 0x1000, 0x40, 0x1000, 1, 0, 0, 0, 0, 0, 0⟩,
   ⟨0x4030001C, 0x1000, 0x40, 0x1000, 1, 0, 0, 0, 0, 0, 0⟩,
   ⟨0x40300020, 0x1000, 0x40, 0x1000, 1, 0, 0, 0, 0, 0, 0⟩,
   ⟨0x40300024, 0x1000, 0x40, 0x1000, 1, 0, 0, 0, 0, 0, 0⟩,
   ⟨0x40300028, 0x1000, 0x40, 0x1000, 1, 0, 0, 0, 0, 0, 0⟩,
   ⟨0x4030002C, 0x1000, 0x40, 0x1000, 1, 0, 0, 0, 0, 0, 0⟩]

/-- The rows of the FRY block, continued. -/
def rowsFry2 : List RegRow :=
  [⟨0x40300030, 0x1000, 0x40, 0x1000, 1, 0xFFFFFFFF, 0, 0, 0, 0, 0⟩,
   ⟨0x40300034, 0x1000, 0x40, 0x1000, 1, 3, 0, 0, 0, 0, 0⟩,
   ⟨0x40300040, 0x1000, 0x40, 0x1000, 1, 0, 0, 0, 0, 0, 0⟩,
   ⟨0x40300044, 0x1000, 0x40, 0x1000, 1, 0, 0, 0, 0, 0, 0⟩,
   ⟨0x40300048, 0x1000, 0x40, 0x1000, 1, 0, 0, 0, 0, 0, 0⟩,
   ⟨0x4030004C, 0x1000, 0x40, 0x1000, 1, 0, 0, 0, 0, 0, 0⟩,
   ⟨0x40300050, 0x1000, 0x40, 0x1000, 1, 0, 0, 0, 0, 0, 0⟩,
   ⟨0x40300054, 0x1000, 0x40, 0x1000, 1, 0, 0, 0, 0, 0, 0⟩,
   ⟨0x40300058, 0x1000, 0x40, 0x1000, 1, 0, 0, 0, 0, 0, 0⟩,
   ⟨0x4030005C, 0x1000, 0x40, 0x1000, 1, 0, 0, 0, 0, 0, 0⟩,
   ⟨0x40300060, 0x1000, 0x40, 0x1000, 1, 0, 0, 0, 0, 0, 0⟩,
   ⟨0x40300064, 0x1000, 0x40, 0x1000, 1, 0, 0, 0, 0, 0, 0⟩]

/-- The rows of the FRY block, continued. -/
def rowsFry3 : List RegRow :=
  [⟨0x40300070, 0x1000, 0x40, 0x1000, 1, 0, 0, 0, 0, 0xFFFFFFFF, 0⟩,
   ⟨0x40300074, 0x1000, 0x40, 0x1000, 1, 0, 0, 0, 0, 0xFFFFFFFF, 0⟩,
   ⟨0x40300080, 0x1000, 0x40, 0x10, 4, 0, 0xFFFFFFF8, 0, 0, 0, 0⟩,
   ⟨0x40300084, 0x1000, 0x40, 0x10, 4, 0, 0x70FFF, 0, 0, 0, 0⟩,
   ⟨0x40300088, 0x1000, 0x40, 0x10, 4, 0, 0xFFFFFFFF, 0, 0, 0, 0⟩]

/-- All rows of the FRY block. -/
def rowsFry : List RegRow := rowsFry1 ++ rowsFry2 ++ rowsFry3

/-- The rows of the FRYG block. -/
def rowsFryg : List RegRow :=
  [⟨0x40340000, 4, 1, 4, 1, 0, 0, 0, 0, 0, 0⟩,
   ⟨0x40340004, 4, 1, 4, 1, 0, 0, 0, 0, 0, 0⟩,
   ⟨0x40340008, 4, 1, 4, 1, 0, 0, 0, 0, 0, 0⟩,
   ⟨0x4034000C, 4, 1, 4, 1, 0, 0, 0, 0, 0, 0⟩,
   ⟨0x40340010, 4, 1, 4, 1, 0, 0, 0, 0, 0, 0⟩,
   ⟨0x40340014, 4, 1, 4, 1, 0, 0, 0, 0, 0, 0⟩]

/-- The rows of the CORE block. -/
def rowsCore1 : List RegRow :=
  [⟨0x41000200, 0x10000, 0x90, 0x10000, 1, 0, 0x1FF, 0, 0, 0, 0x110⟩,
   ⟨0x41000204, 0x10000, 0x90, 0x10000, 1, 0, 0x173, 0, 0, 0, 0⟩,
   ⟨0x41000208, 0x10000, 0x90, 0x10000, 1, 0, 0, 0, 0, 0, 0⟩,
   ⟨0x4100020C, 0x10000, 0x90, 0x10000, 1, 0, 0, 0, 0, 0, 0⟩,
   ⟨0x41000210, 0x10000, 0x90, 0x10000, 1, 0, 0, 0, 0, 0, 0⟩,
   ⟨0x41000214, 0x10000, 0x90, 0x10000, 1, 0, 0, 0, 0, 0, 0⟩,
   ⟨0x41000218, 0x10000, 0x90, 0x10000, 1, 0, 0, 0, 0, 0, 0⟩,
   ⟨0x4100021C, 0x10000, 0x90, 0x10000, 1, 0, 0, 0, 0, 0, 0⟩,
   ⟨0x41000220, 0x10000, 0x90, 0x10000, 1, 0, 0, 0, 0, 0, 0⟩,
   ⟨0x41000224, 0x10000, 0x90, 0x10000, 1, 0, 0, 0, 0, 0, 0⟩,
   ⟨0x41000228, 0x10000, 0x90, 0x10000, 1, 0, 0, 0, 0, 0, 0⟩,
   ⟨0x4100022C, 0x10000, 0x90, 0x10000, 1, 0, 0, 0, 0, 0, 0⟩]

/-- The rows of the CORE block, continued. -/
def rowsCore2 : List RegRow :=
  [⟨0x41000230, 0x10000, 0x90, 0x10000, 1, 0, 0, 0, 0, 0, 0⟩]

/-- All rows of the CORE block. -/
def rowsCore : List RegRow := rowsCore1 ++ rowsCore2

/-- The register blocks: base, span in bytes (R712), rows. -/
def regBlocks : List (Nat × Nat × List RegRow) :=
  [(0x40000000, 0x10000, rowsSys),
   (0x40010000, 0x10000, rowsTide),
   (0x40020000, 0x10000, rowsIc),
   (0x40030000, 0x10000, rowsBwtr),
   (0x40040000, 0x10000, rowsQfa),
   (0x40050000, 0x10000, rowsCkp),
   (0x40060000, 0x10000, rowsLant),
   (0x40070000, 0x10000, rowsSec),
   (0x40080000, 0x10000, rowsJrnl),
   (0x40090000, 0x10000, rowsEvi),
   (0x400A0000, 0x10000, rowsPin),
   (0x400B0000, 0x10000, rowsMemc),
   (0x400C0000, 0x10000, rowsDdrc),
   (0x400D0000, 0x10000, rowsPcie),
   (0x400E0000, 0x20000, rowsEth),
   (0x40100000, 0x40000, rowsSap),
   (0x40140000, 0x10000, rowsSapg),
   (0x40200000, 0x80000, rowsStr),
   (0x40280000, 0x10000, rowsCamp),
   (0x40300000, 0x40000, rowsFry),
   (0x40340000, 0x1000, rowsFryg),
   (0x41000000, 0x900000, rowsCore)]

/-- Does the address lie inside the span of a register block (R712)? -/
def inRegBlock (a : Nat) : Bool := regBlocks.any (fun b => decide (b.1 ≤ a) && decide (a < b.1 + b.2.1))

/-- The index row a word address lies in, if any. -/
def regRow? (a : Nat) : Option RegRow :=
  match regBlocks.find? (fun b => decide (b.1 ≤ a) && decide (a < b.1 + b.2.1)) with
  | none => none
  | some b => b.2.2.find? (fun r => r.has a)

/-- What a register reads as until something changes it: its COLD-reset value (R713: 0 where the index gives none). -/
def regDefault (a : Nat) : BitVec 32 :=
  match regRow? a with
  | none => 0
  | some r => BitVec.ofNat 32 r.reset

end Sys2Proof.Machine
end

