-- ==== Sys2Proof/Machine/State.lean ====
section
/-! DEFINITION. The state of the SX-9 block as plain data, and the state after reset. Device registers stand in one map by
physical address (`regs`, see Machine/RegTable.lean); everything else the spec gives the machine has a field here. -/

namespace Sys2Proof.Machine

/-! ## Tide (spec/02_tide.md) -/

/-- The lock states of Table 02-4. -/
inductive LockState where
  | free | acquire | locked | holdover
  deriving DecidableEq, Repr

/-- One entry of the tempo queue (R77): the 48-bit sample count AT, the value, and its kind. -/
structure TempoEntry where
  at_    : BitVec 48
  value  : BitVec 64
  locate : Bool
  deriving DecidableEq, Repr

/-- A GPIO action on its way to its pin (R69, R75): TKCLK edges left, the compare that fired, pin and operation. -/
structure GpioPend where
  left : Nat
  cmp  : Nat
  pin  : Nat
  op   : Nat
  deriving DecidableEq, Repr

/-- The Tide: sample count, phase, beat position with its 32 internal fraction bits (48.48), tempo increment in force,
frame count and start, samples elapsed in the frame, frame length in force, tempo queue, lock state, fallback taken,
in-limits updates in a row (R50), intervals a lost reference has been back (R56), phase error beyond 1 µs seen, pending
step of the sample count (R58), counting stopped between B0 and the first sample at a new rate (R87), the GPIO actions of
fires on their way to their pins (R75), the action 4 fires of the present TKCLK edge with their parameters (R69), the
sample periods elapsed, which no step changes (R45), and the TKCLK offsets followed in the last 1 s of LOCKED, newest first,
each with the sample periods elapsed when it began (Table 02-4), and the offset from nominal that TKCLK slews to (R55). -/
structure Tide where
  count      : BitVec 64
  phase      : BitVec 32
  beat       : BitVec 96
  tempo      : BitVec 48
  frame      : BitVec 32
  frameStart : BitVec 64
  framePos   : Nat
  nNow       : Nat
  queue      : List TempoEntry
  lock       : LockState
  fallback   : Bool
  inLimits   : Nat
  returns    : Nat
  farOff     : Bool
  step       : Option (BitVec 64)
  stopped    : Bool
  gpioPend   : List GpioPend
  gateFires  : List (Nat × Word)
  elapsed    : Nat
  followed   : List (Nat × Word)
  goal       : Word
  deriving DecidableEq, Repr

/-- The Tide after COLD reset (R85): FREE, N = 8, every count 0. -/
def Tide.reset : Tide :=
  { count := 0, phase := 0, beat := 0, tempo := 0, frame := 0, frameStart := 0, framePos := 0, nNow := 8, queue := [],
    lock := .free, fallback := false, inLimits := 0, returns := 0, farOff := false, step := none, stopped := false,
    gpioPend := [], gateFires := [], elapsed := 0, followed := [], goal := 0 }

/-- A tide compare beside its registers (R67): target in force, staged low word, armed, fired, target past when it became
live, fires since the last arm. -/
structure Cmp where
  target : BitVec 64
  staged : BitVec 32
  armed  : Bool
  fired  : Bool
  past   : Bool
  cnt    : BitVec 16
  deriving DecidableEq, Repr

/-- A compare at reset: off. -/
def Cmp.init : Cmp := { target := 0, staged := 0, armed := false, fired := false, past := false, cnt := 0 }

/-! ## Interrupt sources (spec/09_interrupt_controller.md) -/

/-- The states of Table 09-3. -/
inductive SrcState where
  | inactive | pending | active | holdoff
  deriving DecidableEq, Repr

/-- Who serves an ACTIVE source: logical core and thread, world, level, priority (R387). -/
structure Server where
  lcore : Nat
  thr   : Nat
  land  : Bool
  lvl2  : Bool
  prio  : Nat
  deriving DecidableEq, Repr

/-- One interrupt source: synchronised level, software pending bit, state, who serves it, rising edges counted (R386). -/
structure Src where
  level  : Bool
  swpend : Bool
  st     : SrcState
  srv    : Server
  cnt    : Nat
  deriving DecidableEq, Repr

/-- A source at reset (R400). -/
def Src.init : Src :=
  { level := false, swpend := false, st := .inactive,
    srv := { lcore := 0, thr := 0, land := false, lvl2 := false, prio := 0 }, cnt := 0 }

/-! ## Core threads (spec/03_tuitin_model.md to spec/06_exceptions_worlds.md) -/

/-- A result write of an operation. Flags of MSTAT and FPCTL are set by OR; `mac` marks an accumulation that later
accumulations forward from (R139). -/
inductive RegW where
  | d (n : Nat) (v : Word)
  | a (n : Nat) (v : Word)
  | m (n : Nat) (v : BitVec 80) (mac : Bool)
  | mp (n : Nat) (v : BitVec 64)
  | f (n : Nat) (v : Bool)
  | mst (mask : Word)
  | fst (mask : Word)
  deriving DecidableEq, Repr

/-- A result inside its latency: the CCLK from which it is seen (R194), and the write. -/
structure PendW where
  due : Nat
  w   : RegW
  deriving DecidableEq, Repr

/-- A long operation in flight (R165, R221): operation word, function, operands as read at issue, FPCTL at issue, the
CCLK of its retirement, the address of its bundle. -/
structure LongOp where
  word : Word
  fn   : Nat
  dst  : Nat
  av   : BitVec 64
  bv   : BitVec 64
  fpc  : Word
  due  : Nat
  pc   : Word
  deriving DecidableEq, Repr

/-- How the data of a load reaches its destination (Table 04-7). -/
inductive LdKind where
  | w | h | hu | bu | bs | acc | dbl | fw
  deriving DecidableEq, Repr

/-- One block that a far load or a fill of the shadow stack waits for: fabric request, address, and its bytes once they have arrived. -/
structure FarPart where
  id   : Nat
  addr : Nat
  data : Option (List Byte)
  deriving DecidableEq, Repr

/-- A far load that stalls the thread (R229): its blocks, destination, kind, CCLK of issue, bundle address, FPCTL,
physical address, the level and world in which it issued, the words of own local memory that were said to show errors (uncorrectable,
single-bit), whether its blocks are D-cache lines to install, the stores of its core that these lines must take while they are on their way
(R96, R230), how many of the oldest store-buffer entries it looks at or waits for, and whether it has yet to look at them in E2 (R241). -/
structure FarLoad where
  parts : List FarPart
  dst   : Nat
  kind  : LdKind
  clk   : Nat
  pc    : Word
  fpc   : Word
  phys  : Nat
  cst   : Nat
  ue    : List Nat
  ce    : List Nat
  fill  : Bool
  late  : List (Nat × List Byte)
  after : Nat
  chk   : Bool
  deriving DecidableEq, Repr

/-- An exception that waits for its CCLK, or for what decides the thread's next bundle (R154, R253, R287): CCLK, vector, physical address or
operation word that it reports, address of its bundle, and the divide that it names (R168). -/
structure Imprec where
  due  : Nat
  vec  : Nat
  phys : Nat
  word : Word
  pc   : Word
  op   : Option LongOp
  deriving DecidableEq, Repr

/-- A fetch outstanding (R200): fabric request, line number (address / 64), whether it is installed in the I-cache, and whether the thread
still takes its block. -/
structure Fetch where
  id   : Nat
  line : Nat
  inst : Bool
  live : Bool
  deriving DecidableEq, Repr

/-- A block that has arrived, and no cache holds, for the bundle that a thread is fetching: line number and bytes, or the physical address
of a failed fetch. -/
structure Fetched where
  line : Nat
  data : List Byte
  bad  : Option Nat
  deriving DecidableEq, Repr

/-- A bundle in a thread's fetch queue or in the loop buffer (R199, R209): its address and physical address, its bytes as they were
read, the physical address of a block of it whose fetch failed, the CCLK from which it may issue, the address of the bundle that the
fetch unit fetches after it, what the predictor had to say of it (whether an entry matched, and the target where it was predicted taken;
R202 to R204), whether its delay bundle comes between, the loop level that the fetch unit took back with it (R208), and the lines of the
I-cache that it was read from, or whether from the loop buffer (R234). -/
structure FqEnt where
  pc    : Word
  pa    : Nat
  data  : List Byte
  bad   : Option Nat
  at_   : Nat
  next  : Option Word
  hit   : Bool
  pred  : Option Word
  delay : Bool
  back  : Option Nat
  lines : List Nat
  loop  : Bool
  deriving DecidableEq, Repr

/-- The spilled return addresses that a bundle waits for (R125, R127): its address, the CCLK at which its wait began, and the 64-byte
blocks asked for. -/
structure FillBuf where
  pc    : Word
  clk   : Nat
  parts : List FarPart
  deriving DecidableEq, Repr

/-- A store-buffer entry of Legacy T2 (R239): physical address, bytes, the address of the store's bundle, the level and world in which it
issued, the CCLK in which it enters the buffer, and the words of own local memory that were said to show errors (uncorrectable,
single-bit). -/
structure SbEntry where
  addr : Nat
  data : List Byte
  pc   : Word
  cst  : Nat
  at_  : Nat
  ue   : List Nat
  ce   : List Nat
  deriving DecidableEq, Repr

/-- A posted write that an entry left outstanding (R265): its number, the save set into which that entry moved the record, and whether it
has failed since and its fault is still to be recorded. -/
structure PostMark where
  id  : Nat
  set : Nat
  bad : Bool
  deriving DecidableEq, Repr

/-- A WAITT registration (R187): compare, bundle address, released, CCLK at which it began, and how many entries stand between it and the
code that runs. -/
inductive Waiting where
  | none
  | waitt (cmp : Nat) (pc : Word) (released : Bool) (began : Nat) (depth : Nat)
  deriving DecidableEq, Repr

/-- A mode change in its shadow (R282): what CSTAT becomes, whether GATE made it and its number, and whether the next
bundle is k + 2. -/
structure Shadow where
  cstat : Word
  gate  : Option Nat
  last  : Bool
  deriving DecidableEq, Repr

/-- A delayed branch whose delay bundle is next (R172, R173): its target where it is taken. -/
structure Delay where
  target : Option Word
  deriving DecidableEq, Repr

/-- One thread of a core: the registers of Table 03-1, the control registers by number, the save sets by 64 x set +
(number - 0xC0), the shadow stack (top first), and what is in flight. `seqx` that sequential fetch has left the segment (R116); `skip` that the bundle at pc is passed over
(R176); `fresh` names loop levels set up and not yet looped back (R208); `recap` that the loop buffer captures again after
RFE (R274); `entry` that no bundle has issued since an entry (R287). The fetch queue is `fq` (oldest first), with the bundles after a loop
body that were fetched early (`ahead`, R214), the first block of a bundle that spans two (`half`), the blocks that arrived for the bundle
being fetched, and the CCLK from which the thread may fetch (`fetFrom`, R206). `postIn` marks the posted writes that each entry left
outstanding, oldest entry first (R265); `svx` keeps, by 4 x set + j, FPCTL and the bundle address of the operation that SVLONGj records (R183);
`ieWas` is CSTAT.ie before the bundle of a CCLK changed it (R251); `sampleAt` is the CCLK from which requests are sampled (R225);
`fillBuf` and `spill` are a fill and a spill of the shadow stack on their way (R129), and `drop` holds the counts that MOVC wrote to
SS_DROP, with whether the bundle after each has issued (R113, R127); `took` is the CCLK in which it last took an interrupt request (R440), and `pset` the bits of PSTAT that
hardware last set, with the CCLK (R182). -/
structure Thread where
  d       : SMap Word
  a       : SMap Word
  m       : SMap (BitVec 80)
  mp      : SMap (BitVec 64)
  f       : BitVec 8
  pc      : Word
  ctl     : SMap Word
  ctlOld  : SMap Word
  save    : SMap Word
  ss      : List Word
  priv    : SMap Src
  pend    : List PendW
  long    : List LongOp
  far     : List FarLoad
  fetch   : List Fetch
  fetched : List Fetched
  fq      : List FqEnt
  ahead   : List FqEnt
  half    : Option (List Byte)
  fetFrom : Nat
  posted  : List Nat
  postIn  : List PostMark
  pwf     : Bool
  sbuf    : List SbEntry
  wait    : Waiting
  shadow  : Option Shadow
  delay   : Option Delay
  seqx    : Bool
  skip    : Bool
  fresh   : List Nat
  recap   : Bool
  entry   : Bool
  resume  : Nat
  lastIss : Nat
  lastAck : Nat
  imprec  : List Imprec
  svx     : SMap (Word × Word)
  ieWas   : Option (Nat × Bool)
  sampleAt : Nat
  fillBuf : Option FillBuf
  spill   : Option Nat
  drop    : List (Nat × Bool)
  took    : Option Nat
  pset    : Option (Nat × Word)
  running : Bool
  deriving DecidableEq, Repr

/-- A thread after COLD, WARM, CLUSTER or CORE reset (R93, R157, R261): every register 0, nothing in flight, stopped. -/
def Thread.reset : Thread :=
  { d := [], a := [], m := [], mp := [], f := 0, pc := 0, ctl := [], ctlOld := [], save := [], ss := [], priv := [],
    pend := [], long := [], far := [], fetch := [], fetched := [], fq := [], ahead := [], half := none, fetFrom := 0,
    posted := [], postIn := [], pwf := false, sbuf := [],
    wait := .none, shadow := none, delay := none, seqx := false, skip := false, fresh := [],
    recap := false, entry := false, resume := 0, lastIss := 0, lastAck := 0, imprec := [],
    svx := [], ieWas := none, sampleAt := 0, fillBuf := none, spill := none, drop := [], took := none, pset := none, running := false }

/-- A cache line: address / 64, and its bytes. -/
structure Line where
  line : Nat
  data : List Byte
  deriving DecidableEq, Repr

/-- A predictor entry (R202). -/
structure PredEntry where
  valid  : Bool
  tag    : Nat
  ctr    : Nat
  target : Word
  deriving DecidableEq, Repr

/-- An invalid predictor entry. -/
def PredEntry.init : PredEntry := { valid := false, tag := 0, ctr := 0, target := 0 }

/-- The loop buffer (R209): holding thread, level, body start and end, capture in progress, body complete, the bundles captured. -/
structure LoopBuf where
  thr   : Nat
  level : Nat
  first : Word
  last  : Word
  cap   : Bool
  valid : Bool
  held  : List FqEnt
  deriving DecidableEq, Repr

/-- What a core has beside its threads: its CCLK count (events carry the CCLK passed), the CCLK at which its frame
watchdog started, the CCLK of the last issue with the slots used and threads issued in it, the last issuing thread and the one before
that CCLK (R218, R219), the CCLK until which each M slot is held (R138) and those in which slot S reissues (R227), first and last, the CCLK in which port 0 and port 1 carry L0 and L1 accesses
of bundles issued (R197, R198), the thread that fetched last (R199), the CCLK of the last store-buffer drain (R240), the CCLK of the last
clearing of the counters (R244), caches (most recent line first), predictor, loop buffer, and whether Breakwater has fenced it (R427). -/
structure CoreSt where
  clk     : Nat
  wdClk   : Nat
  issClk  : Nat
  used    : List Nat
  issued  : List Nat
  lastThr : Nat
  prevThr : Nat
  mHold   : Nat × Nat
  sHold   : Nat × Nat
  l0      : List Nat
  l1      : List Nat
  fetThr  : Nat
  sbClk   : Option Nat
  clrClk  : Option Nat
  icache  : List Line
  dcache  : List Line
  pred    : SMap PredEntry
  lb      : Option LoopBuf
  fenced  : Bool
  deriving DecidableEq, Repr

/-- A core after reset. Thread 3 counts as the last that fetched and that issued, so thread 0 comes first (R199, R218; DESIGN CHOICE, log
entry 223). -/
def CoreSt.reset : CoreSt :=
  { clk := 0, wdClk := 0, issClk := 0, used := [], issued := [], lastThr := 3, prevThr := 3, mHold := (0, 0), sHold := (0, 0), l0 := [], l1 := [],
    fetThr := 3, sbClk := none, clrClk := none, icache := [],
    dcache := [], pred := [], lb := none, fenced := false }

/-! ## Fabric (spec/07_memory.md) -/

/-- What a request at a bank does. -/
inductive FabKind where
  | load | fetch | store
  deriving DecidableEq, Repr

/-- How far a request has come: waiting, lifted (R308), handed to a Strand link, answered with data, failed (and whether by an uncorrectable
error, R425). -/
inductive FabSt where
  | waiting
  | lifted
  | remote
  | done (data : List Byte)
  | failed (ue : Bool)
  deriving DecidableEq, Repr

/-- An outstanding fabric request; `cst` is the CSTAT level and world of a core thread when it issued (R391), `cls` its arbitration class
when it was made (R306), and `here` whether it has reached the bank of its next
beat (R721); `mask` says which bytes of its aligned 32-byte block a request with byte enables takes, where they are not all of its bytes. -/
structure FabReq where
  id   : Nat
  ini  : Initiator
  kind : FabKind
  addr : Nat
  len  : Nat
  data : List Byte
  cst  : Nat
  cls  : Nat
  here : Bool
  mask : Option Nat
  st   : FabSt
  deriving DecidableEq, Repr

/-- Power state of a memory (R327): a waking memory is on its way to ON. -/
inductive MemPwr where
  | on | ret | off | wakeRet | wakeOff
  deriving DecidableEq, Repr

/-- An entry of the uncorrectable-error log (R333): address and MEMC_UE_SRC. -/
structure UeEntry where
  addr : Nat
  src  : Word
  deriving DecidableEq, Repr

/-- Memory control state: requests outstanding, the next request number, ECC write-backs waiting (8-byte word address),
the UE log, power of the 32 Reservoir banks (key 0-31), of the cluster memories (key 32 + c), engines in a pass (0-15
clusters, 16 Reservoir), engines whose next pass waits, populated LPDDR5X bytes, the requester that each bank favours next in each class
(R299, R307), the memories woken in NEAP (R330), and the bytes that each engine has read in its pass, as ascending spans (R324). -/
structure MemCtl where
  reqs    : List FabReq
  nextId  : Nat
  wb      : List (Nat × Bool)
  ue      : List UeEntry
  pwr     : SMap MemPwr
  pass    : List Nat
  passDue : List Nat
  ddrCap  : Nat
  turn    : SMap Nat
  woken   : List Nat
  scrub   : SMap (List (Nat × Nat))
  deriving DecidableEq, Repr

/-- Memory control at reset. -/
def MemCtl.reset : MemCtl :=
  { reqs := [], nextId := 0, wb := [], ue := [], pwr := [], pass := [], passDue := [], ddrCap := 0, turn := [],
    woken := [], scrub := [] }

/-! ## The applied image (spec/11_quafa.md) -/

/-- A PART entry (Table 11-4); `h0` and `half` are the address and half size of its state region. -/
structure Part where
  part     : Nat
  land     : Bool
  cls      : Nat
  profile  : Nat
  policy   : Nat
  thrEn    : Nat
  fmul     : Nat
  prio     : Nat
  ssEn     : Bool
  ebbSeg   : Nat
  floodSeg : Nat
  window   : Nat
  bpred    : Bool
  budget   : Nat
  state    : Nat
  cores    : BitVec 128
  h0       : Nat
  half     : Nat
  deriving DecidableEq, Repr

/-- A CODE record (Tables 11-5 and 11-6): logical core, partition, cache configuration, image offsets and lengths, the
Reservoir copy, and the 39 words of each thread record. -/
structure CodeRec where
  lcore    : Nat
  part     : Nat
  cacheCfg : Word
  itcmOff  : Nat
  itcmLen  : Nat
  copy     : Nat
  ldmOff   : Nat
  ldmLen   : Nat
  threads  : List (List Word)
  deriving DecidableEq, Repr

/-- A MEM entry (Table 11-7). -/
structure MemRegion where
  kind    : Nat
  part    : Nat
  land    : Bool
  addr    : Nat
  size    : Nat
  initOff : Nat
  initLen : Nat
  deriving DecidableEq, Repr

/-- A ROUTE entry (Table 11-8). -/
structure Route where
  kind   : Nat
  port   : Nat
  first  : Nat
  last   : Nat
  stream : Nat
  part   : Nat
  half   : Bool
  width  : Nat
  just   : Bool
  addr   : Nat
  nbuf   : Nat
  stride : Nat
  deriving DecidableEq, Repr

/-- A FERRY entry's ownership (Table 11-9). -/
structure FerryOwn where
  chan  : Nat
  part  : Nat
  owned : Bool
  deriving DecidableEq, Repr

/-- The configuration in force: partitions, code records, memory regions, routes, Ferry ownership. -/
structure Setup where
  parts  : List Part
  code   : List CodeRec
  mems   : List MemRegion
  routes : List Route
  ferry  : List FerryOwn
  deriving DecidableEq, Repr

/-- No image applied. -/
def Setup.none : Setup := { parts := [], code := [], mems := [], routes := [], ferry := [] }

/-! ## Breakwater (spec/10_breakwater.md) -/

/-- A partition's frame (R406): in progress, TIDE_FRAME at its start, failed (R423, R432, R434), replayed, a replay waiting for
its restart, committed, words to zero (R423); and what its output routes do in this partition frame (R435, R436, R445,
R478): the half they read, ramp, or zeros, and whether that is for want of work; whether it has been pitched and none of its frames has begun (R497); the sample count at the
last fire of its compare; and the clusters of the logical cores that events have named which fail the frame (evc) or have it replayed (evr)
(R451). -/
structure PtRun where
  inFrame   : Bool
  frame0    : BitVec 32
  failed    : Bool
  replayed  : Bool
  awaiting  : Bool
  committed : Bool
  badWords  : List Nat
  outHalf   : Bool
  outBridge : Bool
  outZero   : Bool
  outIdle   : Bool
  fresh     : Bool
  start     : Nat
  evc       : List Nat
  evr       : List Nat
  deriving DecidableEq, Repr

/-- A partition of which nothing has run. -/
def PtRun.init : PtRun :=
  { inFrame := false, frame0 := 0, failed := false, replayed := false, awaiting := false, committed := false,
    badWords := [], outHalf := false, outBridge := false, outZero := true, outIdle := true, fresh := false, start := 0, evc := [], evr := [] }

/-- A logical core's Breakwater state: consecutive overruns (R422), watchdog fired in this frame, waiting for the next fire
of the frame compare to start from its thread-start record, pending injection (R452), lockstep signature (R440), the slots it has left, whose
tags it goes on using (R28), and whether a bundle has reached the injection. -/
structure LcRun where
  overruns : Nat
  wdFired  : Bool
  ready    : Bool
  inj      : Option Nat
  sig      : Word
  olds     : List Nat
  ripe     : Bool
  deriving DecidableEq, Repr

/-- A logical core at reset. -/
def LcRun.init : LcRun := { overruns := 0, wdFired := false, ready := false, inj := none, sig := 0xFFFFFFFF, olds := [], ripe := false }

/-- A log entry (Table 10-5). -/
structure LogEntry where
  w0 : Word
  w1 : Word
  w2 : Word
  w3 : Word
  w4 : Word
  deriving DecidableEq, Repr

/-- A take-over in progress (Table 10-4): logical core, new slot, whether a replay of its partition follows, whether the
partition's frame compare has fired since (R438), whether step 3 has loaded the threads. -/
structure TakeOver where
  lcore  : Nat
  slot   : Nat
  replay : Bool
  late   : Bool
  loaded : Bool
  deriving DecidableEq, Repr

/-- Breakwater: partitions' frames, logical cores, log (oldest first), take-overs in progress, and the uncorrectable errors of core reads
that it has been told of and has not yet handled (R322, R423): slot and address. -/
structure Bwtr where
  pts    : SMap PtRun
  lcs    : SMap LcRun
  log    : List LogEntry
  tkos   : List TakeOver
  notes  : List (Nat × Nat)
  deriving DecidableEq, Repr

/-- Breakwater at reset. -/
def Bwtr.reset : Bwtr := { pts := [], lcs := [], log := [], tkos := [], notes := [] }

/-! ## Modes (spec/17_clocks_power.md Table 17-5) -/

/-- The modes of SYS_MODE. -/
inductive Mode where
  | off | anchor | boot | pitch | run | neap | bivouac | lantern | shore | degraded | halt | test
  deriving DecidableEq, Repr

/-- Modes and power: mode, previous mode, requested transition not yet begun, the mode that DEGRADED replaced, the mode
that BIVOUAC, LANTERN or HALT was entered from, the low-power mode whose entry is in progress (R654), whether a wake has
been recorded and the return is to come (R655, R657), the Ferry channels that the entry paused (R658), whether the last
reset was COLD, and the levels of PWRON_N and RESET_N. -/
structure Pwr where
  mode     : Mode
  prev     : Mode
  req      : Option Mode
  replaced : Mode
  back     : Mode
  entering : Option Mode
  woken    : Bool
  paused   : List Nat
  cold     : Bool
  pwronN   : Bool
  resetN   : Bool
  deriving DecidableEq, Repr

/-- Modes at reset: BOOT, from ANCHOR, with both reset pins released. -/
def Pwr.reset : Pwr :=
  { mode := .boot, prev := .anchor, req := none, replaced := .run, back := .run, entering := none, woken := false,
    paused := [], cold := true, pwronN := true, resetN := true }

/-! ## Ferry channels (spec/08_ferry.md) -/

/-- Channel states (Table 08-5), in the order of their codes. -/
inductive FrySt where
  | idle | run | wait | parked | pausing | paused | stopping | stopped | completed | error | aborted
  deriving DecidableEq, Repr

/-- A held program block (R342): address, its 32 bytes, and whether its bank has granted a write since (R365). -/
structure FryBlock where
  addr    : Nat
  data    : List Byte
  touched : Bool
  deriving DecidableEq, Repr

/-- A program fetch outstanding: request, block address, whether its bank has granted a write since the fetch. -/
structure FryFetch where
  id      : Nat
  addr    : Nat
  touched : Bool
  deriving DecidableEq, Repr

/-- A move in progress (R346): width codes, flags, addresses and strides, columns, elements in all, next element to read and
bytes of it already read, next element to write, and its number among the channel's moves. -/
structure FryMove where
  sw    : Nat
  dw    : Nat
  just  : Bool
  sx    : Bool
  ck    : Bool
  hf    : Bool
  src   : Nat
  dst   : Nat
  ses   : Int
  des   : Int
  srs   : Int
  drs   : Int
  cols  : Nat
  total : Nat
  words : Nat
  rd    : Nat
  rdOff : Nat
  wr    : Nat
  wrOff : Nat
  tag   : Nat
  deriving DecidableEq, Repr

/-- A read beat outstanding: request, bytes, address, whether its data is still wanted. -/
structure FryRead where
  id   : Nat
  n    : Nat
  addr : Nat
  live : Bool
  deriving DecidableEq, Repr

/-- A write beat outstanding: request, address, bytes, the move and its first element that it belongs to. -/
structure FryWrite where
  id   : Nat
  addr : Nat
  n    : Nat
  tag  : Nat
  elem : Nat
  deriving DecidableEq, Repr

/-- A move with hf = 1 whose half or full is still to come (R350): number, elements, elements issued, half raised. -/
structure FryHf where
  tag    : Nat
  total  : Nat
  issued : Nat
  half   : Bool
  deriving DecidableEq, Repr

/-- A registered WAIT (R353, R354). -/
inductive FryWait where
  | none
  | cmp (n : Nat)
  | evt (g level : Nat)
  | flag (f : Nat) (take : Bool)
  deriving DecidableEq, Repr

/-- A Ferry channel. `back` is the state a pause came from; `loops` holds (body address, count), innermost first; `fold`
is a CRC fold in progress (next address, bytes left to read, bytes left to fold); `wfRec` the write-fault record;
`wfSeen` says that a fault address is recorded since START; `released` a release or wake not yet applied; `begun` that
the instruction at pc has begun its wait for writes; `ahead` a failed fetch ahead (code, address); `snoop` the armed
bank. -/
structure Ferry where
  st       : FrySt
  back     : FrySt
  pc       : Nat
  loops    : List (Nat × Nat)
  cur      : Option FryMove
  fold     : Option (Nat × Nat × Nat)
  hold     : List Byte
  reads    : List FryRead
  writes   : List FryWrite
  hfs      : List FryHf
  wfRec    : Bool
  wfSeen   : Bool
  wait     : FryWait
  released : Bool
  begun    : Bool
  blocks   : List FryBlock
  fetch    : Option FryFetch
  ahead    : Option (Nat × Nat)
  snoop    : Option Nat
  tags     : Nat
  deriving DecidableEq, Repr

/-- A channel after reset (R371). -/
def Ferry.reset : Ferry :=
  { st := .idle, back := .run, pc := 0, loops := [], cur := none, fold := none, hold := [], reads := [], writes := [],
    hfs := [], wfRec := false, wfSeen := false, wait := .none, released := false, begun := false, blocks := [],
    fetch := none, ahead := none, snoop := none, tags := 0 }

/-! ## The Quafa loader and the flash (spec/11_quafa.md, spec/18_reset_boot.md) -/

/-- The loader: phase (Table 11-15), command in progress (Table 11-12), its slot, the partition of a partial re-pitch, whether the
checks have passed (WAIT for B0 or the stop edge), whether the stop edge of a re-pitch has passed, whether its APPLY has ended,
whether the APPLY of a full pitch has ended and its release point is to come (R473), the flash slot that the staged bytes and the running image came from, the tag result and length that FETCH kept (R684), and the
outcome of a command that has ended and that whoever issued it has not yet taken up. -/
structure Qfa where
  phase    : Nat
  cmd      : Nat
  slot     : Nat
  part     : Option Nat
  ready    : Bool
  stopped  : Bool
  armed    : Bool
  release  : Bool
  staged   : Option Nat
  running  : Option Nat
  kept     : Option (Bool × Nat)
  res      : Option Bool
  deriving DecidableEq, Repr

/-- The loader at reset. -/
def Qfa.reset : Qfa :=
  { phase := 0, cmd := 0, slot := 0, part := none, ready := false, stopped := false, armed := false, release := false, staged := none, running := none,
    kept := none, res := none }

/-! ## Clocks and regulator, Lantern, control port, TAP (spec/17_clocks_power.md) -/

/-- Where the regulator sequence of R643, R646 and R647 stands: nothing in progress; VOUT_COMMAND sent and not yet
acknowledged; READ_VOUT polled for the commanded point (`up`: the point raises vlo); the settle time runs; the reading
after a reset; the reading of a retry. -/
inductive VrSt where
  | idle
  | ack (up : Bool)
  | poll (up : Bool)
  | settle
  | boot
  | retry
  deriving DecidableEq, Repr

/-- The regulator sequence: its step, and how often the transaction in progress has failed (R645). -/
structure Ckp where
  vr    : VrSt
  fails : Nat
  deriving DecidableEq, Repr

/-- After a reset the regulator is read first (R647). -/
def Ckp.reset : Ckp := { vr := .boot, fails := 0 }

/-- The Lantern beside its registers: RTC (LCLK cycles), RTC compares reached (R669), Lantern SRAM by word number. -/
structure Lant where
  rtc     : BitVec 48
  reached : Nat
  ram     : SMap Word
  deriving DecidableEq, Repr

/-- The Lantern after COLD reset. -/
def Lant.reset : Lant := { rtc := 0, reached := 0, ram := [] }

/-- The control port: whether it has acknowledged its address, and the bytes that the last read transfer returned. -/
structure CtlPort where
  ready : Bool
  out   : List Byte
  deriving DecidableEq, Repr

/-- The control port after reset. -/
def CtlPort.reset : CtlPort := { ready := false, out := [] }

/-- What the boundary-scan register does to the pins (Table 17-9). -/
inductive TapPins where
  | none | extest | clamp | highz | pulse | train
  deriving DecidableEq, Repr

/-- The TAP: instruction, preloaded boundary-scan bits, what they do to the pins, bypass bit, and the DBGACC data register
as captured: address, data, op, status. -/
structure Tap where
  ir     : Nat
  bsr    : List Bool
  pins   : TapPins
  bypass : Bool
  addr   : Nat
  data   : Word
  op     : Nat
  status : Nat
  deriving DecidableEq, Repr

/-- The TAP after Test-Logic-Reset: IDCODE. -/
def Tap.reset : Tap := { ir := 2, bsr := [], pins := .none, bypass := false, addr := 0, data := 0, op := 0, status := 0 }

/-! ## Event inputs and pins (spec/16_events_pins.md) -/

/-- An entry of an event FIFO (Table 16-2), but for its group. -/
structure EvEntry where
  ts    : BitVec 64
  pin   : Nat
  kind  : Nat
  level : Bool
  value : Word
  deriving DecidableEq, Repr

/-- An event input: its level, the level accepted (active after inversion), and a filter run in progress: the EVCLK sample
at which it began and the timestamp of that instant (R610, R611). -/
structure EvPin where
  raw : Bool
  acc : Bool
  run : Option (Nat × BitVec 64)
  deriving DecidableEq, Repr

/-- An event input at reset. -/
def EvPin.init : EvPin := { raw := false, acc := false, run := none }

/-- The states of the pair detector (Table 16-1). -/
inductive PairSt where
  | idle | aOn | made | bOff
  deriving DecidableEq, Repr

/-- A pin's detector: the pair detector's state and recorded instant (held on the even pin), and a pulse in progress with
its instant and timestamp (R617). -/
structure EvDet where
  st    : PairSt
  at_   : Nat
  pulse : Option (Nat × BitVec 64)
  deriving DecidableEq, Repr

/-- A detector in its starting state. -/
def EvDet.init : EvDet := { st := .idle, at_ := 0, pulse := none }

/-- The event inputs: EVCLK samples counted, pins 0 to 127, their detectors, and the FIFOs of the 16 groups, oldest entry
first. -/
structure Evi where
  clk  : Nat
  pins : SMap EvPin
  dets : SMap EvDet
  fifo : SMap (List EvEntry)
  deriving DecidableEq, Repr

/-- The event inputs at reset. -/
def Evi.reset : Evi := { clk := 0, pins := [], dets := [], fifo := [] }

/-- What a pad drives: nothing, or a level. -/
abbrev Drive := Option Bool

/-! ## Serial audio ports and routes (spec/12_serial_audio_ports.md, spec/13_strand_camps.md) -/

/-- A route in force or prepared (R494, R497): its entry, its SAP_RTr index where it has one, the ring index, the sample
count at which the partition's frame in progress began, the samples of that frame, the first period that an input route
writes, and whether it is applied. -/
structure RtRun where
  route : Route
  r     : Option Nat
  idx   : Nat
  start : Nat
  len   : Nat
  first : Nat
  live  : Bool
  deriving DecidableEq, Repr

/-- What an output slot has emitted: the route's last value, the bridge in progress (the frame start it belongs to, and its
x), the last sample on DOUT, and the x of a ramp (R499, R506). -/
structure SlotOut where
  last  : Word
  bfor  : Option Nat
  bx    : Word
  out   : Word
  rx    : Word
  deriving DecidableEq, Repr

/-- A slot that has emitted nothing. -/
def SlotOut.init : SlotOut := { last := 0, bfor := none, bx := 0, out := 0, rx := 0 }

/-- A port: a frame in progress (`began`) with its period, whether an edge started it, its DIN samples, whether they are
discarded (R492) or written as zero (R503); consecutive frames without an edge; the sync-lost state; BCLK since the last
start edge before this frame; the last input samples written and their period; a ramp (R506: frames emitted); the slots,
what DOUT carries in them (none: high impedance), and the gate fires that the wire has not reached (R74): the first period
that a fire gates, its slots, and the gates before it; the time of the start edge (count and phase as one number), the slots that wait
for their data (R498), and the last slot of the frame before, which may end in this one (Table 12-1). -/
structure SapPort where
  began   : Bool
  period  : Nat
  edge    : Bool
  din     : List Word
  discard : Bool
  zeroed  : Bool
  missing : Nat
  lost    : Bool
  since   : Nat
  prev    : List Word
  lastIn  : Nat
  ramp    : Option Nat
  slots   : SMap SlotOut
  dout    : List (Option Word)
  gated   : List (Nat × Word × Word)
  edgeAt  : Nat
  await   : List Nat
  tail    : Option Word
  deriving DecidableEq, Repr

/-- A port at reset. -/
def SapPort.init : SapPort :=
  { began := false, period := 0, edge := false, din := [], discard := false, zeroed := false, missing := 0, lost := false,
    since := 0, prev := [], lastIn := 0, ramp := none, slots := [], dout := [], gated := [], edgeAt := 0, await := [], tail := none }

/-- A read of an output route outstanding or answered: request, kind and place of the route, period, byte offset of the
block in the period's data, bytes. -/
structure RtGet where
  id     : Nat
  kind   : Nat
  port   : Nat
  sel    : Nat
  period : Nat
  off    : Nat
  n      : Nat
  deriving DecidableEq, Repr

/-- A write of an input route outstanding: request, kind, port, period, samples that begin in it, whether it holds the end of one that begins
in the write before, whether the period is the last of
its tide frame (R495), stream number (kind 2). -/
structure RtPut where
  id     : Nat
  kind   : Nat
  port   : Nat
  sel    : Nat
  period : Nat
  n      : Nat
  tail   : Bool
  final  : Bool
  deriving DecidableEq, Repr

/-- Ports, routes, reads and writes outstanding, and the groups whose clock is lost (R504). -/
structure Sap where
  ports  : SMap SapPort
  routes : List RtRun
  gets   : List RtGet
  puts   : List RtPut
  noClk  : List Nat
  deriving DecidableEq, Repr

/-- The serial audio ports at reset. -/
def Sap.reset : Sap := { ports := [], routes := [], gets := [], puts := [], noClk := [] }

/-! ## Strand links and camps (spec/13_strand_camps.md) -/

/-- A sequenced flit in the replay buffer (R519): sequence number, kind, virtual channel, body (bytes 8 to 59). -/
structure Flit where
  seq  : Nat
  kind : Nat
  vc   : Nat
  body : List Byte
  deriving DecidableEq, Repr

/-- A transaction outstanding on a link (R525, R529, R530): tag, epoch, the fabric request it stands for, member, address and
length in the serving member's map, write, whether its link has been out of UP since its issue, initiator fields. -/
structure StrTx where
  tag    : Nat
  tep    : Nat
  req    : Nat
  member : Nat
  addr   : Nat
  len    : Nat
  wr     : Bool
  left   : Bool
  iid    : Nat
  ithr   : Nat
  ikind  : Nat
  deriving DecidableEq, Repr

/-- A transaction flit that waits to be sent: order of its queueing, body, and the tag where it is a request. -/
structure StrQ where
  ord  : Nat
  body : List Byte
  tag  : Option Nat
  waited : Nat
  deriving DecidableEq, Repr

/-- A stream block held by the receive engine (R539): stream, frame, flits received by index, and whether the route's block of
this partition frame has been written. -/
structure StrBlk where
  stream : Nat
  frame  : Nat
  flits  : List (Nat × List Byte)
  closed : Bool
  deriving DecidableEq, Repr

/-- A write-fault queue entry (Table 13-13). -/
structure WfqEnt where
  w0 : Word
  w1 : Word
  w2 : Word
  w3 : Word
  deriving DecidableEq, Repr

/-- An envelope being gathered (R589): transfer ID, total length, next fragment, bytes so far. -/
structure Gather where
  xid   : Nat
  total : Nat
  next  : Nat
  bytes : List Byte
  deriving DecidableEq, Repr

/-- A link: whether its own nonce is that of its last UP; next sequence number, next expected, whether one has been accepted;
replay buffer (oldest first), how many of it are to be resent, replays in a row; nak to send, discarding until the expected flit
comes; credits sent, freed by the far end and freed here (p, np, cpl); queues of flits to send and received; transactions;
tag epochs; write-fault queue; the last flit sent; envelopes; a DELAY measurement in progress; stream blocks; the Tide's time
(count and phase as one number) at the arrival of each BEACON received; and the requests of the far end that wait for their bank (R326), by
the number of the fabric request: whether a write, and the body of the flit. -/
structure Link where
  kept    : Bool
  seq     : Nat
  expect  : Nat
  got     : Bool
  replay  : List Flit
  resend  : Nat
  replays : Nat
  nakDue  : Bool
  discard : Bool
  sent    : Nat × Nat × Nat
  cr      : Nat × Nat × Nat
  freed   : Nat × Nat × Nat
  ord     : Nat
  mgmtQ   : List (List Byte)
  streamQ : List (List Byte)
  cplQ    : List StrQ
  postQ   : List StrQ
  npQ     : List StrQ
  rx      : List (Nat × Nat × List Byte)
  txs     : List StrTx
  epochs  : SMap Nat
  wfq     : List WfqEnt
  out     : List Byte
  env     : Option Gather
  req     : List (Nat × List Byte)
  respIn  : Option Gather
  resp    : List Byte
  delay   : Bool
  blocks  : List StrBlk
  beaconAt : List Nat
  serving : List (Nat × Bool × List Byte)
  deriving DecidableEq, Repr

/-- A link at reset. -/
def Link.init : Link :=
  { kept := false, seq := 0, expect := 0, got := false, replay := [], resend := 0, replays := 0, nakDue := false,
    discard := false, sent := (0, 0, 0), cr := (0, 0, 0), freed := (0, 0, 0), ord := 0, mgmtQ := [],
    streamQ := [], cplQ := [], postQ := [], npQ := [], rx := [], txs := [], epochs := [], wfq := [], out := [],
    env := none, req := [], respIn := none, resp := [], delay := false, blocks := [], beaconAt := [], serving := [] }

/-- The camp beside its registers: members heard, the state that a quarantine interrupted, the last HELLO sent, the beat position
at the last frame boundary, a locate for the next one (R545), whether this PITCH has aligned the frame (R544), the keeper's position less
the Tide's at the last BEACON, until a reference update uses it (R543), the keeper that the device followed last, until it loses it (R549), the
Tide's position as PITCH was entered (R544). -/
structure Camp where
  heard   : Nat
  was     : Nat
  hello   : List Byte
  beat0   : BitVec 64
  fix     : Option (BitVec 64)
  aligned : Bool
  pos     : Option Int
  led     : Option Nat
  since   : Nat
  deriving DecidableEq, Repr

/-- The camp at reset. -/
def Camp.reset : Camp := { heard := 0, was := 0, hello := [], beat0 := 0, fix := none, aligned := false, pos := none, led := none, since := 0 }

/-! ## PCI Express, Ethernet (spec/14_host_network_memory.md) -/

/-- A beat of a host request: its address, its byte enables in its 32-byte block where they are not all of its bytes, its length and the data
of a write. -/
structure HostBeat where
  addr : Nat
  mask : Option Nat
  len  : Nat
  data : List Byte
  deriving DecidableEq, Repr

/-- A host request (R558): a write or a read, the beats that it has yet to ask for, the number of the one outstanding, and what a read has
so far, none once a beat has failed. -/
structure HostOp where
  store : Bool
  beats : List HostBeat
  cur   : Option Nat
  acc   : Option (List Byte)
  deriving DecidableEq, Repr

/-- The PCI Express function beside its registers: PERST_N released, MSI-X enable and function mask of its configuration space,
messages sent (address and data, oldest first), the envelope that waits for the command processor, and whether one of the mailbox
is executing and a function reset has orphaned it since (R564), the bytes of the last read completion, none for Unsupported
Request status, messages that wait for the link to leave L1 (R561), and the host's requests that are not yet complete, oldest first (R558). -/
structure Pcie where
  perst : Bool
  msix  : Bool
  mask  : Bool
  sent  : List (BitVec 64 × Word)
  req   : Option (List Byte)
  exec  : Option Bool
  cpl   : Option (List Byte)
  held  : List (BitVec 64 × Word)
  ops   : List HostOp
  deriving DecidableEq, Repr

/-- The function at reset. -/
def Pcie.reset : Pcie := { perst := false, msix := false, mask := false, sent := [], req := none, exec := none, cpl := none, held := [], ops := [] }

/-- A frame that waits to leave: its talker entry where it is a stream PDU, and its bytes without FCS. -/
structure EthTx where
  talker : Option Nat
  bytes  : List Byte
  deriving DecidableEq, Repr

/-- A port's gPTP engine: the local clock as last seen and its offset to gPTP time (ns), whether a start time waits for the role
of grandmaster, the best other grandmaster heard (R569), sequence number of its messages, times t1, t2 and t4 of a peer-delay
exchange, the Sync that waits for its Follow_Up (arrival, sequence), the sequence number of a peer-delay request that is not yet answered in
full and whether its first answer has come, departure t3 at the far end and t4 of the exchange before, requests in a row without an answer,
when the best other grandmaster is given up for want of an Announce or a Sync, and the error of the Tide at the last Sync (2^-32 samples),
until a reference update uses it. -/
structure Gptp where
  now    : BitVec 64
  adj    : BitVec 64
  setDue : Bool
  best   : Option (List Byte)
  seq    : Nat
  t1     : BitVec 64
  t2     : BitVec 64
  t4     : BitVec 64
  sync   : Option (BitVec 64 × Nat)
  exch   : Option Nat
  got    : Bool
  prev   : Option (Nat × BitVec 64)
  lost   : Nat
  annBy  : Option (BitVec 64)
  synBy  : Option (BitVec 64)
  ref    : Option Int
  deriving DecidableEq, Repr

/-- A gPTP engine at reset. -/
def Gptp.reset : Gptp :=
  { now := 0, adj := 0, setDue := false, best := none, seq := 0, t1 := 0, t2 := 0, t4 := 0, sync := none,
    exch := none, got := false, prev := none, lost := 0, annBy := none, synBy := none, ref := none }

/-- An Ethernet port beside its registers: the mode it tries (0 none), frames waiting to leave by class, the frame being written
to the transmit FIFO (length, bytes so far), the frames in the transmit FIFO, the words of the frames in the receive FIFO, the
last frame sent with its FCS, the credits of classes A and B (10^-6 bit) and the local clock as they were last accounted, and the gPTP engine. -/
structure EthPort where
  try_  : Nat
  ptpQ  : List EthTx
  aQ    : List EthTx
  bQ    : List EthTx
  txCur : Option (Nat × List Byte)
  txQ   : List EthTx
  rx    : List (List Word)
  out   : List Byte
  crA   : Int
  crB   : Int
  paid  : BitVec 64
  ptp   : Gptp
  deriving DecidableEq, Repr

/-- A port at reset. -/
def EthPort.init : EthPort :=
  { try_ := 0, ptpQ := [], aQ := [], bQ := [], txCur := none, txQ := [], rx := [], out := [], crA := 0, crB := 0, paid := 0, ptp := Gptp.reset }

/-- A talker entry beside its registers: sequence number, the partition frame (start + 1) or tide frame (+ 1) last sent, and the
last sample of each channel. -/
structure EthTk where
  seq  : Nat
  done : Nat
  last : List Word
  deriving DecidableEq, Repr

/-- A talker at reset. -/
def EthTk.init : EthTk := { seq := 0, done := 0, last := [] }

/-- A listener entry beside its registers: ring index, start of the partition frame being filled, first period written, last
sequence number, periods supplied. -/
structure EthLs where
  idx   : Nat
  start : Nat
  first : Nat
  seq   : Option Nat
  got   : List Nat
  deriving DecidableEq, Repr

/-- A listener at reset. -/
def EthLs.init : EthLs := { idx := 0, start := 0, first := 0, seq := none, got := [] }

/-- The Ethernet ports and stream entries, and the CRF timestamps that wait for their reference update: listener, and error of the sample
phase in 2^-32 samples (R573). -/
structure Eth where
  ports : SMap EthPort
  tks   : SMap EthTk
  lss   : SMap EthLs
  crf   : List (Nat × Int)
  deriving DecidableEq, Repr

/-- Ethernet at reset. -/
def Eth.reset : Eth := { ports := [], tks := [], lss := [], crf := [] }

/-! ## Commands, journal and boot (spec/15_commands_journal.md, spec/18_reset_boot.md) -/

/-- A cached response (R594): the slot, the counter and the tag of its request, and its bytes. -/
structure CmdEnt where
  slot    : Nat
  counter : BitVec 64
  tag     : List Byte
  resp    : List Byte
  deriving DecidableEq, Repr

/-- What the command in progress waits for: its ceiling record (R591 step 5), the end of its PITCH, STORE or ARB_COMMIT, the end of
its re-pitch, its JOURNAL_ERASE. -/
inductive CmdStage where
  | ceiling | pitch | store | arb | repitch | erase
  deriving DecidableEq, Repr

/-- The command in progress: channel (R587), transfer ID on a Strand link, envelope, what it waits for. -/
structure CmdReq where
  ch    : Nat
  xid   : Nat
  env   : List Byte
  stage : CmdStage
  deriving DecidableEq, Repr

/-- The command processor: response caches by channel (most recent first), channel served last, command in progress, the control
port's request that waits, whether a SET_MODE to ANCHOR awaits its reset and on which channel (R597), and the generations that
KEY_ROLL made current in the one-time-programmable memory. -/
structure CmdProc where
  caches : SMap (List CmdEnt)
  last   : Nat
  cur    : Option CmdReq
  cpReq  : Option (List Byte)
  warm   : Option Nat
  rolled : SMap (Option Nat)
  deriving DecidableEq, Repr

/-- The command processor at reset: channel 0 is served first (R590). -/
def CmdProc.reset : CmdProc := { caches := [], last := 9, cur := none, cpReq := none, warm := none, rolled := [] }

/-- A journal operation (R599 to R605): a ceiling record, a floor record, a Landward record of a type with its payload, an erase, a
read of a type. -/
inductive JOp where
  | ceiling (slot : Nat) (c : BitVec 64)
  | floor (ver : Word)
  | record (ty : Nat) (payload : List Byte)
  | erase
  | read (ty : Nat)
  deriving DecidableEq, Repr

/-- The boot ROM: whether it waits for the loader (R685), the flash slots still to be tried, and the stage that a failed PITCH returns
to (R692). -/
structure Boot where
  auto  : Bool
  tries : List Nat
  home  : Nat
  deriving DecidableEq, Repr

/-- Before the boot ROM has run. -/
def Boot.reset : Boot := { auto := false, tries := [], home := 0 }

/-! ## The whole state -/

/-- Reasons a step stops with a fault. -/
inductive Fault where
  /-- Raised by no command: every failure the spec describes has its effect there. Safe. -/
  | none
  deriving DecidableEq, Repr

/-- Reasons a step refuses a command. -/
inductive Refusal where
  /-- Raised by an arm of the dispatch whose command has no meaning yet; it names the command. Safe. -/
  | notModelled (mnemonic : String)
  deriving DecidableEq, Repr

/-- The machine. -/
structure State where
  /-- Device registers by physical address, 32 bits each (20_register_index.md R712, R713, Table 20-1; Machine/RegTable.lean gives the
  reset values, which are what an unlisted register reads as). -/
  regs    : SMap Word
  /-- SRAM and LPDDR5X bytes by physical address (07_memory.md Table 07-1). An unlisted byte reads 0 (log entry 2). -/
  mem     : SMap Byte
  /-- Sample count, phase, beat, tempo, frame, queue and lock loop (02_tide.md R40 to R88). -/
  tide    : Tide
  /-- The compares, by number (02_tide.md R63 to R68). -/
  cmps    : SMap Cmp
  /-- Sources 32 to 415 of the interrupt controller (09_interrupt_controller.md R383 to R387, Table 09-3). -/
  srcs    : SMap Src
  /-- Threads, numbered 4 times the core slot plus the thread (03_tuitin_model.md Table 03-1, R93). -/
  threads : SMap Thread
  /-- What the threads of a core share: caches, predictor, loop buffer, issue clocks (05_core_pipeline.md). -/
  cores   : SMap CoreSt
  /-- Fabric requests, ECC work, bank power and scrubbing (07_memory.md R306 to R333). -/
  memc    : MemCtl
  /-- Ferry channels, by number (08_ferry.md Table 08-5, R371). -/
  ferry   : SMap Ferry
  /-- The entries of the image in force (11_quafa.md Tables 11-4 to 11-9). -/
  setup   : Setup
  /-- Breakwater: partitions, logical cores, event log, take-overs (10_breakwater.md). -/
  bw      : Bwtr
  /-- The loader (11_quafa.md Tables 11-12, 11-15). -/
  qfa     : Qfa
  /-- Flash bytes by offset; an unlisted byte reads 0xFF, erased (15_commands_journal.md R599). -/
  flash   : SMap Byte
  /-- The command processor: response caches, command in progress (15_commands_journal.md R588 to R597). -/
  sec     : CmdProc
  /-- Journal operations in progress and waiting (15_commands_journal.md R599 to R605). -/
  jrnl    : List JOp
  /-- What boot waits for (18_reset_boot.md R685 to R692). -/
  boot    : Boot
  /-- Mode, previous mode and transitions (17_clocks_power.md Table 17-5, R649 to R658). Two of its reset values are DESIGN CHOICE
  (log entry 5). -/
  pwr     : Pwr
  /-- The regulator sequence (17_clocks_power.md R643 to R647). -/
  ckp     : Ckp
  /-- LANTERN: real-time count, its compares, retained words (17_clocks_power.md R659, R660, R669). -/
  lant    : Lant
  /-- The control port (17_clocks_power.md R661, R662). -/
  cp      : CtlPort
  /-- The test access port (17_clocks_power.md Table 17-9, R664 to R666). -/
  tap     : Tap
  /-- The event interface (16_events_pins.md R608 to R620). -/
  evi     : Evi
  /-- What a pad goes on driving across a switch of its function (16_events_pins.md R629, R630). -/
  hold    : SMap (Option Drive)
  /-- Serial audio ports and the routes in force (12_serial_audio_ports.md). -/
  sap     : Sap
  /-- Strand links, by number (13_strand_camps.md R515 to R541). -/
  links   : SMap Link
  /-- Host link state, MSI-X and mailbox (14_host_network_memory.md R557 to R564). -/
  pcie    : Pcie
  /-- Ethernet ports with their gPTP engines, talkers and listeners (14_host_network_memory.md R566 to R576). -/
  eth     : Eth
  /-- Camp membership (13_strand_camps.md R540 to R551). -/
  camp    : Camp
  /-- The model's own: numbers drawn so far; the value drawn is `Config.randomDraw` (13_strand_camps.md R515; log entry 9). -/
  draws   : Nat
  /-- The model's own: free values taken so far; each value is `Config.freeValue` (DESIGN CHOICE 0 at reset, log entry 6). -/
  freeCtr : Nat
  /-- The model's own: what the last reading command returned (DESIGN CHOICE 0 at reset, log entry 7). -/
  rdata   : Word
  /-- The commands that wait, first in, first out (log entry 8). -/
  pending : List Instr
  deriving DecidableEq, Repr

/-- The machine right after reset, a COLD reset (18_reset_boot.md R671 to R674): an unlisted entry of a map stands at the reset value
of its kind, and nothing waits. -/
def State.reset : State :=
  { regs := [], mem := [], tide := Tide.reset, cmps := [], srcs := [], threads := [], cores := [],
    memc := MemCtl.reset, ferry := [], setup := Setup.none, bw := Bwtr.reset, qfa := Qfa.reset, flash := [],
    sec := CmdProc.reset, jrnl := [], boot := Boot.reset, pwr := Pwr.reset, ckp := Ckp.reset, lant := Lant.reset,
    cp := CtlPort.reset, tap := Tap.reset, evi := Evi.reset, hold := [], sap := Sap.reset, links := [],
    pcie := Pcie.reset, eth := Eth.reset, camp := Camp.reset, draws := 0, freeCtr := 0, rdata := 0, pending := [] }

end Sys2Proof.Machine
end

