-- ==== Sys2Proof/Machine/Ops.lean ====
section
/-! DEFINITION. The named operations over registers, memory, threads and slots that every meaning uses. -/

namespace Sys2Proof.Machine

/-- The outcome of a command. -/
abbrev Res := Host.Outcome State Fault Refusal

/-- The value that acts where an enumerated field with the values 0 to n - 1 holds c: a reserved value acts as one of them, and nothing
says which (R12; DESIGN CHOICE, log entry 23). `id` numbers the fields. -/
def legal (id n c : Nat) : Nat := if c < n then c else Config.reservedCode id c % n

/-! ## Bits -/

/-- The field of a word from bit lo, w bits wide. -/
def fld (v : Word) (lo w : Nat) : Nat := (v.toNat >>> lo) % 2 ^ w

/-- A bit of a word. -/
def bit (v : Word) (i : Nat) : Bool := v.getLsbD i

/-- A word with its field replaced. -/
def setFld (v : Word) (lo w x : Nat) : Word :=
  BitVec.ofNat 32 (v.toNat - fld v lo w * 2 ^ lo + (x % 2 ^ w) * 2 ^ lo)

/-- One bit as a word. -/
def bitW (i : Nat) : Word := (1 : Word) <<< i

/-- A Bool as a number. -/
def b2n (b : Bool) : Nat := if b then 1 else 0

/-- The upper and lower words of a 64-bit value. -/
def hiW (v : BitVec 64) : Word := (v >>> 32).truncate 32

/-- The lower word of a 64-bit value. -/
def loW (v : BitVec 64) : Word := v.truncate 32

/-! ## Bytes -/

/-- The number that bytes spell, the first least significant (R6). -/
def leNat : List Byte → Nat
  | [] => 0
  | b :: bs => b.toNat + 256 * leNat bs

/-- The n bytes of a number, least significant first. -/
def leBytes : Nat → Nat → List Byte
  | 0, _ => []
  | n + 1, v => BitVec.ofNat 8 v :: leBytes n (v / 256)

/-- What a byte of memory that nothing has written reads as. DESIGN CHOICE (log entry 2): 0, as the boot ROM leaves the
SRAM. -/
def memDefault (_ : Nat) : Byte := 0

/-- The byte at a physical address. -/
def State.byte (s : State) (a : Nat) : Byte := smGet memDefault s.mem a

/-- n bytes from a physical address. -/
def readMem (m : SMap Byte) : Nat → Nat → List Byte
  | _, 0 => []
  | a, n + 1 => smGet memDefault m a :: readMem m (a + 1) n

/-- Write bytes from a physical address. -/
def writeMem (m : SMap Byte) : Nat → List Byte → SMap Byte
  | _, [] => m
  | a, b :: bs => writeMem (smSet memDefault m a b) (a + 1) bs

/-- n bytes of memory. -/
def State.bytes (s : State) (a n : Nat) : List Byte := readMem s.mem a n

/-- Store bytes in memory. -/
def State.store (s : State) (a : Nat) (bs : List Byte) : State := { s with mem := writeMem s.mem a bs }

/-- The word of memory at an address. -/
def State.memWord (s : State) (a : Nat) : Word := BitVec.ofNat 32 (leNat (s.bytes a 4))

/-- Fill n bytes with zero. -/
def State.zero (s : State) (a n : Nat) : State :=
  { s with mem := smKeep (fun k => !(decide (a ≤ k) && decide (k < a + n))) s.mem }

/-! ## Registers -/

/-- The value held at a register address. -/
def State.reg (s : State) (a : Nat) : Word := smGet regDefault s.regs a

/-- Replace the value held at a register address. -/
def State.setReg (s : State) (a : Nat) (v : Word) : State := { s with regs := smSet regDefault s.regs a v }

/-- Set bits of a register. -/
def State.orReg (s : State) (a : Nat) (m : Word) : State := s.setReg a (s.reg a ||| m)

/-- Clear bits of a register. -/
def State.clrReg (s : State) (a : Nat) (m : Word) : State := s.setReg a (s.reg a &&& ~~~m)

/-- Set bits of a register when a condition holds. -/
def State.orRegIf (s : State) (c : Bool) (a : Nat) (m : Word) : State := if c then s.orReg a m else s

/-- Count one in a counter that saturates at 0xFFFF_FFFF. -/
def State.incSat (s : State) (a : Nat) : State :=
  s.setReg a (if s.reg a = 0xFFFFFFFF then 0xFFFFFFFF else s.reg a + 1)

/-- Add to a counter that wraps at 2^32. -/
def State.addReg (s : State) (a n : Nat) : State := s.setReg a (s.reg a + BitVec.ofNat 32 n)

/-- Count n in a field of w bits at lo that saturates. -/
def State.incFld (s : State) (a lo w n : Nat) : State :=
  s.setReg a (setFld (s.reg a) lo w (min (2 ^ w - 1) (fld (s.reg a) lo w + n)))

/-- Replace a field of a register. -/
def State.setRegFld (s : State) (a lo w x : Nat) : State := s.setReg a (setFld (s.reg a) lo w x)

/-! ## Modes (R648) -/

/-- The mode changes, which CKP_STAT.mode_chg records; a requested transition not yet begun is cancelled by the caller. -/
def setMode (m : Mode) (s : State) : State :=
  { s with pwr := { s.pwr with mode := m, prev := s.pwr.mode } }.orReg aCkpStat 0x800

/-- Is a PLL of CKP_PLL_STAT locked (R634)? 0 CPLL0, 1 CPLL1, 2 FPLL, 3 TPLL, 4 and 5 DPLL0 and DPLL1. -/
def State.locked (s : State) (p : Nat) : Bool := !bit (s.reg aCkpPllStat) p

/-- Do FCLK, SYSCLK, EVCLK and PCLK run? FPLL feeds them: they are stopped while it has lost lock (R634), in BIVOUAC and LANTERN (Table
17-5), and in OFF. -/
def State.fclkRuns (s : State) : Bool :=
  s.locked 2 && (match s.pwr.mode with | .bivouac => false | .lantern => false | .off => false | _ => true)

/-- The action of compare n (Table 02-5). -/
def State.cmpAct (s : State) (n : Nat) : Nat := legal 1 6 (fld (s.reg (aTideCmpCtl n)) 4 3)

/-! ## Keys (spec/15_commands_journal.md Table 15-9) -/

/-- The current generation of key slot k: what KEY_ROLL made current, else what the one-time-programmable memory held. -/
def State.keyGen (s : State) (k : Nat) : Nat :=
  match smGet (fun _ => none) s.sec.rolled k with
  | some g => g
  | none => (Config.otpGen k).toNat

/-- What a byte of the boot flash that nothing has programmed reads as: erased flash reads 0xFF (chapter 15). -/
def flashDefault (_ : Nat) : Byte := 0xFF

/-- n bytes of the boot flash. -/
def State.flashBytes (s : State) (a n : Nat) : List Byte := (List.range n).map (fun i => smGet flashDefault s.flash (a + i))

/-- A little-endian word of the boot flash. -/
def State.flash32 (s : State) (a : Nat) : Nat := leNat (s.flashBytes a 4)

/-- Program bytes of the boot flash. -/
def State.program (s : State) (a : Nat) (bs : List Byte) : State :=
  { s with flash := (bs.zipIdx).foldl (fun m e => smSet flashDefault m (a + e.2) e.1) s.flash }

/-- Erase n bytes of the boot flash. -/
def State.eraseFlash (s : State) (a n : Nat) : State :=
  { s with flash := smKeep (fun k => !(decide (a ≤ k) && decide (k < a + n))) s.flash }

/-! ## Free values -/

/-- The next free value. -/
def State.free (s : State) : BitVec 64 := Config.freeValue s.freeCtr

/-- Advance to the next free value. -/
def State.advFree (s : State) : State := { s with freeCtr := s.freeCtr + 1 }

/-! ## Slots and logical cores (spec/01_architecture.md R15 to R19) -/

/-- The slot that logical core l is mapped to, as 9c + s; none where BWTR_SLOTMAPc holds 0xF. -/
def State.slotOf (s : State) (l : Nat) : Option Nat :=
  let x := fld (s.reg (aBwtrSlotmap (l / 8))) (4 * (l % 8)) 4
  if x = 15 then none else some (9 * (l / 8) + x)

/-- The logical core that slot k = 9c + s holds. -/
def State.lcoreOf (s : State) (k : Nat) : Option Nat :=
  ((List.range 8).find? (fun i => decide (s.slotOf (8 * (k / 9) + i) = some k))).map (fun i => 8 * (k / 9) + i)

/-- Is slot k in service (BWTR_CSTATc.insv)? -/
def State.inService (s : State) (k : Nat) : Bool := bit (s.reg (aBwtrCstat (k / 9))) (k % 9)

/-- Base of the local memory of slot k (R19). -/
def localBase (k : Nat) : Nat := 0x20000000 + (k / 9) * 0x400000 + (k % 9) * 0x40000

/-- Base of the I-TCM of slot k. -/
def itcmBase (k : Nat) : Nat := localBase k + 0x30000

/-! ## Threads and cores -/

/-- Thread t of slot k. -/
def State.thread (s : State) (k t : Nat) : Thread := smGet (fun _ => Thread.reset) s.threads (4 * k + t)

/-- Replace a thread. -/
def State.setThread (s : State) (k t : Nat) (th : Thread) : State :=
  { s with threads := smSet (fun _ => Thread.reset) s.threads (4 * k + t) th }

/-- Core of slot k. -/
def State.core (s : State) (k : Nat) : CoreSt := smGet (fun _ => CoreSt.reset) s.cores k

/-- Replace a core. -/
def State.setCore (s : State) (k : Nat) (c : CoreSt) : State :=
  { s with cores := smSet (fun _ => CoreSt.reset) s.cores k c }

/-- dt CCLK pass on slot k: CORE_CYC counts them, but for the CCLK of a clearing write (R244). -/
def State.passCclk (s : State) (k dt : Nat) : State :=
  let c := s.core k
  (s.setCore k { c with clk := c.clk + dt }).addReg (aCoreCyc k) (dt - b2n (decide (c.clrClk = some c.clk)))

/-- Fold a state change over a list. -/
def foldS {α : Type} (f : α → State → State) : List α → State → State
  | [], s => s
  | x :: xs, s => foldS f xs (f x s)

end Sys2Proof.Machine
end

