-- ==== Sys2Proof/Machine/Fp.lean ====
section
/-! DEFINITION. IEEE 754-2019 arithmetic on binary32 and binary64 as the Tuitin operations use it
(spec/04_tuitin_operations.md R159 to R163, R170): operands are taken apart exactly, the result is computed exactly on
integers, and one rounding narrows it. Flags are masks in FPCTL's bit positions. -/

namespace Sys2Proof.Machine

/-- A binary format: precision, exponent field width. -/
structure Fmt where
  p  : Nat
  eb : Nat
  deriving DecidableEq, Repr

/-- binary32. -/
def f32 : Fmt := { p := 24, eb := 8 }
/-- binary64. -/
def f64 : Fmt := { p := 53, eb := 11 }

/-- The exponent bias, which is also the largest exponent. -/
def Fmt.bias (f : Fmt) : Nat := 2 ^ (f.eb - 1) - 1
/-- The exponent of the last place of a subnormal. -/
def Fmt.qmin (f : Fmt) : Int := 2 - (f.bias : Int) - (f.p : Int)
/-- The sign bit as a number. -/
def Fmt.signBit (f : Fmt) : Nat := 2 ^ (f.p - 1 + f.eb)
/-- Infinity. -/
def Fmt.inf (f : Fmt) : Nat := (2 ^ f.eb - 1) * 2 ^ (f.p - 1)
/-- The canonical quiet NaN (R160). -/
def Fmt.nan (f : Fmt) : Nat := f.inf + 2 ^ (f.p - 2)

/-- FPCTL.nv. -/
def fNv : Nat := 0x100
/-- FPCTL.dz. -/
def fDz : Nat := 0x200
/-- FPCTL.of. -/
def fOf : Nat := 0x400
/-- FPCTL.uf. -/
def fUf : Nat := 0x800
/-- FPCTL.nx. -/
def fNx : Nat := 0x1000

/-- The modes an operation rounds under: FPCTL.rm and FPCTL.ftz. -/
structure FpMode where
  rm  : Nat
  ftz : Bool
  deriving DecidableEq, Repr

/-- The modes that a value of FPCTL holds. -/
def fpMode (c : Word) : FpMode := { rm := fld c 0 2, ftz := bit c 2 }

/-- A floating value taken apart: NaN (signalling or quiet), infinity, or sign and magnitude m x 2^e. -/
inductive FVal where
  | nan (signalling : Bool)
  | inf (s : Bool)
  | fin (s : Bool) (m : Nat) (e : Int)
  deriving DecidableEq, Repr

/-- A result: bits and flags. -/
structure FRes where
  bits  : Nat
  flags : Nat
  deriving DecidableEq, Repr

/-- Take a value apart; with ftz a subnormal is a zero of its sign (R162). -/
def unpack (f : Fmt) (ftz : Bool) (x : Nat) : FVal :=
  let s := decide ((x / f.signBit) % 2 = 1)
  let e := (x / 2 ^ (f.p - 1)) % 2 ^ f.eb
  let m := x % 2 ^ (f.p - 1)
  if e = 2 ^ f.eb - 1 then
    if m = 0 then .inf s else .nan (decide (m < 2 ^ (f.p - 2)))
  else if e = 0 then .fin s (if ftz then 0 else m) f.qmin
  else .fin s (m + 2 ^ (f.p - 1)) (f.qmin + (e : Int) - 1)

/-- Attach a sign. -/
def signed (f : Fmt) (s : Bool) (x : Nat) : Nat := if s then x + f.signBit else x

/-- Round m x 2^e to a whole multiple of 2^q in direction rm: the multiple, and whether it is inexact. -/
def roundAt (rm : Nat) (s : Bool) (m : Nat) (e q : Int) : Nat × Bool :=
  if q ≤ e then (m * 2 ^ (e - q).toNat, false)
  else
    let k := (q - e).toNat
    let n := m / 2 ^ k
    let r := m % 2 ^ k
    let up : Bool := match rm with
      | 0 => decide (2 ^ k < 2 * r) || (decide (2 * r = 2 ^ k) && decide (n % 2 = 1))
      | 1 => false
      | 2 => !s && decide (r ≠ 0)
      | _ => s && decide (r ≠ 0)
    (n + b2n up, decide (r ≠ 0))

/-- Round the nonzero value m x 2^e into the format (R159, R162), tininess detected after rounding. -/
def roundTo (f : Fmt) (md : FpMode) (s : Bool) (m : Nat) (e : Int) : FRes :=
  let len : Int := (Nat.log2 m : Int) + 1
  let qn := e + len - (f.p : Int)
  let q := if qn < f.qmin then f.qmin else qn
  let (n, ix) := roundAt md.rm s m e q
  let nu := (roundAt md.rm s m e qn).1
  let top := fun (x : Nat) (y : Int) => (Nat.log2 x : Int) + y
  if n = 0 then ⟨signed f s 0, fUf + fNx⟩
  else if (f.bias : Int) < top n q then
    let toInf : Bool := match md.rm with | 0 => true | 1 => false | 2 => !s | _ => s
    ⟨signed f s (if toInf then f.inf else f.inf - 1), fOf + fNx⟩
  else if n < 2 ^ (f.p - 1) then
    if md.ftz then ⟨signed f s 0, fUf + fNx⟩
    else ⟨signed f s n, if ix then fUf + fNx else 0⟩
  else
    let x := n + ((q - f.qmin).toNat) * 2 ^ (f.p - 1)
    let tiny := decide (top nu qn < 1 - (f.bias : Int))
    ⟨signed f s x, if ix then (if tiny then fUf + fNx else fNx) else 0⟩

/-- Round m x 2^e plus a nonzero remainder below its last place where `sticky`. -/
def roundSticky (f : Fmt) (md : FpMode) (s : Bool) (m : Nat) (e : Int) (sticky : Bool) : FRes :=
  roundTo f md s (2 * m + b2n sticky) (e - 1)

/-- The NaN result; nv when an operand signals. -/
def nanRes (f : Fmt) (nv : Bool) : FRes := ⟨f.nan, if nv then fNv else 0⟩

/-- Is the value a signalling NaN? -/
def FVal.signals : FVal → Bool
  | .nan b => b
  | _ => false

/-- Is the value a NaN? -/
def FVal.isNan : FVal → Bool
  | .nan _ => true
  | _ => false

/-- Change the sign of a value. -/
def FVal.neg : FVal → FVal
  | .nan b => .nan b
  | .inf s => .inf (!s)
  | .fin s m e => .fin (!s) m e

/-- The signed integer s, m scaled by 2^k. -/
def scaled (s : Bool) (m k : Nat) : Int := if s then -((m * 2 ^ k : Nat) : Int) else ((m * 2 ^ k : Nat) : Int)

/-- Exact sum of two finite values, rounded once; `negate` rounds the negative of the sum. The sign of an exact zero is the
common sign, or plus except when rounding toward minus infinity. -/
def addFin (f : Fmt) (md : FpMode) (negate : Bool) (s1 : Bool) (m1 : Nat) (e1 : Int) (s2 : Bool) (m2 : Nat) (e2 : Int) : FRes :=
  let e := if e1 ≤ e2 then e1 else e2
  let z := scaled s1 m1 (e1 - e).toNat + scaled s2 m2 (e2 - e).toNat
  if z = 0 then
    let s := if s1 = s2 then s1 else decide (md.rm = 3)
    ⟨signed f (s ^^ negate) 0, 0⟩
  else roundTo f md (decide (z < 0) ^^ negate) z.natAbs e

/-- a + b. -/
def fpAdd (f : Fmt) (md : FpMode) (a b : FVal) : FRes :=
  match a, b with
  | .nan x, v => nanRes f (x || v.signals)
  | v, .nan y => nanRes f (v.signals || y)
  | .inf s, .inf t => if s = t then ⟨signed f s f.inf, 0⟩ else nanRes f true
  | .inf s, .fin _ _ _ => ⟨signed f s f.inf, 0⟩
  | .fin _ _ _, .inf s => ⟨signed f s f.inf, 0⟩
  | .fin s1 m1 e1, .fin s2 m2 e2 => addFin f md false s1 m1 e1 s2 m2 e2

/-- a x b. -/
def fpMul (f : Fmt) (md : FpMode) (a b : FVal) : FRes :=
  match a, b with
  | .nan x, v => nanRes f (x || v.signals)
  | v, .nan y => nanRes f (v.signals || y)
  | .inf s, .inf t => ⟨signed f (s ^^ t) f.inf, 0⟩
  | .inf s, .fin t m _ => if m = 0 then nanRes f true else ⟨signed f (s ^^ t) f.inf, 0⟩
  | .fin s m _, .inf t => if m = 0 then nanRes f true else ⟨signed f (s ^^ t) f.inf, 0⟩
  | .fin s1 m1 e1, .fin s2 m2 e2 =>
    if m1 * m2 = 0 then ⟨signed f (s1 ^^ s2) 0, 0⟩ else roundTo f md (s1 ^^ s2) (m1 * m2) (e1 + e2)

/-- a x b + c in one rounding, or its negative. -/
def fpFma (f : Fmt) (md : FpMode) (negate : Bool) (a b c : FVal) : FRes :=
  let zeroTimesInf : Bool := match a, b with
    | .inf _, .fin _ m _ => decide (m = 0)
    | .fin _ m _, .inf _ => decide (m = 0)
    | _, _ => false
  if a.isNan || b.isNan then nanRes f (a.signals || b.signals || c.signals)
  else if zeroTimesInf then nanRes f (if c.isNan then c.signals || Config.fmaInvalidOnQuietNan else true)
  else match a, b, c with
    | _, _, .nan z => nanRes f z
    | .fin s1 m1 e1, .fin s2 m2 e2, .fin s3 m3 e3 =>
      addFin f md negate (s1 ^^ s2) (m1 * m2) (e1 + e2) s3 m3 e3
    | .fin _ _ _, .fin _ _ _, .inf s => ⟨signed f (s ^^ negate) f.inf, 0⟩
    | x, y, z =>
      let sx := match x with | .inf s => s | .fin s _ _ => s | .nan _ => false
      let sy := match y with | .inf s => s | .fin s _ _ => s | .nan _ => false
      match z with
      | .inf s => if s = (sx ^^ sy) then ⟨signed f (s ^^ negate) f.inf, 0⟩ else nanRes f true
      | _ => ⟨signed f (sx ^^ sy ^^ negate) f.inf, 0⟩

/-- a / b (R170). -/
def fpDiv (f : Fmt) (md : FpMode) (a b : FVal) : FRes :=
  match a, b with
  | .nan x, v => nanRes f (x || v.signals)
  | v, .nan y => nanRes f (v.signals || y)
  | .inf _, .inf _ => nanRes f true
  | .inf s, .fin t _ _ => ⟨signed f (s ^^ t) f.inf, 0⟩
  | .fin s _ _, .inf t => ⟨signed f (s ^^ t) 0, 0⟩
  | .fin s1 m1 e1, .fin s2 m2 e2 =>
    if m2 = 0 then (if m1 = 0 then nanRes f true else ⟨signed f (s1 ^^ s2) f.inf, fDz⟩)
    else if m1 = 0 then ⟨signed f (s1 ^^ s2) 0, 0⟩
    else
      let k := f.p + 3 + Nat.log2 m2
      let n := m1 * 2 ^ k
      roundSticky f md (s1 ^^ s2) (n / m2) (e1 - e2 - (k : Int)) (decide (n % m2 ≠ 0))

/-- The integer square root by bits from the top. -/
def isqrtBits : Nat → Nat → Nat → Nat
  | 0, _, r => r
  | i + 1, n, r => if (r + 2 ^ i) * (r + 2 ^ i) ≤ n then isqrtBits i n (r + 2 ^ i) else isqrtBits i n r

/-- The square root (R170). -/
def fpSqrt (f : Fmt) (md : FpMode) (a : FVal) : FRes :=
  match a with
  | .nan x => nanRes f x
  | .inf s => if s then nanRes f true else ⟨f.inf, 0⟩
  | .fin s m e =>
    if m = 0 then ⟨signed f s 0, 0⟩
    else if s then nanRes f true
    else
      let k := 2 * f.p + 6 + (if (e - (2 * f.p + 6 : Nat)) % 2 = 0 then 0 else 1)
      let n := m * 2 ^ k
      let r := isqrtBits (Nat.log2 n / 2 + 1) n 0
      roundSticky f md false r ((e - (k : Int)) / 2) (decide (r * r ≠ n))

/-- Exact order of two finite values: -1, 0 or 1. -/
def cmpFin (s1 : Bool) (m1 : Nat) (e1 : Int) (s2 : Bool) (m2 : Nat) (e2 : Int) : Int :=
  let e := if e1 ≤ e2 then e1 else e2
  let z := scaled s1 m1 (e1 - e).toNat - scaled s2 m2 (e2 - e).toNat
  if z < 0 then -1 else if z = 0 then 0 else 1

/-- The order of two values that are not NaN. -/
def fpOrder (a b : FVal) : Int :=
  match a, b with
  | .inf s, .inf t => if s = t then 0 else if s then -1 else 1
  | .inf s, _ => if s then -1 else 1
  | _, .inf t => if t then 1 else -1
  | .fin s1 m1 e1, .fin s2 m2 e2 => cmpFin s1 m1 e1 s2 m2 e2
  | _, _ => 0

/-- The sign of a value. -/
def FVal.sign : FVal → Bool
  | .nan _ => false
  | .inf s => s
  | .fin s _ _ => s

/-- The bits of a value that was taken apart from this format without loss. -/
def repack (f : Fmt) (v : FVal) : Nat :=
  match v with
  | .nan _ => f.nan
  | .inf s => signed f s f.inf
  | .fin s m e =>
    if m < 2 ^ (f.p - 1) then signed f s m else signed f s (m + ((e - f.qmin).toNat) * 2 ^ (f.p - 1))

/-- minimumNumber or maximumNumber (R161). -/
def fpMinMax (f : Fmt) (isMax : Bool) (a b : FVal) : FRes :=
  let fl := if a.signals || b.signals then fNv else 0
  if a.isNan && b.isNan then ⟨f.nan, fl⟩
  else if a.isNan then ⟨repack f b, fl⟩
  else if b.isNan then ⟨repack f a, fl⟩
  else
    let o := fpOrder a b
    let aLess := decide (o < 0) || (decide (o = 0) && a.sign)
    ⟨repack f (if aLess ^^ isMax then a else b), fl⟩

/-- Which comparison a compare-to-flag operation makes. -/
inductive FCmp where
  | eq | lt | le | un
  deriving DecidableEq, Repr

/-- A comparison and its flags (R161). -/
def fpCompare (c : FCmp) (a b : FVal) : Bool × Nat :=
  let un := a.isNan || b.isNan
  let sig := a.signals || b.signals
  let nv := match c with | .lt => un | .le => un | _ => sig
  let r := match c with
    | .un => un
    | .eq => !un && decide (fpOrder a b = 0)
    | .lt => !un && decide (fpOrder a b < 0)
    | .le => !un && decide (fpOrder a b ≤ 0)
  (r, if nv then fNv else 0)

/-- Conversion of a value times 2^b to an integer in lo .. hi (R163). -/
def fpToInt (md : FpMode) (lo hi : Int) (b : Nat) (v : FVal) : Int × Nat :=
  match v with
  | .nan _ => (0, fNv)
  | .inf s => (if s then lo else hi, fNv)
  | .fin s m e =>
    let (n, ix) := roundAt md.rm s m (e + (b : Int)) 0
    let z : Int := if s then -(n : Int) else (n : Int)
    if z < lo then (lo, fNv) else if hi < z then (hi, fNv) else (z, if ix then fNx else 0)

/-- An integer times 2^-b, rounded into the format. -/
def fpFromInt (f : Fmt) (md : FpMode) (z : Int) (b : Nat) : FRes :=
  if z = 0 then ⟨0, 0⟩ else roundTo f md (decide (z < 0)) z.natAbs (-(b : Int))

/-- A value rounded into another format. -/
def fpConvert (f : Fmt) (md : FpMode) (v : FVal) : FRes :=
  match v with
  | .nan x => nanRes f x
  | .inf s => ⟨signed f s f.inf, 0⟩
  | .fin s m e => if m = 0 then ⟨signed f s 0, 0⟩ else roundTo f md s m e

/-- A value rounded to an integral value in its own format (FRND), signalling inexact. -/
def fpIntegral (f : Fmt) (md : FpMode) (v : FVal) : FRes :=
  match v with
  | .nan x => nanRes f x
  | .inf s => ⟨signed f s f.inf, 0⟩
  | .fin s m e =>
    let (n, ix) := roundAt md.rm s m e 0
    let fl := if ix then fNx else 0
    if n = 0 then ⟨signed f s 0, fl⟩ else ⟨(roundTo f md s n 0).bits, fl⟩

end Sys2Proof.Machine
end

