-- ==== Sys2Proof/Machine/Flags.lean ====
section
/-! DEFINITION. What the operations of Tuitin compute (spec/04_tuitin_operations.md): integer results and saturation,
comparisons, CRC, products, accumulation, extraction, rounding of floating point, and the flags each computation sets. -/

namespace Sys2Proof.Machine

/-- Clamp an integer to [lo, hi]; the second component says whether it clamped. -/
def clampI (lo hi x : Int) : Int × Bool :=
  if x < lo then (lo, true) else if hi < x then (hi, true) else (x, false)

/-- sat32 of "Conventions". -/
def sat32 (x : Int) : Word × Bool := let r := clampI (-(2 ^ 31)) (2 ^ 31 - 1) x; (BitVec.ofInt 32 r.1, r.2)

/-- sat16 of "Conventions". -/
def sat16 (x : Int) : BitVec 16 × Bool := let r := clampI (-(2 ^ 15)) (2 ^ 15 - 1) x; (BitVec.ofInt 16 r.1, r.2)

/-- The low half-word. -/
def loH (x : Word) : BitVec 16 := x.truncate 16

/-- The high half-word. -/
def hiH (x : Word) : BitVec 16 := (x >>> 16).truncate 16

/-- Operations of the X slots with two register operands and one result (Tables 04-2, 04-3, 04-5, 04-6). -/
inductive AluOp where
  | add | sub | adds | subs | addus | subus | min | max | minu | maxu | abs | negs | add2 | sub2 | adds2 | subs2
  | and | or | xor | andn | not | shl | shr | sar | ror
  | extu | exts | clz | cls | popc | bswap
  | crcb | crcw | crcbR | crcwR | parity | bitrev | bitrevn
  deriving DecidableEq, Repr

/-- Leading zero bits of a word. -/
def clzW (x : Word) : Nat := if x = 0 then 32 else 31 - x.toNat.log2

/-- crc_step of R145, one bit after another. -/
def crcBits (poly : Word) (reflected : Bool) : Nat → Word → Word
  | 0, c => c
  | n + 1, c =>
    crcBits poly reflected n
      (if reflected then (if c.getLsbD 0 then (c >>> 1) ^^^ poly else c >>> 1)
       else (if c.getLsbD 31 then (c <<< 1) ^^^ poly else c <<< 1))

/-- crc_step of R145. -/
def crcStep (poly crc data : Word) (nbits : Nat) (reflected : Bool) : Word :=
  if reflected then crcBits poly true nbits (crc ^^^ data)
  else crcBits poly false nbits (crc ^^^ (data <<< (32 - nbits)))

/-- The low n bits of x in reverse order. -/
def revBits (n x : Nat) : Nat :=
  (List.range n).foldl (fun r i => r + (if x.testBit i then 2 ^ (n - 1 - i) else 0)) 0

/-- The number of 1 bits of a word. -/
def popCount (x : Word) : Nat := (List.range 32).foldl (fun n i => n + b2n (x.getLsbD i)) 0

/-- How many bits below bit 31 equal it before the first that differs (Table 04-5 CLS). -/
def clsW (x : Word) : Nat := clzW (if x.getLsbD 31 then ~~~x else x) - 1

/-- The position and width of a bit field (R144): a field that would pass bit 31 ends there. -/
def fieldOf (b : Word) : Nat × Nat := let p := fld b 0 5; (p, min (fld b 5 5 + 1) (32 - p))

/-- The result of an X operation and whether it clamped (R140, R141, R144, R145). -/
def aluVal (poly : Word) (op : AluOp) (a b : Word) : Word × Bool :=
  match op with
  | .add => (a + b, false)
  | .sub => (a - b, false)
  | .adds => sat32 (a.toInt + b.toInt)
  | .subs => sat32 (a.toInt - b.toInt)
  | .addus => let r := clampI 0 (2 ^ 32 - 1) ((a.toNat : Int) + b.toNat); (BitVec.ofInt 32 r.1, r.2)
  | .subus => let r := clampI 0 (2 ^ 32 - 1) ((a.toNat : Int) - b.toNat); (BitVec.ofInt 32 r.1, r.2)
  | .min => (if a.toInt ≤ b.toInt then a else b, false)
  | .max => (if a.toInt ≤ b.toInt then b else a, false)
  | .minu => (if a.toNat ≤ b.toNat then a else b, false)
  | .maxu => (if a.toNat ≤ b.toNat then b else a, false)
  | .abs => sat32 (a.toInt.natAbs : Int)
  | .negs => sat32 (-a.toInt)
  | .add2 => ((hiH a + hiH b) ++ (loH a + loH b), false)
  | .sub2 => ((hiH a - hiH b) ++ (loH a - loH b), false)
  | .adds2 =>
    let h := sat16 ((hiH a).toInt + (hiH b).toInt); let l := sat16 ((loH a).toInt + (loH b).toInt); (h.1 ++ l.1, h.2 || l.2)
  | .subs2 =>
    let h := sat16 ((hiH a).toInt - (hiH b).toInt); let l := sat16 ((loH a).toInt - (loH b).toInt); (h.1 ++ l.1, h.2 || l.2)
  | .and => (a &&& b, false)
  | .or => (a ||| b, false)
  | .xor => (a ^^^ b, false)
  | .andn => (a &&& ~~~b, false)
  | .not => (~~~a, false)
  | .shl => (a <<< fld b 0 6, false)
  | .shr => (a >>> fld b 0 6, false)
  | .sar => (a.sshiftRight (fld b 0 6), false)
  | .ror => (a.rotateRight (fld b 0 5), false)
  | .extu => let f := fieldOf b; (BitVec.ofNat 32 (fld a f.1 f.2), false)
  | .exts =>
    let f := fieldOf b; let x := fld a f.1 f.2
    (BitVec.ofInt 32 (if x.testBit (f.2 - 1) then (x : Int) - 2 ^ f.2 else x), false)
  | .clz => (BitVec.ofNat 32 (clzW a), false)
  | .cls => (BitVec.ofNat 32 (clsW a), false)
  | .popc => (BitVec.ofNat 32 (popCount a), false)
  | .bswap => (BitVec.ofNat 32 (fld a 0 8 * 2 ^ 24 + fld a 8 8 * 2 ^ 16 + fld a 16 8 * 2 ^ 8 + fld a 24 8), false)
  | .crcb => (crcStep poly a (b &&& 0xFF) 8 false, false)
  | .crcw => (crcStep poly a b 32 false, false)
  | .crcbR => (crcStep poly a (b &&& 0xFF) 8 true, false)
  | .crcwR => (crcStep poly a b 32 true, false)
  | .parity => (BitVec.ofNat 32 (popCount a % 2), false)
  | .bitrev => (BitVec.ofNat 32 (revBits 32 a.toNat), false)
  | .bitrevn => let n := fld b 0 5 + 1; (BitVec.ofNat 32 (revBits n (a.toNat % 2 ^ n)), false)

/-- INS (Table 04-5). -/
def insVal (d a b : Word) : Word := let f := fieldOf b; setFld d f.1 f.2 (a.toNat % 2 ^ f.2)

/-- Comparisons of two words (Table 04-4). -/
inductive CmpOp where
  | eq | ne | lt | le | ltu | leu | tst | bit
  deriving DecidableEq, Repr

/-- The flag a comparison gives. -/
def cmpVal (op : CmpOp) (a b : Word) : Bool :=
  match op with
  | .eq => decide (a = b)
  | .ne => decide (a ≠ b)
  | .lt => decide (a.toInt < b.toInt)
  | .le => decide (a.toInt ≤ b.toInt)
  | .ltu => decide (a.toNat < b.toNat)
  | .leu => decide (a.toNat ≤ b.toNat)
  | .tst => decide (a &&& b ≠ 0)
  | .bit => a.getLsbD (fld b 0 5)

/-- Flag logic (Table 04-4, func 8 to 11). -/
inductive FlagOp where
  | fand | for_ | fxor | fandn
  deriving DecidableEq, Repr

/-- The flag that flag logic gives. -/
def flagVal (op : FlagOp) (a b : Bool) : Bool :=
  match op with
  | .fand => a && b
  | .for_ => a || b
  | .fxor => a != b
  | .fandn => a && !b

/-- MUL (Table 04-8). -/
inductive MulOp where
  | mul | mulu | mulsu | mulq | mul2h
  deriving DecidableEq, Repr

/-- The product of MUL, and whether MULQ clamped. -/
def mulVal (op : MulOp) (a b : Word) : BitVec 64 × Bool :=
  match op with
  | .mul => (BitVec.ofInt 64 (a.toInt * b.toInt), false)
  | .mulu => (BitVec.ofNat 64 (a.toNat * b.toNat), false)
  | .mulsu => (BitVec.ofInt 64 (a.toInt * b.toNat), false)
  | .mulq => let r := clampI (-(2 ^ 63)) (2 ^ 63 - 1) (2 * (a.toInt * b.toInt)); (BitVec.ofInt 64 r.1, r.2)
  | .mul2h =>
    ((BitVec.ofInt 32 ((hiH a).toInt * (hiH b).toInt)) ++ (BitVec.ofInt 32 ((loH a).toInt * (loH b).toInt)), false)

/-- MAC operations on one accumulator (Table 04-9). -/
inductive MacOp where
  | mac | msu | macu | macsu | macq | msuq | mulm | mulqm | mac2 | mac2q
  | mac2h | mac2hq | msu2h | mac2hx | mac4h | mac4hq
  deriving DecidableEq, Repr

/-- Does the operation start from 0 rather than from Mk? -/
def MacOp.fromZero : MacOp → Bool
  | .mulm => true
  | .mulqm => true
  | _ => false

/-- Does the operation read the odd registers of the pairs a and b? -/
def MacOp.pairs : MacOp → Bool
  | .mac2 => true
  | .mac2q => true
  | .mac4h => true
  | .mac4hq => true
  | _ => false

/-- The sum of the products of half-words. -/
def dot2 (a b : Word) : Int := (loH a).toInt * (loH b).toInt + (hiH a).toInt * (hiH b).toInt

/-- The exact value p that a MAC operation adds (Table 04-9); a', b' are the odd registers of pairs. -/
def macVal (op : MacOp) (a b a' b' : Word) : Int :=
  match op with
  | .mac => a.toInt * b.toInt
  | .msu => -(a.toInt * b.toInt)
  | .macu => (a.toNat : Int) * b.toNat
  | .macsu => a.toInt * b.toNat
  | .macq => 2 * (a.toInt * b.toInt)
  | .msuq => -(2 * (a.toInt * b.toInt))
  | .mulm => a.toInt * b.toInt
  | .mulqm => 2 * (a.toInt * b.toInt)
  | .mac2 => a.toInt * b.toInt + a'.toInt * b'.toInt
  | .mac2q => 2 * (a.toInt * b.toInt + a'.toInt * b'.toInt)
  | .mac2h => dot2 a b
  | .mac2hq => 2 * dot2 a b
  | .msu2h => -dot2 a b
  | .mac2hx => (loH a).toInt * (hiH b).toInt + (hiH a).toInt * (loH b).toInt
  | .mac4h => dot2 a b + dot2 a' b'
  | .mac4hq => 2 * (dot2 a b + dot2 a' b')

/-- An accumulation (R153): the range is 80 bits, or 72 in the Legacy T2 profile (R131). The second component is
acc_ovf. -/
def accVal (t2 sat : Bool) (r : Int) : BitVec 80 × Bool :=
  let w := if t2 then 72 else 80
  let hi : Int := 2 ^ (w - 1)
  if r < -hi ∨ hi - 1 < r then
    (if sat then BitVec.ofInt 80 (if r < 0 then -hi else hi - 1)
     else BitVec.ofInt 80 ((r + hi) % (2 * hi) - hi), true)
  else (BitVec.ofInt 80 r, false)

/-- Extraction (R156) by a shift of at most 79: the word, and whether it saturated. -/
def extVal (rnd : Nat) (m : BitVec 80) (shift : Nat) : Word × Bool :=
  let sh := min shift 79
  let v := m.toInt
  let q :=
    if sh = 0 then v
    else if rnd = 1 then (v + 2 ^ (sh - 1)) >>> sh
    else if rnd = 2 then
      let f := v >>> sh
      let rest := v - f * 2 ^ sh
      if 2 ^ (sh - 1) < rest ∨ (rest = 2 ^ (sh - 1) ∧ f % 2 = 1) then f + 1 else f
    else v >>> sh
  sat32 q

/-- The CCLK of an integer division (R164). -/
def divCycles (signed : Bool) (a b : Word) : Nat :=
  let mag := fun (x : Word) => if signed then BitVec.ofNat 32 x.toInt.natAbs else x
  18 + (clzW (mag b) + 1 - clzW (mag a) + 1) / 2

/-- Integer division and remainder (Table 04-14, R169); b is not 0. -/
def divVal (fn : Nat) (a b : Word) : Word :=
  match fn with
  | 0 => BitVec.ofInt 32 (Int.tdiv a.toInt b.toInt)
  | 1 => BitVec.ofNat 32 (a.toNat / b.toNat)
  | 2 => BitVec.ofInt 32 (Int.tmod a.toInt b.toInt)
  | _ => BitVec.ofNat 32 (a.toNat % b.toNat)

/-- CRC-32C (reflected polynomial 0x82F63B78) folded over bytes: the lockstep signature of R440. -/
def crc32c : Word → List Byte → Word
  | c, [] => c
  | c, b :: bs => crc32c (crcBits 0x82F63B78 true 8 (c ^^^ b.zeroExtend 32)) bs

/-- CRC-32 of IEEE 802.3 (reflected polynomial 0xEDB88320) folded over bytes. -/
def crc32 : Word → List Byte → Word
  | c, [] => c
  | c, b :: bs => crc32 (crcBits 0xEDB88320 true 8 (c ^^^ b.zeroExtend 32)) bs

end Sys2Proof.Machine
end

