-- ==== Sys2Proof/Machine/Mem.lean ====
section
/-! DEFINITION. The physical address space (spec/07_memory.md): decoding, failed accesses, aliases, memory power and wake,
ECC reports, and the queue of fabric requests. Registers are read and written in Machine/Regs.lean. -/

namespace Sys2Proof.Machine

/-! ## The partition of a core -/

/-- BWTR_PTn_STAT.shed. -/
def State.ptShed (s : State) (n : Nat) : Bool := bit (s.reg (aBwtrPtStat n)) 3

/-- Is partition n shed, and not on its way back by a re-pitch whose stop edge has passed (R445, R476)? -/
def State.ptOut (s : State) (n : Nat) : Bool := s.ptShed n && !(s.qfa.stopped && decide (s.qfa.part = some n))

/-- The partition that a logical core belongs to (R445, R463, R476). -/
def State.partOf (s : State) (l : Nat) : Option Part :=
  s.setup.parts.find? (fun p => p.cores.getLsbD l && !s.ptOut p.part)

/-- Is the initiator a core whose partition is Protected or Paired (R306)? -/
def State.iniHigh (s : State) (ini : Initiator) : Bool :=
  match ini with
  | .core k _ => (match (s.lcoreOf k).bind s.partOf with | some p => decide (p.cls ≠ 0) | none => false)
  | _ => false

/-! ## Decoding -/

/-- The device's own member ID: the CAMP_ID straps (spec/18_reset_boot.md R682). -/
def State.ownId (s : State) : Nat := fld (s.reg aSysStrap) 2 3

/-- A region of Table 07-1. -/
inductive Region where
  | reservoir
  | shared (c : Nat)
  | data (k : Nat)
  | itcm (k : Nat)
  | device
  | ddr
  deriving DecidableEq, Repr

/-- The region of an address with bit 43 clear and mirror bits 0 (Table 07-1). -/
def regionOf (a : Nat) : Option Region :=
  if a < 0x02000000 then some .reservoir
  else if a < 0x10000000 then none
  else if a < 0x14000000 then some (.shared ((a - 0x10000000) / 0x400000))
  else if a < 0x20000000 then none
  else if a < 0x24000000 then
    let c := (a - 0x20000000) / 0x400000
    let o := (a - 0x20000000) % 0x400000
    if o < 0x240000 then
      let k := 9 * c + o / 0x40000
      if o % 0x40000 < 0x30000 then some (.data k) else some (.itcm k)
    else none
  else if a < 0x40000000 then none
  else if a < 0x50000000 then some .device
  else if a < 0x1000000000 then none
  else if a < 0x2000000000 then some .ddr
  else none

/-- Is the region on-chip SRAM (R317)? -/
def Region.sram : Region → Bool
  | .device => false
  | .ddr => false
  | _ => true

/-- What an access reaches (R292): nothing; another member; device registers; memory at a physical address, plainly or by
the bit-set or bit-clear mirror. -/
inductive Target where
  | fail
  | remote (m a : Nat)
  | dev (a : Nat)
  | mem (r : Region) (a : Nat)
  | mirror (set : Bool) (r : Region) (a : Nat)
  deriving DecidableEq, Repr

/-- Decode [39:0] in the device's own map (R292 points 3 and 4). -/
def ownTarget (a : Nat) : Target :=
  let al := a / 2 ^ 38
  let b := a % 2 ^ 38
  match regionOf b with
  | none => .fail
  | some r =>
    if al = 0 then (if r = .device then .dev b else .mem r b)
    else if al = 3 then .fail
    else if r.sram then .mirror (decide (al = 1)) r b
    else .fail

/-- Decode a physical address (R292, R36). -/
def State.decodeAddr (s : State) (a : Nat) : Target :=
  if a.testBit 43 then
    let m := a / 2 ^ 40 % 8
    if m = s.ownId then ownTarget (a % 2 ^ 40) else .remote m (a % 2 ^ 40)
  else if a / 2 ^ 40 % 8 ≠ 0 then .fail
  else ownTarget a

/-- The address that names the same bytes plainly: the window of the own member, and the mirror bits, taken away (R36, R317). -/
def State.plain (s : State) (a : Nat) : Nat :=
  match s.decodeAddr a with
  | .mem _ b => b
  | .dev b => b
  | .mirror _ _ b => b
  | .remote m b => 2 ^ 43 + m * 2 ^ 40 + (if b / 2 ^ 38 = 1 ∨ b / 2 ^ 38 = 2 then b % 2 ^ 38 else b)
  | .fail => a

/-- The slot whose local memory a region is. -/
def Region.slot? : Region → Option Nat
  | .data k => some k
  | .itcm k => some k
  | _ => none

/-- May memory at region r, n bytes from a, be accessed (R293): slot in service, LPDDR5X populated (R295), all bytes in one
region? `anySlot` marks the initiators that also reach slots out of service. -/
def State.memOk (s : State) (anySlot : Bool) (r : Region) (a n : Nat) : Bool :=
  decide (regionOf (a + (n - 1)) = some r) &&
  (match r with
   | .ddr => decide (a + n ≤ 0x1000000000 + s.memc.ddrCap)
   | .data k => anySlot || s.inService k
   | .itcm k => anySlot || s.inService k
   | _ => true)

/-- The target of an access of n bytes, with the refusals of R293, R294 and R320 applied. -/
def State.access (s : State) (anySlot store : Bool) (a n : Nat) : Target :=
  match s.decodeAddr a with
  | .mem r b => if s.memOk anySlot r b n then .mem r b else .fail
  | .mirror set r b => if s.memOk anySlot r b n ∧ (store = false ∨ n = 4) then .mirror set r b else .fail
  | .dev b => if n = 4 ∧ b % 4 = 0 ∧ inRegBlock b = true then .dev b else .fail
  | t => t

/-- A write of n bytes at a cancels the write-backs of its words (R321). -/
def State.cancelWb (s : State) (a n : Nat) : State :=
  { s with memc := { s.memc with wb := s.memc.wb.filter (fun w => decide (w.1 + 8 ≤ a) || decide (a + n ≤ w.1)) } }

/-- The bank of a cluster shared or Reservoir address (R303): Reservoir banks 0 to 31, then 16 banks per cluster. -/
def bankOf (r : Region) (a : Nat) : Option Nat :=
  match r with
  | .reservoir => some (a / 0x100000)
  | .shared c => some (32 + 16 * c + a / 64 % 16)
  | _ => none

/-- A fetch of a program block that its bank has granted (R365). -/
def State.granted (s : State) (id : Nat) : Bool :=
  s.memc.reqs.any (fun q => decide (q.id = id) && (match q.st with | .done _ => true | _ => false))

/-- The bank of cluster shared memory or Reservoir that holds a plain address. -/
def bankAt (a : Nat) : Option Nat := (regionOf a).bind (fun r => bankOf r a)

/-- Do n bytes at plain address a touch bank b (R303)? In a cluster's shared memory the 64-byte blocks of the bytes pass the banks in
turn. -/
def bankMeets (b a n : Nat) : Bool :=
  if b < 32 then decide (a < (b + 1) * 0x100000) && decide (b * 0x100000 < a + n)
  else
    let lo := 0x10000000 + (b - 32) / 16 * 0x400000
    let x := max a lo
    let y := min (a + n) (lo + 0x400000)
    decide (x < y) && decide (x / 64 + (b % 16 + 16 - x / 64 % 16) % 16 ≤ (y - 1) / 64)

/-- Banks grant a write of n bytes at plain address a: channels that hold or have been granted a block of such a bank note it, and a
channel parked on such a bank wakes (R365, R366). -/
def State.noteWrite (s : State) (a n : Nat) : State :=
  let hit := fun (b : Option Nat) => match b with | some x => bankMeets x a n | none => false
  { s with ferry := s.ferry.map (fun e =>
      let c := e.2
      (e.1, { c with
        blocks := c.blocks.map (fun k => if hit (bankAt (s.plain k.addr)) then { k with touched := true } else k)
        fetch := c.fetch.map (fun k => if hit (bankAt (s.plain k.addr)) && s.granted k.id then { k with touched := true } else k)
        released := c.released || hit c.snoop })) }

/-- Apply a store to memory: plain, or by a mirror (R318). -/
def State.storeAt (s : State) (t : Target) (bs : List Byte) : State :=
  match t with
  | .mem _ a => ((s.store a bs).cancelWb a bs.length).noteWrite a bs.length
  | .mirror set _ a =>
    let v := BitVec.ofNat 32 (leNat bs)
    let w := s.memWord a
    ((s.store a (leBytes 4 (if set then w ||| v else w &&& ~~~v).toNat)).cancelWb a 4).noteWrite a 4
  | _ => s

/-- The bytes a load takes from memory (R319). -/
def State.loadAt (s : State) (t : Target) (n : Nat) : List Byte :=
  match t with
  | .mem _ a => s.bytes a n
  | .mirror _ _ a => s.bytes a n
  | _ => []

/-! ## Power and wake (R327 to R332) -/

/-- The power unit that holds a region: Reservoir banks 0 to 31, clusters 32 to 47; LPDDR5X has none here. -/
def powerUnit (r : Region) (a : Nat) : Option Nat :=
  match r with
  | .reservoir => some (a / 0x100000)
  | .shared c => some (32 + c)
  | .data k => some (32 + k / 9)
  | .itcm k => some (32 + k / 9)
  | _ => none

/-- The power state of a unit. -/
def State.memPwr (s : State) (u : Nat) : MemPwr := smGet (fun _ => MemPwr.on) s.memc.pwr u

/-- Replace the power state of a unit; MEMC_RPWR_STAT follows for Reservoir banks. -/
def State.setMemPwr (s : State) (u : Nat) (p : MemPwr) : State :=
  let s1 := { s with memc := { s.memc with pwr := smSet (fun _ => MemPwr.on) s.memc.pwr u p } }
  if u < 32 then s1.setRegFld aMemcRpwrStat u 1 (if p = .on then 1 else 0) else s1

/-- Zero every word of a unit, as a wake from OFF leaves it (R329). -/
def State.zeroUnit (s : State) (u : Nat) : State :=
  if u < 32 then s.zero (u * 0x100000) 0x100000
  else
    let c := u - 32
    (s.zero (0x10000000 + c * 0x400000) 0x400000).zero (0x20000000 + c * 0x400000) 0x240000

/-- An access reaches a unit that is not ON: its wake begins (R328) and MEMC_WAKE_CNT counts it. -/
def State.beginWake (s : State) (u : Nat) : State :=
  match s.memPwr u with
  | .ret => (s.setMemPwr u .wakeRet).incSat aMemcWakeCnt
  | .off => (s.setMemPwr u .wakeOff).incSat aMemcWakeCnt
  | _ => s

/-- A wake completes: the unit is ON, and from OFF it holds zeros (R329). -/
def State.endWake (s : State) (u : Nat) : State :=
  match s.memPwr u with
  | .wakeRet => s.setMemPwr u .on
  | .wakeOff => (s.zeroUnit u).setMemPwr u .on
  | _ => s

/-- The unit returns to ON with the mode: from OFF it holds zeros (R329, R652). -/
def State.turnOn (s : State) (u : Nat) : State :=
  match s.memPwr u with
  | .on => s
  | .off => (s.zeroUnit u).setMemPwr u .on
  | .wakeOff => (s.zeroUnit u).setMemPwr u .on
  | _ => s.setMemPwr u .on

/-- The state that NEAP gives a unit (R327, R650): Reservoir banks by MEMC_RPWR_DOWN and MEMC_RPWR_RET, clusters by their
state in CKP_CL_PWR. -/
def State.neapState (s : State) (u : Nat) : MemPwr :=
  if u < 32 then
    if !bit (s.reg aMemcRpwrDown) u then .on else if bit (s.reg aMemcRpwrRet) u then .ret else .off
  else
    let x := fld (s.reg aCkpClPwr) (2 * (u - 32)) 2
    if x = 1 then .ret else if x = 2 then .off else .on

/-- Units 0 to 47 take their NEAP states. -/
def neapUnits (s : State) : State :=
  let s1 := foldS (fun u s => s.setMemPwr u (s.neapState u)) (List.range 48) s
  { s1 with memc := { s1.memc with woken := [] } }

/-- Every Reservoir bank is ON outside NEAP (R327). -/
def banksOn (s : State) : State := foldS (fun u s => s.turnOn u) (List.range 32) s

/-- In NEAP a unit that an access has woken may power down again (R330). -/
def State.markWoken (s : State) (u : Nat) : State :=
  if s.memPwr u = .wakeRet ∨ s.memPwr u = .wakeOff then { s with memc := { s.memc with woken := s.memc.woken ++ [u] } } else s

/-- Do n bytes at plain address a meet a power unit? -/
def unitMeets (u a n : Nat) : Bool :=
  if u < 32 then decide (a < (u + 1) * 0x100000) && decide (u * 0x100000 < a + n)
  else
    let sh := 0x10000000 + (u - 32) * 0x400000
    let lc := 0x20000000 + (u - 32) * 0x400000
    (decide (a < sh + 0x400000) && decide (sh < a + n)) || (decide (a < lc + 0x240000) && decide (lc < a + n))

/-- The wake of a unit from its beginning to its end. -/
def State.wakeUnit (s : State) (u : Nat) : State := let s1 := s.beginWake u; (s1.markWoken u).endWake u

/-- Every unit that n bytes at plain address a reach is woken (R328, R332): what an access that is made whole within one command, or a run
of them, passes through. -/
def State.wakeSpan (s : State) (a n : Nat) : State :=
  foldS (fun u s => if unitMeets u a n then s.wakeUnit u else s) (List.range 48) s

/-- An access made whole within one command passes through the wake of its unit. -/
def State.wakeFor (s : State) (t : Target) : State :=
  match t with
  | .mem r a => match powerUnit r a with | some u => s.wakeUnit u | none => s
  | .mirror _ r a => match powerUnit r a with | some u => s.wakeUnit u | none => s
  | _ => s

/-- Is the unit of a target ON? -/
def State.awake (s : State) (t : Target) : Bool :=
  match t with
  | .mem r a => match powerUnit r a with | some u => s.memPwr u = .on | none => true
  | .mirror _ r a => match powerUnit r a with | some u => s.memPwr u = .on | none => true
  | _ => true

/-! ## ECC (R321 to R323, R333) -/

/-- What an access is, for MEMC_UE_SRC.kind (Table 07-9). -/
def ueKind (ini : Initiator) (k : FabKind) : Nat :=
  match ini with
  | .core _ _ => (match k with | .load => 0 | .store => 1 | .fetch => 2)
  | .ferry _ => 3
  | .route => 4
  | .breakwater => 5
  | .scrubber => 6
  | .remote _ => 7
  | .host => 8
  | .debug => 9
  | .loader => 10
  | .controlPort => 8

/-- MEMC_UE_SRC of an error (Table 07-9). -/
def State.ueSrc (s : State) (ini : Initiator) (k : FabKind) (a : Nat) : Word :=
  let r := regionOf a
  let rg := match r with
    | some .reservoir => 0
    | some (.shared _) => 1
    | some (.data _) => 2
    | some (.itcm _) => 3
    | _ => 0
  let cl := match r with
    | some (.shared c) => c
    | some (.data j) => j / 9
    | some (.itcm j) => j / 9
    | _ => 0
  let sl := match r with
    | some (.data j) => j % 9
    | some (.itcm j) => j % 9
    | _ => 0
  let id := match ini with
    | .core j _ => (s.lcoreOf j).getD 0
    | .ferry n => n.val
    | .remote m => m.val
    | _ => 0
  BitVec.ofNat 32 (rg + cl * 2 ^ 4 + sl * 2 ^ 8 + ueKind ini k * 2 ^ 12 + id * 2 ^ 16)

/-- An uncorrectable error is logged (R322, R333): a full log sets ue_ovf instead. -/
def State.logUe (s : State) (ini : Initiator) (k : FabKind) (a : Nat) : State :=
  if s.memc.ue.length < 8 then
    let s1 := { s with memc := { s.memc with ue := s.memc.ue ++ [(⟨a, s.ueSrc ini k a⟩ : UeEntry)] } }
    s1.orReg aMemcStat 2
  else s.orReg aMemcStat 4

/-- Breakwater is told of the word of an uncorrectable error that a read of a partition's core meets (R322, R419 code 2, R423). -/
def State.noteUe (s : State) (ini : Initiator) (k : FabKind) (a : Nat) : State :=
  match ini with
  | .core j _ => if decide (k = .store) || ((s.lcoreOf j).bind s.partOf).isNone then s else { s with bw := { s.bw with notes := s.bw.notes ++ [(j.val, a / 8 * 8)] } }
  | _ => s

/-- Uncorrectable errors in words of the core's own local memory are logged, and Breakwater is told of them (R322, R419 code 1). -/
def State.ownUes (s : State) (k : Fin 144) (t : Fin 4) (kind : FabKind) (ws : List Nat) : State :=
  foldS (fun w s => { (s.logUe (.core k t) kind w) with bw := { s.bw with notes := s.bw.notes ++ [(k.val, w / 8 * 8)] } }) ws s

/-- Remove the oldest entry of the uncorrectable-error log (R333). -/
def State.popUe (s : State) : State := { s with memc := { s.memc with ue := s.memc.ue.tail } }

/-- The address of an 8-byte word that a read of bytes from a meets, by its number in the read. -/
def wordAt (a : Nat) (w : Fin 4) : Nat := (a / 8 + w.val) * 8

/-- A single-bit error is corrected and counted (R321); with ce_wb the write-back of the word waits. -/
def State.countCe (s : State) (bw : Bool) (a : Nat) : State :=
  let s1 := s.incSat aMemcCeCnt
  let s2 := s1.orRegIf (decide (fld (s1.reg aMemcCeThr) 0 16 ≤ (s1.reg aMemcCeCnt).toNat)) aMemcStat 1
  if bit (s2.reg aMemcCfg) 0 then { s2 with memc := { s2.memc with wb := s2.memc.wb ++ [(a / 8 * 8, bw)] } } else s2

/-- Single-bit errors in words of a read of n bytes from a; words that it does not read do not count. -/
def State.countCes (s : State) (bw : Bool) (a n : Nat) (ws : List (Fin 4)) : State :=
  foldS (fun w s => if (a / 8 + w.val) * 8 < a + n then s.countCe bw (wordAt a w) else s) ws s

/-! ## The staging window (R470) -/

/-- Base of the staging window. -/
def State.stgBase (s : State) : Nat := (s.reg aQfaStgBase).toNat + fld (s.reg aQfaStgBaseHi) 0 12 * 2 ^ 32

/-- Size of the staging window. -/
def State.stgSize (s : State) : Nat := fld (s.reg aQfaStgLim) 0 28 + 1

/-- Do n bytes at a meet the staging window? -/
def State.inStaging (s : State) (a n : Nat) : Bool := decide (a < s.stgBase + s.stgSize) && decide (s.stgBase < a + n)

/-- Does R470 hold the staging window: from the start of a FETCH, VERIFY or PITCH until the phase is IDLE? -/
def State.stagingHeld (s : State) : Bool := decide (1 ≤ s.qfa.phase) && decide (1 ≤ s.qfa.cmd) && decide (s.qfa.cmd ≤ 3)

/-- A write of n bytes at a by an initiator other than the loader: the bytes that a FETCH left are no longer those it checked. -/
def State.touchStaging (s : State) (a n : Nat) : State :=
  if s.inStaging a n then { s with qfa := { s.qfa with kept := none, staged := none } } else s

/-! ## Fabric requests -/

/-- The arbitration class of an initiator (Table 07-4, R306); `hi` says that a core's partition is Protected or Paired. -/
def iniClass (hi : Bool) : Initiator → Nat
  | .breakwater => 0
  | .core _ _ => if hi then 1 else 2
  | .ferry _ => 3
  | .route => 3
  | .loader => 3
  | _ => 4

/-- Queue a request and answer its number. It takes its class now (R306), and has its way to its bank before it (R721). -/
def State.request (s : State) (ini : Initiator) (kind : FabKind) (a n : Nat) (data : List Byte) (cst : Nat) (mask : Option Nat := none) :
    State × Nat :=
  let id := s.memc.nextId
  let q : FabReq := { id := id, ini := ini, kind := kind, addr := a, len := n, data := data, cst := cst,
                      cls := iniClass (s.iniHigh ini) ini, here := false, mask := mask, st := .waiting }
  ({ s with memc := { s.memc with reqs := s.memc.reqs ++ [q], nextId := id + 1 } }, id)

/-- The request of a number. -/
def State.req? (s : State) (id : Nat) : Option FabReq := s.memc.reqs.find? (fun r => decide (r.id = id))

/-- How far a request has come. -/
def State.reqSt? (s : State) (id : Nat) : Option FabSt := (s.req? id).map (fun r => r.st)

/-- Change a request. -/
def State.setReqSt (s : State) (id : Nat) (st : FabSt) : State :=
  { s with memc := { s.memc with reqs := s.memc.reqs.map (fun r => if r.id = id then { r with st := st } else r) } }

/-- A beat of a request has been made: a load has `bs` more, a store `n` bytes fewer to write. The request asks for its next beat, or is
answered (R305). -/
def State.gathered (s : State) (id n : Nat) (bs : List Byte) : State :=
  { s with memc := { s.memc with reqs := s.memc.reqs.map (fun r =>
      if r.id ≠ id then r
      else if r.kind = .store then
        (if n < r.len then { r with addr := r.addr + n, len := r.len - n, data := r.data.drop n, here := false, st := .waiting }
         else { r with st := .done [] })
      else if (r.data ++ bs).length < r.len then { r with data := r.data ++ bs, here := false, st := .waiting }
      else { r with data := [], st := .done (r.data ++ bs) }) } }

/-- Forget a request. -/
def State.dropReq (s : State) (id : Nat) : State :=
  { s with memc := { s.memc with reqs := s.memc.reqs.filter (fun r => decide (r.id ≠ id)) } }

/-- Is the request still to be served? -/
def FabSt.open_ : FabSt → Bool
  | .waiting => true
  | .lifted => true
  | .remote => true
  | _ => false

/-- The address of a request's next beat. -/
def FabReq.beatAddr (q : FabReq) : Nat := if q.kind = .store then q.addr else q.addr + q.data.length

/-- Has the initiator of a request an older one open to the same 8-byte word (R312)? -/
def State.olderOpen (s : State) (q : FabReq) : Bool :=
  let lo := s.plain q.addr
  s.memc.reqs.any (fun x => decide (x.id < q.id) && decide (x.ini = q.ini) && x.st.open_ &&
    (let y := s.plain x.addr
     decide (y / 8 ≤ (lo + (q.len - 1)) / 8) && decide (lo / 8 ≤ (y + (x.len - 1)) / 8)))

/-! ## Arbitration (R299, R307 to R309) -/

/-- The bank that arbitrates an access (R296, R303): Reservoir banks 0 to 31, 16 banks per cluster from 32, 7 banks per slot from 288. -/
def arbBank (r : Region) (a : Nat) : Option Nat :=
  match r with
  | .data k => some (288 + 7 * k + (a - localBase k) / 0x8000)
  | .itcm k => some (288 + 7 * k + 6)
  | .ddr => some 1296
  | _ => bankOf r a

/-- The bank of an address in the device's own map. -/
def State.arbAt (s : State) (a : Nat) : Option Nat :=
  match s.decodeAddr a with
  | .mem r b => arbBank r b
  | .mirror _ r b => arbBank r b
  | _ => none

/-- The number of an initiator among the requesters of a bank; the write-backs of a bank are one more. -/
def Initiator.code : Initiator → Nat
  | .core k t => 4 * k.val + t.val
  | .ferry n => 576 + n.val
  | .route => 640
  | .breakwater => 641
  | .scrubber => 642
  | .remote m => 643 + m.val
  | .host => 651
  | .debug => 652
  | .loader => 653
  | .controlPort => 654

/-- The number of the write-backs of a bank among its requesters. -/
def wbCode : Nat := 655

/-- How far a requester stands from the one that a bank favours next in a class (round-robin; the order of requesters is DESIGN CHOICE,
log entry 28). -/
def State.turnOf (s : State) (b c code : Nat) : Nat := (code + 656 - smGet (fun _ => 0) s.memc.turn (5 * b + c)) % 656

/-- A bank has served a requester of a class: the next one is favoured. -/
def State.served (s : State) (b c code : Nat) : State :=
  { s with memc := { s.memc with turn := smSet (fun _ => 0) s.memc.turn (5 * b + c) ((code + 1) % 656) } }

/-- Does a request wait in the queue of bank b? One that an older access of its initiator to the same word holds back does not (R312). -/
def State.queued (s : State) (b : Nat) (q : FabReq) : Bool :=
  (decide (q.st = .waiting) || decide (q.st = .lifted)) && q.here && decide (s.arbAt q.beatAddr = some b) && !s.olderOpen q

/-- The head of the queue of class c at bank b: of the requester whose turn it is, the oldest request. With `lift`, among lifted
requests. -/
def State.headOf (s : State) (b c : Nat) (lift : Bool) : Option FabReq :=
  (s.memc.reqs.filter (fun q => decide (q.cls = c) && s.queued b q && (!lift || decide (q.st = .lifted)))).foldl
    (fun m q => match m with
      | none => some q
      | some x => if s.turnOf b c (Initiator.code q.ini) < s.turnOf b c (Initiator.code x.ini) then some q else some x) none

/-- Does a write-back of the class wait at bank b (R321, Table 07-4)? On a local bank it takes an idle CCLK and no turn. -/
def State.wbWaits (s : State) (b : Nat) (bw : Bool) : Bool :=
  decide (b < 288) && s.memc.wb.any (fun w => decide (w.2 = bw) && decide (bankAt w.1 = some b))

/-- The request that bank b grants next (R299, R307): none where a write-back comes first. A local bank lifts no request. `quota`: class 0
is held back (R309). -/
def State.choice (s : State) (b : Nat) (quota : Bool) : Option FabReq :=
  if !quota && s.wbWaits b true then none
  else
    let zero := if quota then none else s.headOf b 0 false
    let lifted := if b < 288 then [2, 3, 4].findSome? (fun c => s.headOf b c true) else none
    let low := [1, 2, 3].findSome? (fun c => s.headOf b c false)
    let last := match s.headOf b 4 false with
      | some q => if s.wbWaits b false && decide (s.turnOf b 4 wbCode < s.turnOf b 4 (Initiator.code q.ini)) then none else some q
      | none => none
    zero.orElse (fun _ => lifted.orElse (fun _ => low.orElse (fun _ => last)))

/-- Does bank b grant a class 4 requester beside the queue now, a write-back or the scrubber (R299, R307)? After `wait` FCLK at the head of
its class it is lifted (R308). -/
def State.fourTurn (s : State) (b code wait : Nat) : Bool :=
  let lifted := decide (b < 288) && decide (56 ≤ wait)
  let ahead := fun (q : Option FabReq) => match q with
    | some q => decide (s.turnOf b 4 code < s.turnOf b 4 (Initiator.code q.ini))
    | none => true
  (s.headOf b 0 false).isNone && (decide (code = wbCode) || !s.wbWaits b true) &&
  (if lifted then (s.headOf b 2 true).isNone && (s.headOf b 3 true).isNone && ahead (s.headOf b 4 true)
   else [1, 2, 3].all (fun c => (s.headOf b c false).isNone) && (s.headOf b 4 true).isNone && ahead (s.headOf b 4 false) &&
    (decide (code = wbCode) || !s.wbWaits b false || decide (s.turnOf b 4 code < s.turnOf b 4 wbCode)))

/-- May bank b make a waiting write-back of class 0 or 4 now (R307)? -/
def State.wbTurn (s : State) (b : Nat) (bw : Bool) (wait : Nat) : Bool := bw || s.fourTurn b wbCode wait

/-- Requests reach bank b (R721): all that wait for it but those still on their way. -/
def State.arrive (s : State) (b : Nat) (late : List Nat) : State :=
  { s with memc := { s.memc with reqs := s.memc.reqs.map (fun q =>
      if !late.contains q.id && decide (s.arbAt q.beatAddr = some b) then { q with here := true } else q) } }

end Sys2Proof.Machine
end

