-- ==== Sys2Proof/Machine/Ferry.lean ====
section
/-! DEFINITION. Ferry DMA channels (spec/08_ferry.md): program fetch, instructions, beats, states and commands. A read or
write beat is a fabric request; the bank's grant is FABRIC_ACCESS. -/

namespace Sys2Proof.Machine

/-- Channel n. -/
def State.fry (s : State) (n : Nat) : Ferry := smGet (fun _ => Ferry.reset) s.ferry n

/-- Replace channel n. -/
def State.setFry (s : State) (n : Nat) (c : Ferry) : State := { s with ferry := smSet (fun _ => Ferry.reset) s.ferry n c }

/-- Change channel n. -/
def State.onFry (s : State) (n : Nat) (f : Ferry → Ferry) : State := s.setFry n (f (s.fry n))

/-- The code of a state (Table 08-5). -/
def FrySt.code : FrySt → Nat
  | .idle => 0 | .run => 1 | .wait => 2 | .parked => 3 | .pausing => 4 | .paused => 5 | .stopping => 6 | .stopped => 7
  | .completed => 8 | .error => 9 | .aborted => 10

/-- Is a beat outstanding (FRYn_STAT.busy)? -/
def Ferry.busy (c : Ferry) : Bool := !c.reads.isEmpty || !c.writes.isEmpty

/-- Tags in use (R337): a read beat and a write beat hold one each, and so does a program fetch (R342). -/
def Ferry.tagsUsed (c : Ferry) : Nat := c.reads.length + c.writes.length + b2n c.fetch.isSome

/-- Set flags of FRYn_STAT. -/
def fryFlag (n : Nat) (m : Word) (s : State) : State := s.orReg (aFryStat n) m

/-- Put a 44-bit address into a pair of registers. -/
def setPair (lo hi : Nat) (v : Nat) (s : State) : State :=
  (s.setReg lo (BitVec.ofNat 32 v)).setReg hi (BitVec.ofNat 32 (v / 2 ^ 32 % 2 ^ 12))

/-- A 44-bit value from a pair of registers. -/
def State.pair (s : State) (lo hi : Nat) : Nat := (s.reg lo).toNat + fld (s.reg hi) 0 12 * 2 ^ 32

/-- An address that reaches nothing (Table 07-1), for a beat to a logical index without a slot. -/
def nowhere : Nat := 0xC000000000

/-- The address that an initiator outside the cores reaches (R20, R339): the local memory of slot c.i, i < 8, is that of the
slot which holds logical index i of cluster c now. -/
def State.routeAddr (s : State) (a : Nat) : Nat :=
  let slot := match s.decodeAddr a with
    | .mem r _ => r.slot?
    | .mirror _ r _ => r.slot?
    | _ => none
  match slot with
  | some k => if k % 9 = 8 then a else retarget k
  | none => a
where
  /-- The same offset of the slot that holds the logical index. -/
  retarget (k : Nat) : Nat :=
    match s.slotOf (8 * (k / 9) + k % 9) with
    | some k' => a - localBase k + localBase k'
    | none => nowhere

/-- Does window j of channel n permit n bytes at a (R340)? -/
def State.fryWin (s : State) (n j a len : Nat) (write : Bool) : Bool :=
  let lo := s.reg (aFryWin n j)
  let hi := s.reg (aFryWinHi n j)
  let base := lo.toNat / 8 * 8 + fld hi 0 12 * 2 ^ 32
  bit hi 16 && bit hi (if write then 18 else 17) && decide (base ≤ a) &&
  decide (a + len ≤ base + (s.reg (aFryWinLim n j)).toNat + 1)

/-- May channel n access n bytes at a (R340)? -/
def State.fryMay (s : State) (n a len : Nat) (write : Bool) : Bool :=
  !bit (s.reg (aFryCfg n)) 0 || (List.range 4).any (fun j => s.fryWin n j a len write)

/-! ## Errors and ends -/

/-- The channel enters ERROR (R368, R369). -/
def fryError (n code addr : Nat) (s : State) : State :=
  let c := s.fry n
  if c.st = .error then s
  else
    let c' := { c with st := .error, reads := c.reads.map (fun r => { r with live := false }), hold := [], fold := none
                       cur := none, wait := .none, released := false, begun := false, snoop := none, fetch := none }
    fryFlag n 0x1000 (setPair (aFryErrPc n) (aFryErrPcHi n) c.pc (setPair (aFryErrAddr n) (aFryErrAddrHi n) addr
      ((s.setFry n c').setReg (aFryErr n) (BitVec.ofNat 32 code))))

/-- COMPLETED is entered, or the error that END finds as FENCE with h = 1 does (R345, R357). -/
def fryComplete (n : Nat) (s : State) : State :=
  let c := s.fry n
  if c.wfRec then
    fryError n 4 (s.pair (aFryErrAddr n) (aFryErrAddrHi n)) (s.setFry n { c with wfRec := false })
  else fryFlag n 0x400 (s.setFry n { c with st := .completed, begun := false })

/-- The element progress of a move, or of none, in FRYn_SRC, FRYn_DST, FRYn_REM and FRYn_ROWS. -/
def elemAddr (base : Nat) (cols k : Nat) (es rs : Int) : Nat :=
  ((base + (k / cols : Nat) * rs + (k % cols : Nat) * es) % (2 ^ 44 : Int)).toNat

/-- Bytes of a width code (Table 08-3). -/
def fryW (c : Nat) : Nat := c + 1

/-- Source address of element k. -/
def FryMove.srcAt (m : FryMove) (k : Nat) : Nat := elemAddr m.src m.cols k m.ses m.srs

/-- Destination address of element k. -/
def FryMove.dstAt (m : FryMove) (k : Nat) : Nat := elemAddr m.dst m.cols k m.des m.drs

/-- Show a move's progress in the channel's registers. -/
def fryShow (n : Nat) (m : FryMove) (s : State) : State :=
  let left := m.total - m.wr
  let s1 := setPair (aFrySrc n) (aFrySrcHi n) (m.srcAt m.wr) (setPair (aFryDst n) (aFryDstHi n) (m.dstAt m.wr) s)
  (s1.setReg (aFryRem n) (BitVec.ofNat 32 (if left = 0 then 0 else min left (m.cols - m.wr % m.cols)))).setReg (aFryRows n)
    (BitVec.ofNat 32 (if m.words = 4 then (left + m.cols - 1) / m.cols % 65536 else 0))

/-! ## Program fetch -/

/-- May a program block be fetched from a (R341)? It lies in the Reservoir or in a cluster shared memory. -/
def State.fryProgOk (s : State) (a : Nat) : Bool :=
  match s.decodeAddr a with
  | .mem .reservoir _ => true
  | .mem (.shared _) _ => true
  | _ => false

/-- Issue the fetch of a block that is not held, if none is outstanding. `needed` says that the channel needs it now: a
failing check is then an error, otherwise it is recorded (R342). With all tags in use the fetch waits (R27). -/
def fryFetch (n a : Nat) (needed : Bool) (s : State) : State :=
  let c := s.fry n
  let b := a / 32 * 32
  if c.blocks.any (fun k => decide (k.addr = b)) || c.fetch.isSome then s
  else if needed ∧ a % 8 ≠ 0 then fryError n 2 a s
  else if !s.fryProgOk b then
    (if needed then fryError n 2 b s else s.setFry n { c with ahead := some (2, b) })
  else if !s.fryMay n b 32 false then
    (if needed then fryError n 5 b s else s.setFry n { c with ahead := some (5, b) })
  else if 64 ≤ c.tagsUsed then s
  else
    let r := s.request (.ferry (Fin.ofNat 64 n)) .fetch b 32 [] 0
    r.1.onFry n (fun c => { c with fetch := some { id := r.2, addr := b, touched := false } })

/-- Make the channel want its program at pc: held blocks but the one executing and the one after go (R342), and a recorded
failed fetch ahead that is needed now is the error. With the block at pc held, the block after it is fetched ahead. -/
def fryWant (n : Nat) (s : State) : State :=
  let c := s.fry n
  let b := c.pc / 32 * 32
  let keep := c.blocks.filter (fun k => decide (k.addr = b) || decide (k.addr = b + 32))
  let rec_ := c.ahead.filter (fun e => decide (e.2 = b) || decide (e.2 = b + 32))
  let s1 := s.setFry n { c with blocks := keep, ahead := rec_ }
  if keep.any (fun k => decide (k.addr = b)) then (if rec_.isNone then fryFetch n (b + 32) false s1 else s1)
  else match rec_ with
    | some (code, a) => if a = b then fryError n code a s1 else fryFetch n c.pc true s1
    | none => fryFetch n c.pc true s1

/-- Discard every held program word (R342, R366). -/
def Ferry.discard (c : Ferry) : Ferry := { c with blocks := [], fetch := none, ahead := none }

/-- The instruction word at an address, if it is held. -/
def Ferry.word? (c : Ferry) (a : Nat) : Option Nat :=
  (c.blocks.find? (fun k => decide (k.addr = a / 32 * 32))).map (fun k => leNat ((k.data.drop (a % 32)).take 8))

/-! ## Instructions -/

/-- A decoded Ferry instruction (Tables 08-1 and 08-2). -/
inductive FInstr where
  | nop
  | move (m : FryMove)
  | loop (count : Nat)
  | endl
  | waitCmp (n : Nat)
  | waitEvt (g level : Nat)
  | waitFlag (f : Nat) (take : Bool)
  | sigInt
  | sigFlag (f : Nat) (set : Bool)
  | fence (h : Bool)
  | crcInit (mode : Nat) (seed : Word)
  | crcFold (addr count : Nat)
  | crcStore (inv : Bool) (addr : Nat)
  | park (addr : Nat)
  | jump (target : Nat)
  | endProg
  | illegal (word : Nat)
  deriving DecidableEq, Repr

/-- A field of a 64-bit word. -/
def nfld (v lo w : Nat) : Nat := v / 2 ^ lo % 2 ^ w

/-- A signed field of a 64-bit word. -/
def nsfld (v lo w : Nat) : Int := let x := nfld v lo w; if x.testBit (w - 1) then (x : Int) - 2 ^ w else x

/-- How many words an instruction has, by its first word (Table 08-1). -/
def fryWords (w0 : Nat) : Nat :=
  let op := nfld w0 60 4
  if op = 1 then 3 else if op = 2 then 4 else if op = 8 ∧ nfld w0 58 2 = 1 then 2 else 1

/-- Are bits [60 - 1: 0] of a first word zero outside the given fields (lo, width)? -/
def onlyFields (w : Nat) (fs : List (Nat × Nat)) : Bool :=
  decide (w % 2 ^ 60 = fs.foldl (fun a f => a + nfld w f.1 f.2 * 2 ^ f.1) 0)

/-- The move of a MOVE or MOVX. -/
def moveOf (w0 w1 w2 w3 : Nat) : FryMove :=
  let x := decide (nfld w0 60 4 = 2)
  let sw := nfld w0 58 2
  let dw := nfld w0 56 2
  let cols := if x then nfld w0 0 16 else nfld w0 0 32
  { sw := sw, dw := dw, just := w0.testBit 55, sx := w0.testBit 54, ck := w0.testBit 53, hf := w0.testBit 52
    src := w1 % 2 ^ 44, dst := w2 % 2 ^ 44
    ses := if x then nsfld w3 52 12 else if w0.testBit 51 then 0 else fryW sw
    des := if x then nsfld w3 40 12 else if w0.testBit 50 then 0 else fryW dw
    srs := if x then nsfld w3 20 20 else 0
    drs := if x then nsfld w3 0 20 else 0
    cols := max 1 cols
    total := if x then nfld w0 16 16 * cols else cols
    words := if x then 4 else 3
    rd := 0, rdOff := 0, wr := 0, wrOff := 0, tag := 0 }

/-- Decode an instruction; `illegal i` names the word that makes it so (R343). -/
def fryDecode (w0 w1 w2 w3 : Nat) : FInstr :=
  match nfld w0 60 4 with
  | 0x0 => if onlyFields w0 [] then .nop else .illegal 0
  | 0x1 =>
    if !onlyFields w0 [(58, 2), (56, 2), (55, 1), (54, 1), (53, 1), (52, 1), (51, 1), (50, 1), (0, 32)] then .illegal 0
    else if 2 ^ 44 ≤ w1 then .illegal 1
    else if 2 ^ 44 ≤ w2 then .illegal 2
    else .move (moveOf w0 w1 w2 w3)
  | 0x2 =>
    if !onlyFields w0 [(58, 2), (56, 2), (55, 1), (54, 1), (53, 1), (52, 1), (16, 16), (0, 16)] then .illegal 0
    else if 2 ^ 44 ≤ w1 then .illegal 1
    else if 2 ^ 44 ≤ w2 then .illegal 2
    else .move (moveOf w0 w1 w2 w3)
  | 0x3 => if onlyFields w0 [(0, 32)] then .loop (nfld w0 0 32) else .illegal 0
  | 0x4 => if onlyFields w0 [] then .endl else .illegal 0
  | 0x5 =>
    match nfld w0 56 4 with
    | 0 => if onlyFields w0 [(0, 8)] then .waitCmp (nfld w0 0 8) else .illegal 0
    | 1 =>
      let l := nfld w0 16 11
      if onlyFields w0 [(56, 4), (0, 4), (16, 11)] && decide (1 ≤ l) && decide (l ≤ 1024) then .waitEvt (nfld w0 0 4) l
      else .illegal 0
    | 2 => if onlyFields w0 [(56, 4), (0, 6), (8, 1)] then .waitFlag (nfld w0 0 6) (w0.testBit 8) else .illegal 0
    | _ => .illegal 0
  | 0x6 =>
    match nfld w0 56 4 with
    | 0 => if onlyFields w0 [] then .sigInt else .illegal 0
    | 1 => if onlyFields w0 [(56, 4), (0, 6)] then .sigFlag (nfld w0 0 6) true else .illegal 0
    | 2 => if onlyFields w0 [(56, 4), (0, 6)] then .sigFlag (nfld w0 0 6) false else .illegal 0
    | _ => .illegal 0
  | 0x7 => if onlyFields w0 [(0, 1)] then .fence (w0.testBit 0) else .illegal 0
  | 0x8 =>
    match nfld w0 58 2 with
    | 0 =>
      if onlyFields w0 [(56, 2), (0, 32)] && decide (nfld w0 56 2 ≤ 2) then
        .crcInit (nfld w0 56 2) (BitVec.ofNat 32 w0) else .illegal 0
    | 1 =>
      if !onlyFields w0 [(58, 2), (0, 32)] then .illegal 0
      else if 2 ^ 44 ≤ w1 then .illegal 1
      else .crcFold w1 (nfld w0 0 32)
    | 2 => if onlyFields w0 [(58, 2), (55, 1), (0, 44)] then .crcStore (w0.testBit 55) (nfld w0 0 44) else .illegal 0
    | _ => .illegal 0
  | 0x9 => if onlyFields w0 [(0, 44)] then .park (nfld w0 0 44) else .illegal 0
  | 0xA => if onlyFields w0 [(0, 44)] then .jump (nfld w0 0 44) else .illegal 0
  | 0xB => if onlyFields w0 [] then .endProg else .illegal 0
  | _ => .illegal 0

/-- The instruction at pc, if all its words are held, or if one that is held is illegal, which comes before an error of a word after it
(R343, R368); otherwise the address of the first word that is not held. -/
def Ferry.instr (c : Ferry) : Option FInstr × Nat :=
  match c.word? c.pc with
  | none => (none, c.pc)
  | some w0 =>
    let w := fun (i : Nat) => if i < fryWords w0 then c.word? (c.pc + 8 * i) else some 0
    let i := fryDecode w0 ((w 1).getD 0) ((w 2).getD 0) ((w 3).getD 0)
    match (List.range 4).find? (fun j => (w j).isNone) with
    | none => (some i, c.pc)
    | some j =>
      match i with
      | .illegal k => (some (.illegal k), c.pc)
      | _ => (none, c.pc + 8 * j)

/-! ## States -/

/-- After something has finished: PAUSING becomes PAUSED when no beat is outstanding (R359), STOPPING becomes STOPPED when the
instruction and its writes are done (R361). -/
def frySettle (n : Nat) (s : State) : State :=
  let c := s.fry n
  if c.st = .pausing ∧ c.busy = false then fryFlag n 0x8000 (s.setFry n { c with st := .paused })
  else if c.st = .stopping ∧ c.busy = false ∧ c.cur = none ∧ c.fold = none ∧ c.begun = false then
    fryFlag n 0x10000 (s.setFry n { c with st := .stopped })
  else s

/-- The instruction of k words at pc is done: the channel goes on to the next. -/
def fryNext (n k : Nat) (s : State) : State :=
  let s1 := s.onFry n (fun c => { c with pc := c.pc + 8 * k, cur := none, fold := none, begun := false })
  frySettle n (if (s1.fry n).st = .run then fryWant n s1 else s1)

/-- The channel moves to another place of its program. -/
def fryGoto (n a : Nat) (discard : Bool) (s : State) : State :=
  let s1 := s.onFry n (fun c => let c1 := { c with pc := a, begun := false }; if discard then c1.discard else c1)
  frySettle n (if (s1.fry n).st = .run then fryWant n s1 else s1)

/-- half and full (R350) for the moves with hf = 1 of the channel. -/
def fryHalfFull (n : Nat) (s : State) : State :=
  let c := s.fry n
  let doneTo := fun (h : FryHf) (k : Nat) =>
    decide (k ≤ h.issued) && c.writes.all (fun w => decide (w.tag ≠ h.tag) || decide (k ≤ w.elem))
  let half := c.hfs.any (fun h => !h.half && doneTo h ((h.total + 1) / 2))
  let full := c.hfs.any (fun h => doneTo h h.total)
  let hfs' := (c.hfs.filter (fun h => !doneTo h h.total)).map
    (fun h => { h with half := h.half || doneTo h ((h.total + 1) / 2) })
  let s1 := s.setFry n { c with hfs := hfs' }
  let s2 := if half then fryFlag n 0x100 s1 else s1
  if full then fryFlag n 0x200 s2 else s2

/-! ## Moving -/

/-- convert of R347, on values of ws and wd bits. -/
def fryConvert (v ws wd : Nat) (just sx : Bool) : Nat :=
  if !just then (if ws ≤ wd then v * 2 ^ (wd - ws) else v / 2 ^ (ws - wd))
  else if ws ≤ wd then
    (if sx && v.testBit (ws - 1) then v + (2 ^ wd - 2 ^ ws) else v)
  else v % 2 ^ wd

/-- Fold a byte into a check value (Table 08-4). -/
def fryFold (mode : Nat) (c : Word) (b : Byte) : Word :=
  let mode := legal 6 3 mode
  if mode = 0 then crcBits 0xEDB88320 true 8 (c ^^^ b.zeroExtend 32)
  else if mode = 1 then crcBits 0x82F63B78 true 8 (c ^^^ b.zeroExtend 32)
  else c + b.zeroExtend 32

/-- Fold bytes into FRYn_CHK (R351). -/
def fryFoldBytes (n : Nat) (bs : List Byte) (s : State) : State :=
  s.setReg (aFryChk n) (bs.foldl (fryFold (fld (s.reg (aFryChkcfg n)) 0 2)) (s.reg (aFryChk n)))

/-- Does an address lie in the device-register region or in an alias window (Table 07-1), of this member or of the member that it names
(R36)? -/
def specialAddr (a : Nat) : Bool :=
  let b := a % 2 ^ 40
  (a.testBit 43 || decide (a / 2 ^ 40 % 8 = 0)) &&
  (decide (b / 2 ^ 38 = 1) || decide (b / 2 ^ 38 = 2) || decide (regionOf b = some .device))

/-- Does any byte of an element lie in the device-register region or in an alias window (R349)? -/
def frySpecial (a w : Nat) : Bool := (List.range w).any (fun i => specialAddr (a + i))

/-- Is an element's address one that R348 or R349 refuses? -/
def fryBadElem (a wc : Nat) : Bool :=
  (decide (wc = 1) && decide (a % 2 ≠ 0)) || (decide (wc = 3) && decide (a % 4 ≠ 0)) ||
  (decide (wc ≠ 3) && frySpecial a (fryW wc))

/-- Does the element lie in one aligned 32-byte block? -/
def inBlock (a w : Nat) : Bool := decide (a / 32 = (a + w - 1) / 32)

/-- How many elements, from element k and at most `limit`, form one beat on the side with addresses `at_` and width w
(R338): they are contiguous, lie in one aligned 32-byte block, and satisfy `ok`. -/
def runLength (at_ : Nat → Nat) (w : Nat) (ok : Nat → Bool) : Nat → Nat → Nat
  | _, 0 => 0
  | k, limit + 1 =>
    if ok (k + 1) && decide (at_ (k + 1) = at_ k + w) && decide (at_ (k + 1) / 32 = at_ k / 32) && inBlock (at_ (k + 1)) w
    then 1 + runLength at_ w ok (k + 1) limit
    else 1

/-- Issue a write beat of the channel's move. -/
def fryWrite (n a : Nat) (bs : List Byte) (tag elem : Nat) (s : State) : State :=
  let r := s.request (.ferry (Fin.ofNat 64 n)) .store (s.routeAddr a) bs.length bs 0
  r.1.onFry n (fun c => { c with writes := c.writes ++ [{ id := r.2, addr := a, n := bs.length, tag := tag, elem := elem }] })

/-- Is element k of a move one that R348 or R349 refuses, on either side? -/
def FryMove.bad (m : FryMove) (k : Nat) : Bool := fryBadElem (m.srcAt k) m.sw || fryBadElem (m.dstAt k) m.dw

/-- How many elements the next write beat of a move combines (R338): as many as lie together on the destination side and the holding
register can hold; one beat waits for all of them, but a pausing channel writes what it has read (R359). 0: nothing to write yet. -/
def State.fryWriteRun (s : State) (n : Nat) (m : FryMove) : Nat :=
  let c := s.fry n
  let sb := fryW m.sw
  let db := fryW m.dw
  let have_ := c.hold.length / sb
  let a := m.dstAt m.wr
  let run := if frySpecial a db || !inBlock a db then 1
    else runLength m.dstAt db (fun j => !frySpecial (m.dstAt j) db && !m.bad j) m.wr (min (m.total - m.wr) (32 / sb))
  if run ≤ have_ then run
  else if c.st = .pausing && c.reads.isEmpty then have_ else 0

/-- Write one beat of the whole elements in the holding register, once it is complete and a tag is free. An element that lies in
two blocks is two beats (R305), the second from offset wrOff of the element on. Each beat must lie in a window (R340), and the running
check folds the bytes that it writes (R351). -/
def fryWriteBeat (n : Nat) (m : FryMove) (s : State) : State :=
  let c := s.fry n
  let sb := fryW m.sw
  let db := fryW m.dw
  let a := m.dstAt m.wr + m.wrOff
  let whole := inBlock (m.dstAt m.wr) db || frySpecial (m.dstAt m.wr) db
  let k := s.fryWriteRun n m
  let conv := fun (i : Nat) =>
    leBytes db (fryConvert (leNat ((c.hold.drop (i * sb)).take sb)) (8 * sb) (8 * db) m.just m.sx)
  let bs := ((List.range k).flatMap conv).drop m.wrOff
  let now := if whole ∨ m.wrOff ≠ 0 then bs else bs.take (32 - a % 32)
  if k = 0 ∨ 64 ≤ c.tagsUsed then s
  else if !s.fryMay n a now.length true then fryError n 5 a s
  else
    let s1 := fryWrite n a now m.tag m.wr (if m.ck then fryFoldBytes n now s else s)
    if now.length < bs.length then s1.onFry n (fun c => { c with cur := some { m with wrOff := now.length } })
    else
      let m' := { m with wr := m.wr + k, wrOff := 0 }
      fryShow n m' (s1.onFry n (fun c => { c with
        cur := some m', hold := c.hold.drop (k * sb)
        hfs := c.hfs.map (fun h => if h.tag = m.tag then { h with issued := m'.wr } else h) }))

/-- Write every whole element in the holding register, then finish the move once all its elements are written. -/
def fryPump (n : Nat) : Nat → State → State
  | 0, s => s
  | fuel + 1, s =>
    match (s.fry n).cur with
    | none => s
    | some m =>
      if m.total ≤ m.wr then fryNext n m.words s
      else
        let s1 := fryWriteBeat n m s
        match (s1.fry n).cur with
        | none => s1
        | some m' => if m'.wr = m.wr ∧ m'.wrOff = m.wrOff then s1 else fryPump n fuel s1

/-- Issue the next read beat of a move (R338, R346, R348, R349). -/
def fryReadBeat (n : Nat) (m : FryMove) (s : State) : State :=
  let c := s.fry n
  let sb := fryW m.sw
  let a := m.srcAt m.rd
  let pendingBytes := c.hold.length + (c.reads.map (fun r => r.n)).sum
  if m.total ≤ m.rd ∨ 64 ≤ c.tagsUsed then s
  else if m.rdOff = 0 ∧ m.bad m.rd = true then
    (if c.reads.isEmpty && c.hold.isEmpty then
      (if !s.fryMay n a (min sb (32 - a % 32)) false then fryError n 5 a s
       else fryError n 8 (if fryBadElem a m.sw then a else m.dstAt m.rd) s)
     else s)
  else
    let issue := fun (addr len : Nat) (m' : FryMove) =>
      if 32 < pendingBytes + len then s
      else if !s.fryMay n addr len false then fryError n 5 addr s
      else
        let r := s.request (.ferry (Fin.ofNat 64 n)) .load (s.routeAddr addr) len [] 0
        r.1.onFry n (fun c => { c with
          cur := some m', reads := c.reads ++ [{ id := r.2, n := len, addr := addr, live := true }] })
    if m.rdOff ≠ 0 then issue (a + m.rdOff) (sb - m.rdOff) { m with rd := m.rd + 1, rdOff := 0 }
    else if frySpecial a sb then issue a sb { m with rd := m.rd + 1 }
    else if !inBlock a sb then
      let first := 32 - a % 32
      issue a first { m with rdOff := first }
    else
      let room := (32 - pendingBytes) / sb
      let k := runLength m.srcAt sb (fun j => decide (j < m.total) && !m.bad j && !frySpecial (m.srcAt j) sb) m.rd
        (min room (m.total - m.rd))
      if k = 0 then s else issue a (k * sb) { m with rd := m.rd + k }

/-- Issue the next read beat of a CRC fold (R352). -/
def fryFoldBeat (n addr left toFold : Nat) (s : State) : State :=
  let c := s.fry n
  if left = 0 ∨ 64 ≤ c.tagsUsed then s
  else
    let len := min left (32 - addr % 32)
    if !s.fryMay n addr len false then fryError n 5 addr s
    else
      let r := s.request (.ferry (Fin.ofNat 64 n)) .load (s.routeAddr addr) len [] 0
      r.1.onFry n (fun c => { c with
        fold := some (addr + len, left - len, toFold)
        reads := c.reads ++ [{ id := r.2, n := len, addr := addr, live := true }] })

/-! ## Flags -/

/-- Ferry flag f. -/
def State.fryFlagOn (s : State) (f : Nat) : Bool :=
  if f < 32 then bit (s.reg aFrygFlag) f else bit (s.reg aFrygFlagHi) (f - 32)

/-- Write Ferry flag f. -/
def setFlagBit (f : Nat) (v : Bool) (s : State) : State :=
  if f < 32 then s.setRegFld aFrygFlag f 1 (b2n v) else s.setRegFld aFrygFlagHi (f - 32) 1 (b2n v)

/-- Is the channel held in a WAIT, pausing or paused ones included? -/
def Ferry.inWait (c : Ferry) : Bool :=
  c.st = .wait || ((c.st = .pausing || c.st = .paused) && c.back = .wait)

/-- Flag f is set: the waits on it release, the lowest-numbered taking one alone, which clears it (R354). -/
def flagSet (f : Nat) (s : State) : State :=
  let s1 := setFlagBit f true s
  let taker := s1.ferry.find? (fun e => e.2.inWait && !e.2.released && decide (e.2.wait = .flag f true))
  let s2 := { s1 with ferry := s1.ferry.map (fun e =>
      if e.2.inWait && (decide (e.2.wait = .flag f false) || decide (some e.1 = taker.map (·.1))) then
        (e.1, { e.2 with released := true }) else e) }
  if taker.isSome then setFlagBit f false s2 else s2

/-- Flag f is cleared. -/
def flagClr (f : Nat) (s : State) : State := setFlagBit f false s

/-- A WAIT on a compare or an event FIFO releases for every channel that waits on it (R353, R354). -/
def fryRelease (p : FryWait → Bool) (s : State) : State :=
  { s with ferry := s.ferry.map (fun e => if e.2.inWait && p e.2.wait then (e.1, { e.2 with released := true }) else e) }

/-- Enter WAIT; a condition that already holds releases at once. -/
def fryWaitOn (n : Nat) (w : FryWait) (now : Bool) (s : State) : State :=
  if now then fryNext n 1 s else s.onFry n (fun c => { c with st := .wait, wait := w, released := false })

/-- The wait ends: the channel goes on after the WAIT. -/
def fryWaitEnd (n : Nat) (s : State) : State :=
  fryNext n 1 (s.onFry n (fun c => { c with st := .run, wait := .none, released := false }))

/-- A wake from PARK (R366): held words go, and the block is fetched again. -/
def fryWake (n : Nat) (s : State) : State :=
  let s1 := s.onFry n (fun c => { c with st := .run, snoop := none, released := false })
  fryGoto n (s.fry n).pc true (s1.incSat (aFryWakes n))

/-! ## One instruction -/

/-- Execute the instruction at pc (Table 08-1). Instructions that wait for the channel's writes do so by leaving the channel
as it is, their wait begun. A WAIT on a compare releases at once when `fired` says so (R73), one on an event FIFO when
`level` entries are held, which `entries` counts. -/
def fryExec (n : Nat) (i : FInstr) (fired : Nat → Bool) (entries : Nat → Nat) (s : State) : State :=
  let c := s.fry n
  let drained := c.writes.isEmpty
  let begin_ := s.onFry n (fun c => { c with begun := true })
  match i with
  | .nop => fryNext n 1 s
  | .move m =>
    match c.cur with
    | some m' => fryReadBeat n m' s
    | none =>
      if m.total = 0 then fryNext n m.words s
      else
        let m1 := { m with tag := c.tags }
        let hf := if m.hf then [{ tag := c.tags, total := m.total, issued := 0, half := false }] else []
        fryReadBeat n m1 (fryShow n m1 (s.setFry n { c with cur := some m1, tags := c.tags + 1, hfs := c.hfs ++ hf }))
  | .loop k =>
    if k = 0 ∨ 2 ≤ c.loops.length then fryError n 6 c.pc s
    else fryNext n 1 (s.setFry n { c with loops := (c.pc + 8, k) :: c.loops })
  | .endl =>
    match c.loops with
    | [] => fryError n 6 c.pc s
    | (a, k) :: ls =>
      if k ≤ 1 then fryNext n 1 (s.setFry n { c with loops := ls })
      else fryGoto n a false (s.setFry n { c with loops := (a, k - 1) :: ls })
  | .waitCmp k => fryWaitOn n (.cmp k) (fired k) s
  | .waitEvt g l => fryWaitOn n (.evt g l) (decide (l ≤ entries g)) s
  | .waitFlag f take =>
    if s.fryFlagOn f then fryWaitOn n (.flag f take) true (if take then flagClr f s else s)
    else fryWaitOn n (.flag f take) false s
  | .sigInt => if drained then fryNext n 1 (fryFlag n 0x800 s) else begin_
  | .sigFlag f v => if drained then fryNext n 1 (if v then flagSet f s else flagClr f s) else begin_
  | .fence h =>
    if drained then
      let s1 := s.setFry n { c with wfRec := false }
      if h && c.wfRec then fryError n 4 (s.pair (aFryErrAddr n) (aFryErrAddrHi n)) s1 else fryNext n 1 s1
    else begin_
  | .crcInit mode seed =>
    fryNext n 1 ((s.setReg (aFryChkcfg n) (BitVec.ofNat 32 mode)).setReg (aFryChk n) seed)
  | .crcFold a k =>
    match c.fold with
    | some (a', left, f) => fryFoldBeat n a' left f s
    | none => if k = 0 then fryNext n 2 s else fryFoldBeat n a k k (s.setFry n { c with fold := some (a, k, k) })
  | .crcStore inv a =>
    if !drained then begin_
    else if !s.fryMay n a 4 true then fryError n 5 a s
    else if a % 4 ≠ 0 then fryError n 8 a s
    else if 64 ≤ c.tagsUsed then begin_
    else
      let v := s.reg (aFryChk n)
      fryNext n 1 (fryWrite n a (leBytes 4 (if inv then ~~~v else v).toNat) c.tags 0 (s.setFry n { c with tags := c.tags + 1 }))
  | .park a =>
    if a ≠ c.pc ∨ s.fryProgOk a = false then fryError n 7 c.pc s
    else
      let touched := c.blocks.any (fun k => decide (k.addr = a / 32 * 32) && k.touched)
      s.setFry n { c with st := .parked, snoop := bankAt (s.plain a), released := touched }
  | .jump t => fryGoto n t true s
  | .endProg =>
    if drained then fryComplete n s else begin_
  | .illegal k => fryError n 1 (c.pc + 8 * k) s

/-- Let a channel in RUN or STOPPING execute the instruction at pc when it is one that `want` accepts; an illegal one raises
its error. A word not held is fetched first. FCLK must run (R634). -/
def fryStep (n : Nat) (want : FInstr → Bool) (fired : Nat → Bool) (entries : Nat → Nat) (s : State) : State :=
  let c := s.fry n
  if s.fclkRuns = true ∧ (c.st = .run ∨ c.st = .stopping ∧ (c.cur.isSome = true ∨ c.fold.isSome = true ∨ c.begun = true)) then
    match c.instr with
    | (none, a) => (match c.ahead with
        | some (code, b) => if b = a / 32 * 32 then fryError n code b s else fryFetch n a true s
        | none => fryFetch n a true s)
    | (some (.illegal k), _) => fryExec n (.illegal k) fired entries s
    | (some i, _) => if want i then frySettle n (fryExec n i fired entries s) else s
  else s

/-! ## Beats that return -/

/-- A program block arrives, or its fetch faults (R342). -/
def fryFetched (n : Nat) (s : State) : State :=
  let c := s.fry n
  match c.fetch with
  | none => s
  | some f =>
    match s.reqSt? f.id with
    | some (.done d) =>
      let s1 := (s.dropReq f.id).setFry n { c with
        fetch := none, blocks := c.blocks ++ [{ addr := f.addr, data := d, touched := f.touched }] }
      if c.st = .run ∨ c.st = .wait then fryWant n s1 else s1
    | some (.failed _) =>
      let s1 := (s.dropReq f.id).setFry n { c with fetch := none }
      if c.st ≠ .run ∧ c.st ≠ .wait ∧ c.st ≠ .stopping ∧ c.st ≠ .pausing ∧ c.st ≠ .paused then s1
      else if f.addr = c.pc / 32 * 32 then fryError n 2 f.addr s1
      else if f.addr = c.pc / 32 * 32 + 32 then s1.onFry n (fun c => { c with ahead := some (2, f.addr) })
      else if c.st = .run then fryWant n s1 else s1
    | _ => s

/-- Read data or a read fault arrives (R358). Data are taken in the order in which the channel issued its reads; a fault at once. -/
def fryReadData (n : Nat) (id : Nat) (s : State) : State :=
  let c := s.fry n
  match c.reads.find? (fun r => decide (r.id = id)) with
  | none => s
  | some r =>
      let s1 := (s.dropReq id).setFry n { c with reads := c.reads.filter (fun x => decide (x.id ≠ id)) }
      match s.reqSt? id with
      | some (.done d) =>
        if !r.live then frySettle n s1
        else if c.reads.head? ≠ some r then s
        else
          match c.fold with
          | some (a, left, f) =>
            let s2 := fryFoldBytes n d (s1.onFry n (fun c => { c with fold := some (a, left, f - d.length) }))
            if f ≤ d.length then fryNext n 2 s2 else frySettle n s2
          | none => frySettle n (fryPump n 34 (s1.onFry n (fun c => { c with hold := c.hold ++ d })))
      | some (.failed _) => if !r.live then frySettle n s1 else fryError n 3 r.addr s1
      | _ => s

/-- A write beat is acknowledged or faults (R350, R357, R358). -/
def fryWriteAck (n : Nat) (id : Nat) (s : State) : State :=
  let c := s.fry n
  match c.writes.find? (fun w => decide (w.id = id)) with
  | none => s
  | some w =>
    let s1 := (s.dropReq id).setFry n { c with writes := c.writes.filter (fun x => decide (x.id ≠ id)) }
    let fin := fun (s : State) =>
      let s2 := fryHalfFull n s
      let c2 := s2.fry n
      let s3 := if c2.cur.isSome && (c2.st = .run || c2.st = .stopping || c2.st = .pausing) then fryPump n 34 s2 else s2
      let c3 := s3.fry n
      if c3.begun ∧ c3.writes.isEmpty ∧ c3.instr.1 = some .endProg ∧ (c3.st = .run ∨ c3.st = .stopping) then fryComplete n s3
      else frySettle n s3
    match s.reqSt? id with
    | some (.done _) =>
      let v := (s1.reg (aFryMoved n)).toNat + w.n
      fin (s1.setReg (aFryMoved n) (BitVec.ofNat 32 (min v 0xFFFFFFFF)))
    | some (.failed _) =>
      let s2 := fryFlag n 0x4000 s1
      let s3 := if c.wfSeen ∨ s.reg (aFryErr n) ≠ 0 then s2 else setPair (aFryErrAddr n) (aFryErrAddrHi n) w.addr s2
      fin (s3.onFry n (fun c => { c with wfRec := true, wfSeen := true }))
    | _ => s

/-! ## Commands (Table 08-6) -/

/-- A refused command (R724, R373). -/
def fryRefuse (n : Nat) (s : State) : State := fryFlag n 0x20000 s

/-- Does the channel stand in a halted state with no beat outstanding? -/
def Ferry.halted (c : Ferry) : Bool :=
  !c.busy && (c.st = .idle || c.st = .stopped || c.st = .completed || c.st = .error || c.st = .aborted)

/-- START. -/
def fryStart (n : Nat) (s : State) : State :=
  let c := s.fry n
  if c.halted then
    let c' := { Ferry.reset with st := .run, pc := c.pc / 8 * 8, tags := c.tags }
    let s1 := ((s.setFry n c').setReg (aFryErr n) 0).setReg (aFryAbt n) 0
    fryWant n s1
  else fryRefuse n s

/-- Has END begun its wait (R364)? -/
def Ferry.ending (c : Ferry) : Bool := c.begun && decide (c.instr.1 = some .endProg)

/-- PAUSE (R359). -/
def fryPause (n : Nat) (s : State) : State :=
  let c := s.fry n
  if (c.st = .run ∨ c.st = .wait ∨ c.st = .parked ∨ c.st = .stopping) ∧ c.ending = false then
    frySettle n (fryPump n 34 (s.setFry n { c with st := .pausing, back := c.st }))
  else fryRefuse n s

/-- Apply what a channel that has just resumed finds: a recorded release or wake. -/
def fryApply (n : Nat) (s : State) : State :=
  let c := s.fry n
  if c.released ∧ c.st = .wait then fryWaitEnd n s
  else if c.released ∧ c.st = .parked then fryWake n s
  else if c.st = .run then fryPump n 34 (fryWant n s)
  else frySettle n (fryPump n 34 s)

/-- RESUME (R360). -/
def fryResume (n : Nat) (s : State) : State :=
  let c := s.fry n
  if c.st = .pausing ∨ c.st = .paused then fryApply n (s.setFry n { c with st := c.back })
  else fryRefuse n s

/-- STOP of a wait: the release is discarded and pc names the WAIT or PARK. -/
def Ferry.endWait (c : Ferry) : Ferry := { c with wait := .none, released := false, snoop := none }

/-- STOP (R361). -/
def fryStop (n : Nat) (s : State) : State :=
  let c := s.fry n
  if c.ending then fryRefuse n s
  else
    match c.st with
    | .run => frySettle n (s.setFry n { c with st := .stopping })
    | .wait => fryFlag n 0x10000 (s.setFry n { c.endWait with st := .stopped })
    | .parked => fryFlag n 0x10000 (s.setFry n { c.endWait with st := .stopped })
    | .pausing => frySettle n (s.setFry n { (if c.back = .wait ∨ c.back = .parked then c.endWait else c) with st := .stopping })
    | .paused => frySettle n (s.setFry n { (if c.back = .wait ∨ c.back = .parked then c.endWait else c) with st := .stopping })
    | _ => fryRefuse n s

/-- ABORT (R362, R363). -/
def fryAbort (n : Nat) (s : State) : State :=
  let c := s.fry n
  match c.st with
  | .completed => s.setReg (aFryAbt n) 2
  | .idle => fryRefuse n s
  | .stopped => fryRefuse n s
  | .error => fryRefuse n s
  | .aborted => fryRefuse n s
  | _ =>
    let c' := { c.discard with
      st := .aborted, reads := c.reads.map (fun r => { r with live := false }), hold := [], cur := none, fold := none
      wait := .none, released := false, begun := false, snoop := none }
    fryFlag n 0x2000 ((s.setFry n c').setReg (aFryAbt n) 1)

/-- CLEAR. -/
def fryClear (n : Nat) (s : State) : State :=
  let c := s.fry n
  if c.halted ∧ c.st ≠ .idle then
    s.setFry n { Ferry.reset with pc := c.pc, tags := c.tags }
  else fryRefuse n s

/-- A write of FRYn_CMD (Table 08-6, R724). -/
def fryCmd (n code : Nat) (s : State) : State :=
  match code with
  | 1 => fryStart n s
  | 2 => fryPause n s
  | 3 => fryResume n s
  | 4 => fryStop n s
  | 5 => fryAbort n s
  | 6 => fryClear n s
  | _ => fryRefuse n s

/-- A write of FRYn_PC, FRYn_PC_HI, FRYn_CHK or FRYn_CHKCFG (R373): `which` is 0 to 3 in that order. -/
def fryRegWrite (n which : Nat) (v : Word) (s : State) : State :=
  if (s.fry n).halted then
    match which with
    | 0 => s.onFry n (fun c => { c with pc := c.pc / 2 ^ 32 * 2 ^ 32 + v.toNat / 8 * 8 })
    | 1 => s.onFry n (fun c => { c with pc := fld v 0 12 * 2 ^ 32 + c.pc % 2 ^ 32 })
    | 2 => s.setReg (aFryChk n) v
    | _ => s.setReg (aFryChkcfg n) (v &&& 3)
  else fryRefuse n s

/-- FRYn_STAT as read (Table 08-11). -/
def State.fryStat (s : State) (n : Nat) : Word :=
  let c := s.fry n
  (s.reg (aFryStat n) &&& 0x3FF00) ||| BitVec.ofNat 32 (c.st.code + 16 * b2n c.busy)

/-- Return a channel to reset (R371); outstanding beats are forgotten. -/
def fryReset (n : Nat) (s : State) : State :=
  { (s.setFry n Ferry.reset) with
    regs := smKeep (fun a => !(decide (aFryCfg n ≤ a) && decide (a < aFryCfg n + 0x1000))) s.regs }

end Sys2Proof.Machine
end

