-- ==== Sys2Proof/Machine/Ic.lean ====
section
/-! DEFINITION. Interrupt sources (spec/09_interrupt_controller.md): their states, what is eligible for a thread, claim,
completion, doorbells, and which initiator may change what. -/

namespace Sys2Proof.Machine

/-! ## Control registers of a thread -/

/-- Reset values of the control registers that MOVC reaches (Tables 03-20, 06-3, 06-8, 09-7); every other one is 0. -/
def ctlDefault (n : Nat) : Word :=
  if n = 0x80 then 5 else if n = 0x81 then 5 else if n = 0x40 then 0x100
  else if n = 0x107 then 0xFFFFFFFF else if n = 0x10A then 0xFFFFFFFF else 0

/-- A control register of a thread. -/
def Thread.creg (th : Thread) (n : Nat) : Word := smGet ctlDefault th.ctl n

/-- Replace a control register. -/
def Thread.setCreg (th : Thread) (n : Nat) (v : Word) : Thread := { th with ctl := smSet ctlDefault th.ctl n v }

/-- CSTAT.level (Table 06-3). -/
def Thread.level (th : Thread) : Nat := fld (th.creg 0x80) 0 2

/-- CSTAT.land. -/
def Thread.land (th : Thread) : Bool := bit (th.creg 0x80) 2

/-- Level and world of a thread as CSTAT[2:0]. -/
def Thread.cst (th : Thread) : Nat := fld (th.creg 0x80) 0 3

/-- Change thread t of slot k. -/
def State.onThread (s : State) (k t : Nat) (f : Thread → Thread) : State := s.setThread k t (f (s.thread k t))

/-! ## Sources -/

/-- A source's record. -/
def State.src (s : State) : SrcRef → Src
  | .shared n => smGet (fun _ => Src.init) s.srcs n.val
  | .priv k t i => smGet (fun _ => Src.init) (s.thread k t).priv i.val

/-- Replace a source's record. -/
def State.setSrc (s : State) (r : SrcRef) (x : Src) : State :=
  match r with
  | .shared n => { s with srcs := smSet (fun _ => Src.init) s.srcs n.val x }
  | .priv k t i => s.onThread k t (fun th => { th with priv := smSet (fun _ => Src.init) th.priv i.val x })

/-- Is the source one that can become pending (R374, Table 09-1)? -/
def srcExists : SrcRef → Bool
  | .shared n => decide (32 ≤ n.val)
  | .priv _ _ i => decide (i.val ≤ 10) || (decide (16 ≤ i.val) && decide (i.val ≤ 23))

/-- INACTIVE and PENDING follow level and swpend (R383). -/
def Src.settle (x : Src) : Src :=
  match x.st with
  | .inactive => if x.level || x.swpend then { x with st := .pending } else x
  | .pending => if x.level || x.swpend then x else { x with st := .inactive }
  | _ => x

/-- The synchronised level takes a value: a rise counts (R386). -/
def Src.setLevel (x : Src) (l : Bool) : Src :=
  Src.settle { x with level := l, cnt := if l && !x.level then min 255 (x.cnt + 1) else x.cnt }

/-- swpend takes a value (R384). -/
def Src.setSw (x : Src) (v : Bool) : Src := Src.settle { x with swpend := v }

/-- A completed or displaced source waits in HOLDOFF (R394, R399). -/
def Src.toHoldoff (x : Src) : Src := { x with st := .holdoff }

/-- HOLDOFF ends (R394). -/
def Src.endHoldoff (x : Src) : Src :=
  if x.st = .holdoff then { x with st := if x.level || x.swpend then .pending else .inactive } else x

/-- World, level and priority that a source targets (R377, R380), with whether it is masked (R381). -/
structure SrcTgt where
  land   : Bool
  l2     : Bool
  prio   : Nat
  masked : Bool
  deriving DecidableEq, Repr

/-- The target of a shared source. -/
def State.sharedTgt (s : State) (n : Nat) : SrcTgt :=
  let c := s.reg (aIcSrcCfg (n - 32))
  { land := bit c 12, l2 := bit c 13, prio := fld c 16 4, masked := bit (s.reg (aIcMask (n / 32 - 1))) (n % 32) }

/-- Does a shared source target thread t of logical core l? -/
def State.sharedFor (s : State) (n l t : Nat) : Bool :=
  let c := s.reg (aIcSrcCfg (n - 32))
  decide (fld c 0 7 = l) && decide (fld c 8 2 = t)

/-- The target of a private source of a thread (PIRQ_LAND, PIRQ_L2, PIRQ_PRIk, PIRQ_MASK). -/
def Thread.privTgt (th : Thread) (i : Nat) : SrcTgt :=
  { land := bit (th.creg 0x10A) i, l2 := bit (th.creg 0x10B) i, prio := fld (th.creg (0x10C + i / 8)) (4 * (i % 8)) 4
    masked := bit (th.creg 0x107) i }

/-- Priorities of the sources ACTIVE on thread t of logical core l, for a world and level (R387). -/
def State.activePrios (s : State) (l t : Nat) (th : Thread) (land l2 : Bool) : List Nat :=
  let f := fun (x : Src) =>
    if x.st = .active ∧ x.srv.land = land ∧ x.srv.lvl2 = l2 then some x.srv.prio else none
  (s.srcs.filterMap (fun e => if e.2.srv.lcore = l ∧ e.2.srv.thr = t then f e.2 else none)) ++
  (th.priv.filterMap (fun e => f e.2))

/-- Is the priority above the running priority? -/
def aboveRunning (ps : List Nat) (p : Nat) : Bool := ps.all (fun q => decide (q < p))

/-- The eligible sources of a thread at a world and level (R387): private or not, ID, priority. -/
def State.eligible (s : State) (k t : Nat) (land l2 : Bool) : List (Bool × Nat × Nat) :=
  match s.lcoreOf k with
  | none => []
  | some l =>
    let th := s.thread k t
    let ps := s.activePrios l t th land l2
    let ok := fun (x : Src) (g : SrcTgt) =>
      decide (x.st = .pending) && !g.masked && decide (g.land = land) && decide (g.l2 = l2) && aboveRunning ps g.prio
    (th.priv.filterMap (fun e => if ok e.2 (th.privTgt e.1) then some (true, e.1, (th.privTgt e.1).prio) else none)) ++
    (s.srcs.filterMap (fun e =>
      if s.sharedFor e.1 l t ∧ ok e.2 (s.sharedTgt e.1) then some (false, e.1, (s.sharedTgt e.1).prio) else none))

/-- The source a claim takes (R391): highest priority, then private before shared, then the lower ID. The list is in that
order of kind and ID, so a later entry wins by a higher priority only. -/
def bestSrc : List (Bool × Nat × Nat) → Option (Bool × Nat × Nat)
  | [] => none
  | e :: es =>
    match bestSrc es with
    | none => some e
    | some b => if e.2.2 < b.2.2 then some b else some e

/-- Is a request of a world and level presented to a thread (R388)? -/
def State.requests (s : State) (k t : Nat) (land l2 : Bool) : Bool := !(s.eligible k t land l2).isEmpty

/-- The reference of an eligible source of thread t of slot k. -/
def refOf (k : Fin 144) (t : Fin 4) (e : Bool × Nat × Nat) : SrcRef :=
  if e.1 then .priv k t (Fin.ofNat 32 e.2.1) else .shared (Fin.ofNat 416 e.2.1)

/-- A claim by thread t of slot k at CSTAT level and world `cst` (R391, R392): the new state and the word loaded. -/
def claim (k : Fin 144) (t : Fin 4) (cst : Nat) (s : State) : State × Word :=
  let lvl := cst % 4
  let land := decide (4 ≤ cst)
  let pick := if lvl = 1 ∨ lvl = 2 then bestSrc (s.eligible k t land (decide (lvl = 2))) else none
  match pick with
  | none => (s.incSat aIcSpur, 0x3FF)
  | some e =>
    let r := refOf k t e
    let x := s.src r
    let srv : Server := { lcore := (s.lcoreOf k).getD 0, thr := t.val, land := land, lvl2 := decide (lvl = 2), prio := e.2.2 }
    (s.setSrc r { x with st := .active, swpend := false, srv := srv },
      BitVec.ofNat 32 (e.2.1 + e.2.2 * 2 ^ 16 + b2n e.1 * 2 ^ 20))

/-- Completion of source `id` by thread t of slot k (R394). -/
def complete (k : Fin 144) (t : Fin 4) (id : Nat) (s : State) : State :=
  if id < 32 then
    let r : SrcRef := .priv k t (Fin.ofNat 32 id)
    if (s.src r).st = .active then s.setSrc r (s.src r).toHoldoff else s.orReg aIcStat 1
  else if id < 416 then
    let r : SrcRef := .shared (Fin.ofNat 416 id)
    let x := s.src r
    if x.st = .active ∧ s.lcoreOf k.val = some x.srv.lcore ∧ x.srv.thr = t.val then s.setSrc r x.toHoldoff
    else s.orReg aIcStat 1
  else s.orReg aIcStat 1

/-- Every shared source ACTIVE on a logical core enters HOLDOFF (R379, R399, R400). -/
def holdoffLcore (l : Nat) (s : State) : State :=
  { s with srcs := s.srcs.map (fun e =>
      if e.2.st = .active ∧ e.2.srv.lcore = l then (e.1, e.2.toHoldoff) else e) }

/-! ## Who may write (R382) -/

/-- What an initiator may do in the IC block. -/
inductive IcRight where
  | all
  | pendAll
  | seaOnly
  | refused
  deriving DecidableEq, Repr

/-- The row of the table in R382; `cst` is the CSTAT level and world of a core thread. -/
def State.icRight (s : State) (ini : Initiator) (cst : Nat) : IcRight :=
  match ini with
  | .core _ _ => if cst < 4 then .seaOnly else if cst = 4 then .refused else .all
  | .ferry n => if bit (s.reg (aFryCfg n)) 0 then .seaOnly else .pendAll
  | .debug => if s.pwr.mode = .halt then .all else .refused
  | .loader => .all
  | .host => .refused
  | .remote _ => .refused
  | _ => .refused

/-- The CSTAT level and world of an initiator now. -/
def State.cstOf (s : State) : Initiator → Nat
  | .core k t => (s.thread k t).cst
  | _ => 0

/-- The bits of a bitmap write that take effect (R382): all, those of Seaward targets, or none with wr_refused. -/
def State.icBits (s : State) (r : IcRight) (k : Nat) (v : Word) : Word :=
  match r with
  | .all => v
  | .pendAll => v
  | .seaOnly =>
    BitVec.ofNat 32 ((List.range 32).foldl (fun m j =>
      if v.getLsbD j && !(s.sharedTgt (32 * k + j)).land then m + 2 ^ j else m) 0)
  | .refused => 0

/-- Set or clear swpend of the shared sources of word k named by bits. -/
def swBits (k : Nat) (v : Word) (val : Bool) (s : State) : State :=
  foldS (fun j s => if v.getLsbD j then
      let r : SrcRef := .shared (Fin.ofNat 416 (32 * k + j))
      s.setSrc r ((s.src r).setSw val) else s) (List.range 32) s

/-- wr_refused (R382). -/
def refusedFlag (r : IcRight) (s : State) : State := if r = .refused then s.orReg aIcStat 2 else s

/-- IC_PEND_SETk and IC_PEND_CLRk (R384). -/
def icPend (r : IcRight) (k : Nat) (v : Word) (val : Bool) (s : State) : State :=
  if 1 ≤ k ∧ k ≤ 12 then swBits k (s.icBits r k v) val (refusedFlag r s) else s

/-- IC_MASK_SETk and IC_MASK_CLRk (R381). -/
def icMask (r : IcRight) (k : Nat) (v : Word) (val : Bool) (s : State) : State :=
  if 1 ≤ k ∧ k ≤ 12 then
    let b := s.icBits r k v
    let s1 := refusedFlag r s
    if val then s1.orReg (aIcMask (k - 1)) b else s1.clrReg (aIcMask (k - 1)) b
  else s

/-- IC_SRCn_CFG (R382, R404). -/
def icSrcCfg (r : IcRight) (n : Nat) (v : Word) (s : State) : State :=
  if 32 ≤ n ∧ n < 416 then
    if r = .all then s.setReg (aIcSrcCfg (n - 32)) (v &&& 0x000F337F) else s.orReg aIcStat 2
  else s

/-- Hardware sets bits of PSTAT in a CCLK: those of the same CCLK are kept together (R182). -/
def Thread.pstatSet (th : Thread) (clk : Nat) (m : Word) : Thread :=
  let old : Word := match th.pset with | some (c, x) => if c = clk then x else 0 | none => 0
  { th.setCreg 0x103 (th.creg 0x103 ||| m) with pset := some (clk, old ||| m) }

/-- IC_DBELL (R396, R379): rings a bell of a thread of a logical core; a Seaward write is discarded when the bell's ID
targets Landward there. -/
def icDbell (r : IcRight) (v : Word) (s : State) : State :=
  if r = .refused then s.orReg aIcStat 2
  else
    match s.slotOf (fld v 0 7) with
    | none => s.orReg aIcStat 4
    | some k =>
      let t := fld v 8 2
      let b := fld v 10 3
      let th := s.thread k t
      if r = .seaOnly ∧ (th.privTgt (1 + b)).land = true then s
      else s.setThread k t (th.pstatSet (s.core k).clk (bitW (1 + b)))

/-- A counter of Table 05-12 counts n in a CCLK; in that in which the counters are cleared the event is lost (R244). -/
def State.count (s : State) (k a n clk : Nat) : State :=
  if (s.core k).clrClk = some clk then s else s.addReg a n

/-- PSTAT.cpar in the four threads of a core, with CORE_CPAR (R376, R234). -/
def countCpar (k : Nat) (s : State) : State :=
  let clk := (s.core k).clk
  foldS (fun t s => s.onThread k t (fun th => th.pstatSet clk 0x400)) (List.range 4) (s.count k (aCoreCpar k) 1 clk)

/-- A posted write of a thread faults: PSTAT.pwf (R376), and the fault record of R188, or SVSTAT.pwf of the save set that took the record
at the first entry after the write issued (R265). Where a later entry has overwritten that set (R266), the fault waits for the return to the
code of the write. -/
def postedFault (k t id : Nat) (s : State) : State :=
  s.onThread k t (fun th =>
    let th1 := th.pstatSet (s.core k).clk 0x200
    match th.postIn.filter (fun e => decide (e.id = id)) with
    | [] => { th1 with pwf := true }
    | e :: es =>
      if es.any (fun x => decide (x.set = e.set)) then
        { th1 with postIn := th1.postIn.map (fun x => if x.id = id then { x with bad := true } else x) }
      else
        let a := 64 * e.set + 1
        { th1 with save := smSet (fun _ => 0) th1.save a (smGet (fun _ => 0) th1.save a ||| 0x80) })

/-- The level that a private source's block holds (Table 09-1): PSTAT bits, and the pending bits of compares of action 2
(R71, R72, R76). -/
def State.privLevel (s : State) (k t i : Nat) : Bool :=
  if i ≤ 10 then bit ((s.thread k t).creg 0x103) i
  else if 16 ≤ i ∧ i ≤ 23 then
    (List.range 256).any (fun n =>
      bit (s.reg (aTideCmpPend (n / 32))) (n % 32) && decide (s.cmpAct n = 2) &&
      (let a := s.reg (aTideCmpAct n)
       decide (s.slotOf (fld a 0 7) = some k) && decide (fld a 8 2 = t) && decide (fld a 16 3 = i - 16)))
  else false

/-- IC_RUNi (Table 09-6): running priorities of one thread of a logical core. -/
def State.icRun (s : State) (i : Nat) : Word :=
  let l := i / 4
  let t := i % 4
  match s.slotOf l with
  | none => 0
  | some k =>
    let th := s.thread k t
    let f := fun (b : Nat) (land l2 : Bool) =>
      match s.activePrios l t th land l2 with
      | [] => 0
      | p :: ps => (ps.foldl max p + 128) * 2 ^ (8 * b)
    BitVec.ofNat 32 (f 0 false false + f 1 false true + f 2 true false + f 3 true true)

/-- A bitmap over the sources of word k. -/
def State.srcBits (s : State) (k : Nat) (p : Src → Bool) : Word :=
  BitVec.ofNat 32 (s.srcs.foldl (fun m e => if e.1 / 32 = k ∧ p e.2 = true then m + 2 ^ (e.1 % 32) else m) 0)

/-- A bitmap over the private sources of a thread. -/
def Thread.privBits (th : Thread) (p : Src → Bool) : Word :=
  BitVec.ofNat 32 (th.priv.foldl (fun m e => if p e.2 then m + 2 ^ e.1 else m) 0)

end Sys2Proof.Machine
end

