-- ==== Sys2Proof/Machine/Bw.lean ====
section
/-! DEFINITION. Breakwater's operations (spec/10_breakwater.md): fault events and the log, core faults, take-over, choice of a
replacing core, shedding, DEGRADED, thread-start records and the commit of a partition frame. -/

namespace Sys2Proof.Machine

/-! ## Partitions and their cores -/

/-- BWTR_PTn_STAT.active. -/
def State.ptActive (s : State) (n : Nat) : Bool := bit (s.reg (aBwtrPtStat n)) 2

/-- The partition of a number. -/
def State.part? (s : State) (n : Nat) : Option Part := s.setup.parts.find? (fun p => decide (p.part = n))

/-- The logical cores of a partition. -/
def Part.lcores (p : Part) : List Nat := (List.range 128).filter (fun l => p.cores.getLsbD l)

/-- A partition's frame state. -/
def State.pt (s : State) (n : Nat) : PtRun := smGet (fun _ => PtRun.init) s.bw.pts n

/-- Replace a partition's frame state. -/
def State.setPt (s : State) (n : Nat) (p : PtRun) : State :=
  { s with bw := { s.bw with pts := smSet (fun _ => PtRun.init) s.bw.pts n p } }

/-- A logical core's Breakwater state. -/
def State.lc (s : State) (l : Nat) : LcRun := smGet (fun _ => LcRun.init) s.bw.lcs l

/-- Replace a logical core's Breakwater state. -/
def State.setLc (s : State) (l : Nat) (x : LcRun) : State :=
  { s with bw := { s.bw with lcs := smSet (fun _ => LcRun.init) s.bw.lcs l x } }

/-- A logical core that a pitch loads: an injection that waits in it, and the tags of the slots that it has left, stay (R452, R28). -/
def LcRun.again (x : LcRun) (ready : Bool) : LcRun := { LcRun.init with ready := ready, inj := x.inj, ripe := x.ripe, olds := x.olds }

/-- Set events of a cluster (BWTR_CEVTc). -/
def cevt (c : Nat) (m : Word) (s : State) : State := s.orReg (aBwtrCevt c) m

/-! ## The log (R450) -/

/-- A fault event as Breakwater logs it: detector, outcome, logical core, slot at detection, slot afterwards (0xF none),
address, causes a take-over, occurred during a replay, and the CCLK from now to its detection. -/
structure FaultEvt where
  det   : Nat
  out   : Nat
  lcore : Nat
  oslot : Nat
  nslot : Nat
  addr  : Nat
  tko   : Bool
  rpt   : Bool
  after : Nat := 0

/-- CCLK counted as the watchdog of slot k counts. -/
def State.wdCount (s : State) (k : Nat) : Nat := (s.core k).clk - (s.core k).wdClk

/-- What an event that replays the frame of its partition (outcome 0) or fails it (1 or 3) leaves there: the cluster that it names, among
those behind the replay or behind the bridge (R451). -/
def FaultEvt.noted (e : FaultEvt) (r : PtRun) : PtRun :=
  let c := e.lcore / 8
  if e.out = 0 then (if r.evr.contains c then r else { r with evr := r.evr ++ [c] })
  else if e.out = 1 ∨ e.out = 3 then (if r.evc.contains c then r else { r with evc := r.evc ++ [c] })
  else r

/-- Does the partition run the replay of its frame (Table 10-5 W4.rpt)? -/
def PtRun.inReplay (r : PtRun) : Bool := r.inFrame && !r.committed && r.replayed && !r.awaiting

/-- The frame of partition n is not replayed after all (R432): the entries of its log that name it say that it is bridged, and the clusters
behind the replay are behind the bridge. -/
def State.notReplayed (n : Nat) (s : State) : State :=
  let r := s.pt n
  let fix := fun (e : LogEntry) =>
    if fld e.w0 4 4 = 0 ∧ fld e.w0 8 5 = n ∧ bit e.w4 19 = false ∧ e.w1 = r.frame0 then { e with w0 := setFld e.w0 4 4 1 } else e
  { s.setPt n { r with evr := [], evc := r.evc ++ r.evr.filter (fun c => !r.evc.contains c) } with
    bw := { (s.setPt n { r with evr := [], evc := r.evc ++ r.evr.filter (fun c => !r.evc.contains c) }).bw with log := s.bw.log.map fix } }

/-- Write a log entry for an event of slot k (Table 10-5, R450) with its CEVT bits. A core of no partition has no frame and no watchdog:
W1 and W2 are free values (log entry 6). -/
def logEvent (k : Nat) (e : FaultEvt) (s : State) : State :=
  let c := e.lcore / 8
  let p := s.partOf e.lcore
  let n := match p with | some q => q.part | none => 0
  let w0 := e.det + e.out * 2 ^ 4 + n * 2 ^ 8 + e.lcore * 2 ^ 13 + c * 2 ^ 20 + e.oslot * 2 ^ 24 + e.nslot * 2 ^ 28
  let w4 := e.addr / 2 ^ 32 % 2 ^ 12 + b2n (bit (s.reg aBwtrStat) 0) * 2 ^ 16 + b2n e.tko * 2 ^ 17 + b2n e.rpt * 2 ^ 18 +
    b2n p.isNone * 2 ^ 19
  let ent : LogEntry :=
    { w0 := BitVec.ofNat 32 w0, w1 := if p.isSome then (s.pt n).frame0 else loW s.free
      w2 := if p.isSome then BitVec.ofNat 32 (s.wdCount k + e.after) else hiW s.free
      w3 := BitVec.ofNat 32 e.addr, w4 := BitVec.ofNat 32 w4 }
  let s1 := if p.isSome then s.setPt n (e.noted (s.pt n)) else s.advFree
  if s1.bw.log.length < 64 then
    cevt c 1 { s1 with bw := { s1.bw with log := s1.bw.log ++ [ent] } }
  else cevt c 0x40 ((s1.orReg aBwtrStat 0x100).incSat aBwtrLogLost)

/-- A pop of the log (R450). -/
def popLog (s : State) : State := { s with bw := { s.bw with log := s.bw.log.tail } }

/-! ## Stopping and resetting cores -/

/-- Every thread of slot k stops. -/
def stopCore (k : Nat) (s : State) : State :=
  foldS (fun t s => s.onThread k t (fun th => { th with running := false })) (List.range 4) s

/-- Slot k is fenced (R427): its threads stop and nothing of it is outstanding any more. -/
def fenceCore (k : Nat) (s : State) : State :=
  let s1 := foldS (fun t s => s.onThread k t (fun th => { th with
    running := false, long := [], far := [], fetch := [], fetched := [], fq := [], ahead := [], half := none, posted := [],
    postIn := [], sbuf := [], imprec := [], fillBuf := none, spill := none })) (List.range 4) s
  s1.setCore k { s1.core k with fenced := true }

/-- CORE reset of slot k (R673, R93, R157, R244, R261, R400). -/
def coreReset (k : Nat) (s : State) : State :=
  let s1 := foldS (fun t s => s.setThread k t Thread.reset) (List.range 4) s
  let c := s1.core k
  let s2 := s1.setCore k { CoreSt.reset with clk := c.clk, wdClk := c.clk }
  let s3 := foldS (fun a s => s.setReg a 0) [aCoreCyc k, aCoreIssue k, aCoreBrmisp k, aCoreFqEmpty k, aCoreDcMiss k,
    aCoreIcMiss k, aCoreCpar k, aCoreSbFull k] s2
  match s3.lcoreOf k with
  | some l => holdoffLcore l (s3.setLc l { s3.lc l with inj := none, ripe := false })
  | none => s3

/-- Set MUTE_N's hold H (R677). -/
def setMuteHold (s : State) : State := s.orReg aSysMute 1

/-! ## Thread-start records (R428) -/

/-- The code record of a logical core: that of the partition which holds it. -/
def State.codeOf (s : State) (l : Nat) : Option CodeRec :=
  s.setup.code.find? (fun c => decide (c.lcore = l) && (match s.partOf l with | some p => decide (c.part = p.part) | none => true))

/-- A 44-bit base in a segment's BASE and CTL registers. -/
def setSegBase (th : Thread) (n base : Nat) : Thread :=
  let ctl := th.creg (0x21 + 4 * n)
  (th.setCreg (0x20 + 4 * n) (BitVec.ofNat 32 (base % 2 ^ 32 / 8 * 8))).setCreg (0x21 + 4 * n)
    (setFld ctl 0 12 (base / 2 ^ 32))

/-- The half of partition p's state region that is Ebb (or Flood) when the commit word's ebb bit is `ebb`. -/
def Part.ebbBase (p : Part) (ebb : Bool) : Nat := if ebb then p.h0 + p.half else p.h0

/-- The control registers that a thread record loads, in the order of Table 11-6 from offset 0x04: number and mask. -/
def startRegs : List (Nat × Word) :=
  [(0x80, 0xF), (0x82, 0xFE00), (0x83, 0xFE00)] ++
  ((List.range 8).flatMap (fun k => [(0x20 + 4 * k, 0xFFFFFFF8), (0x21 + 4 * k, 0x007F0FFF), (0x22 + 4 * k, 0x1FFFFFFF)])) ++
  [(0x40, 0x107), (0x41, 0x1FFFFFFF), (0x42, 0x1FFFFFFF), (0x43, 0x1FFFFFFF), (0x10A, 0xFFFFFFFF), (0x10B, 0xFFFFFFFF),
   (0x10C, 0xFFFFFFFF), (0x10D, 0xFFFFFFFF), (0x10E, 0xFFFFFFFF), (0x10F, 0xFFFFFFFF), (0x107, 0xFFFFFFFF)]

/-- A thread as its thread-start record leaves it (R428, R462, R130, R132). -/
def startThread (p : Part) (ebb : Bool) (ws : List Word) : Thread :=
  let th := { Thread.reset with pc := ws.headD 0 }
  let th := (startRegs.zip (ws.drop 1)).foldl (fun th e => th.setCreg e.1.1 (e.2 &&& e.1.2)) th
  let en : Bool := if p.profile = 2 then p.ssEn else true
  let th := th.setCreg 0x40 (setFld (th.creg 0x40) 8 1 (b2n en))
  setSegBase (setSegBase th p.ebbSeg (p.ebbBase ebb)) p.floodSeg (p.ebbBase (!ebb))

/-- The ebb bit of partition n's last commit word. -/
def State.ptEbb (s : State) (n : Nat) : Bool := bit (s.reg (aBwtrPtCwHi n)) 0

/-- Load the threads of logical core l in slot k from their records, running or not. -/
def loadThreads (p : Part) (k l : Nat) (run : Bool) (s : State) : State :=
  match s.codeOf l with
  | none => s
  | some c =>
    let clk := (s.core k).clk
    foldS (fun t s =>
      if p.thrEn.testBit t then
        let th := startThread p (s.ptEbb p.part) (c.threads.getD t [])
        s.setThread k t { th with running := run, resume := clk, lastIss := clk, lastAck := clk }
      else s.setThread k t Thread.reset) (List.range 4) s

/-- CORE_PIPE_CFG of a partition's cores (R458). -/
def Part.pipeCfg (p : Part) : Word :=
  BitVec.ofNat 32 (p.profile + 4 * p.policy + 16 * p.thrEn + 256 * b2n p.bpred)

/-- Load CORE_PIPE_CFG and CORE_CACHE_CFG of slot k for logical core l (R428, R458). -/
def loadCoreCfg (p : Part) (k l : Nat) (s : State) : State :=
  match s.codeOf l with
  | none => s
  | some c => (s.setReg (aCorePipeCfg k) p.pipeCfg).setReg (aCoreCacheCfg k) (c.cacheCfg &&& 0x173)

/-! ## Commit (R409 to R413, R435) -/

/-- The commit word of a partition (Table 10-1). -/
def commitWord (frame0 : Word) (ebb bridged replayed degraded : Bool) (ccount : Nat) : Nat :=
  frame0.toNat + b2n ebb * 2 ^ 32 + b2n bridged * 2 ^ 34 + b2n replayed * 2 ^ 35 + b2n degraded * 2 ^ 36 +
  ccount % 2 ^ 16 * 2 ^ 48

/-- Breakwater writes an 8-byte word, as class 0 before every other request of its bank (R307): its memory wakes where it sleeps (R328, R332),
and where R470 holds the staging window the write fails and is logged (Table 07-2). -/
def bwStore (a v : Nat) (s : State) : State :=
  let s1 := s.wakeSpan a 8
  match regionOf a with
  | some r =>
    if s1.stagingHeld ∧ s1.inStaging a 8 then s1.logUe .breakwater .store a
    else (s1.storeAt (.mem r a) (leBytes 8 v)).touchStaging a 8
  | none => s

/-- Write a commit word to memory and to BWTR_PTn_CW (R410 steps 3 and 4). -/
def putCommitWord (p : Part) (w : Nat) (s : State) : State :=
  let s1 := bwStore (p.h0 + 2 * p.half) w s
  (s1.setReg (aBwtrPtCwLo p.part) (BitVec.ofNat 32 w)).setReg (aBwtrPtCwHi p.part) (BitVec.ofNat 32 (w / 2 ^ 32))

/-- Zero the words that state faults of the frame named (R423). -/
def zeroBad (ws : List Nat) (s : State) : State :=
  if bit (s.reg aBwtrCfg) 9 then
    foldS (fun a s => bwStore (a / 8 * 8) 0 s) ws s
  else s

/-- The clusters whose BWTR_CEVTc shows what happens to a partition's frame (R451): those that the events behind it name, or, where no event
is behind it, all that hold a core of the partition (DEDUCED, log entry 114). -/
def Part.evClusters (p : Part) (cs : List Nat) : List Nat := if cs.isEmpty then (p.lcores.map (fun l => l / 8)).eraseDups else cs

/-- The frame of partition p is bridged (R435, R437). -/
def bridge (p : Part) (s : State) : State :=
  let n := p.part
  let r := s.pt n
  let s1 := zeroBad r.badWords s
  let w := commitWord r.frame0 (s.ptEbb n) true r.replayed (bit (s.reg aBwtrStat) 0) (fld (s.reg (aBwtrPtCwHi n)) 16 16)
  let s2 := (putCommitWord p w s1).incSat (aBwtrPtBridge n)
  let s3 := if p.cls = 0 then s2.incSat (aBwtrPtSlip n) else s2
  let s4 := s3.clrReg (aBwtrPtStat n) 0x10
  foldS (fun c s => cevt c 8 s) (p.evClusters r.evc) (s4.setPt n { r with committed := true, awaiting := false, badWords := [] })

/-- The frame of partition p is committed (R410, R413). -/
def commitOk (p : Part) (s : State) : State :=
  let n := p.part
  let r := s.pt n
  let w := commitWord r.frame0 (!s.ptEbb n) false r.replayed (bit (s.reg aBwtrStat) 0)
    (fld (s.reg (aBwtrPtCwHi n)) 16 16 + 1)
  let s2 := (putCommitWord p w s).clrReg (aBwtrPtStat n) 0x10
  s2.setPt n { r with committed := true, badWords := [] }

/-! ## DEGRADED and replacement (R443 to R448) -/

/-- Enter DEGRADED (R443), which cancels a requested transition (R649); a fault in DEGRADED sets the cluster's event again. -/
def enterDegraded (c : Nat) (s : State) : State :=
  let s1 := s.orReg aBwtrStat 1
  let enter := fun (m : Mode) (s : State) => setMode .degraded { s with pwr := { s.pwr with replaced := m, req := none } }
  let s2 := match s1.pwr.mode with
    | .run => enter .run s1
    | .neap => enter .neap (banksOn s1)
    | .shore => enter .shore s1
    | _ => s1
  cevt c 0x10 s2

/-- The lost bits of a cluster and of the device follow the slot map (Table 10-7). -/
def showLost (c : Nat) (s : State) : State :=
  let m := (List.range 8).foldl (fun x i => if (s.slotOf (8 * c + i)).isNone then x + 2 ^ i else x) 0
  let s1 := s.setRegFld (aBwtrCstat c) 24 8 m
  let any := (List.range 16).any (fun d => decide (fld (s1.reg (aBwtrCstat d)) 24 8 ≠ 0))
  s1.setRegFld aBwtrStat 1 1 (b2n any)

/-- Map logical core l to a slot of its cluster, or to none (R429, R446). -/
def mapLcore (l : Nat) (slot : Option Nat) (s : State) : State :=
  let c := l / 8
  showLost c (s.setRegFld (aBwtrSlotmap c) (4 * (l % 8)) 4 (match slot with | some k => k % 9 | none => 15))

/-- Is the spare of cluster c free: neither in service nor retired? -/
def State.spareFree (s : State) (c : Nat) : Bool :=
  !bit (s.reg (aBwtrCstat c)) 8 && !bit (s.reg (aBwtrCstat c)) 17

/-- A re-pitch of partition n between its stop edge and its first fire ends with code 18 (R479). -/
def repitchLost (n : Nat) (s : State) : State :=
  if s.qfa.part = some n ∧ s.qfa.stopped = true then
    let q : Qfa := { s.qfa with phase := 0, part := none, ready := false, stopped := false, armed := false, res := some false }
    let rs := s.sap.routes.filter (fun x => x.live || decide (x.route.part ≠ n))
    (({ s with qfa := q, sap := { s.sap with routes := rs } }.orReg aQfaStat 0x200).setReg aQfaErr 18).setReg (aTideCmpCtl (224 + n)) 0
  else s

/-- Shed partition p after a fault in cluster c (R445). -/
def shed (p : Part) (c : Nat) (s : State) : State :=
  let n := p.part
  let r := s.pt n
  let s1 := if r.inFrame ∧ r.committed = false then bridge p (s.setPt n { r with evc := [c], evr := [] }) else s
  let s2 := foldS (fun l s => match s.slotOf l with | some k => stopCore k s | none => s) p.lcores s1
  let s3 := foldS (fun o s => if o.owned ∧ o.part = n then fryStop o.chan s else s) s2.setup.ferry s2
  repitchLost n (cevt c 0x20 (s3.orReg (aBwtrPtStat n) 8))

/-- Breakwater's choice of a replacing core for logical core l of partition `p` in its cluster (R444): the slot, the logical
core that held it, and the partition to shed. -/
def chooseCore (l : Nat) (p : Part) (s : State) : Option (Nat × Nat) × Option Part :=
  let c := l / 8
  let held := (List.range 9).filterMap (fun i =>
    let k := 9 * c + i
    if s.inService k then (s.lcoreOf k).bind (fun m => if (s.partOf m).isNone then some (k, m) else none) else none)
  match held with
  | e :: _ => (some e, none)
  | [] =>
    let cand := s.setup.parts.filter (fun q => decide (q.part ≠ 0) && !s.ptOut q.part &&
      (decide (q.part = p.part) || q.lcores.any (fun m => decide (m / 8 = c) && (s.slotOf m).isSome)))
    let best := cand.foldl (fun (b : Option Part) q => match b with
      | none => some q
      | some x => if q.prio < x.prio ∨ (q.prio = x.prio ∧ x.part < q.part) then some q else some x) none
    match best with
    | none => (none, none)
    | some q =>
      if q.part = p.part then (none, some q)
      else
        ((q.lcores.find? (fun m => decide (m / 8 = c) && (s.slotOf m).isSome)).bind
          (fun m => (s.slotOf m).map (fun k => (k, m))), some q)

/-- Retire slot k (R18, R420) and count the fault (BWTR_CFLTc). -/
def retire (k : Nat) (s : State) : State :=
  let c := k / 9
  let s1 := s.setRegFld (aBwtrCstat c) (k % 9) 1 0
  (s1.setRegFld (aBwtrCstat c) (9 + k % 9) 1 1).incFld (aBwtrCflt c) 0 8 1

/-- Logical core l moves from its slot to slot k, and goes on using the tags of the slots it has left (R28). -/
def keepTags (l k : Nat) (s : State) : State :=
  match s.slotOf l with
  | some j => s.setLc l { s.lc l with olds := ((s.lc l).olds ++ [j]).filter (fun x => decide (x ≠ k)) }
  | none => s

/-- Logical core j waits for no take-over any more. -/
def dropTkos (j : Nat) (s : State) : State := { s with bw := { s.bw with tkos := s.bw.tkos.filter (fun t => decide (t.lcore ≠ j)) } }

/-- Begin the take-over of logical core l into slot k (Table 10-4 step 1). -/
def beginTakeOver (l k : Nat) (replay : Bool) (s : State) : State :=
  let c := l / 8
  let s1 := mapLcore l (some k) ((keepTags l k s).setRegFld (aBwtrCstat c) (k % 9) 1 1)
  let s2 := fenceCore k s1
  cevt c 2 { s2 with bw := { s2.bw with
    tkos := (s2.bw.tkos.filter (fun t => decide (t.lcore ≠ l))) ++
      [{ lcore := l, slot := k, replay := replay, late := false, loaded := false }] } }

/-- Does a core fault of the partition in its present frame lead to a replay (R430, R432, R434, R442)? A state fault of the frame does not
stand in its way (log entry 105). -/
def replayable (p : Part) (r : PtRun) : Bool :=
  decide (p.cls ≠ 0) && r.inFrame && !r.committed && (r.awaiting || (!r.replayed && (!r.failed || !r.badWords.isEmpty)))

/-- A core fault of slot k found by a detector at an address (R420, R421, R430, R434, R442 to R448). The core is reset, once the event is
logged (Table 18-1, R450). -/
def coreFault (det k addr : Nat) (s : State) (after : Nat := 0) : State :=
  match s.lcoreOf k with
  | none => if det = 6 then coreReset k s else s
  | some l =>
    if !s.inService k then (if det = 6 then coreReset k s else s)
    else
      let c := k / 9
      let pt := s.partOf l
      let s1 := holdoffLcore l (retire k (fenceCore k s))
      let spare := s1.spareFree c
      let s2 := if !spare then enterDegraded c s1 else if bit (s1.reg aBwtrStat) 0 then cevt c 0x10 s1 else s1
      let choice : Option (Nat × Option Nat) × Option Part :=
        if spare then (some (9 * c + 8, none), none)
        else match pt with
          | none => (none, none)
          | some p => let r := chooseCore l p s2; (r.1.map (fun e => (e.1, some e.2)), r.2)
      let r0 := match pt with | some p => s2.pt p.part | none => PtRun.init
      let shedSelf := match choice.2, pt with | some q, some p => decide (q.part = p.part) | _, _ => false
      let rep := match pt with | some p => replayable p r0 && choice.1.isSome | none => false
      let out := if shedSelf then 3 else if rep then 0 else if r0.inFrame && !r0.committed then 1 else 2
      let s2' := logEvent k
        { det := det, out := out, lcore := l, oslot := k % 9
          nslot := match choice.1 with | some e => e.1 % 9 | none => 15
          addr := if det = 1 then addr else 0, tko := choice.1.isSome, rpt := r0.inReplay, after := after } s2
      let s3 := fenceCore k (coreReset k s2')
      let s4 := match pt with
        | none => s3
        | some p =>
          let r1 := s3.pt p.part
          s3.setPt p.part (if rep then { r1 with awaiting := true }
            else if r1.inFrame ∧ r1.committed = false then { r1 with failed := true, awaiting := false } else r1)
      let s4 := match pt with | some p => if r0.awaiting && !rep then s4.notReplayed p.part else s4 | none => s4
      let s5 := match choice.2 with | some q => shed q c s4 | none => s4
      match choice.1 with
      | none =>
        let s6 := mapLcore l none s5
        if l = 0 then
          setMuteHold (foldS (fun m s => match s.slotOf m with | some j => stopCore j s | none => s)
            (match pt with | some p => p.lcores | none => []) (s6.orReg aBwtrStat 4))
        else s6
      | some (k', m) =>
        let s6 := match m with
          | some j => dropTkos j (holdoffLcore j (mapLcore j none (coreReset k' s5)))
          | none => s5
        beginTakeOver l k' rep s6

/-- A triple fault (R291, Table 10-3 detector 6), detected in CCLK `clk`: the core is reset and treated as failed. -/
def tripleFault (k clk : Nat) (s : State) : State := coreFault 6 k 0 s (clk - (s.core k).clk)

/-- A state fault of the partition of logical core l at an address: its word is logged, and zeroed at the bridge (R423, R425). -/
def stateFault (l addr : Nat) (s : State) : State :=
  let a := addr / 8 * 8
  match s.slotOf l with
  | none => s
  | some k =>
    match s.partOf l with
    | none => s
    | some p =>
      let r := s.pt p.part
      let s1 := logEvent k { det := 2, out := if r.inFrame && !r.committed then 1 else 2, lcore := l, oslot := k % 9
                             nslot := k % 9, addr := a, tko := false, rpt := r.inReplay } s
      if r.inFrame ∧ r.committed = false then
        s1.setPt p.part { s1.pt p.part with failed := true, badWords := r.badWords ++ [a] }
      else s1

/-- A posted-write fault of a thread of slot k whose cause is no uncorrectable error is logged (R425). -/
def postedFaultLog (k addr : Nat) (s : State) : State :=
  match s.lcoreOf k with
  | none => s
  | some l =>
    match s.partOf l with
    | none => s
    | some p =>
      let r := s.pt p.part
      logEvent k { det := 8, out := 2, lcore := l, oslot := k % 9, nslot := k % 9, addr := addr, tko := false
                   rpt := r.inReplay } s

/-! ## Done (R407) -/

/-- Has the thread begun a WAITT on its partition's frame compare, in which it still is, with its writes answered? -/
def Thread.doneFor (th : Thread) (cmp clk : Nat) : Bool :=
  (match th.wait with | .waitt n _ rel _ depth => decide (n = cmp) && !rel && decide (depth = 0) | _ => false) &&
  th.posted.isEmpty && th.sbuf.isEmpty && decide (th.lastIss + 4 ≤ clk)

/-- The enabled threads of slot k (CORE_PIPE_CFG; only T0 under SOLO). -/
def State.enabledThr (s : State) (k t : Nat) : Bool :=
  let c := s.reg (aCorePipeCfg k)
  if legal 14 3 (fld c 2 2) = 0 then decide (t = 0) else bit c (4 + t)

/-- Is the core of slot k done for the frame of partition n? -/
def State.coreDone (s : State) (k n : Nat) : Bool :=
  (List.range 4).all (fun t => !s.enabledThr k t || (s.thread k t).doneFor (224 + n) (s.core k).clk)

/-- Is logical core l done, or does it have no slot or wait for a restart? -/
def State.lcDone (s : State) (n l : Nat) : Bool :=
  match s.slotOf l with
  | none => true
  | some k => (s.lc l).ready || s.coreDone k n

/-- The lead's slot of a checker: an odd logical core of a Paired partition (R439). -/
def State.leadOf (s : State) (k : Nat) : Option Nat :=
  match s.lcoreOf k with
  | none => none
  | some l =>
    match s.partOf l with
    | none => none
    | some p => if p.cls = 2 ∧ l % 2 = 1 then s.slotOf (l - 1) else none

/-- The watchdog count at which the core of slot k became done. The posted writes of a checker are its lead's (R440). -/
def State.runOf (s : State) (k : Nat) : Nat :=
  let q := (s.leadOf k).getD k
  let m := (List.range 4).foldl (fun m t =>
    if s.enabledThr k t then
      let th := s.thread k t
      let w := match th.wait with | .waitt _ _ _ b _ => b | _ => 0
      max m (max (max (th.lastIss + 4) w - (s.core k).wdClk) ((s.thread q t).lastAck - (s.core q).wdClk))
    else m) 0
  m

/-- Record the largest run of a partition's cores (BWTR_PTn_MAXRUN). -/
def recordRuns (p : Part) (s : State) : State :=
  foldS (fun l s => match s.slotOf l with
    | none => s
    | some k => if s.coreDone k p.part then
        s.setReg (aBwtrPtMaxrun p.part) (BitVec.ofNat 32 (max (s.reg (aBwtrPtMaxrun p.part)).toNat (s.runOf k))) else s)
    p.lcores s

/-- The lockstep signature of a logical core with the CCLK at which it became done (R440). -/
def State.finalSig (s : State) (l : Nat) : Word :=
  match s.slotOf l with
  | none => (s.lc l).sig
  | some k => crc32c (s.lc l).sig (leBytes 4 (s.runOf k))

/-- Has logical core l run its frame to its end? -/
def State.ranOut (s : State) (n l : Nat) : Bool :=
  match s.slotOf l with
  | none => false
  | some k => !(s.lc l).ready && s.coreDone k n

/-- The leads of the pairs of a Paired partition that have both run to the end and whose signatures differ (R441). -/
def State.mismatch (s : State) (p : Part) : List Nat :=
  if p.cls = 2 then
    p.lcores.filter (fun l => decide (l % 2 = 0) && s.ranOut p.part l && s.ranOut p.part (l + 1) && decide (s.finalSig l ≠ s.finalSig (l + 1)))
  else []

/-- The commit of partition p's frame (R410, R435, R441). A frame that has failed already is bridged, whatever the comparison of its pairs
shows (DEDUCED, log entry 105). -/
def commitFrame (p : Part) (s : State) : State :=
  let n := p.part
  let r := s.pt n
  if r.inFrame = false ∨ r.committed = true ∨ r.awaiting = true then s
  else
    let s1 := recordRuns p s
    let ls := s1.mismatch p
    let s2 := foldS (fun l s =>
      let k := (s.slotOf l).getD 0
      logEvent k { det := 7, out := if r.failed || r.replayed then 1 else 0, lcore := l, oslot := k % 9, nslot := k % 9
                   addr := 0, tko := false, rpt := r.replayed } s) ls s1
    if r.failed then bridge p s2
    else if ls.isEmpty then commitOk p s2
    else if r.replayed then bridge p (s2.setPt n { s2.pt n with failed := true })
    else s2.setPt n { s2.pt n with awaiting := true }

/-- Stop the cores of a partition as if every thread were done (R422, R409): each starts again from its thread-start record
at the next fire of the frame compare. DEDUCED (log entry 11). -/
def stopAsDone (l : Nat) (s : State) : State :=
  match s.slotOf l with
  | none => s
  | some k => (stopCore k s).setLc l { s.lc l with ready := true }

end Sys2Proof.Machine
end

