-- ==== Sys2Proof/Machine/Operands.lean ====
section
/-! DEFINITION. The operations of Tuitin as their encodings give them (spec/03_tuitin_model.md Tables 03-3 to 03-8,
spec/04_tuitin_operations.md): decoding of 32-bit and 16-bit operations, slot classes and bundles. Every operand form of the
encoding tables has its constructor here. -/

namespace Sys2Proof.Machine

/-- Addressing modes (Table 03-14); immediates count elements of the access size. -/
inductive AMode where
  | off (imm : Int)
  | post (imm : Int)
  | pre
  | idx (x k : Nat)
  | circ (imm : Int) (cm : Nat)
  | brev (imm : Int) (cm : Nat)
  deriving DecidableEq, Repr

/-- What a store takes from its register (Table 04-7). -/
inductive StKind where
  | w | h | b | acc | dbl | fn
  deriving DecidableEq, Repr

/-- Access size in bytes of a load. -/
def LdKind.size : LdKind → Nat
  | .w => 4 | .h => 2 | .hu => 2 | .bu => 1 | .bs => 1 | .acc => 16 | .dbl => 8 | .fw => 4

/-- Access size in bytes of a store. -/
def StKind.size : StKind → Nat
  | .w => 4 | .h => 2 | .b => 1 | .acc => 16 | .dbl => 8 | .fn => 4

/-- Alignment of an access of s bytes (Table 03-2): an accumulator is 8-byte aligned. -/
def alignOf (s : Nat) : Nat := if s = 16 then 8 else s

/-- Two-operand floating-point arithmetic. -/
inductive FArith where
  | add | sub | mul | min | max
  deriving DecidableEq, Repr

/-- Fused multiply-add forms. -/
inductive FFma where
  | madd | msub | nmadd
  deriving DecidableEq, Repr

/-- Conversions (major 0x17). -/
inductive FCvt where
  | ftoi | ftou | itof | utof | ftox | xtof | dtof | ftod | dtoi | itod | frnd
  deriving DecidableEq, Repr

/-- Where a branch goes. -/
inductive BTarget where
  | rel (off : Int)
  | reg (a : Nat)
  | link
  deriving DecidableEq, Repr

/-- A decoded operation. -/
inductive TOp where
  | nop
  | alu (op : AluOp) (d a b : Nat)
  | aluI (op : AluOp) (d a : Nat) (v : Word)
  | ins (d a b : Nat)
  | movi (d : Nat) (v : Word)
  | movhi (d : Nat) (v : Word)
  | cmp (op : CmpOp) (f a b : Nat)
  | flag (op : FlagOp) (f a b : Nat)
  | load (k : LdKind) (d a : Nat) (m : AMode)
  | store (k : StKind) (d a : Nat) (m : AMode)
  | mul (op : MulOp) (d a b : Nat)
  | mac (op : MacOp) (k a b : Nat)
  | macd (q : Bool) (k a b : Nat)
  | mclr (k : Nat)
  | movdm (k a : Nat)
  | movddm (k a : Nat)
  | movmd (part d m : Nat)
  | ext (d m b : Nat)
  | exti (d m sh : Nat)
  | movpm (k p : Nat)
  | movpd (d p : Nat)
  | macp (k p : Nat)
  | madd (k j : Nat)
  | mshr (k sh : Nat)
  | mneg (k : Nat)
  | farith (dbl : Bool) (op : FArith) (d a b : Nat)
  | fsign (inv : Bool) (d a : Nat)
  | fcmp (dbl : Bool) (c : FCmp) (f a b : Nat)
  | ffma (dbl : Bool) (op : FFma) (d a b : Nat)
  | fcvt (op : FCvt) (d a b : Nat)
  | branch (t : BTarget) (call delayed : Bool)
  | loopR (lvl x off : Nat)
  | loopI (lvl cnt off : Nat)
  | loopOff (lvl : Nat)
  | adda (d a : Nat) (v : Word)
  | movad (d a : Nat) (v : Word)
  | movda (d a : Nat) (v : Word)
  | long (fn d a b : Nat)
  | movc (fn num r : Nat)
  | waitt (n : Nat)
  | syncw (f : Nat)
  | lbar
  | gate (n : Nat)
  | rfe
  | setmode (r : Nat)
  | trap (n : Nat)
  deriving DecidableEq, Repr

/-- What an operation word decodes to: an operation; one whose fields raise the illegal-operation exception when its
condition is true (R92, R109, R111, R134, R141); or a reserved encoding, illegal whatever its condition (R108, R133). -/
inductive Dec where
  | ok (o : TOp)
  | bad
  | reserved
  deriving DecidableEq, Repr

/-- Slot classes (Table 03-6). -/
inductive SlotCls where
  | l | m | x | b | s | none
  deriving DecidableEq, Repr

/-- The slot class of a 32-bit operation by its major opcode. -/
def majorCls (mj : Nat) : SlotCls :=
  if mj ≤ 0x07 then .x else if mj ≤ 0x0E then .l else if mj ≤ 0x0F then .none
  else if mj ≤ 0x17 then .m else if mj ≤ 0x1E then .b else if mj ≤ 0x21 then .s else .none

/-- The slot class of a 16-bit operation by its opcode (Table 03-8). -/
def shortCls (oc : Nat) : SlotCls :=
  if oc = 0 then .none else if oc ≤ 8 then .x else if oc ≤ 0xB then .l else if oc ≤ 0xD then .m
  else if oc ≤ 0x10 then .b else .none

/-- An n-bit field as a signed number. -/
def sfld (v : Word) (lo w : Nat) : Int :=
  let x := fld v lo w
  if x.testBit (w - 1) then (x : Int) - 2 ^ w else x

/-- Accept an operation when its fields are legal. -/
def okIf (c : Bool) (o : TOp) : Dec := if c then .ok o else .bad

/-- Is n a D register of the profile? The T2 ranges of R131 are those of Table 03-21. -/
def okD (t2 : Bool) (n : Nat) : Bool := decide (n < if t2 then 16 else 32)

/-- Is n an even D register of the profile (R92)? -/
def okP (t2 : Bool) (n : Nat) : Bool := okD t2 n && decide (n % 2 = 0)

/-- Is n an A register (R109, R131)? -/
def okA (t2 : Bool) (n : Nat) : Bool := decide (n < if t2 then 8 else 16)

/-- Is n an accumulator? -/
def okM (t2 : Bool) (n : Nat) : Bool := decide (n < if t2 then 4 else 8)

/-- Is n a product register? T2 has none (Table 03-21), so every number is beyond its range. -/
def okMP (t2 : Bool) (n : Nat) : Bool := !t2 && decide (n < 4)

/-- Is n a flag? -/
def okF (t2 : Bool) (n : Nat) : Bool := decide (n < if t2 then 4 else 8)

/-- Majors 0x00 and 0x01 (Table 04-2), 0x06 (Table 04-5) and 0x07 (Table 04-6): the operation, and whether it uses b. -/
def aluOf (mj fn : Nat) : Option (AluOp × Bool) :=
  match mj, fn with
  | 0, 0 => some (.add, true)
  | 0, 1 => some (.sub, true)
  | 0, 2 => some (.adds, true)
  | 0, 3 => some (.subs, true)
  | 0, 4 => some (.addus, true)
  | 0, 5 => some (.subus, true)
  | 0, 6 => some (.min, true)
  | 0, 7 => some (.max, true)
  | 0, 8 => some (.minu, true)
  | 0, 9 => some (.maxu, true)
  | 0, 10 => some (.abs, false)
  | 0, 11 => some (.negs, false)
  | 0, 12 => some (.add2, true)
  | 0, 13 => some (.sub2, true)
  | 0, 14 => some (.adds2, true)
  | 0, 15 => some (.subs2, true)
  | 1, 0 => some (.and, true)
  | 1, 1 => some (.or, true)
  | 1, 2 => some (.xor, true)
  | 1, 3 => some (.andn, true)
  | 1, 4 => some (.not, false)
  | 1, 5 => some (.shl, true)
  | 1, 6 => some (.shr, true)
  | 1, 7 => some (.sar, true)
  | 1, 8 => some (.ror, true)
  | 6, 0 => some (.extu, true)
  | 6, 1 => some (.exts, true)
  | 6, 3 => some (.clz, false)
  | 6, 4 => some (.cls, false)
  | 6, 5 => some (.popc, false)
  | 6, 6 => some (.bswap, false)
  | 7, 0 => some (.crcb, true)
  | 7, 1 => some (.crcw, true)
  | 7, 2 => some (.crcbR, true)
  | 7, 3 => some (.crcwR, true)
  | 7, 4 => some (.parity, false)
  | 7, 5 => some (.bitrev, false)
  | 7, 6 => some (.bitrevn, true)
  | _, _ => none

/-- Major 0x04, func 0 to 7. -/
def cmpOf (fn : Nat) : Option CmpOp :=
  match fn with
  | 0 => some .eq
  | 1 => some .ne
  | 2 => some .lt
  | 3 => some .le
  | 4 => some .ltu
  | 5 => some .leu
  | 6 => some .tst
  | 7 => some .bit
  | _ => none

/-- Major 0x04, func 8 to 11. -/
def flagOf (fn : Nat) : Option FlagOp :=
  match fn with
  | 8 => some .fand
  | 9 => some .for_
  | 10 => some .fxor
  | 11 => some .fandn
  | _ => none

/-- Major 0x10 (Table 04-8). -/
def mulOf (fn : Nat) : Option MulOp :=
  match fn with
  | 0 => some .mul
  | 1 => some .mulu
  | 2 => some .mulsu
  | 3 => some .mulq
  | 4 => some .mul2h
  | _ => none

/-- Majors 0x11 and 0x12 on one accumulator (Table 04-9). -/
def macOf (mj fn : Nat) : Option MacOp :=
  match mj, fn with
  | 0x11, 0 => some .mac
  | 0x11, 1 => some .msu
  | 0x11, 2 => some .macu
  | 0x11, 3 => some .macsu
  | 0x11, 4 => some .macq
  | 0x11, 5 => some .msuq
  | 0x11, 6 => some .mulm
  | 0x11, 7 => some .mulqm
  | 0x11, 8 => some .mac2
  | 0x11, 9 => some .mac2q
  | 0x12, 0 => some .mac2h
  | 0x12, 1 => some .mac2hq
  | 0x12, 2 => some .msu2h
  | 0x12, 3 => some .mac2hx
  | 0x12, 4 => some .mac4h
  | 0x12, 5 => some .mac4hq
  | _, _ => none

/-- Comparison functions 7 to 10 of majors 0x14 and 0x16. -/
def fcmpOf (fn : Nat) : FCmp := if fn = 7 then .eq else if fn = 8 then .lt else if fn = 9 then .le else .un

/-- Arithmetic functions 0 to 4 of major 0x14. -/
def farithOf (fn : Nat) : FArith :=
  if fn = 0 then .add else if fn = 1 then .sub else if fn = 2 then .mul else if fn = 3 then .min else .max

/-- Loads of majors 0x08 and 0x0B by function. -/
def ldOf (n : Nat) : LdKind := if n = 0 then .w else if n = 1 then .h else if n = 2 then .hu else .bu

/-- Stores of majors 0x09 and 0x0B by function. -/
def stOf (n : Nat) : StKind := if n = 0 then .w else if n = 1 then .h else .b

/-- Is the number one of a control register (Tables 03-9, 06-7, 09-7), and may some level write it? -/
def ctlNumber (n : Nat) : Option Bool :=
  if n ≤ 3 ∨ n = 8 then some false
  else if n = 0x10 ∨ n = 0x11 ∨ (0x18 ≤ n ∧ n ≤ 0x1C) then some true
  else if 0x20 ≤ n ∧ n < 0x40 then (if n % 4 = 3 then none else some true)
  else if 0x40 ≤ n ∧ n ≤ 0x43 then some true
  else if n = 0x44 then some false
  else if n = 0x45 then some true
  else if 0x48 ≤ n ∧ n ≤ 0x50 then some true
  else if 0x80 ≤ n ∧ n ≤ 0x83 then some true
  else if 0xC0 ≤ n ∧ n ≤ 0xC6 then some true
  else if 0xC8 ≤ n ∧ n ≤ 0xE4 ∧ n % 8 ≤ 4 then some true
  else if 0x100 ≤ n ∧ n ≤ 0x103 then some true
  else if n = 0x104 ∨ n = 0x107 then some false
  else if 0x105 ≤ n ∧ n ≤ 0x109 then some true
  else if 0x10A ≤ n ∧ n ≤ 0x10F then some true
  else if 0x110 ≤ n ∧ n ≤ 0x119 then some false
  else none

/-- Decode a 32-bit operation (Tables 03-3, 03-5, 03-6); `t2` selects the Legacy T2 decoding of R131. -/
def dec32 (t2 : Bool) (w : Word) : Dec :=
  let mj := fld w 21 6
  let d := fld w 16 5
  let a := fld w 11 5
  let b := fld w 6 5
  let fn := fld w 1 5
  let imm := sfld w 3 8
  let fi := fld w 1 2
  let D := okD t2
  let A := okA t2
  let P := okP t2
  let M := okM t2
  let F := okF t2
  match mj with
  | 0x00 | 0x01 | 0x07 =>
    if t2 ∧ mj = 7 then .reserved
    else match aluOf mj fn with
      | some (op, ub) => okIf (D d && D a && (if ub then D b else decide (b = 0))) (.alu op d a b)
      | none => .reserved
  | 0x06 =>
    if fn = 2 then okIf (D d && D a && D b) (.ins d a b)
    else match aluOf mj fn with
      | some (op, ub) => okIf (D d && D a && (if ub then D b else decide (b = 0))) (.alu op d a b)
      | none => .reserved
  | 0x02 =>
    let op : AluOp := if fi = 0 then .add else if fi = 1 then .adds else if fi = 2 then .min else .max
    okIf (D d && D a) (.aluI op d a (BitVec.ofInt 32 imm))
  | 0x03 =>
    let i8 := fld w 3 8
    if fi = 0 then okIf (D d && D a) (.aluI .and d a (BitVec.ofInt 32 imm))
    else if fi = 1 then okIf (D d && D a) (.aluI .or d a (BitVec.ofInt 32 imm))
    else if fi = 2 then okIf (D d && D a && decide (i8 < 32)) (.aluI .shl d a (BitVec.ofNat 32 i8))
    else okIf (D d && D a && decide (i8 < 64))
      (.aluI (if i8.testBit 5 then .sar else .shr) d a (BitVec.ofNat 32 (i8 % 32)))
  | 0x04 =>
    match cmpOf fn, flagOf fn with
    | some c, _ => okIf (F d && D a && D b) (.cmp c d a b)
    | none, some g => okIf (F d && F a && F b) (.flag g d a b)
    | none, none => .reserved
  | 0x05 =>
    if bit w 15 then okIf (D d) (.movhi d (BitVec.ofNat 32 (fld w 1 14)))
    else okIf (D d) (.movi d (BitVec.ofInt 32 (sfld w 1 14)))
  | 0x08 => okIf (D d && A a) (.load (ldOf fi) d a (.off imm))
  | 0x09 => if fi = 3 then .reserved else okIf (D d && A a) (.store (stOf fi) d a (.off imm))
  | 0x0A =>
    let m : AMode := if imm = 0 then .pre else .post imm
    if fi = 0 then okIf (D d && A a) (.load .w d a m)
    else if fi = 1 then okIf (D d && A a) (.store .w d a m)
    else if fi = 2 then okIf (D d && A a) (.load .h d a m)
    else okIf (D d && A a) (.store .h d a m)
  | 0x0B =>
    let g := fn / 4
    let m : AMode := .idx b (fn % 4)
    if g ≤ 3 then okIf (D d && A a && A b) (.load (ldOf g) d a m)
    else if g ≤ 6 then okIf (D d && A a && A b) (.store (stOf (g - 4)) d a m)
    else okIf (D d && A a && A b) (.load .bs d a m)
  | 0x0C =>
    let cm := fld w 19 2
    let dd := fld w 16 3
    if fi = 0 then okIf (A a) (.load .w dd a (.circ imm cm))
    else if fi = 1 then okIf (A a) (.store .w dd a (.circ imm cm))
    else if fi = 2 then okIf (A a) (.load .w dd a (.brev imm cm))
    else okIf (A a) (.store .w dd a (.brev imm cm))
  | 0x0D =>
    if fi = 0 then okIf (M d && A a) (.store .acc d a (.off imm))
    else if fi = 1 then okIf (M d && A a) (.load .acc d a (.off imm))
    else if fi = 2 then okIf (M d && A a) (.store .acc d a (.post imm))
    else okIf (M d && A a) (.load .acc d a (.post imm))
  | 0x0E =>
    if fi = 0 then okIf (P d && A a) (.load .dbl d a (.off imm))
    else if fi = 1 then okIf (P d && A a) (.store .dbl d a (.off imm))
    else if t2 then .reserved
    else if fi = 2 then okIf (P d && A a) (.load .fw d a (.off imm))
    else okIf (P d && A a) (.store .fn d a (.off imm))
  | 0x10 =>
    match mulOf fn with
    | some op => okIf ((if t2 then P d else okMP t2 d) && D a && D b) (.mul op d a b)
    | none => .reserved
  | 0x11 | 0x12 =>
    if t2 ∧ mj = 0x12 then .reserved
    else if mj = 0x11 ∧ (fn = 10 ∨ fn = 11) then
      okIf (M d && decide (d % 2 = 0) && P a && P b) (.macd (decide (fn = 11)) d a b)
    else match macOf mj fn with
      | some op => okIf (M d && (if op.pairs then P a && P b else D a && D b)) (.mac op d a b)
      | none => .reserved
  | 0x13 =>
    match fn with
    | 0 => okIf (M d && decide (a = 0) && decide (b = 0)) (.mclr d)
    | 1 => okIf (M d && D a && decide (b = 0)) (.movdm d a)
    | 2 => okIf (M d && P a && decide (b = 0)) (.movddm d a)
    | 3 | 4 | 5 => okIf (D d && M a && decide (b = 0)) (.movmd (fn - 3) d a)
    | 6 => okIf (D d && M a && D b) (.ext d a b)
    | 7 => okIf (D d && M a) (.exti d a b)
    | 8 => okIf (D d && M a) (.exti d a (32 + b))
    | 9 => okIf (M d && okMP t2 a && decide (b = 0)) (.movpm d a)
    | 10 => okIf (P d && okMP t2 a && decide (b = 0)) (.movpd d a)
    | 11 => okIf (M d && okMP t2 a && decide (b = 0)) (.macp d a)
    | 12 => okIf (M d && M a && decide (b = 0)) (.madd d a)
    | 13 => okIf (M d && decide (a = 0)) (.mshr d b)
    | 14 => okIf (M d && decide (a = 0) && decide (b = 0)) (.mneg d)
    | _ => .reserved
  | 0x14 =>
    if fn ≤ 4 then okIf (D d && D a && D b) (.farith false (farithOf fn) d a b)
    else if fn ≤ 6 then okIf (D d && D a && decide (b = 0)) (.fsign (decide (fn = 6)) d a)
    else if fn ≤ 10 then okIf (F d && D a && D b) (.fcmp false (fcmpOf fn) d a b)
    else .reserved
  | 0x15 =>
    if fn = 0 then okIf (D d && D a && D b) (.ffma false .madd d a b)
    else if fn = 1 then okIf (D d && D a && D b) (.ffma false .msub d a b)
    else if fn = 2 then okIf (D d && D a && D b) (.ffma false .nmadd d a b)
    else .reserved
  | 0x16 =>
    if t2 then .reserved
    else if fn ≤ 2 then okIf (P d && P a && P b) (.farith true (farithOf fn) d a b)
    else if fn = 3 then okIf (P d && P a && P b) (.ffma true .madd d a b)
    else if fn = 4 then okIf (P d && P a && P b) (.ffma true .msub d a b)
    else if fn = 5 then okIf (P d && P a && P b) (.farith true .min d a b)
    else if fn = 6 then okIf (P d && P a && P b) (.farith true .max d a b)
    else if fn ≤ 10 then okIf (F d && P a && P b) (.fcmp true (fcmpOf fn) d a b)
    else .reserved
  | 0x17 =>
    if t2 ∧ 6 ≤ fn ∧ fn ≤ 9 then .reserved
    else
      let z := decide (b = 0)
      match fn with
      | 0 => okIf (D d && D a && z) (.fcvt .ftoi d a 0)
      | 1 => okIf (D d && D a && z) (.fcvt .ftou d a 0)
      | 2 => okIf (D d && D a && z) (.fcvt .itof d a 0)
      | 3 => okIf (D d && D a && z) (.fcvt .utof d a 0)
      | 4 => okIf (D d && D a) (.fcvt .ftox d a b)
      | 5 => okIf (D d && D a) (.fcvt .xtof d a b)
      | 6 => okIf (D d && P a && z) (.fcvt .dtof d a 0)
      | 7 => okIf (P d && D a && z) (.fcvt .ftod d a 0)
      | 8 => okIf (D d && P a && z) (.fcvt .dtoi d a 0)
      | 9 => okIf (P d && D a && z) (.fcvt .itod d a 0)
      | 10 => okIf (D d && D a && z) (.fcvt .frnd d a 0)
      | _ => .reserved
  | 0x18 => .ok (.branch (.rel (2 * sfld w 1 20)) false false)
  | 0x19 => .ok (.branch (.rel (2 * sfld w 1 20)) false true)
  | 0x1A => .ok (.branch (.rel (2 * sfld w 1 20)) true false)
  | 0x1B => .ok (.branch (.rel (2 * sfld w 1 20)) true true)
  | 0x1C =>
    let z := decide (d = 0) && decide (b = 0)
    match fn with
    | 0 => okIf (z && decide (a = 0)) (.branch .link false false)
    | 1 => okIf (z && decide (a = 0)) (.branch .link false true)
    | 2 => okIf (z && A a) (.branch (.reg a) false false)
    | 3 => okIf (z && A a) (.branch (.reg a) false true)
    | 4 => okIf (z && A a) (.branch (.reg a) true false)
    | 5 => okIf (z && A a) (.branch (.reg a) true true)
    | _ => .reserved
  | 0x1D =>
    let lvl := fld w 16 2
    let kind := fld w 18 3
    if lvl = 3 ∨ 2 < kind then .reserved
    else if kind = 0 then okIf (D (fld w 11 5)) (.loopR lvl (fld w 11 5) (fld w 1 10))
    else if kind = 1 then .ok (.loopI lvl (fld w 10 6 + 1) (fld w 1 9))
    else okIf (decide (fld w 1 15 = 0)) (.loopOff lvl)
  | 0x1E =>
    if fi = 0 then okIf (A d && A a) (.adda d a (BitVec.ofInt 32 imm))
    else if fi = 1 then okIf (A d && A a) (.adda d a (BitVec.ofInt 32 (4 * imm)))
    else if fi = 2 then okIf (A d && D a) (.movad d a (BitVec.ofInt 32 imm))
    else okIf (D d && A a) (.movda d a (BitVec.ofInt 32 imm))
  | 0x1F =>
    if t2 ∨ 7 < fn then .reserved
    else if fn ≤ 4 then okIf (D d && D a && D b) (.long fn d a b)
    else if fn = 5 then okIf (D d && D a && decide (b = 0)) (.long fn d a b)
    else if fn = 6 then okIf (P d && P a && P b) (.long fn d a b)
    else okIf (P d && P a && decide (b = 0)) (.long fn d a b)
  | 0x20 =>
    let num := fld w 11 10
    if 3 < fn then .reserved
    else match ctlNumber num with
      | some wr => okIf (D b && (decide (fn = 0) || wr)) (.movc fn num b)
      | none => .bad
  | 0x21 =>
    let num := fld w 11 10
    match fn with
    | 0 => okIf (decide (num < 256) && decide (b = 0)) (.waitt num)
    | 1 => okIf (decide (num = 0) && F b) (.syncw b)
    | 2 => okIf (decide (num = 0) && decide (b = 0)) .lbar
    | 3 => okIf (decide (b = 0)) (.gate num)
    | 4 => okIf (decide (num = 0) && decide (b = 0)) .rfe
    | 5 => okIf (decide (num = 0) && D b) (.setmode b)
    | 6 => okIf (decide (b = 0)) (.trap num)
    | _ => .reserved
  | _ => .reserved

/-- Decode a 16-bit operation (Tables 03-4, 03-5, 03-8). -/
def dec16 (w : Word) : Dec :=
  let oc := fld w 8 5
  let d := fld w 5 3
  let a := fld w 2 3
  let g := bit w 1
  let i4 := fld w 1 4
  match oc with
  | 0x00 => .ok .nop
  | 0x01 => .ok (.alu (if g then .sub else .add) d d a)
  | 0x02 => .ok (.alu (if g then .or else .and) d d a)
  | 0x03 => if g then .ok (.aluI .or d a 0) else .ok (.alu .xor d d a)
  | 0x04 => .ok (.aluI .add d d (BitVec.ofInt 32 (sfld w 1 4)))
  | 0x05 => .ok (.aluI .shl d d (BitVec.ofNat 32 i4))
  | 0x06 => .ok (.aluI .sar d d (BitVec.ofNat 32 i4))
  | 0x07 => .ok (.aluI .shr d d (BitVec.ofNat 32 i4))
  | 0x08 => .ok (.cmp (if g then .lt else .eq) 1 d a)
  | 0x09 => .ok (if g then .store .w d a (.post 1) else .load .w d a (.post 1))
  | 0x0A => .ok (if g then .store .h d a (.post 1) else .load .h d a (.post 1))
  | 0x0B => .ok (if g then .store .w d a (.off 0) else .load .w d a (.off 0))
  | 0x0C => .ok (.mac .mac (b2n g) d a)
  | 0x0D => .ok (.mac .mac2h (b2n g) d a)
  | 0x0E => .ok (.branch (.rel (2 * sfld w 1 7)) false false)
  | 0x0F => .ok (.branch (.rel (2 * sfld w 1 7)) false true)
  | 0x10 => .ok (.branch .link false false)
  | _ => .reserved

/-- An operation of a bundle as fetched: its size in bytes and its word. -/
structure RawOp where
  size : Nat
  word : Word
  deriving DecidableEq, Repr

/-- The end bit. -/
def RawOp.last (o : RawOp) : Bool := if o.size = 4 then bit o.word 31 else bit o.word 15

/-- The long operation that a class X word of T2 is (R131), by its function in Table 04-14. A word whose function Tables 04-2 to 04-6 list
keeps its meaning. -/
def t2LongOf (w : Word) : Option Nat :=
  match dec32 true w with
  | .reserved => if fld w 21 6 < 7 then (Config.t2Long (fld w 21 6) (fld w 1 5)).map (fun f => f.val) else none
  | _ => none

/-- The slot class; a long operation of T2 issues in S (R131). -/
def RawOp.cls (t2 : Bool) (o : RawOp) : SlotCls :=
  if o.size = 4 then (if t2 && (t2LongOf o.word).isSome then .s else majorCls (fld o.word 21 6)) else shortCls (fld o.word 8 5)

/-- The flag that the condition names, and whether it is negated (R105). -/
def RawOp.cond (o : RawOp) : Nat × Bool :=
  if o.size = 4 then (fld o.word 27 3, bit o.word 30) else (fld o.word 13 2, false)

/-- Decode an operation; Legacy T2 has no 16-bit operation, no flag beyond F3, and its own encodings of long operations (R131). It
lacks the 16-bit operations, majors and functions whatever the condition is; a register number or a flag beyond the T2 range is illegal
where the condition on the flag as stored is true (DEDUCED, log entry 33). -/
def RawOp.dec (t2 : Bool) (o : RawOp) : Dec :=
  if o.size = 4 then
    let x := match dec32 t2 o.word, (if t2 then t2LongOf o.word else none) with
      | _, some fn => if okD t2 (fld o.word 16 5) && okD t2 (fld o.word 11 5) && (if fn = 5 then decide (fld o.word 6 5 = 0) else okD t2 (fld o.word 6 5)) then
          Dec.ok (.long fn (fld o.word 16 5) (fld o.word 11 5) (fld o.word 6 5)) else .bad
      | r, none => r
    match x with
    | .ok op => if okF t2 o.cond.1 then .ok op else .bad
    | r => r
  else if t2 then .reserved
  else dec16 o.word

/-- Slots of a class (R101): L0, L1 are 0, 1; M0s, M1s are 2, 3; X0, X1 are 4, 5; B is 6; S is 7. -/
def SlotCls.slots : SlotCls → List Nat
  | .l => [0, 1]
  | .m => [2, 3]
  | .x => [4, 5]
  | .b => [6]
  | .s => [7]
  | .none => []

/-- Assign slots in bundle order from those free (R101, R102, R219): one entry per operation, or none when a class has not
enough. Operations without a class get the number 8. -/
def assignSlots (t2 : Bool) : List RawOp → List Nat → Option (List Nat)
  | [], _ => some []
  | o :: os, busy =>
    if o.cls t2 = .none then (assignSlots t2 os busy).map (8 :: ·)
    else match (o.cls t2).slots.find? (fun x => !busy.contains x) with
      | none => none
      | some x => (assignSlots t2 os (x :: busy)).map (x :: ·)

/-- Does the operation keep its slot busy for 2 CCLK (Table 04-1)? -/
def TOp.busy2 : TOp → Bool
  | .farith dbl _ _ _ _ => dbl
  | .fcmp dbl _ _ _ _ => dbl
  | .ffma dbl _ _ _ _ => dbl
  | .fcvt op _ _ _ => op = .dtof || op = .ftod || op = .dtoi || op = .itod
  | _ => false

/-- Is the operation of the MAC family or a MUL (Table 10-3, detector 4)? -/
def TOp.product : TOp → Bool
  | .mul _ _ _ _ => true
  | .mac _ _ _ _ => true
  | .macd _ _ _ _ => true
  | .macp _ _ => true
  | .madd _ _ => true
  | .mneg _ => true
  | _ => false

/-- The D registers an operation reads. -/
def TOp.readsD : TOp → List Nat
  | .alu op _ a b =>
    if op = .abs || op = .negs || op = .not || op = .clz || op = .cls || op = .popc || op = .bswap || op = .parity ||
      op = .bitrev then [a] else [a, b]
  | .aluI _ _ a _ => [a]
  | .ins d a b => [d, a, b]
  | .movhi d _ => [d]
  | .cmp _ _ a b => [a, b]
  | .store k d _ _ =>
    match k with
    | .acc => []
    | .dbl => [d, d + 1]
    | .fn => [d, d + 1]
    | _ => [d]
  | .mul _ _ a b => [a, b]
  | .mac op _ a b => if op.pairs then [a, a + 1, b, b + 1] else [a, b]
  | .macd _ _ a b => [a, a + 1, b, b + 1]
  | .movdm _ a => [a]
  | .movddm _ a => [a, a + 1]
  | .ext _ _ b => [b]
  | .farith dbl _ _ a b => if dbl then [a, a + 1, b, b + 1] else [a, b]
  | .fsign _ _ a => [a]
  | .fcmp dbl _ _ a b => if dbl then [a, a + 1, b, b + 1] else [a, b]
  | .ffma dbl _ d a b => if dbl then [d, d + 1, a, a + 1, b, b + 1] else [d, a, b]
  | .fcvt op _ a _ => if op = .dtof || op = .dtoi then [a, a + 1] else [a]
  | .loopR _ x _ => [x]
  | .movad _ a _ => [a]
  | .long fn _ a b => if fn = 5 then [a] else if fn = 6 then [a, a + 1, b, b + 1] else if fn = 7 then [a, a + 1] else [a, b]
  | .movc fn _ r => if fn = 0 then [] else [r]
  | .setmode r => [r]
  | _ => []

/-- The D registers an operation writes. -/
def TOp.writesD (t2 : Bool) : TOp → List Nat
  | .alu _ d _ _ => [d]
  | .aluI _ d _ _ => [d]
  | .ins d _ _ => [d]
  | .movi d _ => [d]
  | .movhi d _ => [d]
  | .load k d _ _ =>
    match k with
    | .acc => []
    | .dbl => [d, d + 1]
    | .fw => [d, d + 1]
    | _ => [d]
  | .mul _ d _ _ => if t2 then [d, d + 1] else []
  | .movmd _ d _ => [d]
  | .ext d _ _ => [d]
  | .exti d _ _ => [d]
  | .movpd d _ => [d, d + 1]
  | .farith dbl _ d _ _ => if dbl then [d, d + 1] else [d]
  | .fsign _ d _ => [d]
  | .ffma dbl _ d _ _ => if dbl then [d, d + 1] else [d]
  | .fcvt op d _ _ => if op = .ftod || op = .itod then [d, d + 1] else [d]
  | .movda d _ _ => [d]
  | .long fn d _ _ => if 6 ≤ fn then [d, d + 1] else [d]
  | .movc fn _ r => if fn = 0 then [r] else []
  | _ => []

/-- Does the operation read a register other than a D register or a flag: an A register, an accumulator or a product? -/
def TOp.readsOther : TOp → Bool
  | .load _ _ _ _ => true
  | .store _ _ _ _ => true
  | .mac op _ _ _ => !op.fromZero
  | .macd _ _ _ _ => true
  | .movmd _ _ _ => true
  | .ext _ _ _ => true
  | .exti _ _ _ => true
  | .movpm _ _ => true
  | .movpd _ _ => true
  | .macp _ _ => true
  | .madd _ _ => true
  | .mshr _ _ => true
  | .mneg _ => true
  | .branch t _ _ => match t with | .rel _ => false | _ => true
  | .adda _ _ _ => true
  | .movda _ _ _ => true
  | .flag _ _ _ _ => true
  | _ => false

/-- Does the operation read a register (R452)? -/
def TOp.readsReg (o : TOp) : Bool := !o.readsD.isEmpty || o.readsOther

end Sys2Proof.Machine
end

