-- ==== Sys2Proof/Machine/Fetch.lean ====
section
/-! DEFINITION. A core thread's view of its registers, the segment checks, fetch, and the parsing and static checks of a
bundle (spec/03_tuitin_model.md, spec/05_core_pipeline.md). -/

namespace Sys2Proof.Machine

/-! ## Registers as a bundle sees them (R194) -/

/-- D register n. -/
def Thread.dr (th : Thread) (n : Nat) : Word := smGet (fun _ => 0) th.d n

/-- A register n. -/
def Thread.ar (th : Thread) (n : Nat) : Word := smGet (fun _ => 0) th.a n

/-- The pair of D registers n and n + 1. -/
def Thread.dp (th : Thread) (n : Nat) : BitVec 64 := BitVec.ofNat 64 ((th.dr n).toNat + (th.dr (n + 1)).toNat * 2 ^ 32)

/-- Accumulator n. -/
def Thread.mr (th : Thread) (n : Nat) : BitVec 80 := smGet (fun _ => 0) th.m n

/-- Product register n. -/
def Thread.mpr (th : Thread) (n : Nat) : BitVec 64 := smGet (fun _ => 0) th.mp n

/-- Flag n; F0 is 1 (R91). -/
def Thread.fr (th : Thread) (n : Nat) : Bool := decide (n = 0) || th.f.getLsbD n

/-- Make a result write. -/
def Thread.write (th : Thread) : RegW → Thread
  | .d n v => { th with d := smSet (fun _ => 0) th.d n v }
  | .a n v => { th with a := smSet (fun _ => 0) th.a n v }
  | .m n v _ => { th with m := smSet (fun _ => 0) th.m n v }
  | .mp n v => { th with mp := smSet (fun _ => 0) th.mp n v }
  | .f n v => if n = 0 then th else
      { th with f := if v then th.f ||| BitVec.ofNat 8 (2 ^ n) else th.f &&& ~~~(BitVec.ofNat 8 (2 ^ n)) }
  | .mst mask => th.setCreg 0x11 (th.creg 0x11 ||| mask)
  | .fst mask => th.setCreg 0x10 (th.creg 0x10 ||| mask)

/-- Insert a result so that results stay ordered by CCLK, later issues after earlier ones (R104). -/
def insPend (p : PendW) : List PendW → List PendW
  | [] => [p]
  | q :: qs => if p.due < q.due then p :: q :: qs else q :: insPend p qs

/-- Add a result in flight. -/
def Thread.push (th : Thread) (due : Nat) (w : RegW) : Thread := { th with pend := insPend { due := due, w := w } th.pend }

/-- Results due by a CCLK are seen from it (R194). -/
def settle (clk : Nat) (th : Thread) : Thread :=
  let th1 := (th.pend.filter (fun p => decide (p.due ≤ clk))).foldl (fun t p => t.write p.w) th
  { th1 with pend := th.pend.filter (fun p => decide (clk < p.due)) }

/-- Every result in flight completes (R196). -/
def settleAll (th : Thread) : Thread := { th.pend.foldl (fun t p => t.write p.w) th with pend := [] }

/-! ## The core's configuration -/

/-- Profile of slot k: 0 Native, 1 Deterministic, 2 Legacy T2. -/
def State.profile (s : State) (k : Nat) : Nat := legal 10 3 (fld (s.reg (aCorePipeCfg k)) 0 2)

/-- Is the slot's profile Legacy T2? -/
def State.isT2 (s : State) (k : Nat) : Bool := decide (s.profile k = 2)

/-- Is the slot's profile Deterministic? -/
def State.isDet (s : State) (k : Nat) : Bool := decide (s.profile k = 1)

/-- Is an address in the data memory or I-TCM of slot k, however addressed: plainly, by a mirror (R319), or through the window of the own
member (R297)? -/
def State.isOwn (s : State) (k a : Nat) : Bool :=
  match s.decodeAddr a with
  | .mem r _ => decide (r.slot? = some k)
  | .mirror _ r _ => decide (r.slot? = some k)
  | _ => false

/-- Is it in the I-TCM of slot k? -/
def State.isOwnItcm (s : State) (k a : Nat) : Bool :=
  match s.decodeAddr a with
  | .mem r _ => decide (r = .itcm k)
  | .mirror _ r _ => decide (r = .itcm k)
  | _ => false

/-- Where an access of a core goes: its own local memory, an access there that fails, or the fabric. -/
inductive Place where
  | own (t : Target)
  | ownFail
  | far
  deriving DecidableEq, Repr

/-- The place of n bytes at a physical address for slot k (R152, R297, R320). -/
def State.placeOf (s : State) (k : Nat) (store : Bool) (a n : Nat) : Place :=
  match s.decodeAddr a with
  | .mem r b => if r.slot? = some k then (if b + n ≤ localBase k + 0x40000 then .own (.mem r b) else .ownFail) else .far
  | .mirror set r b =>
    if r.slot? = some k then
      (if b + n ≤ localBase k + 0x40000 ∧ (store = false ∨ n = 4) then .own (.mirror set r b) else .ownFail)
    else .far
  | _ => .far

/-- Is an access cacheable (R228)? `en` is the cache's enable bit of CORE_CACHE_CFG. -/
def State.cacheable (s : State) (k en a : Nat) : Bool :=
  let c := s.reg (aCoreCacheCfg k)
  !s.isDet k && bit c en && decide (a < 2 ^ 38) &&
  (match regionOf a with
   | some .reservoir => bit c 4
   | some (.shared _) => bit c 5
   | some .ddr => bit c 6
   | _ => false)

/-- Does CCLK of slot k run (R634, R650): its cluster ON and the PLL of its operating point locked? -/
def State.cclkRuns (s : State) (k : Nat) : Bool :=
  let op := fld (s.reg (aCkpClOp (k / 9))) 8 3
  decide (fld (s.reg aCkpClPwr) (2 * (k / 9)) 2 = 0) && s.locked (if op = 2 ∨ op = 5 then 1 else 0)

/-- May threads of slot k issue: slot in service and not fenced, its clock running, in a mode that runs cores (Table 17-5)?
SHORE, HALT and the entry to a low-power mode stop a partition's cores at its frame compare fire (R653, R654, R666). -/
def State.coreRuns (s : State) (k : Nat) : Bool :=
  s.inService k && !(s.core k).fenced && s.cclkRuns k &&
  (match s.pwr.mode with
   | .run => true
   | .neap => true
   | .degraded => true
   | .shore => true
   | .halt => true
   | _ => false)

/-! ## Segment checks (Table 03-13) -/

/-- A segment or shadow-stack register as the next bundle's checks see it (R113). -/
def Thread.segc (th : Thread) (n : Nat) : Word :=
  match th.ctlOld.find? (fun e => decide (e.1 = n)) with
  | some e => e.2
  | none => th.creg n

/-- The outcome of the checks. -/
inductive AddrRes where
  | ok (pa : Nat)
  | seg
  | align
  deriving DecidableEq, Repr

/-- Checks 2 to 8 for n bytes at ea: `right` is the SEGn_CTL bit needed, `shs` the shadow-stack bit required. -/
def addrCheck (th : Thread) (land sup : Bool) (right : Nat) (shs : Bool) (algn n : Nat) (ea : Word) : AddrRes :=
  let g := fld ea 29 3
  let c := th.segc (0x21 + 4 * g)
  let base := fld (th.segc (0x20 + 4 * g)) 3 29 * 8 + fld c 0 12 * 2 ^ 32
  let off := fld ea 0 29
  let lim := fld (th.segc (0x22 + 4 * g)) 0 29
  if bit c 16 = false then .seg
  else if land = false ∧ bit c 20 = false then .seg
  else if sup = false ∧ bit c 21 = true then .seg
  else if bit c right = false ∨ bit c 22 ≠ shs then .seg
  else if off % algn ≠ 0 then .align
  else if lim < off + n - 1 then .seg
  else if 2 ^ 44 - 1 < base + off + n - 1 then .seg
  else .ok (base + off)

/-- The checks of a thread in its present world and level. -/
def Thread.check (th : Thread) (right : Nat) (shs : Bool) (algn n : Nat) (ea : Word) : AddrRes :=
  addrCheck th th.land (decide (th.level ≠ 0)) right shs algn n ea

/-! ## Caches (Table 05-9) -/

/-- The line of an address in a cache. -/
def findLine (c : List Line) (ln : Nat) : Option Line := c.find? (fun x => decide (x.line = ln))

/-- A use of a line makes it the most recent. -/
def touchLine (ln : Nat) (c : List Line) : List Line :=
  match findLine c ln with
  | some x => x :: c.filter (fun y => decide (y.line ≠ ln))
  | none => c

/-- Remove the least recently used line of a set that holds 4 (Table 05-9). -/
def evict (set : Nat) (c : List Line) : List Line :=
  let mine := c.filter (fun x => decide (x.line % 64 = set))
  if mine.length < 4 then c
  else match mine.getLast? with
    | some v => c.filter (fun x => decide (x.line ≠ v.line))
    | none => c

/-- Install a line. -/
def installLine (x : Line) (c : List Line) : List Line := x :: evict (x.line % 64) (c.filter (fun y => decide (y.line ≠ x.line)))

/-! ## Code -/

/-- A 32-byte block of code: at hand, to be fetched, or its fetch has failed. -/
inductive CodeAt where
  | have_ (bs : List Byte)
  | miss (a : Nat)
  | bad (a : Nat)
  deriving DecidableEq, Repr

/-- The block of a physical address for thread `th` of slot k: own local memory (R200), a block that has arrived, or the I-cache. -/
def State.codeAt (s : State) (k : Nat) (th : Thread) (a : Nat) : CodeAt :=
  let b := a / 32 * 32
  if s.isOwn k a then .have_ (s.bytes (s.plain b) 32)
  else
    match th.fetched.find? (fun f => decide (f.line = a / 64)) with
    | some f =>
      (match f.bad with
       | some x => .bad x
       | none => .have_ ((f.data.drop (b % 64)).take 32))
    | none =>
      if s.cacheable k 0 a then
        match findLine (s.core k).icache (a / 64) with
        | some x => .have_ ((x.data.drop (b % 64)).take 32)
        | none => .miss a
      else .miss a

/-- What bytes spell from the beginning of a bundle (R98, R99): its operations and length; not yet its end; or no end within 8
operations, which take so many bytes. -/
inductive Cut where
  | ok (ops : List RawOp) (len : Nat)
  | more
  | illegal (len : Nat)
  deriving DecidableEq, Repr

/-- Cut a bundle of at most n more operations from bytes. -/
def cutOps : Nat → List Byte → List RawOp → Nat → Cut
  | 0, _, _, len => .illegal len
  | n + 1, bs, acc, len =>
    match bs with
    | b0 :: b1 :: r =>
      let h := b0.toNat + 256 * b1.toNat
      if h % 2 = 0 then
        let o : RawOp := { size := 2, word := BitVec.ofNat 32 h }
        if o.last then .ok (acc ++ [o]) (len + 2) else cutOps n r (acc ++ [o]) (len + 2)
      else
        (match r with
         | b2 :: b3 :: r2 =>
           let o : RawOp := { size := 4, word := BitVec.ofNat 32 (h + 2 ^ 16 * (b2.toNat + 256 * b3.toNat)) }
           if o.last then .ok (acc ++ [o]) (len + 4) else cutOps n r2 (acc ++ [o]) (len + 4)
         | _ => .more)
    | _ => .more

/-- The bundle that bytes begin. -/
def cut (bs : List Byte) : Cut := cutOps 8 bs [] 0

/-- A bundle as the issue finds it, or why there is none: its operations and length; a segment fault at an address; a profile fault;
not there yet; read through a mapping that no longer holds; a failed fetch; no bundle (R99). -/
inductive Parsed where
  | ok (ops : List RawOp) (len : Nat)
  | seg (a : Word)
  | prof
  | wait
  | stale
  | bad (a : Nat)
  | illegal
  deriving DecidableEq, Repr

/-- The physical address of one half-word of a bundle that begins at pc (R116), or none. -/
def parcel (th : Thread) (land sup : Bool) (pc : Word) (off : Nat) : Option Nat :=
  let a := pc + BitVec.ofNat 32 off
  if fld a 29 3 ≠ fld pc 29 3 then none
  else match addrCheck th land sup 19 false 1 2 a with
    | .ok pa => some pa
    | _ => none

/-- Judge a fetched bundle in a world and privilege: the segment checks of every byte first (Table 06-11), then the profile, then whether
its fetch failed, then whether it is a bundle. -/
def State.judge (s : State) (k : Nat) (th : Thread) (land sup : Bool) (e : FqEnt) : Parsed :=
  let c := cut e.data
  let len := match c with
    | .ok _ n => n
    | .more => e.data.length / 2 * 2 + 2
    | .illegal n => n
  let offs := (List.range (len / 2)).map (fun i => 2 * i)
  match offs.find? (fun o => (parcel th land sup e.pc o).isNone) with
  | some o => .seg (e.pc + BitVec.ofNat 32 o)
  | none =>
    if offs.any (fun o => decide (parcel th land sup e.pc o ≠ some (e.pa + o))) then .stale
    else if s.isDet k ∧ offs.any (fun o => !s.isOwnItcm k (e.pa + o)) = true then .prof
    else
      match e.bad, c with
      | some x, _ => .bad x
      | none, .ok ops n => if e.pc.getLsbD 0 then .illegal else .ok ops n
      | none, .more => .stale
      | none, .illegal _ => .illegal

/-- The bundle that a thread would issue, or pass over, in a CCLK (R201, R216): the oldest of its fetch queue, once it is in D. -/
def State.headAt (s : State) (k : Nat) (th : Thread) (clk : Nat) : Parsed :=
  match th.fq.head? with
  | some e => if e.pc = th.pc ∧ e.at_ ≤ clk then s.judge k th th.land (decide (th.level ≠ 0)) e else .wait
  | none => .wait

/-- The bytes of code at a physical address as they stand now, whatever the fetch unit holds: to know how long a bundle is that it has
not fetched. None for code of another member that is not at hand. -/
def State.peekCode (s : State) (k : Nat) (th : Thread) (a : Nat) : Option (List Byte) :=
  match s.codeAt k th a, s.codeAt k th (a + 32) with
  | .have_ x, .have_ y => some ((x ++ y).drop (a % 32))
  | _, _ =>
    match s.access false false a 2 with
    | .mem _ b => some (s.bytes b 32)
    | .mirror _ _ b => some (s.bytes b 32)
    | _ => none

/-- A bundle of which nothing is known but its address, and the CCLK from which it may issue. -/
def FqEnt.of (pc : Word) (at_ : Nat) : FqEnt :=
  { pc := pc, pa := 0, data := [], bad := none, at_ := at_, next := none, hit := false, pred := none, delay := false, back := none, lines := []
    loop := false }

/-- The bundle at an address of a thread as code stands now; none where nothing tells. -/
def State.peek? (s : State) (k : Nat) (th : Thread) (pc : Word) : Option Cut :=
  match th.fq.find? (fun e => decide (e.pc = pc)) with
  | some e => some (cut e.data)
  | none =>
    match th.check 19 false 1 2 pc with
    | .ok pa => (s.peekCode k th pa).map cut
    | _ => none

/-- The address after the bundle at an address, where it can be told. -/
def State.after? (s : State) (k : Nat) (th : Thread) (pc : Word) : Option Word :=
  match s.peek? k th pc with
  | some (.ok _ len) => some (pc + BitVec.ofNat 32 len)
  | _ => none

/-- The address after the bundle at an address that a LOOP of 0 iterations passes over (R176), where it can be told now and the bundle passes
the checks of its fetch (R99, R116, R235). -/
def State.past? (s : State) (k : Nat) (th : Thread) (pc : Word) : Option Word :=
  let known := match th.fq.find? (fun e => decide (e.pc = pc)) with
    | some e => some e
    | none =>
      match th.check 19 false 1 2 pc with
      | .ok pa => (s.peekCode k th pa).map (fun bs => { FqEnt.of pc 0 with pa := pa, data := bs })
      | _ => none
  match known with
  | none => none
  | some e =>
    match s.judge k th th.land (decide (th.level ≠ 0)) e with
    | .ok _ len => some (pc + BitVec.ofNat 32 len)
    | _ => none

/-- Requests of slot k that hold one of its 16 fabric tags (Table 01-7, R27). A slot that has replaced others uses their tags (R28). -/
def State.tagsUsed (s : State) (k : Nat) : Nat :=
  let js := k :: (match s.lcoreOf k with | some l => (s.lc l).olds | none => [])
  (s.memc.reqs.filter (fun q => match q.ini with | .core j _ => js.contains j.val | _ => false)).length

/-- Begin the fetch of the line of a missing address (R200); none where every tag is taken. A checker makes no far access of its own (R440):
it takes the line from its lead, as the lead has asked for it or holds it, or as it stands in memory where the lead has used it already. -/
def beginFetch (k : Fin 144) (t : Fin 4) (a clk : Nat) (s : State) : Option State :=
  let th := s.thread k t
  let cach := s.cacheable k 0 a
  let ln := a / 64
  let s1 := if cach then s.count k (aCoreIcMiss k) 1 clk else s
  match s.leadOf k with
  | some q =>
    let lt := s.thread q t
    (match lt.fetch.find? (fun f => decide (f.line = ln)) with
     | some f => some (s1.setThread k t { th with fetch := th.fetch ++ [{ id := f.id, line := ln, inst := cach, live := true }] })
     | none =>
       let held := ((lt.fetched.filter (fun f => decide (f.line = ln) && f.bad.isNone)).map (fun f => f.data)) ++
         (((s.core q).icache.filter (fun x => decide (x.line = ln))).map (fun x => x.data))
       match held, s.access false false (ln * 64) 64 with
       | b :: _, _ => some (s1.setThread k t { th with fetched := th.fetched ++ [{ line := ln, data := b, bad := none }] })
       | [], .mem r b => some (s1.setThread k t { th with fetched := th.fetched ++ [{ line := ln, data := s.loadAt (.mem r b) 64, bad := none }] })
       | [], _ => none)
  | none =>
    if 16 ≤ s.tagsUsed k then none
    else
      let r := s1.request (.core k t) .fetch (ln * 64) 64 [] th.cst
      some (r.1.setThread k t { th with fetch := th.fetch ++ [{ id := r.2, line := ln, inst := cach, live := true }] })

/-! ## Static checks of a bundle -/

/-- Is a raw operation of major 0x21 with a function of the list? -/
def RawOp.sys (o : RawOp) (fns : List Nat) : Bool :=
  decide (o.size = 4) && decide (fld o.word 21 6 = 0x21) && fns.contains (fld o.word 1 5)

/-- Does the bundle raise the illegal-bundle exception (R101, R174, R283)? -/
def illegalBundle (t2 : Bool) (th : Thread) (ops : List RawOp) : Bool :=
  (assignSlots t2 ops []).isNone ||
  (th.delay.isSome && ops.any (fun o => decide (o.cls t2 = .b) || o.sys [3, 4])) ||
  ((match th.shadow with | some x => x.gate.isSome | none => false) &&
    ops.any (fun o => decide (o.cls t2 = .b) || o.sys [3, 4, 5]))

/-- Is the operation's condition true (R105)? -/
def Thread.cond (th : Thread) (o : RawOp) : Bool := let c := o.cond; (th.fr c.1) != c.2

/-- Does the bundle raise the illegal-operation exception by its encoding (R108, R133, and R92, R109, R111, R131, R134 where
the condition is true)? -/
def illegalOp (t2 : Bool) (th : Thread) (ops : List RawOp) : Bool :=
  ops.any (fun o => match o.dec t2 with
    | .reserved => true
    | .bad => th.cond o
    | .ok _ => false)

/-- The operations of a bundle whose conditions are true, with their slots and words; `busy` are the slots that are taken. -/
def liveOps (t2 : Bool) (th : Thread) (ops : List RawOp) (busy : List Nat := []) : List (Nat × RawOp × TOp) :=
  ((ops.zip ((assignSlots t2 ops busy).getD [])).filterMap (fun e =>
    match e.1.dec t2 with
    | .ok op => if th.cond e.1 then some (e.2, e.1, op) else none
    | _ => none))

end Sys2Proof.Machine
end

