-- ==== Sys2Proof/Machine/Entry.lean ====
section
/-! DEFINITION. Taking an exception, an interrupt or a GATE on a core thread, and the return from one
(spec/06_exceptions_worlds.md): the one shared entry operation, its entry faults, and RFE. -/

namespace Sys2Proof.Machine

/-! ## Long operations (Table 04-14) -/

/-- Does the long operation use an integer engine (R221)? -/
def isIntLong (fn : Nat) : Bool := decide (fn ≤ 3)

/-- The CCLK from issue to retirement of a long operation (R164, R168, Table 04-14). -/
def longCycles (fn : Nat) (a b : Word) : Nat :=
  if fn ≤ 3 then (if b = 0 then 18 else divCycles (decide (fn % 2 = 0)) a b) else if fn ≤ 5 then 14 else 28

/-- A long operation as it issues. -/
def longOf (th : Thread) (word : Word) (fn d a b : Nat) (clk : Nat) (pc : Word) : LongOp :=
  let dbl := decide (6 ≤ fn)
  let av := if dbl then th.dp a else (th.dr a).zeroExtend 64
  let bv := if fn = 5 ∨ fn = 7 then 0 else if dbl then th.dp b else (th.dr b).zeroExtend 64
  { word := word, fn := fn, dst := d, av := av, bv := bv, fpc := th.creg 0x10, due := clk + longCycles fn (loW av) (loW bv), pc := pc }

/-- Is it an integer division by zero (R168)? -/
def LongOp.byZero (o : LongOp) : Bool := isIntLong o.fn && decide (loW o.bv = 0)

/-- The writes of a long operation at its retirement (R165, R168 to R170). -/
def LongOp.writes (o : LongOp) : List RegW :=
  let md := fpMode o.fpc
  let fl := fun (n : Nat) => if n = 0 then [] else [RegW.fst (BitVec.ofNat 32 n)]
  if o.byZero then []
  else if o.fn ≤ 3 then [.d o.dst (divVal o.fn (loW o.av) (loW o.bv))]
  else if o.fn ≤ 5 then
    let a := unpack f32 md.ftz (loW o.av).toNat
    let r := if o.fn = 4 then fpDiv f32 md a (unpack f32 md.ftz (loW o.bv).toNat) else fpSqrt f32 md a
    .d o.dst (BitVec.ofNat 32 r.bits) :: fl r.flags
  else
    let a := unpack f64 md.ftz o.av.toNat
    let r := if o.fn = 6 then fpDiv f64 md a (unpack f64 md.ftz o.bv.toNat) else fpSqrt f64 md a
    let v := BitVec.ofNat 64 r.bits
    .d o.dst (loW v) :: .d (o.dst + 1) (hiW v) :: fl r.flags

/-- The D registers that a long operation writes. -/
def LongOp.dests (o : LongOp) : List Nat := if 6 ≤ o.fn then [o.dst, o.dst + 1] else [o.dst]

/-- A long operation retires (R165, R168): its results, or the division by zero that it raises. -/
def retireOp (o : LongOp) (th : Thread) : Thread :=
  let th1 := { th with long := th.long.filter (fun x => decide (x ≠ o)) }
  o.writes.foldl (fun t w => t.push o.due w) th1

/-- The record of a division by zero (R253). -/
def LongOp.imprec (o : LongOp) : Imprec := { due := o.due, vec := 11, phys := 0, word := o.word, pc := o.pc, op := some o }

/-- Long operations due by a CCLK retire; a division by zero waits to be taken. -/
def retireDue (clk : Nat) (th : Thread) : Thread :=
  (th.long.filter (fun o => decide (o.due ≤ clk))).foldl (fun t o =>
    let t1 := retireOp o t
    if o.byZero then { t1 with imprec := t1.imprec ++ [o.imprec] } else t1) th

/-! ## Save sets (Tables 06-7 to 06-10) -/

/-- The save set of a world and level. -/
def setIdx (land : Bool) (level : Nat) : Nat := 4 * b2n land + level

/-- A register of a save set; `r` is its number less 0xC0. -/
def Thread.sv (th : Thread) (i r : Nat) : Word := smGet (fun _ => 0) th.save (64 * i + r)

/-- Write a register of a save set. -/
def Thread.setSv (th : Thread) (i r : Nat) (v : Word) : Thread :=
  { th with save := smSet (fun _ => 0) th.save (64 * i + r) v }

/-- FPCTL and the bundle address that go with SVLONGj of a set, where an entry wrote it (R183). -/
def Thread.svExtra (th : Thread) (i j : Nat) : Option (Word × Word) := (th.svx.find? (fun e => decide (e.1 = 4 * i + j))).map (fun e => e.2)

/-- Copy a save set with all that goes with it (R289). -/
def Thread.copySet (th : Thread) (i j : Nat) : Thread :=
  let th1 := (List.range 64).foldl (fun t r => t.setSv j r (th.sv i r)) th
  { th1 with
    svx := (List.range 4).foldl (fun m n => match th.svExtra i n with | some v => smPut m (4 * j + n) v | none => smDel m (4 * j + n)) th.svx
    postIn := (List.range th.postIn.length).filterMap (fun n => th.postIn[n]?.map (fun e =>
      if e.set = i ∧ (th.postIn.drop (n + 1)).all (fun x => decide (x.id ≠ e.id)) = true then { e with set := j } else e)) }

/-- Rank of a world and level (Table 06-1). -/
def rank (land : Bool) (level : Nat) : Nat := 4 * b2n land + level

/-- CSTAT of a world, level and ie. -/
def cstatOf (land : Bool) (level : Nat) (ie : Bool) : Word := BitVec.ofNat 32 (level + 4 * b2n land + 8 * b2n ie)

/-- CSTAT.ie. -/
def Thread.ie (th : Thread) : Bool := bit (th.creg 0x80) 3

/-! ## Loops and the loop buffer -/

/-- LPn_COUNT. -/
def Thread.lpCount (th : Thread) (n : Nat) : Word := th.creg (0x4A + 3 * n)

/-- SVLOOP for a thread whose next bundle is pc (Table 06-10). -/
def svLoop (th : Thread) (hold : Bool) (pc : Word) : Word :=
  let act := (List.range 3).foldl (fun m n => if th.lpCount n ≠ 0 then m + 2 ^ n else m) 0
  let endl := [2, 1, 0].find? (fun n => decide (th.lpCount n ≠ 0) && decide (th.creg (0x49 + 3 * n) = pc))
  BitVec.ofNat 32 (act + (match endl with | some n => 8 + 16 * n | none => 0) + 64 * b2n hold)

/-- Does thread t of slot k hold the loop buffer? -/
def State.holdsLb (s : State) (k t : Nat) : Bool :=
  match (s.core k).lb with
  | some b => decide (b.thr = t)
  | none => false

/-- Free the loop buffer if thread t holds it (R213). -/
def freeLb (k t : Nat) (s : State) : State :=
  if s.holdsLb k t then s.setCore k { s.core k with lb := none } else s

/-! ## Entry -/

/-- A cause of entry: vector, SVSTAT.info, SVADDR, SVLONG.pa_hi, SVDIV, imprecise, deferred, what the reads of vector entries find, and the
divide that SVLONG names (R168). -/
structure Cause where
  vec   : Nat
  info  : Nat
  addr  : Word
  paHi  : Nat
  div   : Word
  imp   : Bool
  defer : Bool
  ecc   : List EccHit
  named : List LongOp := []

/-- A cause with a vector alone. -/
def Cause.of (vec : Nat) (ecc : List EccHit := []) : Cause :=
  { vec := vec, info := 0, addr := 0, paHi := 0, div := 0, imp := false, defer := false, ecc := ecc }

/-- The operand words that a save set records of a long operation (Table 06-10, R269): b is 0 where unused. -/
def svLongRegs (o : LongOp) : List Word :=
  let b : BitVec 64 := if o.fn = 5 ∨ o.fn = 7 then 0 else o.bv
  [o.word &&& 0x07FFFFFF, loW o.av, hiW o.av, loW b, hiW b]

/-- Write the long-operation records of a set (R269). -/
def putLong (i : Nat) : Nat → List LongOp → Thread → Thread
  | _, [], th => th
  | j, o :: os, th =>
    putLong i (j + 1) os
      (((svLongRegs o).zip (List.range 5)).foldl (fun t e => t.setSv i (8 + 8 * j + e.2) e.1) th)

/-- What goes with the long-operation records of a set (R183). -/
def putExtra (i : Nat) (lng : List LongOp) (m : SMap (Word × Word)) : SMap (Word × Word) :=
  (lng.zip (List.range 4)).foldl (fun m e => smPut m (4 * i + e.2) (e.1.fpc, e.1.pc)) (smKeep (fun a => decide (a / 4 ≠ i)) m)

/-- A WAITT registration stays through an entry (R187): the code that runs is one entry further from it. -/
def Waiting.deeper : Waiting → Waiting
  | .none => .none
  | .waitt n pc rel b d => .waitt n pc rel b (d + 1)

/-- A WAITT registration through a GATE entry whose shadow bundle is still to run, with the code that ran before (R187, R276): a wait of that
code stays its own. -/
def Waiting.behindGate : Waiting → Waiting
  | .waitt n pc rel b 0 => .waitt n pc rel b 0
  | w => w.deeper

/-- A WAITT registration after a return: the code that runs is one entry nearer to it. -/
def Waiting.nearer : Waiting → Waiting
  | .none => .none
  | .waitt n pc rel b d => .waitt n pc rel b (d - 1)

/-- An entry into save set i leaves the posted writes of the thread outstanding (R265). -/
def Thread.markPosted (th : Thread) (i : Nat) : Thread :=
  { th with postIn := th.postIn ++ (th.posted ++ ((th.postIn.filter (fun e => e.bad)).map (fun e => e.id)).eraseDups).map (fun p =>
      { id := p, set := i, bad := th.postIn.any (fun e => decide (e.id = p) && e.bad) }) }

/-- Of marks, newest first, without the newest of each write where it names set i. -/
def dropMarks (i : Nat) : List Nat → List PostMark → List PostMark
  | _, [] => []
  | seen, e :: es =>
    if !seen.contains e.id && decide (e.set = i) then dropMarks i (e.id :: seen) es else e :: dropMarks i (e.id :: seen) es

/-- A return from save set i takes back the marks of its entry (R265); a fault that has waited for the code of its write is recorded with
it. -/
def Thread.unmark (th : Thread) (i : Nat) : Thread :=
  let left := (dropMarks i [] th.postIn.reverse).reverse
  { th with
    postIn := left
    pwf := th.pwf || th.postIn.any (fun e => e.bad && !left.any (fun x => decide (x.id = e.id))) }

/-- Write the target set (R263, R269). The record of posted-write faults moves into it, and so will those of the writes that are on their
way (R265). A division by zero is named in SVLONG too, in the first record that SVLONG.k does not count (R168; DEDUCED, log entry 64). -/
def saveSet (i : Nat) (c : Cause) (pc : Word) (tgt : Option Word) (hold : Bool) (lng : List LongOp) (th : Thread) : Thread :=
  let st := th.level + 4 * b2n th.land + 8 * b2n th.ie + 16 * b2n tgt.isSome + 32 * b2n c.imp + 64 * b2n c.defer +
    128 * b2n th.pwf + 256 * c.vec + c.info * 2 ^ 22
  let rec4 := lng.take 4
  let th1 := (((((((th.setSv i 0 pc).setSv i 1 (BitVec.ofNat 32 st)).setSv i 2 (tgt.getD 0)).setSv i 3
    (svLoop th hold pc)).setSv i 4 c.addr).setSv i 5 (BitVec.ofNat 32 (rec4.length + 256 * c.paHi))).setSv i 6 c.div)
  let th2 := putLong i 0 (rec4 ++ c.named) th1
  { th2 with pwf := false, svx := putExtra i rec4 th.svx, wait := th.wait.deeper, postIn := (th.markPosted i).postIn }

/-- Do the bytes of the bundle at a handler address pass the fetch checks of R116 in a world at supervisor privilege? -/
def State.handlerOk (s : State) (k : Nat) (th : Thread) (land : Bool) (h : Word) : Bool :=
  match parcel th land true h 0 with
  | none => false
  | some pa =>
    match s.peekCode k th pa with
    | none => true
    | some bs =>
      (match s.judge k th land true { FqEnt.of h 0 with pa := pa, data := bs } with
       | .seg _ => false
       | _ => true)

/-- The address of the vector entry of a world, level and vector in the I-TCM of slot k (R254), unless its table lies beyond the I-TCM. -/
def vectorAddr (k : Nat) (th : Thread) (land : Bool) (level vec : Nat) : Option Nat :=
  let tbl := fld (th.creg (if land then 0x82 else 0x83)) 9 7 * 512 + (level - 1) * 0x200
  if 0xFFFF < tbl then none else some (itcmBase k + tbl + 8 * vec)

/-- The handler of a world, level and vector (R254, R256): its address, or the kind of entry fault (Table 06-12) with the
CCLK of the entry at which it is found. -/
def State.handler (s : State) (k : Nat) (th : Thread) (land : Bool) (level vec : Nat) (ecc : EccHit) : Word ⊕ (Nat × Nat) :=
  match vectorAddr k th land level vec, ecc with
  | none, _ => .inr (0, 9)
  | some _, .ue _ => .inr (1, 11)
  | some a, _ =>
    if s.memWord (a + 4) ≠ 1 then .inr (2, 11)
    else if s.handlerOk k th land (s.memWord a) then .inl (s.memWord a) else .inr (3, 14)

/-- What the read of a vector entry finds: a single-bit error is corrected and counted (R321), an uncorrectable one is logged, and Breakwater
is told of it (R322, R419 code 1). -/
def State.vectorEcc (s : State) (k : Fin 144) (t : Fin 4) (th : Thread) (land : Bool) (level vec : Nat) (ecc : EccHit) : State :=
  match vectorAddr k th land level vec, ecc with
  | some a, .ce ws => s.countCes false a 8 ws
  | some a, .ue w => s.ownUes k t .fetch [wordAt a w]
  | _, _ => s

/-- Where an entry fault leads (Table 06-12): the level-3 target, or a triple fault. -/
def faultTarget (land : Bool) (level : Nat) : Option (Bool × Nat) :=
  if land = false ∧ level ≤ 2 then some (false, 3)
  else if land = true ∧ level = 3 then none
  else some (true, 3)

/-- Finish an entry to a world and level whose set has been written: change CSTAT and SVSEL, read the vector, and start the
handler, or take the entry fault (R260, R264, R289, R290, R291). A triple fault stops the core at once, and is logged with the CCLK in which
it is found (DEDUCED, log entry 54). `clk` is CCLK 0 of the entry; the first handler bundle is in F1 15 CCLK
later (Table 05-7). -/
def enterAt (k : Fin 144) (t : Fin 4) (vec : Nat) : Nat → List EccHit → Bool → Nat → Nat → State → State
  | 0, _, _, _, clk, s => tripleFault k clk s
  | n + 1, ecc, land, level, clk, s0 =>
    let th0 := s0.thread k t
    let s := s0.vectorEcc k t th0 land level vec (ecc.headD .ok)
    let th := (th0.setCreg 0x80 (cstatOf land level false)).setCreg 0x81 (BitVec.ofNat 32 (level + 4 * b2n land))
    match s.handler k th land level vec (ecc.headD .ok) with
    | .inl h => s.setThread k t { th with pc := h, resume := clk + 18, fetFrom := clk + 15, entry := true }
    | .inr (kind, cc) =>
      match faultTarget land level with
      | none => tripleFault k (clk + cc) s
      | some (land', level') =>
        let i := setIdx land level
        let j := setIdx land' level'
        let th1 := (th.copySet i j).setSv j 1
          (setFld (th.sv i 1) 22 10 (level + 4 * b2n land + 8 * kind))
        enterAt k t vec n ecc.tail land' level' (clk + cc) (s.setThread k t th1)

/-- What the fetch unit has begun beyond a thread's queue is discarded, a fetch that is outstanding still ends (R200), and fetching goes on
from a CCLK. -/
def Thread.refetch (th : Thread) (clk : Nat) : Thread :=
  { th with fetch := th.fetch.map (fun f => { f with live := false }), fetched := [], ahead := [], half := none, fetFrom := clk }

/-- What the fetch unit holds for a thread is discarded; fetching goes on from a CCLK. -/
def Thread.flush (th : Thread) (clk : Nat) : Thread := { th.refetch clk with fq := [] }

/-- Bring a thread to a stop for an entry (R196, R252, R267, R268): results complete, long operations leave, fetch state and
loop buffer are cleared. A WAITT registration stays (R187). A fault of sequential fetch out of the segment that has not been taken is
dropped (DESIGN CHOICE, log entry 34). -/
def quiesce (th : Thread) : Thread :=
  { settleAll (th.flush th.fetFrom) with
    long := [], shadow := none, delay := none, seqx := false, skip := false, ieWas := none
    fresh := [], recap := false, fillBuf := none, spill := none }

/-- Enter a world and level for a cause: the next bundle of the thread is pc, with a pending branch target where it is a
delay bundle (R263 to R270). Long operations that retire in CCLK 0 do so; those still in flight are abandoned. A request that comes in CCLK 0 stays
pending (R287). -/
def enter (k : Fin 144) (t : Fin 4) (c : Cause) (land : Bool) (level : Nat) (pc : Word) (tgt : Option Word) (clk : Nat)
    (s : State) : State :=
  let th := retireDue clk (s.thread k t)
  let hold := s.holdsLb k t
  let th1 := saveSet (setIdx land level) c pc tgt hold th.long (settleAll th)
  enterAt k t c.vec 3 c.ecc land level clk ((freeLb k t s).setThread k t { quiesce th1 with sampleAt := max th.sampleAt (clk + 1) })

/-- Table 06-2: the target of a synchronous exception. -/
def excTarget (land : Bool) (level : Nat) : Option (Bool × Nat) :=
  match land, level with
  | false, 0 => some (false, 1)
  | false, _ => some (true, 1)
  | true, 0 => some (true, 1)
  | true, 1 => some (true, 2)
  | true, 2 => some (true, 3)
  | true, _ => none

/-- Take a synchronous exception at the target of the thread's state, or the triple fault (R248, R291). -/
def raiseAt (k : Fin 144) (t : Fin 4) (c : Cause) (pc : Word) (tgt : Option Word) (clk : Nat) (s : State) : State :=
  let th := s.thread k t
  match excTarget th.land th.level with
  | some (land, level) => enter k t c land level pc tgt clk s
  | none => tripleFault k clk s

/-- The pending branch target of a thread whose next bundle is a delay bundle (R281). -/
def Thread.tgt (th : Thread) : Option Word :=
  match th.delay with
  | some d => d.target
  | none => none

/-- The world and level of CSTAT[2:0] replaced. -/
def Thread.setMode (th : Thread) (m : Word) : Thread := th.setCreg 0x80 (setFld (th.creg 0x80) 0 3 (fld m 0 3))

/-- Hardware loop processing at the end of a bundle: thread, next address, the level that looped, the levels that ended. -/
def loopEnd (th : Thread) (pc seq : Word) : List Nat → Thread × Word × Option Nat × List Nat
  | [] => (th, seq, none, [])
  | n :: ns =>
    let c := th.lpCount n
    if c = 0 ∨ th.creg (0x49 + 3 * n) ≠ pc then loopEnd th pc seq ns
    else if c ≠ 1 then (th.setCreg (0x4A + 3 * n) (c - 1), th.creg (0x48 + 3 * n), some n, [])
    else
      let r := loopEnd (th.setCreg (0x4A + 3 * n) 0) pc seq ns
      (r.1, r.2.1, r.2.2.1, n :: r.2.2.2)

/-- The bundle after the one at an address, once that has run without a taken branch: what the loops choose (R177), else the next in
sequence; where nothing tells how long it is, the free value. -/
def State.afterIn (s : State) (k : Nat) (th : Thread) (pc : Word) : Word :=
  (loopEnd th pc ((s.after? k th pc).getD (loW s.free)) [2, 1, 0]).2.1

/-- A mode change in its shadow is completed at once (R282, R285). A GATE's Landward level-1 set is written with the bundle
after the shadow bundle, and the shadow bundle at pc, which has not issued, becomes a bundle that continues at the GATE
handler. -/
def endShadow (k : Fin 144) (t : Fin 4) (ecc : List EccHit) (s : State) : State :=
  let th := s.thread k t
  match th.shadow with
  | none => s
  | some x =>
    match x.gate with
    | none => s.setThread k t { (if x.last then th else th.setMode x.cstat) with shadow := none }
    | some num =>
      let after := match th.tgt with
        | some a => a
        | none => s.afterIn k th th.pc
      let c := { Cause.of 2 with info := num }
      let pc := th.pc
      let s1 := enterAt k t 2 3 ecc true 1 (s.core k).clk
        (s.advFree.setThread k t { saveSet (setIdx true 1) c after none (s.holdsLb k t) [] th with
          shadow := none, delay := none, ieWas := none, wait := th.wait.behindGate })
      let th1 := s1.thread k t
      if th1.entry then
        s1.setThread k t { th1 with pc := pc, delay := some { target := some th1.pc }, entry := false }
      else s1

/-- Take an exception of the bundle at pc, with the deferral of R282 where it falls in a mode-change shadow. Where completing the change
ends in a triple fault, nothing more is taken. -/
def raise (k : Fin 144) (t : Fin 4) (c : Cause) (clk : Nat) (s : State) : State :=
  let sh := (s.thread k t).shadow
  let gate := match sh with | some x => x.gate.isSome | none => false
  let s1 := endShadow k t c.ecc s
  let th := s1.thread k t
  if sh.isSome && !th.running then s1
  else raiseAt k t { c with defer := sh.isSome, ecc := if gate then c.ecc.tail else c.ecc } th.pc th.tgt clk s1

/-- What an imprecise exception reports (R253). -/
def Imprec.cause (e : Imprec) (ecc : List EccHit) : Cause :=
  if e.vec = 11 then { Cause.of 11 ecc with addr := e.pc, div := e.word, imp := true, named := e.op.toList }
  else { Cause.of e.vec ecc with addr := BitVec.ofNat 32 e.phys, paHi := e.phys / 2 ^ 32 % 2 ^ 12, div := e.pc, imp := true }

/-! ## RFE (R271 to R275) -/

/-- The prior rank of a save set. -/
def Thread.prior (th : Thread) (i : Nat) : Nat := fld (th.sv i 1) 0 3

/-- A recorded long operation at its reissue in CCLK `clk`, if the recorded word is a long operation (R227). -/
def reissueOp (t2 : Bool) (fpc : Word) (pc : Word) (clk : Nat) (ws : List Word) : Option LongOp :=
  let w := ws.getD 0 0
  match RawOp.dec t2 { size := 4, word := (w &&& 0x07FFFFFF) ||| 1 } with
  | .ok (.long fn d _ _) =>
    let av := BitVec.ofNat 64 ((ws.getD 1 0).toNat + (ws.getD 2 0).toNat * 2 ^ 32)
    let bv := BitVec.ofNat 64 ((ws.getD 3 0).toNat + (ws.getD 4 0).toNat * 2 ^ 32)
    some { word := w, fn := fn, dst := d, av := av, bv := bv, fpc := fpc, due := clk + longCycles fn (loW av) (loW bv), pc := pc }
  | _ => none

/-- The first CCLK from `c` in which an engine is free, of `n` whose operations in flight retire at `dues` (R221). -/
def engineFree (n : Nat) (dues : List Nat) (c : Nat) : Nat :=
  ((c :: dues.filter (fun d => decide (c < d))).filter (fun x => decide ((dues.filter (fun d => decide (x < d))).length < n))).foldl
    (fun m x => if m = 0 ∨ x < m then x else m) 0

/-- The recorded operations of a set reissue one after another in slot S from CCLK `c` on, each once an engine of its kind is free (R221,
R227): the operations, and the CCLK of the last. `dues` are the retirements of the operations in flight on the core, with whether they use
an integer engine; `lost` gives free values for the bundle addresses that nothing records. -/
def reissueAll (t2 : Bool) (th : Thread) (i : Nat) (lost : Nat → Word) : List Nat → Nat → List (Bool × Nat) → List LongOp × Nat
  | [], c, _ => ([], c - 1)
  | j :: js, c, dues =>
    let x := (th.svExtra i j).getD (th.creg 0x10, lost j)
    let ws := (List.range 5).map (fun r => th.sv i (8 + 8 * j + r))
    match reissueOp t2 x.1 x.2 0 ws with
    | none => reissueAll t2 th i lost js (c + 1) dues
    | some o =>
      let int := isIntLong o.fn
      let at_ := engineFree (if int then 4 else 2) ((dues.filter (fun e => e.1 == int)).map (fun e => e.2)) c
      let o1 := { o with due := at_ + o.due }
      let r := reissueAll t2 th i lost js (at_ + 1) ((int, o1.due) :: dues)
      (o1 :: r.1, r.2)

/-- The effect of RFE issuing in CCLK `clk` on its thread (R227, R271 to R274), and the CCLK of its last reissue. `dues` are the long
operations in flight on the core. -/
def rfe (t2 : Bool) (dues : List (Bool × Nat)) (lost : Nat → Word) (clk : Nat) (th : Thread) : Thread × Nat :=
  let i := setIdx th.land th.level
  let st := th.sv i 1
  let n := min 4 (fld (th.sv i 5) 0 3)
  let r := reissueAll t2 th i lost (List.range n) (clk + 1) dues
  let act := (List.range 3).filter (fun l => bit (th.sv i 3) l && decide (th.lpCount l ≠ 0))
  ({ ((th.unmark i).flush clk).setCreg 0x80 (cstatOf (bit st 2) (fld st 0 2) (bit st 3)) with
    pc := th.sv i 0
    delay := if bit st 4 then some { target := some (th.sv i 2) } else none
    shadow := none
    pwf := (th.unmark i).pwf || bit st 7
    wait := th.wait.nearer
    long := th.long ++ r.1
    fresh := act
    recap := bit (th.sv i 3) 6
    seqx := false
    skip := false
    ieWas := some (clk, th.ie)
    resume := max (clk + 3) (r.2 + 1) }, r.2)

end Sys2Proof.Machine
end

