-- ==== Sys2Proof/Machine/Effects.lean ====
section
/-! DEFINITION. What each operation of a bundle does when the bundle issues (spec/04_tuitin_operations.md): results with
their latencies, loads and stores, the shadow stack, MOVC, and hardware loops. -/

namespace Sys2Proof.Machine

/-! ## Results of operations on registers -/

/-- The value that accumulations into Mn start from: the last MAC-family result in flight, else Mn (R139). -/
def Thread.macBase (th : Thread) (n : Nat) : Int :=
  let ws := th.pend.filterMap (fun p => match p.w with
    | .m i v true => if i = n then some v else none
    | _ => none)
  match ws.getLast? with
  | some v => v.toInt
  | none => (th.mr n).toInt

/-- One accumulation (R153): its writes and acc_ovf. -/
def accWrites (t2 : Bool) (th : Thread) (k : Nat) (r : Int) : List (Nat × RegW) × Bool :=
  let v := accVal t2 (bit (th.creg 0x11) 16) r
  ((3, .m k v.1 true) :: (if v.2 then [(3, .mst (bitW k))] else []), v.2)

/-- A pair of D writes. -/
def pairW (lat d : Nat) (v : BitVec 64) : List (Nat × RegW) := [(lat, .d d (loW v)), (lat, .d (d + 1) (hiW v))]

/-- The sticky flags of a floating-point operation. -/
def fpFlags (lat fl : Nat) : List (Nat × RegW) := if fl = 0 then [] else [(lat, .fst (BitVec.ofNat 32 fl))]

/-- Two-operand floating-point arithmetic. -/
def farithRes (f : Fmt) (md : FpMode) (op : FArith) (a b : FVal) : FRes :=
  match op with
  | .add => fpAdd f md a b
  | .sub => fpAdd f md a b.neg
  | .mul => fpMul f md a b
  | .min => fpMinMax f false a b
  | .max => fpMinMax f true a b

/-- A conversion (Table 04-13, major 0x17): its writes. `x` is D a, `p` the pair. -/
def cvtWrites (md : FpMode) (op : FCvt) (d : Nat) (x : Word) (p : BitVec 64) (sh : Nat) : List (Nat × RegW) :=
  let v := unpack f32 md.ftz x.toNat
  let w := unpack f64 md.ftz p.toNat
  let one := fun (lat : Nat) (r : FRes) => (lat, RegW.d d (BitVec.ofNat 32 r.bits)) :: fpFlags lat r.flags
  let int := fun (lat : Nat) (r : Int × Nat) => (lat, RegW.d d (BitVec.ofInt 32 r.1)) :: fpFlags lat r.2
  match op with
  | .ftoi => int 4 (fpToInt md (-(2 ^ 31)) (2 ^ 31 - 1) 0 v)
  | .ftou => int 4 (fpToInt md 0 (2 ^ 32 - 1) 0 v)
  | .itof => one 4 (fpFromInt f32 md x.toInt 0)
  | .utof => one 4 (fpFromInt f32 md (x.toNat : Int) 0)
  | .ftox => int 4 (fpToInt md (-(2 ^ 31)) (2 ^ 31 - 1) sh v)
  | .xtof => one 4 (fpFromInt f32 md x.toInt sh)
  | .dtof => one 6 (fpConvert f32 md w)
  | .ftod => let r := fpConvert f64 md v; pairW 6 d (BitVec.ofNat 64 r.bits) ++ fpFlags 6 r.flags
  | .dtoi => int 6 (fpToInt md (-(2 ^ 31)) (2 ^ 31 - 1) 0 w)
  | .itod => let r := fpFromInt f64 md x.toInt 0; pairW 6 d (BitVec.ofNat 64 r.bits) ++ fpFlags 6 r.flags
  | .frnd => one 4 (fpIntegral f32 md v)

/-- FABS and FNEG (Table 04-13): a NaN becomes the canonical quiet NaN, and with ftz a subnormal is read as a zero (R160, R162; no flag is
set, R161; DEDUCED, log entry 29). -/
def fsignVal (md : FpMode) (inv : Bool) (x : Word) : Word :=
  if fld x 23 8 = 255 ∧ fld x 0 23 ≠ 0 then 0x7FC00000
  else
    let y := if md.ftz ∧ fld x 23 8 = 0 then x &&& 0x80000000 else x
    if inv then y ^^^ 0x80000000 else y &&& 0x7FFFFFFF

/-- The results of an operation that touches registers alone: latencies and writes, and acc_ovf. -/
def regOp (t2 : Bool) (th : Thread) (op : TOp) : List (Nat × RegW) × Bool :=
  let x := fun (d : Nat) (r : Word × Bool) => ((1, RegW.d d r.1) :: (if r.2 then [(1, .mst 0x200000)] else []), false)
  let md := fpMode (th.creg 0x10)
  let v32 := fun (n : Nat) => unpack f32 md.ftz (th.dr n).toNat
  let v64 := fun (n : Nat) => unpack f64 md.ftz (th.dp n).toNat
  match op with
  | .alu o d a b => x d (aluVal (th.creg 0x1C) o (th.dr a) (th.dr b))
  | .aluI o d a v => x d (aluVal (th.creg 0x1C) o (th.dr a) v)
  | .ins d a b => x d (insVal (th.dr d) (th.dr a) (th.dr b), false)
  | .movi d v => x d (v, false)
  | .movhi d v => x d ((th.dr d <<< 14) ||| v, false)
  | .cmp o f a b => ([(1, .f f (cmpVal o (th.dr a) (th.dr b)))], false)
  | .flag o f a b => ([(1, .f f (flagVal o (th.fr a) (th.fr b)))], false)
  | .mul o d a b =>
    let r := mulVal o (th.dr a) (th.dr b)
    let fl := if r.2 then [(3, RegW.mst 0x200000)] else []
    (if t2 then pairW 3 d r.1 ++ fl else (3, .mp d r.1) :: fl, false)
  | .mac o k a b =>
    let p := macVal o (th.dr a) (th.dr b) (th.dr (a + 1)) (th.dr (b + 1))
    accWrites t2 th k ((if o.fromZero then 0 else th.macBase k) + p)
  | .macd q k a b =>
    let m : Int := if q then 2 else 1
    let r1 := accWrites t2 th k (th.macBase k + m * ((th.dr a).toInt * (th.dr b).toInt))
    let r2 := accWrites t2 th (k + 1) (th.macBase (k + 1) + m * ((th.dr (a + 1)).toInt * (th.dr (b + 1)).toInt))
    (r1.1 ++ r2.1, r1.2 || r2.2)
  | .mclr k => ([(3, .m k 0 false)], false)
  | .movdm k a => ([(3, .m k (BitVec.ofInt 80 (th.dr a).toInt) false)], false)
  | .movddm k a => ([(3, .m k (BitVec.ofInt 80 (th.dp a).toInt) false)], false)
  | .movmd part d m =>
    let v := th.mr m
    ([(3, .d d (if part = 0 then v.truncate 32 else if part = 1 then (v >>> 32).truncate 32
      else BitVec.ofInt 32 (v.toInt >>> 64)))], false)
  | .ext d m b =>
    let r := extVal (legal 11 3 (fld (th.creg 0x11) 18 2)) (th.mr m) (fld (th.dr b) 0 7)
    ((3, .d d r.1) :: (if r.2 then [(3, .mst 0x100000)] else []), false)
  | .exti d m sh =>
    let r := extVal (legal 11 3 (fld (th.creg 0x11) 18 2)) (th.mr m) sh
    ((3, .d d r.1) :: (if r.2 then [(3, .mst 0x100000)] else []), false)
  | .movpm k p => ([(3, .m k (BitVec.ofInt 80 (th.mpr p).toInt) false)], false)
  | .movpd d p => (pairW 3 d (th.mpr p), false)
  | .macp k p => accWrites t2 th k (th.macBase k + (th.mpr p).toInt)
  | .madd k j => accWrites t2 th k (th.macBase k + (th.mr j).toInt)
  | .mshr k sh => ([(3, .m k ((th.mr k).sshiftRight sh) false)], false)
  | .mneg k => accWrites t2 th k (-(th.macBase k))
  | .farith dbl o d a b =>
    let mm := decide (o = .min) || decide (o = .max)
    if dbl then
      let r := farithRes f64 md o (v64 a) (v64 b)
      let lat := if mm then 3 else 6
      (pairW lat d (BitVec.ofNat 64 r.bits) ++ fpFlags lat r.flags, false)
    else
      let r := farithRes f32 md o (v32 a) (v32 b)
      let lat := if mm then 2 else 4
      ((lat, .d d (BitVec.ofNat 32 r.bits)) :: fpFlags lat r.flags, false)
  | .fsign inv d a => ([(2, .d d (fsignVal md inv (th.dr a)))], false)
  | .fcmp dbl c f a b =>
    let r := if dbl then fpCompare c (v64 a) (v64 b) else fpCompare c (v32 a) (v32 b)
    let lat := if dbl then 3 else 2
    ((lat, .f f r.1) :: fpFlags lat r.2, false)
  | .ffma dbl o d a b =>
    let neg := decide (o = .nmadd)
    if dbl then
      let r := fpFma f64 md neg (if o = .msub then (v64 a).neg else v64 a) (v64 b) (v64 d)
      (pairW 6 d (BitVec.ofNat 64 r.bits) ++ fpFlags 6 r.flags, false)
    else
      let r := fpFma f32 md neg (if o = .msub then (v32 a).neg else v32 a) (v32 b) (v32 d)
      ((4, .d d (BitVec.ofNat 32 r.bits)) :: fpFlags 4 r.flags, false)
  | .fcvt o d a b => (cvtWrites md o d (th.dr a) (th.dp a) b, false)
  | .adda d a v => ([(1, .a d (th.ar a + v))], false)
  | .movad d a v => ([(1, .a d (th.dr a + v))], false)
  | .movda d a v => ([(1, .d d (th.ar a + v))], false)
  | _ => ([], false)

/-- Add results of an issue in CCLK clk. -/
def Thread.pushAll (th : Thread) (clk : Nat) (ws : List (Nat × RegW)) : Thread :=
  ws.foldl (fun t w => t.push (clk + w.1) w.2) th

/-! ## Loads and stores -/

/-- The writes of loaded bytes (Table 04-7, R95, R150, R151). -/
def loadWrites (k : LdKind) (d : Nat) (bs : List Byte) : List RegW :=
  let n := leNat bs
  match k with
  | .w => [.d d (BitVec.ofNat 32 n)]
  | .h => [.d d ((BitVec.ofNat 16 n).signExtend 32)]
  | .hu => [.d d (BitVec.ofNat 32 n)]
  | .bu => [.d d (BitVec.ofNat 32 n)]
  | .bs => [.d d ((BitVec.ofNat 8 n).signExtend 32)]
  | .acc => [.m d (BitVec.ofNat 80 (n % 2 ^ 80)) false]
  | .dbl => [.d d (BitVec.ofNat 32 n), .d (d + 1) (BitVec.ofNat 32 (n / 2 ^ 32))]
  | .fw =>
    let r := fpConvert f64 { rm := 0, ftz := false } (unpack f32 false n)
    let v := BitVec.ofNat 64 r.bits
    .d d (loW v) :: .d (d + 1) (hiW v) :: (if r.flags = 0 then [] else [.fst (BitVec.ofNat 32 r.flags)])

/-- The extra CCLK of LDF.W (Table 04-1). -/
def LdKind.extra (k : LdKind) : Nat := if k = .fw then 1 else 0

/-- The bytes a store takes from its register, and the flags of STF.N (R95, R151). -/
def storeBytes (th : Thread) (k : StKind) (d : Nat) : List Byte × Nat :=
  match k with
  | .w => (leBytes 4 (th.dr d).toNat, 0)
  | .h => (leBytes 2 (th.dr d).toNat, 0)
  | .b => (leBytes 1 (th.dr d).toNat, 0)
  | .acc => (leBytes 10 (th.mr d).toNat ++ leBytes 6 0, 0)
  | .dbl => (leBytes 8 (th.dp d).toNat, 0)
  | .fn =>
    let md := fpMode (th.creg 0x10)
    let r := fpConvert f32 md (unpack f64 md.ftz (th.dp d).toNat)
    (leBytes 4 r.bits, r.flags)

/-- Effective address and new base register of an addressing mode (Table 03-14, R117); `fr` is the address a bit-reversed
update gives where the buffer length is 0, which nothing states. The circular update compares An + d, B and B + L as integers without
bound, not modulo 2^32 (DESIGN CHOICE, log entry 35). -/
def eaOf (th : Thread) (a size : Nat) (m : AMode) (fr : Word) : Word × Option Word :=
  let an := th.ar a
  match m with
  | .off imm => (an + BitVec.ofInt 32 (imm * size), none)
  | .post imm => (an, some (an + BitVec.ofInt 32 (imm * size)))
  | .pre => let x := an - BitVec.ofNat 32 size; (x, some x)
  | .idx x k => (an + (th.ar x <<< k), none)
  | .circ imm cm =>
    let c := th.creg (0x18 + cm)
    let l : Int := fld c 0 24
    let b : Int := (th.ar (fld c 24 4)).toNat
    let n : Int := an.toNat + imm * size
    (an, some (BitVec.ofInt 32 (if b + l ≤ n then n - l else if n < b then n + l else n)))
  | .brev imm cm =>
    let c := th.creg (0x18 + cm)
    let l := fld c 0 24
    let b := th.ar (fld c 24 4)
    if l = 0 then (an, some fr)
    else
      let w := Nat.log2 l
      let off := (an - b).toNat % 2 ^ w
      let d := (BitVec.ofInt 32 (imm * size)).toNat % 2 ^ w
      (an, some (b + BitVec.ofNat 32 (revBits w ((revBits w off + revBits w d) % 2 ^ w))))

/-- Does the mode draw the free value? -/
def AMode.drawsFree (th : Thread) : AMode → Bool
  | .brev _ cm => decide (fld (th.creg (0x18 + cm)) 0 24 = 0)
  | _ => false

/-- The parts of a far access: an accumulator is made as two (R315). -/
def farParts (a n : Nat) : List (Nat × Nat) := if n = 16 then [(a, 8), (a + 8, 8)] else [(a, n)]

/-- Bytes of a line replaced by stored bytes (R230). -/
def patchLine (a : Nat) (bs : List Byte) (x : Line) : Line :=
  { x with data := (List.range 64).map (fun i =>
      let p := x.line * 64 + i
      if a ≤ p ∧ p < a + bs.length then bs.getD (p - a) 0 else x.data.getD i 0) }

/-- A store updates the D-cache lines that hold its bytes, and is noted with the fills of such lines on their way to the core (R96, R230);
mirror and remote addresses hold none. -/
def dcStore (k a : Nat) (bs : List Byte) (s : State) : State :=
  let meets := fun (b : Nat) => decide (b < a + bs.length) && decide (a < b + 64)
  let c := s.core k
  let s1 := if c.dcache.any (fun x => meets (x.line * 64)) then
      s.setCore k { c with dcache := c.dcache.map (fun x => if meets (x.line * 64) then patchLine a bs x else x) }
    else s
  foldS (fun t s =>
    let th := s.thread k t
    if th.far.any (fun f => f.fill && f.parts.any (fun p => meets p.addr)) then
      s.setThread k t { th with far := th.far.map (fun f =>
        if f.fill && f.parts.any (fun p => meets p.addr) then { f with late := f.late ++ [(a, bs)] } else f) }
    else s) (List.range 4) s1

/-- The byte of an address among the parts of a far load. -/
def partByte (ps : List FarPart) (a : Nat) : Byte :=
  match ps.find? (fun p => decide (p.addr ≤ a) && decide (a < p.addr + (p.data.getD []).length)) with
  | some p => (p.data.getD []).getD (a - p.addr) 0
  | none => 0

/-- The n bytes of an address among the parts. -/
def partBytes (ps : List FarPart) (a n : Nat) : List Byte := (List.range n).map (fun i => partByte ps (a + i))

/-- The 64-byte lines of an access. -/
def linesOf (a n : Nat) : List Nat := if a / 64 = (a + n - 1) / 64 then [a / 64] else [a / 64, (a + n - 1) / 64]

/-- The lead's request for an address, for a checker's load or fill of the same bundle (R440). -/
def leadPart (lt : Thread) (a : Nat) : Option FarPart :=
  ((match lt.fillBuf with | some f => f.parts | none => []) ++ lt.far.flatMap (fun f => f.parts)).find? (fun p => decide (p.addr = a))

/-- A part of a far load: requested now, or taken from the lead. -/
def askPart (k : Fin 144) (t : Fin 4) (cst a n : Nat) (s : State) : State × FarPart :=
  match s.leadOf k with
  | some q =>
    (match leadPart (s.thread q t) a with
     | some p => (s, p)
     | none => (s, { id := s.memc.nextId, addr := a, data := none }))
  | none =>
    let r := s.request (.core k t) .load a n [] cst
    (r.1, { id := r.2, addr := a, data := none })

/-- Ask for a list of parts. -/
def askParts (k : Fin 144) (t : Fin 4) (cst : Nat) : List (Nat × Nat) → State → State × List FarPart
  | [], s => (s, [])
  | p :: ps, s =>
    let r := askPart k t cst p.1 p.2 s
    let q := askParts k t cst ps r.1
    (q.1, r.2 :: q.2)

/-- Lines held, as parts; lines missing, as addresses to ask for. -/
def lineParts (c : List Line) (lns : List Nat) : List FarPart × List (Nat × Nat) :=
  (lns.filterMap (fun ln => (findLine c ln).map (fun x => { id := 0, addr := ln * 64, data := some x.data })),
   lns.filterMap (fun ln => if (findLine c ln).isNone then some (ln * 64, 64) else none))

/-- Complete a load: its results are pushed to be seen from a CCLK. -/
def Thread.loaded (th : Thread) (due : Nat) (k : LdKind) (d : Nat) (bs : List Byte) : Thread :=
  (loadWrites k d bs).foldl (fun t w => t.push (due + k.extra) w) th

/-- What the posted stores of a core that are still on their way write to some lines: a fill asked for now takes it (R96, R230). -/
def State.storesOut (s : State) (k : Nat) (lns : List Nat) : List (Nat × List Byte) :=
  (s.memc.reqs.filter (fun q => decide (q.kind = .store) && q.st.open_ && (match q.ini with | .core j _ => decide (j.val = k) | _ => false) &&
    lns.any (fun ln => decide (q.addr < ln * 64 + 64) && decide (ln * 64 < q.addr + q.data.length)))).map (fun q => (q.addr, q.data))

/-- A load of the fabric by thread t of slot k (R228, R229): a D-cache hit, a line fill, or an uncached read. `hit` is the CCLK from which
the data of a hit is usable. -/
def farLoad (k : Fin 144) (t : Fin 4) (cst clk hit : Nat) (pc fpc : Word) (kind : LdKind) (d a : Nat) (st : State × Thread) :
    State × Thread :=
  let s := st.1
  let th := st.2
  let n := kind.size
  let base : FarLoad := { parts := [], dst := d, kind := kind, clk := clk, pc := pc, fpc := fpc, phys := a, cst := cst, ue := [], ce := []
                          fill := false, late := [], after := 0, chk := false }
  if s.cacheable k 1 a then
    let lp := lineParts (s.core k).dcache (linesOf a n)
    if lp.2.isEmpty then
      let c := s.core k
      (s.setCore k { c with dcache := (linesOf a n).foldl (fun x ln => touchLine ln x) c.dcache },
        th.loaded hit kind d (partBytes lp.1 a n))
    else
      let r := askParts k t cst lp.2 (s.count k (aCoreDcMiss k) lp.2.length (s.core k).clk)
      (r.1, { th with far := th.far ++ [{ base with parts := lp.1 ++ r.2, fill := true, late := s.storesOut k (linesOf a n) }] })
  else
    let r := askParts k t cst (farParts a n) s
    (r.1, { th with far := th.far ++ [{ base with parts := r.2 }] })

/-- Of 8-byte words named by address, those that n bytes at a touch. -/
def hitWords (ws : List Nat) (a n : Nat) : List Nat := ws.filter (fun w => decide (a / 8 ≤ w / 8) && decide (w / 8 ≤ (a + n - 1) / 8))

/-- Single-bit errors in words of the core's own local memory are corrected and counted (R321). -/
def State.ownCes (s : State) (ws : List Nat) : State := foldS (fun w s => s.countCe false w) ws s

/-- The access fault of a load or store of own local memory (R253): it waits for the CCLK in which a load's data would arrive. -/
def Thread.ownFault (th : Thread) (clk phys : Nat) (pc : Word) : Thread :=
  { th with imprec := th.imprec ++ [{ due := clk + 3, vec := 14, phys := phys, word := 0, pc := pc, op := none }] }

/-- A load that reads memory: own local memory with latency 3, or the fabric. `m` is memory before the bundle (R97), `i` says which words of
own local memory show errors. -/
def memLoad (k : Fin 144) (t : Fin 4) (cst clk : Nat) (pc fpc : Word) (m : State) (i : IssueInfo) (kind : LdKind) (d a : Nat)
    (st : State × Thread) : State × Thread :=
  match m.placeOf k false a kind.size with
  | .own tg =>
    if (hitWords i.ue (m.plain a) kind.size).isEmpty then
      (st.1.ownCes (hitWords i.ce (m.plain a) kind.size), st.2.loaded (clk + 3) kind d (m.loadAt tg kind.size))
    else (st.1.ownUes k t .load (hitWords i.ue (m.plain a) kind.size), st.2.ownFault clk a pc)
  | .ownFail => (st.1, st.2.ownFault clk a pc)
  | .far => farLoad k t cst clk (clk + 6) pc fpc kind d a st

/-- Do n bytes at a overlap a store-buffer entry? -/
def SbEntry.overlaps (e : SbEntry) (a n : Nat) : Bool := decide (e.addr < a + n) && decide (a < e.addr + e.data.length)

/-- Does a store-buffer entry hold all of n bytes at a? -/
def SbEntry.covers (e : SbEntry) (a n : Nat) : Bool := decide (e.addr ≤ a) && decide (a + n ≤ e.addr + e.data.length)

/-- A load of a bundle. In Legacy T2, with stores of earlier bundles in the store buffer (`sb` of them), it looks at them in E2 (R241). -/
def doLoad (k : Fin 144) (t : Fin 4) (cst clk : Nat) (pc fpc : Word) (m : State) (i : IssueInfo) (sb : Nat) (kind : LdKind)
    (d a : Nat) (st : State × Thread) : State × Thread :=
  if sb = 0 then memLoad k t cst clk pc fpc m i kind d a st
  else (st.1, { st.2 with far := st.2.far ++
    [{ parts := [], dst := d, kind := kind, clk := clk, pc := pc, fpc := fpc, phys := a, cst := cst, ue := hitWords i.ue (m.plain a) kind.size
       ce := hitWords i.ce (m.plain a) kind.size, fill := false, late := [], after := sb, chk := true }] })

/-- Fabric tags that an access needs (R27). -/
def State.tagsFor (s : State) (k : Nat) (t2 st : Bool) (pa n : Nat) : Nat :=
  match s.placeOf k st pa n with
  | .far =>
    if st then (if t2 then 0 else (farParts pa n).length)
    else if s.cacheable k 1 pa then
      ((linesOf pa n).filter (fun ln => (findLine (s.core k).dcache ln).isNone)).length
    else (farParts pa n).length
  | _ => 0

/-- A load that looked at the store buffer reads memory with the rights it issued with, `lag` CCLK later than it would have (R183, R241).
Where it needs fabric tags that are all in use, it tries again in a later CCLK (R27). -/
def lateLoad (k : Fin 144) (t : Fin 4) (f : FarLoad) (lag : Nat) (s : State) : State :=
  let th := s.thread k t
  let need := s.tagsFor k true false f.phys f.kind.size
  if need ≠ 0 ∧ 16 < s.tagsUsed k + need ∧ (s.leadOf k).isNone = true then
    s.setThread k t { th with far := th.far.map (fun x => if x = f then { f with after := 0, chk := true } else x) }
  else
    let st : State × Thread := (s, { th with far := th.far.filter (fun x => decide (x ≠ f)) })
    let r := match s.placeOf k false f.phys f.kind.size with
      | .far => farLoad k t f.cst f.clk (f.clk + 6 + lag) f.pc f.fpc f.kind f.dst f.phys st
      | _ => memLoad k t f.cst (f.clk + lag) f.pc f.fpc s { dt := 0, ue := f.ue, ce := f.ce } f.kind f.dst f.phys st
    r.1.setThread k t r.2

/-- A load in E2 looks at the store-buffer entries that stores before it made and that are still there (R241): none overlaps, and it reads
memory; the youngest that overlaps holds all its bytes; or it waits until those that overlap have drained. -/
def checkLoad (k : Fin 144) (t : Fin 4) (f : FarLoad) (s : State) : State :=
  let th := s.thread k t
  let n := f.kind.size
  let sb := th.sbuf.take f.after
  match ((sb.zip (List.range sb.length)).filter (fun e => e.1.overlaps f.phys n)).getLast? with
  | none => lateLoad k t f 0 s
  | some (e, j) =>
    if e.covers f.phys n then
      let lat := match s.placeOf k false f.phys n with | .far => 6 | _ => 3
      s.setThread k t (({ th with far := th.far.filter (fun x => decide (x ≠ f)) }).loaded (f.clk + lat) f.kind f.dst
        ((e.data.drop (f.phys - e.addr)).take n))
    else s.setThread k t { th with far := th.far.map (fun x => if x = f then { f with after := j + 1, chk := false } else x) }

/-- The loads of slot k whose E2 has come look at the store buffer. -/
def checkLoads (k clk : Nat) (s : State) : State :=
  foldS (fun (t : Fin 4) s =>
    foldS (fun f s => if f.chk ∧ f.clk + 2 ≤ clk then checkLoad (Fin.ofNat 144 k) t f s else s) (s.thread k t).far s)
    [0, 1, 2, 3] s

/-- The store of a core enters the lockstep signature (R440). -/
def foldSig (k a : Nat) (bs : List Byte) (s : State) : State :=
  match s.lcoreOf k with
  | none => s
  | some l =>
    match s.partOf l with
    | none => s
    | some p => if p.cls = 2 then s.setLc l { s.lc l with sig := crc32c (s.lc l).sig (leBytes 6 a ++ bs) } else s

/-- The bytes of a far store part. -/
def partOfBytes (a : Nat) (bs : List Byte) (p : Nat × Nat) : List Byte := (bs.drop (p.1 - a)).take p.2

/-- Does a store of n bytes at a read the words that it writes (R323)? -/
def readsWords (s : State) (a n : Nat) : Bool :=
  match s.decodeAddr a with
  | .mirror _ _ _ => true
  | _ => decide (a % 8 ≠ 0) || decide (n % 8 ≠ 0)

/-- A store that leaves the core (R152, R230, R315): own local memory at once, the fabric posted. -/
def memStore (k : Fin 144) (t : Fin 4) (cst clk : Nat) (pc : Word) (i : IssueInfo) (a : Nat) (bs : List Byte) (st : State × Thread) :
    State × Thread :=
  match st.1.placeOf k true a bs.length with
  | .own tg =>
    let p := st.1.plain a
    if !readsWords st.1 a bs.length then (st.1.storeAt tg bs, st.2)
    else if (hitWords i.ue p bs.length).isEmpty then ((st.1.ownCes (hitWords i.ce p bs.length)).storeAt tg bs, st.2)
    else (st.1.ownUes k t .store (hitWords i.ue p bs.length), st.2.ownFault clk a pc)
  | .ownFail => (st.1, st.2.ownFault clk a pc)
  | .far =>
    let s1 := if a < 2 ^ 38 then dcStore k a bs st.1 else st.1
    match s1.leadOf k with
    | some _ => (s1, st.2)
    | none => (farParts a bs.length).foldl (fun x p =>
        let r := x.1.request (.core k t) .store p.1 p.2 (partOfBytes a bs p) cst
        (r.1, { x.2 with posted := x.2.posted ++ [r.2] })) (s1, st.2)

/-- A store of a bundle: into the Legacy T2 store buffer (R239), or out at once. One to own local memory that fails does so as a load of
its bundle would (R253), and enters no buffer. -/
def doStore (t2 : Bool) (k : Fin 144) (t : Fin 4) (cst clk : Nat) (pc : Word) (i : IssueInfo) (a : Nat) (bs : List Byte)
    (st : State × Thread) : State × Thread :=
  let s := foldSig k a bs st.1
  if t2 ∧ s.placeOf k true a bs.length ≠ .ownFail then
    let p := s.plain a
    (s, { st.2 with sbuf := st.2.sbuf ++ [{ addr := a, data := bs, pc := pc, cst := cst, at_ := clk + 1, ue := hitWords i.ue p bs.length
                                            ce := hitWords i.ce p bs.length }] })
  else memStore k t cst clk pc i a bs (s, st.2)

/-! ## Shadow stack (R122 to R132) -/

/-- SS_CTL.en as it reads (R130). -/
def ssEn (t2 : Bool) (th : Thread) : Bool := !t2 || bit (th.segc 0x40) 8

/-- The segmented address of an offset of the spill area. -/
def ssAddr (th : Thread) (off : Nat) : Word := BitVec.ofNat 32 (fld (th.segc 0x40) 0 3 * 2 ^ 29 + off % 2 ^ 29)

/-- SS_PTR, of 29 bits, takes a value modulo 2^29 (DEDUCED, log entry 218): where a MOVC write of it has yet to take effect, the value in
force does (R113). -/
def Thread.setPtr (th : Thread) (x : Nat) : Thread :=
  let v := x % 2 ^ 29
  if th.ctlOld.any (fun e => decide (e.1 = 0x43)) then
    { th with ctlOld := th.ctlOld.map (fun e => if e.1 = 0x43 then (0x43, BitVec.ofNat 32 v) else e) }
  else th.setCreg 0x43 (BitVec.ofNat 32 v)

/-- The physical address that a fill reads, or none where it faults (R125, R126). -/
def fillAddr (th : Thread) : Option Nat :=
  let ptr := (th.segc 0x43).toNat
  if ptr < (th.segc 0x41).toNat + 64 then none
  else
    match th.check 17 true 4 64 (ssAddr th (ptr - 64)) with
    | .ok pa => some pa
    | _ => none

/-- The 16 words of an area read into the stack (R125). -/
def Thread.refill (th : Thread) (bs : List Byte) : Thread :=
  { th.setPtr ((th.segc 0x43).toNat - 64) with
    ss := th.ss ++ ((List.range 16).map (fun i => BitVec.ofNat 32 (leNat ((bs.drop (4 * i)).take 4)))).reverse }

/-- A fill begins in CCLK `clk` (R125, R129): own local memory is read at once, and the thread stalls 10 CCLK; any other memory is asked,
and the thread stalls until it answers. None where the thread has no tag for it, or the lead has not asked (R440). -/
def startFill (k : Fin 144) (t : Fin 4) (pa clk : Nat) (i : IssueInfo) (s : State) : Option State :=
  let th := s.thread k t
  match s.placeOf k false pa 64 with
  | .own tg =>
    if (hitWords i.ue (s.plain pa) 64).isEmpty then
      some ((s.ownCes (hitWords i.ce (s.plain pa) 64)).setThread k t { th.refill (s.loadAt tg 64) with resume := clk + 10 })
    else some ((s.ownUes k t .load (hitWords i.ue (s.plain pa) 64)).setThread k t { th.ownFault clk pa th.pc with resume := clk + 10 })
  | .ownFail => some (s.setThread k t { th.ownFault clk pa th.pc with resume := clk + 10 })
  | .far =>
    if (match s.leadOf k with | some q => (leadPart (s.thread q t) pa).isNone | none => decide (16 ≤ s.tagsUsed k)) then none
    else
      let r := askPart k t th.cst pa 64 s
      some (r.1.setThread k t { th with fillBuf := some { pc := th.pc, clk := clk, parts := [r.2] } })

/-- The blocks of the area that a discard of n entries reads in (R127): those that the entries held do not cover, as far as there are any. -/
def dropFills (th : Thread) (n : Nat) : Nat :=
  min ((n - th.ss.length + 15) / 16) (((th.segc 0x43).toNat - (th.segc 0x41).toNat) / 64)

/-- May a discard of n entries be made (R126, R127): does every block that it reads in pass the checks? -/
def dropOk (th : Thread) (n : Nat) : Bool :=
  (List.range (dropFills th n)).all (fun j =>
    match th.check 17 true 4 64 (ssAddr th ((th.segc 0x43).toNat - 64 * (j + 1))) with
    | .ok _ => true
    | _ => false)

/-- Discard of n entries as far as those held go: the thread, and how many are still to be discarded from the area. -/
def dropHeld (th : Thread) (n : Nat) : Thread × Nat :=
  ({ th with ss := th.ss.drop n }, if dropFills th n = 0 then 0 else n - th.ss.length)

/-- The physical address a spill writes, or none where it faults (R124, R126). -/
def spillAddr (th : Thread) : Option Nat :=
  let ptr := (th.segc 0x43).toNat
  if (th.segc 0x42).toNat < ptr + 63 then none
  else match th.check 18 true 4 64 (ssAddr th ptr) with
    | .ok pa => some pa
    | _ => none

/-- A spill of 64 bytes (R124): own local memory is written at once, and the thread stalls 10 CCLK; any other memory by a posted
write, for whose end the thread stalls (R129). The last component is the CCLK of the stall. -/
def spillOut (k : Fin 144) (t : Fin 4) (cst clk : Nat) (pc : Word) (i : IssueInfo) (pa : Nat) (bs : List Byte) (st : State × Thread) :
    State × Thread × Nat :=
  let s1 := foldSig k pa bs st.1
  match s1.placeOf k true pa 4 with
  | .far =>
    let s2 := if pa < 2 ^ 38 then dcStore k pa bs s1 else s1
    (match s2.leadOf k with
     | some q => (s2, { st.2 with spill := (s2.thread q t).spill }, 0)
     | none =>
       let r := s2.request (.core k t) .store pa 64 bs cst
       (r.1, { st.2 with posted := st.2.posted ++ [r.2], spill := some r.2 }, 0))
  | _ =>
    let r := (List.range 16).foldl (fun x j => memStore k t cst clk pc i (pa + 4 * j) ((bs.drop (4 * j)).take 4) x) (s1, st.2)
    (r.1, r.2, 10)

/-- A CALL pushes its return address, after a spill where the stack is full; the last component is the CCLK of the stall. `th` is the
thread before the bundle. -/
def ssPush (k : Fin 144) (t : Fin 4) (clk : Nat) (i : IssueInfo) (ret : Word) (th : Thread) (st : State × Thread) :
    State × Thread × Nat :=
  if th.ss.length < 64 then (st.1, { st.2 with ss := ret :: th.ss }, 0)
  else
    match spillAddr th with
    | none => (st.1, st.2, 0)
    | some pa =>
      let r := spillOut k t th.cst clk th.pc i pa ((th.ss.drop 48).reverse.flatMap (fun w => leBytes 4 w.toNat)) st
      (r.1, { r.2.1.setPtr ((th.segc 0x43).toNat + 64) with ss := ret :: th.ss.take 48 }, r.2.2)

/-- What RET finds with an entry held (R123): the thread with the entry popped, or the control-flow fault. -/
def ssPop (th : Thread) : Option Thread :=
  match th.ss with
  | e :: es => if e = th.ar 15 then some { th with ss := es } else none
  | [] => none

/-! ## MOVC (R111, R112, R182 to R184, R249 to R260, R405) -/

/-- The value that MOVC writes. -/
def movcVal (fn : Nat) (old v : Word) : Word := if fn = 1 then v else if fn = 2 then old ||| v else old &&& ~~~v

/-- Is the number a register of the save-set window? -/
def inWindow (n : Nat) : Bool := decide (0xC0 ≤ n) && decide (n ≤ 0xE4)

/-- The save set that SVSEL selects. -/
def Thread.selSet (th : Thread) : Nat := setIdx (bit (th.creg 0x81) 2) (fld (th.creg 0x81) 0 2)

/-- MSTAT as it reads: guard follows the accumulators (R155). -/
def Thread.mstat (th : Thread) : Word :=
  let g := (List.range 8).foldl (fun m k =>
    let v := (th.mr k).toInt
    if v < -(2 ^ 63) ∨ 2 ^ 63 - 1 < v then m + 2 ^ (8 + k) else m) 0
  (th.creg 0x11 &&& 0xFFFF00FF) ||| BitVec.ofNat 32 g

/-- A control register as MOVC reads it. -/
def movcRead (s : State) (k t : Nat) (th : Thread) (n : Nat) : Word :=
  if n = 0 then 0x03884F03
  else if n = 1 then 0x08204040
  else if n = 2 then 0x006100C0
  else if n = 3 then 0x10841010
  else if n = 8 then
    BitVec.ofNat 32 (t + (s.lcoreOf k).getD 0 * 4 + k / 9 * 2 ^ 9 + k % 9 * 2 ^ 13)
  else if n = 0x11 then th.mstat
  else if n = 0x40 then (if s.isT2 k then th.creg 0x40 else th.creg 0x40 ||| 0x100)
  else if n = 0x44 then BitVec.ofNat 32 th.ss.length
  else if n = 0x45 then 0
  else if n = 0x80 then
    th.creg 0x80 ||| (match th.shadow with | some x => if x.last then 0 else 0x10 | none => 0)
  else if n = 0x82 then (if th.land then th.creg 0x82 else th.creg 0x83)
  else if inWindow n then th.sv th.selSet (n - 0xC0)
  else if n = 0x104 then th.privBits (fun x => decide (x.st = .pending))
  else if n = 0x105 ∨ n = 0x106 ∨ n = 0x108 ∨ n = 0x109 then 0
  else if n = 0x110 then th.privBits (fun x => x.level)
  else if n = 0x111 then th.privBits (fun x => decide (x.st = .active) || decide (x.st = .holdoff))
  else if 0x112 ≤ n ∧ n ≤ 0x119 then
    BitVec.ofNat 32 (th.priv.foldl (fun m e => if e.1 / 4 = n - 0x112 then m + e.2.cnt * 2 ^ (8 * (e.1 % 4)) else m) 0)
  else th.creg n

/-- Bits of a control register that a write changes. -/
def movcMask (t2 : Bool) (n : Nat) : Word :=
  if n = 0x10 then 0x1F07
  else if n = 0x11 then 0x3F00FF
  else if 0x18 ≤ n ∧ n ≤ 0x1B then 0x0FFFFFFF
  else if 0x20 ≤ n ∧ n < 0x40 then
    (if n % 4 = 0 then 0xFFFFFFF8 else if n % 4 = 1 then 0x007F0FFF else 0x1FFFFFFF)
  else if n = 0x40 then (if t2 then 0x107 else 0x007)
  else if 0x41 ≤ n ∧ n ≤ 0x43 then 0x1FFFFFFF
  else if n = 0x81 then 0x7
  else if n = 0x82 ∨ n = 0x83 then 0xFE00
  else if n = 0xC1 then 0xFFC03FFF
  else if n = 0xC3 then 0x7F
  else if n = 0xC5 then 0x000FFF07
  else if inWindow n ∧ n % 8 = 0 ∧ 0xC8 ≤ n then 0x07FFFFFF
  else if n = 0x102 then 1
  else 0xFFFFFFFF

/-- May the thread make this MOVC (R112, R250, R255, R258, R405)? `fn` 0 reads. -/
def movcAllowed (th : Thread) (fn n : Nat) : Bool :=
  let rd := decide (fn = 0)
  if th.level = 0 then
    n = 0x10 || n = 0x11 || (decide (0x18 ≤ n) && decide (n ≤ 0x1C)) || n = 0x45 ||
    (decide (0x48 ≤ n) && decide (n ≤ 0x50)) ||
    (rd && (decide (n ≤ 3) || n = 8 || n = 0x44 || n = 0x80))
  else if th.land then true
  else
    if n = 0x83 then false
    else if (0x20 ≤ n ∧ n ≤ 0x43) ∨ n = 0x107 ∨ (0x10A ≤ n ∧ n ≤ 0x10F) then rd
    else if inWindow n then !bit (th.creg 0x81) 2
    else if 0x100 ≤ n ∧ n ≤ 0x102 then rd || !bit (th.creg 0x10A) 0
    else true

/-- Change the swpend bits of private sources (R384). -/
def privSw (v : Word) (val : Bool) (th : Thread) : Thread :=
  (List.range 32).foldl (fun t i =>
    if v.getLsbD i ∧ (i ≤ 10 ∨ (16 ≤ i ∧ i ≤ 23)) then
      { t with priv := smSet (fun _ => Src.init) t.priv i ((smGet (fun _ => Src.init) t.priv i).setSw val) }
    else t) th

/-- The effect of a MOVC write of `v` to register n on its thread `th`; `old` is the value in force. SS_DROP is apart. What a set recorded
with a long operation is no longer kept once software has written that record. -/
def movcPut (t2 : Bool) (n : Nat) (old v : Word) (th : Thread) : Thread :=
  let sea := !th.land
  let bits := if sea then v &&& ~~~(th.creg 0x10A) else v
  let m := movcMask t2 n
  if n = 0x80 then th.setCreg 0x80 (setFld (th.creg 0x80) 3 1 (fld v 3 1))
  else if n = 0x81 then
    th.setCreg 0x81 (if fld v 0 2 = 0 then BitVec.ofNat 32 (1 + fld v 2 1 * 4) else v &&& 7)
  else if n = 0x82 then th.setCreg (if th.land then 0x82 else 0x83) (v &&& m)
  else if inWindow n then
    let i := th.selSet
    let w := v &&& m
    let w' := if n = 0xC1 ∧ i < 4 then w &&& 0xFFFFFFFB else w
    let th1 := th.setSv i (n - 0xC0) w'
    if 0xC8 ≤ n then { th1 with svx := smDel th1.svx (4 * i + (n - 0xC8) / 8) } else th1
  else if n = 0x103 then th.setCreg 0x103 (th.creg 0x103 &&& ~~~bits)
  else if n = 0x105 then privSw bits true th
  else if n = 0x106 then privSw bits false th
  else if n = 0x108 then th.setCreg 0x107 (th.creg 0x107 ||| bits)
  else if n = 0x109 then th.setCreg 0x107 (th.creg 0x107 &&& ~~~bits)
  else th.setCreg n ((old &&& ~~~m) ||| (v &&& m))

/-- A MOVC read of a count register clears it (R386). -/
def movcReadEffect (n : Nat) (th : Thread) : Thread :=
  if 0x112 ≤ n ∧ n ≤ 0x119 then
    let p1 := th.priv.map (fun e => if e.1 / 4 = n - 0x112 then (e.1, { e.2 with cnt := 0 }) else e)
    { th with priv := p1.filter (fun e => decide (e.2 ≠ Src.init)) }
  else th

/-- Is a write of CSTAT[2:0] permitted (R249)? -/
def modeOk (th : Thread) (v : Word) : Bool :=
  decide (th.level = 1) && decide (fld v 0 2 ≤ 1) && decide (fld v 0 3 ≤ rank th.land th.level)

/-- Does the MOVC write change CSTAT's level or world? -/
def movcMode (th : Thread) (fn n : Nat) (v : Word) : Bool :=
  decide (n = 0x80) && decide (fn ≠ 0) && decide (fld (movcVal fn (th.creg 0x80) v) 0 3 ≠ th.cst)

/-- Is a MOVC refused with the privilege exception? -/
def movcPriv (th : Thread) (fn n : Nat) (v : Word) : Bool :=
  let w := movcVal fn (th.creg n) v
  !movcAllowed th fn n ||
  (decide (fn ≠ 0) && decide (n = 0x80) && movcMode th fn n v && !modeOk th w) ||
  (decide (fn ≠ 0) && decide (n = 0x81) && !th.land && bit w 2)

end Sys2Proof.Machine
end

