-- ==== Sys2Proof/Machine/Front.lean ====
section
/-! DEFINITION. The fetch unit of a core (spec/05_core_pipeline.md R197 to R215): the fetch queues, the two ports, what the predictor
says of a bundle, hardware loops as the fetch unit follows them, the loop buffer, and the passage of CCLK. -/

namespace Sys2Proof.Machine

/-! ## Branch prediction (R202 to R205) -/

/-- The branch of a bundle, whatever its condition: where it goes, whether it is a call, and whether it is delayed. -/
def branchIn (t2 : Bool) (ops : List RawOp) : Option (BTarget × Bool × Bool) :=
  ops.findSome? (fun o => match o.dec t2 with
    | .ok (.branch tg call dl) => some (tg, call, dl)
    | _ => none)

/-- Is the predictor in use for a bundle at a physical address (R202, R236)? -/
def State.predOn (s : State) (k : Nat) (pa : Nat) : Bool :=
  !s.isDet k && bit (s.reg (aCorePipeCfg k)) 8 && (s.isOwnItcm k pa || s.cacheable k 0 pa)

/-- The valid entry that matches a bundle address. -/
def State.predEntry (s : State) (k : Nat) (pc : Word) : Option PredEntry :=
  let e := smGet (fun _ => PredEntry.init) (s.core k).pred (fld pc 1 9)
  if e.valid ∧ e.tag = fld pc 10 8 then some e else none

/-- What the fetch of a bundle from the I-TCM or the I-cache finds in the predictor: whether an entry matches, and the target where it is
predicted taken (R202, R203). RET is predicted to return to the top of the shadow stack as it stands in F1 (R204; DEDUCED, log entry
36). -/
def State.predict (s : State) (k : Nat) (th : Thread) (pc : Word) (br : Option (BTarget × Bool × Bool)) : Bool × Option Word :=
  let e := s.predEntry k pc
  let p := match e with | some x => if 2 ≤ x.ctr then some x.target else none | none => none
  match br with
  | some (.link, false, _) => if ssEn (s.isT2 k) th ∧ th.ss ≠ [] then (e.isSome, th.ss.head?) else (e.isSome, p)
  | _ => (e.isSome, p)

/-- The predictor after a branch resolves (R205). -/
def predUpdate (k : Nat) (pc tgt : Word) (taken : Bool) (s : State) : State :=
  let c := s.core k
  let i := fld pc 1 9
  match s.predEntry k pc with
  | some e =>
    let ctr := if taken then min 3 (e.ctr + 1) else e.ctr - 1
    s.setCore k { c with pred := smSet (fun _ => PredEntry.init) c.pred i { e with ctr := ctr, target := tgt } }
  | none =>
    let e : PredEntry := { valid := true, tag := fld pc 10 8, ctr := 2, target := tgt }
    if taken then s.setCore k { c with pred := smSet (fun _ => PredEntry.init) c.pred i e } else s

/-! ## Where fetch goes (R203, R208, R273) -/

/-- The address after a fetched bundle in sequence; none where it has no end, or leaves the segment (R116). -/
def FqEnt.seq (e : FqEnt) : Option Word :=
  match cut e.data with
  | .ok _ len => if fld (e.pc + BitVec.ofNat 32 len) 29 3 = fld e.pc 29 3 then some (e.pc + BitVec.ofNat 32 len) else none
  | _ => none

/-- Iterations that a level has left once the loop-backs already fetched have run. -/
def Thread.leftOf (th : Thread) (before : List FqEnt) (n : Nat) : Nat :=
  (th.lpCount n).toNat - (before.filter (fun e => decide (e.back = some n))).length

/-- After the bundle at LPn_END the fetch unit takes LPn_START while iterations remain (R177, R208). -/
def loopFetch (th : Thread) (before : List FqEnt) (pc : Word) : Option (Nat × Word) :=
  ([2, 1, 0].find? (fun n => decide (th.creg (0x49 + 3 * n) = pc) && decide (2 ≤ th.leftOf before n))).map
    (fun n => (n, th.creg (0x48 + 3 * n)))

/-- What is fetched after bundle `e`, where the bundles `before` stand before it in the queue, and the level that loops back with it: after
a delay bundle the branch's target, after a delayed branch its delay bundle, else as predicted, as the loops say, or the next in
sequence. -/
def nextOf (th : Thread) (before : List FqEnt) (e : FqEnt) : Option Word × Option Nat :=
  let over_ : Option Word := match before.getLast? with
    | some p => if p.delay then p.pred else none
    | none => th.tgt
  match e.bad, over_ with
  | some _, _ => (none, none)
  | none, some tg => (if e.seq.isSome then some tg else none, none)
  | none, none =>
    match e.pred with
    | some tg => if e.delay then (e.seq, none) else (some tg, none)
    | none =>
      if th.skip && before.isEmpty then (e.seq, none)
      else match loopFetch th before e.pc with
        | some (n, a) => (some a, some n)
        | none => (e.seq, none)

/-- The address that a thread fetches next (R199): after the last bundle of its queue, or its next bundle. -/
def Thread.fetchPc (th : Thread) : Option Word :=
  match th.fq.getLast? with
  | some e => e.next
  | none => if th.seqx then none else some th.pc

/-- The queue with each bundle's successor set right by what is known now; what was fetched beyond the first wrong one goes. The second
component says whether anything went. -/
def rechain (th : Thread) : List FqEnt → List FqEnt → List FqEnt × Bool
  | b, [] => (b, false)
  | b, e :: es =>
    let n := nextOf th b e
    if n.1 = e.next then rechain th (b ++ [{ e with back := n.2 }]) es
    else (b ++ [{ e with next := n.1, back := n.2 }], !es.isEmpty)

/-- The fetch unit after the thread's bundle left the queue in CCLK `clk` (R206): bundles that do not follow are discarded, and the right
ones are fetched from `clk` on, or one CCLK later after a misprediction. After a branch that was not predicted right (`wrong`), every bundle
fetched behind it, or behind its delay bundle, is discarded, wherever the branch goes. -/
def Thread.redirect (th : Thread) (clk : Nat) (misp wrong : Bool) (old : Option Word) : Thread :=
  let from_ := max th.fetFrom (clk + b2n misp)
  match th.fq with
  | [] => if old = some th.pc ∧ th.seqx = false ∧ wrong = false then th
    else th.refetch (if th.delay.isSome then max th.fetFrom clk else from_)
  | h :: _ =>
    if h.pc ≠ th.pc ∨ th.seqx = true ∨ (wrong = true ∧ th.delay.isNone = true) then th.flush from_
    else
      let r := rechain th [] (if wrong then [h] else th.fq)
      let th1 := { th with fq := r.1 }
      if th1.fetchPc = old ∧ wrong = false then th1 else th1.refetch from_

/-! ## The loop buffer (R209 to R215) -/

/-- A loop buffer takes a fetched bundle of the body that it captures (R209); one that grows beyond 64 bundles is freed (R210). -/
def LoopBuf.take (b : LoopBuf) (e : FqEnt) : Option LoopBuf :=
  let here : Bool := match b.held.getLast? with
    | none => decide (e.pc = b.first)
    | some x => decide (x.seq = some e.pc)
  if b.valid || !here || e.bad.isSome || (match cut e.data with | .ok _ _ => false | _ => true) then some b
  else if 64 ≤ b.held.length then none
  else if e.pc = b.last then some { b with cap := false, valid := true, held := b.held ++ [e] }
  else some { b with cap := true, held := b.held ++ [e] }

/-- A loop buffer takes bundles that its thread has fetched already. -/
def LoopBuf.takeAll (b : LoopBuf) : List FqEnt → Option LoopBuf
  | [] => some b
  | e :: es => match b.take e with
    | some b1 => b1.takeAll es
    | none => none

/-- The loop buffer after a bundle of thread t at pc has issued: freed by the end of its level, by a branch taken in a body that it still
captures, and by one out of a body that it holds (R210, R213). -/
def lbFollow (t : Nat) (pc : Word) (taken : Option Word) (ended : List Nat) (b : LoopBuf) : Option LoopBuf :=
  let inBody := fun (a : Word) => decide (b.first.toNat ≤ a.toNat) && decide (a.toNat ≤ b.last.toNat)
  if b.thr ≠ t then some b
  else if ended.contains b.level then none
  else match taken with
    | some a => if inBody pc && (!b.valid || !inBody a) then none else some b
    | none => some b

/-- Follow a bundle in the loop buffer. -/
def followLb (k t : Nat) (pc : Word) (taken : Option Word) (ended : List Nat) (s : State) : State :=
  match (s.core k).lb with
  | none => s
  | some b => s.setCore k { s.core k with lb := lbFollow t pc taken ended b }

/-- The capture that starts again after an exception, with the fetch of LPn_START of an active level (R213, R274): the
innermost one, since SVLOOP keeps no level (DEDUCED, log entry 225). -/
def recapture (k t : Nat) (pc : Word) (s : State) : State :=
  let th := s.thread k t
  if th.recap ∧ (s.core k).lb.isNone then
    match [2, 1, 0].find? (fun n => decide (th.lpCount n ≠ 0) && decide (th.creg (0x48 + 3 * n) = pc)) with
    | some n =>
      let b : LoopBuf := { thr := t, level := n, first := pc, last := th.creg (0x49 + 3 * n), cap := false, valid := false, held := [] }
      (s.setCore k { s.core k with lb := some b }).setThread k t { th with recap := false }
    | none => s
  else s

/-- The loop buffer sees a fetch of thread t. -/
def captureLb (k t : Nat) (e : FqEnt) (s0 : State) : State :=
  let s := recapture k t e.pc s0
  match (s.core k).lb with
  | some b => if b.thr = t then s.setCore k { s.core k with lb := b.take e } else s
  | none => s

/-- The bundle that the loop buffer delivers to the thread that holds it (R211, R212): that of its fetch address, where the address still
maps to the memory that it was captured from. -/
def State.lbServes (s : State) (k t : Nat) : Option FqEnt :=
  let th := s.thread k t
  match (s.core k).lb, th.fetchPc with
  | some b, some pc =>
    if b.thr = t ∧ b.valid = true then
      (match b.held.find? (fun e => decide (e.pc = pc)), th.check 19 false 1 2 pc with
       | some e, .ok pa => if e.pa = pa then some e else none
       | _, _ => none)
    else none
  | _, _ => none

/-! ## One fetch -/

/-- A fetched bundle enters the queue of its thread, or the bundles fetched ahead (R214). -/
def enqueue (k t : Nat) (early : Bool) (e : FqEnt) (s : State) : State :=
  let th := s.thread k t
  let th1 := { th with half := none, fetched := [] }
  if early then
    let n := nextOf th (th.fq ++ th.ahead) e
    s.setThread k t { th1 with ahead := th.ahead ++ [{ e with next := n.1, back := n.2 }] }
  else
    let n := nextOf th th.fq e
    captureLb k t e (s.setThread k t { th1 with fq := th.fq ++ [{ e with next := n.1, back := n.2 }] })

/-- Does a fetch of an address read the I-cache: not own memory, nor a block that has just arrived? -/
def State.inIcache (s : State) (k : Nat) (th : Thread) (a : Nat) : Bool :=
  !s.isOwn k a && !th.fetched.any (fun f => decide (f.line = a / 64)) && s.cacheable k 0 a

/-- A fetch from the I-cache makes its line the most recent (Table 05-9). -/
def touchCode (k : Nat) (th : Thread) (a : Nat) (s : State) : State :=
  if !s.inIcache k th a then s
  else s.setCore k { s.core k with icache := touchLine (a / 64) (s.core k).icache }

/-- One fetch of thread t at address pc in CCLK `clk` (R197 to R200): a 32-byte block, or the second of a bundle that spans two; the bundle
may issue from the third CCLK on. A bundle whose fetch fails, or may not be made, enters the queue as it is, and its fault is taken when it
would issue. -/
def fetchOne (k : Fin 144) (t : Fin 4) (pc : Word) (early : Bool) (clk : Nat) (s : State) : State :=
  let th := s.thread k t
  let ent := FqEnt.of pc (clk + 3)
  match th.check 19 false 1 2 pc with
  | .ok pa =>
    let e1 := { ent with pa := pa }
    if s.isDet k && !s.isOwnItcm k pa then enqueue k t early e1 s
    else
      let pre := th.half.getD []
      let a := pa + pre.length
      match s.codeAt k th a with
      | .bad x => enqueue k t early { e1 with data := pre, bad := some x } s
      | .miss x => (beginFetch k t x clk s).getD s
      | .have_ bs =>
        let s1 := touchCode k th a s
        let data := pre ++ bs.drop (a % 32)
        let e1 := { e1 with lines := ([pa, a].filter (fun x => s.inIcache k th x)).map (fun x => x / 64) }
        match cut data with
        | .more =>
          if pre.isEmpty && (parcel th th.land (decide (th.level ≠ 0)) pc (data.length / 2 * 2)).isSome then
            s1.setThread k t { th with half := some data }
          else enqueue k t early { e1 with data := data } s1
        | .illegal _ => enqueue k t early { e1 with data := data } s1
        | .ok raw _ =>
          let br := branchIn (s.isT2 k) raw
          let p := if s.predOn k pa then s.predict k th pc br else (false, none)
          enqueue k t early { e1 with data := data, hit := p.1, pred := p.2, delay := (match br with | some (_, _, dl) => dl | none => false) } s1
  | _ => enqueue k t early ent s

/-- Has the thread room in its queue, and nothing outstanding after a miss (R199, R200)? The first handler bundle waits for nothing that was
fetched before the entry (R224). -/
def State.mayFetch (s : State) (k t : Nat) : Bool :=
  let th := s.thread k t
  th.running && s.enabledThr k t && th.fetch.all (fun f => th.entry && !f.live) && decide (th.fq.length + th.ahead.length < 4)

/-- The address that port 0 fetches for a thread: what its queue lacks; or, where the loop buffer serves its queue in the final iteration,
the bundles after the body, early (R214). -/
def State.portPc (s : State) (k t : Nat) : Option (Word × Bool) :=
  let th := s.thread k t
  match s.lbServes k t with
  | none => th.fetchPc.map (fun pc => (pc, false))
  | some _ =>
    match (s.core k).lb with
    | some b =>
      if th.leftOf th.fq b.level = 1 then
        (match th.ahead.getLast? with
         | some e => e.next.map (fun pc => (pc, true))
         | none => b.held.getLast?.bind (fun e => (nextOf { th with delay := none } (th.fq.map (fun x => { x with delay := false })) { e with pred := none }).1.map (fun pc => (pc, true))))
      else none
    | none => none

/-- The loop buffer delivers one bundle to its thread (R211). -/
def lbDeliver (k clk : Nat) (s : State) : State :=
  match (s.core k).lb with
  | none => s
  | some b =>
    if s.mayFetch k b.thr && decide ((s.thread k b.thr).fetFrom ≤ clk) then
      match s.lbServes k b.thr with
      | some e => enqueue k b.thr false { e with at_ := clk + 3, hit := false, pred := none, lines := [], loop := true } s
      | none => s
    else s

/-- Bundles fetched early join the queue once it reaches them. -/
def joinAhead (k t : Nat) (s : State) : State :=
  let th := s.thread k t
  match th.ahead with
  | [] => s
  | e :: _ => if th.fetchPc = some e.pc then s.setThread k t { th with fq := th.fq ++ th.ahead, ahead := [] } else s

/-- The first handler bundle is fetched through the entry read path, which takes no port (R226), where it lies in the core's own I-TCM
(R257). -/
def entryFetch (k : Fin 144) (t : Fin 4) (clk : Nat) (s : State) : State :=
  let th := s.thread k t
  if th.entry && th.fq.isEmpty && decide (th.fetFrom ≤ clk) && s.mayFetch k t &&
      (match th.check 19 false 1 2 th.pc with | .ok pa => s.isOwnItcm k pa | _ => true) then
    let s1 := fetchOne k t th.pc false clk s
    if (s1.thread k t).half.isSome then fetchOne k t th.pc false clk s1 else s1
  else s

/-- The thread that port 0 fetches for in a CCLK: round-robin from the one after the last (R199). -/
def State.portThread (s : State) (k clk : Nat) : Option (Fin 4) :=
  let c := s.core k
  ((List.range 4).map (fun i => Fin.ofNat 4 (c.fetThr + 1 + i))).find? (fun t =>
    s.mayFetch k t && decide ((s.thread k t).fetFrom ≤ clk) && (s.portPc k t).isSome)

/-- Port 0 fetches, in a CCLK in which no L0 access takes it (R197). -/
def portFetch (k : Fin 144) (clk : Nat) (s : State) : State :=
  if (s.core k).l0.contains clk then s
  else match s.portThread k clk with
    | none => s
    | some t =>
      match s.portPc k t with
      | some (pc, early) => fetchOne k t pc early clk (s.setCore k { s.core k with fetThr := t })
      | none => s

/-- Does some enabled thread's fetch queue hold no bundle in a CCLK (Table 05-12)? -/
def State.someEmpty (s : State) (k clk : Nat) : Bool :=
  (List.range 4).any (fun t => (s.thread k t).running && s.enabledThr k t && !(s.thread k t).fq.any (fun e => decide (e.at_ ≤ clk + 2)))

/-- The fetch unit in one CCLK, after what issues in it; CORE_FQ_EMPTY counts. -/
def fetchCclk (k : Fin 144) (clk : Nat) (s : State) : State :=
  let c := s.core k
  let s1 := if (c.issClk ≠ clk ∨ c.issued = []) ∧ c.clrClk ≠ some clk ∧ s.someEmpty k clk = true then s.addReg (aCoreFqEmpty k) 1 else s
  let s2 := foldS (fun t s => entryFetch k t clk s) [0, 1, 2, 3] s1
  let s3 := portFetch k clk (lbDeliver k clk s2)
  foldS (fun t s => joinAhead k t s) (List.range 4) s3

/-- Is there nothing more that the fetch unit may do without an event? -/
def State.fetchIdle (s : State) (k clk : Nat) : Bool :=
  (List.range 4).all (fun t =>
    !(s.mayFetch k t && (s.thread k t).fetchPc.isSome) && (s.thread k t).fq.all (fun e => decide (e.at_ ≤ clk + 2)))

/-- The fetch unit over n CCLK from `clk`. -/
def fetchRun (k : Fin 144) : Nat → Nat → State → State
  | 0, _, s => s
  | n + 1, clk, s =>
    let s1 := fetchCclk k clk s
    if s1.fetchIdle k (clk + 1) then (if s1.someEmpty k (clk + 1) then s1.addReg (aCoreFqEmpty k) n else s1)
    else fetchRun k n (clk + 1) s1

/-! ## Time on a core -/

/-- What a private timer reads n CCLK after it passed to 0 and took its reload value, and whether it passes to 0 in the last of them. -/
def ptimerRun (rld n : Nat) : Nat × Bool :=
  if rld = 0 then (0, decide (n = 0)) else (rld - n % rld, decide (n % rld = 0))

/-- A running private timer counts down to CCLK clk; where it passes to 0, PSTAT.tmr is set and it takes its reload value, whatever row lets
the time pass (R397; DEDUCED, log entry 227). -/
def Thread.tick (th : Thread) (dt clk : Nat) : Thread :=
  let c := (th.creg 0x100).toNat
  if bit (th.creg 0x102) 0 ∧ c ≠ 0 then
    if dt < c then th.setCreg 0x100 (BitVec.ofNat 32 (c - dt))
    else
      let r := ptimerRun (th.creg 0x101).toNat (dt - c)
      let th1 := th.setCreg 0x100 (BitVec.ofNat 32 r.1)
      if r.2 then th1.pstatSet clk 1 else th1.setCreg 0x103 (th1.creg 0x103 ||| 1)
  else th

/-- dt CCLK pass on slot k: the fetch unit works, timers count, and loads of Legacy T2 whose E2 comes look at the store buffer. -/
def advance (k : Fin 144) (dt : Nat) (s : State) : State :=
  if dt = 0 then s
  else
    let clk := (s.core k).clk
    let s1 := if s.coreRuns k then fetchRun k dt clk s else s
    let s2 := foldS (fun t s => s.onThread k t (fun th => th.tick dt (clk + dt))) (List.range 4) (s1.passCclk k dt)
    let s3 := s2.setCore k { s2.core k with
      l0 := (s2.core k).l0.filter (fun c => decide (clk + dt ≤ c)), l1 := (s2.core k).l1.filter (fun c => decide (clk + dt ≤ c)) }
    checkLoads k (clk + dt) s3

end Sys2Proof.Machine
end

