-- ==== Sys2Proof/Machine/Issue.lean ====
section
/-! DEFINITION. The issue of a bundle (spec/05_core_pipeline.md): readiness, interlocks and the choice of a thread, exceptions in the
order of Table 06-11, the effects of the bundle, and what follows it: branches, loops and mode changes. -/

namespace Sys2Proof.Machine

/-! ## The thread in a CCLK -/

/-- Pass over the bundle that a LOOP of 0 iterations ends at, once it is in D (R176). -/
def State.resolveSkip (s : State) (k clk : Nat) (th : Thread) : Thread :=
  if th.skip then
    match s.headAt k th clk, th.fq with
    | .ok _ len, e :: es => { th with fq := es, pc := th.pc + BitVec.ofNat 32 len, skip := false, seqx := e.seq.isNone }
    | _, _ => th
  else th

/-- The CCLK up to which long operations of a thread retire by CCLK `clk`: those after an exception that is due are abandoned by its entry
(R253, R269). -/
def Thread.stopAt (th : Thread) (clk : Nat) : Nat :=
  if th.entry then clk
  else (th.imprec.map (fun e => e.due) ++ (th.long.filter (fun o => o.byZero)).map (fun o => o.due)).foldl min clk

/-- A thread as it stands in a CCLK: long operations due have retired, and results due are seen. -/
def State.settled (s : State) (k t clk : Nat) : State :=
  s.onThread k t (fun th => let c := th.stopAt clk; s.resolveSkip k clk (settle c (retireDue c th)))

/-- The next bundle of a thread, which an entry saves (R263): behind a bundle that is passed over, the one after it; or, where the fetch of
that bundle faults, that bundle itself (DESIGN CHOICE, log entry 219). -/
def State.nextPc (s : State) (k : Nat) (th : Thread) : Word := if th.skip then (s.past? k th th.pc).getD th.pc else th.pc

/-- Does nothing tell yet what the thread's next bundle is: behind a bundle that is passed over, and whose code is still to come (R176)?
Entries wait until then (DESIGN CHOICE, log entry 219). -/
def State.skipOpen (s : State) (k : Nat) (th : Thread) (clk : Nat) : Bool :=
  th.skip && (s.past? k th th.pc).isNone && (match s.headAt k th clk with | .wait => true | .stale => true | _ => false)

/-- Take an exception of the thread's next bundle, behind one that is passed over (R176). -/
def raiseNext (k : Fin 144) (t : Fin 4) (c : Cause) (clk : Nat) (s : State) : State :=
  raise k t c clk (s.onThread k t (fun th => { th with pc := s.nextPc k th, skip := false }))

/-- The first exception to come due of those whose CCLK has come. -/
def Thread.imprecDue (th : Thread) (clk : Nat) : Option Imprec :=
  (th.imprec.filter (fun e => decide (e.due ≤ clk))).foldl (fun m e => match m with
    | some x => if e.due < x.due then some e else m
    | none => some e) none

/-- The GATE entry that follows its shadow bundle (R276). The first bundle at the entry point is still in the shadow of the
change (R282). -/
def gateEntry (k : Fin 144) (t : Fin 4) (num clk : Nat) (ecc : List EccHit) (s : State) : State :=
  let th := s.thread k t
  let s1 := enter k t { Cause.of 2 ecc with info := num } true 1 (s.nextPc k th) th.tgt clk (s.setThread k t { th with shadow := none, skip := false })
  let th1 := s1.thread k t
  if th1.entry then s1.setThread k t { th1 with shadow := some { cstat := th1.creg 0x80, gate := none, last := true } }
  else s1

/-- The exception and entry that follow a bundle (R154, R276, R281, R282), as a record that can wait: vector 12 for ACC_OVF or 2 for the
entry alone; `phys` is one more than the number of a GATE whose shadow bundle it was, and `word` is 1 where the bundle made a mode change. CCLK
0 is `clk`. -/
def takeAfter (k : Fin 144) (t : Fin 4) (e : Imprec) (ecc : List EccHit) (clk : Nat) (s : State) : State :=
  if e.vec = 2 then gateEntry k t (e.phys - 1) clk ecc s
  else
    let gate := decide (e.word = 0) && decide (e.phys ≠ 0)
    let s1 := if gate then gateEntry k t (e.phys - 1) clk ecc s else s
    let ecc1 := if gate then ecc.tail else ecc
    if (s1.thread k t).running = false then s1
    else if e.word = 1 then
      let s2 := endShadow k t ecc1 (s1.onThread k t (fun th => { th with pc := s1.nextPc k th, skip := false }))
      let th := s2.thread k t
      if th.running = false then s2 else raiseAt k t (Cause.of 12 ecc1) th.pc th.tgt clk s2
    else raiseNext k t (Cause.of 12 ecc1) clk s1

/-- Does the thread wait in LBAR or RFE (R189, R271): its next bundle is in D and carries one whose condition is true? -/
def State.longWait (s : State) (k : Nat) (th : Thread) (clk : Nat) : Bool :=
  match s.headAt k th clk with
  | .ok raw _ => (liveOps (s.isT2 k) th raw).any (fun e => decide (e.2.2 = .lbar) || decide (e.2.2 = .rfe))
  | _ => false

/-- Take an exception in CCLK `clk`: precisely where the thread waits in LBAR or RFE (R189, R278). It waits behind the first handler bundle
of an entry (R287), and until the thread's next bundle is known (R176). -/
def takeImprec (k : Fin 144) (t : Fin 4) (e : Imprec) (clk : Nat) (ecc : List EccHit) (s : State) : State :=
  let th := s.thread k t
  let rest := th.imprec.filter (fun x => decide (x ≠ e))
  let s1 := s.setThread k t { th with imprec := rest }
  if th.entry ∨ s.skipOpen k th clk = true then s.setThread k t { th with imprec := rest ++ [e] }
  else if e.vec = 2 ∨ e.vec = 12 then takeAfter k t e ecc clk s1
  else if e.vec = 11 ∧ s.longWait k (settle e.due th) e.due = true then raise k t (Cause.of 11 ecc) e.due s1
  else raiseNext k t (e.cause ecc) e.due s1

/-- The exception that a thread takes in a CCLK before anything else (R253). -/
def State.imprecNow (s : State) (k : Nat) (th : Thread) (clk : Nat) : Option Imprec :=
  if th.entry || s.skipOpen k th clk then none else th.imprecDue clk

/-! ## Readiness (R216) -/

/-- Slots taken in this CCLK: by the other thread of a TWIN issue, by an operation of the CCLK before that keeps its M slot (R138), and by
reissues (R227); none where the core has issued already (R218, R219). -/
def State.busySlots (s : State) (k t clk : Nat) : Option (List Nat) :=
  let c := s.core k
  let held := (if clk < c.mHold.1 then [2] else []) ++ (if clk < c.mHold.2 then [3] else []) ++
    (if c.sHold.1 ≤ clk ∧ clk ≤ c.sHold.2 ∧ 0 < c.sHold.2 then [7] else [])
  if clk = c.issClk ∧ c.issued ≠ [] then
    if legal 14 3 (fld (s.reg (aCorePipeCfg k)) 2 2) = 2 ∧ s.profile k = 0 ∧ c.issued.length = 1 ∧ c.issued.contains t = false then
      some (c.used ++ held)
    else none
  else some held

/-- Does a far load stall the thread in a CCLK (R229, R241)? One that has not found tags in its E2 does (R27). -/
def FarLoad.stalls (f : FarLoad) (clk : Nat) : Bool := decide (f.clk + (if f.after = 0 ∨ f.chk = true then 3 else 2) ≤ clk)

/-- Is the thread free of stalls in a CCLK: entry, penalty, far load, spill and fill (R129), and Deterministic long operations (R223)? -/
def State.unstalled (s : State) (k : Nat) (th : Thread) (clk : Nat) : Bool :=
  decide (th.resume ≤ clk) && decide (th.lastIss < clk) && !th.far.any (fun f => f.stalls clk) && th.fillBuf.isNone && th.spill.isNone &&
  !(s.isDet k && !th.long.isEmpty)

/-- Long operations of the engines' kind in flight on a core (R221). -/
def State.engines (s : State) (k : Nat) (int : Bool) : Nat :=
  (List.range 4).foldl (fun n t => n + ((s.thread k t).long.filter (fun o => isIntLong o.fn == int)).length) 0

/-- The long operation of a bundle, by function. -/
def longIn (ops : List (Nat × RawOp × TOp)) : Option Nat :=
  ops.findSome? (fun e => match e.2.2 with | .long fn _ _ _ => some fn | _ => none)

/-- R166, R167 and R221: do long operations let the bundle issue? -/
def State.longReady (s : State) (k : Nat) (t2 : Bool) (th : Thread) (ops : List (Nat × RawOp × TOp)) : Bool :=
  let ds := th.long.flatMap (fun o => o.dests)
  !ops.any (fun e => (e.2.2.readsD ++ e.2.2.writesD t2).any (fun d => ds.contains d)) &&
  (match longIn ops with
   | none => true
   | some fn => decide (th.long.length < 4) && decide (s.engines k (isIntLong fn) < (if isIntLong fn then 4 else 2)))

/-- The access of a load or store: size, base register and mode. -/
def TOp.mem? : TOp → Option (Bool × Nat × Nat × AMode)
  | .load k _ a m => some (false, k.size, a, m)
  | .store k _ a m => some (true, k.size, a, m)
  | _ => none

/-- The outcome of the checks of a load or store (Table 03-13, R114, R235): physical address, or vector and SVADDR. -/
def State.accessOf (s : State) (k : Nat) (th : Thread) (st : Bool) (n a : Nat) (m : AMode) : Nat ⊕ (Nat × Word) :=
  let ea := (eaOf th a n m 0).1
  if fld ea 29 3 ≠ fld (th.ar a) 29 3 then .inr (7, ea)
  else
    match th.check (if st then 18 else 17) false (alignOf n) n ea with
    | .seg => .inr (7, ea)
    | .align => .inr (9, ea)
    | .ok pa =>
      if s.isDet k ∧ st = false ∧ s.isOwn k pa = false ∧ (match s.decodeAddr pa with | .dev _ => true | _ => false) = false then .inr (13, 0)
      else .inl pa

/-- Has the lead asked for every part that a checker's load needs (R440)? -/
def State.leadReady (s : State) (k t : Nat) (st : Bool) (pa n : Nat) : Bool :=
  match s.leadOf k with
  | none => true
  | some q =>
    if st then true
    else
      match s.placeOf k false pa n with
      | .far =>
        let need := if s.cacheable k 1 pa then
            ((linesOf pa n).filter (fun ln => (findLine (s.core k).dcache ln).isNone)).map (fun ln => ln * 64)
          else (farParts pa n).map (fun p => p.1)
        need.all (fun a => (leadPart (s.thread q t) a).isSome)
      | _ => true

/-- Do the accesses of a bundle and the spill of its CALL find tags, room in the store buffer (R239), and the lead's requests? -/
def State.memReady (s : State) (k t : Nat) (t2 : Bool) (th : Thread) (ops : List (Nat × RawOp × TOp)) : Bool :=
  let acc := ops.filterMap (fun e => match e.2.2.mem? with
    | some (st, n, a, m) => (match s.accessOf k th st n a m with | .inl pa => some (st, pa, n) | .inr _ => none)
    | none => none)
  let need := acc.foldl (fun x e => x + s.tagsFor k t2 e.1 e.2.1 e.2.2) 0
  let stores := (ops.filter (fun e => match e.2.2 with | .store _ _ _ _ => true | _ => false)).length
  let spill := ssEn t2 th && decide (64 ≤ th.ss.length) && ops.any (fun e => match e.2.2 with | .branch _ true _ => true | _ => false) &&
    (match spillAddr th with | some pa => decide (s.placeOf k true pa 4 = .far) | none => false)
  ((s.leadOf k).isSome || decide (need + b2n spill = 0) || decide (s.tagsUsed k + need + b2n spill ≤ 16)) &&
  (!spill || (match s.leadOf k with | some q => (s.thread q t).spill.isSome | none => true)) &&
  (!t2 || decide (th.sbuf.length + stores ≤ 8)) &&
  acc.all (fun e => s.leadReady k t e.1 e.2.1 e.2.2)

/-- Is a compare a one-shot in the fired state whose action is wake (R73)? -/
def State.cmpOver (s : State) (n : Nat) : Bool :=
  (smGet (fun _ => Cmp.init) s.cmps n).fired && decide (s.cmpAct n = 3)

/-- What the waits of a bundle do (R185 to R189, R242, R271): go on; wait; or begin a wait that changes the thread. -/
inductive WaitRes where
  | go
  | hold
  | begin_ (th : Thread)

/-- The wait of a bundle at pc. -/
def State.waits (s : State) (th : Thread) (clk : Nat) (pc : Word) (ops : List (Nat × RawOp × TOp)) : WaitRes :=
  let w : Option (Nat ⊕ Nat) := ops.findSome? (fun e => match e.2.2 with
    | .waitt n => some (Sum.inl n)
    | .syncw _ => some (Sum.inr 0)
    | .lbar => some (Sum.inr 1)
    | .rfe => some (Sum.inr 1)
    | _ => none)
  match w with
  | none => .go
  | some (.inl n) =>
    let fresh : WaitRes :=
      if th.sbuf.isEmpty = false then .hold
      else if s.cmpOver n then .go
      else .begin_ { th with wait := .waitt n pc false clk 0 }
    (match th.wait with
     | .waitt n' pc' rel _ depth => if n' = n ∧ pc' = pc ∧ depth = 0 then (if rel then .go else .hold) else fresh
     | .none => fresh)
  | some (.inr w) =>
    if w = 0 then (if th.posted.isEmpty ∧ th.sbuf.isEmpty then .go else .hold)
    else if th.long.isEmpty then .go else .hold

/-! ## Exceptions of a bundle (Table 06-11) -/

/-- The operation's illegal-operation exception that depends on values (R284). -/
def illegalDyn (th : Thread) (op : TOp) : Bool :=
  let sh := match th.shadow with | some x => !x.last | none => false
  match op with
  | .setmode _ => sh
  | .movc fn n r => sh && movcMode th fn n (th.dr r)
  | _ => false

/-- The operation's privilege exception. -/
def privDyn (th : Thread) (op : TOp) : Bool :=
  match op with
  | .movc fn n r => movcPriv th fn n (th.dr r)
  | .setmode r => !modeOk th (th.dr r)
  | .gate _ => th.land
  | .rfe => decide (th.level = 0) || decide (rank th.land th.level < th.prior (setIdx th.land th.level))
  | _ => false

/-- What the checks of a bundle find before it issues (Table 06-11): nothing, the first exception with the CCLK after issue at which it is
detected (R262, R286), or that its RET must read entries from the area first (R125). -/
inductive Check where
  | none
  | fill (pa : Nat)
  | fault (c : Cause) (n : Nat)

/-- The control-flow check of an operation (R123, R125, R126). -/
def flowDyn (t2 : Bool) (th : Thread) (op : TOp) : Check :=
  match op with
  | .branch .link false _ =>
    if !ssEn t2 th then .none
    else if th.ss.isEmpty then (match fillAddr th with | some pa => .fill pa | none => .fault (Cause.of 10) 0)
    else if (ssPop th).isNone then .fault (Cause.of 10) 0 else .none
  | .branch _ true _ => if ssEn t2 th && decide (64 ≤ th.ss.length) && (spillAddr th).isNone then .fault (Cause.of 10) 0 else .none
  | _ => .none

/-- The checks of a bundle in the order of Table 06-11 (R286). -/
def State.bundleCheck (s : State) (k : Nat) (t2 : Bool) (th : Thread) (ops : List (Nat × RawOp × TOp)) : Check :=
  if ops.any (fun e => illegalDyn th e.2.2) then .fault (Cause.of 4) 0
  else if ops.any (fun e => privDyn th e.2.2) then .fault (Cause.of 6) 0
  else
    match (ops.map (fun e => flowDyn t2 th e.2.2)).find? (fun x => match x with | .none => false | _ => true) with
    | some x => x
    | none =>
      match ops.findSome? (fun e => match e.2.2.mem? with
        | some (st, n, a, m) => (match s.accessOf k th st n a m with | .inr x => some x | .inl _ => none)
        | none => none) with
      | some (v, ea) => .fault { Cause.of v with addr := ea } 1
      | none => .none

/-- The TRAP of a bundle (R279). -/
def trapOf (ops : List (Nat × RawOp × TOp)) : Option Nat :=
  ops.findSome? (fun e => match e.2.2 with | .trap n => some n | _ => none)

/-! ## Effects -/

/-- What a bundle issues with: slot and thread, CCLK, its address, the address that follows it, the return address of a CALL
in it, the machine before it, the settled thread before it, Legacy T2, what passed with the command, and the bundle as fetched. -/
structure Ctx where
  k    : Fin 144
  t    : Fin 4
  clk  : Nat
  pc   : Word
  next : Word
  ret  : Word
  m    : State
  th   : Thread
  t2   : Bool
  i    : IssueInfo
  ent  : FqEnt

/-- What a bundle's operations have done so far: machine, thread, taken target, acc_ovf, mode change, RFE, a LOOP of 0
iterations with its LPn_END, levels that ended, CCLK of a spill or fill, and the values that MOVC writes of segment and
shadow-stack registers replaced (R113). -/
structure Fx where
  s     : State
  th    : Thread
  taken : Option Word
  ovf   : Bool
  mode  : Option Shadow
  rfe   : Bool
  jump  : Option Word
  ended : List Nat
  stall : Nat
  old   : SMap Word

/-- Free the loop buffer in the effects (R213). -/
def Fx.freeLb (c : Ctx) (fx : Fx) : Fx := { fx with s := Sys2Proof.Machine.freeLb c.k c.t fx.s }

/-- The set-up of a loop level (R176, R209, R212). -/
def setupLoop (c : Ctx) (lvl : Nat) (count : Word) (endp : Word) (fx : Fx) : Fx :=
  let th := ((fx.th.setCreg (0x48 + 3 * lvl) c.next).setCreg (0x49 + 3 * lvl) endp).setCreg (0x4A + 3 * lvl) count
  if count = 0 then { fx with th := th, jump := some endp, ended := lvl :: fx.ended }
  else
    let core := fx.s.core c.k
    let nb : LoopBuf := { thr := c.t, level := lvl, first := c.next, last := endp, cap := false, valid := false, held := [] }
    let new_ := nb.takeAll c.th.fq.tail
    let lb := match core.lb with
      | none => new_
      | some b =>
        if b.thr = c.t.val then
          (if b.valid ∧ b.first.toNat ≤ c.next.toNat ∧ endp.toNat ≤ b.last.toNat then some b else new_)
        else some b
    { fx with th := { th with fresh := lvl :: th.fresh.filter (fun x => decide (x ≠ lvl)), recap := false }
              s := fx.s.setCore c.k { core with lb := lb } }

/-- A load of a bundle, or the address-register update and flags of a store (R97, R114, R117). The flags of STF.N are seen 4 CCLK after
issue (DESIGN CHOICE, log entry 37). -/
def memOp (c : Ctx) (op : TOp) (fx : Fx) : Fx :=
  match op.mem? with
  | none => fx
  | some (st, n, a, m) =>
    match c.m.accessOf c.k c.th st n a m with
    | .inr _ => fx
    | .inl pa =>
      let r := match op with
        | .load kind d _ _ => doLoad c.k c.t c.th.cst c.clk c.pc (c.th.creg 0x10) c.m c.i c.th.sbuf.length kind d pa (fx.s, fx.th)
        | .store kind d _ _ => (fx.s, fx.th.pushAll c.clk (fpFlags 4 (storeBytes c.th kind d).2))
        | _ => (fx.s, fx.th)
      let s1 := if m.drawsFree c.th then r.1.advFree else r.1
      let th1 := match (eaOf c.th a n m (loW fx.s.free)).2 with
        | some v => r.2.push (c.clk + 1) (.a a v)
        | none => r.2
      { fx with s := s1, th := th1 }

/-- What a store of a bundle writes, after the loads of the bundle have read (R97). -/
def storeOp (c : Ctx) (op : TOp) (fx : Fx) : Fx :=
  match op, op.mem? with
  | .store kind d _ _, some (st, n, a, m) =>
    (match c.m.accessOf c.k c.th st n a m with
     | .inr _ => fx
     | .inl pa =>
       let r := doStore c.t2 c.k c.t c.th.cst c.clk c.pc c.i pa (storeBytes c.th kind d).1 (fx.s, fx.th)
       { fx with s := r.1, th := r.2 })
  | _, _ => fx

/-- Where a branch goes. -/
def branchTarget (th : Thread) (pc : Word) : BTarget → Word
  | .rel off => pc + BitVec.ofInt 32 off
  | .reg a => th.ar a
  | .link => th.ar 15

/-- A taken branch, call or return (R122, R123, R172, R175). -/
def branchOp (c : Ctx) (tg : BTarget) (call : Bool) (fx : Fx) : Fx :=
  let dest := branchTarget c.th c.pc tg
  if call then
    let r := if ssEn c.t2 c.th then ssPush c.k c.t c.clk c.i c.ret c.th (fx.s, fx.th) else (fx.s, fx.th, 0)
    { fx with s := r.1, th := r.2.1.push (c.clk + 1) (.a 15 c.ret), taken := some dest, stall := fx.stall + r.2.2 }
  else
    match tg with
    | .link =>
      if ssEn c.t2 c.th then
        (match ssPop c.th with
         | some _ => { fx with th := { fx.th with ss := fx.th.ss.tail }, taken := some dest }
         | none => fx)
      else { fx with taken := some dest }
    | _ => { fx with taken := some dest }

/-- The bits of PSTAT that hardware has set in a CCLK: they stay set (R182). -/
def Thread.pstatNew (th : Thread) (clk : Nat) : Word := match th.pset with | some (c, m) => if c = clk then m else 0 | none => 0

/-- MOVC (Table 04-19). -/
def movcOp (c : Ctx) (fn n r : Nat) (fx : Fx) : Fx :=
  if fn = 0 then
    { fx with th := (movcReadEffect n fx.th).push (c.clk + 1) (.d r (movcRead c.m c.k c.t c.th n)) }
  else
    let v := movcVal fn (movcRead c.m c.k c.t c.th n) (c.th.dr r)
    if n = 0x45 then { fx with th := { fx.th with drop := fx.th.drop.filter (fun d => d.2) ++ [(fld v 0 7, false)] } }
    else if n = 0x80 then
      let th := { movcPut c.t2 n (c.th.creg n) v fx.th with ieWas := some (c.clk, c.th.ie) }
      if movcMode c.th fn n (c.th.dr r) then
        { fx with th := th, mode := some { cstat := v, gate := none, last := false } }
      else { fx with th := th }
    else
      let old := fx.th.creg n
      let v := if n = 0x103 then v &&& ~~~(fx.th.pstatNew c.clk) else v
      let th := movcPut c.t2 n (c.th.creg n) v fx.th
      let ol := if 0x20 ≤ n ∧ n ≤ 0x43 then (n, old) :: fx.old else fx.old
      if 0x48 ≤ n ∧ n ≤ 0x50 then
        ({ fx with th := th, ended := if (n - 0x48) % 3 = 2 ∧ v = 0 then (n - 0x48) / 3 :: fx.ended else fx.ended }).freeLb c
      else { fx with th := th, old := ol }

/-- Is it a MOVC write that is made after the other effects of its bundle (R113, R158, R183)? The loop registers, which other operations
write too, take their values in bundle order (R104), and PSTAT before what hardware sets in it (R182). -/
def TOp.movcW : TOp → Bool
  | .movc fn n _ => decide (fn ≠ 0) && !(decide (0x48 ≤ n) && decide (n ≤ 0x50)) && decide (n ≠ 0x103)
  | _ => false

/-- One operation of a bundle whose condition is true. -/
def runOp (c : Ctx) (word : Word) (op : TOp) (fx : Fx) : Fx :=
  match op with
  | .load _ _ _ _ => memOp c op fx
  | .store _ _ _ _ => memOp c op fx
  | .branch tg call _ => branchOp c tg call fx
  | .loopR lvl x off => setupLoop c lvl (c.th.dr x) (c.next + BitVec.ofNat 32 (2 * off)) fx
  | .loopI lvl cnt off => setupLoop c lvl (BitVec.ofNat 32 cnt) (c.next + BitVec.ofNat 32 (2 * off)) fx
  | .loopOff lvl => { fx with th := fx.th.setCreg (0x4A + 3 * lvl) 0, ended := lvl :: fx.ended }
  | .long fn d a b => { fx with th := { fx.th with long := fx.th.long ++ [longOf c.th word fn d a b c.clk c.pc] } }
  | .movc fn n r => movcOp c fn n r fx
  | .waitt _ => { fx with th := { fx.th with wait := .none } }
  | .syncw f => { fx with th := { fx.th.push (c.clk + 1) (.f f (!c.th.pwf)) with pwf := false } }
  | .lbar => fx
  | .gate n => { fx with mode := some { cstat := 5, gate := some n, last := false } }
  | .rfe => { fx with rfe := true }
  | .setmode r =>
    let v := c.th.dr r
    { fx with th := { fx.th.setCreg 0x80 (setFld (fx.th.creg 0x80) 3 1 (fld v 3 1)) with ieWas := some (c.clk, c.th.ie) }
              mode := some { cstat := v, gate := none, last := false } }
  | .trap _ => fx
  | _ =>
    let r := regOp c.t2 c.th op
    { fx with th := fx.th.pushAll c.clk r.1, ovf := fx.ovf || r.2 }

/-! ## Loops (R177, R208) -/

/-- Is the body of a level 1 or 2 bundles long (R208)? -/
def State.shortBody (s : State) (k : Nat) (th : Thread) (n : Nat) : Bool :=
  let st := th.creg (0x48 + 3 * n)
  let en := th.creg (0x49 + 3 * n)
  decide (st = en) || decide (s.after? k th st = some en)

/-! ## After the bundle -/

/-- Where the thread goes after its bundle, and what the loops did: the thread with pc, delay, resume and loop counts set. -/
structure After where
  th    : Thread
  ended : List Nat

/-- The next bundle (R172 to R178, R281). `dl` says whether the bundle carries a delayed branch. A LOOP of 0 iterations goes on behind its
body, unless its own bundle ends the body of a level that has iterations left (DESIGN CHOICE, log entry 220). -/
def afterBundle (c : Ctx) (s : State) (fx : Fx) (dl : Bool) : After :=
  let th := { fx.th with seqx := false, skip := false }
  let cross := fun (a : Word) => decide (fld a 29 3 ≠ fld c.pc 29 3)
  let looped : Unit → After := fun _ =>
    let r := loopEnd th c.pc c.next [2, 1, 0]
    let slow := match r.2.2.1 with
      | some n => th.fresh.contains n && s.shortBody c.k th n
      | none => false
    let fresh := match r.2.2.1 with | some n => r.1.fresh.filter (fun x => decide (x ≠ n)) | none => r.1.fresh
    let res := if slow then c.clk + 3 else r.1.resume
    { th := { r.1 with pc := r.2.1, fresh := fresh, resume := res, seqx := cross c.next && r.2.2.1.isNone }, ended := r.2.2.2 }
  match c.th.tgt with
  | some tg => { th := { th with delay := none, pc := tg }, ended := [] }
  | none =>
    let th0 := { th with delay := none }
    match fx.taken with
    | some tg =>
      if dl then { th := { th0 with pc := c.next, delay := some { target := some tg }, seqx := cross c.next }, ended := [] }
      else { th := { th0 with pc := tg }, ended := [] }
    | none =>
      match fx.jump with
      | some e =>
        let r := loopEnd th0 c.pc e [2, 1, 0]
        if r.2.2.1.isSome then let a := looped (); { a with th := { a.th with delay := none } }
        else match s.past? c.k th e with
         | some a => { th := { r.1 with pc := a, seqx := cross a }, ended := r.2.2.2 }
         | none => { th := { r.1 with pc := e, skip := true }, ended := r.2.2.2 }
      | none =>
        let a := looped ()
        { a with th := { a.th with delay := if dl then some { target := none } else none } }

/-- The mode-change shadow moves on by one bundle (R282): the change made in the bundle before governs from the next. -/
def stepShadow (old new_ : Option Shadow) (th : Thread) : Thread :=
  let th1 := match old with
    | some x => if x.last || x.gate.isSome then th else th.setMode x.cstat
    | none => th
  match new_ with
  | some x => { th1 with shadow := some x }
  | none =>
    match old with
    | none => { th1 with shadow := none }
    | some x =>
      if x.last then { th1 with shadow := none }
      else if x.gate.isSome then th1
      else { th1 with shadow := some { x with last := true } }

/-- Is a bundle mispredicted (R207): predicted taken and not taken, or to another address; or not predicted by a matching entry, and
taken? -/
def FqEnt.mispredicted (e : FqEnt) (taken : Option Word) : Bool :=
  match e.pred, taken with
  | some p, some a => decide (p ≠ a)
  | some _, none => true
  | none, some _ => e.hit
  | none, none => false

/-- What the issue of a bundle leaves on its core: the CCLK, slots and threads of the issue, and where round-robin goes on (R218, R219). A
bundle that raises an exception has issued as well (R191, R262). -/
def CoreSt.tookIssue (core : CoreSt) (t : Fin 4) (clk : Nat) (slots : List Nat) : CoreSt :=
  let again := decide (core.issClk = clk) && !core.issued.isEmpty
  let prev := if again then core.prevThr else core.lastThr
  let far := fun (t : Nat) => (t + 3 - prev) % 4
  { core with
    issClk := clk, prevThr := prev
    lastThr := if again && decide (far t < far core.lastThr) then core.lastThr else t
    used := (if again then core.used else []) ++ slots
    issued := (if again then core.issued else []) ++ [t.val] }

/-- The issue of a bundle that takes effect: the M slots held for another CCLK (R138), and the CCLK in which its accesses take the ports
(R197, R198; a store of Legacy T2 too, DESIGN CHOICE, log entry 221). -/
def coreIssued (c : Ctx) (raw : List RawOp) (ops : List (Nat × RawOp × TOp)) (busy : List Nat) (core0 : CoreSt) : CoreSt :=
  let slots := (assignSlots c.t2 raw busy).getD []
  let core := core0.tookIssue c.t c.clk slots
  let held := fun (m : Nat) => (raw.zip slots).any (fun e => decide (e.2 = m) && (match e.1.dec c.t2 with | .ok op => op.busy2 | _ => false))
  let port := fun (sl : Nat) => ops.any (fun e => decide (e.1 = sl) && e.2.2.mem?.isSome)
  { core with
    mHold := (if held 2 then c.clk + 2 else core.mHold.1, if held 3 then c.clk + 2 else core.mHold.2)
    l0 := if port 0 then core.l0 ++ [c.clk + 2] else core.l0
    l1 := if port 1 then core.l1 ++ [c.clk + 2] else core.l1 }

/-- The retirements of the long operations in flight on a core, with whether they use an integer engine. -/
def State.longDues (s : State) (k : Nat) : List (Bool × Nat) :=
  (List.range 4).flatMap (fun t => (s.thread k t).long.map (fun o => (isIntLong o.fn, o.due)))

/-- What the operations of a bundle do: all but stores and late MOVC writes, then the stores, then those writes. -/
def bundleFx (c : Ctx) (ops : List (Nat × RawOp × TOp)) (s : State) : Fx :=
  let th0 := { c.th with entry := false, lastIss := c.clk, drop := c.th.drop.map (fun d => (d.1, true)) }
  let fx0 : Fx := { s := s, th := th0, taken := none, ovf := false, mode := none, rfe := false, jump := none, ended := [], stall := 0, old := [] }
  let fx1 := (ops.filter (fun e => !e.2.2.movcW)).foldl (fun f e => runOp c e.2.1.word e.2.2 f) fx0
  let fx2 := ops.foldl (fun f e => storeOp c e.2.2 f) fx1
  let fx3 := (ops.filter (fun e => e.2.2.movcW)).foldl (fun f e => runOp c e.2.1.word e.2.2 f) fx2
  { fx3 with th := { fx3.th with ctlOld := fx3.old, resume := max fx3.th.resume (if fx3.stall = 0 then 0 else c.clk + 1 + fx3.stall) } }

/-- The exception and entry that follow a bundle: ACC_OVF (R154, R281, R282), and the GATE entry after its shadow bundle. CCLK 0 is that of
the issue (DESIGN CHOICE, log entry 222). -/
def afterIssue (c : Ctx) (fx : Fx) (s : State) : State :=
  let gate := match c.th.shadow with | some x => x.gate | none => none
  let ovf := fx.ovf && bit (c.th.creg 0x11) 17
  if ovf || (fx.mode.isNone && gate.isSome) then
    let s1 := match ovf, fx.mode, c.th.shadow, gate with
      | true, none, some x, none => s.onThread c.k c.t (fun th => { th with shadow := some { x with last := true } })
      | _, _, _, _ => s
    takeImprec c.k c.t { due := c.clk, vec := if ovf then 12 else 2, phys := match gate with | some n => n + 1 | none => 0
                         word := BitVec.ofNat 32 (b2n fx.mode.isSome), pc := c.pc, op := none } c.clk c.i.vec s1
  else s

/-- The event that an injected fault waits for has come about in the core (R452): a bundle that reads a register (code 3), or an operation
that the residue check covers (code 4). -/
def ripen (k : Nat) (ops : List (Nat × RawOp × TOp)) (s : State) : State :=
  match s.lcoreOf k with
  | none => s
  | some l =>
    let x := s.lc l
    if (x.inj = some 3 ∧ ops.any (fun e => e.2.2.readsReg) = true) ∨ (x.inj = some 4 ∧ ops.any (fun e => e.2.2.product) = true) then
      s.setLc l { x with ripe := true }
    else s

/-- The predictor learns from the branch of a bundle (R202, R206). -/
def train (c : Ctx) (m : State) (br : Option (BTarget × Bool × Bool)) (taken : Bool) (s : State) : State :=
  match br with
  | some (tg, _, _) => if m.predOn c.k c.ent.pa then predUpdate c.k c.pc (branchTarget c.th c.pc tg) taken s else s
  | none => s

/-- A bundle issues: every operation of it takes effect, and the thread moves on. -/
def runBundle (c : Ctx) (raw : List RawOp) (ops : List (Nat × RawOp × TOp)) (busy : List Nat) (s : State) : State :=
  let fx := bundleFx c ops (ripen c.k ops s)
  let br := branchIn c.t2 raw
  let dl := match br with | some (_, _, d) => d | none => false
  let misp := c.ent.mispredicted fx.taken
  let af := afterBundle c s fx dl
  let s1 := train c s br fx.taken.isSome fx.s
  let s2 := s1.count c.k (aCoreBrmisp c.k) (b2n (misp && br.isSome)) c.clk
  let s3 := (s2.setCore c.k (coreIssued c raw ops busy (s2.core c.k))).count c.k (aCoreIssue c.k) 1 c.clk
  let wrong := br.isSome && decide (c.ent.pred ≠ fx.taken)
  let th1 := { af.th with fq := af.th.fq.tail }.redirect c.clk misp wrong c.th.fetchPc
  let r := rfe c.t2 (s3.longDues c.k) (fun j => loW (Config.freeValue (s3.freeCtr + j))) c.clk { th1 with delay := none }
  let th2 : Thread := if fx.rfe then r.1 else stepShadow c.th.shadow fx.mode th1
  let s4 := s3.setThread c.k c.t th2
  let s5 := if fx.rfe ∧ c.clk < r.2 then s4.setCore c.k { s4.core c.k with sHold := (c.clk + 1, r.2) } else s4
  let s6 := followLb c.k c.t c.pc fx.taken (fx.ended ++ af.ended) s5
  afterIssue c fx (if fx.rfe ∧ c.clk < r.2 then s6.advFree.advFree.advFree.advFree else s6)

/-- The return address of a CALL in a bundle (R122): after the delay bundle of a delayed form, where that can be told; the free value where
the delay bundle has no end to follow. `none`: the delay bundle is still to be fetched. -/
def State.retOf (s : State) (k : Nat) (th : Thread) (ops : List (Nat × RawOp × TOp)) (next : Word) : Option Word :=
  if ops.any (fun e => match e.2.2 with | .branch _ true true => true | _ => false) then
    match s.after? k th next with
    | some a => some a
    | none =>
      if th.fq.any (fun e => decide (e.pc = next)) || (match th.fq.head? with | some e => e.next.isNone | none => true) then some (loW s.free)
      else none
  else some next

/-- TRAP (R279, R286): its bundle has no other effect but the loops' (R177), and SVPC names the bundle after it. -/
def takeTrap (c : Ctx) (num : Nat) (s : State) : State :=
  let th := c.th
  let sh := th.shadow.isSome
  let gate := match th.shadow with | some x => x.gate.isSome | none => false
  let cause := { Cause.of 3 (if gate then c.i.vec.tail else c.i.vec) with info := num, defer := sh }
  if gate then
    let s1 := endShadow c.k c.t c.i.vec (s.setThread c.k c.t th)
    let th1 := s1.thread c.k c.t
    if th1.running = false then s1 else raiseAt c.k c.t cause th1.pc th1.tgt c.clk s1
  else
    let r := loopEnd th c.pc c.next [2, 1, 0]
    let th1 := match th.tgt with
      | some tg => { th with pc := tg, delay := none }
      | none => { r.1 with pc := r.2.1, delay := none }
    let s1 := endShadow c.k c.t c.i.vec (s.setThread c.k c.t th1)
    raiseAt c.k c.t cause th1.pc none c.clk s1

/-! ## Parity (R234) -/

/-- The physical address of a bundle address. -/
def Thread.fetchPa (th : Thread) (pc : Word) : Option Nat :=
  match th.check 19 false 1 2 pc with
  | .ok pa => some pa
  | _ => none

/-- A parity error on the read of the I-cache or of the loop buffer that brought the thread's next bundle, which is in D: what it does
before the bundle issues, or none where the bundle met no such read. A line of the I-cache is fetched again; the loop buffer is freed, and
the bundle is fetched from the I-TCM, two CCLK later than it would have issued. -/
def parityHit (k : Fin 144) (t : Fin 4) (p : ParityHit) (clk : Nat) (s : State) : Option State :=
  let th := s.thread k t
  let c := s.core k
  match p, th.fq.head? with
  | .icache line, some e =>
    if decide (e.at_ ≤ clk) && e.lines.contains line then
      some (countCpar k ((s.setCore k { c with icache := c.icache.filter (fun x => decide (x.line ≠ line)) }).setThread k t (th.flush clk)))
    else none
  | .loopBuffer, some e =>
    if decide (e.at_ ≤ clk) && e.loop then
      let s1 := (freeLb k t s).setThread k t (th.flush (clk - 1))
      let s2 := fetchOne k t e.pc false (clk - 1) s1
      some (if (s2.thread k t).half.isSome then fetchOne k t e.pc false (clk - 1) s2 else s2)
    else none
  | _, _ => none

/-- Does a load of the bundle read a line of the D-cache, and not wait for, or take its data from, the store buffer? -/
def State.readsLine (s : State) (k : Nat) (th : Thread) (ops : List (Nat × RawOp × TOp)) (line : Nat) : Bool :=
  (findLine (s.core k).dcache line).isSome &&
  ops.any (fun e => match e.2.2.mem? with
    | some (false, n, a, m) =>
      (match s.accessOf k th false n a m with
       | .inl pa => s.cacheable k 1 pa && (linesOf pa n).contains line && !th.sbuf.any (fun e => e.overlaps pa n)
       | .inr _ => false)
    | _ => false)

/-! ## The choice of a thread (R216 to R219) -/

/-- What the next bundle of a thread does in a CCLK: it is held; a wait begins; it was read through a mapping that no longer holds, and is
fetched again; its RET reads entries in first; it raises an exception; or it issues. -/
inductive Look where
  | hold
  | begin_ (th : Thread)
  | stale
  | fill (pa : Nat)
  | fault (c : Cause) (n : Nat)
  | go (raw : List RawOp) (len : Nat) (ret : Word)

/-- The next bundle of a settled thread, with the slots that are taken. A bundle that is to be passed over raises what its fetch finds, as any
bundle would (R99, R116, R176; DESIGN CHOICE, log entry 219). -/
def State.look (s : State) (k t : Nat) (busy : List Nat) (clk : Nat) (i : IssueInfo) : Look :=
  let th := s.thread k t
  let t2 := s.isT2 k
  let v := i.vec
  if th.running = false ∨ s.coreRuns k = false ∨ s.enabledThr k t = false ∨ s.unstalled k th clk = false then .hold
  else if (th.imprecDue clk).isSome ∧ th.entry = false then .hold
  else if th.drop.any (fun d => d.2 && decide (d.1 ≠ 0)) then .hold
  else if th.seqx then .fault { Cause.of 8 v with addr := th.pc } 0
  else match s.headAt k th clk with
    | .wait => .hold
    | .stale => .stale
    | .seg a => .fault { Cause.of 8 v with addr := a } 0
    | .prof => .fault (Cause.of 13 v) 0
    | .bad a => .fault { Cause.of 14 v with addr := BitVec.ofNat 32 a, paHi := a / 2 ^ 32 % 2 ^ 12 } 0
    | .illegal => .fault (Cause.of 5 v) 0
    | .ok raw len =>
      let pa := (th.fetchPa th.pc).getD 0
      if th.skip then .hold
      else if s.isOwn k pa ∧ (hitWords i.ue (s.plain pa) len).isEmpty = false then
        .fault { Cause.of 14 v with addr := BitVec.ofNat 32 pa, paHi := pa / 2 ^ 32 % 2 ^ 12 } 0
      else if illegalBundle t2 th raw then .fault (Cause.of 5 v) 0
      else if illegalOp t2 th raw then .fault (Cause.of 4 v) 0
      else if (assignSlots t2 raw busy).isNone then .hold
      else
        let ops := liveOps t2 th raw busy
        match s.waits th clk th.pc ops with
        | .hold => .hold
        | .begin_ th1 => .begin_ th1
        | .go =>
          if s.longReady k t2 th ops = false ∨ s.memReady k t t2 th ops = false then .hold
          else match s.bundleCheck k t2 th ops, s.retOf k th ops (th.pc + BitVec.ofNat 32 len) with
            | .fault c n, _ => .fault { c with ecc := v } n
            | .fill a, _ => .fill a
            | .none, none => .hold
            | .none, some ret => .go raw len ret

/-- Is a thread ready in a CCLK (R216)? -/
def State.readyAt (s : State) (k t : Nat) (busy : List Nat) (clk : Nat) : Bool :=
  match (s.settled k t clk).look k t busy clk { dt := 0 } with
  | .fault _ _ => true
  | .go _ _ _ => true
  | _ => false

/-- Is it a thread's turn to issue in a CCLK? A first handler bundle issues in its CCLK (R224); else the first ready thread after the one
that issued last (R218); as the second of a TWIN issue the first other one, from the same start, whose bundle fits (R219). Of two first
handler bundles that are due in one CCLK the round-robin order takes one (DESIGN CHOICE, log entry 224). -/
def State.turn (s : State) (k t : Nat) (busy : List Nat) (clk : Nat) : Bool :=
  let c := s.core k
  let second := decide (clk = c.issClk) && !c.issued.isEmpty
  let order := (List.range 4).map (fun i => ((if second then c.prevThr else c.lastThr) + 1 + i) % 4)
  let mine := order.filter (fun x => !(second && c.issued.contains x) && s.readyAt k x busy clk)
  match mine.find? (fun x => (s.thread k x).entry && decide ((s.thread k x).resume = clk)), mine with
  | some x, _ => decide (x = t)
  | none, x :: _ => decide (x = t)
  | none, [] => false

/-- Has a checker's lead issued on the thread in the same CCLK (R440), counted from the release? -/
def State.withLead (s : State) (k t : Nat) : Bool :=
  match s.leadOf k with
  | none => true
  | some q => decide ((s.thread q t).lastIss - (s.core q).wdClk = s.wdCount k)

/-! ## BUNDLE_ISSUE -/

/-- The uncorrectable errors that the fetch of a thread's next bundle from own local memory finds (R322). -/
def State.fetchUe (s : State) (k : Fin 144) (t : Fin 4) (clk : Nat) (i : IssueInfo) : State :=
  let th := s.thread k t
  let pa := (th.fetchPa th.pc).getD 0
  match s.headAt k th clk with
  | .ok _ len => if s.isOwn k pa then s.ownUes k t .fetch (hitWords i.ue (s.plain pa) len) else s
  | _ => s

/-- The thread's bundle at its present CCLK, which is its turn: it issues, raises its exception, or begins a wait, a fill or a fetch; none
where it is held. -/
def tryIssue (k : Fin 144) (t : Fin 4) (i : IssueInfo) (busy : List Nat) (s : State) : Option State :=
  let clk := (s.core k).clk
  let th := s.thread k t
  let t2 := s.isT2 k
  match s.look k t busy clk i with
  | .hold => none
  | .begin_ th1 => some (s.setThread k t th1)
  | .stale => some (s.setThread k t (th.flush clk))
  | .fill pa => startFill k t pa clk i s
  | .fault c n =>
    if s.turn k t busy clk then
      let slots := match s.headAt k th clk with | .ok raw _ => (assignSlots t2 raw busy).getD [] | _ => []
      let s1 := if c.vec = 14 then s.fetchUe k t clk i else s
      some (raise k t c (clk + n) ((s1.setCore k ((s1.core k).tookIssue t clk slots)).count k (aCoreIssue k) 1 clk))
    else none
  | .go raw len ret =>
    let ops := liveOps t2 th raw busy
    if s.turn k t busy clk = false ∨ ((trapOf ops).isNone ∧ s.withLead k t = false) then none
    else
      let pa := (th.fetchPa th.pc).getD 0
      let s1 := (if s.isOwn k pa then s.ownCes (hitWords i.ce (s.plain pa) len) else s).advFree
      let par := match i.par with | .dcache line => if s1.readsLine k th ops line then some line else none | _ => none
      let s2 := match par with
        | some line => s1.setCore k { s1.core k with dcache := (s1.core k).dcache.filter (fun x => decide (x.line ≠ line)) }
        | none => s1
      let c : Ctx := { k := k, t := t, clk := clk, pc := th.pc, next := th.pc + BitVec.ofNat 32 len, ret := ret, m := s2, th := th, t2 := t2
                       i := i, ent := th.fq.headD (FqEnt.of th.pc clk) }
      let s3 := match trapOf ops with
        | some n => takeTrap c n ((s2.setCore k ((s2.core k).tookIssue t clk ((assignSlots t2 raw busy).getD []))).count k (aCoreIssue k) 1 clk)
        | none => runBundle c raw ops busy s2
      some (if par.isSome then countCpar k s3 else s3)

/-- A discard of shadow-stack entries that comes into force before the thread's next bundle (R113, R126, R127), in CCLK `clk`: none where
there is none, or nothing of it can be done. -/
def workDrop (k : Fin 144) (t : Fin 4) (clk : Nat) (i : IssueInfo) (s : State) : Option State :=
  let th := s.thread k t
  match th.drop.filter (fun d => d.2 && decide (d.1 ≠ 0)) with
  | [] => none
  | (n, _) :: ds =>
    let rest := ds ++ th.drop.filter (fun d => !d.2)
    if s.unstalled k th clk = false then none
    else if dropOk th n = false then some (raise k t (Cause.of 10 i.vec) clk (s.setThread k t { th with drop := rest }))
    else
      let r := dropHeld th n
      let s1 := s.setThread k t { r.1 with drop := if r.2 = 0 then rest else (r.2, true) :: rest }
      if r.2 = 0 then some s1
      else match fillAddr th with
        | some pa => startFill k t pa clk i s1
        | none => some s1

/-- May the thread issue at all: it runs, on a core that runs, and is enabled (R216, R217)? -/
def State.threadRuns (s : State) (k t : Nat) : Bool := (s.thread k t).running && s.coreRuns k && s.enabledThr k t

/-- An imprecise exception that waited for the first handler bundle is taken once that has issued (R287). -/
def afterFirst (k : Fin 144) (t : Fin 4) (ecc : List EccHit) (s : State) : State :=
  let th := s.thread k t
  let clk := (s.core k).clk
  match th.imprecDue clk with
  | some e =>
    if th.entry || !th.running then s
    else takeImprec k t { e with due := clk } clk ecc (s.setThread k t { th with imprec := th.imprec.map (fun x => if x = e then { e with due := clk } else x) })
  | none => s

/-- BUNDLE_ISSUE after time has passed (R191, R216): none where the thread is not ready, or it is not its turn. -/
def issueStep (k : Fin 144) (t : Fin 4) (i : IssueInfo) (s : State) : Option State :=
  if s.threadRuns k t = false then none
  else
    let s0 := advance k i.dt s
    let clk := (s0.core k).clk
    let s1 := s0.count k (aCoreSbFull k) i.sb clk
    let s2 := s1.settled k t clk
    let th := s2.thread k t
    match s2.imprecNow k th clk with
    | some e => some (takeImprec k t e clk i.vec s2)
    | none =>
      match workDrop k t clk i s2 with
      | some s3 => some s3
      | none =>
        match s2.busySlots k t clk with
        | none => none
        | some busy =>
          match parityHit k t i.par clk s2 with
          | some s3 => some s3
          | none => (tryIssue k t i busy s2).map (afterFirst k t i.vec)

end Sys2Proof.Machine
end

