-- ==== Sys2Proof/Machine/CoreRows.lean ====
section
/-! DEFINITION. The commands of the core threads (spec/opcode_table.json rows BUNDLE_ISSUE to PTIMER_EXPIRE). A command whose
event cannot come about in a state leaves the state as it is. -/

namespace Sys2Proof.Machine

/-- BUNDLE_ISSUE (R191). -/
def execBundleIssue (slot : Fin 144) (thr : Fin 4) (t : IssueInfo) (s : State) : Res :=
  .next ((issueStep slot thr t s).getD s)

/-- LONG_OP_RETIRE (R165, R168, R222, R253): the j-th long operation in flight, or the division by zero that has retired. -/
def longRetire (k : Fin 144) (t : Fin 4) (j dt : Nat) (ecc : List EccHit) (s : State) : State :=
  let s1 := advance k dt s
  let clk := (s1.core k).clk
  let th := s1.thread k t
  if th.running = false then s
  else match th.long[j]? with
    | none =>
      (match s1.imprecNow k th clk with
       | some e => takeImprec k t e clk ecc s1
       | none => s)
    | some o =>
      if clk < o.due then s
      else
        let s2 := s1.setThread k t (retireOp o th)
        if o.byZero then takeImprec k t o.imprec clk ecc s2 else s2

/-- LONG_OP_RETIRE. -/
def execLongOpRetire (slot : Fin 144) (thr : Fin 4) (j : Nat) (e : EntryInfo) (s : State) : Res :=
  .next (longRetire slot thr j e.dt e.vec s)

/-- WAITT_RELEASE (R186): the waiting bundle issues once its compare has fired. -/
def execWaittRelease (slot : Fin 144) (thr : Fin 4) (t : IssueInfo) (s : State) : Res :=
  .next (match (s.thread slot thr).wait with
    | .waitt _ pc true _ 0 => if pc = (s.thread slot thr).pc then (issueStep slot thr t s).getD s else s
    | _ => s)

/-- CSTAT.ie as sampling in a CCLK sees it: what the bundle of that CCLK wrote governs from the next (R251). -/
def Thread.ieAt (th : Thread) (clk : Nat) : Bool :=
  match th.ieWas with
  | some (c, v) => if c = clk then v else th.ie
  | none => th.ie

/-- The request that a thread may take in its core's present CCLK (R246, R247), highest rank first: target world and level. A checker takes
its lead's requests, in the CCLK in which its lead does (R440). -/
def State.takes (s : State) (k t : Nat) : Option (Bool × Nat) :=
  let th := s.thread k t
  let q := match s.leadOf k with | some l => l | none => k
  let own := rank th.land th.level
  let inStep := match (s.leadOf k), (s.thread q t).took with
    | none, _ => true
    | some _, some c => decide (c - (s.core q).wdClk = s.wdCount k)
    | some _, none => false
  if inStep = false then none
  else [(true, 2), (true, 1), (false, 2), (false, 1)].find? (fun e =>
    s.requests q t e.1 (decide (e.2 = 2)) &&
    (if e.2 = 2 then decide (own < rank e.1 2)
     else (e.1 && !th.land) || (decide (e.1 = th.land) && decide (th.level ≤ 1) && th.ieAt (s.core k).clk)))

/-- Does the thread's next bundle raise an exception in a CCLK (R287)? -/
def State.faultsAt (s : State) (k t clk : Nat) : Bool :=
  match s.busySlots k t clk with
  | none => false
  | some busy =>
    match (s.settled k t clk).look k t busy clk { dt := 0 } with
    | .fault _ 0 => s.turn k t busy clk
    | _ => false

/-- INTERRUPT_ENTRY (R224, R225, R246, R285, R287): the core samples a request that the thread may take. An exception of that CCLK comes
first; a mode change in its shadow is completed by the entry. -/
def interruptEntry (k : Fin 144) (t : Fin 4) (dt : Nat) (ecc : List EccHit) (s : State) : State :=
  if s.threadRuns k t = false then s
  else
    let s1 := advance k dt s
    let clk := (s1.core k).clk
    let s2 := s1.onThread k t (fun th => retireDue (th.stopAt clk) th)
    let th := s2.thread k t
    match s2.imprecNow k th clk with
    | some e => takeImprec k t e clk ecc s2
    | none =>
      if s2.skipOpen k th clk = true ∨ s1.faultsAt k t clk = true then s
      else if clk < th.sampleAt ∨ th.far.any (fun f => decide (f.after = 0) && f.stalls clk) then s
      else
        let s3 := endShadow k t ecc (s2.setThread k t { th with pc := s2.nextPc k th, skip := false })
        let th3 := s3.thread k t
        let gate := match th.shadow with | some x => x.gate.isSome | none => false
        match (if th3.running then s3.takes k t else s2.takes k t) with
        | none => s
        | some (land, level) =>
          if th3.running then enter k t (Cause.of 1 (if gate then ecc.tail else ecc)) land level th3.pc th3.tgt clk (s3.setThread k t { th3 with took := some clk }) else s3

/-- INTERRUPT_ENTRY. -/
def execInterruptEntry (slot : Fin 144) (thr : Fin 4) (e : EntryInfo) (s : State) : Res :=
  .next (interruptEntry slot thr e.dt e.vec s)

/-- Do blocks wait for the data of a request? -/
def partsWait (ps : List FarPart) (id : Nat) : Bool := ps.any (fun p => decide (p.id = id) && p.data.isNone)

/-- Does another thread still wait for the data of a request (a pair shares its lead's requests, R440)? -/
def State.waitsFor (s : State) (id : Nat) : Bool :=
  s.threads.any (fun e => e.2.fetch.any (fun f => decide (f.id = id)) || e.2.far.any (fun f => partsWait f.parts id) ||
    (match e.2.fillBuf with | some b => partsWait b.parts id | none => false))

/-- Forget a request that nothing waits for. -/
def State.release (s : State) (id : Nat) : State := if s.waitsFor id then s else s.dropReq id

/-- A fetch completes or fails (R200, R232, R253): its line is installed, and the thread takes the block where it still wants it. -/
def fetchArrive (k : Fin 144) (t : Fin 4) (id dt : Nat) (s : State) : State :=
  match (s.thread k t).fetch.find? (fun f => decide (f.id = id)), s.reqSt? id with
  | some f0, some st =>
    let blk : Option Fetched := match st with
      | .done bs => some { line := f0.line, data := bs, bad := none }
      | .failed _ => some { line := f0.line, data := [], bad := some (f0.line * 64) }
      | _ => none
    (match blk with
     | none => s
     | some b =>
       let s1 := advance k dt s
       let th := s1.thread k t
       match th.fetch.find? (fun f => decide (f.id = id)) with
       | none => s
       | some f =>
         let s2 := s1.setThread k t { th with
           fetch := th.fetch.filter (fun x => decide (x.id ≠ id)), fetched := if f.live then th.fetched ++ [b] else th.fetched }
         let s3 := if f.inst && b.bad.isNone then
             s2.setCore k { s2.core k with icache := installLine { line := f.line, data := b.data } (s2.core k).icache }
           else s2
         s3.release id)
  | _, _ => s

/-- Drop the requests of a load that has ended. -/
def dropParts (ps : List FarPart) (s : State) : State := foldS (fun p s => if p.data.isNone then s.release p.id else s) ps s

/-- Lines that a completed fill brings into the D-cache, with the stores that its core made meanwhile (R96, R230); those it found there
become most recent (R229, R232). -/
def installParts (k : Nat) (late : List (Nat × List Byte)) (ps : List FarPart) (s : State) : State :=
  foldS (fun p s =>
    let c := s.core k
    let x : Line := late.foldl (fun x e => patchLine e.1 e.2 x) { line := p.addr / 64, data := p.data.getD [] }
    s.setCore k { c with dcache := installLine x c.dcache }) ps s

/-- The far loads of a thread that have all their data complete in the order in which they issued (R229, R313). -/
def finishFar (k : Fin 144) (t : Fin 4) (clk : Nat) : List FarLoad → State → State
  | [], s => s
  | f :: fs, s =>
    if f.chk || decide (f.after ≠ 0) || f.parts.any (fun p => p.data.isNone) then s
    else
      let th := s.thread k t
      let s1 := s.setThread k t { th.loaded (clk + 1) f.kind f.dst (partBytes f.parts f.phys f.kind.size) with
        far := th.far.filter (fun x => decide (x ≠ f)), resume := max th.resume (clk + 1), sampleAt := clk + 1 }
      finishFar k t clk fs (if f.fill then installParts k f.late f.parts s1 else s1)

/-- Blocks with the data of a request. -/
def arrived (id : Nat) (bs : List Byte) (ps : List FarPart) : List FarPart :=
  ps.map (fun p => if p.id = id ∧ p.data.isNone then { p with data := some bs } else p)

/-- Data of a far load arrives, or its fault (R229, R253), which waits for the loads before it (R313). -/
def farArrive (k : Fin 144) (t : Fin 4) (id dt : Nat) (ecc : List EccHit) (s : State) : State :=
  let s1 := advance k dt s
  let clk := (s1.core k).clk
  let th := s1.thread k t
  match th.far.find? (fun f => partsWait f.parts id), s.reqSt? id with
  | some f, some (.done bs) =>
    let th1 := { th with far := th.far.map (fun x => if x = f then { f with parts := arrived id bs f.parts } else x) }
    (finishFar k t clk th1.far (s1.setThread k t th1)).release id
  | some f, some (.failed _) =>
    if th.far.head? ≠ some f then s
    else
      let a := if f.fill then f.phys else match f.parts.find? (fun p => decide (p.id = id)) with | some p => p.addr | none => f.phys
      let s2 := dropParts f.parts (s1.setThread k t { th with far := th.far.filter (fun x => decide (x ≠ f)), sampleAt := clk + 1 })
      takeImprec k t { due := clk, vec := 14, phys := a, word := 0, pc := f.pc, op := none } clk ecc
        (s2.onThread k t (fun th => retireDue (th.stopAt clk) th))
  | _, _ => s

/-- The entries of a fill of the shadow stack arrive, and the thread goes on 2 CCLK later; or its access fault (R125, R129, R293). -/
def fillArrive (k : Fin 144) (t : Fin 4) (id dt : Nat) (ecc : List EccHit) (s : State) : State :=
  let s1 := advance k dt s
  let clk := (s1.core k).clk
  let th := s1.thread k t
  match th.fillBuf, s.reqSt? id with
  | some _, some (.done bs) =>
    (s1.setThread k t { th.refill bs with fillBuf := none, resume := max th.resume (clk + 2) }).release id
  | some b, some (.failed _) =>
    let a := match b.parts.find? (fun p => decide (p.id = id)) with | some p => p.addr | none => 0
    takeImprec k t { due := clk, vec := 14, phys := a, word := 0, pc := b.pc, op := none } clk ecc
      ((s1.setThread k t (retireDue (th.stopAt clk) { th with fillBuf := none })).release id)
  | _, _ => s

/-- FAR_ACCESS_RESPONSE (R229): data or a fault for a load or a fill of the shadow stack, or a fetch that is not installed. -/
def execFarAccessResponse (slot : Fin 144) (thr : Fin 4) (id : Nat) (e : EntryInfo) (s : State) : Res :=
  let th := s.thread slot thr
  .next (if th.fetch.any (fun f => decide (f.id = id)) then fetchArrive slot thr id e.dt s
    else if (match th.fillBuf with | some b => partsWait b.parts id | none => false) then fillArrive slot thr id e.dt e.vec s
    else farArrive slot thr id e.dt e.vec s)

/-- I_CACHE_LINE_FILL (R200). -/
def execICacheLineFill (slot : Fin 144) (thr : Fin 4) (id dt : Nat) (s : State) : Res := .next (fetchArrive slot thr id dt s)

/-- The spills that a posted write has made end with it, 2 CCLK on (R129). -/
def spillEnds (id : Nat) (s : State) : State :=
  { s with threads := s.threads.map (fun e =>
      if e.2.spill = some id then (e.1, { e.2 with spill := none, resume := max e.2.resume ((s.core (e.1 / 4)).clk + 3) }) else e) }

/-- POSTED_WRITE_ACK (R188, R265, R376, R425): a fault is recorded; one by an uncorrectable error is a state fault, any other is logged. -/
def postedAck (k : Fin 144) (t : Fin 4) (id dt : Nat) (s : State) : State :=
  match (s.thread k t).posted.contains id, s.req? id with
  | true, some q =>
    if q.st.open_ then s
    else
      let s1 := advance k dt s
      let s2 := match q.st with
        | .failed ue =>
          let s2 := postedFault k t id s1
          if ue then (match s2.lcoreOf k with | some l => stateFault l (s2.plain q.addr) s2 | none => s2) else postedFaultLog k (s2.plain q.addr) s2
        | _ => s1
      let clk := (s2.core k).clk
      spillEnds id ((s2.onThread k t (fun th => { th with
        posted := th.posted.filter (fun x => decide (x ≠ id))
        postIn := th.postIn.filter (fun e => e.bad || decide (e.id ≠ id))
        lastAck := clk })).dropReq id)
  | _, _ => s

/-- POSTED_WRITE_ACK. -/
def execPostedWriteAck (slot : Fin 144) (thr : Fin 4) (id dt : Nat) (s : State) : Res := .next (postedAck slot thr id dt s)

/-- The oldest store-buffer entry has drained in CCLK `clk`: a load that waits for it and no other reads memory (R241). -/
def sbStep (k : Fin 144) (t : Fin 4) (clk : Nat) (f : FarLoad) (s : State) : State :=
  if f.after = 0 then s
  else if f.chk || decide (f.after ≠ 1) then
    s.onThread k t (fun th => { th with far := th.far.map (fun x => if x = f then { f with after := f.after - 1 } else x) })
  else lateLoad k t f (clk - f.clk - 1) (s.onThread k t (fun th => { th with resume := max th.resume (clk + 2) }))

/-- STORE_BUFFER_DRAIN (R198, R240, R241): the oldest entry drains, in a CCLK in which port 1 carries no L1 access and no other entry has
drained, once it stands in the buffer; one for far memory as a posted write, once there is a tag for it. -/
def sbDrain (k : Fin 144) (t : Fin 4) (dt : Nat) (s : State) : State :=
  let s1 := advance k dt s
  let c := s1.core k
  let th := s1.thread k t
  match th.sbuf with
  | [] => s
  | e :: es =>
    let need := match s1.placeOf k true e.addr e.data.length with | .far => (farParts e.addr e.data.length).length | _ => 0
    if c.clk ≤ e.at_ ∨ c.l1.contains c.clk ∨ c.sbClk = some c.clk ∨ (need ≠ 0 ∧ 16 < s1.tagsUsed k + need ∧ (s1.leadOf k).isNone = true) then s
    else
      let r := memStore k t e.cst c.clk e.pc { dt := 0, ue := e.ue, ce := e.ce } e.addr e.data (s1.setCore k { c with sbClk := some c.clk }, { th with sbuf := es })
      foldS (fun f s => sbStep k t c.clk f s) r.2.far (r.1.setThread k t r.2)

/-- STORE_BUFFER_DRAIN. -/
def execStoreBufferDrain (slot : Fin 144) (thr : Fin 4) (dt : Nat) (s : State) : Res := .next (sbDrain slot thr dt s)

/-- The I-cache of slot k is invalidated; fills in progress are not installed (R232). -/
def icInvalidate (k : Nat) (s : State) : State :=
  foldS (fun t s => s.onThread k t (fun th => { th with fetched := [], fetch := th.fetch.map (fun f => { f with inst := false }) }))
    (List.range 4) (s.setCore k { s.core k with icache := [] })

/-- The D-cache of slot k is invalidated; fills in progress are not installed (R232). -/
def dcInvalidate (k : Nat) (s : State) : State :=
  foldS (fun t s => s.onThread k t (fun th => { th with far := th.far.map (fun f => { f with fill := false }) }))
    (List.range 4) (s.setCore k { s.core k with dcache := [] })

/-- ICACHE_INVALIDATE (R232). -/
def execIcacheInvalidate (slot : Fin 144) (s : State) : Res := .next (icInvalidate slot s)

/-- DCACHE_INVALIDATE (R232). -/
def execDcacheInvalidate (slot : Fin 144) (s : State) : Res := .next (dcInvalidate slot s)

/-- The counters of Table 05-12 return to 0, and what they would count in this CCLK is lost (R244). -/
def counterClear (k : Nat) (s0 : State) : State :=
  let s := s0.setCore k { s0.core k with clrClk := some (s0.core k).clk }
  foldS (fun a s => s.setReg a 0) [aCoreCyc k, aCoreIssue k, aCoreBrmisp k, aCoreFqEmpty k, aCoreDcMiss k, aCoreIcMiss k,
    aCoreCpar k, aCoreSbFull k] s

/-- CORE_COUNTER_CLEAR (R244). -/
def execCoreCounterClear (slot : Fin 144) (s : State) : Res := .next (counterClear slot s)

/-- The private timer passes from 1 to 0 within dt CCLK (R397, R398): they pass. -/
def ptimerExpire (k : Fin 144) (t dt : Nat) (s : State) : State :=
  let c := ((s.thread k t).creg 0x100).toNat
  if bit ((s.thread k t).creg 0x102) 0 ∧ c ≠ 0 ∧ c ≤ dt then advance k dt s else s

/-- PTIMER_EXPIRE (R397). -/
def execPtimerExpire (slot : Fin 144) (thr : Fin 4) (dt : Nat) (s : State) : Res := .next (ptimerExpire slot thr dt s)

end Sys2Proof.Machine
end

