-- ==== Sys2Proof/Machine/Tide.lean ====
section
/-! DEFINITION. The Tide timebase (spec/02_tide.md): position, lock loop, tempo queue, compares' targets and arms.
What a fire does to other units (wakes, gates, pins, partition frames) is in Machine/Fire.lean. -/

namespace Sys2Proof.Machine

/-- P, the TKCLK cycles of one sample at a rate code (Table 02-1). -/
def tkPerSample (rate : Nat) : Nat :=
  if rate ≤ 1 then 2048 else if rate ≤ 3 then 1024 else 512

/-- The rate code in force: what TIDE_CFG.rate holds, from the TKCLK edge after its write (DESIGN CHOICE for a write outside a pitch:
log entry 24). -/
def State.rate (s : State) : Nat := legal 2 6 (fld (s.reg aTideCfg) 0 3)

/-- The phase step of one TKCLK cycle, 2^32 / P (R40). -/
def State.phaseStep (s : State) : Nat := 2 ^ 32 / tkPerSample s.rate

/-- Sample rate in Hz of a rate code (Table 02-8). -/
def rateHz (rate : Nat) : Nat :=
  match rate with
  | 0 => 44100 | 1 => 48000 | 2 => 88200 | 3 => 96000 | 4 => 176400 | _ => 192000

/-- Does the Tide count (R42)? Not in OFF, ANCHOR, LANTERN and TEST, not between B0 and the first sample at a new rate (R87),
and not while TPLL has lost lock (R634). -/
def State.counting (s : State) : Bool :=
  !s.tide.stopped && s.locked 3 &&
  (match s.pwr.mode with
   | .off => false | .anchor => false | .lantern => false | .test => false
   | _ => true)

/-- The timestamp of R81: bits [63:16] the sample count [47:0], bits [15:0] the phase [31:16]. -/
def Tide.stamp (t : Tide) : BitVec 64 := (t.count <<< 16) ||| (t.phase.zeroExtend 64 >>> 16)

/-- The beat position software sees, 48.16 (R41). -/
def Tide.beat16 (t : Tide) : BitVec 64 := (t.beat >>> 32).truncate 64

/-- Is the Tide at the first edge of a tide frame? -/
def State.atFrameBoundary (s : State) : Bool :=
  decide (s.tide.framePos = 0) && decide (s.tide.phase = 0)

/-- One TKCLK cycle (R40): the phase advances by its step; on the last cycle of a sample it stays for SAMPLE_BOUNDARY to
wrap it. -/
def tideTick (s : State) : State :=
  if s.counting && decide (s.tide.phase.toNat + s.phaseStep < 2 ^ 32) then
    { s with tide := { s.tide with phase := s.tide.phase + BitVec.ofNat 32 s.phaseStep, gateFires := [] } }
  else s

/-- The recorded offsets that the last 1 s can still need: those begun in it, and the one in force when it began. -/
def trimFollowed (lo : Nat) (l : List (Nat × Word)) : List (Nat × Word) :=
  l.takeWhile (fun x => decide (lo < x.1)) ++ (l.dropWhile (fun x => decide (lo < x.1))).take 1

/-- x moved toward y by at most m. -/
def slewed (x y m : Int) : Int := x + max (-m) (min m (y - x))

/-- The TKCLK offset moves toward the one that it slews to, in a sample period by at most what 10 ppm per ms gives (R55), in units of
0.001 ppm; LOCKED records what it follows. -/
def tkSlew (s : State) : State :=
  let v := BitVec.ofInt 32 (slewed (s.reg aTideFerr).toInt s.tide.goal.toInt (10000000 / rateHz s.rate : Nat))
  if v = s.reg aTideFerr then s
  else
    let s1 := s.setReg aTideFerr v
    if s.tide.lock = .locked then
      { s1 with tide := { s1.tide with
          followed := (s.tide.elapsed, v) :: trimFollowed (s.tide.elapsed - rateHz s.rate) s.tide.followed } }
    else s1

/-- A sample boundary (R40, R41): the phase is 0, the count one more, and the beat position gains the increment in
force during the sample that ended; the offset of TKCLK slews (R55). -/
def sampleBoundary (s : State) : State :=
  if s.counting then
    tkSlew { s with tide := { s.tide with
        phase := 0
        count := s.tide.count + 1
        elapsed := s.tide.elapsed + 1
        gateFires := []
        beat := s.tide.beat + s.tide.tempo.zeroExtend 96
        framePos := s.tide.framePos + 1 } }
  else s

/-- The tide frame counters at a boundary (R44): TIDE_FRAME advances, TIDE_FRAME_START takes the count, frame_tick is set
and the frame length of TIDE_CFG takes force, also one outside R43 (DESIGN CHOICE, log entry 24). -/
def tideNewFrame (s : State) : State :=
  { s with tide := { s.tide with
      frame := s.tide.frame + 1
      frameStart := s.tide.count
      framePos := 0
      nNow := fld (s.reg aTideCfg) 8 6 } }.orReg aTideStat 0x8000

/-- Sum of offset x periods, and of periods, of the offsets that a list (newest first) gives from `lo` up to `hi` periods elapsed. -/
def followedSum (lo : Nat) : Nat → List (Nat × Word) → Int × Nat
  | _, [] => (0, 0)
  | hi, (t, v) :: r =>
    let d := hi - max t lo
    let x := followedSum lo (min hi t) r
    (v.toInt * (d : Int) + x.1, d + x.2)

/-- The average TKCLK offset over the last 1 s of LOCKED (Table 02-4), rounded toward zero; the present one where none is recorded. -/
def State.heldOffset (s : State) : Word :=
  let e := s.tide.elapsed
  let x := followedSum (e - rateHz s.rate) e s.tide.followed
  if x.2 = 0 then s.reg aTideFerr else BitVec.ofInt 32 (Int.tdiv x.1 (x.2 : Int))

/-- The TKCLK offset that a lock state slews to when it begins (Table 02-4, R55, log entry 25): nominal in FREE, the average of the last
1 s of LOCKED in HOLDOVER, otherwise the one before. -/
def lockOffset (l : LockState) (s : State) : Word :=
  match l with
  | .free => 0
  | .holdover => s.heldOffset
  | _ => s.tide.goal

/-- A change of the lock state (R51): lock_chg at each change, ref_lost too on entry to HOLDOVER. The update counts
start again. -/
def setLock (l : LockState) (s : State) : State :=
  let s1 := { s with tide := { s.tide with
    lock := l, inLimits := 0, returns := 0, goal := lockOffset l s
    followed := if l = .locked then [(s.tide.elapsed, s.reg aTideFerr)] else [] } }
  if s.tide.lock = l then s1
  else if l = .holdover then s1.orReg aTideStat 0x300
  else s1.orReg aTideStat 0x100

/-- The reference source in force: TIDE_REF.src, or its fallback (R47, R61). -/
def State.refSrc (s : State) : Nat :=
  if s.tide.fallback then fld (s.reg aTideRef) 16 4 else fld (s.reg aTideRef) 0 4

/-- The reference instance in force. -/
def State.refSel (s : State) : Nat :=
  if s.tide.fallback then fld (s.reg aTideRef) 20 6 else fld (s.reg aTideRef) 4 6

/-- A write of TIDE_REF (R47, Table 02-4): src = 0 enters FREE, any other src ACQUIRE, and the primary source is taken
again (R61). -/
def tideRefWrite (v : Word) (s : State) : State :=
  let s1 := s.setReg aTideRef (v &&& 0x03FF1FFF)
  let s2 := { s1 with tide := { s1.tide with fallback := false, step := none } }
  setLock (if fld v 0 4 = 0 then .free else .acquire) s2

/-- The Tide changes by f. -/
def State.onTide (s : State) (f : Tide → Tide) : State := { s with tide := f s.tide }

/-- |x| of a signed word. -/
def wordAbs (x : Word) : Nat := x.toInt.natAbs

/-- A reference update (R50, R52, R56, R57, R58). `perr` is the signed phase error in ps, `ferr` the signed frequency
error to the reference and `offs` the TKCLK offset from nominal, in 0.001 ppm; `refOfs` the reference's own offset from
its nominal in 0.001 ppm; `family` says that the reference is of the Tide's rate family; `err` is the whole part, in
samples, of the error of the sample count (absolute references); `gap` says that expected updates were missed before. TKCLK slews to
nominal for a reference that is no good, and to its held offset in HOLDOVER; a LOCKED Tide whose reference leaves the range stays
LOCKED at the offset it has, with ref_range set (DESIGN CHOICE, log entry 25). It slews to no more than 100 ppm from a good reference
(R55). -/
def referenceUpdate (u : RefUpdate) (s : State) : State :=
  if s.refSrc = u.src ∧ (u.src = 5 ∨ s.refSel = u.sel.val) ∧ u.src ≠ 0 then
    let s0 := s.setReg aTidePerr u.perr
    let bad := !u.family || decide (wordAbs u.refOfs > 1000000)
    let offs := BitVec.ofInt 32 (slewed u.refOfs.toInt u.offs.toInt 100000)
    let goal := match s.tide.lock with
      | .free => 0
      | .acquire => if bad then 0 else offs
      | .locked => if bad then s.reg aTideFerr else offs
      | .holdover => s.tide.goal
    let s1 := (if bad then s0.orReg aTideStat 0x800 else s0).onTide (fun t => { t with goal := goal })
    let good := !bad && decide (wordAbs u.perr ≤ 50000) && decide (wordAbs u.ferr ≤ 1000)
    let steps := !bad && decide (3 ≤ u.src) && (decide (1 < u.err.toInt.natAbs) || (decide (u.err.toInt.natAbs = 1) && u.fraction)) &&
      (decide (u.src = 5) || bit (s.reg aTideRef) 12)
    match s.tide.lock with
    | .free => s1
    | .acquire =>
      { s1 with tide := { s1.tide with
          inLimits := if good then s1.tide.inLimits + 1 else 0
          step := if steps then some u.err else s1.tide.step } }
    | .locked =>
      { s1 with tide := { s1.tide with
          farOff := decide (wordAbs u.perr > 1000000)
          step := if steps then some u.err else s1.tide.step } }
    | .holdover =>
      { s1 with tide := { s1.tide with returns := if u.gap then 1 else s1.tide.returns + 1 } }
  else s

/-- Lock (Table 02-4, R51): in ACQUIRE, lock_count updates in a row within the limits; a count of 0 acts as 1 (R88). -/
def lockAchieved (s : State) : State :=
  let lim := fld (s.reg aTideHold) 16 8
  if s.tide.lock = .acquire ∧ (if lim = 0 then 1 else lim) ≤ s.tide.inLimits then
    let s1 := setLock .locked s
    { s1 with tide := { s1.tide with farOff := false } }
  else s

/-- Entry to HOLDOVER (Table 02-4): in LOCKED, 4 expected updates missed, or the phase error beyond 1 µs. -/
def holdoverEntry (missed4 : Bool) (s : State) : State :=
  if s.tide.lock = .locked ∧ (missed4 = true ∨ s.tide.farOff = true) then
    let s1 := setLock .holdover s
    { s1 with tide := { s1.tide with farOff := false } }
  else s

/-- A lost reference is back for 8 expected intervals in a row (R56). -/
def referenceReturn (s : State) : State :=
  if s.tide.lock = .holdover ∧ 8 ≤ s.tide.returns then setLock .acquire s else s

/-- The fallback source is taken (R61). -/
def fallbackSwitch (s : State) : State :=
  if s.tide.lock = .holdover ∧ fld (s.reg aTideHold) 0 16 ≠ 0 then
    let s1 := { s with tide := { s.tide with fallback := true } }
    (setLock .acquire s1).orReg aTideStat 0x4000
  else s

/-- The first sample at the new rate (R87). -/
def rateRestart (s : State) : State :=
  if s.tide.stopped then
    let s1 := { s with tide := { s.tide with
      stopped := false, count := 0, phase := 0, frame := 0, frameStart := 0, framePos := 0
      nNow := fld (s.reg aTideCfg) 8 6 }, camp := { s.camp with since := 0 } }
    setLock (if fld (s.reg aTideRef) 0 4 = 0 then .free else .acquire) s1
  else s

/-! ## Compares -/

/-- The compare n. -/
def State.cmp (s : State) (n : Nat) : Cmp := smGet (fun _ => Cmp.init) s.cmps n

/-- Replace the compare n. -/
def State.setCmp (s : State) (n : Nat) (c : Cmp) : State :=
  { s with cmps := smSet (fun _ => Cmp.init) s.cmps n c }

/-- The bits of TIDE_CMPn_ACT that an action defines (Table 02-13); the others are reserved: they read 0, and a write of them has
no effect (R11, log entry 27). -/
def cmpActMask (action : Nat) : Word :=
  match action with | 2 => 0x7037F | 4 => 0x11F1F3F | 5 => 0x37F | _ => 0

/-- TIDE_CMPn_CTL.mode. -/
def State.cmpMode (s : State) (n : Nat) : Nat := legal 0 3 (fld (s.reg (aTideCmpCtl n)) 0 2)

/-- The value a compare's target is compared with: the timestamp (R62) or the beat position (R63). -/
def State.cmpPos (s : State) (n : Nat) : Nat :=
  if bit (s.reg (aTideCmpCtl n)) 2 then s.tide.beat16.toNat else s.tide.stamp.toNat

/-- The distance the position moves between two edges at which the compare is examined. -/
def State.cmpStep (s : State) (n : Nat) : Nat :=
  if bit (s.reg (aTideCmpCtl n)) 2 then s.tide.tempo.toNat / 2 ^ 32 else 2 ^ 16 / tkPerSample s.rate

/-- Is the target already past, its edge gone by (R67)? -/
def State.cmpPast (s : State) (n : Nat) : Bool :=
  decide ((s.cmp n).target.toNat + s.cmpStep n ≤ s.cmpPos n) && decide ((s.cmp n).target.toNat < s.cmpPos n)

/-- Does the compare match now (R62, R63, R67)? It must be armed with a nonzero mode, and a beat-based compare is
examined at sample boundaries only. -/
def State.cmpMatches (s : State) (n : Nat) : Bool :=
  (s.cmp n).armed && decide (s.cmpMode n ≠ 0) && decide ((s.cmp n).target.toNat ≤ s.cmpPos n) &&
  (!bit (s.reg (aTideCmpCtl n)) 2 || decide (s.tide.phase = 0))

/-- A compare has just become live, by an arm or by a mode write: note whether its target is already past (R67). -/
def cmpLive (n : Nat) (s : State) : State :=
  if (s.cmp n).armed ∧ s.cmpMode n ≠ 0 then s.setCmp n { s.cmp n with past := s.cmpPast n } else s

/-- The low target word is staged (R67). -/
def cmpTgtLow (n : Nat) (v : Word) (s : State) : State := s.setCmp n { s.cmp n with staged := v }

/-- The high target word arms the compare, clears its count and its fired bit (R67, R89). -/
def cmpArm (n : Nat) (v : Word) (s : State) : State :=
  cmpLive n (s.setCmp n { s.cmp n with target := v ++ (s.cmp n).staged, armed := true, fired := false, cnt := 0, past := false })

/-- A write of TIDE_CMPn_CTL: mode 0 stops and disarms at once (R89); another mode may make an arm live (R67). -/
def cmpCtlWrite (n : Nat) (v : Word) (s : State) : State :=
  let was := s.cmpMode n
  let s1 := s.setReg (aTideCmpCtl n) (v &&& 0xF77)
  if legal 0 3 (fld v 0 2) = 0 then s1.setCmp n { s1.cmp n with armed := false }
  else if was = 0 then cmpLive n s1 else s1

/-- The first part of a fire (R64 to R66): pending bit, count, late bit, and the compare's next target or fired state.
`late` is what the caller knows (a step passed the target over, or it was past when the compare became live). -/
def cmpFired (n : Nat) (late : Bool) (s : State) : State :=
  let c := s.cmp n
  let per := (s.reg (aTideCmpPer n)).toNat
  let pos := s.cmpPos n
  let k := (pos - c.target.toNat) / per + 1
  let periodic := decide (s.cmpMode n = 2) && decide (per ≠ 0)
  let c' : Cmp :=
    if periodic then { c with target := BitVec.ofNat 64 (c.target.toNat + k * per), cnt := c.cnt + 1, past := false }
    else { c with armed := false, fired := true, cnt := c.cnt + 1, past := false }
  let isLate := late || (if periodic then decide (1 < k) else (decide (s.cmpMode n ≠ 2) && c.past))
  let s1 := (s.setCmp n c').orReg (aTideCmpPend (n / 32)) (1 <<< (n % 32))
  if isLate then s1.orReg (aTideCmpLate (n / 32)) (1 <<< (n % 32)) else s1

/-! ## Snapshot and tempo queue -/

/-- A snapshot (R83): count, phase, beat position and frame on one edge. -/
def snapshot (s : State) : State :=
  let t := s.tide
  ((((((s.setReg aTideSnapCntLo (t.count.truncate 32)).setReg aTideSnapCntHi ((t.count >>> 32).truncate 32)).setReg
    aTideSnapPhase t.phase).setReg aTideSnapBeatLo (t.beat16.truncate 32)).setReg
    aTideSnapBeatHi ((t.beat16 >>> 32).truncate 32)).setReg aTideSnapFrame t.frame)

/-- Push the entry e; a full queue ignores it and sets tempo_ovf (R77, R79). -/
def tempoPushEntry (e : TempoEntry) (s : State) : State :=
  if s.tide.queue.length < 8 then { s with tide := { s.tide with queue := s.tide.queue ++ [e] } }
  else s.orReg aTideStat 0x2000

/-- The entry staged in TIDE_TQ_AT and TIDE_TQ_VAL. -/
def State.stagedEntry (s : State) (locate : Bool) : TempoEntry :=
  { at_ := ((s.reg aTideTqAtHi) ++ (s.reg aTideTqAtLo) : BitVec 64).truncate 48
    value := (s.reg aTideTqValHi) ++ (s.reg aTideTqValLo), locate := locate }

/-- TIDE_TQ_FLUSH (R77). -/
def tempoFlush (s : State) : State := { s with tide := { s.tide with queue := [] } }

/-- The change an entry makes (R77): the increment in force, or the beat position with its extra fraction bits 0. -/
def tempoEffect (e : TempoEntry) (t : Tide) : Tide :=
  if e.locate then { t with beat := (e.value.zeroExtend 96) <<< 32 } else { t with tempo := e.value.truncate 48 }

end Sys2Proof.Machine
end

