-- ==== Sys2Proof/Machine/Evi.lean ====
section
/-! DEFINITION. The event inputs (spec/16_events_pins.md R608 to R623): sampling, filter, detectors, FIFOs, and their commands
(spec/opcode_table.json rows EVI_PIN_CHANGE to QPOS_WRITE). Time is counted in EVCLK samples, which the commands carry. -/

namespace Sys2Proof.Machine

/-- Event input p (EVIp). -/
def State.evPin (s : State) (p : Nat) : EvPin := smGet (fun _ => EvPin.init) s.evi.pins p

/-- Replace an event input. -/
def State.setEvPin (s : State) (p : Nat) (x : EvPin) : State :=
  { s with evi := { s.evi with pins := smSet (fun _ => EvPin.init) s.evi.pins p x } }

/-- The detector of pin p, or of the pair whose even pin is p. -/
def State.evDet (s : State) (p : Nat) : EvDet := smGet (fun _ => EvDet.init) s.evi.dets p

/-- Replace a detector. -/
def State.setEvDet (s : State) (p : Nat) (x : EvDet) : State :=
  { s with evi := { s.evi with dets := smSet (fun _ => EvDet.init) s.evi.dets p x } }

/-- The FIFO of group g. -/
def State.evFifo (s : State) (g : Nat) : List EvEntry := smGet (fun _ => []) s.evi.fifo g

/-- Replace a FIFO. -/
def State.setEvFifo (s : State) (g : Nat) (l : List EvEntry) : State :=
  { s with evi := { s.evi with fifo := smSet (fun _ => []) s.evi.fifo g l } }

/-- EVI_Gg_PINi of pin p. -/
def State.evCfg (s : State) (p : Nat) : Word := s.reg (aEviGPin (p / 8) (p % 8))

/-- The level of a pin after inversion (R608). -/
def State.evActive (s : State) (p : Nat) : Bool := (s.evPin p).raw != bit (s.evCfg p) 5

/-- n x s of a group (R609), in EVCLK. -/
def State.evHold (s : State) (g : Nat) : Nat :=
  let c := s.reg (aEviGCfg g)
  max 1 (fld c 8 8) * (match legal 4 3 (fld c 1 2) with | 0 => 1 | 1 => 64 | _ => 4096)

/-- EVI_Gg_THR, 0 treated as 1. -/
def State.evThr (s : State) (g : Nat) : Nat := max 1 (fld (s.reg (aEviGThr g)) 0 11)

/-- EVI_Gg_STAT as read. -/
def State.evStat (s : State) (g : Nat) : Word :=
  (s.reg (aEviGStat g) &&& 0x700) ||| BitVec.ofNat 32 (b2n (decide (s.evThr g ≤ (s.evFifo g).length)))

/-- An entry enters the FIFO of group g, or finds it full (R621); Ferry WAITs on its level release (R354). -/
def evPush (g : Nat) (e : EvEntry) (s : State) : State :=
  let l := s.evFifo g
  if l.length < 1024 then
    fryRelease (fun w => match w with | .evt g' n => decide (g' = g) && decide (n ≤ l.length + 1) | _ => false)
      (s.setEvFifo g (l ++ [e]))
  else (s.incSat (aEviGLost g)).orReg (aEviGStat g) 0x100

/-- A sequence error of a group (R614, R616). -/
def evSeqErr (g : Nat) (s : State) : State := (s.incSat (aEviGSeqerr g)).orReg (aEviGStat g) 0x400

/-- An interval of n EVCLK in ns (R614). -/
def evNs (n : Nat) : Word := BitVec.ofNat 32 (min 0xFFFFFFFC (4 * n))

/-- Edge detector (R613). -/
def evEdge (p : Nat) (ts : BitVec 64) (s : State) : State :=
  let up := (s.evPin p).acc
  if bit (s.evCfg p) (if up then 3 else 4) then
    evPush (p / 8) { ts := ts, pin := p % 8, kind := if up then 1 else 2, level := up, value := 0 } s
  else s

/-- Pair detector (R614, Table 16-1): pin p of the pair whose even pin is e has changed at instant t. -/
def evPair (e p t : Nat) (ts : BitVec 64) (s : State) : State :=
  let d := s.evDet e
  let a := (s.evPin e).acc
  let b := (s.evPin (e + 1)).acc
  let isA := decide (p = e)
  let out := fun (kind : Nat) (s : State) =>
    evPush (e / 8) { ts := ts, pin := p % 8, kind := kind, level := (s.evPin p).acc, value := evNs (t - d.at_) } s
  let go := fun (st : PairSt) (at_ : Nat) (s : State) => s.setEvDet e { s.evDet e with st := st, at_ := at_ }
  match d.st, isA, (s.evPin p).acc with
  | .idle, true, true => go .aOn t s
  | .aOn, false, true => go .made d.at_ (out 3 s)
  | .aOn, true, false => go .idle d.at_ (out 5 s)
  | .made, false, false => go .bOff t s
  | .bOff, false, true => go .made d.at_ (out 3 s)
  | .bOff, true, false => go .idle d.at_ (out 4 s)
  | _, _, _ =>
    let s1 := evSeqErr (e / 8) s
    if !a then go .idle d.at_ s1 else if !b then go .aOn t s1 else go .made d.at_ s1

/-- The place of (A, B) in the cycle 00, 10, 11, 01. -/
def quadIdx (a b : Bool) : Nat :=
  match a, b with
  | false, false => 0 | true, false => 1 | true, true => 2 | false, true => 3

/-- Quadrature detector (R616): pin p of the pair whose even pin is e has changed. -/
def evQuad (e p : Nat) (ts : BitVec 64) (s : State) : State :=
  let a := (s.evPin e).acc
  let b := (s.evPin (e + 1)).acc
  let before := if p = e then quadIdx (!a) b else quadIdx a (!b)
  let up := decide ((before + 1) % 4 = quadIdx a b)
  let r := aEviGQpos (e / 8) (e % 8 / 2)
  let v := if up then s.reg r + 1 else s.reg r - 1
  let s1 := s.setReg r v
  if v.toNat % 2 ^ legal 5 3 (fld (s.evCfg e) 6 2) = 0 then
    evPush (e / 8) { ts := ts, pin := p % 8, kind := 6, level := (s.evPin p).acc, value := v } s1
  else s1

/-- Pulse-width detector (R617). -/
def evPulse (p t : Nat) (ts : BitVec 64) (s : State) : State :=
  let d := s.evDet p
  if (s.evPin p).acc then s.setEvDet p { d with pulse := some (t, ts) }
  else
    match d.pulse with
    | none => s
    | some (t0, ts0) =>
      evPush (p / 8) { ts := ts0, pin := p % 8, kind := 7, level := false, value := evNs (t - t0) } (s.setEvDet p { d with pulse := none })

/-- The mode that governs pin p (R612): a pair's even pin governs both; the odd pin's own mode is then ignored. -/
def State.evMode (s : State) (p : Nat) : Nat :=
  let m := legal 8 5 (fld (s.evCfg (p / 2 * 2)) 0 3)
  if m = 2 ∨ m = 3 then m else let k := legal 8 5 (fld (s.evCfg p) 0 3); if k = 1 ∨ k = 4 then k else 0

/-- Does the run of pin p qualify (R609)? -/
def State.evDue (s : State) (p : Nat) : Bool :=
  match (s.evPin p).run with
  | some r => decide (s.evHold (p / 8) ≤ s.evi.clk - r.1)
  | none => false

/-- The change of one pin is accepted (R609, R610). -/
def evAcceptOne (p : Nat) (s : State) : State :=
  let x := s.evPin p
  match x.run with
  | none => s
  | some (t, ts) =>
    let s1 := s.setEvPin p { x with acc := !x.acc, run := none }
    match s.evMode p with
    | 1 => evEdge p ts s1
    | 2 => evPair (p / 2 * 2) p t ts s1
    | 3 => evQuad (p / 2 * 2) p ts s1
    | 4 => evPulse p t ts s1
    | _ => s1

/-- The other pin of a pair. -/
def pairMate (p : Nat) : Nat := if p % 2 = 0 then p + 1 else p - 1

/-- The change of pin p is accepted; a change of its mate on the same sample goes with it: A before B in pair mode (R615),
without a step in quadrature mode (R616). -/
def evAccept (p : Nat) (s : State) : State :=
  let q := pairMate p
  let same := s.evDue q && decide ((s.evPin q).run.map (fun r => r.1) = (s.evPin p).run.map (fun r => r.1))
  if same then
    match s.evMode p with
    | 2 => evAcceptOne (p / 2 * 2 + 1) (evAcceptOne (p / 2 * 2) s)
    | 3 =>
      let flip := fun (j : Nat) (s : State) => s.setEvPin j { s.evPin j with acc := !(s.evPin j).acc, run := none }
      evSeqErr (p / 8) (flip q (flip p s))
    | _ => evAcceptOne p s
  else evAcceptOne p s

/-- Of the pins of pin p's group whose runs qualify, at instants no later than that of p's run (at the same instant, no higher pin), the first:
entries of a group go by instant, then by pin (R619). -/
def State.evFirst (s : State) (p : Nat) : Option Nat :=
  match (s.evPin p).run with
  | none => none
  | some r =>
    ((List.range 8).map (fun i => p / 8 * 8 + i)).foldl (fun b q =>
      match (s.evPin q).run with
      | none => b
      | some x =>
        if !s.evDue q || decide (r.1 < x.1) || (decide (x.1 = r.1) && decide (p < q)) then b
        else match b with
          | none => some q
          | some o => (match (s.evPin o).run with | some y => if x.1 < y.1 then some q else some o | none => some q)) none

/-- The change of pin p is accepted after those that come before it in its group (R619); n bounds them. -/
def evInTurn (p : Nat) : Nat → State → State
  | 0, s => s
  | n + 1, s =>
    match s.evFirst p with
    | none => s
    | some q => evInTurn p n (evAccept q s)

/-- The filter looks at pin p: a run begins, goes on, qualifies, or is discarded as a glitch (R609); a level that no earlier sample has shown
is no change. -/
def evSample (p : Nat) (s : State) : State :=
  let begin_ := fun (s : State) =>
    let x := s.evPin p
    if x.run.isNone ∧ s.evActive p ≠ x.acc then s.setEvPin p { x with run := some (s.evi.clk, s.tide.stamp) } else s
  if !bit (s.reg (aEviGCfg (p / 8))) 0 then s.setEvPin p { s.evPin p with run := none }
  else
    let x := s.evPin p
    if x.run.isSome ∧ s.evActive p = x.acc then
      if s.evDue p then begin_ (evInTurn p 8 s)
      else if x.run.map (fun r => r.1) = some s.evi.clk then s.setEvPin p { x with run := none }
      else ((s.setEvPin p { x with run := none }).incSat (aEviGGlitch (p / 8))).orReg (aEviGStat (p / 8)) 0x200
    else begin_ s

/-- dt EVCLK samples pass. -/
def evPass (dt : Nat) (s : State) : State := { s with evi := { s.evi with clk := s.evi.clk + dt } }

/-- EVI_PIN_CHANGE after dt EVCLK: the sample of EVIp shows a level (R608, R609). -/
def evPinChange (p : Nat) (level : Bool) (dt : Nat) (s : State) : State :=
  if s.fclkRuns then
    let s1 := evPass dt s
    evSample p (s1.setEvPin p { s1.evPin p with raw := level })
  else s.setEvPin p { s.evPin p with raw := level }

/-- EVI_PIN_CHANGE (R609). -/
def execEviPinChange (pin : Fin 128) (level : Bool) (dt : Nat) (s : State) : Res := .next (evPinChange pin level dt s)

/-- EVI_CHANGE_ACCEPT after dt EVCLK (R609). -/
def evChangeAccept (p dt : Nat) (s : State) : State :=
  if s.fclkRuns then
    let s1 := evPass dt s
    if s1.evDue p ∧ s1.evActive p ≠ (s1.evPin p).acc then evInTurn p 8 s1 else s1
  else s

/-- EVI_CHANGE_ACCEPT (R609). -/
def execEviChangeAccept (pin : Fin 128) (dt : Nat) (s : State) : Res := .next (evChangeAccept pin dt s)

/-- EVI_Gg_E0 to E3 as read (R620). -/
def State.evWord (s : State) (g i : Nat) : Word :=
  match s.evFifo g with
  | [] => 0
  | e :: _ =>
    match i with
    | 0 => loW e.ts
    | 1 => hiW e.ts
    | 2 => BitVec.ofNat 32 (e.pin + e.kind * 2 ^ 4 + b2n e.level * 2 ^ 7 + g * 2 ^ 8)
    | _ => e.value

/-- A read of EVI_Gg_E3 removes the oldest entry (R620). -/
def evPop (g : Nat) (s : State) : State := s.setEvFifo g (s.evFifo g).tail

/-- EVI_ENTRY_POP (R620): the word read is the command's result. -/
def execEviEntryPop (g : Fin 16) (s : State) : Res := .next { evPop g s with rdata := s.evWord g 3 }

/-- EVI_FLUSH: a written 1 in bit 0 empties the FIFO. -/
def evFlush (g : Nat) (v : Word) (s : State) : State := if bit v 0 then s.setEvFifo g [] else s

/-- EVI_FLUSH (Table 16-4). -/
def execEviFlush (g : Fin 16) (v : Word) (s : State) : Res := .next (evFlush g v s)

/-- A write of EVI_Gg_PINi (R618): the pin's detector, or its pair's, returns to its starting state. -/
def evPinCfg (p : Nat) (v : Word) (s : State) : State :=
  let s1 := s.setReg (aEviGPin (p / 8) (p % 8)) (v &&& 0xFF)
  let s2 := s1.setEvDet p EvDet.init
  evSample p (if s1.evMode (p / 2 * 2) = 2 ∨ s1.evMode (p / 2 * 2) = 3 then s2.setEvDet (p / 2 * 2) EvDet.init else s2)

/-- EVI_PIN_CFG_WRITE (R618). -/
def execEviPinCfgWrite (pin : Fin 128) (v : Word) (s : State) : Res := .next (evPinCfg pin v s)

/-- QPOS_WRITE (R616). -/
def execQposWrite (g : Fin 16) (k : Fin 4) (v : Word) (s : State) : Res := .next (s.setReg (aEviGQpos g k) v)

/-- A write of EVI_Gg_CFG: the filter looks at every pin of the group anew. -/
def evCfgWrite (g : Nat) (v : Word) (s : State) : State :=
  foldS (fun i s => evSample (8 * g + i) s) (List.range 8) (s.setReg (aEviGCfg g) (v &&& 0xFF07))

end Sys2Proof.Machine
end

