-- ==== Sys2Proof/Machine/FerryRows.lean ====
section
/-! DEFINITION. The commands of the Ferry channels (spec/opcode_table.json rows MOVE to FLAG_CLR, spec/08_ferry.md). A command that
names an instruction lets the channel go on with the instruction at its pc when it is that one. -/

namespace Sys2Proof.Machine

/-- The channel goes on with the instruction at its pc, if it is one that `want` names; an illegal instruction and a word not yet
held are met on the way. -/
def fryRun (n : Nat) (want : FInstr → Bool) (s : State) : State :=
  fryStep n want s.cmpOver (fun g => (s.evFifo g).length) s

/-- MOVE (R346). -/
def execMove (n : Fin 64) (s : State) : Res :=
  .next (fryRun n (fun i => match i with | .move m => decide (m.words = 3) | _ => false) s)

/-- MOVX (R346). -/
def execMovx (n : Fin 64) (s : State) : Res :=
  .next (fryRun n (fun i => match i with | .move m => decide (m.words = 4) | _ => false) s)

/-- FERRY_LOOP (R344). -/
def execFerryLoop (n : Fin 64) (s : State) : Res :=
  .next (fryRun n (fun i => match i with | .loop _ => true | _ => false) s)

/-- ENDL (R344). -/
def execEndl (n : Fin 64) (s : State) : Res := .next (fryRun n (fun i => decide (i = .endl)) s)

/-- WAIT_TIDE_COMPARE (R353). -/
def execWaitTideCompare (n : Fin 64) (s : State) : Res :=
  .next (fryRun n (fun i => match i with | .waitCmp _ => true | _ => false) s)

/-- WAIT_EVENT_FIFO (R354). -/
def execWaitEventFifo (n : Fin 64) (s : State) : Res :=
  .next (fryRun n (fun i => match i with | .waitEvt _ _ => true | _ => false) s)

/-- WAIT_FLAG (R354). -/
def execWaitFlag (n : Fin 64) (s : State) : Res :=
  .next (fryRun n (fun i => match i with | .waitFlag _ _ => true | _ => false) s)

/-- FERRY_WAIT_RELEASE (R353, R354): a registered WAIT whose release has come. -/
def execFerryWaitRelease (n : Fin 64) (s : State) : Res :=
  .next (if (s.fry n).st = .wait ∧ (s.fry n).released = true then fryWaitEnd n s else s)

/-- SIGNAL_INTERRUPT (R356). -/
def execSignalInterrupt (n : Fin 64) (s : State) : Res := .next (fryRun n (fun i => decide (i = .sigInt)) s)

/-- SIGNAL_SET_FLAG (R356). -/
def execSignalSetFlag (n : Fin 64) (s : State) : Res :=
  .next (fryRun n (fun i => match i with | .sigFlag _ v => v | _ => false) s)

/-- SIGNAL_CLEAR_FLAG (R356). -/
def execSignalClearFlag (n : Fin 64) (s : State) : Res :=
  .next (fryRun n (fun i => match i with | .sigFlag _ v => !v | _ => false) s)

/-- FENCE (R357). -/
def execFence (n : Fin 64) (s : State) : Res :=
  .next (fryRun n (fun i => match i with | .fence _ => true | _ => false) s)

/-- CRC_INIT (R352). -/
def execCrcInit (n : Fin 64) (s : State) : Res :=
  .next (fryRun n (fun i => match i with | .crcInit _ _ => true | _ => false) s)

/-- CRC_FOLD (R352). -/
def execCrcFold (n : Fin 64) (s : State) : Res :=
  .next (fryRun n (fun i => match i with | .crcFold _ _ => true | _ => false) s)

/-- CRC_STORE (R352). -/
def execCrcStore (n : Fin 64) (s : State) : Res :=
  .next (fryRun n (fun i => match i with | .crcStore _ _ => true | _ => false) s)

/-- PARK (R365). -/
def execPark (n : Fin 64) (s : State) : Res :=
  .next (fryRun n (fun i => match i with | .park _ => true | _ => false) s)

/-- PARK_WAKE (R366): a granted write to the snooped bank has come. -/
def execParkWake (n : Fin 64) (s : State) : Res :=
  .next (if (s.fry n).st = .parked ∧ (s.fry n).released = true then fryWake n s else s)

/-- JUMP (R342). -/
def execJump (n : Fin 64) (s : State) : Res :=
  .next (fryRun n (fun i => match i with | .jump _ => true | _ => false) s)

/-- END (R345). -/
def execEndProg (n : Fin 64) (s : State) : Res := .next (fryRun n (fun i => decide (i = .endProg)) s)

/-- FERRY_NOP (R343). -/
def execFerryNop (n : Fin 64) (s : State) : Res := .next (fryRun n (fun i => decide (i = .nop)) s)

/-- FERRY_FETCH (R342): the fetch of number `id` is back. -/
def execFerryFetch (n : Fin 64) (id : Nat) (s : State) : Res :=
  .next (if (s.fry n).fetch.map (fun f => f.id) = some id then fryFetched n s else s)

/-- FERRY_READ_DATA (R358): the read beat of number `id` is back. -/
def execFerryReadData (n : Fin 64) (id : Nat) (s : State) : Res := .next (fryReadData n id s)

/-- FERRY_WRITE_ACK (R350, R357, R358): the write beat of number `id` is back. -/
def execFerryWriteAck (n : Fin 64) (id : Nat) (s : State) : Res := .next (fryWriteAck n id s)

/-- START (Table 08-6). -/
def execStart (n : Fin 64) (s : State) : Res := .next (fryStart n s)

/-- PAUSE (R359). -/
def execPause (n : Fin 64) (s : State) : Res := .next (fryPause n s)

/-- RESUME (R360). -/
def execResume (n : Fin 64) (s : State) : Res := .next (fryResume n s)

/-- STOP (R361). -/
def execStop (n : Fin 64) (s : State) : Res := .next (fryStop n s)

/-- What else comes about on the edge on which an ABORT is registered. -/
def abortEdge (n : Nat) (e : AbortEdge) (s : State) : State :=
  match e with
  | .none => s
  | .fetched => fryFetched n s
  | .read id => fryReadData n id s
  | .ack id => fryWriteAck n id s
  | .step => fryRun n (fun _ => true) s

/-- ABORT (R362, R363). A channel that enters COMPLETED on its edge stays there, with outcome 2. An error of its edge is recorded, and the
state is ABORTED (R364). -/
def abortRow (n : Nat) (e : AbortEdge) (s : State) : State :=
  let s1 := abortEdge n e s
  if (s.fry n).st ≠ .error ∧ (s1.fry n).st = .error then
    fryFlag n 0x2000 ((s1.onFry n (fun c => { c.discard with st := .aborted })).setReg (aFryAbt n) 1)
  else if (s.fry n).st ≠ .completed ∧ (s1.fry n).st = .completed then fryAbort n s1
  else fryAbort n s

/-- ABORT (R362). -/
def execAbort (x : AbortInfo) (s : State) : Res := .next (abortRow x.chan x.edge s)

/-- CLEAR (Table 08-6). -/
def execClear (n : Fin 64) (s : State) : Res := .next (fryClear n s)

/-- FERRY_CMD_UNDEFINED (R724). -/
def execFerryCmdUndefined (n : Fin 64) (s : State) : Res := .next (fryRefuse n s)

/-- FERRY_PC_WRITE (R373): FRYn_PC, FRYn_PC_HI, FRYn_CHK or FRYn_CHKCFG, as `which` says. -/
def execFerryPcWrite (n : Fin 64) (which : Fin 4) (v : Word) (s : State) : Res := .next (fryRegWrite n which v s)

/-- Set or clear the flags of a written word (R355). -/
def flagWord (set hi : Bool) (v : Word) (s : State) : State :=
  foldS (fun b s =>
    let f := (if hi then 32 else 0) + b
    if bit v b then (if set then flagSet f s else flagClr f s) else s) (List.range 32) s

/-- FLAG_SET (R355). -/
def execFlagSet (hi : Bool) (v : Word) (s : State) : Res := .next (flagWord true hi v s)

/-- FLAG_CLR (R355). -/
def execFlagClr (hi : Bool) (v : Word) (s : State) : Res := .next (flagWord false hi v s)

end Sys2Proof.Machine
end

