-- ==== Sys2Proof/Machine/IcRows.lean ====
section
/-! DEFINITION. The commands of the interrupt controller (spec/opcode_table.json rows IC_CLAIM to IC_SRC_CFG_WRITE).
SOURCE_LEVEL_CHANGE is in Machine/Levels.lean, which knows the levels of every block. -/

namespace Sys2Proof.Machine

/-- The address of IC_CLAIM. -/
def icClaimAddr : Nat := aIcClaim

/-- IC_CLAIM (R391 to R393): the thread's waiting load of IC_CLAIM is answered with the claim at the level and world of its
issue; without one, the claim is made at the thread's present level and world. The word is the command's result. -/
def icClaimRow (slot : Fin 144) (thr : Fin 4) (s : State) : State :=
  match s.memc.reqs.find? (fun q => decide (q.ini = .core slot thr) && decide (q.kind = .load) && decide (q.addr = icClaimAddr) &&
      q.st.open_) with
  | some q =>
    let r := claim slot thr q.cst s
    { r.1.setReqSt q.id (.done (leBytes 4 r.2.toNat)) with rdata := r.2 }
  | none =>
    let r := claim slot thr (s.thread slot thr).cst s
    { r.1 with rdata := r.2 }

/-- IC_CLAIM. -/
def execIcClaim (slot : Fin 144) (thr : Fin 4) (s : State) : Res := .next (icClaimRow slot thr s)

/-- A write of IC_DONE (R394): of a core thread, completion; of any other initiator, an ID that is not ACTIVE on the writer. -/
def icDone (ini : Initiator) (id : Nat) (s : State) : State :=
  match ini with
  | .core k t => complete k t id s
  | _ => s.orReg aIcStat 1

/-- IC_DONE (R394). -/
def execIcDone (ini : Initiator) (id : Fin 1024) (s : State) : Res := .next (icDone ini id s)

/-- HOLDOFF_END (R394). -/
def execHoldoffEnd (src : SrcRef) (s : State) : Res := .next (s.setSrc src (s.src src).endHoldoff)

/-- IC_DBELL (R396). -/
def execIcDbell (ini : Initiator) (v : Word) (s : State) : Res := .next (icDbell (s.icRight ini (s.cstOf ini)) v s)

/-- IC_PEND_SET (R384). -/
def execIcPendSet (ini : Initiator) (k : Fin 13) (v : Word) (s : State) : Res :=
  .next (icPend (s.icRight ini (s.cstOf ini)) k v true s)

/-- IC_PEND_CLR (R384). -/
def execIcPendClr (ini : Initiator) (k : Fin 13) (v : Word) (s : State) : Res :=
  .next (icPend (s.icRight ini (s.cstOf ini)) k v false s)

/-- IC_MASK_SET (R381). -/
def execIcMaskSet (ini : Initiator) (k : Fin 13) (v : Word) (s : State) : Res :=
  .next (icMask (s.icRight ini (s.cstOf ini)) k v true s)

/-- IC_MASK_CLR (R381). -/
def execIcMaskClr (ini : Initiator) (k : Fin 13) (v : Word) (s : State) : Res :=
  .next (icMask (s.icRight ini (s.cstOf ini)) k v false s)

/-- IC_SRC_CFG_WRITE (R404). -/
def execIcSrcCfgWrite (ini : Initiator) (n : Fin 416) (v : Word) (s : State) : Res :=
  .next (icSrcCfg (s.icRight ini (s.cstOf ini)) n v s)

end Sys2Proof.Machine
end

