-- ==== Sys2Proof/Machine/DdrFlash.lean ====
section
/-! DEFINITION. The LPDDR5X controller and the boot flash (spec/14_host_network_memory.md R578 to R585; spec/opcode_table.json rows
MR4_POLL to FLASH_RENEGOTIATE, FLASH_RENEGOTIATION_COMPLETE). -/

namespace Sys2Proof.Machine

/-- MR4_POLL (R582): the refresh-rate fields of the two channels are read; a code from 0x0E up calls for more than 4× refresh
(JESD209-5B: PRESUMED, log entry 31). -/
def execMr4Poll (r0 r1 : BitVec 5) (s : State) : Res :=
  let m := s.reg aDdrcMode
  let a := if bit m 8 then r0.toNat else 0
  let b := if bit m 9 then r1.toNat else 0
  .next ((s.setReg aDdrcTemp (BitVec.ofNat 32 (a + b * 256))).orRegIf (decide (14 ≤ a) || decide (14 ≤ b)) aDdrcStat 8)

/-- DDR_TRACKING (R581): a tracking pause; one that fails retrains the channel and sets trk_err. -/
def execDdrTracking (ok : Bool) (s : State) : Res := .next (s.orRegIf (!ok) aDdrcStat 4)

/-- An error on an access to the LPDDR5X window (R580): none is detected without iecc. -/
def ddrEcc (a : Nat) (ue : Bool) (s : State) : State :=
  if ue then ((((s.incSat aDdrcUeCnt).setReg aDdrcUeAddr (BitVec.ofNat 32 a)).setReg aDdrcUeAddrHi (BitVec.ofNat 32 (a / 2 ^ 32)))).orReg aDdrcStat 2
  else
    let s1 := s.incSat aDdrcCeCnt
    s1.orRegIf (decide (fld (s1.reg aDdrcCeThr) 0 16 ≤ (s1.reg aDdrcCeCnt).toNat)) aDdrcStat 1

/-- A write of SYS_FLASH_CTL (R585). -/
def flashReneg (v : Word) (s : State) : State := if bit v 0 then s.orReg aSysFlashMode 0x400 else s

/-- FLASH_RENEGOTIATE (R585). -/
def execFlashRenegotiate (v : Word) (s : State) : Res := .next (flashReneg v s)

/-- What a negotiation of the flash mode settles on (R583): `modes` holds the modes that the tables declare and that confirm, `sfdp`
the signature; without it mode 6 and 3-byte addresses stay. -/
def flashSettle (modes : Nat) (sfdp : Bool) (s : State) : State :=
  let cap := fld (s.reg aSysFlashCap) 0 3
  let m := if sfdp then ((List.range 7).find? (fun k => decide (1 ≤ k) && decide (cap ≤ k) && (modes.testBit k || decide (k = 6)))).getD 6 else 6
  let wide := sfdp && decide (16384 < (s.reg aSysFlashSize).toNat)
  s.setReg aSysFlashMode (BitVec.ofNat 32 (m + b2n wide * 256 + b2n sfdp * 512))

/-- FLASH_RENEGOTIATION_COMPLETE (R583, R585). -/
def execFlashRenegotiationComplete (modes : BitVec 7) (sfdp : Bool) (s : State) : Res :=
  .next (if bit (s.reg aSysFlashMode) 10 then flashSettle modes.toNat sfdp s else s)

end Sys2Proof.Machine
end

