-- ==== Sys2Proof/Machine/Aes.lean ====
section
/-! DEFINITION. AES-256 and its CMAC, the tag of an image (spec/11_quafa.md R455) and of a command envelope
(spec/15_commands_journal.md). PRESUMED (log entry 20): the spec names the algorithms and does not restate them; they are those
of FIPS 197 and NIST SP 800-38B. -/

namespace Sys2Proof.Machine

/-- Multiply by x in GF(2^8). -/
def gfX (a : Byte) : Byte := if a.getLsbD 7 then (a <<< 1) ^^^ 0x1B else a <<< 1

/-- Multiply in GF(2^8), over the n low bits of b. -/
def gfMulN : Nat → Byte → Byte → Byte
  | 0, _, _ => 0
  | n + 1, a, b => (if b.getLsbD 0 then a else 0) ^^^ gfMulN n (gfX a) (b >>> 1)

/-- Multiply in GF(2^8). -/
def gfMul (a b : Byte) : Byte := gfMulN 8 a b

/-- Square n times, multiplying the powers together: a^(2 + 4 + … + 2^n). -/
def gfPows : Nat → Byte → Byte
  | 0, _ => 1
  | n + 1, a => let q := gfMul a a; gfMul q (gfPows n q)

/-- The S-box: the inverse a^254, then the affine map. -/
def sbox (a : Byte) : Byte :=
  let i := gfPows 7 a
  i ^^^ i.rotateLeft 1 ^^^ i.rotateLeft 2 ^^^ i.rotateLeft 3 ^^^ i.rotateLeft 4 ^^^ 0x63

/-- XOR of two byte strings. -/
def xorBytes (a b : List Byte) : List Byte := List.zipWith (· ^^^ ·) a b

/-- The next word of the key schedule: `i` is its number, `ws` the words so far, newest first. -/
def keyWord (i : Nat) (rcon : Byte) (ws : List (List Byte)) : List Byte :=
  let t := ws.headD []
  let t' := if i % 8 = 0 then xorBytes ((t.drop 1 ++ t.take 1).map sbox) [rcon, 0, 0, 0]
    else if i % 8 = 4 then t.map sbox else t
  xorBytes (ws.getD 7 []) t'

/-- Extend the key schedule by n words. -/
def keyExtend : Nat → Nat → Byte → List (List Byte) → List (List Byte)
  | 0, _, _, ws => ws
  | n + 1, i, rcon, ws => keyExtend n (i + 1) (if i % 8 = 0 then gfX rcon else rcon) (keyWord i rcon ws :: ws)

/-- The words of a byte string, first word last. -/
def keyWords (k : List Byte) : List (List Byte) :=
  ((List.range 8).map (fun i => (k.drop (4 * i)).take 4)).reverse

/-- The 15 round keys of a 32-byte key. -/
def roundKeys (k : List Byte) : List (List Byte) :=
  let ws := (keyExtend 52 8 1 (keyWords k)).reverse
  (List.range 15).map (fun r => ((ws.drop (4 * r)).take 4).flatten)

/-- ShiftRows, on 16 bytes in column order. -/
def shiftRows (s : List Byte) : List Byte :=
  (List.range 16).map (fun i => s.getD ((i + 4 * (i % 4)) % 16) 0)

/-- MixColumns. -/
def mixColumns (s : List Byte) : List Byte :=
  (List.range 16).map (fun i =>
    let g := fun (j : Nat) => s.getD (i / 4 * 4 + (i + j) % 4) 0
    gfMul 2 (g 0) ^^^ gfMul 3 (g 1) ^^^ g 2 ^^^ g 3)

/-- The rounds after the first key addition. -/
def aesRounds : List (List Byte) → List Byte → List Byte
  | [], s => s
  | [k], s => xorBytes (shiftRows (s.map sbox)) k
  | k :: ks, s => aesRounds ks (xorBytes (mixColumns (shiftRows (s.map sbox))) k)

/-- Encrypt a 16-byte block. -/
def aesBlock (rks : List (List Byte)) (b : List Byte) : List Byte := aesRounds (rks.drop 1) (xorBytes b (rks.headD []))

/-- A 16-byte string as a number, first byte most significant. -/
def beNat (b : List Byte) : Nat := b.foldl (fun a x => a * 256 + x.toNat) 0

/-- n bytes of a number, most significant first. -/
def beBytes (n v : Nat) : List Byte := (List.range n).map (fun i => BitVec.ofNat 8 (v / 256 ^ (n - 1 - i)))

/-- Doubling of a CMAC subkey. -/
def cmacDbl (b : List Byte) : List Byte :=
  let v := beNat b
  beBytes 16 (if v.testBit 127 then (2 * v) % 2 ^ 128 ^^^ 0x87 else 2 * v)

/-- The chain over whole blocks, the last one already masked; n bounds the blocks. -/
def cmacChain (rks : List (List Byte)) (k1 k2 : List Byte) : Nat → List Byte → List Byte → List Byte
  | 0, c, _ => c
  | n + 1, c, m =>
    if m.length < 16 then aesBlock rks (xorBytes c (xorBytes (m ++ [0x80] ++ List.replicate (15 - m.length) 0) k2))
    else if m.length = 16 then aesBlock rks (xorBytes c (xorBytes m k1))
    else cmacChain rks k1 k2 n (aesBlock rks (xorBytes c (m.take 16))) (m.drop 16)

/-- AES-256-CMAC of a message. -/
def cmac256 (key : BitVec 256) (m : List Byte) : List Byte :=
  let rks := roundKeys (beBytes 32 key.toNat)
  let k1 := cmacDbl (aesBlock rks (List.replicate 16 0))
  cmacChain rks k1 (cmacDbl k1) (m.length / 16 + 1) (List.replicate 16 0) m

end Sys2Proof.Machine
end

