-- ==== Sys2Proof/Machine/Strand.lean ====
section
/-! DEFINITION. Strand links (spec/13_strand_camps.md R511 to R534): training, flits, replay, credits and transactions. What arrives
waits in the link's receive queue for the command of its kind. Served requests are in Machine/Access.lean, streams in
Machine/Streams.lean, camps in Machine/Camp.lean. -/

namespace Sys2Proof.Machine

/-- Link n. -/
def State.link (s : State) (n : Nat) : Link := smGet (fun _ => Link.init) s.links n

/-- Replace link n. -/
def State.setLink (s : State) (n : Nat) (l : Link) : State := { s with links := smSet (fun _ => Link.init) s.links n l }

/-- Change link n. -/
def State.onLink (s : State) (n : Nat) (f : Link → Link) : State := s.setLink n (f (s.link n))

/-- STRn_STAT.state. -/
def State.linkSt (s : State) (n : Nat) : Nat := fld (s.reg (aStrStat n)) 0 3

/-- Is the link UP? -/
def State.linkUp (s : State) (n : Nat) : Bool := decide (s.linkSt n = 2)

/-- Set flags of STRn_STAT. -/
def strFlag (n : Nat) (m : Word) (s : State) : State := s.orReg (aStrStat n) m

/-! ## The keeper (R542; spec/13_strand_camps.md R549) -/

/-- CAMP_STAT.state: 0 ALONE, 1 FRESH, 2 ADMITTED, 3 QUARANTINED. -/
def State.campState (s : State) : Nat := fld (s.reg aCampStat) 2 2

/-- CAMP_STAT.role: 0 none, 1 member, 2 keeper. -/
def State.campRole (s : State) : Nat := fld (s.reg aCampStat) 0 2

/-- The keeper's ID, where there is one. -/
def State.keeper (s : State) : Option Nat :=
  let k := s.reg aCampKeeper
  if bit k 16 then some (fld k 0 3) else none

/-- Members that an UP link reaches. -/
def State.reached (s : State) : Nat :=
  (List.range 8).foldl (fun m n => if s.linkUp n ∧ m.testBit (fld (s.reg (aStrPeer n)) 0 3) = false then m + 2 ^ (fld (s.reg (aStrPeer n)) 0 3) else m) 0

/-- Is a priority and ID ranked above another (R542)? -/
def campAbove (p i q j : Nat) : Bool := decide (q < p) || (decide (q = p) && decide (i < j))

/-- The keeper by R542: priority and ID of the best eligible member among this one and those whose HELLO it holds on UP links. -/
def State.campBest (s : State) : Option (Nat × Nat) :=
  let own := s.ownId
  let cand := (List.range 8).filterMap (fun m =>
    let p := if m = own then fld (s.reg aCampCfg) 0 8 else
      (if s.camp.heard.testBit m && s.reached.testBit m then fld (s.reg (aCampMemInfo m)) 0 8 else 0)
    if p = 0 then none else some (p, m))
  cand.foldl (fun b e => match b with | none => some e | some x => if campAbove e.1 e.2 x.1 x.2 then some e else some x) none

/-- Apply the choice of the keeper. A keeper that the device followed and that it no longer reaches stays noted until its loss (R549). -/
def campChoose (s : State) : State :=
  let best := s.campBest
  let own := s.ownId
  let s1 := s.setReg aCampKeeper (match best with | some (p, m) => BitVec.ofNat 32 (m + p * 2 ^ 8 + 2 ^ 16) | none => 0)
  let role := match best with | some (_, m) => if m = own then 2 else if s.campState = 0 then 0 else 1 | none => 0
  let s2 := s1.setRegFld aCampStat 0 2 role
  let new := best.map (fun e => e.2)
  let s3 := if s.keeper = new then s2 else s2.orReg aCampStat 0x200
  let led := if new ≠ none ∧ new ≠ some own then new
    else s.camp.led.filter (fun k => !(s.camp.heard.testBit k && s.reached.testBit k))
  { s3 with camp := { s3.camp with led := led } }

/-- The link's state changes (chg); leaving UP is noted in its transactions (R530), and in STRn_PEER, whose fields are then not from the
current training. The members that UP links reach change with it, and the choice of the keeper (R542). -/
def setLinkSt (n st reason : Nat) (s : State) : State :=
  let was := s.linkSt n
  let s1 := (s.setRegFld (aStrStat n) 0 3 st).setRegFld (aStrStat n) 4 4 reason
  let s2 := if was = st then s1 else strFlag n 0x100 s1
  let s3 := if st = 2 then s2 else s2.clrReg (aStrPeer n) 8
  let s4 := if was = 2 ∧ st ≠ 2 then s3.onLink n (fun l => { l with txs := l.txs.map (fun t => { t with left := true }) }) else s3
  if was = 2 ∨ st = 2 then campChoose s4 else s4

/-! ## Enable and training (R511 to R518, R534) -/

/-- Training starts. -/
def strTrain (n : Nat) (s : State) : State := setLinkSt n 1 0 s

/-- STRn_CTL.en goes from 0 to 1: a nonce is drawn and training starts (R515). -/
def linkEnable (n : Nat) (s : State) : State :=
  let v := Config.randomDraw s.draws
  let s1 := (((s.orReg (aStrCtl n) 1).setReg (aStrNonceLo n) (loW v)).setReg (aStrNonceHi n) (hiW v))
  strTrain n ({ s1 with draws := s.draws + 1 }.onLink n (fun l => { l with kept := false }))

/-- A write of STRn_CTL: en rises or falls, or is written again on a REFUSED link (R518); retrain forces full training (R517). -/
def strCtlWrite (n : Nat) (v : Word) (s : State) : State :=
  let was := bit (s.reg (aStrCtl n)) 0
  if bit v 0 then
    if !was then linkEnable n s
    else if bit v 1 || decide (s.linkSt n = 4) then strTrain n s
    else s
  else if was then setLinkSt n 0 0 (s.clrReg (aStrCtl n) 1)
  else s

/-- LINK_ENABLE (R515): a write of STRn_CTL with en = 1. -/
def execLinkEnable (n : Fin 8) (s : State) : Res := .next (strCtlWrite n 1 s)

/-- LINK_RETRAIN (R517): a write of STRn_CTL with en = 1 and retrain = 1. -/
def linkRetrain (n : Nat) (s : State) : State := if bit (s.reg (aStrCtl n)) 0 then strTrain n s else s

/-- LINK_RETRAIN (R517). -/
def execLinkRetrain (n : Fin 8) (s : State) : Res := .next (linkRetrain n s)

/-- STRAND_SIGNAL_RETURN (R518): the far end's signal comes back on an enabled link that was REFUSED; a retraining link goes on. -/
def execStrandSignalReturn (n : Fin 8) (s : State) : Res :=
  .next (if bit (s.reg (aStrCtl n)) 0 = true ∧ (s.linkSt n = 4 ∨ s.linkSt n = 0) then strTrain n s else s)

/-- FEAT0 to FEAT3 of this device (Tables 03-15 to 03-18). -/
def ownFeats : List Word := [0x03884F03, 0x08204040, 0x006100C0, 0x10841010]

/-- The lanes of a mode of so many lanes among those that lock (R511); `upper` is the pair decided on where both lock (R516). -/
def laneMask (upper : Bool) (lanes : Nat) (lock : BitVec 4) : Option Nat :=
  let m := lock.toNat
  match lanes with
  | 2 => if m = 15 then some 15 else none
  | 1 => if m = 15 then some (if upper then 12 else 3) else if m % 4 = 3 then some 3 else if m / 4 = 3 then some 12 else none
  | _ => if m.testBit 0 then some 1 else if m.testBit 1 then some 2 else if m.testBit 2 then some 4 else if m.testBit 3 then some 8 else none

/-- The modes of Table 13-1 in order: lanes code and whether the rate is 25.78125 Gb/s. -/
def strModes : List (Nat × Bool) := [(2, true), (1, true), (2, false), (0, true), (1, false), (0, false)]

/-- The mode that training settles on: lanes code, rate, lanes (R512); `upper` as in laneMask. -/
def strSettle (upper : Bool) (cap : Word) (far : FarEnd) : Option (Nat × Bool × Nat) :=
  let lanes := min (min (fld cap 0 3) (fld far.cap 0 3)) 2
  let r25 := bit cap 3 && bit far.cap 3
  strModes.findSome? (fun m =>
    if m.1 ≤ lanes ∧ (m.2 = false ∨ r25 = true) then
      (laneMask upper m.1 (if m.2 then far.lock25 else far.lock10)).map (fun x => (m.1, m.2, x))
    else none)

/-- The mode that a retraining link comes back in: the settled one, where both ends still permit it and its lanes lock (R517); else as
training settles. The end with the lower device ID decides on the lane pair where both lock (R516): the far end its own way, this
device for lanes 0 and 1 (DESIGN CHOICE, log entry 229). -/
def State.strMode (s : State) (n : Nat) (far : FarEnd) : Option (Nat × Bool × Nat) :=
  let cap := s.reg (aStrCap n)
  let m := s.reg (aStrMode n)
  let lock := if bit m 2 then far.lock25 else far.lock10
  if s.linkSt n = 3 ∧ fld m 0 2 ≤ min (min (fld cap 0 3) (fld far.cap 0 3)) 2 ∧ (bit m 2 = false ∨ (bit cap 3 && bit far.cap 3) = true) ∧
      fld m 4 4 ≠ 0 ∧ lock.toNat &&& fld m 4 4 = fld m 4 4 then
    some (fld m 0 2, bit m 2, fld m 4 4)
  else strSettle (decide (far.dev.val < s.ownId) && far.pair) cap far

/-- The FEC decision of R513: on or off, or a refusal. -/
def strFec (own far : Nat) : Option Bool :=
  let own := legal 13 3 own
  let far := legal 13 3 far
  if own = 2 ∨ far = 2 then (if own = 0 ∨ far = 0 then none else some true) else some false

/-- The reason for which training is refused, in the order of Table 13-2. -/
def State.strRefuse (s : State) (n : Nat) (far : FarEnd) : Option Nat :=
  let cap := s.reg (aStrCap n)
  if far.ver ≠ 1 then some 1
  else if far.feats ≠ ownFeats then some 2
  else if far.camp.toNat ≠ fld (s.reg aCampCfg) 16 16 then some 3
  else if far.dev.val = fld (s.reg aSysStrap) 2 3 then some 4
  else if (s.strMode n far).isNone then some 6
  else if (strFec (fld cap 4 2) (fld far.cap 4 2)).isNone then some 5
  else none

/-- A transaction with a nonzero status leaves its write-fault queue entry (R532, R533). -/
def wfqPush (n : Nat) (e : WfqEnt) (s : State) : State :=
  if (s.link n).wfq.length < 32 then strFlag n 0x4000 (s.onLink n (fun l => { l with wfq := l.wfq ++ [e] }))
  else strFlag n 0x8000 s

/-- The entry of a failed write (Table 13-13). -/
def wfqEnt (member addr len status tag iid ithr ikind : Nat) : WfqEnt :=
  { w0 := BitVec.ofNat 32 (addr / 32 * 32)
    w1 := BitVec.ofNat 32 (addr / 2 ^ 32 % 256 + member * 2 ^ 8 + status * 2 ^ 16 + tag * 2 ^ 24)
    w2 := BitVec.ofNat 32 (iid + ithr * 2 ^ 7 + ikind * 2 ^ 9)
    w3 := BitVec.ofNat 32 ((2 ^ len - 1) * 2 ^ (addr % 32)) }

/-- A transaction ends: its tag is free, and its request at the initiator is answered or has failed (R532). An uncorrectable error at the
other member is noted for Breakwater (R419 code 2, Table 13-5). -/
def strEnd (n : Nat) (t : StrTx) (data : Option (List Byte)) (status : Nat) (local_ : Bool) (s : State) : State :=
  let s1 := s.onLink n (fun l => { l with
    txs := l.txs.filter (fun x => decide (x.tag ≠ t.tag))
    epochs := if local_ then smSet (fun _ => 0) l.epochs t.tag ((smGet (fun _ => 0) l.epochs t.tag + 1) % 16) else l.epochs
    postQ := if local_ then l.postQ.filter (fun q => decide (q.tag ≠ some t.tag)) else l.postQ
    npQ := if local_ then l.npQ.filter (fun q => decide (q.tag ≠ some t.tag)) else l.npQ })
  if status = 0 then s1.gathered t.req t.len (data.getD [])
  else
    let s1 := match s1.req? t.req with
      | some q => if status = 2 then s1.noteUe q.ini q.kind (s1.plain q.beatAddr) else s1
      | none => s1
    let s2 := s1.setReqSt t.req (.failed (decide (status = 2)))
    if t.wr then wfqPush n (wfqEnt t.member t.addr t.len status t.tag t.iid t.ithr t.ikind) s2 else s2

/-- The epochs of all tags increment (R534). -/
def nextEpochs (e : SMap Nat) : SMap Nat :=
  (List.range 256).foldl (fun m t => smSet (fun _ => 0) m t ((smGet (fun _ => 0) m t + 1) % 16)) e

/-- Every outstanding transaction of the link ends with LINK_RESET, and both ends begin anew with the next epoch of every tag (R534). A
request of the far end that is being served goes unanswered. -/
def strNewEpoch (n : Nat) (s : State) : State :=
  let s1 := foldS (fun t s => strEnd n t none 5 true s) (s.link n).txs s
  let s2 := s1.setReg (aStrEpoch n) (BitVec.ofNat 32 ((s1.reg (aStrEpoch n)).toNat + 1) &&& 0xFF)
  strFlag n 0x400 (s2.onLink n (fun l => { l with
    seq := 0, expect := 0, got := false, replay := [], resend := 0, replays := 0, sent := (0, 0, 0), cr := (0, 0, 0), freed := (0, 0, 0)
    epochs := nextEpochs (s.link n).epochs, serving := []
    cplQ := [], postQ := [], npQ := [], rx := [], env := none, respIn := none, beaconAt := []
    blocks := l.blocks.map (fun b => { b with flits := [] }) }))

/-- Transmission resumes from the flit after the far end's next expected sequence (R534). -/
def strResume (n next : Nat) (s : State) : State :=
  s.onLink n (fun l =>
    let rest := l.replay.filter (fun f => let d := (next + 4096 - f.seq) % 4096; decide (d = 0) || decide (2048 < d))
    { l with replay := rest, resend := rest.length, replays := if rest.length < l.replay.length then 0 else l.replays })

/-- Training ends in UP (R514, R534). The first UP since the link's reset is no new epoch, and requests that were held for it are sent
(DEDUCED, log entry 152). -/
def strUp (n : Nat) (far : FarEnd) (lanes : Nat) (r25 fec : Bool) (mask : Nat) (s : State) : State :=
  let same := (s.link n).kept && decide (s.reg (aStrPeerNonceLo n) = loW far.nonce) && decide (s.reg (aStrPeerNonceHi n) = hiW far.nonce)
  let s1 := s.setReg (aStrMode n) (BitVec.ofNat 32 (lanes + b2n r25 * 4 + b2n fec * 8 + mask * 16 + 256))
  let s2 := s1.setReg (aStrPeer n) (BitVec.ofNat 32 (far.dev.val + 8 + far.camp.toNat * 2 ^ 16))
  let s3 := (s2.setReg (aStrPeerNonceLo n) (loW far.nonce)).setReg (aStrPeerNonceHi n) (hiW far.nonce)
  let s4 := if s.reg (aStrMode n) = 0 then s3 else if same then strResume n far.next s3 else strNewEpoch n s3
  setLinkSt n 2 0 (s4.onLink n (fun l => { l with kept := true, nakDue := false, discard := false }))

/-- Training reaches UP or REFUSED (R514). -/
def strTrained (n : Nat) (far : FarEnd) (s : State) : State :=
  if s.linkSt n = 1 ∨ s.linkSt n = 3 then
    let cap := s.reg (aStrCap n)
    match s.strRefuse n far, s.strMode n far, strFec (fld cap 4 2) (fld far.cap 4 2) with
    | none, some m, some fec => strUp n far m.1 m.2.1 fec m.2.2 s
    | some r, _, _ => strFlag n 0x800 (setLinkSt n 4 r s)
    | _, _, _ => s
  else s

/-! ## Failure (R523, R534) -/

/-- The link layer declares failure: the link retrains with its replay held. -/
def strFail (n : Nat) (s : State) : State :=
  if s.linkUp n then strFlag n 0x200 (setLinkSt n 3 0 (s.incSat (aStrFail n))) else s

/-- REPLAY_TIMEOUT (R522, R523): every unacknowledged flit is sent again; the eighth replay in a row is a failure. -/
def strReplay (n : Nat) (s : State) : State :=
  let l := s.link n
  if l.replay.isEmpty then s
  else
    let k := l.replays + 1
    let s1 := (s.onLink n (fun l => { l with resend := l.replay.length, replays := k })).incSat (aStrReplay n)
    if 8 ≤ k then strFail n (s1.onLink n (fun l => { l with replays := 0 })) else s1

/-- REPLAY_TIMEOUT (R522). -/
def execReplayTimeout (n : Fin 8) (s : State) : Res := .next (if s.linkUp n then strReplay n s else s)

/-- LINK_BUDGET_EXPIRE (R523). -/
def execLinkBudgetExpire (n : Fin 8) (s : State) : Res :=
  .next (if (s.link n).replay.isEmpty then s else strFail n s)

/-- A crossing's handshake after a reset of one side has completed (R640). -/
def crossingReset (x dropped : Nat) (s : State) : State :=
  let s1 := s.incSat aCkpXrstCnt
  let s2 := s1.setReg aCkpXdrop (BitVec.ofNat 32 (min 0xFFFFFFFF ((s1.reg aCkpXdrop).toNat + dropped)))
  (s2.setReg aCkpXlast (BitVec.ofNat 32 x)).orReg aCkpStat 0x2000

/-- LANE_LOCK_LOSS (R523, R534, R640): the link retrains, and the crossing of STRCLKn is resynchronised. -/
def execLaneLockLoss (n : Fin 8) (s : State) : Res :=
  .next (if s.linkUp n then crossingReset (29 + n.val) 0 (strFail n s) else s)

/-! ## Flits (R519 to R527) -/

/-- The Tide's time: sample count and phase as one number of 2^-32 samples. -/
def State.tidePos (s : State) : Nat := s.tide.count.toNat * 2 ^ 32 + s.tide.phase.toNat

/-- The 64 bytes of a flit with its acknowledgement and credits (Table 13-3). -/
def flitBytes (l : Link) (seq kind vc : Nat) (body : List Byte) : List Byte :=
  let ack := (l.expect + 4095) % 4096
  let h := seq + (if l.got then ack * 2 ^ 12 + 2 ^ 24 else 0) + b2n l.nakDue * 2 ^ 25 + kind * 2 ^ 26 + vc * 2 ^ 28 +
    l.freed.1 % 256 * 2 ^ 32 + l.freed.2.1 % 256 * 2 ^ 40 + l.freed.2.2 % 4096 * 2 ^ 48
  let bs := leBytes 8 h ++ body
  bs ++ leBytes 4 (crc32c 0xFFFFFFFF bs ^^^ 0xFFFFFFFF).toNat

/-- A body of 52 bytes, filled with zeros. -/
def padBody (bs : List Byte) : List Byte := (bs ++ List.replicate 52 (0 : Byte)).take 52

/-- What the transmitter sends next as a new flit: kind, channel, body, and the link without it (R527); none where nothing may go. -/
def Link.pick (l : Link) : Option (Nat × Nat × List Byte × Link) :=
  let cp := decide ((l.sent.1 + 256 - l.cr.1) % 256 < 64)
  let cn := decide ((l.sent.2.1 + 256 - l.cr.2.1) % 256 < 64)
  let cc := decide ((l.sent.2.2 + 4096 - l.cr.2.2) % 4096 < 256)
  match l.mgmtQ, l.streamQ, l.cplQ, l.postQ, l.npQ with
  | b :: q, _, _, _, _ => some (3, 0, b, { l with mgmtQ := q })
  | [], b :: q, _, _, _ => some (2, 0, b, { l with streamQ := q })
  | [], [], cq, pq, nq =>
    let np := fun (x : StrQ) (r : List StrQ) =>
      some (1, 1, x.body, { l with npQ := r, sent := (l.sent.1, (l.sent.2.1 + 1) % 256, l.sent.2.2) })
    let post := fun (x : StrQ) (r : List StrQ) =>
      some (1, 0, x.body, { l with postQ := r, npQ := nq.map (fun y => { y with waited := y.waited + 1 }), sent := ((l.sent.1 + 1) % 256, l.sent.2) })
    let req :=
      match pq, nq with
      | [], [] => none
      | x :: r, [] => if cp then post x r else none
      | [], y :: r => if cn then np y r else none
      | x :: r, y :: r' =>
        let may := cn && decide (y.ord < x.ord)
        if may && (decide (16 ≤ y.waited) || !cp) then np y r'
        else if cp then post x r else none
    match cq with
    | x :: r => if cc then some (1, 2, x.body, { l with cplQ := r, sent := (l.sent.1, l.sent.2.1, (l.sent.2.2 + 1) % 4096) }) else req
    | [] => req

/-- A BEACON is stamped with the sample count and phase of the instant at which it leaves (Table 13-8). -/
def State.stamp (s : State) (kind : Nat) (b : List Byte) : List Byte :=
  if kind = 3 ∧ b.headD 0 = 2 then b.take 9 ++ leBytes 6 s.tide.count.toNat ++ leBytes 4 s.tide.phase.toNat ++ b.drop 19 else b

/-- FLIT_SEND (R519, R527): the next flit of the link leaves; its bytes stand in the link's `out`. -/
def flitSend (n : Nat) (s : State) : State :=
  let l := s.link n
  if !s.linkUp n then s
  else
    match (if 0 < l.resend then l.replay[l.replay.length - l.resend]? else none) with
    | some f => s.setLink n { l with out := flitBytes l f.seq f.kind f.vc f.body, resend := l.resend - 1, nakDue := false }
    | none =>
      match (if l.replay.length < 256 then l.pick else none) with
      | some (k, vc, b0, l') =>
        let b := s.stamp k b0
        s.setLink n { l' with out := flitBytes l l.seq k vc b, seq := (l.seq + 1) % 4096, nakDue := false, resend := 0
                              replay := l.replay ++ [{ seq := l.seq, kind := k, vc := vc, body := b }] }
      | none => s.setLink n { l with out := flitBytes l l.seq 0 0 (padBody []), nakDue := false, resend := 0 }

/-- FLIT_SEND (R527). -/
def execFlitSend (n : Fin 8) (s : State) : Res := .next (flitSend n s)

/-- A corrupted or out-of-order sequenced flit: the first asks for a replay (R520). -/
def Link.lostFlit (l : Link) : Link := if l.discard then l else { l with nakDue := true, discard := true }

/-- Acknowledgement and credits of a good flit (R519, R524). -/
def Link.takeAck (l : Link) (h : Nat) : Link :=
  let f := fun (lo w : Nat) => h / 2 ^ lo % 2 ^ w
  let l1 := { l with cr := (f 32 8, f 40 8, f 48 12) }
  if f 24 1 = 1 then
    match (l1.replay.map (fun x => x.seq)).findIdx? (fun q => decide (q = f 12 12)) with
    | some i => { l1 with replay := l1.replay.drop (i + 1), replays := 0, resend := min l1.resend (l1.replay.length - (i + 1)) }
    | none => l1
  else l1

/-- Is the body of a kind that a receiver takes: transaction types 0 to 4 on their channels, streams, message types 1 to 6? -/
def flitKnown (kind vc : Nat) (body : List Byte) : Bool :=
  let ty := (body.headD 0).toNat
  match kind with
  | 1 => (match ty % 16, vc with
          | 0, 1 => true
          | 1, 0 => true
          | 2, 2 => true | 3, 2 => true | 4, 2 => true
          | _, _ => false)
  | 2 => true
  | 3 => decide (1 ≤ ty) && decide (ty ≤ 6)
  | _ => false

/-- A credit of a channel is freed. -/
def Link.free (l : Link) (kind vc : Nat) : Link :=
  if kind ≠ 1 then l
  else match vc with
    | 0 => { l with freed := (l.freed.1 + 1, l.freed.2) }
    | 1 => { l with freed := (l.freed.1, l.freed.2.1 + 1, l.freed.2.2) }
    | _ => { l with freed := (l.freed.1, l.freed.2.1, l.freed.2.2 + 1) }

/-- FEC counts its codewords while it is on (Table 13-9). -/
def fecCount (n : Nat) (f : FlitIn) (s : State) : State :=
  if s.linkUp n && bit (s.reg (aStrMode n)) 3 then (s.incFld (aStrFecCorr n) 0 32 f.corr).incFld (aStrFecUncorr n) 0 32 f.uncorr else s

/-- FLIT_RECEIVE (R520): 64 bytes arrive on link n. A flit out of sequence is discarded, with what it says of the link. -/
def flitReceive (n : Nat) (bs : List Byte) (s : State) : State :=
  if !s.linkUp n ∨ bs.length ≠ 64 then s
  else
    let good := decide (BitVec.ofNat 32 (leNat (bs.drop 60)) = crc32c 0xFFFFFFFF (bs.take 60) ^^^ 0xFFFFFFFF)
    if !good then (s.onLink n Link.lostFlit).incSat (aStrCrcerr n)
    else
      let h := leNat (bs.take 8)
      let kind := h / 2 ^ 26 % 4
      let vc := h / 2 ^ 28 % 4
      let body := (bs.drop 8).take 52
      if kind ≠ 0 ∧ h % 4096 ≠ (s.link n).expect then s.onLink n Link.lostFlit
      else
        let s1 := s.onLink n (fun l => l.takeAck h)
        let s2 := if h / 2 ^ 25 % 2 = 1 then strReplay n s1 else s1
        if kind = 0 then s2
        else
          let l := s2.link n
          let l' := { l with expect := (l.expect + 1) % 4096, got := true, discard := false }
          let s3 := if kind = 3 then strFlag n 0x40000 s2 else s2
          let l' := if kind = 3 ∧ (body.headD 0).toNat = 2 then { l' with beaconAt := l'.beaconAt ++ [s.tidePos] } else l'
          s3.setLink n (if flitKnown kind vc body then { l' with rx := l'.rx ++ [(kind, vc, body)] } else l'.free kind vc)

/-- FLIT_RECEIVE (R520). -/
def execFlitReceive (n : Fin 8) (flit : FlitIn) (s : State) : Res := .next (flitReceive n flit.bytes (fecCount n flit s))

/-- Take the oldest received body of a kind and channel if it is of the type wanted; a non-posted request waits for every posted
one before it (R527). -/
def takeRx (n kind vc ty : Nat) (s : State) : Option (List Byte × State) :=
  let l := s.link n
  match l.rx.findIdx? (fun e => decide (e.1 = kind) && (decide (kind ≠ 1) || decide (e.2.1 = vc))) with
  | none => none
  | some i =>
    match l.rx[i]? with
    | none => none
    | some e =>
      let t := (e.2.2.headD 0).toNat
      let okTy := if kind = 1 then decide (t % 16 = ty) else if kind = 3 then decide (t = ty) else true
      let okOrd := decide (kind ≠ 1) || decide (vc ≠ 1) || (l.rx.take i).all (fun x => decide (x.1 ≠ 1) || decide (x.2.1 ≠ 0))
      if okTy && okOrd then some (e.2.2, s.setLink n ({ l with rx := l.rx.eraseIdx i }.free kind vc)) else none

/-! ## Transactions (Table 13-4) -/

/-- Field of a transaction body. -/
def txFld (body : List Byte) (lo w : Nat) : Nat := leNat (body.take 16) / 2 ^ lo % 2 ^ w

/-- A transaction body. -/
def txBody (ty tag tep src dst blk status iid ithr ikind : Nat) (data : List Byte) (be : Nat) : List Byte :=
  padBody (leBytes 16 (ty + tag * 2 ^ 4 + tep * 2 ^ 12 + src * 2 ^ 16 + dst * 2 ^ 19 + blk * 2 ^ 24 + status * 2 ^ 64 +
    iid * 2 ^ 72 + ithr * 2 ^ 79 + ikind * 2 ^ 81) ++ (data ++ List.replicate 32 (0 : Byte)).take 32 ++ leBytes 4 be)

/-- Initiator fields of a request: ID, thread, kind. -/
def State.txIni (s : State) : Initiator → Nat × Nat × Nat
  | .core k t => ((s.lcoreOf k).getD 0, t.val, 0)
  | .ferry n => (n.val, 0, 1)
  | _ => (0, 0, 2)

/-- The lowest-numbered link to member m (R526). -/
def State.linkTo (s : State) (m : Nat) : Option Nat :=
  let b := fld (s.reg (if m < 4 then aCampLinksLo else aCampLinksHi)) (8 * (m % 4)) 8
  (List.range 8).find? (fun n => b.testBit n)

/-- Are this device and member m both ADMITTED under one keeper (R550)? The member map of the keeper's BEACON holds m, and its HELLO does not
say that it is quarantined. -/
def State.bothAdmitted (s : State) (m : Nat) : Bool :=
  decide (s.campState = 2) && bit (s.reg aCampMap) m && !bit (s.reg aCampMap) (16 + m)

/-- May transactions pass between this device and member m (R550)? Both are admitted; or the device is in BOOT and m its keeper; or the
device is the keeper and m is a member in BOOT, whose HELLO says fresh with hash and version 0 (R688). -/
def State.campPass (s : State) (m : Nat) : Bool :=
  s.bothAdmitted m || (decide (s.pwr.mode = .boot) && decide (s.keeper = some m)) ||
  (decide (s.campRole = 2) && bit (s.reg (aCampMemInfo m)) 10 && decide (fld (s.reg (aCampMemInfo m)) 8 2 = 0) &&
    decide (s.reg (aCampMemHashLo m) = 0) && decide (s.reg (aCampMemHashHi m) = 0) && decide (s.reg (aCampMemVer m) = 0))

/-- A fabric request for member m, at an address of its map, goes to its link (R525, R526, R550): it waits while every tag is
taken, and ends at once where there is no link or no admission. -/
def strIssue (q : FabReq) (m a : Nat) (s : State) : State :=
  let wr := decide (q.kind = .store)
  let ini := s.txIni q.ini
  match s.linkTo m with
  | none => s.setReqSt q.id (.failed false)
  | some n =>
    if !s.campPass m then
      let s1 := s.setReqSt q.id (.failed false)
      if wr then wfqPush n (wfqEnt m a q.len 3 0 ini.1 ini.2.1 ini.2.2) s1 else s1
    else
      let l := s.link n
      match (List.range 256).find? (fun t => l.txs.all (fun x => decide (x.tag ≠ t))) with
      | none => s
      | some tag =>
        let tep := smGet (fun _ => 0) l.epochs tag
        let a := if wr then a else a + q.data.length
        let len := min (if wr then q.len else q.len - q.data.length) (32 - a % 32)
        let tx : StrTx := { tag := tag, tep := tep, req := q.id, member := m, addr := a, len := len, wr := wr
                            left := !s.linkUp n, iid := ini.1, ithr := ini.2.1, ikind := ini.2.2 }
        let o := a % 32
        let body := txBody (if wr then 1 else 0) tag tep s.ownId m (a / 32) 0 ini.1 ini.2.1 ini.2.2
          (if wr then List.replicate o (0 : Byte) ++ q.data.take len else []) ((2 ^ len - 1) * 2 ^ o)
        let e : StrQ := { ord := l.ord, body := body, tag := some tag, waited := 0 }
        (s.setReqSt q.id .remote).setLink n { l with
          txs := l.txs ++ [tx], ord := l.ord + 1
          postQ := if wr then l.postQ ++ [e] else l.postQ
          npQ := if wr then l.npQ else l.npQ ++ [e] }

/-- An answer to a tag: the transaction it ends, or a late answer (R529). -/
def strAnswer (n tag tep : Nat) (s : State) : Option StrTx × State :=
  let l := s.link n
  if tep ≠ smGet (fun _ => 0) l.epochs tag then (none, strFlag n 0x2000 (s.incSat (aStrLate n)))
  else (l.txs.find? (fun t => decide (t.tag = tag)), s)

/-- CPL (R525): a read completion ends its request. -/
def strCpl (n : Nat) (s : State) : State :=
  match takeRx n 1 2 2 s with
  | none => s
  | some (b, s1) =>
    match strAnswer n (txFld b 4 8) (txFld b 12 4) s1 with
    | (some t, s2) => strEnd n t (some (((b.drop 16).drop (t.addr % 32)).take t.len)) (txFld b 64 8) false s2
    | (none, s2) => s2

/-- CPL (R525). -/
def execCpl (n : Fin 8) (s : State) : Res := .next (strCpl n s)

/-- WACK (R525): up to 16 writes end. -/
def strWack (n : Nat) (s : State) : State :=
  match takeRx n 1 2 3 s with
  | none => s
  | some (b, s1) =>
    foldS (fun i s =>
      let w := leNat ((b.drop (16 + 2 * i)).take 2)
      if w.testBit 15 then
        match strAnswer n (w % 256) (w / 256 % 16) s with
        | (some t, s2) => strEnd n t none 0 false s2
        | (none, s2) => s2
      else s) (List.range 16) s1

/-- WACK (R525). -/
def execWack (n : Fin 8) (s : State) : Res := .next (strWack n s)

/-- PWFN (R525, R533): a write ends with an error. -/
def strPwfn (n : Nat) (s : State) : State :=
  match takeRx n 1 2 4 s with
  | none => s
  | some (b, s1) =>
    match strAnswer n (txFld b 4 8) (txFld b 12 4) s1 with
    | (some t, s2) => strEnd n t none (max 1 (txFld b 64 8)) false s2
    | (none, s2) => s2

/-- PWFN (R525). -/
def execPwfn (n : Fin 8) (s : State) : Res := .next (strPwfn n s)

/-- TRANSACTION_TIMEOUT (R530): a transaction whose link has been out of UP since its issue ends with TIMEOUT. -/
def execTransactionTimeout (n : Fin 8) (tag : Fin 256) (s : State) : Res :=
  .next (match (s.link n).txs.find? (fun t => decide (t.tag = tag.val)) with
    | some t => if t.left then strFlag n 0x1000 (strEnd n t none 4 true s) else s
    | none => s)

/-- The oldest entry of the write-fault queue goes (R533). -/
def wfqPop (n : Nat) (s : State) : State := s.onLink n (fun l => { l with wfq := l.wfq.tail })

/-- WFQ_POP (R533). -/
def execWfqPop (n : Fin 8) (s : State) : Res := .next (wfqPop n s)

/-- A write of STRn_TTO (R531). -/
def strTtoWrite (n : Nat) (v : Word) (s : State) : State :=
  if fld v 0 16 < 64 then strFlag n 0x80000 s else s.setReg (aStrTto n) (v &&& 0xFFFF)

/-- STR_TTO_WRITE (R531). -/
def execStrTtoWrite (n : Fin 8) (v : Word) (s : State) : Res := .next (strTtoWrite n v s)

/-! ## Management messages -/

/-- A management message waits to be sent. -/
def mgmtSend (n : Nat) (body : List Byte) (s : State) : State := s.onLink n (fun l => { l with mgmtQ := l.mgmtQ ++ [padBody body] })

/-- DELAY_TIMER (R541): a measurement starts on an UP link. -/
def delayTimer (n : Nat) (s : State) : State :=
  if s.linkUp n then mgmtSend n [4] (s.onLink n (fun l => { l with delay := true })) else s

/-- DELAY_TIMER (R541). -/
def execDelayTimer (n : Fin 8) (s : State) : Res := .next (delayTimer n s)

/-- DELAY (R541): the answer to this device's measurement gives half the round trip `rtt` less the far end's turnaround, in 0.1 ns; a
measurement of the far end, which has no `rtt`, is answered. Which of the two a message is, its operand says (DEDUCED, log entry 153). -/
def execDelay (n : Fin 8) (rtt : Option Nat) (turn : Nat) (s : State) : Res :=
  .next (match takeRx n 3 0 4 s with
    | none => s
    | some (_, s1) =>
      match rtt with
      | none => mgmtSend n [4] s1
      | some r =>
        if (s1.link n).delay then
          (s1.onLink n (fun l => { l with delay := false })).setReg (aStrDelay n) (BitVec.ofNat 32 ((r - turn) / 2 % 2 ^ 20))
        else s1)

/-- A fragment of an envelope (R589): what is being gathered after it, a whole envelope, and whether it is out of order. -/
def gather (g : Option Gather) (b : List Byte) : Option Gather × Option (Nat × List Byte) × Bool :=
  let at_ := fun (i : Nat) => (b.getD i 0).toNat
  let xid := at_ 1
  let fidx := at_ 2
  let total := at_ 4 + 256 * at_ 5
  let data := b.drop 8
  let last := (at_ 3) % 2 = 1
  let base : Option Gather := if fidx = 0 then some { xid := xid, total := total, next := 0, bytes := [] } else g
  match base with
  | none => (none, none, true)
  | some x =>
    if x.xid ≠ xid ∨ x.next ≠ fidx ∨ x.total ≠ total then (none, none, true)
    else
      let left := x.total - x.bytes.length
      let bs := x.bytes ++ data.take (min left 44)
      if last then
        if bs.length = x.total ∧ 0 < x.total then (none, some (xid, bs), false) else (none, none, true)
      else (some { x with next := fidx + 1, bytes := bs }, none, false)

/-- SEC_CMD_REJ.format counts a discarded envelope (R589). -/
def rejFormat (s : State) : State := s.incFld aSecCmdRej 0 8 1

/-- COMMAND_FRAGMENT (R589): a fragment is gathered; a whole envelope waits for the command processor. -/
def commandFragment (n : Nat) (s : State) : State :=
  match takeRx n 3 0 5 s with
  | none => s
  | some (b, s1) =>
    let g := gather (s1.link n).env b
    let s2 := if ((b.getD 2 0).toNat = 0 ∧ (s1.link n).env.isSome) ∨ g.2.2 = true then rejFormat s1 else s1
    s2.onLink n (fun l => { l with env := g.1, req := l.req ++ g.2.1.toList })

/-- COMMAND_FRAGMENT (R589). -/
def execCommandFragment (n : Fin 8) (s : State) : Res := .next (commandFragment n s)

/-- RESPONSE_FRAGMENT (R589): a response to this device is gathered; its bytes stand in the link's `resp`. -/
def responseFragment (n : Nat) (s : State) : State :=
  match takeRx n 3 0 6 s with
  | none => s
  | some (b, s1) =>
    let g := gather (s1.link n).respIn b
    s1.onLink n (fun l => { l with respIn := g.1, resp := match g.2.1 with | some e => e.2 | none => l.resp })

/-- RESPONSE_FRAGMENT (R589). -/
def execResponseFragment (n : Fin 8) (s : State) : Res := .next (responseFragment n s)

/-- The RESPONSE messages of an envelope (Table 15-4). -/
def sendResponse (n xid : Nat) (bs : List Byte) (s : State) : State :=
  let k := max 1 ((bs.length + 43) / 44)
  foldS (fun i s => mgmtSend n ([6, BitVec.ofNat 8 xid, BitVec.ofNat 8 i, if i + 1 = k then 1 else 0] ++ leBytes 2 bs.length ++ [0, 0] ++
    (bs.drop (44 * i)).take 44) s) (List.range k) s

/-- The lanes of every link power down (Table 17-7 step 5): links leave UP and retrain on return. -/
def linksDown (s : State) : State :=
  foldS (fun n s => if s.linkUp n then setLinkSt n 3 0 s else s) (List.range 8) s

end Sys2Proof.Machine
end

