-- ==== Sys2Proof/Machine/Camp.lean ====
section
/-! DEFINITION. Camps (spec/13_strand_camps.md R540 to R551; spec/opcode_table.json rows HELLO, HELLO_TIMER, BEACON, TEMPO, MEMBER_LOSS and
TRAINING_END): HELLO and BEACON, the choice of the keeper, admission, quarantine and loss. -/

namespace Sys2Proof.Machine

/-! ## Registers -/

/-- Set state and reason; a change of the state sets state_chg (R551). -/
def setCampState (st reason : Nat) (s : State) : State :=
  let s1 := (s.setRegFld aCampStat 2 2 st).setRegFld aCampStat 4 2 reason
  if s.campState = st then s1 else s1.orReg aCampStat 0x100

/-- CAMP_STAT.complete follows the member map (R551). -/
def campComplete (s : State) : State :=
  let m := fld (s.reg aCampMap) 0 8
  let n := (List.range 8).foldl (fun k i => if m.testBit i then k + 1 else k) 0
  let c := decide (n = fld (s.reg aCampCfg) 8 3 + 1)
  let s1 := s.setRegFld aCampStat 7 1 (b2n c)
  if bit (s.reg aCampStat) 7 = c then s1 else s1.orReg aCampStat 0x2000

/-- The member map takes a value. -/
def setCampMap (m : Nat) (s : State) : State := campComplete (s.setRegFld aCampMap 0 8 m)

/-- The camp epoch takes a value. -/
def setCampEpoch (e : Nat) (s : State) : State := s.setReg aCampEpoch (BitVec.ofNat 32 e)

/-! ## Messages (Table 13-8) -/

/-- The HELLO that the device sends now (R540). -/
def State.helloBody (s : State) : List Byte :=
  let st := match s.campState with | 2 => 1 | 3 => 2 | _ => 0
  padBody ([1, BitVec.ofNat 8 s.ownId, BitVec.ofNat 8 (fld (s.reg aCampCfg) 0 8), BitVec.ofNat 8 st] ++
    leBytes 4 (s.reg (aQfaHash)).toNat ++ leBytes 4 (s.reg (aQfaHashHi)).toNat ++ leBytes 4 (s.reg aQfaVer).toNat ++
    leBytes 4 (s.reg aCampEpoch).toNat)

/-- HELLO goes out on every UP link (R540). -/
def helloAll (s : State) : State :=
  let b := s.helloBody
  foldS (fun n s => if s.linkUp n then mgmtSend n b s else s) (List.range 8) { s with camp := { s.camp with hello := b } }

/-- A change of a HELLO field sends HELLO (R540). -/
def helloChange (s : State) : State := if s.camp.hello = s.helloBody then s else helloAll s

/-- HELLO_TIMER (R540). -/
def execHelloTimer (s : State) : Res := .next (helloAll s)

/-- The BEACON of a tide frame boundary (R542); count and phase are stamped as it leaves. -/
def State.beaconBody (s : State) : List Byte :=
  let t := s.tide
  padBody ([2, BitVec.ofNat 8 s.ownId, 0, 0] ++ leBytes 4 (s.reg aCampEpoch).toNat ++ [BitVec.ofNat 8 (fld (s.reg aCampMap) 0 8)] ++
    List.replicate 10 (0 : Byte) ++ leBytes 4 t.frame.toNat ++ leBytes 8 t.beat16.toNat ++ leBytes 6 t.tempo.toNat)

/-! ## Quarantine and admission (R547, R548) -/

/-- Do hash and version of member m, as its last HELLO gave them, equal this device's? -/
def State.sameImage (s : State) (m : Nat) : Bool :=
  decide (s.reg (aCampMemHashLo m) = s.reg aQfaHash) && decide (s.reg (aCampMemHashHi m) = s.reg aQfaHashHi) &&
  decide (s.reg (aCampMemVer m) = s.reg aQfaVer)

/-- Quarantine a member that is not yet in quarantine, or change the reason. -/
def quarantine (r : Nat) (s : State) : State :=
  let s1 := if s.campState = 3 then s else { s with camp := { s.camp with was := s.campState } }
  setCampState 3 r s1

/-- The state that R548 gives a member; STALE stays until a full pitch. A keeper's image, boundaries and TIDE_FRAME are the keeper's. -/
def campJudge (s : State) : State :=
  if s.campState = 0 ∨ s.campRole = 0 ∨ (s.campState = 3 ∧ fld (s.reg aCampStat) 4 2 = 2) then s
  else if s.campRole = 2 then
    let s1 := s.clrReg aCampStat 0x40
    if s.campState = 3 then setCampState s.camp.was 0 s1 else s1
  else
    let bad := match s.keeper with | some k => s.camp.heard.testBit k && !s.sameImage k | none => false
    if bad then quarantine 1 s
    else if bit (s.reg aCampStat) 6 then quarantine 3 s
    else if s.campState = 3 then setCampState s.camp.was 0 s
    else s

/-- May the keeper admit member m (R547)? -/
def State.admissible (s : State) (m : Nat) : Bool :=
  decide (s.campRole = 2) && s.camp.heard.testBit m && decide (fld (s.reg (aCampMemInfo m)) 8 2 = 0) && s.sameImage m &&
  !bit (s.reg aCampMap) m

/-- The keeper admits member m: the epoch rises, and the map holds it and the keeper (R547), which a FRESH keeper becomes ADMITTED by. -/
def campAdmit (m : Nat) (s : State) : State :=
  let s1 := setCampEpoch ((s.reg aCampEpoch).toNat + 1) s
  let s2 := setCampMap (fld (s1.reg aCampMap) 0 8 ||| 2 ^ m ||| 2 ^ s.ownId) s1
  let s3 := s2.orReg aCampStat 0x400
  if s3.campState = 1 then setCampState 2 0 s3 else s3

/-- HELLO (R540, R542, R547, R548). -/
def helloTake (n : Nat) (s : State) : State :=
  match takeRx n 3 0 1 s with
  | none => s
  | some (b, s0) =>
    let at_ := fun (i k : Nat) => leNat ((b.drop i).take k)
    let m := at_ 1 1
    if 8 ≤ m ∨ m = s.ownId then s0
    else
      let st := min 2 (at_ 3 1)
      let s1 := (((s0.setReg (aCampMemHashLo m) (BitVec.ofNat 32 (at_ 4 4))).setReg (aCampMemHashHi m) (BitVec.ofNat 32 (at_ 8 4))).setReg
        (aCampMemVer m) (BitVec.ofNat 32 (at_ 12 4))).setReg (aCampMemEpoch m) (BitVec.ofNat 32 (at_ 16 4))
      let s2 := s1.setReg (aCampMemInfo m) (BitVec.ofNat 32 (at_ 2 1 + st * 2 ^ 8 + 2 ^ 10))
      let s3 := { s2 with camp := { s2.camp with heard := s2.camp.heard ||| 2 ^ m } }
      let s4 := (s3.setRegFld aCampMap (8 + m) 1 1).setRegFld aCampMap (16 + m) 1 (if st = 2 then 1 else 0)
      let s5 := campJudge (campChoose s4)
      helloChange (if s5.admissible m ∧ bit (s5.reg aCampCfg) 11 = true then campAdmit m s5 else s5)

/-- HELLO (R540). -/
def execHello (n : Fin 8) (s : State) : Res := .next (helloTake n s)

/-! ## BEACON and TEMPO (R543 to R545) -/

/-- Is the device a member with TIDE_REF.src = 5 (R543, R545)? -/
def State.onStrand (s : State) : Bool := decide (fld (s.reg aTideRef) 0 4 = 5)

/-- The time of flight of a BEACON on link n in samples of 2^-32: STRn_DELAY in 0.1 ns (R543). -/
def State.flight (s : State) (n : Nat) : Nat := fld (s.reg (aStrDelay n)) 0 20 * rateHz s.rate * 2 ^ 32 / 10000000000

/-- The error of the Tide against the keeper at the arrival of a BEACON (R543): the stamped count and phase, and the delay of link n in
0.1 ns, less the Tide's, of counts of 48 bits. -/
def State.keeperError (s : State) (n : Nat) (b : List Byte) (came : Nat) : Int :=
  let stamped := leNat ((b.drop 9).take 6) * 2 ^ 32 + leNat ((b.drop 15).take 4)
  (BitVec.ofInt 80 ((stamped + s.flight n : Nat) - (came : Int))).toInt

/-- This device's position at the keeper's frame boundary, which a BEACON that came at `came` on link n was sent at: the keeper's phase and
the flight lie between (R543, R544). -/
def State.keeperEdge (s : State) (n : Nat) (b : List Byte) (came : Nat) : Nat := came - (leNat ((b.drop 15).take 4) + s.flight n)

/-- The sample period whose begin is nearest to a position. -/
def nearest (pos : Nat) : Nat := (pos + 2 ^ 31) / 2 ^ 32

/-- Is a frame boundary of this device at the sample k, and does the frame that begins there have the number `frame` (R544)? The boundary
may be the next one, where it is still due within the sample period. -/
def State.alignedAt (s : State) (k frame : Nat) : Bool :=
  (decide (s.tide.frameStart.toNat % 2 ^ 48 = k % 2 ^ 48) && decide (s.tide.frame.toNat = frame)) ||
  (decide ((s.tide.frameStart.toNat + s.tide.nNow) % 2 ^ 48 = k % 2 ^ 48) && decide ((s.tide.frame + 1).toNat = frame))

/-- The tide frame in progress ends at the sample k, and the frame that begins there has the number `frame` (R544). -/
def frameAlign (k frame : Nat) (s : State) : State :=
  let k := min k s.tide.count.toNat
  let s1 := tideNewFrame s
  { s1 with
    tide := { s1.tide with frame := BitVec.ofNat 32 frame, frameStart := BitVec.ofNat 64 k, framePos := s.tide.count.toNat - k }
    camp := { s1.camp with aligned := true } }

/-- A member with src = 5, or that has fallen back on the Strand, takes the keeper's position, for its next reference update (R543). -/
def keeperPos (n : Nat) (b : List Byte) (came : Nat) (s : State) : State :=
  if s.onStrand || decide (s.refSrc = 5) then { s with camp := { s.camp with pos := some (s.keeperError n b came) } } else s

/-- A member takes what its keeper's BEACON says: membership (R547, R548), frame alignment (R544), beat position (R545). `edge` is its
position at the keeper's frame boundary; boundaries that are less than half a sample apart are the same (DEDUCED, log entry 159). -/
def beaconApply (edge : Nat) (b : List Byte) (s : State) : State :=
  let at_ := fun (i k : Nat) => leNat ((b.drop i).take k)
  let epoch := at_ 4 4
  let map := at_ 8 1
  let frame := at_ 19 4
  let beat : BitVec 64 := BitVec.ofNat 64 (at_ 23 8)
  let s1 := if s.pwr.mode = .pitch ∧ s.camp.aligned = false ∧ s.camp.since ≤ edge then frameAlign (nearest edge) frame s else s
  let mis := !s1.alignedAt (nearest edge) frame
  let s2 := s1.setRegFld aCampStat 6 1 (b2n (decide (s1.campState ≠ 0) && mis))
  let s3 := if s2.campState = 0 then s2 else setCampMap map s2
  let s4 :=
    if s3.campState = 0 then s3
    else if map.testBit s.ownId then
      let s4 := setCampEpoch epoch s3
      if s4.campState = 1 ∧ mis = false then (setCampState 2 0 s4).orReg aCampStat 0x400 else s4
    else if s3.reg aCampEpoch ≠ 0 then quarantine 2 s3
    else s3
  let s5 := if s4.onStrand ∧ s4.camp.beat0 ≠ beat then
      { s4 with camp := { s4.camp with fix := some beat } }
    else s4
  campJudge s5

/-- BEACON (R543 to R545, R547, R548): the beacon of the keeper that R542 ranks highest counts; a keeper that hears a higher one
ceases to be the keeper. -/
def beaconTake (n : Nat) (s : State) : State :=
  match takeRx n 3 0 2 s with
  | none => s
  | some (b, s0) =>
    let came := (s0.link n).beaconAt.headD s0.tidePos
    let s1 := campChoose (s0.onLink n (fun l => { l with beaconAt := l.beaconAt.tail }))
    helloChange (if s1.keeper = some (b.getD 1 0).toNat ∧ s1.campRole ≠ 2 then beaconApply (s1.keeperEdge n b came) b (keeperPos n b came s1) else s1)

/-- BEACON (R543). -/
def execBeacon (n : Fin 8) (s : State) : Res := .next (beaconTake n s)

/-- The keeper tells every admitted member of a push to its tempo queue (R545). -/
def tempoSend (e : TempoEntry) (s : State) : State :=
  if s.campRole = 2 then
    foldS (fun n s =>
      if s.linkUp n ∧ bit (s.reg aCampMap) (fld (s.reg (aStrPeer n)) 0 3) = true then
        mgmtSend n ([3, if e.locate then 1 else 0] ++ leBytes 6 e.at_.toNat ++ leBytes 8 e.value.toNat) s
      else s) (List.range 8) s
  else s

/-- TEMPO (R545): a member with src = 5 pushes the entry into its own queue. -/
def tempoTake (n : Nat) (s : State) : State :=
  match takeRx n 3 0 3 s with
  | none => s
  | some (b, s1) =>
    if s1.onStrand then
      tempoPushEntry { at_ := BitVec.ofNat 48 (leNat ((b.drop 2).take 6)), value := BitVec.ofNat 64 (leNat ((b.drop 8).take 8))
                       locate := decide (b.getD 1 0 = 1) } s1
    else s1

/-- TEMPO (R545). -/
def execTempo (n : Fin 8) (s : State) : Res := .next (tempoTake n s)

/-- What a tide frame boundary does for the camp: a locate that a BEACON asked for, the beat position at the boundary, and the
keeper's BEACON on every UP link that reaches a member (R542, R545). -/
def campBoundary (s : State) : State :=
  let s1 := match s.camp.fix with
    | some v => { (s.incSat aCampBeatFix).orReg aCampStat 0x1000 with
        tide := tempoEffect { at_ := 0, value := v, locate := true } s.tide, camp := { s.camp with fix := none } }
    | none => s
  let s2 := campJudge { s1 with camp := { s1.camp with beat0 := s1.tide.beat16 } }
  if s2.campRole = 2 then
    let b := s2.beaconBody
    foldS (fun n s => if s.linkUp n then mgmtSend n b s else s) (List.range 8) s2
  else s2

/-! ## Loss (R549) -/

/-- Member m is heard no more. -/
def campForget (m : Nat) (s : State) : State :=
  let s1 : State := { s with camp := { s.camp with heard := s.camp.heard &&& (255 - 2 ^ m) } }
  ((s1.setRegFld aCampMap (8 + m) 1 0).setRegFld aCampMap (16 + m) 1 0).setRegFld (aCampMemInfo m) 10 1 0

/-- The keeper removes a lost member from the map and raises the epoch. -/
def campRemove (m : Nat) (s : State) : State :=
  if bit (s.reg aCampMap) m = true then
    setCampMap (fld (s.reg aCampMap) 0 8 &&& (255 - 2 ^ m)) (setCampEpoch ((s.reg aCampEpoch).toNat + 1) s)
  else s

/-- A device that has lost its keeper and is the keeper itself raises the epoch, and its map holds the members that it reaches (R549). -/
def campSucceed (s : State) : State :=
  setCampMap (fld (s.reg aCampMap) 0 8 &&& s.reached ||| 2 ^ s.ownId) (setCampEpoch ((s.reg aCampEpoch).toNat + 1) s)

/-- MEMBER_LOSS (R549): no link to member m has been UP for CAMP_LOSS ms. A keeper declares the loss, and a member that of the keeper it
followed. -/
def memberLoss (m : Nat) (s : State) : State :=
  if s.reached.testBit m || !s.camp.heard.testBit m then s
  else
    let led := decide (s.camp.led = some m)
    let s1 := campChoose (campForget m s)
    let s2 := if s1.campRole = 2 ∨ led = true then s1.orReg aCampStat 0x800 else s1
    let s3 := if led then { s2 with camp := { s2.camp with led := s2.camp.led.filter (fun k => decide (k ≠ m)) } } else s2
    helloChange (campJudge (if s3.campRole = 2 then (if led then campSucceed s3 else campRemove m s3) else s3))

/-- MEMBER_LOSS (R549). -/
def execMemberLoss (m : Fin 8) (s : State) : Res := .next (memberLoss m s)

/-- The CAMP block returns to its reset values but for CAMP_CFG.camp_id (R467, R554). -/
def campReset (s : State) : State :=
  let id := s.reg aCampCfg &&& 0xFFFF0000
  ({ s with regs := smKeep (fun a => !(decide (0x40280000 ≤ a) && decide (a < 0x40290000))) s.regs
            camp := { s.camp with heard := 0, was := 0, fix := none, pos := none, led := none } }).setReg aCampCfg id

/-- A full pitch with a CAMP section makes the member FRESH with epoch 0 (R546); without one it is ALONE. -/
def campPitch (present : Bool) (s : State) : State :=
  helloChange (campChoose (setCampState (if present then 1 else 0) 0 s))

/-- QFA_HASH and QFA_VER have changed (R540, R548). -/
def hashChange (s : State) : State := helloChange (campJudge s)

/-! ## The end of training -/

/-- TRAINING_END (R514, R534, R540, R541): a link that reaches UP sends HELLO and starts a DELAY measurement. -/
def trainingEnd (n : Nat) (far : FarEnd) (s : State) : State :=
  let s1 := strTrained n far s
  if s1.linkUp n ∧ s.linkUp n = false then delayTimer n (mgmtSend n s1.helloBody s1) else s1

/-- TRAINING_END (R514). -/
def execTrainingEnd (n : Fin 8) (far : FarEnd) (s : State) : Res := .next (trainingEnd n far s)

end Sys2Proof.Machine
end

