-- ==== Sys2Proof/Machine/Pins.lean ====
section
/-! DEFINITION. GPIO, pin functions and the switch rule (spec/16_events_pins.md R624 to R632), the signals that pins copy, and their
commands (spec/opcode_table.json rows GPIO_SET to PIN_SWITCH_APPLY). -/

namespace Sys2Proof.Machine

/-! ## Device outputs -/

/-- Is MUTE_N driven high (R676)? -/
def State.muteN (s : State) : Bool :=
  !bit (s.reg aSysMute) 0 && s.pwr.entering.isNone && s.pwr.pwronN && s.pwr.resetN &&
  (match s.pwr.mode with | .run => true | .neap => true | .shore => true | .degraded => true | _ => false)

/-- Is FAULT_N released (R679)? -/
def State.faultN (s : State) : Bool := !bit (s.reg aBwtrStat) 0

/-- Is READY driven high (R680)? -/
def State.ready (s : State) : Bool :=
  s.pwr.pwronN && s.pwr.resetN &&
  (match s.pwr.mode with | .run => true | .neap => true | .shore => true | .degraded => true | .halt => true | _ => false)

/-- PMB_CTL (R699): low in LANTERN from step 6 of Table 17-7 to the wake that asserts it (R659), high in every other mode (Table 18-4); in
OFF no pin drives (R681). -/
def State.pmbCtl (s : State) : Drive :=
  if s.pwr.mode = .off then none else some (decide (s.pwr.mode ≠ .lantern) || s.pwr.woken)

/-- The level of clock output CKOn in the first half of the TKCLK cycle that begins at the present edge, or (`h`) in the second
(R84). -/
def State.cko (s : State) (n : Nat) (h : Bool) : Bool :=
  let c := s.reg (aTideCko n)
  let at_ := s.tide.phase.toNat + (if h then s.phaseStep / 2 else 0)
  let half := fun (m : Nat) => decide (at_ * m % 2 ^ 32 < 2 ^ 31)
  let v := match legal 3 6 (fld c 0 3) with
    | 1 => half 1 | 2 => half 128 | 3 => half 256 | 4 => half 512
    | 5 => decide (s.tide.framePos = 0)
    | _ => false
  v != bit c 8

/-! ## Pads -/

/-- Bit b of a GPIO register whose words start at `r`. -/
def State.gpBit (s : State) (r : Nat → Nat) (j : Nat) : Bool := bit (s.reg (r (j / 32))) (j % 32)

/-- What function and enable make GPj drive (Table 16-3, R624, R628): a copy or a level, open-drain or push-pull. `h`: in the second half
of the TKCLK cycle. -/
def State.fnDrive (s : State) (j : Nat) (h : Bool := false) : Drive :=
  let c := s.reg (aPinSel j)
  let out := fun (v : Bool) => if bit c 11 && v then none else some v
  match legal 15 5 (fld c 0 3) with
  | 0 => if s.gpBit aGpioOe j then out (s.gpBit aGpioOut j) else none
  | 1 => out (s.cko (j % 4) h)
  | 2 => out s.muteN
  | 3 => out s.faultN
  | 4 => out s.ready
  | _ => none

/-- Does the VDDIO_GP bank have power (Table 19-1)? -/
def State.gpBank (s : State) : Bool := match s.pwr.mode with | .off => false | .lantern => false | _ => true

/-- What GPj drives, nothing while its bank has no power: what it holds while a switch is on its way (R629), or what its function makes it drive. -/
def State.pad (s : State) (j : Nat) (h : Bool := false) : Drive :=
  if !s.gpBank then none
  else match smGet (fun _ => none) s.hold j with
  | some d => d
  | none => s.fnDrive j h

/-- A switch of GPj is registered: the pad keeps what it drives; a switch under way keeps what it kept (R629, R630). -/
def padHold (d : Drive) (j : Nat) (s : State) : State :=
  match smGet (fun _ => none) s.hold j with
  | some _ => s
  | none => { s with hold := smSet (fun _ => none) s.hold j (some d) }

/-- A write of PIN_SELj: func and od are switched (R629), the other fields change at once (R630). -/
def pinSelWrite (j : Nat) (v : Word) (s : State) : State :=
  let old := s.reg (aPinSel j)
  let d := s.pad j
  let s1 := s.setReg (aPinSel j) (v &&& 0xF77)
  if fld old 0 3 ≠ fld v 0 3 ∨ bit old 11 ≠ bit v 11 then padHold d j s1 else s1

/-- A write of GPIO_OEk: every pin whose bit changes is switched (R629). -/
def gpioOeWrite (k : Nat) (v : Word) (s : State) : State :=
  let v := if k = 2 then v &&& 0xFF else v
  let x := s.reg (aGpioOe k) ^^^ v
  let js := (List.range 32).filter (fun b => bit x b)
  let ds := js.map (fun b => (32 * k + b, s.pad (32 * k + b)))
  foldS (fun e s => padHold e.2 e.1 s) ds (s.setReg (aGpioOe k) v)

/-- PIN_SWITCH (R629): a write of PIN_SELj, or (`oe`) of the GPIO_OE word of GPj. -/
def execPinSwitch (j : Fin 72) (oe : Bool) (v : Word) (s : State) : Res :=
  .next (if oe then gpioOeWrite (j.val / 32) v s else pinSelWrite j v s)

/-- PIN_SWITCH_APPLY (R629): at e + 2 the function's output applies; PCLK must run (R634). -/
def pinSwitchApply (j : Nat) (s : State) : State := if !s.fclkRuns then s else { s with hold := smSet (fun _ => none) s.hold j none }

/-- PIN_SWITCH_APPLY (R629). -/
def execPinSwitchApply (j : Fin 72) (s : State) : Res := .next (pinSwitchApply j s)

/-! ## GPIO -/

/-- The defined bits of word k of the GPIO registers (Table 16-5). -/
def gpMask (k : Nat) : Word := if k = 2 then 0xFF else 0xFFFFFFFF

/-- GPIO_SETk (R624). -/
def gpioSet (k : Nat) (v : Word) (s : State) : State := s.orReg (aGpioOut k) (v &&& gpMask k)

/-- GPIO_CLRk (R624). -/
def gpioClr (k : Nat) (v : Word) (s : State) : State := s.clrReg (aGpioOut k) v

/-- GPIO_TGLk (R624). -/
def gpioTgl (k : Nat) (v : Word) (s : State) : State := s.setReg (aGpioOut k) (s.reg (aGpioOut k) ^^^ (v &&& gpMask k))

/-- A write of GPIO_OUTk (R625). -/
def gpioOut (k : Nat) (v : Word) (s : State) : State := s.setReg (aGpioOut k) (v &&& gpMask k)

/-- GPIO_SET (R624). -/
def execGpioSet (k : Fin 3) (v : Word) (s : State) : Res := .next (gpioSet k v s)

/-- GPIO_CLR (R624). -/
def execGpioClr (k : Fin 3) (v : Word) (s : State) : Res := .next (gpioClr k v s)

/-- GPIO_TGL (R624). -/
def execGpioTgl (k : Fin 3) (v : Word) (s : State) : Res := .next (gpioTgl k v s)

/-- GPIO_OUT_WRITE (R625). -/
def execGpioOutWrite (k : Fin 3) (v : Word) (s : State) : Res := .next (gpioOut k v s)

/-- The synchronised level of GPj becomes `level` (R626); an edge that GPIO_INT_CFG selects sets its status (R627). -/
def gpioInput (j : Nat) (level : Bool) (s : State) : State :=
  if s.gpBit aGpioIn j = level ∨ s.fclkRuns = false then s
  else
    let s1 := s.setRegFld (aGpioIn (j / 32)) (j % 32) 1 (b2n level)
    let e := fld (s.reg (aGpioIntCfg (j / 16))) (2 * (j % 16)) 2
    s1.orRegIf (e.testBit (if level then 0 else 1)) (aGpioIntStat (j / 32)) (bitW (j % 32))

/-- GPIO_INPUT_EDGE (R626, R627). -/
def execGpioInputEdge (j : Fin 72) (level : Bool) (s : State) : Res := .next (gpioInput j level s)

/-- The GPIO action of a fire reaches its pin, if that is in GPIO output function (R75). -/
def gpioAct (j op : Nat) (s : State) : State :=
  if fld (s.reg (aPinSel j)) 0 3 = 0 ∧ s.gpBit aGpioOe j = true then
    match op with
    | 0 => gpioSet (j / 32) (bitW (j % 32)) s
    | 1 => gpioClr (j / 32) (bitW (j % 32)) s
    | 2 => gpioTgl (j / 32) (bitW (j % 32)) s
    | _ => s
  else s

/-- A TKCLK edge passes: actions of fires three edges ago reach their pins, those of one edge in ascending compare number (R69,
R75). -/
def gpioEdge (s : State) : State :=
  let due := s.tide.gpioPend.filter (fun e => decide (e.left ≤ 1))
  let rest := (s.tide.gpioPend.filter (fun e => decide (1 < e.left))).map (fun e => { e with left := e.left - 1 })
  foldS (fun e s => gpioAct e.pin e.op s) due { s with tide := { s.tide with gpioPend := rest } }

/-- The registers of the PIN block return to their reset values (R631), each pin whose drive so changes through R629. -/
def pinReset (s : State) : State :=
  let ds := (List.range 72).map (fun j => (j, s.pad j))
  let s1 := { s with regs := smKeep (fun a => !(decide (0x400A0000 ≤ a) && decide (a < 0x400B0000)) ||
    (decide (aGpioIn 0 ≤ a) && decide (a ≤ aGpioIn 2))) s.regs }
  foldS (fun e s => if s.fnDrive e.1 = e.2 then s else padHold e.2 e.1 s) ds s1

/-- A PIN section loads its entries in order, after the GPIO_OUT entries (R632). -/
def pinLoad (es : List (Nat × Word)) (s : State) : State :=
  let put := fun (e : Nat × Word) (s : State) =>
    if e.1 < 0x120 then pinSelWrite (e.1 / 4) e.2 s
    else if 0x340 ≤ e.1 ∧ e.1 < 0x34C then gpioOeWrite ((e.1 - 0x340) / 4) e.2 s
    else s.setReg (0x400A0000 + e.1) e.2
  let outs := es.filter (fun e => decide (0x300 ≤ e.1) && decide (e.1 < 0x30C))
  foldS put es (foldS put outs s)

end Sys2Proof.Machine
end

