-- ==== Sys2Proof/Machine/Sap.lean ====
section
/-! DEFINITION. Serial audio ports and the routes' engine (spec/12_serial_audio_ports.md; spec/opcode_table.json rows SAP_FRAME to
SAP_GATE_WRITE). A port's frame is judged at its start edge: the frame that ends there gives its input, and the frame that
begins its output. -/

namespace Sys2Proof.Machine

/-- Port n. -/
def State.port (s : State) (n : Nat) : SapPort := smGet (fun _ => SapPort.init) s.sap.ports n

/-- Replace port n. -/
def State.setPort (s : State) (n : Nat) (p : SapPort) : State :=
  { s with sap := { s.sap with ports := smSet (fun _ => SapPort.init) s.sap.ports n p } }

/-- Change port n. -/
def State.onPort (s : State) (n : Nat) (f : SapPort → SapPort) : State := s.setPort n (f (s.port n))

/-! ## Configuration -/

/-- Bits of a width code 0 to 2 (Table 12-5). -/
def sapBits (c : Nat) : Nat := 16 + 8 * c

/-- Slots of a port (Table 12-1). -/
def sapSlots (cfg : Word) : Nat := if fld cfg 1 2 = 2 then fld cfg 3 5 + 1 else 2

/-- F of group g. -/
def State.grpF (s : State) (g : Nat) : Nat := fld (s.reg (aSapGrpCfg g)) 0 11

/-- The judgement of R485 and R486 on a group's configuration at the Tide rate. -/
def grpCfgOk (rate : Nat) (v : Word) : Bool :=
  let f := fld v 0 11
  let fs := rateHz rate
  let base := if rate = 0 ∨ rate = 2 ∨ rate = 4 then 44100 else 48000
  if bit v 11 then [32, 64, 128, 256, 512, 1024].contains f && decide (f * fs ≤ 1024 * base)
  else decide (32 ≤ f) && decide (f ≤ 1024) && decide (f * fs ≤ 49152000)

/-- The judgement of R488 on a port's configuration with F BCLK a frame. -/
def sapCfgOk (v : Word) (f : Nat) : Bool :=
  let sw := sapBits (fld v 8 2)
  decide ((if fld v 1 2 = 2 then sapSlots v * sw else 2 * sw) ≤ f) && decide (sapBits (fld v 10 2) ≤ sw)

/-- Does a port's configuration carry a reserved code (R487)? -/
def sapReserved (v : Word) : Bool :=
  decide (fld v 1 2 = 3) || decide (fld v 8 2 = 3) || decide (fld v 10 2 = 3) || decide (fld v 12 2 = 3)

/-- A port with no frame in progress. -/
def SapPort.stopped (p : SapPort) : SapPort := { p with began := false, dout := [], await := [], tail := none }

/-- A port stops framing: the frame in progress ends and its input is not written. -/
def sapStop (n : Nat) (s : State) : State :=
  (s.clrReg (aSapStat n) 1).onPort n SapPort.stopped

/-- A write of SAP_GRPg_CFG (R487). -/
def grpCfgWrite (g : Nat) (v : Word) (s : State) : State :=
  let v := v &&& 0x77FFF
  let old := s.reg (aSapGrpCfg g)
  let bad := s.orReg (aSapGrpStat g) 0x200
  let ports := (List.range 8).map (fun i => 8 * g + i)
  if bit old 14 then
    if (old ^^^ v) &&& 0x71FFF ≠ 0 then bad
    else if bit v 14 then s.setReg (aSapGrpCfg g) v
    else
      let s1 := (s.setReg (aSapGrpCfg g) v).clrReg (aSapGrpStat g) 1
      let s2 := { s1 with sap := { s1.sap with noClk := s1.sap.noClk.filter (fun x => decide (x ≠ g)) } }
      foldS sapStop ports s2
  else if bit v 14 then
    if grpCfgOk s.rate v ∧ ports.all (fun n => !bit (s.reg (aSapCfg n)) 0 || sapCfgOk (s.reg (aSapCfg n)) (fld v 0 11)) = true then
      s.setReg (aSapGrpCfg g) v
    else bad
  else s.setReg (aSapGrpCfg g) v

/-- A write of SAPn_CFG (R487). -/
def sapCfgWrite (n : Nat) (v : Word) (s : State) : State :=
  let v := v &&& 0x1FFFF
  let old := s.reg (aSapCfg n)
  let bad := s.orReg (aSapStat n) 0x8000
  if sapReserved v then bad
  else if bit old 0 then
    if old &&& 0x1FFFE ≠ v &&& 0x1FFFE then bad
    else if bit v 0 then s else sapStop n (s.setReg (aSapCfg n) v)
  else if bit v 0 && !sapCfgOk v (s.grpF (n / 8)) then bad
  else s.setReg (aSapCfg n) v

/-- SAP_GRP_CFG_WRITE (R487). -/
def execSapGrpCfgWrite (g : Fin 8) (v : Word) (s : State) : Res := .next (grpCfgWrite g v s)

/-- SAP_CFG_WRITE (R487). -/
def execSapCfgWrite (n : Fin 64) (v : Word) (s : State) : Res := .next (sapCfgWrite n v s)

/-! ## Modes (Table 12-3) -/

/-- What a mode lets the pins do. -/
inductive SapMode where
  | off | low | ramp | zero | routed
  deriving DecidableEq, Repr

/-- The row of Table 12-3, for ANCHOR and BOOT after a WARM reset. -/
def sapMode : Mode → SapMode
  | .off => .off | .lantern => .off | .test => .off
  | .anchor => .ramp | .boot => .ramp
  | .pitch => .zero | .halt => .zero
  | .bivouac => .low
  | .run => .routed | .neap => .routed | .degraded => .routed | .shore => .routed

/-- The row of Table 12-3 that applies: ANCHOR and BOOT after a COLD reset drive no pin. -/
def State.sapMode (s : State) : SapMode :=
  if s.pwr.cold = true ∧ (s.pwr.mode = .anchor ∨ s.pwr.mode = .boot) then .off else Sys2Proof.Machine.sapMode s.pwr.mode

/-- Do a port's clocks run (R485, R505)? -/
def State.sapFrames (s : State) (n : Nat) : Bool :=
  bit (s.reg (aSapStat n)) 0 &&
  (match s.sapMode with | .off => false | .low => false | _ => true)

/-- An enabled port of an enabled group starts at a sample boundary; a master group's clocks start (R487, R719). -/
def sapPortStart (n : Nat) (s : State) : State :=
  let g := n / 8
  if bit (s.reg (aSapGrpCfg g)) 14 = true ∧ s.tide.phase = 0 ∧ s.sapMode ≠ .off ∧ s.sapMode ≠ .low then
    let s1 := s.orRegIf (bit (s.reg (aSapGrpCfg g)) 11) (aSapGrpStat g) 1
    s1.orRegIf (bit (s.reg (aSapCfg n)) 0) (aSapStat n) 1
  else s

/-- SAP_PORT_START (R487). -/
def execSapPortStart (n : Fin 64) (s : State) : Res := .next (sapPortStart n s)

/-! ## The wire (R488 to R490, Table 12-1) -/

/-- Does group g launch on the falling edge of BCLK and sample on the rising one (R490)? -/
def State.launchFalls (s : State) (g : Nat) : Bool := !bit (s.reg (aSapGrpCfg g)) 12

/-- The BCLK, counted from the frame start edge, at which slot j begins, with F BCLK a frame (Table 12-1). -/
def slotStart (cfg : Word) (f j : Nat) : Nat :=
  match fld cfg 1 2 with
  | 0 => j * (f / 2) + 1
  | 1 => j * (f / 2)
  | _ => j * sapBits (fld cfg 8 2) + fld cfg 14 1

/-- The samples that the slots of port n take from the levels of DIN at the rising and falling edges of its frame (R489, R490): the first
dwidth bits of each slot, most significant first, at the sampling edge. -/
def State.sapSamples (s : State) (n : Nat) (din : List (Bool × Bool)) : List Word :=
  let cfg := s.reg (aSapCfg n)
  let level := fun (k : Nat) => let e := din.getD k (false, false); if s.launchFalls (n / 8) then e.1 else e.2
  (List.range (sapSlots cfg)).map (fun j => BitVec.ofNat 32 ((List.range (sapBits (fld cfg 10 2))).foldl
    (fun v i => 2 * v + b2n (level (slotStart cfg (s.grpF (n / 8)) j + i))) 0))

/-! ## Input -/

/-- The 32-byte blocks that n bytes from a lie in: start and length of each, in order (R30, R305). -/
def beats : Nat → Nat → Nat → List (Nat × Nat)
  | 0, _, _ => []
  | fuel + 1, a, n =>
    if n = 0 then []
    else
      let k := min n (32 - a % 32)
      (a, k) :: beats fuel (a + k) (n - k)

/-- Ring index and index within the partition frame of period q (R493, R494); none before the route's first period. -/
def RtRun.place (x : RtRun) (q : Nat) : Option (Nat × Nat) :=
  let nb := max 1 x.route.nbuf
  if q < x.first ∨ x.len = 0 then none
  else if q < x.start then some ((x.idx + nb - 1) % nb, (q + x.len - x.start) % x.len)
  else some ((x.idx + (q - x.start) / x.len) % nb, (q - x.start) % x.len)

/-- Bytes that a route reads at once, or none for a failed access (R293). -/
def State.routeRead (s : State) (a n : Nat) : Option (List Byte) :=
  let parts := (beats (n + 1) a n).map (fun e =>
    match s.access false false (s.routeAddr e.1) e.2 with
    | .mem r b => some (s.loadAt (.mem r b) e.2)
    | .mirror x r b => some (s.loadAt (.mirror x r b) e.2)
    | _ => none)
  if parts.all Option.isSome then some (parts.flatMap (fun p => p.getD [])) else none

/-- Is period q the last of a tide frame? -/
def State.lastOfTide (s : State) (q : Nat) : Bool :=
  let n := max 1 s.tide.nNow
  decide ((q + n - s.tide.frameStart.toNat) % n = n - 1)

/-- Queue the writes of an input route for one period: block by block, class 3 (R495). A sample counts where it begins (R496). -/
def routePut (x : RtRun) (q : Nat) (idx i per w : Nat) (bytes : List Byte) (s : State) : State :=
  let a0 := x.route.addr + idx * x.route.stride + i * per * w
  foldS (fun e s =>
    let o := e.1 - a0
    let r := s.request .route .store (s.routeAddr e.1) e.2 ((bytes.drop o).take e.2) 0
    let k := (o + e.2 + w - 1) / w - (o + w - 1) / w
    let put : RtPut := { id := r.2, kind := x.route.kind, port := x.route.port, sel := if x.route.kind = 0 then x.route.first else x.route.stream
                         period := q, n := k, tail := decide (o % w ≠ 0), final := s.lastOfTide q }
    { r.1 with sap := { r.1.sap with puts := r.1.sap.puts ++ [put] } }) (beats (per * w + 1) a0 (per * w)) s

/-- The input of period q goes to every input route of port n: one sample a slot, converted by R347 (R493). -/
def sapInput (n q : Nat) (vs : List Word) (s : State) : State :=
  if s.sapMode ≠ .routed ∨ s.pwr.entering.isSome = true then s
  else
    let db := sapBits (fld (s.reg (aSapCfg n)) 10 2)
    let s1 := foldS (fun x s =>
      match x.place q with
      | none => s
      | some (idx, i) =>
        let w := x.route.width + 1
        let per := x.route.last - x.route.first + 1
        let bs := (List.range per).flatMap (fun j =>
          leBytes w (fryConvert ((vs.getD (x.route.first + j) 0).toNat % 2 ^ db) db (8 * w) x.route.just true))
        routePut x q idx i per w bs s) (s.sap.routes.filter (fun x => decide (x.route.kind = 0) && decide (x.route.port = n))) s
    s1.onPort n (fun p => { p with prev := vs, lastIn := q })

/-! ## Output -/

/-- What the output routes of partition n do in the partition frame that the next fire begins (R435, R445, R478, R499): the
half that the commit word names; bridged or without work for the first time, the bridge; otherwise zeros. -/
def State.nextOut (s : State) (n : Nat) : Bool × Bool × Bool :=
  let r := s.pt n
  let hi := s.reg (aBwtrPtCwHi n)
  if r.fresh then (bit hi 0, false, false)
  else if !s.ptActive n && !r.inFrame then (bit hi 0, !r.outZero && !r.outBridge, r.outZero || r.outBridge)
  else if r.inFrame then (bit hi 0, bit hi 2, false)
  else (bit hi 0, !r.outZero && !r.outBridge, r.outZero || r.outBridge)

/-- What an output route does in period p: its index within the partition frame, the start of that frame, and half, bridge,
zeros. A route with half = 0 has no regard to the commit word, and bridges only for want of work (R497, R499). -/
def State.outPlace (s : State) (x : RtRun) (p : Nat) : Nat × Nat × (Bool × Bool × Bool) :=
  let r := s.pt x.route.part
  let now := (r.outHalf, r.outBridge && (x.route.half || r.outIdle), r.outZero)
  let next := s.nextOut x.route.part
  if x.len = 0 ∨ p < x.start then (0, x.start, now)
  else if p < x.start + x.len then (p - x.start, x.start, now)
  else ((p - x.start) % x.len, x.start + x.len, (next.1, next.2.1 && (x.route.half || !r.inFrame), next.2.2))

/-- Address of the data of period index i of an output route (R497). -/
def State.outAddr (s : State) (x : RtRun) (half : Bool) (i per w : Nat) : Nat :=
  let base := if x.route.half then (match s.part? x.route.part with | some p => p.ebbBase half | none => 0) else 0
  base + x.route.addr + i * per * w

/-- SAP_OUTPUT_READ (R498): output route r issues its reads for the period after the present one, once the commit word of the
frame that feeds it is written. The route engines need FCLK (R634). -/
def sapOutputRead (r : Nat) (s : State) : State :=
  match s.sap.routes[r]? with
  | none => s
  | some x =>
    let q := s.tide.count.toNat + 1
    let pl := s.outPlace x q
    let pt := s.pt x.route.part
    let nextFrame := decide (x.start + x.len ≤ q)
    let have_ := s.sap.gets.any (fun g => decide (g.kind = 1) && decide (g.port = x.route.port) && decide (g.sel = x.route.first) && decide (g.period = q))
    if s.fclkRuns = false ∨ x.route.kind ≠ 1 ∨ x.live = false ∨ have_ = true ∨ pl.2.2.2.1 = true ∨ pl.2.2.2.2 = true ∨ s.sapMode ≠ .routed ∨
        (nextFrame && pt.inFrame && !pt.committed) = true then s
    else
      let w := x.route.width + 1
      let per := x.route.last - x.route.first + 1
      let a0 := s.outAddr x pl.2.2.1 pl.1 per w
      foldS (fun e s =>
        let q1 := s.request .route .load (s.routeAddr e.1) e.2 [] 0
        let g : RtGet := { id := q1.2, kind := 1, port := x.route.port, sel := x.route.first, period := q, off := e.1 - a0, n := e.2 }
        { q1.1 with sap := { q1.1.sap with gets := q1.1.sap.gets ++ [g] } }) (beats (per * w + 1) a0 (per * w)) s

/-- SAP_OUTPUT_READ (R498). -/
def execSapOutputRead (r : Nat) (s : State) : Res := .next (sapOutputRead r s)

/-- Byte b of the data of a route's period, if it has arrived. -/
def State.gotByte (s : State) (kind port sel q b : Nat) : Option Byte :=
  match s.sap.gets.find? (fun g => decide (g.kind = kind) && decide (g.port = port) && decide (g.sel = sel) && decide (g.period = q) &&
      decide (g.off ≤ b) && decide (b < g.off + g.n)) with
  | none => none
  | some g =>
    match s.reqSt? g.id with
    | some (.done d) => some (d.getD (b - g.off) 0)
    | _ => none

/-- The w-byte sample k of a route's period, if all of it has arrived. -/
def State.gotSample (s : State) (kind port sel q k w : Nat) : Option Nat :=
  let bs := (List.range w).map (fun j => s.gotByte kind port sel q (k * w + j))
  if bs.all Option.isSome then some (leNat (bs.map (fun b => b.getD 0))) else none

/-- The signed value of the low b bits of a word. -/
def sapSigned (v : Word) (b : Nat) : Int := ((BitVec.ofNat b v.toNat)).toInt

/-- x scaled by k / d, truncated toward zero, as b bits (R436, R506). -/
def sapScale (x : Word) (b k d : Nat) : Word :=
  BitVec.ofNat 32 (BitVec.ofInt b (Int.tdiv (sapSigned x b * (k : Int)) (d : Int))).toNat

/-- The x of a bridge (R436): the last sample of the slot in the Ebb output half, where the route reads one; else the last the route gave. -/
def State.bridgeFrom (s : State) (x : RtRun) (half : Bool) (j b : Nat) (o : SlotOut) : Word :=
  let w := x.route.width + 1
  let a := s.outAddr x half (x.len - 1) (x.route.last - x.route.first + 1) w + (j - x.route.first) * w
  match (if x.route.half && (s.part? x.route.part).isSome then s.routeRead a w else none) with
  | some bs => BitVec.ofNat 32 (fryConvert (leNat bs) (8 * w) b x.route.just true)
  | none => o.last

/-- The value of the route of a slot in period p (R497 to R499), with the slot's bridge record, and whether a sample was missing. -/
def State.routeValue (s : State) (n j p b : Nat) (o : SlotOut) : SlotOut × Bool :=
  match s.sap.routes.find? (fun x => x.live && decide (x.route.kind = 1) && decide (x.route.port = n) && decide (x.route.first ≤ j) &&
      decide (j ≤ x.route.last)) with
  | none => ({ o with last := 0 }, false)
  | some x =>
    let pl := s.outPlace x p
    if pl.2.2.2.2 then ({ o with last := 0, bfor := none }, false)
    else if pl.2.2.2.1 then
      let bx := if o.bfor = some pl.2.1 then o.bx else s.bridgeFrom x pl.2.2.1 j b o
      ({ o with last := sapScale bx b (x.len - 1 - pl.1) x.len, bfor := some pl.2.1, bx := bx }, false)
    else
      let w := x.route.width + 1
      match s.gotSample 1 n x.route.first p (j - x.route.first) w with
      | some v => ({ o with last := BitVec.ofNat 32 (fryConvert v (8 * w) b x.route.just true), bfor := none }, false)
      | none => ({ o with last := 0, bfor := none }, true)

/-- Does the group of port n send 0 because MUTE_N is low (R500)? -/
def State.sapMuted (s : State) (n : Nat) : Bool := bit (s.reg (aSapGrpCfg (n / 8))) 13 && !s.muteN

/-- The output gates of port n for period p on the wire (R74, R491): those of SAPn_GATE, without the fires that lie beyond the period. -/
def State.gateAt (s : State) (n p : Nat) : Word :=
  (s.port n).gated.foldr (fun g w => if p < g.1 then (w &&& ~~~g.2.1) ||| (g.2.2 &&& g.2.1) else w) (s.reg (aSapGate n))

/-- What slot j carries in period p, by the order of R500 and Table 12-3: a ramp shows in the modes that give one, until it has ended. -/
def State.slotValue (s : State) (n j p b : Nat) (o : SlotOut) : SlotOut × Bool :=
  match s.sapMode with
  | .ramp =>
    let v := match (s.port n).ramp with | some i => if i < 32 then sapScale o.rx b (31 - i) 32 else 0 | none => 0
    ({ o with out := if s.sapMuted n then 0 else v }, false)
  | .routed =>
    let r := s.routeValue n j p b o
    ({ r.1 with out := if s.sapMuted n then 0 else if bit (s.gateAt n p) j then r.1.last else 0 }, r.2)
  | _ => ({ o with out := 0 }, false)

/-- The slots `m` of the frame in progress of port n take the gates of SAPn_GATE: its period is at or beyond a fire that comes after its
start edge (R74, R491). -/
def sapRegate (n : Nat) (m : Word) (s : State) : State :=
  if s.sapMode ≠ .routed then s
  else foldS (fun j s =>
    if bit m j && bit (s.reg (aSapOutMask n)) j && decide (j < (s.port n).dout.length) then
      let o := smGet (fun _ => SlotOut.init) (s.port n).slots j
      let v := if s.sapMuted n then 0 else if bit (s.reg (aSapGate n)) j then o.last else 0
      s.onPort n (fun q => { q with slots := smSet (fun _ => SlotOut.init) q.slots j { o with out := v }, dout := q.dout.set j (some v) })
    else s) (List.range 32) s

/-- A fire opens or closes the gates `m` of port n (R74, R501): SAPn_GATE on its edge, the wire from the first period at or beyond it. -/
def sapGateFire (n : Nat) (m : Word) (opens : Bool) (s : State) : State :=
  let old := s.reg (aSapGate n)
  let s1 := s.setReg (aSapGate n) (if opens then old ||| m else old &&& ~~~m)
  let e := s.tide.count.toNat + (if s.tide.phase = 0 then 0 else 1)
  if (s.port n).began && decide (e ≤ (s.port n).period) then sapRegate n m s1
  else s1.onPort n (fun p => { p with gated := p.gated ++ [(e, m, old)] })

/-- The BCLK of its frame that port n has reached: F in each sample period from the start edge on (R484). -/
def State.bclkNow (s : State) (n : Nat) : Nat :=
  (s.tide.count.toNat * 2 ^ 32 + s.tide.phase.toNat - (s.port n).edgeAt) * s.grpF (n / 8) / 2 ^ 32

/-- The slots of port n's frame in progress whose first bit is not past. -/
def State.slotsAhead (s : State) (n : Nat) : Word :=
  (List.range 32).foldl (fun m j => if s.bclkNow n ≤ slotStart (s.reg (aSapCfg n)) (s.grpF (n / 8)) j then m ||| BitVec.ofNat 32 (2 ^ j) else m) 0

/-- SAPn_GATE is written (R501): the gates of fires that the wire has not reached go with it, and the slots of the frame in progress that are
still to come follow it. -/
def sapGateWrite (n : Nat) (v : Word) (s : State) : State :=
  sapRegate n (s.slotsAhead n) ((s.setReg (aSapGate n) v).onPort n (fun p => { p with gated := [] }))

/-- SAP_GATE_WRITE (R501). -/
def execSapGateWrite (n : Fin 64) (v : Word) (s : State) : Res := .next (sapGateWrite n v s)

/-- Slot j of port n, whose data had not arrived at the start edge, takes them by its first bit; from then on it carries 0 and the miss is
counted (R498). -/
def sapLateSlot (n j : Nat) (s : State) : State :=
  let p := s.port n
  let past := decide (slotStart (s.reg (aSapCfg n)) (s.grpF (n / 8)) j < s.bclkNow n)
  let r := s.slotValue n j p.period (sapBits (fld (s.reg (aSapCfg n)) 10 2)) (smGet (fun _ => SlotOut.init) p.slots j)
  if past then ((s.onPort n (fun p => { p with await := p.await.filter (fun k => decide (k ≠ j)) })).incFld (aSapDrop n) 16 16 1).orReg (aSapStat n) 0x2000
  else if r.2 then s
  else s.onPort n (fun p => { p with
    await := p.await.filter (fun k => decide (k ≠ j)), dout := p.dout.set j (some r.1.out)
    slots := smSet (fun _ => SlotOut.init) p.slots j r.1 })

/-- The slots of port n that wait for their data (R498). -/
def sapLate (n : Nat) (s : State) : State := foldS (sapLateSlot n) (s.port n).await s

/-- Every port's slots that wait for their data, as time passes (R498). -/
def sapAwait (s : State) : State := foldS (fun e s => if e.2.await.isEmpty then s else sapLate e.1 s) s.sap.ports s

/-- The slots of port n carry their values in period p; those whose samples have not arrived wait for them (R498). -/
def sapOutput (n p : Nat) (s : State) : State :=
  let cfg := s.reg (aSapCfg n)
  let b := sapBits (fld cfg 10 2)
  let m := s.reg (aSapOutMask n)
  let idle : Option Word := if bit cfg 16 then none else some 0
  let js := List.range (sapSlots cfg)
  let s1 := foldS (fun j s =>
    if bit m j then
      let o := smGet (fun _ => SlotOut.init) (s.port n).slots j
      let r := s.slotValue n j p b o
      let s1 := s.onPort n (fun q => { q with slots := smSet (fun _ => SlotOut.init) q.slots j r.1, dout := q.dout ++ [some r.1.out] })
      if r.2 then s1.onPort n (fun q => { q with await := q.await ++ [j] }) else s1
    else s.onPort n (fun q => { q with dout := q.dout ++ [idle] })) js (s.onPort n (fun q => { q with dout := [], await := [] }))
  let s2 := s1.onPort n (fun q => { q with
    ramp := if s.sapMode = .ramp then q.ramp.map (fun i => min 32 (i + 1)) else none
    gated := q.gated.filter (fun g => decide (p < g.1)) })
  { s2 with sap := { s2.sap with gets := s2.sap.gets.filter (fun g => decide (g.kind ≠ 1) || decide (g.port ≠ n) || decide (p ≤ g.period)) } }

/-! ## Frames (R491, R492, R502, R503) -/

/-- The frame in progress of port n ends; `cut` says before its F BCLK (R502). -/
def sapEnd (n : Nat) (cut : Bool) (s : State) : State :=
  let s := sapLate n s
  let p := s.port n
  if !p.began then s
  else
    let s1 := if p.discard then s else sapInput n (p.period + 1) (if cut || p.zeroed then [] else p.din) s
    s1.onPort n (fun p => { p with began := false, await := [], tail := if cut then none else p.dout.getLast?.getD none })

/-- The sample period whose start lies nearest, a tie going to the later one (R491). -/
def State.nearPeriod (s : State) : Nat := s.tide.count.toNat + (if 2 ^ 31 ≤ s.tide.phase.toNat then 1 else 0)

/-- A frame of port n begins: period, rate slips, output. While the count is held (ANCHOR after a WARM reset) the frames go on (R86, R506). -/
def sapBegin (n : Nat) (edge : Bool) (was : Option Nat) (din : List (Bool × Bool)) (s : State) : State :=
  let p := s.nearPeriod
  let x := s.port n
  let slave := !bit (s.reg (aSapGrpCfg (n / 8))) 11
  let skip := slave && s.counting && decide (was.map (fun w => w + 2) = some p)
  let same := slave && s.counting && decide (was = some p)
  let s1 := if skip then sapInput n p x.prev s else s
  let s2 := if skip || same then (s1.incFld (aSapSlip n) 16 16 1).orReg (aSapStat n) 0x800 else s1
  let s3 := s2.onPort n (fun x => { x with
    began := true, period := p, edge := edge, din := s.sapSamples n din, discard := same, zeroed := x.lost
    edgeAt := s.tide.count.toNat * 2 ^ 32 + s.tide.phase.toNat })
  if same then s3 else sapOutput n p s3

/-- The pins of a slave port are ignored: the frame in progress goes no further (R505). -/
def sapIgnore (n : Nat) (s : State) : State := if (s.port n).began then s.onPort n SapPort.stopped else s

/-- SAP_FRAME: a start edge of port n, `bclk` BCLK after the start of the frame in progress or the last edge (R491, R502,
R503). The clock port's edges give SAP_GRPg_MEAS. A master group's edge is a sample boundary (R485), one in each
period: its ports never slip (R492). A slave group's pins are ignored where Table 12-3 gives zeros (log entry 140). -/
def sapFrame (n bclk : Nat) (din : List (Bool × Bool)) (s : State) : State :=
  let g := n / 8
  let cfg := s.reg (aSapGrpCfg g)
  let master := bit cfg 11
  let f := s.grpF g
  let x := s.port n
  if bit cfg 14 = false ∨ (master = true ∧ (s.tide.phase ≠ 0 ∨ (s.counting = true ∧ x.began = true ∧ x.period = s.tide.count.toNat))) ∨ s.sap.noClk.contains g = true ∨ s.sapMode = .off ∨
      s.sapMode = .low then s
  else if master = false ∧ s.sapMode = .zero then sapIgnore n s
  else
    let s0 := if fld cfg 16 3 = n % 8 then s.setReg (aSapGrpMeas g) (BitVec.ofNat 32 ((x.since + bclk) % 2048)) else s
    let s0 := s0.onPort n (fun x => { x with since := 0 })
    if !bit (s.reg (aSapStat n)) 0 then s0
    else
      let cut := x.began && !master && decide (bclk ≠ f)
      let s1 := if cut then (s0.incFld (aSapSlip n) 0 16 1).orReg (aSapStat n) 0x200 else s0
      let was := if x.began then some x.period else none
      let s2 := sapEnd n cut s1
      let found := x.lost && x.began && x.edge && decide (bclk = f)
      let s3 := s2.onPort n (fun x => { x with missing := 0, lost := if found then false else x.lost })
      sapBegin n true was din s3

/-- SAP_FRAME (R491). -/
def execSapFrame (n : Fin 64) (bclk : Nat) (din : List (Bool × Bool)) (s : State) : Res := .next (sapFrame n bclk din s)

/-- FRAME_MISSING (R503): F BCLK have passed without a start edge, and a slave port starts the next frame itself. -/
def frameMissing (n : Nat) (din : List (Bool × Bool)) (s : State) : State :=
  let g := n / 8
  let cfg := s.reg (aSapGrpCfg g)
  let x := s.port n
  if bit cfg 14 = false ∨ bit cfg 11 = true ∨ s.sap.noClk.contains g = true ∨ s.sapFrames n = false ∨ x.began = false then s
  else if s.sapMode = .zero then sapIgnore n s
  else
    let k := x.missing + 1
    let s1 := sapEnd n false s
    let lose := !x.lost && decide (4 ≤ k)
    let s2 := s1.onPort n (fun x => { x with missing := k, lost := x.lost || decide (4 ≤ k), since := x.since + s.grpF g })
    sapBegin n false (some x.period) din (s2.orRegIf lose (aSapStat n) 0x400)

/-- FRAME_MISSING (R503). -/
def execFrameMissing (n : Fin 64) (din : List (Bool × Bool)) (s : State) : Res := .next (frameMissing n din s)

/-! ## The clock (R504) -/

/-- Zeros go to every input route of port n for each period after the last one written, up to the next one. -/
def sapZeros (n : Nat) (s : State) : State :=
  let q := s.tide.count.toNat + 1
  let p := s.port n
  foldS (fun k s => sapInput n (q - k) [] s) ((List.range (min 3 (q - p.lastIn))).reverse) s

/-- BCLK_LOST (R504): a slave group's clock shows no edge for 256 TKCLK. -/
def bclkLost (g : Nat) (s : State) : State :=
  let cfg := s.reg (aSapGrpCfg g)
  if bit cfg 14 = false ∨ bit cfg 11 = true ∨ s.sap.noClk.contains g = true ∨ s.sapMode = .zero then s
  else
    let s1 := (s.orReg (aSapGrpStat g) 0x100).clrReg (aSapGrpStat g) 1
    let s2 := { s1 with sap := { s1.sap with noClk := s1.sap.noClk ++ [g] } }
    foldS (fun i s =>
      let n := 8 * g + i
      if !bit (s.reg (aSapCfg n)) 0 then s
      else
        let s1 := s.orReg (aSapStat n) 0x4000
        if bit (s.reg (aSapStat n)) 0 then sapZeros n (s1.onPort n SapPort.stopped) else s1) (List.range 8) s2

/-- BCLK_LOST (R504). -/
def execBclkLost (g : Fin 8) (s : State) : Res := .next (bclkLost g s)

/-- BCLK_RETURN (R504): edges come again, and each port that frames begins its own frames, of which it writes zeros, as after a lost frame
(R503). -/
def bclkReturn (g : Nat) (s : State) : State :=
  let cfg := s.reg (aSapGrpCfg g)
  if bit cfg 14 = false ∨ bit cfg 11 = true then s
  else
    let was := s.sap.noClk.contains g
    let s1 := s.orReg (aSapGrpStat g) 1
    let s2 := { s1 with sap := { s1.sap with noClk := s1.sap.noClk.filter (fun x => decide (x ≠ g)) } }
    if was then
      foldS (fun i s =>
        let n := 8 * g + i
        if s.sapFrames n then sapBegin n false none [] (s.onPort n (fun p => { p with lost := true, missing := 4, since := 0 })) else s) (List.range 8) s2
    else s2

/-- BCLK_RETURN (R504). -/
def execBclkReturn (g : Fin 8) (s : State) : Res := .next (bclkReturn g s)

/-- A sample period begins: groups without a clock write zeros (R504). -/
def sapPeriod (s : State) : State :=
  foldS (fun g s => foldS (fun i s =>
    if bit (s.reg (aSapStat (8 * g + i))) 0 then sapZeros (8 * g + i) s else s) (List.range 8) s) s.sap.noClk s

/-! ## Acknowledgements (R495, R496) -/

/-- Is a write of the same route and period as p? -/
def sameRoute (p x : RtPut) : Bool :=
  decide (x.kind = 0) && decide (x.port = p.port) && decide (x.sel = p.sel) && decide (x.period = p.period)

/-- The samples that a failed write p loses (R496), each counted once: a sample that lies in two writes is taken from the other one's
count. -/
def sapLose (p : RtPut) (s : State) : State :=
  let s1 := { s with sap := { s.sap with puts := s.sap.puts.map (fun (x : RtPut) =>
    if sameRoute p x && decide (x.id = p.id + 1) && x.tail then { x with tail := false }
    else if sameRoute p x && decide (x.id + 1 = p.id) && p.tail then { x with n := x.n - 1 } else x) } }
  (s1.incFld (aSapDrop p.port) 0 16 (p.n + b2n p.tail)).orReg (aSapStat p.port) 0x1000

/-- SAP_INPUT_WRITE_ACK (R495, R496): a write of a SAP input route has ended. -/
def sapWriteAck (id : Nat) (s : State) : State :=
  match s.sap.puts.find? (fun p => decide (p.id = id) && decide (p.kind = 0)), s.reqSt? id with
  | some p, some st =>
    if st.open_ then s
    else
      let s1 := ({ s with sap := { s.sap with puts := s.sap.puts.filter (fun x => decide (x.id ≠ id)) } }).dropReq id
      let s2 := match st with
        | .failed _ => sapLose p s1
        | _ => s1
      let rest := s2.sap.puts.any (fun x => decide (x.kind = 0) && decide (x.port = p.port) && decide (x.period = p.period))
      if rest then s2
      else
        let s3 := (s2.setReg (aSapLast p.port) (BitVec.ofNat 32 p.period)).setReg (aSapLastHi p.port) (BitVec.ofNat 32 (p.period / 2 ^ 32 % 65536))
        s3.orRegIf p.final (aSapStat p.port) 0x100
  | _, _ => s

/-- SAP_INPUT_WRITE_ACK (R495). -/
def execSapInputWriteAck (id : Nat) (s : State) : Res := .next (sapWriteAck id s)

/-! ## Ramps and pins -/

/-- Every framing port ramps its outputs to zero from its next frame (R506). -/
def sapRamp (s : State) : State :=
  { s with sap := { s.sap with ports := s.sap.ports.map (fun e =>
      if bit (s.reg (aSapStat e.1)) 0 then
        (e.1, { e.2 with ramp := some 0, lastIn := 0, slots := e.2.slots.foldl (fun m o => smSet (fun _ => SlotOut.init) m o.1 { o.2 with rx := o.2.out }) [] })
      else e) } }

/-- What the DOUT pin of port n drives outside its slots or when it is not framing (R489, R505, R719): none is high
impedance. -/
def State.sapIdle (s : State) (n : Nat) : Option Bool :=
  match s.sapMode with
  | .off => none
  | .low => some false
  | _ => if bit (s.reg (aSapCfg n)) 16 then none else some false

/-- DOUT of port n during BCLK k of its frame in progress (R489, R500): a last slot that begins late ends in the next frame. -/
def State.doutBit (s : State) (n k : Nat) : Drive :=
  let cfg := s.reg (aSapCfg n)
  let at_ := fun (j : Nat) => slotStart cfg (s.grpF (n / 8)) j
  let b := sapBits (fld cfg 10 2)
  let shown := fun (v : Option Word) (i : Nat) => match v with
    | none => s.sapIdle n
    | some v => some (decide (i < b) && v.getLsbD (b - 1 - i))
  let before := s.grpF (n / 8) + k - at_ (sapSlots cfg - 1)
  match (List.range (sapSlots cfg)).find? (fun j => decide (at_ j ≤ k) && decide (k < at_ j + sapBits (fld cfg 8 2))) with
  | some j => shown ((s.port n).dout.getD j none) (k - at_ j)
  | none => if before < sapBits (fld cfg 8 2) then shown (s.port n).tail before else s.sapIdle n

/-- FSYNC of a master port during BCLK k of a frame (Table 12-1). -/
def fsyncBit (cfg : Word) (f k : Nat) : Bool :=
  let high := match fld cfg 1 2 with
    | 0 => decide (f / 2 ≤ k)
    | 1 => decide (k < f / 2)
    | _ => decide (k < (match fld cfg 12 2 with | 0 => 1 | 1 => sapBits (fld cfg 8 2) | _ => f / 2))
  high != bit cfg 15

/-- What the boundary scan drives on pin k of port n in TEST (R505, R665): nothing under HIGHZ and where no test instruction is in force. -/
def State.scanPin (s : State) (n k : Nat) : Drive :=
  let cell := fun (i : Nat) => s.tap.bsr.getD i false
  let drives := match s.tap.pins with | .none => false | .highz => false | _ => true
  if drives && cell (Config.scanEnable n k) then some (cell (Config.scanCell n k)) else none

/-- What port n drives on BCLK, FSYNC and DOUT in half h of the BCLK cycles of its frame in progress, counted from the frame start edge
(R489, R490, R505, R719, Table 12-3): each cycle begins with the launching edge, and the clock and FSYNC of a slave group are inputs. -/
def State.sapPins (s : State) (n h : Nat) : Drive × Drive × Drive :=
  let g := n / 8
  let master := bit (s.reg (aSapGrpCfg g)) 11
  match s.sapMode with
  | .off => if s.pwr.mode = .test then (s.scanPin n 0, s.scanPin n 1, s.scanPin n 2) else (none, none, none)
  | .low => (if master then some false else none, if master then some false else none, some false)
  | _ =>
    if !bit (s.reg (aSapStat n)) 0 then (if master then some false else none, if master then some false else none, s.sapIdle n)
    else
      (if master then some (decide (h % 2 = 1) == s.launchFalls g) else none,
       if master then some (fsyncBit (s.reg (aSapCfg n)) (s.grpF g) (h / 2)) else none, s.doutBit n (h / 2))

/-- SAP_RTr_STAT (Table 12-7). -/
def State.sapRtStat (s : State) (r : Nat) : Word :=
  match s.sap.routes.find? (fun x => x.live && decide (x.r = some r)) with
  | some x => BitVec.ofNat 32 (x.idx % 8 + x.route.port * 2 ^ 8 + 2 ^ 16)
  | none => 0

end Sys2Proof.Machine
end

