-- ==== Sys2Proof/Machine/Streams.lean ====
section
/-! DEFINITION. Audio streams over Strand links (spec/13_strand_camps.md R535 to R539; spec/opcode_table.json rows STREAM_BLOCK_SEND to
STREAM_BLOCK_DEADLINE). -/

namespace Sys2Proof.Machine

/-- Stream flits of a block of b bytes (R535). -/
def streamFlits (b : Nat) : Nat := (b + 47) / 48

/-- Partition frames since the last fire of the partition's compare, on a route: more than 0 while a re-pitch holds it (R478). -/
def State.framesGone (s : State) (x : RtRun) : Nat := (s.tide.count.toNat - x.start) / max 1 x.len

/-- TIDE_FRAME at the start of the partition frame whose output partition p commits in its present frame, k frames after that of its last
fire (Table 13-7). -/
def State.streamFrame (s : State) (p : Part) (k : Nat) : Nat :=
  ((s.pt p.part).frame0 + BitVec.ofNat 32 (k * 2 ^ p.fmul) - BitVec.ofNat 32 (2 ^ p.fmul)).toNat

/-- A stream body (Table 13-7). -/
def streamBody (stream fidx : Nat) (nodata : Bool) (frame : Nat) (bs : List Byte) : List Byte :=
  padBody (leBytes 4 (stream + fidx % 128 * 2 ^ 8 + b2n nodata * 2 ^ 15 + frame % 65536 * 2 ^ 16) ++ bs)

/-- A stream flit is discarded and counted (R539). -/
def streamDrop (n : Nat) (s : State) : State := strFlag n 0x10000 (s.incFld (aStrSdrop n) 0 16 1)

/-- The mark of a route that has sent its block of the partition frame in progress. -/
def State.sentMark (s : State) (x : RtRun) : Nat := x.start + s.framesGone x * x.len + 1

/-- The route of index r has sent its block of the partition frame in progress. -/
def routeSent (r : Nat) (s : State) : State :=
  { s with sap := { s.sap with routes := s.sap.routes.modify r (fun x => { x with first := s.sentMark x }) } }

/-- STREAM_BLOCK_SEND (R535 to R537): output route r sends the block of the frame that has just been committed; a bridged frame, or a
partition frame without work, is one flit with nodata. -/
def streamSend (r : Nat) (s : State) : State :=
  match s.sap.routes[r]? with
  | none => s
  | some x =>
    match s.part? x.route.part with
    | none => s
    | some p =>
      let t := s.pt p.part
      if x.route.kind ≠ 3 ∨ x.live = false ∨ x.first = s.sentMark x ∨ (t.inFrame && !t.committed) = true then s
      else
        let n := x.route.port % 8
        let s1 := routeSent r s
        let f := s.streamFrame p (s.framesGone x)
        let put := fun (b : List Byte) (s : State) => s.onLink n (fun l => { l with streamQ := l.streamQ ++ [b] })
        if !s.bothAdmitted (fld (s.reg (aStrPeer n)) 0 3) then s1
        else if !t.inFrame || bit (s.reg (aBwtrPtCwHi p.part)) 2 then put (streamBody x.route.stream 0 true f []) s1
        else
          let b := x.route.stride
          let a := (if x.route.half then p.ebbBase (s.ptEbb p.part) else 0) + x.route.addr
          foldS (fun i s =>
            match s.routeRead (a + 48 * i) (min 48 (b - 48 * i)) with
            | some d => put (streamBody x.route.stream i false f d) s
            | none => streamDrop n s) (List.range (streamFlits b)) s1

/-- STREAM_BLOCK_SEND (R536). -/
def execStreamBlockSend (r : Nat) (s : State) : Res := .next (streamSend r s)

/-- The block that the receive engine of link n holds for a stream. -/
def State.strBlk (s : State) (n stream : Nat) : StrBlk :=
  ((s.link n).blocks.find? (fun b => decide (b.stream = stream))).getD { stream := stream, frame := 0, flits := [], closed := false }

/-- Replace a held block. -/
def State.setBlk (s : State) (n : Nat) (b : StrBlk) : State :=
  s.onLink n (fun l => { l with blocks := l.blocks.filter (fun x => decide (x.stream ≠ b.stream)) ++ [b] })

/-- The bytes of a block with zeros for what is missing. -/
def blockBytes (b : Nat) (flits : List (Nat × List Byte)) : List Byte :=
  ((List.range (streamFlits b)).flatMap (fun i =>
    match flits.find? (fun e => decide (e.1 = i)) with
    | some e => e.2
    | none => List.replicate 48 (0 : Byte))).take b

/-- The input route writes its block into the ring buffer of the frame in progress, and STRn_SLAST shows it (R537 to R539). -/
def streamWrite (n : Nat) (x : RtRun) (k : StrBlk) (nodata : Bool) (s : State) : State :=
  let b := x.route.stride
  let s1 := routePut x x.start x.idx 0 b 1 (if nodata then List.replicate b (0 : Byte) else blockBytes b k.flits) s
  (s1.setReg (aStrSlast n) (BitVec.ofNat 32 (k.frame % 65536 + b2n nodata * 65536))).setBlk n { k with flits := [], closed := true }

/-- The input route of a stream of link n. -/
def State.strRoute (s : State) (n stream : Nat) : Option RtRun :=
  s.sap.routes.find? (fun x => x.live && decide (x.route.kind = 2) && decide (x.route.port = n) && decide (x.route.stream = stream))

/-- Is a flit of a block that belongs to an earlier partition frame than the one whose block input route x now takes (R538, R539)? -/
def State.flitLate (s : State) (x : RtRun) (frame : Nat) : Bool :=
  match s.part? x.route.part with
  | none => false
  | some p => let d := (s.streamFrame p (s.framesGone x) % 65536 + 65536 - frame) % 65536; decide (0 < d) && decide (d < 32768)

/-- STREAM_FLIT (R537 to R539, R550): a flit that comes after the deadline of its block is discarded. -/
def streamTake (n : Nat) (s : State) : State :=
  match takeRx n 2 0 0 s with
  | none => s
  | some (b, s1) =>
    let h := leNat (b.take 4)
    let stream := h % 256
    let fidx := h / 2 ^ 8 % 128
    let nodata := decide (h / 2 ^ 15 % 2 = 1)
    if !s1.bothAdmitted (fld (s1.reg (aStrPeer n)) 0 3) then s1
    else
      match s1.strRoute n stream with
      | none => streamDrop n s1
      | some x =>
        let k := s1.strBlk n stream
        let held : Nat := (s1.link n).blocks.foldl (fun a e => a + e.flits.length) 0
        if k.closed || s1.flitLate x (h / 2 ^ 16 % 65536) || decide (64 ≤ held) then streamDrop n s1
        else
          let k := { k with frame := h / 2 ^ 16 % 65536 }
          if nodata then streamWrite n x k true s1
          else
            let k := { k with flits := k.flits.filter (fun e => decide (e.1 ≠ fidx)) ++ [(fidx, (b.drop 4).take 48)] }
            if (List.range (streamFlits x.route.stride)).all (fun i => k.flits.any (fun e => decide (e.1 = i))) then streamWrite n x k false s1
            else s1.setBlk n k

/-- STREAM_FLIT (R539). -/
def execStreamFlit (n : Fin 8) (s : State) : Res := .next (streamTake n s)

/-- STREAM_BLOCK_DEADLINE (R539): 2 µs before the boundary of partition pt, incomplete blocks are written as they are. -/
def streamDeadline (pt : Nat) (s : State) : State :=
  match s.part? pt with
  | none => s
  | some p =>
    foldS (fun x s =>
      let n := x.route.port % 8
      let k := s.strBlk n x.route.stream
      if k.closed then s
      else
        let k := if k.flits.isEmpty then { k with frame := s.streamFrame p (s.framesGone x) % 65536 } else k
        strFlag n 0x20000 ((streamWrite n x k false s).incFld (aStrSdrop n) 16 16 1))
      (s.sap.routes.filter (fun x => x.live && decide (x.route.kind = 2) && decide (x.route.part = pt))) s

/-- STREAM_BLOCK_DEADLINE (R539). -/
def execStreamBlockDeadline (pt : Fin 32) (s : State) : Res := .next (streamDeadline pt s)

/-- A partition frame begins: the streams of its input routes take new blocks. -/
def streamFrameStart (pt : Nat) (s : State) : State :=
  foldS (fun x s => let n := x.route.port % 8; s.setBlk n { s.strBlk n x.route.stream with flits := [], closed := false })
    (s.sap.routes.filter (fun x => decide (x.route.kind = 2) && decide (x.route.part = pt))) s

/-- A write of a Strand input route has ended: a failure is a dropped flit (Table 07-2). -/
def streamAck (p : RtPut) (failed : Bool) (s : State) : State :=
  let s1 := { s with sap := { s.sap with puts := s.sap.puts.filter (fun x => decide (x.id ≠ p.id)) } }.dropReq p.id
  if failed then streamDrop (p.port % 8) s1 else s1

end Sys2Proof.Machine
end

