-- ==== Sys2Proof/Machine/Eth.lean ====
section
/-! DEFINITION. Ethernet ports, network time and stream entries (spec/14_host_network_memory.md R566 to R577; spec/opcode_table.json rows
ETH_MODE_TIMEOUT to PTP_SET, ETH_LINK_UP, GPTP_MESSAGE_TIMER). Message and PDU layouts are those of IEEE 802.1AS-2020 and IEEE
1722-2016, which the chapter names: PRESUMED (log entry 30). -/

namespace Sys2Proof.Machine

/-- Port p. -/
def State.ethPort (s : State) (p : Nat) : EthPort := smGet (fun _ => EthPort.init) s.eth.ports p

/-- Change port p. -/
def State.onEth (s : State) (p : Nat) (f : EthPort → EthPort) : State :=
  { s with eth := { s.eth with ports := smSet (fun _ => EthPort.init) s.eth.ports p (f (s.ethPort p)) } }

/-- Talker e. -/
def State.tk (s : State) (e : Nat) : EthTk := smGet (fun _ => EthTk.init) s.eth.tks e

/-- Replace talker e. -/
def State.setTk (s : State) (e : Nat) (t : EthTk) : State :=
  { s with eth := { s.eth with tks := smSet (fun _ => EthTk.init) s.eth.tks e t } }

/-- Listener e. -/
def State.ls (s : State) (e : Nat) : EthLs := smGet (fun _ => EthLs.init) s.eth.lss e

/-- Replace listener e. -/
def State.setLs (s : State) (e : Nat) (l : EthLs) : State :=
  { s with eth := { s.eth with lss := smSet (fun _ => EthLs.init) s.eth.lss e l } }

/-- Set flags of ETHp_STAT. -/
def ethFlag (p : Nat) (m : Word) (s : State) : State := s.orReg (aEthStat p) m

/-- n bytes from offset o as a number, most significant first. -/
def beAt (bs : List Byte) (o n : Nat) : Nat := beNat ((bs.drop o).take n)

/-! ## Link (R555, R566) -/

/-- The next mode that a port tries after mode k, of those ETHp_CAP permits: 10GBASE-R (3), 2.5GBASE-X (2), 1000BASE-X (1), and round
again. -/
def ethNext (cap : Word) (k : Nat) : Nat :=
  let order := if k = 3 then [2, 1, 3] else if k = 2 then [1, 3, 2] else [3, 2, 1]
  (order.find? (fun m => bit cap (m - 1))).getD 0

/-- Is the link up? -/
def State.ethUp (s : State) (p : Nat) : Bool := bit (s.reg (aEthMode p)) 4

/-- A port begins the cycle of modes. -/
def ethCycle (p : Nat) (s : State) : State :=
  s.onEth p (fun e => { e with try_ := if bit (s.reg (aEthCfg p)) 0 then ethNext (s.reg (aEthCap p)) 0 else 0 })

/-- A write of ETHp_CFG: en starts or ends the cycle. -/
def ethCfgWrite (p : Nat) (v : Word) (s : State) : State :=
  let was := bit (s.reg (aEthCfg p)) 0
  let s1 := s.setReg (aEthCfg p) (v &&& 7)
  if bit v 0 = was then s1
  else if was ∧ s.ethUp p = true then ethFlag p 0x100 (ethCycle p (s1.setReg (aEthMode p) 0))
  else ethCycle p s1

/-- ETH_MODE_TIMEOUT (R566): 20 ms without lock. -/
def execEthModeTimeout (p : Fin 2) (s : State) : Res :=
  .next (if bit (s.reg (aEthCfg p)) 0 = true ∧ s.ethUp p = false then
      s.onEth p (fun e => { e with try_ := ethNext (s.reg (aEthCap p)) e.try_ })
    else s)

/-- ETH_LINK_UP (R566): the port locks in the mode that it tries. -/
def execEthLinkUp (p : Fin 2) (s : State) : Res :=
  .next (if s.ethUp p = false ∧ (s.ethPort p).try_ ≠ 0 then
      ethFlag p 0x100 (s.setReg (aEthMode p) (BitVec.ofNat 32 ((s.ethPort p).try_ + 16)))
    else s)

/-! ## Station address and FIFOs (R575, R576) -/

/-- The station address, its first byte in ETHp_MAC_LO [7:0]. -/
def State.ethMac (s : State) (p : Nat) : List Byte := leBytes 4 (s.reg (aEthMacLo p)).toNat ++ leBytes 2 (s.reg (aEthMacHi p)).toNat

/-- CRC-32 of bytes, as the FCS is (IEEE 802.3). -/
def ethFcs (bs : List Byte) : Word := crc32 0xFFFFFFFF bs ^^^ 0xFFFFFFFF

/-- Is a destination accepted for the receive FIFO (R568 rule 4)? -/
def State.ethMine (s : State) (p : Nat) (da : List Byte) : Bool :=
  let h := fld (ethFcs da) 0 6
  decide (da = s.ethMac p) || decide (da = List.replicate 6 (0xFF : Byte)) || bit (s.reg (aEthCfg p)) 1 ||
  (((da.headD 0).toNat % 2 = 1) && bit (s.reg (if h < 32 then aEthMchashLo p else aEthMchashHi p)) (h % 32))

/-- Words of bytes, padded with zeros. -/
def bytesWords (bs : List Byte) : List Word :=
  (List.range ((bs.length + 3) / 4)).map (fun i => BitVec.ofNat 32 (leNat ((bs.drop (4 * i)).take 4)))

/-- ETHp_RX_LEVEL follows the receive FIFO. -/
def rxLevel (p : Nat) (s : State) : State := s.setReg (aEthRxLevel p) (BitVec.ofNat 32 (s.ethPort p).rx.length)

/-- A frame enters the receive FIFO behind its header word, or is dropped for want of room (R575). -/
def rxPush (p : Nat) (bs : List Byte) (s : State) : State :=
  let ws := BitVec.ofNat 32 bs.length :: bytesWords bs
  let used : Nat := (s.ethPort p).rx.foldl (fun a f => a + f.length) 0
  if used + ws.length ≤ 8192 then
    let s1 := rxLevel p (s.onEth p (fun e => { e with rx := e.rx ++ [ws] }))
    let c := s1.reg (aEthFifoCfg p)
    if bit c 8 then flagSet (fld c 0 6) s1 else s1
  else ethFlag p 0x1000 (s.incSat (aEthRxDrop p))

/-- A read of the ETHp_RXF window: the next word, or 0 (R575). -/
def rxfRead (p : Nat) (s : State) : State × Word :=
  match (s.ethPort p).rx with
  | [] => (s, 0)
  | [] :: _ => (s, 0)
  | (w :: ws) :: fs => (rxLevel p (s.onEth p (fun e => { e with rx := if ws.isEmpty then fs else ws :: fs })), w)

/-- RXF_READ (R575). -/
def execRxfRead (p : Fin 2) (s : State) : Res := .next (let r := rxfRead p s; { r.1 with rdata := r.2 })

/-- A write of ETHp_TXH (R576). -/
def txhWrite (p : Nat) (v : Word) (s : State) : State :=
  let n := fld v 0 11
  let e := s.ethPort p
  let used : Nat := e.txQ.foldl (fun a f => a + f.bytes.length) 0
  if 14 ≤ n ∧ n ≤ 1518 ∧ used + n ≤ 16384 then s.onEth p (fun e => { e with txCur := some (n, []) })
  else ethFlag p 0x2000 (s.onEth p (fun e => { e with txCur := none }))

/-- TXH_WRITE (R576). -/
def execTxhWrite (p : Fin 2) (v : Word) (s : State) : Res := .next (txhWrite p v s)

/-- A write of the ETHp_TXF window (R576): the accepted frame's next word; a whole frame, filled up to 60 bytes, waits to leave. -/
def txfWrite (p : Nat) (v : Word) (s : State) : State :=
  match (s.ethPort p).txCur with
  | none => s
  | some (n, bs) =>
    let bs := (bs ++ leBytes 4 v.toNat).take n
    if bs.length < n then s.onEth p (fun e => { e with txCur := some (n, bs) })
    else s.onEth p (fun e => { e with txCur := none, txQ := e.txQ ++ [{ talker := none, bytes := bs ++ List.replicate (60 - n) (0 : Byte) }] })

/-- TXF_WRITE (R576). -/
def execTxfWrite (p : Fin 2) (v : Word) (s : State) : Res := .next (txfWrite p v s)

/-! ## Network time (R569) -/

/-- The gPTP time of port p as last seen. -/
def State.ptpTime (s : State) (p : Nat) : BitVec 64 := (s.ethPort p).ptp.now + (s.ethPort p).ptp.adj

/-- The error of the Tide against gPTP time (R49, Table 02-3) in 2^-32 samples: the position that the time of port p asks for by
TIDE_ORG, less the Tide's. -/
def State.ptpError (s : State) (p : Nat) : Int :=
  let org : Int := (s.reg aTideOrgLo).toNat + (s.reg aTideOrgHi).toNat * 2 ^ 32
  (((s.ptpTime p).toNat : Int) - org) * (rateHz s.rate : Int) * 2 ^ 32 / 1000000000 - ((s.tide.count.toNat * 2 ^ 32 + s.tide.phase.toNat : Nat) : Int)

/-- The role of the port: 0 disabled, 1 slave, 2 grandmaster, 3 passive. -/
def State.ptpRole (s : State) (p : Nat) : Nat := fld (s.reg (aEthPtpStat p)) 1 2

/-- The port's clock identity: the EUI-64 of its station address (IEEE 802.1AS-2020). -/
def State.ptpId (s : State) (p : Nat) : List Byte := let m := s.ethMac p; m.take 3 ++ [0xFF, 0xFE] ++ m.drop 3

/-- The system identity of this port, which the best master clock algorithm compares: priority1, clockClass, clockAccuracy,
offsetScaledLogVariance, priority2, clock identity. -/
def State.ptpOwn (s : State) (p : Nat) : List Byte :=
  let c := s.reg (aEthPtpCfg p)
  let q := s.reg (aEthPtpQ p)
  [BitVec.ofNat 8 (fld c 8 8), BitVec.ofNat 8 (fld q 0 8), BitVec.ofNat 8 (fld q 8 8)] ++ beBytes 2 (fld q 16 16) ++
    [BitVec.ofNat 8 (fld c 16 8)] ++ s.ptpId p

/-- ETHp_PTP_STAT and the grandmaster's identity follow the algorithm; a change sets ptp_chg. A port that is not asCapable takes no part. A
port that becomes grandmaster takes a start time that waits. -/
def ptpElect (p : Nat) (s : State) : State :=
  let c := s.reg (aEthPtpCfg p)
  let g := (s.ethPort p).ptp
  let better := match g.best with | some b => !bit c 1 || decide (beNat b < beNat (s.ptpOwn p)) | none => false
  let role := if !bit c 0 || !bit (s.reg (aEthPtpStat p)) 0 then 0 else if better then 1 else if bit c 1 then 2 else 3
  let id : List Byte := if role = 1 then (match g.best with | some b => b.drop 6 | none => []) else if role = 2 then s.ptpId p else []
  let st := setFld (setFld (s.reg (aEthPtpStat p)) 1 2 role) 3 1 (if role = 1 ∨ role = 2 then 1 else 0)
  let s1 := ((s.setReg (aEthPtpStat p) st).setReg (aEthPtpGmidLo p) (BitVec.ofNat 32 (beNat id))).setReg (aEthPtpGmidHi p)
    (BitVec.ofNat 32 (beNat id / 2 ^ 32))
  let s2 := if st = s.reg (aEthPtpStat p) ∧ s1.reg (aEthPtpGmidLo p) = s.reg (aEthPtpGmidLo p) ∧ s1.reg (aEthPtpGmidHi p) = s.reg (aEthPtpGmidHi p)
    then s1 else ethFlag p 0x200 s1
  if role = 2 ∧ g.setDue = true then
    s2.onEth p (fun e => { e with ptp := { e.ptp with setDue := false, adj := (s2.reg (aEthPtpSetHi p) ++ s2.reg (aEthPtpSetLo p)) - e.ptp.now } })
  else s2

/-- Has an instant of the local clock come? -/
def dueBy (now : BitVec 64) (t : Option (BitVec 64)) : Bool := t.any (fun t => !(now - t).msb)

/-- The best other grandmaster is given up once its Announce or Sync has not come in time. -/
def ptpExpire (p : Nat) (s : State) : State :=
  let g := (s.ethPort p).ptp
  if g.best.isSome && (dueBy g.now g.annBy || dueBy g.now g.synBy) then
    ptpElect p (s.onEth p (fun e => { e with ptp := { e.ptp with best := none, sync := none, annBy := none, synBy := none } }))
  else s

/-- The local clock of the port's engine reads `now`. -/
def ptpNow (p : Nat) (now : BitVec 64) (s : State) : State :=
  ptpExpire p (s.onEth p (fun e => { e with ptp := { e.ptp with now := now } }))

/-- ETHp_PTP_STAT.asCapable takes a value; a change sets ptp_chg. -/
def setCapable (p : Nat) (v : Bool) (s : State) : State :=
  if bit (s.reg (aEthPtpStat p)) 0 = v then s else ptpElect p (ethFlag p 0x200 (s.setRegFld (aEthPtpStat p) 0 1 (b2n v)))

/-- The engine forgets its neighbour: the port is down, or the engine is disabled. -/
def ptpForget (p : Nat) (s : State) : State :=
  setCapable p false (s.onEth p (fun e => { e with ptp := { e.ptp with
    best := none, sync := none, exch := none, got := false, prev := none, lost := 0, annBy := none, synBy := none } }))

/-- A write of ETHp_PTP_CFG (R569). -/
def ptpCfgWritten (p : Nat) (s : State) : State := ptpElect p (if bit (s.reg (aEthPtpCfg p)) 0 then s else ptpForget p s)

/-- A loss of lock (R566); the shapers' credits are 0 again. -/
def ethLoss (p : Nat) (s : State) : State :=
  if s.ethUp p then
    ptpForget p ((ethFlag p 0x100 (ethCycle p (s.setReg (aEthMode p) 0))).onEth p (fun e => { e with crA := 0, crB := 0 }))
  else s

/-- ETH_LINK_LOSS (R566). -/
def execEthLinkLoss (p : Fin 2) (s : State) : Res := .next (ethLoss p s)

/-- A write of ETHp_PTP_SET_HI (R569): the grandmaster's time starts from the value written. -/
def ptpSet (p : Nat) (v : Word) (s : State) : State :=
  ptpElect p ((s.setReg (aEthPtpSetHi p) v).onEth p (fun e => { e with ptp := { e.ptp with setDue := true } }))

/-- PTP_SET (R569). -/
def execPtpSet (p : Fin 2) (v : Word) (now : BitVec 64) (s : State) : Res := .next (ptpSet p v (ptpNow p now s))

/-- A gPTP message: destination, source, EtherType, header with its type, sequence number and correction, then its body. -/
def State.ptpMsg (s : State) (p ty seq : Nat) (corr : Nat) (body : List Byte) : EthTx :=
  let len := 34 + body.length
  { talker := none
    bytes := [0x01, 0x80, 0xC2, 0x00, 0x00, 0x0E] ++ s.ethMac p ++ [0x88, 0xF7] ++
      [BitVec.ofNat 8 (0x10 + ty), 0x12] ++ beBytes 2 len ++ [0, 0] ++ [if ty = 0 ∨ ty = 3 then 2 else 0, 8] ++ beBytes 8 corr ++
      [0, 0, 0, 0] ++ s.ptpId p ++ [0, 1] ++ beBytes 2 seq ++ [5, if ty = 0 ∨ ty = 8 then 0xFD else if ty = 11 ∨ ty = 2 then 0 else 0x7F] ++ body }

/-- A PTP timestamp of a time in ns. -/
def ptpStamp (t : Nat) : List Byte := beBytes 6 (t / 1000000000) ++ beBytes 4 (t % 1000000000)

/-- A message waits in the port's first class. -/
def ptpQueue (p : Nat) (m : EthTx) (s : State) : State := s.onEth p (fun e => { e with ptpQ := e.ptpQ ++ [m] })

/-- The next sequence number of the engine's own messages. -/
def ptpSeq (p : Nat) (s : State) : State := s.onEth p (fun e => { e with ptp := { e.ptp with seq := (e.ptp.seq + 1) % 65536 } })

/-- A peer-delay request goes out. Ten in a row without an answer end asCapable. -/
def ptpRequest (p : Nat) (s : State) : State :=
  let g := (s.ethPort p).ptp
  let lost := if g.exch.isSome then g.lost + 1 else g.lost
  let s1 := s.onEth p (fun e => { e with ptp := { e.ptp with lost := lost, exch := some g.seq, got := false } })
  let s2 := if 9 < lost then setCapable p false s1 else s1
  ptpSeq p (ptpQueue p (s2.ptpMsg p 2 g.seq 0 (List.replicate 20 (0 : Byte))) s2)

/-- The engine's interval timer (R569): a peer-delay request (kind 0), and as grandmaster Announce (1) or Sync (2). -/
def ptpTimer (p kind : Nat) (s : State) : State :=
  if bit (s.reg (aEthPtpCfg p)) 0 = true ∧ s.ethUp p = true then
    let s1 := ptpElect p s
    let q := (s1.ethPort p).ptp.seq
    match kind with
    | 0 => ptpRequest p s1
    | 1 =>
      if s1.ptpRole p = 2 then
        let o := s1.ptpOwn p
        let body := List.replicate 12 (0 : Byte) ++ [0] ++ o.take 1 ++ (o.drop 1).take 4 ++ (o.drop 5).take 1 ++ o.drop 6 ++ [0, 0, 0xA0] ++
          [0, 8, 0, 8] ++ o.drop 6
        ptpSeq p (ptpQueue p (s1.ptpMsg p 11 q 0 body) s1)
      else s1
    | _ => if s1.ptpRole p = 2 then ptpSeq p (ptpQueue p (s1.ptpMsg p 0 q 0 (List.replicate 10 (0 : Byte))) s1) else s1
  else s

/-- GPTP_MESSAGE_TIMER (R569). -/
def execGptpMessageTimer (p : Fin 2) (kind : Fin 3) (now : BitVec 64) (s : State) : Res := .next (ptpTimer p kind (ptpNow p now s))

/-- ns of a PTP timestamp at an offset. -/
def ptpNs (b : List Byte) (o : Nat) : Nat := beAt b o 6 * 1000000000 + beAt b (o + 6) 4

/-- ns of a message interval, of which the header holds the logarithm; 1 s where it names none. -/
def logNs (b : Byte) : Nat :=
  let l := b.toInt
  if 0 ≤ l ∧ l ≤ 22 then 1000000000 * 2 ^ l.toNat else if -22 ≤ l ∧ l < 0 then 1000000000 / 2 ^ (-l).toNat else 1000000000

/-- The instant at which three intervals of a message that has just come have gone by. -/
def State.threeOn (s : State) (p : Nat) (m : List Byte) : Option (BitVec 64) :=
  some ((s.ethPort p).ptp.now + BitVec.ofNat 64 (3 * logNs (m.getD 33 0)))

/-- A Sync of port p is a reference update of a Tide that is locked to it (R52, R569): the Tide's error is taken. -/
def ptpRef (p : Nat) (s : State) : State :=
  s.onEth p (fun e => { e with ptp := { e.ptp with ref := some (s.ptpError p) } })

/-- The offset from the grandmaster at a Sync that arrived at local time `rx`, whose corrected origin is `org`: the gPTP time follows
the grandmaster's (R569). -/
def ptpFollow (p : Nat) (rx : BitVec 64) (org : Nat) (s : State) : State :=
  let want := BitVec.ofNat 64 (org + (s.reg (aEthPtpPdelay p)).toNat)
  let ofs := rx + (s.ethPort p).ptp.adj - want
  ptpRef p ((s.setReg (aEthPtpOfs p) (ofs.truncate 32)).onEth p (fun e => { e with ptp := { e.ptp with adj := want - rx, sync := none } }))

/-- The mean link delay of a peer-delay exchange with departure t3 at the far end, by the ratio of the far end's clock to the local one over
the time since the exchange before. -/
def Gptp.delay (g : Gptp) (t3 : Nat) : Nat :=
  let d4 := (g.t4 - g.t1).toInt
  let there : Int := (t3 : Int) - g.t2.toInt
  let round := match g.prev with
    | some (q3, q4) => if 0 < (g.t4 - q4).toInt then d4 * ((t3 : Int) - (q3 : Int)) / (g.t4 - q4).toInt else d4
    | none => d4
  ((round - there) / 2).toNat

/-- Is a message an answer to the port's peer-delay request (R569): its sequence number, and its requesting port identity? -/
def State.ptpAnswers (s : State) (p : Nat) (m : List Byte) : Bool :=
  decide ((s.ethPort p).ptp.exch = some (beAt m 30 2)) && decide ((m.drop 44).take 10 = s.ptpId p ++ [0, 1])

/-- A gPTP message arrives; `m` begins at its header, and the arrival time is the engine's `now` less the ingress correction. -/
def ptpReceive (p : Nat) (m : List Byte) (s : State) : State :=
  let lat := s.reg (aEthPtpLat p)
  let g := (s.ethPort p).ptp
  let rx := g.now - BitVec.ofNat 64 (fld lat 16 16)
  let seq := beAt m 30 2
  let corr := beAt m 8 8 / 65536
  if !bit (s.reg (aEthPtpCfg p)) 0 || decide (m.getD 4 0 ≠ 0) then s
  else
    match beAt m 0 1 % 16 with
    | 0 => if s.ptpRole p ≠ 1 then s
           else
             let s1 := s.onEth p (fun e => { e with ptp := { e.ptp with synBy := s.threeOn p m } })
             if (beAt m 6 1).testBit 1 then s1.onEth p (fun e => { e with ptp := { e.ptp with sync := some (rx, seq) } })
             else ptpFollow p rx (ptpNs m 34 + corr) s1
    | 8 => (match g.sync with
            | some (t, q) => if q = seq ∧ s.ptpRole p = 1 then ptpFollow p t (ptpNs m 34 + corr) s else s
            | none => s)
    | 2 =>
      let t2 := ptpStamp rx.toNat
      ptpQueue p (s.ptpMsg p 3 seq 0 (t2 ++ (m.drop 20).take 10)) s
    | 3 =>
      if s.ptpAnswers p m then s.onEth p (fun e => { e with ptp := { e.ptp with t2 := BitVec.ofNat 64 (ptpNs m 34), t4 := rx, got := true } })
      else s
    | 10 =>
      if s.ptpAnswers p m && g.got then
        let s1 := (s.setReg (aEthPtpPdelay p) (BitVec.ofNat 32 (g.delay (ptpNs m 34)))).onEth p (fun e => { e with ptp := { e.ptp with
          exch := none, got := false, lost := 0, prev := some (ptpNs m 34, g.t4) } })
        setCapable p true s1
      else s
    | 11 =>
      if !bit (s.reg (aEthPtpStat p)) 0 || decide ((m.drop 20).take 8 = s.ptpId p) || decide (255 ≤ beAt m 61 2) then s
      else
        let v := (m.drop 47).take 6 ++ (m.drop 53).take 8
        let keep := match g.best with | some b => decide (beNat b < beNat v) && decide (b.drop 6 ≠ v.drop 6) | none => false
        let same := decide (g.best.map (fun b => b.drop 6) = some (v.drop 6))
        ptpElect p (if keep then s else s.onEth p (fun e => { e with ptp := { e.ptp with
          best := some v, annBy := s.threeOn p m, synBy := if same then g.synBy else none } }))
    | _ => s

/-! ## Stream entries (R570 to R574) -/

/-- Fields of an entry's CFG (Table 14-9). -/
def enCh (c : Word) : Nat := fld c 4 6 + 1
/-- Samples per PDU. -/
def enSpp (c : Word) : Nat := fld c 10 6 + 1
/-- The partition served. -/
def enPart (c : Word) : Nat := fld c 16 5
/-- The port. -/
def enPort (c : Word) : Nat := fld c 1 1
/-- Is the entry CRF? -/
def enCrf (c : Word) : Bool := bit c 2
/-- Bytes of a sample on the wire. -/
def enBytes (c : Word) : Nat := if bit c 3 then 4 else 3

/-- m × N of the partition that an entry serves; m is 1 where no partition is pitched. -/
def State.enLen (s : State) (c : Word) : Nat :=
  (match s.part? (enPart c) with | some p => 2 ^ p.fmul | none => 1) * s.tide.nNow

/-- The judgement of R574 on a CFG that sets en. -/
def State.enOk (s : State) (c : Word) : Bool :=
  (if enCrf c then decide (enCh c = 1) else true) && decide (s.enLen c % enSpp c = 0) &&
  decide (24 + enSpp c * enCh c * enBytes c ≤ 1476)

/-- A listener that is enabled takes its ring from the partition's next frame on (R494). -/
def lsEnable (e : Nat) (c : Word) (s : State) : State :=
  let st := (s.pt (enPart c)).start
  let nb := fld c 24 6 + 1
  (s.setLs e { EthLs.init with idx := nb - 1, start := st, first := st + s.enLen c }).setReg (aEthLsStat e) (BitVec.ofNat 32 (nb - 1))

/-- A write of ETH_TKs_CFG or ETH_LSs_CFG (R574). -/
def entryCfgWrite (talker : Bool) (e : Nat) (v : Word) (s : State) : State :=
  let a := if talker then aEthTkCfg e else aEthLsCfg e
  let old := s.reg a
  let v := v &&& (if talker then 0x007FFFFF else 0x3F1FFFFF)
  let bad := ethFlag (enPort (if bit old 0 then old else v)) 0x4000 s
  if bit old 0 then
    if old ||| 1 ≠ v ||| 1 then bad else s.setReg a v
  else if bit v 0 then
    if s.enOk v then
      let s1 := s.setReg a v
      if talker then s1.setTk e EthTk.init else lsEnable e v s1
    else bad
  else s.setReg a v

/-- STREAM_ENTRY_CFG_WRITE (R574). -/
def execStreamEntryCfgWrite (talker : Bool) (e : Fin 64) (v : Word) (s : State) : Res := .next (entryCfgWrite talker e v s)

/-- Count n in a field of an entry, with ETHp_STAT.stream (Table 14-9). -/
def enCount (port a lo w n : Nat) (s : State) : State := if n = 0 then s else ethFlag port 0x400 (s.incFld a lo w n)

/-- The gPTP time in ns of the boundary of sample count c (R571, R572): TIDE_ORG + c × 10⁹ / Fs, to the nearest ns. -/
def State.countTime (s : State) (c : Nat) : Nat :=
  let org := (s.reg aTideOrgLo).toNat + (s.reg aTideOrgHi).toNat * 2 ^ 32
  let fs := rateHz s.rate
  org + (2 * c * 1000000000 + fs) / (2 * fs)

/-- The sample count at a gPTP time (R572). -/
def State.timeCount (s : State) (t : Int) : Int :=
  let org : Int := (s.reg aTideOrgLo).toNat + (s.reg aTideOrgHi).toNat * 2 ^ 32
  ((t - org) * 2 * (rateHz s.rate : Int) + 1000000000) / 2000000000

/-- Is TIDE_REF.src = 3 and sel = p, and the Tide LOCKED, or in HOLDOVER (R571, R572)? -/
def State.ethTide (s : State) (p : Nat) (hold : Bool) : Bool :=
  decide (fld (s.reg aTideRef) 0 4 = 3) && decide (fld (s.reg aTideRef) 4 6 = p) && (decide (s.tide.lock = .locked) || (hold && decide (s.tide.lock = .holdover)))

/-- Nominal sample rate code of IEEE 1722-2016. -/
def nsrCode (rate : Nat) : Nat := match rate with | 0 => 4 | 1 => 5 | 2 => 6 | 3 => 7 | 4 => 8 | _ => 9

/-- The Ethernet header of an entry's PDU: destination, source, C-tag, EtherType. -/
def State.tkHeader (s : State) (e p : Nat) (cls : Bool) : List Byte :=
  let pcp := fld (s.reg (if cls then aEthCbsB p else aEthCbsA p)) 24 3
  leBytes 4 (s.reg (aEthTkDaLo e)).toNat ++ leBytes 2 (s.reg (aEthTkDaHi e)).toNat ++ s.ethMac p ++ [0x81, 0x00] ++
    beBytes 2 (pcp * 2 ^ 13 + fld (s.reg (aEthTkVlan e)) 0 12) ++ [0x22, 0xF0]

/-- The stream ID of an entry. -/
def streamId (lo hi : Word) : List Byte := beBytes 8 (lo.toNat + hi.toNat * 2 ^ 32)

/-- A PDU waits in its class; PDUs of the talker's earlier frames that have not left are dropped before. -/
def tkQueue (p : Nat) (cls : Bool) (x : EthTx) (s : State) : State :=
  s.onEth p (fun q => if cls then { q with bQ := q.bQ ++ [x] } else { q with aQ := q.aQ ++ [x] })

/-- PDUs of talker e still waiting are not sent, and counted (ETH_TKs_DROP). -/
def tkDrop (e p : Nat) (s : State) : State :=
  let mine := fun (x : EthTx) => decide (x.talker = some e)
  let q := s.ethPort p
  let n := (q.aQ.filter mine).length + (q.bQ.filter mine).length
  enCount p (aEthTkDrop e) 0 32 n (s.onEth p (fun q => { q with aQ := q.aQ.filter (fun x => !mine x), bQ := q.bQ.filter (fun x => !mine x) }))

/-- The container of channel c, sample i, of the output that talker e sends: from memory, or the bridge (R436). -/
def State.tkSample (s : State) (base ch len : Nat) (bridge : Bool) (last : List Word) (i c : Nat) : Word :=
  if bridge then sapScale (last.getD c 0) 32 (len - 1 - i) len
  else match s.routeRead (base + (i * ch + c) * 4) 4 with
    | some b => BitVec.ofNat 32 (leNat b)
    | none => 0

/-- Partition frames of entry c that have begun since the last fire of its partition's compare: more than 0 while nothing fires (a partial
re-pitch, a shed partition, SHORE). -/
def State.pdusGone (s : State) (t : PtRun) (c : Word) : Nat := (s.tide.count.toNat - t.start) / max 1 (s.enLen c)

/-- AAF_TALKER_SEND (R570, R571): the PDUs of the partition frame just committed wait in the talker's class; a frame without work
carries the bridge from the last samples, which is zeros once they are. -/
def aafSend (e : Nat) (s : State) : State :=
  let c := s.reg (aEthTkCfg e)
  match s.part? (enPart c) with
  | none => s
  | some pa =>
    let t := s.pt pa.part
    let tk := s.tk e
    let len := s.enLen c
    let gone := s.pdusGone t c
    let start := t.start + gone * len
    if !bit c 0 || enCrf c || decide (tk.done = start + 1) || (t.inFrame && !t.committed) then s
    else
      let p := enPort c
      let cls := bit c 22
      let ch := enCh c
      let spp := enSpp c
      let br := !t.inFrame || bit (s.reg (aBwtrPtCwHi pa.part)) 2 || decide (0 < gone)
      let base := s.pair (aEthTkAddr e) (aEthTkAddrHi e) + (if bit c 21 then pa.ebbBase (s.ptEbb pa.part) else 0)
      let tv := s.ethTide p true
      let s0 := if br then s else s.wakeSpan (s.plain (s.routeAddr base)) (len * ch * 4)
      let pdu := fun (j : Nat) =>
        let c0 := start + spp * j + len
        let ts := (s.countTime c0 + (s.reg (aEthTkLat e)).toNat) % 2 ^ 32
        let pay := (List.range spp).flatMap (fun i => (List.range ch).flatMap (fun k =>
          let v := s0.tkSample base ch len br tk.last (spp * j + i) k
          if bit c 3 then beBytes 4 v.toNat else beBytes 3 (v.toNat / 256)))
        ({ talker := some e
           bytes := s.tkHeader e p cls ++ [0x02, if tv then 0x81 else 0x80, BitVec.ofNat 8 (tk.seq + j), 0] ++
             streamId (s.reg (aEthTkSidLo e)) (s.reg (aEthTkSidHi e)) ++ beBytes 4 ts ++ [if bit c 3 then 0x02 else 0x03] ++
             beBytes 2 (nsrCode s.rate * 4096 + ch) ++ [if bit c 3 then 32 else 24] ++ beBytes 2 pay.length ++ [0, 0] ++ pay } : EthTx)
      let s1 := foldS (fun j s => tkQueue p cls (pdu j) s) (List.range (len / spp)) (tkDrop e p s0)
      s1.setTk e { seq := (tk.seq + len / spp) % 256, done := start + 1
                   last := (List.range ch).map (fun k => s0.tkSample base ch len br tk.last (len - 1) k) }

/-- AAF_TALKER_SEND (R570). -/
def execAafTalkerSend (e : Fin 64) (s : State) : Res := .next (aafSend e s)

/-- CRF_TALKER_SEND (R573): one PDU each tide frame. -/
def crfSend (e : Nat) (s : State) : State :=
  let c := s.reg (aEthTkCfg e)
  let tk := s.tk e
  let f := s.tide.frameStart.toNat
  if !bit c 0 || !enCrf c || decide (tk.done = f + 1) then s
  else
    let p := enPort c
    let cls := bit c 22
    let t := s.countTime f + (s.reg (aEthTkLat e)).toNat
    let pdu : EthTx :=
      { talker := some e
        bytes := s.tkHeader e p cls ++ [0x04, 0x80, BitVec.ofNat 8 tk.seq, 1] ++ streamId (s.reg (aEthTkSidLo e)) (s.reg (aEthTkSidHi e)) ++
          beBytes 4 (rateHz s.rate) ++ beBytes 2 8 ++ beBytes 2 s.tide.nNow ++ beBytes 8 t }
    (tkQueue p cls pdu (tkDrop e p s)).setTk e { tk with seq := (tk.seq + 1) % 256, done := f + 1 }

/-- CRF_TALKER_SEND (R573). -/
def execCrfTalkerSend (e : Fin 64) (s : State) : Res := .next (crfSend e s)

/-- Write a listener's bytes; an access that fails is dropped. -/
def lsWrite (a : Nat) (bs : List Byte) (s : State) : State :=
  foldS (fun e s => match s.access false true (s.routeAddr e.1) e.2 with
    | .mem r b =>
      if s.stagingHeld && s.inStaging b e.2 then s
      else ((s.wakeFor (.mem r b)).storeAt (.mem r b) ((bs.drop (e.1 - a)).take e.2)).touchStaging b e.2
    | _ => s) (beats (bs.length + 1) a bs.length) s

/-- One sample of a listener's PDU, for count c: late, early, or written into its ring buffer (R572). -/
def lsSample (e : Nat) (cfg : Word) (len : Nat) (c : Int) (pay : List Byte) (s : State) : State :=
  let l := s.ls e
  let p := enPort cfg
  let q : Int := c - 2 * (len : Int)
  let nb := fld cfg 24 6 + 1
  if q < l.start ∨ q < l.first ∨ len = 0 then enCount p (aEthLsLate e) 0 16 1 s
  else
    let d := (q.toNat - l.start) / len
    if nb < d + 2 then enCount p (aEthLsLate e) 16 16 1 s
    else
      let ch := enCh cfg
      let w := enBytes cfg
      let i := (q.toNat - l.start) % len
      let a := s.pair (aEthLsAddr e) (aEthLsAddrHi e) + (l.idx + d) % nb * (s.reg (aEthLsStride e)).toNat + i * ch * 4
      let bs := (List.range ch).flatMap (fun k =>
        let v := beAt pay (k * w) w
        leBytes 4 (if bit cfg 3 then v else v * 256))
      (lsWrite a bs s).setLs e { l with got := if l.got.contains q.toNat then l.got else l.got ++ [q.toNat] }

/-- A CRF timestamp reaches a listener that is the Tide's reference (R573): the error of the sample phase, as the Tide's position at that
gPTP time should be a sample boundary, waits for its reference update. -/
def crfTake (e p t : Nat) (s : State) : State :=
  if (s.refSrc = 4 ∧ s.refSel = e) ∨ (fld (s.reg aTideRef) 0 4 = 4 ∧ fld (s.reg aTideRef) 4 6 = e) then
    let at_ : Int := (s.tidePos : Int) + ((t : Int) - ((s.ptpTime p).toNat : Int)) * (rateHz s.rate : Int) * 2 ^ 32 / 1000000000
    { s with eth := { s.eth with crf := s.eth.crf ++ [(e, (BitVec.ofInt 32 (-at_)).toInt)] } }
  else s

/-- An AVTP PDU `m` reaches listener e (R572, R573): of an accepted one, every whole sample. -/
def lsReceive (e : Nat) (m : List Byte) (s : State) : State :=
  let cfg := s.reg (aEthLsCfg e)
  let p := enPort cfg
  let l := s.ls e
  let seq := beAt m 2 1
  let gap := match l.seq with | some q => decide ((q + 1) % 256 ≠ seq) | none => false
  let s1 := (if gap then enCount p (aEthLsErr e) 16 16 1 s else s).setLs e { l with seq := some seq }
  if enCrf cfg then
    if beAt m 0 1 = 4 ∧ beAt m 3 1 = 1 ∧ beAt m 12 4 % 2 ^ 29 = rateHz s.rate then
      foldS (fun i => crfTake e p (beAt m (20 + 8 * i) 8)) (List.range (beAt m 16 2 / 8)) s1
    else enCount p (aEthLsErr e) 0 16 1 s1
  else
    let ch := enCh cfg
    let w := enBytes cfg
    let fmtOk := decide (beAt m 0 1 = 2) && decide (beAt m 16 1 = (if bit cfg 3 then 2 else 3)) && decide (beAt m 17 2 % 1024 = ch)
    let n := min (beAt m 20 2) (m.length - 24) / (ch * w)
    if !fmtOk then enCount p (aEthLsErr e) 0 16 1 s1
    else if (beAt m 1 1).testBit 0 = false ∨ s.ethTide p false = false then enCount p (aEthLsMiss e) 16 16 1 s1
    else
      let ts := beAt m 12 4
      let now := (s.ptpTime p).toNat
      let base := now / 2 ^ 32 * 2 ^ 32 + ts
      let pt : Int := if base + 2 ^ 31 < now then base + 2 ^ 32 else if now + 2 ^ 31 < base then (base : Int) - 2 ^ 32 else base
      let c0 := s.timeCount pt
      let len := s.enLen cfg
      foldS (fun (j : Nat) s => lsSample e cfg len (c0 + (j : Nat)) ((m.drop (24 + j * ch * w)).take (ch * w)) s) (List.range n) s1

/-- LISTENER_FILL (R572): 2 µs before the boundary of partition pt, its listeners write 0 for the samples that no PDU supplied. -/
def listenerFill (pt : Nat) (s : State) : State :=
  foldS (fun e s =>
    let cfg := s.reg (aEthLsCfg e)
    if !bit cfg 0 || enCrf cfg || decide (enPart cfg ≠ pt) then s
    else
      let l := s.ls e
      let len := s.enLen cfg
      let ch := enCh cfg
      let miss := (List.range len).filter (fun i => decide (l.first ≤ l.start + i) && !l.got.contains (l.start + i))
      let a := s.pair (aEthLsAddr e) (aEthLsAddrHi e) + l.idx * (s.reg (aEthLsStride e)).toNat
      enCount (enPort cfg) (aEthLsMiss e) 0 16 miss.length
        (foldS (fun i s => lsWrite (a + i * ch * 4) (List.replicate (ch * 4) (0 : Byte)) s) miss s)) (List.range 64) s

/-- LISTENER_FILL (R572). -/
def execListenerFill (pt : Fin 32) (s : State) : Res := .next (listenerFill pt s)

/-- A partition frame begins: the rings of the partition's listeners move on (R494). -/
def ethFrameStart (pt : Nat) (s : State) : State :=
  foldS (fun e s =>
    let cfg := s.reg (aEthLsCfg e)
    if !bit cfg 0 || decide (enPart cfg ≠ pt) then s
    else
      let l := s.ls e
      let nb := fld cfg 24 6 + 1
      let i := (l.idx + 1) % nb
      (s.setLs e { l with idx := i, start := s.tide.count.toNat, got := l.got.filter (fun q => decide (s.tide.count.toNat ≤ q)) }).setReg
        (aEthLsStat e) (BitVec.ofNat 32 i)) (List.range 64) s

/-! ## Frames (R567, R568) -/

/-- ETH_FRAME_RECEIVE (R568): a frame without its FCS arrives, `bad` where its FCS is; the engine's local clock reads `now`. -/
def ethReceive (p : Nat) (bs : List Byte) (bad : Bool) (s : State) : State :=
  if !s.ethUp p then s
  else if bad || decide (bs.length < 60) || decide (1518 < bs.length) then s.incSat (aEthRxBad p)
  else
    let ty0 := beAt bs 12 2
    let tag := if ty0 = 0x8100 then 4 else 0
    let ty := beAt bs (12 + tag) 2
    let m := bs.drop (14 + tag)
    if ty0 = 0x88F7 then ptpReceive p (bs.drop 14) s
    else
      let lst := if ty = 0x22F0 then
          (List.range 64).find? (fun e =>
            let c := s.reg (aEthLsCfg e)
            bit c 0 && decide (enPort c = p) && decide ((m.drop 4).take 8 = streamId (s.reg (aEthLsSidLo e)) (s.reg (aEthLsSidHi e))))
        else none
      match lst with
      | some e => lsReceive e m s
      | none =>
        if s.ethMine p (bs.take 6) = true ∧ ty0 ≠ 0x8808 ∧ (ty ≠ 0x22F0 ∨ bit (s.reg (aEthCfg p)) 2 = true) then rxPush p bs s
        else s.incSat (aEthRxDrop p)

/-- ETH_FRAME_RECEIVE (R568). -/
def execEthFrameReceive (p : Fin 2) (bytes : List Byte) (bad : Bool) (now : BitVec 64) (s : State) : Res :=
  .next (ethReceive p bytes bad (ptpNow p now s))

/-- A frame leaves the port with its FCS. -/
def ethOut (p : Nat) (x : EthTx) (s : State) : State :=
  let body := x.bytes ++ List.replicate (60 - x.bytes.length) (0 : Byte)
  let s1 := s.onEth p (fun e => { e with out := body ++ leBytes 4 (ethFcs body).toNat })
  match x.talker with
  | some e => enCount p (aEthTkCnt e) 0 32 1 s1
  | none => s1

/-- A gPTP message has left: its departure time is noted, and a two-step message is followed up (R569). A Sync sent is a reference
update. -/
def ptpSent (p : Nat) (x : EthTx) (s : State) : State :=
  let m := x.bytes.drop 14
  let tx := (s.ethPort p).ptp.now + BitVec.ofNat 64 (fld (s.reg (aEthPtpLat p)) 0 16)
  let seq := beAt m 30 2
  match beAt m 0 1 % 16 with
  | 0 => ptpRef p (ptpQueue p
      (s.ptpMsg p 8 seq 0 (ptpStamp (tx + (s.ethPort p).ptp.adj).toNat ++ [0, 3, 0, 28, 0, 0x80, 0xC2, 0, 0, 1] ++ List.replicate 22 (0 : Byte))) s)
  | 2 => s.onEth p (fun e => { e with ptp := { e.ptp with t1 := tx } })
  | 3 => ptpQueue p (s.ptpMsg p 10 seq 0 (ptpStamp tx.toNat ++ (m.drop 44).take 10)) s
  | _ => s

/-- The rate of a port's mode in kb/s (R566). -/
def ethRate (mode : Word) : Nat := match fld mode 0 2 with | 1 => 1000000 | 2 => 2500000 | _ => 10000000

/-- The credit of a class after it has gained for `ns` at its idle slope; a class with nothing to send keeps none (R567). -/
def creditGain (slope ns : Nat) (q : List EthTx) (c : Int) : Int :=
  let d := c + (slope * ns : Nat)
  if q.isEmpty then min d 0 else d

/-- The credit of a class after it has sent a frame: its send slope is its idle slope less the port rate (R567). -/
def creditSpend (slope rate : Nat) (x : EthTx) (c : Int) : Int :=
  c + ((slope : Int) - (rate : Int)) * (((max 60 x.bytes.length + 24) * 8 * 1000000 : Nat) : Int) / (rate : Int)

/-- The credits of a port's classes when its clock reads what it does now: class A has gained for `gainA` ns, class B for `gainB`, of the time
since they were last accounted. -/
def ethCredit (p gainA gainB : Nat) (s : State) : State :=
  let q := s.ethPort p
  let el := (q.ptp.now - q.paid).toNat
  s.onEth p (fun e => { e with
    paid := q.ptp.now
    crA := creditGain (fld (s.reg (aEthCbsA p)) 0 24) (min gainA el) q.aQ q.crA
    crB := creditGain (fld (s.reg (aEthCbsB p)) 0 24) (min gainB el) q.bQ q.crB })

/-- ETH_FRAME_SEND (R567): the next frame in strict order; a class of streams sends only while its shaper's credit is not negative. -/
def ethSend (p gainA gainB : Nat) (s : State) : State :=
  if !s.ethUp p then s
  else
    let s0 := ethCredit p gainA gainB s
    let q := s0.ethPort p
    let rate := ethRate (s.reg (aEthMode p))
    match q.ptpQ, (if 0 ≤ q.crA then q.aQ else []), (if 0 ≤ q.crB then q.bQ else []), q.txQ with
    | x :: r, _, _, _ => ptpSent p x (ethOut p x (s0.onEth p (fun e => { e with ptpQ := r })))
    | [], x :: r, _, _ => ethOut p x (s0.onEth p (fun e => { e with aQ := r, crA := creditSpend (fld (s.reg (aEthCbsA p)) 0 24) rate x q.crA }))
    | [], [], x :: r, _ => ethOut p x (s0.onEth p (fun e => { e with bQ := r, crB := creditSpend (fld (s.reg (aEthCbsB p)) 0 24) rate x q.crB }))
    | [], [], [], x :: r => ethOut p x (s0.onEth p (fun e => { e with txQ := r }))
    | [], [], [], [] => s0

/-- ETH_FRAME_SEND (R567): how long each class has gained credit, time decides (DESIGN CHOICE, log entry 230). -/
def execEthFrameSend (p : Fin 2) (gainA gainB : Nat) (now : BitVec 64) (s : State) : Res := .next (ethSend p gainA gainB (ptpNow p now s))

/-- ETHp_STAT with rx_frame (Table 14-8). -/
def State.ethStat (s : State) (p : Nat) : Word := s.reg (aEthStat p) ||| (if (s.ethPort p).rx.isEmpty then 0 else 0x800)

end Sys2Proof.Machine
end

