-- ==== Sys2Proof/Machine/BwRows.lean ====
section
/-! DEFINITION. The commands of Breakwater (spec/opcode_table.json rows WATCHDOG_FIRE to INJECTED_FAULT_RAISE,
spec/10_breakwater.md). A command whose event cannot come about in a state leaves the state as it is. -/

namespace Sys2Proof.Machine

/-- A frame watchdog fires on logical core l of partition p in slot k (R408, R422). -/
def watchdog (p : Part) (l k : Nat) (s : State) : State :=
  let x := s.lc l
  let s1 := s.setLc l { x with wdFired := true, inj := if x.inj = some 5 then none else x.inj }
  if p.cls ≠ 0 then coreFault 5 k 0 s1
  else
    let n := x.overruns + 1
    let s2 := cevt (l / 8) 0x80 (s1.setLc l { s1.lc l with overruns := n })
    let lim := fld (s.reg aBwtrCfg) 0 4
    let done := (s.pt p.part).committed
    let s3 := if lim ≠ 0 ∧ lim ≤ n then coreFault 5 k 0 s2
      else logEvent k { det := 5, out := if done then 2 else 1, lcore := l, oslot := k % 9, nslot := k % 9, addr := 0, tko := false
                        rpt := false } s2
    let s4 := if done then s3 else s3.setPt p.part { s3.pt p.part with failed := true }
    foldS (fun j s => if (s.lc j).ready then s else stopAsDone j s) p.lcores s4

/-- WATCHDOG_FIRE after dt CCLK (R408, R452): the count is at the budget, and the core is not done in a frame not yet committed or an
injected code 5 waits. -/
def watchdogFire (l dt : Nat) (s : State) : State :=
  match s.slotOf l, s.partOf l with
  | some k, some p =>
    let s1 := advance (Fin.ofNat 144 k) dt s
    let r := s.pt p.part
    if p.budget ≤ s1.wdCount k ∧ r.inFrame = true ∧ (s.lc l).wdFired = false ∧ s.inService k = true ∧ (s.core k).fenced = false ∧
        ((r.committed = false ∧ (s.lc l).ready = false ∧ s1.coreDone k p.part = false) ∨
          ((s.lc l).inj = some 5 ∧ s.wdCount k < p.budget)) then
      watchdog p l k s1
    else s
  | _, _ => s

/-- WATCHDOG_FIRE (R408). -/
def execWatchdogFire (lcore : Fin 128) (dt : Nat) (s : State) : Res := .next (watchdogFire lcore dt s)

/-- COMMIT_DEADLINE (R409): cores not done stop, and the frame fails. -/
def commitDeadline (n : Nat) (s : State) : State :=
  match s.part? n with
  | none => s
  | some p =>
    let r := s.pt n
    if s.ptShed n ∨ r.inFrame = false ∨ r.committed = true then s
    else
      let late := p.lcores.filter (fun l => !s.lcDone n l)
      if late.isEmpty ∧ r.awaiting = false then s
      else
        let s1 := if r.awaiting then s.notReplayed n else s
        foldS (fun l s => stopAsDone l s) late (s1.setPt n { s1.pt n with failed := true, awaiting := false })

/-- COMMIT_DEADLINE (R409). -/
def execCommitDeadline (pt : Fin 32) (s : State) : Res := .next (commitDeadline pt s)

/-- COMMIT (R409, R410): once every core of the partition is done, while SYSCLK runs (R634). -/
def commitRow (n : Nat) (s : State) : State :=
  match s.part? n with
  | none => s
  | some p => if s.fclkRuns = true ∧ s.ptShed n = false ∧ p.lcores.all (fun l => s.lcDone n l) = true then commitFrame p s else s

/-- COMMIT (R410). -/
def execCommit (pt : Fin 32) (s : State) : Res := .next (commitRow pt s)

/-- A core fault of a slot in service that is found dt CCLK on (R419, R420). -/
def faultAfter (det k addr dt : Nat) (s : State) : State :=
  if s.inService k = true ∧ (s.lcoreOf k).isSome then coreFault det k addr (advance (Fin.ofNat 144 k) dt s) else s

/-- The note of an uncorrectable error of a slot's access at a word is taken up; none where there is no such note. -/
def takeNote (k a : Nat) (s : State) : Option State :=
  (s.bw.notes.find? (fun n => decide (n.1 = k) && decide (n.2 / 8 = a / 8))).map
    (fun n => { s with bw := { s.bw with notes := s.bw.notes.erase n } })

/-- LOCAL_UE_DETECT (R419 code 1): Breakwater handles the uncorrectable error that an access of the core to its own local memory met
(R322), whatever the kind of the access. -/
def execLocalUeDetect (slot : Fin 144) (addr : BitVec 44) (_kind : Fin 3) (dt : Nat) (s : State) : Res :=
  let a := s.plain addr.toNat / 8 * 8
  .next (match s.isOwn slot a, takeNote slot a s with
    | true, some s1 => faultAfter 1 slot a dt s1
    | _, _ => s)

/-- PARITY_DETECT (R419 code 3). -/
def execParityDetect (slot : Fin 144) (dt : Nat) (s : State) : Res := .next (faultAfter 3 slot 0 dt s)

/-- RESIDUE_MISMATCH (R419 code 4). -/
def execResidueMismatch (slot : Fin 144) (dt : Nat) (s : State) : Res := .next (faultAfter 4 slot 0 dt s)

/-- STATE_FAULT (R423): Breakwater handles the uncorrectable error that a read of the core met at a word beyond its own local memory. -/
def noteTaken (l a dt : Nat) (s : State) : State :=
  match s.slotOf l with
  | none => s
  | some k =>
    match s.isOwn k a, takeNote k a s with
    | false, some s1 => stateFault l a (advance (Fin.ofNat 144 k) dt s1)
    | _, _ => s

/-- STATE_FAULT (R423). A posted write's is handled at its fault response (R425). -/
def execStateFault (lcore : Fin 128) (addr : BitVec 44) (dt : Nat) (s : State) : Res := .next (noteTaken lcore addr.toNat dt s)

/-- What Breakwater's reads of the code copy find (R321, R322): corrected words are counted, uncorrectable ones logged. -/
def copyEcc (c : CodeRec) (errs : List (Nat × Bool)) (s : State) : State :=
  foldS (fun e s => let a := c.copy + 8 * e.1
    if c.itcmLen ≤ 8 * e.1 then s else if e.2 then s.logUe .breakwater .load a else s.countCe true a) errs s

/-- The code of logical core l reaches the I-TCM of slot k from its copy. A word whose read fails delivers no data, and its I-TCM word is not
written (R322; DESIGN CHOICE, log entry 228). -/
def copyCode (l k : Nat) (errs : List (Nat × Bool)) (s : State) : State :=
  match s.codeOf l with
  | some c =>
    let s1 := copyEcc c errs (s.wakeSpan c.copy c.itcmLen)
    foldS (fun e s => let a := itcmBase k + 8 * e.1
        if c.itcmLen ≤ 8 * e.1 ∨ e.2 = false then s else s.store a (s1.bytes a 8)) errs
      (s1.store (itcmBase k) (s1.bytes c.copy c.itcmLen))
  | none => s

/-- Restore the code of logical core l in slot k and zero its data banks (Table 10-4 step 2). Breakwater's accesses are of class 0, which
every bank grants first (R307). -/
def restoreCode (l k : Nat) (errs : List (Nat × Bool)) (s : State) : State :=
  copyCode l k errs ((s.wakeSpan (localBase k) 0x40000).zero (localBase k) 0x30000)

/-- A slot as a core that starts: nothing in its caches, predictor and loop buffer, and not fenced. At the edge of a partial re-pitch R243
names the predictor and the loop buffer alone (DEDUCED, log entry 226). -/
def freshCore (k : Nat) (s : State) : State :=
  let c := (s.core k).clk
  s.setCore k { CoreSt.reset with clk := c, wdClk := c }

/-- A logical core starts from its thread-start record now, its watchdog from now (R408, R428). A start that is no take-over and no replay
changes no RWL field (R10). -/
def startLcore (p : Part) (l k : Nat) (s : State) : State :=
  let s1 := loadThreads p k l true s
  let s2 := s1.setCore k { s1.core k with wdClk := (s1.core k).clk, fenced := false }
  s2.setLc l { s2.lc l with ready := false, wdFired := false, sig := 0xFFFFFFFF }

/-- The take-overs under way become ts. -/
def State.setTkos (s : State) (ts : List TakeOver) : State := { s with bw := { s.bw with tkos := ts } }

/-- A take-over goes on once the slot holds the core's code (Table 10-4 steps 2 and 3): its threads are loaded, and it waits for a replay, or
starts. -/
def takeOverLoad (l : Nat) (t : TakeOver) (s : State) : State :=
  let others := s.bw.tkos.filter (fun x => decide (x.lcore ≠ l))
  match s.partOf l with
  | none => s.setTkos others
  | some p =>
    let s1 := loadThreads p t.slot l false (loadCoreCfg p t.slot l s)
    if t.replay then s1.setTkos (others ++ [{ t with loaded := true }])
    else if t.late then startLcore p l t.slot (s1.setTkos others)
    else (s1.setTkos others).setLc l { s1.lc l with ready := true }

/-- TAKE_OVER_RELEASE (R428, R438, Table 10-4 steps 2 and 3). -/
def takeOverRelease (l : Nat) (errs : List (Nat × Bool)) (s : State) : State :=
  match s.bw.tkos.find? (fun t => decide (t.lcore = l) && !t.loaded) with
  | none => s
  | some t => takeOverLoad l t (freshCore t.slot (restoreCode l t.slot errs s))

/-- TAKE_OVER_RELEASE (R428). -/
def execTakeOverRelease (lcore : TakeInfo) (s : State) : Res := .next (takeOverRelease lcore.lcore lcore.errs s)

/-- One core of a partition restarts for a replay (R431): its code and data stay; its posted writes run on. -/
def restartLcore (p : Part) (l : Nat) (s : State) : State :=
  match s.slotOf l with
  | none => s
  | some k =>
    let posted := (List.range 4).map (fun t => (s.thread k t).posted)
    let s1 := s.setCore k { s.core k with dcache := [], lb := none }
    let s2 := startLcore p l k (loadCoreCfg p k l (holdoffLcore l s1))
    foldS (fun t s => s.onThread k t (fun th => { th with posted := posted.getD t [] })) (List.range 4) s2

/-- REPLAY_RESTART (R430 to R432): every core of the partition restarts together once every take-over is ready; too late, the
frame fails, and the new slots start with the next frame. -/
def replayRestart (n : Nat) (intime : Bool) (s : State) : State :=
  match s.part? n with
  | none => s
  | some p =>
    let r := s.pt n
    let mine := s.bw.tkos.filter (fun t => p.cores.getLsbD t.lcore)
    if r.awaiting = false ∨ mine.any (fun t => !t.loaded) = true then s
    else
      let s1 := { s with bw := { s.bw with tkos := s.bw.tkos.filter (fun t => !p.cores.getLsbD t.lcore) } }
      if intime then
        let s2 := s1.setPt n { r with awaiting := false, replayed := true }
        let s3 := foldS (fun l s => restartLcore p l s) p.lcores s2
        foldS (fun c s => cevt c 4 s) (p.evClusters r.evr) (((s3.incSat (aBwtrPtReplay n)).orReg (aBwtrPtStat n) 0x10).setPt n { s3.pt n with evr := [] })
      else
        let s2 := State.notReplayed n (s1.setPt n { r with awaiting := false, failed := true })
        foldS (fun t s => s.setLc t.lcore { s.lc t.lcore with ready := true }) mine s2

/-- REPLAY_RESTART (R430). -/
def execReplayRestart (pt : Fin 32) (intime : Bool) (s : State) : Res := .next (replayRestart pt intime s)

/-- DEGRADED_EXIT (R447): at a tide frame boundary after every cluster is back in full service. -/
def execDegradedExit (s : State) : Res :=
  .next (if s.pwr.mode = .degraded ∧ bit (s.reg aBwtrStat) 0 = false ∧ s.atFrameBoundary = true then
      let s1 := setMode s.pwr.replaced s
      if s.pwr.replaced = .neap then neapUnits s1 else s1
    else s)

/-- LOG_POP (R450). -/
def execLogPop (s : State) : Res := .next (popLog s)

/-- BWTR_INJ (R452): only Landward supervisor code, and only with inj_en. -/
def faultInjection (ini : Initiator) (cst : Nat) (v : Word) (s : State) : State :=
  let ok := match ini with | .core _ _ => decide (5 ≤ cst) | _ => false
  if bit (s.reg aBwtrCfg) 8 && ok then
    let l := fld v 0 7
    let d := fld v 8 4
    if 3 ≤ d ∧ d ≤ 5 ∧ (s.slotOf l).isSome then s.setLc l { s.lc l with inj := some d, ripe := false } else s
  else s.orReg aBwtrStat 0x200

/-- FAULT_INJECTION (R452). -/
def execFaultInjection (ini : Initiator) (v : Word) (s : State) : Res := .next (faultInjection ini (s.cstOf ini) v s)

/-- INJECTED_FAULT_RAISE (R452): the awaited event of a pending injection has occurred, a bundle that reads a register or that multiplies,
or it occurs, the watchdog's fire. -/
def execInjectedFaultRaise (lcore : Fin 128) (dt : Nat) (s : State) : Res :=
  .next (match (s.lc lcore).inj, s.slotOf lcore with
    | some d, some k =>
      if d = 5 then watchdogFire lcore dt s
      else if (s.lc lcore).ripe then faultAfter d k 0 dt (s.setLc lcore { s.lc lcore with inj := none, ripe := false })
      else s
    | _, _ => s)

end Sys2Proof.Machine
end

