-- ==== Sys2Proof/Machine/Journal.lean ====
section
/-! DEFINITION. The journal in the boot flash (spec/15_commands_journal.md R599 to R605; rows JOURNAL_APPEND, JOURNAL_READ and the
flash side of JOURNAL_OPERATION_COMPLETE, spec/18_reset_boot.md R685 step 3). -/

namespace Sys2Proof.Machine

/-! ## Sectors and records (Tables 15-6 and 15-7) -/

/-- The CRC-32 of IEEE 802.3 over bytes. -/
def crcIeee (bs : List Byte) : Nat := (crc32 0xFFFFFFFF bs ^^^ 0xFFFFFFFF).toNat

/-- Size of a sector. -/
def State.jrnlSect (s : State) : Nat := (s.reg aJrnlSect).toNat

/-- Flash offset of sector i. -/
def State.jrnlBase (s : State) (i : Nat) : Nat := (s.reg aJrnlBase).toNat + i * s.jrnlSect

/-- The active sector. -/
def State.jrnlActive (s : State) : Nat := fld (s.reg aJrnlStat) 1 1

/-- A sector header, its commit byte included. -/
def sectHeader (gen : Nat) : List Byte :=
  let h := leBytes 2 0x4A53 ++ leBytes 2 0 ++ leBytes 4 gen
  h ++ leBytes 4 (crcIeee h) ++ [0x5A, 0xFF, 0xFF, 0xFF]

/-- Is sector i's header whole (R600)? -/
def State.sectOk (s : State) (i : Nat) : Bool :=
  let a := s.jrnlBase i
  let h := s.flashBytes a 13
  decide (leNat (h.take 2) = 0x4A53) && decide (leNat ((h.drop 8).take 4) = crcIeee (h.take 8)) && decide (h.getD 12 0 = 0x5A)

/-- Generation of sector i. -/
def State.sectGen (s : State) (i : Nat) : Nat := s.flash32 (s.jrnlBase i + 4)

/-- A record of the journal: type, sequence, payload. -/
structure JRec where
  ty      : Nat
  seq     : Nat
  payload : List Byte
  deriving DecidableEq, Repr

/-- P rounded up to a multiple of 4. -/
def padTo4 (p : Nat) : Nat := (p + 3) / 4 * 4

/-- Bytes that a record of a payload occupies. -/
def recSize (p : Nat) : Nat := 20 + padTo4 p

/-- The bytes of a record, its commit byte included. -/
def JRec.bytes (r : JRec) : List Byte :=
  let p := r.payload.length
  let h := leBytes 2 0x4A4C ++ [BitVec.ofNat 8 r.ty, 0] ++ leBytes 2 p ++ leBytes 2 0 ++ leBytes 4 r.seq ++ r.payload ++
    List.replicate (padTo4 p - p) (0 : Byte)
  h ++ leBytes 4 (crcIeee h) ++ [0x5A, 0xFF, 0xFF, 0xFF]

/-- What a scan finds: the committed records in order, where the next append begins, whether it tore, and the highest sequence. -/
structure JScan where
  recs : List JRec
  next : Nat
  torn : Bool
  deriving DecidableEq, Repr

/-- The scan of a sector from offset o (R600). -/
def State.jrnlScan (s : State) (sect : Nat) : Nat → Nat → List JRec → JScan
  | 0, o, acc => { recs := acc, next := o, torn := true }
  | n + 1, o, acc =>
    let a := s.jrnlBase sect + o
    if s.jrnlSect < o + 20 ∨ leNat (s.flashBytes a 2) = 0xFFFF then { recs := acc, next := o, torn := false }
    else
      let p := leNat (s.flashBytes (a + 4) 2)
      let whole := s.flashBytes a (12 + padTo4 p)
      let tail := s.flashBytes (a + 12 + padTo4 p) 5
      let inside := decide (o + recSize p ≤ s.jrnlSect)
      let good := inside && decide (leNat (whole.take 2) = 0x4A4C) && decide (p ≤ 1024) &&
        decide (leNat (tail.take 4) = crcIeee whole) && decide (tail.getD 4 0 = 0x5A)
      if good then
        s.jrnlScan sect n (o + recSize p) (acc ++ [{ ty := (whole.getD 2 0).toNat, seq := leNat ((whole.drop 8).take 4), payload := (whole.drop 12).take p }])
      else if inside then s.jrnlScan sect n (o + recSize p) acc
      else { recs := acc, next := o, torn := true }

/-- The scan of the active sector. -/
def State.jrnlNow (s : State) : JScan := s.jrnlScan s.jrnlActive (s.jrnlSect / 20 + 1) 0x10 []

/-- The kind of a record for "in force": its type, and for a ceiling record its slot too, since each slot's ceiling is kept (R591,
R595; DEDUCED, log entry 32). -/
def JRec.kind (r : JRec) : Nat := if r.ty = 1 then 256 + (r.payload.headD 0).toNat else r.ty

/-- Does record r supersede q? -/
def JRec.newer (r q : JRec) : Bool := decide (q.seq ≤ r.seq)

/-- The record in force of a kind (R600): the committed one with the highest sequence. -/
def inForceKind (rs : List JRec) (k : Nat) : Option JRec :=
  rs.foldl (fun b r => if r.kind ≠ k then b else match b with
    | none => some r
    | some q => if r.newer q then some r else some q) none

/-- The records in force in ascending type order, the ceilings by slot. -/
def inForce (rs : List JRec) : List JRec :=
  ((List.range 4).map (fun i => 256 + i) ++ (List.range 254).map (fun i => i + 2)).filterMap (inForceKind rs)

/-- The records in force now; none where no active sector was found. -/
def State.jrnlForce (s : State) : List JRec := if bit (s.reg aJrnlStat) 3 then [] else inForce s.jrnlNow.recs

/-! ## Writing (R599 to R603) -/

/-- A record is programmed where the next append begins. -/
def putRecord (ty : Nat) (payload : List Byte) (s : State) : State :=
  let r : JRec := { ty := ty, seq := (s.reg aJrnlSeq).toNat, payload := payload }
  let s1 := s.program (s.jrnlBase s.jrnlActive + (s.reg aJrnlUsed).toNat) r.bytes
  (s1.addReg aJrnlSeq 1).addReg aJrnlUsed (recSize payload.length)

/-- Compaction (R601): the other sector is erased, takes the records in force that `keep` admits, and becomes active. -/
def compact (keep : Nat → Bool) (s : State) : State :=
  let rs := s.jrnlForce.filter (fun r => keep r.ty)
  let blank := bit (s.reg aJrnlStat) 3
  let new := if blank then 0 else 1 - s.jrnlActive
  let gen := if blank then 0 else s.sectGen s.jrnlActive + 1
  let s1 := s.eraseFlash (s.jrnlBase new) s.jrnlSect
  let s2 := ((s1.setRegFld aJrnlStat 1 1 new).setRegFld aJrnlStat 2 2 0).setReg aJrnlUsed 16
  let s3 := foldS (fun r s => putRecord r.ty r.payload s) rs s2
  let g := gen % 2 ^ 32
  ((s3.program (s3.jrnlBase new) (sectHeader g)).setReg aJrnlGen (BitVec.ofNat 32 g)).orReg aJrnlStat 0x200

/-- Does an append of p payload bytes compact first (R601)? -/
def State.mustCompact (s : State) (p : Nat) : Bool :=
  bit (s.reg aJrnlStat) 2 || bit (s.reg aJrnlStat) 3 || decide (s.jrnlSect < (s.reg aJrnlUsed).toNat + recSize p)

/-- An append (R599, R601). -/
def jrnlAppend (ty : Nat) (payload : List Byte) (s : State) : State :=
  putRecord ty payload (if s.mustCompact payload.length then compact (fun _ => true) s else s)

/-- Is a Landward append refused for space (R602): would it leave less than 256 bytes free after a compaction? -/
def State.jrnlFull (s : State) (p : Nat) : Bool :=
  let n : Nat := (s.jrnlForce.map (fun r => recSize r.payload.length)).foldl (· + ·) (16 + recSize p)
  decide (s.jrnlSect < n + 256)

/-! ## Operations -/

/-- An operation enters the journal's queue; busy shows it. -/
def jrnlStart (o : JOp) (s : State) : State := { s with jrnl := s.jrnl ++ [o] }.orReg aJrnlStat 1

/-- The bytes of JRNL_WBUF. -/
def State.wbuf (s : State) (n : Nat) : List Byte :=
  ((List.range ((n + 3) / 4)).flatMap (fun i => leBytes 4 (s.reg (aJrnlWbuf i)).toNat)).take n

/-- A write of JRNL_WR by Landward supervisor code (R602, R605). A type or length outside its range is refused with err. -/
def jrnlWr (v : Word) (s : State) : State :=
  let ty := fld v 0 8
  let n := fld v 16 11
  if bit (s.reg aJrnlStat) 0 then s.orReg aJrnlStat 0x400
  else if ty < 0x80 ∨ 0xFE < ty ∨ 1024 < n then s.orReg aJrnlStat 0x400
  else if s.jrnlFull n then s.orReg aJrnlStat 0x800
  else jrnlStart (.record ty (s.wbuf n)) s

/-- A write of JRNL_RD by Landward supervisor code (R605). -/
def jrnlRd (v : Word) (s : State) : State := jrnlStart (.read (fld v 0 8)) s

/-- JRNL_RBUF and its status take the record in force of a type. -/
def jrnlReadOut (ty : Nat) (s : State) : State :=
  let found := s.jrnlForce.foldl (fun (b : Option JRec) r => if r.ty ≠ ty then b else match b with
    | none => some r
    | some q => if r.newer q then some r else some q) none
  let s1 := match found with
    | none => (s.setReg aJrnlRdStat 0).setReg aJrnlRdSeq 0
    | some r =>
      let n := r.payload.length
      let s0 := foldS (fun i s => s.setReg (aJrnlRbuf i) (BitVec.ofNat 32 (leNat ((r.payload.drop (4 * i)).take 4))))
        (List.range ((n + 3) / 4)) s
      (s0.setReg aJrnlRdStat (BitVec.ofNat 32 (1 + n * 2 ^ 16))).setReg aJrnlRdSeq (BitVec.ofNat 32 r.seq)
  s1.orReg aJrnlStat 0x2000

/-- What a finished operation leaves in the flash and the JRNL registers. -/
def JOp.done (o : JOp) (s : State) : State :=
  match o with
  | .ceiling slot c => jrnlAppend 1 ([BitVec.ofNat 8 slot, 0, 0, 0] ++ leBytes 8 c.toNat) s
  | .floor v => jrnlAppend 2 (leBytes 4 v.toNat) s
  | .record ty p => (jrnlAppend ty p s).orReg aJrnlStat 0x100
  | .erase => compact (fun ty => decide (ty ≤ 2)) s
  | .read ty => jrnlReadOut ty s

/-- The operation in progress ends (R599): with success, or with a flash failure that changes nothing but err. The answer holds the
operation. Nothing ends while the flash renegotiates (R604, R585). -/
def jrnlEnd (ok : Bool) (s : State) : State × Option JOp :=
  match s.jrnl with
  | [] => (s, none)
  | o :: os =>
    if bit (s.reg aSysFlashMode) 10 then (s, none)
    else
      let s0 := { s with jrnl := os }
      let s1 := if os.isEmpty then s0.clrReg aJrnlStat 1 else s0
      (if ok then o.done s1 else s1.orReg aJrnlStat 0x400, some o)

/-- May the initiator write JRNL_WBUF, JRNL_WR, JRNL_RD and the enables (R605, R607)? -/
def landSuper (ini : Initiator) (cst : Nat) : Bool := match ini with | .core _ _ => decide (5 ≤ cst) | _ => false

/-- JOURNAL_APPEND (R599 to R605): a write of JRNL_WR. -/
def execJournalAppend (ini : Initiator) (v : Word) (s : State) : Res := .next (if landSuper ini (s.cstOf ini) then jrnlWr v s else s)

/-- JOURNAL_READ (R605): a write of JRNL_RD. -/
def execJournalRead (ini : Initiator) (v : Word) (s : State) : Res := .next (if landSuper ini (s.cstOf ini) then jrnlRd v s else s)

/-! ## Boot (R600) -/

/-- The active sector at boot: the whole header, or of two the later generation. -/
def State.bootSector (s : State) : Option Nat :=
  match s.sectOk 0, s.sectOk 1 with
  | false, false => none
  | true, false => some 0
  | false, true => some 1
  | true, true =>
    let d := (s.sectGen 0 + 2 ^ 32 - s.sectGen 1) % 2 ^ 32
    some (if 1 ≤ d ∧ d ≤ 2 ^ 31 then 0 else 1)

/-- SEC_FLOORk and SEC_CEILk take a ceiling (R595). -/
def setCeiling (k : Nat) (c : Nat) (floor : Bool) (s : State) : State :=
  let s1 := (s.setReg (aSecCeilLo k) (BitVec.ofNat 32 c)).setReg (aSecCeilHi k) (BitVec.ofNat 32 (c / 2 ^ 32))
  if floor then (s1.setReg (aSecFloorLo k) (BitVec.ofNat 32 c)).setReg (aSecFloorHi k) (BitVec.ofNat 32 (c / 2 ^ 32)) else s1

/-- The journal is scanned at boot (R600, R595): the JRNL registers, the anti-rollback floor, and the counters of the key slots
where `counters` holds (a boot after COLD reset). -/
def jrnlBoot (counters : Bool) (s : State) : State :=
  match s.bootSector with
  | none =>
    let s1 := ((s.setReg aJrnlStat ((s.reg aJrnlStat &&& 0x3F00) ||| 8)).setReg aJrnlGen 0).setReg aJrnlUsed 0
    let s2 := (s1.setReg aJrnlSeq 0).setReg aQfaFloor 0
    if counters then foldS (fun k s => setCeiling k 0 true s) [0, 2, 3] s2 else s2
  | some i =>
    let s0 := s.setReg aJrnlStat ((s.reg aJrnlStat &&& 0x3F00) ||| BitVec.ofNat 32 (2 * i))
    let sc := s0.jrnlNow
    let s1 := if sc.torn then s0.orReg aJrnlStat 0x1004 else s0
    let hi := sc.recs.foldl (fun (m : Nat) r => max m (r.seq + 1)) 0
    let s2 := ((s1.setReg aJrnlGen (BitVec.ofNat 32 (s1.sectGen i))).setReg aJrnlUsed (BitVec.ofNat 32 sc.next)).setReg aJrnlSeq (BitVec.ofNat 32 hi)
    let at_ := fun k => match inForceKind sc.recs k with | some r => r.payload | none => []
    let s3 := s2.setReg aQfaFloor (BitVec.ofNat 32 (leNat (at_ 2)))
    if counters then foldS (fun k s => setCeiling k (leNat (((at_ (256 + k)).drop 4).take 8)) true s) [0, 2, 3] s3 else s3

end Sys2Proof.Machine
end

