-- ==== Sys2Proof/Machine/Image.lean ====
section
/-! DEFINITION. A Quafa image in the staging window (spec/11_quafa.md): its header, directory and sections, the configuration
that the checks judge (R475), and checks 1 to 15 (Table 11-10). -/

namespace Sys2Proof.Machine

/-! ## The staged bytes -/

/-- The word at an image offset. -/
def State.img32 (s : State) (o : Nat) : Nat := (s.memWord (s.stgBase + o)).toNat

/-- n bytes at an image offset. -/
def State.img (s : State) (o n : Nat) : List Byte := s.bytes (s.stgBase + o) n

/-- n words from an image offset. -/
def State.imgWords (s : State) (o n : Nat) : List Word := (List.range n).map (fun i => s.memWord (s.stgBase + o + 4 * i))

/-- The length that the header gives. -/
def State.imgLen (s : State) : Nat := s.img32 8

/-- Is the staged image partial? -/
def State.imgPartial (s : State) : Bool := (s.img32 4).testBit 16

/-- The partition of a partial image. -/
def State.imgPart (s : State) : Nat := nfld (s.img32 4) 24 5

/-- The image hash. -/
def State.imgHash (s : State) : Nat := s.img32 0x10 + s.img32 0x14 * 2 ^ 32

/-- The hash of the configuration that a partial image modifies. -/
def State.imgBase (s : State) : Nat := s.img32 0x18 + s.img32 0x1C * 2 ^ 32

/-- The image version. -/
def State.imgVer (s : State) : Nat := s.img32 0x20

/-- Entries of the directory, as far as one can hold. -/
def State.imgCount (s : State) : Nat := min 9 (s.img32 0x24)

/-- Whether a section is required, optional or forbidden in an image of one kind. -/
inductive Need where
  | req | opt | no
  deriving DecidableEq, Repr

/-- A section type (Table 11-3): fixed part, entry size, need in a full and in a partial image. -/
def secKind : Nat → Option (Nat × Nat × Need × Need)
  | 1 => some (16, 64, .req, .req)
  | 2 => some (0, 704, .req, .req)
  | 3 => some (0, 32, .req, .req)
  | 4 => some (0, 32, .opt, .opt)
  | 5 => some (64, 32, .req, .no)
  | 6 => some (1712, 0, .req, .opt)
  | 7 => some (0, 80, .opt, .opt)
  | 8 => some (0, 8, .opt, .no)
  | 9 => some (48, 0, .opt, .no)
  | _ => none

/-- What an image of the staged kind needs of a section type. -/
def State.secNeed (s : State) (t : Nat) : Need :=
  match secKind t with
  | none => .no
  | some k => if s.imgPartial then k.2.2.2 else k.2.2.1

/-- A directory entry (Table 11-2); `raw` is its first word. -/
structure Sec where
  typ  : Nat
  off  : Nat
  size : Nat
  n    : Nat
  raw  : Nat
  deriving DecidableEq, Repr

/-- The directory. -/
def State.dir (s : State) : List Sec :=
  (List.range s.imgCount).map (fun i =>
    let o := 0x40 + 16 * i
    { typ := nfld (s.img32 o) 0 8, off := s.img32 (o + 4), size := s.img32 (o + 8), n := s.img32 (o + 12), raw := s.img32 o })

/-- The section of a type. -/
def State.sec? (s : State) (t : Nat) : Option Sec := s.dir.find? (fun d => decide (d.typ = t))

/-- Offsets of the entries of a section, with their indices. -/
def State.entries (s : State) (t : Nat) : List (Nat × Nat) :=
  match s.sec? t, secKind t with
  | some d, some k => if k.2.1 = 0 then [] else (List.range d.n).map (fun i => (d.off + k.1 + k.2.1 * i, i))
  | _, _ => []

/-- Offset of the fixed part of a section, if it is present. -/
def State.fixed? (s : State) (t : Nat) : Option Nat := (s.sec? t).map (fun d => d.off)

/-! ## Entries -/

/-- A MEM entry (Table 11-7). -/
def State.memEntry (s : State) (o : Nat) : MemRegion :=
  let w := s.img32 o
  { kind := nfld w 0 4, part := nfld w 4 5, land := w.testBit 9, addr := s.img32 (o + 8) + nfld (s.img32 (o + 12)) 0 12 * 2 ^ 32
    size := s.img32 (o + 16), initOff := s.img32 (o + 20), initLen := s.img32 (o + 24) }

/-- The MEM entries of the image. -/
def State.imgMems (s : State) : List (MemRegion × Nat) := (s.entries 3).map (fun e => (s.memEntry e.1, e.2))

/-- A PART entry (Table 11-4). -/
def State.partEntry (s : State) (o : Nat) : Part :=
  let w := s.img32 o
  let v := s.img32 (o + 4)
  let st := s.img32 (o + 12)
  let m := (s.imgMems.getD st ({ kind := 0, part := 0, land := false, addr := 0, size := 0, initOff := 0, initLen := 0 }, 0)).1
  { part := nfld w 0 5, land := w.testBit 5, cls := nfld w 6 2, profile := nfld w 8 2, policy := nfld w 10 2
    thrEn := nfld w 12 4, fmul := nfld w 16 2, prio := nfld w 18 5, ssEn := w.testBit 23, ebbSeg := nfld w 24 3
    floodSeg := nfld w 27 3, window := nfld v 0 4, bpred := v.testBit 4, budget := s.img32 (o + 8), state := st
    cores := BitVec.ofNat 128 (leNat (s.img (o + 16) 16)), h0 := m.addr, half := m.size }

/-- A CODE record (Tables 11-5 and 11-6). -/
def State.codeEntry (s : State) (o : Nat) : CodeRec :=
  let w := s.img32 o
  { lcore := nfld w 0 7, part := nfld w 8 5, cacheCfg := BitVec.ofNat 32 (s.img32 (o + 4)), itcmOff := s.img32 (o + 8)
    itcmLen := s.img32 (o + 12), copy := s.img32 (o + 16) + nfld (s.img32 (o + 20)) 0 12 * 2 ^ 32, ldmOff := s.img32 (o + 24)
    ldmLen := s.img32 (o + 28), threads := (List.range 4).map (fun t => s.imgWords (o + 0x40 + 0xA0 * t) 39) }

/-- A ROUTE entry (Table 11-8). -/
def State.routeEntry (s : State) (o : Nat) : Route :=
  let w := s.img32 o
  let v := s.img32 (o + 4)
  let sap := decide (nfld w 0 2 < 2)
  { kind := nfld w 0 2, port := nfld w 8 6, first := if sap then nfld w 16 5 else 0, last := if sap then nfld w 21 5 else 0
    stream := if sap then 0 else nfld w 16 8, part := nfld v 0 5, half := v.testBit 5, width := nfld v 6 2, just := v.testBit 8
    addr := s.img32 (o + 8) + nfld (s.img32 (o + 12)) 0 12 * 2 ^ 32, nbuf := s.img32 (o + 16), stride := s.img32 (o + 20) }

/-- A FERRY entry (Table 11-9): ownership, then FRYn_CFG, _PC, _PC_HI, _IEN, _CHKCFG, _CHK and the windows. -/
structure FryEnt where
  own : FerryOwn
  ws  : List Word
  deriving DecidableEq, Repr

/-- Word i of a FERRY entry after its first. -/
def FryEnt.w (f : FryEnt) (i : Nat) : Word := f.ws.getD i 0

/-- A FERRY entry of the image. -/
def State.ferryEntry (s : State) (o : Nat) : FryEnt :=
  let w := s.img32 o
  { own := { chan := nfld w 0 6, part := nfld w 8 5, owned := w.testBit 13 }, ws := s.imgWords (o + 4) 18 }

/-- A TIDE entry (Table 11-9): compare, arm, then CTL, ACT, PER and the target. -/
structure TideEnt where
  idx : Nat
  arm : Bool
  ctl : Word
  act : Word
  per : Word
  lo  : Word
  hi  : Word
  deriving DecidableEq, Repr

/-- A TIDE entry of the image. -/
def State.tideEntry (s : State) (o : Nat) : TideEnt :=
  let w := fun (i : Nat) => BitVec.ofNat 32 (s.img32 (o + 4 * i))
  { idx := nfld (s.img32 o) 0 8, arm := (s.img32 o).testBit 8, ctl := w 1, act := w 2, per := w 3, lo := w 4, hi := w 5 }

/-! ## Outcomes of the checks -/

/-- A failed check as QFA_ERR and QFA_ERR_AUX give it (R468). -/
structure QErr where
  code  : Nat
  sec   : Nat
  entry : Nat
  aux   : Option (Nat × Nat)
  deriving DecidableEq, Repr

/-- A failure at an entry. -/
def qerr (code sec entry : Nat) : QErr := { code := code, sec := sec, entry := entry, aux := none }

/-- The entry index of an item of the running configuration (R468). -/
def runIdx : Nat := 0xFFFF

/-- A conflict between two entries: the image's goes first where the other belongs to the running configuration (R468). -/
def qerr2 (code sec entry sec2 entry2 : Nat) : QErr :=
  if entry = runIdx ∧ entry2 ≠ runIdx then { code := code, sec := sec2, entry := entry2, aux := some (sec, entry) }
  else { code := code, sec := sec, entry := entry, aux := some (sec2, entry2) }

/-- The first failure of a list. -/
def firstErr : List (Option QErr) → Option QErr
  | [] => none
  | some e :: _ => some e
  | none :: es => firstErr es

/-- A requirement. -/
def need (ok : Bool) (code sec entry : Nat) : Option QErr := if ok then none else some (qerr code sec entry)

/-- The first conflicting pair of a list. -/
def firstPair {α : Type} (clash : α → α → Bool) (err : α → α → QErr) : List α → Option QErr
  | [] => none
  | x :: xs =>
    match xs.find? (clash x) with
    | some y => some (err x y)
    | none => firstPair clash err xs

/-- Are the bits of a word outside a mask 0? -/
def within (v m : Nat) : Bool := decide (v &&& (0xFFFFFFFF - m) = 0)

/-! ## Checks 1 to 4 -/

/-- Check 1 (Table 11-1). -/
def State.check1 (s : State) : Option QErr :=
  let chip := s.img32 0xC
  let l := s.imgLen
  need (decide (s.img32 0 = 0x39414651) && decide (nfld (s.img32 4) 0 16 = 0x0100) && decide (chip / 2 ^ 16 = 0x5A09) &&
    decide (nfld chip 0 8 ≤ 0xB1) && decide (nfld chip 8 8 = 0) && decide (l % 16 = 0) && decide (0x50 ≤ l) &&
    decide (l ≤ s.stgSize)) 1 0 0

/-- Does the tag of the staged bytes match, under the current key of slot KS1 (R455, Table 15-9)? -/
def State.tagOk (s : State) (len : Nat) : Bool :=
  decide (cmac256 (Config.otpKey 1 (s.keyGen 1)) (s.img 0 (len - 16)) = s.img (len - 16) 16)

/-- Check 2 (R455, R684): the result that FETCH kept, or the tag. -/
def State.check2 (s : State) : Option QErr :=
  need (match s.qfa.kept with
    | some (ok, n) => if n = s.imgLen then ok else s.tagOk s.imgLen
    | none => s.tagOk s.imgLen) 2 0 0

/-- Check 3. -/
def State.check3 (s : State) : Option QErr := need (decide ((s.reg aQfaFloor).toNat ≤ s.imgVer)) 3 0 0

/-- Check 4 (R457). Failures of the directory itself name section 0 and the directory entry; a required type that is absent
names that type. -/
def State.check4 (s : State) : Option QErr :=
  let c := s.img32 0x24
  let l := s.imgLen
  let idx := s.dir.zip (List.range s.dir.length)
  firstErr [
    need (decide (1 ≤ c) && decide (c ≤ 9) && decide (0x40 + 16 * c ≤ l - 16)) 4 0 0,
    firstErr (idx.map (fun d =>
      need (match secKind d.1.typ with
        | none => false
        | some k => decide (s.secNeed d.1.typ ≠ .no) && decide (0x40 + 16 * c ≤ d.1.off) &&
            decide (d.1.off + d.1.size ≤ l - 16) && decide (d.1.size = k.1 + d.1.n * k.2.1) &&
            (decide (k.2.1 ≠ 0) || decide (d.1.n = 0))) 4 0 d.2)),
    firstPair (fun a b => decide (a.1.typ = b.1.typ) ||
        (decide (a.1.size ≠ 0) && decide (b.1.size ≠ 0) && decide (a.1.off < b.1.off + b.1.size) && decide (b.1.off < a.1.off + a.1.size)))
      (fun a b => qerr2 4 0 a.2 0 b.2) idx,
    firstErr ((List.range 10).map (fun t => need (decide (s.secNeed t ≠ .req) || (s.sec? t).isSome) 4 t 0))]

/-! ## Check 5: every field holds a defined value -/

/-- Are n bytes at an image offset 0? -/
def State.zeroAt (s : State) (o n : Nat) : Bool := (s.img o n).all (fun b => decide (b = 0))

/-- Does an image offset of n bytes lie inside the image? -/
def State.inside (s : State) (o n : Nat) : Bool := decide (o + n ≤ s.imgLen)

/-- An optional image offset: 0 for none. -/
def State.insideOpt (s : State) (o n : Nat) : Bool := decide (n = 0) || (decide (o ≠ 0) && s.inside o n)

/-- Header and directory (Tables 11-1 and 11-2). -/
def State.check5Head (s : State) : Option QErr :=
  firstErr [
    need (within (s.img32 4 / 2 ^ 16) (if s.imgPartial then 0x1F01 else 1) && s.zeroAt 0x28 24 &&
      (s.imgPartial || decide (s.imgBase = 0))) 5 0 0,
    firstErr ((s.dir.zip (List.range 9)).map (fun d => need (within d.1.raw 0xFF && decide (d.1.off % 16 = 0)) 5 0 d.2))]

/-- PART. The fixed part of a partial image is check 13's. -/
def State.check5Part (s : State) : Option QErr :=
  let ops := match s.fixed? 1 with | some o => s.img o 16 | none => []
  firstErr [
    need (s.imgPartial || ops.all (fun b => decide (b.toNat ≤ 5) || decide (b = 0xFF))) 5 1 0,
    firstErr ((s.entries 1).map (fun e =>
      let p := s.partEntry e.1
      need (within (s.img32 e.1) 0x3FFFFFFF && within (s.img32 (e.1 + 4)) 0x1F && s.zeroAt (e.1 + 32) 32 && decide (p.cls < 3) &&
        decide (p.profile < 3) && decide (p.policy < 3) && p.thrEn.testBit 0 && decide (p.budget ≠ 0) &&
        decide (p.ebbSeg ≠ p.floodSeg) && (decide (p.window = 0) || (decide (2 ≤ p.window) && decide (p.window ≤ 8)))) 5 1 e.2))]

/-- Defined bits of the words of a thread record (Table 11-6). -/
def thrMasks : List Nat :=
  [0xFFFFFFFF, 0xF, 0xFE00, 0xFE00] ++
  (List.replicate 8 [0xFFFFFFF8, 0x7F0FFF, 0x1FFFFFFF]).flatten ++
  [0x107, 0x1FFFFFFC, 0x1FFFFFFF, 0x1FFFFFFF] ++ List.replicate 7 0xFFFFFFFF ++ [0]

/-- Thread t of a partition's record is one that runs (R462). -/
def thrOn (p : Option Part) (t : Nat) : Bool := match p with | some q => q.thrEn.testBit t | none => true

/-- CODE. Records of disabled threads are ignored (R462). -/
def State.check5Code (s : State) : Option QErr :=
  let parts := (s.entries 1).map (fun e => s.partEntry e.1)
  firstErr ((s.entries 2).map (fun e =>
    let o := e.1
    let c := s.codeEntry o
    let p := parts.find? (fun q => decide (q.part = c.part))
    need (within (s.img32 o) 0x1F7F && within c.cacheCfg.toNat 0x173 && within (s.img32 (o + 20)) 0xFFF && s.zeroAt (o + 32) 32 &&
      decide (c.itcmLen % 8 = 0) && decide (1 ≤ c.itcmLen) && decide (c.itcmLen ≤ 65536) && s.inside c.itcmOff c.itcmLen &&
      decide (c.copy % 64 = 0) && decide (c.ldmLen % 8 = 0) && decide (c.ldmLen ≤ 196608) && s.insideOpt c.ldmOff c.ldmLen &&
      (List.range 4).all (fun t => !thrOn p t ||
        (((s.imgWords (o + 0x40 + 0xA0 * t) 40).zip thrMasks).all (fun x => within x.1.toNat x.2) &&
         decide (s.img32 (o + 0x48 + 0xA0 * t) ≤ 0xFA00) && decide (s.img32 (o + 0x4C + 0xA0 * t) ≤ 0xFA00)))) 5 2 e.2))

/-- MEM. -/
def State.check5Mem (s : State) : Option QErr :=
  firstErr ((s.entries 3).map (fun e =>
    let m := s.memEntry e.1
    need (within (s.img32 e.1) 0x3FF && s.zeroAt (e.1 + 4) 4 && within (s.img32 (e.1 + 12)) 0xFFF && s.zeroAt (e.1 + 28) 4 &&
      decide (m.kind ≤ 4) && decide (m.addr % 64 = 0) && decide (m.size ≠ 0) && decide (m.size % 8 = 0) &&
      decide (m.initLen ≤ m.size) && s.insideOpt m.initOff m.initLen) 5 3 e.2))

/-- ROUTE. -/
def State.check5Route (s : State) : Option QErr :=
  firstErr ((s.entries 4).map (fun e =>
    let r := s.routeEntry e.1
    let sap := decide (r.kind < 2)
    need (within (s.img32 e.1) (if sap then 0x03FF3F03 else 0x00FF3F03) && within (s.img32 (e.1 + 4)) 0x1FF &&
      within (s.img32 (e.1 + 12)) 0xFFF && s.zeroAt (e.1 + 24) 8 &&
      (if sap then decide (r.first ≤ r.last) && decide (r.width ≠ 0)
       else decide (r.port < 8) && decide (r.stride % 4 = 0) && decide (4 ≤ r.stride) && decide (r.stride ≤ 3072)) &&
      (decide (r.kind % 2 = 1) || (decide (2 ≤ r.nbuf) && decide (r.nbuf ≤ 8) && !r.half))) 5 4 e.2))

/-- The defined bits of TIDE_CMPn_ACT for an action (Table 02-13). -/
def actMask (a : Nat) : Nat := if a = 2 then 0x7037F else if a = 4 then 0x011F1F3F else if a = 5 then 0x37F else 0

/-- TIDE. -/
def State.check5Tide (s : State) : Option QErr :=
  firstErr [
    (match s.fixed? 5 with
     | none => none
     | some o =>
       let w := fun (i : Nat) => s.img32 (o + 4 * i)
       need (within (w 0) 0x3F07 && within (w 1) 0x03FF1FFF && within (w 2) 0x00FFFFFF && within (w 3) 0xFF00 &&
         (List.range 4).all (fun k => within (w (6 + k)) 0x107 && decide (nfld (w (6 + k)) 0 3 ≤ 5)) && s.zeroAt (o + 40) 24 &&
         decide (nfld (w 0) 0 3 ≤ 5) && decide (nfld (w 1) 0 4 ≤ 5) && decide (nfld (w 1) 16 4 ≤ 5) &&
         decide (nfld (w 1) 10 2 ≤ 2)) 5 5 0),
    firstErr ((s.entries 5).map (fun e =>
      let t := s.tideEntry e.1
      let a := fld t.ctl 4 3
      need (within (s.img32 e.1) 0x1FF && within t.ctl.toNat 0xF77 && s.zeroAt (e.1 + 24) 8 && decide (fld t.ctl 0 2 < 3) &&
        decide (a ≤ 5) && within t.act.toNat (actMask a) && (decide (a ≠ 4) || decide (fld t.act 8 5 ≤ fld t.act 16 5)) &&
        (decide (a ≠ 5) || (decide (fld t.act 0 7 ≤ 71) && decide (fld t.act 8 2 < 3)))) 5 5 e.2))]

/-- IRQ. -/
def State.check5Irq (s : State) : Option QErr :=
  match s.fixed? 6 with
  | none => none
  | some o => firstErr ((List.range 428).map (fun k =>
      need (within (s.img32 (o + 4 * k)) (if k < 384 then 0xF337F else if k < 396 then 0xFFFFFFFF else 0x81FF)) 5 6 k))

/-- Defined bits of the words of a FERRY entry after its first (Table 11-9). -/
def fryMasks : List Nat :=
  [0x3, 0xFFFFFFF8, 0xFFF, 0x3FF00, 0x3, 0xFFFFFFFF] ++ (List.replicate 4 [0xFFFFFFF8, 0x70FFF, 0xFFFFFFFF]).flatten ++ [0]

/-- FERRY. -/
def State.check5Ferry (s : State) : Option QErr :=
  firstErr ((s.entries 7).map (fun e =>
    let ws := s.imgWords (e.1 + 4) 19
    need (within (s.img32 e.1) 0x3F3F && (ws.zip fryMasks).all (fun x => within x.1.toNat x.2) &&
      decide (fld (ws.getD 4 0) 0 2 ≠ 3)) 5 7 e.2))

/-- May a PIN entry name this offset with this value (R632)? -/
def pinLoadable (o v : Nat) : Bool :=
  decide (o % 4 = 0) &&
  (if o < 0x120 then within v 0xF77 && decide (nfld v 0 3 ≤ 4) && decide (nfld v 8 2 ≠ 3)
   else if 0x200 ≤ o ∧ o < 0x240 then within v 0x700 && decide (nfld v 8 2 ≠ 3)
   else if o = 0x300 ∨ o = 0x304 ∨ o = 0x340 ∨ o = 0x344 then true
   else if o = 0x308 ∨ o = 0x348 then within v 0xFF
   else if 0x360 ≤ o ∧ o < 0x370 then true
   else if o = 0x370 then within v 0xFFFF
   else false)

/-- PIN and CAMP. -/
def State.check5Rest (s : State) : Option QErr :=
  firstErr [
    firstErr ((s.entries 8).map (fun e => need (pinLoadable (s.img32 e.1) (s.img32 (e.1 + 4))) 5 8 e.2)),
    (match s.fixed? 9 with
     | none => none
     | some o => need (within (s.img32 o) 0x7FF && within (s.img32 (o + 12)) 3 && s.zeroAt (o + 16) 32) 5 9 0)]

/-- Check 5. -/
def State.check5 (s : State) : Option QErr :=
  firstErr [s.check5Head, s.check5Part, s.check5Code, s.check5Mem, s.check5Route, s.check5Tide, s.check5Irq, s.check5Ferry,
    s.check5Rest]

/-! ## The configuration that checks 6 to 12 judge (R475) -/

/-- Items with the index of their entry, or `runIdx` for one of the running configuration; `irqOwn` says which words of `irq` are the
image's. -/
structure Judged where
  parts  : List (Part × Nat)
  code   : List (CodeRec × Nat)
  mems   : List (MemRegion × Nat)
  routes : List (Route × Nat)
  ferry  : List (FryEnt × Nat)
  ops    : List Nat
  fs     : Nat
  n      : Nat
  irq    : Option (List Word)
  irqOwn : List Bool

/-- A channel of the running configuration, with its registers. -/
def State.runFerry (s : State) (o : FerryOwn) : FryEnt :=
  let n := o.chan
  { own := o
    ws := [s.reg (aFryCfg n), s.reg (aFryPc n), s.reg (aFryPcHi n), s.reg (aFryIen n), s.reg (aFryChkcfg n), s.reg (aFryChk n)] ++
      (List.range 4).flatMap (fun k => [s.reg (aFryWin n k), s.reg (aFryWinHi n k), s.reg (aFryWinLim n k)]) }

/-- Does an image's entry for shared source n lie in the partition that a partial image re-pitches (R401)? -/
def State.irqMine (s : State) (cores : BitVec 128) (o n : Nat) : Bool :=
  cores.getLsbD (fld (BitVec.ofNat 32 (s.img32 (o + 4 * (n - 32)))) 0 7)

/-- The interrupt routes and masks in force: IC_SRCn_CFG for n = 32 to 415, then IC_MASK1 to IC_MASK12. -/
def State.runIrq (s : State) : List Word :=
  (List.range 384).map (fun i => s.reg (aIcSrcCfg i)) ++ (List.range 12).map (fun i => s.reg (aIcMask i))

/-- The configuration to judge. The cores of a shed partition belong to none (R445). -/
def State.judged (s : State) : Judged :=
  let parts := (s.entries 1).map (fun e => (s.partEntry e.1, e.2))
  let code := (s.entries 2).map (fun e => (s.codeEntry e.1, e.2))
  let mems := s.imgMems
  let routes := (s.entries 4).map (fun e => (s.routeEntry e.1, e.2))
  let ferry := (s.entries 7).map (fun e => (s.ferryEntry e.1, e.2))
  if s.imgPartial then
    let n := s.imgPart
    let cores := match parts with | p :: _ => p.1.cores | [] => 0
    let run := s.runIrq
    { parts := parts ++ (s.setup.parts.filter (fun p => decide (p.part ≠ n))).map
        (fun p => (if s.ptShed p.part then { p with cores := 0 } else p, runIdx))
      code := code ++ (s.setup.code.filter (fun c => decide (c.part ≠ n) && !s.ptShed c.part)).map (fun c => (c, runIdx))
      mems := mems ++ (s.setup.mems.filter (fun m => decide (m.part ≠ n))).map (fun m => (m, runIdx))
      routes := routes ++ (s.setup.routes.filter (fun r => decide (r.part ≠ n))).map (fun r => (r, runIdx))
      ferry := ferry ++ (s.setup.ferry.filter (fun f => !(f.owned && decide (f.part = n)))).map (fun f => (s.runFerry f, runIdx))
      ops := (List.range 16).map (fun c => fld (s.reg (aCkpClOp c)) 8 3)
      fs := rateHz s.rate, n := s.tide.nNow
      irq := match s.fixed? 6 with
        | none => some run
        | some o => some ((List.range 384).map (fun i =>
            if s.irqMine cores o (i + 32) then BitVec.ofNat 32 (s.img32 (o + 4 * i)) else run.getD i 0) ++
          (List.range 12).map (fun k => (List.range 32).foldl (fun w j =>
            if s.irqMine cores o (32 * (k + 1) + j) then
              setFld w j 1 (b2n ((s.img32 (o + 1536 + 4 * k)).testBit j)) else w) (run.getD (384 + k) 0)))
      irqOwn := match s.fixed? 6 with
        | none => []
        | some o => (List.range 384).map (fun i => s.irqMine cores o (i + 32)) }
  else
    { parts := parts, code := code, mems := mems, routes := routes, ferry := ferry
      ops := match s.fixed? 1 with | some o => (s.img o 16).map (fun b => b.toNat) | none => []
      fs := match s.fixed? 5 with | some o => rateHz (nfld (s.img32 o) 0 3) | none => 48000
      n := match s.fixed? 5 with | some o => nfld (s.img32 o) 8 6 | none => 0
      irq := match s.fixed? 6 with | some o => some (s.imgWords o 396) | none => none
      irqOwn := List.replicate 384 true }

/-- The partition of a number. -/
def Judged.part? (g : Judged) (n : Nat) : Option Part := (g.parts.find? (fun p => decide (p.1.part = n))).map (fun p => p.1)

/-- The partition of a logical core. -/
def Judged.partOf (g : Judged) (l : Nat) : Option Part := (g.parts.find? (fun p => p.1.cores.getLsbD l)).map (fun p => p.1)

/-- The CODE record of a logical core. -/
def Judged.codeOf (g : Judged) (l : Nat) : Option (CodeRec × Nat) := g.code.find? (fun c => decide (c.1.lcore = l))

/-! ## Check 6: partitions -/

/-- Are two records identical but for the core they name (R439)? -/
def CodeRec.same (a b : CodeRec) : Bool := decide ({ a with lcore := 0 } = { b with lcore := 0 })

/-- Check 6. -/
def State.check6 (s : State) (g : Judged) : Option QErr :=
  let pe := fun (p : Part × Nat) (ok : Bool) => need ok 6 1 p.2
  firstErr [
    firstPair (fun a b => decide (a.1.part = b.1.part)) (fun a b => qerr2 6 1 a.2 1 b.2) g.parts,
    firstPair (fun a b => decide (a.1.cores &&& b.1.cores ≠ 0)) (fun a b => qerr2 6 1 a.2 1 b.2) g.parts,
    firstErr (g.parts.map (fun p => pe p (p.1.lcores.all (fun l => (s.slotOf l).isSome)))),
    firstPair (fun a b => decide (a.1.lcore = b.1.lcore)) (fun a b => qerr2 6 2 a.2 2 b.2) g.code,
    firstErr (g.code.map (fun c => need (match g.partOf c.1.lcore with | some p => decide (p.part = c.1.part) | none => false) 6 2 c.2)),
    firstErr (g.parts.map (fun p => pe p (p.1.lcores.all (fun l => (g.codeOf l).isSome)))),
    (match g.parts.find? (fun p => decide (p.1.part = 0)) with
     | none => some (qerr 6 1 runIdx)
     | some p => firstErr [
         pe p (p.1.land && p.1.cores.getLsbD 0),
         (match g.codeOf 0 with
          | none => some (qerr 6 1 p.2)
          | some c => let cs := (c.1.threads.getD 0 []).getD 1 0; need (bit cs 2 && decide (fld cs 0 2 = 1)) 6 2 c.2)]),
    firstErr (g.parts.map (fun p => firstErr [
      pe p (decide (p.1.cls ≠ 2) || (p.1.land && p.1.lcores.all (fun l => p.1.cores.getLsbD (if l % 2 = 0 then l + 1 else l - 1)))),
      (if p.1.cls = 2 then firstErr (p.1.lcores.map (fun l =>
          if l % 2 = 0 then
            match g.codeOf l, g.codeOf (l + 1) with
            | some a, some b => if a.1.same b.1 then none else some (qerr2 6 2 a.2 2 b.2)
            | _, _ => none
          else none)) else none),
      pe p (decide (p.1.policy ≠ 2) || decide (p.1.profile = 0)),
      pe p (decide (p.1.policy ≠ 0) || decide (p.1.thrEn = 1))])),
    firstErr (g.code.map (fun c => need (decide (c.1.ldmLen = 0) ||
      (match g.partOf c.1.lcore with | some p => decide (p.cls = 0) | none => true)) 6 2 c.2)),
    firstErr (g.parts.map (fun p => pe p (s.imgPartial || p.1.lcores.all (fun l => decide (g.ops.getD (l / 8) 0xFF ≠ 0xFF)))))]

/-! ## Check 7: time limits -/

/-- CCLK in MHz of an operating point (Table 17-2). -/
def opMHz : Nat → Nat
  | 0 => 400 | 1 => 700 | 2 => 900 | 3 => 1050 | 4 => 1200 | _ => 1500

/-- Does a budget in CCLK at f MHz meet the limit of Table 10-2 for a frame of k samples at fs Hz? -/
def classLimit (cls budget f k fs : Nat) : Bool :=
  if cls = 0 then decide (budget * fs + 8 * fs * f ≤ f * k * 1000000)
  else decide (2 * budget * fs + 24 * fs * f ≤ f * k * 1000000)

/-- Check 7: T ≤ 250 µs, T ≥ 80 µs for Protected and Paired, and the class limits (R46, Table 10-2). -/
def Judged.check7 (g : Judged) : Option QErr :=
  firstErr (g.parts.map (fun p =>
    let k := 2 ^ p.1.fmul * g.n
    need (decide (k * 4000 ≤ g.fs) && (decide (p.1.cls = 0) || decide (g.fs ≤ k * 12500)) &&
      p.1.lcores.all (fun l => classLimit p.1.cls p.1.budget (opMHz (g.ops.getD (l / 8) 0)) k g.fs)) 7 1 p.2))

/-! ## Check 8: memory -/

/-- An address range: first byte, end, section, entry. -/
structure Span where
  lo  : Nat
  hi  : Nat
  sec : Nat
  idx : Nat

/-- Do two ranges meet? -/
def Span.meets (a b : Span) : Bool := decide (a.lo < b.hi) && decide (b.lo < a.hi)

/-- Bytes of a MEM region; a state region has two halves and the commit word (R464). -/
def MemRegion.span (m : MemRegion × Nat) : Span :=
  { lo := m.1.addr, hi := m.1.addr + (if m.1.kind = 0 then 2 * m.1.size + 8 else m.1.size), sec := 3, idx := m.2 }

/-- Where a region may lie (R465). -/
def State.memPlace (s : State) (m : MemRegion × Nat) : Bool :=
  let p := MemRegion.span m
  match regionOf p.lo with
  | some .reservoir => decide (p.hi ≤ 0x02000000)
  | some (.shared c) => decide (regionOf (p.hi - 1) = some (.shared c))
  | some .ddr => (decide (m.1.kind = 1) || decide (m.1.kind = 2) || decide (m.1.kind = 4)) &&
      decide (p.hi ≤ 0x1000000000 + s.memc.ddrCap)
  | _ => false

/-- The Reservoir copy of a CODE record. -/
def CodeRec.span (c : CodeRec × Nat) : Span := { lo := c.1.copy, hi := c.1.copy + c.1.itcmLen, sec := 2, idx := c.2 }

/-- The staging window. -/
def State.stgSpan (s : State) : Span := { lo := s.stgBase, hi := s.stgBase + s.stgSize, sec := 0, idx := 0 }

/-- The copies that take memory of their own: records of one configuration may share one (R461). -/
def copySpans : List (CodeRec × Nat) → List Span
  | [] => []
  | c :: cs =>
    if cs.any (fun d => decide (d.1.copy = c.1.copy) && decide (d.1.itcmOff = c.1.itcmOff) && decide (d.1.itcmLen = c.1.itcmLen) &&
        (decide (d.2 = runIdx) == decide (c.2 = runIdx))) then copySpans cs
    else CodeRec.span c :: copySpans cs

/-- Check 8. I-TCM and local-data images lie in local memories, one for each core, which nothing else here reaches (R465). -/
def State.check8 (s : State) (g : Judged) : Option QErr :=
  let spans := g.mems.map MemRegion.span ++ copySpans g.code
  firstErr [
    firstErr (g.mems.map (fun m => need (s.memPlace m) 8 3 m.2)),
    firstErr (g.code.map (fun c => need (decide ((CodeRec.span c).hi ≤ 0x02000000)) 8 2 c.2)),
    firstErr (spans.map (fun p => need (!p.meets s.stgSpan) 8 p.sec p.idx)),
    firstPair Span.meets (fun a b => qerr2 8 a.sec a.idx b.sec b.idx) spans,
    firstErr (g.parts.map (fun p =>
      if p.2 = runIdx then none
      else need (match g.mems.find? (fun m => decide (m.2 = p.1.state) && decide (m.2 ≠ runIdx)) with
        | some m => decide (m.1.kind = 0) && decide (m.1.part = p.1.part)
        | none => false) 8 1 p.2))]

/-! ## Check 9: worlds (R469, R717) -/

/-- The local memory that R717 gives a logical core: its slot after COLD reset. -/
def coldLocal (l : Nat) : Span :=
  let k := 9 * (l / 8) + l % 8
  { lo := localBase k, hi := localBase k + 0x40000, sec := 0, idx := 0 }

/-- The local memory of the spare of a logical core's cluster. -/
def spareLocal (l : Nat) : Span :=
  let k := 9 * (l / 8) + 8
  { lo := localBase k, hi := localBase k + 0x40000, sec := 0, idx := 0 }

/-- Is the range [lo, hi) within [a, b)? -/
def inRange (lo hi a b : Nat) : Bool := decide (a ≤ lo) && decide (hi ≤ b)

/-- May Seaward code reach [lo, hi), for writing (w) or execution (x) (R469, Table 11-11)? -/
def Judged.seaReach (g : Judged) (lo hi : Nat) (w x : Bool) : Bool :=
  let sea := fun (n : Nat) => match g.part? n with | some p => !p.land | none => false
  g.mems.any (fun m => sea m.1.part && inRange lo hi m.1.addr
    (m.1.addr + (if m.1.kind = 0 then 2 * m.1.size + (if w then 0 else 8) else m.1.size))) ||
  g.parts.any (fun p => !p.1.land && p.1.lcores.any (fun l => inRange lo hi (coldLocal l).lo (coldLocal l).hi)) ||
  (!x && inRange lo hi 0x40020000 0x40021000) ||
  (!x && !w && inRange lo hi 0x40010000 0x40020000) ||
  (!x && g.ferry.any (fun f => bit (f.1.w 0) 0 &&
    inRange lo hi (0x40300000 + 0x1000 * f.1.own.chan) (0x40301000 + 0x1000 * f.1.own.chan)))

/-- A segment descriptor: first byte, end, SEGk_CTL. -/
abbrev SegRange : Type := Nat × Nat × Word

/-- Segment k of a thread record at the bases that partition p gives it (R462): that of the Ebb or Flood segment is one half of its state
region, and the other once the halves have changed; other segments stand at the record's base. -/
def segAt (p : Part) (ws : List Word) (k : Nat) (swap : Bool) : SegRange :=
  let c := ws.getD (5 + 3 * k) 0
  let raw := (ws.getD (4 + 3 * k) 0).toNat / 8 * 8 + fld c 0 12 * 2 ^ 32
  let lo := if k = p.floodSeg then p.ebbBase (!swap) else if k = p.ebbSeg then p.ebbBase swap else raw
  (lo, lo + fld (ws.getD (6 + 3 * k) 0) 0 29 + 1, c)

/-- The segments of a thread record of partition p, at each base that they take. -/
def segsOf (p : Part) (ws : List Word) : List SegRange :=
  (List.range 8).map (fun k => segAt p ws k false) ++ [segAt p ws p.ebbSeg true, segAt p ws p.floodSeg true]

/-- The shadow-stack areas (MEM kind 4). -/
def Judged.kind4 (g : Judged) : List (MemRegion × Nat) := g.mems.filter (fun m => decide (m.1.kind = 4))

/-- Does a descriptor with shs = 0 and w = 1 cover a shadow-stack area, plainly or through an alias (R469)? -/
def State.coversStack (s : State) (q : SegRange) (m : MemRegion × Nat) : Bool :=
  !bit q.2.2 22 && bit q.2.2 18 && decide (s.plain q.1 < m.1.addr + m.1.size) && decide (m.1.addr < s.plain q.1 + (q.2.1 - q.1))

/-- R469 for one thread record of partition p, but for shadow-stack areas. -/
def Judged.thrReach (g : Judged) (p : Part) (ws : List Word) : Bool :=
  (segsOf p ws).all (fun q => !bit q.2.2 16 || !bit q.2.2 20 || g.seaReach q.1 q.2.1 (bit q.2.2 18) (bit q.2.2 19)) &&
  (let q := segAt p ws (fld (ws.getD 28 0) 0 3) false
   bit q.2.2 22 && g.kind4.any (fun m => decide (m.1.part = p.part) && inRange q.1 q.2.1 m.1.addr (m.1.addr + m.1.size)))

/-- Check 9. -/
def State.check9 (s : State) (g : Judged) : Option QErr :=
  let recs := fun (p : Part) (c : CodeRec) => (List.range 4).filterMap (fun t => if p.thrEn.testBit t then some (c.threads.getD t []) else none)
  firstErr [
    firstErr (g.code.map (fun c => match g.part? c.1.part with
      | none => none
      | some p => firstErr [
          (g.kind4.find? (fun m => (recs p c.1).any (fun ws => (segsOf p ws).any (fun q => s.coversStack q m)))).map
            (fun m => qerr2 9 2 c.2 3 m.2),
          need ((recs p c.1).all (g.thrReach p)) 9 2 c.2])),
    firstErr (g.ferry.map (fun f =>
      need (!bit (f.1.w 0) 0 || (List.range 4).all (fun k =>
        let hi := f.1.w (7 + 3 * k)
        let lo := (f.1.w (6 + 3 * k)).toNat / 8 * 8 + fld hi 0 12 * 2 ^ 32
        !bit hi 16 || g.seaReach lo (lo + (f.1.w (8 + 3 * k)).toNat + 1) (bit hi 18) false)) 9 7 f.2))]

/-! ## Check 10: routes -/

/-- Bytes of a frame buffer of a route (R493), or of a Strand block (R535). -/
def Judged.bufLen (g : Judged) (r : Route) : Nat :=
  if 2 ≤ r.kind then r.stride
  else 2 ^ (match g.part? r.part with | some p => p.fmul | none => 0) * g.n * (r.last - r.first + 1) * (r.width + 1)

/-- The bytes that a route writes or reads. -/
def Judged.routeSpan (g : Judged) (r : Route × Nat) : Span :=
  let n := g.bufLen r.1
  { lo := r.1.addr, hi := r.1.addr + (if r.1.kind % 2 = 0 then (r.1.nbuf - 1) * r.1.stride + n else n), sec := 4, idx := r.2 }

/-- Do two input routes write a byte in common: some frame buffer of one meets one of the other? -/
def Judged.writesMeet (g : Judged) (a b : Route × Nat) : Bool :=
  let bufs := fun (r : Route × Nat) => (List.range r.1.nbuf).map (fun i =>
    ({ lo := r.1.addr + i * r.1.stride, hi := r.1.addr + i * r.1.stride + g.bufLen r.1, sec := 4, idx := r.2 } : Span))
  (bufs a).any (fun x => (bufs b).any x.meets)

/-- Do two routes claim one slot or stream in one direction? -/
def Route.clash (a b : Route × Nat) : Bool :=
  decide (a.1.kind = b.1.kind) && decide (a.1.port = b.1.port) &&
  (if a.1.kind < 2 then decide (a.1.first ≤ b.1.last) && decide (b.1.first ≤ a.1.last) else decide (a.1.stream = b.1.stream))

/-- Does a route's buffer lie where it must? Allocations lie in no local memory (R465), so no route writes into one (R416). -/
def Judged.routeOk (g : Judged) (r : Route × Nat) : Bool :=
  let q := g.routeSpan r
  match g.part? r.1.part with
  | none => false
  | some p =>
    if r.1.kind % 2 = 1 ∧ r.1.half = true then decide (q.hi ≤ p.half)
    else inRange q.lo q.hi p.h0 (p.h0 + 2 * p.half) ||
      g.mems.any (fun m => decide (m.1.part = p.part) && decide (m.1.kind ≠ 0) && inRange q.lo q.hi m.1.addr (m.1.addr + m.1.size))

/-- Check 10. -/
def Judged.check10 (g : Judged) : Option QErr :=
  let ins := g.routes.filter (fun r => decide (r.1.kind % 2 = 0))
  firstErr [
    firstPair Route.clash (fun a b => qerr2 10 4 a.2 4 b.2) g.routes,
    firstPair g.writesMeet (fun a b => qerr2 10 4 a.2 4 b.2) ins,
    firstErr (g.routes.map (fun r => need (g.routeOk r) 10 4 r.2))]

/-! ## Check 11: Ferry programs (R725) -/

/-- The kind 3 region that holds an address. -/
def Judged.prog? (g : Judged) (a : Nat) : Option (MemRegion × Nat) :=
  g.mems.find? (fun m => decide (m.1.kind = 3) && decide (m.1.addr ≤ a) && decide (a < m.1.addr + m.1.size))

/-- The program word at an address: the image's initial contents, or memory for a region of the running configuration. -/
def State.progWord (s : State) (g : Judged) (a : Nat) : Nat :=
  match g.prog? a with
  | none => 0
  | some m =>
    if m.2 = runIdx then leNat (s.bytes a 8)
    else leNat ((List.range 8).map (fun i =>
      let o := a + i - m.1.addr
      if o < m.1.initLen then s.byte (s.stgBase + m.1.initOff + o) else 0))

/-- The instructions of a linear scan from a to `stop`, n at most. -/
def State.scan (s : State) (g : Judged) (stop : Nat) : Nat → Nat → List FInstr
  | 0, _ => []
  | n + 1, a =>
    if stop ≤ a then []
    else
      let w := fun (i : Nat) => s.progWord g (a + 8 * i)
      fryDecode (w 0) (w 1) (w 2) (w 3) :: s.scan g stop n (a + 8 * fryWords (w 0))

/-- The targets of the JUMPs of a scan. -/
def jumpTargets (is : List FInstr) : List Nat := is.filterMap (fun i => match i with | .jump t => some t | _ => none)

/-- Every instruction found from the starts `todo`, following each JUMP once; `none` where a start lies in no kind 3 region. -/
def State.scanAll (s : State) (g : Judged) : Nat → List Nat → List Nat → Option (List FInstr)
  | _, [], _ => some []
  | 0, _ :: _, _ => some []
  | n + 1, a :: todo, seen =>
    if seen.contains a then s.scanAll g n todo seen
    else
      match g.prog? a with
      | none => none
      | some m =>
        let is := s.scan g (m.1.addr + m.1.size) (m.1.size / 8 + 1) a
        (s.scanAll g n (jumpTargets is ++ todo) (a :: seen)).map (fun r => is ++ r)

/-- Does an instruction write a byte of a range, plainly, through an alias, or through the window of the own member? -/
def State.fryHits (s : State) (i : FInstr) (p : Span) : Bool :=
  let meets := fun (a n : Nat) => decide (s.plain a < p.hi) && decide (p.lo < s.plain a + n)
  match i with
  | .move m => (List.range m.total).any (fun k => meets (m.dstAt k) (fryW m.dw))
  | .crcStore _ a => meets a 4
  | _ => false

/-- What no resident program may write. -/
def State.forbidden (s : State) (g : Judged) : List Span :=
  (g.parts.filter (fun p => decide (p.1.cls ≠ 0))).flatMap (fun p => p.1.lcores.flatMap (fun l =>
    [{ coldLocal l with sec := 1, idx := p.2 }, { spareLocal l with sec := 1, idx := p.2 }])) ++
  g.kind4.map MemRegion.span ++ g.code.map CodeRec.span ++ [s.stgSpan]

/-- Check 11. -/
def State.check11 (s : State) (g : Judged) : Option QErr :=
  let bad := s.forbidden g
  let fuel := (g.mems.map (fun m => m.1.size / 8 + 1)).foldl (· + ·) 1
  firstErr [
    firstPair (fun a b => decide (a.1.own.chan = b.1.own.chan)) (fun a b => qerr2 11 7 a.2 7 b.2) g.ferry,
    firstErr (g.ferry.map (fun f =>
      let pc := (f.1.w 1).toNat / 8 * 8 + fld (f.1.w 2) 0 12 * 2 ^ 32
      match s.scanAll g (fuel * fuel) [pc] [] with
        | none => some (qerr 11 7 f.2)
        | some is => (bad.find? (fun p => is.any (fun i => s.fryHits i p))).map (fun p =>
            if p.sec = 0 then qerr 11 7 f.2 else qerr2 11 7 f.2 p.sec p.idx)))]

/-! ## Checks 12 to 15 -/

/-- Check 12: interrupts (R451). A word of the running configuration can fail only by what the image's PART entry says of its target. -/
def Judged.check12 (g : Judged) : Option QErr :=
  match g.irq with
  | none => none
  | some ws =>
    firstErr ((List.range 384).map (fun i =>
      let n := i + 32
      let w := ws.getD i 0
      let p := g.partOf (fld w 0 7)
      let land := bit w 12
      let masked := bit (ws.getD (383 + n / 32) 0) (n % 32)
      if (land || (!(decide (356 ≤ n) && decide (n ≤ 379)) && (match p with | some q => !q.land | none => false))) &&
        (masked || (match p with | some q => q.thrEn.testBit (fld w 8 2) | none => false)) then none
      else if g.irqOwn.getD i false then some (qerr 12 6 i)
      else some (qerr2 12 1 0 6 runIdx)))

/-- Check 13: a partial image (R475). -/
def State.check13 (s : State) (g : Judged) : Option QErr :=
  if !s.imgPartial then none
  else
    let n := s.imgPart
    let mine := g.parts.filter (fun p => decide (p.2 ≠ runIdx))
    firstErr [
      need (decide (n ≠ 0)) 13 0 0,
      need (decide (s.imgBase = (s.reg aQfaHash).toNat + (s.reg aQfaHashHi).toNat * 2 ^ 32)) 13 0 0,
      need (decide (mine.length = 1)) 13 1 0,
      need (mine.all (fun p => decide (p.1.part = n) && p.1.lcores.all (fun l => s.setup.parts.all (fun q =>
        decide (q.part = n) || s.ptShed q.part || !q.cores.getLsbD l)))) 13 1 0,
      need (match s.fixed? 1 with | some o => (s.img o 16).all (fun b => decide (b = 0xFF)) | none => false) 13 1 0,
      firstErr (g.code.map (fun c => need (decide (c.2 = runIdx) || decide (c.1.part = n)) 13 2 c.2)),
      firstErr (g.mems.map (fun m => need (decide (m.2 = runIdx) || decide (m.1.part = n)) 13 3 m.2)),
      firstErr (g.routes.map (fun r => need (decide (r.2 = runIdx) || decide (r.1.part = n)) 13 4 r.2)),
      firstErr (g.ferry.map (fun f => need (decide (f.2 = runIdx) || (f.1.own.owned && decide (f.1.own.part = n))) 13 7 f.2))]

/-- Check 14: the Tide (R43). -/
def State.check14 (s : State) (g : Judged) : Option QErr :=
  if s.imgPartial then none
  else firstErr [
    need (decide (1 ≤ g.n) && decide (g.n ≤ 48) && decide (g.n * 4000 ≤ g.fs)) 14 5 0,
    firstErr ((s.entries 5).map (fun e => need (decide ((s.tideEntry e.1).idx < 224)) 14 5 e.2))]

/-- Check 15: expected members is a 3-bit field plus one and a link mask a byte, so every encoding meets it. -/
def check15 : Option QErr := none

/-- Checks 1 to 15 in order, up to the first that fails (R468). -/
def State.checks (s : State) : Option QErr :=
  match firstErr [s.check1] with
  | some e => some e
  | none =>
    match firstErr [s.check2, s.check3, s.check4] with
    | some e => some e
    | none =>
      match s.check5 with
      | some e => some e
      | none =>
        let g := s.judged
        firstErr [s.check6 g, g.check7, s.check8 g, s.check9 g, g.check10, s.check11 g, g.check12, s.check13 g, s.check14 g, check15]

end Sys2Proof.Machine
end

