-- ==== Sys2Proof/Machine/Pcie.lean ====
section
/-! DEFINITION. The PCI Express function, MSI-X and the host's mailbox (spec/14_host_network_memory.md R555 to R565;
spec/opcode_table.json rows PCIE_LINK_UP, MSIX_UNMASK to MB_ACK, PERST_N_RELEASE). Host reads and writes are in
Machine/Access.lean. -/

namespace Sys2Proof.Machine

/-- Set flags of PCIE_STAT. -/
def pcieFlag (m : Word) (s : State) : State := s.orReg aPcieStat m

/-- PCIE_LINK takes a value; a change sets lnk_chg. -/
def setPcieLink (v : Nat) (s : State) : State :=
  let s1 := s.setReg aPcieLink (BitVec.ofNat 32 v)
  if s.reg aPcieLink = BitVec.ofNat 32 v then s1 else pcieFlag 0x100 s1

/-- The widest link width that both the far end and PCIE_CAP permit (R555). -/
def pcieWidth (far cap : Nat) : Option Nat := [8, 4, 2, 1].find? (fun w => decide (w ≤ far) && decide (w ≤ cap))

/-- PCIE_LINK_UP (R555): training settles on the highest generation and width that the host offers (`gen`, `width`) and PCIE_CAP
permits, once PERST_N is released. -/
def pcieLinkUp (gen width : Nat) (s : State) : State :=
  let cap := s.reg aPcieCap
  let g := min (min gen (fld cap 0 3)) 4
  match pcieWidth width (fld cap 4 4) with
  | some w => if s.pcie.perst = true ∧ 1 ≤ g then setPcieLink (g + w * 16 + 256) s else s
  | none => s

/-- PCIE_LINK_UP (R555). -/
def execPcieLinkUp (gen : Fin 8) (width : Fin 16) (s : State) : Res := .next (pcieLinkUp gen width s)

/-- PERST_N_RELEASE (R687): PERST_N rises, and training may begin. -/
def execPerstNRelease (s : State) : Res := .next { s with pcie := { s.pcie with perst := true } }

/-! ## MSI-X (R560) -/

/-- Is vector v free of both masks, with MSI-X enabled? -/
def State.msixOpen (s : State) (v : Nat) : Bool := s.pcie.msix && !s.pcie.mask && !bit (s.reg (aPcieMsixCtl v)) 0

/-- Vector v's message is sent; in L1 it leaves once the link has returned to L0 (R561). -/
def msixSend (v : Nat) (s : State) : State :=
  let m := (s.reg (aPcieMsixAddrHi v) ++ s.reg (aPcieMsixAddr v), s.reg (aPcieMsixData v))
  if bit (s.reg aPcieLink) 9 then { s with pcie := { s.pcie with held := s.pcie.held ++ [m] } }
  else { s with pcie := { s.pcie with sent := s.pcie.sent ++ [m] } }

/-- The link goes to L1, or returns to L0 and sends what waited for it (R561); each sets lnk_chg. -/
def pcieL1 (on : Bool) (s : State) : State :=
  let s1 := setPcieLink (setFld (s.reg aPcieLink) 9 1 (b2n on)).toNat s
  if on then s1 else { s1 with pcie := { s1.pcie with sent := s1.pcie.sent ++ s1.pcie.held, held := [] } }

/-- Every pending vector that is free of masks sends its message, and its pending bit clears. -/
def msixFlush (s : State) : State :=
  foldS (fun v s =>
    if bit (s.reg (aPciePba (v / 32))) (v % 32) && s.msixOpen v then (msixSend v s).clrReg (aPciePba (v / 32)) (bitW (v % 32)) else s)
    (List.range 64) s

/-- A rising edge of a shared source reaches the vectors mapped to it (R560). -/
def msixEdge (n : Nat) (s : State) : State :=
  foldS (fun v s =>
    let m := s.reg (aPcieMsixmap v)
    if bit m 15 && decide (fld m 0 9 = n) then
      let b := bitW (v % 32)
      if bit (s.reg (aPciePba (v / 32))) (v % 32) then s
      else if s.msixOpen v then msixSend v s else s.orReg (aPciePba (v / 32)) b
    else s) (List.range 64) s

/-- MSIX_UNMASK (R560): the host writes MSI-X enable and function mask. -/
def execMsixUnmask (en mask : Bool) (s : State) : Res :=
  .next (msixFlush { s with pcie := { s.pcie with msix := en, mask := mask } })

/-- A write of a vector's control word through BAR0. -/
def msixCtlWrite (v : Nat) (x : Word) (s : State) : State := msixFlush (s.setReg (aPcieMsixCtl v) x)

/-! ## Function reset (R564) -/

/-- A read of the host completes: with data, or with Unsupported Request status. -/
def hostCpl (bs : Option (List Byte)) (s : State) : State := { s with pcie := { s.pcie with cpl := bs } }

/-- The host's oldest request asks for its next beat, or completes, and the next request begins (R558). -/
def hostFlow : Nat → State → State
  | 0, s => s
  | n + 1, s =>
    match s.pcie.ops with
    | [] => s
    | op :: rest =>
      match op.cur, op.beats with
      | some _, _ => s
      | none, b :: bs =>
        let r := s.request .host (if op.store then .store else .load) b.addr b.len b.data 0 b.mask
        { r.1 with pcie := { r.1.pcie with ops := { op with cur := some r.2, beats := bs } :: rest } }
      | none, [] =>
        let s1 := { s with pcie := { s.pcie with ops := rest } }
        hostFlow n (if op.store then s1 else hostCpl op.acc s1)

/-- The beat outstanding of the host's oldest request has ended, with the data of a read or without. -/
def hostBeatEnd (bs : Option (List Byte)) (s : State) : State :=
  match s.pcie.ops with
  | [] => s
  | op :: rest =>
    let acc := match op.acc, bs with | some x, some y => some (x ++ y) | _, _ => none
    hostFlow (rest.length + 2) { s with pcie := { s.pcie with ops := { op with cur := none, acc := acc } :: rest } }

/-- FUNCTION_RESET (R564): PERST_N (kind 0), a hot reset (1), a link down (2) or a Function Level Reset (3). The configuration space,
the MSI-X table, the PBA, PCIE_HDB and the mailbox return to their reset values. Writes that the device holds go on; a read is not
completed any more. -/
def functionReset (kind : Nat) (s : State) : State :=
  let p1 : Pcie := { s.pcie with
    msix := false
    mask := false
    perst := s.pcie.perst && decide (kind ≠ 0)
    req := none
    exec := s.pcie.exec.map (fun _ => true)
    held := []
    ops := s.pcie.ops.filter (fun o => o.store) }
  let s1 := { s with regs := smKeep (fun a => !(decide (0x400D8000 ≤ a) && decide (a < aPcieDdb))) s.regs, pcie := p1 }
  hostFlow (s1.pcie.ops.length + 1) (pcieFlag 0x8000 (if kind = 0 ∨ kind = 2 then setPcieLink 0 s1 else s1))

/-- FUNCTION_RESET (R564). -/
def execFunctionReset (kind : Fin 4) (s : State) : Res := .next (functionReset kind s)

/-! ## Mailbox (R562, R563) -/

/-- mb_err. -/
def mbErr (s : State) : State := s.orReg aPcieMbStat 0x100

/-- A write of word i of PCIE_MB_IN (R563). -/
def mbInWrite (i : Nat) (v : Word) (s : State) : State :=
  if bit (s.reg aPcieMbStat) 0 then mbErr s else s.setReg (aPcieMbIn i) v

/-- MB_IN_WRITE (R563). -/
def execMbInWrite (k : Fin 1024) (v : Word) (s : State) : Res := .next (mbInWrite k v s)

/-- n bytes of the registers from an address. -/
def State.regBytes (s : State) (a n : Nat) : List Byte :=
  ((List.range ((n + 3) / 4)).flatMap (fun i => leBytes 4 (s.reg (a + 4 * i)).toNat)).take n

/-- A write of PCIE_MB_GO (R562, R563). -/
def mbGo (v : Word) (s : State) : State :=
  let n := fld v 0 13
  if fld (s.reg aPcieMbStat) 0 2 = 0 ∧ 1 ≤ n ∧ n ≤ 4096 then
    let s1 := pcieFlag 0x800 (s.orReg aPcieMbStat 1)
    { s1 with pcie := { s1.pcie with req := some (s1.regBytes (aPcieMbIn 0) n) } }
  else mbErr s

/-- MB_GO (R562). -/
def execMbGo (len : Word) (s : State) : Res := .next (mbGo len s)

/-- A write of PCIE_MB_ACK (R562). -/
def mbAck (v : Word) (s : State) : State := if bit v 0 then s.clrReg aPcieMbStat 2 else s

/-- MB_ACK (R562). -/
def execMbAck (v : Word) (s : State) : Res := .next (mbAck v s)

/-- Store bytes as words of registers from an address. -/
def putRegBytes (a : Nat) (bs : List Byte) (s : State) : State :=
  foldS (fun i s => s.setReg (a + 4 * i) (BitVec.ofNat 32 (leNat ((bs.drop (4 * i)).take 4)))) (List.range ((bs.length + 3) / 4)) s

/-- The command processor's response reaches the mailbox (R562 steps 3 and 4), unless a function reset has come since (R564). -/
def mbRespond (bs : List Byte) (s : State) : State :=
  let s0 := { s with pcie := { s.pcie with exec := none } }
  if s.pcie.exec = some true then s0
  else (((putRegBytes (aPcieMbOut 0) bs s0).setRegFld aPcieMbStat 16 13 bs.length).orReg aPcieMbStat 2).clrReg aPcieMbStat 1

/-- PCIE_STAT with its copies of resp, hdb and ddb (Table 14-6). -/
def State.pcieStat (s : State) : Word :=
  s.reg aPcieStat ||| BitVec.ofNat 32 (b2n (bit (s.reg aPcieMbStat) 1) * 2 ^ 10 + b2n (decide (s.reg aPcieHdb ≠ 0)) * 2 ^ 12 +
    b2n (decide (s.reg aPcieDdb ≠ 0)) * 2 ^ 13)

end Sys2Proof.Machine
end

