-- ==== Sys2Proof/Machine/Levels.lean ====
section
/-! DEFINITION. The level that every source block holds on its interrupt sources (spec/09_interrupt_controller.md R375, Tables 09-1
and 09-2, and the chapter of each block), and the row SOURCE_LEVEL_CHANGE. -/

namespace Sys2Proof.Machine

/-- Is a bit of a status that stands in the mask 1 together with its enable? -/
def lvl (stat ien mask : Word) : Bool := decide (stat &&& ien &&& mask ≠ 0)

/-- The enable and status levels of a serial audio port (R508). -/
def State.sapLevel (s : State) (n : Nat) (err : Bool) : Bool :=
  lvl (s.reg (aSapStat n)) (s.reg (aSapIen n)) (if err then 0xFE00 else 0x100)

/-- The four lines of a Strand link (R553). -/
def State.strLevel (s : State) (n line : Nat) : Bool :=
  let l := fun (m : Word) => lvl (s.reg (aStrStat n)) (s.reg (aStrIen n)) m
  match line with
  | 0 => l 0xF00
  | 1 => l 0xF000
  | 2 => l 0x30000
  | _ => l 0xC0000 || (decide (n = 0) && lvl (s.reg aCampStat) (s.reg aCampIen) 0xFF00)

/-- The four lines of an Ethernet port (R577, Table 14-8). -/
def State.ethLevel (s : State) (p line : Nat) : Bool :=
  lvl (s.ethStat p) (s.reg (aEthIen p)) (match line with | 0 => 0x100 | 1 => 0x200 | 2 => 0x4400 | _ => 0x3800)

/-- The two lines of a Ferry channel (R370). -/
def State.fryLevel (s : State) (n : Nat) (full : Bool) : Bool :=
  lvl (s.fryStat n) (s.reg (aFryIen n)) (if full then 0x3FE00 else 0x100)

/-- The Tide's shared sources (Table 02-6, R71): 0 status, 1 frame boundary, 2 to 15 the compare lines. -/
def State.tideLevel (s : State) (line : Nat) : Bool :=
  match line with
  | 0 => lvl (s.reg aTideStat) (s.reg aTideIen) 0x7F00
  | 1 => lvl (s.reg aTideStat) (s.reg aTideIen) 0x8000
  | _ => (List.range 256).any (fun n =>
      bit (s.reg (aTideCmpPend (n / 32))) (n % 32) && decide (s.cmpAct n = 1) &&
      decide (fld (s.reg (aTideCmpCtl n)) 8 4 = line))

/-- The command and journal sources (R606, Table 15-8). -/
def State.secLevel (s : State) (i : Nat) : Bool :=
  if i ≤ 3 then lvl (s.reg aSecStat) (s.reg aSecIen) (bitW i)
  else match i with
  | 4 => lvl (s.reg aQfaStat) (s.reg aQfaIen) 0xF00
  | 5 => lvl (s.reg aJrnlStat) (s.reg aJrnlIen) 0x300
  | 6 => lvl (s.reg aJrnlStat) (s.reg aJrnlIen) 0x1C00
  | _ => false

/-- An event-input group's source (R623). -/
def State.eviLevel (s : State) (g : Nat) : Bool := lvl (s.evStat g) (s.reg (aEviGIen g)) 0x701

/-- A GPIO source: the pins 9i to 9i + 8 (R627). -/
def State.gpioLevel (s : State) (i : Nat) : Bool := (List.range 9).any (fun j => s.gpBit aGpioIntStat (9 * i + j))

/-- The clock, power and Lantern sources (R667, Table 17-10). -/
def State.ckpLevel (s : State) (i : Nat) : Bool :=
  let c := fun (m : Word) => lvl (s.reg aCkpStat) (s.reg aCkpIen) m
  let l := fun (m : Word) => lvl (s.reg aLantStat) (s.reg aLantIen) m
  match i with
  | 0 => c 0x300 | 1 => c 0x400 | 2 => c 0x6800 | 3 => c 0x1000
  | 4 => l 0x100 | 5 => l 0x600 | 6 => l 0x800 | _ => l 0x3000

/-- The memory error sources (spec/07_memory.md, MEMC_STAT). -/
def State.memcLevel (s : State) (i : Nat) : Bool :=
  lvl (s.reg aMemcStat) (s.reg aMemcIen) (match i with | 0 => 1 | 1 => 6 | 2 => 0x18 | _ => 0x20)

/-- The level that its block holds on shared source n (Table 09-2). -/
def State.sharedLevel (s : State) (n : Nat) : Bool :=
  if n < 32 then false
  else if n < 160 then s.sapLevel ((n - 32) / 2) (decide (n % 2 = 1))
  else if n < 192 then s.strLevel ((n - 160) / 4) (n % 4)
  else if n < 200 then s.ethLevel ((n - 192) / 4) (n % 4)
  else if n < 208 then lvl s.pcieStat (s.reg aPcieIen) (bitW (8 + (n - 200)))
  else if n < 212 then lvl (s.reg aDdrcStat) (s.reg aDdrcIen) (bitW (n - 208))
  else if n < 340 then s.fryLevel ((n - 212) / 2) (decide (n % 2 = 1))
  else if n < 356 then s.tideLevel (n - 340)
  else if n < 372 then lvl (s.reg (aBwtrCevt (n - 356))) (s.reg (aBwtrCien (n - 356))) 0xFF
  else if n < 380 then s.secLevel (n - 372)
  else if n < 396 then s.eviLevel (n - 380)
  else if n < 404 then s.gpioLevel (n - 396)
  else if n < 412 then s.ckpLevel (n - 404)
  else s.memcLevel (n - 412)

/-- The level that a source's block holds. -/
def State.sourceLevel (s : State) : SrcRef → Bool
  | .shared n => s.sharedLevel n.val
  | .priv k t i => s.privLevel k t i

/-- SOURCE_LEVEL_CHANGE (R383, R386, R560): the synchronised level of a source takes the level that its block holds; a rising edge
of a shared source reaches the MSI-X vectors mapped to it. SYSCLK takes the level of a shared source (R389, R634). -/
def sourceLevelChange (r : SrcRef) (s : State) : State :=
  let x := s.src r
  let l := s.sourceLevel r
  if (match r with | .shared _ => s.fclkRuns | .priv _ _ _ => true) = false ∨ srcExists r = false ∨ x.level = l then s
  else
    let s1 := s.setSrc r (x.setLevel l)
    match r with
    | .shared n => if l then msixEdge n.val s1 else s1
    | .priv _ _ _ => s1

/-- SOURCE_LEVEL_CHANGE (R383). -/
def execSourceLevelChange (src : SrcRef) (s : State) : Res := .next (sourceLevelChange src s)

end Sys2Proof.Machine
end

