-- ==== Sys2Proof/Machine/Power.lean ====
section
/-! DEFINITION. Operating points and the regulator, PLLs, modes, the Lantern, control-port matches, the TAP and the temperature
(spec/17_clocks_power.md; spec/opcode_table.json rows OP_REQUEST to CP_ADDRESS_MATCH, EXTEST to BYPASS, HALT_REQUEST to
TEMP_UPDATE). LOW_POWER_ENTRY_COMPLETE, BIVOUAC_RETURN and LANTERN_BOOT are in Machine/Reset.lean. -/

namespace Sys2Proof.Machine

/-! ## Operating points (R641 to R647) -/

/-- The voltage of a point in mV. -/
def opMv : Nat → Nat
  | 0 => 550 | 1 => 600 | 2 => 650 | 3 => 700 | 4 => 750 | _ => 850

/-- The target point of cluster c. -/
def State.opTarget (s : State) (c : Nat) : Nat := fld (s.reg (aCkpClOp c)) 0 3

/-- The current point of cluster c. -/
def State.opCur (s : State) (c : Nat) : Nat := fld (s.reg (aCkpClOp c)) 8 3

/-- Set target and current point of cluster c; the change is pending while they differ. -/
def setOp (c t cur : Nat) (s : State) : State :=
  s.setReg (aCkpClOp c) (BitVec.ofNat 32 (t + cur * 2 ^ 8 + (if t = cur then 0 else 2 ^ 16)))

/-- vlo of CKP_VR_STAT. -/
def State.vlo (s : State) : Nat := fld (s.reg aCkpVrStat) 0 3

/-- vhi: after a reset OP5, until the regulator has been read (R647). -/
def State.vhi (s : State) : Nat := if s.ckp.vr = .boot then 5 else fld (s.reg aCkpVrStat) 4 3

/-- The commanded point. -/
def State.vcmd (s : State) : Nat := fld (s.reg aCkpVrStat) 8 3

/-- Has the regulator failed? -/
def State.vfail (s : State) : Bool := bit (s.reg aCkpVrStat) 13

/-- Set vlo and vhi. -/
def setRange (lo hi : Nat) (s : State) : State := (s.setRegFld aCkpVrStat 0 3 lo).setRegFld aCkpVrStat 4 3 hi

/-- The regulator sequence takes a step; CKP_VR_STAT.busy shows it. -/
def setVr (x : VrSt) (s : State) : State :=
  { s with ckp := { vr := x, fails := 0 } }.setRegFld aCkpVrStat 12 1 (if x = VrSt.idle then 0 else 1)

/-- VOUT_COMMAND for a point is sent. -/
def vrCommand (up : Bool) (v : Nat) (s : State) : State := setVr (.ack up) (s.setRegFld aCkpVrStat 8 3 v)

/-- Is cluster c ON (R650)? -/
def State.clusterOn (s : State) (c : Nat) : Bool := decide (fld (s.reg aCkpClPwr) (2 * c) 2 = 0)

/-- The highest point that a running cluster requests; in BIVOUAC, until the wake, none runs (Table 17-7 step 6, R658). -/
def State.topTarget (s : State) : Nat :=
  if s.pwr.mode = .bivouac ∧ s.pwr.woken = false then 0
  else (List.range 16).foldl (fun m c => if s.clusterOn c then max m (s.opTarget c) else m) 0

/-- Steps 2 and 3 of R643, once no lowering is left for a boundary. -/
def vrAdvance (s : State) : State :=
  if s.ckp.vr ≠ .idle ∨ s.vfail = true ∨ (List.range 16).any (fun c => decide (s.opTarget c < s.opCur c)) = true then s
  else
    let v := s.topTarget
    if v < s.vhi then vrCommand false v (s.setRegFld aCkpVrStat 0 3 v)
    else if s.vlo < v then vrCommand true v s
    else s

/-- A request for an operating point (R642). Points 6 and 7 are undefined. -/
def opRequest (c t : Nat) (s : State) : State :=
  let t := legal 12 6 t
  let s1 := setOp c t (s.opCur c) s
  vrAdvance (s1.orRegIf (decide (t = s.opCur c)) aCkpStat 0x100)

/-- OP_REQUEST (R642). -/
def execOpRequest (c : Fin 16) (t : Fin 8) (s : State) : Res := .next (opRequest c t s)

/-- CCLK_LOWER (R643 step 1). -/
def cclkLower (c : Nat) (s : State) : State :=
  if s.atFrameBoundary = true ∧ s.opTarget c < s.opCur c then
    vrAdvance ((setOp c (s.opTarget c) (s.opTarget c) s).orReg aCkpStat 0x100)
  else s

/-- CCLK_LOWER (R643). -/
def execCclkLower (c : Fin 16) (s : State) : Res := .next (cclkLower c s)

/-- CCLK_RAISE (R643 step 4, R641): vlo has reached the needed voltage. -/
def cclkRaise (c : Nat) (s : State) : State :=
  if s.atFrameBoundary = true ∧ s.opCur c < s.opTarget c ∧ s.opTarget c ≤ s.vlo ∧ s.vfail = false then
    (setOp c (s.opTarget c) (s.opTarget c) s).orReg aCkpStat 0x100
  else s

/-- CCLK_RAISE (R643). -/
def execCclkRaise (c : Fin 16) (s : State) : Res := .next (cclkRaise c s)

/-- A regulator failure (R646). -/
def vrFail (s : State) : State :=
  let s1 := setVr .idle (setRange s.vlo (max s.vhi s.vcmd) s)
  let s2 := foldS (fun c s => if s.opCur c < s.opTarget c then setOp c (s.opCur c) (s.opCur c) s else s) (List.range 16) s1
  (s2.orReg aCkpVrStat 0x2000).orReg aCkpStat 0x200

/-- VOUT_COMMAND_ACK (R643). -/
def voutCommandAck (s : State) : State :=
  match s.ckp.vr with
  | .ack up => setVr (.poll up) (if up then setRange s.vlo s.vcmd s else s)
  | _ => s

/-- VOUT_COMMAND_ACK (R643). -/
def execVoutCommandAck (s : State) : Res := .next (voutCommandAck s)

/-- The highest point at or below a reading, or OP0. -/
def pointBelow (mv : Nat) : Nat := (List.range 6).foldl (fun m p => if opMv p ≤ mv then p else m) 0

/-- The lowest point at or above a reading, or OP5. -/
def pointAbove (mv : Nat) : Nat := ((List.range 6).find? (fun p => decide (mv ≤ opMv p))).getD 5

/-- The reading after a reset or a retry sets the range, or is a failure (R646, R647). -/
def vrReread (mv : Nat) (s : State) : State :=
  if opMv s.vlo ≤ mv + 10 ∧ mv ≤ opMv s.vhi + 10 then
    vrAdvance (setVr .idle (setRange (pointBelow mv) (pointAbove mv) s))
  else vrFail s

/-- A READ_VOUT returns mv (R643, R646, R647). -/
def readVout (mv : Nat) (s : State) : State :=
  let s1 := s.setReg aCkpVrVout (BitVec.ofNat 32 (mv % 65536))
  let t := opMv s.vcmd
  match s.ckp.vr with
  | .poll up =>
    if mv ≤ t + 10 ∧ t ≤ mv + 10 then
      if up then setVr .settle s1 else vrAdvance (setVr .idle (setRange s.vlo s.vcmd s1))
    else { s1 with ckp := { s1.ckp with fails := 0 } }
  | .boot => vrReread mv s1
  | .retry => vrReread mv s1
  | _ => s

/-- READ_VOUT (R643). -/
def execReadVout (mv : BitVec 16) (s : State) : Res := .next (readVout mv.toNat s)

/-- SETTLE_EXPIRE (R643 step 3). -/
def settleExpire (s : State) : State :=
  if s.ckp.vr = .settle then vrAdvance (setVr .idle (setRange s.vcmd s.vhi s)) else s

/-- SETTLE_EXPIRE (R643). -/
def execSettleExpire (s : State) : Res := .next (settleExpire s)

/-- PMBUS_TIMEOUT (R645): a transaction is NACKed or takes over 1 ms; the third time is a regulator failure. -/
def pmbusTimeout (s : State) : State :=
  match s.ckp.vr with
  | .idle => s
  | .settle => s
  | _ => if 2 ≤ s.ckp.fails then vrFail s else { s with ckp := { s.ckp with fails := s.ckp.fails + 1 } }

/-- PMBUS_TIMEOUT (R645). -/
def execPmbusTimeout (s : State) : Res := .next (pmbusTimeout s)

/-- VR_READBACK_TIMEOUT (R645): READ_VOUT has not reached its target in time. -/
def execVrReadbackTimeout (s : State) : Res :=
  .next (match s.ckp.vr with | .poll _ => vrFail s | _ => s)

/-- A write of 1 to CKP_VR_RETRY (R646). -/
def vrRetry (s : State) : State :=
  if s.vfail then setVr .retry (s.clrReg aCkpVrStat 0x2000) else s

/-- VR_RETRY (R646). -/
def execVrRetry (s : State) : Res := .next (vrRetry s)

/-! ## PLLs (R634) -/

/-- PLL_UNLOCK (R634). -/
def execPllUnlock (p : Fin 7) (s : State) : Res := .next ((s.orReg aCkpPllStat (bitW p)).orReg aCkpStat 0x400)

/-- PLL_RELOCK (R634). -/
def execPllRelock (p : Fin 7) (s : State) : Res := .next (s.clrReg aCkpPllStat (bitW p))

/-! ## Modes (R648 to R653) -/

/-- The code of a mode (Table 17-5). -/
def Mode.code : Mode → Nat
  | .off => 0 | .anchor => 1 | .boot => 2 | .pitch => 3 | .run => 4 | .neap => 5 | .bivouac => 6 | .lantern => 7
  | .shore => 8 | .degraded => 9 | .halt => 10 | .test => 11

/-- The mode of a code. -/
def modeOf (n : Nat) : Option Mode :=
  match n with
  | 0 => some .off | 1 => some .anchor | 2 => some .boot | 3 => some .pitch | 4 => some .run | 5 => some .neap
  | 6 => some .bivouac | 7 => some .lantern | 8 => some .shore | 9 => some .degraded | 10 => some .halt | 11 => some .test
  | _ => none

/-- SYS_MODE (Table 17-13). -/
def State.sysMode (s : State) : Word :=
  BitVec.ofNat 32 (s.pwr.mode.code + 16 * s.pwr.prev.code + 256 * b2n (s.pwr.req.isSome || s.pwr.entering.isSome))

/-- Reservoir banks take their NEAP states (R327). -/
def neapBanks (s : State) : State := foldS (fun u s => s.setMemPwr u (s.neapState u)) (List.range 32) s

/-- Outside NEAP every Reservoir bank is ON (R327). -/
def leaveNeap (s : State) : State := if s.pwr.mode = .neap then banksOn s else s

/-- A cluster that comes back runs at no point above the voltage that is known to be applied (R24, R641), and its point is raised as any
other is (DESIGN CHOICE, log entry 19). -/
def capOps (s : State) : State :=
  foldS (fun c s => if s.vlo < s.opCur c then setOp c (s.opTarget c) s.vlo s else s) (List.range 16) s

/-- Every cluster and every Reservoir bank returns to ON (R652). -/
def allOn (s : State) : State :=
  vrAdvance (capOps (foldS (fun u s => s.turnOn u) (List.range 48) (s.setReg aCkpClPwr 0)))

/-- Enter a mode; RUN, NEAP and SHORE become DEGRADED while Breakwater holds that state (R443). -/
def enterMode (m : Mode) (s : State) : State :=
  let s1 := { s with pwr := { s.pwr with req := none } }
  if (m = .run ∨ m = .neap ∨ m = .shore) ∧ bit (s.reg aBwtrStat) 0 = true then
    setMode .degraded { s1 with pwr := { s1.pwr with replaced := m } }
  else setMode m (if m = .neap then neapBanks s1 else s1)

/-- Does an instruction of a program name an address in [lo, hi)? -/
def FInstr.names (i : FInstr) (lo hi : Nat) : Bool :=
  match i with
  | .move m => (List.range m.total).any (fun k =>
      (decide (m.dstAt k < hi) && decide (lo < m.dstAt k + fryW m.dw)) || (decide (m.srcAt k < hi) && decide (lo < m.srcAt k + fryW m.sw)))
  | .crcFold a n => decide (a < hi) && decide (lo < a + n)
  | .crcStore _ a => decide (a < hi) && decide (lo < a + 4)
  | _ => false

/-- The running configuration in the form the checks judge. -/
def State.running (s : State) : Judged :=
  { parts := s.setup.parts.map (fun p => (p, runIdx)), code := s.setup.code.map (fun c => (c, runIdx))
    mems := s.setup.mems.map (fun m => (m, runIdx)), routes := s.setup.routes.map (fun r => (r, runIdx))
    ferry := s.setup.ferry.map (fun o => (s.runFerry o, runIdx)), ops := [], fs := 0, n := s.tide.nNow, irq := none, irqOwn := [] }

/-- May cluster c be powered down (R651)? The vector tables of thread-start records lie in the I-TCMs of their cores. -/
def State.mayPowerDown (s : State) (c : Nat) : Bool :=
  let g := s.running
  let lo := 0x20000000 + c * 0x400000
  let fuel := (g.mems.map (fun m => m.1.size / 8 + 1)).foldl (· + ·) 1
  !(s.setup.parts.any (fun p => !s.ptOut p.part && p.lcores.any (fun l => decide (l / 8 = c)))) &&
  g.routes.all (fun r => (r.1.half && decide (r.1.kind % 2 = 1)) || decide (r.1.addr + r.1.stride * 8 < lo) || decide (lo + 0x240000 ≤ r.1.addr)) &&
  s.setup.ferry.all (fun o =>
    match s.scanAll g (fuel * fuel) [(s.fry o.chan).pc] [] with
    | none => true
    | some is => is.all (fun i => !i.names lo (lo + 0x240000)))

/-- Is entry to NEAP permitted (R651)? -/
def State.neapOk (s : State) : Bool :=
  (List.range 16).all (fun c =>
    let x := legal 7 3 (fld (s.reg aCkpNeapCl) (2 * c) 2)
    decide (x = 0) || s.mayPowerDown c)

/-- Is a requested transition one of Table 17-6 that a request may make? -/
def State.mayRequest (s : State) (m : Mode) : Bool :=
  s.pwr.req.isNone && s.pwr.entering.isNone &&
  (match s.pwr.mode, m with
   | .run, .neap => s.neapOk
   | .run, .shore => true
   | .neap, .run => true
   | .shore, .run => true
   | .run, .bivouac => true | .run, .lantern => true
   | .neap, .bivouac => true | .neap, .lantern => true
   | .shore, .bivouac => true | .shore, .lantern => true
   | _, _ => false)

/-- A request for a transition (R648, R649); the answer says whether it was taken. -/
def modeRequest (code : Nat) (s : State) : State × Bool :=
  match modeOf code with
  | none => (s.orReg aCkpStat 0x4000, false)
  | some m =>
    if s.mayRequest m then ({ s with pwr := { s.pwr with req := some m } }, true)
    else (s.orReg aCkpStat 0x4000, false)

/-- May the initiator write CKP, SYS_MODE and SYS_MODE_REQ (R668)? `cst` is the CSTAT level and world of a core thread. The
command processor's own requests do not pass here. -/
def ckpWriter (ini : Initiator) (cst : Nat) : Bool :=
  match ini with
  | .core _ _ => decide (5 ≤ cst)
  | .debug => true
  | _ => false

/-- MODE_REQUEST (R648, R649): a write of SYS_MODE_REQ. -/
def execModeRequest (ini : Initiator) (v : Word) (s : State) : Res :=
  .next (if ckpWriter ini (s.cstOf ini) then (modeRequest (fld v 0 4) s).1 else s)

/-- CKP_CL_PWR takes the states of CKP_NEAP_CL; see `legal` for the reserved code. -/
def State.neapClusters (s : State) : Word :=
  BitVec.ofNat 32 ((List.range 16).foldl (fun a c =>
    let x := legal 7 3 (fld (s.reg aCkpNeapCl) (2 * c) 2)
    a + x * 4 ^ c) 0)

/-- The core of slot k loses its state (R650), which is no CORE reset: an injection that waits in its logical core stays (R452). -/
def dropCore (k : Nat) (s : State) : State :=
  match s.lcoreOf k with
  | some l => let x := s.lc l; let s1 := coreReset k s; s1.setLc l { s1.lc l with inj := x.inj, ripe := x.ripe }
  | none => coreReset k s

/-- The cores of clusters that are not ON lose their state (R650). -/
def dropCores (s : State) : State :=
  foldS (fun c s => if s.clusterOn c then s else foldS (fun i s => dropCore (9 * c + i) s) (List.range 9) s) (List.range 16) s

/-- NEAP_ENTRY (R650). -/
def neapEntry (s : State) : State :=
  if s.pwr.mode = .run ∧ s.pwr.req = some .neap ∧ s.atFrameBoundary = true then
    vrAdvance (enterMode .neap (neapUnits (dropCores (s.setReg aCkpClPwr s.neapClusters))))
  else s

/-- NEAP_ENTRY (R650). -/
def execNeapEntry (s : State) : Res := .next (neapEntry s)

/-- NEAP_EXIT (R652). -/
def neapExit (s : State) : State :=
  if s.pwr.mode = .neap ∧ s.pwr.req = some .run ∧ s.atFrameBoundary = true then
    enterMode .run (allOn s)
  else s

/-- NEAP_EXIT (R652). -/
def execNeapExit (s : State) : Res := .next (neapExit s)

/-- SHORE_ENTRY (R653): Seaward partitions stop at the next fires of their frame compares. -/
def shoreEntry (s : State) : State :=
  if s.pwr.mode = .run ∧ s.pwr.req = some .shore ∧ s.atFrameBoundary = true then enterMode .shore s else s

/-- SHORE_ENTRY (R653). -/
def execShoreEntry (s : State) : Res := .next (shoreEntry s)

/-- SHORE_EXIT (R653): Seaward partitions restart at the next fires of their frame compares. -/
def shoreExit (s : State) : State :=
  if s.pwr.mode = .shore ∧ s.pwr.req = some .run ∧ s.atFrameBoundary = true then enterMode .run s else s

/-- SHORE_EXIT (R653). -/
def execShoreExit (s : State) : Res := .next (shoreExit s)

/-- LOW_POWER_ENTRY (Table 17-7 steps 1 and 2): at t0 MUTE_N falls, outputs ramp and input routes stop. -/
def lowPowerEntry (s : State) : State :=
  match s.pwr.req with
  | some m =>
    if (m = .bivouac ∨ m = .lantern) ∧ s.atFrameBoundary = true then
      sapRamp { s with pwr := { s.pwr with req := none, entering := some m, back := s.pwr.mode, woken := false } }
    else s
  | none => s

/-- LOW_POWER_ENTRY (R654). -/
def execLowPowerEntry (s : State) : Res := .next (lowPowerEntry s)

/-! ## HALT (R666) -/

/-- HALT_REQUEST: HALTREQ with 1. -/
def haltRequest (s : State) : State :=
  if bit (s.reg aSecDbg) 0 && s.pwr.req.isNone && s.pwr.entering.isNone &&
      (match s.pwr.mode with | .run => true | .neap => true | .shore => true | .degraded => true | _ => false) then
    { s with pwr := { s.pwr with req := some .halt }, tap := { s.tap with ir := 0x11 } }
  else { s with tap := { s.tap with ir := 0x11 } }

/-- HALT_REQUEST (R666). -/
def execHaltRequest (s : State) : Res := .next (haltRequest s)

/-- HALT_RELEASE: HALTREQ with 0. -/
def haltRelease (s : State) : State :=
  let s1 := { s with tap := { s.tap with ir := 0x11 } }
  if !bit (s.reg aSecDbg) 0 then s1
  else if s.pwr.mode = .halt then { s1 with pwr := { s1.pwr with req := some s.pwr.back } }
  else if s.pwr.req = some .halt then { s1 with pwr := { s1.pwr with req := none } }
  else s1

/-- HALT_RELEASE (R666). -/
def execHaltRelease (s : State) : Res := .next (haltRelease s)

/-- At a tide frame boundary HALT is entered or left (Table 17-6). -/
def haltBoundary (s : State) : State :=
  match s.pwr.req with
  | some .halt => setMode .halt { leaveNeap s with pwr := { s.pwr with req := none, back := s.pwr.mode } }
  | some m => if s.pwr.mode = .halt then enterMode m s else s
  | none => s

/-! ## The Lantern (R655 to R660, R669) -/

/-- dt LCLK pass. -/
def passLclk (dt : Nat) (s : State) : State := { s with lant := { s.lant with rtc := s.lant.rtc + BitVec.ofNat 48 dt } }

/-- RTC_COMPARE_REACHED (R669): the RTC reaches target k, enabled, dt LCLK on. -/
def rtcReached (k dt : Nat) (s : State) : State :=
  let s1 := passLclk dt s
  let hi := s.reg (aLantRtccmpHi k)
  let t := (s.reg (aLantRtccmpLo k)).toNat + fld hi 0 16 * 2 ^ 32
  if bit hi 31 ∧ t ≤ s1.lant.rtc.toNat ∧ s.lant.reached.testBit k = false then
    { s1.orReg aLantStat (bitW (9 + k)) with lant := { s1.lant with reached := s1.lant.reached + 2 ^ k } }
  else s1

/-- RTC_COMPARE_REACHED (R669). -/
def execRtcCompareReached (k : Fin 2) (dt : Nat) (s : State) : Res := .next (rtcReached k dt s)

/-- Has the block of a shared source power in LANTERN? Only the Lantern itself has (R403). -/
def litInLantern (id : Nat) : Bool := decide (408 ≤ id) && decide (id < 412)

/-- Is a wake of a class with an ID asserted (R657)? Class 3 is the address match itself. A block without power holds its sources at 0. -/
def State.wakeSource (s : State) (cls id : Nat) : Bool :=
  match cls with
  | 1 => (List.range 32).any (fun k => let w := s.reg (aIcLw k); bit w 15 && decide (fld w 0 9 = id)) &&
      (decide (s.pwr.mode ≠ .lantern) || litInLantern id) && s.sharedLevel id
  | 2 => decide (id < 128) && bit (s.reg (aEviGLwk (id / 8))) (id % 8)
  | 3 => true
  | 4 => decide (id < 2) && s.lant.reached.testBit id
  | _ => false

/-- A wake (R655, R657): in a low-power mode, or by an edge or an address match on the way there, an enabled class is recorded unless an
earlier wake still stands, and the device returns. Levels are sampled only once the entry is complete (R403, R656). -/
def wake (cls id dt : Nat) (s : State) : State :=
  let s1 := passLclk dt s
  let low := decide (s.pwr.mode = .bivouac) || decide (s.pwr.mode = .lantern)
  if (low || (s.pwr.entering.isSome && (decide (cls = 2) || decide (cls = 3)))) && decide (1 ≤ cls) && bit (s.reg aLantWakeEn) (cls - 1) && s.wakeSource cls id then
    let left := match s.pwr.entering with | some m => m | none => s.pwr.mode
    let s2 := { s1 with pwr := { s1.pwr with woken := true } }
    let s2 := vrAdvance s2
    if bit (s.reg (aLantWake 0)) 31 then s2
    else
      let r := s1.lant.rtc.toNat
      (((s2.setReg (aLantWake 0) (BitVec.ofNat 32 (cls + (if cls = 3 then 0 else id) * 2 ^ 16 + 2 ^ 31))).setReg (aLantWake 1)
        (BitVec.ofNat 32 r)).setReg (aLantWake 2) (BitVec.ofNat 32 (r / 2 ^ 32 + left.code * 2 ^ 16))).orReg aLantStat 1
  else s1

/-- WAKE (R657). -/
def execWake (cls : Fin 5) (id : Fin 416) (dt : Nat) (s : State) : Res := .next (wake cls id dt s)

/-- A write of 1 to LANT_STAT.woke (R669). -/
def wokeClear (s : State) : State := (s.clrReg aLantStat 0x101).clrReg (aLantWake 0) 0x80000000

/-- WOKE_CLEAR (R669). -/
def execWokeClear (s : State) : Res := .next (wokeClear s)

/-- CP_ADDRESS_MATCH (R661, R663): the control port meets an address, or CS_N falls in SPI mode. -/
def cpAddressMatch (a : Nat) (s : State) : State :=
  let c := s.reg aLantCpCfg
  let no := { s with cp := { s.cp with ready := false } }
  let yes := { s with cp := { s.cp with ready := true } }
  if !bit c 8 && decide (fld c 0 7 ≠ a) then no
  else if s.pwr.entering.isSome then wake 3 0 0 no
  else
    match s.pwr.mode with
    | .off => no
    | .anchor => no
    | .test => no
    | .lantern => wake 3 0 0 no
    | .bivouac => wake 3 0 0 yes
    | _ => yes

/-- CP_ADDRESS_MATCH (R661). -/
def execCpAddressMatch (a : BitVec 7) (s : State) : Res := .next (cpAddressMatch a.toNat s)

/-! ## The TAP (R664, R665) -/

/-- May the instructions that test the board take effect (R665)? -/
def State.tapMay (s : State) : Bool :=
  decide (s.pwr.mode = .test) || (decide (s.pwr.mode = .anchor) && s.pwr.cold) || bit (s.reg aSecDbg) 2

/-- BYPASS is selected. -/
def tapBypass (s : State) : State := { s with tap := { s.tap with ir := 0xFF, bypass := false, pins := .none } }

/-- A test instruction at Update-IR: TEST is entered, with every core held in reset (R665, Table 17-5); where it may not take
effect it is BYPASS. -/
def tapTest (code : Nat) (pins : TapPins) (bits : List Bool) (s : State) : State :=
  if s.tapMay then
    let s1 := { s with tap := { s.tap with ir := code, pins := pins, bsr := bits } }
    if s.pwr.mode = .test then s1
    else setMode .test (foldS (fun k s => coreReset k s) (List.range 144) (leaveNeap { s1 with pwr := { s1.pwr with req := none, entering := none } }))
  else tapBypass s

/-- EXTEST (R665). -/
def execExtest (bits : List Bool) (s : State) : Res := .next (tapTest 0 .extest bits s)

/-- SAMPLE_PRELOAD (R664): the boundary-scan register is preloaded; the pins stay. -/
def execSamplePreload (bits : List Bool) (s : State) : Res :=
  .next { s with tap := { s.tap with ir := 1, pins := .none, bsr := bits } }

/-- IDCODE (R664): the data register reads the identification. -/
def execIdcode (s : State) : Res := .next { s with tap := { s.tap with ir := 2, pins := .none }, rdata := 0x15A0956B }

/-- CLAMP (R665). -/
def execClamp (s : State) : Res := .next (tapTest 3 .clamp s.tap.bsr s)

/-- HIGHZ (R665). -/
def execHighz (s : State) : Res := .next (tapTest 4 .highz s.tap.bsr s)

/-- EXTEST_PULSE (R665). -/
def execExtestPulse (bits : List Bool) (s : State) : Res := .next (tapTest 5 .pulse bits s)

/-- EXTEST_TRAIN (R665). -/
def execExtestTrain (bits : List Bool) (s : State) : Res := .next (tapTest 6 .train bits s)

/-- Is a TAP instruction code listed in Table 17-9 beside BYPASS? -/
def tapListed (code : Nat) : Bool := [0, 1, 2, 3, 4, 5, 6, 0x10, 0x11].contains code

/-- BYPASS (R664): code 0xFF and every unlisted code. -/
def execBypass (code : BitVec 8) (s : State) : Res := .next (if tapListed code.toNat then s else tapBypass s)

/-! ## Temperature (R707) -/

/-- TEMP_UPDATE (R707): CKP_TEMP takes the hottest sensor's reading, signed in 0.25 °C. -/
def tempUpdate (v : BitVec 12) (s : State) : State :=
  let hi : BitVec 12 := (s.reg aCkpTempHi).truncate 12
  (s.setReg aCkpTemp (v.zeroExtend 32)).orRegIf (decide (hi.toInt ≤ v.toInt)) aCkpStat 0x1000

/-- TEMP_UPDATE (R707). -/
def execTempUpdate (v : BitVec 12) (s : State) : Res := .next (tempUpdate v s)

end Sys2Proof.Machine
end

