-- ==== Sys2Proof/Machine/Loader.lean ====
section
/-! DEFINITION. The Quafa loader (spec/11_quafa.md R470 to R482): starting and ending its commands, and what it applies. The rows
that call these stand in Machine/QuafaRows.lean. -/

namespace Sys2Proof.Machine

/-! ## Phases and outcomes -/

/-- Change the loader. -/
def State.onQfa (s : State) (f : Qfa → Qfa) : State := { s with qfa := f s.qfa }

/-- QFA_STAT (Table 11-15). -/
def State.qfaStat (s : State) : Word :=
  (s.reg aQfaStat &&& 0xF00) ||| BitVec.ofNat 32 (s.qfa.phase % 8 + 8 * b2n (decide (s.qfa.phase ≠ 0) && s.qfa.part.isSome) +
    (match s.qfa.running with | some k => 16 + 32 * k | none => 0))

/-- SYS_BOOT_STAT.stage (R692). -/
def setStage (n : Nat) (s : State) : State := s.setRegFld aSysBootStat 0 4 n

/-- SYS_BOOT_STAT.stage now. -/
def State.stage (s : State) : Nat := fld (s.reg aSysBootStat) 0 4

/-- SYS_BOOT_STAT.code. -/
def setBootCode (n : Nat) (s : State) : State := s.setRegFld aSysBootStat 8 4 n

/-- The command ends: phase IDLE, done or fail. -/
def qfaFinish (ok : Bool) (s : State) : State :=
  (s.orReg aQfaStat (if ok then 0x100 else 0x200)).onQfa (fun q => { q with
    phase := 0, part := none, ready := false, stopped := false, armed := false, res := some ok })

/-- The command fails with a cause (R468). -/
def qfaFail (e : QErr) (s : State) : State :=
  qfaFinish false ((s.setReg aQfaErr (BitVec.ofNat 32 (e.code + e.sec * 2 ^ 8 + e.entry % 65536 * 2 ^ 16))).setReg aQfaErrAux
    (match e.aux with | some x => BitVec.ofNat 32 (x.2 % 65536 + x.1 % 16 * 2 ^ 16) | none => 0))

/-- A command that has no effect (R471). -/
def qfaCmdErr (s : State) : State := s.orReg aQfaStat 0x400

/-! ## Flash slots (R480, Table 11-13) -/

/-- Flash offset of a slot. -/
def State.slotOff (s : State) (k : Nat) : Nat := (s.reg (if k = 0 then aQfaSlotaOff else aQfaSlotbOff)).toNat

/-- Size of a slot. -/
def State.slotSize (s : State) : Nat := (s.reg aQfaSlotSize).toNat

/-- Offset of a slot's trailer. -/
def State.trailer (s : State) (k : Nat) : Nat := s.slotOff k + s.slotSize - 64

/-- Is slot k valid (R480)? -/
def State.slotValid (s : State) (k : Nat) : Bool :=
  let t := s.trailer k
  let h := s.slotOff k
  decide (64 ≤ s.slotSize) && decide (s.flashBytes (t + 0x3F) 1 = [(0x5A : Byte)]) && decide (s.flash32 t = 0x54464151) &&
  decide (s.flash32 (t + 0x18) = crcIeee (s.flashBytes t 0x18)) && decide (s.flash32 (t + 4) ≤ s.slotSize - 64) &&
  decide (s.flash32 (t + 4) = s.flash32 (h + 8)) && decide (s.flashBytes (t + 8) 8 = s.flashBytes (h + 0x10) 8) &&
  decide (s.flash32 (t + 0x10) = s.flash32 (h + 0x20))

/-- A slot's sequence number. -/
def State.slotSeq (s : State) (k : Nat) : Nat := s.flash32 (s.trailer k + 0x14)

/-- QFA_SLOTx_INFO of both slots follow the flash. -/
def slotInfo (s : State) : State :=
  foldS (fun k s => s.setReg (if k = 0 then aQfaSlotaInfo else aQfaSlotbInfo)
    (if s.slotValid k then BitVec.ofNat 32 (1 + s.slotSeq k % 2 ^ 24 * 2 ^ 8) else 0)) [0, 1] s

/-! ## Commands (Table 11-12) -/

/-- The memory that holds the staging window wakes where the loader reads it (R328). -/
def wakeStaging (s : State) : State := s.wakeSpan s.stgBase s.stgSize

/-- A PITCH or VERIFY begins. -/
def qfaCheck (cmd : Nat) (s0 : State) : State :=
  let s := wakeStaging s0
  let s1 := s.onQfa (fun q => { q with phase := cmd + 1, cmd := cmd, part := if cmd = 2 ∧ s.imgPartial then some s.imgPart else none
                                       ready := false, stopped := false, res := none })
  if cmd = 2 ∧ 7 ≤ s.stage then setStage 3 { s1 with boot := { s1.boot with home := s.stage } } else s1

/-- A FETCH begins, or fails with code 1 where the slot is not valid. -/
def qfaFetch (k : Nat) (s : State) : State :=
  let s1 := s.onQfa (fun q => { q with phase := 1, cmd := 3, slot := k, res := none })
  if s.slotValid k then s1 else qfaFail (qerr 1 0 0) s1

/-- A STORE begins: the slot is erased (R481); one to the slot that the running image came from is refused. -/
def qfaStore (k : Nat) (s : State) : State :=
  if s.qfa.running = some k then qfaCmdErr s
  else slotInfo ((s.onQfa (fun q => { q with phase := 6, cmd := 4, slot := k, res := none })).eraseFlash (s.slotOff k) s.slotSize)

/-- An ARB_COMMIT begins (R482): nothing is left to do where QFA_VER is not above the floor. -/
def qfaArb (s : State) : State :=
  let s1 := s.onQfa (fun q => { q with phase := 7, cmd := 5, res := none })
  if (s.reg aQfaFloor).toNat < (s.reg aQfaVer).toNat then jrnlStart (.floor (s.reg aQfaVer)) s1 else qfaFinish true s1

/-- ABANDON: in FETCH, VERIFY, CHECK, or a WAIT before APPLY. -/
def qfaAbandon (s : State) : State :=
  let p := s.qfa.phase
  if p = 1 ∨ p = 2 ∨ p = 3 ∨ (p = 4 ∧ s.qfa.stopped = false) then qfaFail (qerr 16 0 0) s else qfaCmdErr s

/-- A write of QFA_CMD that the loader takes (R471). -/
def qfaCommand (cmd slot : Nat) (s : State) : State :=
  if cmd = 6 then qfaAbandon s
  else if cmd = 0 ∨ cmd = 7 ∨ s.qfa.phase ≠ 0 then qfaCmdErr s
  else match cmd with
    | 1 => qfaCheck 1 s
    | 2 => qfaCheck 2 s
    | 3 => qfaFetch slot s
    | 4 => qfaStore slot s
    | _ => qfaArb s

/-- QFA_CMD written by an initiator (R471): Landward supervisor threads only; the command processor's own commands do not pass
here. -/
def qfaCmdWrite (ini : Initiator) (cmd slot : Nat) (s : State) : State :=
  if landSuper ini (s.cstOf ini) then qfaCommand cmd slot s else s.orReg aQfaStat 0x800

/-! ## Memory writes of the loader -/

/-- The loader writes bytes; the memories that they reach wake (R328). -/
def loaderPut (a : Nat) (bs : List Byte) (s : State) : State :=
  match regionOf a with
  | some r => (s.wakeSpan a bs.length).storeAt (.mem r a) bs
  | none => s

/-- The loader fills n bytes with zero. -/
def loaderZero (a n : Nat) (s : State) : State :=
  if (regionOf a).isSome then (((s.wakeSpan a n).zero a n).cancelWb a n).noteWrite a n else s

/-- A MEM entry is written (R464). -/
def applyMem (s0 : State) (m : MemRegion) (s : State) : State :=
  loaderPut m.addr (s0.img m.initOff m.initLen) (loaderZero m.addr (if m.kind = 0 then 2 * m.size + 8 else m.size) s)

/-- A CODE record is written: I-TCM, Reservoir copy and local data (R460, R461). -/
def applyCode (s0 : State) (c : CodeRec) (s : State) : State :=
  let image := s0.img c.itcmOff c.itcmLen
  let s1 := loaderPut c.copy image s
  match s.slotOf c.lcore with
  | none => s1
  | some k => loaderPut (localBase k) (s0.img c.ldmOff c.ldmLen) (loaderPut (itcmBase k) image (loaderZero (localBase k) 0x40000 s1))

/-- The threads of a code record stand ready for the first fire of their partition (R462). -/
def applyThreads (c : CodeRec) (s : State) : State :=
  match s.part? c.part, s.slotOf c.lcore with
  | some p, some k =>
    let s1 := loadThreads p k c.lcore false s
    s1.setLc c.lcore ((s1.lc c.lcore).again true)
  | _, _ => s

/-- A FERRY entry is loaded into its channel, which stands at reset (R467). -/
def applyFerry (f : FryEnt) (s : State) : State :=
  let n := f.own.chan
  let s1 := fryReset n s
  let s2 := (((((s1.setReg (aFryCfg n) (f.w 0)).setReg (aFryPc n) (f.w 1 &&& 0xFFFFFFF8)).setReg (aFryPcHi n) (f.w 2 &&& 0xFFF)).setReg
    (aFryIen n) (f.w 3)).setReg (aFryChkcfg n) (f.w 4)).setReg (aFryChk n) (f.w 5)
  let s3 := foldS (fun k s => ((s.setReg (aFryWin n k) (f.w (6 + 3 * k))).setReg (aFryWinHi n k) (f.w (7 + 3 * k))).setReg (aFryWinLim n k)
    (f.w (8 + 3 * k))) (List.range 4) s2
  s3.onFry n (fun c => { c with pc := s3.pair (aFryPc n) (aFryPcHi n) })

/-! ## Full pitch (R472, R473) -/

/-- A slot's core stops and returns to reset for a pitch; the states of shared sources stay (R401, R472, R467). -/
def pitchCore (k : Nat) (s : State) : State :=
  let s1 := foldS (fun t s => s.setThread k t Thread.reset) (List.range 4) s
  let c := s1.core k
  foldS (fun a s => s.setReg a 0) [aCorePipeCfg k, aCoreCacheCfg k, aCoreCyc k, aCoreIssue k, aCoreBrmisp k, aCoreFqEmpty k, aCoreDcMiss k,
    aCoreIcMiss k, aCoreCpar k, aCoreSbFull k] (s1.setCore k { CoreSt.reset with clk := c.clk, wdClk := c.clk })

/-- A TIDE entry is loaded; with `arm` its compare is armed as R67 does, and not late where the counts restart (R466, R87). -/
def applyCompare (restart : Bool) (e : TideEnt) (s : State) : State :=
  let s1 := ((cmpCtlWrite e.idx e.ctl s).setReg (aTideCmpAct e.idx) (e.act &&& cmpActMask (legal 1 6 (fld e.ctl 4 3)))).setReg (aTideCmpPer e.idx) e.per
  let s2 := cmpTgtLow e.idx e.lo s1
  if e.arm then
    let s3 := cmpArm e.idx e.hi s2
    if restart then s3.setCmp e.idx { s3.cmp e.idx with past := false } else s3
  else s2.setCmp e.idx { s2.cmp e.idx with target := e.hi ++ e.lo }

/-- The TIDE section takes force at B0 (R87, R466, R720). lock_chg reads 1 where its TIDE_REF changes the lock state, and lock_count
holds what the section gives, 0 too; the recorded offsets of the last 1 s of LOCKED are kept with the lock state (DEDUCED, log entries 42
and 47). -/
def pitchTide (s0 s : State) : State :=
  match s0.fixed? 5 with
  | none => s
  | some o =>
    let w := fun (i : Nat) => BitVec.ofNat 32 (s0.img32 (o + 4 * i))
    let restart := decide (rateHz (fld (w 0) 0 3) ≠ rateHz s.rate)
    let oldRef := s.reg aTideRef
    let s1 := { s with
      regs := smKeep (fun a => !(decide (0x40010000 ≤ a) && decide (a < 0x40020000)) || decide (a = aTideFerr)) s.regs
      cmps := []
      tide := { s.tide with
        queue := [], fallback := false, inLimits := 0, returns := 0, farOff := false, step := none, gpioPend := [], gateFires := []
        stopped := restart, nNow := if restart then s.tide.nNow else fld (w 0) 8 6 } }
    let s2 := (((s1.setReg aTideCfg (w 0)).setReg aTideRef (w 1)).setReg aTideHold (w 2)).setReg aTideIen (w 3)
    let s3 := (s2.setReg aTideOrgLo (w 4)).setReg aTideOrgHi (w 5)
    let s4 := foldS (fun k s => s.setReg (aTideCko k) (w (6 + k))) (List.range 4) s3
    let s5 := if restart ∨ w 1 = oldRef then s4 else tideRefWrite (w 1) s4
    foldS (fun e s => applyCompare restart (s0.tideEntry e.1) s) (s0.entries 5) s5

/-- B0 (R472): the device enters PITCH. The staging window has power. -/
def pitchB0On (s : State) : State :=
  let s1 := setMode .pitch { s with pwr := { s.pwr with req := none } }
  let s2 := if s.pwr.mode = .neap then allOn s1 else s1
  let s3 := foldS fryReset (List.range 64) (foldS pitchCore (List.range 144) s2)
  let s4 := (s3.setReg aFrygFlag 0).setReg aFrygFlagHi 0
  let b : Bwtr := { s4.bw with pts := [], lcs := smMap (fun _ => LcRun.init) (fun x => x.again false) s4.bw.lcs, tkos := [] }
  let p : Sap := { s4.sap with routes := [], gets := [] }
  let s5 := { s4 with
    bw := b, sap := p, setup := Setup.none, camp := { s4.camp with aligned := false, since := s.tidePos }
    regs := smKeep (fun a => !(decide (0x40031000 ≤ a) && decide (a < 0x40031400))) s4.regs }
  let s6 := pitchTide s s5
  (if s.stage = 6 then s6 else setStage 4 s6).onQfa (fun q => { q with phase := 5, ready := false, release := false })

/-- The effect of pitchB0On once the staging window has its power (R328). -/
def pitchB0 (s : State) : State := pitchB0On (wakeStaging s)

/-- IC_SRCn_CFG, IC_MASKk and IC_LWk from an IRQ section (R401). -/
def applyIrq (s0 : State) (s : State) : State :=
  match s0.fixed? 6 with
  | none => s
  | some o =>
    let w := fun (i : Nat) => BitVec.ofNat 32 (s0.img32 (o + 4 * i))
    let s1 := { s with regs := smKeep (fun a => !(decide (0x40020000 ≤ a) && decide (a < 0x40030000))) s.regs }
    let s2 := foldS (fun i s => s.setReg (aIcSrcCfg i) (w i &&& 0x000F337F)) (List.range 384) s1
    let s3 := foldS (fun i s => s.setReg (aIcMask i) (w (384 + i))) (List.range 12) s2
    foldS (fun i s => s.setReg (aIcLw i) (w (396 + i))) (List.range 32) s3

/-- Ring indices of the routes of a section: each kind 0 route takes the lowest index not in use (R494). -/
def routeIndices : List Nat → List Route → List RtRun
  | _, [] => []
  | used, x :: xs =>
    let r := ((List.range (used.length + 1)).find? (fun i => !used.contains i)).getD 0
    let run : RtRun := { route := x, r := if x.kind = 0 then some r else none, idx := x.nbuf - 1, start := 0, len := 0, first := 0, live := false }
    run :: routeIndices (if x.kind = 0 then r :: used else used) xs

/-- SAPn_IN_MASK and SAPn_OUT_MASK hold the slots of the routes (R509). -/
def routeMasks (s : State) : State :=
  let rs := s.setup.routes
  let m := fun (k n : Nat) => (List.range 32).foldl (fun (w : Word) j =>
    if rs.any (fun r => decide (r.kind = k) && decide (r.port = n) && decide (r.first ≤ j) && decide (j ≤ r.last)) then setFld w j 1 1 else w) 0
  foldS (fun n s => (s.setReg (aSapInMask n) (m 0 n)).setReg (aSapOutMask n) (m 1 n)) (List.range 64) s

/-- The CAMP section, or its absence (R546, R554, R467). -/
def applyCamp (s0 : State) (s00 : State) : State :=
  let s := campReset s00
  match s0.fixed? 9 with
  | some o =>
    let s1 := s.setReg aCampCfg (s.reg aCampCfg ||| BitVec.ofNat 32 (s0.img32 o % 2048))
    let s2 := (s1.setReg aCampLinksLo (BitVec.ofNat 32 (s0.img32 (o + 4)))).setReg aCampLinksHi (BitVec.ofNat 32 (s0.img32 (o + 8)))
    campPitch true (s2.setReg aMemcRmtCfg (BitVec.ofNat 32 (s0.img32 (o + 12)) &&& 3))
  | none =>
    campPitch false (s.setReg aMemcRmtCfg (regDefault aMemcRmtCfg))

/-- BWTR_PTn returns to reset values and shows the partition pitched (R467, R477). -/
def applyPart (p : Part) (s : State) : State :=
  let n := p.part
  let s1 := foldS (fun a s => s.setReg a 0) [aBwtrPtCwLo n, aBwtrPtCwHi n, aBwtrPtReplay n, aBwtrPtBridge n, aBwtrPtSlip n, aBwtrPtMaxrun n] s
  s1.setReg (aBwtrPtStat n) (BitVec.ofNat 32 (p.cls + 4))

/-- QFA_HASH and QFA_VER take the image's, and the running image is the staged one. -/
def applyHash (s0 : State) (s : State) : State :=
  hashChange ((((s.setReg aQfaHash (BitVec.ofNat 32 (s0.img32 0x10))).setReg aQfaHashHi (BitVec.ofNat 32 (s0.img32 0x14))).setReg aQfaVer
    (BitVec.ofNat 32 s0.imgVer)).onQfa (fun q => { q with running := q.staged }))

/-- The sections of a full image after TIDE (R473). -/
def applyFull (s0 : State) : State :=
  let s := wakeStaging s0
  let parts := (s.entries 1).map (fun e => s.partEntry e.1)
  let code := (s.entries 2).map (fun e => s.codeEntry e.1)
  let mems := s.imgMems.map (fun m => m.1)
  let routes := (s.entries 4).map (fun e => s.routeEntry e.1)
  let ferry := (s.entries 7).map (fun e => s.ferryEntry e.1)
  let ops := match s.fixed? 1 with | some o => s.img o 16 | none => []
  let s1 := foldS (fun (e : Byte × Nat) s => if e.1.toNat ≤ 5 then opRequest e.2 e.1.toNat s else s) ops.zipIdx s
  let s2 := foldS (applyMem s) mems s1
  let s3 := { s2 with setup := { parts := parts, code := code, mems := mems, routes := routes, ferry := ferry.map (fun f => f.own) } }
  let s4 := foldS (applyCode s) code s3
  let s5 := foldS applyThreads code s4
  let s6 := foldS (fun p s => foldS (fun l s => match s.slotOf l with | some k => loadCoreCfg p k l s | none => s) p.lcores s) parts s5
  let s7 := foldS applyFerry ferry s6
  let s8 := applyIrq s s7
  let s9 := routeMasks { s8 with sap := { s8.sap with routes := routeIndices [] routes } }
  let s10 := pinLoad ((s.entries 8).map (fun e => (s.img32 e.1, BitVec.ofNat 32 (s.img32 (e.1 + 4))))) (pinReset s9)
  let s11 := applyCamp s s10
  let s12 := foldS (fun p s => (applyPart p s).setPt p.part { PtRun.init with fresh := true }) parts s11
  applyHash s s12

/-! ## Partial re-pitch (R475 to R478) -/

/-- The stop edge of partition n (R476): its cores stop, its output routes begin a frame without work, and its cores become those
that the new entry names. A core that it held before it was shed and that another partition holds now is none of them. The staging window has power. -/
def repitchStopOn (n : Nat) (s : State) : State :=
  let new := ((s.entries 1).head?).map (fun e => s.partEntry e.1)
  let cores := match new with | some p => p.cores | none => 0
  let old := s.part? n
  let held := (match old with | some p => p.lcores | none => []).filter (fun l => (s.partOf l).all (fun (q : Part) => decide (q.part = n)))
  let s1 := foldS (fun l s => match s.slotOf l with
    | some k => holdoffLcore l (foldS (fun t s => s.setThread k t Thread.reset) (List.range 4) s)
    | none => s) held s
  let s2 := foldS (fun l s => s.setLc l ((s.lc l).again false)) held s1
  let s3 := cmpCtlWrite (224 + n) 0 (s2.clrReg (aBwtrPtStat n) 4)
  let r := { s3.pt n with inFrame := false, frame0 := s3.tide.frame, failed := false, replayed := false, awaiting := false, committed := false
                          badWords := [] }
  let s4 := s3.setPt n r
  let o := s4.nextOut n
  let s5 := s4.setPt n { r with outHalf := o.1, outBridge := o.2.1, outZero := o.2.2, outIdle := true, start := s.tide.count.toNat }
  let ps := match old with
    | some p => s5.setup.parts.map (fun q => if q.part = n then { p with cores := cores } else q)
    | none => s5.setup.parts ++ new.toList
  { s5 with
    setup := { s5.setup with parts := ps }
    bw := { s5.bw with tkos := s5.bw.tkos.filter (fun t => !held.contains t.lcore) }
    qfa := { s5.qfa with phase := 5, ready := false, stopped := true } }

/-- The effect of repitchStopOn once the staging window has its power (R328). -/
def repitchStop (n : Nat) (s : State) : State := repitchStopOn n (wakeStaging s)

/-- The first tide frame, counted from the present one, that begins at or after now and whose TIDE_FRAME is a multiple of m (R459). -/
def State.firstFrame (s : State) (m : Nat) : Nat :=
  let k := if s.atFrameBoundary then 0 else 1
  k + (m - (s.tide.frame.toNat + k) % m) % m

/-- The frame compare of partition p is programmed with its target at the first tide frame at or after now (R459), and the
partition's routes expect their first frame there (R494). -/
def armPartition (p : Part) (s : State) : State :=
  let m := 2 ^ p.fmul
  let n := max 1 s.tide.nNow
  let t := s.tide.frameStart.toNat + s.firstFrame m * n
  let i := 224 + p.part
  let s1 := ((s.setReg (aTideCmpCtl i) 0x32).setReg (aTideCmpAct i) 0).setReg (aTideCmpPer i) (BitVec.ofNat 32 (m * n * 2 ^ 16))
  let tgt := BitVec.ofNat 64 (t * 2 ^ 16)
  let s2 := s1.setCmp i { target := tgt, staged := tgt.truncate 32, armed := true, fired := false, past := false, cnt := 0 }
  { s2 with sap := { s2.sap with routes := s2.sap.routes.map (fun x =>
      if x.route.part = p.part ∧ x.live = false then { x with start := t - m * n, len := m * n, first := t } else x) } }

/-- The MEM, CODE and FERRY contents of a partial image, and its routes made ready (R476, R477, R494). The staging window has power. -/
def applyPartialOn (n : Nat) (s : State) : State :=
  let code := (s.entries 2).map (fun e => s.codeEntry e.1)
  let mems := s.imgMems.map (fun m => m.1)
  let routes := (s.entries 4).map (fun e => s.routeEntry e.1)
  let ferry := (s.entries 7).map (fun e => s.ferryEntry e.1)
  let s2 := foldS (applyMem s) mems s
  let s3 := { s2 with setup := { s2.setup with
    mems := s2.setup.mems.filter (fun m => decide (m.part ≠ n)) ++ mems
    code := s2.setup.code.filter (fun c => decide (c.part ≠ n)) ++ code
    ferry := s2.setup.ferry.filter (fun f => !(f.owned && decide (f.part = n))) ++ ferry.map (fun f => f.own) } }
  let s4 := foldS applyFerry ferry (foldS (applyCode s) code s3)
  let used := s4.sap.routes.filterMap (fun x => if x.route.part = n then none else x.r)
  let s5 := { s4 with sap := { s4.sap with routes := s4.sap.routes ++ routeIndices used routes } }
  let new := ((s.entries 1).head?).map (fun e => s.partEntry e.1)
  match new with
  | none => s5
  | some p => (armPartition p s5).onQfa (fun q => { q with phase := 4, armed := true })

/-- The effect of applyPartialOn once the staging window has its power (R328). -/
def applyPartial (n : Nat) (s : State) : State := applyPartialOn n (wakeStaging s)

/-- The first fire (R477, R478): PART, ROUTE and IRQ entries, the cores' configuration, hash and version take effect, and the
partition's threads stand ready to start. The staging window has power. -/
def repitchStartOn (n : Nat) (s : State) : State :=
  match (s.entries 1).head? with
  | none => s
  | some e =>
    let p := s.partEntry e.1
    let ps : List Part := s.setup.parts.map (fun q => if q.part = n then p else q)
    let rs : List Route := s.setup.routes.filter (fun r => decide (r.part ≠ n)) ++ (s.entries 4).map (fun e => s.routeEntry e.1)
    let s1 := { s with setup := { s.setup with parts := ps, routes := rs } }
    let s2 := { s1 with sap := { s1.sap with routes := s1.sap.routes.filter (fun x => decide (x.route.part ≠ n) || !x.live) } }
    let s3 := match s.fixed? 6 with
      | none => s2
      | some o =>
        let mine := fun (i : Nat) => p.cores.getLsbD (s.img32 (o + 4 * i) % 128)
        let f := foldS (fun i s => if mine i then s.setReg (aIcSrcCfg i) (BitVec.ofNat 32 (s.img32 (o + 4 * i)) &&& 0x000F337F) else s)
          (List.range 384) s2
        foldS (fun i s => if mine i then s.setRegFld (aIcMask (i / 32)) (i % 32) 1 (b2n ((s.img32 (o + 1536 + 4 * (i / 32))).testBit (i % 32))) else s)
          (List.range 384) f
    let s4 := foldS (fun l s => match s.slotOf l with
      | some k =>
        loadCoreCfg p k l (freshCore k s)
      | none => s) p.lcores s3
    let s5 := foldS applyThreads (s4.setup.code.filter (fun c => decide (c.part = n))) s4
    let gap := (s.tide.frame.toNat + 2 ^ 32 - (s.pt n).frame0.toNat) % 2 ^ 32 / 2 ^ p.fmul
    let s6 := (applyPart p s5).setReg aQfaGap (BitVec.ofNat 32 (min 65535 gap))
    qfaFinish true (applyHash s (routeMasks s6))

/-- The effect of repitchStartOn once the staging window has its power (R328). -/
def repitchStart (n : Nat) (s : State) : State := repitchStartOn n (wakeStaging s)

/-! ## Ends of the other commands -/

/-- The checks end (R468, R684). -/
def checksComplete (s0 : State) : State :=
  let p := s0.qfa.phase
  if p = 2 ∨ p = 3 then
    let s := wakeStaging s0
    match s.checks with
    | some e => qfaFail e s
    | none => if p = 2 then qfaFinish true s else s.onQfa (fun q => { q with phase := 4, ready := true })
  else s0

/-- A FETCH ends (R684): the image stands in the staging window, and its tag's result is kept. -/
def fetchComplete (s : State) : State :=
  if s.qfa.phase = 1 then
    let k := s.qfa.slot
    let n := min (s.flash32 (s.trailer k + 4)) s.stgSize
    let s1 := loaderPut s.stgBase (s.flashBytes (s.slotOff k) n) s
    qfaFinish true (s1.onQfa (fun q => { q with staged := some k, kept := some (s1.tagOk n, n) }))
  else s

/-- The trailer of a slot but for its commit byte (Table 11-13). -/
def State.newTrailer (s : State) (k : Nat) : List Byte :=
  let seq := if s.slotValid (1 - k) then s.slotSeq (1 - k) + 1 else 1
  let h := leBytes 4 0x54464151 ++ leBytes 4 s.imgLen ++ s.img 0x10 8 ++ s.img 0x20 4 ++ leBytes 4 seq
  h ++ leBytes 4 (crcIeee h) ++ List.replicate 35 (0xFF : Byte)

/-- A STORE ends (R481). -/
def storeComplete (s0 : State) : State :=
  if s0.qfa.phase = 6 ∧ bit (s0.reg aSysFlashMode) 10 = false then
    let s := wakeStaging s0
    let k := s.qfa.slot
    let s1 := s.program (s.slotOff k) (s.img 0 (min s.imgLen (s.slotSize - 64)))
    qfaFinish true (slotInfo (s1.program (s.trailer k) (s.newTrailer k ++ [0x5A])))
  else s0

/-- An uncorrectable error on a read of the staging window (R474, R479, R718). -/
def stagedReadUe (a : Nat) (s : State) : State :=
  let p := s.qfa.phase
  let s1 := s.logUe .loader .load a
  if p = 2 ∨ p = 3 ∨ (p = 5 ∧ s.qfa.part.isSome = true) then qfaFail (qerr 17 0 0) s1
  else if p = 5 then qfaFail (qerr 17 0 0) (setMuteHold s1)
  else if p = 6 then s1 else s

end Sys2Proof.Machine
end

