-- ==== Sys2Proof/Machine/Commands.lean ====
section
/-! DEFINITION. The command processor (spec/15_commands_journal.md R586 to R598; spec/opcode_table.json rows COMMAND_ENVELOPE,
SEC_CP_GO, SEC_CP_ACK, JOURNAL_OPERATION_COMPLETE), and what follows the end of a loader command: the boot ROM's next step (R685, R686,
R692) or the command's next. -/

namespace Sys2Proof.Machine

/-- Change the command processor. -/
def State.onSec (s : State) (f : CmdProc → CmdProc) : State := { s with sec := f s.sec }

/-! ## Control port channel (R588) -/

/-- A write of SEC_CP_IN by the control port. -/
def secCpIn (i : Nat) (v : Word) (s : State) : State :=
  if bit (s.reg aSecCpStat) 0 then s.orReg aSecCpStat 0x100 else s.setReg (aSecCpIn i) v

/-- A write of SEC_CP_GO by the control port. -/
def secCpGo (v : Word) (s : State) : State :=
  let n := fld v 0 13
  if fld (s.reg aSecCpStat) 0 2 = 0 ∧ 1 ≤ n ∧ n ≤ 4096 then
    (s.orReg aSecCpStat 1).onSec (fun c => { c with cpReq := some (s.regBytes (aSecCpIn 0) n) })
  else s.orReg aSecCpStat 0x100

/-- SEC_CP_GO (R588). -/
def execSecCpGo (v : Word) (s : State) : Res := .next (secCpGo v s)

/-- A write of SEC_CP_ACK by the control port. -/
def secCpAck (v : Word) (s : State) : State := if bit v 0 then s.clrReg aSecCpStat 2 else s

/-- SEC_CP_ACK (R588). -/
def execSecCpAck (v : Word) (s : State) : Res := .next (secCpAck v s)

/-! ## Envelopes (Table 15-1) -/

/-- n bytes of an envelope at an offset, as a number. -/
def envAt (e : List Byte) (o n : Nat) : Nat := leNat ((e.drop o).take n)

/-- Key slot of an envelope. -/
def envSlot (e : List Byte) : Nat := envAt e 2 2 % 4

/-- Payload of an envelope. -/
def envPayload (e : List Byte) : List Byte := (e.drop 16).take (envAt e 0xC 2)

/-- Tag of an envelope. -/
def envTag (e : List Byte) : List Byte := (e.drop (16 + envAt e 0xC 2)).take 16

/-- Counter of an envelope. -/
def envCounter (e : List Byte) : Nat := envAt e 4 8

/-- Key slots that Table 15-2 permits for a code; none for a code it does not list. -/
def cmdKeys : Nat → List Nat
  | 0x0101 => [2] | 0x0102 => [2] | 0x0201 => [2, 3] | 0x0301 => [2, 3] | 0x0401 => [0] | 0x0501 => [0] | 0x0601 => [0, 3] | 0x0701 => [2]
  | _ => []

/-- SEC_KEYGEN (Table 15-9). -/
def State.keygen (s : State) : Word :=
  BitVec.ofNat 32 ((List.range 4).foldl (fun a k => a + (s.keyGen k + 4 * b2n (Config.otpHolds k (s.keyGen k))) * 16 ^ k) 0)

/-- A response envelope (Table 15-1, R593): with a zero tag, or under the request's key. -/
def State.response (s : State) (e : List Byte) (status : Nat) (payload : List Byte) (tagged : Bool) : List Byte :=
  let h := leBytes 2 (envAt e 0 2) ++ leBytes 2 (0x8000 + envSlot e) ++ leBytes 8 (envCounter e) ++ leBytes 2 payload.length ++
    leBytes 2 status ++ payload
  h ++ (if tagged then cmac256 (Config.otpKey (envSlot e) (s.keyGen (envSlot e))) h else List.replicate 16 (0 : Byte))

/-! ## Channels (R587, R590) -/

/-- The request that a channel holds: transfer ID and envelope. -/
def State.chanReq (s : State) (ch : Nat) : Option (Nat × List Byte) :=
  if ch = 0 then s.sec.cpReq.map (fun e => (0, e))
  else if ch = 1 then s.pcie.req.map (fun e => (0, e))
  else (s.link (ch - 2)).req.head?

/-- The processor takes a channel's request. -/
def takeChan (ch : Nat) (s : State) : State :=
  if ch = 0 then s.onSec (fun c => { c with cpReq := none })
  else if ch = 1 then { s with pcie := { s.pcie with req := none, exec := some false } }
  else s.onLink (ch - 2) (fun l => { l with req := l.req.tail })

/-- A response returns on its channel. -/
def chanRespond (ch xid : Nat) (bs : List Byte) (s : State) : State :=
  let s1 := s.setReg aSecLast (BitVec.ofNat 32 (envAt bs 0 2 + envAt bs 0xE 2 % 16 * 2 ^ 16 + ch % 16 * 2 ^ 24))
  if ch = 0 then (((putRegBytes (aSecCpOut 0) bs s1).setRegFld aSecCpStat 16 13 bs.length).orReg aSecCpStat 2).clrReg aSecCpStat 1
  else if ch = 1 then mbRespond bs s1
  else sendResponse (ch - 2) xid bs s1

/-- Has a channel's response been read out (R597)? -/
def State.readOut (s : State) (ch : Nat) : Bool :=
  if ch = 0 then !bit (s.reg aSecCpStat) 1 else if ch = 1 then !bit (s.reg aPcieMbStat) 1 else (s.link (ch - 2)).mgmtQ.isEmpty

/-- A request ends at one of steps 1 to 5 (R591, R593): `fld0` is its field of SEC_CMD_REJ, if it has one. -/
def cmdReject (ch xid : Nat) (e : List Byte) (status : Nat) (rej : Option Nat) (tagged : Bool) (s : State) : State :=
  let s1 := s.orReg aSecStat 2
  let s2 := match rej with | some lo => s1.incFld aSecCmdRej lo 8 1 | none => s1
  chanRespond ch xid (s2.response e status [] tagged) s2

/-- A response from step 6 (R594): cached and returned. -/
def cmdRespond (r : CmdReq) (status : Nat) (payload : List Byte) (s : State) : State :=
  let s0 := s.onSec (fun c => { c with cur := none })
  let bs := s0.response r.env status payload true
  let ent : CmdEnt := { slot := envSlot r.env, counter := BitVec.ofNat 64 (envCounter r.env), tag := envTag r.env, resp := bs }
  let s1 := s0.onSec (fun c => { c with caches := smSet (fun _ => []) c.caches r.ch ((ent :: smGet (fun _ => []) c.caches r.ch).take 4) })
  chanRespond r.ch r.xid bs (s1.orReg aSecStat 1)

/-- The cached response to a repeated request (R592): counter and tag of a record of the channel. -/
def State.cached (s : State) (ch : Nat) (e : List Byte) : Option (List Byte) :=
  ((smGet (fun _ => []) s.sec.caches ch).find? (fun c => decide (c.slot = envSlot e) && decide (c.counter.toNat = envCounter e) &&
    decide (c.tag = envTag e))).map (fun c => c.resp)

/-! ## Execution (R596, Table 15-5) -/

/-- A register's word as bytes. -/
def wordBytes (v : Word) : List Byte := leBytes 4 v.toNat

/-- Payload of a loader command's response. -/
def State.qfaPayload (s : State) (gap : Bool) : List Byte :=
  wordBytes s.qfaStat ++ wordBytes (s.reg aQfaErr) ++ (if gap then wordBytes (s.reg aQfaGap) else [])

/-- The command waits for something. -/
def cmdWait (r : CmdReq) (st : CmdStage) (s : State) : State := s.onSec (fun c => { c with cur := some { r with stage := st } })

/-- LOAD_IMAGE. -/
def cmdLoad (r : CmdReq) (v : Nat) (s0 : State) : State :=
  let s := wakeStaging s0
  if s.imgPartial ∨ s.qfa.phase ≠ 0 then cmdRespond r 7 [] s else cmdWait r .pitch (qfaCommand 2 (v / 16 % 2) s)

/-- REPITCH_PARTITION. -/
def cmdRepitch (r : CmdReq) (n : Nat) (s0 : State) : State :=
  let s := wakeStaging s0
  if s.imgPartial = false ∨ s.imgPart ≠ n then cmdRespond r 7 [] s
  else if s.qfa.phase ≠ 0 then cmdRespond r 8 ((qfaCmdErr s).qfaPayload true) (qfaCmdErr s)
  else cmdWait r .repitch (qfaCommand 2 0 s)

/-- SET_MODE; target ANCHOR awaits its reset (R597, R677). -/
def cmdSetMode (r : CmdReq) (code : Nat) (s : State) : State :=
  let before := wordBytes s.sysMode
  if code = 1 then (cmdRespond r 0 before (setMuteHold s)).onSec (fun c => { c with warm := some r.ch })
  else
    let m := modeRequest code s
    if m.2 then cmdRespond r 0 before m.1 else cmdRespond r 7 [] m.1

/-- KEY_ROLL (R598). -/
def cmdKeyRoll (r : CmdReq) (k g : Nat) (s : State) : State :=
  if g ≤ s.keyGen k ∨ 3 < g ∨ Config.otpHolds k g = false then cmdRespond r 7 [] s
  else
    let s1 := (s.onSec (fun c => { c with rolled := smSet (fun _ => none) c.rolled k (some g) })).orReg aSecStat 8
    cmdRespond r 0 (wordBytes s1.keygen) s1

/-- DEBUG_UNLOCK. -/
def cmdUnlock (r : CmdReq) (uid scope : Nat) (s : State) : State :=
  if uid ≠ Config.otpUid.toNat ∨ 8 ≤ scope ∨ (envSlot r.env = 3 ∧ scope % 2 = 1) then cmdRespond r 7 [] s
  else
    let v := s.reg aSecDbg ||| BitVec.ofNat 32 scope
    let s1 := (s.orRegIf (decide (v ≠ s.reg aSecDbg)) aSecStat 4).setReg aSecDbg v
    cmdRespond r 0 (wordBytes v) s1

/-- Payload check and action of a command (R591 step 6, Table 15-5). -/
def cmdAction (r : CmdReq) (s : State) : State :=
  let p := envPayload r.env
  let n := p.length
  let v := leNat p
  match envAt r.env 0 2 with
  | 0x0101 => if n = 4 ∧ v &&& 0xFFFFFFEC = 0 then cmdLoad r v s else cmdRespond r 1 [] s
  | 0x0102 => if n = 1 then cmdRepitch r v s else cmdRespond r 1 [] s
  | 0x0201 => if n = 1 then cmdSetMode r v s else cmdRespond r 1 [] s
  | 0x0301 => if n = 1 ∧ v ≤ 1 then cmdRespond r 0 [] (s.setRegFld aSysMute 0 1 v) else cmdRespond r 1 [] s
  | 0x0401 => if n = 2 ∧ v % 256 ≤ 3 then cmdKeyRoll r (v % 256) (v / 256) s else cmdRespond r 1 [] s
  | 0x0501 => if n = 0 then cmdWait r .erase (jrnlStart .erase s) else cmdRespond r 1 [] s
  | 0x0601 => if n = 12 then cmdUnlock r (v % 2 ^ 64) (v / 2 ^ 64) s else cmdRespond r 1 [] s
  | _ =>
    if n = 1 then (if v < 8 ∧ s.admissible v = true then cmdRespond r 0 (wordBytes ((campAdmit v s).reg aCampMap)) (helloChange (campAdmit v s))
      else cmdRespond r 7 [] s)
    else cmdRespond r 1 [] s

/-- Step 6 of R591: L takes the counter, and the command executes. -/
def cmdExecute (r : CmdReq) (s : State) : State :=
  let k := envSlot r.env
  let c := envCounter r.env
  let s1 := ((s.setReg (aSecFloorLo k) (BitVec.ofNat 32 c)).setReg (aSecFloorHi k) (BitVec.ofNat 32 (c / 2 ^ 32))).incSat aSecCmdCnt
  cmdAction r (cmdWait r .ceiling s1)

/-- A pair of registers as a 64-bit number. -/
def State.num64 (s : State) (lo hi : Nat) : Nat := (s.reg lo).toNat + (s.reg hi).toNat * 2 ^ 32

/-- The acceptance steps (R591 to R594). -/
def cmdAccept (ch xid : Nat) (e : List Byte) (s : State) : State :=
  let k := envSlot e
  let c := envCounter e
  let keys := cmdKeys (envAt e 0 2)
  if e.length < 32 ∨ 4096 < e.length ∨ 32 + envAt e 0xC 2 ≠ e.length ∨ keys = [] ∨ 4 ≤ envAt e 2 2 then
    cmdReject ch xid e 1 (some 0) false s
  else if keys.contains k = false ∨ Config.otpHolds k (s.keyGen k) = false then cmdReject ch xid e 2 (some 8) false s
  else if cmac256 (Config.otpKey k (s.keyGen k)) (e.take (e.length - 16)) ≠ envTag e then cmdReject ch xid e 3 (some 16) false s
  else if 0xFFFFFFFFFFFEFFFF < c then cmdReject ch xid e 5 (some 24) true s
  else if c ≤ s.num64 (aSecFloorLo k) (aSecFloorHi k) then
    match (if c = s.num64 (aSecFloorLo k) (aSecFloorHi k) then s.cached ch e else none) with
    | some bs => chanRespond ch xid bs s
    | none => cmdReject ch xid e 4 (some 24) true s
  else
    let r : CmdReq := { ch := ch, xid := xid, env := e, stage := .ceiling }
    if s.num64 (aSecCeilLo k) (aSecCeilHi k) ≤ c then cmdWait r .ceiling (jrnlStart (.ceiling k (BitVec.ofNat 64 (c + 65536))) s)
    else cmdExecute r s

/-! ## After a loader command -/

/-- The boot ROM tries the next slot, or gives up (R686). -/
def bootNext (s : State) : State :=
  match s.boot.tries with
  | [] => setStage 9 (setBootCode 6 { s with boot := { auto := false, tries := [], home := 9 } })
  | k :: ks =>
    let s1 := { s with boot := { s.boot with tries := ks } }
    setStage 2 (qfaFetch k (setBootCode 5 (s1.setRegFld aSysBootStat 16 1 k)))

/-- The boot ROM goes on after a loader command (R685). -/
def bootAfter (ok : Bool) (s : State) : State :=
  if s.qfa.cmd = 3 ∧ ok = true then setStage 3 (qfaCommand 2 0 s)
  else if ok then { s with boot := { s.boot with auto := false } }
  else if s.stage = 4 then s
  else bootNext s

/-- The command in progress goes on after a loader command (Table 15-5). -/
def cmdAfter (ok : Bool) (r : CmdReq) (s : State) : State :=
  let v := leNat (envPayload r.env)
  let arb := fun (s : State) => if v.testBit 1 then cmdWait r .arb (qfaArb s) else cmdRespond r 0 (s.qfaPayload false) s
  match r.stage with
  | .pitch =>
    if !ok then cmdRespond r 8 (s.qfaPayload false) s
    else if v.testBit 0 then
      let s1 := qfaStore (v / 16 % 2) s
      if s1.qfa.phase = 6 then cmdWait r .store s1 else cmdRespond r 8 (s1.qfaPayload false) s1
    else arb s
  | .store => if ok then arb s else cmdRespond r 8 (s.qfaPayload false) s
  | .arb => cmdRespond r (if ok then 0 else 8) (s.qfaPayload false) s
  | .repitch => cmdRespond r (if ok then 0 else 8) (s.qfaPayload true) s
  | _ => s

/-- Whoever issued a loader command that has ended takes up its outcome; n bounds the steps. -/
def loaderNext : Nat → State → State
  | 0, s => s
  | n + 1, s =>
    match s.qfa.res with
    | none => s
    | some ok =>
      let s1 := s.onQfa (fun q => { q with res := none })
      if s.boot.auto then loaderNext n (bootAfter ok s1)
      else
        let s2 := if s1.qfa.cmd = 2 ∧ ok = false ∧ s1.stage = 3 ∧ s1.boot.home ≠ 0 then setStage s1.boot.home s1 else s1
        match s2.sec.cur with
        | some r => loaderNext n (cmdAfter ok r s2)
        | none => s2

/-! ## Rows -/

/-- Does the processor run: its mode (R590), and SYSCLK (R634)? -/
def State.cmdRuns (s : State) : Bool :=
  s.fclkRuns && match s.pwr.mode with
  | .boot => true | .pitch => true | .run => true | .neap => true | .shore => true | .degraded => true | .halt => true
  | _ => false

/-- COMMAND_ENVELOPE (R590, R591): the processor takes the next channel's envelope, one at a time. -/
def commandEnvelope (s : State) : State :=
  let s := loaderNext 4 s
  if s.cmdRuns = false ∨ s.sec.cur.isSome = true ∨ s.sec.warm.isSome = true then s
  else
    match ((List.range 10).map (fun i => (s.sec.last + 1 + i) % 10)).find? (fun ch => (s.chanReq ch).isSome) with
    | none => s
    | some ch =>
      match s.chanReq ch with
      | none => s
      | some (xid, e) => cmdAccept ch xid e ((takeChan ch s).onSec (fun c => { c with last := ch }))

/-- COMMAND_ENVELOPE (R591). -/
def execCommandEnvelope (s : State) : Res := .next (commandEnvelope s)

/-- What follows the end of a journal operation (R591 step 5, R482, R603). -/
def jrnlAfter (ok : Bool) (o : JOp) (s : State) : State :=
  match o, s.sec.cur with
  | .ceiling k c, some r =>
    if ok then cmdExecute r (setCeiling k c.toNat false s)
    else (cmdReject r.ch r.xid r.env 6 none true s).onSec (fun c => { c with cur := none })
  | .erase, some r => cmdRespond r (if ok then 0 else 8) (wordBytes (s.reg aJrnlUsed)) s
  | .floor v, _ => if ok then qfaFinish true (s.setReg aQfaFloor v) else qfaFinish false s
  | _, _ => s

/-- JOURNAL_OPERATION_COMPLETE (R599 to R604). -/
def journalComplete (ok : Bool) (s : State) : State :=
  let r := jrnlEnd ok s
  match r.2 with
  | none => s
  | some o => loaderNext 4 (jrnlAfter ok o r.1)

/-- JOURNAL_OPERATION_COMPLETE (R599). -/
def execJournalOperationComplete (ok : Bool) (s : State) : Res := .next (journalComplete ok s)

end Sys2Proof.Machine
end

