-- ==== Sys2Proof/Machine/QuafaRows.lean ====
section
/-! DEFINITION. The commands of the Quafa loader (spec/opcode_table.json rows VERIFY to STAGED_READ_UE and REPITCH_APPLY_END,
spec/11_quafa.md). The stop edge and the first fire of a re-pitch stand with the fires in Machine/Fire.lean. -/

namespace Sys2Proof.Machine

/-- VERIFY (R468, R471). -/
def execVerify (ini : Initiator) (s : State) : Res := .next (loaderNext 4 (qfaCmdWrite ini 1 0 s))

/-- PITCH (R471, R472). -/
def execPitch (ini : Initiator) (s : State) : Res := .next (loaderNext 4 (qfaCmdWrite ini 2 0 s))

/-- FETCH (R480). -/
def execFetch (ini : Initiator) (slot : Bool) (s : State) : Res := .next (loaderNext 4 (qfaCmdWrite ini 3 (b2n slot) s))

/-- STORE (R481). -/
def execStore (ini : Initiator) (slot : Bool) (s : State) : Res := .next (loaderNext 4 (qfaCmdWrite ini 4 (b2n slot) s))

/-- ARB_COMMIT (R482). -/
def execArbCommit (ini : Initiator) (s : State) : Res := .next (loaderNext 4 (qfaCmdWrite ini 5 0 s))

/-- ABANDON (R471). -/
def execAbandon (ini : Initiator) (s : State) : Res := .next (loaderNext 4 (qfaCmdWrite ini 6 0 s))

/-- QFA_CMD_UNDEFINED (R471): code 0, or 7 with `seven`. -/
def execQfaCmdUndefined (ini : Initiator) (seven : Bool) (s : State) : Res := .next (qfaCmdWrite ini (if seven then 7 else 0) 0 s)

/-- CHECKS_COMPLETE (R468). -/
def execChecksComplete (s : State) : Res := .next (loaderNext 4 (checksComplete s))

/-- FETCH_COMPLETE (R684). -/
def execFetchComplete (s : State) : Res := .next (loaderNext 4 (fetchComplete s))

/-- STORE_COMPLETE (R481). -/
def execStoreComplete (s : State) : Res := .next (loaderNext 4 (storeComplete s))

/-- May B0 come (R472, Table 17-6): a full image has passed, at a tide frame boundary, in a mode that leads to PITCH? -/
def State.b0Due (s : State) : Bool :=
  decide (s.qfa.phase = 4) && s.qfa.ready && s.qfa.part.isNone && s.atFrameBoundary && s.pwr.entering.isNone &&
  (match s.pwr.mode with | .boot => true | .run => true | .neap => true | .shore => true | .degraded => true | _ => false)

/-- PITCH_B0 (R472). -/
def execPitchB0 (s : State) : Res := .next (if s.b0Due then pitchB0 s else s)

/-- The full image stands applied (R473). -/
def applyEnd (s : State) : State :=
  if s.qfa.phase = 5 ∧ s.qfa.part = none then
    let s1 := qfaFinish true (applyFull s)
    let s2 := if s.stage = 6 then s1 else setStage 5 s1
    s2.onQfa (fun q => { q with release := true })
  else s

/-- APPLY_END (R473). -/
def execApplyEnd (s : State) : Res := .next (loaderNext 4 (applyEnd s))

/-- The release point (R473, R459, R372, R692): `us` is the time since the release of reset in microseconds. -/
def releasePoint (us : Nat) (s : State) : State :=
  if s.pwr.mode = .pitch ∧ s.qfa.release = true ∧ s.atFrameBoundary = true ∧ s.tide.stopped = false then
    let s1 := enterMode .run (s.onQfa (fun q => { q with release := false }))
    let s2 := if s.stage = 6 then s1 else setStage 6 (s1.setReg aSysBootTime (BitVec.ofNat 32 (min us 0xFFFFFFFF)))
    let s3 := foldS armPartition s2.setup.parts s2
    foldS (fun n s => if bit (s.reg (aFryCfg n)) 1 then fryStart n s else s) (List.range 64) s3
  else s

/-- RELEASE_POINT (R473). -/
def execReleasePoint (us : Nat) (s : State) : Res := .next (releasePoint us s)

/-- STAGED_READ_UE (R474, R479, R718). -/
def execStagedReadUe (addr : BitVec 44) (s : State) : Res := .next (loaderNext 4 (stagedReadUe addr.toNat s))

/-- REPITCH_APPLY_END (R477). -/
def execRepitchApplyEnd (s : State) : Res :=
  .next (match s.qfa.part with
    | some n => if s.qfa.phase = 5 ∧ s.qfa.stopped = true then applyPartial n s else s
    | none => s)

end Sys2Proof.Machine
end

