-- ==== Sys2Proof/Machine/Reset.lean ====
section
/-! DEFINITION. Resets, boot, and the way into and out of BIVOUAC and LANTERN (spec/18_reset_boot.md; spec/17_clocks_power.md R654 to
R659; spec/opcode_table.json rows SET_MODE_ANCHOR_RESET, BIVOUAC_RETURN, LANTERN_BOOT, COLD_RESET to BOOT_FROM_FLASH,
LOW_POWER_ENTRY_COMPLETE, SUPPLIES_VALID). -/

namespace Sys2Proof.Machine

/-- Change the mode record. -/
def State.onPwr (s : State) (f : Pwr → Pwr) : State := { s with pwr := f s.pwr }

/-- Keep the registers whose address satisfies p; every other one returns to its reset value. -/
def State.keepRegs (s : State) (p : Nat → Bool) : State := { s with regs := smKeep p s.regs }

/-! ## COLD reset (R671) -/

/-- The machine after a COLD reset, in ANCHOR: what stays is the flash, the one-time-programmable memory, and the model's own counters
and queue. -/
def coldState (s : State) : State :=
  { State.reset with
    flash := s.flash, draws := s.draws, freeCtr := s.freeCtr, rdata := s.rdata, pending := s.pending
    sec := { CmdProc.reset with rolled := s.sec.rolled }
    pwr := { Pwr.reset with mode := .anchor, prev := .anchor, resetN := s.pwr.resetN, pwronN := s.pwr.pwronN } }

/-- COLD_RESET (R671): PWRON_N falls. -/
def execColdReset (s : State) : Res :=
  .next (if s.pwr.mode = .off then s else (coldState s).onPwr (fun p => { p with pwronN := false }))

/-- ANCHOR is left for BOOT: reset has been released (R648). -/
def toBoot (s : State) : State := (s.onPwr (fun p => { p with mode := .boot, prev := .anchor })).orReg aCkpStat 0x800

/-- The straps are sampled (R682, R661). -/
def sampleStraps (straps : BitVec 8) (s : State) : State :=
  let s1 := s.setReg aSysStrap (straps.zeroExtend 32)
  let cp := (s.reg aLantCpCfg &&& 0x7C) ||| BitVec.ofNat 32 (b2n (straps.getLsbD 5) + 2 * b2n (straps.getLsbD 6) + 256 * b2n (straps.getLsbD 7))
  s1.setReg aLantCpCfg cp

/-- POWER_ON_RELEASE (R682, R671): PWRON_N rises in ANCHOR. -/
def powerOn (straps : BitVec 8) (s : State) : State :=
  if s.pwr.mode = .anchor ∧ s.pwr.pwronN = false then
    let s1 := (sampleStraps straps s).onPwr (fun p => { p with pwronN := true })
    if s.pwr.resetN then toBoot s1 else s1
  else s

/-- POWER_ON_RELEASE (R682). -/
def execPowerOnRelease (straps : BitVec 8) (s : State) : Res := .next (powerOn straps s)

/-- SUPPLIES_VALID (Table 17-6): OFF is left for ANCHOR, with PWRON_N low. -/
def execSuppliesValid (s : State) : Res :=
  .next (if s.pwr.mode = .off then (coldState s).onPwr (fun p => { p with pwronN := false }) else s)

/-! ## WARM reset (Table 18-2) -/

/-- Is an address a register that a WARM reset keeps? -/
def warmKeeps (a : Nat) : Bool :=
  (decide (0x40060000 ≤ a) && decide (a < 0x40070000)) ||
  (decide (aSecFloorLo 0 ≤ a) && decide (a < aSecDbg)) ||
  (decide (aJrnlStat ≤ a) && decide (a < 0x40090000)) ||
  (decide (0x40140000 ≤ a) && decide (a < 0x40141000) && decide (a % 0x100 ≤ 4)) ||
  (decide (0x40100000 ≤ a) && decide (a < 0x40140000) && [0, 4, 0x10, 0x14].contains (a % 0x1000)) ||
  (decide (aBwtrSlotmap 0 ≤ a) && decide (a < aBwtrCevt 0)) || (decide (aBwtrCflt 0 ≤ a) && decide (a < aBwtrCflt 16)) ||
  [aBwtrStat, aQfaFloor, aQfaSlotaOff, aQfaSlotbOff, aQfaSlotSize, aQfaSlotaInfo, aQfaSlotbInfo, aSysRstCause, aSysStrap, aSysMute,
   aCampCfg].contains a || (decide (aGpioIn 0 ≤ a) && decide (a ≤ aGpioIn 2))

/-- Of the kept registers, the bits that return to 0: flags of JRNL_STAT, of BWTR_STAT, of the SAP status registers, and CAMP_CFG but
for camp_id. -/
def warmMask (a : Nat) : Word :=
  if a = aJrnlStat then 0xE
  else if a = aBwtrStat then 3
  else if a = aCampCfg then 0xFFFF0000
  else if 0x40100000 ≤ a ∧ a < 0x40140000 ∧ a % 0x1000 = 4 then 1
  else if 0x40140000 ≤ a ∧ a < 0x40141000 ∧ a % 0x100 = 4 then 1
  else 0xFFFFFFFF

/-- The registers after a WARM reset. -/
def warmRegs (m : SMap Word) : SMap Word :=
  (smKeep warmKeeps m).foldl (fun r e => smSet regDefault r e.1 (e.2 &&& warmMask e.1)) []

/-- A WARM reset (R670, R674, Table 18-2): the device is in ANCHOR; `cause` is its bit of SYS_RST_CAUSE. A COLD sequence that is still
on its way stays one (R671). -/
def warmReset (cause : Word) (s : State) : State :=
  let r := sapRamp s
  let still := s.pwr.cold && (decide (s.pwr.mode = .anchor))
  { State.reset with
    regs := smSet regDefault (warmRegs s.regs) aSysRstCause (s.reg aSysRstCause ||| cause)
    mem := smKeep (fun a => decide (regionOf a ≠ some Region.ddr)) s.mem
    bw := { Bwtr.reset with log := s.bw.log }
    flash := s.flash, lant := s.lant, draws := s.draws, freeCtr := s.freeCtr, rdata := s.rdata, pending := s.pending
    sec := { CmdProc.reset with caches := s.sec.caches, rolled := s.sec.rolled }
    hold := (pinReset s).hold
    sap := { Sap.reset with ports := r.sap.ports, noClk := s.sap.noClk }
    pcie := { Pcie.reset with perst := s.pcie.perst }
    pwr := { Pwr.reset with mode := .anchor, prev := s.pwr.mode, cold := still, pwronN := s.pwr.pwronN, resetN := s.pwr.resetN } }

/-- RESET_N_LOW (R674, R677): RESET_N falls; a low with PWRON_N low has no effect (R671). -/
def execResetNLow (s : State) : Res :=
  .next (let s1 := s.onPwr (fun p => { p with resetN := false })
    if s.pwr.pwronN then setMuteHold s1 else s1)

/-- WARM_RESET (R674): a RESET_N low is recognised. -/
def execWarmReset (s : State) : Res :=
  .next (if s.pwr.resetN = false ∧ s.pwr.pwronN = true ∧ s.pwr.mode ≠ .off ∧ (s.pwr.mode ≠ .anchor ∨ s.pwr.cold = false) then warmReset 2 s else s)

/-- RESET_N_RISE (R671, R674): ANCHOR is left for BOOT; a low that no reset followed sets short. -/
def resetRise (s : State) : State :=
  let s1 := s.onPwr (fun p => { p with resetN := true })
  if s.pwr.resetN ∨ s.pwr.pwronN = false then s1
  else if s.pwr.mode = .anchor then toBoot s1
  else s1.orReg aSysRstCause 0x10

/-- RESET_N_RISE (R674). -/
def execResetNRise (s : State) : Res := .next (resetRise s)

/-- SET_MODE_ANCHOR_RESET (R597): the response has been read out, or with `ms` 1 ms has passed; the reset releases itself where
RESET_N is high. -/
def anchorReset (ms : Bool) (s : State) : State :=
  match s.sec.warm with
  | none => s
  | some ch =>
    if ms ∨ s.readOut ch = true then
      let s1 := warmReset 4 (setMuteHold s)
      if s.pwr.resetN then toBoot s1 else s1
    else s

/-- SET_MODE_ANCHOR_RESET (R597). -/
def execSetModeAnchorReset (ms : Bool) (s : State) : Res := .next (anchorReset ms s)

/-! ## CLUSTER reset (R672, R716, R453) -/

/-- Does cluster c hold logical core 0, a core of a pitched partition that is not shed, or is it in reset? -/
def State.clrstRefused (s : State) (c : Nat) : Bool :=
  decide (c = 0) || bit (s.reg aSysClrstStat) c ||
  s.setup.parts.any (fun p => (s.ptActive p.part || decide (s.qfa.part = some p.part)) && !s.ptOut p.part &&
    p.lcores.any (fun l => decide (l / 8 = c) && (s.slotOf l).isSome))

/-- The bits of the logical cores of cluster c. -/
def clusterMask (c : Nat) : BitVec 128 := (0xFF : BitVec 128) <<< (8 * c)

/-- A write of SYS_CLRST by Landward supervisor code; `lost` names the far accesses of the cluster's cores whose request lies in the
CCLKc-to-FCLK crossing (R716). -/
def clusterReset (c : Nat) (lost : List Nat) (s : State) : State :=
  if s.clrstRefused c then s.orReg aSysClrstStat 0x10000
  else
    let slots := (List.range 9).map (fun i => 9 * c + i)
    let s1 := foldS coreReset slots s
    let s2 := fryReset (2 * c + 1) (fryReset (2 * c) s1)
    let mine := fun (r : FabReq) => match r.ini with | .core k _ => decide (k.val / 9 = c) && r.st.open_ && lost.contains r.id | _ => false
    let n := (s2.memc.reqs.filter mine).length
    let s3 := { s2 with
      memc := { s2.memc with reqs := s2.memc.reqs.filter (fun r => !mine r) }
      setup := { s2.setup with parts := s2.setup.parts.map (fun (p : Part) => { p with cores := p.cores &&& ~~~(clusterMask c) }) }
      bw := { s2.bw with tkos := s2.bw.tkos.filter (fun t => decide (t.lcore / 8 ≠ c)) } }
    let s4 := s3.setReg aCkpXdrop (BitVec.ofNat 32 (min 0xFFFFFFFF ((s3.reg aCkpXdrop).toNat + n)))
    let s5 := foldS (fun k s => (s.zero (localBase k) 0x40000).cancelWb (localBase k) 0x40000) slots s4
    (s5.setRegFld (aBwtrCstat c) 0 9 0).orReg aSysClrstStat (bitW c)

/-- CLUSTER_RESET (R672). -/
def execClusterReset (ini : Initiator) (c : Fin 16) (lost : List Nat) (s : State) : Res :=
  .next (if landSuper ini (s.cstOf ini) then clusterReset c lost s else s)

/-- DEGRADED ends with the last cluster that held a retired slot (R447). -/
def degradedClear (s : State) : State :=
  if (List.range 16).all (fun c => decide (fld (s.reg (aBwtrCstat c)) 9 9 = 0)) then s.clrReg aBwtrStat 1 else s

/-- CLUSTER_RESET_COMPLETE (R672, R453, R639). -/
def clusterResetDone (c : Nat) (s : State) : State :=
  if bit (s.reg aSysClrstStat) c then
    let s1 := foldS (fun a s => s.setReg a (regDefault a)) [aBwtrSlotmap c, aBwtrCstat c, aBwtrCevt c, aBwtrCflt c] s
    degradedClear (showLost c (crossingReset c 0 (s1.clrReg aSysClrstStat (bitW c))))
  else s

/-- CLUSTER_RESET_COMPLETE (R672). -/
def execClusterResetComplete (c : Fin 16) (s : State) : Res := .next (clusterResetDone c s)

/-- A write of SYS_MUTE_SET. -/
def muteSet (v : Word) (s : State) : State := if bit v 0 then setMuteHold s else s

/-- MUTE_SET (R677): Landward supervisor code only. -/
def execMuteSet (ini : Initiator) (v : Word) (s : State) : Res := .next (if landSuper ini (s.cstOf ini) then muteSet v s else s)

/-! ## Boot (R683 to R688) -/

/-- Do two ranges of flash meet? -/
def meetsRange (a n b m : Nat) : Bool := decide (a < b + m) && decide (b < a + n)

/-- Is the boot header at a flash offset valid (R683)? -/
def State.headerOk (s : State) (e : BootEnv) (o : Nat) : Bool :=
  let w := fun (i : Nat) => s.flash32 (o + i)
  let reach := if e.sfdp then e.sizeK.toNat * 1024 else min (e.sizeK.toNat * 1024) (16 * 2 ^ 20)
  let er := max 1 e.erase
  let js := w 0x18
  let ranges : List (Nat × Nat) := [(w 8, w 0x10), (w 0xC, w 0x10), (w 0x14, js), (w 0x14 + js, js)]
  let base := w 0x20 + w 0x24 % 4096 * 2 ^ 32
  let size := w 0x28 + 1
  decide (w 0 = 0x39544F42) && decide (w 4 % 65536 = 0x0100) && decide (w 0x3C = crcIeee (s.flashBytes o 0x3C)) &&
  ranges.all (fun r => decide (r.1 + r.2 ≤ reach) && decide (r.1 % er = 0) && decide (0x20000 ≤ r.1)) &&
  decide (js % er = 0) && decide (4096 ≤ js) && decide (js ≤ 262144) &&
  !(meetsRange (w 8) (w 0x10) (w 0xC) (w 0x10)) && !(meetsRange (w 8) (w 0x10) (w 0x14) (2 * js)) &&
  !(meetsRange (w 0xC) (w 0x10) (w 0x14) (2 * js)) &&
  decide (base % 64 = 0) && decide (w 0x24 < 4096) && decide (size ≤ 0x10000000) &&
  (decide (base + size ≤ 0x02000000) || (decide (0x1000000000 ≤ base) && decide (base + size ≤ 0x2000000000)))

/-- The header's values reach their registers (Table 18-6). -/
def loadHeader (o : Nat) (s : State) : State :=
  let w := fun (i : Nat) => s.flash32 (o + i)
  let r := fun (a i : Nat) (s : State) => s.setReg a (BitVec.ofNat 32 (w i))
  let s1 := r aJrnlSect 0x18 (r aJrnlBase 0x14 (r aQfaSlotSize 0x10 (r aQfaSlotbOff 0xC (r aQfaSlotaOff 8 s))))
  let s2 := r aQfaStgLim 0x28 (r aQfaStgBaseHi 0x24 (r aQfaStgBase 0x20 s1))
  let s3 := s2.setRegFld aCampCfg 16 16 (w 0x1C % 65536)
  let d := w 0x1C / 2 ^ 24
  s3.setReg aDdrcCap (BitVec.ofNat 32 (d % 8 + d / 128 * 256))

/-- LPDDR5X training (R578, R579, R295). -/
def ddrTrain (e : BootEnv) (s : State) : State :=
  let cap := fld (s.reg aDdrcCap) 0 3
  let iecc := bit (s.reg aDdrcCap) 8
  let sp := fun (x : Fin 7) => min x.val cap
  let on0 := decide (sp e.speed0 ≠ 0)
  let on1 := decide (sp e.speed1 ≠ 0)
  let r0 := if on0 then e.raw0.toNat else 0
  let r1 := if on1 then e.raw1.toNat else 0
  let both := on0 && on1
  let mism := both && decide (r0 ≠ r1)
  let data := fun (r : Nat) => if iecc then r * 15 / 16 else r
  let size := if mism then data r0 else data r0 + data r1
  let speed := if both then min (sp e.speed0) (sp e.speed1) else max (sp e.speed0) (sp e.speed1)
  let mode := speed + b2n on0 * 2 ^ 8 + b2n on1 * 2 ^ 9 + b2n (both && !mism) * 2 ^ 10 + b2n iecc * 2 ^ 11 + b2n mism * 2 ^ 12
  let s1 := ((s.setReg aDdrcMode (BitVec.ofNat 32 mode)).setReg aDdrcSize (BitVec.ofNat 32 size)).setReg aDdrcChsize
    (BitVec.ofNat 32 (r0 + r1 * 2 ^ 16))
  { s1 with memc := { s1.memc with ddrCap := size * 2 ^ 20 } }

/-- The boot awaits a LOAD_IMAGE command in a stage (R686 to R688, R692). -/
def bootWait (stage : Nat) (s : State) : State := setStage stage { s with boot := { auto := false, tries := [], home := stage } }

/-- The valid slots in the order in which they are tried (R480). -/
def State.bootSlots (s : State) : List Nat :=
  match s.slotValid 0, s.slotValid 1 with
  | true, true => if s.slotSeq 0 < s.slotSeq 1 then [1, 0] else [0, 1]
  | true, false => [0]
  | false, true => [1]
  | false, false => []

/-- Step 5 of Table 18-7, or the wait for a host push or a Strand boot. -/
def bootSource (s : State) : State :=
  let src := fld (s.reg aSysStrap) 0 2
  if src = 1 then bootWait 7 (s.setRegFld aSysBootStat 12 2 1)
  else if src = 2 then bootWait 8 (s.setRegFld aSysBootStat 12 2 2)
  else
    let s0 := if src = 3 then setBootCode 7 s else s
    if 0x1000000000 ≤ s.stgBase ∧ s.memc.ddrCap = 0 then bootWait 9 (setBootCode 3 s0)
    else
      match s.bootSlots with
      | [] => bootWait 9 (setBootCode 4 s0)
      | k :: ks =>
        let s1 := { s0 with boot := { auto := true, tries := ks, home := 0 } }
        qfaFetch k (setStage 2 (s1.setRegFld aSysBootStat 16 1 k))

/-- BOOT_FROM_FLASH (R685, Table 18-7 steps 1 to 5): SRAM is zeroed, the flash negotiated, its header read and the journal scanned,
LPDDR5X trained, the links of the header enabled, and the boot source taken up. -/
def bootRun (e : BootEnv) (s : State) : State :=
  if s.pwr.mode ≠ .boot ∨ s.stage ≠ 0 then s
  else
    let s1 := { s with mem := smKeep (fun a => decide (regionOf a = some Region.ddr)) s.mem }
    let s2 := flashSettle e.modes.toNat e.sfdp ((s1.setReg aSysFlashId (e.id.zeroExtend 32)).setReg aSysFlashSize e.sizeK)
    if !e.flashOk then bootWait 9 (setBootCode 2 (jrnlBoot s.pwr.cold s2))
    else
      match (if s2.headerOk e 0 then some 0 else if s2.headerOk e 0x10000 then some 0x10000 else none) with
      | none => bootWait 9 (setBootCode 1 (jrnlBoot s.pwr.cold s2))
      | some o =>
        let s3 := jrnlBoot s.pwr.cold (loadHeader o (s2.setRegFld aSysBootStat 17 1 (b2n (decide (o ≠ 0)))))
        let links := s2.flash32 (o + 0x1C) / 2 ^ 16 % 256
        let s4 := foldS (fun n s => if links.testBit n then strCtlWrite n 1 s else s) (List.range 8) (ddrTrain e s3)
        bootSource (slotInfo s4)

/-- BOOT_FROM_FLASH (R685). -/
def execBootFromFlash (env : BootEnv) (s : State) : Res := .next (loaderNext 4 (bootRun env s))

/-! ## BIVOUAC and LANTERN (R654 to R659) -/

/-- LOW_POWER_ENTRY_COMPLETE (Table 17-7 steps 4 to 8), unless a wake has cancelled the entry (R655). -/
def lowPowerDone (s : State) : State :=
  match s.pwr.entering with
  | none => s
  | some m =>
    if s.pwr.woken then s
    else
      let busy := (List.range 64).filter (fun n => decide ((s.fry n).st ≠ .idle))
      let s1 := linksDown (foldS fryPause busy (s.onPwr (fun p => { p with paused := busy })))
      let s2 := if bit (s1.reg aPcieLink) 8 then pcieL1 true s1 else s1
      let s3 := setMode m ((leaveNeap s2).onPwr (fun p => { p with entering := none }))
      if m = .bivouac then vrAdvance s3 else s3

/-- LOW_POWER_ENTRY_COMPLETE (R654). -/
def execLowPowerEntryComplete (s : State) : Res := .next (lowPowerDone s)

/-- BIVOUAC_RETURN (R658, R655): at a tide frame boundary after the wake. -/
def bivouacReturn (s : State) : State :=
  if s.pwr.woken = true ∧ (s.pwr.mode = .bivouac ∨ s.pwr.entering.isSome = true) ∧ s.atFrameBoundary = true then
    let s1 := s.onPwr (fun p => { p with woken := false, entering := none, paused := [] })
    let s2 := pcieL1 false (foldS fryResume s.pwr.paused s1)
    let ports := s2.sap.ports.foldl (fun m e => smSet (fun _ => SapPort.init) m e.1 { e.2 with ramp := none }) []
    let s3 := { s2 with sap := { s2.sap with ports := ports } }.orReg aLantStat 0x100
    vrAdvance (capOps (if s.pwr.mode = .bivouac then enterMode s.pwr.back s3 else s3))
  else s

/-- BIVOUAC_RETURN (R658). -/
def execBivouacReturn (s : State) : Res := .next (bivouacReturn s)

/-- LANTERN_BOOT (R659): the boot after a wake from LANTERN is one after a COLD reset that the Lantern does not see. -/
def lanternBoot (straps : BitVec 8) (s : State) : State :=
  if s.pwr.mode = .lantern ∧ s.pwr.woken = true then
    let c := coldState s
    let s1 := { c with lant := s.lant, regs := smKeep (fun a => decide (0x40060000 ≤ a) && decide (a < 0x40070000)) s.regs }
    let s2 := (sampleStraps straps s1).orReg aSysRstCause 8
    let s3 := s2.orReg aLantStat 0x100
    if s.pwr.resetN then toBoot s3 else s3
  else s

/-- LANTERN_BOOT (R659). -/
def execLanternBoot (straps : BitVec 8) (s : State) : Res := .next (lanternBoot straps s)

end Sys2Proof.Machine
end

