-- ==== Sys2Proof/Machine/Regs.lean ====
section
/-! DEFINITION. Reading and writing a device register by its address (spec/00_scope.md R7 to R13, spec/20_register_index.md R712 to
R714): the registers that show what State holds elsewhere, the registers whose access does something, and every other one by its
access code. -/

namespace Sys2Proof.Machine

/-! ## Reading -/

/-- Word 0 (low) or 1 (high) of a 64-bit value. -/
def half64 (hi : Bool) (v : BitVec 64) : Word := if hi then hiW v else loW v

/-- The code of a lock state (Table 02-4). -/
def LockState.code : LockState → Nat
  | .free => 0 | .acquire => 1 | .locked => 2 | .holdover => 3

/-- TIDE registers that are live (Tables 02-7, 02-11, 02-12; R81, R82). `o` is the offset in the block. -/
def State.tideLive (s : State) (o : Nat) : Option Word :=
  let t := s.tide
  if o = 0xC then some ((s.reg aTideStat &&& 0xFF00) ||| BitVec.ofNat 32 (t.lock.code + 4 * b2n t.fallback))
  else if o = 0x30 ∨ o = 0x34 then some (half64 (decide (o = 0x34)) t.stamp)
  else if o = 0x60 then some t.frame
  else if o = 0x64 ∨ o = 0x68 then some (half64 (decide (o = 0x68)) t.frameStart)
  else if o = 0x6C then some (BitVec.ofNat 32 t.framePos)
  else if o = 0x80 ∨ o = 0x84 then some (half64 (decide (o = 0x84)) t.beat16)
  else if o = 0x88 ∨ o = 0x8C then some (half64 (decide (o = 0x8C)) (t.tempo.zeroExtend 64))
  else if o = 0xA4 then some (BitVec.ofNat 32 t.queue.length)
  else if 0x1000 ≤ o ∧ o < 0x3000 then
    let c := s.cmp ((o - 0x1000) / 0x20)
    let n := (o - 0x1000) / 0x20
    match o % 0x20 with
    | 0 => some (loW c.target)
    | 4 => some (hiW c.target)
    | 8 => some (s.reg (aTideCmpCtl n) ||| BitVec.ofNat 32 (8 * b2n c.fired))
    | 0xC => some (s.reg (aTideCmpAct n) &&& cmpActMask (s.cmpAct n))
    | 0x14 => some (c.cnt.zeroExtend 32)
    | _ => none
  else none

/-- IC registers that show the sources' states (Tables 09-5, 09-6). -/
def State.icLive (s : State) (o : Nat) : Option Word :=
  if 0x104 ≤ o ∧ o ≤ 0x130 then some (s.srcBits ((o - 0x100) / 4) (fun x => decide (x.st = .pending)))
  else if 0x284 ≤ o ∧ o ≤ 0x2B0 then some (s.srcBits ((o - 0x280) / 4) (fun x => x.level))
  else if 0x2C4 ≤ o ∧ o ≤ 0x2F0 then
    some (s.srcBits ((o - 0x2C0) / 4) (fun x => decide (x.st = .active) || decide (x.st = .holdoff)))
  else if 0x2000 ≤ o ∧ o < 0x2800 then some (s.icRun ((o - 0x2000) / 4))
  else none

/-- BWTR registers that show the log (Tables 10-5, 10-6). -/
def State.bwLive (s : State) (o : Nat) : Option Word :=
  if o = 0x10 then some (BitVec.ofNat 32 s.bw.log.length)
  else if 0x20 ≤ o ∧ o ≤ 0x30 then
    some (match s.bw.log.head? with
      | none => 0
      | some e => match (o - 0x20) / 4 with | 0 => e.w0 | 1 => e.w1 | 2 => e.w2 | 3 => e.w3 | _ => e.w4)
  else none

/-- MEMC registers that show the uncorrectable-error log (R333). -/
def State.memcLive (s : State) (o : Nat) : Option Word :=
  let e := s.memc.ue.head?
  if o = 0x30 then some (BitVec.ofNat 32 s.memc.ue.length)
  else if o = 0x34 then some (match e with | some x => BitVec.ofNat 32 x.addr | none => 0)
  else if o = 0x38 then some (match e with | some x => BitVec.ofNat 32 (x.addr / 2 ^ 32) | none => 0)
  else if o = 0x3C then some (match e with | some x => x.src | none => 0)
  else none

/-- FRYn registers that show the channel (Table 08-10). -/
def State.fryLive (s : State) (n o : Nat) : Option Word :=
  let c := s.fry n
  let loop := fun (i : Nat) => BitVec.ofNat 32 ((c.loops.reverse.map (fun l => l.2)).getD i 0)
  match o with
  | 0x8 => some (s.fryStat n)
  | 0x10 => some (BitVec.ofNat 32 (c.pc / 8 * 8))
  | 0x14 => some (BitVec.ofNat 32 (c.pc / 2 ^ 32))
  | 0x58 => some (loop 0)
  | 0x5C => some (loop 1)
  | 0x60 => some (BitVec.ofNat 32 (c.hold.length % 64 + c.loops.length * 2 ^ 8))
  | 0x64 => some (BitVec.ofNat 32 c.tagsUsed)
  | _ => none

/-- STRn registers that show the link's tags and write-fault queue (Tables 13-9, 13-13). -/
def State.strLive (s : State) (n o : Nat) : Option Word :=
  let l := s.link n
  if o = 0x34 then some (BitVec.ofNat 32 l.txs.length)
  else if o = 0x60 then some (BitVec.ofNat 32 l.wfq.length)
  else if 0x64 ≤ o ∧ o ≤ 0x70 then
    some (match l.wfq.head? with
      | none => 0
      | some e => match (o - 0x64) / 4 with | 0 => e.w0 | 1 => e.w1 | 2 => e.w2 | _ => e.w3)
  else none

/-- CORE_PIPE_STAT (Table 05-15). -/
def State.pipeStat (s : State) (k : Nat) : Word :=
  match (s.core k).lb with
  | none => 0
  | some b => BitVec.ofNat 32 (b2n b.valid + 2 * b2n b.cap + 4 * (b.thr % 4) + 16 * (b.level % 4) + 256 * (b.held.length % 128))

/-- Is the one-time-programmable memory loaded (R714): not between a COLD reset and step 2 of the boot. -/
def State.otpLoaded (s : State) : Bool := !(s.pwr.cold && decide (s.stage = 0))

/-- SEC registers that show the one-time-programmable memory (Table 15-9, R714). -/
def State.secLive (s : State) (o : Nat) : Option Word :=
  if o = 8 ∨ o = 0xC then some (if s.otpLoaded then half64 (decide (o = 0xC)) Config.otpUid else 0)
  else if o = 0x10 then some (if s.otpLoaded then s.keygen else 0)
  else none

/-- The value of a register that shows what State holds elsewhere; none for a register that holds its own value. -/
def State.regLive (s : State) (a : Nat) : Option Word :=
  if a < 0x40010000 then
    if a = aSysMode then some s.sysMode
    else if a = aSysMute then some ((s.reg aSysMute &&& 1) ||| BitVec.ofNat 32 (2 * b2n s.muteN))
    else none
  else if a < 0x40020000 then s.tideLive (a - 0x40010000)
  else if a < 0x40030000 then s.icLive (a - 0x40020000)
  else if a < 0x40040000 then s.bwLive (a - 0x40030000)
  else if a < 0x40050000 then (if a = aQfaStat then some s.qfaStat else none)
  else if a < 0x40060000 then none
  else if a < 0x40070000 then
    if a = aLantRtcLo then some (BitVec.ofNat 32 s.lant.rtc.toNat)
    else if a = aLantRtcHi then some (BitVec.ofNat 32 (s.lant.rtc.toNat / 2 ^ 32))
    else none
  else if a < 0x40080000 then s.secLive (a - 0x40070000)
  else if a < 0x40090000 then none
  else if a < 0x400A0000 then
    let o := a - 0x40090000
    let g := o / 0x100
    if 16 ≤ g then none
    else if o % 0x100 = 4 then some (s.evStat g)
    else if o % 0x100 = 0x10 then some (BitVec.ofNat 32 (s.evFifo g).length)
    else if 0x50 ≤ o % 0x100 ∧ o % 0x100 ≤ 0x5C then some (s.evWord g ((o % 0x100 - 0x50) / 4))
    else none
  else if a < 0x400B0000 then none
  else if a < 0x400C0000 then s.memcLive (a - 0x400B0000)
  else if a < 0x400D0000 then none
  else if a < 0x400E0000 then (if a = aPcieStat then some s.pcieStat else none)
  else if a < 0x40100000 then
    let p := (a - 0x400E0000) / 0x10000
    let o := a % 0x10000
    if o = 0xC then some (s.ethStat p)
    else if o = 0x120 ∨ o = 0x124 then some (half64 (decide (o = 0x124)) (s.ptpTime p))
    else none
  else if a < 0x40140000 then none
  else if a < 0x40200000 then
    (if 0x40141000 ≤ a ∧ a < 0x40143000 then some (s.sapRtStat ((a - 0x40141000) / 4)) else none)
  else if a < 0x40280000 then s.strLive ((a - 0x40200000) / 0x10000) (a % 0x10000)
  else if a < 0x40300000 then none
  else if a < 0x40340000 then s.fryLive ((a - 0x40300000) / 0x1000) (a % 0x1000)
  else if 0x41000000 ≤ a ∧ a < 0x41900000 ∧ a % 0x10000 = 0x20C then some (s.pipeStat ((a - 0x41000000) / 0x10000))
  else none

/-- The current value of the register at an address (R7, R13): 0 at an offset that no register has. -/
def State.peek (s : State) (a : Nat) : Word :=
  match s.regLive a with
  | some v => v
  | none => match regRow? a with | some _ => s.reg a | none => 0

/-- IC_CNTj is read and cleared (R386): the counts of sources 4j to 4j + 3. -/
def icCntRead (j : Nat) (s : State) : State × Word :=
  let ref := fun (m : Nat) => SrcRef.shared (Fin.ofNat 416 (4 * j + m))
  let v := (List.range 4).foldl (fun a m => a + (s.src (ref m)).cnt % 256 * 2 ^ (8 * m)) 0
  (foldS (fun m s => s.setSrc (ref m) { s.src (ref m) with cnt := 0 }) (List.range 4) s, BitVec.ofNat 32 v)

/-- LANT_RAM_ADDR moves on by 4, wrapping at 64 KiB (Table 17-14). -/
def ramNext (s : State) : State := s.setReg aLantRamAddr (BitVec.ofNat 32 (((s.reg aLantRamAddr).toNat + 4) % 65536))

/-- A read of LANT_RAM_DATA (R660): the word as stored, with what its ECC finds. -/
def ramRead (ecc : EccHit) (s : State) : State × Word :=
  let v := smGet (fun _ => (0 : Word)) s.lant.ram ((s.reg aLantRamAddr).toNat / 4)
  let s1 := match ecc with | .ok => s | .ce _ => s.orReg aLantStat 0x1000 | .ue _ => s.orReg aLantStat 0x2000
  (ramNext s1, v)

/-- A read of a register that shows its value and clears what its access code says (R7, R9). -/
def plainRead (a : Nat) (s : State) : State × Word :=
  match regRow? a with
  | some r => (if r.rc = 0 then s else s.clrReg a (BitVec.ofNat 32 r.rc), s.peek a)
  | none => (s, s.peek a)

/-- A read of a device register by an initiator; `cst` is the CSTAT level and world of a core thread at the issue of its load
(R391, R392), `ecc` what a read of the Lantern SRAM finds. -/
def regRead (ini : Initiator) (cst : Nat) (ecc : EccHit) (a : Nat) (s : State) : State × Word :=
  if a = aIcClaim then
    match ini with
    | .core k t => claim k t cst s
    | _ => (s, 0x3FF)
  else if 0x40020420 ≤ a ∧ a ≤ 0x4002059C then icCntRead ((a - 0x40020400) / 4) s
  else if a = aLantRamData then ramRead ecc s
  else if 0x40090000 ≤ a ∧ a < 0x40091000 ∧ a % 0x100 = 0x5C then (evPop ((a - 0x40090000) / 0x100) s, s.peek a)
  else if 0x400E0000 ≤ a ∧ a < 0x40100000 ∧ 0x8000 ≤ a % 0x10000 ∧ a % 0x10000 < 0x9000 then rxfRead ((a - 0x400E0000) / 0x10000) s
  else plainRead a s

/-! ## Writing -/

/-- The value of a register after a write by its access code: RW bits, in BOOT and PITCH RWL bits too (R10), are replaced; a 1
clears W1C bits and sets W1S bits; every other bit stays (R7, R11). -/
def RegRow.written (r : RegRow) (rwl : Bool) (old v : Word) : Word :=
  let m := BitVec.ofNat 32 (if rwl then r.rw ||| r.rwl else r.rw)
  (((old &&& ~~~m) ||| (v &&& m)) &&& ~~~(v &&& BitVec.ofNat 32 r.w1c)) ||| (v &&& BitVec.ofNat 32 r.w1s)

/-- RWL fields take software's writes (R10). -/
def State.rwlOpen (s : State) : Bool := decide (s.pwr.mode = .boot) || decide (s.pwr.mode = .pitch)

/-- A write by the access code alone; none where no register stands (R13). -/
def plainWrite (a : Nat) (v : Word) (s : State) : State :=
  match regRow? a with
  | some r => s.setReg a (r.written s.rwlOpen (s.reg a) v)
  | none => s

/-- A push to the tempo queue by software (R77, R79, R545): ignored with tempo_ovf on a member that follows a keeper's tempo; a
keeper tells its members. -/
def tempoSoft (locate : Bool) (s : State) : State :=
  if s.onStrand then s.orReg aTideStat 0x2000
  else
    let e := s.stagedEntry locate
    if s.tide.queue.length < 8 then tempoSend e (tempoPushEntry e s) else tempoPushEntry e s

/-- Writes to the SYS block: Landward supervisor code alone writes the registers of Table 18-8, CKP's writers SYS_MODE_REQ (R668);
the flash registers take any write. -/
def sysWrite (ini : Initiator) (cst a : Nat) (v : Word) (s : State) : State :=
  let land := landSuper ini cst
  if a = aSysModeReq then (if ckpWriter ini cst then (modeRequest (fld v 0 4) s).1 else s)
  else if a = aSysMuteSet then (if land then muteSet v s else s)
  else if a = aSysClrst then (if land then clusterReset (fld v 0 4) [] s else s)
  else if a = aSysFlashCtl then flashReneg v s
  else if a < 0x40000100 then (if land then plainWrite a v s else s)
  else plainWrite a v s

/-- Writes to the TIDE block; a lock count of 0 is treated as 1 (R88). -/
def tideWrite (a : Nat) (v : Word) (s : State) : State :=
  let o := a - 0x40010000
  if o = 4 then tideRefWrite v s
  else if o = 8 then plainWrite a (if fld v 16 8 = 0 then v ||| 0x10000 else v) s
  else if o = 0x38 then (if bit v 0 then snapshot s else s)
  else if o = 0xA0 then tempoSoft (bit v 0) s
  else if o = 0xA8 then (if bit v 0 then tempoFlush s else s)
  else if 0x1000 ≤ o ∧ o < 0x3000 then
    let n := (o - 0x1000) / 0x20
    match o % 0x20 with
    | 0 => cmpTgtLow n v s
    | 4 => cmpArm n v s
    | 8 => cmpCtlWrite n v s
    | 0xC => plainWrite a (v &&& cmpActMask (s.cmpAct n)) s
    | _ => plainWrite a v s
  else plainWrite a v s

/-- Writes to the IC block (R382). -/
def icWrite (ini : Initiator) (cst a : Nat) (v : Word) (s : State) : State :=
  let o := a - 0x40020000
  let r := s.icRight ini cst
  if o = 4 then icDone ini (fld v 0 10) s
  else if o = 8 then icDbell r v s
  else if 0x140 ≤ o ∧ o < 0x180 then icPend r ((o - 0x140) / 4) v true s
  else if 0x180 ≤ o ∧ o < 0x1C0 then icPend r ((o - 0x180) / 4) v false s
  else if 0x200 ≤ o ∧ o < 0x240 then icMask r ((o - 0x200) / 4) v true s
  else if 0x240 ≤ o ∧ o < 0x280 then icMask r ((o - 0x240) / 4) v false s
  else if 0x800 ≤ o ∧ o < 0x880 then (if r = .all then plainWrite a v s else s.orReg aIcStat 2)
  else if 0x1080 ≤ o ∧ o < 0x1680 then icSrcCfg r ((o - 0x1000) / 4) v s
  else plainWrite a v s

/-- Writes to the QFA block (R471): Landward supervisor threads; others are ignored with wr_refused; the staging registers change
in IDLE alone. -/
def qfaWrite (ini : Initiator) (cst a : Nat) (v : Word) (s : State) : State :=
  if !landSuper ini cst then s.orReg aQfaStat 0x800
  else if a = aQfaCmd then loaderNext 4 (qfaCommand (fld v 0 3) (fld v 4 1) s)
  else if a = aQfaStgBase ∨ a = aQfaStgBaseHi ∨ a = aQfaStgLim then
    (if s.qfa.phase = 0 then (plainWrite a v s).onQfa (fun q => { q with staged := none, kept := none }) else qfaCmdErr s)
  else plainWrite a v s

/-- Writes to the CKP block (R668). -/
def ckpWrite (ini : Initiator) (cst a : Nat) (v : Word) (s : State) : State :=
  if !ckpWriter ini cst then s
  else if 0x40050010 ≤ a ∧ a < 0x40050050 then opRequest ((a - 0x40050010) / 4) (fld v 0 3) s
  else if a = aCkpVrRetry then (if bit v 0 then vrRetry s else s)
  else plainWrite a v s

/-- Writes to the LANT block (R669, Table 17-14). -/
def lantWrite (a : Nat) (v : Word) (s : State) : State :=
  let drop := fun (k : Nat) (s : State) =>
    if s.lant.reached.testBit k then { s with lant := { s.lant with reached := s.lant.reached - 2 ^ k } } else s
  if a = aLantStat then
    let s1 := plainWrite a v s
    let s2 := if bit v 8 then wokeClear s1 else s1
    let s3 := if bit v 9 then drop 0 s2 else s2
    if bit v 10 then drop 1 s3 else s3
  else if a = aLantRtccmpHi 0 ∨ a = aLantRtccmpHi 1 then
    let s1 := plainWrite a v s
    if bit v 31 then s1 else drop (if a = aLantRtccmpHi 0 then 0 else 1) s1
  else if a = aLantRamData then
    ramNext { s with lant := { s.lant with ram := smSet (fun _ => (0 : Word)) s.lant.ram ((s.reg aLantRamAddr).toNat / 4) v } }
  else plainWrite a v s

/-- Writes to the SEC block (R588, R607): the control-port channel from the control port alone, the rest from Landward supervisor
code alone. -/
def secWrite (ini : Initiator) (cst a : Nat) (v : Word) (s : State) : State :=
  let o := a - 0x40070000
  if 0x1000 ≤ o then
    if ini ≠ .controlPort then s
    else if o < 0x2000 then secCpIn ((o - 0x1000) / 4) v s
    else if o = 0x3000 then secCpGo v s
    else if o = 0x3008 then secCpAck v s
    else plainWrite a v s
  else if landSuper ini cst then plainWrite a v s
  else s

/-- Writes to the JRNL block: Landward supervisor code alone (R605, R607). -/
def jrnlWrite (ini : Initiator) (cst a : Nat) (v : Word) (s : State) : State :=
  if !landSuper ini cst then s
  else if a = aJrnlWr then jrnlWr v s
  else if a = aJrnlRd then jrnlRd v s
  else plainWrite a v s

/-- Writes to the EVI block. -/
def eviWrite (a : Nat) (v : Word) (s : State) : State :=
  let o := a - 0x40090000
  let g := o / 0x100
  let r := o % 0x100
  if 16 ≤ g then s
  else if r = 0 then evCfgWrite g v s
  else if 0x30 ≤ r ∧ r < 0x50 then evPinCfg (8 * g + (r - 0x30) / 4) v s
  else if r = 0x60 then evFlush g v s
  else plainWrite a v s

/-- Writes to the PIN block; words 2 of the GPIO registers, and word 4 of GPIO_INT_CFG, hold eight pins. -/
def pinWrite (a : Nat) (v : Word) (s : State) : State :=
  let o := a - 0x400A0000
  if o < 0x120 then pinSelWrite (o / 4) v s
  else if 0x300 ≤ o ∧ o < 0x30C then gpioOut ((o - 0x300) / 4) v s
  else if 0x310 ≤ o ∧ o < 0x31C then gpioSet ((o - 0x310) / 4) v s
  else if 0x320 ≤ o ∧ o < 0x32C then gpioClr ((o - 0x320) / 4) v s
  else if 0x330 ≤ o ∧ o < 0x33C then gpioTgl ((o - 0x330) / 4) v s
  else if 0x340 ≤ o ∧ o < 0x34C then gpioOeWrite ((o - 0x340) / 4) v s
  else if o = 0x370 then plainWrite a (v &&& 0xFFFF) s
  else plainWrite a v s

/-- Writes to the PCIE block (R559 for PCIE_ACC, R560 for the MSI-X table, R562, R563 for the mailbox). -/
def pcieWrite (ini : Initiator) (cst a : Nat) (v : Word) (s : State) : State :=
  let o := a - 0x400D0000
  if o = 0x10 then (if landSuper ini cst then plainWrite a v s else s)
  else if o = 0x40 then s.clrReg aPcieHdb v
  else if o = 0x44 then s.orReg aPcieDdb v
  else if 0x8000 ≤ o ∧ o < 0x8400 ∧ o % 16 = 12 then msixCtlWrite ((o - 0x8000) / 16) (v &&& 1) s
  else if 0x9000 ≤ o ∧ o < 0xA000 then mbInWrite ((o - 0x9000) / 4) v s
  else if o = 0xB000 then mbGo v s
  else if o = 0xB008 then mbAck v s
  else plainWrite a v s

/-- Writes to the ETH blocks; the entry tables stand in the block of port 0. -/
def ethWrite (a : Nat) (v : Word) (s : State) : State :=
  let p := (a - 0x400E0000) / 0x10000
  let o := a % 0x10000
  if o = 0 then ethCfgWrite p v s
  else if o = 0x48 then txhWrite p v s
  else if o = 0x100 then ptpCfgWritten p (plainWrite a v s)
  else if o = 0x12C then ptpSet p v s
  else if 0x4000 ≤ o ∧ o < 0x6000 ∧ p = 0 ∧ o % 0x40 = 0 then entryCfgWrite (decide (o < 0x5000)) (o % 0x1000 / 0x40) v s
  else if 0x9000 ≤ o ∧ o < 0xA000 then txfWrite p v s
  else plainWrite a v s

/-- Writes to the SAP and SAPG blocks. -/
def sapWrite (a : Nat) (v : Word) (s : State) : State :=
  if a < 0x40140000 then
    let n := (a - 0x40100000) / 0x1000
    if a % 0x1000 = 0 then sapCfgWrite n v s
    else if a % 0x1000 = 0x14 then sapGateWrite n v s
    else plainWrite a v s
  else if a < 0x40140800 ∧ a % 0x100 = 0 then grpCfgWrite ((a - 0x40140000) / 0x100) v s
  else plainWrite a v s

/-- Writes to the STR blocks. -/
def strWrite (a : Nat) (v : Word) (s : State) : State :=
  let n := (a - 0x40200000) / 0x10000
  let o := a % 0x10000
  if o = 0 then strCtlWrite n v s
  else if o = 0x2C then strTtoWrite n v s
  else if o = 0x74 then (if bit v 0 then wfqPop n s else s)
  else plainWrite a v s

/-- Writes to the CAMP block: complete follows the expected count (R551), HELLO the priority (R540). -/
def campWrite (a : Nat) (v : Word) (s : State) : State :=
  if a = aCampCfg then helloChange (campJudge (campChoose (campComplete (plainWrite a v s)))) else plainWrite a v s

/-- Writes to the FRY blocks and the flags. -/
def fryWriteReg (a : Nat) (v : Word) (s : State) : State :=
  if a < 0x40340000 then
    let n := (a - 0x40300000) / 0x1000
    match a % 0x1000 with
    | 0x4 => fryCmd n (fld v 0 3) s
    | 0x10 => fryRegWrite n 0 v s
    | 0x14 => fryRegWrite n 1 v s
    | 0x30 => fryRegWrite n 2 v s
    | 0x34 => fryRegWrite n 3 v s
    | _ => plainWrite a v s
  else if a = aFrygFlagSet then flagWord true false v s
  else if a = aFrygFlagSetHi then flagWord true true v s
  else if a = aFrygFlagClr then flagWord false false v s
  else if a = aFrygFlagClrHi then flagWord false true v s
  else s

/-- Writes to a core's control block (R232, R244). -/
def coreWrite (a : Nat) (v : Word) (s : State) : State :=
  let k := (a - 0x41000000) / 0x10000
  match a % 0x10000 with
  | 0x208 =>
    let s1 := if bit v 0 then icInvalidate k s else s
    if bit v 1 then dcInvalidate k s1 else s1
  | 0x230 => if bit v 0 then counterClear k s else s
  | _ => plainWrite a v s

/-- A write of a device register by an initiator; `cst` as for a read. -/
def regWrite (ini : Initiator) (cst a : Nat) (v : Word) (s : State) : State :=
  if a < 0x40010000 then sysWrite ini cst a v s
  else if a < 0x40020000 then tideWrite a v s
  else if a < 0x40030000 then icWrite ini cst a v s
  else if a < 0x40040000 then
    if a = aBwtrLogPop then (if bit v 0 then popLog s else s)
    else if a = aBwtrInj then faultInjection ini cst v s
    else plainWrite a v s
  else if a < 0x40050000 then qfaWrite ini cst a v s
  else if a < 0x40060000 then ckpWrite ini cst a v s
  else if a < 0x40070000 then lantWrite a v s
  else if a < 0x40080000 then secWrite ini cst a v s
  else if a < 0x40090000 then jrnlWrite ini cst a v s
  else if a < 0x400A0000 then eviWrite a v s
  else if a < 0x400B0000 then pinWrite a v s
  else if a < 0x400C0000 then (if a = aMemcUePop then (if bit v 0 then s.popUe else s) else plainWrite a v s)
  else if a < 0x400D0000 then plainWrite a v s
  else if a < 0x400E0000 then pcieWrite ini cst a v s
  else if a < 0x40100000 then ethWrite a v s
  else if a < 0x40200000 then sapWrite a v s
  else if a < 0x40280000 then strWrite a v s
  else if a < 0x40300000 then campWrite a v s
  else if a < 0x41000000 then fryWriteReg a v s
  else coreWrite a v s

end Sys2Proof.Machine
end

