-- ==== Sys2Proof/Machine/Access.lean ====
section
/-! DEFINITION. Accesses made (spec/07_memory.md R292 to R323): a beat at its destination, and the commands FABRIC_ACCESS, RD, WR,
PCIE_MEMORY_READ, PCIE_MEMORY_WRITE, CP_WRITE, CP_READ, DBGACC, REGISTER_WRITE and REGISTER_READ_CLEAR. -/

namespace Sys2Proof.Machine

/-! ## One beat -/

/-- Initiators that reach the local memory of slots out of service (R22, R324). -/
def Initiator.anySlot : Initiator → Bool
  | .breakwater => true
  | .scrubber => true
  | _ => false

/-- Do n bytes at a make whole 8-byte words (R323)? -/
def wholeWords (a n : Nat) : Bool := decide (a % 8 = 0) && decide (n % 8 = 0)

/-- A beat on memory: the ECC of what it reads (R321, R322; R580 for LPDDR5X), then its data or its store. `part` marks a store that
writes its words only in part. -/
def memBeat (ini : Initiator) (kind : FabKind) (ecc : EccHit) (part : Bool) (t : Target) (r : Region) (b n : Nat) (data : List Byte)
    (s : State) : State × FabSt :=
  let store := decide (kind = .store)
  let alias_ := match t with | .mirror _ _ _ => true | _ => false
  let reads := !store || alias_ || part || !wholeWords b n
  let ddr := decide (r = Region.ddr)
  let hit := if !reads || (ddr && !bit (s.reg aDdrcMode) 11) then EccHit.ok
    else match ecc with | .ue w => (if wordAt b w < b + n then ecc else .ok) | _ => ecc
  match hit with
  | .ue w => ((if ddr then ddrEcc (wordAt b w) true s else s.logUe ini kind (wordAt b w)).noteUe ini kind (wordAt b w), .failed true)
  | _ =>
    let s1 := match hit with
      | .ce ws => if ddr then foldS (fun w s => if (b / 8 + w.val) * 8 < b + n then ddrEcc (wordAt b w) false s else s) ws s else s.countCes (decide (ini = .breakwater)) b n ws
      | _ => s
    if store then
      if ini ≠ .loader ∧ s.stagingHeld = true ∧ s.inStaging b n = true then (s, .failed false)
      else (if ini = .loader then s1.storeAt t data else (s1.storeAt t data).touchStaging b n, .done [])
    else (s1, .done (s1.loadAt t n))

/-- A beat at its destination in the device's own map: device register, memory, or nothing (R292 to R294). -/
def beat (ini : Initiator) (kind : FabKind) (cst : Nat) (ecc : EccHit) (part : Bool) (a n : Nat) (data : List Byte) (s : State) :
    State × FabSt :=
  match s.access (Initiator.anySlot ini) (decide (kind = .store)) a n with
  | .fail => (s, .failed false)
  | .remote _ _ => (s, .failed false)
  | .dev b =>
    if kind = .store then (regWrite ini cst b (BitVec.ofNat 32 (leNat data)) s, .done [])
    else let r := regRead ini cst ecc b s; (r.1, .done (leBytes 4 r.2.toNat))
  | .mem r b => memBeat ini kind ecc part (.mem r b) r b n data s
  | .mirror x r b => memBeat ini kind ecc part (.mirror x r b) r b n data s

/-- The bytes that one beat of an access covers from address a (R296, R304, R305): within a 16-byte block of a local bank, and
within a 32-byte block elsewhere. -/
def State.beatLen (s : State) (a n : Nat) : Nat :=
  let blk := match s.decodeAddr a with
    | .mem (.data _) _ => 16
    | .mem (.itcm _) _ => 16
    | .mirror _ (.data _) _ => 16
    | .mirror _ (.itcm _) _ => 16
    | _ => 32
  min n (blk - a % blk)

/-! ## FABRIC_ACCESS -/

/-- Does anything wait for the answer of a request? An answer to nobody is discarded (R427, R716). -/
def State.awaited (s : State) (id : Nat) : Bool :=
  s.waitsFor id || s.threads.any (fun e => e.2.posted.contains id) ||
  s.ferry.any (fun e => e.2.reads.any (fun r => decide (r.id = id)) || e.2.writes.any (fun w => decide (w.id = id)) ||
    decide (e.2.fetch.map (fun f => f.id) = some id)) ||
  s.sap.gets.any (fun g => decide (g.id = id)) || s.sap.puts.any (fun p => decide (p.id = id)) ||
  s.memc.reqs.any (fun q => decide (q.id = id) && decide (q.ini = .debug))

/-- An answer waits to be sent on link n. -/
def answer (n : Nat) (body : List Byte) (s : State) : State :=
  s.onLink n (fun l => { l with ord := l.ord + 1, cplQ := l.cplQ ++ [{ ord := l.ord, body := body, tag := none, waited := 0 }] })

/-- The answer to a request of another member (R525): a CPL for an RD, with data when the status is OK; for a WR one WACK entry once the bank
holds the write, or a PWFN. -/
def serveEnd (n : Nat) (wr : Bool) (b : List Byte) (status : Nat) (data : List Byte) (s : State) : State :=
  let tag := txFld b 4 8
  let tep := txFld b 12 4
  let src := txFld b 16 3
  let be := leNat ((b.drop 48).take 4)
  let msg := fun (kind : Nat) => txBody kind tag tep s.ownId src (txFld b 24 35) status (txFld b 72 7) (txFld b 79 2) (txFld b 81 2) data be
  answer n (if !wr then msg 2
    else if status = 0 then txBody 3 0 0 s.ownId src 0 0 0 0 0 (leBytes 2 (tag + tep * 2 ^ 8 + 2 ^ 15)) 0
    else msg 4) s

/-- First and one past the last of the bytes that a mask of 32 byte enables names. -/
def maskSpan (be : Nat) : Nat × Nat :=
  let on := (List.range 32).filter (fun i => be.testBit i)
  (on.headD 0, match on.getLast? with | some i => i + 1 | none => 0)

/-- The served request of link n that fabric request `id` makes has ended (R525). -/
def servedEnd (n : Nat) (wr : Bool) (b : List Byte) (st : FabSt) (s : State) : State :=
  let m := maskSpan (leNat ((b.drop 48).take 4))
  match st with
  | .done bs => serveEnd n wr b 0 (if wr then [] else (List.replicate m.1 (0 : Byte) ++ bs ++ List.replicate 32 (0 : Byte)).take 32) s
  | .failed true => serveEnd n wr b 2 [] s
  | _ => serveEnd n wr b (if wr && s.stagingHeld && s.inStaging (txFld b 24 35 * 32 + m.1) (m.2 - m.1) then 3 else 1) [] s

/-- The link that a fabric request is made for, with what it serves. -/
def State.servingOf (s : State) (id : Nat) : Option (Nat × Bool × List Byte) :=
  (List.range 8).findSome? (fun n => ((s.link n).serving.find? (fun x => decide (x.1 = id))).map (fun x => (n, x.2.1, x.2.2)))

/-- What follows the end of a request: a write of a Strand input route has ended, a slot that waits for its data takes them (R498), a request
of another member is answered (R525), the host's request goes on (R558), and an answer to nobody goes. -/
def afterAnswer (id : Nat) (s : State) : State :=
  match s.reqSt? id with
  | none => s
  | some st =>
    if st.open_ then s
    else
      let s1 := match s.sap.puts.find? (fun p => decide (p.id = id) && decide (p.kind = 2)) with
        | some p => streamAck p (match st with | .failed _ => true | _ => false) s
        | none => s
      let s1 := match s1.sap.gets.find? (fun g => decide (g.id = id) && decide (g.kind = 1)) with
        | some g => if (s1.port g.port).await.isEmpty then s1 else sapLate g.port s1
        | none => s1
      let s1 := match s1.servingOf id with
        | some (n, wr, b) => servedEnd n wr b st (s1.onLink n (fun l => { l with serving := l.serving.filter (fun x => decide (x.1 ≠ id)) }))
        | none => s1
      let s1 := if (s1.pcie.ops.head?.bind (fun o => o.cur)) = some id then
          hostBeatEnd (match st with | .done bs => some bs | _ => none) s1
        else s1
      if s1.awaited id then s1 else s1.dropReq id

/-- The bytes of a write with byte enables, those not enabled as memory holds them. -/
def State.merged (s : State) (t : Target) (a be : Nat) (data : List Byte) : List Byte :=
  let old := s.loadAt t data.length
  (List.range data.length).map (fun i => if be.testBit (a % 32 + i) then data.getD i 0 else old.getD i 0)

/-- A request's next beat in the device's own map: it waits while its memory wakes (R328). Byte enables that are not all of its bytes are
for memory alone; a write with them merges its bytes, and makes no access where none of the beat's is enabled. -/
def ownBeat (q : FabReq) (ecc : EccHit) (s : State) : State :=
  let store := decide (q.kind = .store)
  let a := q.beatAddr
  let n := s.beatLen a (if store then q.len else q.len - q.data.length)
  let t := s.access (Initiator.anySlot q.ini) store a n
  let data := q.data.take n
  if !s.awake t then
    match t with
    | .mem r b => (match powerUnit r b with | some u => s.beginWake u | none => s)
    | .mirror _ r b => (match powerUnit r b with | some u => s.beginWake u | none => s)
    | _ => s
  else
    let r := match q.mask, t with
      | none, _ => beat q.ini q.kind q.cst ecc false a n data s
      | some be, .mem _ _ =>
        if store ∧ (List.range n).all (fun i => !be.testBit (a % 32 + i)) = true then (s, FabSt.done [])
        else beat q.ini q.kind q.cst ecc true a n (if store then s.merged t a be data else []) s
      | some _, _ => (s, .failed false)
    match r.2 with
    | .done bs => r.1.gathered q.id n bs
    | st => r.1.setReqSt q.id st

/-- The memory of a request's next beat has power to come (R328): it sleeps, and its wake begins or is under way. -/
def asleep (q : FabReq) (s : State) : Bool :=
  !s.awake (s.access (Initiator.anySlot q.ini) (decide (q.kind = .store)) q.beatAddr
    (s.beatLen q.beatAddr (if q.kind = .store then q.len else q.len - q.data.length)))

/-- FABRIC_ACCESS (R292, R299, R307, R314): the next beat of request `id` is granted, and finds `g.ecc`. Requests of its bank that are not
still on their way have reached it (FCLK runs, R634), and the bank grants the one that arbitration chooses; one that is not chosen waits. A request
outside the on-chip SRAM meets no bank. -/
def fabricAccess (id : Nat) (g : GrantInfo) (s : State) : State :=
  match s.req? id with
  | none => s
  | some q =>
    if s.fclkRuns = false ∨ (q.st ≠ .waiting ∧ q.st ≠ .lifted) ∨ s.olderOpen q = true then s
    else
      match s.decodeAddr q.addr, s.arbAt q.beatAddr with
      | .remote m a, _ => afterAnswer id (strIssue q m a s)
      | _, none => afterAnswer id (ownBeat q g.ecc s)
      | _, some b =>
        let s1 := s.arrive b g.late
        if asleep q s then ownBeat q g.ecc s1
        else if (s1.choice b g.quota).map (fun x => x.id) = some id then afterAnswer id (ownBeat q g.ecc (s1.served b q.cls (Initiator.code q.ini)))
        else s1

/-- FABRIC_ACCESS (R314). -/
def execFabricAccess (id : Nat) (g : GrantInfo) (s : State) : Res := .next (fabricAccess id g s)

/-- What the words of an access beyond its first k find. -/
def eccBeyond (e : EccHit) (k : Nat) : EccHit :=
  match e with
  | .ok => .ok
  | .ce ws => .ce ((ws.filter (fun w => decide (k ≤ w.val))).map (fun w => Fin.ofNat 4 (w.val - k)))
  | .ue w => if k ≤ w.val then .ue (Fin.ofNat 4 (w.val - k)) else .ok

/-- The beats of request `id`, as far as their banks grant them at once, with the requests that have reached the banks before (R299, R307);
the words of the access find `ecc`. What is left waits for FABRIC_ACCESS. -/
def grantNow (id : Nat) : Nat → EccHit → State → State
  | 0, _, s => s
  | n + 1, ecc, s =>
    match s.req? id with
    | none => s
    | some q =>
      let s1 := fabricAccess id { ecc := ecc, late := (s.memc.reqs.map (fun x => x.id)).filter (fun x => decide (x ≠ id)) } s
      match s1.req? id with
      | none => s1
      | some q1 =>
        if q1.st.open_ ∧ q1.beatAddr ≠ q.beatAddr then grantNow id n (eccBeyond ecc (q1.beatAddr / 8 - q.beatAddr / 8)) s1 else s1

/-! ## Requests of other members (R326, R525, R528, R550) -/

/-- Are the enabled bytes contiguous? -/
def maskWhole (be : Nat) : Bool := let m := maskSpan be; decide (be % 2 ^ 32 = (2 ^ (m.2 - m.1) - 1) * 2 ^ m.1)

/-- May member `src` be served (R326, R550), and an access at `a` of its block reach what it addresses? The status of Table 13-5
otherwise. -/
def State.serveStatus (s : State) (src a n : Nat) (store : Bool) : Nat :=
  let cfg := s.reg aMemcRmtCfg
  if !bit cfg 0 || !s.campPass src then 3
  else
    match ownTarget a with
    | .dev _ => if bit cfg 1 then 0 else 3
    | .mem _ b => if store && s.stagingHeld && s.inStaging b n then 3 else 0
    | .mirror _ _ b => if store && s.stagingHeld && s.inStaging b n then 3 else 0
    | _ => 1

/-- Serve a request of another member, of body b on link n, as a class 4 requester (R326): refused at once, or asked of its bank. -/
def serve (n : Nat) (wr : Bool) (ecc : EccHit) (b : List Byte) (s : State) : State :=
  let be := leNat ((b.drop 48).take 4)
  let m := maskSpan be
  let a := txFld b 24 35 * 32 + m.1
  let len := m.2 - m.1
  let src := txFld b 16 3
  let st := s.serveStatus src a len wr
  if st ≠ 0 then serveEnd n wr b st [] s
  else if len = 0 then serveEnd n wr b 0 (if wr then [] else List.replicate 32 (0 : Byte)) s
  else
    let r := s.request (.remote (Fin.ofNat 8 src)) (if wr then .store else .load) a len (if wr then ((b.drop 16).drop m.1).take len else []) 0
      (if maskWhole be then none else some be)
    grantNow r.2 4 ecc (r.1.onLink n (fun l => { l with serving := l.serving ++ [(r.2, wr, b)] }))

/-- RD (R525). -/
def rdRow (n : Nat) (ecc : EccHit) (s : State) : State :=
  match takeRx n 1 1 0 s with
  | none => s
  | some (b, s1) => serve n false ecc b s1

/-- RD (R525). -/
def execRd (n : Fin 8) (ecc : EccHit) (s : State) : Res := .next (rdRow n ecc s)

/-- WR (R525). -/
def wrRow (n : Nat) (ecc : EccHit) (s : State) : State :=
  match takeRx n 1 0 1 s with
  | none => s
  | some (b, s1) => serve n true ecc b s1

/-- WR (R525). -/
def execWr (n : Fin 8) (ecc : EccHit) (s : State) : Res := .next (wrRow n ecc s)

/-! ## The host (R556 to R559) -/

/-- The physical address of offset x of BAR0 (0), BAR2 (1) or BAR4 (2) (Table 14-3); none where the BAR maps nothing. -/
def barAddr (bar x : Nat) : Option Nat :=
  match bar with
  | 0 => if x < 0x10000000 then some (0x40000000 + x) else none
  | 1 =>
    if x < 0x4000000 then some x
    else if x < 0x8000000 then some (0x10000000 + (x - 0x4000000))
    else if x < 0xC000000 then some (0x20000000 + (x - 0x8000000))
    else none
  | _ => if x < 0x1000000000 then some (0x1000000000 + x) else none

/-- Does Table 14-4 permit the host n bytes at physical address a? -/
def State.hostMay (s : State) (a n : Nat) (store : Bool) : Bool :=
  let c := s.reg aPcieAcc
  if 0x40000000 ≤ a ∧ a < 0x50000000 then
    if 0x400D8000 ≤ a ∧ a < 0x400E0000 then true else bit c (if store then 1 else 0)
  else if !store then bit c 0
  else bit c 2 || (decide (s.stgBase ≤ a) && decide (a + n ≤ s.stgBase + s.stgSize))

/-- Is the host's link up? -/
def State.hostUp (s : State) : Bool := bit (s.reg aPcieLink) 8

/-- The 32-byte blocks that n bytes from an offset touch: each with the mask of the bytes touched and the place of its first byte in
the request. -/
def hostBeats (x n : Nat) : List (Nat × Nat × Nat) :=
  (List.range ((x + n + 31) / 32 - x / 32)).map (fun i =>
    let blk := (x / 32 + i) * 32
    let lo := max x blk
    let hi := min (x + n) (blk + 32)
    (blk, (2 ^ (hi - lo) - 1) * 2 ^ (lo - blk), lo - x))

/-- A refused host write (R559). -/
def hostRefused (a : Nat) (s : State) : State := pcieFlag 0x4000 (setPair aPcieRefAddr aPcieRefAddrHi a s)

/-- The beats of the host's newest request, as far as their banks grant them at once; they find what `eccs` names, first to last, and no
error beyond it. A request behind another one waits. -/
def hostRun : Nat → List EccHit → State → State
  | 0, _, s => s
  | n + 1, eccs, s =>
    match s.pcie.ops with
    | [op] =>
      match op.cur with
      | some id =>
        let s1 := grantNow id 4 (eccs.headD .ok) s
        if (s1.req? id).isSome then s1 else hostRun n eccs.tail s1
      | none => s
    | _ => s

/-- A request of the host joins those that are not yet complete. -/
def hostAsk (store : Bool) (beats : List HostBeat) (eccs : List EccHit) (s : State) : State :=
  let ops := s.pcie.ops ++ [{ store := store, beats := beats, cur := none, acc := some [] }]
  hostRun (beats.length + 1) eccs (hostFlow (ops.length + 1) { s with pcie := { s.pcie with ops := ops } })

/-- PCIE_MEMORY_READ (R557 to R559): as class 4 requests, beat by beat, behind the writes that the host issued before it. -/
def hostRead (bar off len : Nat) (eccs : List EccHit) (s : State) : State :=
  if !s.hostUp then s
  else
    match barAddr bar off with
    | none => hostAsk false [⟨nowhere, none, 4, []⟩] [] s
    | some a =>
      if !s.hostMay a len false ∨ (bar = 0 ∧ ¬(len = 4 ∧ off % 4 = 0)) then hostAsk false [⟨nowhere, none, 4, []⟩] [] s
      else if bar = 0 then hostAsk false [⟨a, none, 4, []⟩] eccs s
      else hostAsk false ((hostBeats off len).map (fun e =>
          let m := maskSpan e.2.1
          ⟨match barAddr bar e.1 with | some b => b + m.1 | none => nowhere, none, m.2 - m.1, []⟩)) eccs s

/-- PCIE_MEMORY_READ (R558). -/
def execPcieMemoryRead (bar : Fin 3) (off : Nat) (len : Nat) (eccs : List EccHit) (s : State) : Res := .next (hostRead bar off len eccs s)

/-- Byte enables of a beat of a host write, as a mask. -/
def hostMask (be : List Bool) (blkMask first place : Nat) : Nat :=
  (List.range 32).foldl (fun m i => if blkMask.testBit i && be.getD (place + (i - first)) false then m + 2 ^ i else m) 0

/-- PCIE_MEMORY_WRITE (R557 to R559): `be` enables the bytes of `data`. A beat that fails is dropped. `eccs` says what the beats that must
read their words find, first to last (R323). -/
def hostWrite (bar off : Nat) (data : List Byte) (be : List Bool) (eccs : List EccHit) (s : State) : State :=
  if !s.hostUp then s
  else
    match barAddr bar off with
    | none => s
    | some a =>
      if bar = 0 then
        if data.length = 4 ∧ off % 4 = 0 ∧ be.take 4 = [true, true, true, true] then
          (if s.hostMay a 4 true then hostAsk true [⟨a, none, 4, data⟩] [] s else hostRefused a s)
        else s
      else if !s.hostMay a data.length true then hostRefused a s
      else
        hostAsk true ((hostBeats off data.length).filterMap (fun e =>
          let m := maskSpan e.2.1
          let on := hostMask be e.2.1 m.1 e.2.2
          let w := maskSpan on
          match barAddr bar e.1 with
          | none => none
          | some b => if on = 0 then none
              else some ⟨b + w.1, if maskWhole on then none else some on, w.2 - w.1, (data.drop (e.2.2 + (w.1 - m.1))).take (w.2 - w.1)⟩)) eccs s

/-- PCIE_MEMORY_WRITE (R558). -/
def execPcieMemoryWrite (bar : Fin 3) (off : Nat) (data : List Byte) (be : HostMask) (s : State) : Res :=
  .next (hostWrite bar off data be.be be.eccs s)

/-! ## The control port (R661 to R663) -/

/-- The register at a word offset of the control-port space (Table 17-8), and whether the port may write it. -/
def cpReg (o : Nat) : Option (Nat × Bool) :=
  if o = 0 then some (aSysChipid, false)
  else if o = 4 then some (aSysMode, false)
  else if 0x10 ≤ o ∧ o < 0x30 then some (aSecFloorLo 0 + (o - 0x10), false)
  else if 0x40 ≤ o ∧ o ≤ 0x48 then some (aLantWake 0 + (o - 0x40), false)
  else if o = 0x50 then some (aCkpStat, false)
  else if 0x1000 ≤ o ∧ o < 0x2000 then some (0x40070000 + o, true)
  else if 0x2000 ≤ o ∧ o < 0x3000 then some (0x40070000 + o, false)
  else if o = 0x3000 ∨ o = 0x3004 ∨ o = 0x3008 then some (0x40070000 + o, true)
  else none

/-- One byte arrives in SEC_CP_IN (R662). -/
def cpInByte (o : Nat) (b : Byte) (s : State) : State :=
  let i := (o - 0x1000) / 4
  secCpIn i (setFld (s.reg (aSecCpIn i)) (8 * (o % 4)) 8 b.toNat) s

/-- The bytes of a write transfer one after another, with the bytes of the word in progress (R662). The end leaves an incomplete word. -/
def cpBytes : List Byte → Nat → List Byte → State → State
  | [], _, w, s => s.orRegIf (!w.isEmpty) aLantStat 0x800
  | b :: bs, o, w, s =>
    if 0x1000 ≤ o ∧ o < 0x2000 then cpBytes bs ((o + 1) % 65536) [] (cpInByte o b (s.orRegIf (!w.isEmpty) aLantStat 0x800))
    else
      let w := if o % 4 = 0 then [b] else if w.isEmpty then [] else w ++ [b]
      if o % 4 = 3 ∧ w.length = 4 then
        let s1 := match cpReg (o - 3) with
          | some (a, true) => regWrite .controlPort 0 a (BitVec.ofNat 32 (leNat w)) s
          | some (_, false) => s.orReg aLantStat 0x800
          | none => s
        cpBytes bs ((o + 1) % 65536) [] s1
      else cpBytes bs ((o + 1) % 65536) w s

/-- A control-port transfer ends: the next one needs its own address match. -/
def cpEnd (s : State) : State := { s with cp := { s.cp with ready := false } }

/-- CP_WRITE (R662, R663): a write transfer to offset `off`; it is discarded while the port is not ready. -/
def execCpWrite (off : BitVec 16) (data : List Byte) (s : State) : Res :=
  .next (if s.cp.ready then cpEnd (cpBytes data off.toNat [] s) else s)

/-- The byte at an offset of the control-port space. -/
def State.cpByte (s : State) (o : Nat) : Byte :=
  match cpReg (o / 4 * 4) with
  | some (a, _) => BitVec.ofNat 8 ((s.peek a).toNat / 2 ^ (8 * (o % 4)))
  | none => 0

/-- CP_READ (R662, R663): n bytes from offset `off`; in SPI mode the status byte goes first, and what follows while the port is not
ready is left open. -/
def cpRead (off n : Nat) (s : State) : State :=
  let spi := bit (s.reg aLantCpCfg) 8
  if s.cp.ready then
    let bs := (List.range n).map (fun i => s.cpByte ((off + i) % 65536))
    { s with cp := { ready := false, out := if spi then 1 :: bs else bs } }
  else if spi then
    let bs := (List.range n).map (fun i => (Config.freeValue (s.freeCtr + i)).truncate 8)
    { s with cp := { ready := false, out := 0 :: bs }, freeCtr := s.freeCtr + n }
  else { s with cp := { ready := false, out := [] } }

/-- CP_READ (R662). -/
def execCpRead (off : BitVec 16) (n : Nat) (s : State) : Res := .next (cpRead off.toNat n s)

/-! ## Debug (R666) -/

/-- May DBGACC reach an address: with SEC_DBG bit 0 any; with bit 1 the control blocks and local memories of cores of Seaward
partitions? -/
def State.dbgMay (s : State) (a : Nat) : Bool :=
  let d := s.reg aSecDbg
  let sea := fun (k : Nat) => match (s.lcoreOf k).bind s.partOf with | some p => !p.land | none => false
  bit d 0 || (bit d 1 &&
    (match s.decodeAddr a with
     | .dev b => decide (0x41000000 ≤ b) && decide (b < 0x41900000) && sea ((b - 0x41000000) / 0x10000)
     | .mem r _ => (match r.slot? with | some k => sea k | none => false)
     | .mirror _ r _ => (match r.slot? with | some k => sea k | none => false)
     | _ => false))

/-- An access of the TAP that went to another member has ended: its outcome is captured. -/
def dbgCapture (s : State) : State :=
  match s.memc.reqs.find? (fun q => decide (q.ini = .debug)) with
  | none => s
  | some q =>
    match q.st with
    | .done bs => { (s.dropReq q.id) with tap := { s.tap with data := if q.kind = .load then BitVec.ofNat 32 (leNat bs) else s.tap.data, status := 0 } }
    | .failed _ => { (s.dropReq q.id) with tap := { s.tap with status := 2 } }
    | _ => s

/-- DBGACC (R666): one 4-byte access as a class 4 requester, or a refusal. While it has not ended the TAP is busy, and a later DBGACC
captures its end. -/
def dbgacc (a : Nat) (data : Word) (op : Nat) (ecc : EccHit) (s : State) : State :=
  let s0 := dbgCapture s
  let s1 := { s0 with tap := { s0.tap with ir := 0x10, pins := .none } }
  if s1.memc.reqs.any (fun q => decide (q.ini = .debug)) then s1
  else
    let put := fun (d : Word) (st : Nat) (s : State) => { s with tap := { s.tap with addr := a, data := d, op := op, status := st } }
    if 2 ≤ op then put data 0 s1
    else if !s1.dbgMay a then put data 3 s1
    else
      let r := s1.request .debug (if op = 1 then .store else .load) a 4 (if op = 1 then leBytes 4 data.toNat else []) 0
      match r.1.decodeAddr a with
      | .remote _ _ => put data 1 r.1
      | _ => dbgCapture (grantNow r.2 4 ecc (put data 1 r.1))

/-- DBGACC (R666). -/
def execDbgacc (addr : BitVec 44) (data : Word) (op : Fin 4) (ecc : EccHit) (s : State) : Res :=
  .next (dbgacc addr.toNat data op ecc s)

/-! ## Registers by themselves -/

/-- Is the address that of a word in a register block (R294, R712)? -/
def isReg (a : Nat) : Bool := decide (a % 4 = 0) && inRegBlock a

/-- REGISTER_WRITE (R7): an initiator writes a device register. -/
def execRegisterWrite (ini : Initiator) (addr : BitVec 44) (v : Word) (s : State) : Res :=
  .next (if isReg addr.toNat then regWrite ini (s.cstOf ini) addr.toNat v s else s)

/-- REGISTER_READ_CLEAR (R9): an initiator reads a device register; the word is the command's result. -/
def execRegisterReadClear (ini : Initiator) (addr : BitVec 44) (s : State) : Res :=
  .next (if isReg addr.toNat then let r := regRead ini (s.cstOf ini) .ok addr.toNat s; { r.1 with rdata := r.2 } else s)

end Sys2Proof.Machine
end

