-- ==== Sys2Proof/Machine/Fire.lean ====
section
/-! DEFINITION. What the Tide makes happen: the fires of compares with their actions, the start of a partition frame, the stop edge
and the first fire of a partial re-pitch, and the rows SAMPLE_BOUNDARY to TIDE_REF_WRITE (spec/02_tide.md), REPITCH_STOP and
REPITCH_START (spec/11_quafa.md). A row whose event cannot come about in a state leaves the state as it is. -/

namespace Sys2Proof.Machine

/-! ## The start of a partition frame (R406) -/

/-- The routes of a partition meet a fire of its frame compare (R494): the ring index moves on, and the first fire applies them. -/
def routesFire (p : Part) (s : State) : State :=
  let len := 2 ^ p.fmul * max 1 s.tide.nNow
  { s with sap := { s.sap with routes := s.sap.routes.map (fun (x : RtRun) =>
      if x.route.part = p.part then
        { x with idx := (x.idx + 1) % max 1 x.route.nbuf, start := s.tide.count.toNat, len := len, live := true }
      else x) } }

/-- Does partition p do no work in the frame that begins now: shed (R445), Seaward in SHORE and in the DEGRADED that replaced it
(R653), in HALT (R666), or in BIVOUAC and on the way to a low-power mode (R654); or is it PT0 after the loss of logical core 0 (R448)? -/
def State.ptHeld (s : State) (p : Part) : Bool :=
  s.ptShed p.part || (decide (p.part = 0) && bit (s.reg aBwtrStat) 2) || s.pwr.entering.isSome ||
  (match s.pwr.mode with
   | .halt => true | .bivouac => true
   | .shore => !p.land
   | .degraded => !p.land && decide (s.pwr.replaced = .shore)
   | .run => false | .neap => false
   | _ => true)

/-- The Ebb and Flood segments of the partition's threads take the halves that a commit without a bridge names (R413). -/
def swapHalves (p : Part) (s : State) : State :=
  let r := s.pt p.part
  if r.inFrame && r.committed && !bit (s.reg (aBwtrPtCwHi p.part)) 2 then
    let e := s.ptEbb p.part
    foldS (fun l s => match s.slotOf l with
      | none => s
      | some k => foldS (fun t s => s.onThread k t (fun th =>
          setSegBase (setSegBase th p.ebbSeg (p.ebbBase e)) p.floodSeg (p.ebbBase (!e)))) (List.range 4) s) p.lcores s
  else s

/-- What the output routes of the partition do from this fire on (R435, R445, R478, R499); a partition that stops at this fire has
done no work for it. -/
def outputsFire (p : Part) (s : State) : State :=
  let r := s.pt p.part
  let stops := s.ptHeld p && !s.ptShed p.part
  let o := (s.setPt p.part { r with inFrame := r.inFrame && !stops }).nextOut p.part
  s.setPt p.part { r with outHalf := o.1, outBridge := o.2.1, outZero := o.2.2, outIdle := !r.inFrame || stops, fresh := false, start := s.tide.count.toNat }

/-- Does a core of the partition break its class limit at the operating points now (R414)? -/
def State.overLimit (s : State) (p : Part) : Bool :=
  p.lcores.any (fun l => !classLimit p.cls p.budget (opMHz (s.opCur (l / 8))) (2 ^ p.fmul * max 1 s.tide.nNow) (rateHz s.rate))

/-- One core of the partition begins the frame (R233, R408, R428, R438, R440): its D-cache goes where it is so configured; it
starts again from its thread-start record where it waits for that, and a take-over not yet released is late. -/
def coreFire (p : Part) (l : Nat) (s : State) : State :=
  match s.slotOf l with
  | none => s
  | some k =>
    let x := s.lc l
    let s1 := s.setLc l { x with overruns := if x.wdFired then x.overruns else 0, wdFired := false, sig := 0xFFFFFFFF }
    let s2 := if bit (s1.reg (aCoreCacheCfg k)) 8 then dcInvalidate k s1 else s1
    match s2.bw.tkos.find? (fun t => decide (t.lcore = l)) with
    | some t =>
      let rest := s2.bw.tkos.filter (fun t => decide (t.lcore ≠ l))
      if t.loaded then startLcore p l k (s2.setTkos rest)
      else (s2.setTkos (rest ++ [{ t with late := true, replay := false }])).setLc l { s2.lc l with ready := false }
    | none =>
      if x.ready then startLcore p l k s2
      else s2.setCore k { s2.core k with wdClk := (s2.core k).clk }

/-- The partition's frame begins with work. -/
def ptBegin (p : Part) (s : State) : State :=
  let r := s.pt p.part
  let s1 := s.setPt p.part { r with
    inFrame := true, frame0 := s.tide.frame, failed := false, replayed := false, awaiting := false, committed := false
    badWords := [], evc := [], evr := [] }
  let s2 := s1.setRegFld (aBwtrPtStat p.part) 5 1 (b2n (s1.overLimit p))
  foldS (coreFire p) p.lcores s2

/-- The partition stops at this fire: its cores start again from their thread-start records at a later one; in SHORE its ACTIVE shared
sources enter HOLDOFF (R653). -/
def ptStop (p : Part) (s : State) : State :=
  let s1 := s.setPt p.part { s.pt p.part with inFrame := false, frame0 := s.tide.frame, awaiting := false, failed := false, badWords := [], evc := [], evr := [] }
  if s.ptShed p.part then s1
  else foldS (fun l s =>
    let s2 := stopAsDone l s
    if s.pwr.mode = .shore then holdoffLcore l s2 else s2) p.lcores s1

/-- A fire of the frame compare of partition p (R406). -/
def ptFire (p : Part) (s : State) : State :=
  let s1 := outputsFire p (routesFire p s)
  let s2 := swapHalves p s1
  let s3 := if s2.ptHeld p then ptStop p s2 else ptBegin p s2
  ethFrameStart p.part (streamFrameStart p.part s3)

/-- A fire of the frame compare of partition number n, with what the loader does at it: the stop edge of a re-pitch (R476) and its
first fire (R477). -/
def frameFire (n : Nat) (s : State) : State :=
  let mine := decide (s.qfa.part = some n)
  if mine && decide (s.qfa.phase = 4) && s.qfa.ready && !s.qfa.stopped then
    repitchStop n (match s.part? n with | some p => routesFire p s | none => s)
  else
    let s1 := if mine && s.qfa.armed then repitchStart n s else s
    match s1.part? n with
    | some p => ptFire p s1
    | none => s1

/-! ## Fires (R64, Table 02-5) -/

/-- WAITT operations that name compare n are released (R73, R187). -/
def releaseWaitt (n : Nat) (s : State) : State :=
  { s with threads := s.threads.map (fun (e : Nat × Thread) =>
      match e.2.wait with
      | .waitt m pc false b d => if m = n then (e.1, { e.2 with wait := .waitt n pc true b d }) else e
      | _ => e) }

/-- The slots that the parameters of an action 4 name (Table 02-13). -/
def gateSlots (a : Word) : Word :=
  let f := fld a 8 5
  let l := fld a 16 5
  BitVec.ofNat 32 ((List.range 32).foldl (fun w j => if f ≤ j ∧ j ≤ l then w + 2 ^ j else w) 0)

/-- Action 4 of compare n: the gates of the named slots of a port open or close (R74), but for slots whose gate a higher-numbered compare
has set on the same TKCLK edge (R69). -/
def gateAction (n : Nat) (a : Word) (s : State) : State :=
  let hidden := (s.tide.gateFires.filter (fun e => decide (n < e.1) && decide (fld e.2 0 6 = fld a 0 6))).foldl (fun m e => m ||| gateSlots e.2) 0
  sapGateFire (fld a 0 6) (gateSlots a &&& ~~~hidden) (bit a 24)
    { s with tide := { s.tide with gateFires := s.tide.gateFires ++ [(n, a)] } }

/-- Action 5 of compare n: the pin changes three TKCLK edges later (R75); actions of one edge stand in ascending compare number (R69). -/
def gpioAction (n : Nat) (a : Word) (s : State) : State :=
  let q := s.tide.gpioPend
  let e : GpioPend := { left := 3, cmp := n, pin := fld a 0 7, op := legal 9 3 (fld a 8 2) }
  let before := fun (x : GpioPend) => decide (x.left < 3) || decide (x.cmp ≤ n)
  { s with tide := { s.tide with gpioPend := q.filter before ++ [e] ++ q.filter (fun x => !before x) } }

/-- The action of compare n is taken. Actions 1 and 2 are the levels that the pending bit holds (R71). -/
def cmpAction (n : Nat) (s : State) : State :=
  let a := s.reg (aTideCmpAct n)
  match s.cmpAct n with
  | 3 => releaseWaitt n (fryRelease (fun w => decide (w = .cmp n)) s)
  | 4 => gateAction n a s
  | 5 => if fld a 0 7 < 72 then gpioAction n a s else s
  | _ => s

/-- Compare n fires (R64 to R66, R406). -/
def fire (n : Nat) (late : Bool) (s : State) : State :=
  let s1 := cmpAction n (cmpFired n late s)
  if 224 ≤ n then frameFire (n - 224) s1 else s1

/-- COMPARE_MATCH (R62 to R64): compare n fires where it matches. -/
def compareMatch (n : Nat) (s : State) : State := if s.counting && s.cmpMatches n then fire n false s else s

/-- COMPARE_MATCH (R64). -/
def execCompareMatch (n : Fin 256) (s : State) : Res := .next (compareMatch n s)

/-- COMPARE_GPIO_OUTPUT (R75): the oldest GPIO action on its way reaches its pin, with those of the same edge. -/
def compareGpioOutput (s : State) : State :=
  match s.tide.gpioPend with
  | [] => s
  | e :: es =>
    let m := es.foldl (fun m x => min m x.left) e.left
    gpioEdge { s with tide := { s.tide with gpioPend := s.tide.gpioPend.map (fun x => { x with left := x.left - m + 1 }) } }

/-- COMPARE_GPIO_OUTPUT (R75). -/
def execCompareGpioOutput (s : State) : Res := .next (compareGpioOutput s)

/-- CMP_TGT_LOW_WRITE (R67). -/
def execCmpTgtLowWrite (n : Fin 256) (v : Word) (s : State) : Res := .next (cmpTgtLow n v s)

/-- CMP_ARM (R67). -/
def execCmpArm (n : Fin 256) (v : Word) (s : State) : Res := .next (cmpArm n v s)

/-- CMP_MODE_OFF (R89): `v` is the word written to TIDE_CMPn_CTL, whose mode this row takes as 0. -/
def execCmpModeOff (n : Fin 256) (v : Word) (s : State) : Res := .next (cmpCtlWrite n (v &&& 0xFFFFFFFC) s)

/-! ## The passage of time -/

/-- One TKCLK edge of a counting Tide: the phase advances, and GPIO actions move toward their pins (R40, R75). -/
def tkEdge (s : State) : State := sapAwait (gpioEdge (tideTick s))

/-- SAMPLE_BOUNDARY (R40, R41): the edge that ends a sample; ports without a clock count their zero samples (R504). -/
def execSampleBoundary (s : State) : Res :=
  .next (if s.counting then sapPeriod (sapAwait (gpioEdge (sampleBoundary s))) else s)

/-- A beat position moved forward from `old` (R80): every beat-based compare whose target it passes over fires; `late` on a step. -/
def locateFires (old : Nat) (late : Bool) (s : State) : State :=
  if old < s.tide.beat16.toNat then
    foldS (fun n s => if s.cmpMatches n && bit (s.reg (aTideCmpCtl n)) 2 && decide (old < (s.cmp n).target.toNat) then fire n late s
      else s) (List.range 256) s
  else s

/-- A queue entry takes effect (R77), with the fires of a locate (R80). -/
def tempoTakes (late : Bool) (e : TempoEntry) (s : State) : State :=
  let s1 := { s with tide := tempoEffect e s.tide }
  if e.locate then locateFires s.tide.beat16.toNat late s1 else s1

/-- TIDE_FRAME_BOUNDARY (R44): a tide frame ends once its N sample periods have elapsed; the camp's and HALT's parts of the boundary
follow (R542, R545, R666), and the fires of the beat position that the camp locates (R80). -/
def frameBoundary (s : State) : State :=
  if s.counting = true ∧ s.tide.nNow ≤ s.tide.framePos ∧ s.tide.phase = 0 then
    haltBoundary (locateFires s.tide.beat16.toNat false (campBoundary (tideNewFrame s)))
  else s

/-- TIDE_FRAME_BOUNDARY (R44). -/
def execTideFrameBoundary (s : State) : Res := .next (frameBoundary s)

/-- The error of the Tide, in 2^-32 samples, against a reference whose position State gives: the network time at the last Sync by TIDE_ORG (R49,
R569), the oldest
CRF timestamp that waits, for the whole samples that the update names (R573), or the keeper at its last BEACON (R543). The sign, reference
less Tide, is the one by which a step adds the error (DESIGN CHOICE, log entry 26). -/
def State.refError (s : State) (u : RefUpdate) : Option Int :=
  match u.src with
  | 3 => (s.ethPort u.sel.val).ptp.ref
  | 4 => (s.eth.crf.find? (fun x => decide (x.1 = u.sel.val))).map (fun x => u.err.toInt * 2 ^ 32 + x.2)
  | 5 => s.camp.pos
  | _ => none

/-- The period of a WCLK or FSYNC reference in ps, rounded down (R48, Table 02-9). -/
def State.refPeriod (s : State) (src : Nat) : Int :=
  10 ^ 12 * 2 ^ (if src = 1 then legal 16 3 (fld (s.reg aTideRef) 10 2) else 0) / rateHz s.rate

/-- A phase error modulo a period, the nearest to 0 (R57). -/
def wrapPhase (e per : Int) : Int := (e + per / 2) % per - per / 2

/-- A reference update with the errors that State gives it: the phase error in ps is held to the range of TIDE_PERR, that of a WCLK or
FSYNC reference is taken modulo its period (R57). -/
def State.absUpdate (s : State) (u : RefUpdate) : RefUpdate :=
  match s.refError u with
  | some e =>
    { u with
      perr := BitVec.ofInt 32 (max (-2147483648) (min 2147483647 (e * 1000000000000 / ((rateHz s.rate : Int) * 2 ^ 32))))
      err := BitVec.ofInt 64 (Int.tdiv e (2 ^ 32)), fraction := decide (Int.tmod e (2 ^ 32) ≠ 0) }
  | none => if u.src = 1 ∨ u.src = 2 then { u with perr := BitVec.ofInt 32 (wrapPhase u.perr.toInt (s.refPeriod u.src)) } else u

/-- A Sync, a CRF timestamp or a BEACON is used up by its reference update (R52). -/
def refUsed (u : RefUpdate) (s : State) : State :=
  match u.src with
  | 3 => s.onEth u.sel.val (fun e => { e with ptp := { e.ptp with ref := none } })
  | 4 => { s with eth := { s.eth with crf := (s.eth.crf.dropWhile (fun x => decide (x.1 ≠ u.sel.val))).tail } }
  | 5 => { s with camp := { s.camp with pos := none } }
  | _ => s

/-- REFERENCE_UPDATE (R49, R50, R52): an update by network time needs a Sync of its own (R569), one by CRF a timestamp
(R573), one by the keeper a BEACON (R543). -/
def execReferenceUpdate (u : RefUpdate) (s : State) : Res :=
  .next (if (u.src = 3 ∨ u.src = 4 ∨ u.src = 5) ∧ s.refError u = none then s else referenceUpdate (s.absUpdate u) (refUsed u s))

/-- LOCK_ACHIEVED (R50, R51). -/
def execLockAchieved (s : State) : Res := .next (lockAchieved s)

/-- HOLDOVER_ENTRY (R51). -/
def execHoldoverEntry (missed4 : Bool) (s : State) : Res := .next (holdoverEntry missed4 s)

/-- REFERENCE_RETURN (R56). -/
def execReferenceReturn (s : State) : Res := .next (referenceReturn s)

/-- FALLBACK_SWITCH (R61). -/
def execFallbackSwitch (s : State) : Res := .next (fallbackSwitch s)

/-- TIDE_RATE_RESTART (R87). -/
def execTideRateRestart (s : State) : Res := .next (rateRestart s)

/-- Queue entries whose time has come, in order. -/
def dueEntries (q : List TempoEntry) (count : BitVec 64) : List TempoEntry :=
  q.takeWhile (fun e => decide (e.at_.toNat ≤ count.toNat % 2 ^ 48))

/-- Every record that names a sample period by its count takes the label that a step of k gives the period (R59): ports, routes,
talkers, listeners and partition frames carry on unbroken. -/
def relabel (k : Int) (s : State) : State :=
  let r := fun (x : Nat) => ((x : Int) + k).toNat
  { s with
    sap := { s.sap with
      ports := smMap (fun _ => SapPort.init) (fun p => { p with
        period := r p.period, edgeAt := ((p.edgeAt : Int) + k * 2 ^ 32).toNat, lastIn := r p.lastIn, gated := p.gated.map (fun g => (r g.1, g.2))
        slots := smMap (fun _ => SlotOut.init) (fun o => { o with bfor := o.bfor.map r }) p.slots }) s.sap.ports
      routes := s.sap.routes.map (fun x => { x with start := r x.start, first := r x.first })
      gets := s.sap.gets.map (fun g => { g with period := r g.period })
      puts := s.sap.puts.map (fun p => { p with period := r p.period }) }
    eth := { s.eth with
      tks := smMap (fun _ => EthTk.init) (fun t => { t with done := r t.done }) s.eth.tks
      lss := smMap (fun _ => EthLs.init) (fun l => { l with start := r l.start, first := r l.first, got := l.got.map r }) s.eth.lss }
    links := smMap (fun _ => Link.init) (fun l => { l with beaconAt := l.beaconAt.map (fun (p : Nat) => ((p : Int) + k * 2 ^ 32).toNat) }) s.links
    camp := { s.camp with pos := s.camp.pos.map (fun e => e - k * 2 ^ 32) }
    bw := { s.bw with pts := smMap (fun _ => PtRun.init) (fun p => { p with start := r p.start }) s.bw.pts } }

/-- SAMPLE_COUNT_STEP (R58 to R60, R70): at a frame boundary the count steps by k samples, the beat position by k increments; entries
of the tempo queue that it passes over take effect, and so do the fires of the compares that it passes over, late. -/
def sampleCountStep (s : State) : State :=
  match s.tide.step with
  | none => s
  | some k =>
    if s.counting && s.atFrameBoundary then
      let c := s.tide.count + k
      let t := { s.tide with
        count := c, frameStart := c, step := none
        beat := s.tide.beat + BitVec.ofInt 96 (k.toInt * (s.tide.tempo.toNat : Int)) }
      let due := if 0 < k.toInt then dueEntries t.queue c else []
      let s1 := ((({ relabel k.toInt s with tide := { t with queue := t.queue.drop due.length } }.orReg aTideStat 0x400).setReg aTideStepAmt
        (k.truncate 32)).setReg aTideStepAtLo (loW s.tide.count)).setReg aTideStepAtHi (hiW s.tide.count)
      if 0 < k.toInt then
        foldS (tempoTakes true) due
          (foldS (fun n s => if s.cmpMatches n && decide ((s.cmp n).target.toNat < s.cmpPos n) then fire n true s else s) (List.range 256) s1)
      else s1
    else s

/-- SAMPLE_COUNT_STEP (R58). -/
def execSampleCountStep (s : State) : Res := .next (sampleCountStep s)

/-- TEMPO_ENTRY_APPLY (R77, R78, R80): at a sample boundary the head of the queue applies once its time has come, late when that has
passed; a locate forward fires the beat-based compares that it passes over. -/
def tempoEntryApply (s : State) : State :=
  match s.tide.queue with
  | [] => s
  | e :: es =>
    let now := s.tide.count.toNat % 2 ^ 48
    if s.counting = true ∧ s.tide.phase = 0 ∧ e.at_.toNat ≤ now then
      let s1 := { s with tide := { s.tide with queue := es } }
      tempoTakes false e (if e.at_.toNat < now then s1.orReg aTideStat 0x1000 else s1)
    else s

/-- TEMPO_ENTRY_APPLY (R78). -/
def execTempoEntryApply (s : State) : Res := .next (tempoEntryApply s)

/-! ## Software's rows -/

/-- SNAPSHOT (R83). -/
def execSnapshot (s : State) : Res := .next (snapshot s)

/-- TEMPO_PUSH (R77, R79): the staged entry is pushed with kind 0. -/
def execTempoPush (s : State) : Res := .next (tempoSoft false s)

/-- LOCATE_PUSH (R77, R79): the staged entry is pushed with kind 1. -/
def execLocatePush (s : State) : Res := .next (tempoSoft true s)

/-- TEMPO_QUEUE_FLUSH (R77). -/
def execTempoQueueFlush (s : State) : Res := .next (tempoFlush s)

/-- TIDE_REF_WRITE (R47, R61). -/
def execTideRefWrite (v : Word) (s : State) : Res := .next (tideRefWrite v s)

/-! ## Re-pitch (R476, R477) -/

/-- REPITCH_STOP (R476): the stop edge is the next fire of PTn's frame compare, or the next tide frame boundary where PTn is not
pitched. -/
def repitchStopRow (s : State) : State :=
  match s.qfa.part with
  | none => s
  | some n =>
    if s.qfa.phase = 4 ∧ s.qfa.ready = true ∧ s.qfa.stopped = false then
      if s.ptActive n then compareMatch (224 + n) s
      else if s.atFrameBoundary then repitchStop n s else s
    else s

/-- REPITCH_STOP (R476). -/
def execRepitchStop (s : State) : Res := .next (repitchStopRow s)

/-- REPITCH_START (R477): the first fire of the re-pitched partition's frame compare; whoever asked for the re-pitch takes up its
end. -/
def repitchStartRow (s : State) : State :=
  loaderNext 4 (match s.qfa.part with
    | some n => if s.qfa.armed then compareMatch (224 + n) s else s
    | none => s)

/-- REPITCH_START (R477). -/
def execRepitchStart (s : State) : Res := .next (repitchStartRow s)

end Sys2Proof.Machine
end

