-- ==== Sys2Proof/Machine/MemRows.lean ====
section
/-! DEFINITION. The commands of the memories (spec/opcode_table.json rows ECC_WRITE_BACK to MEMC_UE_POP,
spec/07_memory.md). FABRIC_ACCESS is in Machine/Access.lean. -/

namespace Sys2Proof.Machine

/-- ECC_WRITE_BACK (R321): the write-back of a corrected word that no write has cancelled; memory already holds its value. On a bank of
cluster shared memory or the Reservoir it takes its turn by R307, lifted after `wait` FCLK at the head of its class (R308). -/
def eccWriteBack (a wait : Nat) (s : State) : State :=
  match s.memc.wb.find? (fun w => decide (w.1 = a)) with
  | none => s
  | some w =>
    let done := fun (s : State) => { s with memc := { s.memc with wb := s.memc.wb.filter (fun w => decide (w.1 ≠ a)) } }
    match bankAt a with
    | none => done s
    | some b => if s.wbTurn b w.2 wait then done ((s.served b (if w.2 then 0 else 4) wbCode).noteWrite a 8) else s

/-- ECC_WRITE_BACK (R321). -/
def execEccWriteBack (word : WbInfo) (s : State) : Res := .next (eccWriteBack word.word.toNat word.wait s)

/-- FCLK after which a request at the head of its class's queue is lifted (R308); none for class 0 and 1. -/
def liftAfter (c : Nat) : Option Nat := if c = 2 then some 22 else if c = 3 then some 10 else if c = 4 then some 56 else none

/-- REQUEST_LIFT (R308): a request of class 2, 3 or 4 that has waited `wait` FCLK at the head of its class's queue at a bank of cluster
shared memory or the Reservoir becomes lifted. -/
def requestLift (id wait : Nat) (s : State) : State :=
  match s.req? id with
  | none => s
  | some q =>
    match s.arbAt q.beatAddr, liftAfter q.cls with
    | some b, some n =>
      if b < 288 ∧ q.st = .waiting ∧ n ≤ wait ∧ (s.headOf b q.cls false).map (fun x => x.id) = some id then s.setReqSt id .lifted else s
    | _, _ => s

/-- REQUEST_LIFT (R308). -/
def execRequestLift (q : LiftInfo) (s : State) : Res := .next (requestLift q.id q.wait s)

/-- LOCAL_STARVATION (R302): an external wait of `wait` CCLK on a local bank of slot k. -/
def localStarvation (k wait : Nat) (s : State) : State :=
  if fld (s.reg aMemcLstarvLim) 0 16 < wait then
    let s1 := s.incFld (aMemcLstarv k) 0 16 1
    let w := min 0xFFFF wait
    (s1.setRegFld (aMemcLstarv k) 16 16 (max w (fld (s1.reg (aMemcLstarv k)) 16 16))).orReg aMemcStat 0x20
  else s

/-- LOCAL_STARVATION (R302). -/
def execLocalStarvation (slot : Fin 144) (wait : Nat) (s : State) : Res := .next (localStarvation slot wait s)

/-- SCRUB_PASS_START (R325): a pass starts, or the last one is late. -/
def scrubPassStart (e : Nat) (s : State) : State :=
  if s.memc.pass.contains e then
    { s with memc := { s.memc with passDue := if s.memc.passDue.contains e then s.memc.passDue else s.memc.passDue ++ [e] } }.orReg
      aMemcStat 0x10
  else { s with memc := { s.memc with pass := s.memc.pass ++ [e] } }

/-- SCRUB_PASS_START (R325). -/
def execScrubPassStart (eng : Fin 17) (s : State) : Res := .next (scrubPassStart eng s)

/-- Does a scrub engine cover a word (R324)? -/
def scrubCovers (e a : Nat) : Bool :=
  match regionOf a with
  | some .reservoir => decide (e = 16)
  | some (.shared c) => decide (e = c)
  | some (.data k) => decide (e = k / 9)
  | some (.itcm k) => decide (e = k / 9)
  | _ => false

/-- Breakwater repairs an uncorrectable word of a slot in service that the scrubber found (R424): an I-TCM word from the
Reservoir copy, zero past the image (R460), a data word with zero. -/
def scrubRepair (k a : Nat) (s : State) : State :=
  match s.lcoreOf k with
  | none => s
  | some l =>
    if !s.inService k then s
    else
      let o := a - itcmBase k
      let bs := match s.codeOf l with
        | some c => if ownItcm k a = true ∧ o < c.itcmLen then s.bytes (c.copy + o) 8 else leBytes 8 0
        | none => leBytes 8 0
      let rpt := match s.partOf l with | some p => (s.pt p.part).inReplay | none => false
      let s1 := logEvent k { det := 9, out := 4, lcore := l, oslot := k % 9, nslot := k % 9, addr := a, tko := false, rpt := rpt } s
      (s1.store a bs).cancelWb a 8
where
  /-- Is the address in the I-TCM of slot k? -/
  ownItcm (k a : Nat) : Bool := decide (itcmBase k ≤ a) && decide (a < itcmBase k + 0x10000)

/-- The bytes of spans of bytes in ascending order, and those of the word at a. -/
def addSpan (a : Nat) : List (Nat × Nat) → List (Nat × Nat)
  | [] => [(a, a + 8)]
  | (x, y) :: r =>
    if a + 8 < x then (a, a + 8) :: (x, y) :: r
    else if a + 8 = x then (a, y) :: r
    else if a < y then (x, y) :: r
    else if a = y then (match r with
      | (u, v) :: r' => if u = a + 8 then (x, v) :: r' else (x, a + 8) :: r
      | [] => [(x, a + 8)])
    else (x, y) :: addSpan a r

/-- Has an engine read the word at a in its pass? -/
def State.scrubbed (s : State) (e a : Nat) : Bool :=
  (smGet (fun _ => []) s.memc.scrub e).any (fun x => decide (x.1 ≤ a) && decide (a < x.2))

/-- The bytes that an engine covers (R324). -/
def scrubSpans (e : Nat) : List (Nat × Nat) :=
  if e = 16 then [(0, 0x2000000)]
  else [(0x10000000 + e * 0x400000, 0x10000000 + (e + 1) * 0x400000), (0x20000000 + e * 0x400000, 0x20000000 + e * 0x400000 + 0x240000)]

/-- The scrubber reads a word that its bank grants: the word's memory wakes where it sleeps (R328, R332); a corrected word is counted and
written back, whatever ce_wb; an uncorrectable one is logged. -/
def scrubRead (e a : Nat) (ecc : EccHit) (s : State) : State :=
  let s := s.wakeSpan a 8
  let s := { s with memc := { s.memc with scrub := smSet (fun _ => []) s.memc.scrub e (addSpan a (smGet (fun _ => []) s.memc.scrub e)) } }
  match ecc with
  | .ok => s
  | .ce _ =>
    let s1 := s.countCe false a
    if bit (s.reg aMemcCfg) 0 then s1 else { s1 with memc := { s1.memc with wb := s1.memc.wb ++ [(a, false)] } }
  | .ue _ =>
    let s1 := s.logUe .scrubber .load a
    match (regionOf a).bind Region.slot? with
    | some k => scrubRepair k a s1
    | none => s1

/-- SCRUB_WORD_READ (R324): an engine reads a word of its memories that it has not read in its pass, as a class 4 requester (R299, R307). -/
def scrubWordRead (e a : Nat) (i : ScrubInfo) (s : State) : State :=
  if s.memc.pass.contains e = true ∧ scrubCovers e a = true ∧ a % 8 = 0 ∧ s.scrubbed e a = false then
    match s.arbAt a with
    | none => s
    | some b =>
      let c := Initiator.code .scrubber
      if s.fourTurn b c i.wait then scrubRead e a i.ecc (s.served b 4 c) else s
  else s

/-- SCRUB_WORD_READ (R324). -/
def execScrubWordRead (eng : Fin 17) (word : BitVec 44) (ecc : ScrubInfo) (s : State) : Res :=
  .next (scrubWordRead eng word.toNat ecc s)

/-- SCRUB_PASS_END (R324, R325): once every word has been read, the pass ends; the Reservoir engine counts its passes; a pass that waited
starts. -/
def scrubPassEnd (e : Nat) (s : State) : State :=
  if s.memc.pass.contains e = true ∧ smGet (fun _ => []) s.memc.scrub e = scrubSpans e then
    let due := s.memc.passDue.contains e
    let s1 := { s with memc := { s.memc with
      pass := if due then s.memc.pass else s.memc.pass.filter (fun x => decide (x ≠ e))
      passDue := s.memc.passDue.filter (fun x => decide (x ≠ e))
      scrub := smSet (fun _ => []) s.memc.scrub e [] } }
    if e = 16 then (s1.addReg aMemcScrubPass 1).orReg aMemcStat 8 else s1
  else s

/-- SCRUB_PASS_END (R325). -/
def execScrubPassEnd (eng : Fin 17) (s : State) : Res := .next (scrubPassEnd eng s)

/-- BANK_WAKE_COMPLETE (R328, R329): the wake of a unit ends after a stall of `stall` tenths of a microsecond. -/
def bankWakeComplete (u stall : Nat) (s : State) : State :=
  if s.memPwr u = .wakeRet ∨ s.memPwr u = .wakeOff then
    let s1 := (s.markWoken u).endWake u
    s1.setReg aMemcWakeMax (BitVec.ofNat 32 (max (s1.reg aMemcWakeMax).toNat (min 0xFFFF stall)))
  else s

/-- BANK_WAKE_COMPLETE (R328). -/
def execBankWakeComplete (unit : Fin 48) (stall : Nat) (s : State) : Res := .next (bankWakeComplete unit stall s)

/-- BANK_IDLE_POWER_DOWN (R330, R651): in NEAP, a unit that an access has woken returns to its programmed state, unless MEMC_WAKE_IDLE is
0. -/
def bankIdlePowerDown (u : Nat) (s : State) : State :=
  if s.pwr.mode = .neap ∧ fld (s.reg aMemcWakeIdle) 0 16 ≠ 0 ∧ s.memPwr u = .on ∧ s.memc.woken.contains u = true then
    let s1 := s.setMemPwr u (s.neapState u)
    { s1 with memc := { s1.memc with woken := s1.memc.woken.filter (fun x => decide (x ≠ u)) } }
  else s

/-- BANK_IDLE_POWER_DOWN (R330). -/
def execBankIdlePowerDown (unit : Fin 48) (s : State) : Res := .next (bankIdlePowerDown unit s)

/-- MEMC_UE_POP (R333). -/
def execMemcUePop (s : State) : Res := .next s.popUe

end Sys2Proof.Machine
end

