-- ==== Sys2Proof/Machine/Dispatch.lean ====
section
/-! DEFINITION. The dispatch of commands: one arm per constructor, each a direct call of its meaning. -/

namespace Sys2Proof.Machine

/-- The effect of a command on everything but the queue. -/
def exec (i : Instr) (s : State) : Host.Outcome State Fault Refusal :=
  match i with
  | .sampleBoundary => Sys2Proof.Machine.execSampleBoundary s
  | .tideFrameBoundary => Sys2Proof.Machine.execTideFrameBoundary s
  | .referenceUpdate u => Sys2Proof.Machine.execReferenceUpdate u s
  | .lockAchieved => Sys2Proof.Machine.execLockAchieved s
  | .holdoverEntry missed4 => Sys2Proof.Machine.execHoldoverEntry missed4 s
  | .referenceReturn => Sys2Proof.Machine.execReferenceReturn s
  | .fallbackSwitch => Sys2Proof.Machine.execFallbackSwitch s
  | .sampleCountStep => Sys2Proof.Machine.execSampleCountStep s
  | .tideRateRestart => Sys2Proof.Machine.execTideRateRestart s
  | .compareMatch n => Sys2Proof.Machine.execCompareMatch n s
  | .compareGpioOutput => Sys2Proof.Machine.execCompareGpioOutput s
  | .cmpTgtLowWrite n v => Sys2Proof.Machine.execCmpTgtLowWrite n v s
  | .cmpArm n v => Sys2Proof.Machine.execCmpArm n v s
  | .cmpModeOff n v => Sys2Proof.Machine.execCmpModeOff n v s
  | .snapshot => Sys2Proof.Machine.execSnapshot s
  | .tempoPush => Sys2Proof.Machine.execTempoPush s
  | .locatePush => Sys2Proof.Machine.execLocatePush s
  | .tempoQueueFlush => Sys2Proof.Machine.execTempoQueueFlush s
  | .tempoEntryApply => Sys2Proof.Machine.execTempoEntryApply s
  | .tideRefWrite v => Sys2Proof.Machine.execTideRefWrite v s
  | .bundleIssue slot thr t => Sys2Proof.Machine.execBundleIssue slot thr t s
  | .longOpRetire slot thr j e => Sys2Proof.Machine.execLongOpRetire slot thr j e s
  | .waittRelease slot thr t => Sys2Proof.Machine.execWaittRelease slot thr t s
  | .interruptEntry slot thr e => Sys2Proof.Machine.execInterruptEntry slot thr e s
  | .farAccessResponse slot thr id e => Sys2Proof.Machine.execFarAccessResponse slot thr id e s
  | .iCacheLineFill slot thr id dt => Sys2Proof.Machine.execICacheLineFill slot thr id dt s
  | .postedWriteAck slot thr id dt => Sys2Proof.Machine.execPostedWriteAck slot thr id dt s
  | .storeBufferDrain slot thr dt => Sys2Proof.Machine.execStoreBufferDrain slot thr dt s
  | .icacheInvalidate slot => Sys2Proof.Machine.execIcacheInvalidate slot s
  | .dcacheInvalidate slot => Sys2Proof.Machine.execDcacheInvalidate slot s
  | .coreCounterClear slot => Sys2Proof.Machine.execCoreCounterClear slot s
  | .ptimerExpire slot thr dt => Sys2Proof.Machine.execPtimerExpire slot thr dt s
  | .sourceLevelChange src => Sys2Proof.Machine.execSourceLevelChange src s
  | .icClaim slot thr => Sys2Proof.Machine.execIcClaim slot thr s
  | .icDone ini id => Sys2Proof.Machine.execIcDone ini id s
  | .holdoffEnd src => Sys2Proof.Machine.execHoldoffEnd src s
  | .icDbell ini v => Sys2Proof.Machine.execIcDbell ini v s
  | .icPendSet ini k v => Sys2Proof.Machine.execIcPendSet ini k v s
  | .icPendClr ini k v => Sys2Proof.Machine.execIcPendClr ini k v s
  | .icMaskSet ini k v => Sys2Proof.Machine.execIcMaskSet ini k v s
  | .icMaskClr ini k v => Sys2Proof.Machine.execIcMaskClr ini k v s
  | .icSrcCfgWrite ini n v => Sys2Proof.Machine.execIcSrcCfgWrite ini n v s
  | .watchdogFire lcore dt => Sys2Proof.Machine.execWatchdogFire lcore dt s
  | .commitDeadline pt => Sys2Proof.Machine.execCommitDeadline pt s
  | .commit pt => Sys2Proof.Machine.execCommit pt s
  | .localUeDetect slot addr kind dt => Sys2Proof.Machine.execLocalUeDetect slot addr kind dt s
  | .parityDetect slot dt => Sys2Proof.Machine.execParityDetect slot dt s
  | .residueMismatch slot dt => Sys2Proof.Machine.execResidueMismatch slot dt s
  | .stateFault lcore addr dt => Sys2Proof.Machine.execStateFault lcore addr dt s
  | .takeOverRelease lcore => Sys2Proof.Machine.execTakeOverRelease lcore s
  | .replayRestart pt intime => Sys2Proof.Machine.execReplayRestart pt intime s
  | .degradedExit => Sys2Proof.Machine.execDegradedExit s
  | .logPop => Sys2Proof.Machine.execLogPop s
  | .faultInjection ini v => Sys2Proof.Machine.execFaultInjection ini v s
  | .injectedFaultRaise lcore dt => Sys2Proof.Machine.execInjectedFaultRaise lcore dt s
  | .verify ini => Sys2Proof.Machine.execVerify ini s
  | .pitch ini => Sys2Proof.Machine.execPitch ini s
  | .fetch ini slot => Sys2Proof.Machine.execFetch ini slot s
  | .store ini slot => Sys2Proof.Machine.execStore ini slot s
  | .arbCommit ini => Sys2Proof.Machine.execArbCommit ini s
  | .abandon ini => Sys2Proof.Machine.execAbandon ini s
  | .qfaCmdUndefined ini seven => Sys2Proof.Machine.execQfaCmdUndefined ini seven s
  | .checksComplete => Sys2Proof.Machine.execChecksComplete s
  | .fetchComplete => Sys2Proof.Machine.execFetchComplete s
  | .storeComplete => Sys2Proof.Machine.execStoreComplete s
  | .pitchB0 => Sys2Proof.Machine.execPitchB0 s
  | .applyEnd => Sys2Proof.Machine.execApplyEnd s
  | .releasePoint us => Sys2Proof.Machine.execReleasePoint us s
  | .stagedReadUe addr => Sys2Proof.Machine.execStagedReadUe addr s
  | .repitchStop => Sys2Proof.Machine.execRepitchStop s
  | .repitchApplyEnd => Sys2Proof.Machine.execRepitchApplyEnd s
  | .repitchStart => Sys2Proof.Machine.execRepitchStart s
  | .fabricAccess id g => Sys2Proof.Machine.execFabricAccess id g s
  | .eccWriteBack word => Sys2Proof.Machine.execEccWriteBack word s
  | .requestLift q => Sys2Proof.Machine.execRequestLift q s
  | .localStarvation slot wait => Sys2Proof.Machine.execLocalStarvation slot wait s
  | .scrubPassStart eng => Sys2Proof.Machine.execScrubPassStart eng s
  | .scrubWordRead eng word ecc => Sys2Proof.Machine.execScrubWordRead eng word ecc s
  | .scrubPassEnd eng => Sys2Proof.Machine.execScrubPassEnd eng s
  | .bankWakeComplete unit stall => Sys2Proof.Machine.execBankWakeComplete unit stall s
  | .bankIdlePowerDown unit => Sys2Proof.Machine.execBankIdlePowerDown unit s
  | .memcUePop => Sys2Proof.Machine.execMemcUePop s
  | .move n => Sys2Proof.Machine.execMove n s
  | .movx n => Sys2Proof.Machine.execMovx n s
  | .ferryLoop n => Sys2Proof.Machine.execFerryLoop n s
  | .endl n => Sys2Proof.Machine.execEndl n s
  | .waitTideCompare n => Sys2Proof.Machine.execWaitTideCompare n s
  | .waitEventFifo n => Sys2Proof.Machine.execWaitEventFifo n s
  | .waitFlag n => Sys2Proof.Machine.execWaitFlag n s
  | .ferryWaitRelease n => Sys2Proof.Machine.execFerryWaitRelease n s
  | .signalInterrupt n => Sys2Proof.Machine.execSignalInterrupt n s
  | .signalSetFlag n => Sys2Proof.Machine.execSignalSetFlag n s
  | .signalClearFlag n => Sys2Proof.Machine.execSignalClearFlag n s
  | .fence n => Sys2Proof.Machine.execFence n s
  | .crcInit n => Sys2Proof.Machine.execCrcInit n s
  | .crcFold n => Sys2Proof.Machine.execCrcFold n s
  | .crcStore n => Sys2Proof.Machine.execCrcStore n s
  | .park n => Sys2Proof.Machine.execPark n s
  | .parkWake n => Sys2Proof.Machine.execParkWake n s
  | .jump n => Sys2Proof.Machine.execJump n s
  | .endProg n => Sys2Proof.Machine.execEndProg n s
  | .ferryNop n => Sys2Proof.Machine.execFerryNop n s
  | .ferryFetch n id => Sys2Proof.Machine.execFerryFetch n id s
  | .ferryReadData n id => Sys2Proof.Machine.execFerryReadData n id s
  | .ferryWriteAck n id => Sys2Proof.Machine.execFerryWriteAck n id s
  | .start n => Sys2Proof.Machine.execStart n s
  | .pause n => Sys2Proof.Machine.execPause n s
  | .resume n => Sys2Proof.Machine.execResume n s
  | .stop n => Sys2Proof.Machine.execStop n s
  | .abort x => Sys2Proof.Machine.execAbort x s
  | .clear n => Sys2Proof.Machine.execClear n s
  | .ferryCmdUndefined n => Sys2Proof.Machine.execFerryCmdUndefined n s
  | .ferryPcWrite n which v => Sys2Proof.Machine.execFerryPcWrite n which v s
  | .flagSet hi v => Sys2Proof.Machine.execFlagSet hi v s
  | .flagClr hi v => Sys2Proof.Machine.execFlagClr hi v s
  | .sapFrame n bclk din => Sys2Proof.Machine.execSapFrame n bclk din s
  | .frameMissing n din => Sys2Proof.Machine.execFrameMissing n din s
  | .bclkLost g => Sys2Proof.Machine.execBclkLost g s
  | .bclkReturn g => Sys2Proof.Machine.execBclkReturn g s
  | .sapInputWriteAck id => Sys2Proof.Machine.execSapInputWriteAck id s
  | .sapOutputRead r => Sys2Proof.Machine.execSapOutputRead r s
  | .sapGrpCfgWrite g v => Sys2Proof.Machine.execSapGrpCfgWrite g v s
  | .sapCfgWrite n v => Sys2Proof.Machine.execSapCfgWrite n v s
  | .sapPortStart n => Sys2Proof.Machine.execSapPortStart n s
  | .sapGateWrite n v => Sys2Proof.Machine.execSapGateWrite n v s
  | .linkEnable n => Sys2Proof.Machine.execLinkEnable n s
  | .linkRetrain n => Sys2Proof.Machine.execLinkRetrain n s
  | .trainingEnd n far => Sys2Proof.Machine.execTrainingEnd n far s
  | .flitReceive n flit => Sys2Proof.Machine.execFlitReceive n flit s
  | .replayTimeout n => Sys2Proof.Machine.execReplayTimeout n s
  | .linkBudgetExpire n => Sys2Proof.Machine.execLinkBudgetExpire n s
  | .laneLockLoss n => Sys2Proof.Machine.execLaneLockLoss n s
  | .rd n ecc => Sys2Proof.Machine.execRd n ecc s
  | .wr n ecc => Sys2Proof.Machine.execWr n ecc s
  | .cpl n => Sys2Proof.Machine.execCpl n s
  | .wack n => Sys2Proof.Machine.execWack n s
  | .pwfn n => Sys2Proof.Machine.execPwfn n s
  | .transactionTimeout n tag => Sys2Proof.Machine.execTransactionTimeout n tag s
  | .wfqPop n => Sys2Proof.Machine.execWfqPop n s
  | .strTtoWrite n v => Sys2Proof.Machine.execStrTtoWrite n v s
  | .streamBlockSend r => Sys2Proof.Machine.execStreamBlockSend r s
  | .streamFlit n => Sys2Proof.Machine.execStreamFlit n s
  | .streamBlockDeadline pt => Sys2Proof.Machine.execStreamBlockDeadline pt s
  | .hello n => Sys2Proof.Machine.execHello n s
  | .helloTimer => Sys2Proof.Machine.execHelloTimer s
  | .beacon n => Sys2Proof.Machine.execBeacon n s
  | .tempo n => Sys2Proof.Machine.execTempo n s
  | .delay n rtt turn => Sys2Proof.Machine.execDelay n rtt turn s
  | .delayTimer n => Sys2Proof.Machine.execDelayTimer n s
  | .memberLoss m => Sys2Proof.Machine.execMemberLoss m s
  | .commandFragment n => Sys2Proof.Machine.execCommandFragment n s
  | .responseFragment n => Sys2Proof.Machine.execResponseFragment n s
  | .pcieLinkUp gen width => Sys2Proof.Machine.execPcieLinkUp gen width s
  | .pcieMemoryRead bar off len eccs => Sys2Proof.Machine.execPcieMemoryRead bar off len eccs s
  | .pcieMemoryWrite bar off data be => Sys2Proof.Machine.execPcieMemoryWrite bar off data be s
  | .msixUnmask en mask => Sys2Proof.Machine.execMsixUnmask en mask s
  | .functionReset kind => Sys2Proof.Machine.execFunctionReset kind s
  | .mbInWrite k v => Sys2Proof.Machine.execMbInWrite k v s
  | .mbGo len => Sys2Proof.Machine.execMbGo len s
  | .mbAck v => Sys2Proof.Machine.execMbAck v s
  | .ethModeTimeout p => Sys2Proof.Machine.execEthModeTimeout p s
  | .ethLinkLoss p => Sys2Proof.Machine.execEthLinkLoss p s
  | .ethFrameReceive p bytes bad now => Sys2Proof.Machine.execEthFrameReceive p bytes bad now s
  | .ethFrameSend p gainA gainB now => Sys2Proof.Machine.execEthFrameSend p gainA gainB now s
  | .aafTalkerSend e => Sys2Proof.Machine.execAafTalkerSend e s
  | .crfTalkerSend e => Sys2Proof.Machine.execCrfTalkerSend e s
  | .listenerFill pt => Sys2Proof.Machine.execListenerFill pt s
  | .streamEntryCfgWrite talker e v => Sys2Proof.Machine.execStreamEntryCfgWrite talker e v s
  | .txhWrite p v => Sys2Proof.Machine.execTxhWrite p v s
  | .txfWrite p v => Sys2Proof.Machine.execTxfWrite p v s
  | .rxfRead p => Sys2Proof.Machine.execRxfRead p s
  | .ptpSet p v now => Sys2Proof.Machine.execPtpSet p v now s
  | .mr4Poll r0 r1 => Sys2Proof.Machine.execMr4Poll r0 r1 s
  | .ddrTracking ok => Sys2Proof.Machine.execDdrTracking ok s
  | .flashRenegotiate v => Sys2Proof.Machine.execFlashRenegotiate v s
  | .commandEnvelope => Sys2Proof.Machine.execCommandEnvelope s
  | .setModeAnchorReset ms => Sys2Proof.Machine.execSetModeAnchorReset ms s
  | .secCpGo v => Sys2Proof.Machine.execSecCpGo v s
  | .secCpAck v => Sys2Proof.Machine.execSecCpAck v s
  | .journalAppend ini v => Sys2Proof.Machine.execJournalAppend ini v s
  | .journalRead ini v => Sys2Proof.Machine.execJournalRead ini v s
  | .eviPinChange pin level dt => Sys2Proof.Machine.execEviPinChange pin level dt s
  | .eviChangeAccept pin dt => Sys2Proof.Machine.execEviChangeAccept pin dt s
  | .eviEntryPop g => Sys2Proof.Machine.execEviEntryPop g s
  | .eviFlush g v => Sys2Proof.Machine.execEviFlush g v s
  | .eviPinCfgWrite pin v => Sys2Proof.Machine.execEviPinCfgWrite pin v s
  | .qposWrite g k v => Sys2Proof.Machine.execQposWrite g k v s
  | .gpioSet k v => Sys2Proof.Machine.execGpioSet k v s
  | .gpioClr k v => Sys2Proof.Machine.execGpioClr k v s
  | .gpioTgl k v => Sys2Proof.Machine.execGpioTgl k v s
  | .gpioOutWrite k v => Sys2Proof.Machine.execGpioOutWrite k v s
  | .gpioInputEdge j level => Sys2Proof.Machine.execGpioInputEdge j level s
  | .pinSwitch j oe v => Sys2Proof.Machine.execPinSwitch j oe v s
  | .pinSwitchApply j => Sys2Proof.Machine.execPinSwitchApply j s
  | .opRequest c t => Sys2Proof.Machine.execOpRequest c t s
  | .cclkLower c => Sys2Proof.Machine.execCclkLower c s
  | .voutCommandAck => Sys2Proof.Machine.execVoutCommandAck s
  | .readVout mv => Sys2Proof.Machine.execReadVout mv s
  | .settleExpire => Sys2Proof.Machine.execSettleExpire s
  | .cclkRaise c => Sys2Proof.Machine.execCclkRaise c s
  | .pmbusTimeout => Sys2Proof.Machine.execPmbusTimeout s
  | .vrRetry => Sys2Proof.Machine.execVrRetry s
  | .pllUnlock p => Sys2Proof.Machine.execPllUnlock p s
  | .pllRelock p => Sys2Proof.Machine.execPllRelock p s
  | .modeRequest ini v => Sys2Proof.Machine.execModeRequest ini v s
  | .neapEntry => Sys2Proof.Machine.execNeapEntry s
  | .neapExit => Sys2Proof.Machine.execNeapExit s
  | .shoreEntry => Sys2Proof.Machine.execShoreEntry s
  | .shoreExit => Sys2Proof.Machine.execShoreExit s
  | .lowPowerEntry => Sys2Proof.Machine.execLowPowerEntry s
  | .wake cls id dt => Sys2Proof.Machine.execWake cls id dt s
  | .bivouacReturn => Sys2Proof.Machine.execBivouacReturn s
  | .lanternBoot straps => Sys2Proof.Machine.execLanternBoot straps s
  | .rtcCompareReached k dt => Sys2Proof.Machine.execRtcCompareReached k dt s
  | .wokeClear => Sys2Proof.Machine.execWokeClear s
  | .cpAddressMatch a => Sys2Proof.Machine.execCpAddressMatch a s
  | .cpWrite off data => Sys2Proof.Machine.execCpWrite off data s
  | .cpRead off n => Sys2Proof.Machine.execCpRead off n s
  | .extest bits => Sys2Proof.Machine.execExtest bits s
  | .samplePreload bits => Sys2Proof.Machine.execSamplePreload bits s
  | .idcode => Sys2Proof.Machine.execIdcode s
  | .clamp => Sys2Proof.Machine.execClamp s
  | .highz => Sys2Proof.Machine.execHighz s
  | .extestPulse bits => Sys2Proof.Machine.execExtestPulse bits s
  | .extestTrain bits => Sys2Proof.Machine.execExtestTrain bits s
  | .bypass code => Sys2Proof.Machine.execBypass code s
  | .dbgacc addr data op ecc => Sys2Proof.Machine.execDbgacc addr data op ecc s
  | .haltRequest => Sys2Proof.Machine.execHaltRequest s
  | .haltRelease => Sys2Proof.Machine.execHaltRelease s
  | .tempUpdate v => Sys2Proof.Machine.execTempUpdate v s
  | .coldReset => Sys2Proof.Machine.execColdReset s
  | .powerOnRelease straps => Sys2Proof.Machine.execPowerOnRelease straps s
  | .resetNLow => Sys2Proof.Machine.execResetNLow s
  | .warmReset => Sys2Proof.Machine.execWarmReset s
  | .resetNRise => Sys2Proof.Machine.execResetNRise s
  | .clusterReset ini c lost => Sys2Proof.Machine.execClusterReset ini c lost s
  | .clusterResetComplete c => Sys2Proof.Machine.execClusterResetComplete c s
  | .muteSet ini v => Sys2Proof.Machine.execMuteSet ini v s
  | .bootFromFlash env => Sys2Proof.Machine.execBootFromFlash env s
  | .registerWrite ini addr v => Sys2Proof.Machine.execRegisterWrite ini addr v s
  | .registerReadClear ini addr => Sys2Proof.Machine.execRegisterReadClear ini addr s
  | .strandSignalReturn n => Sys2Proof.Machine.execStrandSignalReturn n s
  | .flitSend n => Sys2Proof.Machine.execFlitSend n s
  | .ethLinkUp p => Sys2Proof.Machine.execEthLinkUp p s
  | .gptpMessageTimer p kind now => Sys2Proof.Machine.execGptpMessageTimer p kind now s
  | .vrReadbackTimeout => Sys2Proof.Machine.execVrReadbackTimeout s
  | .journalOperationComplete ok => Sys2Proof.Machine.execJournalOperationComplete ok s
  | .flashRenegotiationComplete modes sfdp => Sys2Proof.Machine.execFlashRenegotiationComplete modes sfdp s
  | .lowPowerEntryComplete => Sys2Proof.Machine.execLowPowerEntryComplete s
  | .suppliesValid => Sys2Proof.Machine.execSuppliesValid s
  | .perstNRelease => Sys2Proof.Machine.execPerstNRelease s

end Sys2Proof.Machine
end

