-- ==== Sys2Proof/Safety.lean ====
section
/-! DEFINITION. What holds of a state in which the block is as it should be: every sparse map of the state has its canonical form. -/

namespace Sys2Proof.Machine

/-- The memory has the canonical form: addresses strictly rising, no byte equal to what an unlisted address reads as. -/
def Memory.wf (m : SMap Byte) : Bool := smWf memDefault m

/-- The device registers have the canonical form. -/
def regsWf (m : SMap Word) : Bool := smWf regDefault m

/-- The boot flash has the canonical form. -/
def flashWf (m : SMap Byte) : Bool := smWf flashDefault m

/-- Memory, device registers and boot flash have their canonical form, so that equal contents are equal data. -/
def State.canonical (s : State) : Bool := Memory.wf s.mem && regsWf s.regs && flashWf s.flash

/-- Every other table of State has its canonical form too. -/
def State.tablesWf (s : State) : Bool :=
  smWf (fun _ => Cmp.init) s.cmps && smWf (fun _ => Src.init) s.srcs && smWf (fun _ => Thread.reset) s.threads &&
  smWf (fun _ => CoreSt.reset) s.cores && smWf (fun _ => Ferry.reset) s.ferry && smWf (fun _ => (none : Option Drive)) s.hold &&
  smWf (fun _ => Link.init) s.links && smWf (fun _ => SapPort.init) s.sap.ports && smWf (fun _ => PtRun.init) s.bw.pts &&
  smWf (fun _ => LcRun.init) s.bw.lcs

/-- A run is safe where every state of it is canonical. -/
def State.Safe (s : State) : Prop := s.canonical = true ∧ s.tablesWf = true

end Sys2Proof.Machine
end

