-- ==== Sys2Proof/WellFormed.lean ====
section
/-! DEFINITION. The commands that can be sent: what the types of the operands leave open is checked here, once. The model gives a
meaning to every term, well-formed or not. -/

namespace Sys2Proof

/-- The references of Table 02-3 that give updates, and their instances. -/
def RefUpdate.wf (u : RefUpdate) : Bool :=
  match u.src with
  | 1 => decide (u.sel.val < 4)
  | 2 => true
  | 3 => decide (u.sel.val < 2)
  | 4 => true
  | 5 => true
  | _ => false

/-- The sources that exist (R374, Tables 09-1 and 09-2). -/
def SrcRef.wf : SrcRef → Bool
  | .shared n => decide (32 ≤ n.val)
  | .priv _ _ i => decide (i.val ≤ 10) || (decide (16 ≤ i.val) && decide (i.val ≤ 23))

/-- The IDs of a wake class (R655, R657). -/
def wakeIdOk (cls id : Nat) : Bool :=
  match cls with
  | 1 => decide (32 ≤ id)
  | 2 => decide (id < 128)
  | 3 => true
  | 4 => decide (id < 2)
  | _ => false

/-- Is the command well-formed? -/
def Instr.wf : Instr → Bool
  | .sampleBoundary => true
  | .tideFrameBoundary => true
  | .referenceUpdate u => u.wf
  | .lockAchieved => true
  | .holdoverEntry _ => true
  | .referenceReturn => true
  | .fallbackSwitch => true
  | .sampleCountStep => true
  | .tideRateRestart => true
  | .compareMatch _ => true
  | .compareGpioOutput => true
  | .cmpTgtLowWrite _ _ => true
  | .cmpArm _ _ => true
  | .cmpModeOff _ v => decide (v.toNat % 4 = 0)
  | .snapshot => true
  | .tempoPush => true
  | .locatePush => true
  | .tempoQueueFlush => true
  | .tempoEntryApply => true
  | .tideRefWrite _ => true
  | .bundleIssue _ _ _ => true
  | .longOpRetire _ _ _ _ => true
  | .waittRelease _ _ _ => true
  | .interruptEntry _ _ _ => true
  | .farAccessResponse _ _ _ _ => true
  | .iCacheLineFill _ _ _ _ => true
  | .postedWriteAck _ _ _ _ => true
  | .storeBufferDrain _ _ _ => true
  | .icacheInvalidate _ => true
  | .dcacheInvalidate _ => true
  | .coreCounterClear _ => true
  | .ptimerExpire _ _ _ => true
  | .sourceLevelChange src => src.wf
  | .icClaim _ _ => true
  | .icDone _ id => decide (id.val < 416)
  | .holdoffEnd src => src.wf
  | .icDbell _ _ => true
  | .icPendSet _ k _ => decide (1 ≤ k.val)
  | .icPendClr _ k _ => decide (1 ≤ k.val)
  | .icMaskSet _ k _ => decide (1 ≤ k.val)
  | .icMaskClr _ k _ => decide (1 ≤ k.val)
  | .icSrcCfgWrite _ n _ => decide (32 ≤ n.val)
  | .watchdogFire _ _ => true
  | .commitDeadline _ => true
  | .commit _ => true
  | .localUeDetect _ _ _ _ => true
  | .parityDetect _ _ => true
  | .residueMismatch _ _ => true
  | .stateFault _ _ _ => true
  | .takeOverRelease _ => true
  | .replayRestart _ _ => true
  | .degradedExit => true
  | .logPop => true
  | .faultInjection _ _ => true
  | .injectedFaultRaise _ _ => true
  | .verify _ => true
  | .pitch _ => true
  | .fetch _ _ => true
  | .store _ _ => true
  | .arbCommit _ => true
  | .abandon _ => true
  | .qfaCmdUndefined _ _ => true
  | .checksComplete => true
  | .fetchComplete => true
  | .storeComplete => true
  | .pitchB0 => true
  | .applyEnd => true
  | .releasePoint _ => true
  | .stagedReadUe _ => true
  | .repitchStop => true
  | .repitchApplyEnd => true
  | .repitchStart => true
  | .fabricAccess _ _ => true
  | .eccWriteBack word => decide (word.word.toNat % 8 = 0)
  | .requestLift _ => true
  | .localStarvation _ _ => true
  | .scrubPassStart _ => true
  | .scrubWordRead _ word _ => decide (word.toNat % 8 = 0)
  | .scrubPassEnd _ => true
  | .bankWakeComplete _ _ => true
  | .bankIdlePowerDown _ => true
  | .memcUePop => true
  | .move _ => true
  | .movx _ => true
  | .ferryLoop _ => true
  | .endl _ => true
  | .waitTideCompare _ => true
  | .waitEventFifo _ => true
  | .waitFlag _ => true
  | .ferryWaitRelease _ => true
  | .signalInterrupt _ => true
  | .signalSetFlag _ => true
  | .signalClearFlag _ => true
  | .fence _ => true
  | .crcInit _ => true
  | .crcFold _ => true
  | .crcStore _ => true
  | .park _ => true
  | .parkWake _ => true
  | .jump _ => true
  | .endProg _ => true
  | .ferryNop _ => true
  | .ferryFetch _ _ => true
  | .ferryReadData _ _ => true
  | .ferryWriteAck _ _ => true
  | .start _ => true
  | .pause _ => true
  | .resume _ => true
  | .stop _ => true
  | .abort _ => true
  | .clear _ => true
  | .ferryCmdUndefined _ => true
  | .ferryPcWrite _ _ _ => true
  | .flagSet _ _ => true
  | .flagClr _ _ => true
  | .sapFrame _ _ din => decide (din.length ≤ 1025)
  | .frameMissing _ din => decide (din.length ≤ 1025)
  | .bclkLost _ => true
  | .bclkReturn _ => true
  | .sapInputWriteAck _ => true
  | .sapOutputRead _ => true
  | .sapGrpCfgWrite _ _ => true
  | .sapCfgWrite _ _ => true
  | .sapPortStart _ => true
  | .sapGateWrite _ _ => true
  | .linkEnable _ => true
  | .linkRetrain _ => true
  | .trainingEnd _ far => decide (far.feats.length = 4)
  | .flitReceive _ flit => decide (flit.bytes.length = 64)
  | .replayTimeout _ => true
  | .linkBudgetExpire _ => true
  | .laneLockLoss _ => true
  | .rd _ _ => true
  | .wr _ _ => true
  | .cpl _ => true
  | .wack _ => true
  | .pwfn _ => true
  | .transactionTimeout _ _ => true
  | .wfqPop _ => true
  | .strTtoWrite _ _ => true
  | .streamBlockSend _ => true
  | .streamFlit _ => true
  | .streamBlockDeadline _ => true
  | .hello _ => true
  | .helloTimer => true
  | .beacon _ => true
  | .tempo _ => true
  | .delay _ _ _ => true
  | .delayTimer _ => true
  | .memberLoss _ => true
  | .commandFragment _ => true
  | .responseFragment _ => true
  | .pcieLinkUp _ _ => true
  | .pcieMemoryRead _ _ len _ => decide (1 ≤ len) && decide (len ≤ 4096)
  | .pcieMemoryWrite _ _ data m => decide (1 ≤ data.length) && decide (data.length ≤ 512) && decide (m.be.length = data.length)
  | .msixUnmask _ _ => true
  | .functionReset _ => true
  | .mbInWrite _ _ => true
  | .mbGo _ => true
  | .mbAck _ => true
  | .ethModeTimeout _ => true
  | .ethLinkLoss _ => true
  | .ethFrameReceive _ bytes _ _ => decide (14 ≤ bytes.length) && decide (bytes.length ≤ 1518)
  | .ethFrameSend _ _ _ _ => true
  | .aafTalkerSend _ => true
  | .crfTalkerSend _ => true
  | .listenerFill _ => true
  | .streamEntryCfgWrite _ _ _ => true
  | .txhWrite _ _ => true
  | .txfWrite _ _ => true
  | .rxfRead _ => true
  | .ptpSet _ _ _ => true
  | .mr4Poll _ _ => true
  | .ddrTracking _ => true
  | .flashRenegotiate _ => true
  | .commandEnvelope => true
  | .setModeAnchorReset _ => true
  | .secCpGo _ => true
  | .secCpAck _ => true
  | .journalAppend _ _ => true
  | .journalRead _ _ => true
  | .eviPinChange _ _ _ => true
  | .eviChangeAccept _ _ => true
  | .eviEntryPop _ => true
  | .eviFlush _ _ => true
  | .eviPinCfgWrite _ _ => true
  | .qposWrite _ _ _ => true
  | .gpioSet _ _ => true
  | .gpioClr _ _ => true
  | .gpioTgl _ _ => true
  | .gpioOutWrite _ _ => true
  | .gpioInputEdge _ _ => true
  | .pinSwitch _ _ _ => true
  | .pinSwitchApply _ => true
  | .opRequest _ _ => true
  | .cclkLower _ => true
  | .voutCommandAck => true
  | .readVout _ => true
  | .settleExpire => true
  | .cclkRaise _ => true
  | .pmbusTimeout => true
  | .vrRetry => true
  | .pllUnlock _ => true
  | .pllRelock _ => true
  | .modeRequest _ _ => true
  | .neapEntry => true
  | .neapExit => true
  | .shoreEntry => true
  | .shoreExit => true
  | .lowPowerEntry => true
  | .wake cls id _ => wakeIdOk cls.val id.val
  | .bivouacReturn => true
  | .lanternBoot _ => true
  | .rtcCompareReached _ _ => true
  | .wokeClear => true
  | .cpAddressMatch _ => true
  | .cpWrite _ _ => true
  | .cpRead _ n => decide (1 ≤ n)
  | .extest _ => true
  | .samplePreload _ => true
  | .idcode => true
  | .clamp => true
  | .highz => true
  | .extestPulse _ => true
  | .extestTrain _ => true
  | .bypass _ => true
  | .dbgacc _ _ _ _ => true
  | .haltRequest => true
  | .haltRelease => true
  | .tempUpdate _ => true
  | .coldReset => true
  | .powerOnRelease _ => true
  | .resetNLow => true
  | .warmReset => true
  | .resetNRise => true
  | .clusterReset _ _ _ => true
  | .clusterResetComplete _ => true
  | .muteSet _ _ => true
  | .bootFromFlash _ => true
  | .registerWrite _ addr _ => decide (addr.toNat % 4 = 0)
  | .registerReadClear _ addr => decide (addr.toNat % 4 = 0)
  | .strandSignalReturn _ => true
  | .flitSend _ => true
  | .ethLinkUp _ => true
  | .gptpMessageTimer _ _ _ => true
  | .vrReadbackTimeout => true
  | .journalOperationComplete _ => true
  | .flashRenegotiationComplete _ _ => true
  | .lowPowerEntryComplete => true
  | .suppliesValid => true
  | .perstNRelease => true

end Sys2Proof
end

