-- ==== Sys2Proof/Certificates/Slice0/Obligations.lean ====
section
/-! DEFINITION. The statements for the provers. Each names the part of spec/ that it formalises; where it rests on a choice of the
model, its docstring names the log entry. -/

open Sys2Proof Sys2Proof.Machine

namespace Sys2Proof.Machine

/-- The memory address that an access reaches plainly. -/
def plainAddr : Target → Option Nat
  | .mem _ b => some b
  | _ => none

/-- The memory address that an access reaches, plainly or by an alias. -/
def heldAddr : Target → Option Nat
  | .mem _ b => some b
  | .mirror _ _ b => some b
  | _ => none

/-- The memory address that an access reaches by an alias, and whether that is the bit-set alias. -/
def aliasAddr : Target → Option (Bool × Nat)
  | .mirror x _ b => some (x, b)
  | _ => none

/-- The machine as thread t of slot k comes to issue: the CCLK have passed, and what is due by then has retired and is seen. -/
def State.atIssue (k : Fin 144) (t : Fin 4) (i : IssueInfo) (s : State) : State :=
  let s1 := advance k i.dt s
  (s1.count k (aCoreSbFull k) i.sb (s1.core k).clk).settled k t (s1.core k).clk

/-- The operations and length of the bundle that heads the thread's fetch queue. -/
def State.bundleAt (k : Fin 144) (t : Fin 4) (i : IssueInfo) (s : State) : Option (List RawOp × Nat) :=
  let s1 := s.atIssue k t i
  match s1.headAt k (s1.thread k t) (s1.core k).clk with
  | .ok raw len => some (raw, len)
  | _ => none

/-- Does the bundle at the head of the thread's queue issue (R216 to R219): no exception, wait or interlock holds it, and it is the thread's
turn; outside every shadow, loop and discard of shadow-stack entries? -/
def State.issues (k : Fin 144) (t : Fin 4) (i : IssueInfo) (s : State) : Bool :=
  let s1 := s.atIssue k t i
  let clk := (s1.core k).clk
  let th := s1.thread k t
  s.threadRuns k t && (th.imprecDue clk).isNone && th.drop.isEmpty && decide (i.par = .none) &&
  th.delay.isNone && th.shadow.isNone && (List.range 3).all (fun n => decide (th.lpCount n = 0)) && s1.withLead k t &&
  (match s1.busySlots k t clk with
   | some busy => (match s1.look k t busy clk i with | .go _ _ _ => s1.turn k t busy clk | _ => false)
   | none => false)

/-- The machine as the core samples a request for thread t of slot k: dt CCLK have passed and long operations have retired, up to a division by
zero that is due. -/
def State.sampled (k : Fin 144) (t : Fin 4) (dt : Nat) (s : State) : State :=
  (advance k dt s).onThread k t (fun th => retireDue (th.stopAt ((advance k dt s).core k).clk) th)

/-- The machine with the target set of an entry written and the thread stopped for it; its next bundle is pc. -/
def State.entering (k : Fin 144) (t : Fin 4) (c : Cause) (land : Bool) (level : Nat) (pc : Word) (tgt : Option Word) (s : State) : State :=
  (freeLb k t s).setThread k t
    (quiesce (saveSet (setIdx land level) c pc tgt (s.holdsLb k t) (s.thread k t).long (settleAll (s.thread k t))))

/-- The handler that an entry of vector vec finds, where there is no entry fault; `ecc` is what the read of the vector entry meets. -/
def State.handler? (k : Fin 144) (t : Fin 4) (land : Bool) (level vec : Nat) (ecc : EccHit) (s : State) : Option Word :=
  (s.handler k (((s.thread k t).setCreg 0x80 (cstatOf land level false)).setCreg 0x81 (BitVec.ofNat 32 (level + 4 * b2n land)))
    land level vec ecc).getLeft?

/-- Is the error one that cannot be corrected? -/
def ueHit : EccHit → Bool
  | .ue _ => true
  | _ => false

/-- Does a request's next beat come about: FCLK runs (R634), it waits behind no older one (R312), its memory is awake (R328), and its bank, where it has one,
grants it (R299, R307)? -/
def State.grants (s : State) (id : Nat) (g : GrantInfo) : Bool :=
  match s.req? id with
  | none => false
  | some q =>
    s.fclkRuns && (decide (q.st = .waiting) || decide (q.st = .lifted)) && !s.olderOpen q && !asleep q s &&
    (match s.arbAt q.beatAddr with
     | none => true
     | some b => decide (((s.arrive b g.late).choice b g.quota).map (fun x => x.id) = some id))

/-- Does the fabric's clock run, and does nothing wait in it: no request, no corrected word, no served request of another member, no host request, no
transfer of a port? -/
def State.fabricIdle (s : State) : Bool :=
  s.fclkRuns && s.memc.reqs.isEmpty && s.memc.wb.isEmpty && s.pcie.ops.isEmpty && s.sap.puts.isEmpty && s.sap.gets.isEmpty &&
  (List.range 8).all (fun n => (s.link n).serving.isEmpty)

/-- Does neither the boot ROM nor a command wait for the loader? -/
def State.loaderFree (s : State) : Bool := s.qfa.res.isNone && !s.boot.auto && s.sec.cur.isNone

/-- Is the operation one that only computes register results? -/
def TOp.plain : TOp → Bool
  | .load _ _ _ _ => false
  | .store _ _ _ _ => false
  | .branch _ _ _ => false
  | .loopR _ _ _ => false
  | .loopI _ _ _ => false
  | .loopOff _ => false
  | .long _ _ _ _ => false
  | .movc _ _ _ => false
  | .waitt _ => false
  | .syncw _ => false
  | .lbar => false
  | .gate _ => false
  | .rfe => false
  | .setmode _ => false
  | .trap _ => false
  | _ => true

end Sys2Proof.Machine

/-- A step takes the command at the front of the queue and runs it with the queue's rest; with nothing waiting one TKCLK cycle passes (log entry 1) (opcode_table.json (the commands that the block takes)). Where these bear on it, it rests on the model's choices of log entries 1, 8. -/
def Obligations.StepRunsTheFront : Prop :=
  (∀ (s : State) (c : Instr), step { s with pending := c :: s.pending } = exec c s) ∧
  (∀ (s : State), s.pending = [] → step s = .next (tkEdge s) ∧ (tkEdge s).pending = [])

/-- Every command of the table, on every state, has a next state and leaves the commands that wait as they are (opcode_table.json (the commands that the block takes); 00_scope.md, Scope; 01_architecture.md, Architecture). Where these bear on it, it rests on the model's choices of log entry 12. -/
def Obligations.EveryCommandCompletesAndLeavesTheQueue : Prop :=
  ∀ (s : State) (c : Instr), ∃ t, exec c s = .next t ∧ t.pending = s.pending

/-- Every step keeps memory, registers and flash in the canonical form in which equal contents are equal data (07_memory.md, Memory system; 20_register_index.md, R712 and R713; 15_commands_journal.md, Table 15-6). Where these bear on it, it rests on the model's choices of log entry 2. -/
def Obligations.EveryStepKeepsTheCanonicalForm : Prop :=
  ∀ (s t : State), s.canonical = true → step s = .next t → t.canonical = true

/-- The state after reset has the canonical form, lists no memory and no register, waits for no command, and every table of it is canonical (20_register_index.md, R712 and R713; 18_reset_boot.md, R669 to R674). Where these bear on it, it rests on the model's choices of log entries 2, 3, 4, 17. -/
def Obligations.ResetIsCanonical : Prop :=
  State.reset.canonical = true ∧ State.reset.tablesWf = true ∧ State.reset.mem = [] ∧ State.reset.pending = [] ∧
    ∀ a, State.reset.reg a = regDefault a

/-- A sample boundary, a tide frame boundary and the first sample at a new rate move the Tide's counters as R40, R41, R44 and R87 give (02_tide.md, Position (R40, R41); 02_tide.md, Rates and frames (R44); 02_tide.md, Losing and regaining the reference (R55); 02_tide.md, Reset and PITCH (R87); 02_tide.md, Table 02-7). Where these bear on it, it rests on the model's choices of log entries 13, 24, 41, 43. -/
def Obligations.TidePositionRows : Prop :=
  (∀ s : State, s.counting = true → s.sap.noClk = [] →
    ∃ t, exec .sampleBoundary s = .next t ∧ t.tide.phase = 0 ∧ t.tide.count = s.tide.count + 1 ∧
      t.tide.beat = s.tide.beat + s.tide.tempo.zeroExtend 96 ∧ t.tide.framePos = s.tide.framePos + 1 ∧ t.tide.goal = s.tide.goal ∧
      t.reg aTideFerr = BitVec.ofInt 32 ((s.reg aTideFerr).toInt +
        max (-((10000000 / rateHz s.rate : Nat) : Int)) (min ((10000000 / rateHz s.rate : Nat) : Int) (s.tide.goal.toInt - (s.reg aTideFerr).toInt)))) ∧
  (∀ s : State, s.counting = true → s.tide.nNow ≤ s.tide.framePos → s.tide.phase = 0 →
    ∃ t, exec .tideFrameBoundary s = .next t ∧ t.tide.frame = s.tide.frame + 1 ∧ t.tide.frameStart = s.tide.count ∧
      t.tide.framePos = 0 ∧ bit (t.reg aTideStat) 15 = true) ∧
  (∀ s : State, s.tide.stopped = true →
    ∃ t, exec .tideRateRestart s = .next t ∧ t.tide.stopped = false ∧ t.tide.count = 0 ∧ t.tide.phase = 0 ∧ t.tide.frame = 0 ∧
      t.tide.frameStart = 0 ∧ t.tide.framePos = 0 ∧ t.tide.nNow = fld (s.reg aTideCfg) 8 6 ∧ t.tide.beat = s.tide.beat ∧
      t.tide.lock = (if fld (s.reg aTideRef) 0 4 = 0 then .free else .acquire))

/-- The lock rows move the Tide between FREE, ACQUIRE, LOCKED and HOLDOVER as Table 02-4 gives and set lock_chg and ref_lost (02_tide.md, References and lock (Table 02-4, R50, R51, R52); 02_tide.md, Losing and regaining the reference (R56, R61); 02_tide.md, References and lock (R47)). Where these bear on it, it rests on the model's choices of log entries 14, 25, 26. -/
def Obligations.TideLockRows : Prop :=
  (∀ (s : State) (u : RefUpdate), s.refSrc = u.src → (u.src = 5 ∨ s.refSel = u.sel.val) → u.src ≠ 0 → (u.src = 3 ∨ u.src = 4 ∨ u.src = 5 → (s.refError u).isSome = true) →
    ∃ t, exec (.referenceUpdate u) s = .next t ∧ t.reg aTidePerr = (s.absUpdate u).perr ∧
      (u.src = 1 ∨ u.src = 2 → (s.absUpdate u).perr = BitVec.ofInt 32 (wrapPhase u.perr.toInt (s.refPeriod u.src))) ∧
      (∀ e ∈ s.refError u, (s.absUpdate u).perr = BitVec.ofInt 32 (max (-2147483648) (min 2147483647
        (e * 1000000000000 / ((rateHz s.rate : Int) * 2 ^ 32))))) ∧
      (u.src = 3 → s.refError u = (s.ethPort u.sel.val).ptp.ref) ∧ (u.src = 5 → s.refError u = s.camp.pos ∧ t.camp.pos = none) ∧
      (∀ x ∈ s.eth.crf.head?, u.src = 4 → x.1 = u.sel → s.refError u = some (u.err.toInt * 2 ^ 32 + x.2) ∧ t.eth.crf = s.eth.crf.tail) ∧ t.tide.lock = s.tide.lock ∧
      (u.family = true → wordAbs u.refOfs ≤ 1000000 → s.tide.lock = .acquire ∨ s.tide.lock = .locked →
        t.tide.goal = BitVec.ofInt 32 (u.refOfs.toInt + max (-100000) (min 100000 (u.offs.toInt - u.refOfs.toInt)))) ∧
      (s.tide.lock = .free ∨ (s.tide.lock = .acquire ∧ (u.family = false ∨ 1000000 < wordAbs u.refOfs)) → t.tide.goal = 0) ∧
      (s.tide.lock = .holdover → t.tide.goal = s.tide.goal) ∧ t.reg aTideFerr = s.reg aTideFerr ∧
      (u.family = false ∨ 1000000 < wordAbs u.refOfs →
        bit (t.reg aTideStat) 11 = true ∧ (s.tide.lock = .acquire → t.tide.inLimits = 0)) ∧
      (u.family = true → wordAbs u.refOfs ≤ 1000000 → s.tide.lock = .acquire →
        t.tide.inLimits = if wordAbs (s.absUpdate u).perr ≤ 50000 ∧ wordAbs u.ferr ≤ 1000 then s.tide.inLimits + 1 else 0) ∧
      (s.tide.lock = .holdover → t.tide.returns = if u.gap then 1 else s.tide.returns + 1)) ∧
  (∀ s : State, s.tide.lock = .acquire → max 1 (fld (s.reg aTideHold) 16 8) ≤ s.tide.inLimits →
    ∃ t, exec .lockAchieved s = .next t ∧ t.tide.lock = .locked ∧ bit (t.reg aTideStat) 8 = true) ∧
  (∀ (s : State) (missed4 : Bool), s.tide.lock = .locked → missed4 = true ∨ s.tide.farOff = true →
    ∃ t, exec (.holdoverEntry missed4) s = .next t ∧ t.tide.lock = .holdover ∧ t.tide.goal = s.heldOffset ∧ bit (t.reg aTideStat) 8 = true ∧
      bit (t.reg aTideStat) 9 = true) ∧
  (∀ s : State, s.tide.lock = .holdover → 8 ≤ s.tide.returns →
    ∃ t, exec .referenceReturn s = .next t ∧ t.tide.lock = .acquire ∧ bit (t.reg aTideStat) 8 = true) ∧
  (∀ s : State, s.tide.lock = .holdover → fld (s.reg aTideHold) 0 16 ≠ 0 →
    ∃ t, exec .fallbackSwitch s = .next t ∧ t.tide.lock = .acquire ∧ bit (t.reg aTideStat) 8 = true ∧ bit (t.reg aTideStat) 14 = true ∧
      t.refSrc = fld (s.reg aTideRef) 16 4 ∧ t.refSel = fld (s.reg aTideRef) 20 6) ∧
  (∀ (s : State) (v : Word), ∃ t, exec (.tideRefWrite v) s = .next t ∧ t.reg aTideRef = v &&& 0x03FF1FFF ∧
      t.tide.lock = (if fld v 0 4 = 0 then .free else .acquire) ∧ t.tide.fallback = false ∧
      (t.tide.lock ≠ s.tide.lock → bit (t.reg aTideStat) 8 = true))

/-- Staging, arming, switching off and firing a tide compare, and the pin change of a GPIO action (02_tide.md, Tide compares (R64 to R67, R75); 02_tide.md, TIDE registers (R89)). Where these bear on it, it rests on the model's choices of log entries 27, 40, 46, 67. -/
def Obligations.TideCompareRows : Prop :=
  (∀ (s : State) (n : Fin 256) (v : Word), ∃ t, exec (.cmpTgtLowWrite n v) s = .next t ∧ t.cmp n = { s.cmp n with staged := v }) ∧
  (∀ (s : State) (n : Fin 256) (v : Word), ∃ t, exec (.cmpArm n v) s = .next t ∧ (t.cmp n).target = v ++ (s.cmp n).staged ∧
      (t.cmp n).armed = true ∧ (t.cmp n).fired = false ∧ (t.cmp n).cnt = 0) ∧
  (∀ (s : State) (n : Fin 256) (v : Word), ∃ t, exec (.cmpModeOff n v) s = .next t ∧ (t.cmp n).armed = false ∧ t.cmpMode n = 0) ∧
  (∀ (s : State) (n : Fin 256), n.val < 224 → s.counting = true → s.cmpMatches n = true →
    ∃ t, exec (.compareMatch n) s = .next t ∧ bit (t.reg (aTideCmpPend (n / 32))) (n % 32) = true ∧
      (t.cmp n).cnt = (s.cmp n).cnt + 1 ∧
      (s.cmpMode n ≠ 2 ∨ s.reg (aTideCmpPer n) = 0 → (t.cmp n).armed = false ∧ (t.cmp n).fired = true) ∧
      (s.cmpMode n = 2 → s.reg (aTideCmpPer n) ≠ 0 → (t.cmp n).armed = true ∧
        (t.cmp n).target = (s.cmp n).target + BitVec.ofNat 64 (((s.cmpPos n - (s.cmp n).target.toNat) / (s.reg (aTideCmpPer n)).toNat + 1) *
          (s.reg (aTideCmpPer n)).toNat))) ∧
  (∀ (s : State) (gp : GpioPend) (gop : Nat) (gj : Fin 72), s.tide.gpioPend = [gp] → gp.pin = gj.val → gp.op = gop → fld (s.reg (aPinSel gj)) 0 3 = 0 →
      s.gpBit aGpioOe gj = true → gop < 3 →
    ∃ t, exec .compareGpioOutput s = .next t ∧ t.tide.gpioPend = [] ∧
      t.gpBit aGpioOut gj = (if gop = 0 then true else if gop = 1 then false else !s.gpBit aGpioOut gj))

/-- Pushing, flushing and applying tempo entries, and a step of the sample count (02_tide.md, Tempo and beat position (R77, R78); 02_tide.md, Losing and regaining the reference (R58, R60); 13_strand_camps.md, R545). Where these bear on it, it rests on the model's choices of log entries 44, 45. -/
def Obligations.TempoRows : Prop :=
  (∀ s : State, s.tide.queue.length < 8 → s.refSrc ≠ 5 →
    (∃ t, exec .tempoPush s = .next t ∧ t.tide.queue = s.tide.queue ++ [s.stagedEntry false]) ∧
    (∃ t, exec .locatePush s = .next t ∧ t.tide.queue = s.tide.queue ++ [s.stagedEntry true])) ∧
  (∀ s : State, ∃ t, exec .tempoQueueFlush s = .next t ∧ t.tide.queue = []) ∧
  (∀ (s : State) (e : TempoEntry) (es : List TempoEntry), s.tide.queue = e :: es → s.counting = true → s.tide.phase = 0 →
      e.at_.toNat ≤ s.tide.count.toNat % 2 ^ 48 → e.locate = false →
    ∃ t, exec .tempoEntryApply s = .next t ∧ t.tide.queue = es ∧ t.tide.tempo = e.value.truncate 48 ∧ t.tide.beat = s.tide.beat ∧
      (e.at_.toNat < s.tide.count.toNat % 2 ^ 48 → bit (t.reg aTideStat) 12 = true)) ∧
  (∀ (s : State) (e : TempoEntry) (es : List TempoEntry), s.tide.queue = e :: es → s.counting = true → s.tide.phase = 0 →
      e.at_.toNat ≤ s.tide.count.toNat % 2 ^ 48 → e.locate = true → (∀ n, (s.cmp n).armed = false) →
    ∃ t, exec .tempoEntryApply s = .next t ∧ t.tide.queue = es ∧ t.tide.tempo = s.tide.tempo ∧
      t.tide.beat = e.value.zeroExtend 96 <<< 32 ∧
      (e.at_.toNat < s.tide.count.toNat % 2 ^ 48 → bit (t.reg aTideStat) 12 = true)) ∧
  (∀ (s : State) (k : BitVec 64), s.tide.step = some k → s.counting = true → s.atFrameBoundary = true →
      k.toInt ≤ 0 ∨ (∀ n, (s.cmp n).armed = false) →
    ∃ t, exec .sampleCountStep s = .next t ∧ t.tide.count = s.tide.count + k ∧ t.tide.frameStart = s.tide.count + k ∧
      t.tide.step = none ∧ t.tide.frame = s.tide.frame ∧ t.tide.framePos = s.tide.framePos ∧ t.tide.phase = s.tide.phase ∧
      t.reg aTideStepAmt = k.truncate 32 ∧ bit (t.reg aTideStat) 10 = true ∧
      (s.tide.queue = [] → t.tide.beat = s.tide.beat + BitVec.ofInt 96 (k.toInt * (s.tide.tempo.toNat : Int))))

/-- SNAPSHOT captures the sample count, the phase, the beat position and TIDE_FRAME, whatever was captured before (R83). -/
def Obligations.SnapshotCapturesOneEdge : Prop :=
  ∀ s : State, ∃ t, exec .snapshot s = .next t ∧
    t.reg aTideSnapCntHi ++ t.reg aTideSnapCntLo = s.tide.count ∧ t.reg aTideSnapPhase = s.tide.phase ∧
    t.reg aTideSnapBeatHi ++ t.reg aTideSnapBeatLo = s.tide.beat16 ∧ t.reg aTideSnapFrame = s.tide.frame ∧
    { t with regs := s.regs } = s ∧
    ∀ a, a ∉ [aTideSnapCntLo, aTideSnapCntHi, aTideSnapPhase, aTideSnapBeatLo, aTideSnapBeatHi, aTideSnapFrame] → t.reg a = s.reg a

/-- A push of either kind to a full tempo queue changes nothing but TIDE_STAT.tempo_ovf, which it sets (R79). -/
def Obligations.FullTempoQueueIgnoresPushes : Prop :=
  ∀ (s : State) (c : Instr), s.tide.queue.length = 8 → c ∈ [.tempoPush, .locatePush] →
    exec c s = .next (s.orReg aTideStat 0x2000) ∧ bit ((s.orReg aTideStat 0x2000).reg aTideStat) 13 = true

/-- After COLD reset the Tide runs FREE at 48 kHz with N = 8, every count is 0 and every compare is off (R85). -/
def Obligations.TideAfterColdReset : Prop :=
  State.reset.counting = true ∧ State.reset.tide.lock = .free ∧ rateHz State.reset.rate = 48000 ∧ State.reset.tide.nNow = 8 ∧
  fld (State.reset.reg aTideCfg) 8 6 = 8 ∧ State.reset.tide.count = 0 ∧ State.reset.tide.phase = 0 ∧ State.reset.tide.beat = 0 ∧
  State.reset.tide.frame = 0 ∧ State.reset.tide.tempo = 0 ∧
  ∀ n : Fin 256, State.reset.cmpMode n = 0 ∧ (State.reset.cmp n).armed = false ∧ (State.reset.cmp n).fired = false

/-- The Tide's lock, arm, snapshot and flush rows change the Tide, its compares and its own registers, and nothing else (02_tide.md, The Tide timebase and scheduling against time; opcode_table.json rows REFERENCE_UPDATE to TIDE_REF_WRITE). -/
def Obligations.TideRowsLeaveTheRest : Prop :=
  ∀ (s t : State) (c : Instr) (u : RefUpdate) (b : Bool) (n : Fin 256) (v : Word),
    c ∈ [.referenceUpdate u, .lockAchieved, .holdoverEntry b, .referenceReturn, .fallbackSwitch, .tideRateRestart, .cmpTgtLowWrite n v,
      .cmpArm n v, .cmpModeOff n v, .snapshot, .tempoQueueFlush, .tideRefWrite v] → exec c s = .next t →
    t = { s with tide := t.tide, cmps := t.cmps, regs := t.regs } ∧ (∀ a, t.byte a = s.byte a) ∧
    (∀ a, a < 0x40010000 ∨ 0x40020000 ≤ a → t.reg a = s.reg a) ∧ (∀ m, m ≠ n.val → t.cmp m = s.cmp m)

/-- A bundle of register operations issues: all operations read the registers as they stand, and each result is in flight with its latency (05_core_pipeline.md, R191 and R194; 03_tuitin_model.md, R104; 05_core_pipeline.md, R216; 05_core_pipeline.md, Table 05-12). Where these bear on it, it rests on the model's choices of log entries 13, 36, 53. -/
def Obligations.BundlesReadBeforeTheyWrite : Prop :=
  ∀ (s : State) (k : Fin 144) (t : Fin 4) (i : IssueInfo), ∀ b ∈ s.bundleAt k t i, s.issues k t i = true →
    branchIn ((s.atIssue k t i).isT2 k) b.1 = none →
    (liveOps ((s.atIssue k t i).isT2 k) ((s.atIssue k t i).thread k t) b.1).all (fun e => e.2.2.plain) = true →
    bit (((s.atIssue k t i).thread k t).creg 0x11) 17 = false →
    ∃ u, exec (.bundleIssue k t i) s = .next u ∧
      (u.thread k t).pend = ((liveOps ((s.atIssue k t i).isT2 k) ((s.atIssue k t i).thread k t) b.1).foldl
        (fun th e => th.pushAll ((s.atIssue k t i).core k).clk
          (regOp ((s.atIssue k t i).isT2 k) ((s.atIssue k t i).thread k t) e.2.2).1) ((s.atIssue k t i).thread k t)).pend ∧
      (u.thread k t).d = ((s.atIssue k t i).thread k t).d ∧ (u.thread k t).a = ((s.atIssue k t i).thread k t).a ∧
      (u.thread k t).m = ((s.atIssue k t i).thread k t).m ∧ (u.thread k t).mp = ((s.atIssue k t i).thread k t).mp ∧
      (u.thread k t).f = ((s.atIssue k t i).thread k t).f ∧ (u.thread k t).ss = ((s.atIssue k t i).thread k t).ss ∧
      (u.thread k t).pc = ((s.atIssue k t i).thread k t).pc + BitVec.ofNat 32 b.2 ∧
      (u.thread k t).lastIss = ((s.atIssue k t i).core k).clk ∧
      u.reg (aCoreIssue k) = ((s.atIssue k t i).count k (aCoreIssue k) 1 ((s.atIssue k t i).core k).clk).reg (aCoreIssue k) ∧ u.mem = s.mem

/-- A bundle of one operation that is not plain arithmetic: load, store, branch, loop, long operation, control register, wait and mode operations (03_tuitin_model.md, R97; 03_tuitin_model.md, R122 and R123; 04_tuitin_operations.md, R165; 04_tuitin_operations.md, R172 to R178; 04_tuitin_operations.md, R182 to R188; 06_exceptions_worlds.md, R249; 06_exceptions_worlds.md, R271 to R276). Where these bear on it, it rests on the model's choices of log entries 6, 13, 29, 35, 37, 62. -/
def Obligations.SingleOperationsTakeEffect : Prop :=
  ∀ (s : State) (k : Fin 144) (t : Fin 4) (i : IssueInfo), ∀ b ∈ s.bundleAt k t i, s.issues k t i = true → b.1.length = 1 →
    ∀ e ∈ (liveOps ((s.atIssue k t i).isT2 k) ((s.atIssue k t i).thread k t) b.1).head?,
    match e.2.2 with
    | .load kind d a m => i.ue = [] → ((s.atIssue k t i).thread k t).sbuf = [] →
        ∀ pa ∈ ((s.atIssue k t i).accessOf k ((s.atIssue k t i).thread k t) false kind.size a m).getLeft?,
        ∀ r ∈ (regionOf pa), r.slot? = some k.val → pa < 2 ^ 38 → pa + kind.size ≤ localBase k + 0x40000 →
        ∃ u, exec (.bundleIssue k t i) s = .next u ∧ u.mem = s.mem ∧
          (u.thread k t).pc = ((s.atIssue k t i).thread k t).pc + BitVec.ofNat 32 b.2 ∧
          (loadWrites kind d ((s.atIssue k t i).bytes pa kind.size)).all (fun w =>
            (u.thread k t).pend.any (fun p => decide (p.w = w) && decide (p.due = ((s.atIssue k t i).core k).clk + 3 + kind.extra))) = true
    | .store kind d a m => i.ue = [] → (s.atIssue k t i).isT2 k = false →
        ∀ pa ∈ ((s.atIssue k t i).accessOf k ((s.atIssue k t i).thread k t) true kind.size a m).getLeft?,
        ∀ r ∈ (regionOf pa), r.slot? = some k.val → pa < 2 ^ 38 → pa + kind.size ≤ localBase k + 0x40000 →
        ∃ u, exec (.bundleIssue k t i) s = .next u ∧
          (u.thread k t).pc = ((s.atIssue k t i).thread k t).pc + BitVec.ofNat 32 b.2 ∧
          ∀ x, u.byte x = if pa ≤ x ∧ x < pa + (storeBytes ((s.atIssue k t i).thread k t) kind d).1.length
            then (storeBytes ((s.atIssue k t i).thread k t) kind d).1.getD (x - pa) 0 else s.byte x
    | .branch tg false false => tg ≠ .link →
        ∃ u, exec (.bundleIssue k t i) s = .next u ∧
          (u.thread k t).pc = branchTarget ((s.atIssue k t i).thread k t) ((s.atIssue k t i).thread k t).pc tg ∧
          (u.thread k t).d = ((s.atIssue k t i).thread k t).d ∧ u.mem = s.mem
    | .branch tg false true => tg ≠ .link →
        ∃ u, exec (.bundleIssue k t i) s = .next u ∧
          (u.thread k t).pc = ((s.atIssue k t i).thread k t).pc + BitVec.ofNat 32 b.2 ∧
          (u.thread k t).tgt = some (branchTarget ((s.atIssue k t i).thread k t) ((s.atIssue k t i).thread k t).pc tg)
    | .branch tg true false => ((s.atIssue k t i).thread k t).ss.length < 64 → (s.atIssue k t i).isT2 k = false →
        ∃ u, exec (.bundleIssue k t i) s = .next u ∧
          (u.thread k t).pc = branchTarget ((s.atIssue k t i).thread k t) ((s.atIssue k t i).thread k t).pc tg ∧
          (u.thread k t).ss = (((s.atIssue k t i).thread k t).pc + BitVec.ofNat 32 b.2) :: ((s.atIssue k t i).thread k t).ss
    | .loopI lvl n off => lvl < 3 → 0 < n → n < 2 ^ 32 →
        ((s.atIssue k t i).thread k t).pc + BitVec.ofNat 32 b.2 + BitVec.ofNat 32 (2 * off) ≠ ((s.atIssue k t i).thread k t).pc →
        ∃ u, exec (.bundleIssue k t i) s = .next u ∧
          (u.thread k t).pc = ((s.atIssue k t i).thread k t).pc + BitVec.ofNat 32 b.2 ∧
          (u.thread k t).creg (0x48 + 3 * lvl) = ((s.atIssue k t i).thread k t).pc + BitVec.ofNat 32 b.2 ∧
          (u.thread k t).creg (0x49 + 3 * lvl) = ((s.atIssue k t i).thread k t).pc + BitVec.ofNat 32 b.2 + BitVec.ofNat 32 (2 * off) ∧
          (u.thread k t).creg (0x4A + 3 * lvl) = BitVec.ofNat 32 n
    | .long fn d a c =>
        ∃ u, exec (.bundleIssue k t i) s = .next u ∧
          (u.thread k t).pc = ((s.atIssue k t i).thread k t).pc + BitVec.ofNat 32 b.2 ∧
          (u.thread k t).d = ((s.atIssue k t i).thread k t).d ∧
          (u.thread k t).long = ((s.atIssue k t i).thread k t).long ++ [longOf ((s.atIssue k t i).thread k t) e.2.1.word fn d a c
            ((s.atIssue k t i).core k).clk ((s.atIssue k t i).thread k t).pc]
    | .movc fn n r =>
        ∃ u, exec (.bundleIssue k t i) s = .next u ∧
          (fn = 0 → (u.thread k t).pend.any (fun p => decide (p.due = ((s.atIssue k t i).core k).clk + 1) &&
            decide (p.w = .d r (movcRead (s.atIssue k t i) k t ((s.atIssue k t i).thread k t) n))) = true) ∧
          (fn ≠ 0 → n ∈ [0x10, 0x18, 0x19, 0x1A, 0x1B, 0x1C] → (u.thread k t).creg n =
            (((s.atIssue k t i).thread k t).creg n &&& ~~~(movcMask ((s.atIssue k t i).isT2 k) n)) |||
            (movcVal fn (((s.atIssue k t i).thread k t).creg n) (((s.atIssue k t i).thread k t).dr r) &&&
              movcMask ((s.atIssue k t i).isT2 k) n))
    | .waitt _ =>
        ∃ u, exec (.bundleIssue k t i) s = .next u ∧ (u.thread k t).wait = .none ∧
          (u.thread k t).pc = ((s.atIssue k t i).thread k t).pc + BitVec.ofNat 32 b.2
    | .syncw f =>
        ∃ u, exec (.bundleIssue k t i) s = .next u ∧ (u.thread k t).pwf = false ∧
          (u.thread k t).pc = ((s.atIssue k t i).thread k t).pc + BitVec.ofNat 32 b.2 ∧
          (u.thread k t).pend.any (fun p => decide (p.due = ((s.atIssue k t i).core k).clk + 1) &&
            decide (p.w = .f f (!((s.atIssue k t i).thread k t).pwf))) = true
    | .lbar =>
        ∃ u, exec (.bundleIssue k t i) s = .next u ∧ (u.thread k t).pc = ((s.atIssue k t i).thread k t).pc + BitVec.ofNat 32 b.2 ∧
          (u.thread k t).ctl = ((s.atIssue k t i).thread k t).ctl
    | .gate n =>
        ∃ u, exec (.bundleIssue k t i) s = .next u ∧ (u.thread k t).pc = ((s.atIssue k t i).thread k t).pc + BitVec.ofNat 32 b.2 ∧
          (u.thread k t).shadow = some { cstat := 5, gate := some n, last := false } ∧
          (u.thread k t).cst = ((s.atIssue k t i).thread k t).cst
    | .setmode r =>
        ∃ u, exec (.bundleIssue k t i) s = .next u ∧ (u.thread k t).pc = ((s.atIssue k t i).thread k t).pc + BitVec.ofNat 32 b.2 ∧
          (u.thread k t).shadow = some { cstat := ((s.atIssue k t i).thread k t).dr r, gate := none, last := false } ∧
          (u.thread k t).cst = ((s.atIssue k t i).thread k t).cst ∧
          bit ((u.thread k t).creg 0x80) 3 = bit (((s.atIssue k t i).thread k t).dr r) 3
    | .rfe =>
        ∃ u, exec (.bundleIssue k t i) s = .next u ∧
          (u.thread k t).pc = ((s.atIssue k t i).thread k t).sv (setIdx ((s.atIssue k t i).thread k t).land ((s.atIssue k t i).thread k t).level) 0 ∧
          (u.thread k t).land = bit (((s.atIssue k t i).thread k t).sv (setIdx ((s.atIssue k t i).thread k t).land
            ((s.atIssue k t i).thread k t).level) 1) 2 ∧
          (u.thread k t).level = fld (((s.atIssue k t i).thread k t).sv (setIdx ((s.atIssue k t i).thread k t).land
            ((s.atIssue k t i).thread k t).level) 1) 0 2 ∧
          (u.thread k t).ie = bit (((s.atIssue k t i).thread k t).sv (setIdx ((s.atIssue k t i).thread k t).land
            ((s.atIssue k t i).thread k t).level) 1) 3
    | _ => True

/-- An interrupt or a TRAP enters its target world and level: it writes the target save set, changes CSTAT, and goes to the handler with the registers kept (06_exceptions_worlds.md, R224; 06_exceptions_worlds.md, R246 to R248; 06_exceptions_worlds.md, R254 and R256; 06_exceptions_worlds.md, R263, R264 and R267; 06_exceptions_worlds.md, R279; 06_exceptions_worlds.md, Tables 06-2 and 06-7). Where these bear on it, it rests on the model's choices of log entries 13, 34, 54, 64. -/
def Obligations.EntriesSaveAndRedirect : Prop :=
  (∀ (s : State) (k : Fin 144) (t : Fin 4) (dt : Nat) (ecc : List EccHit), s.threadRuns k t = true →
      ((s.sampled k t dt).thread k t).entry = false → ((s.sampled k t dt).thread k t).skip = false →
      ((s.sampled k t dt).thread k t).shadow = none → ((s.sampled k t dt).thread k t).far = [] →
      ((s.sampled k t dt).thread k t).sampleAt ≤ ((s.sampled k t dt).core k).clk →
      ((s.sampled k t dt).thread k t).imprec = [] → (advance k dt s).faultsAt k t ((advance k dt s).core k).clk = false →
      ∀ w ∈ (s.sampled k t dt).takes k t,
      ∀ h ∈ ((s.sampled k t dt).entering k t (Cause.of 1) w.1 w.2 ((s.sampled k t dt).thread k t).pc
        ((s.sampled k t dt).thread k t).tgt).handler? k t w.1 w.2 1 (ecc.headD .ok),
    ∃ u, exec (.interruptEntry k t ⟨dt, ecc⟩) s = .next u ∧ (u.thread k t).pc = h ∧ (u.thread k t).land = w.1 ∧ (u.thread k t).level = w.2 ∧
      (u.thread k t).ie = false ∧ (u.thread k t).sv (setIdx w.1 w.2) 0 = ((s.sampled k t dt).thread k t).pc ∧
      fld ((u.thread k t).sv (setIdx w.1 w.2) 1) 0 4 = ((s.sampled k t dt).thread k t).level +
        4 * b2n ((s.sampled k t dt).thread k t).land + 8 * b2n ((s.sampled k t dt).thread k t).ie ∧
      fld ((u.thread k t).sv (setIdx w.1 w.2) 1) 8 14 = 1 ∧
      (u.thread k t).resume = ((s.sampled k t dt).core k).clk + 18 ∧
      (u.thread k t).d = (settleAll ((s.sampled k t dt).thread k t)).d ∧ (u.thread k t).a = (settleAll ((s.sampled k t dt).thread k t)).a ∧
      (u.thread k t).m = (settleAll ((s.sampled k t dt).thread k t)).m ∧ (u.thread k t).f = (settleAll ((s.sampled k t dt).thread k t)).f ∧
      u.mem = s.mem) ∧
  (∀ (s : State) (k : Fin 144) (t : Fin 4) (i : IssueInfo), ∀ b ∈ s.bundleAt k t i, s.issues k t i = true →
      ∀ n ∈ trapOf (liveOps ((s.atIssue k t i).isT2 k) ((s.atIssue k t i).thread k t) b.1), n < 1024 →
      ∀ w ∈ excTarget ((s.atIssue k t i).thread k t).land ((s.atIssue k t i).thread k t).level,
      ∀ h ∈ ((s.atIssue k t i).entering k t { Cause.of 3 with info := n } w.1 w.2
        (((s.atIssue k t i).thread k t).pc + BitVec.ofNat 32 b.2) none).handler? k t w.1 w.2 3 (i.vec.headD .ok),
    ∃ u, exec (.bundleIssue k t i) s = .next u ∧ (u.thread k t).pc = h ∧ (u.thread k t).land = w.1 ∧ (u.thread k t).level = w.2 ∧
      (u.thread k t).sv (setIdx w.1 w.2) 0 = ((s.atIssue k t i).thread k t).pc + BitVec.ofNat 32 b.2 ∧
      fld ((u.thread k t).sv (setIdx w.1 w.2) 1) 8 14 = 3 ∧ fld ((u.thread k t).sv (setIdx w.1 w.2) 1) 22 10 = n ∧
      (u.thread k t).d = (settleAll ((s.atIssue k t i).thread k t)).d ∧ u.mem = s.mem)

/-- What happens on a core beside issue: retirement, a WAITT's release, fabric answers, store-buffer drain, invalidation, counters and the private timer (04_tuitin_operations.md, R165; 05_core_pipeline.md, R186; 05_core_pipeline.md, R200; 05_core_pipeline.md, R229; 05_core_pipeline.md, R232; 05_core_pipeline.md, R240; 05_core_pipeline.md, R244; 04_tuitin_operations.md, R188; 09_interrupt_controller.md, R397). Where these bear on it, it rests on the model's choices of log entries 12, 13. -/
def Obligations.CoreEventRows : Prop :=
  (∀ (s : State) (k : Fin 144) (t : Fin 4) (jj dt : Nat) (ecc : List EccHit), (s.thread k t).running = true → ∀ o ∈ ((advance k dt s).thread k t).long[jj]?,
      o.due ≤ ((advance k dt s).core k).clk → o.byZero = false →
    ∃ u, exec (.longOpRetire k t jj ⟨dt, ecc⟩) s = .next u ∧
      (u.thread k t).long = ((advance k dt s).thread k t).long.filter (fun x => decide (x ≠ o)) ∧
      (u.thread k t).pend = (o.writes.foldl (fun th w => th.push o.due w) ((advance k dt s).thread k t)).pend) ∧
  (∀ (s : State) (k : Fin 144) (t : Fin 4) (i : IssueInfo) (wn wb : Nat),
      (s.thread k t).wait = .waitt wn (s.thread k t).pc true wb 0 →
      ∀ b ∈ s.bundleAt k t i, s.issues k t i = true → b.1.length = 1 →
      (liveOps ((s.atIssue k t i).isT2 k) ((s.atIssue k t i).thread k t) b.1).map (fun e => e.2.2) = [.waitt wn] →
    ∃ u, exec (.waittRelease k t i) s = .next u ∧ (u.thread k t).wait = .none ∧
      (u.thread k t).pc = ((s.atIssue k t i).thread k t).pc + BitVec.ofNat 32 b.2) ∧
  (∀ (s : State) (k : Fin 144) (t : Fin 4) (fid fa dt : Nat) (bs : List Byte) (ecc : List EccHit), ∀ f ∈ (s.thread k t).far.head?,
      (s.thread k t).far = [f] → f.parts = [{ id := fid, addr := fa, data := none }] → f.fill = false →
      f.chk = false → f.after = 0 → (s.thread k t).fetch = [] → (s.thread k t).fillBuf = none → s.reqSt? fid = some (.done bs) →
    ∃ u, exec (.farAccessResponse k t fid ⟨dt, ecc⟩) s = .next u ∧ (u.thread k t).far = [] ∧
      (u.thread k t).pend = (((advance k dt s).thread k t).loaded (((advance k dt s).core k).clk + 1) f.kind f.dst
        (partBytes [{ id := fid, addr := fa, data := some bs }] f.phys f.kind.size)).pend ∧
      (u.thread k t).resume = max ((advance k dt s).thread k t).resume (((advance k dt s).core k).clk + 1)) ∧
  (∀ (s : State) (k : Fin 144) (t : Fin 4) (dt : Nat) (bs : List Byte), ∀ f ∈ (s.thread k t).fetch.head?,
      s.reqSt? f.id = some (.done bs) →
    ∃ u, exec (.iCacheLineFill k t f.id dt) s = .next u ∧
      (u.thread k t).fetched = ((advance k dt s).thread k t).fetched ++ (if f.live then [{ line := f.line, data := bs, bad := none }] else []) ∧
      (f.inst = true → (u.core k).icache.head? = some { line := f.line, data := bs }) ∧
      (f.inst = false → (u.core k).icache = ((advance k dt s).core k).icache)) ∧
  (∀ (s : State) (k : Fin 144) (t : Fin 4) (id dt : Nat), (s.thread k t).posted.contains id = true → ∀ q ∈ s.req? id,
      q.st = .failed false ∨ q.st = .done [] →
    ∃ u, exec (.postedWriteAck k t id dt) s = .next u ∧ (u.thread k t).posted = (s.thread k t).posted.filter (fun x => decide (x ≠ id)) ∧
      (q.st = .done [] → (u.thread k t).lastAck = ((advance k dt s).core k).clk ∧ (u.thread k t).pwf = (s.thread k t).pwf) ∧
      (q.st = .failed false → (s.thread k t).postIn.any (fun e => decide (e.id = id)) = false → (u.thread k t).pwf = true) ∧
      (∀ e es, q.st = .failed false → (s.thread k t).postIn.filter (fun e => decide (e.id = id)) = e :: es →
        if es.any (fun x => decide (x.set = e.set)) then (u.thread k t).postIn.any (fun x => decide (x.id = id) && x.bad) = true
        else bit ((u.thread k t).sv e.set 1) 7 = true)) ∧
  (∀ (s : State) (k : Fin 144) (t : Fin 4) (dt : Nat), ∀ e ∈ (s.thread k t).sbuf.head?, e.ue = [] → e.at_ < ((advance k dt s).core k).clk → (s.thread k t).far = [] →
      ((advance k dt s).core k).l1.contains ((advance k dt s).core k).clk = false → (s.core k).sbClk ≠ some ((advance k dt s).core k).clk →
      ∀ r ∈ regionOf e.addr, r.slot? = some k.val → e.addr < 2 ^ 38 → e.addr + e.data.length ≤ localBase k + 0x40000 →
    ∃ u, exec (.storeBufferDrain k t dt) s = .next u ∧ (u.thread k t).sbuf = (s.thread k t).sbuf.tail ∧
      ∀ x, u.byte x = if e.addr ≤ x ∧ x < e.addr + e.data.length then e.data.getD (x - e.addr) 0 else s.byte x) ∧
  (∀ (s : State) (k : Fin 144),
    (∃ u, exec (.icacheInvalidate k) s = .next u ∧ (u.core k).icache = [] ∧ (u.core k).dcache = (s.core k).dcache ∧
      ∀ t : Fin 4, (u.thread k t).fetched = [] ∧ (u.thread k t).fetch.all (fun f => !f.inst) = true) ∧
    (∃ u, exec (.dcacheInvalidate k) s = .next u ∧ (u.core k).dcache = [] ∧ (u.core k).icache = (s.core k).icache ∧
      ∀ t : Fin 4, (u.thread k t).far.all (fun f => !f.fill) = true) ∧
    (∃ u, exec (.coreCounterClear k) s = .next u ∧ u.mem = s.mem ∧
      ∀ a ∈ [aCoreCyc k, aCoreIssue k, aCoreBrmisp k, aCoreFqEmpty k, aCoreDcMiss k, aCoreIcMiss k, aCoreCpar k, aCoreSbFull k],
        u.reg a = 0)) ∧
  (∀ (s : State) (k : Fin 144) (t : Fin 4) (pd : Nat), bit ((s.thread k t).creg 0x102) 0 = true → (s.thread k t).creg 0x100 ≠ 0 →
      ((s.thread k t).creg 0x100).toNat = pd →
    ∃ u, exec (.ptimerExpire k t pd) s = .next u ∧ bit ((u.thread k t).creg 0x103) 0 = true ∧
      (u.thread k t).creg 0x100 = (s.thread k t).creg 0x101)

/-- Retirement, fetch answers, invalidation, counter clear and the private timer reach nothing outside their slot (03_tuitin_model.md, R93; 05_core_pipeline.md, R191; 05_core_pipeline.md, R232; 09_interrupt_controller.md, R397). -/
def Obligations.CoreRowsLeaveTheRest : Prop :=
  ∀ (s t : State) (k : Fin 144) (h : Fin 4) (j id dt : Nat) (ecc : List EccHit),
    ∀ c ∈ [Instr.longOpRetire k h j ⟨dt, ecc⟩, .iCacheLineFill k h id dt, .icacheInvalidate k, .dcacheInvalidate k, .coreCounterClear k,
      .ptimerExpire k h dt],
    (s.thread k h).long.all (fun o => !o.byZero) = true → ((advance k dt s).thread k h).imprec = [] → exec c s = .next t →
      t.mem = s.mem ∧ t.tide = s.tide ∧ t.cmps = s.cmps ∧ t.srcs = s.srcs ∧ t.ferry = s.ferry ∧ t.bw = s.bw ∧ t.sap = s.sap ∧
      t.pending = s.pending ∧
      (∀ q : Fin 144, q ≠ k → t.core q = s.core q ∧ ∀ g : Fin 4, t.thread q g = s.thread q g) ∧
      ∀ a, a / 0x10000 ≠ aCorePipeCfg k / 0x10000 → t.reg a = s.reg a

/-- A granted store changes exactly the bytes of its beat, a granted load answers with the bytes in memory, and one that loses arbitration waits (07_memory.md, R292 and R293; 07_memory.md, R299 and R307; 17_clocks_power.md, R634; 07_memory.md, R312; 07_memory.md, R314; 07_memory.md, R319; 07_memory.md, R321). Where these bear on it, it rests on the model's choices of log entries 15, 28, 71, 201. -/
def Obligations.FabricBeatsReachMemory : Prop :=
  (∀ (s : State) (id : Nat) (g : GrantInfo), s.grants id g = true → ∀ q ∈ s.req? id,
      s.sap.puts.all (fun p => decide (p.id ≠ id)) = true → q.kind = .store → q.data.length = q.len →
      ∀ b ∈ plainAddr (s.access (Initiator.anySlot q.ini) true q.addr (s.beatLen q.addr q.len)),
      s.stagingHeld = false → ueHit g.ecc = false ∨ (q.mask = none ∧ wholeWords b (s.beatLen q.addr q.len) = true) →
    ∃ t, exec (.fabricAccess id g) s = .next t ∧
      ∀ a, t.byte a = if b ≤ a ∧ a < b + s.beatLen q.addr q.len ∧ (∀ be ∈ q.mask, be.testBit (q.addr % 32 + (a - b)) = true)
        then q.data.getD (a - b) 0 else s.byte a) ∧
  (∀ (s : State) (id : Nat) (g : GrantInfo), s.grants id g = true → ∀ q ∈ s.req? id,
      s.sap.puts.all (fun p => decide (p.id ≠ id)) = true → q.kind ≠ .store → q.data = [] → 0 < q.len →
      s.beatLen q.addr q.len = q.len → ueHit g.ecc = false → s.awaited id = true →
      ∀ b ∈ heldAddr (s.access (Initiator.anySlot q.ini) false q.addr q.len),
      q.mask = none ∨ plainAddr (s.access (Initiator.anySlot q.ini) false q.addr q.len) = some b →
    ∃ t, exec (.fabricAccess id g) s = .next t ∧ t.reqSt? id = some (.done (s.bytes b q.len)) ∧ ∀ a, t.byte a = s.byte a) ∧
  (∀ (s : State) (id : Nat) (g : GrantInfo), s.grants id g = true → ∀ q ∈ s.req? id,
      s.sap.puts.all (fun p => decide (p.id ≠ id)) = true → q.kind = .store → s.awaited id = true →
      s.access (Initiator.anySlot q.ini) true q.addr (s.beatLen q.addr q.len) = .fail →
    ∃ t, exec (.fabricAccess id g) s = .next t ∧ t.reqSt? id = some (.failed false) ∧ ∀ a, t.byte a = s.byte a) ∧
  (∀ (s : State) (id : Nat) (g : GrantInfo), s.fclkRuns = false → exec (.fabricAccess id g) s = .next s) ∧
  (∀ (s : State) (id : Nat) (g : GrantInfo) (b : Nat), s.fclkRuns = true → ∀ q ∈ s.req? id, q.st = .waiting ∨ q.st = .lifted →
      (∀ m a, s.decodeAddr q.addr ≠ .remote m a) → s.olderOpen q = false → s.arbAt q.beatAddr = some b → asleep q s = false → s.grants id g = false →
    exec (.fabricAccess id g) s = .next (s.arrive b g.late) ∧
      (s.arrive b g.late).reqSt? id = s.reqSt? id ∧ ∀ a, (s.arrive b g.late).byte a = s.byte a)

/-- A 4-byte store by an alias ors into the word or clears bits of it, in one step that touches no other byte (R318). -/
def Obligations.AliasStoresSetAndClearBits : Prop :=
  ∀ (s : State) (id : Nat) (g : GrantInfo), s.grants id g = true → ∀ q ∈ s.req? id,
      s.sap.puts.all (fun p => decide (p.id ≠ id)) = true → q.kind = .store → q.len = 4 → q.mask = none → s.beatLen q.addr 4 = 4 →
      q.data.length = 4 → ∀ m ∈ aliasAddr (s.access (Initiator.anySlot q.ini) true q.addr 4), s.stagingHeld = false → ueHit g.ecc = false →
    ∃ t, exec (.fabricAccess id g) s = .next t ∧
      t.memWord m.2 = (if m.1 then s.memWord m.2 ||| BitVec.ofNat 32 (leNat q.data) else s.memWord m.2 &&& ~~~(BitVec.ofNat 32 (leNat q.data))) ∧
      ∀ a, a < m.2 ∨ m.2 + 4 ≤ a → t.byte a = s.byte a

/-- The uncorrectable-error log takes 8 entries in order, a full log only sets ue_ovf, and a pop removes the oldest or has no effect (R333). -/
def Obligations.UncorrectableErrorLog : Prop :=
  (∀ (s : State) (e : Fin 17) (w : BitVec 44) (x : Fin 4) (wait b : Nat), s.memc.pass.contains e.val = true → scrubCovers e w.toNat = true →
      w.toNat % 8 = 0 → s.scrubbed e w.toNat = false → s.arbAt w.toNat = some b → s.fourTurn b (Initiator.code .scrubber) wait = true →
      (regionOf w.toNat).bind Region.slot? = none →
    ∃ t, exec (.scrubWordRead e w ⟨.ue x, wait⟩) s = .next t ∧
      (s.memc.ue.length < 8 → t.memc.ue.dropLast = s.memc.ue ∧ t.memc.ue.getLast?.map (fun x => x.addr) = some w.toNat ∧
        bit (t.reg aMemcStat) 1 = true) ∧
      (8 ≤ s.memc.ue.length → t.memc.ue = s.memc.ue ∧ bit (t.reg aMemcStat) 2 = true)) ∧
  (∀ s : State, exec .memcUePop s = .next { s with memc := { s.memc with ue := s.memc.ue.tail } } ∧
    (s.memc.ue = [] → exec .memcUePop s = .next s))

/-- Write-back, lift, local starvation, scrub passes and the wake and power-down of banks (07_memory.md, R302; 07_memory.md, R308; 07_memory.md, R321; 07_memory.md, R324 and R325; 07_memory.md, R328 to R330). Where these bear on it, it rests on the model's choices of log entries 70, 73. -/
def Obligations.MemoryControlRows : Prop :=
  (∀ (s : State) (w : BitVec 44) (wait : Nat),
      (∀ x ∈ s.memc.wb.find? (fun x => decide (x.1 = w.toNat)), ∀ b ∈ bankAt w.toNat, s.wbTurn b x.2 wait = true) →
    ∃ t, exec (.eccWriteBack ⟨w, wait⟩) s = .next t ∧ (∀ x ∈ t.memc.wb, x.1 ≠ w.toNat) ∧ ∀ a, t.byte a = s.byte a) ∧
  (∀ (s : State) (id wait n b : Nat), ∀ q ∈ s.req? id, q.st = .waiting → s.arbAt q.beatAddr = some b → b < 288 →
      liftAfter q.cls = some n → n ≤ wait → (s.headOf b q.cls false).map (fun x => x.id) = some id →
    ∃ t, exec (.requestLift ⟨id, wait⟩) s = .next t ∧ t.reqSt? id = some .lifted) ∧
  (∀ (s : State) (k : Fin 144) (wait : Nat), fld (s.reg aMemcLstarvLim) 0 16 < wait →
    ∃ t, exec (.localStarvation k wait) s = .next t ∧ bit (t.reg aMemcStat) 5 = true ∧
      fld (t.reg (aMemcLstarv k)) 0 16 = min (2 ^ 16 - 1) (fld (s.reg (aMemcLstarv k)) 0 16 + 1) ∧
      fld (t.reg (aMemcLstarv k)) 16 16 = max (min 0xFFFF wait) (fld (s.reg (aMemcLstarv k)) 16 16)) ∧
  (∀ (s : State) (e : Fin 17), ∃ t, exec (.scrubPassStart e) s = .next t ∧ t.memc.pass.contains e.val = true ∧
      (s.memc.pass.contains e.val = true → t.memc.passDue.contains e.val = true ∧ bit (t.reg aMemcStat) 4 = true)) ∧
  (∀ (s : State) (e : Fin 17), smGet (fun _ => []) s.memc.scrub e.val ≠ scrubSpans e → exec (.scrubPassEnd e) s = .next s) ∧
  (∀ (s : State) (e : Fin 17), s.memc.pass.contains e.val = true → smGet (fun _ => []) s.memc.scrub e.val = scrubSpans e →
    ∃ t, exec (.scrubPassEnd e) s = .next t ∧ t.memc.pass.contains e.val = s.memc.passDue.contains e.val ∧ t.memc.passDue.contains e.val = false ∧
      (e = 16 → t.reg aMemcScrubPass = s.reg aMemcScrubPass + 1 ∧ bit (t.reg aMemcStat) 3 = true)) ∧
  (∀ (s : State) (e : Fin 17) (w : BitVec 44) (ws : List (Fin 4)) (wait b : Nat), s.memc.pass.contains e.val = true → scrubCovers e w.toNat = true →
      w.toNat % 8 = 0 → s.scrubbed e w.toNat = false → s.arbAt w.toNat = some b → s.fourTurn b (Initiator.code .scrubber) wait = true →
      s.wakeSpan w.toNat 8 = s →
    ∃ t, exec (.scrubWordRead e w ⟨.ce ws, wait⟩) s = .next t ∧ t.reg aMemcCeCnt = (s.incSat aMemcCeCnt).reg aMemcCeCnt ∧
      t.memc.wb.any (fun x => decide (x.1 = w.toNat)) = true ∧ t.scrubbed e w.toNat = true ∧ ∀ a, t.byte a = s.byte a) ∧
  (∀ (s : State) (u : Fin 48) (stall : Nat), s.memPwr u = .wakeRet ∨ s.memPwr u = .wakeOff →
    ∃ t, exec (.bankWakeComplete u stall) s = .next t ∧ t.memPwr u = .on ∧ min 0xFFFF stall ≤ (t.reg aMemcWakeMax).toNat ∧
      (s.memPwr u = .wakeRet → ∀ a, t.byte a = s.byte a) ∧
      (s.memPwr u = .wakeOff → ∀ a, powerUnit ((regionOf a).getD .ddr) a = some u.val → t.byte a = 0)) ∧
  (∀ (s : State) (u : Fin 48), s.pwr.mode = .neap → fld (s.reg aMemcWakeIdle) 0 16 ≠ 0 → s.memPwr u = .on → s.memc.woken.contains u.val = true →
    ∃ t, exec (.bankIdlePowerDown u) s = .next t ∧ t.memPwr u = s.neapState u ∧ ∀ a, t.byte a = s.byte a)

/-- The rows of the memory control change its own state and registers, and no byte of memory (07_memory.md, On-chip memory, address map and arbitration (R302 to R333); opcode_table.json rows ECC_WRITE_BACK to MEMC_UE_POP). -/
def Obligations.MemoryControlRowsLeaveTheRest : Prop :=
  ∀ (s t : State) (c : Instr) (w : BitVec 44) (id : Nat) (k : Fin 144) (x : Nat) (e : Fin 17) (u : Fin 48),
    c ∈ [.eccWriteBack ⟨w, x⟩, .requestLift ⟨id, x⟩, .localStarvation k x, .scrubPassStart e, .scrubPassEnd e, .bankIdlePowerDown u, .memcUePop] →
    exec c s = .next t →
    t = { s with memc := t.memc, regs := t.regs, ferry := t.ferry } ∧ (c ≠ .eccWriteBack ⟨w, x⟩ → t.ferry = s.ferry) ∧ (∀ a, t.byte a = s.byte a) ∧
    ∀ a, a < 0x400B0000 ∨ 0x400C0000 ≤ a → t.reg a = s.reg a

/-- Each Ferry instruction other than a move, executed by a channel in RUN that holds its words (08_ferry.md, R343 to R345; 08_ferry.md, R352 to R354; 08_ferry.md, R356; 08_ferry.md, R357; 08_ferry.md, R365; 08_ferry.md, Tables 08-1 and 08-2; 17_clocks_power.md, R634). Where these bear on it, it rests on the model's choices of log entries 82, 83. -/
def Obligations.FerryProgramRows : Prop :=
  ∀ (s : State) (n : Fin 64), s.fclkRuns = true → (s.fry n).st = .run → ∀ i ∈ (s.fry n).instr.1,
    match i with
    | .nop => ∃ t, exec (.ferryNop n) s = .next t ∧ (t.fry n).pc = (s.fry n).pc + 8
    | .jump a => ∃ t, exec (.jump n) s = .next t ∧ (t.fry n).pc = a ∧ (t.fry n).blocks = []
    | .loop k => 0 < k → (s.fry n).loops.length < 2 →
        ∃ t, exec (.ferryLoop n) s = .next t ∧ (t.fry n).loops = ((s.fry n).pc + 8, k) :: (s.fry n).loops ∧
          (t.fry n).pc = (s.fry n).pc + 8
    | .endl => (s.fry n).loops ≠ [] →
        ∃ t, exec (.endl n) s = .next t ∧
          (t.fry n).loops = (match (s.fry n).loops with
            | (a, k) :: ls => if k ≤ 1 then ls else (a, k - 1) :: ls
            | [] => []) ∧
          (t.fry n).pc = (match (s.fry n).loops with
            | (a, k) :: _ => if k ≤ 1 then (s.fry n).pc + 8 else a
            | [] => (s.fry n).pc)
    | .waitCmp k => ∃ t, exec (.waitTideCompare n) s = .next t ∧
        (s.cmpOver k = true → (t.fry n).pc = (s.fry n).pc + 8) ∧
        (s.cmpOver k = false → (t.fry n).st = .wait ∧ (t.fry n).wait = .cmp k ∧ (t.fry n).pc = (s.fry n).pc)
    | .waitEvt g l => ∃ t, exec (.waitEventFifo n) s = .next t ∧
        (l ≤ (s.evFifo g).length → (t.fry n).pc = (s.fry n).pc + 8) ∧
        ((s.evFifo g).length < l → (t.fry n).st = .wait ∧ (t.fry n).wait = .evt g l ∧ (t.fry n).pc = (s.fry n).pc)
    | .waitFlag f take => ∃ t, exec (.waitFlag n) s = .next t ∧
        (s.fryFlagOn f = true → (t.fry n).pc = (s.fry n).pc + 8 ∧ t.fryFlagOn f = !take) ∧
        (s.fryFlagOn f = false → (t.fry n).st = .wait ∧ (t.fry n).wait = .flag f take ∧ (t.fry n).pc = (s.fry n).pc)
    | .sigInt => (s.fry n).writes = [] →
        ∃ t, exec (.signalInterrupt n) s = .next t ∧ bit (t.reg (aFryStat n)) 11 = true ∧ (t.fry n).pc = (s.fry n).pc + 8
    | .sigFlag f v => (s.fry n).writes = [] → f < 64 → s.ferry.all (fun e => decide (e.2.wait ≠ .flag f true)) = true →
        ∃ t, exec (if v then .signalSetFlag n else .signalClearFlag n) s = .next t ∧ t.fryFlagOn f = v ∧
          (t.fry n).pc = (s.fry n).pc + 8
    | .fence h => (s.fry n).writes = [] → h = false ∨ (s.fry n).wfRec = false →
        ∃ t, exec (.fence n) s = .next t ∧ (t.fry n).wfRec = false ∧ (t.fry n).pc = (s.fry n).pc + 8
    | .crcInit m v => ∃ t, exec (.crcInit n) s = .next t ∧ t.reg (aFryChk n) = v ∧ t.reg (aFryChkcfg n) = BitVec.ofNat 32 m ∧
        (t.fry n).pc = (s.fry n).pc + 8
    | .crcFold a k => (s.fry n).fold = none → (s.fry n).tagsUsed < 64 → s.fryMay n a (min k (32 - a % 32)) false = true →
        ∃ t, exec (.crcFold n) s = .next t ∧
          (k = 0 → (t.fry n).pc = (s.fry n).pc + 16) ∧
          (0 < k → (t.fry n).pc = (s.fry n).pc ∧ (t.fry n).fold = some (a + min k (32 - a % 32), k - min k (32 - a % 32), k) ∧
            (t.fry n).reads = (s.fry n).reads ++ [{ id := s.memc.nextId, n := min k (32 - a % 32), addr := a, live := true }])
    | .crcStore inv a => (s.fry n).writes = [] → (s.fry n).tagsUsed < 64 → a % 4 = 0 → s.fryMay n a 4 true = true →
        ∃ t, exec (.crcStore n) s = .next t ∧ (t.fry n).pc = (s.fry n).pc + 8 ∧
          (t.fry n).writes.map (fun w => (w.id, w.addr, w.n)) = [(s.memc.nextId, a, 4)] ∧
          t.memc.reqs.take (s.memc.reqs.length + 1) = s.memc.reqs ++ [{
            id := s.memc.nextId, ini := .ferry n, kind := .store, addr := s.routeAddr a, len := 4,
            data := leBytes 4 (if inv then ~~~(s.reg (aFryChk n)) else s.reg (aFryChk n)).toNat, cst := 0, cls := 3, here := false, mask := none,
            st := .waiting }]
    | .park a => a = (s.fry n).pc → s.fryProgOk a = true →
        ∃ t, exec (.park n) s = .next t ∧ (t.fry n).st = .parked ∧ (t.fry n).pc = (s.fry n).pc
    | .endProg => (s.fry n).writes = [] → (s.fry n).wfRec = false →
        ∃ t, exec (.endProg n) s = .next t ∧ (t.fry n).st = .completed ∧ bit (t.reg (aFryStat n)) 10 = true
    | .move m => (s.fry n).cur = none → (s.fry n).reads = [] → (s.fry n).hold = [] → (s.fry n).writes.length < 64 → 0 < m.total →
        fryBadElem m.src m.sw = false → fryBadElem m.dst m.dw = false → (List.range 33).all (fun l => s.fryMay n m.src l false) = true →
        ∃ t, exec (if m.words = 3 then .move n else .movx n) s = .next t ∧ (t.fry n).pc = (s.fry n).pc ∧
          (t.fry n).cur.map (fun c => (c.total, c.wr)) = some (m.total, 0) ∧
          (t.fry n).reads.map (fun r => (r.id, r.addr, r.live)) = [(s.memc.nextId, m.src, true)]
    | .illegal k => ∃ t, exec (.ferryNop n) s = .next t ∧ (t.fry n).st = .error ∧ t.reg (aFryErr n) = 1 ∧
        t.pair (aFryErrAddr n) (aFryErrAddrHi n) = ((s.fry n).pc + 8 * k) % 2 ^ 44

/-- What returns to a Ferry channel: a WAIT's release, a wake, a program block, read data and a write's acknowledgement (08_ferry.md, R342; 08_ferry.md, R346 and R347; 08_ferry.md, R351; 08_ferry.md, R353 and R354; 08_ferry.md, R357 and R358; 08_ferry.md, R366; 08_ferry.md, Table 08-11). Where these bear on it, it rests on the model's choices of log entry 80. -/
def Obligations.FerryTrafficRows : Prop :=
  (∀ (s : State) (n : Fin 64), (s.fry n).st = .wait → (s.fry n).released = true →
    ∃ t, exec (.ferryWaitRelease n) s = .next t ∧ (t.fry n).st ≠ .wait ∧ (t.fry n).wait = .none ∧ (t.fry n).pc = (s.fry n).pc + 8) ∧
  (∀ (s : State) (n : Fin 64), (s.fry n).st = .parked → (s.fry n).released = true →
    ∃ t, exec (.parkWake n) s = .next t ∧ (t.fry n).st ≠ .parked ∧ (t.fry n).blocks = [] ∧ (t.fry n).pc = (s.fry n).pc ∧
      t.reg (aFryWakes n) = (s.incSat (aFryWakes n)).reg (aFryWakes n)) ∧
  (∀ (s : State) (n : Fin 64) (d : List Byte), ∀ f ∈ (s.fry n).fetch, f.id < s.memc.nextId → s.reqSt? f.id = some (.done d) →
    ∃ t, exec (.ferryFetch n f.id) s = .next t ∧
      (t.fry n).pc = (s.fry n).pc ∧ (t.fry n).fetch.map (fun x => x.id) ≠ some f.id ∧
      (f.addr = (s.fry n).pc / 32 * 32 ∨ f.addr = (s.fry n).pc / 32 * 32 + 32 ∨ ((s.fry n).st ≠ .run ∧ (s.fry n).st ≠ .wait) →
        (t.fry n).blocks.any (fun x => decide (x = { addr := f.addr, data := d, touched := f.touched })) = true)) ∧
  (∀ (s : State) (n : Fin 64) (d : List Byte), ∀ r ∈ (s.fry n).reads.head?, r.live = true → s.reqSt? r.id = some (.done d) →
      ∀ g ∈ (s.fry n).fold, d.length < g.2.2 →
    ∃ t, exec (.ferryReadData n r.id) s = .next t ∧
      t.reg (aFryChk n) = d.foldl (fryFold (fld (s.reg (aFryChkcfg n)) 0 2)) (s.reg (aFryChk n)) ∧
      (t.fry n).fold = some (g.1, g.2.1, g.2.2 - d.length) ∧ (t.fry n).reads = (s.fry n).reads.tail) ∧
  (∀ (s : State) (n : Fin 64) (d : List Byte), ∀ r ∈ (s.fry n).reads.head?, r.live = true → s.reqSt? r.id = some (.done d) →
      (s.fry n).fold = none → (s.fry n).tagsUsed < 64 → ∀ m ∈ (s.fry n).cur, m.wr + 1 = m.total → m.wrOff = 0 →
      ((s.fry n).hold ++ d).length = fryW m.sw → s.fryMay n (m.dstAt m.wr) (fryW m.dw) true = true →
      inBlock (m.dstAt m.wr) (fryW m.dw) = true →
    ∃ t, exec (.ferryReadData n r.id) s = .next t ∧ (t.fry n).pc = (s.fry n).pc + 8 * m.words ∧
      ((t.fry n).writes.drop (s.fry n).writes.length).map (fun w => (w.id, w.addr, w.n)) =
        [(s.memc.nextId, m.dstAt m.wr, fryW m.dw)] ∧
      (t.memc.reqs.filter (fun q => decide (q.id = s.memc.nextId))).getLast? = some {
        id := s.memc.nextId, ini := .ferry n, kind := .store, addr := s.routeAddr (m.dstAt m.wr), len := fryW m.dw,
        data := leBytes (fryW m.dw) (fryConvert (leNat ((s.fry n).hold ++ d)) (8 * fryW m.sw) (8 * fryW m.dw) m.just m.sx),
        cst := 0, cls := 3, here := false, mask := none, st := .waiting }) ∧
  (∀ (s : State) (n : Fin 64) (d : List Byte), ∀ w ∈ (s.fry n).writes, (s.fry n).writes.find? (fun x => decide (x.id = w.id)) = some w →
      s.reqSt? w.id = some (.done d) → (s.fry n).cur = none →
    ∃ t, exec (.ferryWriteAck n w.id) s = .next t ∧ (t.fry n).writes = (s.fry n).writes.filter (fun x => decide (x.id ≠ w.id)) ∧
      t.reg (aFryMoved n) = BitVec.ofNat 32 (min ((s.reg (aFryMoved n)).toNat + w.n) 0xFFFFFFFF)) ∧
  (∀ (s : State) (n : Fin 64) (p : Bool), ∀ w ∈ (s.fry n).writes, (s.fry n).writes.find? (fun x => decide (x.id = w.id)) = some w →
      s.reqSt? w.id = some (.failed p) → (s.fry n).begun = false →
    ∃ t, exec (.ferryWriteAck n w.id) s = .next t ∧ bit (t.reg (aFryStat n)) 14 = true ∧ (t.fry n).wfRec = true)

/-- The commands of a Ferry channel where they are accepted, and the writes of its program address and running check (08_ferry.md, Table 08-6; 08_ferry.md, R359 to R363; 08_ferry.md, R373; 08_ferry.md, R342). -/
def Obligations.FerryCommandRows : Prop :=
  (∀ (s : State) (n : Fin 64), (s.fry n).halted = true → (s.fry n).pc % 8 = 0 → s.fryMay n ((s.fry n).pc / 32 * 32) 32 false = true →
      s.fryProgOk ((s.fry n).pc / 32 * 32) = true →
    ∃ t, exec (.start n) s = .next t ∧ (t.fry n).st = .run ∧ (t.fry n).pc = (s.fry n).pc ∧ (t.fry n).loops = [] ∧ (t.fry n).hold = [] ∧
      (t.fry n).wfRec = false ∧ t.reg (aFryErr n) = 0 ∧ t.reg (aFryAbt n) = 0 ∧ t.reg (aFryChk n) = s.reg (aFryChk n)) ∧
  (∀ (s : State) (n : Fin 64), (s.fry n).st = .run ∨ (s.fry n).st = .wait ∨ (s.fry n).st = .parked ∨ (s.fry n).st = .stopping →
      (s.fry n).ending = false → (s.fry n).hold = [] → (s.fry n).cur.all (fun m => decide (m.wr < m.total)) = true →
    ∃ t, exec (.pause n) s = .next t ∧ (t.fry n).back = (s.fry n).st ∧ (t.fry n).pc = (s.fry n).pc ∧
      (if (s.fry n).busy then (t.fry n).st = .pausing else (t.fry n).st = .paused ∧ bit (t.reg (aFryStat n)) 15 = true)) ∧
  (∀ (s : State) (n : Fin 64), (s.fry n).st = .paused → (s.fry n).released = false → (s.fry n).cur = none →
      (s.fry n).back = .wait ∨ (s.fry n).back = .parked →
    ∃ t, exec (.resume n) s = .next t ∧ t.fry n = { s.fry n with st := (s.fry n).back }) ∧
  (∀ (s : State) (n : Fin 64), (s.fry n).st = .run → (s.fry n).ending = false →
    ∃ t, exec (.stop n) s = .next t ∧ (t.fry n).pc = (s.fry n).pc ∧
      (if (s.fry n).busy = false ∧ (s.fry n).cur = none ∧ (s.fry n).fold = none ∧ (s.fry n).begun = false then
        (t.fry n).st = .stopped ∧ bit (t.reg (aFryStat n)) 16 = true else (t.fry n).st = .stopping)) ∧
  (∀ (s : State) (n : Fin 64), (s.fry n).st = .wait ∨ (s.fry n).st = .parked → (s.fry n).ending = false →
    ∃ t, exec (.stop n) s = .next t ∧ (t.fry n).st = .stopped ∧ (t.fry n).pc = (s.fry n).pc ∧ (t.fry n).released = false ∧
      bit (t.reg (aFryStat n)) 16 = true) ∧
  (∀ (s : State) (n : Fin 64) (e : AbortEdge), (s.fry n).st ∈ [.run, .wait, .parked, .pausing, .paused, .stopping] →
    ∃ t, exec (.abort ⟨n, e⟩) s = .next t ∧
      (if ((abortEdge n e s).fry n).st = .completed then (t.fry n).st = .completed ∧ t.reg (aFryAbt n) = 2
       else (t.fry n).st = .aborted ∧ t.reg (aFryAbt n) = 1 ∧ bit (t.reg (aFryStat n)) 13 = true) ∧
      (e = .none → (t.fry n).pc = (s.fry n).pc ∧ (t.fry n).hold = [] ∧ (t.fry n).writes = (s.fry n).writes) ∧
      (((abortEdge n e s).fry n).st = .error → t.reg (aFryErr n) = (abortEdge n e s).reg (aFryErr n))) ∧
  (∀ (s : State) (n : Fin 64), (s.fry n).st = .completed →
    ∃ t, exec (.abort ⟨n, .none⟩) s = .next t ∧ t.fry n = s.fry n ∧ t.reg (aFryAbt n) = 2) ∧
  (∀ (s : State) (n : Fin 64), (s.fry n).halted = true → (s.fry n).st ≠ .idle →
    ∃ t, exec (.clear n) s = .next t ∧ (t.fry n).st = .idle ∧ (t.fry n).pc = (s.fry n).pc ∧ t.regs = s.regs) ∧
  (∀ (s : State) (n : Fin 64) (v : Word), (s.fry n).halted = true →
    (∃ t, exec (.ferryPcWrite n 0 v) s = .next t ∧ (t.fry n).pc = (s.fry n).pc / 2 ^ 32 * 2 ^ 32 + v.toNat / 8 * 8) ∧
    (∃ t, exec (.ferryPcWrite n 1 v) s = .next t ∧ (t.fry n).pc = fld v 0 12 * 2 ^ 32 + (s.fry n).pc % 2 ^ 32) ∧
    (∃ t, exec (.ferryPcWrite n 2 v) s = .next t ∧ t.reg (aFryChk n) = v) ∧
    (∃ t, exec (.ferryPcWrite n 3 v) s = .next t ∧ t.reg (aFryChkcfg n) = v &&& 3))

/-- A write of code 0 or 7 to FRYn_CMD has no effect in any state and sets cmd_err (R724). -/
def Obligations.UndefinedFerryCommands : Prop :=
  ∀ (s : State) (n : Fin 64),
    exec (.ferryCmdUndefined n) s = .next (s.orReg (aFryStat n) 0x20000) ∧
    fryCmd n 0 s = s.orReg (aFryStat n) 0x20000 ∧ fryCmd n 7 s = s.orReg (aFryStat n) 0x20000 ∧
    bit ((s.orReg (aFryStat n) 0x20000).reg (aFryStat n)) 17 = true ∧
    ∀ a, a ≠ aFryStat n → (s.orReg (aFryStat n) 0x20000).reg a = s.reg a

/-- FLAG_SET and FLAG_CLR set and clear the flags of the written word, and a set releases the waits on the flag (08_ferry.md, R354; 08_ferry.md, R355; 08_ferry.md, Table 08-12). -/
def Obligations.FerryFlagRows : Prop :=
  (∀ (s : State) (v : Word), s.ferry.all (fun e => (match e.2.wait with | .flag _ true => false | _ => true)) = true →
    (∃ t, exec (.flagSet false v) s = .next t ∧ t.reg aFrygFlag = s.reg aFrygFlag ||| v ∧ t.reg aFrygFlagHi = s.reg aFrygFlagHi ∧
      t.mem = s.mem) ∧
    (∃ t, exec (.flagSet true v) s = .next t ∧ t.reg aFrygFlagHi = s.reg aFrygFlagHi ||| v ∧ t.reg aFrygFlag = s.reg aFrygFlag ∧
      t.mem = s.mem)) ∧
  (∀ (s : State) (v : Word) (n : Fin 64) (f : Fin 32), (s.fry n).inWait = true → (s.fry n).wait = .flag f false → bit v f = true →
      s.ferry.all (fun e => (match e.2.wait with | .flag _ true => false | _ => true)) = true →
    ∃ t, exec (.flagSet false v) s = .next t ∧ t.fry n = { s.fry n with released := true }) ∧
  (∀ (s : State) (v : Word),
    (∃ t, exec (.flagClr false v) s = .next t ∧ t.reg aFrygFlag = s.reg aFrygFlag &&& ~~~v ∧ t.reg aFrygFlagHi = s.reg aFrygFlagHi ∧
      t.ferry = s.ferry) ∧
    (∃ t, exec (.flagClr true v) s = .next t ∧ t.reg aFrygFlagHi = s.reg aFrygFlagHi &&& ~~~v ∧ t.reg aFrygFlag = s.reg aFrygFlag ∧
      t.ferry = s.ferry))

/-- A Ferry row changes no byte of memory at once, and no register outside its channel and the flags (08_ferry.md, R340; 08_ferry.md, R346; 08_ferry.md, Table 08-10). -/
def Obligations.FerryRowsLeaveTheRest : Prop :=
  ∀ (s t : State) (n : Fin 64) (id : Nat) (w : Fin 4) (v : Word) (e : AbortEdge),
    ∀ c ∈ [Instr.move n, .movx n, .ferryLoop n, .endl n, .waitTideCompare n, .waitEventFifo n, .waitFlag n, .ferryWaitRelease n,
      .signalInterrupt n, .signalSetFlag n, .signalClearFlag n, .fence n, .crcInit n, .crcFold n, .crcStore n, .park n, .parkWake n,
      .jump n, .endProg n, .ferryNop n, .ferryFetch n id, .ferryReadData n id, .ferryWriteAck n id, .start n, .pause n, .resume n,
      .stop n, .abort ⟨n, e⟩, .clear n, .ferryCmdUndefined n, .ferryPcWrite n w v],
    exec c s = .next t → t.mem = s.mem ∧ t.tide = s.tide ∧ t.cmps = s.cmps ∧ t.srcs = s.srcs ∧ t.cores = s.cores ∧
      t.threads = s.threads ∧ t.bw = s.bw ∧ t.pending = s.pending ∧ t.draws = s.draws ∧
      (∀ m : Fin 64, m ≠ n → t.fry m = s.fry m ∨ t.fry m = { s.fry m with released := true }) ∧
      ∀ a, (a < aFryCfg n ∨ aFryCfg n + 0x1000 ≤ a) → a ≠ aFrygFlag → a ≠ aFrygFlagHi → t.reg a = s.reg a

/-- SOURCE_LEVEL_CHANGE takes the level that the source's block holds, counts a rise, and moves the source between INACTIVE and PENDING (09_interrupt_controller.md, R375; 09_interrupt_controller.md, R383; 09_interrupt_controller.md, R386; 17_clocks_power.md, R634). Where these bear on it, it rests on the model's choices of log entry 91. -/
def Obligations.SourceLevelRows : Prop :=
  ∀ (s : State) (r : SrcRef), srcExists r = true → s.fclkRuns = true ∨ (∃ k h i, r = .priv k h i) →
    ∃ t, exec (.sourceLevelChange r) s = .next t ∧ (t.src r).level = s.sourceLevel r ∧ (t.src r).swpend = (s.src r).swpend ∧
      ((s.src r).level ≠ s.sourceLevel r →
        (t.src r).cnt = (if s.sourceLevel r then min 255 ((s.src r).cnt + 1) else (s.src r).cnt) ∧
        (t.src r).st = (match (s.src r).st with
          | .active => .active
          | .holdoff => .holdoff
          | _ => if s.sourceLevel r || (s.src r).swpend then .pending else .inactive))

/-- PCI Express and the Strand links assert their shared sources while a status bit and its enable are both 1 (R565; R553). -/
def Obligations.BlockLevelsOnSharedSources : Prop :=
  (∀ (s : State) (i : Fin 8), s.sharedLevel (200 + i) = (bit s.pcieStat (8 + i) && bit (s.reg aPcieIen) (8 + i))) ∧
  (∀ (s : State) (n : Fin 8),
    s.sharedLevel (160 + 4 * n) = decide (s.reg (aStrStat n) &&& s.reg (aStrIen n) &&& 0xF00 ≠ 0) ∧
    s.sharedLevel (161 + 4 * n) = decide (s.reg (aStrStat n) &&& s.reg (aStrIen n) &&& 0xF000 ≠ 0) ∧
    s.sharedLevel (162 + 4 * n) = decide (s.reg (aStrStat n) &&& s.reg (aStrIen n) &&& 0x30000 ≠ 0) ∧
    s.sharedLevel (163 + 4 * n) = (decide (s.reg (aStrStat n) &&& s.reg (aStrIen n) &&& 0xC0000 ≠ 0) ||
      (decide (n = 0) && decide (s.reg aCampStat &&& s.reg aCampIen &&& 0xFF00 ≠ 0))))

/-- IC_DONE by the serving thread moves the source to HOLDOFF, HOLDOFF ends by level or swpend, and any other ID only sets done_err (R394). -/
def Obligations.DoneMovesToHoldoff : Prop :=
  (∀ (s : State) (k : Fin 144) (h : Fin 4) (id : Fin 1024), id.val < 32 → (s.src (.priv k h (Fin.ofNat 32 id))).st = .active →
    ∃ t, exec (.icDone (.core k h) id) s = .next t ∧
      t.src (.priv k h (Fin.ofNat 32 id)) = { s.src (.priv k h (Fin.ofNat 32 id)) with st := .holdoff }) ∧
  (∀ (s : State) (k : Fin 144) (h : Fin 4) (id : Fin 1024), 32 ≤ id.val → id.val < 416 →
      (s.src (.shared (Fin.ofNat 416 id))).st = .active → s.lcoreOf k = some (s.src (.shared (Fin.ofNat 416 id))).srv.lcore →
      (s.src (.shared (Fin.ofNat 416 id))).srv.thr = h.val →
    ∃ t, exec (.icDone (.core k h) id) s = .next t ∧
      t.src (.shared (Fin.ofNat 416 id)) = { s.src (.shared (Fin.ofNat 416 id)) with st := .holdoff }) ∧
  (∀ (s : State) (r : SrcRef), (s.src r).st = .holdoff →
    ∃ t, exec (.holdoffEnd r) s = .next t ∧
      t.src r = { s.src r with st := if (s.src r).level || (s.src r).swpend then .pending else .inactive }) ∧
  (∀ (s : State) (k : Fin 144) (h : Fin 4) (id : Fin 1024),
      (id.val < 32 → (s.src (.priv k h (Fin.ofNat 32 id))).st ≠ .active) →
      (32 ≤ id.val → id.val < 416 → (s.src (.shared (Fin.ofNat 416 id))).st ≠ .active ∨
        s.lcoreOf k ≠ some (s.src (.shared (Fin.ofNat 416 id))).srv.lcore ∨ (s.src (.shared (Fin.ofNat 416 id))).srv.thr ≠ h.val) →
    exec (.icDone (.core k h) id) s = .next (s.orReg aIcStat 1))

/-- IC_CLAIM takes the eligible source of highest priority, a private one before a shared one and the lower ID first, or counts a spurious claim (09_interrupt_controller.md, R387; 09_interrupt_controller.md, R391; 09_interrupt_controller.md, R392). -/
def Obligations.ClaimTakesTheHighestPriority : Prop :=
  (∀ (s : State) (k : Fin 144) (h : Fin 4), (∀ q ∈ s.memc.reqs, q.ini ≠ .core k h) →
      smWf (fun _ => Src.init) s.srcs = true → smWf (fun _ => Src.init) (s.thread k h).priv = true →
      (s.thread k h).level = 1 ∨ (s.thread k h).level = 2 →
      ∀ e ∈ s.eligible k h (s.thread k h).land (decide ((s.thread k h).level = 2)), e.2.1 < (if e.1 then 32 else 416) →
      (∀ x ∈ s.eligible k h (s.thread k h).land (decide ((s.thread k h).level = 2)),
        x.2.2 < e.2.2 ∨ (x.2.2 = e.2.2 ∧ ((e.1 = true ∧ x.1 = false) ∨ (e.1 = x.1 ∧ e.2.1 ≤ x.2.1)))) →
    ∃ t, exec (.icClaim k h) s = .next t ∧ (t.src (refOf k h e)).st = .active ∧ (t.src (refOf k h e)).swpend = false ∧
      (t.src (refOf k h e)).srv.thr = h.val ∧ some (t.src (refOf k h e)).srv.lcore = s.lcoreOf k ∧
      (t.src (refOf k h e)).srv.prio = e.2.2 ∧ t.rdata = BitVec.ofNat 32 (e.2.1 + e.2.2 * 2 ^ 16 + b2n e.1 * 2 ^ 20)) ∧
  (∀ (s : State) (k : Fin 144) (h : Fin 4), (∀ q ∈ s.memc.reqs, q.ini ≠ .core k h) →
      (s.thread k h).level = 0 ∨ (s.thread k h).level = 3 ∨
        s.eligible k h (s.thread k h).land (decide ((s.thread k h).level = 2)) = [] →
    exec (.icClaim k h) s = .next { s.incSat aIcSpur with rdata := 0x3FF })

/-- Pending and mask bitmaps, source targets and doorbells take what a permitted initiator writes (09_interrupt_controller.md, R381; 09_interrupt_controller.md, R382; 09_interrupt_controller.md, R384; 09_interrupt_controller.md, R396; 09_interrupt_controller.md, R404). -/
def Obligations.SourceSoftwareRows : Prop :=
  (∀ (s : State) (ini : Initiator) (k : Fin 13) (v : Word), 1 ≤ k.val →
      s.icRight ini (s.cstOf ini) = .all ∨ s.icRight ini (s.cstOf ini) = .pendAll →
    (∃ t, exec (.icPendSet ini k v) s = .next t ∧
      ∀ j : Fin 32, bit v j = true → (t.src (.shared (Fin.ofNat 416 (32 * k + j)))).swpend = true) ∧
    (∃ t, exec (.icPendClr ini k v) s = .next t ∧
      ∀ j : Fin 32, bit v j = true → (t.src (.shared (Fin.ofNat 416 (32 * k + j)))).swpend = false) ∧
    (∃ t, exec (.icMaskSet ini k v) s = .next t ∧ t.reg (aIcMask (k - 1)) = s.reg (aIcMask (k - 1)) ||| v) ∧
    (∃ t, exec (.icMaskClr ini k v) s = .next t ∧ t.reg (aIcMask (k - 1)) = s.reg (aIcMask (k - 1)) &&& ~~~v)) ∧
  (∀ (s : State) (ini : Initiator) (n : Fin 416) (v : Word), 32 ≤ n.val → s.icRight ini (s.cstOf ini) = .all →
    ∃ t, exec (.icSrcCfgWrite ini n v) s = .next t ∧ t.reg (aIcSrcCfg (n - 32)) = v &&& 0x000F337F) ∧
  (∀ (s : State) (ini : Initiator) (v : Word), s.icRight ini (s.cstOf ini) ≠ .refused → ∀ k ∈ s.slotOf (fld v 0 7),
      s.icRight ini (s.cstOf ini) ≠ .seaOnly ∨ ((s.thread k (fld v 8 2)).privTgt (1 + fld v 10 3)).land = false →
    ∃ t, exec (.icDbell ini v) s = .next t ∧ bit ((t.thread k (fld v 8 2)).creg 0x103) (1 + fld v 10 3) = true)

/-- The interrupt controller's rows change sources, threads' private banks and IC registers, and nothing else (09_interrupt_controller.md, Interrupt controller (R381 to R404); opcode_table.json rows IC_DONE to IC_SRC_CFG_WRITE). -/
def Obligations.SourceRowsLeaveTheRest : Prop :=
  ∀ (s t : State) (c : Instr) (ini : Initiator) (r : SrcRef) (id : Fin 1024) (k : Fin 13) (n : Fin 416) (v : Word),
    c ∈ [.icDone ini id, .holdoffEnd r, .icDbell ini v, .icPendSet ini k v, .icPendClr ini k v, .icMaskSet ini k v, .icMaskClr ini k v,
      .icSrcCfgWrite ini n v] → exec c s = .next t →
    t = { s with srcs := t.srcs, threads := t.threads, regs := t.regs } ∧ (∀ a, t.byte a = s.byte a) ∧
    (∀ a, a < 0x40020000 ∨ 0x40030000 ≤ a → t.reg a = s.reg a) ∧
    (∀ j h, (t.thread j h).pc = (s.thread j h).pc ∧ (t.thread j h).d = (s.thread j h).d ∧ (t.thread j h).a = (s.thread j h).a ∧
      (t.thread j h).f = (s.thread j h).f ∧ (t.thread j h).creg 0x80 = (s.thread j h).creg 0x80)

/-- COMMIT writes the commit word: a good frame flips ebb and counts, a failed one is bridged and counted, and a pair that differs replays it (10_breakwater.md, R410; 10_breakwater.md, Table 10-1; 10_breakwater.md, R435; 10_breakwater.md, R437; 10_breakwater.md, R441; 17_clocks_power.md, R634). Where these bear on it, it rests on the model's choices of log entries 65, 149. -/
def Obligations.CommitOrBridge : Prop :=
  (∀ (s : State) (n : Fin 32), s.fclkRuns = true → ∀ p ∈ s.part? n, (s.pt n).failed = true ∨ (recordRuns p s).mismatch p = [] → s.ptShed n = false → p.lcores.all (fun l => s.lcDone n l) = true →
      (s.pt n).inFrame = true → (s.pt n).committed = false → (s.pt n).awaiting = false →
    ∃ t, exec (.commit n) s = .next t ∧ (t.pt n).committed = true ∧ t.reg (aBwtrPtCwLo n) = (s.pt n).frame0 ∧
      bit (t.reg (aBwtrPtCwHi n)) 2 = (s.pt n).failed ∧
      ((regionOf (p.h0 + 2 * p.half)).isSome = true → s.stagingHeld = false ∨ s.inStaging (p.h0 + 2 * p.half) 8 = false →
        t.memWord (p.h0 + 2 * p.half) = t.reg (aBwtrPtCwLo n) ∧ t.memWord (p.h0 + 2 * p.half + 4) = t.reg (aBwtrPtCwHi n)) ∧
      ((s.pt n).failed = false → t.ptEbb n = !s.ptEbb n ∧
        fld (t.reg (aBwtrPtCwHi n)) 16 16 = (fld (s.reg (aBwtrPtCwHi n)) 16 16 + 1) % 2 ^ 16) ∧
      ((s.pt n).failed = true → t.ptEbb n = s.ptEbb n ∧
        fld (t.reg (aBwtrPtCwHi n)) 16 16 = fld (s.reg (aBwtrPtCwHi n)) 16 16 ∧
        t.reg (aBwtrPtBridge n) = (s.incSat (aBwtrPtBridge n)).reg (aBwtrPtBridge n) ∧
        (p.cls = 0 → t.reg (aBwtrPtSlip n) = (s.incSat (aBwtrPtSlip n)).reg (aBwtrPtSlip n)))) ∧
  (∀ (s : State) (n : Fin 32), s.fclkRuns = true → ∀ p ∈ s.part? n, (recordRuns p s).mismatch p ≠ [] → s.ptShed n = false →
      p.lcores.all (fun l => s.lcDone n l) = true → (s.pt n).inFrame = true → (s.pt n).committed = false → (s.pt n).awaiting = false →
      (s.pt n).failed = false →
    ∃ t, exec (.commit n) s = .next t ∧
      (if (s.pt n).replayed = true then
        (t.pt n).committed = true ∧ bit (t.reg (aBwtrPtCwHi n)) 2 = true ∧ t.ptEbb n = s.ptEbb n ∧
        fld (t.reg (aBwtrPtCwHi n)) 16 16 = fld (s.reg (aBwtrPtCwHi n)) 16 16
      else
        (t.pt n).awaiting = true ∧ (t.pt n).committed = false ∧ t.reg (aBwtrPtCwLo n) = s.reg (aBwtrPtCwLo n) ∧
        t.reg (aBwtrPtCwHi n) = s.reg (aBwtrPtCwHi n)) ∧
      (s.bw.log.length + ((recordRuns p s).mismatch p).length ≤ 64 →
        t.bw.log.length = s.bw.log.length + ((recordRuns p s).mismatch p).length)) ∧
  (∀ (s : State) (n : Fin 32), (s.pt n).awaiting = true → (∀ p ∈ s.part? n, p.part = n.val) → exec (.commit n) s = .next s)

/-- A core fault found by an access, a parity check, a residue check or an injection fences the core and begins the take-over into the cluster's spare (10_breakwater.md, R419 and R420; 10_breakwater.md, Table 10-4; 10_breakwater.md, R427; 10_breakwater.md, R450). Where these bear on it, it rests on the model's choices of log entry 110. -/
def Obligations.CoreFaultRows : Prop :=
  ∀ (s : State) (k : Fin 144) (dt : Nat), k.val % 9 ≠ 8 → s.inService k = true → s.spareFree (k / 9) = true → ∀ l ∈ s.lcoreOf k,
    (∀ (a : BitVec 44) (kind : Fin 3), s.isOwn k (s.plain a.toNat / 8 * 8) = true →
        s.bw.notes.any (fun n => decide (n.1 = k.val) && decide (n.2 / 8 = s.plain a.toNat / 8)) = true →
      ∃ t, exec (.localUeDetect k a kind dt) s = .next t ∧ (t.core k).fenced = true ∧
        (∃ x ∈ t.bw.tkos, x.lcore = l ∧ x.slot = 9 * (k.val / 9) + 8 ∧ x.loaded = false) ∧
        (s.bw.log.length < 64 → t.bw.log.length = s.bw.log.length + 1)) ∧
    (∃ t, exec (.parityDetect k dt) s = .next t ∧ (t.core k).fenced = true ∧
      (∃ x ∈ t.bw.tkos, x.lcore = l ∧ x.slot = 9 * (k.val / 9) + 8 ∧ x.loaded = false) ∧
      (s.bw.log.length < 64 → t.bw.log.length = s.bw.log.length + 1)) ∧
    (∃ t, exec (.residueMismatch k dt) s = .next t ∧ (t.core k).fenced = true ∧
      (∃ x ∈ t.bw.tkos, x.lcore = l ∧ x.slot = 9 * (k.val / 9) + 8 ∧ x.loaded = false) ∧
      (s.bw.log.length < 64 → t.bw.log.length = s.bw.log.length + 1)) ∧
    (∀ c : Fin 128, c.val = l → s.slotOf l = some k.val → ∀ d ∈ (s.lc l).inj, d ≠ 5 → (s.lc l).ripe = true →
      ∃ t, exec (.injectedFaultRaise c dt) s = .next t ∧ (t.core k).fenced = true ∧ (t.lc l).inj = none ∧
        (∃ x ∈ t.bw.tkos, x.lcore = l ∧ x.slot = 9 * (k.val / 9) + 8 ∧ x.loaded = false))

/-- Watchdog, commit deadline, state fault, release of a take-over, replay, return from DEGRADED, log pop and injection (10_breakwater.md, R408 and R422; 10_breakwater.md, R409; 10_breakwater.md, R423; 10_breakwater.md, R428; 10_breakwater.md, R430 to R432; 10_breakwater.md, R447; 10_breakwater.md, R450; 10_breakwater.md, R452). Where these bear on it, it rests on the model's choices of log entries 11, 13, 38, 105, 111. -/
def Obligations.BreakwaterFrameRows : Prop :=
  (∀ (s : State) (l : Fin 128) (dt : Nat) (k : Fin 144), s.slotOf l = some k.val → ∀ p ∈ s.partOf l, p.cls = 0 → p.budget ≤ (advance k dt s).wdCount k →
      (s.pt p.part).inFrame = true → (s.pt p.part).committed = false → (s.lc l).wdFired = false → (s.lc l).ready = false →
      s.inService k = true → (s.core k).fenced = false → (advance k dt s).coreDone k p.part = false → fld (s.reg aBwtrCfg) 0 4 = 0 →
    ∃ t, exec (.watchdogFire l dt) s = .next t ∧ (t.pt p.part).failed = true ∧ (t.lc l).wdFired = true ∧ (t.lc l).ready = true ∧
      (t.lc l).overruns = (s.lc l).overruns + 1) ∧
  (∀ (s : State) (n : Fin 32), ∀ p ∈ s.part? n, s.ptShed n = false → (s.pt n).inFrame = true → (s.pt n).committed = false →
      p.lcores.any (fun l => !s.lcDone n l) = true →
    ∃ t, exec (.commitDeadline n) s = .next t ∧ (t.pt n).failed = true ∧ (t.pt n).awaiting = false) ∧
  (∀ (s : State) (l : Fin 128) (a : BitVec 44) (dt : Nat), ∀ k ∈ s.slotOf l, ∀ p ∈ s.partOf l, s.isOwn k a.toNat = false →
      s.bw.notes.any (fun n => decide (n.1 = k) && decide (n.2 / 8 = a.toNat / 8)) = true →
      (s.pt p.part).inFrame = true → (s.pt p.part).committed = false →
    ∃ t, exec (.stateFault l a dt) s = .next t ∧ (t.pt p.part).failed = true ∧
      (t.pt p.part).badWords = (s.pt p.part).badWords ++ [a.toNat / 8 * 8]) ∧
  (∀ (s : State) (l : Fin 128) (errs : List (Nat × Bool)), (s.partOf l).isSome = true → ∀ x ∈ s.bw.tkos.find? (fun y => decide (y.lcore = l.val) && !y.loaded),
    ∃ t, exec (.takeOverRelease ⟨l, errs⟩) s = .next t ∧
      (x.replay = true → { x with loaded := true } ∈ t.bw.tkos) ∧
      (x.replay = false → (∀ y ∈ t.bw.tkos, y.lcore ≠ l.val) ∧ (t.lc l).ready = !x.late)) ∧
  (∀ (s : State) (n : Fin 32) (intime : Bool), ∀ p ∈ s.part? n, (s.pt n).awaiting = true →
      (∀ x ∈ s.bw.tkos, p.cores.getLsbD x.lcore = true → x.loaded = true) →
    ∃ t, exec (.replayRestart n intime) s = .next t ∧ (t.pt n).awaiting = false ∧
      (intime = true → (t.pt n).replayed = true ∧ bit (t.reg (aBwtrPtStat n)) 4 = true) ∧ (intime = false → (t.pt n).failed = true)) ∧
  (∀ s : State, s.pwr.mode = .degraded → bit (s.reg aBwtrStat) 0 = false → s.atFrameBoundary = true →
    ∃ t, exec .degradedExit s = .next t ∧ t.pwr.mode = s.pwr.replaced ∧ t.pwr.prev = .degraded) ∧
  (∀ s : State, ∃ t, exec .logPop s = .next t ∧ t.bw.log = s.bw.log.tail ∧ { t with bw := s.bw } = s) ∧
  (∀ (s : State) (k : Fin 144) (h : Fin 4) (v : Word), bit (s.reg aBwtrCfg) 8 = true → 5 ≤ (s.thread k h).cst →
      3 ≤ fld v 8 4 → fld v 8 4 ≤ 5 → (s.slotOf (fld v 0 7)).isSome = true →
    ∃ t, exec (.faultInjection (.core k h) v) s = .next t ∧ (t.lc (fld v 0 7)).inj = some (fld v 8 4)) ∧
  (∀ (s : State) (ini : Initiator) (v : Word), bit (s.reg aBwtrCfg) 8 = false →
    exec (.faultInjection ini v) s = .next (s.orReg aBwtrStat 0x200))

/-- The loader's commands by Landward supervisor code, with the loader idle, and those it does not take (11_quafa.md, R471; 11_quafa.md, Table 11-12; 11_quafa.md, R480 to R482). Where these bear on it, it rests on the model's choices of log entries 129, 130. -/
def Obligations.LoaderCommandRows : Prop :=
  (∀ (s : State) (ini : Initiator), landSuper ini (s.cstOf ini) = true → s.loaderFree = true → s.qfa.phase = 0 →
    (∃ t, exec (.verify ini) s = .next t ∧ t.qfa.phase = 2 ∧ t.qfa.cmd = 1 ∧ t.qfa.part = none ∧ t.mem = (wakeStaging s).mem) ∧
    (∃ t, exec (.pitch ini) s = .next t ∧ t.qfa.phase = 3 ∧ t.qfa.cmd = 2 ∧
      t.qfa.part = (if (wakeStaging s).imgPartial then some (wakeStaging s).imgPart else none) ∧ t.mem = (wakeStaging s).mem)) ∧
  (∀ (s : State) (ini : Initiator) (slot : Bool), landSuper ini (s.cstOf ini) = true → s.loaderFree = true → s.qfa.phase = 0 →
    (s.slotValid (b2n slot) = true → ∃ t, exec (.fetch ini slot) s = .next t ∧ t.qfa.phase = 1 ∧ t.qfa.slot = b2n slot ∧ t.mem = s.mem) ∧
    (s.qfa.running ≠ some (b2n slot) → ∃ t, exec (.store ini slot) s = .next t ∧ t.qfa.phase = 6 ∧ t.qfa.slot = b2n slot ∧
      ∀ i : Fin 64, t.flashBytes (s.slotOff (b2n slot) + i) 1 = if i.val < s.slotSize then [0xFF] else s.flashBytes (s.slotOff (b2n slot) + i) 1)) ∧
  (∀ (s : State) (ini : Initiator), landSuper ini (s.cstOf ini) = true → s.loaderFree = true → s.qfa.phase = 0 →
    ∃ t, exec (.arbCommit ini) s = .next t ∧
      ((s.reg aQfaFloor).toNat < (s.reg aQfaVer).toNat → t.qfa.phase = 7 ∧ t.jrnl = s.jrnl ++ [.floor (s.reg aQfaVer)]) ∧
      ((s.reg aQfaVer).toNat ≤ (s.reg aQfaFloor).toNat → t.qfa.phase = 0 ∧ bit (t.reg aQfaStat) 8 = true)) ∧
  (∀ (s : State) (ini : Initiator), landSuper ini (s.cstOf ini) = true → s.loaderFree = true → 1 ≤ s.qfa.phase → s.qfa.phase ≤ 3 →
    ∃ t, exec (.abandon ini) s = .next t ∧ t.qfa.phase = 0 ∧ bit (t.reg aQfaStat) 9 = true ∧ fld (t.reg aQfaErr) 0 8 = 16) ∧
  (∀ (s : State) (ini : Initiator) (seven : Bool), landSuper ini (s.cstOf ini) = true →
    exec (.qfaCmdUndefined ini seven) s = .next (s.orReg aQfaStat 0x400)) ∧
  (∀ (s : State) (ini : Initiator) (slot : Bool), landSuper ini (s.cstOf ini) = true → s.loaderFree = true → s.qfa.phase ≠ 0 →
    exec (.verify ini) s = .next (s.orReg aQfaStat 0x400) ∧ exec (.pitch ini) s = .next (s.orReg aQfaStat 0x400) ∧
    exec (.fetch ini slot) s = .next (s.orReg aQfaStat 0x400) ∧ exec (.store ini slot) s = .next (s.orReg aQfaStat 0x400) ∧
    exec (.arbCommit ini) s = .next (s.orReg aQfaStat 0x400)) ∧
  (∀ (s : State) (ini : Initiator), landSuper ini (s.cstOf ini) = false → s.loaderFree = true →
    exec (.verify ini) s = .next (s.orReg aQfaStat 0x800) ∧ exec (.pitch ini) s = .next (s.orReg aQfaStat 0x800) ∧
    exec (.abandon ini) s = .next (s.orReg aQfaStat 0x800))

/-- What ends the loader's commands: checks, fetch, store, B0, APPLY, release point, uncorrectable error, and a re-pitch's stop edge, apply and first fire (11_quafa.md, R468; 11_quafa.md, R472 to R474; 11_quafa.md, R476 and R477; 11_quafa.md, R480 and R481; 11_quafa.md, R684). Where these bear on it, it rests on the model's choices of log entries 16, 120, 125, 126, 129, 148. -/
def Obligations.LoaderEventRows : Prop :=
  (∀ (s : State), s.loaderFree = true → s.stage ≠ 3 → s.qfa.phase = 2 ∨ s.qfa.phase = 3 →
    ∃ t, exec .checksComplete s = .next t ∧ t.mem = (wakeStaging s).mem ∧ t.setup = s.setup ∧
      (∀ e ∈ (wakeStaging s).checks, t.qfa.phase = 0 ∧ bit (t.reg aQfaStat) 9 = true ∧ fld (t.reg aQfaErr) 0 8 = e.code % 256) ∧
      ((wakeStaging s).checks = none → s.qfa.phase = 2 → t.qfa.phase = 0 ∧ bit (t.reg aQfaStat) 8 = true) ∧
      ((wakeStaging s).checks = none → s.qfa.phase = 3 → t.qfa.phase = 4 ∧ t.qfa.ready = true)) ∧
  (∀ (s : State), s.loaderFree = true → s.qfa.phase = 1 → ∀ r ∈ regionOf s.stgBase,
    ∃ t, exec .fetchComplete s = .next t ∧ t.qfa.phase = 0 ∧ bit (t.reg aQfaStat) 8 = true ∧ t.qfa.staged = some s.qfa.slot ∧
      ∀ a, t.byte a = if s.stgBase ≤ a ∧ a < s.stgBase + min (s.flash32 (s.trailer s.qfa.slot + 4)) s.stgSize
        then (s.flashBytes (s.slotOff s.qfa.slot + (a - s.stgBase)) 1).getD 0 0 else s.byte a) ∧
  (∀ (s : State), s.loaderFree = true → s.qfa.phase = 6 → bit (s.reg aSysFlashMode) 10 = false → 64 ≤ s.slotSize →
    ∃ t, exec .storeComplete s = .next t ∧ t.qfa.phase = 0 ∧ bit (t.reg aQfaStat) 8 = true ∧
      t.flashBytes (s.trailer s.qfa.slot + 0x3F) 1 = [0x5A] ∧ t.mem = (wakeStaging s).mem) ∧
  (∀ (s : State), s.b0Due = true →
    ∃ t, exec .pitchB0 s = .next t ∧ t.pwr.mode = .pitch ∧ t.qfa.phase = 5 ∧ t.setup = Setup.none ∧ (s.pwr.mode ≠ .neap → t.mem = (wakeStaging s).mem) ∧
      (∀ (k : Fin 144) (h : Fin 4), t.thread k h = Thread.reset) ∧ (∀ n : Fin 64, t.fry n = Ferry.reset) ∧
      t.reg aFrygFlag = 0 ∧ t.reg aFrygFlagHi = 0) ∧
  (∀ (s : State), s.loaderFree = true → s.qfa.phase = 5 → s.qfa.part = none →
    ∃ t, exec .applyEnd s = .next t ∧ t.qfa.phase = 0 ∧ t.qfa.release = true ∧ bit (t.reg aQfaStat) 8 = true ∧
      t.setup.parts = ((wakeStaging s).entries 1).map (fun e => (wakeStaging s).partEntry e.1) ∧
      t.reg aQfaVer = BitVec.ofNat 32 (wakeStaging s).imgVer ∧ t.reg aQfaHash = BitVec.ofNat 32 ((wakeStaging s).img32 0x10)) ∧
  (∀ (s : State) (us : Nat), s.pwr.mode = .pitch → s.qfa.release = true → s.atFrameBoundary = true →
      s.tide.stopped = false → bit (s.reg aBwtrStat) 0 = false → s.setup.parts.all (fun p => decide (p.part < 32)) = true →
    ∃ t, exec (.releasePoint us) s = .next t ∧ t.pwr.mode = .run ∧ t.qfa.release = false ∧
      ∀ p ∈ s.setup.parts, t.reg (aTideCmpCtl (224 + p.part)) = 0x32 ∧ (t.cmp (224 + p.part)).armed = true) ∧
  (∀ (s : State) (a : BitVec 44), s.loaderFree = true → s.stage ≠ 3 → s.qfa.phase = 2 ∨ s.qfa.phase = 3 ∨ s.qfa.phase = 5 →
    ∃ t, exec (.stagedReadUe a) s = .next t ∧ t.qfa.phase = 0 ∧ bit (t.reg aQfaStat) 9 = true ∧ fld (t.reg aQfaErr) 0 8 = 17 ∧
      (s.qfa.phase = 5 → s.qfa.part = none → bit (t.reg aSysMute) 0 = true)) ∧
  (∀ (s : State), ∀ n ∈ s.qfa.part, n < 32 → s.qfa.phase = 4 → s.qfa.ready = true → s.qfa.stopped = false → s.ptActive n = false →
      s.atFrameBoundary = true →
    ∃ t, exec .repitchStop s = .next t ∧ t.qfa.phase = 5 ∧ t.qfa.stopped = true ∧ s.ptActive n = false ∧
      t.reg (aTideCmpCtl (224 + n)) = 0 ∧ (t.pt n).inFrame = false) ∧
  (∀ (s : State), ∀ n ∈ s.qfa.part, s.qfa.phase = 5 → s.qfa.stopped = true → ∀ e ∈ ((wakeStaging s).entries 1).head?,
    ∃ t, exec .repitchApplyEnd s = .next t ∧ t.qfa.phase = 4 ∧ t.qfa.armed = true ∧
      t.reg (aTideCmpCtl (224 + ((wakeStaging s).partEntry e.1).part)) = 0x32) ∧
  (∀ (s : State), ∀ n ∈ s.qfa.part, n < 32 → s.loaderFree = true → s.qfa.phase = 4 → s.qfa.armed = true → s.qfa.stopped = true →
      s.counting = true → s.cmpMatches (224 + n) = true → (wakeStaging s).entries 1 ≠ [] →
    ∃ t, exec .repitchStart s = .next t ∧ t.qfa.phase = 0 ∧ bit (t.reg aQfaStat) 8 = true ∧
      t.reg aQfaVer = BitVec.ofNat 32 (wakeStaging s).imgVer)

/-- A SAP frame takes its period and writes the ended frame's input to the route's buffer; DOUT keeps to R500; missing frames, a lost clock and its return (12_serial_audio_ports.md, R489; 12_serial_audio_ports.md, R491 and R493; 12_serial_audio_ports.md, R495 and R496; 12_serial_audio_ports.md, R497 and R498; 12_serial_audio_ports.md, R500; 12_serial_audio_ports.md, R503 and R504). Where these bear on it, it rests on the model's choices of log entries 140, 141, 142, 147. -/
def Obligations.SapFrameRows : Prop :=
  (∀ (s : State) (n : Fin 64) (bclk : Nat) (din : List (Bool × Bool)), s.sapFrames n = true → bit (s.reg (aSapGrpCfg (n / 8))) 14 = true →
      (bit (s.reg (aSapGrpCfg (n / 8))) 11 = true → s.tide.phase = 0) → (s.sapMode = .zero → bit (s.reg (aSapGrpCfg (n / 8))) 11 = true) → s.sap.noClk.contains (n / 8) = false →
      ((s.port n).began = true → (s.port n).period ≠ s.nearPeriod) →
    ∃ t, exec (.sapFrame n bclk din) s = .next t ∧ (t.port n).began = true ∧ (t.port n).period = s.nearPeriod ∧ (t.port n).din = s.sapSamples n din ∧
      t.mem = s.mem ∧ (t.port n).dout.length = sapSlots (s.reg (aSapCfg n)) ∧
      ∀ j : Fin 32, j.val < sapSlots (s.reg (aSapCfg n)) →
        (bit (s.reg (aSapOutMask n)) j = false → (t.port n).dout[j.val]? = some (if bit (s.reg (aSapCfg n)) 16 then none else some 0)) ∧
        (bit (s.reg (aSapOutMask n)) j = true →
          s.sapMuted n = true ∨ s.sapMode = .zero ∨ (s.sapMode = .ramp ∧ (s.port n).ramp = none) ∨
            (s.sapMode = .routed ∧ bit (s.gateAt n s.nearPeriod) j = false) →
          (t.port n).dout[j.val]? = some (some 0))) ∧
  (∀ (s : State) (n : Fin 64) (din : List (Bool × Bool)), s.sapFrames n = true → bit (s.reg (aSapGrpCfg (n / 8))) 14 = true →
      bit (s.reg (aSapGrpCfg (n / 8))) 11 = false → s.sap.noClk.contains (n / 8) = false → s.sapMode = .routed →
      s.pwr.entering = none → (s.port n).began = true → (s.port n).discard = false → (s.port n).zeroed = false →
      s.nearPeriod = (s.port n).period + 1 →
      ∀ x ∈ (s.sap.routes.filter (fun x => decide (x.route.kind = 0) && decide (x.route.port = n.val))).head?,
      s.sap.routes.filter (fun x => decide (x.route.kind = 0) && decide (x.route.port = n.val)) = [x] → x.route.first ≤ x.route.last →
      ∀ pl ∈ x.place ((s.port n).period + 1),
      inBlock (x.route.addr + pl.1 * x.route.stride + pl.2 * (x.route.last - x.route.first + 1) * (x.route.width + 1))
        ((x.route.last - x.route.first + 1) * (x.route.width + 1)) = true →
    ∃ t, exec (.sapFrame n (s.grpF (n / 8)) din) s = .next t ∧ t.memc.reqs = s.memc.reqs ++ [{
      id := s.memc.nextId, ini := .route, kind := .store,
      addr := s.routeAddr (x.route.addr + pl.1 * x.route.stride + pl.2 * (x.route.last - x.route.first + 1) * (x.route.width + 1)),
      len := (x.route.last - x.route.first + 1) * (x.route.width + 1),
      data := (List.range (x.route.last - x.route.first + 1)).flatMap (fun j => leBytes (x.route.width + 1)
        (fryConvert (((s.port n).din.getD (x.route.first + j) 0).toNat % 2 ^ sapBits (fld (s.reg (aSapCfg n)) 10 2))
          (sapBits (fld (s.reg (aSapCfg n)) 10 2)) (8 * (x.route.width + 1)) x.route.just true)),
      cst := 0, cls := 3, here := false, mask := none, st := .waiting }]) ∧
  (∀ (s : State) (r : Nat), s.fclkRuns = true → ∀ x ∈ s.sap.routes[r]?, x.route.kind = 1 → x.live = true → s.sapMode = .routed → s.sap.gets = [] →
      (s.outPlace x (s.tide.count.toNat + 1)).2.2.2.1 = false → (s.outPlace x (s.tide.count.toNat + 1)).2.2.2.2 = false →
      s.tide.count.toNat + 1 < x.start + x.len → x.route.first ≤ x.route.last →
      ∀ h ∈ [(s.outPlace x (s.tide.count.toNat + 1)).2.2.1],
    ∃ t, exec (.sapOutputRead r) s = .next t ∧ t.sap.gets ≠ [] ∧ (t.memc.reqs.drop s.memc.reqs.length).head?.map (fun q => (q.kind, q.addr)) =
      some (.load, s.routeAddr (s.outAddr x h (s.outPlace x (s.tide.count.toNat + 1)).1 (x.route.last - x.route.first + 1) (x.route.width + 1)))) ∧
  (∀ (s : State), ∀ p ∈ s.sap.puts, p.kind = 0 → s.sap.puts = [p] → p.port < 64 → ∀ st ∈ s.reqSt? p.id, st = .done [] ∨ st = .failed true →
    ∃ t, exec (.sapInputWriteAck p.id) s = .next t ∧ t.sap.puts = [] ∧ t.reg (aSapLast p.port) = BitVec.ofNat 32 p.period ∧
      (p.final = true → bit (t.reg (aSapStat p.port)) 8 = true) ∧
      (st = .failed true → bit (t.reg (aSapStat p.port)) 12 = true ∧
        t.reg (aSapDrop p.port) = (s.incFld (aSapDrop p.port) 0 16 (p.n + b2n p.tail)).reg (aSapDrop p.port))) ∧
  (∀ (s : State) (n : Fin 64) (din : List (Bool × Bool)), s.sapFrames n = true → bit (s.reg (aSapGrpCfg (n / 8))) 14 = true →
      bit (s.reg (aSapGrpCfg (n / 8))) 11 = false → s.sap.noClk.contains (n / 8) = false → (s.port n).began = true → s.sapMode ≠ .zero →
    ∃ t, exec (.frameMissing n din) s = .next t ∧ (t.port n).missing = (s.port n).missing + 1 ∧ (t.port n).began = true ∧
      (3 ≤ (s.port n).missing → (t.port n).lost = true ∧ ((s.port n).lost = false → bit (t.reg (aSapStat n)) 10 = true))) ∧
  (∀ (s : State) (n : Fin 64) (bclk : Nat) (din : List (Bool × Bool)), bit (s.reg (aSapGrpCfg (n / 8))) 14 = true →
      bit (s.reg (aSapGrpCfg (n / 8))) 11 = false → s.sap.noClk.contains (n / 8) = false → s.sapMode = .zero →
    ∃ t, exec (.sapFrame n bclk din) s = .next t ∧ t.regs = s.regs ∧ (t.port n).began = false ∧ t.memc = s.memc) ∧
  (∀ (s : State) (g : Fin 8), bit (s.reg (aSapGrpCfg g)) 14 = true → bit (s.reg (aSapGrpCfg g)) 11 = false →
    (s.sap.noClk.contains g.val = false → s.sapMode ≠ .zero → ∃ t, exec (.bclkLost g) s = .next t ∧ t.sap.noClk.contains g.val = true ∧
      bit (t.reg (aSapGrpStat g)) 8 = true ∧ bit (t.reg (aSapGrpStat g)) 0 = false ∧
      ∀ i : Fin 8, bit (s.reg (aSapCfg (8 * g + i))) 0 = true → bit (t.reg (aSapStat (8 * g + i))) 14 = true) ∧
    (∃ t, exec (.bclkReturn g) s = .next t ∧ t.sap.noClk.contains g.val = false ∧ bit (t.reg (aSapGrpStat g)) 0 = true))

/-- The writes of SAP_GRPg_CFG, SAPn_CFG and SAPn_GATE, and the start of a port (12_serial_audio_ports.md, R487; 12_serial_audio_ports.md, R485 and R488; 12_serial_audio_ports.md, R501; 12_serial_audio_ports.md, Table 12-3). -/
def Obligations.SapConfigurationRows : Prop :=
  (∀ (s : State) (g : Fin 8) (v : Word), bit (s.reg (aSapGrpCfg g)) 14 = true → (s.reg (aSapGrpCfg g) ^^^ (v &&& 0x77FFF)) &&& 0x71FFF ≠ 0 →
    exec (.sapGrpCfgWrite g v) s = .next (s.orReg (aSapGrpStat g) 0x200)) ∧
  (∀ (s : State) (g : Fin 8) (v : Word), bit (s.reg (aSapGrpCfg g)) 14 = false → bit v 14 = false →
    ∃ t, exec (.sapGrpCfgWrite g v) s = .next t ∧ t.reg (aSapGrpCfg g) = v &&& 0x77FFF) ∧
  (∀ (s : State) (g : Fin 8) (v : Word), bit (s.reg (aSapGrpCfg g)) 14 = false → bit v 14 = true →
    (if grpCfgOk s.rate (v &&& 0x77FFF) = true ∧ (∀ i : Fin 8, bit (s.reg (aSapCfg (8 * g + i))) 0 = true →
        sapCfgOk (s.reg (aSapCfg (8 * g + i))) (fld v 0 11) = true) then
      exec (.sapGrpCfgWrite g v) s = .next (s.setReg (aSapGrpCfg g) (v &&& 0x77FFF))
    else exec (.sapGrpCfgWrite g v) s = .next (s.orReg (aSapGrpStat g) 0x200))) ∧
  (∀ (s : State) (n : Fin 64) (v : Word), sapReserved v = true → exec (.sapCfgWrite n v) s = .next (s.orReg (aSapStat n) 0x8000)) ∧
  (∀ (s : State) (n : Fin 64) (v : Word), sapReserved v = false → bit (s.reg (aSapCfg n)) 0 = true →
      s.reg (aSapCfg n) &&& 0x1FFFE ≠ v &&& 0x1FFFE → exec (.sapCfgWrite n v) s = .next (s.orReg (aSapStat n) 0x8000)) ∧
  (∀ (s : State) (n : Fin 64) (v : Word), sapReserved v = false → bit (s.reg (aSapCfg n)) 0 = false →
      bit v 0 = false ∨ sapCfgOk (v &&& 0x1FFFF) (s.grpF (n / 8)) = true →
    exec (.sapCfgWrite n v) s = .next (s.setReg (aSapCfg n) (v &&& 0x1FFFF))) ∧
  (∀ (s : State) (n : Fin 64) (v : Word), exec (.sapGateWrite n v) s = .next (sapRegate n (s.slotsAhead n) ((s.setReg (aSapGate n) v).onPort n (fun p => { p with gated := [] })))) ∧
  (∀ (s : State) (n : Fin 64), bit (s.reg (aSapGrpCfg (n / 8))) 14 = true → bit (s.reg (aSapCfg n)) 0 = true → s.tide.phase = 0 → s.sapMode ≠ .off → s.sapMode ≠ .low →
    ∃ t, exec (.sapPortStart n) s = .next t ∧ bit (t.reg (aSapStat n)) 0 = true)

/-- A link draws its nonce and trains when enabled; training ends REFUSED with the reason of the first failed check or UP; a failure retrains with the replay held (13_strand_camps.md, R511 and R512; 13_strand_camps.md, R513 and R514; 13_strand_camps.md, R515; 13_strand_camps.md, R517 and R518; 13_strand_camps.md, R523; 13_strand_camps.md, R534; 13_strand_camps.md, R540 and R541). Where these bear on it, it rests on the model's choices of log entries 9, 152, 229. -/
def Obligations.StrandTrainingRows : Prop :=
  (∀ (s : State) (n : Fin 8), bit (s.reg (aStrCtl n)) 0 = false →
    ∃ t, exec (.linkEnable n) s = .next t ∧ bit (t.reg (aStrCtl n)) 0 = true ∧ t.reg (aStrNonceLo n) = loW (Config.randomDraw s.draws) ∧
      t.reg (aStrNonceHi n) = hiW (Config.randomDraw s.draws) ∧ t.draws = s.draws + 1 ∧ t.linkSt n = 1) ∧
  (∀ (s : State) (n : Fin 8), bit (s.reg (aStrCtl n)) 0 = true →
    (∃ t, exec (.linkRetrain n) s = .next t ∧ t.linkSt n = 1 ∧ t.reg (aStrNonceLo n) = s.reg (aStrNonceLo n) ∧ t.draws = s.draws) ∧
    (s.linkSt n = 4 → ∃ t, exec (.strandSignalReturn n) s = .next t ∧ t.linkSt n = 1)) ∧
  (∀ (s : State) (n : Fin 8) (far : FarEnd), s.linkSt n = 1 ∨ s.linkSt n = 3 →
      far.ver ≠ 1 ∨ far.feats ≠ ownFeats ∨ far.camp.toNat ≠ fld (s.reg aCampCfg) 16 16 ∨ far.dev.val = fld (s.reg aSysStrap) 2 3 ∨
        s.strMode n far = none ∨ strFec (fld (s.reg (aStrCap n)) 4 2) (fld far.cap 4 2) = none →
    ∃ t, exec (.trainingEnd n far) s = .next t ∧ t.linkSt n = 4 ∧ bit (t.reg (aStrStat n)) 11 = true ∧ bit (t.reg (aStrPeer n)) 3 = false ∧
      fld (t.reg (aStrStat n)) 4 4 = (if far.ver ≠ 1 then 1 else if far.feats ≠ ownFeats then 2 else
        if far.camp.toNat ≠ fld (s.reg aCampCfg) 16 16 then 3 else if far.dev.val = fld (s.reg aSysStrap) 2 3 then 4 else
        if s.strMode n far = none then 6 else 5)) ∧
  (∀ (s : State) (n : Fin 8) (far : FarEnd), s.linkSt n = 1 ∨ s.linkSt n = 3 →
      far.ver = 1 → far.feats = ownFeats → far.camp.toNat = fld (s.reg aCampCfg) 16 16 → far.dev.val ≠ fld (s.reg aSysStrap) 2 3 →
      ∀ m ∈ s.strMode n far, ∀ fec ∈ strFec (fld (s.reg (aStrCap n)) 4 2) (fld far.cap 4 2),
    ∃ t, exec (.trainingEnd n far) s = .next t ∧ t.linkSt n = 2 ∧ fld (t.reg (aStrMode n)) 0 2 = m.1 ∧ bit (t.reg (aStrMode n)) 2 = m.2.1 ∧
      bit (t.reg (aStrMode n)) 3 = fec ∧ fld (t.reg (aStrPeer n)) 0 3 = far.dev.val ∧ bit (t.reg (aStrPeer n)) 3 = true ∧
      t.reg (aStrPeerNonceLo n) = loW far.nonce ∧ t.reg (aStrPeerNonceHi n) = hiW far.nonce ∧
      (t.link n).mgmtQ.getLast? = some (padBody [4]) ∧ (t.link n).delay = true ∧
      (if s.reg (aStrMode n) = 0 then
        (t.link n).txs = (s.link n).txs ∧ (t.link n).postQ = (s.link n).postQ ∧ (t.link n).npQ = (s.link n).npQ ∧
          t.reg (aStrEpoch n) = s.reg (aStrEpoch n)
      else if (s.link n).kept = true ∧ s.reg (aStrPeerNonceLo n) = loW far.nonce ∧ s.reg (aStrPeerNonceHi n) = hiW far.nonce then
        (t.link n).txs = (s.link n).txs ∧ (t.link n).seq = (s.link n).seq ∧ t.reg (aStrEpoch n) = s.reg (aStrEpoch n) ∧
          ∀ f ∈ (t.link n).replay, f ∈ (s.link n).replay
      else (t.link n).txs = [] ∧ (t.link n).replay = [] ∧ (t.link n).seq = 0 ∧ (t.link n).expect = 0 ∧
        t.reg (aStrEpoch n) = (s.reg (aStrEpoch n) + 1) &&& 0xFF ∧ bit (t.reg (aStrStat n)) 10 = true ∧
        ∀ x ∈ (s.link n).txs, t.reqSt? x.req = (s.reqSt? x.req).map (fun _ => .failed false))) ∧
  (∀ (s : State) (n : Fin 8), s.linkUp n = true →
    (∃ t, exec (.laneLockLoss n) s = .next t ∧ t.linkSt n = 3 ∧ bit (t.reg (aStrStat n)) 9 = true ∧
      t.reg (aStrFail n) = (s.incSat (aStrFail n)).reg (aStrFail n) ∧ (t.link n).replay = (s.link n).replay ∧
      t.reg aCkpXlast = BitVec.ofNat 32 (29 + n.val) ∧ ∀ x ∈ (t.link n).txs, x.left = true) ∧
    ((s.link n).replay ≠ [] → ∃ t, exec (.linkBudgetExpire n) s = .next t ∧ t.linkSt n = 3 ∧ bit (t.reg (aStrStat n)) 9 = true ∧
      t.reg (aStrFail n) = (s.incSat (aStrFail n)).reg (aStrFail n) ∧ (t.link n).replay = (s.link n).replay)) ∧
  (∀ (s : State) (n : Fin 8) (far : FarEnd) (q j : Nat), s.linkSt n = 1 ∨ s.linkSt n = 3 →
      far.ver = 1 → far.feats = ownFeats → far.camp.toNat = fld (s.reg aCampCfg) 16 16 → far.dev.val ≠ fld (s.reg aSysStrap) 2 3 →
      s.reg (aStrMode n) ≠ 0 → (s.strMode n far).isSome = true → (strFec (fld (s.reg (aStrCap n)) 4 2) (fld far.cap 4 2)).isSome = true →
      (s.link n).kept = true → s.reg (aStrPeerNonceLo n) = loW far.nonce → s.reg (aStrPeerNonceHi n) = hiW far.nonce →
      (s.link n).replay.length ≤ 256 → j ≤ (s.link n).replay.length →
      (s.link n).replay.map (fun f => f.seq) = (List.range (s.link n).replay.length).map (fun i => (q + i) % 4096) →
      far.next.val = (q + j) % 4096 →
    ∃ t, exec (.trainingEnd n far) s = .next t ∧ (t.link n).replay = (s.link n).replay.drop j ∧
      (t.link n).resend = (s.link n).replay.length - j ∧ (t.link n).txs = (s.link n).txs)

/-- What one end sends the other takes in order; a corrupted or skipped flit asks for a replay; a full replay buffer sends idle flits; the send order of R527 (13_strand_camps.md, R519; 13_strand_camps.md, R520; 13_strand_camps.md, R522 and R523; 13_strand_camps.md, R524; 13_strand_camps.md, R527; 13_strand_camps.md, Table 13-3). Where these bear on it, it rests on the model's choices of log entry 162. -/
def Obligations.FlitRows : Prop :=
  (∀ (s : State) (n : Fin 8) (p : Link) (kind vc corr uncorr : Nat) (body : List Byte), s.linkUp n = true → 1 ≤ kind → kind ≤ 3 → vc < 3 →
      flitKnown kind vc (padBody body) = true → p.expect < 4096 → p.nakDue = false → p.got = false → p.freed.1 < 256 → p.freed.2.1 < 256 →
      p.freed.2.2 < 4096 → (s.link n).expect < 4096 →
    ∃ t, exec (.flitReceive n ⟨flitBytes p (s.link n).expect kind vc (padBody body), corr, uncorr⟩) s = .next t ∧
      (t.link n).rx = (s.link n).rx ++ [(kind, vc, padBody body)] ∧ (t.link n).expect = ((s.link n).expect + 1) % 4096 ∧
      (t.link n).cr = p.freed ∧ (t.link n).replay = (s.link n).replay ∧
      (bit (s.reg (aStrMode n)) 3 = true → t.reg (aStrFecCorr n) = BitVec.ofNat 32 (min 0xFFFFFFFF ((s.reg (aStrFecCorr n)).toNat + corr)) ∧
        t.reg (aStrFecUncorr n) = BitVec.ofNat 32 (min 0xFFFFFFFF ((s.reg (aStrFecUncorr n)).toNat + uncorr)))) ∧
  (∀ (s : State) (n : Fin 8) (bs : List Byte) (corr uncorr : Nat), s.linkUp n = true → bs.length = 64 → (s.link n).discard = false →
      BitVec.ofNat 32 (leNat (bs.drop 60)) ≠ crc32c 0xFFFFFFFF (bs.take 60) ^^^ 0xFFFFFFFF →
    ∃ t, exec (.flitReceive n ⟨bs, corr, uncorr⟩) s = .next t ∧ t.reg (aStrCrcerr n) = (s.incSat (aStrCrcerr n)).reg (aStrCrcerr n) ∧
      (t.link n).nakDue = true ∧ (t.link n).rx = (s.link n).rx ∧ (t.link n).expect = (s.link n).expect) ∧
  (∀ (s : State) (n : Fin 8) (p : Link) (kind vc seq corr uncorr : Nat) (body : List Byte), s.linkUp n = true → 1 ≤ kind → kind ≤ 3 → vc < 3 →
      p.expect < 4096 → p.nakDue = false → p.got = false → p.freed.1 < 256 → p.freed.2.1 < 256 → p.freed.2.2 < 4096 →
      seq < 4096 → seq ≠ (s.link n).expect → (s.link n).discard = false →
    ∃ t, exec (.flitReceive n ⟨flitBytes p seq kind vc (padBody body), corr, uncorr⟩) s = .next t ∧ (t.link n).nakDue = true ∧
      (t.link n).rx = (s.link n).rx ∧ (t.link n).expect = (s.link n).expect ∧ (t.link n).cr = (s.link n).cr ∧
      (t.link n).replay = (s.link n).replay) ∧
  (∀ (s : State) (n : Fin 8), s.linkUp n = true →
    (0 < (s.link n).resend → ∀ f ∈ (s.link n).replay[(s.link n).replay.length - (s.link n).resend]?,
      ∃ t, exec (.flitSend n) s = .next t ∧ (t.link n).out = flitBytes (s.link n) f.seq f.kind f.vc f.body ∧
        (t.link n).resend = (s.link n).resend - 1 ∧ (t.link n).replay = (s.link n).replay ∧ (t.link n).seq = (s.link n).seq) ∧
    ((s.link n).resend = 0 → 256 ≤ (s.link n).replay.length →
      ∃ t, exec (.flitSend n) s = .next t ∧ (t.link n).out = flitBytes (s.link n) (s.link n).seq 0 0 (List.replicate 52 0) ∧
        (t.link n).seq = (s.link n).seq ∧ (t.link n).replay = (s.link n).replay)) ∧
  (∀ (s : State) (n : Fin 8), s.linkUp n = true → (s.link n).resend = 0 → (s.link n).replay.length < 256 →
    (∀ b ∈ (s.link n).mgmtQ.head?, ∃ t, exec (.flitSend n) s = .next t ∧ (t.link n).out = flitBytes (s.link n) (s.link n).seq 3 0 (s.stamp 3 b) ∧
      (t.link n).mgmtQ = (s.link n).mgmtQ.tail ∧ (t.link n).seq = ((s.link n).seq + 1) % 4096 ∧
      (t.link n).replay = (s.link n).replay ++ [{ seq := (s.link n).seq, kind := 3, vc := 0, body := s.stamp 3 b }]) ∧
    (∀ b : List Byte, b.headD 0 ≠ 2 → s.stamp 3 b = b) ∧
    (∀ b : List Byte, b.headD 0 = 2 → s.stamp 3 b = b.take 9 ++ leBytes 6 s.tide.count.toNat ++ leBytes 4 s.tide.phase.toNat ++ b.drop 19) ∧
    ((s.link n).mgmtQ = [] → ∀ b ∈ (s.link n).streamQ.head?, ∃ t, exec (.flitSend n) s = .next t ∧
      (t.link n).out = flitBytes (s.link n) (s.link n).seq 2 0 b ∧ (t.link n).streamQ = (s.link n).streamQ.tail) ∧
    ((s.link n).mgmtQ = [] → (s.link n).streamQ = [] → (s.link n).cplQ = [] → ∀ x ∈ (s.link n).postQ.head?, ∀ y ∈ (s.link n).npQ.head?,
      (x.ord < y.ord → ∃ t, exec (.flitSend n) s = .next t ∧ (t.link n).npQ.map (fun q => q.body) = (s.link n).npQ.map (fun q => q.body)) ∧
      (y.ord < x.ord → 16 ≤ y.waited → ((s.link n).sent.2.1 + 256 - (s.link n).cr.2.1) % 256 < 64 →
        ∃ t, exec (.flitSend n) s = .next t ∧ (t.link n).out = flitBytes (s.link n) (s.link n).seq 1 1 y.body ∧
          (t.link n).npQ = (s.link n).npQ.tail ∧ (t.link n).postQ = (s.link n).postQ))) ∧
  (∀ (s : State) (n : Fin 8), s.linkUp n = true → (s.link n).replay ≠ [] →
    ∃ t, exec (.replayTimeout n) s = .next t ∧ (t.link n).replay = (s.link n).replay ∧ (t.link n).resend = (s.link n).replay.length ∧
      t.reg (aStrReplay n) = (s.incSat (aStrReplay n)).reg (aStrReplay n) ∧ t.linkSt n = (if 7 ≤ (s.link n).replays then 3 else 2))

/-- A served read answers the bytes of memory, a served write stores its bytes; answers end the transaction of their tag, late ones count, timeouts free the tag (07_memory.md, R299; 13_strand_camps.md, R525; 13_strand_camps.md, R529; 13_strand_camps.md, R530 and R531; 13_strand_camps.md, R532 and R533; 13_strand_camps.md, Table 13-4; 07_memory.md, R326). Where these bear on it, it rests on the model's choices of log entries 16, 150, 151. -/
def Obligations.TransactionRows : Prop :=
  (∀ (s : State) (n : Fin 8) (ecc : EccHit), ueHit ecc = false → ∀ e ∈ (s.link n).rx.head?, e.1 = 1 → e.2.1 = 1 → (e.2.2.headD 0).toNat % 16 = 0 →
    (bit (s.reg aMemcRmtCfg) 0 = true → s.campPass (txFld e.2.2 16 3) = true → s.fabricIdle = true →
      0 < (maskSpan (leNat ((e.2.2.drop 48).take 4))).2 →
      ∀ x ∈ plainAddr (s.access false false (txFld e.2.2 24 35 * 32 + (maskSpan (leNat ((e.2.2.drop 48).take 4))).1)
        ((maskSpan (leNat ((e.2.2.drop 48).take 4))).2 - (maskSpan (leNat ((e.2.2.drop 48).take 4))).1)),
      plainAddr (ownTarget (txFld e.2.2 24 35 * 32 + (maskSpan (leNat ((e.2.2.drop 48).take 4))).1)) = some x →
      s.awake (s.access false false (txFld e.2.2 24 35 * 32 + (maskSpan (leNat ((e.2.2.drop 48).take 4))).1)
        ((maskSpan (leNat ((e.2.2.drop 48).take 4))).2 - (maskSpan (leNat ((e.2.2.drop 48).take 4))).1)) = true →
      ∃ t, exec (.rd n ecc) s = .next t ∧ t.mem = s.mem ∧ (t.link n).rx = (s.link n).rx.tail ∧
        (t.link n).cplQ.map (fun q => q.body) = (s.link n).cplQ.map (fun q => q.body) ++
          [txBody 2 (txFld e.2.2 4 8) (txFld e.2.2 12 4) s.ownId (txFld e.2.2 16 3) (txFld e.2.2 24 35) 0 (txFld e.2.2 72 7) (txFld e.2.2 79 2)
            (txFld e.2.2 81 2) ((List.replicate (maskSpan (leNat ((e.2.2.drop 48).take 4))).1 0 ++
              s.bytes x ((maskSpan (leNat ((e.2.2.drop 48).take 4))).2 - (maskSpan (leNat ((e.2.2.drop 48).take 4))).1) ++
              List.replicate 32 0).take 32) (leNat ((e.2.2.drop 48).take 4))]) ∧
    (bit (s.reg aMemcRmtCfg) 0 = false → ∃ t, exec (.rd n ecc) s = .next t ∧ t.mem = s.mem ∧
      (t.link n).cplQ.map (fun q => q.body) = (s.link n).cplQ.map (fun q => q.body) ++
        [txBody 2 (txFld e.2.2 4 8) (txFld e.2.2 12 4) s.ownId (txFld e.2.2 16 3) (txFld e.2.2 24 35) 3 (txFld e.2.2 72 7) (txFld e.2.2 79 2)
          (txFld e.2.2 81 2) [] (leNat ((e.2.2.drop 48).take 4))])) ∧
  (∀ (s : State) (n : Fin 8) (ecc : EccHit), ueHit ecc = false → ∀ e ∈ (s.link n).rx.head?, e.1 = 1 → e.2.1 = 0 → (e.2.2.headD 0).toNat % 16 = 1 →
    (bit (s.reg aMemcRmtCfg) 0 = true → s.campPass (txFld e.2.2 16 3) = true → s.fabricIdle = true →
      s.stagingHeld = false → 0 < (maskSpan (leNat ((e.2.2.drop 48).take 4))).2 → 48 ≤ e.2.2.length →
      ∀ x ∈ plainAddr (s.access false true (txFld e.2.2 24 35 * 32 + (maskSpan (leNat ((e.2.2.drop 48).take 4))).1)
        ((maskSpan (leNat ((e.2.2.drop 48).take 4))).2 - (maskSpan (leNat ((e.2.2.drop 48).take 4))).1)),
      plainAddr (ownTarget (txFld e.2.2 24 35 * 32 + (maskSpan (leNat ((e.2.2.drop 48).take 4))).1)) = some x →
      s.awake (s.access false true (txFld e.2.2 24 35 * 32 + (maskSpan (leNat ((e.2.2.drop 48).take 4))).1)
        ((maskSpan (leNat ((e.2.2.drop 48).take 4))).2 - (maskSpan (leNat ((e.2.2.drop 48).take 4))).1)) = true →
      ∃ t, exec (.wr n ecc) s = .next t ∧
        (∀ a, t.byte a = if x ≤ a ∧ a < x + ((maskSpan (leNat ((e.2.2.drop 48).take 4))).2 - (maskSpan (leNat ((e.2.2.drop 48).take 4))).1) ∧
            (leNat ((e.2.2.drop 48).take 4)).testBit ((maskSpan (leNat ((e.2.2.drop 48).take 4))).1 + (a - x)) = true then
          e.2.2.getD (16 + (maskSpan (leNat ((e.2.2.drop 48).take 4))).1 + (a - x)) 0 else s.byte a) ∧
        (t.link n).cplQ.map (fun q => q.body) = (s.link n).cplQ.map (fun q => q.body) ++
          [txBody 3 0 0 s.ownId (txFld e.2.2 16 3) 0 0 0 0 0 (leBytes 2 (txFld e.2.2 4 8 + txFld e.2.2 12 4 * 2 ^ 8 + 2 ^ 15)) 0]) ∧
    (bit (s.reg aMemcRmtCfg) 0 = false → ∃ t, exec (.wr n ecc) s = .next t ∧ t.mem = s.mem ∧
      (t.link n).cplQ.map (fun q => q.body) = (s.link n).cplQ.map (fun q => q.body) ++
        [txBody 4 (txFld e.2.2 4 8) (txFld e.2.2 12 4) s.ownId (txFld e.2.2 16 3) (txFld e.2.2 24 35) 3 (txFld e.2.2 72 7) (txFld e.2.2 79 2)
          (txFld e.2.2 81 2) [] (leNat ((e.2.2.drop 48).take 4))])) ∧
  (∀ (s : State) (n : Fin 8), ∀ e ∈ (s.link n).rx.head?, e.1 = 1 → e.2.1 = 2 →
    ((e.2.2.headD 0).toNat % 16 = 2 → ∀ x ∈ (s.link n).txs.find? (fun x => decide (x.tag = txFld e.2.2 4 8)),
      txFld e.2.2 12 4 = smGet (fun _ => 0) (s.link n).epochs x.tag → txFld e.2.2 64 8 = 0 →
      ∃ t, exec (.cpl n) s = .next t ∧ (t.link n).txs = (s.link n).txs.filter (fun y => decide (y.tag ≠ x.tag)) ∧
        t.memc.reqs = (s.gathered x.req x.len (((e.2.2.drop 16).drop (x.addr % 32)).take x.len)).memc.reqs) ∧
    ((e.2.2.headD 0).toNat % 16 = 4 → ∀ x ∈ (s.link n).txs.find? (fun x => decide (x.tag = txFld e.2.2 4 8)),
      txFld e.2.2 12 4 = smGet (fun _ => 0) (s.link n).epochs x.tag → x.wr = true → (s.link n).wfq.length < 32 →
      ∃ t, exec (.pwfn n) s = .next t ∧ (t.link n).txs = (s.link n).txs.filter (fun y => decide (y.tag ≠ x.tag)) ∧
        (t.link n).wfq = (s.link n).wfq ++ [wfqEnt x.member x.addr x.len (max 1 (txFld e.2.2 64 8)) x.tag x.iid x.ithr x.ikind] ∧
        bit (t.reg (aStrStat n)) 14 = true ∧
        t.reqSt? x.req = (s.reqSt? x.req).map (fun _ => .failed (decide (max 1 (txFld e.2.2 64 8) = 2)))) ∧
    ((e.2.2.headD 0).toNat % 16 = 2 → txFld e.2.2 12 4 ≠ smGet (fun _ => 0) (s.link n).epochs (txFld e.2.2 4 8) →
      ∃ t, exec (.cpl n) s = .next t ∧ t.reg (aStrLate n) = (s.incSat (aStrLate n)).reg (aStrLate n) ∧ bit (t.reg (aStrStat n)) 13 = true ∧
        (t.link n).txs = (s.link n).txs ∧ t.memc = s.memc)) ∧
  (∀ (s : State) (n : Fin 8), ∀ e ∈ (s.link n).rx.head?, e.1 = 1 → e.2.1 = 2 → (e.2.2.headD 0).toNat % 16 = 3 →
      leNat (e.2.2.drop 18) = 0 → (leNat ((e.2.2.drop 16).take 2)).testBit 15 = true →
      ∀ x ∈ (s.link n).txs.find? (fun x => decide (x.tag = leNat ((e.2.2.drop 16).take 2) % 256)),
      leNat ((e.2.2.drop 16).take 2) / 256 % 16 = smGet (fun _ => 0) (s.link n).epochs x.tag → x.wr = true →
    ∃ t, exec (.wack n) s = .next t ∧ (t.link n).txs = (s.link n).txs.filter (fun y => decide (y.tag ≠ x.tag)) ∧
      t.memc.reqs = (s.gathered x.req x.len []).memc.reqs) ∧
  (∀ (s : State) (n : Fin 8) (tag : Fin 256), ∀ x ∈ (s.link n).txs.find? (fun x => decide (x.tag = tag.val)),
    (x.left = true → ∃ t, exec (.transactionTimeout n tag) s = .next t ∧ (∀ y ∈ (t.link n).txs, y.tag ≠ tag.val) ∧
      smGet (fun _ => 0) (t.link n).epochs tag = (smGet (fun _ => 0) (s.link n).epochs tag + 1) % 16 ∧ bit (t.reg (aStrStat n)) 12 = true ∧
      t.reqSt? x.req = (s.reqSt? x.req).map (fun _ => .failed false) ∧
      (x.wr = true → (s.link n).wfq.length < 32 →
        (t.link n).wfq = (s.link n).wfq ++ [wfqEnt x.member x.addr x.len 4 tag x.iid x.ithr x.ikind])) ∧
    (x.left = false → exec (.transactionTimeout n tag) s = .next s)) ∧
  (∀ (s : State) (n : Fin 8), ∃ t, exec (.wfqPop n) s = .next t ∧ (t.link n).wfq = (s.link n).wfq.tail ∧ t.regs = s.regs) ∧
  (∀ (s : State) (n : Fin 8) (v : Word),
    if fld v 0 16 < 64 then exec (.strTtoWrite n v) s = .next (s.orReg (aStrStat n) 0x80000)
    else exec (.strTtoWrite n v) s = .next (s.setReg (aStrTto n) (v &&& 0xFFFF)))

/-- Stream blocks leave and arrive as R535 to R539 say; HELLO and BEACON choose the keeper, admit and quarantine; a lost member leaves the map; envelopes gather (13_strand_camps.md, R535 and R536; 13_strand_camps.md, R537 and R539; 13_strand_camps.md, R540 and R541; 13_strand_camps.md, R542; 13_strand_camps.md, R545; 13_strand_camps.md, R547 and R548; 13_strand_camps.md, R549; 13_strand_camps.md, Table 13-7; 15_commands_journal.md, R589). Where these bear on it, it rests on the model's choices of log entries 153, 157, 158, 159, 160. -/
def Obligations.StreamAndCampRows : Prop :=
  (∀ (s : State) (r : Nat), ∀ x ∈ s.sap.routes[r]?, ∀ p ∈ s.part? x.route.part, x.route.kind = 3 → x.live = true → x.first ≠ s.sentMark x →
      s.bothAdmitted (fld (s.reg (aStrPeer (x.route.port % 8))) 0 3) = true →
    ((s.pt p.part).inFrame = false ∨ (s.pt p.part).committed = true ∧ bit (s.reg (aBwtrPtCwHi p.part)) 2 = true →
      ∃ t, exec (.streamBlockSend r) s = .next t ∧ (t.link (x.route.port % 8)).streamQ = (s.link (x.route.port % 8)).streamQ ++
        [streamBody x.route.stream 0 true (s.streamFrame p (s.framesGone x)) []]) ∧
    ((s.pt p.part).inFrame = true → (s.pt p.part).committed = true → bit (s.reg (aBwtrPtCwHi p.part)) 2 = false →
      (List.range (streamFlits x.route.stride)).all (fun i => (s.routeRead ((if x.route.half then p.ebbBase (s.ptEbb p.part) else 0) +
        x.route.addr + 48 * i) (min 48 (x.route.stride - 48 * i))).isSome) = true →
      ∃ t, exec (.streamBlockSend r) s = .next t ∧ (t.link (x.route.port % 8)).streamQ = (s.link (x.route.port % 8)).streamQ ++
        (List.range (streamFlits x.route.stride)).map (fun i => streamBody x.route.stream i false (s.streamFrame p (s.framesGone x))
          ((s.routeRead ((if x.route.half then p.ebbBase (s.ptEbb p.part) else 0) + x.route.addr + 48 * i)
            (min 48 (x.route.stride - 48 * i))).getD [])))) ∧
  (∀ (s : State) (n : Fin 8), ∀ e ∈ (s.link n).rx.head?, e.1 = 2 → s.bothAdmitted (fld (s.reg (aStrPeer n)) 0 3) = true →
      ∀ x ∈ s.strRoute n (leNat (e.2.2.take 4) % 256), (s.strBlk n (leNat (e.2.2.take 4) % 256)).closed = false →
      (s.strBlk n (leNat (e.2.2.take 4) % 256)).flits = [] →
      (s.link n).blocks.foldl (fun a b => a + b.flits.length) 0 < 64 → leNat (e.2.2.take 4) / 2 ^ 8 % 128 = 0 → 52 ≤ e.2.2.length →
      s.flitLate x (leNat (e.2.2.take 4) / 2 ^ 16 % 65536) = false → 0 < x.route.stride → x.route.stride ≤ 48 →
    ∃ t, exec (.streamFlit n) s = .next t ∧ (t.strBlk n (leNat (e.2.2.take 4) % 256)).closed = true ∧
      t.memc.reqs.take s.memc.reqs.length = s.memc.reqs ∧
      ((t.memc.reqs.drop s.memc.reqs.length).head?.map (fun q => (q.ini, q.kind, q.addr))) =
        some (.route, .store, s.routeAddr (x.route.addr + x.idx * x.route.stride)) ∧
      (t.memc.reqs.drop s.memc.reqs.length).flatMap (fun q => q.data) =
        (if leNat (e.2.2.take 4) / 2 ^ 15 % 2 = 1 then List.replicate x.route.stride 0 else (e.2.2.drop 4).take x.route.stride) ∧
      fld (t.reg (aStrSlast n)) 0 16 = leNat (e.2.2.take 4) / 2 ^ 16 % 65536 ∧
      bit (t.reg (aStrSlast n)) 16 = decide (leNat (e.2.2.take 4) / 2 ^ 15 % 2 = 1)) ∧
  (∀ (s : State) (n : Fin 8), ∀ e ∈ (s.link n).rx.head?, e.1 = 2 → s.bothAdmitted (fld (s.reg (aStrPeer n)) 0 3) = true →
      ∀ x ∈ s.strRoute n (leNat (e.2.2.take 4) % 256), (s.strBlk n (leNat (e.2.2.take 4) % 256)).closed = true ∨
        s.flitLate x (leNat (e.2.2.take 4) / 2 ^ 16 % 65536) = true →
    ∃ t, exec (.streamFlit n) s = .next t ∧ bit (t.reg (aStrStat n)) 16 = true ∧ t.memc.reqs = s.memc.reqs ∧
      t.reg (aStrSdrop n) = (s.incFld (aStrSdrop n) 0 16 1).reg (aStrSdrop n)) ∧
  (∀ (s : State) (pt : Fin 32), ∀ p ∈ s.part? pt,
      ∀ x ∈ (s.sap.routes.filter (fun x => x.live && decide (x.route.kind = 2) && decide (x.route.part = pt.val))).getLast?,
      (s.strBlk (x.route.port % 8) x.route.stream).closed = false →
      (s.sap.routes.filter (fun x => x.live && decide (x.route.kind = 2) && decide (x.route.part = pt.val))).length = 1 →
    ∃ t, exec (.streamBlockDeadline pt) s = .next t ∧ (t.strBlk (x.route.port % 8) x.route.stream).closed = true ∧
      bit (t.reg (aStrStat (x.route.port % 8))) 17 = true ∧
      fld (t.reg (aStrSdrop (x.route.port % 8))) 16 16 = min 0xFFFF (fld (s.reg (aStrSdrop (x.route.port % 8))) 16 16 + 1)) ∧
  (∀ (s : State) (n m : Fin 8), ∀ e ∈ (s.link n).rx.head?, e.1 = 3 → (e.2.2.headD 0).toNat = 1 → (e.2.2.getD 1 0).toNat = m.val → m.val ≠ s.ownId →
    ∃ t, exec (.hello n) s = .next t ∧ t.reg (aCampMemHashLo m) = BitVec.ofNat 32 (leNat ((e.2.2.drop 4).take 4)) ∧
      t.reg (aCampMemHashHi m) = BitVec.ofNat 32 (leNat ((e.2.2.drop 8).take 4)) ∧
      t.reg (aCampMemVer m) = BitVec.ofNat 32 (leNat ((e.2.2.drop 12).take 4)) ∧ t.camp.heard.testBit m = true ∧
      (∀ k ∈ t.keeper, ∀ j : Fin 8, j.val ≠ s.ownId → t.camp.heard.testBit j = true → t.reached.testBit j = true → fld (t.reg (aCampMemInfo j)) 0 8 ≠ 0 → j.val ≠ k →
        campAbove (fld (t.reg aCampKeeper) 8 8) k (fld (t.reg (aCampMemInfo j)) 0 8) j = true) ∧
      (s.keeper = some s.ownId → t.campRole = 2 → bit (s.reg aCampCfg) 11 = true → bit (s.reg aCampMap) m = false → (e.2.2.getD 3 0).toNat = 0 →
        t.sameImage m = true → bit (t.reg aCampMap) m = true ∧ t.reg aCampEpoch = s.reg aCampEpoch + 1 ∧ bit (t.reg aCampStat) 10 = true)) ∧
  (∀ (s : State), ∃ t, exec .helloTimer s = .next t ∧ ∀ n : Fin 8,
    (t.link n).mgmtQ = (if s.linkUp n then (s.link n).mgmtQ ++ [padBody s.helloBody] else (s.link n).mgmtQ)) ∧
  (∀ (s : State) (n : Fin 8), ∀ e ∈ (s.link n).rx.head?, e.1 = 3 → (e.2.2.headD 0).toNat = 2 → s.pwr.mode ≠ .pitch →
      (campChoose s).keeper = some (e.2.2.getD 1 0).toNat → (campChoose s).campRole = 1 → s.campState ≠ 0 →
      s.alignedAt (nearest (s.keeperEdge n e.2.2 ((s.link n).beaconAt.headD s.tidePos))) (leNat ((e.2.2.drop 19).take 4)) = true →
    ((leNat ((e.2.2.drop 8).take 1)).testBit s.ownId = true →
      ∃ t, exec (.beacon n) s = .next t ∧ t.reg aCampEpoch = BitVec.ofNat 32 (leNat ((e.2.2.drop 4).take 4)) ∧
        fld (t.reg aCampMap) 0 8 = leNat ((e.2.2.drop 8).take 1) ∧ bit (t.reg aCampStat) 6 = false ∧
        (s.campState = 1 → (campChoose s).sameImage (e.2.2.getD 1 0).toNat = true → t.campState = 2 ∧ bit (t.reg aCampStat) 10 = true)) ∧
    ((leNat ((e.2.2.drop 8).take 1)).testBit s.ownId = false → (campChoose s).reg aCampEpoch ≠ 0 →
      ∃ t, exec (.beacon n) s = .next t ∧ t.campState = 3 ∧ fld (t.reg aCampStat) 4 2 = 2)) ∧
  (∀ (s : State) (n : Fin 8), ∀ e ∈ (s.link n).rx.head?, e.1 = 3 →
    ((e.2.2.headD 0).toNat = 3 → fld (s.reg aTideRef) 0 4 = 5 → ∃ t, exec (.tempo n) s = .next t ∧ t.tide = (tempoPushEntry
      { at_ := BitVec.ofNat 48 (leNat ((e.2.2.drop 2).take 6)), value := BitVec.ofNat 64 (leNat ((e.2.2.drop 8).take 8)),
        locate := decide (e.2.2.getD 1 0 = 1) } s).tide) ∧
    ((e.2.2.headD 0).toNat = 4 → ∀ rtt turn : Nat,
      ((s.link n).delay = true → ∃ t, exec (.delay n (some rtt) turn) s = .next t ∧ (t.link n).delay = false ∧
        t.reg (aStrDelay n) = BitVec.ofNat 32 ((rtt - turn) / 2 % 2 ^ 20)) ∧
      (∃ t, exec (.delay n none turn) s = .next t ∧ (t.link n).mgmtQ = (s.link n).mgmtQ ++ [padBody [4]] ∧
        (t.link n).delay = (s.link n).delay ∧ t.regs = s.regs)) ∧
    ((e.2.2.headD 0).toNat = 5 → (s.link n).env = none → e.2.2.getD 2 0 = 0 → (e.2.2.getD 3 0).toNat % 2 = 1 →
      0 < (e.2.2.getD 4 0).toNat + 256 * (e.2.2.getD 5 0).toNat → (e.2.2.getD 4 0).toNat + 256 * (e.2.2.getD 5 0).toNat ≤ 44 →
      52 ≤ e.2.2.length → ∃ t, exec (.commandFragment n) s = .next t ∧ (t.link n).env = none ∧ t.regs = s.regs ∧
        (t.link n).req = (s.link n).req ++ [((e.2.2.getD 1 0).toNat, (e.2.2.drop 8).take ((e.2.2.getD 4 0).toNat + 256 * (e.2.2.getD 5 0).toNat))]) ∧
    ((e.2.2.headD 0).toNat = 6 → e.2.2.getD 2 0 = 0 → (e.2.2.getD 3 0).toNat % 2 = 1 →
      0 < (e.2.2.getD 4 0).toNat + 256 * (e.2.2.getD 5 0).toNat → (e.2.2.getD 4 0).toNat + 256 * (e.2.2.getD 5 0).toNat ≤ 44 →
      52 ≤ e.2.2.length → ∃ t, exec (.responseFragment n) s = .next t ∧
        (t.link n).resp = (e.2.2.drop 8).take ((e.2.2.getD 4 0).toNat + 256 * (e.2.2.getD 5 0).toNat))) ∧
  (∀ (s : State) (n : Fin 8), s.linkUp n = true → ∃ t, exec (.delayTimer n) s = .next t ∧ (t.link n).delay = true ∧
    (t.link n).mgmtQ = (s.link n).mgmtQ ++ [padBody [4]] ∧ t.regs = s.regs) ∧
  (∀ (s : State) (m : Fin 8), s.reached.testBit m = false → s.camp.heard.testBit m = true →
    ∃ t, exec (.memberLoss m) s = .next t ∧ t.camp.heard.testBit m = false ∧
      (s.camp.led = some m.val → bit (t.reg aCampStat) 11 = true) ∧
      ((campChoose s).campRole = 2 → m.val ≠ s.ownId → bit (s.reg aCampMap) m = true → bit (t.reg aCampMap) m = false ∧
        t.reg aCampEpoch = s.reg aCampEpoch + 1 ∧ bit (t.reg aCampStat) 11 = true))

/-- Host reads and writes of any length reach exactly the enabled bytes; refusals are recorded; MSI-X messages follow their masks; the mailbox takes one envelope (14_host_network_memory.md, R555; 14_host_network_memory.md, R556 and R557; 14_host_network_memory.md, R558 and R559; 14_host_network_memory.md, R560; 14_host_network_memory.md, R562 and R563; 14_host_network_memory.md, R564; 18_reset_boot.md, R687). Where these bear on it, it rests on the model's choices of log entries 16, 170, 172. -/
def Obligations.HostAndMailboxRows : Prop :=
  (∀ (s : State) (gen : Fin 8) (width : Fin 16), s.pcie.perst = true → 1 ≤ min gen.val (fld (s.reg aPcieCap) 0 3) →
      ∀ w ∈ [8, 4, 2, 1].find? (fun w => decide (w ≤ width.val) && decide (w ≤ fld (s.reg aPcieCap) 4 4)),
    ∃ t, exec (.pcieLinkUp gen width) s = .next t ∧
      t.reg aPcieLink = BitVec.ofNat 32 (min (min gen.val (fld (s.reg aPcieCap) 0 3)) 4 + w * 16 + 256) ∧
      (t.reg aPcieLink ≠ s.reg aPcieLink → bit (t.reg aPcieStat) 8 = true)) ∧
  (∀ (s : State) (off len : Nat) (eccs : List EccHit), eccs.all (fun e => !ueHit e) = true → s.fabricIdle = true → bit (s.reg aPcieLink) 8 = true → bit (s.reg aPcieAcc) 0 = true → 1 ≤ len → off + len ≤ s.memc.ddrCap →
      s.memc.ddrCap ≤ 0x1000000000 →
    ∃ t, exec (.pcieMemoryRead 2 off len eccs) s = .next t ∧ t.pcie.cpl = some (s.bytes (0x1000000000 + off) len) ∧ t.mem = s.mem) ∧
  (∀ (s : State) (off : Nat) (data : List Byte) (be : List Bool) (eccs : List EccHit), eccs.all (fun e => !ueHit e) = true → s.fabricIdle = true → bit (s.reg aPcieLink) 8 = true → bit (s.reg aPcieAcc) 2 = true →
      s.stagingHeld = false → 1 ≤ data.length → off + data.length ≤ s.memc.ddrCap → s.memc.ddrCap ≤ 0x1000000000 →
    ∃ t, exec (.pcieMemoryWrite 2 off data ⟨be, eccs⟩) s = .next t ∧ ∀ a, t.byte a =
      if 0x1000000000 + off ≤ a ∧ a < 0x1000000000 + off + data.length ∧ be.getD (a - (0x1000000000 + off)) false = true then
        data.getD (a - (0x1000000000 + off)) 0 else s.byte a) ∧
  (∀ (s : State) (bar : Fin 3) (off len : Nat) (eccs : List EccHit), s.fabricIdle = true → bit (s.reg aPcieLink) 8 = true →
    (∀ a ∈ barAddr bar off, s.hostMay a len false = false → ∃ t, exec (.pcieMemoryRead bar off len eccs) s = .next t ∧
      t = { s with pcie := t.pcie, memc := t.memc } ∧ t.pcie.cpl = none ∧ t.memc.reqs = []) ∧
    (len ≠ 4 ∨ off % 4 ≠ 0 → ∃ t, exec (.pcieMemoryRead 0 off len eccs) s = .next t ∧
      t = { s with pcie := t.pcie, memc := t.memc } ∧ t.pcie.cpl = none ∧ t.memc.reqs = [])) ∧
  (∀ (s : State) (off : Nat) (data : List Byte) (be : List Bool) (eccs : List EccHit), bit (s.reg aPcieLink) 8 = true → bit (s.reg aPcieAcc) 2 = true →
      off < 0x1000000000 → ∀ op ∈ s.pcie.ops.head?, op.cur ≠ none →
    ∃ t, exec (.pcieMemoryWrite 2 off data ⟨be, eccs⟩) s = .next t ∧ t = { s with pcie := t.pcie } ∧
      t.pcie.ops.take s.pcie.ops.length = s.pcie.ops ∧ t.pcie.ops.length = s.pcie.ops.length + 1) ∧
  (∀ (s : State) (bar : Fin 3) (off : Nat) (data : List Byte) (be : List Bool) (eccs : List EccHit), bit (s.reg aPcieLink) 8 = true →
      (bar = 0 → data.length = 4 ∧ off % 4 = 0 ∧ be.take 4 = [true, true, true, true]) →
      ∀ a ∈ barAddr bar off, s.hostMay a data.length true = false →
    ∃ t, exec (.pcieMemoryWrite bar off data ⟨be, eccs⟩) s = .next t ∧ t = { s with regs := t.regs } ∧ bit (t.reg aPcieStat) 14 = true ∧
      t.reg aPcieRefAddr = BitVec.ofNat 32 a ∧ t.reg aPcieRefAddrHi = BitVec.ofNat 32 (a / 2 ^ 32)) ∧
  (∀ (s : State) (en mask : Bool), ∃ t, exec (.msixUnmask en mask) s = .next t ∧ t.pcie.msix = en ∧ t.pcie.mask = mask ∧
    (if en = true ∧ mask = false then
      (if bit (s.reg aPcieLink) 9 then t.pcie.held else t.pcie.sent) = (if bit (s.reg aPcieLink) 9 then s.pcie.held else s.pcie.sent) ++ ((List.range 64).filter (fun v => bit (s.reg (aPciePba (v / 32))) (v % 32) && !bit (s.reg (aPcieMsixCtl v)) 0)).map
          (fun v => (s.reg (aPcieMsixAddrHi v) ++ s.reg (aPcieMsixAddr v), s.reg (aPcieMsixData v))) ∧
        ∀ v : Fin 64, bit (t.reg (aPciePba (v / 32))) (v % 32) = (bit (s.reg (aPciePba (v / 32))) (v % 32) && bit (s.reg (aPcieMsixCtl v)) 0)
    else t.pcie.sent = s.pcie.sent ∧ t.regs = s.regs)) ∧
  (∀ (s : State) (kind : Fin 4), ∃ t, exec (.functionReset kind) s = .next t ∧ bit (t.reg aPcieStat) 15 = true ∧
    (∀ v : Fin 64, bit (t.reg (aPciePba (v / 32))) (v % 32) = false ∧ bit (t.reg (aPcieMsixCtl v)) 0 = true) ∧ t.reg aPcieHdb = 0 ∧
    t.reg aPcieMbStat = 0 ∧ t.pcie.msix = false ∧ t.pcie.mask = false ∧ t.pcie.req = none ∧ t.pcie.exec = s.pcie.exec.map (fun _ => true) ∧
    t.reg aPcieDdb = s.reg aPcieDdb ∧ t.pcie.held = [] ∧ t.pcie.ops.all (fun o => o.store) = true ∧
    t = { s with regs := t.regs, pcie := t.pcie, memc := t.memc }) ∧
  (∀ (s : State) (k : Fin 1024) (v : Word), exec (.mbInWrite k v) s = .next (if bit (s.reg aPcieMbStat) 0 then s.orReg aPcieMbStat 0x100
    else s.setReg (aPcieMbIn k) v)) ∧
  (∀ (s : State) (v : Word),
    (if fld (s.reg aPcieMbStat) 0 2 = 0 ∧ 1 ≤ fld v 0 13 ∧ fld v 0 13 ≤ 4096 then
      ∃ t, exec (.mbGo v) s = .next t ∧ bit (t.reg aPcieMbStat) 0 = true ∧ bit (t.reg aPcieStat) 11 = true ∧
        t.pcie.req = some (s.regBytes (aPcieMbIn 0) (fld v 0 13))
    else exec (.mbGo v) s = .next (s.orReg aPcieMbStat 0x100))) ∧
  (∀ (s : State) (v : Word), bit v 0 = true → exec (.mbAck v) s = .next (s.clrReg aPcieMbStat 2)) ∧
  (∀ (s : State), exec .perstNRelease s = .next { s with pcie := { s.pcie with perst := true } })

/-- GPIO_SET, GPIO_CLR and GPIO_TGL act on GPIO_OUT bit by bit, and a pin in function 0 drives that bit while its GPIO_OE bit is 1 (R624). -/
def Obligations.GpioBitOperations : Prop :=
  (∀ (s : State) (j : Fin 72) (v : Word),
    (∃ t, exec (.gpioSet (Fin.ofNat 3 (j / 32)) v) s = .next t ∧ t.gpBit aGpioOut j = (s.gpBit aGpioOut j || bit v (j % 32))) ∧
    (∃ t, exec (.gpioClr (Fin.ofNat 3 (j / 32)) v) s = .next t ∧ t.gpBit aGpioOut j = (s.gpBit aGpioOut j && !bit v (j % 32))) ∧
    (∃ t, exec (.gpioTgl (Fin.ofNat 3 (j / 32)) v) s = .next t ∧ t.gpBit aGpioOut j = (s.gpBit aGpioOut j ^^ bit v (j % 32)))) ∧
  (∀ (s : State) (j : Fin 72), fld (s.reg (aPinSel j)) 0 3 = 0 → s.hold = [] → s.gpBank = true →
    s.pad j = if s.gpBit aGpioOe j then (if bit (s.reg (aPinSel j)) 11 && s.gpBit aGpioOut j then none else some (s.gpBit aGpioOut j))
      else none)

/-- A GPIO_OUT write, a pin edge, a pin switch and its end (17_clocks_power.md, R634; 16_events_pins.md, R625; 16_events_pins.md, R626 and R627; 16_events_pins.md, R629 and R630). Where these bear on it, it rests on the model's choices of log entries 46, 201. -/
def Obligations.PinRows : Prop :=
  (∀ (s : State) (k : Fin 3) (v : Word), ∃ t, exec (.gpioOutWrite k v) s = .next t ∧ t.reg (aGpioOut k) = v &&& gpMask k) ∧
  (∀ (s : State) (j : Fin 72) (level : Bool), s.fclkRuns = true → s.gpBit aGpioIn j ≠ level →
    ∃ t, exec (.gpioInputEdge j level) s = .next t ∧ t.gpBit aGpioIn j = level ∧
      t.gpBit aGpioIntStat j = (s.gpBit aGpioIntStat j ||
        (fld (s.reg (aGpioIntCfg (j / 16))) (2 * (j % 16)) 2).testBit (if level then 0 else 1))) ∧
  (∀ (s : State) (j : Fin 72) (v : Word), s.hold = [] →
      fld (s.reg (aPinSel j)) 0 3 ≠ fld v 0 3 ∨ bit (s.reg (aPinSel j)) 11 ≠ bit v 11 →
    ∃ t, exec (.pinSwitch j false v) s = .next t ∧ t.reg (aPinSel j) = v &&& 0xF77 ∧ t.hold = [(j.val, some (s.pad j))]) ∧
  (∀ (s : State) (j : Fin 72) (v : Word), s.gpBit aGpioOe j ≠ bit v (j % 32) →
    ∃ t, exec (.pinSwitch j true v) s = .next t ∧ t.gpBit aGpioOe j = bit v (j % 32) ∧
      (smGet (fun _ => none) t.hold j).isSome = true) ∧
  (∀ (s : State) (j : Fin 72), s.fclkRuns = true → ∃ t, exec (.pinSwitchApply j) s = .next t ∧ smGet (fun _ => none) t.hold j = none ∧
    t.pad j = if s.gpBank then t.fnDrive j else none) ∧
  (∀ (s : State) (j : Fin 72) (level : Bool), s.fclkRuns = false → exec (.gpioInputEdge j level) s = .next s ∧ exec (.pinSwitchApply j) s = .next s)

/-- No pad changes what it drives when a switch of its function or enable is registered (16_events_pins.md, R629; 16_events_pins.md, R630). -/
def Obligations.SwitchedPadsKeepTheirLevel : Prop :=
  ∀ (s t : State) (j : Fin 72) (oe : Bool) (v : Word), exec (.pinSwitch j oe v) s = .next t →
    (∀ i : Fin 72, t.pad i = s.pad i) ∧ t = { s with regs := t.regs, hold := t.hold } ∧
    ∀ a, a ≠ aPinSel j → a ≠ aGpioOe (j / 32) → t.reg a = s.reg a

/-- EVI_Gg_E0 to E3 read the oldest entry, the read of E3 removes it, and an empty FIFO reads 0 and stays empty (R620). -/
def Obligations.EventFifoReads : Prop :=
  (∀ (s : State) (g : Fin 16), ∃ t, exec (.eviEntryPop g) s = .next t ∧ t.rdata = s.evWord g 3 ∧ t.evFifo g = (s.evFifo g).tail ∧
    (∀ h : Fin 16, h ≠ g → t.evFifo h = s.evFifo h)) ∧
  (∀ (s : State) (g : Fin 16) (i : Fin 4), s.evFifo g = [] → s.evWord g i = 0) ∧
  (∀ (s : State) (g : Fin 16) (e : EvEntry) (l : List EvEntry), s.evFifo g = e :: l →
    s.evWord g 1 ++ s.evWord g 0 = e.ts ∧ s.evWord g 3 = e.value ∧
    s.evWord g 2 = BitVec.ofNat 32 (e.pin + e.kind * 2 ^ 4 + b2n e.level * 2 ^ 7 + g.val * 2 ^ 8))

/-- An event input's change, its acceptance into the FIFO in edge mode, a flush, a pin configuration and a position write (16_events_pins.md, R609 and R610; 16_events_pins.md, R613; 16_events_pins.md, R616; 16_events_pins.md, R618; 16_events_pins.md, Table 16-4). Where these bear on it, it rests on the model's choices of log entries 23, 191, 201. -/
def Obligations.EventInputRows : Prop :=
  (∀ (s : State) (p : Fin 128) (level : Bool) (dt : Nat), s.fclkRuns = true → bit (s.reg (aEviGCfg (p / 8))) 0 = true →
      (s.evPin p).run = none → (level != bit (s.evCfg p) 5) ≠ (s.evPin p).acc →
    ∃ t, exec (.eviPinChange p level dt) s = .next t ∧ t.evPin p = { s.evPin p with raw := level, run := some (s.evi.clk + dt, s.tide.stamp) } ∧
      t.evi.clk = s.evi.clk + dt) ∧
  (∀ (s : State) (p : Fin 128) (dt t0 : Nat) (ts : BitVec 64), s.fclkRuns = true → (s.evPin p).run = some (t0, ts) →
      s.evActive p ≠ (s.evPin p).acc → s.evHold (p / 8) ≤ s.evi.clk + dt - t0 → (evPass dt s).evFirst p = some p → (s.evPin (pairMate p)).run = none → s.evMode p = 1 →
      bit (s.evCfg p) (if (s.evPin p).acc then 4 else 3) = true → (s.evFifo (p / 8)).length < 1024 →
    ∃ t, exec (.eviChangeAccept p dt) s = .next t ∧ (t.evPin p).acc = !(s.evPin p).acc ∧ (t.evPin p).run = none ∧
      t.evFifo (p / 8) = s.evFifo (p / 8) ++
        [{ ts := ts, pin := p % 8, kind := if (s.evPin p).acc then 2 else 1, level := !(s.evPin p).acc, value := 0 }]) ∧
  (∀ (s : State) (p : Fin 128) (dt : Nat), s.fclkRuns = true → (evPass dt s).evDue p = true → s.evActive p ≠ (s.evPin p).acc →
      ∀ q ∈ (evPass dt s).evFirst p,
    exec (.eviChangeAccept p dt) s = .next (evInTurn p 7 (evAccept q (evPass dt s)))) ∧
  (∀ (s : State) (g : Fin 16) (v : Word), bit v 0 = true → ∃ t, exec (.eviFlush g v) s = .next t ∧ t.evFifo g = []) ∧
  (∀ (s : State) (p : Fin 128) (v : Word), (s.evPin p).run = none →
    ∃ t, exec (.eviPinCfgWrite p v) s = .next t ∧ t.evCfg p = v &&& 0xFF ∧ t.evDet p = EvDet.init ∧ t.evDet (p / 2 * 2) = EvDet.init ∧
      ∀ (g : Fin 16) (k : Fin 4), t.reg (aEviGQpos g k) = s.reg (aEviGQpos g k)) ∧
  (∀ (s : State) (g : Fin 16) (k : Fin 4) (v : Word), ∃ t, exec (.qposWrite g k v) s = .next t ∧ t.reg (aEviGQpos g k) = v)

/-- Ethernet ports try their modes in turn, classify and order frames by R567 and R568, fill their FIFOs, send stream PDUs, and judge stream entries (14_host_network_memory.md, R566; 14_host_network_memory.md, R567; 14_host_network_memory.md, R568; 14_host_network_memory.md, R569; 14_host_network_memory.md, R570 and R571; 14_host_network_memory.md, R572; 14_host_network_memory.md, R573; 14_host_network_memory.md, R574; 14_host_network_memory.md, R575; 14_host_network_memory.md, R576). Where these bear on it, it rests on the model's choices of log entries 30, 173, 174, 175, 176, 230. -/
def Obligations.EthernetRows : Prop :=
  (∀ (s : State) (p : Fin 2),
    (bit (s.reg (aEthCfg p)) 0 = true → s.ethUp p = false → fld (s.reg (aEthCap p)) 0 3 = 7 →
      ∃ t, exec (.ethModeTimeout p) s = .next t ∧ (t.ethPort p).try_ = (if (s.ethPort p).try_ = 3 then 2 else if (s.ethPort p).try_ = 2 then 1 else 3) ∧
        t.regs = s.regs) ∧
    (s.ethUp p = false → (s.ethPort p).try_ ≠ 0 → (s.ethPort p).try_ ≤ 3 → ∃ t, exec (.ethLinkUp p) s = .next t ∧ t.ethUp p = true ∧
      fld (t.reg (aEthMode p)) 0 2 = (s.ethPort p).try_ ∧ bit (t.reg (aEthStat p)) 8 = true) ∧
    (s.ethUp p = true → ∃ t, exec (.ethLinkLoss p) s = .next t ∧ t.ethUp p = false ∧ bit (t.reg (aEthStat p)) 8 = true ∧
      (bit (s.reg (aEthCfg p)) 0 = true → bit (s.reg (aEthCap p)) 2 = true → (t.ethPort p).try_ = 3))) ∧
  (∀ (s : State) (p : Fin 2) (bs : List Byte) (bad : Bool) (now : BitVec 64), s.ethUp p = true →
    (bad = true ∨ bs.length < 60 ∨ 1518 < bs.length → ∃ t, exec (.ethFrameReceive p bs bad now) s = .next t ∧
      t.reg (aEthRxBad p) = (s.incSat (aEthRxBad p)).reg (aEthRxBad p) ∧ (t.ethPort p).rx = (s.ethPort p).rx ∧ t.mem = s.mem) ∧
    (bad = false → 60 ≤ bs.length → bs.length ≤ 1518 → beAt bs 12 2 ∉ [0x8100, 0x88F7, 0x22F0, 0x8808] →
      (bs.take 6 = s.ethMac p ∨ bs.take 6 = List.replicate 6 0xFF →
        (s.ethPort p).rx.foldl (fun a f => a + f.length) 0 + 1 + (bs.length + 3) / 4 ≤ 8192 → bit (s.reg (aEthFifoCfg p)) 8 = false →
        ∃ t, exec (.ethFrameReceive p bs bad now) s = .next t ∧
          (t.ethPort p).rx = (s.ethPort p).rx ++ [BitVec.ofNat 32 bs.length :: bytesWords bs] ∧
          t.reg (aEthRxLevel p) = BitVec.ofNat 32 ((s.ethPort p).rx.length + 1)) ∧
      (s.ethMine p (bs.take 6) = false → ∃ t, exec (.ethFrameReceive p bs bad now) s = .next t ∧
        t.reg (aEthRxDrop p) = (s.incSat (aEthRxDrop p)).reg (aEthRxDrop p) ∧ (t.ethPort p).rx = (s.ethPort p).rx ∧ t.mem = s.mem))) ∧
  (∀ (s : State) (p : Fin 2) (bs : List Byte) (now : BitVec 64), s.ethUp p = true → 60 ≤ bs.length → bs.length ≤ 1518 → beAt bs 12 2 = 0x22F0 →
      ∀ e ∈ (List.range 64).find? (fun e => bit (s.reg (aEthLsCfg e)) 0 && decide (enPort (s.reg (aEthLsCfg e)) = p.val) &&
        decide ((bs.drop 18).take 8 = streamId (s.reg (aEthLsSidLo e)) (s.reg (aEthLsSidHi e)))),
    ∃ t, exec (.ethFrameReceive p bs false now) s = .next t ∧ (t.ls e).seq = some (beAt bs 16 1) ∧ (t.ethPort p).rx = (s.ethPort p).rx) ∧
  (∀ (s : State) (p : Fin 2) (gainA gainB : Nat) (now : BitVec 64), s.ethUp p = true →
    (∀ x ∈ (s.ethPort p).ptpQ.head?, ∃ t, exec (.ethFrameSend p gainA gainB now) s = .next t ∧ (t.ethPort p).aQ = (s.ethPort p).aQ ∧
      (t.ethPort p).out.take x.bytes.length = x.bytes) ∧
    ((s.ethPort p).ptpQ = [] →
      (∀ x ∈ (s.ethPort p).aQ.head?, 0 ≤ ((ethCredit p gainA gainB (ptpNow p now s)).ethPort p).crA → ∃ t, exec (.ethFrameSend p gainA gainB now) s = .next t ∧ (t.ethPort p).aQ = (s.ethPort p).aQ.tail ∧
        (t.ethPort p).out = (x.bytes ++ List.replicate (60 - x.bytes.length) 0) ++
          leBytes 4 (ethFcs (x.bytes ++ List.replicate (60 - x.bytes.length) 0)).toNat ∧
        (t.ethPort p).crA = creditSpend (fld (s.reg (aEthCbsA p)) 0 24) (ethRate (s.reg (aEthMode p))) x ((ethCredit p gainA gainB (ptpNow p now s)).ethPort p).crA) ∧
      (((ethCredit p gainA gainB (ptpNow p now s)).ethPort p).crA < 0 ∨ (s.ethPort p).aQ = [] →
        (∀ x ∈ (s.ethPort p).bQ.head?, 0 ≤ ((ethCredit p gainA gainB (ptpNow p now s)).ethPort p).crB → ∃ t, exec (.ethFrameSend p gainA gainB now) s = .next t ∧ (t.ethPort p).bQ = (s.ethPort p).bQ.tail ∧
          (t.ethPort p).out.take x.bytes.length = x.bytes ∧
          (t.ethPort p).crB = creditSpend (fld (s.reg (aEthCbsB p)) 0 24) (ethRate (s.reg (aEthMode p))) x ((ethCredit p gainA gainB (ptpNow p now s)).ethPort p).crB) ∧
        (((ethCredit p gainA gainB (ptpNow p now s)).ethPort p).crB < 0 ∨ (s.ethPort p).bQ = [] → ∀ x ∈ (s.ethPort p).txQ.head?, ∃ t, exec (.ethFrameSend p gainA gainB now) s = .next t ∧
          (t.ethPort p).txQ = (s.ethPort p).txQ.tail ∧ (t.ethPort p).out.take x.bytes.length = x.bytes)))) ∧
  (∀ (s : State) (e : Fin 64), ∀ pa ∈ s.part? (enPart (s.reg (aEthTkCfg e))), bit (s.reg (aEthTkCfg e)) 0 = true →
      enCrf (s.reg (aEthTkCfg e)) = false → (s.tk e).done ≠ (s.pt pa.part).start + s.pdusGone (s.pt pa.part) (s.reg (aEthTkCfg e)) * s.enLen (s.reg (aEthTkCfg e)) + 1 → (s.pt pa.part).inFrame = true →
      (s.pt pa.part).committed = true → bit (s.reg (aEthTkCfg e)) 22 = false →
      (s.ethPort (enPort (s.reg (aEthTkCfg e)))).aQ.all (fun x => decide (x.talker ≠ some e.val)) = true →
    ∃ t, exec (.aafTalkerSend e) s = .next t ∧ (t.tk e).done = (s.pt pa.part).start + s.pdusGone (s.pt pa.part) (s.reg (aEthTkCfg e)) * s.enLen (s.reg (aEthTkCfg e)) + 1 ∧
      (t.tk e).seq = ((s.tk e).seq + s.enLen (s.reg (aEthTkCfg e)) / enSpp (s.reg (aEthTkCfg e))) % 256 ∧
      (t.ethPort (enPort (s.reg (aEthTkCfg e)))).aQ.length =
        (s.ethPort (enPort (s.reg (aEthTkCfg e)))).aQ.length + s.enLen (s.reg (aEthTkCfg e)) / enSpp (s.reg (aEthTkCfg e)) ∧
      ∀ x ∈ (t.ethPort (enPort (s.reg (aEthTkCfg e)))).aQ.drop (s.ethPort (enPort (s.reg (aEthTkCfg e)))).aQ.length,
        x.talker = some e.val ∧ x.bytes.length = 18 + 24 + enSpp (s.reg (aEthTkCfg e)) * enCh (s.reg (aEthTkCfg e)) * enBytes (s.reg (aEthTkCfg e))) ∧
  (∀ (s : State) (e : Fin 64), bit (s.reg (aEthTkCfg e)) 0 = true → enCrf (s.reg (aEthTkCfg e)) = true →
      (s.tk e).done ≠ s.tide.frameStart.toNat + 1 → bit (s.reg (aEthTkCfg e)) 22 = true →
    ∃ t, exec (.crfTalkerSend e) s = .next t ∧ (t.tk e).done = s.tide.frameStart.toNat + 1 ∧
      ((t.ethPort (enPort (s.reg (aEthTkCfg e)))).bQ.getLast?.map (fun x => (x.talker, x.bytes.drop 38))) = some (some e.val,
        beBytes 8 (s.countTime s.tide.frameStart.toNat + (s.reg (aEthTkLat e)).toNat))) ∧
  (∀ (s : State) (pt : Fin 32), ∃ t, exec (.listenerFill pt) s = .next t ∧ (∀ a, t.byte a = s.byte a ∨ t.byte a = 0) ∧
    ∀ e : Fin 64, (if bit (s.reg (aEthLsCfg e)) 0 = true ∧ enCrf (s.reg (aEthLsCfg e)) = false ∧ enPart (s.reg (aEthLsCfg e)) = pt then
      fld (t.reg (aEthLsMiss e)) 0 16 = min 0xFFFF (fld (s.reg (aEthLsMiss e)) 0 16 +
        ((List.range (s.enLen (s.reg (aEthLsCfg e)))).filter (fun i => decide ((s.ls e).first ≤ (s.ls e).start + i) &&
          !(s.ls e).got.contains ((s.ls e).start + i))).length)
    else t.reg (aEthLsMiss e) = s.reg (aEthLsMiss e))) ∧
  (∀ (s : State) (talker : Bool) (e : Fin 64) (v : Word),
    (bit (s.reg (if talker then aEthTkCfg e else aEthLsCfg e)) 0 = true →
      s.reg (if talker then aEthTkCfg e else aEthLsCfg e) ||| 1 ≠ (v &&& (if talker then 0x007FFFFF else 0x3F1FFFFF)) ||| 1 →
      exec (.streamEntryCfgWrite talker e v) s =
        .next (s.orReg (aEthStat (enPort (s.reg (if talker then aEthTkCfg e else aEthLsCfg e)))) 0x4000)) ∧
    (bit (s.reg (if talker then aEthTkCfg e else aEthLsCfg e)) 0 = false →
      bit v 0 = false ∨ s.enOk (v &&& (if talker then 0x007FFFFF else 0x3F1FFFFF)) = true →
      ∃ t, exec (.streamEntryCfgWrite talker e v) s = .next t ∧
        t.reg (if talker then aEthTkCfg e else aEthLsCfg e) = v &&& (if talker then 0x007FFFFF else 0x3F1FFFFF))) ∧
  (∀ (s : State) (p : Fin 2) (v : Word),
    (if 14 ≤ fld v 0 11 ∧ fld v 0 11 ≤ 1518 ∧ (s.ethPort p).txQ.foldl (fun a f => a + f.bytes.length) 0 + fld v 0 11 ≤ 16384 then
      ∃ t, exec (.txhWrite p v) s = .next t ∧ (t.ethPort p).txCur = some (fld v 0 11, []) ∧ t.regs = s.regs
    else ∃ t, exec (.txhWrite p v) s = .next t ∧ (t.ethPort p).txCur = none ∧ bit (t.reg (aEthStat p)) 13 = true) ∧
    ((s.ethPort p).txCur = none → exec (.txfWrite p v) s = .next s) ∧
    (∀ x ∈ (s.ethPort p).txCur, ∃ t, exec (.txfWrite p v) s = .next t ∧
      (if x.2.length + 4 < x.1 then (t.ethPort p).txCur = some (x.1, x.2 ++ leBytes 4 v.toNat) ∧ (t.ethPort p).txQ = (s.ethPort p).txQ
      else (t.ethPort p).txCur = none ∧ (t.ethPort p).txQ = (s.ethPort p).txQ ++
        [{ talker := none, bytes := (x.2 ++ leBytes 4 v.toNat).take x.1 ++ List.replicate (60 - x.1) 0 }]))) ∧
  (∀ (s : State) (p : Fin 2),
    ((s.ethPort p).rx = [] → exec (.rxfRead p) s = .next { s with rdata := 0 }) ∧
    (∀ f ∈ (s.ethPort p).rx.head?, ∀ w ∈ f.head?, ∃ t, exec (.rxfRead p) s = .next t ∧ t.rdata = w ∧
      (t.ethPort p).rx = (if f.tail = [] then (s.ethPort p).rx.tail else f.tail :: (s.ethPort p).rx.tail))) ∧
  (∀ (s : State) (p : Fin 2) (v : Word) (now : BitVec 64), bit (s.reg (aEthPtpCfg p)) 0 = true → bit (s.reg (aEthPtpCfg p)) 1 = true →
      bit (s.reg (aEthPtpStat p)) 0 = true → (s.ethPort p).ptp.best = none →
    ∃ t, exec (.ptpSet p v now) s = .next t ∧ t.ptpRole p = 2 ∧ t.ptpTime p = v ++ s.reg (aEthPtpSetLo p)) ∧
  (∀ (s : State) (p : Fin 2) (kind : Fin 3) (now : BitVec 64), bit (s.reg (aEthPtpCfg p)) 0 = true → s.ethUp p = true →
      kind = 0 ∨ bit (s.reg (aEthPtpCfg p)) 1 = true ∧ bit (s.reg (aEthPtpStat p)) 0 = true ∧ (s.ethPort p).ptp.best = none →
    ∃ t, exec (.gptpMessageTimer p kind now) s = .next t ∧ (t.ethPort p).ptpQ.length = (s.ethPort p).ptpQ.length + 1 ∧
      ((t.ethPort p).ptpQ.getLast?.map (fun x => beAt x.bytes 14 1 % 16)) = some (if kind = 0 then 2 else if kind = 1 then 11 else 0))

/-- The flash renegotiates; journal appends are queued or refused, leave the record's bytes and counters when they end, and a read gives the record in force (14_host_network_memory.md, R581 and R582; 14_host_network_memory.md, R583 and R585; 15_commands_journal.md, R599; 15_commands_journal.md, R600 and R602; 15_commands_journal.md, R605; 15_commands_journal.md, Table 15-7). Where these bear on it, it rests on the model's choices of log entries 31, 184, 185. -/
def Obligations.FlashAndJournalRows : Prop :=
  (∀ (s : State) (r0 r1 : BitVec 5), bit (s.reg aDdrcMode) 8 = true → bit (s.reg aDdrcMode) 9 = true →
    ∃ t, exec (.mr4Poll r0 r1) s = .next t ∧ t.reg aDdrcTemp = BitVec.ofNat 32 (r0.toNat + r1.toNat * 256) ∧
      bit (t.reg aDdrcStat) 3 = (bit (s.reg aDdrcStat) 3 || decide (14 ≤ r0.toNat) || decide (14 ≤ r1.toNat))) ∧
  (∀ (s : State), exec (.ddrTracking false) s = .next (s.orReg aDdrcStat 4) ∧ exec (.ddrTracking true) s = .next s) ∧
  (∀ (s : State) (v : Word), bit v 0 = true → exec (.flashRenegotiate v) s = .next (s.orReg aSysFlashMode 0x400)) ∧
  (∀ (s : State) (modes : BitVec 7) (sfdp : Bool), bit (s.reg aSysFlashMode) 10 = true →
    ∃ t, exec (.flashRenegotiationComplete modes sfdp) s = .next t ∧ bit (t.reg aSysFlashMode) 10 = false ∧ bit (t.reg aSysFlashMode) 9 = sfdp ∧
      bit (t.reg aSysFlashMode) 8 = (sfdp && decide (16384 < (s.reg aSysFlashSize).toNat)) ∧
      fld (t.reg aSysFlashMode) 0 3 = (if sfdp then ((List.range 7).find? (fun k => decide (1 ≤ k) && decide (fld (s.reg aSysFlashCap) 0 3 ≤ k) &&
        (modes.getLsbD k || decide (k = 6)))).getD 6 else 6)) ∧
  (∀ (s : State) (ini : Initiator) (v : Word),
    if landSuper ini (s.cstOf ini) = true then
      if bit (s.reg aJrnlStat) 0 = true ∨ fld v 0 8 < 0x80 ∨ 0xFE < fld v 0 8 ∨ 1024 < fld v 16 11 then
        exec (.journalAppend ini v) s = .next (s.orReg aJrnlStat 0x400)
      else if s.jrnlFull (fld v 16 11) = true then exec (.journalAppend ini v) s = .next (s.orReg aJrnlStat 0x800)
      else ∃ t, exec (.journalAppend ini v) s = .next t ∧ t.jrnl = s.jrnl ++ [.record (fld v 0 8) (s.wbuf (fld v 16 11))] ∧
        bit (t.reg aJrnlStat) 0 = true ∧ t.flash = s.flash
    else exec (.journalAppend ini v) s = .next s) ∧
  (∀ (s : State) (ini : Initiator) (v : Word), landSuper ini (s.cstOf ini) = true →
    ∃ t, exec (.journalRead ini v) s = .next t ∧ t.jrnl = s.jrnl ++ [.read (fld v 0 8)] ∧ t.flash = s.flash) ∧
  (∀ (s : State) (ok : Bool), bit (s.reg aSysFlashMode) 10 = false → s.qfa.res = none → ∀ o ∈ s.jrnl.head?,
    (match o with
    | .record ty p =>
      (ok = false → ∃ t, exec (.journalOperationComplete ok) s = .next t ∧ t.flash = s.flash ∧ t.jrnl = s.jrnl.tail ∧
        bit (t.reg aJrnlStat) 10 = true ∧ t.reg aJrnlSeq = s.reg aJrnlSeq ∧ t.reg aJrnlUsed = s.reg aJrnlUsed) ∧
      (ok = true → s.mustCompact p.length = false →
        ∃ t, exec (.journalOperationComplete ok) s = .next t ∧ t.jrnl = s.jrnl.tail ∧ bit (t.reg aJrnlStat) 8 = true ∧
          t.reg aJrnlSeq = s.reg aJrnlSeq + 1 ∧ t.reg aJrnlUsed = s.reg aJrnlUsed + BitVec.ofNat 32 (recSize p.length) ∧
          t.flashBytes (s.jrnlBase s.jrnlActive + (s.reg aJrnlUsed).toNat) (({ ty := ty, seq := (s.reg aJrnlSeq).toNat, payload := p } : JRec).bytes).length =
            ({ ty := ty, seq := (s.reg aJrnlSeq).toNat, payload := p } : JRec).bytes)
    | .read ty =>
      ok = true → 2 ≤ ty → ∀ r ∈ s.jrnlForce.find? (fun r => decide (r.ty = ty)),
        ∃ t, exec (.journalOperationComplete ok) s = .next t ∧ t.flash = s.flash ∧
          t.reg aJrnlRdStat = BitVec.ofNat 32 (1 + r.payload.length * 2 ^ 16) ∧ t.reg aJrnlRdSeq = BitVec.ofNat 32 r.seq ∧
          bit (t.reg aJrnlStat) 13 = true
    | _ => True))

/-- An envelope passes the six steps of R591 in order or ends with the status of the first that fails; an accepted counter is taken; SET_MODE ANCHOR resets (15_commands_journal.md, R586 and R588; 15_commands_journal.md, R590; 15_commands_journal.md, R591; 15_commands_journal.md, R592 and R593; 15_commands_journal.md, R594; 15_commands_journal.md, R597; 15_commands_journal.md, Table 15-3; 15_commands_journal.md, Table 15-9). Where these bear on it, it rests on the model's choices of log entries 20, 180, 181, 182. -/
def Obligations.CommandProcessorRows : Prop :=
  (∀ (s : State), s.qfa.res = none → s.cmdRuns = true → s.sec.cur = none → s.sec.warm = none →
      ∀ ch ∈ ((List.range 10).map (fun i => (s.sec.last + 1 + i) % 10)).find? (fun ch => (s.chanReq ch).isSome), ∀ x ∈ s.chanReq ch,
      (x.2.length < 32 ∨ 4096 < x.2.length ∨ 32 + envAt x.2 0xC 2 ≠ x.2.length ∨ cmdKeys (envAt x.2 0 2) = [] ∨ 4 ≤ envAt x.2 2 2) ∨
        (cmdKeys (envAt x.2 0 2)).contains (envSlot x.2) = false ∨ Config.otpHolds (envSlot x.2) (s.keyGen (envSlot x.2)) = false ∨
        cmac256 (Config.otpKey (envSlot x.2) (s.keyGen (envSlot x.2))) (x.2.take (x.2.length - 16)) ≠ envTag x.2 ∨
        0xFFFFFFFFFFFEFFFF < envCounter x.2 ∨
        (envCounter x.2 ≤ s.num64 (aSecFloorLo (envSlot x.2)) (aSecFloorHi (envSlot x.2)) ∧ s.cached ch x.2 = none) →
    ∃ t, exec .commandEnvelope s = .next t ∧ t.sec.last = ch ∧ t.sec.cur = none ∧ t.jrnl = s.jrnl ∧ t.sec.caches = s.sec.caches ∧
      bit (t.reg aSecStat) 1 = true ∧ t.reg aSecCmdCnt = s.reg aSecCmdCnt ∧
      (∀ k : Fin 4, t.reg (aSecFloorLo k) = s.reg (aSecFloorLo k) ∧ t.reg (aSecFloorHi k) = s.reg (aSecFloorHi k) ∧
        t.reg (aSecCeilLo k) = s.reg (aSecCeilLo k) ∧ t.reg (aSecCeilHi k) = s.reg (aSecCeilHi k)) ∧
      fld (t.reg aSecLast) 24 4 = ch ∧ fld (t.reg aSecLast) 16 4 =
        (if x.2.length < 32 ∨ 4096 < x.2.length ∨ 32 + envAt x.2 0xC 2 ≠ x.2.length ∨ cmdKeys (envAt x.2 0 2) = [] ∨ 4 ≤ envAt x.2 2 2 then 1
        else if (cmdKeys (envAt x.2 0 2)).contains (envSlot x.2) = false ∨ Config.otpHolds (envSlot x.2) (s.keyGen (envSlot x.2)) = false then 2
        else if cmac256 (Config.otpKey (envSlot x.2) (s.keyGen (envSlot x.2))) (x.2.take (x.2.length - 16)) ≠ envTag x.2 then 3
        else if 0xFFFFFFFFFFFEFFFF < envCounter x.2 then 5 else 4)) ∧
  (∀ (s : State), s.qfa.res = none → s.cmdRuns = true → s.sec.cur = none → s.sec.warm = none →
      ∀ ch ∈ ((List.range 10).map (fun i => (s.sec.last + 1 + i) % 10)).find? (fun ch => (s.chanReq ch).isSome), ∀ x ∈ s.chanReq ch,
      32 ≤ x.2.length → x.2.length ≤ 4096 → 32 + envAt x.2 0xC 2 = x.2.length → envAt x.2 2 2 < 4 →
      (cmdKeys (envAt x.2 0 2)).contains (envSlot x.2) = true → Config.otpHolds (envSlot x.2) (s.keyGen (envSlot x.2)) = true →
      cmac256 (Config.otpKey (envSlot x.2) (s.keyGen (envSlot x.2))) (x.2.take (x.2.length - 16)) = envTag x.2 →
      envCounter x.2 ≤ 0xFFFFFFFFFFFEFFFF → s.num64 (aSecFloorLo (envSlot x.2)) (aSecFloorHi (envSlot x.2)) < envCounter x.2 →
      s.num64 (aSecCeilLo (envSlot x.2)) (aSecCeilHi (envSlot x.2)) ≤ envCounter x.2 →
    ∃ t, exec .commandEnvelope s = .next t ∧ t.jrnl = s.jrnl ++ [.ceiling (envSlot x.2) (BitVec.ofNat 64 (envCounter x.2 + 65536))] ∧
      t.sec.cur = some { ch := ch, xid := x.1, env := x.2, stage := .ceiling } ∧ t.reg aSecCmdCnt = s.reg aSecCmdCnt ∧
      t.reg (aSecFloorLo (envSlot x.2)) = s.reg (aSecFloorLo (envSlot x.2))) ∧
  (∀ (s : State) (c : BitVec 64) (v : Bool), s.qfa.res = none → s.cmdRuns = true → s.sec.cur = none → s.sec.warm = none →
      ∀ ch ∈ ((List.range 10).map (fun i => (s.sec.last + 1 + i) % 10)).find? (fun ch => (s.chanReq ch).isSome), ∀ x ∈ s.chanReq ch,
      x.2 = (leBytes 2 0x0301 ++ leBytes 2 2 ++ leBytes 8 c.toNat ++ leBytes 2 1 ++ leBytes 2 0 ++ [if v then 1 else 0]) ++
        cmac256 (Config.otpKey 2 (s.keyGen 2))
          (leBytes 2 0x0301 ++ leBytes 2 2 ++ leBytes 8 c.toNat ++ leBytes 2 1 ++ leBytes 2 0 ++ [if v then 1 else 0]) →
      Config.otpHolds 2 (s.keyGen 2) = true → c.toNat ≤ 0xFFFFFFFFFFFEFFFF →
      s.num64 (aSecFloorLo 2) (aSecFloorHi 2) < c.toNat → c.toNat < s.num64 (aSecCeilLo 2) (aSecCeilHi 2) →
    ∃ t, exec .commandEnvelope s = .next t ∧ bit (t.reg aSysMute) 0 = v ∧ t.reg (aSecFloorLo 2) = loW c ∧ t.reg (aSecFloorHi 2) = hiW c ∧
      t.reg aSecCmdCnt = (s.incSat aSecCmdCnt).reg aSecCmdCnt ∧ bit (t.reg aSecStat) 0 = true ∧ t.sec.cur = none ∧
      fld (t.reg aSecLast) 16 4 = 0 ∧ t.cached ch x.2 = some (s.response x.2 0 [] true)) ∧
  (∀ (s : State) (v : Word),
    (if fld (s.reg aSecCpStat) 0 2 = 0 ∧ 1 ≤ fld v 0 13 ∧ fld v 0 13 ≤ 4096 then
      ∃ t, exec (.secCpGo v) s = .next t ∧ bit (t.reg aSecCpStat) 0 = true ∧ t.sec.cpReq = some (s.regBytes (aSecCpIn 0) (fld v 0 13))
    else exec (.secCpGo v) s = .next (s.orReg aSecCpStat 0x100)) ∧
    (bit v 0 = true → exec (.secCpAck v) s = .next (s.clrReg aSecCpStat 2))) ∧
  (∀ (s : State) (ms : Bool), ∀ ch ∈ s.sec.warm,
    (ms = true ∨ s.readOut ch = true → ∃ t, exec (.setModeAnchorReset ms) s = .next t ∧
      t.pwr.mode = (if s.pwr.resetN then .boot else .anchor) ∧ t.reg aSysRstCause = s.reg aSysRstCause ||| 4 ∧ bit (t.reg aSysMute) 0 = true ∧
      t.sec.caches = s.sec.caches ∧ t.flash = s.flash ∧ t.threads = [] ∧ t.setup = State.reset.setup) ∧
    (ms = false → s.readOut ch = false → exec (.setModeAnchorReset ms) s = .next s))

/-- Operating points move with the voltage: clocks fall at a frame boundary before it and rise after it, and no step lets a cluster outrun it (17_clocks_power.md, R634; 17_clocks_power.md, R641 and R642; 17_clocks_power.md, R643; 17_clocks_power.md, R645; 17_clocks_power.md, R646 and R647; 19_electrical_package.md, R707). Where these bear on it, it rests on the model's choices of log entries 23, 200, 201. -/
def Obligations.VoltageAndClockRows : Prop :=
  (∀ (s : State) (c : Fin 16) (p : Fin 8),
    (∃ t, exec (.opRequest c p) s = .next t ∧ t.opTarget c ≤ 5) ∧
    (p.val ≤ 5 → ∃ t, exec (.opRequest c p) s = .next t ∧ t.opTarget c = p ∧ t.opCur c = s.opCur c ∧
      (p.val = s.opCur c → bit (t.reg aCkpStat) 8 = true) ∧
      (if s.ckp.vr = .idle ∧ s.vfail = false ∧ (List.range 16).all (fun i => decide (t.opCur i ≤ t.opTarget i)) = true then
        (if t.topTarget < s.vhi then t.ckp.vr = .ack false ∧ t.vlo = t.topTarget ∧ t.vcmd = t.topTarget
        else if s.vlo < t.topTarget then t.ckp.vr = .ack true ∧ t.vlo = s.vlo ∧ t.vcmd = t.topTarget
        else t.ckp = s.ckp ∧ t.vlo = s.vlo ∧ t.vcmd = s.vcmd)
      else t.ckp = s.ckp ∧ t.vlo = s.vlo ∧ t.vcmd = s.vcmd))) ∧
  (∀ (s : State) (c : Fin 16), s.atFrameBoundary = true →
    (s.opTarget c < s.opCur c → ∃ t, exec (.cclkLower c) s = .next t ∧ t.opCur c = s.opTarget c ∧ t.opTarget c = s.opTarget c ∧
      bit (t.reg aCkpStat) 8 = true) ∧
    (s.opCur c < s.opTarget c → s.opTarget c ≤ s.vlo → s.vfail = false → ∃ t, exec (.cclkRaise c) s = .next t ∧ t.opCur c = s.opTarget c ∧
      t.opTarget c = s.opTarget c ∧ bit (t.reg aCkpStat) 8 = true ∧ t.vlo = s.vlo)) ∧
  (∀ (s : State) (up : Bool), s.ckp.vr = .ack up → ∃ t, exec .voutCommandAck s = .next t ∧ t.ckp.vr = .poll up ∧ t.vlo = s.vlo ∧
    (up = true → t.vhi = s.vcmd)) ∧
  (∀ (s : State) (mv : BitVec 16) (up : Bool), s.ckp.vr = .poll up →
    (mv.toNat ≤ opMv s.vcmd + 10 → opMv s.vcmd ≤ mv.toNat + 10 → ∃ t, exec (.readVout mv) s = .next t ∧
      t.reg aCkpVrVout = mv.zeroExtend 32 ∧ (up = true → t.ckp.vr = .settle ∧ t.vlo = s.vlo ∧ t.vhi = s.vhi)) ∧
    (opMv s.vcmd + 10 < mv.toNat ∨ mv.toNat + 10 < opMv s.vcmd → ∃ t, exec (.readVout mv) s = .next t ∧
      t.reg aCkpVrVout = mv.zeroExtend 32 ∧ t.ckp.vr = .poll up ∧ t.vlo = s.vlo)) ∧
  (∀ (s : State) (mv : BitVec 16), s.ckp.vr = .boot ∨ s.ckp.vr = .retry →
    mv.toNat + 10 < opMv s.vlo ∨ opMv s.vhi + 10 < mv.toNat → ∃ t, exec (.readVout mv) s = .next t ∧ t.vfail = true ∧
      bit (t.reg aCkpStat) 9 = true) ∧
  (∀ (s : State), s.ckp.vr = .settle → s.vhi = s.vcmd → s.topTarget = s.vcmd →
    ∃ t, exec .settleExpire s = .next t ∧ t.ckp.vr = .idle ∧ t.vlo = s.vcmd ∧ t.vhi = s.vhi) ∧
  (∀ (s : State),
    (s.ckp.vr ≠ .idle → s.ckp.vr ≠ .settle → s.ckp.fails < 2 → exec .pmbusTimeout s = .next { s with ckp := { s.ckp with fails := s.ckp.fails + 1 } }) ∧
    (s.ckp.vr ≠ .idle → s.ckp.vr ≠ .settle → 2 ≤ s.ckp.fails → ∃ t, exec .pmbusTimeout s = .next t ∧ t.vfail = true ∧ t.ckp.vr = .idle ∧
      bit (t.reg aCkpStat) 9 = true ∧ ∀ c : Fin 16, t.opTarget c ≤ s.opTarget c ∧ (s.opCur c < s.opTarget c → t.opTarget c = s.opCur c)) ∧
    (s.ckp.vr = .poll true ∨ s.ckp.vr = .poll false → ∃ t, exec .vrReadbackTimeout s = .next t ∧ t.vfail = true ∧ t.ckp.vr = .idle ∧
      bit (t.reg aCkpStat) 9 = true) ∧
    (s.vfail = true → ∃ t, exec .vrRetry s = .next t ∧ t.vfail = false ∧ t.ckp.vr = .retry)) ∧
  (∀ (s t : State) (c : Fin 16) (p : Fin 8) (i : Instr), i ∈ [.opRequest c p, .cclkLower c, .cclkRaise c, .voutCommandAck] →
    s.reg aCkpClPwr = 0 → s.pwr.mode ≠ .bivouac → (List.range 16).all (fun j => decide (s.opCur j ≤ s.vlo)) = true →
    exec i s = .next t → (List.range 16).all (fun j => decide (t.opCur j ≤ t.vlo)) = true) ∧
  (∀ (s : State) (p : Fin 7),
    (∃ t, exec (.pllUnlock p) s = .next t ∧ bit (t.reg aCkpPllStat) p = true ∧ bit (t.reg aCkpStat) 10 = true ∧ t = { s with regs := t.regs }) ∧
    (∃ t, exec (.pllRelock p) s = .next t ∧ bit (t.reg aCkpPllStat) p = false ∧ t = { s with regs := t.regs })) ∧
  (∀ (s : State) (v : BitVec 12), ∃ t, exec (.tempUpdate v) s = .next t ∧ t.reg aCkpTemp = v.zeroExtend 32 ∧
    bit (t.reg aCkpStat) 12 = (bit (s.reg aCkpStat) 12 || decide (((s.reg aCkpTempHi).truncate 12 : BitVec 12).toInt ≤ v.toInt)))

/-- Mode requests are taken or refused as Table 17-6 gives; NEAP, SHORE and low power are entered and left at a frame boundary, and a wake is recorded once (17_clocks_power.md, R648 and R649; 17_clocks_power.md, R650 and R652; 17_clocks_power.md, R653; 17_clocks_power.md, R654 and R655; 17_clocks_power.md, R657 and R658; 17_clocks_power.md, R659; 17_clocks_power.md, R666; 17_clocks_power.md, R668 and R669; 17_clocks_power.md, Table 17-6). Where these bear on it, it rests on the model's choices of log entries 113, 203, 204. -/
def Obligations.ModeRows : Prop :=
  (∀ (s : State) (ini : Initiator) (v : Word),
    if ckpWriter ini (s.cstOf ini) = true then
      (match modeOf (fld v 0 4) with
      | some m =>
        if s.pwr.req = none ∧ s.pwr.entering = none ∧ ((s.pwr.mode = .run ∧ m = .neap ∧ s.neapOk = true) ∨ (s.pwr.mode, m) ∈
            [(Mode.run, Mode.shore), (.neap, .run), (.shore, .run), (.run, .bivouac), (.run, .lantern), (.neap, .bivouac), (.neap, .lantern),
             (.shore, .bivouac), (.shore, .lantern)]) then
          exec (.modeRequest ini v) s = .next { s with pwr := { s.pwr with req := some m } }
        else exec (.modeRequest ini v) s = .next (s.orReg aCkpStat 0x4000)
      | none => exec (.modeRequest ini v) s = .next (s.orReg aCkpStat 0x4000))
    else exec (.modeRequest ini v) s = .next s) ∧
  (∀ (s : State), s.atFrameBoundary = true → bit (s.reg aBwtrStat) 0 = false →
    (s.pwr.mode = .run → s.pwr.req = some .neap → ∃ t, exec .neapEntry s = .next t ∧ t.pwr.mode = .neap ∧ t.pwr.prev = .run ∧ t.pwr.req = none ∧
      bit (t.reg aCkpStat) 11 = true ∧ t.mem = s.mem ∧ ∀ c : Fin 16,
        fld (t.reg aCkpClPwr) (2 * c) 2 = (if fld (s.reg aCkpNeapCl) (2 * c) 2 = 3 then 0 else fld (s.reg aCkpNeapCl) (2 * c) 2) ∧
        t.memPwr (32 + c) = (match fld (s.reg aCkpNeapCl) (2 * c) 2 with | 1 => .ret | 2 => .off | _ => .on)) ∧
    (s.pwr.mode = .neap → s.pwr.req = some .run → ∃ t, exec .neapExit s = .next t ∧ t.pwr.mode = .run ∧ t.pwr.prev = .neap ∧ t.reg aCkpClPwr = 0 ∧
      bit (t.reg aCkpStat) 11 = true ∧ (∀ u : Fin 48, t.memPwr u = .on) ∧ ∀ a, t.byte a = s.byte a ∨ t.byte a = 0) ∧
    (s.pwr.mode = .run → s.pwr.req = some .shore → ∃ t, exec .shoreEntry s = .next t ∧ t.pwr.mode = .shore ∧ t.pwr.req = none ∧
      t = { s with regs := t.regs, pwr := t.pwr }) ∧
    (s.pwr.mode = .shore → s.pwr.req = some .run → ∃ t, exec .shoreExit s = .next t ∧ t.pwr.mode = .run ∧ t.pwr.req = none ∧
      t = { s with regs := t.regs, pwr := t.pwr })) ∧
  (∀ (s : State), s.atFrameBoundary = true → s.pwr.req = some .bivouac ∨ s.pwr.req = some .lantern →
    ∃ t, exec .lowPowerEntry s = .next t ∧ t.pwr.entering = s.pwr.req ∧ t.pwr.req = none ∧ t.pwr.back = s.pwr.mode ∧ t.pwr.mode = s.pwr.mode ∧
      t = { s with sap := t.sap, pwr := t.pwr }) ∧
  (∀ (s : State), ∀ m ∈ s.pwr.entering,
    (s.pwr.woken = true → exec .lowPowerEntryComplete s = .next s) ∧
    (s.pwr.woken = false → ∃ t, exec .lowPowerEntryComplete s = .next t ∧ t.pwr.mode = m ∧ t.pwr.prev = s.pwr.mode ∧ t.pwr.entering = none ∧
      t.pwr.paused = (List.range 64).filter (fun n => decide ((s.fry n).st ≠ .idle)) ∧ (s.pwr.mode ≠ .neap → t.mem = s.mem) ∧
      (∀ a, t.byte a = s.byte a ∨ t.byte a = 0) ∧ t.tide = s.tide ∧ (m = .lantern → t.pmbCtl = some false) ∧
      ∀ n : Fin 8, t.linkSt n = (if s.linkUp n then 3 else s.linkSt n))) ∧
  (∀ (s : State) (cls : Fin 5) (id : Fin 416) (dt : Nat), s.pwr.mode = .bivouac ∨ s.pwr.mode = .lantern ∨ s.pwr.entering.isSome = true → 1 ≤ cls.val →
      bit (s.reg aLantWakeEn) (cls - 1) = true → s.wakeSource cls id = true →
    ∃ t, exec (.wake cls id dt) s = .next t ∧ t.pwr.woken = true ∧ (s.pwr.mode = .lantern → t.pmbCtl = some true) ∧ t.lant.rtc = s.lant.rtc + BitVec.ofNat 48 dt ∧
      (if bit (s.reg (aLantWake 0)) 31 then t.reg (aLantWake 0) = s.reg (aLantWake 0) ∧ t.reg (aLantWake 1) = s.reg (aLantWake 1)
      else fld (t.reg (aLantWake 0)) 0 3 = cls ∧ bit (t.reg (aLantWake 0)) 31 = true ∧ (cls.val ≠ 3 → fld (t.reg (aLantWake 0)) 16 10 = id) ∧
        bit (t.reg aLantStat) 0 = true ∧ t.reg (aLantWake 1) = (s.lant.rtc + BitVec.ofNat 48 dt).truncate 32)) ∧
  (∀ (s : State), s.pwr.woken = true → s.pwr.mode = .bivouac → s.atFrameBoundary = true → bit (s.reg aBwtrStat) 0 = false →
    ∃ t, exec .bivouacReturn s = .next t ∧ t.pwr.mode = s.pwr.back ∧ t.pwr.woken = false ∧ bit (t.reg aLantStat) 8 = true ∧ t.mem = s.mem ∧
      t.tide = s.tide) ∧
  (∀ (s : State) (straps : BitVec 8), s.pwr.mode = .lantern → s.pwr.woken = true →
    ∃ t, exec (.lanternBoot straps) s = .next t ∧ t.pwr.mode = (if s.pwr.resetN then .boot else .anchor) ∧ t.lant = s.lant ∧
      t.flash = s.flash ∧ t.mem = [] ∧ t.threads = [] ∧ t.reg aSysStrap = straps.zeroExtend 32 ∧ bit (t.reg aSysRstCause) 3 = true ∧
      bit (t.reg aLantStat) 8 = true ∧ t.reg (aLantWake 0) = s.reg (aLantWake 0) ∧ t.reg aLantWakeEn = s.reg aLantWakeEn) ∧
  (∀ (s : State) (k : Fin 2) (dt : Nat), bit (s.reg (aLantRtccmpHi k)) 31 = true → s.lant.reached.testBit k = false →
      (s.reg (aLantRtccmpLo k)).toNat + fld (s.reg (aLantRtccmpHi k)) 0 16 * 2 ^ 32 ≤ (s.lant.rtc + BitVec.ofNat 48 dt).toNat →
    ∃ t, exec (.rtcCompareReached k dt) s = .next t ∧ bit (t.reg aLantStat) (9 + k) = true ∧ t.lant.rtc = s.lant.rtc + BitVec.ofNat 48 dt ∧
      t.lant.reached.testBit k = true) ∧
  (∀ (s : State), ∃ t, exec .wokeClear s = .next t ∧ t.reg aLantStat = s.reg aLantStat &&& ~~~0x101 ∧
    t.reg (aLantWake 0) = s.reg (aLantWake 0) &&& 0x7FFFFFFF ∧ t.reg (aLantWake 1) = s.reg (aLantWake 1) ∧ t = { s with regs := t.regs }) ∧
  (∀ (s : State), bit (s.reg aSecDbg) 0 = true →
    (s.pwr.req = none → s.pwr.entering = none → s.pwr.mode ∈ [.run, .neap, .shore, .degraded] → ∃ t, exec .haltRequest s = .next t ∧
      t.pwr = { s.pwr with req := some .halt } ∧ t.regs = s.regs) ∧
    (s.pwr.mode = .halt → ∃ t, exec .haltRelease s = .next t ∧ t.pwr = { s.pwr with req := some s.pwr.back } ∧ t.regs = s.regs))

/-- The control port answers its address, stores each byte of SEC_CP_IN and reads words; the TAP tests the board where R665 lets it, and DBGACC makes one access (17_clocks_power.md, R661 and R663; 17_clocks_power.md, R662; 17_clocks_power.md, R664; 17_clocks_power.md, R665; 17_clocks_power.md, R666; 17_clocks_power.md, Table 17-8; 17_clocks_power.md, Table 17-9). Where these bear on it, it rests on the model's choices of log entries 16, 214, 215. -/
def Obligations.PortAndTapRows : Prop :=
  (∀ (s : State) (a : BitVec 7), s.pwr.entering = none → s.pwr.mode ∈ [.boot, .pitch, .run, .neap, .shore, .degraded, .halt] →
    exec (.cpAddressMatch a) s = .next { s with cp := { s.cp with ready := bit (s.reg aLantCpCfg) 8 || decide (fld (s.reg aLantCpCfg) 0 7 = a.toNat) } }) ∧
  (∀ (s : State) (off : BitVec 16) (data : List Byte),
    (s.cp.ready = true → off = 0x1000 → data.length ≤ 4096 → bit (s.reg aSecCpStat) 0 = false → ∃ t, exec (.cpWrite off data) s = .next t ∧
      t.regBytes (aSecCpIn 0) data.length = data ∧ t.cp.ready = false ∧ t = { s with regs := t.regs, cp := t.cp }) ∧
    (s.cp.ready = false → exec (.cpWrite off data) s = .next s)) ∧
  (∀ (s : State) (off : BitVec 16), s.cp.ready = true → off.toNat % 4 = 0 → ∀ r ∈ cpReg off.toNat,
    ∃ t, exec (.cpRead off 4) s = .next t ∧ t.cp.ready = false ∧
      t.cp.out = (if bit (s.reg aLantCpCfg) 8 then [1] else []) ++ leBytes 4 (s.peek r.1).toNat ∧ t = { s with cp := t.cp }) ∧
  (∀ (s : State) (bits : List Bool),
    (s.tapMay = true →
      (∃ t, exec (.extest bits) s = .next t ∧ t.pwr.mode = .test ∧ t.tap.ir = 0 ∧ t.tap.pins = .extest ∧ t.tap.bsr = bits ∧
        (s.pwr.mode ≠ .test → ∀ k h, t.thread k h = Thread.reset)) ∧
      (∃ t, exec (.extestPulse bits) s = .next t ∧ t.pwr.mode = .test ∧ t.tap.ir = 5 ∧ t.tap.pins = .pulse ∧ t.tap.bsr = bits) ∧
      (∃ t, exec (.extestTrain bits) s = .next t ∧ t.pwr.mode = .test ∧ t.tap.ir = 6 ∧ t.tap.pins = .train ∧ t.tap.bsr = bits) ∧
      (∃ t, exec .clamp s = .next t ∧ t.pwr.mode = .test ∧ t.tap.ir = 3 ∧ t.tap.pins = .clamp ∧ t.tap.bsr = s.tap.bsr) ∧
      (∃ t, exec .highz s = .next t ∧ t.pwr.mode = .test ∧ t.tap.ir = 4 ∧ t.tap.pins = .highz ∧ t.tap.bsr = s.tap.bsr)) ∧
    (s.tapMay = false → exec (.extest bits) s = .next { s with tap := { s.tap with ir := 0xFF, bypass := false, pins := .none } }) ∧
    exec (.samplePreload bits) s = .next { s with tap := { s.tap with ir := 1, pins := .none, bsr := bits } } ∧
    exec .idcode s = .next { s with tap := { s.tap with ir := 2, pins := .none }, rdata := 0x15A0956B }) ∧
  (∀ (s : State) (code : BitVec 8), code ∉ [0, 1, 2, 3, 4, 5, 6, 0x10, 0x11] →
    exec (.bypass code) s = .next { s with tap := { s.tap with ir := 0xFF, bypass := false, pins := .none } }) ∧
  (∀ (s : State) (a : BitVec 44) (v : Word) (ecc : EccHit), ueHit ecc = false → s.memc.reqs.all (fun q => decide (q.ini ≠ .debug)) = true →
    (bit (s.reg aSecDbg) 0 = true → s.fabricIdle = true → ∀ b ∈ plainAddr (s.access false false a.toNat 4), s.awake (s.access false false a.toNat 4) = true →
      ∃ t, exec (.dbgacc a v 0 ecc) s = .next t ∧ t.tap.data = s.memWord b ∧ t.tap.status = 0 ∧ t.mem = s.mem ∧
        (ecc = .ok → t = { s with tap := t.tap, memc := t.memc } ∧ t.memc.reqs = [])) ∧
    (bit (s.reg aSecDbg) 0 = true → s.fabricIdle = true → ∀ b ∈ plainAddr (s.access false true a.toNat 4), s.awake (s.access false true a.toNat 4) = true →
      s.stagingHeld = false → ∃ t, exec (.dbgacc a v 1 ecc) s = .next t ∧ t.tap.status = 0 ∧
        ∀ x, t.byte x = if b ≤ x ∧ x < b + 4 then (leBytes 4 v.toNat).getD (x - b) 0 else s.byte x) ∧
    (bit (s.reg aSecDbg) 0 = true → s.fabricIdle = true → s.access false true a.toNat (s.beatLen a.toNat 4) = .fail →
      ∃ t, exec (.dbgacc a v 1 ecc) s = .next t ∧ t.tap.status = 2 ∧ t = { s with tap := t.tap, memc := t.memc }) ∧
    (bit (s.reg aSecDbg) 0 = true → s.fclkRuns = false → (∀ m x, s.decodeAddr a.toNat ≠ .remote m x) →
      ∃ t, exec (.dbgacc a v 1 ecc) s = .next t ∧ t.tap.status = 1 ∧ t = { s with tap := t.tap, memc := t.memc } ∧
        t.memc.reqs.take s.memc.reqs.length = s.memc.reqs ∧ t.memc.reqs.length = s.memc.reqs.length + 1) ∧
    (bit (s.reg aSecDbg) 0 = false → bit (s.reg aSecDbg) 1 = false →
      ∃ t, exec (.dbgacc a v 1 ecc) s = .next t ∧ t.tap.status = 3 ∧ t = { s with tap := t.tap }))

/-- COLD and WARM resets leave what Table 18-2 gives, straps are sampled once, a CLUSTER reset zeroes its local memories, and the boot ends its stages (18_reset_boot.md, R670 and R671; 18_reset_boot.md, R672; 18_reset_boot.md, R674; 18_reset_boot.md, R677; 18_reset_boot.md, R682; 18_reset_boot.md, R683; 18_reset_boot.md, R685 and R686; 18_reset_boot.md, R687; 18_reset_boot.md, Table 18-2). Where these bear on it, it rests on the model's choices of log entries 2, 206, 207, 208. -/
def Obligations.ResetRows : Prop :=
  (∀ (s : State),
    (s.pwr.mode ≠ .off → ∃ t, exec .coldReset s = .next t ∧ t.regs = [] ∧ t.mem = [] ∧ t.threads = [] ∧ t.flash = s.flash ∧ t.pwr.mode = .anchor ∧
      t.pwr.pwronN = false ∧ t.tide = State.reset.tide ∧ bit (t.reg aSysMute) 0 = true) ∧
    (s.pwr.mode = .off → ∃ t, exec .suppliesValid s = .next t ∧ t.regs = [] ∧ t.mem = [] ∧ t.flash = s.flash ∧ t.pwr.mode = .anchor ∧ t.pwr.pwronN = false)) ∧
  (∀ (s : State) (straps : BitVec 8), s.pwr.mode = .anchor → s.pwr.pwronN = false →
    ∃ t, exec (.powerOnRelease straps) s = .next t ∧ t.reg aSysStrap = straps.zeroExtend 32 ∧ t.pwr.pwronN = true ∧
      t.pwr.mode = (if s.pwr.resetN then .boot else .anchor) ∧ t.mem = s.mem) ∧
  (∀ (s : State),
    (∃ t, exec .resetNLow s = .next t ∧ t.pwr.resetN = false ∧ t.pwr.mode = s.pwr.mode ∧ (s.pwr.pwronN = true → bit (t.reg aSysMute) 0 = true) ∧
      t = { s with regs := t.regs, pwr := t.pwr }) ∧
    (s.pwr.resetN = false → s.pwr.pwronN = true → s.pwr.mode ≠ .off → s.pwr.mode ≠ .anchor → ∃ t, exec .warmReset s = .next t ∧
      t.pwr.mode = .anchor ∧ t.reg aSysRstCause = s.reg aSysRstCause ||| 2 ∧ t.flash = s.flash ∧ t.lant = s.lant ∧ t.threads = [] ∧
      t.reg aSysStrap = s.reg aSysStrap ∧ t.reg (aLantWake 0) = s.reg (aLantWake 0) ∧ bit (t.reg aSysMute) 0 = bit (s.reg aSysMute) 0 ∧
      t.reg aTideCfg = State.reset.reg aTideCfg ∧
      ∀ a, t.byte a = if regionOf a = some .ddr then 0 else s.byte a) ∧
    (s.pwr.resetN = false → s.pwr.pwronN = true → ∃ t, exec .resetNRise s = .next t ∧ t.pwr.resetN = true ∧
      (if s.pwr.mode = .anchor then t.pwr.mode = .boot ∧ ∀ a, a ≠ aCkpStat → t.reg a = s.reg a
      else t.pwr.mode = s.pwr.mode ∧ t.reg aSysRstCause = s.reg aSysRstCause ||| 0x10))) ∧
  (∀ (s : State) (ini : Initiator) (c : Fin 16), landSuper ini (s.cstOf ini) = true →
    (c = 0 ∨ bit (s.reg aSysClrstStat) c = true → exec (.clusterReset ini c []) s = .next (s.orReg aSysClrstStat 0x10000)) ∧
    (s.clrstRefused c = false → ∃ t, exec (.clusterReset ini c []) s = .next t ∧ bit (t.reg aSysClrstStat) c = true ∧
      (∀ (i : Fin 9) (h : Fin 4), t.thread (9 * c + i) h = Thread.reset) ∧ t.fry (2 * c) = Ferry.reset ∧ t.fry (2 * c + 1) = Ferry.reset ∧
      ∀ a, t.byte a = if localBase (9 * c) ≤ a ∧ a < localBase (9 * c) + 9 * 0x40000 then 0 else s.byte a)) ∧
  (∀ (s : State) (c : Fin 16), bit (s.reg aSysClrstStat) c = true →
    ∃ t, exec (.clusterResetComplete c) s = .next t ∧ bit (t.reg aSysClrstStat) c = false ∧ t.mem = s.mem ∧ t.reg aCkpXlast = BitVec.ofNat 32 c) ∧
  (∀ (s : State) (ini : Initiator) (v : Word), landSuper ini (s.cstOf ini) = true → bit v 0 = true →
    exec (.muteSet ini v) s = .next (s.orReg aSysMute 1)) ∧
  (∀ (s : State) (e : BootEnv), s.pwr.mode = .boot → s.stage = 0 → s.qfa.res = none →
    (e.flashOk = false → ∃ t, exec (.bootFromFlash e) s = .next t ∧ t.stage = 9 ∧ fld (t.reg aSysBootStat) 8 4 = 2 ∧
      ∀ a, regionOf a ≠ some .ddr → t.byte a = 0) ∧
    (e.flashOk = true → s.headerOk e 0 = false → s.headerOk e 0x10000 = false → ∃ t, exec (.bootFromFlash e) s = .next t ∧ t.stage = 9 ∧
      fld (t.reg aSysBootStat) 8 4 = 1 ∧ ∀ a, regionOf a ≠ some .ddr → t.byte a = 0) ∧
    (e.flashOk = true → s.headerOk e 0 = true → fld (s.reg aSysStrap) 0 2 = 1 → ∃ t, exec (.bootFromFlash e) s = .next t ∧ t.stage = 7 ∧
      t.reg aQfaSlotaOff = BitVec.ofNat 32 (s.flash32 8) ∧ t.reg aQfaStgBase = BitVec.ofNat 32 (s.flash32 0x20) ∧ t.boot.home = 7 ∧
      t.reg aJrnlSect = BitVec.ofNat 32 (s.flash32 0x18) ∧ t.flash = s.flash ∧ ∀ a, regionOf a ≠ some .ddr → t.byte a = 0))

/-- A register write replaces, clears or sets each bit as its access code says and touches no other register; a read gives the value and clears RC bits (00_scope.md, R7; 00_scope.md, R9; 00_scope.md, R10; 00_scope.md, R13; 14_host_network_memory.md, Table 14-10; 07_memory.md, Registers). Where these bear on it, it rests on the model's choices of log entry 17. -/
def Obligations.RegisterAccessCodes : Prop :=
  (∀ (s : State) (ini : Initiator) (ra : BitVec 44) (v : Word), ra.toNat % 4 = 0 → 0x400B0000 ≤ ra.toNat → ra.toNat < 0x400D0000 → ra.toNat ≠ aMemcUePop →
      inRegBlock ra.toNat = true → ∀ r ∈ regRow? ra.toNat,
    ∃ t, exec (.registerWrite ini ra v) s = .next t ∧ t = { s with regs := t.regs } ∧ (∀ b, b ≠ ra.toNat → t.reg b = s.reg b) ∧
      ∀ i : Fin 32, r.w1c.testBit i = false ∨ r.w1s.testBit i = false → (r.rw ||| r.rwl).testBit i = false ∨ (r.w1c ||| r.w1s).testBit i = false →
        bit (t.reg ra.toNat) i =
          (if r.w1c.testBit i then bit (s.reg ra.toNat) i && !bit v i
          else if r.w1s.testBit i then bit (s.reg ra.toNat) i || bit v i
          else if r.rw.testBit i || (r.rwl.testBit i && (decide (s.pwr.mode = .boot) || decide (s.pwr.mode = .pitch))) then bit v i
          else bit (s.reg ra.toNat) i)) ∧
  (∀ (s : State) (ini : Initiator) (ra : BitVec 44), ra.toNat % 4 = 0 → 0x400C0000 ≤ ra.toNat → ra.toNat < 0x400D0000 → inRegBlock ra.toNat = true →
      ∀ r ∈ regRow? ra.toNat,
    ∃ t, exec (.registerReadClear ini ra) s = .next t ∧ t.rdata = s.reg ra.toNat ∧ (∀ b, b ≠ ra.toNat → t.reg b = s.reg b) ∧
      t.reg ra.toNat = s.reg ra.toNat &&& ~~~(BitVec.ofNat 32 r.rc) ∧ t = { s with regs := t.regs, rdata := t.rdata }) ∧
  (∀ (s : State) (ini : Initiator) (ra : BitVec 44) (v : Word), ra.toNat % 4 = 0 → 0x400B0000 ≤ ra.toNat → ra.toNat < 0x400D0000 →
      inRegBlock ra.toNat = true → regRow? ra.toNat = none →
    exec (.registerWrite ini ra v) s = .next s ∧ exec (.registerReadClear ini ra) s = .next { s with rdata := 0 })

/-- Rows of Strand, camps, PCI Express, mailbox, Ethernet, journal, LPDDR5X, clocks and Lantern change their own unit's state and registers and nothing else (13_strand_camps.md, Strand links and camps; 14_host_network_memory.md, Host, network and external memory; 15_commands_journal.md, Commands and journal; 17_clocks_power.md, Clock domains, crossings, power and modes; opcode_table.json rows LINK_ENABLE to TEMP_UPDATE). -/
def Obligations.UnitRowsLeaveTheRest : Prop :=
  (∀ (s t : State) (c : Instr) (n : Fin 8) (tag : Fin 256) (fl : FlitIn) (v : Word),
    (c ∈ [.linkEnable n, .linkRetrain n, .strandSignalReturn n, .flitReceive n fl, .replayTimeout n, .linkBudgetExpire n] → exec c s = .next t →
      t = { s with regs := t.regs, links := t.links, camp := t.camp, draws := t.draws } ∧ t.camp = { s.camp with led := t.camp.led } ∧
      (∀ j, j ≠ n.val → t.link j = s.link j) ∧
      ∀ a, a < 0x40200000 + 0x10000 * n.val ∨ 0x40210000 + 0x10000 * n.val ≤ a → a = aCampKeeper ∨ a = aCampStat ∨ t.reg a = s.reg a) ∧
    (c ∈ [.flitSend n, .wfqPop n, .strTtoWrite n v, .cpl n, .wack n, .pwfn n, .transactionTimeout n tag, .delayTimer n] → exec c s = .next t →
      t = { s with regs := t.regs, links := t.links, memc := t.memc, bw := t.bw } ∧
      t.memc = { s.memc with reqs := t.memc.reqs } ∧ t.bw = { s.bw with notes := t.bw.notes } ∧ (∀ j, j ≠ n.val → t.link j = s.link j) ∧
      ∀ a, a < 0x40200000 + 0x10000 * n.val ∨ 0x40210000 + 0x10000 * n.val ≤ a → t.reg a = s.reg a)) ∧
  (∀ (s t : State) (c : Instr) (n : Fin 8) (rtt : Option Nat) (turn : Nat),
    c ∈ [.hello n, .helloTimer, .beacon n, .tempo n, .delay n rtt turn, .memberLoss n, .commandFragment n, .responseFragment n] → exec c s = .next t →
    t = { s with regs := t.regs, links := t.links, camp := t.camp, tide := t.tide } ∧
    ∀ a, a < 0x40200000 ∨ 0x40290000 ≤ a → a = aSecCmdRej ∨ a = aTideStat ∨ t.reg a = s.reg a) ∧
  (∀ (s t : State) (c : Instr) (gen : Fin 8) (width : Fin 16) (en mask : Bool) (kind : Fin 4) (k : Fin 1024) (v : Word),
    c ∈ [.pcieLinkUp gen width, .msixUnmask en mask, .functionReset kind, .mbInWrite k v, .mbGo v, .mbAck v, .perstNRelease] → exec c s = .next t →
    t = { s with regs := t.regs, pcie := t.pcie, memc := t.memc } ∧ t.memc.ue = s.memc.ue ∧ t.memc.pwr = s.memc.pwr ∧ ∀ a, a < 0x400D0000 ∨ 0x400E0000 ≤ a → t.reg a = s.reg a) ∧
  (∀ (s t : State) (c : Instr) (p : Fin 2) (b1 : Bool) (g1 g2 : Nat) (e : Fin 64) (kind : Fin 3) (v : Word) (now : BitVec 64),
    c ∈ [.ethModeTimeout p, .ethLinkUp p, .ethLinkLoss p, .ethFrameSend p g1 g2 now, .crfTalkerSend e, .streamEntryCfgWrite b1 e v,
      .txhWrite p v, .txfWrite p v, .rxfRead p, .ptpSet p v now, .gptpMessageTimer p kind now] → exec c s = .next t →
    t = { s with regs := t.regs, eth := t.eth, rdata := t.rdata } ∧ ∀ a, a < 0x400E0000 ∨ 0x40100000 ≤ a → t.reg a = s.reg a) ∧
  (∀ (s t : State) (e : Fin 64), exec (.aafTalkerSend e) s = .next t →
    t = { s with regs := t.regs, eth := t.eth, memc := t.memc, mem := t.mem } ∧ (∀ a, t.byte a = s.byte a ∨ t.byte a = 0) ∧
    ∀ a, a < 0x400E0000 ∨ 0x40100000 ≤ a → a = aMemcWakeCnt ∨ t.reg a = s.reg a) ∧
  (∀ (s t : State) (c : Instr) (i : Fin 16) (p : Fin 8) (q : Fin 7) (mv : BitVec 16) (x : BitVec 12),
    c ∈ [.opRequest i p, .cclkLower i, .cclkRaise i, .voutCommandAck, .readVout mv, .settleExpire, .pmbusTimeout, .vrReadbackTimeout, .vrRetry,
      .pllUnlock q, .pllRelock q, .tempUpdate x] → exec c s = .next t →
    t = { s with regs := t.regs, ckp := t.ckp } ∧ ∀ a, a < 0x40050000 ∨ 0x40060000 ≤ a → t.reg a = s.reg a) ∧
  (∀ (s t : State) (c : Instr) (ini : Initiator) (v : Word) (r0 r1 : BitVec 5) (ok : Bool) (m : BitVec 7),
    c ∈ [.journalAppend ini v, .journalRead ini v, .mr4Poll r0 r1, .ddrTracking ok, .flashRenegotiate v, .flashRenegotiationComplete m ok,
      .secCpGo v, .secCpAck v, .muteSet ini v] → exec c s = .next t →
    t = { s with regs := t.regs, jrnl := t.jrnl, sec := t.sec } ∧
    ∀ a, a < 0x40000000 ∨ 0x40000200 ≤ a → a < 0x40070000 ∨ 0x40090000 ≤ a → a < 0x400C0000 ∨ 0x400D0000 ≤ a → t.reg a = s.reg a) ∧
  (∀ (s t : State) (c : Instr) (ini : Initiator) (v : Word) (k : Fin 2) (dt : Nat),
    c ∈ [.modeRequest ini v, .wokeClear, .rtcCompareReached k dt, .haltRequest, .haltRelease, .shoreEntry, .shoreExit] → exec c s = .next t →
    t = { s with regs := t.regs, lant := t.lant, pwr := t.pwr, tap := t.tap } ∧
    ∀ a, a < 0x40050000 ∨ 0x40070000 ≤ a → t.reg a = s.reg a)
end

