-- ==== Sys2Proof/Laws/SMap.lean ====
section
/-! SUPPORT. The laws of sparse maps: a read after a write, and the canonical form, which every operation keeps. -/

namespace Sys2Proof.Machine

variable {α : Type}

@[simp] theorem smGet_nil (d : Nat → α) (k : Nat) : smGet d [] k = d k := rfl

theorem smGet_cons (d : Nat → α) (k' : Nat) (v : α) (m : SMap α) (k : Nat) :
    smGet d ((k', v) :: m) k = if k = k' then v else smGet d m k := rfl

/-- A read after an insertion. -/
theorem smGet_smPut (d : Nat → α) (m : SMap α) (k : Nat) (v : α) (j : Nat) :
    smGet d (smPut m k v) j = if j = k then v else smGet d m j := by
  induction m with
  | nil => simp [smPut, smGet]
  | cons e m ih =>
    obtain ⟨k', v'⟩ := e
    simp only [smPut]
    split
    · simp [smGet]
    · split
      · rename_i h; subst h; simp only [smGet]; split <;> rfl
      · rename_i h; simp only [smGet, ih]
        split <;> split <;> first | rfl | omega

/-- A read after a removal. -/
theorem smGet_smDel (d : Nat → α) (m : SMap α) (k j : Nat) :
    smGet d (smDel m k) j = if j = k then d j else smGet d m j := by
  induction m with
  | nil => simp [smDel, smGet]
  | cons e m ih =>
    obtain ⟨k', v'⟩ := e
    simp only [smDel]
    split
    · rename_i h; subst h; rw [ih]; simp only [smGet]; split <;> rfl
    · rename_i h; simp only [smGet, ih]
      split <;> split <;> first | rfl | omega

/-- A read after a write gives the value written at its key, and what it gave before at every other key. -/
@[simp] theorem smGet_smSet [DecidableEq α] (d : Nat → α) (m : SMap α) (k : Nat) (v : α) (j : Nat) :
    smGet d (smSet d m k v) j = if j = k then v else smGet d m j := by
  unfold smSet
  split
  · rename_i h; rw [smGet_smDel]; split
    · rename_i e; rw [e, h]
    · rfl
  · rw [smGet_smPut]

/-- A read after keeping some keys. -/
@[simp] theorem smGet_smKeep (d : Nat → α) (p : Nat → Bool) (m : SMap α) (j : Nat) :
    smGet d (smKeep p m) j = if p j then smGet d m j else d j := by
  induction m with
  | nil => simp [smKeep, smGet]
  | cons e m ih =>
    obtain ⟨k', v'⟩ := e
    simp only [smKeep]
    split
    · rename_i h; simp only [smGet, ih]; split
      · rename_i e; subst e; simp [h]
      · rfl
    · rename_i h; rw [ih]; simp only [smGet]; split
      · split
        · rename_i e; subst e; contradiction
        · rfl
      · rfl

theorem smAbove_mono (m : SMap α) (i j : Nat) (h : smAbove j m = true) (hij : i ≤ j) : smAbove i m = true := by
  cases m with
  | nil => rfl
  | cons e m =>
    obtain ⟨k', v'⟩ := e
    simp only [smAbove, Bool.and_eq_true, decide_eq_true_eq] at h ⊢
    exact ⟨by omega, h.2⟩

theorem smAbove_smPut (m : SMap α) (j k : Nat) (v : α) (h : smAbove j m = true) (hk : j < k) :
    smAbove j (smPut m k v) = true := by
  induction m generalizing j with
  | nil => simp [smPut, smAbove, hk]
  | cons e m ih =>
    obtain ⟨k', v'⟩ := e
    simp only [smAbove, Bool.and_eq_true, decide_eq_true_eq] at h
    simp only [smPut]
    split
    · rename_i hlt; simp [smAbove, hk, h.2, hlt]
    · split
      · rename_i e; subst e; simp [smAbove, hk, h.2]
      · simp only [smAbove, Bool.and_eq_true, decide_eq_true_eq]
        exact ⟨h.1, ih k' h.2 (by omega)⟩

theorem smAbove_smDel (m : SMap α) (j k : Nat) (h : smAbove j m = true) : smAbove j (smDel m k) = true := by
  induction m generalizing j with
  | nil => rfl
  | cons e m ih =>
    obtain ⟨k', v'⟩ := e
    simp only [smAbove, Bool.and_eq_true, decide_eq_true_eq] at h
    simp only [smDel]
    split
    · exact ih j (smAbove_mono _ _ _ h.2 (by omega))
    · simp only [smAbove, Bool.and_eq_true, decide_eq_true_eq]; exact ⟨h.1, ih k' h.2⟩

theorem smAbove_smKeep (m : SMap α) (j : Nat) (p : Nat → Bool) (h : smAbove j m = true) : smAbove j (smKeep p m) = true := by
  induction m generalizing j with
  | nil => rfl
  | cons e m ih =>
    obtain ⟨k', v'⟩ := e
    simp only [smAbove, Bool.and_eq_true, decide_eq_true_eq] at h
    simp only [smKeep]
    split
    · simp only [smAbove, Bool.and_eq_true, decide_eq_true_eq]; exact ⟨h.1, ih k' h.2⟩
    · exact ih j (smAbove_mono _ _ _ h.2 (by omega))

@[simp] theorem smWf_nil [DecidableEq α] (d : Nat → α) : smWf d ([] : SMap α) = true := rfl

theorem smWf_smDel [DecidableEq α] (d : Nat → α) (m : SMap α) (k : Nat) (h : smWf d m = true) : smWf d (smDel m k) = true := by
  induction m with
  | nil => rfl
  | cons e m ih =>
    obtain ⟨k', v'⟩ := e
    simp only [smWf, Bool.and_eq_true] at h
    simp only [smDel]
    split
    · exact ih h.2
    · simp [smWf, ih h.2, smAbove_smDel _ _ _ h.1.2, of_decide_eq_true h.1.1]

theorem smWf_smPut [DecidableEq α] (d : Nat → α) (m : SMap α) (k : Nat) (v : α) (hv : v ≠ d k) (h : smWf d m = true) :
    smWf d (smPut m k v) = true := by
  induction m with
  | nil => simp [smPut, smWf, smAbove, hv]
  | cons e m ih =>
    obtain ⟨k', v'⟩ := e
    simp only [smWf, Bool.and_eq_true] at h
    have hd := of_decide_eq_true h.1.1
    simp only [smPut]
    split
    · rename_i hk
      simp [smWf, smAbove, hv, hk, hd, h.1.2, h.2]
    · split
      · rename_i hk; subst hk; simp [smWf, hv, h.1.2, h.2]
      · rename_i hlt hne
        have : k' < k := by omega
        simp [smWf, hd, ih h.2, smAbove_smPut _ _ _ _ h.1.2 this]

/-- A write keeps the canonical form. -/
theorem smWf_smSet [DecidableEq α] (d : Nat → α) (m : SMap α) (k : Nat) (v : α) (h : smWf d m = true) :
    smWf d (smSet d m k v) = true := by
  unfold smSet
  split
  · exact smWf_smDel d m k h
  · rename_i hv; exact smWf_smPut d m k v hv h

/-- Keeping some keys keeps the canonical form. -/
theorem smWf_smKeep [DecidableEq α] (d : Nat → α) (m : SMap α) (p : Nat → Bool) (h : smWf d m = true) :
    smWf d (smKeep p m) = true := by
  induction m with
  | nil => rfl
  | cons e m ih =>
    obtain ⟨k', v'⟩ := e
    simp only [smWf, Bool.and_eq_true] at h
    simp only [smKeep]
    split
    · simp [smWf, ih h.2, smAbove_smKeep _ _ _ h.1.2, of_decide_eq_true h.1.1]
    · exact ih h.2

theorem smGet_of_smAbove (d : Nat → α) (m : SMap α) (k j : Nat) (h : smAbove k m = true) (hj : j ≤ k) : smGet d m j = d j := by
  induction m generalizing k with
  | nil => rfl
  | cons e m ih =>
    obtain ⟨k', v'⟩ := e
    simp only [smAbove, Bool.and_eq_true, decide_eq_true_eq] at h
    rw [smGet_cons, if_neg (by omega), ih k' h.2 (by omega)]

/-- Canonical maps that read alike at every key are equal. -/
theorem smap_ext [DecidableEq α] (d : Nat → α) (m n : SMap α) (hm : smWf d m = true) (hn : smWf d n = true)
    (h : ∀ k, smGet d m k = smGet d n k) : m = n := by
  induction m generalizing n with
  | nil =>
    cases n with
    | nil => rfl
    | cons e n =>
      obtain ⟨k, v⟩ := e
      simp only [smWf, Bool.and_eq_true] at hn
      exact absurd (by have := h k; simpa [smGet] using this.symm) (of_decide_eq_true hn.1.1)
  | cons e m ih =>
    obtain ⟨k, v⟩ := e
    simp only [smWf, Bool.and_eq_true] at hm
    have hv := of_decide_eq_true hm.1.1
    cases n with
    | nil => exact absurd (by have := h k; simpa [smGet] using this) hv
    | cons e' n =>
      obtain ⟨k', v'⟩ := e'
      simp only [smWf, Bool.and_eq_true] at hn
      have hv' := of_decide_eq_true hn.1.1
      have hk := h k
      have hk' := h k'
      simp only [smGet_cons, if_true] at hk hk'
      rcases Nat.lt_trichotomy k k' with hlt | heq | hgt
      · rw [if_neg (by omega), smGet_of_smAbove d n k' k hn.1.2 (by omega)] at hk
        exact absurd hk hv
      · subst heq
        rw [if_pos rfl] at hk
        subst hk
        congr 1
        apply ih n hm.2 hn.2
        intro j
        have hj := h j
        simp only [smGet_cons] at hj
        by_cases e : j = k
        · subst e; rw [smGet_of_smAbove d m j j hm.1.2 (by omega), smGet_of_smAbove d n j j hn.1.2 (by omega)]
        · rwa [if_neg e, if_neg e] at hj
      · rw [if_neg (by omega), smGet_of_smAbove d m k k' hm.1.2 (by omega)] at hk'
        exact absurd hk'.symm hv'

end Sys2Proof.Machine
end

