-- ==== Sys2Proof/Laws/State.lean ====
section
/-! SUPPORT. What the named operations over State leave as it is, field by field, and what a read after a write gives. -/

namespace Sys2Proof.Machine

/-! ## Reads after writes -/

@[simp] theorem State.reg_setReg (s : State) (a : Nat) (v : Word) (b : Nat) : (s.setReg a v).reg b = if b = a then v else s.reg b := by
  simp [State.reg, State.setReg]

@[simp] theorem State.reg_orReg (s : State) (a : Nat) (m : Word) (b : Nat) :
    (s.orReg a m).reg b = if b = a then s.reg a ||| m else s.reg b := by simp [State.orReg]

@[simp] theorem State.reg_clrReg (s : State) (a : Nat) (m : Word) (b : Nat) :
    (s.clrReg a m).reg b = if b = a then s.reg a &&& ~~~m else s.reg b := by simp [State.clrReg]

@[simp] theorem State.reg_orRegIf (s : State) (c : Bool) (a : Nat) (m : Word) (b : Nat) :
    (s.orRegIf c a m).reg b = if b = a ∧ c = true then s.reg a ||| m else s.reg b := by
  cases c <;> simp [State.orRegIf]

@[simp] theorem State.reg_setRegFld (s : State) (a lo w x b : Nat) :
    (s.setRegFld a lo w x).reg b = if b = a then setFld (s.reg a) lo w x else s.reg b := by simp [State.setRegFld]

@[simp] theorem State.reg_incSat (s : State) (a b : Nat) :
    (s.incSat a).reg b = if b = a then (if s.reg a = 0xFFFFFFFF then 0xFFFFFFFF else s.reg a + 1) else s.reg b := by
  simp [State.incSat]

@[simp] theorem State.reg_addReg (s : State) (a n b : Nat) :
    (s.addReg a n).reg b = if b = a then s.reg a + BitVec.ofNat 32 n else s.reg b := by simp [State.addReg]

@[simp] theorem State.reg_incFld (s : State) (a lo w n b : Nat) :
    (s.incFld a lo w n).reg b =
      if b = a then setFld (s.reg a) lo w (min (2 ^ w - 1) (fld (s.reg a) lo w + n)) else s.reg b := by simp [State.incFld]

/-- Bytes written are read back, and every other byte reads as before. -/
theorem smGet_writeMem (m : SMap Byte) (a : Nat) (bs : List Byte) (b : Nat) :
    smGet memDefault (writeMem m a bs) b =
      if a ≤ b ∧ b < a + bs.length then bs.getD (b - a) 0 else smGet memDefault m b := by
  induction bs generalizing m a with
  | nil => simp only [writeMem, List.length_nil]; rw [if_neg (by omega)]
  | cons x bs ih =>
    simp only [writeMem, ih, List.length_cons, smGet_smSet]
    rcases Nat.lt_trichotomy b a with h | h | h
    · rw [if_neg (by omega), if_neg (by omega), if_neg (by omega)]
    · subst h; rw [if_neg (by omega), if_pos rfl, if_pos (by omega)]; simp
    · obtain ⟨d, rfl⟩ : ∃ d, b = a + 1 + d := ⟨b - (a + 1), by omega⟩
      by_cases hd : d < bs.length
      · rw [if_pos (by omega), if_pos (by omega), show a + 1 + d - (a + 1) = d by omega, show a + 1 + d - a = d + 1 by omega]
        simp
      · rw [if_neg (by omega), if_neg (by omega), if_neg (by omega)]

/-- A byte after a store. -/
theorem State.byte_store (s : State) (a : Nat) (bs : List Byte) (b : Nat) :
    (s.store a bs).byte b = if a ≤ b ∧ b < a + bs.length then bs.getD (b - a) 0 else s.byte b :=
  smGet_writeMem s.mem a bs b

/-- A byte after a fill with zero. -/
theorem State.byte_zero (s : State) (a n b : Nat) : (s.zero a n).byte b = if a ≤ b ∧ b < a + n then 0 else s.byte b := by
  by_cases h : a ≤ b ∧ b < a + n
  · simp [State.byte, State.zero, h, memDefault]
  · simp only [State.byte, State.zero, smGet_smKeep, h, if_false]
    simp only [not_and_or] at h
    rcases h with h | h <;> simp [h]

@[simp] theorem State.thread_setThread (s : State) (k t : Nat) (th : Thread) : (s.setThread k t th).thread k t = th := by
  simp [State.thread, State.setThread]

@[simp] theorem State.core_setCore (s : State) (k : Nat) (c : CoreSt) (j : Nat) :
    (s.setCore k c).core j = if j = k then c else s.core j := by simp [State.core, State.setCore]

@[simp] theorem State.byte_setReg (s : State) (a : Nat) (v : Word) (b : Nat) : (s.setReg a v).byte b = s.byte b := rfl

/-! ## The canonical form -/

theorem smWf_writeMem (m : SMap Byte) (a : Nat) (bs : List Byte) (h : smWf memDefault m = true) :
    smWf memDefault (writeMem m a bs) = true := by
  induction bs generalizing m a with
  | nil => exact h
  | cons x bs ih => exact ih _ _ (smWf_smSet _ _ _ _ h)

theorem smWf_program (m : SMap Byte) (a : Nat) (es : List (Byte × Nat)) (h : smWf flashDefault m = true) :
    smWf flashDefault (es.foldl (fun m e => smSet flashDefault m (a + e.2) e.1) m) = true := by
  induction es generalizing m with
  | nil => exact h
  | cons x es ih => exact ih _ (smWf_smSet _ _ _ _ h)

/-! ## Fields left as they are -/

@[simp] theorem State.setReg_mem (s : State) (a : Nat) (v : Word) : (s.setReg a v).mem = s.mem := rfl
@[simp] theorem State.setReg_tide (s : State) (a : Nat) (v : Word) : (s.setReg a v).tide = s.tide := rfl
@[simp] theorem State.setReg_cmps (s : State) (a : Nat) (v : Word) : (s.setReg a v).cmps = s.cmps := rfl
@[simp] theorem State.setReg_srcs (s : State) (a : Nat) (v : Word) : (s.setReg a v).srcs = s.srcs := rfl
@[simp] theorem State.setReg_threads (s : State) (a : Nat) (v : Word) : (s.setReg a v).threads = s.threads := rfl
@[simp] theorem State.setReg_cores (s : State) (a : Nat) (v : Word) : (s.setReg a v).cores = s.cores := rfl
@[simp] theorem State.setReg_memc (s : State) (a : Nat) (v : Word) : (s.setReg a v).memc = s.memc := rfl
@[simp] theorem State.setReg_ferry (s : State) (a : Nat) (v : Word) : (s.setReg a v).ferry = s.ferry := rfl
@[simp] theorem State.setReg_setup (s : State) (a : Nat) (v : Word) : (s.setReg a v).setup = s.setup := rfl
@[simp] theorem State.setReg_bw (s : State) (a : Nat) (v : Word) : (s.setReg a v).bw = s.bw := rfl
@[simp] theorem State.setReg_qfa (s : State) (a : Nat) (v : Word) : (s.setReg a v).qfa = s.qfa := rfl
@[simp] theorem State.setReg_flash (s : State) (a : Nat) (v : Word) : (s.setReg a v).flash = s.flash := rfl
@[simp] theorem State.setReg_sec (s : State) (a : Nat) (v : Word) : (s.setReg a v).sec = s.sec := rfl
@[simp] theorem State.setReg_jrnl (s : State) (a : Nat) (v : Word) : (s.setReg a v).jrnl = s.jrnl := rfl
@[simp] theorem State.setReg_boot (s : State) (a : Nat) (v : Word) : (s.setReg a v).boot = s.boot := rfl
@[simp] theorem State.setReg_pwr (s : State) (a : Nat) (v : Word) : (s.setReg a v).pwr = s.pwr := rfl
@[simp] theorem State.setReg_ckp (s : State) (a : Nat) (v : Word) : (s.setReg a v).ckp = s.ckp := rfl
@[simp] theorem State.setReg_lant (s : State) (a : Nat) (v : Word) : (s.setReg a v).lant = s.lant := rfl
@[simp] theorem State.setReg_cp (s : State) (a : Nat) (v : Word) : (s.setReg a v).cp = s.cp := rfl
@[simp] theorem State.setReg_tap (s : State) (a : Nat) (v : Word) : (s.setReg a v).tap = s.tap := rfl
@[simp] theorem State.setReg_evi (s : State) (a : Nat) (v : Word) : (s.setReg a v).evi = s.evi := rfl
@[simp] theorem State.setReg_hold (s : State) (a : Nat) (v : Word) : (s.setReg a v).hold = s.hold := rfl
@[simp] theorem State.setReg_sap (s : State) (a : Nat) (v : Word) : (s.setReg a v).sap = s.sap := rfl
@[simp] theorem State.setReg_links (s : State) (a : Nat) (v : Word) : (s.setReg a v).links = s.links := rfl
@[simp] theorem State.setReg_pcie (s : State) (a : Nat) (v : Word) : (s.setReg a v).pcie = s.pcie := rfl
@[simp] theorem State.setReg_eth (s : State) (a : Nat) (v : Word) : (s.setReg a v).eth = s.eth := rfl
@[simp] theorem State.setReg_camp (s : State) (a : Nat) (v : Word) : (s.setReg a v).camp = s.camp := rfl
@[simp] theorem State.setReg_draws (s : State) (a : Nat) (v : Word) : (s.setReg a v).draws = s.draws := rfl
@[simp] theorem State.setReg_freeCtr (s : State) (a : Nat) (v : Word) : (s.setReg a v).freeCtr = s.freeCtr := rfl
@[simp] theorem State.setReg_rdata (s : State) (a : Nat) (v : Word) : (s.setReg a v).rdata = s.rdata := rfl
@[simp] theorem State.setReg_pending (s : State) (a : Nat) (v : Word) : (s.setReg a v).pending = s.pending := rfl

@[simp] theorem State.orReg_mem (s : State) (a : Nat) (m : Word) : (s.orReg a m).mem = s.mem := rfl
@[simp] theorem State.orReg_tide (s : State) (a : Nat) (m : Word) : (s.orReg a m).tide = s.tide := rfl
@[simp] theorem State.orReg_cmps (s : State) (a : Nat) (m : Word) : (s.orReg a m).cmps = s.cmps := rfl
@[simp] theorem State.orReg_srcs (s : State) (a : Nat) (m : Word) : (s.orReg a m).srcs = s.srcs := rfl
@[simp] theorem State.orReg_threads (s : State) (a : Nat) (m : Word) : (s.orReg a m).threads = s.threads := rfl
@[simp] theorem State.orReg_cores (s : State) (a : Nat) (m : Word) : (s.orReg a m).cores = s.cores := rfl
@[simp] theorem State.orReg_memc (s : State) (a : Nat) (m : Word) : (s.orReg a m).memc = s.memc := rfl
@[simp] theorem State.orReg_ferry (s : State) (a : Nat) (m : Word) : (s.orReg a m).ferry = s.ferry := rfl
@[simp] theorem State.orReg_setup (s : State) (a : Nat) (m : Word) : (s.orReg a m).setup = s.setup := rfl
@[simp] theorem State.orReg_bw (s : State) (a : Nat) (m : Word) : (s.orReg a m).bw = s.bw := rfl
@[simp] theorem State.orReg_qfa (s : State) (a : Nat) (m : Word) : (s.orReg a m).qfa = s.qfa := rfl
@[simp] theorem State.orReg_flash (s : State) (a : Nat) (m : Word) : (s.orReg a m).flash = s.flash := rfl
@[simp] theorem State.orReg_sec (s : State) (a : Nat) (m : Word) : (s.orReg a m).sec = s.sec := rfl
@[simp] theorem State.orReg_jrnl (s : State) (a : Nat) (m : Word) : (s.orReg a m).jrnl = s.jrnl := rfl
@[simp] theorem State.orReg_boot (s : State) (a : Nat) (m : Word) : (s.orReg a m).boot = s.boot := rfl
@[simp] theorem State.orReg_pwr (s : State) (a : Nat) (m : Word) : (s.orReg a m).pwr = s.pwr := rfl
@[simp] theorem State.orReg_ckp (s : State) (a : Nat) (m : Word) : (s.orReg a m).ckp = s.ckp := rfl
@[simp] theorem State.orReg_lant (s : State) (a : Nat) (m : Word) : (s.orReg a m).lant = s.lant := rfl
@[simp] theorem State.orReg_cp (s : State) (a : Nat) (m : Word) : (s.orReg a m).cp = s.cp := rfl
@[simp] theorem State.orReg_tap (s : State) (a : Nat) (m : Word) : (s.orReg a m).tap = s.tap := rfl
@[simp] theorem State.orReg_evi (s : State) (a : Nat) (m : Word) : (s.orReg a m).evi = s.evi := rfl
@[simp] theorem State.orReg_hold (s : State) (a : Nat) (m : Word) : (s.orReg a m).hold = s.hold := rfl
@[simp] theorem State.orReg_sap (s : State) (a : Nat) (m : Word) : (s.orReg a m).sap = s.sap := rfl
@[simp] theorem State.orReg_links (s : State) (a : Nat) (m : Word) : (s.orReg a m).links = s.links := rfl
@[simp] theorem State.orReg_pcie (s : State) (a : Nat) (m : Word) : (s.orReg a m).pcie = s.pcie := rfl
@[simp] theorem State.orReg_eth (s : State) (a : Nat) (m : Word) : (s.orReg a m).eth = s.eth := rfl
@[simp] theorem State.orReg_camp (s : State) (a : Nat) (m : Word) : (s.orReg a m).camp = s.camp := rfl
@[simp] theorem State.orReg_draws (s : State) (a : Nat) (m : Word) : (s.orReg a m).draws = s.draws := rfl
@[simp] theorem State.orReg_freeCtr (s : State) (a : Nat) (m : Word) : (s.orReg a m).freeCtr = s.freeCtr := rfl
@[simp] theorem State.orReg_rdata (s : State) (a : Nat) (m : Word) : (s.orReg a m).rdata = s.rdata := rfl
@[simp] theorem State.orReg_pending (s : State) (a : Nat) (m : Word) : (s.orReg a m).pending = s.pending := rfl

@[simp] theorem State.clrReg_mem (s : State) (a : Nat) (m : Word) : (s.clrReg a m).mem = s.mem := rfl
@[simp] theorem State.clrReg_tide (s : State) (a : Nat) (m : Word) : (s.clrReg a m).tide = s.tide := rfl
@[simp] theorem State.clrReg_cmps (s : State) (a : Nat) (m : Word) : (s.clrReg a m).cmps = s.cmps := rfl
@[simp] theorem State.clrReg_srcs (s : State) (a : Nat) (m : Word) : (s.clrReg a m).srcs = s.srcs := rfl
@[simp] theorem State.clrReg_threads (s : State) (a : Nat) (m : Word) : (s.clrReg a m).threads = s.threads := rfl
@[simp] theorem State.clrReg_cores (s : State) (a : Nat) (m : Word) : (s.clrReg a m).cores = s.cores := rfl
@[simp] theorem State.clrReg_memc (s : State) (a : Nat) (m : Word) : (s.clrReg a m).memc = s.memc := rfl
@[simp] theorem State.clrReg_ferry (s : State) (a : Nat) (m : Word) : (s.clrReg a m).ferry = s.ferry := rfl
@[simp] theorem State.clrReg_setup (s : State) (a : Nat) (m : Word) : (s.clrReg a m).setup = s.setup := rfl
@[simp] theorem State.clrReg_bw (s : State) (a : Nat) (m : Word) : (s.clrReg a m).bw = s.bw := rfl
@[simp] theorem State.clrReg_qfa (s : State) (a : Nat) (m : Word) : (s.clrReg a m).qfa = s.qfa := rfl
@[simp] theorem State.clrReg_flash (s : State) (a : Nat) (m : Word) : (s.clrReg a m).flash = s.flash := rfl
@[simp] theorem State.clrReg_sec (s : State) (a : Nat) (m : Word) : (s.clrReg a m).sec = s.sec := rfl
@[simp] theorem State.clrReg_jrnl (s : State) (a : Nat) (m : Word) : (s.clrReg a m).jrnl = s.jrnl := rfl
@[simp] theorem State.clrReg_boot (s : State) (a : Nat) (m : Word) : (s.clrReg a m).boot = s.boot := rfl
@[simp] theorem State.clrReg_pwr (s : State) (a : Nat) (m : Word) : (s.clrReg a m).pwr = s.pwr := rfl
@[simp] theorem State.clrReg_ckp (s : State) (a : Nat) (m : Word) : (s.clrReg a m).ckp = s.ckp := rfl
@[simp] theorem State.clrReg_lant (s : State) (a : Nat) (m : Word) : (s.clrReg a m).lant = s.lant := rfl
@[simp] theorem State.clrReg_cp (s : State) (a : Nat) (m : Word) : (s.clrReg a m).cp = s.cp := rfl
@[simp] theorem State.clrReg_tap (s : State) (a : Nat) (m : Word) : (s.clrReg a m).tap = s.tap := rfl
@[simp] theorem State.clrReg_evi (s : State) (a : Nat) (m : Word) : (s.clrReg a m).evi = s.evi := rfl
@[simp] theorem State.clrReg_hold (s : State) (a : Nat) (m : Word) : (s.clrReg a m).hold = s.hold := rfl
@[simp] theorem State.clrReg_sap (s : State) (a : Nat) (m : Word) : (s.clrReg a m).sap = s.sap := rfl
@[simp] theorem State.clrReg_links (s : State) (a : Nat) (m : Word) : (s.clrReg a m).links = s.links := rfl
@[simp] theorem State.clrReg_pcie (s : State) (a : Nat) (m : Word) : (s.clrReg a m).pcie = s.pcie := rfl
@[simp] theorem State.clrReg_eth (s : State) (a : Nat) (m : Word) : (s.clrReg a m).eth = s.eth := rfl
@[simp] theorem State.clrReg_camp (s : State) (a : Nat) (m : Word) : (s.clrReg a m).camp = s.camp := rfl
@[simp] theorem State.clrReg_draws (s : State) (a : Nat) (m : Word) : (s.clrReg a m).draws = s.draws := rfl
@[simp] theorem State.clrReg_freeCtr (s : State) (a : Nat) (m : Word) : (s.clrReg a m).freeCtr = s.freeCtr := rfl
@[simp] theorem State.clrReg_rdata (s : State) (a : Nat) (m : Word) : (s.clrReg a m).rdata = s.rdata := rfl
@[simp] theorem State.clrReg_pending (s : State) (a : Nat) (m : Word) : (s.clrReg a m).pending = s.pending := rfl

@[simp] theorem State.incSat_mem (s : State) (a : Nat) : (s.incSat a).mem = s.mem := rfl
@[simp] theorem State.incSat_tide (s : State) (a : Nat) : (s.incSat a).tide = s.tide := rfl
@[simp] theorem State.incSat_cmps (s : State) (a : Nat) : (s.incSat a).cmps = s.cmps := rfl
@[simp] theorem State.incSat_srcs (s : State) (a : Nat) : (s.incSat a).srcs = s.srcs := rfl
@[simp] theorem State.incSat_threads (s : State) (a : Nat) : (s.incSat a).threads = s.threads := rfl
@[simp] theorem State.incSat_cores (s : State) (a : Nat) : (s.incSat a).cores = s.cores := rfl
@[simp] theorem State.incSat_memc (s : State) (a : Nat) : (s.incSat a).memc = s.memc := rfl
@[simp] theorem State.incSat_ferry (s : State) (a : Nat) : (s.incSat a).ferry = s.ferry := rfl
@[simp] theorem State.incSat_setup (s : State) (a : Nat) : (s.incSat a).setup = s.setup := rfl
@[simp] theorem State.incSat_bw (s : State) (a : Nat) : (s.incSat a).bw = s.bw := rfl
@[simp] theorem State.incSat_qfa (s : State) (a : Nat) : (s.incSat a).qfa = s.qfa := rfl
@[simp] theorem State.incSat_flash (s : State) (a : Nat) : (s.incSat a).flash = s.flash := rfl
@[simp] theorem State.incSat_sec (s : State) (a : Nat) : (s.incSat a).sec = s.sec := rfl
@[simp] theorem State.incSat_jrnl (s : State) (a : Nat) : (s.incSat a).jrnl = s.jrnl := rfl
@[simp] theorem State.incSat_boot (s : State) (a : Nat) : (s.incSat a).boot = s.boot := rfl
@[simp] theorem State.incSat_pwr (s : State) (a : Nat) : (s.incSat a).pwr = s.pwr := rfl
@[simp] theorem State.incSat_ckp (s : State) (a : Nat) : (s.incSat a).ckp = s.ckp := rfl
@[simp] theorem State.incSat_lant (s : State) (a : Nat) : (s.incSat a).lant = s.lant := rfl
@[simp] theorem State.incSat_cp (s : State) (a : Nat) : (s.incSat a).cp = s.cp := rfl
@[simp] theorem State.incSat_tap (s : State) (a : Nat) : (s.incSat a).tap = s.tap := rfl
@[simp] theorem State.incSat_evi (s : State) (a : Nat) : (s.incSat a).evi = s.evi := rfl
@[simp] theorem State.incSat_hold (s : State) (a : Nat) : (s.incSat a).hold = s.hold := rfl
@[simp] theorem State.incSat_sap (s : State) (a : Nat) : (s.incSat a).sap = s.sap := rfl
@[simp] theorem State.incSat_links (s : State) (a : Nat) : (s.incSat a).links = s.links := rfl
@[simp] theorem State.incSat_pcie (s : State) (a : Nat) : (s.incSat a).pcie = s.pcie := rfl
@[simp] theorem State.incSat_eth (s : State) (a : Nat) : (s.incSat a).eth = s.eth := rfl
@[simp] theorem State.incSat_camp (s : State) (a : Nat) : (s.incSat a).camp = s.camp := rfl
@[simp] theorem State.incSat_draws (s : State) (a : Nat) : (s.incSat a).draws = s.draws := rfl
@[simp] theorem State.incSat_freeCtr (s : State) (a : Nat) : (s.incSat a).freeCtr = s.freeCtr := rfl
@[simp] theorem State.incSat_rdata (s : State) (a : Nat) : (s.incSat a).rdata = s.rdata := rfl
@[simp] theorem State.incSat_pending (s : State) (a : Nat) : (s.incSat a).pending = s.pending := rfl

@[simp] theorem State.addReg_mem (s : State) (a n : Nat) : (s.addReg a n).mem = s.mem := rfl
@[simp] theorem State.addReg_tide (s : State) (a n : Nat) : (s.addReg a n).tide = s.tide := rfl
@[simp] theorem State.addReg_cmps (s : State) (a n : Nat) : (s.addReg a n).cmps = s.cmps := rfl
@[simp] theorem State.addReg_srcs (s : State) (a n : Nat) : (s.addReg a n).srcs = s.srcs := rfl
@[simp] theorem State.addReg_threads (s : State) (a n : Nat) : (s.addReg a n).threads = s.threads := rfl
@[simp] theorem State.addReg_cores (s : State) (a n : Nat) : (s.addReg a n).cores = s.cores := rfl
@[simp] theorem State.addReg_memc (s : State) (a n : Nat) : (s.addReg a n).memc = s.memc := rfl
@[simp] theorem State.addReg_ferry (s : State) (a n : Nat) : (s.addReg a n).ferry = s.ferry := rfl
@[simp] theorem State.addReg_setup (s : State) (a n : Nat) : (s.addReg a n).setup = s.setup := rfl
@[simp] theorem State.addReg_bw (s : State) (a n : Nat) : (s.addReg a n).bw = s.bw := rfl
@[simp] theorem State.addReg_qfa (s : State) (a n : Nat) : (s.addReg a n).qfa = s.qfa := rfl
@[simp] theorem State.addReg_flash (s : State) (a n : Nat) : (s.addReg a n).flash = s.flash := rfl
@[simp] theorem State.addReg_sec (s : State) (a n : Nat) : (s.addReg a n).sec = s.sec := rfl
@[simp] theorem State.addReg_jrnl (s : State) (a n : Nat) : (s.addReg a n).jrnl = s.jrnl := rfl
@[simp] theorem State.addReg_boot (s : State) (a n : Nat) : (s.addReg a n).boot = s.boot := rfl
@[simp] theorem State.addReg_pwr (s : State) (a n : Nat) : (s.addReg a n).pwr = s.pwr := rfl
@[simp] theorem State.addReg_ckp (s : State) (a n : Nat) : (s.addReg a n).ckp = s.ckp := rfl
@[simp] theorem State.addReg_lant (s : State) (a n : Nat) : (s.addReg a n).lant = s.lant := rfl
@[simp] theorem State.addReg_cp (s : State) (a n : Nat) : (s.addReg a n).cp = s.cp := rfl
@[simp] theorem State.addReg_tap (s : State) (a n : Nat) : (s.addReg a n).tap = s.tap := rfl
@[simp] theorem State.addReg_evi (s : State) (a n : Nat) : (s.addReg a n).evi = s.evi := rfl
@[simp] theorem State.addReg_hold (s : State) (a n : Nat) : (s.addReg a n).hold = s.hold := rfl
@[simp] theorem State.addReg_sap (s : State) (a n : Nat) : (s.addReg a n).sap = s.sap := rfl
@[simp] theorem State.addReg_links (s : State) (a n : Nat) : (s.addReg a n).links = s.links := rfl
@[simp] theorem State.addReg_pcie (s : State) (a n : Nat) : (s.addReg a n).pcie = s.pcie := rfl
@[simp] theorem State.addReg_eth (s : State) (a n : Nat) : (s.addReg a n).eth = s.eth := rfl
@[simp] theorem State.addReg_camp (s : State) (a n : Nat) : (s.addReg a n).camp = s.camp := rfl
@[simp] theorem State.addReg_draws (s : State) (a n : Nat) : (s.addReg a n).draws = s.draws := rfl
@[simp] theorem State.addReg_freeCtr (s : State) (a n : Nat) : (s.addReg a n).freeCtr = s.freeCtr := rfl
@[simp] theorem State.addReg_rdata (s : State) (a n : Nat) : (s.addReg a n).rdata = s.rdata := rfl
@[simp] theorem State.addReg_pending (s : State) (a n : Nat) : (s.addReg a n).pending = s.pending := rfl

@[simp] theorem State.incFld_mem (s : State) (a lo w n : Nat) : (s.incFld a lo w n).mem = s.mem := rfl
@[simp] theorem State.incFld_tide (s : State) (a lo w n : Nat) : (s.incFld a lo w n).tide = s.tide := rfl
@[simp] theorem State.incFld_cmps (s : State) (a lo w n : Nat) : (s.incFld a lo w n).cmps = s.cmps := rfl
@[simp] theorem State.incFld_srcs (s : State) (a lo w n : Nat) : (s.incFld a lo w n).srcs = s.srcs := rfl
@[simp] theorem State.incFld_threads (s : State) (a lo w n : Nat) : (s.incFld a lo w n).threads = s.threads := rfl
@[simp] theorem State.incFld_cores (s : State) (a lo w n : Nat) : (s.incFld a lo w n).cores = s.cores := rfl
@[simp] theorem State.incFld_memc (s : State) (a lo w n : Nat) : (s.incFld a lo w n).memc = s.memc := rfl
@[simp] theorem State.incFld_ferry (s : State) (a lo w n : Nat) : (s.incFld a lo w n).ferry = s.ferry := rfl
@[simp] theorem State.incFld_setup (s : State) (a lo w n : Nat) : (s.incFld a lo w n).setup = s.setup := rfl
@[simp] theorem State.incFld_bw (s : State) (a lo w n : Nat) : (s.incFld a lo w n).bw = s.bw := rfl
@[simp] theorem State.incFld_qfa (s : State) (a lo w n : Nat) : (s.incFld a lo w n).qfa = s.qfa := rfl
@[simp] theorem State.incFld_flash (s : State) (a lo w n : Nat) : (s.incFld a lo w n).flash = s.flash := rfl
@[simp] theorem State.incFld_sec (s : State) (a lo w n : Nat) : (s.incFld a lo w n).sec = s.sec := rfl
@[simp] theorem State.incFld_jrnl (s : State) (a lo w n : Nat) : (s.incFld a lo w n).jrnl = s.jrnl := rfl
@[simp] theorem State.incFld_boot (s : State) (a lo w n : Nat) : (s.incFld a lo w n).boot = s.boot := rfl
@[simp] theorem State.incFld_pwr (s : State) (a lo w n : Nat) : (s.incFld a lo w n).pwr = s.pwr := rfl
@[simp] theorem State.incFld_ckp (s : State) (a lo w n : Nat) : (s.incFld a lo w n).ckp = s.ckp := rfl
@[simp] theorem State.incFld_lant (s : State) (a lo w n : Nat) : (s.incFld a lo w n).lant = s.lant := rfl
@[simp] theorem State.incFld_cp (s : State) (a lo w n : Nat) : (s.incFld a lo w n).cp = s.cp := rfl
@[simp] theorem State.incFld_tap (s : State) (a lo w n : Nat) : (s.incFld a lo w n).tap = s.tap := rfl
@[simp] theorem State.incFld_evi (s : State) (a lo w n : Nat) : (s.incFld a lo w n).evi = s.evi := rfl
@[simp] theorem State.incFld_hold (s : State) (a lo w n : Nat) : (s.incFld a lo w n).hold = s.hold := rfl
@[simp] theorem State.incFld_sap (s : State) (a lo w n : Nat) : (s.incFld a lo w n).sap = s.sap := rfl
@[simp] theorem State.incFld_links (s : State) (a lo w n : Nat) : (s.incFld a lo w n).links = s.links := rfl
@[simp] theorem State.incFld_pcie (s : State) (a lo w n : Nat) : (s.incFld a lo w n).pcie = s.pcie := rfl
@[simp] theorem State.incFld_eth (s : State) (a lo w n : Nat) : (s.incFld a lo w n).eth = s.eth := rfl
@[simp] theorem State.incFld_camp (s : State) (a lo w n : Nat) : (s.incFld a lo w n).camp = s.camp := rfl
@[simp] theorem State.incFld_draws (s : State) (a lo w n : Nat) : (s.incFld a lo w n).draws = s.draws := rfl
@[simp] theorem State.incFld_freeCtr (s : State) (a lo w n : Nat) : (s.incFld a lo w n).freeCtr = s.freeCtr := rfl
@[simp] theorem State.incFld_rdata (s : State) (a lo w n : Nat) : (s.incFld a lo w n).rdata = s.rdata := rfl
@[simp] theorem State.incFld_pending (s : State) (a lo w n : Nat) : (s.incFld a lo w n).pending = s.pending := rfl

@[simp] theorem State.setRegFld_mem (s : State) (a lo w x : Nat) : (s.setRegFld a lo w x).mem = s.mem := rfl
@[simp] theorem State.setRegFld_tide (s : State) (a lo w x : Nat) : (s.setRegFld a lo w x).tide = s.tide := rfl
@[simp] theorem State.setRegFld_cmps (s : State) (a lo w x : Nat) : (s.setRegFld a lo w x).cmps = s.cmps := rfl
@[simp] theorem State.setRegFld_srcs (s : State) (a lo w x : Nat) : (s.setRegFld a lo w x).srcs = s.srcs := rfl
@[simp] theorem State.setRegFld_threads (s : State) (a lo w x : Nat) : (s.setRegFld a lo w x).threads = s.threads := rfl
@[simp] theorem State.setRegFld_cores (s : State) (a lo w x : Nat) : (s.setRegFld a lo w x).cores = s.cores := rfl
@[simp] theorem State.setRegFld_memc (s : State) (a lo w x : Nat) : (s.setRegFld a lo w x).memc = s.memc := rfl
@[simp] theorem State.setRegFld_ferry (s : State) (a lo w x : Nat) : (s.setRegFld a lo w x).ferry = s.ferry := rfl
@[simp] theorem State.setRegFld_setup (s : State) (a lo w x : Nat) : (s.setRegFld a lo w x).setup = s.setup := rfl
@[simp] theorem State.setRegFld_bw (s : State) (a lo w x : Nat) : (s.setRegFld a lo w x).bw = s.bw := rfl
@[simp] theorem State.setRegFld_qfa (s : State) (a lo w x : Nat) : (s.setRegFld a lo w x).qfa = s.qfa := rfl
@[simp] theorem State.setRegFld_flash (s : State) (a lo w x : Nat) : (s.setRegFld a lo w x).flash = s.flash := rfl
@[simp] theorem State.setRegFld_sec (s : State) (a lo w x : Nat) : (s.setRegFld a lo w x).sec = s.sec := rfl
@[simp] theorem State.setRegFld_jrnl (s : State) (a lo w x : Nat) : (s.setRegFld a lo w x).jrnl = s.jrnl := rfl
@[simp] theorem State.setRegFld_boot (s : State) (a lo w x : Nat) : (s.setRegFld a lo w x).boot = s.boot := rfl
@[simp] theorem State.setRegFld_pwr (s : State) (a lo w x : Nat) : (s.setRegFld a lo w x).pwr = s.pwr := rfl
@[simp] theorem State.setRegFld_ckp (s : State) (a lo w x : Nat) : (s.setRegFld a lo w x).ckp = s.ckp := rfl
@[simp] theorem State.setRegFld_lant (s : State) (a lo w x : Nat) : (s.setRegFld a lo w x).lant = s.lant := rfl
@[simp] theorem State.setRegFld_cp (s : State) (a lo w x : Nat) : (s.setRegFld a lo w x).cp = s.cp := rfl
@[simp] theorem State.setRegFld_tap (s : State) (a lo w x : Nat) : (s.setRegFld a lo w x).tap = s.tap := rfl
@[simp] theorem State.setRegFld_evi (s : State) (a lo w x : Nat) : (s.setRegFld a lo w x).evi = s.evi := rfl
@[simp] theorem State.setRegFld_hold (s : State) (a lo w x : Nat) : (s.setRegFld a lo w x).hold = s.hold := rfl
@[simp] theorem State.setRegFld_sap (s : State) (a lo w x : Nat) : (s.setRegFld a lo w x).sap = s.sap := rfl
@[simp] theorem State.setRegFld_links (s : State) (a lo w x : Nat) : (s.setRegFld a lo w x).links = s.links := rfl
@[simp] theorem State.setRegFld_pcie (s : State) (a lo w x : Nat) : (s.setRegFld a lo w x).pcie = s.pcie := rfl
@[simp] theorem State.setRegFld_eth (s : State) (a lo w x : Nat) : (s.setRegFld a lo w x).eth = s.eth := rfl
@[simp] theorem State.setRegFld_camp (s : State) (a lo w x : Nat) : (s.setRegFld a lo w x).camp = s.camp := rfl
@[simp] theorem State.setRegFld_draws (s : State) (a lo w x : Nat) : (s.setRegFld a lo w x).draws = s.draws := rfl
@[simp] theorem State.setRegFld_freeCtr (s : State) (a lo w x : Nat) : (s.setRegFld a lo w x).freeCtr = s.freeCtr := rfl
@[simp] theorem State.setRegFld_rdata (s : State) (a lo w x : Nat) : (s.setRegFld a lo w x).rdata = s.rdata := rfl
@[simp] theorem State.setRegFld_pending (s : State) (a lo w x : Nat) : (s.setRegFld a lo w x).pending = s.pending := rfl

@[simp] theorem State.store_regs (s : State) (a : Nat) (bs : List Byte) : (s.store a bs).regs = s.regs := rfl
@[simp] theorem State.store_tide (s : State) (a : Nat) (bs : List Byte) : (s.store a bs).tide = s.tide := rfl
@[simp] theorem State.store_cmps (s : State) (a : Nat) (bs : List Byte) : (s.store a bs).cmps = s.cmps := rfl
@[simp] theorem State.store_srcs (s : State) (a : Nat) (bs : List Byte) : (s.store a bs).srcs = s.srcs := rfl
@[simp] theorem State.store_threads (s : State) (a : Nat) (bs : List Byte) : (s.store a bs).threads = s.threads := rfl
@[simp] theorem State.store_cores (s : State) (a : Nat) (bs : List Byte) : (s.store a bs).cores = s.cores := rfl
@[simp] theorem State.store_memc (s : State) (a : Nat) (bs : List Byte) : (s.store a bs).memc = s.memc := rfl
@[simp] theorem State.store_ferry (s : State) (a : Nat) (bs : List Byte) : (s.store a bs).ferry = s.ferry := rfl
@[simp] theorem State.store_setup (s : State) (a : Nat) (bs : List Byte) : (s.store a bs).setup = s.setup := rfl
@[simp] theorem State.store_bw (s : State) (a : Nat) (bs : List Byte) : (s.store a bs).bw = s.bw := rfl
@[simp] theorem State.store_qfa (s : State) (a : Nat) (bs : List Byte) : (s.store a bs).qfa = s.qfa := rfl
@[simp] theorem State.store_flash (s : State) (a : Nat) (bs : List Byte) : (s.store a bs).flash = s.flash := rfl
@[simp] theorem State.store_sec (s : State) (a : Nat) (bs : List Byte) : (s.store a bs).sec = s.sec := rfl
@[simp] theorem State.store_jrnl (s : State) (a : Nat) (bs : List Byte) : (s.store a bs).jrnl = s.jrnl := rfl
@[simp] theorem State.store_boot (s : State) (a : Nat) (bs : List Byte) : (s.store a bs).boot = s.boot := rfl
@[simp] theorem State.store_pwr (s : State) (a : Nat) (bs : List Byte) : (s.store a bs).pwr = s.pwr := rfl
@[simp] theorem State.store_ckp (s : State) (a : Nat) (bs : List Byte) : (s.store a bs).ckp = s.ckp := rfl
@[simp] theorem State.store_lant (s : State) (a : Nat) (bs : List Byte) : (s.store a bs).lant = s.lant := rfl
@[simp] theorem State.store_cp (s : State) (a : Nat) (bs : List Byte) : (s.store a bs).cp = s.cp := rfl
@[simp] theorem State.store_tap (s : State) (a : Nat) (bs : List Byte) : (s.store a bs).tap = s.tap := rfl
@[simp] theorem State.store_evi (s : State) (a : Nat) (bs : List Byte) : (s.store a bs).evi = s.evi := rfl
@[simp] theorem State.store_hold (s : State) (a : Nat) (bs : List Byte) : (s.store a bs).hold = s.hold := rfl
@[simp] theorem State.store_sap (s : State) (a : Nat) (bs : List Byte) : (s.store a bs).sap = s.sap := rfl
@[simp] theorem State.store_links (s : State) (a : Nat) (bs : List Byte) : (s.store a bs).links = s.links := rfl
@[simp] theorem State.store_pcie (s : State) (a : Nat) (bs : List Byte) : (s.store a bs).pcie = s.pcie := rfl
@[simp] theorem State.store_eth (s : State) (a : Nat) (bs : List Byte) : (s.store a bs).eth = s.eth := rfl
@[simp] theorem State.store_camp (s : State) (a : Nat) (bs : List Byte) : (s.store a bs).camp = s.camp := rfl
@[simp] theorem State.store_draws (s : State) (a : Nat) (bs : List Byte) : (s.store a bs).draws = s.draws := rfl
@[simp] theorem State.store_freeCtr (s : State) (a : Nat) (bs : List Byte) : (s.store a bs).freeCtr = s.freeCtr := rfl
@[simp] theorem State.store_rdata (s : State) (a : Nat) (bs : List Byte) : (s.store a bs).rdata = s.rdata := rfl
@[simp] theorem State.store_pending (s : State) (a : Nat) (bs : List Byte) : (s.store a bs).pending = s.pending := rfl

@[simp] theorem State.zero_regs (s : State) (a n : Nat) : (s.zero a n).regs = s.regs := rfl
@[simp] theorem State.zero_tide (s : State) (a n : Nat) : (s.zero a n).tide = s.tide := rfl
@[simp] theorem State.zero_cmps (s : State) (a n : Nat) : (s.zero a n).cmps = s.cmps := rfl
@[simp] theorem State.zero_srcs (s : State) (a n : Nat) : (s.zero a n).srcs = s.srcs := rfl
@[simp] theorem State.zero_threads (s : State) (a n : Nat) : (s.zero a n).threads = s.threads := rfl
@[simp] theorem State.zero_cores (s : State) (a n : Nat) : (s.zero a n).cores = s.cores := rfl
@[simp] theorem State.zero_memc (s : State) (a n : Nat) : (s.zero a n).memc = s.memc := rfl
@[simp] theorem State.zero_ferry (s : State) (a n : Nat) : (s.zero a n).ferry = s.ferry := rfl
@[simp] theorem State.zero_setup (s : State) (a n : Nat) : (s.zero a n).setup = s.setup := rfl
@[simp] theorem State.zero_bw (s : State) (a n : Nat) : (s.zero a n).bw = s.bw := rfl
@[simp] theorem State.zero_qfa (s : State) (a n : Nat) : (s.zero a n).qfa = s.qfa := rfl
@[simp] theorem State.zero_flash (s : State) (a n : Nat) : (s.zero a n).flash = s.flash := rfl
@[simp] theorem State.zero_sec (s : State) (a n : Nat) : (s.zero a n).sec = s.sec := rfl
@[simp] theorem State.zero_jrnl (s : State) (a n : Nat) : (s.zero a n).jrnl = s.jrnl := rfl
@[simp] theorem State.zero_boot (s : State) (a n : Nat) : (s.zero a n).boot = s.boot := rfl
@[simp] theorem State.zero_pwr (s : State) (a n : Nat) : (s.zero a n).pwr = s.pwr := rfl
@[simp] theorem State.zero_ckp (s : State) (a n : Nat) : (s.zero a n).ckp = s.ckp := rfl
@[simp] theorem State.zero_lant (s : State) (a n : Nat) : (s.zero a n).lant = s.lant := rfl
@[simp] theorem State.zero_cp (s : State) (a n : Nat) : (s.zero a n).cp = s.cp := rfl
@[simp] theorem State.zero_tap (s : State) (a n : Nat) : (s.zero a n).tap = s.tap := rfl
@[simp] theorem State.zero_evi (s : State) (a n : Nat) : (s.zero a n).evi = s.evi := rfl
@[simp] theorem State.zero_hold (s : State) (a n : Nat) : (s.zero a n).hold = s.hold := rfl
@[simp] theorem State.zero_sap (s : State) (a n : Nat) : (s.zero a n).sap = s.sap := rfl
@[simp] theorem State.zero_links (s : State) (a n : Nat) : (s.zero a n).links = s.links := rfl
@[simp] theorem State.zero_pcie (s : State) (a n : Nat) : (s.zero a n).pcie = s.pcie := rfl
@[simp] theorem State.zero_eth (s : State) (a n : Nat) : (s.zero a n).eth = s.eth := rfl
@[simp] theorem State.zero_camp (s : State) (a n : Nat) : (s.zero a n).camp = s.camp := rfl
@[simp] theorem State.zero_draws (s : State) (a n : Nat) : (s.zero a n).draws = s.draws := rfl
@[simp] theorem State.zero_freeCtr (s : State) (a n : Nat) : (s.zero a n).freeCtr = s.freeCtr := rfl
@[simp] theorem State.zero_rdata (s : State) (a n : Nat) : (s.zero a n).rdata = s.rdata := rfl
@[simp] theorem State.zero_pending (s : State) (a n : Nat) : (s.zero a n).pending = s.pending := rfl

@[simp] theorem State.setThread_regs (s : State) (k t : Nat) (th : Thread) : (s.setThread k t th).regs = s.regs := rfl
@[simp] theorem State.setThread_mem (s : State) (k t : Nat) (th : Thread) : (s.setThread k t th).mem = s.mem := rfl
@[simp] theorem State.setThread_tide (s : State) (k t : Nat) (th : Thread) : (s.setThread k t th).tide = s.tide := rfl
@[simp] theorem State.setThread_cmps (s : State) (k t : Nat) (th : Thread) : (s.setThread k t th).cmps = s.cmps := rfl
@[simp] theorem State.setThread_srcs (s : State) (k t : Nat) (th : Thread) : (s.setThread k t th).srcs = s.srcs := rfl
@[simp] theorem State.setThread_cores (s : State) (k t : Nat) (th : Thread) : (s.setThread k t th).cores = s.cores := rfl
@[simp] theorem State.setThread_memc (s : State) (k t : Nat) (th : Thread) : (s.setThread k t th).memc = s.memc := rfl
@[simp] theorem State.setThread_ferry (s : State) (k t : Nat) (th : Thread) : (s.setThread k t th).ferry = s.ferry := rfl
@[simp] theorem State.setThread_setup (s : State) (k t : Nat) (th : Thread) : (s.setThread k t th).setup = s.setup := rfl
@[simp] theorem State.setThread_bw (s : State) (k t : Nat) (th : Thread) : (s.setThread k t th).bw = s.bw := rfl
@[simp] theorem State.setThread_qfa (s : State) (k t : Nat) (th : Thread) : (s.setThread k t th).qfa = s.qfa := rfl
@[simp] theorem State.setThread_flash (s : State) (k t : Nat) (th : Thread) : (s.setThread k t th).flash = s.flash := rfl
@[simp] theorem State.setThread_sec (s : State) (k t : Nat) (th : Thread) : (s.setThread k t th).sec = s.sec := rfl
@[simp] theorem State.setThread_jrnl (s : State) (k t : Nat) (th : Thread) : (s.setThread k t th).jrnl = s.jrnl := rfl
@[simp] theorem State.setThread_boot (s : State) (k t : Nat) (th : Thread) : (s.setThread k t th).boot = s.boot := rfl
@[simp] theorem State.setThread_pwr (s : State) (k t : Nat) (th : Thread) : (s.setThread k t th).pwr = s.pwr := rfl
@[simp] theorem State.setThread_ckp (s : State) (k t : Nat) (th : Thread) : (s.setThread k t th).ckp = s.ckp := rfl
@[simp] theorem State.setThread_lant (s : State) (k t : Nat) (th : Thread) : (s.setThread k t th).lant = s.lant := rfl
@[simp] theorem State.setThread_cp (s : State) (k t : Nat) (th : Thread) : (s.setThread k t th).cp = s.cp := rfl
@[simp] theorem State.setThread_tap (s : State) (k t : Nat) (th : Thread) : (s.setThread k t th).tap = s.tap := rfl
@[simp] theorem State.setThread_evi (s : State) (k t : Nat) (th : Thread) : (s.setThread k t th).evi = s.evi := rfl
@[simp] theorem State.setThread_hold (s : State) (k t : Nat) (th : Thread) : (s.setThread k t th).hold = s.hold := rfl
@[simp] theorem State.setThread_sap (s : State) (k t : Nat) (th : Thread) : (s.setThread k t th).sap = s.sap := rfl
@[simp] theorem State.setThread_links (s : State) (k t : Nat) (th : Thread) : (s.setThread k t th).links = s.links := rfl
@[simp] theorem State.setThread_pcie (s : State) (k t : Nat) (th : Thread) : (s.setThread k t th).pcie = s.pcie := rfl
@[simp] theorem State.setThread_eth (s : State) (k t : Nat) (th : Thread) : (s.setThread k t th).eth = s.eth := rfl
@[simp] theorem State.setThread_camp (s : State) (k t : Nat) (th : Thread) : (s.setThread k t th).camp = s.camp := rfl
@[simp] theorem State.setThread_draws (s : State) (k t : Nat) (th : Thread) : (s.setThread k t th).draws = s.draws := rfl
@[simp] theorem State.setThread_freeCtr (s : State) (k t : Nat) (th : Thread) : (s.setThread k t th).freeCtr = s.freeCtr := rfl
@[simp] theorem State.setThread_rdata (s : State) (k t : Nat) (th : Thread) : (s.setThread k t th).rdata = s.rdata := rfl
@[simp] theorem State.setThread_pending (s : State) (k t : Nat) (th : Thread) : (s.setThread k t th).pending = s.pending := rfl

@[simp] theorem State.setCore_regs (s : State) (k : Nat) (c : CoreSt) : (s.setCore k c).regs = s.regs := rfl
@[simp] theorem State.setCore_mem (s : State) (k : Nat) (c : CoreSt) : (s.setCore k c).mem = s.mem := rfl
@[simp] theorem State.setCore_tide (s : State) (k : Nat) (c : CoreSt) : (s.setCore k c).tide = s.tide := rfl
@[simp] theorem State.setCore_cmps (s : State) (k : Nat) (c : CoreSt) : (s.setCore k c).cmps = s.cmps := rfl
@[simp] theorem State.setCore_srcs (s : State) (k : Nat) (c : CoreSt) : (s.setCore k c).srcs = s.srcs := rfl
@[simp] theorem State.setCore_threads (s : State) (k : Nat) (c : CoreSt) : (s.setCore k c).threads = s.threads := rfl
@[simp] theorem State.setCore_memc (s : State) (k : Nat) (c : CoreSt) : (s.setCore k c).memc = s.memc := rfl
@[simp] theorem State.setCore_ferry (s : State) (k : Nat) (c : CoreSt) : (s.setCore k c).ferry = s.ferry := rfl
@[simp] theorem State.setCore_setup (s : State) (k : Nat) (c : CoreSt) : (s.setCore k c).setup = s.setup := rfl
@[simp] theorem State.setCore_bw (s : State) (k : Nat) (c : CoreSt) : (s.setCore k c).bw = s.bw := rfl
@[simp] theorem State.setCore_qfa (s : State) (k : Nat) (c : CoreSt) : (s.setCore k c).qfa = s.qfa := rfl
@[simp] theorem State.setCore_flash (s : State) (k : Nat) (c : CoreSt) : (s.setCore k c).flash = s.flash := rfl
@[simp] theorem State.setCore_sec (s : State) (k : Nat) (c : CoreSt) : (s.setCore k c).sec = s.sec := rfl
@[simp] theorem State.setCore_jrnl (s : State) (k : Nat) (c : CoreSt) : (s.setCore k c).jrnl = s.jrnl := rfl
@[simp] theorem State.setCore_boot (s : State) (k : Nat) (c : CoreSt) : (s.setCore k c).boot = s.boot := rfl
@[simp] theorem State.setCore_pwr (s : State) (k : Nat) (c : CoreSt) : (s.setCore k c).pwr = s.pwr := rfl
@[simp] theorem State.setCore_ckp (s : State) (k : Nat) (c : CoreSt) : (s.setCore k c).ckp = s.ckp := rfl
@[simp] theorem State.setCore_lant (s : State) (k : Nat) (c : CoreSt) : (s.setCore k c).lant = s.lant := rfl
@[simp] theorem State.setCore_cp (s : State) (k : Nat) (c : CoreSt) : (s.setCore k c).cp = s.cp := rfl
@[simp] theorem State.setCore_tap (s : State) (k : Nat) (c : CoreSt) : (s.setCore k c).tap = s.tap := rfl
@[simp] theorem State.setCore_evi (s : State) (k : Nat) (c : CoreSt) : (s.setCore k c).evi = s.evi := rfl
@[simp] theorem State.setCore_hold (s : State) (k : Nat) (c : CoreSt) : (s.setCore k c).hold = s.hold := rfl
@[simp] theorem State.setCore_sap (s : State) (k : Nat) (c : CoreSt) : (s.setCore k c).sap = s.sap := rfl
@[simp] theorem State.setCore_links (s : State) (k : Nat) (c : CoreSt) : (s.setCore k c).links = s.links := rfl
@[simp] theorem State.setCore_pcie (s : State) (k : Nat) (c : CoreSt) : (s.setCore k c).pcie = s.pcie := rfl
@[simp] theorem State.setCore_eth (s : State) (k : Nat) (c : CoreSt) : (s.setCore k c).eth = s.eth := rfl
@[simp] theorem State.setCore_camp (s : State) (k : Nat) (c : CoreSt) : (s.setCore k c).camp = s.camp := rfl
@[simp] theorem State.setCore_draws (s : State) (k : Nat) (c : CoreSt) : (s.setCore k c).draws = s.draws := rfl
@[simp] theorem State.setCore_freeCtr (s : State) (k : Nat) (c : CoreSt) : (s.setCore k c).freeCtr = s.freeCtr := rfl
@[simp] theorem State.setCore_rdata (s : State) (k : Nat) (c : CoreSt) : (s.setCore k c).rdata = s.rdata := rfl
@[simp] theorem State.setCore_pending (s : State) (k : Nat) (c : CoreSt) : (s.setCore k c).pending = s.pending := rfl

@[simp] theorem State.program_regs (s : State) (a : Nat) (bs : List Byte) : (s.program a bs).regs = s.regs := rfl
@[simp] theorem State.program_mem (s : State) (a : Nat) (bs : List Byte) : (s.program a bs).mem = s.mem := rfl
@[simp] theorem State.program_tide (s : State) (a : Nat) (bs : List Byte) : (s.program a bs).tide = s.tide := rfl
@[simp] theorem State.program_cmps (s : State) (a : Nat) (bs : List Byte) : (s.program a bs).cmps = s.cmps := rfl
@[simp] theorem State.program_srcs (s : State) (a : Nat) (bs : List Byte) : (s.program a bs).srcs = s.srcs := rfl
@[simp] theorem State.program_threads (s : State) (a : Nat) (bs : List Byte) : (s.program a bs).threads = s.threads := rfl
@[simp] theorem State.program_cores (s : State) (a : Nat) (bs : List Byte) : (s.program a bs).cores = s.cores := rfl
@[simp] theorem State.program_memc (s : State) (a : Nat) (bs : List Byte) : (s.program a bs).memc = s.memc := rfl
@[simp] theorem State.program_ferry (s : State) (a : Nat) (bs : List Byte) : (s.program a bs).ferry = s.ferry := rfl
@[simp] theorem State.program_setup (s : State) (a : Nat) (bs : List Byte) : (s.program a bs).setup = s.setup := rfl
@[simp] theorem State.program_bw (s : State) (a : Nat) (bs : List Byte) : (s.program a bs).bw = s.bw := rfl
@[simp] theorem State.program_qfa (s : State) (a : Nat) (bs : List Byte) : (s.program a bs).qfa = s.qfa := rfl
@[simp] theorem State.program_sec (s : State) (a : Nat) (bs : List Byte) : (s.program a bs).sec = s.sec := rfl
@[simp] theorem State.program_jrnl (s : State) (a : Nat) (bs : List Byte) : (s.program a bs).jrnl = s.jrnl := rfl
@[simp] theorem State.program_boot (s : State) (a : Nat) (bs : List Byte) : (s.program a bs).boot = s.boot := rfl
@[simp] theorem State.program_pwr (s : State) (a : Nat) (bs : List Byte) : (s.program a bs).pwr = s.pwr := rfl
@[simp] theorem State.program_ckp (s : State) (a : Nat) (bs : List Byte) : (s.program a bs).ckp = s.ckp := rfl
@[simp] theorem State.program_lant (s : State) (a : Nat) (bs : List Byte) : (s.program a bs).lant = s.lant := rfl
@[simp] theorem State.program_cp (s : State) (a : Nat) (bs : List Byte) : (s.program a bs).cp = s.cp := rfl
@[simp] theorem State.program_tap (s : State) (a : Nat) (bs : List Byte) : (s.program a bs).tap = s.tap := rfl
@[simp] theorem State.program_evi (s : State) (a : Nat) (bs : List Byte) : (s.program a bs).evi = s.evi := rfl
@[simp] theorem State.program_hold (s : State) (a : Nat) (bs : List Byte) : (s.program a bs).hold = s.hold := rfl
@[simp] theorem State.program_sap (s : State) (a : Nat) (bs : List Byte) : (s.program a bs).sap = s.sap := rfl
@[simp] theorem State.program_links (s : State) (a : Nat) (bs : List Byte) : (s.program a bs).links = s.links := rfl
@[simp] theorem State.program_pcie (s : State) (a : Nat) (bs : List Byte) : (s.program a bs).pcie = s.pcie := rfl
@[simp] theorem State.program_eth (s : State) (a : Nat) (bs : List Byte) : (s.program a bs).eth = s.eth := rfl
@[simp] theorem State.program_camp (s : State) (a : Nat) (bs : List Byte) : (s.program a bs).camp = s.camp := rfl
@[simp] theorem State.program_draws (s : State) (a : Nat) (bs : List Byte) : (s.program a bs).draws = s.draws := rfl
@[simp] theorem State.program_freeCtr (s : State) (a : Nat) (bs : List Byte) : (s.program a bs).freeCtr = s.freeCtr := rfl
@[simp] theorem State.program_rdata (s : State) (a : Nat) (bs : List Byte) : (s.program a bs).rdata = s.rdata := rfl
@[simp] theorem State.program_pending (s : State) (a : Nat) (bs : List Byte) : (s.program a bs).pending = s.pending := rfl

@[simp] theorem State.eraseFlash_regs (s : State) (a n : Nat) : (s.eraseFlash a n).regs = s.regs := rfl
@[simp] theorem State.eraseFlash_mem (s : State) (a n : Nat) : (s.eraseFlash a n).mem = s.mem := rfl
@[simp] theorem State.eraseFlash_tide (s : State) (a n : Nat) : (s.eraseFlash a n).tide = s.tide := rfl
@[simp] theorem State.eraseFlash_cmps (s : State) (a n : Nat) : (s.eraseFlash a n).cmps = s.cmps := rfl
@[simp] theorem State.eraseFlash_srcs (s : State) (a n : Nat) : (s.eraseFlash a n).srcs = s.srcs := rfl
@[simp] theorem State.eraseFlash_threads (s : State) (a n : Nat) : (s.eraseFlash a n).threads = s.threads := rfl
@[simp] theorem State.eraseFlash_cores (s : State) (a n : Nat) : (s.eraseFlash a n).cores = s.cores := rfl
@[simp] theorem State.eraseFlash_memc (s : State) (a n : Nat) : (s.eraseFlash a n).memc = s.memc := rfl
@[simp] theorem State.eraseFlash_ferry (s : State) (a n : Nat) : (s.eraseFlash a n).ferry = s.ferry := rfl
@[simp] theorem State.eraseFlash_setup (s : State) (a n : Nat) : (s.eraseFlash a n).setup = s.setup := rfl
@[simp] theorem State.eraseFlash_bw (s : State) (a n : Nat) : (s.eraseFlash a n).bw = s.bw := rfl
@[simp] theorem State.eraseFlash_qfa (s : State) (a n : Nat) : (s.eraseFlash a n).qfa = s.qfa := rfl
@[simp] theorem State.eraseFlash_sec (s : State) (a n : Nat) : (s.eraseFlash a n).sec = s.sec := rfl
@[simp] theorem State.eraseFlash_jrnl (s : State) (a n : Nat) : (s.eraseFlash a n).jrnl = s.jrnl := rfl
@[simp] theorem State.eraseFlash_boot (s : State) (a n : Nat) : (s.eraseFlash a n).boot = s.boot := rfl
@[simp] theorem State.eraseFlash_pwr (s : State) (a n : Nat) : (s.eraseFlash a n).pwr = s.pwr := rfl
@[simp] theorem State.eraseFlash_ckp (s : State) (a n : Nat) : (s.eraseFlash a n).ckp = s.ckp := rfl
@[simp] theorem State.eraseFlash_lant (s : State) (a n : Nat) : (s.eraseFlash a n).lant = s.lant := rfl
@[simp] theorem State.eraseFlash_cp (s : State) (a n : Nat) : (s.eraseFlash a n).cp = s.cp := rfl
@[simp] theorem State.eraseFlash_tap (s : State) (a n : Nat) : (s.eraseFlash a n).tap = s.tap := rfl
@[simp] theorem State.eraseFlash_evi (s : State) (a n : Nat) : (s.eraseFlash a n).evi = s.evi := rfl
@[simp] theorem State.eraseFlash_hold (s : State) (a n : Nat) : (s.eraseFlash a n).hold = s.hold := rfl
@[simp] theorem State.eraseFlash_sap (s : State) (a n : Nat) : (s.eraseFlash a n).sap = s.sap := rfl
@[simp] theorem State.eraseFlash_links (s : State) (a n : Nat) : (s.eraseFlash a n).links = s.links := rfl
@[simp] theorem State.eraseFlash_pcie (s : State) (a n : Nat) : (s.eraseFlash a n).pcie = s.pcie := rfl
@[simp] theorem State.eraseFlash_eth (s : State) (a n : Nat) : (s.eraseFlash a n).eth = s.eth := rfl
@[simp] theorem State.eraseFlash_camp (s : State) (a n : Nat) : (s.eraseFlash a n).camp = s.camp := rfl
@[simp] theorem State.eraseFlash_draws (s : State) (a n : Nat) : (s.eraseFlash a n).draws = s.draws := rfl
@[simp] theorem State.eraseFlash_freeCtr (s : State) (a n : Nat) : (s.eraseFlash a n).freeCtr = s.freeCtr := rfl
@[simp] theorem State.eraseFlash_rdata (s : State) (a n : Nat) : (s.eraseFlash a n).rdata = s.rdata := rfl
@[simp] theorem State.eraseFlash_pending (s : State) (a n : Nat) : (s.eraseFlash a n).pending = s.pending := rfl

@[simp] theorem State.advFree_regs (s : State)  : (s.advFree).regs = s.regs := rfl
@[simp] theorem State.advFree_mem (s : State)  : (s.advFree).mem = s.mem := rfl
@[simp] theorem State.advFree_tide (s : State)  : (s.advFree).tide = s.tide := rfl
@[simp] theorem State.advFree_cmps (s : State)  : (s.advFree).cmps = s.cmps := rfl
@[simp] theorem State.advFree_srcs (s : State)  : (s.advFree).srcs = s.srcs := rfl
@[simp] theorem State.advFree_threads (s : State)  : (s.advFree).threads = s.threads := rfl
@[simp] theorem State.advFree_cores (s : State)  : (s.advFree).cores = s.cores := rfl
@[simp] theorem State.advFree_memc (s : State)  : (s.advFree).memc = s.memc := rfl
@[simp] theorem State.advFree_ferry (s : State)  : (s.advFree).ferry = s.ferry := rfl
@[simp] theorem State.advFree_setup (s : State)  : (s.advFree).setup = s.setup := rfl
@[simp] theorem State.advFree_bw (s : State)  : (s.advFree).bw = s.bw := rfl
@[simp] theorem State.advFree_qfa (s : State)  : (s.advFree).qfa = s.qfa := rfl
@[simp] theorem State.advFree_flash (s : State)  : (s.advFree).flash = s.flash := rfl
@[simp] theorem State.advFree_sec (s : State)  : (s.advFree).sec = s.sec := rfl
@[simp] theorem State.advFree_jrnl (s : State)  : (s.advFree).jrnl = s.jrnl := rfl
@[simp] theorem State.advFree_boot (s : State)  : (s.advFree).boot = s.boot := rfl
@[simp] theorem State.advFree_pwr (s : State)  : (s.advFree).pwr = s.pwr := rfl
@[simp] theorem State.advFree_ckp (s : State)  : (s.advFree).ckp = s.ckp := rfl
@[simp] theorem State.advFree_lant (s : State)  : (s.advFree).lant = s.lant := rfl
@[simp] theorem State.advFree_cp (s : State)  : (s.advFree).cp = s.cp := rfl
@[simp] theorem State.advFree_tap (s : State)  : (s.advFree).tap = s.tap := rfl
@[simp] theorem State.advFree_evi (s : State)  : (s.advFree).evi = s.evi := rfl
@[simp] theorem State.advFree_hold (s : State)  : (s.advFree).hold = s.hold := rfl
@[simp] theorem State.advFree_sap (s : State)  : (s.advFree).sap = s.sap := rfl
@[simp] theorem State.advFree_links (s : State)  : (s.advFree).links = s.links := rfl
@[simp] theorem State.advFree_pcie (s : State)  : (s.advFree).pcie = s.pcie := rfl
@[simp] theorem State.advFree_eth (s : State)  : (s.advFree).eth = s.eth := rfl
@[simp] theorem State.advFree_camp (s : State)  : (s.advFree).camp = s.camp := rfl
@[simp] theorem State.advFree_draws (s : State)  : (s.advFree).draws = s.draws := rfl
@[simp] theorem State.advFree_rdata (s : State)  : (s.advFree).rdata = s.rdata := rfl
@[simp] theorem State.advFree_pending (s : State)  : (s.advFree).pending = s.pending := rfl

@[simp] theorem State.orRegIf_mem (s : State) (c : Bool) (a : Nat) (m : Word) : (s.orRegIf c a m).mem = s.mem := by cases c <;> rfl
@[simp] theorem State.orRegIf_tide (s : State) (c : Bool) (a : Nat) (m : Word) : (s.orRegIf c a m).tide = s.tide := by cases c <;> rfl
@[simp] theorem State.orRegIf_cmps (s : State) (c : Bool) (a : Nat) (m : Word) : (s.orRegIf c a m).cmps = s.cmps := by cases c <;> rfl
@[simp] theorem State.orRegIf_srcs (s : State) (c : Bool) (a : Nat) (m : Word) : (s.orRegIf c a m).srcs = s.srcs := by cases c <;> rfl
@[simp] theorem State.orRegIf_threads (s : State) (c : Bool) (a : Nat) (m : Word) : (s.orRegIf c a m).threads = s.threads := by cases c <;> rfl
@[simp] theorem State.orRegIf_cores (s : State) (c : Bool) (a : Nat) (m : Word) : (s.orRegIf c a m).cores = s.cores := by cases c <;> rfl
@[simp] theorem State.orRegIf_memc (s : State) (c : Bool) (a : Nat) (m : Word) : (s.orRegIf c a m).memc = s.memc := by cases c <;> rfl
@[simp] theorem State.orRegIf_ferry (s : State) (c : Bool) (a : Nat) (m : Word) : (s.orRegIf c a m).ferry = s.ferry := by cases c <;> rfl
@[simp] theorem State.orRegIf_setup (s : State) (c : Bool) (a : Nat) (m : Word) : (s.orRegIf c a m).setup = s.setup := by cases c <;> rfl
@[simp] theorem State.orRegIf_bw (s : State) (c : Bool) (a : Nat) (m : Word) : (s.orRegIf c a m).bw = s.bw := by cases c <;> rfl
@[simp] theorem State.orRegIf_qfa (s : State) (c : Bool) (a : Nat) (m : Word) : (s.orRegIf c a m).qfa = s.qfa := by cases c <;> rfl
@[simp] theorem State.orRegIf_flash (s : State) (c : Bool) (a : Nat) (m : Word) : (s.orRegIf c a m).flash = s.flash := by cases c <;> rfl
@[simp] theorem State.orRegIf_sec (s : State) (c : Bool) (a : Nat) (m : Word) : (s.orRegIf c a m).sec = s.sec := by cases c <;> rfl
@[simp] theorem State.orRegIf_jrnl (s : State) (c : Bool) (a : Nat) (m : Word) : (s.orRegIf c a m).jrnl = s.jrnl := by cases c <;> rfl
@[simp] theorem State.orRegIf_boot (s : State) (c : Bool) (a : Nat) (m : Word) : (s.orRegIf c a m).boot = s.boot := by cases c <;> rfl
@[simp] theorem State.orRegIf_pwr (s : State) (c : Bool) (a : Nat) (m : Word) : (s.orRegIf c a m).pwr = s.pwr := by cases c <;> rfl
@[simp] theorem State.orRegIf_ckp (s : State) (c : Bool) (a : Nat) (m : Word) : (s.orRegIf c a m).ckp = s.ckp := by cases c <;> rfl
@[simp] theorem State.orRegIf_lant (s : State) (c : Bool) (a : Nat) (m : Word) : (s.orRegIf c a m).lant = s.lant := by cases c <;> rfl
@[simp] theorem State.orRegIf_cp (s : State) (c : Bool) (a : Nat) (m : Word) : (s.orRegIf c a m).cp = s.cp := by cases c <;> rfl
@[simp] theorem State.orRegIf_tap (s : State) (c : Bool) (a : Nat) (m : Word) : (s.orRegIf c a m).tap = s.tap := by cases c <;> rfl
@[simp] theorem State.orRegIf_evi (s : State) (c : Bool) (a : Nat) (m : Word) : (s.orRegIf c a m).evi = s.evi := by cases c <;> rfl
@[simp] theorem State.orRegIf_hold (s : State) (c : Bool) (a : Nat) (m : Word) : (s.orRegIf c a m).hold = s.hold := by cases c <;> rfl
@[simp] theorem State.orRegIf_sap (s : State) (c : Bool) (a : Nat) (m : Word) : (s.orRegIf c a m).sap = s.sap := by cases c <;> rfl
@[simp] theorem State.orRegIf_links (s : State) (c : Bool) (a : Nat) (m : Word) : (s.orRegIf c a m).links = s.links := by cases c <;> rfl
@[simp] theorem State.orRegIf_pcie (s : State) (c : Bool) (a : Nat) (m : Word) : (s.orRegIf c a m).pcie = s.pcie := by cases c <;> rfl
@[simp] theorem State.orRegIf_eth (s : State) (c : Bool) (a : Nat) (m : Word) : (s.orRegIf c a m).eth = s.eth := by cases c <;> rfl
@[simp] theorem State.orRegIf_camp (s : State) (c : Bool) (a : Nat) (m : Word) : (s.orRegIf c a m).camp = s.camp := by cases c <;> rfl
@[simp] theorem State.orRegIf_draws (s : State) (c : Bool) (a : Nat) (m : Word) : (s.orRegIf c a m).draws = s.draws := by cases c <;> rfl
@[simp] theorem State.orRegIf_freeCtr (s : State) (c : Bool) (a : Nat) (m : Word) : (s.orRegIf c a m).freeCtr = s.freeCtr := by cases c <;> rfl
@[simp] theorem State.orRegIf_rdata (s : State) (c : Bool) (a : Nat) (m : Word) : (s.orRegIf c a m).rdata = s.rdata := by cases c <;> rfl
@[simp] theorem State.orRegIf_pending (s : State) (c : Bool) (a : Nat) (m : Word) : (s.orRegIf c a m).pending = s.pending := by cases c <;> rfl

end Sys2Proof.Machine
end

