-- ==== Sys2Proof/Laws/Memory.lean ====
section
/-! SUPPORT. What the operations over memory, registers and flash keep: the canonical form, in which equal contents are equal data,
and the queue of waiting commands. -/

namespace Sys2Proof.Machine

/-- The canonical form is that of the three maps. -/
theorem canonical_iff (s : State) :
    s.canonical = true ↔ smWf memDefault s.mem = true ∧ smWf regDefault s.regs = true ∧ smWf flashDefault s.flash = true := by
  simp [State.canonical, Memory.wf, regsWf, flashWf, and_assoc]

/-- A change from s to t leaves the queue as it is and keeps the canonical form. -/
def Keeps (s t : State) : Prop := t.pending = s.pending ∧ (s.canonical = true → t.canonical = true)

theorem Keeps.refl (s : State) : Keeps s s := ⟨rfl, id⟩

theorem Keeps.trans {s t u : State} (h : Keeps s t) (h' : Keeps t u) : Keeps s u := ⟨h'.1.trans h.1, fun c => h'.2 (h.2 c)⟩

/-- A change of any other field. -/
theorem Keeps.of_eq {s t u : State} (h : Keeps s t) (hm : u.mem = t.mem) (hr : u.regs = t.regs) (hf : u.flash = t.flash)
    (hp : u.pending = t.pending) : Keeps s u :=
  ⟨hp.trans h.1, fun c => by have := h.2 c; rw [canonical_iff] at this ⊢; rw [hm, hr, hf]; exact this⟩

/-- A change of the registers alone that keeps their form. -/
theorem Keeps.of_regs {s t u : State} (h : Keeps s t) (hm : u.mem = t.mem) (hf : u.flash = t.flash) (hp : u.pending = t.pending)
    (hr : smWf regDefault t.regs = true → smWf regDefault u.regs = true) : Keeps s u :=
  ⟨hp.trans h.1, fun c => by
    have := h.2 c; rw [canonical_iff] at this ⊢; rw [hm, hf]; exact ⟨this.1, hr this.2.1, this.2.2⟩⟩

/-- A change of memory alone that keeps its form. -/
theorem Keeps.of_mem {s t u : State} (h : Keeps s t) (hr : u.regs = t.regs) (hf : u.flash = t.flash) (hp : u.pending = t.pending)
    (hm : smWf memDefault t.mem = true → smWf memDefault u.mem = true) : Keeps s u :=
  ⟨hp.trans h.1, fun c => by
    have := h.2 c; rw [canonical_iff] at this ⊢; rw [hr, hf]; exact ⟨hm this.1, this.2⟩⟩

/-- A change of the flash alone that keeps its form. -/
theorem Keeps.of_flash {s t u : State} (h : Keeps s t) (hr : u.regs = t.regs) (hm : u.mem = t.mem) (hp : u.pending = t.pending)
    (hf : smWf flashDefault t.flash = true → smWf flashDefault u.flash = true) : Keeps s u :=
  ⟨hp.trans h.1, fun c => by
    have := h.2 c; rw [canonical_iff] at this ⊢; rw [hr, hm]; exact ⟨this.1, this.2.1, hf this.2.2⟩⟩

/-- Registers of some addresses read as at reset again. -/
theorem Keeps.of_smKeep {s t u : State} {p : Nat → Bool} (h : Keeps s t) (hm : u.mem = t.mem) (hf : u.flash = t.flash)
    (hp : u.pending = t.pending) (hr : u.regs = smKeep p t.regs) : Keeps s u :=
  h.of_regs hm hf hp (fun c => by rw [hr]; exact smWf_smKeep _ _ _ c)

/-- A change of fields other than memory, registers, flash and the queue. -/
theorem Keeps.upd_iff (s₀ t : State) (tide cmps srcs threads cores memc ferry setup bw qfa sec jrnl boot pwr ckp lant cp tap evi hold sap links pcie eth camp draws freeCtr rdata) :
    Keeps s₀ ⟨t.regs, t.mem, tide, cmps, srcs, threads, cores, memc, ferry, setup, bw, qfa, t.flash, sec, jrnl, boot, pwr, ckp, lant, cp, tap, evi, hold, sap, links, pcie, eth, camp, draws, freeCtr, rdata, t.pending⟩ ↔ Keeps s₀ t := ⟨fun h => h.of_eq rfl rfl rfl rfl, fun h => h.of_eq rfl rfl rfl rfl⟩

theorem ite_keeps {s₀ a b : State} {c : Prop} [Decidable c] (ha : Keeps s₀ a) (hb : Keeps s₀ b) : Keeps s₀ (if c then a else b) := by
  split <;> assumption

theorem foldl_keeps {α : Type} {s₀ : State} (f : State → α → State) (hf : ∀ s x, Keeps s₀ s → Keeps s₀ (f s x)) (l : List α) :
    ∀ s, Keeps s₀ s → Keeps s₀ (l.foldl f s) := by
  induction l with
  | nil => exact fun _ h => h
  | cons x l ih => exact fun s h => ih _ (hf s x h)

theorem foldS_keeps {α : Type} {s0 : State} (f : α → State → State) (hf : ∀ x s, Keeps s0 s → Keeps s0 (f x s)) (l : List α) :
    ∀ s, Keeps s0 s → Keeps s0 (foldS f l s) := by
  induction l with
  | nil => exact fun _ h => h
  | cons x l ih => exact fun s h => ih _ (hf x s h)

/-! ## The writes of every meaning -/

theorem setReg_keeps {s0 s : State} (a : Nat) (v : Word) (h : Keeps s0 s) : Keeps s0 (s.setReg a v) :=
  h.of_regs rfl rfl rfl (fun c => smWf_smSet _ _ _ _ c)

theorem orReg_keeps {s0 s : State} (a : Nat) (m : Word) (h : Keeps s0 s) : Keeps s0 (s.orReg a m) := setReg_keeps _ _ h

theorem clrReg_keeps {s0 s : State} (a : Nat) (m : Word) (h : Keeps s0 s) : Keeps s0 (s.clrReg a m) := setReg_keeps _ _ h

theorem orRegIf_keeps {s0 s : State} (c : Bool) (a : Nat) (m : Word) (h : Keeps s0 s) : Keeps s0 (s.orRegIf c a m) := by
  cases c
  · exact h
  · exact setReg_keeps _ _ h

theorem incSat_keeps {s0 s : State} (a : Nat) (h : Keeps s0 s) : Keeps s0 (s.incSat a) := setReg_keeps _ _ h

theorem addReg_keeps {s0 s : State} (a n : Nat) (h : Keeps s0 s) : Keeps s0 (s.addReg a n) := setReg_keeps _ _ h

theorem incFld_keeps {s0 s : State} (a lo w n : Nat) (h : Keeps s0 s) : Keeps s0 (s.incFld a lo w n) := setReg_keeps _ _ h

theorem setRegFld_keeps {s0 s : State} (a lo w x : Nat) (h : Keeps s0 s) : Keeps s0 (s.setRegFld a lo w x) := setReg_keeps _ _ h

theorem store_keeps {s0 s : State} (a : Nat) (bs : List Byte) (h : Keeps s0 s) : Keeps s0 (s.store a bs) :=
  h.of_mem rfl rfl rfl (fun c => smWf_writeMem _ _ _ c)

theorem zero_keeps {s0 s : State} (a n : Nat) (h : Keeps s0 s) : Keeps s0 (s.zero a n) :=
  h.of_mem rfl rfl rfl (fun c => smWf_smKeep _ _ _ c)

theorem program_keeps {s0 s : State} (a : Nat) (bs : List Byte) (h : Keeps s0 s) : Keeps s0 (s.program a bs) :=
  h.of_flash rfl rfl rfl (fun c => smWf_program _ _ _ c)

theorem eraseFlash_keeps {s0 s : State} (a n : Nat) (h : Keeps s0 s) : Keeps s0 (s.eraseFlash a n) :=
  h.of_flash rfl rfl rfl (fun c => smWf_smKeep _ _ _ c)

theorem setThread_keeps {s0 s : State} (k t : Nat) (th : Thread) (h : Keeps s0 s) : Keeps s0 (s.setThread k t th) := h.of_eq rfl rfl rfl rfl

theorem setCore_keeps {s0 s : State} (k : Nat) (c : CoreSt) (h : Keeps s0 s) : Keeps s0 (s.setCore k c) := h.of_eq rfl rfl rfl rfl

theorem passCclk_keeps {s0 s : State} (k dt : Nat) (h : Keeps s0 s) : Keeps s0 (s.passCclk k dt) := addReg_keeps _ _ (setCore_keeps _ _ h)

theorem advFree_keeps {s0 s : State} (h : Keeps s0 s) : Keeps s0 s.advFree := h.of_eq rfl rfl rfl rfl

theorem setMode_keeps {s0 s : State} (m : Mode) (h : Keeps s0 s) : Keeps s0 (setMode m s) :=
  orReg_keeps _ _ (h.of_eq rfl rfl rfl rfl)

theorem cancelWb_keeps {s0 s : State} (a n : Nat) (h : Keeps s0 s) : Keeps s0 (s.cancelWb a n) := h.of_eq rfl rfl rfl rfl

theorem noteWrite_keeps {s0 s : State} (a n : Nat) (h : Keeps s0 s) : Keeps s0 (s.noteWrite a n) := h.of_eq rfl rfl rfl rfl

/-- Every form of a store keeps the canonical form. -/
theorem storeAt_keeps {s0 s : State} (t : Target) (bs : List Byte) (h : Keeps s0 s) : Keeps s0 (s.storeAt t bs) := by
  unfold State.storeAt
  split
  · exact noteWrite_keeps _ _ (cancelWb_keeps _ _ (store_keeps _ _ h))
  · exact noteWrite_keeps _ _ (cancelWb_keeps _ _ (store_keeps _ _ h))
  · exact h

/-! ## What a byte of memory reads as after a store -/

/-- A plain store writes its bytes and no other. -/
theorem State.byte_storeAt_mem (s : State) (r : Region) (a : Nat) (bs : List Byte) (b : Nat) :
    (s.storeAt (.mem r a) bs).byte b = if a ≤ b ∧ b < a + bs.length then bs.getD (b - a) 0 else s.byte b := by
  have h : (s.storeAt (.mem r a) bs).mem = (s.store a bs).mem := rfl
  rw [← State.byte_store]; simp only [State.byte, h]

/-- A store by an alias changes the four bytes of its word and no other (R318). -/
theorem State.byte_storeAt_mirror (s : State) (x : Bool) (r : Region) (a : Nat) (bs : List Byte) (b : Nat) (hb : b < a ∨ a + 4 ≤ b) :
    (s.storeAt (.mirror x r a) bs).byte b = s.byte b := by
  obtain ⟨v, hv⟩ : ∃ v, (s.storeAt (.mirror x r a) bs).mem = (s.store a (leBytes 4 v)).mem := ⟨_, rfl⟩
  have e := State.byte_store s a (leBytes 4 v) b
  rw [show (leBytes 4 v).length = 4 from rfl, if_neg (by omega)] at e
  rw [State.byte, hv]; exact e

end Sys2Proof.Machine
end

