-- ==== Sys2Proof/Laws/KeepsUnits.lean ====
section
/-! SUPPORT. What the operations of the fabric, the Ferry, the interrupt controller, Breakwater, the Tide, the pins, the serial audio ports and the event inputs keep: the canonical form of memory,
registers and flash, and the queue of waiting commands. -/

namespace Sys2Proof.Machine

/-! ## Mem -/

theorem setMemPwr_keeps {s₀ s : State} (u : Nat) (p : MemPwr) (h : Keeps s₀ s) : Keeps s₀ (State.setMemPwr s u p) := by
  unfold State.setMemPwr
  try dsimp only
  repeat' first
    | (with_reducible first | assumption | apply setRegFld_keeps | apply ite_keeps)
    | simp only [Keeps.upd_iff]

theorem zeroUnit_keeps {s₀ s : State} (u : Nat) (h : Keeps s₀ s) : Keeps s₀ (State.zeroUnit s u) := by
  unfold State.zeroUnit
  try dsimp only
  repeat' first
    | (with_reducible first | assumption | apply zero_keeps | apply ite_keeps)

theorem beginWake_keeps {s₀ s : State} (u : Nat) (h : Keeps s₀ s) : Keeps s₀ (State.beginWake s u) := by
  unfold State.beginWake
  try dsimp only
  repeat' first
    | (with_reducible first | assumption | apply incSat_keeps | apply setMemPwr_keeps | apply ite_keeps)
    | simp only [Keeps.upd_iff] | intro _ _ _ | split

theorem endWake_keeps {s₀ s : State} (u : Nat) (h : Keeps s₀ s) : Keeps s₀ (State.endWake s u) := by
  unfold State.endWake
  try dsimp only
  repeat' first
    | (with_reducible first | assumption | apply setMemPwr_keeps | apply zeroUnit_keeps | apply ite_keeps)
    | simp only [Keeps.upd_iff] | intro _ _ _ | split

theorem turnOn_keeps {s₀ s : State} (u : Nat) (h : Keeps s₀ s) : Keeps s₀ (State.turnOn s u) := by
  unfold State.turnOn
  try dsimp only
  repeat' first
    | (with_reducible first | assumption | apply setMemPwr_keeps | apply zeroUnit_keeps | apply ite_keeps)
    | simp only [Keeps.upd_iff] | intro _ _ _ | split

theorem neapUnits_keeps {s₀ s : State} (h : Keeps s₀ s) : Keeps s₀ (neapUnits s) := by
  unfold neapUnits
  try dsimp only
  repeat' first
    | (with_reducible first | assumption | apply foldS_keeps | apply setMemPwr_keeps)
    | simp only [Keeps.upd_iff] | intro _ _ _

theorem banksOn_keeps {s₀ s : State} (h : Keeps s₀ s) : Keeps s₀ (banksOn s) := by
  unfold banksOn
  try dsimp only
  repeat' first
    | (with_reducible first | assumption | apply foldS_keeps | apply turnOn_keeps)
    | simp only [Keeps.upd_iff] | intro _ _ _

theorem markWoken_keeps {s₀ s : State} (u : Nat) (h : Keeps s₀ s) : Keeps s₀ (State.markWoken s u) := by
  unfold State.markWoken
  try dsimp only
  repeat' first
    | (with_reducible first | assumption | apply ite_keeps)
    | simp only [Keeps.upd_iff]

theorem wakeUnit_keeps {s₀ s : State} (u : Nat) (h : Keeps s₀ s) : Keeps s₀ (State.wakeUnit s u) := by
  unfold State.wakeUnit
  try dsimp only
  repeat' first
    | (with_reducible first | assumption | apply beginWake_keeps | apply endWake_keeps | apply markWoken_keeps)

theorem wakeSpan_keeps {s₀ s : State} (a : Nat) (n : Nat) (h : Keeps s₀ s) : Keeps s₀ (State.wakeSpan s a n) := by
  unfold State.wakeSpan
  try dsimp only
  repeat' first
    | (with_reducible first | assumption | apply foldS_keeps | apply wakeUnit_keeps | apply ite_keeps)
    | simp only [Keeps.upd_iff] | intro _ _ _

theorem wakeFor_keeps {s₀ s : State} (t : Target) (h : Keeps s₀ s) : Keeps s₀ (State.wakeFor s t) := by
  unfold State.wakeFor
  try dsimp only
  repeat' first
    | (with_reducible first | assumption | apply wakeUnit_keeps | apply ite_keeps)
    | simp only [Keeps.upd_iff] | intro _ _ _ | split

theorem logUe_keeps {s₀ s : State} (ini : Initiator) (k : FabKind) (a : Nat) (h : Keeps s₀ s) : Keeps s₀ (State.logUe s ini k a) := by
  unfold State.logUe
  try dsimp only
  repeat' first
    | (with_reducible first | assumption | apply orReg_keeps | apply ite_keeps)
    | simp only [Keeps.upd_iff]

theorem noteUe_keeps {s₀ s : State} (ini : Initiator) (k : FabKind) (a : Nat) (h : Keeps s₀ s) : Keeps s₀ (State.noteUe s ini k a) := by
  unfold State.noteUe
  try dsimp only
  repeat' first
    | (with_reducible first | assumption | apply ite_keeps)
    | simp only [Keeps.upd_iff] | intro _ _ _ | split

theorem ownUes_keeps {s₀ s : State} (k : Fin 144) (t : Fin 4) (kind : FabKind) (ws : List Nat) (h :
    Keeps s₀ s) : Keeps s₀ (State.ownUes s k t kind ws) := by
  unfold State.ownUes
  try dsimp only
  repeat' first
    | (with_reducible first | assumption | apply foldS_keeps | apply logUe_keeps)
    | simp only [Keeps.upd_iff] | intro _ _ _

theorem popUe_keeps {s₀ s : State} (h : Keeps s₀ s) : Keeps s₀ (State.popUe s) := by
  unfold State.popUe
  try dsimp only
  repeat' first
    | (with_reducible first | assumption)
    | simp only [Keeps.upd_iff]

theorem countCe_keeps {s₀ s : State} (bw : Bool) (a : Nat) (h : Keeps s₀ s) : Keeps s₀ (State.countCe s bw a) := by
  unfold State.countCe
  try dsimp only
  repeat' first
    | (with_reducible first | assumption | apply incSat_keeps | apply orRegIf_keeps | apply ite_keeps)
    | simp only [Keeps.upd_iff]

theorem countCes_keeps {s₀ s : State} (bw : Bool) (a : Nat) (n : Nat) (ws : List (Fin 4)) (h :
    Keeps s₀ s) : Keeps s₀ (State.countCes s bw a n ws) := by
  unfold State.countCes
  try dsimp only
  repeat' first
    | (with_reducible first | assumption | apply foldS_keeps | apply countCe_keeps | apply ite_keeps)
    | simp only [Keeps.upd_iff] | intro _ _ _

theorem touchStaging_keeps {s₀ s : State} (a : Nat) (n : Nat) (h : Keeps s₀ s) : Keeps s₀ (State.touchStaging s a n) := by
  unfold State.touchStaging
  try dsimp only
  repeat' first
    | (with_reducible first | assumption | apply ite_keeps)
    | simp only [Keeps.upd_iff]

theorem request_keeps {s₀ s : State} (ini : Initiator) (kind : FabKind) (a : Nat) (n : Nat) (data : List Byte) (cst : Nat) (mask : optParam (Option Nat) Option.none) (h :
    Keeps s₀ s) : Keeps s₀ (State.request s ini kind a n data cst mask).1 := by
  unfold State.request
  try dsimp only
  repeat' first
    | (with_reducible first | assumption)
    | simp only [Keeps.upd_iff]

theorem setReqSt_keeps {s₀ s : State} (id : Nat) (st1 : FabSt) (h : Keeps s₀ s) : Keeps s₀ (State.setReqSt s id st1) := by
  unfold State.setReqSt
  try dsimp only
  repeat' first
    | (with_reducible first | assumption)
    | simp only [Keeps.upd_iff]

theorem gathered_keeps {s₀ s : State} (id : Nat) (n : Nat) (bs : List Byte) (h : Keeps s₀ s) : Keeps s₀ (State.gathered s id n bs) := by
  unfold State.gathered
  try dsimp only
  repeat' first
    | (with_reducible first | assumption)
    | simp only [Keeps.upd_iff]

theorem dropReq_keeps {s₀ s : State} (id : Nat) (h : Keeps s₀ s) : Keeps s₀ (State.dropReq s id) := by
  unfold State.dropReq
  try dsimp only
  repeat' first
    | (with_reducible first | assumption)
    | simp only [Keeps.upd_iff]

theorem served_keeps {s₀ s : State} (b : Nat) (c : Nat) (code : Nat) (h : Keeps s₀ s) : Keeps s₀ (State.served s b c code) := by
  unfold State.served
  try dsimp only
  repeat' first
    | (with_reducible first | assumption)
    | simp only [Keeps.upd_iff]

theorem arrive_keeps {s₀ s : State} (b : Nat) (late : List Nat) (h : Keeps s₀ s) : Keeps s₀ (State.arrive s b late) := by
  unfold State.arrive
  try dsimp only
  repeat' first
    | (with_reducible first | assumption)
    | simp only [Keeps.upd_iff]

/-! ## Ferry -/

theorem setFry_keeps {s₀ s : State} (n : Nat) (c : Ferry) (h : Keeps s₀ s) : Keeps s₀ (State.setFry s n c) := by
  unfold State.setFry
  try dsimp only
  repeat' first
    | (with_reducible first | assumption)
    | simp only [Keeps.upd_iff]

theorem onFry_keeps {s₀ s : State} (n : Nat) (f : Ferry → Ferry) (h : Keeps s₀ s) : Keeps s₀ (State.onFry s n f) := by
  unfold State.onFry
  try dsimp only
  repeat' first
    | (with_reducible first | assumption | apply setFry_keeps)

theorem fryFlag_keeps {s₀ : State} (n : Nat) (m : Word) {s : State} (h : Keeps s₀ s) : Keeps s₀ (fryFlag n m s) := by
  unfold fryFlag
  try dsimp only
  repeat' first
    | (with_reducible first | assumption | apply orReg_keeps)

theorem setPair_keeps {s₀ : State} (lo : Nat) (hi : Nat) (v : Nat) {s : State} (h : Keeps s₀ s) : Keeps s₀ (setPair lo hi v s) := by
  unfold setPair
  try dsimp only
  repeat' first
    | (with_reducible first | assumption | apply setReg_keeps)

theorem fryError_keeps {s₀ : State} (n : Nat) (code : Nat) (addr : Nat) {s : State} (h : Keeps s₀ s) : Keeps s₀ (fryError n code addr s) := by
  unfold fryError
  try dsimp only
  repeat' first
    | (with_reducible first
        | assumption | apply fryFlag_keeps | apply setPair_keeps | apply setReg_keeps | apply setFry_keeps | apply ite_keeps)

theorem fryComplete_keeps {s₀ : State} (n : Nat) {s : State} (h : Keeps s₀ s) : Keeps s₀ (fryComplete n s) := by
  unfold fryComplete
  try dsimp only
  repeat' first
    | (with_reducible first | assumption | apply fryError_keeps | apply setFry_keeps | apply fryFlag_keeps | apply ite_keeps)

theorem fryShow_keeps {s₀ : State} (n : Nat) (m : FryMove) {s : State} (h : Keeps s₀ s) : Keeps s₀ (fryShow n m s) := by
  unfold fryShow
  try dsimp only
  repeat' first
    | (with_reducible first | assumption | apply setPair_keeps | apply setReg_keeps)

theorem fryFetch_keeps {s₀ : State} (n : Nat) (a : Nat) (needed : Bool) {s : State} (h : Keeps s₀ s) : Keeps s₀ (fryFetch n a needed s) := by
  unfold fryFetch
  try dsimp only
  repeat' first
    | (with_reducible first
        | assumption | apply fryError_keeps | apply setFry_keeps | apply request_keeps | apply onFry_keeps | apply ite_keeps)

theorem fryWant_keeps {s₀ : State} (n : Nat) {s : State} (h : Keeps s₀ s) : Keeps s₀ (fryWant n s) := by
  unfold fryWant
  try dsimp only
  repeat' first
    | (with_reducible first
        | assumption | apply setFry_keeps | apply fryError_keeps | apply fryFetch_keeps | apply onFry_keeps | apply ite_keeps)
    | simp only [Keeps.upd_iff] | intro _ _ _ | split

theorem frySettle_keeps {s₀ : State} (n : Nat) {s : State} (h : Keeps s₀ s) : Keeps s₀ (frySettle n s) := by
  unfold frySettle
  try dsimp only
  repeat' first
    | (with_reducible first | assumption | apply fryFlag_keeps | apply setFry_keeps | apply ite_keeps)

theorem fryNext_keeps {s₀ : State} (n : Nat) (k : Nat) {s : State} (h : Keeps s₀ s) : Keeps s₀ (fryNext n k s) := by
  unfold fryNext
  try dsimp only
  repeat' first
    | (with_reducible first | assumption | apply onFry_keeps | apply frySettle_keeps | apply fryWant_keeps | apply ite_keeps)

theorem fryGoto_keeps {s₀ : State} (n : Nat) (a : Nat) (discard : Bool) {s : State} (h : Keeps s₀ s) : Keeps s₀ (fryGoto n a discard s) := by
  unfold fryGoto
  try dsimp only
  repeat' first
    | (with_reducible first | assumption | apply onFry_keeps | apply frySettle_keeps | apply fryWant_keeps | apply ite_keeps)

theorem fryHalfFull_keeps {s₀ : State} (n : Nat) {s : State} (h : Keeps s₀ s) : Keeps s₀ (fryHalfFull n s) := by
  unfold fryHalfFull
  try dsimp only
  repeat' first
    | (with_reducible first | assumption | apply setFry_keeps | apply fryFlag_keeps | apply ite_keeps)

theorem fryFoldBytes_keeps {s₀ : State} (n : Nat) (bs : List Byte) {s : State} (h : Keeps s₀ s) : Keeps s₀ (fryFoldBytes n bs s) := by
  unfold fryFoldBytes
  try dsimp only
  repeat' first
    | (with_reducible first | assumption | apply setReg_keeps)

theorem fryWrite_keeps {s₀ : State} (n : Nat) (a : Nat) (bs : List Byte) (tag : Nat) (elem : Nat) {s : State} (h :
    Keeps s₀ s) : Keeps s₀ (fryWrite n a bs tag elem s) := by
  unfold fryWrite
  try dsimp only
  repeat' first
    | (with_reducible first | assumption | apply request_keeps | apply onFry_keeps)

theorem fryWriteBeat_keeps {s₀ : State} (n : Nat) (m : FryMove) {s : State} (h : Keeps s₀ s) : Keeps s₀ (fryWriteBeat n m s) := by
  unfold fryWriteBeat
  try dsimp only
  repeat' first
    | (with_reducible first
        | assumption | apply fryError_keeps | apply fryFoldBytes_keeps | apply fryWrite_keeps | apply fryShow_keeps | apply onFry_keeps
        | apply ite_keeps)

theorem fryPump_keeps {s₀ : State} (n fuel : Nat) : ∀ {s : State}, Keeps s₀ s → Keeps s₀ (fryPump n fuel s) := by
  induction fuel with
  | zero => exact fun h => h
  | succ fuel ih =>
    intro s h
    unfold fryPump
    split
    · exact h
    next m _ =>
      split
      · exact fryNext_keeps _ _ h
      · have k := fryWriteBeat_keeps n m h
        dsimp only
        repeat' split
        · exact k
        · exact k
        · exact ih k

theorem fryReadBeat_keeps {s₀ : State} (n : Nat) (m : FryMove) {s : State} (h : Keeps s₀ s) : Keeps s₀ (fryReadBeat n m s) := by
  unfold fryReadBeat
  try dsimp only
  repeat' first
    | (with_reducible first | assumption | apply fryError_keeps | apply request_keeps | apply onFry_keeps | apply ite_keeps)

theorem fryFoldBeat_keeps {s₀ : State} (n : Nat) (addr : Nat) (left : Nat) (toFold : Nat) {s : State} (h :
    Keeps s₀ s) : Keeps s₀ (fryFoldBeat n addr left toFold s) := by
  unfold fryFoldBeat
  try dsimp only
  repeat' first
    | (with_reducible first | assumption | apply fryError_keeps | apply request_keeps | apply onFry_keeps | apply ite_keeps)

theorem setFlagBit_keeps {s₀ : State} (f : Nat) (v : Bool) {s : State} (h : Keeps s₀ s) : Keeps s₀ (setFlagBit f v s) := by
  unfold setFlagBit
  try dsimp only
  repeat' first
    | (with_reducible first | assumption | apply setRegFld_keeps | apply ite_keeps)

theorem flagSet_keeps {s₀ : State} (f : Nat) {s : State} (h : Keeps s₀ s) : Keeps s₀ (flagSet f s) := by
  unfold flagSet
  try dsimp only
  repeat' first
    | (with_reducible first | assumption | apply setFlagBit_keeps | apply ite_keeps)
    | simp only [Keeps.upd_iff]

theorem flagClr_keeps {s₀ : State} (f : Nat) {s : State} (h : Keeps s₀ s) : Keeps s₀ (flagClr f s) := by
  unfold flagClr
  try dsimp only
  repeat' first
    | (with_reducible first | assumption | apply setFlagBit_keeps)

theorem fryRelease_keeps {s₀ : State} (p : FryWait → Bool) {s : State} (h : Keeps s₀ s) : Keeps s₀ (fryRelease p s) := by
  unfold fryRelease
  try dsimp only
  repeat' first
    | (with_reducible first | assumption)
    | simp only [Keeps.upd_iff]

theorem fryWaitOn_keeps {s₀ : State} (n : Nat) (w : FryWait) (now : Bool) {s : State} (h : Keeps s₀ s) : Keeps s₀ (fryWaitOn n w now s) := by
  unfold fryWaitOn
  try dsimp only
  repeat' first
    | (with_reducible first | assumption | apply fryNext_keeps | apply onFry_keeps | apply ite_keeps)

theorem fryWaitEnd_keeps {s₀ : State} (n : Nat) {s : State} (h : Keeps s₀ s) : Keeps s₀ (fryWaitEnd n s) := by
  unfold fryWaitEnd
  try dsimp only
  repeat' first
    | (with_reducible first | assumption | apply fryNext_keeps | apply onFry_keeps)

theorem fryWake_keeps {s₀ : State} (n : Nat) {s : State} (h : Keeps s₀ s) : Keeps s₀ (fryWake n s) := by
  unfold fryWake
  try dsimp only
  repeat' first
    | (with_reducible first | assumption | apply onFry_keeps | apply fryGoto_keeps | apply incSat_keeps)

theorem fryExec_keeps {s₀ : State} (n : Nat) (i : FInstr) (fired : Nat → Bool) (entries : Nat → Nat) {s : State} (h :
    Keeps s₀ s) : Keeps s₀ (fryExec n i fired entries s) := by
  unfold fryExec
  try dsimp only
  repeat' first
    | (with_reducible first
        | assumption | apply onFry_keeps | apply fryNext_keeps | apply fryReadBeat_keeps | apply fryShow_keeps | apply setFry_keeps
        | apply fryError_keeps | apply fryGoto_keeps | apply fryWaitOn_keeps | apply flagClr_keeps | apply fryFlag_keeps
        | apply flagSet_keeps | apply setReg_keeps | apply fryFoldBeat_keeps | apply fryWrite_keeps | apply fryComplete_keeps
        | apply ite_keeps)
    | simp only [Keeps.upd_iff] | intro _ _ _ | split

theorem fryStep_keeps {s₀ : State} (n : Nat) (want : FInstr → Bool) (fired : Nat → Bool) (entries : Nat → Nat) {s : State} (h :
    Keeps s₀ s) : Keeps s₀ (fryStep n want fired entries s) := by
  unfold fryStep
  try dsimp only
  repeat' first
    | (with_reducible first
        | assumption | apply fryError_keeps | apply fryFetch_keeps | apply fryExec_keeps | apply frySettle_keeps | apply ite_keeps)
    | simp only [Keeps.upd_iff] | intro _ _ _ | split

theorem fryFetched_keeps {s₀ : State} (n : Nat) {s : State} (h : Keeps s₀ s) : Keeps s₀ (fryFetched n s) := by
  unfold fryFetched
  try dsimp only
  repeat' first
    | (with_reducible first
        | assumption | apply setFry_keeps | apply dropReq_keeps | apply fryWant_keeps | apply fryError_keeps | apply onFry_keeps
        | apply ite_keeps)
    | simp only [Keeps.upd_iff] | intro _ _ _ | split

theorem fryReadData_keeps {s₀ : State} (n : Nat) (id : Nat) {s : State} (h : Keeps s₀ s) : Keeps s₀ (fryReadData n id s) := by
  unfold fryReadData
  try dsimp only
  repeat' first
    | (with_reducible first
        | assumption | apply setFry_keeps | apply dropReq_keeps | apply frySettle_keeps | apply fryFoldBytes_keeps | apply onFry_keeps
        | apply fryNext_keeps | apply fryPump_keeps | apply fryError_keeps | apply ite_keeps)
    | simp only [Keeps.upd_iff] | intro _ _ _ | split

theorem fryWriteAck_keeps {s₀ : State} (n : Nat) (id : Nat) {s : State} (h : Keeps s₀ s) : Keeps s₀ (fryWriteAck n id s) := by
  unfold fryWriteAck
  try dsimp only
  repeat' first
    | (with_reducible first
        | assumption | apply setFry_keeps | apply dropReq_keeps | apply fryHalfFull_keeps | apply fryPump_keeps | apply fryComplete_keeps
        | apply frySettle_keeps | apply setReg_keeps | apply fryFlag_keeps | apply setPair_keeps | apply onFry_keeps | apply ite_keeps)
    | simp only [Keeps.upd_iff] | intro _ _ _ | split

theorem fryRefuse_keeps {s₀ : State} (n : Nat) {s : State} (h : Keeps s₀ s) : Keeps s₀ (fryRefuse n s) := by
  unfold fryRefuse
  try dsimp only
  repeat' first
    | (with_reducible first | assumption | apply fryFlag_keeps)

theorem fryStart_keeps {s₀ : State} (n : Nat) {s : State} (h : Keeps s₀ s) : Keeps s₀ (fryStart n s) := by
  unfold fryStart
  try dsimp only
  repeat' first
    | (with_reducible first
        | assumption | apply setReg_keeps | apply setFry_keeps | apply fryWant_keeps | apply fryRefuse_keeps | apply ite_keeps)

theorem fryPause_keeps {s₀ : State} (n : Nat) {s : State} (h : Keeps s₀ s) : Keeps s₀ (fryPause n s) := by
  unfold fryPause
  try dsimp only
  repeat' first
    | (with_reducible first
        | assumption | apply frySettle_keeps | apply fryPump_keeps | apply setFry_keeps | apply fryRefuse_keeps | apply ite_keeps)

theorem fryApply_keeps {s₀ : State} (n : Nat) {s : State} (h : Keeps s₀ s) : Keeps s₀ (fryApply n s) := by
  unfold fryApply
  try dsimp only
  repeat' first
    | (with_reducible first
        | assumption | apply fryWaitEnd_keeps | apply fryWake_keeps | apply fryPump_keeps | apply fryWant_keeps | apply frySettle_keeps
        | apply ite_keeps)

theorem fryResume_keeps {s₀ : State} (n : Nat) {s : State} (h : Keeps s₀ s) : Keeps s₀ (fryResume n s) := by
  unfold fryResume
  try dsimp only
  repeat' first
    | (with_reducible first | assumption | apply fryApply_keeps | apply setFry_keeps | apply fryRefuse_keeps | apply ite_keeps)

theorem fryStop_keeps {s₀ : State} (n : Nat) {s : State} (h : Keeps s₀ s) : Keeps s₀ (fryStop n s) := by
  unfold fryStop
  try dsimp only
  repeat' first
    | (with_reducible first
        | assumption | apply fryRefuse_keeps | apply frySettle_keeps | apply setFry_keeps | apply fryFlag_keeps | apply ite_keeps)
    | simp only [Keeps.upd_iff] | intro _ _ _ | split

theorem fryAbort_keeps {s₀ : State} (n : Nat) {s : State} (h : Keeps s₀ s) : Keeps s₀ (fryAbort n s) := by
  unfold fryAbort
  try dsimp only
  repeat' first
    | (with_reducible first
        | assumption | apply setReg_keeps | apply fryRefuse_keeps | apply fryFlag_keeps | apply setFry_keeps | apply ite_keeps)
    | simp only [Keeps.upd_iff] | intro _ _ _ | split

theorem fryClear_keeps {s₀ : State} (n : Nat) {s : State} (h : Keeps s₀ s) : Keeps s₀ (fryClear n s) := by
  unfold fryClear
  try dsimp only
  repeat' first
    | (with_reducible first | assumption | apply setFry_keeps | apply fryRefuse_keeps | apply ite_keeps)

theorem fryCmd_keeps {s₀ : State} (n : Nat) (code : Nat) {s : State} (h : Keeps s₀ s) : Keeps s₀ (fryCmd n code s) := by
  unfold fryCmd
  try dsimp only
  repeat' first
    | (with_reducible first
        | assumption | apply fryStart_keeps | apply fryPause_keeps | apply fryResume_keeps | apply fryStop_keeps | apply fryAbort_keeps
        | apply fryClear_keeps | apply fryRefuse_keeps | apply ite_keeps)
    | simp only [Keeps.upd_iff] | intro _ _ _ | split

theorem fryRegWrite_keeps {s₀ : State} (n : Nat) (which : Nat) (v : Word) {s : State} (h : Keeps s₀ s) : Keeps s₀ (fryRegWrite n which v s) := by
  unfold fryRegWrite
  try dsimp only
  repeat' first
    | (with_reducible first | assumption | apply setReg_keeps | apply onFry_keeps | apply fryRefuse_keeps | apply ite_keeps)
    | simp only [Keeps.upd_iff] | intro _ _ _ | split

theorem fryReset_keeps {s₀ s : State} (n : Nat) (h : Keeps s₀ s) : Keeps s₀ (fryReset n s) :=
  Keeps.of_smKeep (setFry_keeps n Ferry.reset h) rfl rfl rfl rfl

/-! ## Ic -/

theorem onThread_keeps {s₀ s : State} (k : Nat) (t : Nat) (f : Thread → Thread) (h : Keeps s₀ s) : Keeps s₀ (State.onThread s k t f) := by
  unfold State.onThread
  try dsimp only
  repeat' first
    | (with_reducible first | assumption | apply setThread_keeps)

theorem setSrc_keeps {s₀ s : State} (r : SrcRef) (x : Src) (h : Keeps s₀ s) : Keeps s₀ (State.setSrc s r x) := by
  unfold State.setSrc
  try dsimp only
  repeat' first
    | (with_reducible first | assumption | apply onThread_keeps | apply ite_keeps)
    | simp only [Keeps.upd_iff] | intro _ _ _ | split

theorem claim_keeps {s₀ : State} (k : Fin 144) (t : Fin 4) (cst : Nat) {s : State} (h : Keeps s₀ s) : Keeps s₀ (claim k t cst s).1 := by
  unfold claim
  try dsimp only
  repeat' first
    | (with_reducible first | assumption | apply incSat_keeps | apply setSrc_keeps | apply ite_keeps)
    | simp only [Keeps.upd_iff] | intro _ _ _ | split

theorem complete_keeps {s₀ : State} (k : Fin 144) (t : Fin 4) (id : Nat) {s : State} (h : Keeps s₀ s) : Keeps s₀ (complete k t id s) := by
  unfold complete
  try dsimp only
  repeat' first
    | (with_reducible first | assumption | apply setSrc_keeps | apply orReg_keeps | apply ite_keeps)

theorem holdoffLcore_keeps {s₀ : State} (l : Nat) {s : State} (h : Keeps s₀ s) : Keeps s₀ (holdoffLcore l s) := by
  unfold holdoffLcore
  try dsimp only
  repeat' first
    | (with_reducible first | assumption)
    | simp only [Keeps.upd_iff]

theorem swBits_keeps {s₀ : State} (k : Nat) (v : Word) (val : Bool) {s : State} (h : Keeps s₀ s) : Keeps s₀ (swBits k v val s) := by
  unfold swBits
  try dsimp only
  repeat' first
    | (with_reducible first | assumption | apply foldS_keeps | apply setSrc_keeps | apply ite_keeps)
    | simp only [Keeps.upd_iff] | intro _ _ _

theorem refusedFlag_keeps {s₀ : State} (r : IcRight) {s : State} (h : Keeps s₀ s) : Keeps s₀ (refusedFlag r s) := by
  unfold refusedFlag
  try dsimp only
  repeat' first
    | (with_reducible first | assumption | apply orReg_keeps | apply ite_keeps)

theorem icPend_keeps {s₀ : State} (r : IcRight) (k : Nat) (v : Word) (val : Bool) {s : State} (h : Keeps s₀ s) : Keeps s₀ (icPend r k v val s) := by
  unfold icPend
  try dsimp only
  repeat' first
    | (with_reducible first | assumption | apply swBits_keeps | apply refusedFlag_keeps | apply ite_keeps)

theorem icMask_keeps {s₀ : State} (r : IcRight) (k : Nat) (v : Word) (val : Bool) {s : State} (h : Keeps s₀ s) : Keeps s₀ (icMask r k v val s) := by
  unfold icMask
  try dsimp only
  repeat' first
    | (with_reducible first | assumption | apply refusedFlag_keeps | apply orReg_keeps | apply clrReg_keeps | apply ite_keeps)

theorem icSrcCfg_keeps {s₀ : State} (r : IcRight) (n : Nat) (v : Word) {s : State} (h : Keeps s₀ s) : Keeps s₀ (icSrcCfg r n v s) := by
  unfold icSrcCfg
  try dsimp only
  repeat' first
    | (with_reducible first | assumption | apply setReg_keeps | apply orReg_keeps | apply ite_keeps)

theorem icDbell_keeps {s₀ : State} (r : IcRight) (v : Word) {s : State} (h : Keeps s₀ s) : Keeps s₀ (icDbell r v s) := by
  unfold icDbell
  try dsimp only
  repeat' first
    | (with_reducible first | assumption | apply orReg_keeps | apply setThread_keeps | apply ite_keeps)
    | simp only [Keeps.upd_iff] | intro _ _ _ | split

theorem count_keeps {s₀ s : State} (k : Nat) (a : Nat) (n : Nat) (clk : Nat) (h : Keeps s₀ s) : Keeps s₀ (State.count s k a n clk) := by
  unfold State.count
  try dsimp only
  repeat' first
    | (with_reducible first | assumption | apply addReg_keeps | apply ite_keeps)
    | simp only [Keeps.upd_iff] | intro _ _ _

theorem countCpar_keeps {s₀ : State} (k : Nat) {s : State} (h : Keeps s₀ s) : Keeps s₀ (countCpar k s) := by
  unfold countCpar
  try dsimp only
  repeat' first
    | (with_reducible first | assumption | apply foldS_keeps | apply onThread_keeps | apply count_keeps)
    | simp only [Keeps.upd_iff] | intro _ _ _

theorem postedFault_keeps {s₀ : State} (k : Nat) (t : Nat) (id : Nat) {s : State} (h : Keeps s₀ s) : Keeps s₀ (postedFault k t id s) := by
  unfold postedFault
  try dsimp only
  repeat' first
    | (with_reducible first | assumption | apply onThread_keeps)

/-! ## Bw -/

theorem setPt_keeps {s₀ s : State} (n : Nat) (p : PtRun) (h : Keeps s₀ s) : Keeps s₀ (State.setPt s n p) := by
  unfold State.setPt
  try dsimp only
  repeat' first
    | (with_reducible first | assumption)
    | simp only [Keeps.upd_iff]

theorem setLc_keeps {s₀ s : State} (l : Nat) (x : LcRun) (h : Keeps s₀ s) : Keeps s₀ (State.setLc s l x) := by
  unfold State.setLc
  try dsimp only
  repeat' first
    | (with_reducible first | assumption)
    | simp only [Keeps.upd_iff]

theorem cevt_keeps {s₀ : State} (c : Nat) (m : Word) {s : State} (h : Keeps s₀ s) : Keeps s₀ (cevt c m s) := by
  unfold cevt
  try dsimp only
  repeat' first
    | (with_reducible first | assumption | apply orReg_keeps)

theorem notReplayed_keeps {s₀ : State} (n : Nat) {s : State} (h : Keeps s₀ s) : Keeps s₀ (State.notReplayed n s) := by
  unfold State.notReplayed
  try dsimp only
  repeat' first
    | (with_reducible first | assumption | apply setPt_keeps)
    | simp only [Keeps.upd_iff]

theorem logEvent_keeps {s₀ : State} (k : Nat) (e : FaultEvt) {s : State} (h : Keeps s₀ s) : Keeps s₀ (logEvent k e s) := by
  unfold logEvent
  try dsimp only
  repeat' first
    | (with_reducible first | assumption | apply cevt_keeps | apply incSat_keeps | apply orReg_keeps | apply setPt_keeps | apply advFree_keeps | apply ite_keeps)
    | simp only [Keeps.upd_iff]

theorem popLog_keeps {s₀ s : State} (h : Keeps s₀ s) : Keeps s₀ (popLog s) := by
  unfold popLog
  try dsimp only
  repeat' first
    | (with_reducible first | assumption)
    | simp only [Keeps.upd_iff]

theorem stopCore_keeps {s₀ : State} (k : Nat) {s : State} (h : Keeps s₀ s) : Keeps s₀ (stopCore k s) := by
  unfold stopCore
  try dsimp only
  repeat' first
    | (with_reducible first | assumption | apply foldS_keeps | apply onThread_keeps)
    | simp only [Keeps.upd_iff] | intro _ _ _

theorem fenceCore_keeps {s₀ : State} (k : Nat) {s : State} (h : Keeps s₀ s) : Keeps s₀ (fenceCore k s) := by
  unfold fenceCore
  try dsimp only
  repeat' first
    | (with_reducible first | assumption | apply foldS_keeps | apply onThread_keeps | apply setCore_keeps)
    | simp only [Keeps.upd_iff] | intro _ _ _

theorem coreReset_keeps {s₀ : State} (k : Nat) {s : State} (h : Keeps s₀ s) : Keeps s₀ (coreReset k s) := by
  unfold coreReset
  try dsimp only
  repeat' first
    | (with_reducible first
        | assumption | apply foldS_keeps | apply setThread_keeps | apply setCore_keeps | apply setReg_keeps | apply holdoffLcore_keeps
        | apply setLc_keeps | apply ite_keeps)
    | simp only [Keeps.upd_iff] | intro _ _ _ | split

theorem setMuteHold_keeps {s₀ s : State} (h : Keeps s₀ s) : Keeps s₀ (setMuteHold s) := by
  unfold setMuteHold
  try dsimp only
  repeat' first
    | (with_reducible first | assumption | apply orReg_keeps)

theorem loadThreads_keeps {s₀ : State} (p : Part) (k : Nat) (l : Nat) (run : Bool) {s : State} (h :
    Keeps s₀ s) : Keeps s₀ (loadThreads p k l run s) := by
  unfold loadThreads
  try dsimp only
  repeat' first
    | (with_reducible first | assumption | apply foldS_keeps | apply setThread_keeps | apply ite_keeps)
    | simp only [Keeps.upd_iff] | intro _ _ _ | split

theorem loadCoreCfg_keeps {s₀ : State} (p : Part) (k : Nat) (l : Nat) {s : State} (h : Keeps s₀ s) : Keeps s₀ (loadCoreCfg p k l s) := by
  unfold loadCoreCfg
  try dsimp only
  repeat' first
    | (with_reducible first | assumption | apply setReg_keeps | apply ite_keeps)
    | simp only [Keeps.upd_iff] | intro _ _ _ | split

theorem bwStore_keeps {s₀ : State} (a : Nat) (v : Nat) {s : State} (h : Keeps s₀ s) : Keeps s₀ (bwStore a v s) := by
  unfold bwStore
  try dsimp only
  repeat' first
    | (with_reducible first
        | assumption | apply wakeSpan_keeps | apply logUe_keeps | apply touchStaging_keeps | apply storeAt_keeps | apply ite_keeps)
    | simp only [Keeps.upd_iff] | intro _ _ _ | split

theorem putCommitWord_keeps {s₀ : State} (p : Part) (w : Nat) {s : State} (h : Keeps s₀ s) : Keeps s₀ (putCommitWord p w s) := by
  unfold putCommitWord
  try dsimp only
  repeat' first
    | (with_reducible first | assumption | apply bwStore_keeps | apply setReg_keeps)

theorem zeroBad_keeps {s₀ : State} (ws : List Nat) {s : State} (h : Keeps s₀ s) : Keeps s₀ (zeroBad ws s) := by
  unfold zeroBad
  try dsimp only
  repeat' first
    | (with_reducible first | assumption | apply foldS_keeps | apply bwStore_keeps | apply ite_keeps)
    | simp only [Keeps.upd_iff] | intro _ _ _

theorem bridge_keeps {s₀ : State} (p : Part) {s : State} (h : Keeps s₀ s) : Keeps s₀ (bridge p s) := by
  unfold bridge
  try dsimp only
  repeat' first
    | (with_reducible first
        | assumption | apply zeroBad_keeps | apply incSat_keeps | apply putCommitWord_keeps | apply clrReg_keeps | apply cevt_keeps
        | apply setPt_keeps | apply foldS_keeps | apply ite_keeps)
    | intro _ _ _

theorem commitOk_keeps {s₀ : State} (p : Part) {s : State} (h : Keeps s₀ s) : Keeps s₀ (commitOk p s) := by
  unfold commitOk
  try dsimp only
  repeat' first
    | (with_reducible first | assumption | apply clrReg_keeps | apply putCommitWord_keeps | apply setPt_keeps)

theorem enterDegraded_keeps {s₀ : State} (c : Nat) {s : State} (h : Keeps s₀ s) : Keeps s₀ (enterDegraded c s) := by
  unfold enterDegraded
  try dsimp only
  repeat' first
    | (with_reducible first
        | assumption | apply orReg_keeps | apply setMode_keeps | apply banksOn_keeps | apply cevt_keeps | apply ite_keeps)
    | simp only [Keeps.upd_iff] | intro _ _ _ | split

theorem showLost_keeps {s₀ : State} (c : Nat) {s : State} (h : Keeps s₀ s) : Keeps s₀ (showLost c s) := by
  unfold showLost
  try dsimp only
  repeat' first
    | (with_reducible first | assumption | apply setRegFld_keeps)

theorem mapLcore_keeps {s₀ : State} (l : Nat) (slot : Option Nat) {s : State} (h : Keeps s₀ s) : Keeps s₀ (mapLcore l slot s) := by
  unfold mapLcore
  try dsimp only
  repeat' first
    | (with_reducible first | assumption | apply showLost_keeps | apply setRegFld_keeps)

theorem repitchLost_keeps {s₀ : State} (n : Nat) {s : State} (h : Keeps s₀ s) : Keeps s₀ (repitchLost n s) := by
  unfold repitchLost
  try dsimp only
  repeat' first
    | (with_reducible first | assumption | apply setReg_keeps | apply orReg_keeps | apply ite_keeps)
    | simp only [Keeps.upd_iff]

theorem shed_keeps {s₀ : State} (p : Part) (c : Nat) {s : State} (h : Keeps s₀ s) : Keeps s₀ (shed p c s) := by
  unfold shed
  try dsimp only
  repeat' first
    | (with_reducible first
        | assumption | apply bridge_keeps | apply foldS_keeps | apply stopCore_keeps | apply fryStop_keeps | apply repitchLost_keeps
        | apply cevt_keeps | apply setPt_keeps | apply orReg_keeps | apply ite_keeps)
    | simp only [Keeps.upd_iff] | intro _ _ _ | split

theorem retire_keeps {s₀ : State} (k : Nat) {s : State} (h : Keeps s₀ s) : Keeps s₀ (retire k s) := by
  unfold retire
  try dsimp only
  repeat' first
    | (with_reducible first | assumption | apply setRegFld_keeps | apply incFld_keeps)

theorem keepTags_keeps {s₀ : State} (l : Nat) (k : Nat) {s : State} (h : Keeps s₀ s) : Keeps s₀ (keepTags l k s) := by
  unfold keepTags
  try dsimp only
  repeat' first
    | (with_reducible first | assumption | apply setLc_keeps | apply ite_keeps)
    | simp only [Keeps.upd_iff] | intro _ _ _ | split

theorem dropTkos_keeps {s₀ : State} (j : Nat) {s : State} (h : Keeps s₀ s) : Keeps s₀ (dropTkos j s) := by
  unfold dropTkos
  try dsimp only
  repeat' first
    | (with_reducible first | assumption)
    | simp only [Keeps.upd_iff]

theorem beginTakeOver_keeps {s₀ : State} (l : Nat) (k : Nat) (replay : Bool) {s : State} (h :
    Keeps s₀ s) : Keeps s₀ (beginTakeOver l k replay s) := by
  unfold beginTakeOver
  try dsimp only
  repeat' first
    | (with_reducible first
        | assumption | apply mapLcore_keeps | apply setRegFld_keeps | apply keepTags_keeps | apply fenceCore_keeps | apply cevt_keeps)
    | simp only [Keeps.upd_iff]

theorem coreFault_keeps {s₀ s : State} (det k addr : Nat) (after : Nat) (h : Keeps s₀ s) : Keeps s₀ (coreFault det k addr s after) := by
  unfold coreFault
  split
  · exact ite_keeps (coreReset_keeps _ h) h
  next l _ =>
    refine ite_keeps (ite_keeps (coreReset_keeps _ h) h) ?_
    extract_lets c pt s1 spare s2 choice r0 shedSelf rep out s2' s3 s4 s4' s5
    have k1 : Keeps s₀ s1 := holdoffLcore_keeps _ (retire_keeps _ (fenceCore_keeps _ h))
    clear_value s1
    have k2 : Keeps s₀ s2 := ite_keeps (enterDegraded_keeps _ k1) (ite_keeps (cevt_keeps _ _ k1) k1)
    clear_value s2
    have k3 : Keeps s₀ s3 := fenceCore_keeps _ (coreReset_keeps _ (logEvent_keeps _ _ k2))
    clear_value s3 rep choice shedSelf r0
    have k4 : Keeps s₀ s4 := by
      dsimp only [s4]
      cases pt
      · exact k3
      · exact setPt_keeps _ _ k3
    clear_value s4
    have k5' : Keeps s₀ s4' := by
      dsimp only [s4']
      cases pt
      · exact k4
      · exact ite_keeps (notReplayed_keeps _ k4) k4
    clear_value s4'
    have k5 : Keeps s₀ s5 := by
      dsimp only [s5]
      cases choice.2
      · exact k5'
      · exact shed_keeps _ _ k5'
    clear_value s5
    split
    · refine ite_keeps (setMuteHold_keeps (foldS_keeps _ (fun m s h => ?_) _ _ (orReg_keeps _ _ (mapLcore_keeps _ _ k5))))
          (mapLcore_keeps _ _ k5)
      cases s.slotOf m
      · exact h
      · exact stopCore_keeps _ h
    next k' m _ =>
      refine beginTakeOver_keeps _ _ _ ?_
      cases m
      · exact k5
      · exact dropTkos_keeps _ (holdoffLcore_keeps _ (mapLcore_keeps _ _ (coreReset_keeps _ k5)))

theorem tripleFault_keeps {s₀ s : State} (k clk : Nat) (h : Keeps s₀ s) : Keeps s₀ (tripleFault k clk s) := coreFault_keeps _ _ _ _ h

theorem stateFault_keeps {s₀ : State} (l : Nat) (addr : Nat) {s : State} (h : Keeps s₀ s) : Keeps s₀ (stateFault l addr s) := by
  unfold stateFault
  try dsimp only
  repeat' first
    | (with_reducible first | assumption | apply logEvent_keeps | apply setPt_keeps | apply ite_keeps)
    | simp only [Keeps.upd_iff] | intro _ _ _ | split

theorem postedFaultLog_keeps {s₀ : State} (k : Nat) (addr : Nat) {s : State} (h : Keeps s₀ s) : Keeps s₀ (postedFaultLog k addr s) := by
  unfold postedFaultLog
  try dsimp only
  repeat' first
    | (with_reducible first | assumption | apply logEvent_keeps | apply ite_keeps)
    | simp only [Keeps.upd_iff] | intro _ _ _ | split

theorem recordRuns_keeps {s₀ : State} (p : Part) {s : State} (h : Keeps s₀ s) : Keeps s₀ (recordRuns p s) := by
  unfold recordRuns
  try dsimp only
  repeat' first
    | (with_reducible first | assumption | apply foldS_keeps | apply setReg_keeps | apply ite_keeps)
    | simp only [Keeps.upd_iff] | intro _ _ _ | split

theorem commitFrame_keeps {s₀ : State} (p : Part) {s : State} (h : Keeps s₀ s) : Keeps s₀ (commitFrame p s) := by
  unfold commitFrame
  try dsimp only
  repeat' first
    | (with_reducible first
        | assumption | apply recordRuns_keeps | apply bridge_keeps | apply commitOk_keeps | apply foldS_keeps | apply logEvent_keeps
        | apply setPt_keeps | apply ite_keeps)
    | simp only [Keeps.upd_iff] | intro _ _ _

theorem stopAsDone_keeps {s₀ : State} (l : Nat) {s : State} (h : Keeps s₀ s) : Keeps s₀ (stopAsDone l s) := by
  unfold stopAsDone
  try dsimp only
  repeat' first
    | (with_reducible first | assumption | apply setLc_keeps | apply stopCore_keeps | apply ite_keeps)
    | simp only [Keeps.upd_iff] | intro _ _ _ | split

/-! ## Tide -/

theorem tideTick_keeps {s₀ s : State} (h : Keeps s₀ s) : Keeps s₀ (tideTick s) := by
  unfold tideTick
  try dsimp only
  repeat' first
    | (with_reducible first | assumption | apply ite_keeps)
    | simp only [Keeps.upd_iff]

theorem tkSlew_keeps {s₀ s : State} (h : Keeps s₀ s) : Keeps s₀ (tkSlew s) := by
  unfold tkSlew
  try dsimp only
  repeat' first
    | (with_reducible first | assumption | apply setReg_keeps | apply ite_keeps)
    | simp only [Keeps.upd_iff] | intro _ _ _

theorem sampleBoundary_keeps {s₀ s : State} (h : Keeps s₀ s) : Keeps s₀ (sampleBoundary s) := by
  unfold sampleBoundary
  try dsimp only
  repeat' first
    | (with_reducible first | assumption | apply tkSlew_keeps | apply ite_keeps)
    | simp only [Keeps.upd_iff] | intro _ _ _

theorem tideNewFrame_keeps {s₀ s : State} (h : Keeps s₀ s) : Keeps s₀ (tideNewFrame s) := by
  unfold tideNewFrame
  try dsimp only
  repeat' first
    | (with_reducible first | assumption | apply orReg_keeps)
    | simp only [Keeps.upd_iff]

theorem setLock_keeps {s₀ : State} (l : LockState) {s : State} (h : Keeps s₀ s) : Keeps s₀ (setLock l s) := by
  unfold setLock
  try dsimp only
  repeat' first
    | (with_reducible first | assumption | apply lockOffset_keeps | apply orReg_keeps | apply ite_keeps)
    | simp only [Keeps.upd_iff]

theorem tideRefWrite_keeps {s₀ : State} (v : Word) {s : State} (h : Keeps s₀ s) : Keeps s₀ (tideRefWrite v s) := by
  unfold tideRefWrite
  try dsimp only
  repeat' first
    | (with_reducible first | assumption | apply setReg_keeps | apply setLock_keeps)
    | simp only [Keeps.upd_iff]

theorem onTide_keeps {s₀ s : State} (f : Tide → Tide) (h : Keeps s₀ s) : Keeps s₀ (State.onTide s f) := by
  unfold State.onTide
  try dsimp only
  repeat' first
    | (with_reducible first | assumption)
    | simp only [Keeps.upd_iff]

theorem referenceUpdate_keeps {s₀ : State} (u : RefUpdate) {s : State} (h : Keeps s₀ s) : Keeps s₀ (referenceUpdate u s) := by
  unfold referenceUpdate
  try dsimp only
  repeat' first
    | (with_reducible first | assumption | apply setReg_keeps | apply onTide_keeps | apply orReg_keeps | apply ite_keeps)
    | simp only [Keeps.upd_iff] | intro _ _ _ | split

theorem lockAchieved_keeps {s₀ s : State} (h : Keeps s₀ s) : Keeps s₀ (lockAchieved s) := by
  unfold lockAchieved
  try dsimp only
  repeat' first
    | (with_reducible first | assumption | apply setLock_keeps | apply ite_keeps)
    | simp only [Keeps.upd_iff]

theorem holdoverEntry_keeps {s₀ : State} (missed4 : Bool) {s : State} (h : Keeps s₀ s) : Keeps s₀ (holdoverEntry missed4 s) := by
  unfold holdoverEntry
  try dsimp only
  repeat' first
    | (with_reducible first | assumption | apply setLock_keeps | apply ite_keeps)
    | simp only [Keeps.upd_iff]

theorem referenceReturn_keeps {s₀ s : State} (h : Keeps s₀ s) : Keeps s₀ (referenceReturn s) := by
  unfold referenceReturn
  try dsimp only
  repeat' first
    | (with_reducible first | assumption | apply setLock_keeps | apply ite_keeps)

theorem fallbackSwitch_keeps {s₀ s : State} (h : Keeps s₀ s) : Keeps s₀ (fallbackSwitch s) := by
  unfold fallbackSwitch
  try dsimp only
  repeat' first
    | (with_reducible first | assumption | apply orReg_keeps | apply setLock_keeps | apply ite_keeps)
    | simp only [Keeps.upd_iff]

theorem rateRestart_keeps {s₀ s : State} (h : Keeps s₀ s) : Keeps s₀ (rateRestart s) := by
  unfold rateRestart
  try dsimp only
  repeat' first
    | (with_reducible first | assumption | apply setLock_keeps | apply ite_keeps)
    | simp only [Keeps.upd_iff]

theorem setCmp_keeps {s₀ s : State} (n : Nat) (c : Cmp) (h : Keeps s₀ s) : Keeps s₀ (State.setCmp s n c) := by
  unfold State.setCmp
  try dsimp only
  repeat' first
    | (with_reducible first | assumption)
    | simp only [Keeps.upd_iff]

theorem cmpLive_keeps {s₀ : State} (n : Nat) {s : State} (h : Keeps s₀ s) : Keeps s₀ (cmpLive n s) := by
  unfold cmpLive
  try dsimp only
  repeat' first
    | (with_reducible first | assumption | apply setCmp_keeps | apply ite_keeps)

theorem cmpTgtLow_keeps {s₀ : State} (n : Nat) (v : Word) {s : State} (h : Keeps s₀ s) : Keeps s₀ (cmpTgtLow n v s) := by
  unfold cmpTgtLow
  try dsimp only
  repeat' first
    | (with_reducible first | assumption | apply setCmp_keeps)

theorem cmpArm_keeps {s₀ : State} (n : Nat) (v : Word) {s : State} (h : Keeps s₀ s) : Keeps s₀ (cmpArm n v s) := by
  unfold cmpArm
  try dsimp only
  repeat' first
    | (with_reducible first | assumption | apply cmpLive_keeps | apply setCmp_keeps)

theorem cmpCtlWrite_keeps {s₀ : State} (n : Nat) (v : Word) {s : State} (h : Keeps s₀ s) : Keeps s₀ (cmpCtlWrite n v s) := by
  unfold cmpCtlWrite
  try dsimp only
  repeat' first
    | (with_reducible first | assumption | apply setReg_keeps | apply setCmp_keeps | apply cmpLive_keeps | apply ite_keeps)

theorem cmpFired_keeps {s₀ : State} (n : Nat) (late : Bool) {s : State} (h : Keeps s₀ s) : Keeps s₀ (cmpFired n late s) := by
  unfold cmpFired
  try dsimp only
  repeat' first
    | (with_reducible first | assumption | apply orReg_keeps | apply setCmp_keeps | apply ite_keeps)

theorem snapshot_keeps {s₀ s : State} (h : Keeps s₀ s) : Keeps s₀ (snapshot s) := by
  unfold snapshot
  try dsimp only
  repeat' first
    | (with_reducible first | assumption | apply setReg_keeps)

theorem tempoPushEntry_keeps {s₀ : State} (e : TempoEntry) {s : State} (h : Keeps s₀ s) : Keeps s₀ (tempoPushEntry e s) := by
  unfold tempoPushEntry
  try dsimp only
  repeat' first
    | (with_reducible first | assumption | apply orReg_keeps | apply ite_keeps)
    | simp only [Keeps.upd_iff]

theorem tempoFlush_keeps {s₀ s : State} (h : Keeps s₀ s) : Keeps s₀ (tempoFlush s) := by
  unfold tempoFlush
  try dsimp only
  repeat' first
    | (with_reducible first | assumption)
    | simp only [Keeps.upd_iff]

/-! ## Pins -/

theorem padHold_keeps {s₀ : State} (d : Drive) (j : Nat) {s : State} (h : Keeps s₀ s) : Keeps s₀ (padHold d j s) := by
  unfold padHold
  try dsimp only
  repeat' first
    | (with_reducible first | assumption | apply ite_keeps)
    | simp only [Keeps.upd_iff] | intro _ _ _ | split

theorem pinSelWrite_keeps {s₀ : State} (j : Nat) (v : Word) {s : State} (h : Keeps s₀ s) : Keeps s₀ (pinSelWrite j v s) := by
  unfold pinSelWrite
  try dsimp only
  repeat' first
    | (with_reducible first | assumption | apply setReg_keeps | apply padHold_keeps | apply ite_keeps)

theorem gpioOeWrite_keeps {s₀ : State} (k : Nat) (v : Word) {s : State} (h : Keeps s₀ s) : Keeps s₀ (gpioOeWrite k v s) := by
  unfold gpioOeWrite
  try dsimp only
  repeat' first
    | (with_reducible first | assumption | apply foldS_keeps | apply padHold_keeps | apply setReg_keeps)
    | simp only [Keeps.upd_iff] | intro _ _ _

theorem pinSwitchApply_keeps {s₀ : State} (j : Nat) {s : State} (h : Keeps s₀ s) : Keeps s₀ (pinSwitchApply j s) := by
  unfold pinSwitchApply
  try dsimp only
  repeat' first
    | (with_reducible first | assumption | apply ite_keeps)
    | simp only [Keeps.upd_iff] | intro _ _ _

theorem gpioSet_keeps {s₀ : State} (k : Nat) (v : Word) {s : State} (h : Keeps s₀ s) : Keeps s₀ (gpioSet k v s) := by
  unfold gpioSet
  try dsimp only
  repeat' first
    | (with_reducible first | assumption | apply orReg_keeps)

theorem gpioClr_keeps {s₀ : State} (k : Nat) (v : Word) {s : State} (h : Keeps s₀ s) : Keeps s₀ (gpioClr k v s) := by
  unfold gpioClr
  try dsimp only
  repeat' first
    | (with_reducible first | assumption | apply clrReg_keeps)

theorem gpioTgl_keeps {s₀ : State} (k : Nat) (v : Word) {s : State} (h : Keeps s₀ s) : Keeps s₀ (gpioTgl k v s) := by
  unfold gpioTgl
  try dsimp only
  repeat' first
    | (with_reducible first | assumption | apply setReg_keeps)

theorem gpioOut_keeps {s₀ : State} (k : Nat) (v : Word) {s : State} (h : Keeps s₀ s) : Keeps s₀ (gpioOut k v s) := by
  unfold gpioOut
  try dsimp only
  repeat' first
    | (with_reducible first | assumption | apply setReg_keeps)

theorem gpioInput_keeps {s₀ : State} (j : Nat) (level : Bool) {s : State} (h : Keeps s₀ s) : Keeps s₀ (gpioInput j level s) := by
  unfold gpioInput
  try dsimp only
  repeat' first
    | (with_reducible first | assumption | apply setRegFld_keeps | apply orRegIf_keeps | apply ite_keeps)

theorem gpioAct_keeps {s₀ : State} (j : Nat) (op : Nat) {s : State} (h : Keeps s₀ s) : Keeps s₀ (gpioAct j op s) := by
  unfold gpioAct
  try dsimp only
  repeat' first
    | (with_reducible first | assumption | apply gpioSet_keeps | apply gpioClr_keeps | apply gpioTgl_keeps | apply ite_keeps)
    | simp only [Keeps.upd_iff] | intro _ _ _ | split

theorem gpioEdge_keeps {s₀ s : State} (h : Keeps s₀ s) : Keeps s₀ (gpioEdge s) := by
  unfold gpioEdge
  try dsimp only
  repeat' first
    | (with_reducible first | assumption | apply foldS_keeps | apply gpioAct_keeps)
    | simp only [Keeps.upd_iff] | intro _ _ _

theorem pinReset_keeps {s₀ s : State} (h : Keeps s₀ s) : Keeps s₀ (pinReset s) := by
  unfold pinReset
  refine foldS_keeps _ (fun e s h => ?_) _ _ (Keeps.of_smKeep h rfl rfl rfl rfl)
  split
  · exact h
  · exact padHold_keeps _ _ h

theorem pinLoad_keeps {s₀ : State} (es : List (Nat × Word)) {s : State} (h : Keeps s₀ s) : Keeps s₀ (pinLoad es s) := by
  unfold pinLoad
  try dsimp only
  repeat' first
    | (with_reducible first
        | assumption | apply pinSelWrite_keeps | apply gpioOeWrite_keeps | apply setReg_keeps | apply foldS_keeps | apply ite_keeps)
    | simp only [Keeps.upd_iff] | intro _ _ _

/-! ## Sap -/

theorem setPort_keeps {s₀ s : State} (n : Nat) (p : SapPort) (h : Keeps s₀ s) : Keeps s₀ (State.setPort s n p) := by
  unfold State.setPort
  try dsimp only
  repeat' first
    | (with_reducible first | assumption)
    | simp only [Keeps.upd_iff]

theorem onPort_keeps {s₀ s : State} (n : Nat) (f : SapPort → SapPort) (h : Keeps s₀ s) : Keeps s₀ (State.onPort s n f) := by
  unfold State.onPort
  try dsimp only
  repeat' first
    | (with_reducible first | assumption | apply setPort_keeps)

theorem sapStop_keeps {s₀ : State} (n : Nat) {s : State} (h : Keeps s₀ s) : Keeps s₀ (sapStop n s) := by
  unfold sapStop
  try dsimp only
  repeat' first
    | (with_reducible first | assumption | apply onPort_keeps | apply clrReg_keeps)

theorem grpCfgWrite_keeps {s₀ : State} (g : Nat) (v : Word) {s : State} (h : Keeps s₀ s) : Keeps s₀ (grpCfgWrite g v s) := by
  unfold grpCfgWrite
  try dsimp only
  repeat' first
    | (with_reducible first
        | assumption | apply orReg_keeps | apply setReg_keeps | apply clrReg_keeps | apply foldS_keeps | apply sapStop_keeps
        | apply ite_keeps)
    | simp only [Keeps.upd_iff]

theorem sapCfgWrite_keeps {s₀ : State} (n : Nat) (v : Word) {s : State} (h : Keeps s₀ s) : Keeps s₀ (sapCfgWrite n v s) := by
  unfold sapCfgWrite
  try dsimp only
  repeat' first
    | (with_reducible first | assumption | apply orReg_keeps | apply sapStop_keeps | apply setReg_keeps | apply ite_keeps)

theorem sapPortStart_keeps {s₀ : State} (n : Nat) {s : State} (h : Keeps s₀ s) : Keeps s₀ (sapPortStart n s) := by
  unfold sapPortStart
  try dsimp only
  repeat' first
    | (with_reducible first | assumption | apply orRegIf_keeps | apply ite_keeps)

theorem routePut_keeps {s₀ : State} (x : RtRun) (q : Nat) (idx : Nat) (i : Nat) (per : Nat) (w : Nat) (bytes : List Byte) {s : State} (h :
    Keeps s₀ s) : Keeps s₀ (routePut x q idx i per w bytes s) := by
  unfold routePut
  try dsimp only
  repeat' first
    | (with_reducible first | assumption | apply foldS_keeps | apply request_keeps)
    | simp only [Keeps.upd_iff] | intro _ _ _

theorem sapInput_keeps {s₀ : State} (n : Nat) (q : Nat) (vs : List Word) {s : State} (h : Keeps s₀ s) : Keeps s₀ (sapInput n q vs s) := by
  unfold sapInput
  try dsimp only
  repeat' first
    | (with_reducible first | assumption | apply foldS_keeps | apply routePut_keeps | apply onPort_keeps | apply ite_keeps)
    | simp only [Keeps.upd_iff] | intro _ _ _ | split

theorem sapOutputRead_keeps {s₀ : State} (r : Nat) {s : State} (h : Keeps s₀ s) : Keeps s₀ (sapOutputRead r s) := by
  unfold sapOutputRead
  try dsimp only
  repeat' first
    | (with_reducible first | assumption | apply foldS_keeps | apply request_keeps | apply ite_keeps)
    | simp only [Keeps.upd_iff] | intro _ _ _ | split

theorem sapRegate_keeps {s₀ : State} (n : Nat) (m : Word) {s : State} (h : Keeps s₀ s) : Keeps s₀ (sapRegate n m s) := by
  unfold sapRegate
  try dsimp only
  repeat' first
    | (with_reducible first | assumption | apply foldS_keeps | apply onPort_keeps | apply ite_keeps)
    | simp only [Keeps.upd_iff] | intro _ _ _

theorem sapGateFire_keeps {s₀ : State} (n : Nat) (m : Word) (opens : Bool) {s : State} (h : Keeps s₀ s) : Keeps s₀ (sapGateFire n m opens s) := by
  unfold sapGateFire
  try dsimp only
  repeat' first
    | (with_reducible first | assumption | apply setReg_keeps | apply sapRegate_keeps | apply onPort_keeps | apply ite_keeps)

theorem sapGateWrite_keeps {s₀ : State} (n : Nat) (v : Word) {s : State} (h : Keeps s₀ s) : Keeps s₀ (sapGateWrite n v s) := by
  unfold sapGateWrite
  try dsimp only
  repeat' first
    | (with_reducible first | assumption | apply sapRegate_keeps | apply onPort_keeps | apply setReg_keeps)

theorem sapLateSlot_keeps {s₀ : State} (n : Nat) (j : Nat) {s : State} (h : Keeps s₀ s) : Keeps s₀ (sapLateSlot n j s) := by
  unfold sapLateSlot
  try dsimp only
  repeat' first
    | (with_reducible first | assumption | apply onPort_keeps | apply orReg_keeps | apply incFld_keeps | apply ite_keeps)

theorem sapLate_keeps {s₀ : State} (n : Nat) {s : State} (h : Keeps s₀ s) : Keeps s₀ (sapLate n s) := by
  unfold sapLate
  exact foldS_keeps _ (fun _ _ h => sapLateSlot_keeps _ _ h) _ _ h

theorem sapAwait_keeps {s₀ s : State} (h : Keeps s₀ s) : Keeps s₀ (sapAwait s) := by
  unfold sapAwait
  repeat' first
    | (with_reducible first | assumption | apply foldS_keeps | apply sapLate_keeps | apply ite_keeps)
    | intro _ _ _

theorem sapOutput_keeps {s₀ : State} (n : Nat) (p : Nat) {s : State} (h : Keeps s₀ s) : Keeps s₀ (sapOutput n p s) := by
  unfold sapOutput
  try dsimp only
  repeat' first
    | (with_reducible first | assumption | apply foldS_keeps | apply onPort_keeps | apply orReg_keeps | apply incFld_keeps | apply ite_keeps)
    | simp only [Keeps.upd_iff] | intro _ _ _

theorem sapEnd_keeps {s₀ : State} (n : Nat) (cut : Bool) {s : State} (h : Keeps s₀ s) : Keeps s₀ (sapEnd n cut s) := by
  unfold sapEnd
  try dsimp only
  repeat' first
    | (with_reducible first | assumption | apply sapLate_keeps | apply sapInput_keeps | apply onPort_keeps | apply ite_keeps)

theorem sapBegin_keeps {s₀ : State} (n : Nat) (edge : Bool) (was : Option Nat) (din : List (Bool × Bool)) {s : State} (h :
    Keeps s₀ s) : Keeps s₀ (sapBegin n edge was din s) := by
  unfold sapBegin
  try dsimp only
  repeat' first
    | (with_reducible first
        | assumption | apply sapInput_keeps | apply orReg_keeps | apply incFld_keeps | apply onPort_keeps | apply sapOutput_keeps
        | apply ite_keeps)

theorem sapIgnore_keeps {s₀ : State} (n : Nat) {s : State} (h : Keeps s₀ s) : Keeps s₀ (sapIgnore n s) := by
  unfold sapIgnore
  try dsimp only
  repeat' first
    | (with_reducible first | assumption | apply onPort_keeps | apply ite_keeps)
    | simp only [Keeps.upd_iff] | intro _ _ _

theorem sapFrame_keeps {s₀ : State} (n : Nat) (bclk : Nat) (din : List (Bool × Bool)) {s : State} (h :
    Keeps s₀ s) : Keeps s₀ (sapFrame n bclk din s) := by
  unfold sapFrame
  try dsimp only
  repeat' first
    | (with_reducible first
        | assumption | apply sapIgnore_keeps | apply setReg_keeps | apply onPort_keeps | apply orReg_keeps | apply incFld_keeps
        | apply sapEnd_keeps | apply sapBegin_keeps | apply ite_keeps)
    | simp only [Keeps.upd_iff] | intro _ _ _

theorem frameMissing_keeps {s₀ : State} (n : Nat) (din : List (Bool × Bool)) {s : State} (h : Keeps s₀ s) : Keeps s₀ (frameMissing n din s) := by
  unfold frameMissing
  try dsimp only
  repeat' first
    | (with_reducible first
        | assumption | apply sapIgnore_keeps | apply sapEnd_keeps | apply onPort_keeps | apply sapBegin_keeps | apply orRegIf_keeps
        | apply ite_keeps)
    | simp only [Keeps.upd_iff] | intro _ _ _

theorem sapZeros_keeps {s₀ : State} (n : Nat) {s : State} (h : Keeps s₀ s) : Keeps s₀ (sapZeros n s) := by
  unfold sapZeros
  try dsimp only
  repeat' first
    | (with_reducible first | assumption | apply foldS_keeps | apply sapInput_keeps)
    | simp only [Keeps.upd_iff] | intro _ _ _

theorem bclkLost_keeps {s₀ : State} (g : Nat) {s : State} (h : Keeps s₀ s) : Keeps s₀ (bclkLost g s) := by
  unfold bclkLost
  try dsimp only
  repeat' first
    | (with_reducible first
        | assumption | apply clrReg_keeps | apply orReg_keeps | apply foldS_keeps | apply sapZeros_keeps | apply onPort_keeps
        | apply ite_keeps)
    | simp only [Keeps.upd_iff] | intro _ _ _

theorem bclkReturn_keeps {s₀ : State} (g : Nat) {s : State} (h : Keeps s₀ s) : Keeps s₀ (bclkReturn g s) := by
  unfold bclkReturn
  try dsimp only
  repeat' first
    | (with_reducible first
        | assumption | apply orReg_keeps | apply foldS_keeps | apply sapBegin_keeps | apply onPort_keeps | apply ite_keeps)
    | simp only [Keeps.upd_iff] | intro _ _ _

theorem sapPeriod_keeps {s₀ s : State} (h : Keeps s₀ s) : Keeps s₀ (sapPeriod s) := by
  unfold sapPeriod
  try dsimp only
  repeat' first
    | (with_reducible first | assumption | apply foldS_keeps | apply sapZeros_keeps | apply ite_keeps)
    | simp only [Keeps.upd_iff] | intro _ _ _

theorem sapLose_keeps {s₀ : State} (p : RtPut) {s : State} (h : Keeps s₀ s) : Keeps s₀ (sapLose p s) := by
  unfold sapLose
  try dsimp only
  repeat' first
    | (with_reducible first | assumption | apply orReg_keeps | apply incFld_keeps)
    | simp only [Keeps.upd_iff]

theorem sapWriteAck_keeps {s₀ : State} (id : Nat) {s : State} (h : Keeps s₀ s) : Keeps s₀ (sapWriteAck id s) := by
  unfold sapWriteAck
  try dsimp only
  repeat' first
    | (with_reducible first
        | assumption | apply dropReq_keeps | apply sapLose_keeps | apply setReg_keeps | apply orRegIf_keeps | apply ite_keeps)
    | simp only [Keeps.upd_iff] | intro _ _ _ | split

theorem sapRamp_keeps {s₀ s : State} (h : Keeps s₀ s) : Keeps s₀ (sapRamp s) := by
  unfold sapRamp
  try dsimp only
  repeat' first
    | (with_reducible first | assumption)
    | simp only [Keeps.upd_iff]

/-! ## Evi -/

theorem setEvPin_keeps {s₀ s : State} (p : Nat) (x : EvPin) (h : Keeps s₀ s) : Keeps s₀ (State.setEvPin s p x) := by
  unfold State.setEvPin
  try dsimp only
  repeat' first
    | (with_reducible first | assumption)
    | simp only [Keeps.upd_iff]

theorem setEvDet_keeps {s₀ s : State} (p : Nat) (x : EvDet) (h : Keeps s₀ s) : Keeps s₀ (State.setEvDet s p x) := by
  unfold State.setEvDet
  try dsimp only
  repeat' first
    | (with_reducible first | assumption)
    | simp only [Keeps.upd_iff]

theorem setEvFifo_keeps {s₀ s : State} (g : Nat) (l : List EvEntry) (h : Keeps s₀ s) : Keeps s₀ (State.setEvFifo s g l) := by
  unfold State.setEvFifo
  try dsimp only
  repeat' first
    | (with_reducible first | assumption)
    | simp only [Keeps.upd_iff]

theorem evPush_keeps {s₀ : State} (g : Nat) (e : EvEntry) {s : State} (h : Keeps s₀ s) : Keeps s₀ (evPush g e s) := by
  unfold evPush
  try dsimp only
  repeat' first
    | (with_reducible first
        | assumption | apply fryRelease_keeps | apply setEvFifo_keeps | apply orReg_keeps | apply incSat_keeps | apply ite_keeps)

theorem evSeqErr_keeps {s₀ : State} (g : Nat) {s : State} (h : Keeps s₀ s) : Keeps s₀ (evSeqErr g s) := by
  unfold evSeqErr
  try dsimp only
  repeat' first
    | (with_reducible first | assumption | apply orReg_keeps | apply incSat_keeps)

theorem evEdge_keeps {s₀ : State} (p : Nat) (ts : BitVec 64) {s : State} (h : Keeps s₀ s) : Keeps s₀ (evEdge p ts s) := by
  unfold evEdge
  try dsimp only
  repeat' first
    | (with_reducible first | assumption | apply evPush_keeps | apply ite_keeps)

theorem evPair_keeps {s₀ : State} (e : Nat) (p : Nat) (t : Nat) (ts : BitVec 64) {s : State} (h : Keeps s₀ s) : Keeps s₀ (evPair e p t ts s) := by
  unfold evPair
  try dsimp only
  repeat' first
    | (with_reducible first | assumption | apply evPush_keeps | apply setEvDet_keeps | apply evSeqErr_keeps | apply ite_keeps)
    | simp only [Keeps.upd_iff] | intro _ _ _ | split

theorem evQuad_keeps {s₀ : State} (e : Nat) (p : Nat) (ts : BitVec 64) {s : State} (h : Keeps s₀ s) : Keeps s₀ (evQuad e p ts s) := by
  unfold evQuad
  try dsimp only
  repeat' first
    | (with_reducible first | assumption | apply setReg_keeps | apply evPush_keeps | apply ite_keeps)

theorem evPulse_keeps {s₀ : State} (p : Nat) (t : Nat) (ts : BitVec 64) {s : State} (h : Keeps s₀ s) : Keeps s₀ (evPulse p t ts s) := by
  unfold evPulse
  try dsimp only
  repeat' first
    | (with_reducible first | assumption | apply setEvDet_keeps | apply evPush_keeps | apply ite_keeps)
    | simp only [Keeps.upd_iff] | intro _ _ _ | split

theorem evAcceptOne_keeps {s₀ : State} (p : Nat) {s : State} (h : Keeps s₀ s) : Keeps s₀ (evAcceptOne p s) := by
  unfold evAcceptOne
  try dsimp only
  repeat' first
    | (with_reducible first
        | assumption | apply setEvPin_keeps | apply evEdge_keeps | apply evPair_keeps | apply evQuad_keeps | apply evPulse_keeps
        | apply ite_keeps)
    | simp only [Keeps.upd_iff] | intro _ _ _ | split

theorem evAccept_keeps {s₀ : State} (p : Nat) {s : State} (h : Keeps s₀ s) : Keeps s₀ (evAccept p s) := by
  unfold evAccept
  try dsimp only
  repeat' first
    | (with_reducible first | assumption | apply evAcceptOne_keeps | apply setEvPin_keeps | apply evSeqErr_keeps | apply ite_keeps)
    | simp only [Keeps.upd_iff] | intro _ _ _ | split

theorem evInTurn_keeps {s₀ : State} (p : Nat) : ∀ (n : Nat) {s : State}, Keeps s₀ s → Keeps s₀ (evInTurn p n s)
  | 0, _, h => h
  | n + 1, s, h => by
    simp only [evInTurn]
    split
    · exact h
    · exact evInTurn_keeps p n (evAccept_keeps _ h)

theorem evSample_keeps {s₀ : State} (p : Nat) {s : State} (h : Keeps s₀ s) : Keeps s₀ (evSample p s) := by
  unfold evSample
  try dsimp only
  repeat' first
    | (with_reducible first
        | assumption | apply setEvPin_keeps | apply evInTurn_keeps | apply orReg_keeps | apply incSat_keeps | apply ite_keeps)

theorem evPass_keeps {s₀ : State} (dt : Nat) {s : State} (h : Keeps s₀ s) : Keeps s₀ (evPass dt s) := by
  unfold evPass
  try dsimp only
  repeat' first
    | (with_reducible first | assumption)
    | simp only [Keeps.upd_iff]

theorem evPinChange_keeps {s₀ : State} (p : Nat) (level : Bool) (dt : Nat) {s : State} (h : Keeps s₀ s) : Keeps s₀ (evPinChange p level dt s) := by
  unfold evPinChange
  try dsimp only
  repeat' first
    | (with_reducible first | assumption | apply evPass_keeps | apply evSample_keeps | apply setEvPin_keeps | apply ite_keeps)

theorem evChangeAccept_keeps {s₀ : State} (p : Nat) (dt : Nat) {s : State} (h : Keeps s₀ s) : Keeps s₀ (evChangeAccept p dt s) := by
  unfold evChangeAccept
  try dsimp only
  repeat' first
    | (with_reducible first | assumption | apply evPass_keeps | apply evInTurn_keeps | apply ite_keeps)

theorem evPop_keeps {s₀ : State} (g : Nat) {s : State} (h : Keeps s₀ s) : Keeps s₀ (evPop g s) := by
  unfold evPop
  try dsimp only
  repeat' first
    | (with_reducible first | assumption | apply setEvFifo_keeps)

theorem evFlush_keeps {s₀ : State} (g : Nat) (v : Word) {s : State} (h : Keeps s₀ s) : Keeps s₀ (evFlush g v s) := by
  unfold evFlush
  try dsimp only
  repeat' first
    | (with_reducible first | assumption | apply setEvFifo_keeps | apply ite_keeps)

theorem evPinCfg_keeps {s₀ : State} (p : Nat) (v : Word) {s : State} (h : Keeps s₀ s) : Keeps s₀ (evPinCfg p v s) := by
  unfold evPinCfg
  try dsimp only
  repeat' first
    | (with_reducible first | assumption | apply setReg_keeps | apply setEvDet_keeps | apply evSample_keeps | apply ite_keeps)
    | simp only [Keeps.upd_iff] | intro _ _ _

theorem evCfgWrite_keeps {s₀ : State} (g : Nat) (v : Word) {s : State} (h : Keeps s₀ s) : Keeps s₀ (evCfgWrite g v s) := by
  unfold evCfgWrite
  try dsimp only
  repeat' first
    | (with_reducible first | assumption | apply foldS_keeps | apply evSample_keeps | apply setReg_keeps)
    | simp only [Keeps.upd_iff] | intro _ _ _

end Sys2Proof.Machine
end

