-- ==== Sys2Proof/Laws/KeepsLinks.lean ====
section
/-! SUPPORT. What the operations of Strand links, camps, streams, Ethernet, the host interface and the levels of the sources keep: the canonical form of memory,
registers and flash, and the queue of waiting commands. -/

namespace Sys2Proof.Machine

/-! ## Strand -/

theorem setLink_keeps {s₀ s : State} (n : Nat) (l : Link) (h : Keeps s₀ s) : Keeps s₀ (State.setLink s n l) := by
  unfold State.setLink
  try dsimp only
  repeat' first
    | (with_reducible first | assumption)
    | simp only [Keeps.upd_iff]

theorem onLink_keeps {s₀ s : State} (n : Nat) (f : Link → Link) (h : Keeps s₀ s) : Keeps s₀ (State.onLink s n f) := by
  unfold State.onLink
  try dsimp only
  repeat' first
    | (with_reducible first | assumption | apply setLink_keeps)

theorem strFlag_keeps {s₀ : State} (n : Nat) (m : Word) {s : State} (h : Keeps s₀ s) : Keeps s₀ (strFlag n m s) := by
  unfold strFlag
  try dsimp only
  repeat' first
    | (with_reducible first | assumption | apply orReg_keeps)

theorem campChoose_keeps {s₀ s : State} (h : Keeps s₀ s) : Keeps s₀ (campChoose s) := by
  unfold campChoose
  try dsimp only
  repeat' first
    | (with_reducible first
        | assumption | apply setReg_keeps | apply setRegFld_keeps | apply orReg_keeps | apply setCampMap_keeps | apply setCampEpoch_keeps
        | apply ite_keeps)
    | simp only [Keeps.upd_iff] | intro _ _ _ | split

theorem setLinkSt_keeps {s₀ : State} (n : Nat) (st1 : Nat) (reason : Nat) {s : State} (h : Keeps s₀ s) : Keeps s₀ (setLinkSt n st1 reason s) := by
  unfold setLinkSt
  try dsimp only
  repeat' first
    | (with_reducible first
        | assumption | apply setRegFld_keeps | apply strFlag_keeps | apply clrReg_keeps | apply onLink_keeps | apply campChoose_keeps
        | apply ite_keeps)
    | simp only [Keeps.upd_iff] | intro _ _ _

theorem strTrain_keeps {s₀ : State} (n : Nat) {s : State} (h : Keeps s₀ s) : Keeps s₀ (strTrain n s) := by
  unfold strTrain
  try dsimp only
  repeat' first
    | (with_reducible first | assumption | apply setLinkSt_keeps)

theorem linkEnable_keeps {s₀ : State} (n : Nat) {s : State} (h : Keeps s₀ s) : Keeps s₀ (linkEnable n s) := by
  unfold linkEnable
  try dsimp only
  repeat' first
    | (with_reducible first | assumption | apply setReg_keeps | apply orReg_keeps | apply strTrain_keeps | apply onLink_keeps)
    | simp only [Keeps.upd_iff]

theorem strCtlWrite_keeps {s₀ : State} (n : Nat) (v : Word) {s : State} (h : Keeps s₀ s) : Keeps s₀ (strCtlWrite n v s) := by
  unfold strCtlWrite
  try dsimp only
  repeat' first
    | (with_reducible first
        | assumption | apply linkEnable_keeps | apply strTrain_keeps | apply clrReg_keeps | apply setLinkSt_keeps | apply ite_keeps)

theorem linkRetrain_keeps {s₀ : State} (n : Nat) {s : State} (h : Keeps s₀ s) : Keeps s₀ (linkRetrain n s) := by
  unfold linkRetrain
  try dsimp only
  repeat' first
    | (with_reducible first | assumption | apply strTrain_keeps | apply ite_keeps)

theorem wfqPush_keeps {s₀ : State} (n : Nat) (e : WfqEnt) {s : State} (h : Keeps s₀ s) : Keeps s₀ (wfqPush n e s) := by
  unfold wfqPush
  try dsimp only
  repeat' first
    | (with_reducible first | assumption | apply strFlag_keeps | apply onLink_keeps | apply ite_keeps)

theorem strEnd_keeps {s₀ : State} (n : Nat) (t : StrTx) (data : Option (List Byte)) (status : Nat) (local_ : Bool) {s : State} (h :
    Keeps s₀ s) : Keeps s₀ (strEnd n t data status local_ s) := by
  unfold strEnd
  try dsimp only
  repeat' first
    | (with_reducible first
        | assumption | apply onLink_keeps | apply gathered_keeps | apply noteUe_keeps | apply setReqSt_keeps | apply wfqPush_keeps
        | apply ite_keeps)
    | simp only [Keeps.upd_iff] | intro _ _ _ | split

theorem strNewEpoch_keeps {s₀ : State} (n : Nat) {s : State} (h : Keeps s₀ s) : Keeps s₀ (strNewEpoch n s) := by
  unfold strNewEpoch
  try dsimp only
  repeat' first
    | (with_reducible first
        | assumption | apply foldS_keeps | apply strEnd_keeps | apply setReg_keeps | apply strFlag_keeps | apply onLink_keeps)
    | simp only [Keeps.upd_iff] | intro _ _ _

theorem strResume_keeps {s₀ : State} (n : Nat) (next : Nat) {s : State} (h : Keeps s₀ s) : Keeps s₀ (strResume n next s) := by
  unfold strResume
  try dsimp only
  repeat' first
    | (with_reducible first | assumption | apply onLink_keeps)

theorem strUp_keeps {s₀ : State} (n : Nat) (far : FarEnd) (lanes : Nat) (r25 : Bool) (fec : Bool) (mask : Nat) {s : State} (h :
    Keeps s₀ s) : Keeps s₀ (strUp n far lanes r25 fec mask s) := by
  unfold strUp
  try dsimp only
  repeat' first
    | (with_reducible first
        | assumption | apply setReg_keeps | apply strResume_keeps | apply strNewEpoch_keeps | apply setLinkSt_keeps | apply onLink_keeps
        | apply ite_keeps)

theorem strTrained_keeps {s₀ : State} (n : Nat) (far : FarEnd) {s : State} (h : Keeps s₀ s) : Keeps s₀ (strTrained n far s) := by
  unfold strTrained
  try dsimp only
  repeat' first
    | (with_reducible first
        | assumption | apply strUp_keeps | apply strFlag_keeps | apply clrReg_keeps | apply setLinkSt_keeps | apply ite_keeps)
    | simp only [Keeps.upd_iff] | intro _ _ _ | split

theorem strFail_keeps {s₀ : State} (n : Nat) {s : State} (h : Keeps s₀ s) : Keeps s₀ (strFail n s) := by
  unfold strFail
  try dsimp only
  repeat' first
    | (with_reducible first | assumption | apply strFlag_keeps | apply setLinkSt_keeps | apply incSat_keeps | apply ite_keeps)

theorem strReplay_keeps {s₀ : State} (n : Nat) {s : State} (h : Keeps s₀ s) : Keeps s₀ (strReplay n s) := by
  unfold strReplay
  try dsimp only
  repeat' first
    | (with_reducible first | assumption | apply incSat_keeps | apply onLink_keeps | apply strFail_keeps | apply ite_keeps)

theorem crossingReset_keeps {s₀ : State} (x : Nat) (dropped : Nat) {s : State} (h : Keeps s₀ s) : Keeps s₀ (crossingReset x dropped s) := by
  unfold crossingReset
  try dsimp only
  repeat' first
    | (with_reducible first | assumption | apply incSat_keeps | apply setReg_keeps | apply orReg_keeps)

theorem flitSend_keeps {s₀ : State} (n : Nat) {s : State} (h : Keeps s₀ s) : Keeps s₀ (flitSend n s) := by
  unfold flitSend
  try dsimp only
  repeat' first
    | (with_reducible first | assumption | apply setLink_keeps | apply ite_keeps)
    | simp only [Keeps.upd_iff] | intro _ _ _ | split

theorem fecCount_keeps {s₀ : State} (n : Nat) (f : FlitIn) {s : State} (h : Keeps s₀ s) : Keeps s₀ (fecCount n f s) := by
  unfold fecCount
  try dsimp only
  repeat' first
    | (with_reducible first | assumption | apply incFld_keeps | apply ite_keeps)
    | simp only [Keeps.upd_iff] | intro _ _ _

theorem flitReceive_keeps {s₀ : State} (n : Nat) (bs : List Byte) {s : State} (h : Keeps s₀ s) : Keeps s₀ (flitReceive n bs s) := by
  unfold flitReceive
  try dsimp only
  repeat' first
    | (with_reducible first
        | assumption | apply incSat_keeps | apply onLink_keeps | apply strReplay_keeps | apply setLink_keeps | apply strFlag_keeps
        | apply ite_keeps)

theorem takeRx_keeps {s₀ s s1 : State} {n kind vc ty : Nat} {b : List Byte} (e : takeRx n kind vc ty s = some (b, s1)) (h :
    Keeps s₀ s) : Keeps s₀ s1 := by
  unfold takeRx at e
  dsimp only at e
  repeat' split at e
  all_goals cases e
  all_goals exact setLink_keeps _ _ h

theorem strIssue_keeps {s₀ : State} (q : FabReq) (m : Nat) (a : Nat) {s : State} (h : Keeps s₀ s) : Keeps s₀ (strIssue q m a s) := by
  unfold strIssue
  try dsimp only
  repeat' first
    | (with_reducible first | assumption | apply setReqSt_keeps | apply wfqPush_keeps | apply setLink_keeps | apply ite_keeps)
    | simp only [Keeps.upd_iff] | intro _ _ _ | split

theorem strAnswer_keeps {s₀ s s1 : State} {n tag tep : Nat} {o : Option StrTx} (e : strAnswer n tag tep s = (o, s1)) (h :
    Keeps s₀ s) : Keeps s₀ s1 := by
  unfold strAnswer at e
  dsimp only at e
  split at e <;> cases e
  · exact strFlag_keeps _ _ (incSat_keeps _ h)
  · exact h

theorem strCpl_keeps {s₀ : State} (n : Nat) {s : State} (h : Keeps s₀ s) : Keeps s₀ (strCpl n s) := by
  unfold strCpl
  try dsimp only
  repeat' first
    | (with_reducible first | assumption | apply strEnd_keeps | apply ite_keeps)
    | refine takeRx_keeps (by with_reducible assumption) ?_ | refine strAnswer_keeps (by with_reducible assumption) ?_ | simp only [Keeps.upd_iff] | intro _ _ _ | split

theorem strWack_keeps {s₀ : State} (n : Nat) {s : State} (h : Keeps s₀ s) : Keeps s₀ (strWack n s) := by
  unfold strWack
  try dsimp only
  repeat' first
    | (with_reducible first | assumption | apply foldS_keeps | apply strEnd_keeps | apply ite_keeps)
    | refine takeRx_keeps (by with_reducible assumption) ?_ | refine strAnswer_keeps (by with_reducible assumption) ?_ | simp only [Keeps.upd_iff] | intro _ _ _ | split

theorem strPwfn_keeps {s₀ : State} (n : Nat) {s : State} (h : Keeps s₀ s) : Keeps s₀ (strPwfn n s) := by
  unfold strPwfn
  try dsimp only
  repeat' first
    | (with_reducible first | assumption | apply strEnd_keeps | apply ite_keeps)
    | refine takeRx_keeps (by with_reducible assumption) ?_ | refine strAnswer_keeps (by with_reducible assumption) ?_ | simp only [Keeps.upd_iff] | intro _ _ _ | split

theorem wfqPop_keeps {s₀ : State} (n : Nat) {s : State} (h : Keeps s₀ s) : Keeps s₀ (wfqPop n s) := by
  unfold wfqPop
  try dsimp only
  repeat' first
    | (with_reducible first | assumption | apply onLink_keeps)

theorem strTtoWrite_keeps {s₀ : State} (n : Nat) (v : Word) {s : State} (h : Keeps s₀ s) : Keeps s₀ (strTtoWrite n v s) := by
  unfold strTtoWrite
  try dsimp only
  repeat' first
    | (with_reducible first | assumption | apply strFlag_keeps | apply setReg_keeps | apply ite_keeps)

theorem mgmtSend_keeps {s₀ : State} (n : Nat) (body : List Byte) {s : State} (h : Keeps s₀ s) : Keeps s₀ (mgmtSend n body s) := by
  unfold mgmtSend
  try dsimp only
  repeat' first
    | (with_reducible first | assumption | apply onLink_keeps)

theorem delayTimer_keeps {s₀ : State} (n : Nat) {s : State} (h : Keeps s₀ s) : Keeps s₀ (delayTimer n s) := by
  unfold delayTimer
  try dsimp only
  repeat' first
    | (with_reducible first | assumption | apply mgmtSend_keeps | apply onLink_keeps | apply ite_keeps)

theorem rejFormat_keeps {s₀ s : State} (h : Keeps s₀ s) : Keeps s₀ (rejFormat s) := by
  unfold rejFormat
  try dsimp only
  repeat' first
    | (with_reducible first | assumption | apply incFld_keeps)

theorem commandFragment_keeps {s₀ : State} (n : Nat) {s : State} (h : Keeps s₀ s) : Keeps s₀ (commandFragment n s) := by
  unfold commandFragment
  try dsimp only
  repeat' first
    | (with_reducible first | assumption | apply rejFormat_keeps | apply onLink_keeps | apply ite_keeps)
    | refine takeRx_keeps (by with_reducible assumption) ?_ | simp only [Keeps.upd_iff] | intro _ _ _ | split

theorem responseFragment_keeps {s₀ : State} (n : Nat) {s : State} (h : Keeps s₀ s) : Keeps s₀ (responseFragment n s) := by
  unfold responseFragment
  try dsimp only
  repeat' first
    | (with_reducible first | assumption | apply onLink_keeps | apply ite_keeps)
    | refine takeRx_keeps (by with_reducible assumption) ?_ | simp only [Keeps.upd_iff] | intro _ _ _ | split

theorem sendResponse_keeps {s₀ : State} (n : Nat) (xid : Nat) (bs : List Byte) {s : State} (h : Keeps s₀ s) : Keeps s₀ (sendResponse n xid bs s) := by
  unfold sendResponse
  try dsimp only
  repeat' first
    | (with_reducible first | assumption | apply foldS_keeps | apply mgmtSend_keeps)
    | simp only [Keeps.upd_iff] | intro _ _ _

theorem linksDown_keeps {s₀ s : State} (h : Keeps s₀ s) : Keeps s₀ (linksDown s) := by
  unfold linksDown
  try dsimp only
  repeat' first
    | (with_reducible first | assumption | apply foldS_keeps | apply setLinkSt_keeps | apply ite_keeps)
    | simp only [Keeps.upd_iff] | intro _ _ _

/-! ## Camp -/

theorem setCampState_keeps {s₀ : State} (st1 : Nat) (reason : Nat) {s : State} (h : Keeps s₀ s) : Keeps s₀ (setCampState st1 reason s) := by
  unfold setCampState
  try dsimp only
  repeat' first
    | (with_reducible first | assumption | apply setRegFld_keeps | apply orReg_keeps | apply ite_keeps)

theorem campComplete_keeps {s₀ s : State} (h : Keeps s₀ s) : Keeps s₀ (campComplete s) := by
  unfold campComplete
  try dsimp only
  repeat' first
    | (with_reducible first | assumption | apply setRegFld_keeps | apply orReg_keeps | apply ite_keeps)

theorem setCampMap_keeps {s₀ : State} (m : Nat) {s : State} (h : Keeps s₀ s) : Keeps s₀ (setCampMap m s) := by
  unfold setCampMap
  try dsimp only
  repeat' first
    | (with_reducible first | assumption | apply campComplete_keeps | apply setRegFld_keeps)

theorem setCampEpoch_keeps {s₀ : State} (e : Nat) {s : State} (h : Keeps s₀ s) : Keeps s₀ (setCampEpoch e s) := by
  unfold setCampEpoch
  try dsimp only
  repeat' first
    | (with_reducible first | assumption | apply setReg_keeps)

theorem helloAll_keeps {s₀ s : State} (h : Keeps s₀ s) : Keeps s₀ (helloAll s) := by
  unfold helloAll
  try dsimp only
  repeat' first
    | (with_reducible first | assumption | apply foldS_keeps | apply mgmtSend_keeps | apply ite_keeps)
    | simp only [Keeps.upd_iff] | intro _ _ _

theorem helloChange_keeps {s₀ s : State} (h : Keeps s₀ s) : Keeps s₀ (helloChange s) := by
  unfold helloChange
  try dsimp only
  repeat' first
    | (with_reducible first | assumption | apply helloAll_keeps | apply ite_keeps)

theorem quarantine_keeps {s₀ : State} (r : Nat) {s : State} (h : Keeps s₀ s) : Keeps s₀ (quarantine r s) := by
  unfold quarantine
  try dsimp only
  repeat' first
    | (with_reducible first | assumption | apply setCampState_keeps | apply ite_keeps)
    | simp only [Keeps.upd_iff]

theorem campJudge_keeps {s₀ s : State} (h : Keeps s₀ s) : Keeps s₀ (campJudge s) := by
  unfold campJudge
  try dsimp only
  repeat' first
    | (with_reducible first | assumption | apply clrReg_keeps | apply setCampState_keeps | apply quarantine_keeps | apply ite_keeps)
    | simp only [Keeps.upd_iff] | intro _ _ _

theorem campAdmit_keeps {s₀ : State} (m : Nat) {s : State} (h : Keeps s₀ s) : Keeps s₀ (campAdmit m s) := by
  unfold campAdmit
  try dsimp only
  repeat' first
    | (with_reducible first
        | assumption | apply setCampEpoch_keeps | apply setCampMap_keeps | apply orReg_keeps | apply setCampState_keeps | apply ite_keeps)
    | simp only [Keeps.upd_iff] | intro _ _ _

theorem helloTake_keeps {s₀ : State} (n : Nat) {s : State} (h : Keeps s₀ s) : Keeps s₀ (helloTake n s) := by
  unfold helloTake
  try dsimp only
  repeat' first
    | (with_reducible first
        | assumption | apply setReg_keeps | apply setRegFld_keeps | apply campJudge_keeps | apply campChoose_keeps
        | apply helloChange_keeps | apply campAdmit_keeps | apply ite_keeps)
    | refine takeRx_keeps (by with_reducible assumption) ?_ | simp only [Keeps.upd_iff] | intro _ _ _ | split

theorem frameAlign_keeps {s₀ : State} (k : Nat) (frame : Nat) {s : State} (h : Keeps s₀ s) : Keeps s₀ (frameAlign k frame s) := by
  unfold frameAlign
  try dsimp only
  repeat' first
    | (with_reducible first | assumption | apply tideNewFrame_keeps)
    | simp only [Keeps.upd_iff]

theorem keeperPos_keeps {s₀ : State} (n : Nat) (b : List Byte) (came : Nat) {s : State} (h : Keeps s₀ s) : Keeps s₀ (keeperPos n b came s) := by
  unfold keeperPos
  repeat' first
    | (with_reducible first | assumption | apply ite_keeps)
    | simp only [Keeps.upd_iff]

theorem beaconApply_keeps {s₀ : State} (edge : Nat) (b : List Byte) {s : State} (h : Keeps s₀ s) : Keeps s₀ (beaconApply edge b s) := by
  unfold beaconApply
  try dsimp only
  repeat' first
    | (with_reducible first
        | assumption | apply frameAlign_keeps | apply setRegFld_keeps | apply setCampMap_keeps | apply setCampEpoch_keeps
        | apply orReg_keeps | apply setCampState_keeps | apply quarantine_keeps | apply campJudge_keeps | apply ite_keeps)
    | simp only [Keeps.upd_iff] | intro _ _ _

theorem beaconTake_keeps {s₀ : State} (n : Nat) {s : State} (h : Keeps s₀ s) : Keeps s₀ (beaconTake n s) := by
  unfold beaconTake
  try dsimp only
  repeat' first
    | (with_reducible first | assumption | apply campChoose_keeps | apply helloChange_keeps | apply beaconApply_keeps | apply keeperPos_keeps | apply onLink_keeps | apply ite_keeps)
    | refine takeRx_keeps (by with_reducible assumption) ?_ | simp only [Keeps.upd_iff] | intro _ _ _ | split

theorem tempoSend_keeps {s₀ : State} (e : TempoEntry) {s : State} (h : Keeps s₀ s) : Keeps s₀ (tempoSend e s) := by
  unfold tempoSend
  try dsimp only
  repeat' first
    | (with_reducible first | assumption | apply foldS_keeps | apply mgmtSend_keeps | apply ite_keeps)
    | simp only [Keeps.upd_iff] | intro _ _ _

theorem tempoTake_keeps {s₀ : State} (n : Nat) {s : State} (h : Keeps s₀ s) : Keeps s₀ (tempoTake n s) := by
  unfold tempoTake
  try dsimp only
  repeat' first
    | (with_reducible first | assumption | apply tempoPushEntry_keeps | apply ite_keeps)
    | refine takeRx_keeps (by with_reducible assumption) ?_ | simp only [Keeps.upd_iff] | intro _ _ _ | split

theorem campBoundary_keeps {s₀ s : State} (h : Keeps s₀ s) : Keeps s₀ (campBoundary s) := by
  unfold campBoundary
  try dsimp only
  repeat' first
    | (with_reducible first
        | assumption | apply orReg_keeps | apply incSat_keeps | apply campJudge_keeps | apply foldS_keeps | apply mgmtSend_keeps
        | apply ite_keeps)
    | simp only [Keeps.upd_iff] | intro _ _ _ | split

theorem campForget_keeps {s₀ : State} (m : Nat) {s : State} (h : Keeps s₀ s) : Keeps s₀ (campForget m s) := by
  unfold campForget
  try dsimp only
  repeat' first
    | (with_reducible first | assumption | apply setRegFld_keeps)
    | simp only [Keeps.upd_iff]

theorem campRemove_keeps {s₀ : State} (m : Nat) {s : State} (h : Keeps s₀ s) : Keeps s₀ (campRemove m s) := by
  unfold campRemove
  try dsimp only
  repeat' first
    | (with_reducible first | assumption | apply setCampMap_keeps | apply setCampEpoch_keeps | apply ite_keeps)

theorem campSucceed_keeps {s₀ s : State} (h : Keeps s₀ s) : Keeps s₀ (campSucceed s) := by
  unfold campSucceed
  try dsimp only
  repeat' first
    | (with_reducible first | assumption | apply setCampMap_keeps | apply setCampEpoch_keeps)

theorem memberLoss_keeps {s₀ : State} (m : Nat) {s : State} (h : Keeps s₀ s) : Keeps s₀ (memberLoss m s) := by
  unfold memberLoss
  try dsimp only
  repeat' first
    | (with_reducible first
        | assumption | apply campChoose_keeps | apply campForget_keeps | apply orReg_keeps | apply helloChange_keeps
        | apply campJudge_keeps | apply campSucceed_keeps | apply campRemove_keeps | apply ite_keeps)
    | simp only [Keeps.upd_iff] | intro _ _ _

theorem campReset_keeps {s₀ s : State} (h : Keeps s₀ s) : Keeps s₀ (campReset s) :=
  setReg_keeps _ _ (Keeps.of_smKeep h rfl rfl rfl rfl)

theorem campPitch_keeps {s₀ : State} (present : Bool) {s : State} (h : Keeps s₀ s) : Keeps s₀ (campPitch present s) := by
  unfold campPitch
  try dsimp only
  repeat' first
    | (with_reducible first
        | assumption | apply setCampMap_keeps | apply setCampEpoch_keeps | apply setRegFld_keeps | apply helloChange_keeps
        | apply campChoose_keeps | apply setCampState_keeps)

theorem hashChange_keeps {s₀ s : State} (h : Keeps s₀ s) : Keeps s₀ (hashChange s) := by
  unfold hashChange
  try dsimp only
  repeat' first
    | (with_reducible first | assumption | apply helloChange_keeps | apply campJudge_keeps)

theorem trainingEnd_keeps {s₀ : State} (n : Nat) (far : FarEnd) {s : State} (h : Keeps s₀ s) : Keeps s₀ (trainingEnd n far s) := by
  unfold trainingEnd
  try dsimp only
  repeat' first
    | (with_reducible first | assumption | apply strTrained_keeps | apply delayTimer_keeps | apply mgmtSend_keeps | apply ite_keeps)

/-! ## Streams -/

theorem streamDrop_keeps {s₀ : State} (n : Nat) {s : State} (h : Keeps s₀ s) : Keeps s₀ (streamDrop n s) := by
  unfold streamDrop
  try dsimp only
  repeat' first
    | (with_reducible first | assumption | apply strFlag_keeps | apply incFld_keeps)

theorem routeSent_keeps {s₀ : State} (r : Nat) {s : State} (h : Keeps s₀ s) : Keeps s₀ (routeSent r s) := by
  unfold routeSent
  try dsimp only
  repeat' first
    | (with_reducible first | assumption)
    | simp only [Keeps.upd_iff]

theorem streamSend_keeps {s₀ : State} (r : Nat) {s : State} (h : Keeps s₀ s) : Keeps s₀ (streamSend r s) := by
  unfold streamSend
  try dsimp only
  repeat' first
    | (with_reducible first
        | assumption | apply routeSent_keeps | apply onLink_keeps | apply foldS_keeps | apply streamDrop_keeps | apply ite_keeps)
    | simp only [Keeps.upd_iff] | intro _ _ _ | split

theorem setBlk_keeps {s₀ s : State} (n : Nat) (b : StrBlk) (h : Keeps s₀ s) : Keeps s₀ (State.setBlk s n b) := by
  unfold State.setBlk
  try dsimp only
  repeat' first
    | (with_reducible first | assumption | apply onLink_keeps)

theorem streamWrite_keeps {s₀ : State} (n : Nat) (x : RtRun) (k : StrBlk) (nodata : Bool) {s : State} (h :
    Keeps s₀ s) : Keeps s₀ (streamWrite n x k nodata s) := by
  unfold streamWrite
  try dsimp only
  repeat' first
    | (with_reducible first | assumption | apply routePut_keeps | apply setBlk_keeps | apply setReg_keeps)

theorem streamTake_keeps {s₀ : State} (n : Nat) {s : State} (h : Keeps s₀ s) : Keeps s₀ (streamTake n s) := by
  unfold streamTake
  try dsimp only
  repeat' first
    | (with_reducible first | assumption | apply streamDrop_keeps | apply streamWrite_keeps | apply setBlk_keeps | apply ite_keeps)
    | refine takeRx_keeps (by with_reducible assumption) ?_ | simp only [Keeps.upd_iff] | intro _ _ _ | split

theorem streamDeadline_keeps {s₀ : State} (pt : Nat) {s : State} (h : Keeps s₀ s) : Keeps s₀ (streamDeadline pt s) := by
  unfold streamDeadline
  try dsimp only
  repeat' first
    | (with_reducible first
        | assumption | apply foldS_keeps | apply strFlag_keeps | apply incFld_keeps | apply streamWrite_keeps | apply ite_keeps)
    | simp only [Keeps.upd_iff] | intro _ _ _ | split

theorem streamFrameStart_keeps {s₀ : State} (pt : Nat) {s : State} (h : Keeps s₀ s) : Keeps s₀ (streamFrameStart pt s) := by
  unfold streamFrameStart
  try dsimp only
  repeat' first
    | (with_reducible first | assumption | apply foldS_keeps | apply setBlk_keeps)
    | simp only [Keeps.upd_iff] | intro _ _ _

theorem streamAck_keeps {s₀ : State} (p : RtPut) (failed : Bool) {s : State} (h : Keeps s₀ s) : Keeps s₀ (streamAck p failed s) := by
  unfold streamAck
  try dsimp only
  repeat' first
    | (with_reducible first | assumption | apply dropReq_keeps | apply streamDrop_keeps | apply ite_keeps)
    | simp only [Keeps.upd_iff]

/-! ## Eth -/

theorem onEth_keeps {s₀ s : State} (p : Nat) (f : EthPort → EthPort) (h : Keeps s₀ s) : Keeps s₀ (State.onEth s p f) := by
  unfold State.onEth
  try dsimp only
  repeat' first
    | (with_reducible first | assumption)
    | simp only [Keeps.upd_iff]

theorem setTk_keeps {s₀ s : State} (e : Nat) (t : EthTk) (h : Keeps s₀ s) : Keeps s₀ (State.setTk s e t) := by
  unfold State.setTk
  try dsimp only
  repeat' first
    | (with_reducible first | assumption)
    | simp only [Keeps.upd_iff]

theorem setLs_keeps {s₀ s : State} (e : Nat) (l : EthLs) (h : Keeps s₀ s) : Keeps s₀ (State.setLs s e l) := by
  unfold State.setLs
  try dsimp only
  repeat' first
    | (with_reducible first | assumption)
    | simp only [Keeps.upd_iff]

theorem ethFlag_keeps {s₀ : State} (p : Nat) (m : Word) {s : State} (h : Keeps s₀ s) : Keeps s₀ (ethFlag p m s) := by
  unfold ethFlag
  try dsimp only
  repeat' first
    | (with_reducible first | assumption | apply orReg_keeps)

theorem ethCycle_keeps {s₀ : State} (p : Nat) {s : State} (h : Keeps s₀ s) : Keeps s₀ (ethCycle p s) := by
  unfold ethCycle
  try dsimp only
  repeat' first
    | (with_reducible first | assumption | apply onEth_keeps)

theorem ethCfgWrite_keeps {s₀ : State} (p : Nat) (v : Word) {s : State} (h : Keeps s₀ s) : Keeps s₀ (ethCfgWrite p v s) := by
  unfold ethCfgWrite
  try dsimp only
  repeat' first
    | (with_reducible first | assumption | apply setReg_keeps | apply ethFlag_keeps | apply ethCycle_keeps | apply ite_keeps)

theorem rxLevel_keeps {s₀ : State} (p : Nat) {s : State} (h : Keeps s₀ s) : Keeps s₀ (rxLevel p s) := by
  unfold rxLevel
  try dsimp only
  repeat' first
    | (with_reducible first | assumption | apply setReg_keeps)

theorem rxPush_keeps {s₀ : State} (p : Nat) (bs : List Byte) {s : State} (h : Keeps s₀ s) : Keeps s₀ (rxPush p bs s) := by
  unfold rxPush
  try dsimp only
  repeat' first
    | (with_reducible first
        | assumption | apply rxLevel_keeps | apply onEth_keeps | apply flagSet_keeps | apply ethFlag_keeps | apply incSat_keeps
        | apply ite_keeps)

theorem rxfRead_keeps {s₀ : State} (p : Nat) {s : State} (h : Keeps s₀ s) : Keeps s₀ (rxfRead p s).1 := by
  unfold rxfRead
  try dsimp only
  repeat' first
    | (with_reducible first | assumption | apply rxLevel_keeps | apply onEth_keeps | apply ite_keeps)
    | simp only [Keeps.upd_iff] | intro _ _ _ | split

theorem txhWrite_keeps {s₀ : State} (p : Nat) (v : Word) {s : State} (h : Keeps s₀ s) : Keeps s₀ (txhWrite p v s) := by
  unfold txhWrite
  try dsimp only
  repeat' first
    | (with_reducible first | assumption | apply onEth_keeps | apply ethFlag_keeps | apply ite_keeps)

theorem txfWrite_keeps {s₀ : State} (p : Nat) (v : Word) {s : State} (h : Keeps s₀ s) : Keeps s₀ (txfWrite p v s) := by
  unfold txfWrite
  try dsimp only
  repeat' first
    | (with_reducible first | assumption | apply onEth_keeps | apply ite_keeps)
    | simp only [Keeps.upd_iff] | intro _ _ _ | split

theorem ptpElect_keeps {s₀ : State} (p : Nat) {s : State} (h : Keeps s₀ s) : Keeps s₀ (ptpElect p s) := by
  unfold ptpElect
  try dsimp only
  repeat' first
    | (with_reducible first | assumption | apply setReg_keeps | apply ethFlag_keeps | apply onEth_keeps | apply ite_keeps)

theorem ptpExpire_keeps {s₀ : State} (p : Nat) {s : State} (h : Keeps s₀ s) : Keeps s₀ (ptpExpire p s) := by
  unfold ptpExpire
  try dsimp only
  repeat' first
    | (with_reducible first | assumption | apply ptpElect_keeps | apply onEth_keeps | apply ite_keeps)
    | simp only [Keeps.upd_iff] | intro _ _ _

theorem ptpNow_keeps {s₀ : State} (p : Nat) (now : BitVec 64) {s : State} (h : Keeps s₀ s) : Keeps s₀ (ptpNow p now s) := by
  unfold ptpNow
  try dsimp only
  repeat' first
    | (with_reducible first | assumption | apply ptpExpire_keeps | apply onEth_keeps)

theorem setCapable_keeps {s₀ : State} (p : Nat) (v : Bool) {s : State} (h : Keeps s₀ s) : Keeps s₀ (setCapable p v s) := by
  unfold setCapable
  try dsimp only
  repeat' first
    | (with_reducible first | assumption | apply ptpElect_keeps | apply ethFlag_keeps | apply setRegFld_keeps | apply ite_keeps)
    | simp only [Keeps.upd_iff] | intro _ _ _

theorem ptpForget_keeps {s₀ : State} (p : Nat) {s : State} (h : Keeps s₀ s) : Keeps s₀ (ptpForget p s) := by
  unfold ptpForget
  try dsimp only
  repeat' first
    | (with_reducible first | assumption | apply setCapable_keeps | apply onEth_keeps)

theorem ptpCfgWritten_keeps {s₀ : State} (p : Nat) {s : State} (h : Keeps s₀ s) : Keeps s₀ (ptpCfgWritten p s) := by
  unfold ptpCfgWritten
  try dsimp only
  repeat' first
    | (with_reducible first | assumption | apply ptpElect_keeps | apply ptpForget_keeps | apply ite_keeps)
    | simp only [Keeps.upd_iff] | intro _ _ _

theorem ethLoss_keeps {s₀ : State} (p : Nat) {s : State} (h : Keeps s₀ s) : Keeps s₀ (ethLoss p s) := by
  unfold ethLoss
  try dsimp only
  repeat' first
    | (with_reducible first
        | assumption | apply ptpForget_keeps | apply onEth_keeps | apply ethFlag_keeps | apply ethCycle_keeps | apply setReg_keeps
        | apply ite_keeps)
    | simp only [Keeps.upd_iff] | intro _ _ _

theorem ptpSet_keeps {s₀ : State} (p : Nat) (v : Word) {s : State} (h : Keeps s₀ s) : Keeps s₀ (ptpSet p v s) := by
  unfold ptpSet
  try dsimp only
  repeat' first
    | (with_reducible first | assumption | apply ptpElect_keeps | apply onEth_keeps | apply setReg_keeps)

theorem ptpQueue_keeps {s₀ : State} (p : Nat) (m : EthTx) {s : State} (h : Keeps s₀ s) : Keeps s₀ (ptpQueue p m s) := by
  unfold ptpQueue
  try dsimp only
  repeat' first
    | (with_reducible first | assumption | apply onEth_keeps)

theorem ptpSeq_keeps {s₀ : State} (p : Nat) {s : State} (h : Keeps s₀ s) : Keeps s₀ (ptpSeq p s) := by
  unfold ptpSeq
  try dsimp only
  repeat' first
    | (with_reducible first | assumption | apply onEth_keeps)

theorem ptpRequest_keeps {s₀ : State} (p : Nat) {s : State} (h : Keeps s₀ s) : Keeps s₀ (ptpRequest p s) := by
  unfold ptpRequest
  try dsimp only
  repeat' first
    | (with_reducible first
        | assumption | apply onEth_keeps | apply setCapable_keeps | apply ptpSeq_keeps | apply ptpQueue_keeps | apply ite_keeps)
    | simp only [Keeps.upd_iff] | intro _ _ _

theorem ptpTimer_keeps {s₀ : State} (p : Nat) (kind : Nat) {s : State} (h : Keeps s₀ s) : Keeps s₀ (ptpTimer p kind s) := by
  unfold ptpTimer
  try dsimp only
  repeat' first
    | (with_reducible first
        | assumption | apply ptpElect_keeps | apply ptpRequest_keeps | apply ptpSeq_keeps | apply ptpQueue_keeps | apply ite_keeps)
    | simp only [Keeps.upd_iff] | intro _ _ _ | split

theorem ptpRef_keeps {s₀ : State} (p : Nat) {s : State} (h : Keeps s₀ s) : Keeps s₀ (ptpRef p s) := by
  unfold ptpRef
  try dsimp only
  repeat' first
    | (with_reducible first | assumption | apply onEth_keeps)

theorem ptpFollow_keeps {s₀ : State} (p : Nat) (rx : BitVec 64) (org : Nat) {s : State} (h : Keeps s₀ s) : Keeps s₀ (ptpFollow p rx org s) := by
  unfold ptpFollow
  try dsimp only
  repeat' first
    | (with_reducible first | assumption | apply ptpRef_keeps | apply onEth_keeps | apply setReg_keeps)

theorem ptpReceive_keeps {s₀ : State} (p : Nat) (m : List Byte) {s : State} (h : Keeps s₀ s) : Keeps s₀ (ptpReceive p m s) := by
  unfold ptpReceive
  try dsimp only
  repeat' first
    | (with_reducible first
        | assumption | apply onEth_keeps | apply ptpFollow_keeps | apply ptpQueue_keeps | apply setReg_keeps | apply setCapable_keeps
        | apply ptpElect_keeps | apply ite_keeps)
    | simp only [Keeps.upd_iff] | intro _ _ _ | split

theorem lsEnable_keeps {s₀ : State} (e : Nat) (c : Word) {s : State} (h : Keeps s₀ s) : Keeps s₀ (lsEnable e c s) := by
  unfold lsEnable
  try dsimp only
  repeat' first
    | (with_reducible first | assumption | apply setReg_keeps | apply setLs_keeps)

theorem entryCfgWrite_keeps {s₀ : State} (talker : Bool) (e : Nat) (v : Word) {s : State} (h :
    Keeps s₀ s) : Keeps s₀ (entryCfgWrite talker e v s) := by
  unfold entryCfgWrite
  try dsimp only
  repeat' first
    | (with_reducible first
        | assumption | apply ethFlag_keeps | apply setReg_keeps | apply setTk_keeps | apply lsEnable_keeps | apply ite_keeps)

theorem enCount_keeps {s₀ : State} (port : Nat) (a : Nat) (lo : Nat) (w : Nat) (n : Nat) {s : State} (h :
    Keeps s₀ s) : Keeps s₀ (enCount port a lo w n s) := by
  unfold enCount
  try dsimp only
  repeat' first
    | (with_reducible first | assumption | apply ethFlag_keeps | apply incFld_keeps | apply ite_keeps)

theorem tkQueue_keeps {s₀ : State} (p : Nat) (cls : Bool) (x : EthTx) {s : State} (h : Keeps s₀ s) : Keeps s₀ (tkQueue p cls x s) := by
  unfold tkQueue
  try dsimp only
  repeat' first
    | (with_reducible first | assumption | apply onEth_keeps)

theorem tkDrop_keeps {s₀ : State} (e : Nat) (p : Nat) {s : State} (h : Keeps s₀ s) : Keeps s₀ (tkDrop e p s) := by
  unfold tkDrop
  try dsimp only
  repeat' first
    | (with_reducible first | assumption | apply enCount_keeps | apply onEth_keeps)

theorem aafSend_keeps {s₀ : State} (e : Nat) {s : State} (h : Keeps s₀ s) : Keeps s₀ (aafSend e s) := by
  unfold aafSend
  try dsimp only
  repeat' first
    | (with_reducible first
        | assumption | apply wakeSpan_keeps | apply foldS_keeps | apply tkQueue_keeps | apply tkDrop_keeps | apply setTk_keeps
        | apply ite_keeps)
    | simp only [Keeps.upd_iff] | intro _ _ _ | split

theorem crfSend_keeps {s₀ : State} (e : Nat) {s : State} (h : Keeps s₀ s) : Keeps s₀ (crfSend e s) := by
  unfold crfSend
  try dsimp only
  repeat' first
    | (with_reducible first | assumption | apply setTk_keeps | apply tkQueue_keeps | apply tkDrop_keeps | apply ite_keeps)

theorem lsWrite_keeps {s₀ : State} (a : Nat) (bs : List Byte) {s : State} (h : Keeps s₀ s) : Keeps s₀ (lsWrite a bs s) := by
  unfold lsWrite
  try dsimp only
  repeat' first
    | (with_reducible first
        | assumption | apply foldS_keeps | apply touchStaging_keeps | apply storeAt_keeps | apply wakeFor_keeps | apply ite_keeps)
    | simp only [Keeps.upd_iff] | intro _ _ _ | split

theorem lsSample_keeps {s₀ : State} (e : Nat) (cfg : Word) (len : Nat) (c : ℤ) (pay : List Byte) {s : State} (h :
    Keeps s₀ s) : Keeps s₀ (lsSample e cfg len c pay s) := by
  unfold lsSample
  try dsimp only
  repeat' first
    | (with_reducible first | assumption | apply enCount_keeps | apply setLs_keeps | apply lsWrite_keeps | apply ite_keeps)

theorem crfTake_keeps {s₀ : State} (e p t : Nat) {s : State} (h : Keeps s₀ s) : Keeps s₀ (crfTake e p t s) := by
  unfold crfTake
  repeat' first
    | (with_reducible first | assumption | apply ite_keeps)
    | simp only [Keeps.upd_iff]

theorem lsReceive_keeps {s₀ : State} (e : Nat) (m : List Byte) {s : State} (h : Keeps s₀ s) : Keeps s₀ (lsReceive e m s) := by
  unfold lsReceive
  try dsimp only
  repeat' first
    | (with_reducible first
        | assumption | apply setLs_keeps | apply enCount_keeps | apply foldS_keeps | apply lsSample_keeps | apply crfTake_keeps
        | apply ite_keeps)
    | simp only [Keeps.upd_iff] | intro _ _ _

theorem listenerFill_keeps {s₀ : State} (pt : Nat) {s : State} (h : Keeps s₀ s) : Keeps s₀ (listenerFill pt s) := by
  unfold listenerFill
  try dsimp only
  repeat' first
    | (with_reducible first | assumption | apply foldS_keeps | apply enCount_keeps | apply lsWrite_keeps | apply ite_keeps)
    | simp only [Keeps.upd_iff] | intro _ _ _

theorem ethFrameStart_keeps {s₀ : State} (pt : Nat) {s : State} (h : Keeps s₀ s) : Keeps s₀ (ethFrameStart pt s) := by
  unfold ethFrameStart
  try dsimp only
  repeat' first
    | (with_reducible first | assumption | apply foldS_keeps | apply setReg_keeps | apply setLs_keeps | apply ite_keeps)
    | simp only [Keeps.upd_iff] | intro _ _ _

theorem ethReceive_keeps {s₀ : State} (p : Nat) (bs : List Byte) (bad : Bool) {s : State} (h : Keeps s₀ s) : Keeps s₀ (ethReceive p bs bad s) := by
  unfold ethReceive
  try dsimp only
  repeat' first
    | (with_reducible first
        | assumption | apply incSat_keeps | apply ptpReceive_keeps | apply lsReceive_keeps | apply rxPush_keeps | apply ite_keeps)
    | simp only [Keeps.upd_iff] | intro _ _ _ | split

theorem ethOut_keeps {s₀ : State} (p : Nat) (x : EthTx) {s : State} (h : Keeps s₀ s) : Keeps s₀ (ethOut p x s) := by
  unfold ethOut
  try dsimp only
  repeat' first
    | (with_reducible first | assumption | apply onEth_keeps | apply enCount_keeps | apply ite_keeps)
    | simp only [Keeps.upd_iff] | intro _ _ _ | split

theorem ptpSent_keeps {s₀ : State} (p : Nat) (x : EthTx) {s : State} (h : Keeps s₀ s) : Keeps s₀ (ptpSent p x s) := by
  unfold ptpSent
  try dsimp only
  repeat' first
    | (with_reducible first | assumption | apply ptpRef_keeps | apply ptpQueue_keeps | apply onEth_keeps | apply ite_keeps)
    | simp only [Keeps.upd_iff] | intro _ _ _ | split

theorem ethCredit_keeps {s₀ : State} (p : Nat) (gainA : Nat) (gainB : Nat) {s : State} (h : Keeps s₀ s) : Keeps s₀ (ethCredit p gainA gainB s) := by
  unfold ethCredit
  try dsimp only
  repeat' first
    | (with_reducible first | assumption | apply onEth_keeps)

theorem ethSend_keeps {s₀ : State} (p : Nat) (gainA : Nat) (gainB : Nat) {s : State} (h : Keeps s₀ s) : Keeps s₀ (ethSend p gainA gainB s) := by
  unfold ethSend
  try dsimp only
  repeat' first
    | (with_reducible first
        | assumption | apply ethCredit_keeps | apply ptpSent_keeps | apply ethOut_keeps | apply onEth_keeps | apply ite_keeps)
    | simp only [Keeps.upd_iff] | intro _ _ _ | split

/-! ## Pcie -/

theorem pcieFlag_keeps {s₀ : State} (m : Word) {s : State} (h : Keeps s₀ s) : Keeps s₀ (pcieFlag m s) := by
  unfold pcieFlag
  try dsimp only
  repeat' first
    | (with_reducible first | assumption | apply orReg_keeps)

theorem setPcieLink_keeps {s₀ : State} (v : Nat) {s : State} (h : Keeps s₀ s) : Keeps s₀ (setPcieLink v s) := by
  unfold setPcieLink
  try dsimp only
  repeat' first
    | (with_reducible first | assumption | apply setReg_keeps | apply pcieFlag_keeps | apply ite_keeps)

theorem pcieLinkUp_keeps {s₀ : State} (gen : Nat) (width : Nat) {s : State} (h : Keeps s₀ s) : Keeps s₀ (pcieLinkUp gen width s) := by
  unfold pcieLinkUp
  try dsimp only
  repeat' first
    | (with_reducible first | assumption | apply setPcieLink_keeps | apply ite_keeps)
    | simp only [Keeps.upd_iff] | intro _ _ _ | split

theorem msixSend_keeps {s₀ : State} (v : Nat) {s : State} (h : Keeps s₀ s) : Keeps s₀ (msixSend v s) := by
  unfold msixSend
  try dsimp only
  repeat' first
    | (with_reducible first | assumption | apply ite_keeps)
    | simp only [Keeps.upd_iff] | intro _ _ _

theorem pcieL1_keeps {s₀ : State} (on : Bool) {s : State} (h : Keeps s₀ s) : Keeps s₀ (pcieL1 on s) := by
  unfold pcieL1
  try dsimp only
  repeat' first
    | (with_reducible first | assumption | apply setPcieLink_keeps | apply ite_keeps)
    | simp only [Keeps.upd_iff] | intro _ _ _

theorem msixFlush_keeps {s₀ s : State} (h : Keeps s₀ s) : Keeps s₀ (msixFlush s) := by
  unfold msixFlush
  try dsimp only
  repeat' first
    | (with_reducible first | assumption | apply foldS_keeps | apply clrReg_keeps | apply msixSend_keeps | apply ite_keeps)
    | simp only [Keeps.upd_iff] | intro _ _ _

theorem msixEdge_keeps {s₀ : State} (n : Nat) {s : State} (h : Keeps s₀ s) : Keeps s₀ (msixEdge n s) := by
  unfold msixEdge
  try dsimp only
  repeat' first
    | (with_reducible first | assumption | apply foldS_keeps | apply msixSend_keeps | apply orReg_keeps | apply ite_keeps)
    | simp only [Keeps.upd_iff] | intro _ _ _

theorem msixCtlWrite_keeps {s₀ : State} (v : Nat) (x : Word) {s : State} (h : Keeps s₀ s) : Keeps s₀ (msixCtlWrite v x s) := by
  unfold msixCtlWrite
  try dsimp only
  repeat' first
    | (with_reducible first | assumption | apply msixFlush_keeps | apply setReg_keeps)

theorem hostCpl_keeps {s₀ : State} (bs : Option (List Byte)) {s : State} (h : Keeps s₀ s) : Keeps s₀ (hostCpl bs s) := by
  unfold hostCpl
  try dsimp only
  repeat' first
    | (with_reducible first | assumption)
    | simp only [Keeps.upd_iff]

theorem hostFlow_keeps {s₀ : State} (n : Nat) : ∀ {s : State}, Keeps s₀ s → Keeps s₀ (hostFlow n s) := by
  induction n with
  | zero => exact fun h => h
  | succ n ih =>
    intro s h
    unfold hostFlow
    split
    · exact h
    · split
      · exact h
      · extract_lets r
        have k : Keeps s₀ r.1 := request_keeps _ _ _ _ _ _ _ h
        exact k.of_eq rfl rfl rfl rfl
      · extract_lets e s1
        have k : Keeps s₀ s1 := h.of_eq rfl rfl rfl rfl
        exact ih (ite_keeps k (hostCpl_keeps _ k))

theorem hostBeatEnd_keeps {s₀ : State} (bs : Option (List Byte)) {s : State} (h : Keeps s₀ s) : Keeps s₀ (hostBeatEnd bs s) := by
  unfold hostBeatEnd
  try dsimp only
  repeat' first
    | (with_reducible first | assumption | apply hostFlow_keeps | apply ite_keeps)
    | simp only [Keeps.upd_iff] | intro _ _ _ | split

theorem functionReset_keeps {s₀ s : State} (kind : Nat) (h : Keeps s₀ s) : Keeps s₀ (functionReset kind s) := by
  unfold functionReset
  refine hostFlow_keeps _ (pcieFlag_keeps _ ?_)
  split
  · exact setPcieLink_keeps _ (Keeps.of_smKeep h rfl rfl rfl rfl)
  · exact Keeps.of_smKeep h rfl rfl rfl rfl

theorem mbErr_keeps {s₀ s : State} (h : Keeps s₀ s) : Keeps s₀ (mbErr s) := by
  unfold mbErr
  try dsimp only
  repeat' first
    | (with_reducible first | assumption | apply orReg_keeps)

theorem mbInWrite_keeps {s₀ : State} (i : Nat) (v : Word) {s : State} (h : Keeps s₀ s) : Keeps s₀ (mbInWrite i v s) := by
  unfold mbInWrite
  try dsimp only
  repeat' first
    | (with_reducible first | assumption | apply mbErr_keeps | apply setReg_keeps | apply ite_keeps)

theorem mbGo_keeps {s₀ : State} (v : Word) {s : State} (h : Keeps s₀ s) : Keeps s₀ (mbGo v s) := by
  unfold mbGo
  try dsimp only
  repeat' first
    | (with_reducible first | assumption | apply pcieFlag_keeps | apply orReg_keeps | apply mbErr_keeps | apply ite_keeps)
    | simp only [Keeps.upd_iff]

theorem mbAck_keeps {s₀ : State} (v : Word) {s : State} (h : Keeps s₀ s) : Keeps s₀ (mbAck v s) := by
  unfold mbAck
  try dsimp only
  repeat' first
    | (with_reducible first | assumption | apply clrReg_keeps | apply ite_keeps)

theorem putRegBytes_keeps {s₀ : State} (a : Nat) (bs : List Byte) {s : State} (h : Keeps s₀ s) : Keeps s₀ (putRegBytes a bs s) := by
  unfold putRegBytes
  try dsimp only
  repeat' first
    | (with_reducible first | assumption | apply foldS_keeps | apply setReg_keeps)
    | simp only [Keeps.upd_iff] | intro _ _ _

theorem mbRespond_keeps {s₀ : State} (bs : List Byte) {s : State} (h : Keeps s₀ s) : Keeps s₀ (mbRespond bs s) := by
  unfold mbRespond
  try dsimp only
  repeat' first
    | (with_reducible first
        | assumption | apply clrReg_keeps | apply orReg_keeps | apply setRegFld_keeps | apply putRegBytes_keeps | apply ite_keeps)
    | simp only [Keeps.upd_iff]

/-! ## Levels -/

theorem sourceLevelChange_keeps {s₀ : State} (r : SrcRef) {s : State} (h : Keeps s₀ s) : Keeps s₀ (sourceLevelChange r s) := by
  unfold sourceLevelChange
  try dsimp only
  repeat' first
    | (with_reducible first | assumption | apply setSrc_keeps | apply msixEdge_keeps | apply ite_keeps)
    | simp only [Keeps.upd_iff] | intro _ _ _ | split

end Sys2Proof.Machine
end

