-- ==== Sys2Proof/Laws/KeepsCores.lean ====
section
/-! SUPPORT. What the operations of power and modes, the journal, the cores, and Breakwater's frames keep: the canonical form of memory,
registers and flash, and the queue of waiting commands. -/

namespace Sys2Proof.Machine

/-! ## Power -/

theorem setOp_keeps {s₀ : State} (c : Nat) (t : Nat) (cur : Nat) {s : State} (h : Keeps s₀ s) : Keeps s₀ (setOp c t cur s) := by
  unfold setOp
  try dsimp only
  repeat' first
    | (with_reducible first | assumption | apply setReg_keeps)

theorem setRange_keeps {s₀ : State} (lo : Nat) (hi : Nat) {s : State} (h : Keeps s₀ s) : Keeps s₀ (setRange lo hi s) := by
  unfold setRange
  try dsimp only
  repeat' first
    | (with_reducible first | assumption | apply setRegFld_keeps)

theorem setVr_keeps {s₀ : State} (x : VrSt) {s : State} (h : Keeps s₀ s) : Keeps s₀ (setVr x s) := by
  unfold setVr
  try dsimp only
  repeat' first
    | (with_reducible first | assumption | apply setRegFld_keeps)
    | simp only [Keeps.upd_iff]

theorem vrCommand_keeps {s₀ : State} (up : Bool) (v : Nat) {s : State} (h : Keeps s₀ s) : Keeps s₀ (vrCommand up v s) := by
  unfold vrCommand
  try dsimp only
  repeat' first
    | (with_reducible first | assumption | apply setVr_keeps | apply setRegFld_keeps)

theorem vrAdvance_keeps {s₀ s : State} (h : Keeps s₀ s) : Keeps s₀ (vrAdvance s) := by
  unfold vrAdvance
  try dsimp only
  repeat' first
    | (with_reducible first | assumption | apply vrCommand_keeps | apply setRegFld_keeps | apply ite_keeps)

theorem opRequest_keeps {s₀ : State} (c : Nat) (t : Nat) {s : State} (h : Keeps s₀ s) : Keeps s₀ (opRequest c t s) := by
  unfold opRequest
  try dsimp only
  repeat' first
    | (with_reducible first | assumption | apply setOp_keeps | apply vrAdvance_keeps | apply orRegIf_keeps)

theorem cclkLower_keeps {s₀ : State} (c : Nat) {s : State} (h : Keeps s₀ s) : Keeps s₀ (cclkLower c s) := by
  unfold cclkLower
  try dsimp only
  repeat' first
    | (with_reducible first | assumption | apply vrAdvance_keeps | apply orReg_keeps | apply setOp_keeps | apply ite_keeps)

theorem cclkRaise_keeps {s₀ : State} (c : Nat) {s : State} (h : Keeps s₀ s) : Keeps s₀ (cclkRaise c s) := by
  unfold cclkRaise
  try dsimp only
  repeat' first
    | (with_reducible first | assumption | apply orReg_keeps | apply setOp_keeps | apply ite_keeps)

theorem vrFail_keeps {s₀ s : State} (h : Keeps s₀ s) : Keeps s₀ (vrFail s) := by
  unfold vrFail
  try dsimp only
  repeat' first
    | (with_reducible first
        | assumption | apply setVr_keeps | apply setRange_keeps | apply foldS_keeps | apply setOp_keeps | apply orReg_keeps
        | apply ite_keeps)
    | simp only [Keeps.upd_iff] | intro _ _ _

theorem voutCommandAck_keeps {s₀ s : State} (h : Keeps s₀ s) : Keeps s₀ (voutCommandAck s) := by
  unfold voutCommandAck
  try dsimp only
  repeat' first
    | (with_reducible first | assumption | apply setVr_keeps | apply setRange_keeps | apply ite_keeps)
    | simp only [Keeps.upd_iff] | intro _ _ _ | split

theorem vrReread_keeps {s₀ : State} (mv : Nat) {s : State} (h : Keeps s₀ s) : Keeps s₀ (vrReread mv s) := by
  unfold vrReread
  try dsimp only
  repeat' first
    | (with_reducible first
        | assumption | apply vrAdvance_keeps | apply setVr_keeps | apply setRange_keeps | apply vrFail_keeps | apply ite_keeps)

theorem readVout_keeps {s₀ : State} (mv : Nat) {s : State} (h : Keeps s₀ s) : Keeps s₀ (readVout mv s) := by
  unfold readVout
  try dsimp only
  repeat' first
    | (with_reducible first
        | assumption | apply setReg_keeps | apply setVr_keeps | apply vrAdvance_keeps | apply setRange_keeps | apply vrReread_keeps
        | apply ite_keeps)
    | simp only [Keeps.upd_iff] | intro _ _ _ | split

theorem settleExpire_keeps {s₀ s : State} (h : Keeps s₀ s) : Keeps s₀ (settleExpire s) := by
  unfold settleExpire
  try dsimp only
  repeat' first
    | (with_reducible first | assumption | apply vrAdvance_keeps | apply setVr_keeps | apply setRange_keeps | apply ite_keeps)

theorem pmbusTimeout_keeps {s₀ s : State} (h : Keeps s₀ s) : Keeps s₀ (pmbusTimeout s) := by
  unfold pmbusTimeout
  try dsimp only
  repeat' first
    | (with_reducible first | assumption | apply vrFail_keeps | apply ite_keeps)
    | simp only [Keeps.upd_iff] | intro _ _ _ | split

theorem vrRetry_keeps {s₀ s : State} (h : Keeps s₀ s) : Keeps s₀ (vrRetry s) := by
  unfold vrRetry
  try dsimp only
  repeat' first
    | (with_reducible first | assumption | apply setVr_keeps | apply clrReg_keeps | apply ite_keeps)

theorem neapBanks_keeps {s₀ s : State} (h : Keeps s₀ s) : Keeps s₀ (neapBanks s) := by
  unfold neapBanks
  try dsimp only
  repeat' first
    | (with_reducible first | assumption | apply foldS_keeps | apply setMemPwr_keeps)
    | simp only [Keeps.upd_iff] | intro _ _ _

theorem leaveNeap_keeps {s₀ s : State} (h : Keeps s₀ s) : Keeps s₀ (leaveNeap s) := by
  unfold leaveNeap
  try dsimp only
  repeat' first
    | (with_reducible first | assumption | apply banksOn_keeps | apply ite_keeps)

theorem capOps_keeps {s₀ s : State} (h : Keeps s₀ s) : Keeps s₀ (capOps s) := by
  unfold capOps
  try dsimp only
  repeat' first
    | (with_reducible first | assumption | apply foldS_keeps | apply setOp_keeps | apply ite_keeps)
    | simp only [Keeps.upd_iff] | intro _ _ _

theorem allOn_keeps {s₀ s : State} (h : Keeps s₀ s) : Keeps s₀ (allOn s) := by
  unfold allOn
  try dsimp only
  repeat' first
    | (with_reducible first
        | assumption | apply vrAdvance_keeps | apply capOps_keeps | apply foldS_keeps | apply turnOn_keeps | apply setReg_keeps)
    | simp only [Keeps.upd_iff] | intro _ _ _

theorem enterMode_keeps {s₀ : State} (m : Mode) {s : State} (h : Keeps s₀ s) : Keeps s₀ (enterMode m s) := by
  unfold enterMode
  try dsimp only
  repeat' first
    | (with_reducible first | assumption | apply setMode_keeps | apply neapBanks_keeps | apply ite_keeps)
    | simp only [Keeps.upd_iff]

theorem modeRequest_keeps {s₀ : State} (code : Nat) {s : State} (h : Keeps s₀ s) : Keeps s₀ (modeRequest code s).1 := by
  unfold modeRequest
  try dsimp only
  repeat' first
    | (with_reducible first | assumption | apply orReg_keeps | apply ite_keeps)
    | simp only [Keeps.upd_iff] | intro _ _ _ | split

theorem dropCore_keeps {s₀ : State} (k : Nat) {s : State} (h : Keeps s₀ s) : Keeps s₀ (dropCore k s) := by
  unfold dropCore
  try dsimp only
  repeat' first
    | (with_reducible first | assumption | apply coreReset_keeps | apply setLc_keeps | apply ite_keeps)
    | simp only [Keeps.upd_iff] | intro _ _ _ | split

theorem dropCores_keeps {s₀ s : State} (h : Keeps s₀ s) : Keeps s₀ (dropCores s) := by
  unfold dropCores
  try dsimp only
  repeat' first
    | (with_reducible first | assumption | apply foldS_keeps | apply dropCore_keeps | apply ite_keeps)
    | simp only [Keeps.upd_iff] | intro _ _ _

theorem neapEntry_keeps {s₀ s : State} (h : Keeps s₀ s) : Keeps s₀ (neapEntry s) := by
  unfold neapEntry
  try dsimp only
  repeat' first
    | (with_reducible first
        | assumption | apply vrAdvance_keeps | apply enterMode_keeps | apply neapUnits_keeps | apply dropCores_keeps | apply setReg_keeps
        | apply ite_keeps)

theorem neapExit_keeps {s₀ s : State} (h : Keeps s₀ s) : Keeps s₀ (neapExit s) := by
  unfold neapExit
  try dsimp only
  repeat' first
    | (with_reducible first | assumption | apply enterMode_keeps | apply allOn_keeps | apply ite_keeps)

theorem shoreEntry_keeps {s₀ s : State} (h : Keeps s₀ s) : Keeps s₀ (shoreEntry s) := by
  unfold shoreEntry
  try dsimp only
  repeat' first
    | (with_reducible first | assumption | apply enterMode_keeps | apply ite_keeps)

theorem shoreExit_keeps {s₀ s : State} (h : Keeps s₀ s) : Keeps s₀ (shoreExit s) := by
  unfold shoreExit
  try dsimp only
  repeat' first
    | (with_reducible first | assumption | apply enterMode_keeps | apply ite_keeps)

theorem lowPowerEntry_keeps {s₀ s : State} (h : Keeps s₀ s) : Keeps s₀ (lowPowerEntry s) := by
  unfold lowPowerEntry
  try dsimp only
  repeat' first
    | (with_reducible first | assumption | apply sapRamp_keeps | apply ite_keeps)
    | simp only [Keeps.upd_iff] | intro _ _ _ | split

theorem haltRequest_keeps {s₀ s : State} (h : Keeps s₀ s) : Keeps s₀ (haltRequest s) := by
  unfold haltRequest
  try dsimp only
  repeat' first
    | (with_reducible first | assumption | apply ite_keeps)
    | simp only [Keeps.upd_iff]

theorem haltRelease_keeps {s₀ s : State} (h : Keeps s₀ s) : Keeps s₀ (haltRelease s) := by
  unfold haltRelease
  try dsimp only
  repeat' first
    | (with_reducible first | assumption | apply ite_keeps)
    | simp only [Keeps.upd_iff]

theorem haltBoundary_keeps {s₀ s : State} (h : Keeps s₀ s) : Keeps s₀ (haltBoundary s) := by
  unfold haltBoundary
  try dsimp only
  repeat' first
    | (with_reducible first | assumption | apply setMode_keeps | apply leaveNeap_keeps | apply enterMode_keeps | apply ite_keeps)
    | simp only [Keeps.upd_iff] | intro _ _ _ | split

theorem passLclk_keeps {s₀ : State} (dt : Nat) {s : State} (h : Keeps s₀ s) : Keeps s₀ (passLclk dt s) := by
  unfold passLclk
  try dsimp only
  repeat' first
    | (with_reducible first | assumption)
    | simp only [Keeps.upd_iff]

theorem rtcReached_keeps {s₀ : State} (k : Nat) (dt : Nat) {s : State} (h : Keeps s₀ s) : Keeps s₀ (rtcReached k dt s) := by
  unfold rtcReached
  try dsimp only
  repeat' first
    | (with_reducible first | assumption | apply passLclk_keeps | apply orReg_keeps | apply ite_keeps)
    | simp only [Keeps.upd_iff]

theorem wake_keeps {s₀ : State} (cls : Nat) (id : Nat) (dt : Nat) {s : State} (h : Keeps s₀ s) : Keeps s₀ (wake cls id dt s) := by
  unfold wake
  try dsimp only
  repeat' first
    | (with_reducible first
        | assumption | apply passLclk_keeps | apply vrAdvance_keeps | apply orReg_keeps | apply setReg_keeps | apply ite_keeps)
    | simp only [Keeps.upd_iff]

theorem wokeClear_keeps {s₀ s : State} (h : Keeps s₀ s) : Keeps s₀ (wokeClear s) := by
  unfold wokeClear
  try dsimp only
  repeat' first
    | (with_reducible first | assumption | apply clrReg_keeps)

theorem cpAddressMatch_keeps {s₀ : State} (a : Nat) {s : State} (h : Keeps s₀ s) : Keeps s₀ (cpAddressMatch a s) := by
  unfold cpAddressMatch
  try dsimp only
  repeat' first
    | (with_reducible first | assumption | apply wake_keeps | apply ite_keeps)
    | simp only [Keeps.upd_iff] | intro _ _ _ | split

theorem tapBypass_keeps {s₀ s : State} (h : Keeps s₀ s) : Keeps s₀ (tapBypass s) := by
  unfold tapBypass
  try dsimp only
  repeat' first
    | (with_reducible first | assumption)
    | simp only [Keeps.upd_iff]

theorem tapTest_keeps {s₀ : State} (code : Nat) (pins : TapPins) (bits : List Bool) {s : State} (h :
    Keeps s₀ s) : Keeps s₀ (tapTest code pins bits s) := by
  unfold tapTest
  try dsimp only
  repeat' first
    | (with_reducible first
        | assumption | apply setMode_keeps | apply foldS_keeps | apply coreReset_keeps | apply leaveNeap_keeps | apply tapBypass_keeps
        | apply ite_keeps)
    | simp only [Keeps.upd_iff] | intro _ _ _

theorem tempUpdate_keeps {s₀ : State} (v : BitVec 12) {s : State} (h : Keeps s₀ s) : Keeps s₀ (tempUpdate v s) := by
  unfold tempUpdate
  try dsimp only
  repeat' first
    | (with_reducible first | assumption | apply orRegIf_keeps | apply setReg_keeps)

/-! ## Journal -/

theorem putRecord_keeps {s₀ : State} (ty : Nat) (payload : List Byte) {s : State} (h : Keeps s₀ s) : Keeps s₀ (putRecord ty payload s) := by
  unfold putRecord
  try dsimp only
  repeat' first
    | (with_reducible first | assumption | apply program_keeps | apply addReg_keeps)

theorem compact_keeps {s₀ : State} (keep : Nat → Bool) {s : State} (h : Keeps s₀ s) : Keeps s₀ (compact keep s) := by
  unfold compact
  try dsimp only
  repeat' first
    | (with_reducible first
        | assumption | apply eraseFlash_keeps | apply setReg_keeps | apply setRegFld_keeps | apply foldS_keeps | apply putRecord_keeps
        | apply orReg_keeps | apply program_keeps)
    | simp only [Keeps.upd_iff] | intro _ _ _

theorem jrnlAppend_keeps {s₀ : State} (ty : Nat) (payload : List Byte) {s : State} (h : Keeps s₀ s) : Keeps s₀ (jrnlAppend ty payload s) := by
  unfold jrnlAppend
  try dsimp only
  repeat' first
    | (with_reducible first | assumption | apply putRecord_keeps | apply compact_keeps | apply ite_keeps)

theorem jrnlStart_keeps {s₀ : State} (o : JOp) {s : State} (h : Keeps s₀ s) : Keeps s₀ (jrnlStart o s) := by
  unfold jrnlStart
  try dsimp only
  repeat' first
    | (with_reducible first | assumption | apply orReg_keeps)
    | simp only [Keeps.upd_iff]

theorem jrnlWr_keeps {s₀ : State} (v : Word) {s : State} (h : Keeps s₀ s) : Keeps s₀ (jrnlWr v s) := by
  unfold jrnlWr
  try dsimp only
  repeat' first
    | (with_reducible first | assumption | apply orReg_keeps | apply jrnlStart_keeps | apply ite_keeps)

theorem jrnlRd_keeps {s₀ : State} (v : Word) {s : State} (h : Keeps s₀ s) : Keeps s₀ (jrnlRd v s) := by
  unfold jrnlRd
  try dsimp only
  repeat' first
    | (with_reducible first | assumption | apply jrnlStart_keeps)

theorem jrnlReadOut_keeps {s₀ : State} (ty : Nat) {s : State} (h : Keeps s₀ s) : Keeps s₀ (jrnlReadOut ty s) := by
  unfold jrnlReadOut
  try dsimp only
  repeat' first
    | (with_reducible first | assumption | apply setReg_keeps | apply foldS_keeps | apply orReg_keeps | apply ite_keeps)
    | simp only [Keeps.upd_iff] | intro _ _ _ | split

theorem JOp_done_keeps {s₀ : State} (o : JOp) {s : State} (h : Keeps s₀ s) : Keeps s₀ (JOp.done o s) := by
  unfold JOp.done
  try dsimp only
  repeat' first
    | (with_reducible first
        | assumption | apply jrnlAppend_keeps | apply orReg_keeps | apply compact_keeps | apply jrnlReadOut_keeps | apply ite_keeps)
    | simp only [Keeps.upd_iff] | intro _ _ _ | split

theorem jrnlEnd_keeps {s₀ : State} (ok : Bool) {s : State} (h : Keeps s₀ s) : Keeps s₀ (jrnlEnd ok s).1 := by
  unfold jrnlEnd
  try dsimp only
  repeat' first
    | (with_reducible first | assumption | apply clrReg_keeps | apply JOp_done_keeps | apply orReg_keeps | apply ite_keeps)
    | simp only [Keeps.upd_iff] | intro _ _ _ | split

theorem setCeiling_keeps {s₀ : State} (k : Nat) (c : Nat) (floor : Bool) {s : State} (h : Keeps s₀ s) : Keeps s₀ (setCeiling k c floor s) := by
  unfold setCeiling
  try dsimp only
  repeat' first
    | (with_reducible first | assumption | apply setReg_keeps | apply ite_keeps)

theorem jrnlBoot_keeps {s₀ : State} (counters : Bool) {s : State} (h : Keeps s₀ s) : Keeps s₀ (jrnlBoot counters s) := by
  unfold jrnlBoot
  try dsimp only
  repeat' first
    | (with_reducible first
        | assumption | apply setReg_keeps | apply foldS_keeps | apply setCeiling_keeps | apply orReg_keeps | apply ite_keeps)
    | simp only [Keeps.upd_iff] | intro _ _ _ | split

/-! ## Fetch -/

/-- A fetch from the fabric that begins. -/
theorem beginFetch_keeps {s₀ s u : State} (k : Fin 144) (t : Fin 4) (a clk : Nat) (e : beginFetch k t a clk s = some u) (h :
    Keeps s₀ s) : Keeps s₀ u := by
  unfold beginFetch at e
  extract_lets th cach ln s1 at e
  have k1 : Keeps s₀ s1 := ite_keeps (count_keeps _ _ _ _ h) h
  clear_value s1
  repeat' (first | split at e | (extract_lets at e))
  all_goals first
    | (cases e; done)
    | (cases e; exact setThread_keeps _ _ _ k1)

/-! ## Entry -/

theorem freeLb_keeps {s₀ : State} (k : Nat) (t : Nat) {s : State} (h : Keeps s₀ s) : Keeps s₀ (freeLb k t s) := by
  unfold freeLb
  try dsimp only
  repeat' first
    | (with_reducible first | assumption | apply setCore_keeps | apply ite_keeps)

theorem vectorEcc_keeps {s₀ s : State} (k : Fin 144) (t : Fin 4) (th : Thread) (land : Bool) (level : Nat) (vec : Nat) (ecc : EccHit) (h :
    Keeps s₀ s) : Keeps s₀ (State.vectorEcc s k t th land level vec ecc) := by
  unfold State.vectorEcc
  try dsimp only
  repeat' first
    | (with_reducible first | assumption | apply countCes_keeps | apply ownUes_keeps | apply ite_keeps)
    | simp only [Keeps.upd_iff] | intro _ _ _ | split

theorem enterAt_keeps {s₀ : State} (k : Fin 144) (t : Fin 4) (vec fuel : Nat) :
    ∀ (ecc : List EccHit) (land : Bool) (level clk : Nat) {s : State}, Keeps s₀ s → Keeps s₀ (enterAt k t vec fuel ecc land level clk s) := by
  induction fuel with
  | zero => exact fun _ _ _ _ _ h => tripleFault_keeps _ _ h
  | succ fuel ih =>
    intro ecc land level clk s h
    unfold enterAt
    dsimp only
    have k1 : ∀ e, Keeps s₀ (s.vectorEcc k t (s.thread k t) land level vec e) := fun e => vectorEcc_keeps _ _ _ _ _ _ _ h
    split
    · exact setThread_keeps _ _ _ (k1 _)
    · split
      · exact tripleFault_keeps _ _ (k1 _)
      · exact ih _ _ _ _ (setThread_keeps _ _ _ (k1 _))

theorem enter_keeps {s₀ : State} (k : Fin 144) (t : Fin 4) (c : Cause) (land : Bool) (level : Nat) (pc : Word) (tgt : Option Word) (clk : Nat) {s : State} (h :
    Keeps s₀ s) : Keeps s₀ (enter k t c land level pc tgt clk s) := by
  unfold enter
  try dsimp only
  repeat' first
    | (with_reducible first | assumption | apply enterAt_keeps | apply setThread_keeps | apply freeLb_keeps)

theorem raiseAt_keeps {s₀ : State} (k : Fin 144) (t : Fin 4) (c : Cause) (pc : Word) (tgt : Option Word) (clk : Nat) {s : State} (h :
    Keeps s₀ s) : Keeps s₀ (raiseAt k t c pc tgt clk s) := by
  unfold raiseAt
  try dsimp only
  repeat' first
    | (with_reducible first | assumption | apply enter_keeps | apply tripleFault_keeps | apply ite_keeps)
    | simp only [Keeps.upd_iff] | intro _ _ _ | split

theorem endShadow_keeps {s₀ : State} (k : Fin 144) (t : Fin 4) (ecc : List EccHit) {s : State} (h : Keeps s₀ s) : Keeps s₀ (endShadow k t ecc s) := by
  unfold endShadow
  try dsimp only
  repeat' first
    | (with_reducible first | assumption | apply setThread_keeps | apply enterAt_keeps | apply advFree_keeps | apply ite_keeps)
    | simp only [Keeps.upd_iff] | intro _ _ _ | split

theorem raise_keeps {s₀ : State} (k : Fin 144) (t : Fin 4) (c : Cause) (clk : Nat) {s : State} (h : Keeps s₀ s) : Keeps s₀ (raise k t c clk s) := by
  unfold raise
  try dsimp only
  repeat' first
    | (with_reducible first | assumption | apply endShadow_keeps | apply raiseAt_keeps | apply ite_keeps)

/-! ## Effects -/

theorem dcStore_keeps {s₀ : State} (k : Nat) (a : Nat) (bs : List Byte) {s : State} (h : Keeps s₀ s) : Keeps s₀ (dcStore k a bs s) := by
  unfold dcStore
  try dsimp only
  repeat' first
    | (with_reducible first | assumption | apply setCore_keeps | apply foldS_keeps | apply setThread_keeps | apply ite_keeps)
    | simp only [Keeps.upd_iff] | intro _ _ _

theorem askPart_keeps {s₀ : State} (k : Fin 144) (t : Fin 4) (cst : Nat) (a : Nat) (n : Nat) {s : State} (h :
    Keeps s₀ s) : Keeps s₀ (askPart k t cst a n s).1 := by
  unfold askPart
  try dsimp only
  repeat' first
    | (with_reducible first | assumption | apply request_keeps | apply ite_keeps)
    | simp only [Keeps.upd_iff] | intro _ _ _ | split

theorem askParts_keeps {s₀ : State} (k : Fin 144) (t : Fin 4) (cst : Nat) (ps : List (Nat × Nat)) :
    ∀ {s : State}, Keeps s₀ s → Keeps s₀ (askParts k t cst ps s).1 := by
  induction ps with
  | nil => exact fun h => h
  | cons p ps ih => exact fun h => ih (askPart_keeps _ _ _ _ _ h)

theorem farLoad_keeps {s₀ : State} (k : Fin 144) (t : Fin 4) (cst : Nat) (clk : Nat) (hit : Nat) (pc : Word) (fpc : Word) (kind : LdKind) (d : Nat) (a : Nat) {st : State × Thread} (h :
    Keeps s₀ st.1) : Keeps s₀ (farLoad k t cst clk hit pc fpc kind d a st).1 := by
  unfold farLoad
  try dsimp only
  repeat' first
    | (with_reducible first | assumption | apply setCore_keeps | apply askParts_keeps | apply count_keeps | apply ite_keeps)
    | simp only [Keeps.upd_iff] | intro _ _ _ | split

theorem ownCes_keeps {s₀ s : State} (ws : List Nat) (h : Keeps s₀ s) : Keeps s₀ (State.ownCes s ws) := by
  unfold State.ownCes
  try dsimp only
  repeat' first
    | (with_reducible first | assumption | apply foldS_keeps | apply countCe_keeps)
    | simp only [Keeps.upd_iff] | intro _ _ _

theorem memLoad_keeps {s₀ : State} (k : Fin 144) (t : Fin 4) (cst : Nat) (clk : Nat) (pc : Word) (fpc : Word) (m : State) (i : IssueInfo) (kind : LdKind) (d : Nat) (a : Nat) {st : State × Thread} (h :
    Keeps s₀ st.1) : Keeps s₀ (memLoad k t cst clk pc fpc m i kind d a st).1 := by
  unfold memLoad
  try dsimp only
  repeat' first
    | (with_reducible first | assumption | apply ownCes_keeps | apply ownUes_keeps | apply farLoad_keeps | apply ite_keeps)
    | simp only [Keeps.upd_iff] | intro _ _ _ | split

theorem doLoad_keeps {s₀ : State} (k : Fin 144) (t : Fin 4) (cst : Nat) (clk : Nat) (pc : Word) (fpc : Word) (m : State) (i : IssueInfo) (sb : Nat) (kind : LdKind) (d : Nat) (a : Nat) {st : State × Thread} (h :
    Keeps s₀ st.1) : Keeps s₀ (doLoad k t cst clk pc fpc m i sb kind d a st).1 := by
  unfold doLoad
  try dsimp only
  repeat' first
    | (with_reducible first | assumption | apply memLoad_keeps | apply ite_keeps)
    | simp only [Keeps.upd_iff] | intro _ _ _ | split

theorem lateLoad_keeps {s₀ : State} (k : Fin 144) (t : Fin 4) (f : FarLoad) (lag : Nat) {s : State} (h :
    Keeps s₀ s) : Keeps s₀ (lateLoad k t f lag s) := by
  unfold lateLoad
  try dsimp only
  repeat' first
    | (with_reducible first | assumption | apply setThread_keeps | apply farLoad_keeps | apply memLoad_keeps | apply ite_keeps)
    | simp only [Keeps.upd_iff] | intro _ _ _ | split

theorem checkLoad_keeps {s₀ : State} (k : Fin 144) (t : Fin 4) (f : FarLoad) {s : State} (h : Keeps s₀ s) : Keeps s₀ (checkLoad k t f s) := by
  unfold checkLoad
  try dsimp only
  repeat' first
    | (with_reducible first | assumption | apply lateLoad_keeps | apply setThread_keeps | apply ite_keeps)
    | simp only [Keeps.upd_iff] | intro _ _ _ | split

theorem checkLoads_keeps {s₀ : State} (k : Nat) (clk : Nat) {s : State} (h : Keeps s₀ s) : Keeps s₀ (checkLoads k clk s) := by
  unfold checkLoads
  try dsimp only
  repeat' first
    | (with_reducible first | assumption | apply foldS_keeps | apply checkLoad_keeps | apply ite_keeps)
    | simp only [Keeps.upd_iff] | intro _ _ _

theorem foldSig_keeps {s₀ : State} (k : Nat) (a : Nat) (bs : List Byte) {s : State} (h : Keeps s₀ s) : Keeps s₀ (foldSig k a bs s) := by
  unfold foldSig
  try dsimp only
  repeat' first
    | (with_reducible first | assumption | apply setLc_keeps | apply ite_keeps)
    | simp only [Keeps.upd_iff] | intro _ _ _ | split

theorem memStore_keeps {s₀ : State} (k : Fin 144) (t : Fin 4) (cst clk : Nat) (pc : Word) (i : IssueInfo) (a : Nat) (bs : List Byte)
    {st : State × Thread} (h : Keeps s₀ st.1) : Keeps s₀ (memStore k t cst clk pc i a bs st).1 := by
  have hf : ∀ (ps : List (Nat × Nat)) (x : State × Thread), Keeps s₀ x.1 →
      Keeps s₀ (ps.foldl (fun x p =>
        let r := x.1.request (.core k t) .store p.1 p.2 (partOfBytes a bs p) cst
        (r.1, { x.2 with posted := x.2.posted ++ [r.2] })) x).1 := by
    intro ps
    induction ps with
    | nil => exact fun _ h => h
    | cons p ps ih => exact fun x h => ih _ (request_keeps _ _ _ _ _ _ _ h)
  unfold memStore
  split
  · dsimp only
    repeat' split
    · exact storeAt_keeps _ _ h
    · exact storeAt_keeps _ _ (ownCes_keeps _ h)
    · exact ownUes_keeps _ _ _ _ h
  · exact h
  · have k1 : Keeps s₀ (if a < 2 ^ 38 then dcStore k a bs st.1 else st.1) := by
      split
      · exact dcStore_keeps _ _ _ h
      · exact h
    dsimp only
    split
    · exact k1
    · exact hf _ _ k1

theorem doStore_keeps {s₀ : State} (t2 : Bool) (k : Fin 144) (t : Fin 4) (cst : Nat) (clk : Nat) (pc : Word) (i : IssueInfo) (a : Nat) (bs : List Byte) {st : State × Thread} (h :
    Keeps s₀ st.1) : Keeps s₀ (doStore t2 k t cst clk pc i a bs st).1 := by
  unfold doStore
  try dsimp only
  repeat' first
    | (with_reducible first | assumption | apply foldSig_keeps | apply memStore_keeps | apply ite_keeps)
    | simp only [Keeps.upd_iff] | intro _ _ _ | split

/-- A fill of the shadow stack that begins. -/
theorem startFill_keeps {s₀ s u : State} (k : Fin 144) (t : Fin 4) (pa clk : Nat) (i : IssueInfo) (e : startFill k t pa clk i s = some u)
    (h : Keeps s₀ s) : Keeps s₀ u := by
  have ka : ∀ cst n, Keeps s₀ (askPart k t cst pa n s).1 := fun _ _ => by apply askPart_keeps; exact h
  unfold startFill at e
  dsimp only at e
  repeat' split at e
  all_goals first
    | (cases e; done)
    | (cases e; exact setThread_keeps _ _ _ (ownCes_keeps _ h))
    | (cases e; exact setThread_keeps _ _ _ (ownUes_keeps _ _ _ _ h))
    | (cases e; exact setThread_keeps _ _ _ h)
    | (cases e; exact setThread_keeps _ _ _ (ka _ _))

theorem spillOut_keeps {s₀ : State} (k : Fin 144) (t : Fin 4) (cst clk : Nat) (pc : Word) (i : IssueInfo) (pa : Nat) (bs : List Byte)
    {st : State × Thread} (h : Keeps s₀ st.1) : Keeps s₀ (spillOut k t cst clk pc i pa bs st).1 := by
  have hf : ∀ (js : List Nat) (x : State × Thread), Keeps s₀ x.1 →
      Keeps s₀ (js.foldl (fun x j => memStore k t cst clk pc i (pa + 4 * j) ((bs.drop (4 * j)).take 4) x) x).1 := by
    intro js
    induction js with
    | nil => exact fun _ h => h
    | cons j js ih => exact fun x h => ih _ (memStore_keeps _ _ _ _ _ _ _ _ h)
  have k1 : Keeps s₀ (foldSig k pa bs st.1) := foldSig_keeps _ _ _ h
  unfold spillOut
  dsimp only
  generalize foldSig k pa bs st.1 = s1 at k1 ⊢
  split
  · have k2 : Keeps s₀ (if pa < 2 ^ 38 then dcStore k pa bs s1 else s1) := ite_keeps (dcStore_keeps _ _ _ k1) k1
    split
    · exact k2
    · exact request_keeps _ _ _ _ _ _ _ k2
  · exact hf _ _ k1

theorem ssPush_keeps {s₀ : State} (k : Fin 144) (t : Fin 4) (clk : Nat) (i : IssueInfo) (ret : Word) (th : Thread) {st : State × Thread} (h :
    Keeps s₀ st.1) : Keeps s₀ (ssPush k t clk i ret th st).1 := by
  unfold ssPush
  try dsimp only
  repeat' first
    | (with_reducible first | assumption | apply spillOut_keeps | apply ite_keeps)
    | simp only [Keeps.upd_iff] | intro _ _ _ | split

/-! ## Front -/

theorem predUpdate_keeps {s₀ : State} (k : Nat) (pc : Word) (tgt : Word) (taken : Bool) {s : State} (h :
    Keeps s₀ s) : Keeps s₀ (predUpdate k pc tgt taken s) := by
  unfold predUpdate
  try dsimp only
  repeat' first
    | (with_reducible first | assumption | apply setCore_keeps | apply ite_keeps)
    | simp only [Keeps.upd_iff] | intro _ _ _ | split

theorem followLb_keeps {s₀ : State} (k : Nat) (t : Nat) (pc : Word) (taken : Option Word) (ended : List Nat) {s : State} (h :
    Keeps s₀ s) : Keeps s₀ (followLb k t pc taken ended s) := by
  unfold followLb
  try dsimp only
  repeat' first
    | (with_reducible first | assumption | apply setCore_keeps | apply ite_keeps)
    | simp only [Keeps.upd_iff] | intro _ _ _ | split

theorem recapture_keeps {s₀ : State} (k : Nat) (t : Nat) (pc : Word) {s : State} (h : Keeps s₀ s) : Keeps s₀ (recapture k t pc s) := by
  unfold recapture
  try dsimp only
  repeat' first
    | (with_reducible first | assumption | apply setThread_keeps | apply setCore_keeps | apply ite_keeps)
    | simp only [Keeps.upd_iff] | intro _ _ _ | split

theorem captureLb_keeps {s₀ : State} (k : Nat) (t : Nat) (e : FqEnt) {s : State} (h : Keeps s₀ s) : Keeps s₀ (captureLb k t e s) := by
  unfold captureLb
  try dsimp only
  repeat' first
    | (with_reducible first | assumption | apply recapture_keeps | apply setCore_keeps | apply ite_keeps)
    | simp only [Keeps.upd_iff] | intro _ _ _ | split

theorem enqueue_keeps {s₀ : State} (k : Nat) (t : Nat) (early : Bool) (e : FqEnt) {s : State} (h :
    Keeps s₀ s) : Keeps s₀ (enqueue k t early e s) := by
  unfold enqueue
  try dsimp only
  repeat' first
    | (with_reducible first | assumption | apply setThread_keeps | apply captureLb_keeps | apply ite_keeps)

theorem touchCode_keeps {s₀ : State} (k : Nat) (th : Thread) (a : Nat) {s : State} (h : Keeps s₀ s) : Keeps s₀ (touchCode k th a s) := by
  unfold touchCode
  try dsimp only
  repeat' first
    | (with_reducible first | assumption | apply setCore_keeps | apply ite_keeps)

theorem fetchOne_keeps {s₀ : State} (k : Fin 144) (t : Fin 4) (pc : Word) (early : Bool) (clk : Nat) {s : State} (h :
    Keeps s₀ s) : Keeps s₀ (fetchOne k t pc early clk s) := by
  have kb : ∀ x, Keeps s₀ ((beginFetch k t x clk s).getD s) := by
    intro x
    cases e : beginFetch k t x clk s with
    | none => exact h
    | some u => exact beginFetch_keeps _ _ _ _ e h
  unfold fetchOne
  dsimp only
  repeat' first
    | (with_reducible first | assumption | apply kb | apply enqueue_keeps | apply touchCode_keeps | apply setThread_keeps)
    | split

theorem lbDeliver_keeps {s₀ : State} (k : Nat) (clk : Nat) {s : State} (h : Keeps s₀ s) : Keeps s₀ (lbDeliver k clk s) := by
  unfold lbDeliver
  try dsimp only
  repeat' first
    | (with_reducible first | assumption | apply enqueue_keeps | apply ite_keeps)
    | simp only [Keeps.upd_iff] | intro _ _ _ | split

theorem joinAhead_keeps {s₀ : State} (k : Nat) (t : Nat) {s : State} (h : Keeps s₀ s) : Keeps s₀ (joinAhead k t s) := by
  unfold joinAhead
  try dsimp only
  repeat' first
    | (with_reducible first | assumption | apply setThread_keeps | apply ite_keeps)
    | simp only [Keeps.upd_iff] | intro _ _ _ | split

theorem entryFetch_keeps {s₀ : State} (k : Fin 144) (t : Fin 4) (clk : Nat) {s : State} (h : Keeps s₀ s) : Keeps s₀ (entryFetch k t clk s) := by
  unfold entryFetch
  try dsimp only
  repeat' first
    | (with_reducible first | assumption | apply fetchOne_keeps | apply ite_keeps)

theorem portFetch_keeps {s₀ : State} (k : Fin 144) (clk : Nat) {s : State} (h : Keeps s₀ s) : Keeps s₀ (portFetch k clk s) := by
  unfold portFetch
  try dsimp only
  repeat' first
    | (with_reducible first | assumption | apply fetchOne_keeps | apply setCore_keeps | apply ite_keeps)
    | simp only [Keeps.upd_iff] | intro _ _ _ | split

theorem fetchCclk_keeps {s₀ : State} (k : Fin 144) (clk : Nat) {s : State} (h : Keeps s₀ s) : Keeps s₀ (fetchCclk k clk s) := by
  unfold fetchCclk
  try dsimp only
  repeat' first
    | (with_reducible first
        | assumption | apply addReg_keeps | apply foldS_keeps | apply entryFetch_keeps | apply portFetch_keeps | apply lbDeliver_keeps
        | apply joinAhead_keeps | apply ite_keeps)
    | simp only [Keeps.upd_iff] | intro _ _ _

theorem fetchRun_keeps {s₀ : State} (k : Fin 144) (n : Nat) : ∀ (clk : Nat) {s : State}, Keeps s₀ s → Keeps s₀ (fetchRun k n clk s) := by
  induction n with
  | zero => exact fun _ _ h => h
  | succ n ih =>
    intro clk s h
    have k1 : Keeps s₀ (fetchCclk k clk s) := fetchCclk_keeps _ _ h
    unfold fetchRun
    dsimp only
    repeat' split
    · exact addReg_keeps _ _ k1
    · exact k1
    · exact ih _ k1

theorem advance_keeps {s₀ : State} (k : Fin 144) (dt : Nat) {s : State} (h : Keeps s₀ s) : Keeps s₀ (advance k dt s) := by
  unfold advance
  try dsimp only
  repeat' first
    | (with_reducible first
        | assumption | apply fetchRun_keeps | apply foldS_keeps | apply onThread_keeps | apply passCclk_keeps | apply setCore_keeps
        | apply checkLoads_keeps | apply ite_keeps)
    | simp only [Keeps.upd_iff] | intro _ _ _

/-! ## Issue -/

theorem settled_keeps {s₀ s : State} (k : Nat) (t : Nat) (clk : Nat) (h : Keeps s₀ s) : Keeps s₀ (State.settled s k t clk) := by
  unfold State.settled
  try dsimp only
  repeat' first
    | (with_reducible first | assumption | apply onThread_keeps)

theorem raiseNext_keeps {s₀ : State} (k : Fin 144) (t : Fin 4) (c : Cause) (clk : Nat) {s : State} (h :
    Keeps s₀ s) : Keeps s₀ (raiseNext k t c clk s) := by
  unfold raiseNext
  try dsimp only
  repeat' first
    | (with_reducible first | assumption | apply raise_keeps | apply onThread_keeps)

theorem gateEntry_keeps {s₀ : State} (k : Fin 144) (t : Fin 4) (num : Nat) (clk : Nat) (ecc : List EccHit) {s : State} (h :
    Keeps s₀ s) : Keeps s₀ (gateEntry k t num clk ecc s) := by
  unfold gateEntry
  try dsimp only
  repeat' first
    | (with_reducible first | assumption | apply enter_keeps | apply setThread_keeps | apply ite_keeps)

theorem takeAfter_keeps {s₀ : State} (k : Fin 144) (t : Fin 4) (e : Imprec) (ecc : List EccHit) (clk : Nat) {s : State} (h :
    Keeps s₀ s) : Keeps s₀ (takeAfter k t e ecc clk s) := by
  unfold takeAfter
  try dsimp only
  repeat' first
    | (with_reducible first
        | assumption | apply gateEntry_keeps | apply endShadow_keeps | apply onThread_keeps | apply raiseAt_keeps | apply raiseNext_keeps
        | apply ite_keeps)
    | simp only [Keeps.upd_iff] | intro _ _ _

theorem takeImprec_keeps {s₀ : State} (k : Fin 144) (t : Fin 4) (e : Imprec) (clk : Nat) (ecc : List EccHit) {s : State} (h :
    Keeps s₀ s) : Keeps s₀ (takeImprec k t e clk ecc s) := by
  unfold takeImprec
  try dsimp only
  repeat' first
    | (with_reducible first
        | assumption | apply setThread_keeps | apply takeAfter_keeps | apply raise_keeps | apply raiseNext_keeps | apply ite_keeps)
    | simp only [Keeps.upd_iff] | intro _ _ _

theorem setupLoop_keeps {s₀ : State} (c : Ctx) (lvl : Nat) (count endp : Word) {fx : Fx} (h :
    Keeps s₀ fx.s) : Keeps s₀ (setupLoop c lvl count endp fx).s := by
  unfold setupLoop
  dsimp only
  split
  · exact h
  · exact setCore_keeps _ _ h

theorem memOp_keeps {s₀ : State} (c : Ctx) (op : TOp) {fx : Fx} (h : Keeps s₀ fx.s) : Keeps s₀ (memOp c op fx).s := by
  have hl : ∀ n kind d pa, Keeps s₀ (doLoad c.k c.t c.th.cst c.clk c.pc (c.th.creg 0x10) c.m c.i n kind d pa (fx.s, fx.th)).1 :=
    fun _ _ _ _ => doLoad_keeps _ _ _ _ _ _ _ _ _ _ _ _ h
  unfold memOp
  dsimp only
  repeat' split
  all_goals first
    | exact h
    | exact hl _ _ _ _

theorem storeOp_keeps {s₀ : State} (c : Ctx) (op : TOp) {fx : Fx} (h : Keeps s₀ fx.s) : Keeps s₀ (storeOp c op fx).s := by
  unfold storeOp
  repeat' split
  all_goals first
    | exact h
    | exact doStore_keeps _ _ _ _ _ _ _ _ _ h

theorem branchOp_keeps {s₀ : State} (c : Ctx) (tg : BTarget) (call : Bool) {fx : Fx} (h : Keeps s₀ fx.s) : Keeps s₀ (branchOp c tg call fx).s := by
  have hp : Keeps s₀ (ssPush c.k c.t c.clk c.i c.ret c.th (fx.s, fx.th)).1 := ssPush_keeps _ _ _ _ _ _ h
  unfold branchOp
  dsimp only
  repeat' split
  all_goals first
    | exact h
    | exact hp

theorem movcOp_keeps {s₀ : State} (c : Ctx) (fn n r : Nat) {fx : Fx} (h : Keeps s₀ fx.s) : Keeps s₀ (movcOp c fn n r fx).s := by
  unfold movcOp
  dsimp only
  repeat' split
  all_goals first
    | exact h
    | exact freeLb_keeps _ _ h

theorem runOp_keeps {s₀ : State} (c : Ctx) (word : Word) (op : TOp) {fx : Fx} (h : Keeps s₀ fx.s) : Keeps s₀ (runOp c word op fx).s := by
  unfold runOp
  split
  all_goals first
    | exact h
    | exact memOp_keeps _ _ h
    | exact branchOp_keeps _ _ _ h
    | exact setupLoop_keeps _ _ _ _ h
    | exact movcOp_keeps _ _ _ _ h

theorem bundleFx_keeps {s₀ s : State} (c : Ctx) (ops : List (Nat × RawOp × TOp)) (h : Keeps s₀ s) : Keeps s₀ (bundleFx c ops s).s := by
  have hf : ∀ (l : List (Nat × RawOp × TOp)) (fx : Fx), Keeps s₀ fx.s → Keeps s₀ (l.foldl (fun f e => runOp c e.2.1.word e.2.2 f) fx).s := by
    intro l
    induction l with
    | nil => exact fun _ h => h
    | cons e l ih => exact fun fx h => ih _ (runOp_keeps _ _ _ h)
  have hs : ∀ (l : List (Nat × RawOp × TOp)) (fx : Fx), Keeps s₀ fx.s → Keeps s₀ (l.foldl (fun f e => storeOp c e.2.2 f) fx).s := by
    intro l
    induction l with
    | nil => exact fun _ h => h
    | cons e l ih => exact fun fx h => ih _ (storeOp_keeps _ _ h)
  exact hf _ _ (hs _ _ (hf _ _ h))

theorem afterIssue_keeps {s₀ : State} (c : Ctx) (fx : Fx) {s : State} (h : Keeps s₀ s) : Keeps s₀ (afterIssue c fx s) := by
  unfold afterIssue
  try dsimp only
  repeat' first
    | (with_reducible first | assumption | apply onThread_keeps | apply takeImprec_keeps | apply ite_keeps)
    | simp only [Keeps.upd_iff] | intro _ _ _ | split

theorem ripen_keeps {s₀ : State} (k : Nat) (ops : List (Nat × RawOp × TOp)) {s : State} (h : Keeps s₀ s) : Keeps s₀ (ripen k ops s) := by
  unfold ripen
  try dsimp only
  repeat' first
    | (with_reducible first | assumption | apply setLc_keeps | apply ite_keeps)
    | simp only [Keeps.upd_iff] | intro _ _ _ | split

theorem train_keeps {s₀ : State} (c : Ctx) (m : State) (br : Option (BTarget × Bool × Bool)) (taken : Bool) {s : State} (h :
    Keeps s₀ s) : Keeps s₀ (train c m br taken s) := by
  unfold train
  try dsimp only
  repeat' first
    | (with_reducible first | assumption | apply predUpdate_keeps | apply ite_keeps)
    | simp only [Keeps.upd_iff] | intro _ _ _ | split

theorem runBundle_keeps {s₀ s : State} (c : Ctx) (raw : List RawOp) (ops : List (Nat × RawOp × TOp)) (busy : List Nat) (h :
    Keeps s₀ s) : Keeps s₀ (runBundle c raw ops busy s) := by
  unfold runBundle
  extract_lets fx br dl misp af s1 s2 s3 wrong e0 th1 r th2 s4 e1 s5 s6
  have k1 : Keeps s₀ s1 := train_keeps _ _ _ _ (bundleFx_keeps c ops (ripen_keeps _ _ h))
  have k4 : Keeps s₀ s4 := setThread_keeps _ _ _ (count_keeps _ _ _ _ (setCore_keeps _ _ (count_keeps _ _ _ _ k1)))
  have k6 : Keeps s₀ s6 := followLb_keeps _ _ _ _ _ (ite_keeps (setCore_keeps _ _ k4) k4)
  exact afterIssue_keeps _ _ (ite_keeps (advFree_keeps (advFree_keeps (advFree_keeps (advFree_keeps k6)))) k6)

theorem takeTrap_keeps {s₀ : State} (c : Ctx) (num : Nat) {s : State} (h : Keeps s₀ s) : Keeps s₀ (takeTrap c num s) := by
  unfold takeTrap
  try dsimp only
  repeat' first
    | (with_reducible first | assumption | apply endShadow_keeps | apply setThread_keeps | apply raiseAt_keeps | apply ite_keeps)

/-- A parity error that a bundle meets. -/
theorem parityHit_keeps {s₀ s u : State} (k : Fin 144) (t : Fin 4) (p : ParityHit) (clk : Nat) (e : parityHit k t p clk s = some u)
    (h : Keeps s₀ s) : Keeps s₀ u := by
  have k1 : ∀ th pc c, Keeps s₀ (fetchOne k t pc false c ((freeLb k t s).setThread k t th)) :=
    fun _ _ _ => fetchOne_keeps _ _ _ _ _ (setThread_keeps _ _ _ (freeLb_keeps _ _ h))
  unfold parityHit at e
  extract_lets th c at e
  split at e
  · split at e
    · cases e; exact countCpar_keeps _ (setThread_keeps _ _ _ (setCore_keeps _ _ h))
    · cases e
  · split at e
    · cases e; exact ite_keeps (fetchOne_keeps _ _ _ _ _ (k1 _ _ _)) (k1 _ _ _)
    · cases e
  · cases e

theorem fetchUe_keeps {s₀ s : State} (k : Fin 144) (t : Fin 4) (clk : Nat) (i : IssueInfo) (h :
    Keeps s₀ s) : Keeps s₀ (State.fetchUe s k t clk i) := by
  unfold State.fetchUe
  try dsimp only
  repeat' first
    | (with_reducible first | assumption | apply ownUes_keeps | apply ite_keeps)
    | simp only [Keeps.upd_iff] | intro _ _ _ | split

/-- A bundle that issues, or what stands in its place. -/
theorem tryIssue_keeps {s₀ s u : State} (k : Fin 144) (t : Fin 4) (i : IssueInfo) (busy : List Nat) (e : tryIssue k t i busy s = some u)
    (h : Keeps s₀ s) : Keeps s₀ u := by
  unfold tryIssue at e
  dsimp only at e
  split at e
  · cases e
  · cases e; exact setThread_keeps _ _ _ h
  · cases e; exact setThread_keeps _ _ _ h
  · exact startFill_keeps _ _ _ _ _ e h
  · split at e
    · cases e; exact raise_keeps _ _ _ _ (count_keeps _ _ _ _ (setCore_keeps _ _ (ite_keeps (fetchUe_keeps _ _ _ _ h) h)))
    · cases e
  · split at e
    · cases e
    · cases e
      have k1 : ∀ (b : Bool) ws, Keeps s₀ (if b = true then s.ownCes ws else s).advFree :=
        fun _ _ => advFree_keeps (ite_keeps (ownCes_keeps _ h) h)
      refine ite_keeps (countCpar_keeps _ ?_) ?_
      all_goals
        have k2 : ∀ (x : Option Nat) (a : State) (f : Nat → CoreSt), Keeps s₀ a →
            Keeps s₀ (match x with | some line => a.setCore k (f line) | none => a) := by
          intro x a f ha; cases x
          · exact ha
          · exact setCore_keeps _ _ ha
        split
        · exact takeTrap_keeps _ _ (count_keeps _ _ _ _ (setCore_keeps _ _ (k2 _ _ _ (k1 _ _))))
        · exact runBundle_keeps _ _ _ _ (k2 _ _ _ (k1 _ _))

/-- A discard of shadow-stack entries that is worked off. -/
theorem workDrop_keeps {s₀ s u : State} (k : Fin 144) (t : Fin 4) (clk : Nat) (i : IssueInfo) (e : workDrop k t clk i s = some u)
    (h : Keeps s₀ s) : Keeps s₀ u := by
  unfold workDrop at e
  dsimp only at e
  repeat' split at e
  all_goals first
    | cases e; exact raise_keeps _ _ _ _ (setThread_keeps _ _ _ h)
    | cases e; exact setThread_keeps _ _ _ h
    | exact startFill_keeps _ _ _ _ _ e (setThread_keeps _ _ _ h)
    | cases e

theorem afterFirst_keeps {s₀ : State} (k : Fin 144) (t : Fin 4) (ecc : List EccHit) {s : State} (h :
    Keeps s₀ s) : Keeps s₀ (afterFirst k t ecc s) := by
  unfold afterFirst
  try dsimp only
  repeat' first
    | (with_reducible first | assumption | apply takeImprec_keeps | apply setThread_keeps | apply ite_keeps)
    | simp only [Keeps.upd_iff] | intro _ _ _ | split

/-- What a BUNDLE_ISSUE does. -/
theorem issueStep_keeps {s₀ s u : State} (k : Fin 144) (t : Fin 4) (i : IssueInfo) (e : issueStep k t i s = some u) (h :
    Keeps s₀ s) : Keeps s₀ u := by
  unfold issueStep at e
  split at e
  · cases e
  · extract_lets s0 clk s1 s2 th at e
    have k2 : Keeps s₀ s2 := settled_keeps _ _ _ (count_keeps _ _ _ _ (advance_keeps _ _ h))
    clear_value s2 th clk s1
    split at e
    · cases e; exact takeImprec_keeps _ _ _ _ _ k2
    · split at e
      next hw => cases e; exact workDrop_keeps _ _ _ _ hw k2
      · split at e
        · cases e
        · split at e
          next hp => cases e; exact parityHit_keeps _ _ _ _ hp k2
          · obtain ⟨v, hv, rfl⟩ := Option.map_eq_some_iff.mp e
            exact afterFirst_keeps _ _ _ (tryIssue_keeps _ _ _ _ hv k2)

/-! ## BwRows -/

theorem watchdog_keeps {s₀ : State} (p : Part) (l : Nat) (k : Nat) {s : State} (h : Keeps s₀ s) : Keeps s₀ (watchdog p l k s) := by
  unfold watchdog
  try dsimp only
  repeat' first
    | (with_reducible first
        | assumption | apply setLc_keeps | apply coreFault_keeps | apply cevt_keeps | apply logEvent_keeps | apply setPt_keeps
        | apply foldS_keeps | apply stopAsDone_keeps | apply ite_keeps)
    | simp only [Keeps.upd_iff] | intro _ _ _

theorem watchdogFire_keeps {s₀ : State} (l : Nat) (dt : Nat) {s : State} (h : Keeps s₀ s) : Keeps s₀ (watchdogFire l dt s) := by
  unfold watchdogFire
  try dsimp only
  repeat' first
    | (with_reducible first | assumption | apply advance_keeps | apply watchdog_keeps | apply ite_keeps)
    | simp only [Keeps.upd_iff] | intro _ _ _ | split

theorem commitDeadline_keeps {s₀ : State} (n : Nat) {s : State} (h : Keeps s₀ s) : Keeps s₀ (commitDeadline n s) := by
  unfold commitDeadline
  try dsimp only
  repeat' first
    | (with_reducible first
        | assumption | apply notReplayed_keeps | apply foldS_keeps | apply stopAsDone_keeps | apply setPt_keeps | apply ite_keeps)
    | simp only [Keeps.upd_iff] | intro _ _ _ | split

theorem commitRow_keeps {s₀ : State} (n : Nat) {s : State} (h : Keeps s₀ s) : Keeps s₀ (commitRow n s) := by
  unfold commitRow
  try dsimp only
  repeat' first
    | (with_reducible first | assumption | apply commitFrame_keeps | apply ite_keeps)
    | simp only [Keeps.upd_iff] | intro _ _ _ | split

theorem faultAfter_keeps {s₀ : State} (det : Nat) (k : Nat) (addr : Nat) (dt : Nat) {s : State} (h :
    Keeps s₀ s) : Keeps s₀ (faultAfter det k addr dt s) := by
  unfold faultAfter
  try dsimp only
  repeat' first
    | (with_reducible first | assumption | apply coreFault_keeps | apply advance_keeps | apply ite_keeps)

/-- A note that is taken up. -/
theorem takeNote_keeps {s₀ s u : State} (k a : Nat) (e : takeNote k a s = some u) (h : Keeps s₀ s) : Keeps s₀ u := by
  obtain ⟨n, -, rfl⟩ := Option.map_eq_some_iff.mp e
  exact h.of_eq rfl rfl rfl rfl

theorem noteTaken_keeps {s₀ s : State} (l a dt : Nat) (h : Keeps s₀ s) : Keeps s₀ (noteTaken l a dt s) := by
  unfold noteTaken
  split
  · exact h
  · split
    next hn => exact stateFault_keeps _ _ (advance_keeps _ _ (takeNote_keeps _ _ hn h))
    · exact h

theorem copyEcc_keeps {s₀ : State} (c : CodeRec) (errs : List (Nat × Bool)) {s : State} (h : Keeps s₀ s) : Keeps s₀ (copyEcc c errs s) := by
  unfold copyEcc
  try dsimp only
  repeat' first
    | (with_reducible first | assumption | apply foldS_keeps | apply logUe_keeps | apply countCe_keeps | apply ite_keeps)
    | simp only [Keeps.upd_iff] | intro _ _ _

theorem copyCode_keeps {s₀ : State} (l : Nat) (k : Nat) (errs : List (Nat × Bool)) {s : State} (h : Keeps s₀ s) : Keeps s₀ (copyCode l k errs s) := by
  unfold copyCode
  try dsimp only
  repeat' first
    | (with_reducible first
        | assumption | apply copyEcc_keeps | apply wakeSpan_keeps | apply foldS_keeps | apply store_keeps | apply ite_keeps)
    | simp only [Keeps.upd_iff] | intro _ _ _ | split

theorem restoreCode_keeps {s₀ : State} (l : Nat) (k : Nat) (errs : List (Nat × Bool)) {s : State} (h :
    Keeps s₀ s) : Keeps s₀ (restoreCode l k errs s) := by
  unfold restoreCode
  try dsimp only
  repeat' first
    | (with_reducible first | assumption | apply copyCode_keeps | apply zero_keeps | apply wakeSpan_keeps)

theorem freshCore_keeps {s₀ : State} (k : Nat) {s : State} (h : Keeps s₀ s) : Keeps s₀ (freshCore k s) := by
  unfold freshCore
  try dsimp only
  repeat' first
    | (with_reducible first | assumption | apply setCore_keeps)

theorem startLcore_keeps {s₀ : State} (p : Part) (l : Nat) (k : Nat) {s : State} (h : Keeps s₀ s) : Keeps s₀ (startLcore p l k s) := by
  unfold startLcore
  try dsimp only
  repeat' first
    | (with_reducible first | assumption | apply loadThreads_keeps | apply loadCoreCfg_keeps | apply setCore_keeps | apply setLc_keeps)

theorem setTkos_keeps {s₀ s : State} (ts : List TakeOver) (h : Keeps s₀ s) : Keeps s₀ (State.setTkos s ts) := by
  unfold State.setTkos
  try dsimp only
  repeat' first
    | (with_reducible first | assumption)
    | simp only [Keeps.upd_iff]

theorem takeOverLoad_keeps {s₀ : State} (l : Nat) (t : TakeOver) {s : State} (h : Keeps s₀ s) : Keeps s₀ (takeOverLoad l t s) := by
  unfold takeOverLoad
  try dsimp only
  repeat' first
    | (with_reducible first
        | assumption | apply setTkos_keeps | apply loadThreads_keeps | apply loadCoreCfg_keeps | apply startLcore_keeps | apply setLc_keeps
        | apply ite_keeps)
    | simp only [Keeps.upd_iff] | intro _ _ _ | split

theorem takeOverRelease_keeps {s₀ : State} (l : Nat) (errs : List (Nat × Bool)) {s : State} (h :
    Keeps s₀ s) : Keeps s₀ (takeOverRelease l errs s) := by
  unfold takeOverRelease
  try dsimp only
  repeat' first
    | (with_reducible first | assumption | apply takeOverLoad_keeps | apply freshCore_keeps | apply restoreCode_keeps | apply ite_keeps)
    | simp only [Keeps.upd_iff] | intro _ _ _ | split

theorem restartLcore_keeps {s₀ : State} (p : Part) (l : Nat) {s : State} (h : Keeps s₀ s) : Keeps s₀ (restartLcore p l s) := by
  unfold restartLcore
  try dsimp only
  repeat' first
    | (with_reducible first
        | assumption | apply setCore_keeps | apply startLcore_keeps | apply loadCoreCfg_keeps | apply holdoffLcore_keeps
        | apply foldS_keeps | apply onThread_keeps | apply ite_keeps)
    | simp only [Keeps.upd_iff] | intro _ _ _ | split

theorem replayRestart_keeps {s₀ : State} (n : Nat) (intime : Bool) {s : State} (h : Keeps s₀ s) : Keeps s₀ (replayRestart n intime s) := by
  unfold replayRestart
  try dsimp only
  repeat' first
    | (with_reducible first
        | assumption | apply setPt_keeps | apply foldS_keeps | apply restartLcore_keeps | apply cevt_keeps | apply orReg_keeps
        | apply incSat_keeps | apply notReplayed_keeps | apply setLc_keeps | apply ite_keeps)
    | simp only [Keeps.upd_iff] | intro _ _ _ | split

theorem faultInjection_keeps {s₀ : State} (ini : Initiator) (cst : Nat) (v : Word) {s : State} (h :
    Keeps s₀ s) : Keeps s₀ (faultInjection ini cst v s) := by
  unfold faultInjection
  try dsimp only
  repeat' first
    | (with_reducible first | assumption | apply setLc_keeps | apply orReg_keeps | apply ite_keeps)

end Sys2Proof.Machine
end

