-- ==== Sys2Proof/Laws/KeepsLoader.lean ====
section
/-! SUPPORT. What the operations of the loader, the command processor, flash and external memory, and reset keep: the canonical form of memory,
registers and flash, and the queue of waiting commands. -/

namespace Sys2Proof.Machine

/-! ## Loader -/

theorem onQfa_keeps {s₀ s : State} (f : Qfa → Qfa) (h : Keeps s₀ s) : Keeps s₀ (State.onQfa s f) := by
  unfold State.onQfa
  try dsimp only
  repeat' first
    | (with_reducible first | assumption)
    | simp only [Keeps.upd_iff]

theorem setStage_keeps {s₀ : State} (n : Nat) {s : State} (h : Keeps s₀ s) : Keeps s₀ (setStage n s) := by
  unfold setStage
  try dsimp only
  repeat' first
    | (with_reducible first | assumption | apply setRegFld_keeps)

theorem setBootCode_keeps {s₀ : State} (n : Nat) {s : State} (h : Keeps s₀ s) : Keeps s₀ (setBootCode n s) := by
  unfold setBootCode
  try dsimp only
  repeat' first
    | (with_reducible first | assumption | apply setRegFld_keeps)

theorem qfaFinish_keeps {s₀ : State} (ok : Bool) {s : State} (h : Keeps s₀ s) : Keeps s₀ (qfaFinish ok s) := by
  unfold qfaFinish
  try dsimp only
  repeat' first
    | (with_reducible first | assumption | apply onQfa_keeps | apply orReg_keeps)

theorem qfaFail_keeps {s₀ : State} (e : QErr) {s : State} (h : Keeps s₀ s) : Keeps s₀ (qfaFail e s) := by
  unfold qfaFail
  try dsimp only
  repeat' first
    | (with_reducible first | assumption | apply qfaFinish_keeps | apply setReg_keeps)

theorem qfaCmdErr_keeps {s₀ s : State} (h : Keeps s₀ s) : Keeps s₀ (qfaCmdErr s) := by
  unfold qfaCmdErr
  try dsimp only
  repeat' first
    | (with_reducible first | assumption | apply orReg_keeps)

theorem slotInfo_keeps {s₀ s : State} (h : Keeps s₀ s) : Keeps s₀ (slotInfo s) := by
  unfold slotInfo
  try dsimp only
  repeat' first
    | (with_reducible first | assumption | apply foldS_keeps | apply setReg_keeps)
    | simp only [Keeps.upd_iff] | intro _ _ _

theorem wakeStaging_keeps {s₀ s : State} (h : Keeps s₀ s) : Keeps s₀ (wakeStaging s) := by
  unfold wakeStaging
  try dsimp only
  repeat' first
    | (with_reducible first | assumption | apply wakeSpan_keeps)

theorem qfaCheck_keeps {s₀ : State} (cmd : Nat) {s : State} (h : Keeps s₀ s) : Keeps s₀ (qfaCheck cmd s) := by
  unfold qfaCheck
  try dsimp only
  repeat' first
    | (with_reducible first | assumption | apply wakeStaging_keeps | apply onQfa_keeps | apply setStage_keeps | apply ite_keeps)
    | simp only [Keeps.upd_iff]

theorem qfaFetch_keeps {s₀ : State} (k : Nat) {s : State} (h : Keeps s₀ s) : Keeps s₀ (qfaFetch k s) := by
  unfold qfaFetch
  try dsimp only
  repeat' first
    | (with_reducible first | assumption | apply onQfa_keeps | apply qfaFail_keeps | apply ite_keeps)

theorem qfaStore_keeps {s₀ : State} (k : Nat) {s : State} (h : Keeps s₀ s) : Keeps s₀ (qfaStore k s) := by
  unfold qfaStore
  try dsimp only
  repeat' first
    | (with_reducible first
        | assumption | apply qfaCmdErr_keeps | apply slotInfo_keeps | apply eraseFlash_keeps | apply onQfa_keeps | apply ite_keeps)

theorem qfaArb_keeps {s₀ s : State} (h : Keeps s₀ s) : Keeps s₀ (qfaArb s) := by
  unfold qfaArb
  try dsimp only
  repeat' first
    | (with_reducible first | assumption | apply onQfa_keeps | apply jrnlStart_keeps | apply qfaFinish_keeps | apply ite_keeps)

theorem qfaAbandon_keeps {s₀ s : State} (h : Keeps s₀ s) : Keeps s₀ (qfaAbandon s) := by
  unfold qfaAbandon
  try dsimp only
  repeat' first
    | (with_reducible first | assumption | apply qfaFail_keeps | apply qfaCmdErr_keeps | apply ite_keeps)

theorem qfaCommand_keeps {s₀ : State} (cmd : Nat) (slot : Nat) {s : State} (h : Keeps s₀ s) : Keeps s₀ (qfaCommand cmd slot s) := by
  unfold qfaCommand
  try dsimp only
  repeat' first
    | (with_reducible first
        | assumption | apply qfaAbandon_keeps | apply qfaCmdErr_keeps | apply qfaCheck_keeps | apply qfaFetch_keeps | apply qfaStore_keeps
        | apply qfaArb_keeps | apply ite_keeps)
    | simp only [Keeps.upd_iff] | intro _ _ _ | split

theorem qfaCmdWrite_keeps {s₀ : State} (ini : Initiator) (cmd : Nat) (slot : Nat) {s : State} (h :
    Keeps s₀ s) : Keeps s₀ (qfaCmdWrite ini cmd slot s) := by
  unfold qfaCmdWrite
  try dsimp only
  repeat' first
    | (with_reducible first | assumption | apply qfaCommand_keeps | apply orReg_keeps | apply ite_keeps)

theorem loaderPut_keeps {s₀ : State} (a : Nat) (bs : List Byte) {s : State} (h : Keeps s₀ s) : Keeps s₀ (loaderPut a bs s) := by
  unfold loaderPut
  try dsimp only
  repeat' first
    | (with_reducible first | assumption | apply storeAt_keeps | apply wakeSpan_keeps | apply ite_keeps)
    | simp only [Keeps.upd_iff] | intro _ _ _ | split

theorem loaderZero_keeps {s₀ : State} (a : Nat) (n : Nat) {s : State} (h : Keeps s₀ s) : Keeps s₀ (loaderZero a n s) := by
  unfold loaderZero
  try dsimp only
  repeat' first
    | (with_reducible first
        | assumption | apply noteWrite_keeps | apply cancelWb_keeps | apply zero_keeps | apply wakeSpan_keeps | apply ite_keeps)

theorem applyMem_keeps {s₀ : State} (s0 : State) (m : MemRegion) {s : State} (h : Keeps s₀ s) : Keeps s₀ (applyMem s0 m s) := by
  unfold applyMem
  try dsimp only
  repeat' first
    | (with_reducible first | assumption | apply loaderPut_keeps | apply loaderZero_keeps)

theorem applyCode_keeps {s₀ : State} (s0 : State) (c : CodeRec) {s : State} (h : Keeps s₀ s) : Keeps s₀ (applyCode s0 c s) := by
  unfold applyCode
  try dsimp only
  repeat' first
    | (with_reducible first | assumption | apply loaderPut_keeps | apply loaderZero_keeps | apply ite_keeps)
    | simp only [Keeps.upd_iff] | intro _ _ _ | split

theorem applyThreads_keeps {s₀ : State} (c : CodeRec) {s : State} (h : Keeps s₀ s) : Keeps s₀ (applyThreads c s) := by
  unfold applyThreads
  try dsimp only
  repeat' first
    | (with_reducible first | assumption | apply loadThreads_keeps | apply setLc_keeps | apply ite_keeps)
    | simp only [Keeps.upd_iff] | intro _ _ _ | split

theorem applyFerry_keeps {s₀ : State} (f : FryEnt) {s : State} (h : Keeps s₀ s) : Keeps s₀ (applyFerry f s) := by
  unfold applyFerry
  try dsimp only
  repeat' first
    | (with_reducible first | assumption | apply fryReset_keeps | apply setReg_keeps | apply foldS_keeps | apply onFry_keeps)
    | simp only [Keeps.upd_iff] | intro _ _ _

theorem pitchCore_keeps {s₀ : State} (k : Nat) {s : State} (h : Keeps s₀ s) : Keeps s₀ (pitchCore k s) := by
  unfold pitchCore
  try dsimp only
  repeat' first
    | (with_reducible first | assumption | apply foldS_keeps | apply setThread_keeps | apply setReg_keeps | apply setCore_keeps)
    | simp only [Keeps.upd_iff] | intro _ _ _

theorem applyCompare_keeps {s₀ : State} (restart : Bool) (e : TideEnt) {s : State} (h : Keeps s₀ s) : Keeps s₀ (applyCompare restart e s) := by
  unfold applyCompare
  try dsimp only
  repeat' first
    | (with_reducible first
        | assumption | apply setReg_keeps | apply cmpCtlWrite_keeps | apply cmpTgtLow_keeps | apply cmpArm_keeps | apply setCmp_keeps
        | apply ite_keeps)

theorem pitchTide_keeps {s₀ : State} (s1 : State) {s : State} (h : Keeps s₀ s) : Keeps s₀ (pitchTide s1 s) := by
  unfold pitchTide
  split
  · exact h
  · refine foldS_keeps _ (fun _ _ h => applyCompare_keeps _ _ h) _ _ ?_
    dsimp only
    have k : ∀ (t : State) (w : Nat → Word), Keeps s₀ t → Keeps s₀ (foldS (fun k s => s.setReg (aTideCko k) (w k)) (List.range 4) t) :=
      fun t w ht => foldS_keeps _ (fun _ _ h => setReg_keeps _ _ h) _ _ ht
    repeat' first
      | with_reducible apply ite_keeps
      | with_reducible apply tideRefWrite_keeps
      | with_reducible apply k
      | with_reducible apply setReg_keeps
    all_goals exact Keeps.of_smKeep h rfl rfl rfl rfl

theorem pitchB0On_keeps {s₀ s : State} (h : Keeps s₀ s) : Keeps s₀ (pitchB0On s) := by
  unfold pitchB0On
  extract_lets e0 s1 s2 s3 s4 e1 b e2 p e3 s5 s6
  have k1 : Keeps s₀ s1 := setMode_keeps _ (h.of_eq rfl rfl rfl rfl)
  clear_value s1
  have k2 : Keeps s₀ s2 := ite_keeps (allOn_keeps k1) k1
  clear_value s2
  have k4 : Keeps s₀ s4 := setReg_keeps _ _ (setReg_keeps _ _ (foldS_keeps _ (fun _ _ h => fryReset_keeps _ h) _ _
    (foldS_keeps _ (fun _ _ h => pitchCore_keeps _ h) _ _ k2)))
  clear_value s4
  have k6 : Keeps s₀ s6 := pitchTide_keeps _ (Keeps.of_smKeep k4 rfl rfl rfl rfl)
  clear_value s6
  exact onQfa_keeps _ (ite_keeps k6 (setStage_keeps _ k6))

theorem pitchB0_keeps {s₀ s : State} (h : Keeps s₀ s) : Keeps s₀ (pitchB0 s) := pitchB0On_keeps (wakeStaging_keeps h)

theorem applyIrq_keeps {s₀ : State} (s1 : State) {s : State} (h : Keeps s₀ s) : Keeps s₀ (applyIrq s1 s) := by
  unfold applyIrq
  split
  · exact h
  · extract_lets w s1 s2 s3
    have k1 : Keeps s₀ s1 := Keeps.of_smKeep h rfl rfl rfl rfl
    clear_value s1
    exact foldS_keeps _ (fun _ _ h => setReg_keeps _ _ h) _ _ (foldS_keeps _ (fun _ _ h => setReg_keeps _ _ h) _ _
      (foldS_keeps _ (fun _ _ h => setReg_keeps _ _ h) _ _ k1))

theorem routeMasks_keeps {s₀ s : State} (h : Keeps s₀ s) : Keeps s₀ (routeMasks s) := by
  unfold routeMasks
  try dsimp only
  repeat' first
    | (with_reducible first | assumption | apply foldS_keeps | apply setReg_keeps)
    | simp only [Keeps.upd_iff] | intro _ _ _

theorem applyCamp_keeps {s₀ : State} (s0 : State) {s : State} (h : Keeps s₀ s) : Keeps s₀ (applyCamp s0 s) := by
  unfold applyCamp
  try dsimp only
  repeat' first
    | (with_reducible first | assumption | apply campReset_keeps | apply setReg_keeps | apply campPitch_keeps | apply ite_keeps)
    | simp only [Keeps.upd_iff] | intro _ _ _ | split

theorem applyPart_keeps {s₀ : State} (p : Part) {s : State} (h : Keeps s₀ s) : Keeps s₀ (applyPart p s) := by
  unfold applyPart
  try dsimp only
  repeat' first
    | (with_reducible first | assumption | apply foldS_keeps | apply setReg_keeps)
    | simp only [Keeps.upd_iff] | intro _ _ _

theorem applyHash_keeps {s₀ : State} (s0 : State) {s : State} (h : Keeps s₀ s) : Keeps s₀ (applyHash s0 s) := by
  unfold applyHash
  try dsimp only
  repeat' first
    | (with_reducible first | assumption | apply hashChange_keeps | apply onQfa_keeps | apply setReg_keeps)

theorem applyFull_keeps {s₀ s : State} (h : Keeps s₀ s) : Keeps s₀ (applyFull s) := by
  unfold applyFull
  try dsimp only
  repeat' first
    | (with_reducible first
        | assumption | apply wakeStaging_keeps | apply foldS_keeps | apply opRequest_keeps | apply applyMem_keeps | apply applyCode_keeps
        | apply applyThreads_keeps | apply loadCoreCfg_keeps | apply applyFerry_keeps | apply applyIrq_keeps | apply routeMasks_keeps
        | apply pinLoad_keeps | apply pinReset_keeps | apply applyCamp_keeps | apply setPt_keeps | apply applyPart_keeps
        | apply applyHash_keeps | apply ite_keeps)
    | simp only [Keeps.upd_iff] | intro _ _ _ | split

theorem repitchStopOn_keeps {s₀ : State} (n : Nat) {s : State} (h : Keeps s₀ s) : Keeps s₀ (repitchStopOn n s) := by
  unfold repitchStopOn
  try dsimp only
  repeat' first
    | (with_reducible first
        | assumption | apply foldS_keeps | apply holdoffLcore_keeps | apply setThread_keeps | apply setLc_keeps | apply cmpCtlWrite_keeps
        | apply clrReg_keeps | apply setPt_keeps | apply ite_keeps)
    | simp only [Keeps.upd_iff] | intro _ _ _ | split

theorem repitchStop_keeps {s₀ s : State} (n : Nat) (h : Keeps s₀ s) : Keeps s₀ (repitchStop n s) := repitchStopOn_keeps _ (wakeStaging_keeps h)

theorem armPartition_keeps {s₀ : State} (p : Part) {s : State} (h : Keeps s₀ s) : Keeps s₀ (armPartition p s) := by
  unfold armPartition
  try dsimp only
  repeat' first
    | (with_reducible first | assumption | apply setReg_keeps | apply setCmp_keeps)
    | simp only [Keeps.upd_iff]

theorem applyPartialOn_keeps {s₀ : State} (n : Nat) {s : State} (h : Keeps s₀ s) : Keeps s₀ (applyPartialOn n s) := by
  unfold applyPartialOn
  try dsimp only
  repeat' first
    | (with_reducible first
        | assumption | apply foldS_keeps | apply applyMem_keeps | apply applyFerry_keeps | apply applyCode_keeps | apply onQfa_keeps
        | apply armPartition_keeps | apply ite_keeps)
    | simp only [Keeps.upd_iff] | intro _ _ _ | split

theorem applyPartial_keeps {s₀ s : State} (n : Nat) (h : Keeps s₀ s) : Keeps s₀ (applyPartial n s) := applyPartialOn_keeps _ (wakeStaging_keeps h)

theorem repitchStartOn_keeps {s₀ : State} (n : Nat) {s : State} (h : Keeps s₀ s) : Keeps s₀ (repitchStartOn n s) := by
  unfold repitchStartOn
  try dsimp only
  repeat' first
    | (with_reducible first
        | assumption | apply foldS_keeps | apply setReg_keeps | apply setRegFld_keeps | apply loadCoreCfg_keeps | apply freshCore_keeps
        | apply applyThreads_keeps | apply applyPart_keeps | apply qfaFinish_keeps | apply applyHash_keeps | apply routeMasks_keeps
        | apply ite_keeps)
    | simp only [Keeps.upd_iff] | intro _ _ _ | split

theorem repitchStart_keeps {s₀ s : State} (n : Nat) (h : Keeps s₀ s) : Keeps s₀ (repitchStart n s) := repitchStartOn_keeps _ (wakeStaging_keeps h)

theorem checksComplete_keeps {s₀ s : State} (h : Keeps s₀ s) : Keeps s₀ (checksComplete s) := by
  unfold checksComplete
  try dsimp only
  repeat' first
    | (with_reducible first
        | assumption | apply wakeStaging_keeps | apply qfaFail_keeps | apply qfaFinish_keeps | apply onQfa_keeps | apply ite_keeps)
    | simp only [Keeps.upd_iff] | intro _ _ _ | split

theorem fetchComplete_keeps {s₀ s : State} (h : Keeps s₀ s) : Keeps s₀ (fetchComplete s) := by
  unfold fetchComplete
  try dsimp only
  repeat' first
    | (with_reducible first | assumption | apply loaderPut_keeps | apply qfaFinish_keeps | apply onQfa_keeps | apply ite_keeps)

theorem storeComplete_keeps {s₀ s : State} (h : Keeps s₀ s) : Keeps s₀ (storeComplete s) := by
  unfold storeComplete
  try dsimp only
  repeat' first
    | (with_reducible first
        | assumption | apply wakeStaging_keeps | apply program_keeps | apply qfaFinish_keeps | apply slotInfo_keeps | apply ite_keeps)

theorem stagedReadUe_keeps {s₀ : State} (a : Nat) {s : State} (h : Keeps s₀ s) : Keeps s₀ (stagedReadUe a s) := by
  unfold stagedReadUe
  try dsimp only
  repeat' first
    | (with_reducible first | assumption | apply logUe_keeps | apply qfaFail_keeps | apply setMuteHold_keeps | apply ite_keeps)

/-! ## Commands -/

theorem onSec_keeps {s₀ s : State} (f : CmdProc → CmdProc) (h : Keeps s₀ s) : Keeps s₀ (State.onSec s f) := by
  unfold State.onSec
  try dsimp only
  repeat' first
    | (with_reducible first | assumption)
    | simp only [Keeps.upd_iff]

theorem secCpIn_keeps {s₀ : State} (i : Nat) (v : Word) {s : State} (h : Keeps s₀ s) : Keeps s₀ (secCpIn i v s) := by
  unfold secCpIn
  try dsimp only
  repeat' first
    | (with_reducible first | assumption | apply orReg_keeps | apply setReg_keeps | apply ite_keeps)

theorem secCpGo_keeps {s₀ : State} (v : Word) {s : State} (h : Keeps s₀ s) : Keeps s₀ (secCpGo v s) := by
  unfold secCpGo
  try dsimp only
  repeat' first
    | (with_reducible first | assumption | apply onSec_keeps | apply orReg_keeps | apply ite_keeps)

theorem secCpAck_keeps {s₀ : State} (v : Word) {s : State} (h : Keeps s₀ s) : Keeps s₀ (secCpAck v s) := by
  unfold secCpAck
  try dsimp only
  repeat' first
    | (with_reducible first | assumption | apply clrReg_keeps | apply ite_keeps)

theorem takeChan_keeps {s₀ : State} (ch : Nat) {s : State} (h : Keeps s₀ s) : Keeps s₀ (takeChan ch s) := by
  unfold takeChan
  try dsimp only
  repeat' first
    | (with_reducible first | assumption | apply onSec_keeps | apply onLink_keeps | apply ite_keeps)
    | simp only [Keeps.upd_iff]

theorem chanRespond_keeps {s₀ : State} (ch : Nat) (xid : Nat) (bs : List Byte) {s : State} (h : Keeps s₀ s) : Keeps s₀ (chanRespond ch xid bs s) := by
  unfold chanRespond
  try dsimp only
  repeat' first
    | (with_reducible first
        | assumption | apply setReg_keeps | apply clrReg_keeps | apply orReg_keeps | apply setRegFld_keeps | apply putRegBytes_keeps
        | apply mbRespond_keeps | apply sendResponse_keeps | apply ite_keeps)

theorem cmdReject_keeps {s₀ : State} (ch : Nat) (xid : Nat) (e : List Byte) (status : Nat) (rej : Option Nat) (tagged : Bool) {s : State} (h :
    Keeps s₀ s) : Keeps s₀ (cmdReject ch xid e status rej tagged s) := by
  unfold cmdReject
  try dsimp only
  repeat' first
    | (with_reducible first | assumption | apply orReg_keeps | apply incFld_keeps | apply chanRespond_keeps | apply ite_keeps)
    | simp only [Keeps.upd_iff] | intro _ _ _ | split

theorem cmdRespond_keeps {s₀ : State} (r : CmdReq) (status : Nat) (payload : List Byte) {s : State} (h :
    Keeps s₀ s) : Keeps s₀ (cmdRespond r status payload s) := by
  unfold cmdRespond
  try dsimp only
  repeat' first
    | (with_reducible first | assumption | apply onSec_keeps | apply chanRespond_keeps | apply orReg_keeps)

theorem cmdWait_keeps {s₀ : State} (r : CmdReq) (st1 : CmdStage) {s : State} (h : Keeps s₀ s) : Keeps s₀ (cmdWait r st1 s) := by
  unfold cmdWait
  try dsimp only
  repeat' first
    | (with_reducible first | assumption | apply onSec_keeps)

theorem cmdLoad_keeps {s₀ : State} (r : CmdReq) (v : Nat) {s : State} (h : Keeps s₀ s) : Keeps s₀ (cmdLoad r v s) := by
  unfold cmdLoad
  try dsimp only
  repeat' first
    | (with_reducible first
        | assumption | apply wakeStaging_keeps | apply cmdRespond_keeps | apply cmdWait_keeps | apply qfaCommand_keeps | apply ite_keeps)
    | simp only [Keeps.upd_iff] | intro _ _ _

theorem cmdRepitch_keeps {s₀ : State} (r : CmdReq) (n : Nat) {s : State} (h : Keeps s₀ s) : Keeps s₀ (cmdRepitch r n s) := by
  unfold cmdRepitch
  try dsimp only
  repeat' first
    | (with_reducible first
        | assumption | apply wakeStaging_keeps | apply cmdRespond_keeps | apply qfaCmdErr_keeps | apply cmdWait_keeps
        | apply qfaCommand_keeps | apply ite_keeps)
    | simp only [Keeps.upd_iff] | intro _ _ _

theorem cmdSetMode_keeps {s₀ : State} (r : CmdReq) (code : Nat) {s : State} (h : Keeps s₀ s) : Keeps s₀ (cmdSetMode r code s) := by
  unfold cmdSetMode
  try dsimp only
  repeat' first
    | (with_reducible first
        | assumption | apply onSec_keeps | apply cmdRespond_keeps | apply setMuteHold_keeps | apply modeRequest_keeps | apply ite_keeps)

theorem cmdKeyRoll_keeps {s₀ : State} (r : CmdReq) (k : Nat) (g : Nat) {s : State} (h : Keeps s₀ s) : Keeps s₀ (cmdKeyRoll r k g s) := by
  unfold cmdKeyRoll
  try dsimp only
  repeat' first
    | (with_reducible first | assumption | apply cmdRespond_keeps | apply orReg_keeps | apply onSec_keeps | apply ite_keeps)

theorem cmdUnlock_keeps {s₀ : State} (r : CmdReq) (uid : Nat) (scope : Nat) {s : State} (h : Keeps s₀ s) : Keeps s₀ (cmdUnlock r uid scope s) := by
  unfold cmdUnlock
  try dsimp only
  repeat' first
    | (with_reducible first | assumption | apply cmdRespond_keeps | apply setReg_keeps | apply orRegIf_keeps | apply ite_keeps)

theorem cmdAction_keeps {s₀ : State} (r : CmdReq) {s : State} (h : Keeps s₀ s) : Keeps s₀ (cmdAction r s) := by
  unfold cmdAction
  try dsimp only
  repeat' first
    | (with_reducible first
        | assumption | apply cmdLoad_keeps | apply cmdRespond_keeps | apply cmdRepitch_keeps | apply cmdSetMode_keeps
        | apply setRegFld_keeps | apply cmdKeyRoll_keeps | apply cmdWait_keeps | apply jrnlStart_keeps | apply cmdUnlock_keeps
        | apply helloChange_keeps | apply campAdmit_keeps | apply ite_keeps)
    | simp only [Keeps.upd_iff] | intro _ _ _ | split

theorem cmdExecute_keeps {s₀ : State} (r : CmdReq) {s : State} (h : Keeps s₀ s) : Keeps s₀ (cmdExecute r s) := by
  unfold cmdExecute
  try dsimp only
  repeat' first
    | (with_reducible first | assumption | apply incSat_keeps | apply setReg_keeps | apply cmdAction_keeps | apply cmdWait_keeps)

theorem cmdAccept_keeps {s₀ : State} (ch : Nat) (xid : Nat) (e : List Byte) {s : State} (h : Keeps s₀ s) : Keeps s₀ (cmdAccept ch xid e s) := by
  unfold cmdAccept
  try dsimp only
  repeat' first
    | (with_reducible first
        | assumption | apply cmdReject_keeps | apply chanRespond_keeps | apply cmdWait_keeps | apply jrnlStart_keeps
        | apply cmdExecute_keeps | apply ite_keeps)
    | simp only [Keeps.upd_iff] | intro _ _ _ | split

theorem bootNext_keeps {s₀ s : State} (h : Keeps s₀ s) : Keeps s₀ (bootNext s) := by
  unfold bootNext
  try dsimp only
  repeat' first
    | (with_reducible first
        | assumption | apply setStage_keeps | apply setBootCode_keeps | apply qfaFetch_keeps | apply setRegFld_keeps | apply ite_keeps)
    | simp only [Keeps.upd_iff] | intro _ _ _ | split

theorem bootAfter_keeps {s₀ : State} (ok : Bool) {s : State} (h : Keeps s₀ s) : Keeps s₀ (bootAfter ok s) := by
  unfold bootAfter
  try dsimp only
  repeat' first
    | (with_reducible first | assumption | apply setStage_keeps | apply qfaCommand_keeps | apply bootNext_keeps | apply ite_keeps)
    | simp only [Keeps.upd_iff]

theorem cmdAfter_keeps {s₀ : State} (ok : Bool) (r : CmdReq) {s : State} (h : Keeps s₀ s) : Keeps s₀ (cmdAfter ok r s) := by
  unfold cmdAfter
  try dsimp only
  repeat' first
    | (with_reducible first
        | assumption | apply cmdWait_keeps | apply qfaArb_keeps | apply cmdRespond_keeps | apply qfaStore_keeps | apply ite_keeps)
    | simp only [Keeps.upd_iff] | intro _ _ _ | split

theorem loaderNext_keeps {s₀ : State} (fuel : Nat) : ∀ {s : State}, Keeps s₀ s → Keeps s₀ (loaderNext fuel s) := by
  induction fuel with
  | zero => exact fun h => h
  | succ fuel ih =>
    intro s h
    unfold loaderNext
    split
    · exact h
    · extract_lets s1 s2
      have k1 : Keeps s₀ s1 := onQfa_keeps _ h
      clear_value s1
      have k2 : Keeps s₀ s2 := by
        simp only [s2]; split
        · exact setStage_keeps _ k1
        · exact k1
      clear_value s2
      split
      · exact ih (bootAfter_keeps _ k1)
      · split
        · exact ih (cmdAfter_keeps _ _ k2)
        · exact k2

theorem commandEnvelope_keeps {s₀ s : State} (h : Keeps s₀ s) : Keeps s₀ (commandEnvelope s) := by
  unfold commandEnvelope
  try dsimp only
  repeat' first
    | (with_reducible first
        | assumption | apply loaderNext_keeps | apply cmdAccept_keeps | apply onSec_keeps | apply takeChan_keeps | apply ite_keeps)
    | simp only [Keeps.upd_iff] | intro _ _ _ | split

theorem jrnlAfter_keeps {s₀ s : State} (ok : Bool) (o : JOp) (h : Keeps s₀ s) : Keeps s₀ (jrnlAfter ok o s) := by
  unfold jrnlAfter
  generalize s.sec.cur = cur
  cases o <;> cases cur <;> dsimp only
  all_goals repeat' first
    | with_reducible assumption
    | with_reducible apply ite_keeps
    | with_reducible apply cmdExecute_keeps
    | with_reducible apply setCeiling_keeps
    | with_reducible apply onSec_keeps
    | with_reducible apply cmdReject_keeps
    | with_reducible apply cmdRespond_keeps
    | with_reducible apply qfaFinish_keeps
    | with_reducible apply setReg_keeps

theorem journalComplete_keeps {s₀ : State} (ok : Bool) {s : State} (h : Keeps s₀ s) : Keeps s₀ (journalComplete ok s) := by
  unfold journalComplete
  try dsimp only
  repeat' first
    | (with_reducible first | assumption | apply jrnlEnd_keeps | apply loaderNext_keeps | apply jrnlAfter_keeps | apply ite_keeps)
    | simp only [Keeps.upd_iff] | intro _ _ _ | split

/-! ## QuafaRows -/

theorem applyEnd_keeps {s₀ s : State} (h : Keeps s₀ s) : Keeps s₀ (applyEnd s) := by
  unfold applyEnd
  try dsimp only
  repeat' first
    | (with_reducible first
        | assumption | apply qfaFinish_keeps | apply applyFull_keeps | apply setStage_keeps | apply onQfa_keeps | apply ite_keeps)

theorem releasePoint_keeps {s₀ : State} (us : Nat) {s : State} (h : Keeps s₀ s) : Keeps s₀ (releasePoint us s) := by
  unfold releasePoint
  try dsimp only
  repeat' first
    | (with_reducible first
        | assumption | apply enterMode_keeps | apply onQfa_keeps | apply setStage_keeps | apply setReg_keeps | apply foldS_keeps
        | apply armPartition_keeps | apply fryStart_keeps | apply ite_keeps)
    | simp only [Keeps.upd_iff] | intro _ _ _

/-! ## DdrFlash -/

theorem ddrEcc_keeps {s₀ : State} (a : Nat) (ue : Bool) {s : State} (h : Keeps s₀ s) : Keeps s₀ (ddrEcc a ue s) := by
  unfold ddrEcc
  try dsimp only
  repeat' first
    | (with_reducible first
        | assumption | apply orReg_keeps | apply setReg_keeps | apply incSat_keeps | apply orRegIf_keeps | apply ite_keeps)

theorem flashReneg_keeps {s₀ : State} (v : Word) {s : State} (h : Keeps s₀ s) : Keeps s₀ (flashReneg v s) := by
  unfold flashReneg
  try dsimp only
  repeat' first
    | (with_reducible first | assumption | apply orReg_keeps | apply ite_keeps)

theorem flashSettle_keeps {s₀ : State} (modes : Nat) (sfdp : Bool) {s : State} (h : Keeps s₀ s) : Keeps s₀ (flashSettle modes sfdp s) := by
  unfold flashSettle
  try dsimp only
  repeat' first
    | (with_reducible first | assumption | apply setReg_keeps)

/-! ## Reset -/

theorem onPwr_keeps {s₀ s : State} (f : Pwr → Pwr) (h : Keeps s₀ s) : Keeps s₀ (State.onPwr s f) := by
  unfold State.onPwr
  try dsimp only
  repeat' first
    | (with_reducible first | assumption)
    | simp only [Keeps.upd_iff]

theorem keepRegs_keeps {s₀ s : State} (p : Nat → Bool) (h : Keeps s₀ s) : Keeps s₀ (s.keepRegs p) :=
  Keeps.of_smKeep h rfl rfl rfl rfl

theorem coldState_keeps {s₀ s : State} (h : Keeps s₀ s) : Keeps s₀ (coldState s) :=
  ⟨h.1, fun c => by
    have := h.2 c; rw [canonical_iff] at this ⊢
    exact ⟨rfl, rfl, this.2.2⟩⟩

theorem toBoot_keeps {s₀ s : State} (h : Keeps s₀ s) : Keeps s₀ (toBoot s) := by
  unfold toBoot
  try dsimp only
  repeat' first
    | (with_reducible first | assumption | apply orReg_keeps | apply onPwr_keeps)

theorem sampleStraps_keeps {s₀ : State} (straps : BitVec 8) {s : State} (h : Keeps s₀ s) : Keeps s₀ (sampleStraps straps s) := by
  unfold sampleStraps
  try dsimp only
  repeat' first
    | (with_reducible first | assumption | apply setReg_keeps)

theorem powerOn_keeps {s₀ : State} (straps : BitVec 8) {s : State} (h : Keeps s₀ s) : Keeps s₀ (powerOn straps s) := by
  unfold powerOn
  try dsimp only
  repeat' first
    | (with_reducible first | assumption | apply onPwr_keeps | apply sampleStraps_keeps | apply toBoot_keeps | apply ite_keeps)

/-- What a WARM reset leaves of the registers has their form. -/
theorem smWf_warmRegs (m : SMap Word) : smWf regDefault (warmRegs m) = true := by
  have h : ∀ (es : SMap Word) (r : SMap Word), smWf regDefault r = true →
      smWf regDefault (es.foldl (fun r e => smSet regDefault r e.1 (e.2 &&& warmMask e.1)) r) = true := by
    intro es
    induction es with
    | nil => exact fun _ h => h
    | cons e es ih => exact fun r h => ih _ (smWf_smSet _ _ _ _ h)
  exact h _ _ rfl

theorem warmReset_keeps {s₀ s : State} (cause : Word) (h : Keeps s₀ s) : Keeps s₀ (warmReset cause s) :=
  ⟨h.1, fun c => by
    have := h.2 c; rw [canonical_iff] at this ⊢
    exact ⟨smWf_smKeep _ _ _ this.1, smWf_smSet _ _ _ _ (smWf_warmRegs _), this.2.2⟩⟩

theorem resetRise_keeps {s₀ s : State} (h : Keeps s₀ s) : Keeps s₀ (resetRise s) := by
  unfold resetRise
  try dsimp only
  repeat' first
    | (with_reducible first | assumption | apply onPwr_keeps | apply toBoot_keeps | apply orReg_keeps | apply ite_keeps)

theorem anchorReset_keeps {s₀ : State} (ms : Bool) {s : State} (h : Keeps s₀ s) : Keeps s₀ (anchorReset ms s) := by
  unfold anchorReset
  try dsimp only
  repeat' first
    | (with_reducible first | assumption | apply warmReset_keeps | apply setMuteHold_keeps | apply toBoot_keeps | apply ite_keeps)
    | simp only [Keeps.upd_iff] | intro _ _ _ | split

theorem clusterReset_keeps {s₀ : State} (c : Nat) (lost : List Nat) {s : State} (h : Keeps s₀ s) : Keeps s₀ (clusterReset c lost s) := by
  unfold clusterReset
  try dsimp only
  repeat' first
    | (with_reducible first
        | assumption | apply orReg_keeps | apply foldS_keeps | apply coreReset_keeps | apply fryReset_keeps | apply setReg_keeps
        | apply cancelWb_keeps | apply zero_keeps | apply setRegFld_keeps | apply ite_keeps)
    | simp only [Keeps.upd_iff] | intro _ _ _

theorem degradedClear_keeps {s₀ s : State} (h : Keeps s₀ s) : Keeps s₀ (degradedClear s) := by
  unfold degradedClear
  try dsimp only
  repeat' first
    | (with_reducible first | assumption | apply clrReg_keeps | apply ite_keeps)

theorem clusterResetDone_keeps {s₀ : State} (c : Nat) {s : State} (h : Keeps s₀ s) : Keeps s₀ (clusterResetDone c s) := by
  unfold clusterResetDone
  try dsimp only
  repeat' first
    | (with_reducible first
        | assumption | apply foldS_keeps | apply setReg_keeps | apply degradedClear_keeps | apply showLost_keeps
        | apply crossingReset_keeps | apply clrReg_keeps | apply ite_keeps)
    | simp only [Keeps.upd_iff] | intro _ _ _

theorem muteSet_keeps {s₀ : State} (v : Word) {s : State} (h : Keeps s₀ s) : Keeps s₀ (muteSet v s) := by
  unfold muteSet
  try dsimp only
  repeat' first
    | (with_reducible first | assumption | apply setMuteHold_keeps | apply ite_keeps)

theorem loadHeader_keeps {s₀ : State} (o : Nat) {s : State} (h : Keeps s₀ s) : Keeps s₀ (loadHeader o s) := by
  unfold loadHeader
  try dsimp only
  repeat' first
    | (with_reducible first | assumption | apply setReg_keeps | apply setRegFld_keeps)

theorem ddrTrain_keeps {s₀ : State} (e : BootEnv) {s : State} (h : Keeps s₀ s) : Keeps s₀ (ddrTrain e s) := by
  unfold ddrTrain
  try dsimp only
  repeat' first
    | (with_reducible first | assumption | apply setReg_keeps)
    | simp only [Keeps.upd_iff]

theorem bootWait_keeps {s₀ : State} (stage : Nat) {s : State} (h : Keeps s₀ s) : Keeps s₀ (bootWait stage s) := by
  unfold bootWait
  try dsimp only
  repeat' first
    | (with_reducible first | assumption | apply setStage_keeps)
    | simp only [Keeps.upd_iff]

theorem bootSource_keeps {s₀ s : State} (h : Keeps s₀ s) : Keeps s₀ (bootSource s) := by
  unfold bootSource
  try dsimp only
  repeat' first
    | (with_reducible first
        | assumption | apply bootWait_keeps | apply setRegFld_keeps | apply setBootCode_keeps | apply qfaFetch_keeps | apply setStage_keeps
        | apply ite_keeps)
    | simp only [Keeps.upd_iff] | intro _ _ _ | split

theorem bootRun_keeps {s₀ s : State} (e : BootEnv) (h : Keeps s₀ s) : Keeps s₀ (bootRun e s) := by
  unfold bootRun
  split
  · exact h
  · extract_lets s1 s2
    have k1 : Keeps s₀ s1 := h.of_mem rfl rfl rfl (fun c => smWf_smKeep _ _ _ c)
    have k2 : Keeps s₀ s2 := flashSettle_keeps _ _ (setReg_keeps _ _ (setReg_keeps _ _ k1))
    clear_value s2
    split
    · exact bootWait_keeps _ (setBootCode_keeps _ (jrnlBoot_keeps _ k2))
    · split
      · exact bootWait_keeps _ (setBootCode_keeps _ (jrnlBoot_keeps _ k2))
      · refine bootSource_keeps (slotInfo_keeps (foldS_keeps _ (fun n s h => ?_) _ _ (ddrTrain_keeps _ (jrnlBoot_keeps _
          (loadHeader_keeps _ (setRegFld_keeps _ _ _ _ k2))))))
        split
        · exact strCtlWrite_keeps _ _ h
        · exact h

theorem lowPowerDone_keeps {s₀ s : State} (h : Keeps s₀ s) : Keeps s₀ (lowPowerDone s) := by
  unfold lowPowerDone
  try dsimp only
  repeat' first
    | (with_reducible first
        | assumption | apply linksDown_keeps | apply foldS_keeps | apply fryPause_keeps | apply onPwr_keeps | apply pcieL1_keeps
        | apply setMode_keeps | apply leaveNeap_keeps | apply vrAdvance_keeps | apply ite_keeps)
    | simp only [Keeps.upd_iff] | intro _ _ _ | split

theorem bivouacReturn_keeps {s₀ s : State} (h : Keeps s₀ s) : Keeps s₀ (bivouacReturn s) := by
  unfold bivouacReturn
  try dsimp only
  repeat' first
    | (with_reducible first
        | assumption | apply onPwr_keeps | apply pcieL1_keeps | apply foldS_keeps | apply fryResume_keeps | apply orReg_keeps
        | apply vrAdvance_keeps | apply capOps_keeps | apply enterMode_keeps | apply ite_keeps)
    | simp only [Keeps.upd_iff] | intro _ _ _

theorem lanternBoot_keeps {s₀ s : State} (straps : BitVec 8) (h : Keeps s₀ s) : Keeps s₀ (lanternBoot straps s) := by
  unfold lanternBoot
  split
  · extract_lets c s1 s2 s3
    have k1 : Keeps s₀ s1 := ⟨h.1, fun c => by
      have := h.2 c; rw [canonical_iff] at this ⊢
      exact ⟨rfl, smWf_smKeep _ _ _ this.2.1, this.2.2⟩⟩
    have k3 : Keeps s₀ s3 := orReg_keeps _ _ (orReg_keeps _ _ (sampleStraps_keeps _ k1))
    clear_value s3
    split
    · exact toBoot_keeps k3
    · exact k3
  · exact h

end Sys2Proof.Machine
end

