-- ==== Sys2Proof/Laws/KeepsAccess.lean ====
section
/-! SUPPORT. What the operations of the rows of cores, sources, Ferry and memory, register and memory accesses, and the compares keep: the canonical form of memory,
registers and flash, and the queue of waiting commands. -/

namespace Sys2Proof.Machine

/-! ## CoreRows -/

theorem longRetire_keeps {s₀ : State} (k : Fin 144) (t : Fin 4) (j : Nat) (dt : Nat) (ecc : List EccHit) {s : State} (h :
    Keeps s₀ s) : Keeps s₀ (longRetire k t j dt ecc s) := by
  unfold longRetire
  try dsimp only
  repeat' first
    | (with_reducible first | assumption | apply advance_keeps | apply takeImprec_keeps | apply setThread_keeps | apply ite_keeps)
    | simp only [Keeps.upd_iff] | intro _ _ _ | split

theorem interruptEntry_keeps {s₀ : State} (k : Fin 144) (t : Fin 4) (dt : Nat) (ecc : List EccHit) {s : State} (h :
    Keeps s₀ s) : Keeps s₀ (interruptEntry k t dt ecc s) := by
  unfold interruptEntry
  try dsimp only
  repeat' first
    | (with_reducible first
        | assumption | apply advance_keeps | apply onThread_keeps | apply takeImprec_keeps | apply endShadow_keeps | apply setThread_keeps
        | apply enter_keeps | apply ite_keeps)
    | simp only [Keeps.upd_iff] | intro _ _ _ | split

theorem release_keeps {s₀ s : State} (id : Nat) (h : Keeps s₀ s) : Keeps s₀ (State.release s id) := by
  unfold State.release
  try dsimp only
  repeat' first
    | (with_reducible first | assumption | apply dropReq_keeps | apply ite_keeps)

theorem fetchArrive_keeps {s₀ : State} (k : Fin 144) (t : Fin 4) (id : Nat) (dt : Nat) {s : State} (h :
    Keeps s₀ s) : Keeps s₀ (fetchArrive k t id dt s) := by
  unfold fetchArrive
  try dsimp only
  repeat' first
    | (with_reducible first
        | assumption | apply advance_keeps | apply setThread_keeps | apply setCore_keeps | apply release_keeps | apply ite_keeps)
    | simp only [Keeps.upd_iff] | intro _ _ _ | split

theorem dropParts_keeps {s₀ : State} (ps : List FarPart) {s : State} (h : Keeps s₀ s) : Keeps s₀ (dropParts ps s) := by
  unfold dropParts
  try dsimp only
  repeat' first
    | (with_reducible first | assumption | apply foldS_keeps | apply release_keeps | apply ite_keeps)
    | simp only [Keeps.upd_iff] | intro _ _ _

theorem installParts_keeps {s₀ : State} (k : Nat) (late : List (Nat × List Byte)) (ps : List FarPart) {s : State} (h :
    Keeps s₀ s) : Keeps s₀ (installParts k late ps s) := by
  unfold installParts
  try dsimp only
  repeat' first
    | (with_reducible first | assumption | apply foldS_keeps | apply setCore_keeps)
    | simp only [Keeps.upd_iff] | intro _ _ _

theorem finishFar_keeps {s₀ : State} (k : Fin 144) (t : Fin 4) (clk : Nat) (fs : List FarLoad) :
    ∀ {s : State}, Keeps s₀ s → Keeps s₀ (finishFar k t clk fs s) := by
  induction fs with
  | nil => exact fun h => h
  | cons f fs ih =>
    intro s h
    unfold finishFar
    dsimp only
    split
    · exact h
    · exact ih (ite_keeps (installParts_keeps _ _ _ (setThread_keeps _ _ _ h)) (setThread_keeps _ _ _ h))

theorem farArrive_keeps {s₀ : State} (k : Fin 144) (t : Fin 4) (id : Nat) (dt : Nat) (ecc : List EccHit) {s : State} (h :
    Keeps s₀ s) : Keeps s₀ (farArrive k t id dt ecc s) := by
  unfold farArrive
  try dsimp only
  repeat' first
    | (with_reducible first
        | assumption | apply advance_keeps | apply release_keeps | apply finishFar_keeps | apply setThread_keeps | apply dropParts_keeps
        | apply takeImprec_keeps | apply onThread_keeps | apply ite_keeps)
    | simp only [Keeps.upd_iff] | intro _ _ _ | split

theorem fillArrive_keeps {s₀ : State} (k : Fin 144) (t : Fin 4) (id : Nat) (dt : Nat) (ecc : List EccHit) {s : State} (h :
    Keeps s₀ s) : Keeps s₀ (fillArrive k t id dt ecc s) := by
  unfold fillArrive
  try dsimp only
  repeat' first
    | (with_reducible first
        | assumption | apply advance_keeps | apply release_keeps | apply setThread_keeps | apply takeImprec_keeps | apply ite_keeps)
    | simp only [Keeps.upd_iff] | intro _ _ _ | split

theorem spillEnds_keeps {s₀ : State} (id : Nat) {s : State} (h : Keeps s₀ s) : Keeps s₀ (spillEnds id s) := by
  unfold spillEnds
  try dsimp only
  repeat' first
    | (with_reducible first | assumption)
    | simp only [Keeps.upd_iff]

theorem postedAck_keeps {s₀ : State} (k : Fin 144) (t : Fin 4) (id : Nat) (dt : Nat) {s : State} (h :
    Keeps s₀ s) : Keeps s₀ (postedAck k t id dt s) := by
  unfold postedAck
  try dsimp only
  repeat' first
    | (with_reducible first
        | assumption | apply advance_keeps | apply postedFault_keeps | apply stateFault_keeps | apply postedFaultLog_keeps
        | apply spillEnds_keeps | apply dropReq_keeps | apply onThread_keeps | apply ite_keeps)
    | simp only [Keeps.upd_iff] | intro _ _ _ | split

theorem sbStep_keeps {s₀ : State} (k : Fin 144) (t : Fin 4) (clk : Nat) (f : FarLoad) {s : State} (h :
    Keeps s₀ s) : Keeps s₀ (sbStep k t clk f s) := by
  unfold sbStep
  try dsimp only
  repeat' first
    | (with_reducible first | assumption | apply onThread_keeps | apply lateLoad_keeps | apply ite_keeps)

theorem sbDrain_keeps {s₀ : State} (k : Fin 144) (t : Fin 4) (dt : Nat) {s : State} (h : Keeps s₀ s) : Keeps s₀ (sbDrain k t dt s) := by
  unfold sbDrain
  try dsimp only
  repeat' first
    | (with_reducible first
        | assumption | apply advance_keeps | apply memStore_keeps | apply setCore_keeps | apply foldS_keeps | apply sbStep_keeps
        | apply setThread_keeps | apply ite_keeps)
    | simp only [Keeps.upd_iff] | intro _ _ _ | split

theorem icInvalidate_keeps {s₀ : State} (k : Nat) {s : State} (h : Keeps s₀ s) : Keeps s₀ (icInvalidate k s) := by
  unfold icInvalidate
  try dsimp only
  repeat' first
    | (with_reducible first | assumption | apply foldS_keeps | apply onThread_keeps | apply setCore_keeps)
    | simp only [Keeps.upd_iff] | intro _ _ _

theorem dcInvalidate_keeps {s₀ : State} (k : Nat) {s : State} (h : Keeps s₀ s) : Keeps s₀ (dcInvalidate k s) := by
  unfold dcInvalidate
  try dsimp only
  repeat' first
    | (with_reducible first | assumption | apply foldS_keeps | apply onThread_keeps | apply setCore_keeps)
    | simp only [Keeps.upd_iff] | intro _ _ _

theorem counterClear_keeps {s₀ : State} (k : Nat) {s : State} (h : Keeps s₀ s) : Keeps s₀ (counterClear k s) := by
  unfold counterClear
  try dsimp only
  repeat' first
    | (with_reducible first | assumption | apply setCore_keeps | apply foldS_keeps | apply setReg_keeps)
    | simp only [Keeps.upd_iff] | intro _ _ _

theorem ptimerExpire_keeps {s₀ : State} (k : Fin 144) (t : Nat) (dt : Nat) {s : State} (h : Keeps s₀ s) : Keeps s₀ (ptimerExpire k t dt s) := by
  unfold ptimerExpire
  try dsimp only
  repeat' first
    | (with_reducible first | assumption | apply onThread_keeps | apply advance_keeps | apply ite_keeps)

/-! ## IcRows -/

theorem icClaimRow_keeps {s₀ : State} (slot : Fin 144) (thr : Fin 4) {s : State} (h : Keeps s₀ s) : Keeps s₀ (icClaimRow slot thr s) := by
  unfold icClaimRow
  try dsimp only
  repeat' first
    | (with_reducible first | assumption | apply claim_keeps | apply setReqSt_keeps | apply ite_keeps)
    | simp only [Keeps.upd_iff] | intro _ _ _ | split

theorem icDone_keeps {s₀ : State} (ini : Initiator) (id : Nat) {s : State} (h : Keeps s₀ s) : Keeps s₀ (icDone ini id s) := by
  unfold icDone
  try dsimp only
  repeat' first
    | (with_reducible first | assumption | apply complete_keeps | apply orReg_keeps | apply ite_keeps)
    | simp only [Keeps.upd_iff] | intro _ _ _ | split

/-! ## FerryRows -/

theorem fryRun_keeps {s₀ : State} (n : Nat) (want : FInstr → Bool) {s : State} (h : Keeps s₀ s) : Keeps s₀ (fryRun n want s) := by
  unfold fryRun
  try dsimp only
  repeat' first
    | (with_reducible first | assumption | apply fryStep_keeps)

theorem abortEdge_keeps {s₀ : State} (n : Nat) (e : AbortEdge) {s : State} (h : Keeps s₀ s) : Keeps s₀ (abortEdge n e s) := by
  unfold abortEdge
  try dsimp only
  repeat' first
    | (with_reducible first
        | assumption | apply fryFetched_keeps | apply fryReadData_keeps | apply fryWriteAck_keeps | apply fryRun_keeps | apply ite_keeps)
    | simp only [Keeps.upd_iff] | intro _ _ _ | split

theorem abortRow_keeps {s₀ : State} (n : Nat) (e : AbortEdge) {s : State} (h : Keeps s₀ s) : Keeps s₀ (abortRow n e s) := by
  unfold abortRow
  try dsimp only
  repeat' first
    | (with_reducible first
        | assumption | apply abortEdge_keeps | apply fryFlag_keeps | apply setReg_keeps | apply onFry_keeps | apply fryAbort_keeps
        | apply ite_keeps)

theorem flagWord_keeps {s₀ : State} (set : Bool) (hi : Bool) (v : Word) {s : State} (h : Keeps s₀ s) : Keeps s₀ (flagWord set hi v s) := by
  unfold flagWord
  try dsimp only
  repeat' first
    | (with_reducible first | assumption | apply foldS_keeps | apply flagSet_keeps | apply flagClr_keeps | apply ite_keeps)
    | simp only [Keeps.upd_iff] | intro _ _ _

/-! ## Regs -/

theorem icCntRead_keeps {s₀ : State} (j : Nat) {s : State} (h : Keeps s₀ s) : Keeps s₀ (icCntRead j s).1 := by
  unfold icCntRead
  try dsimp only
  repeat' first
    | (with_reducible first | assumption | apply foldS_keeps | apply setSrc_keeps)
    | simp only [Keeps.upd_iff] | intro _ _ _

theorem ramNext_keeps {s₀ s : State} (h : Keeps s₀ s) : Keeps s₀ (ramNext s) := by
  unfold ramNext
  try dsimp only
  repeat' first
    | (with_reducible first | assumption | apply setReg_keeps)

theorem ramRead_keeps {s₀ : State} (ecc : EccHit) {s : State} (h : Keeps s₀ s) : Keeps s₀ (ramRead ecc s).1 := by
  unfold ramRead
  try dsimp only
  repeat' first
    | (with_reducible first | assumption | apply orReg_keeps | apply ramNext_keeps | apply ite_keeps)
    | simp only [Keeps.upd_iff] | intro _ _ _ | split

theorem plainRead_keeps {s₀ : State} (a : Nat) {s : State} (h : Keeps s₀ s) : Keeps s₀ (plainRead a s).1 := by
  unfold plainRead
  try dsimp only
  repeat' first
    | (with_reducible first | assumption | apply clrReg_keeps | apply ite_keeps)
    | simp only [Keeps.upd_iff] | intro _ _ _ | split

theorem regRead_keeps {s₀ : State} (ini : Initiator) (cst : Nat) (ecc : EccHit) (a : Nat) {s : State} (h :
    Keeps s₀ s) : Keeps s₀ (regRead ini cst ecc a s).1 := by
  unfold regRead
  try dsimp only
  repeat' first
    | (with_reducible first
        | assumption | apply claim_keeps | apply icCntRead_keeps | apply ramRead_keeps | apply evPop_keeps | apply rxfRead_keeps
        | apply plainRead_keeps | apply ite_keeps)
    | simp only [Keeps.upd_iff] | intro _ _ _ | split

theorem plainWrite_keeps {s₀ : State} (a : Nat) (v : Word) {s : State} (h : Keeps s₀ s) : Keeps s₀ (plainWrite a v s) := by
  unfold plainWrite
  try dsimp only
  repeat' first
    | (with_reducible first | assumption | apply setReg_keeps | apply ite_keeps)
    | simp only [Keeps.upd_iff] | intro _ _ _ | split

theorem tempoSoft_keeps {s₀ : State} (locate : Bool) {s : State} (h : Keeps s₀ s) : Keeps s₀ (tempoSoft locate s) := by
  unfold tempoSoft
  try dsimp only
  repeat' first
    | (with_reducible first | assumption | apply orReg_keeps | apply tempoSend_keeps | apply tempoPushEntry_keeps | apply ite_keeps)

theorem sysWrite_keeps {s₀ : State} (ini : Initiator) (cst : Nat) (a : Nat) (v : Word) {s : State} (h :
    Keeps s₀ s) : Keeps s₀ (sysWrite ini cst a v s) := by
  unfold sysWrite
  try dsimp only
  repeat' first
    | (with_reducible first
        | assumption | apply modeRequest_keeps | apply muteSet_keeps | apply clusterReset_keeps | apply flashReneg_keeps
        | apply plainWrite_keeps | apply ite_keeps)

theorem tideWrite_keeps {s₀ : State} (a : Nat) (v : Word) {s : State} (h : Keeps s₀ s) : Keeps s₀ (tideWrite a v s) := by
  unfold tideWrite
  try dsimp only
  repeat' first
    | (with_reducible first
        | assumption | apply tideRefWrite_keeps | apply plainWrite_keeps | apply snapshot_keeps | apply tempoSoft_keeps
        | apply tempoFlush_keeps | apply cmpTgtLow_keeps | apply cmpArm_keeps | apply cmpCtlWrite_keeps | apply ite_keeps)
    | simp only [Keeps.upd_iff] | intro _ _ _ | split

theorem icWrite_keeps {s₀ : State} (ini : Initiator) (cst : Nat) (a : Nat) (v : Word) {s : State} (h :
    Keeps s₀ s) : Keeps s₀ (icWrite ini cst a v s) := by
  unfold icWrite
  try dsimp only
  repeat' first
    | (with_reducible first
        | assumption | apply icDone_keeps | apply icDbell_keeps | apply icPend_keeps | apply icMask_keeps | apply plainWrite_keeps
        | apply orReg_keeps | apply icSrcCfg_keeps | apply ite_keeps)

theorem qfaWrite_keeps {s₀ : State} (ini : Initiator) (cst : Nat) (a : Nat) (v : Word) {s : State} (h :
    Keeps s₀ s) : Keeps s₀ (qfaWrite ini cst a v s) := by
  unfold qfaWrite
  try dsimp only
  repeat' first
    | (with_reducible first
        | assumption | apply orReg_keeps | apply loaderNext_keeps | apply qfaCommand_keeps | apply onQfa_keeps | apply plainWrite_keeps
        | apply qfaCmdErr_keeps | apply ite_keeps)

theorem ckpWrite_keeps {s₀ : State} (ini : Initiator) (cst : Nat) (a : Nat) (v : Word) {s : State} (h :
    Keeps s₀ s) : Keeps s₀ (ckpWrite ini cst a v s) := by
  unfold ckpWrite
  try dsimp only
  repeat' first
    | (with_reducible first | assumption | apply opRequest_keeps | apply vrRetry_keeps | apply plainWrite_keeps | apply ite_keeps)

theorem lantWrite_keeps {s₀ : State} (a : Nat) (v : Word) {s : State} (h : Keeps s₀ s) : Keeps s₀ (lantWrite a v s) := by
  unfold lantWrite
  try dsimp only
  repeat' first
    | (with_reducible first | assumption | apply plainWrite_keeps | apply wokeClear_keeps | apply ramNext_keeps | apply ite_keeps)
    | simp only [Keeps.upd_iff]

theorem secWrite_keeps {s₀ : State} (ini : Initiator) (cst : Nat) (a : Nat) (v : Word) {s : State} (h :
    Keeps s₀ s) : Keeps s₀ (secWrite ini cst a v s) := by
  unfold secWrite
  try dsimp only
  repeat' first
    | (with_reducible first
        | assumption | apply secCpIn_keeps | apply secCpGo_keeps | apply secCpAck_keeps | apply plainWrite_keeps | apply ite_keeps)

theorem jrnlWrite_keeps {s₀ : State} (ini : Initiator) (cst : Nat) (a : Nat) (v : Word) {s : State} (h :
    Keeps s₀ s) : Keeps s₀ (jrnlWrite ini cst a v s) := by
  unfold jrnlWrite
  try dsimp only
  repeat' first
    | (with_reducible first | assumption | apply jrnlWr_keeps | apply jrnlRd_keeps | apply plainWrite_keeps | apply ite_keeps)

theorem eviWrite_keeps {s₀ : State} (a : Nat) (v : Word) {s : State} (h : Keeps s₀ s) : Keeps s₀ (eviWrite a v s) := by
  unfold eviWrite
  try dsimp only
  repeat' first
    | (with_reducible first
        | assumption | apply evCfgWrite_keeps | apply evPinCfg_keeps | apply evFlush_keeps | apply plainWrite_keeps | apply ite_keeps)

theorem pinWrite_keeps {s₀ : State} (a : Nat) (v : Word) {s : State} (h : Keeps s₀ s) : Keeps s₀ (pinWrite a v s) := by
  unfold pinWrite
  try dsimp only
  repeat' first
    | (with_reducible first
        | assumption | apply pinSelWrite_keeps | apply gpioOut_keeps | apply gpioSet_keeps | apply gpioClr_keeps | apply gpioTgl_keeps
        | apply gpioOeWrite_keeps | apply plainWrite_keeps | apply ite_keeps)

theorem pcieWrite_keeps {s₀ : State} (ini : Initiator) (cst : Nat) (a : Nat) (v : Word) {s : State} (h :
    Keeps s₀ s) : Keeps s₀ (pcieWrite ini cst a v s) := by
  unfold pcieWrite
  try dsimp only
  repeat' first
    | (with_reducible first
        | assumption | apply plainWrite_keeps | apply clrReg_keeps | apply orReg_keeps | apply msixCtlWrite_keeps | apply mbInWrite_keeps
        | apply mbGo_keeps | apply mbAck_keeps | apply ite_keeps)

theorem ethWrite_keeps {s₀ : State} (a : Nat) (v : Word) {s : State} (h : Keeps s₀ s) : Keeps s₀ (ethWrite a v s) := by
  unfold ethWrite
  try dsimp only
  repeat' first
    | (with_reducible first
        | assumption | apply ethCfgWrite_keeps | apply txhWrite_keeps | apply ptpCfgWritten_keeps | apply plainWrite_keeps
        | apply ptpSet_keeps | apply entryCfgWrite_keeps | apply txfWrite_keeps | apply ite_keeps)
    | simp only [Keeps.upd_iff] | intro _ _ _

theorem sapWrite_keeps {s₀ : State} (a : Nat) (v : Word) {s : State} (h : Keeps s₀ s) : Keeps s₀ (sapWrite a v s) := by
  unfold sapWrite
  try dsimp only
  repeat' first
    | (with_reducible first
        | assumption | apply sapCfgWrite_keeps | apply sapGateWrite_keeps | apply plainWrite_keeps | apply grpCfgWrite_keeps
        | apply ite_keeps)

theorem strWrite_keeps {s₀ : State} (a : Nat) (v : Word) {s : State} (h : Keeps s₀ s) : Keeps s₀ (strWrite a v s) := by
  unfold strWrite
  try dsimp only
  repeat' first
    | (with_reducible first
        | assumption | apply strCtlWrite_keeps | apply strTtoWrite_keeps | apply wfqPop_keeps | apply plainWrite_keeps | apply ite_keeps)

theorem campWrite_keeps {s₀ : State} (a : Nat) (v : Word) {s : State} (h : Keeps s₀ s) : Keeps s₀ (campWrite a v s) := by
  unfold campWrite
  try dsimp only
  repeat' first
    | (with_reducible first | assumption | apply helloChange_keeps | apply campJudge_keeps | apply campChoose_keeps | apply campComplete_keeps | apply plainWrite_keeps | apply ite_keeps)

theorem fryWriteReg_keeps {s₀ : State} (a : Nat) (v : Word) {s : State} (h : Keeps s₀ s) : Keeps s₀ (fryWriteReg a v s) := by
  unfold fryWriteReg
  try dsimp only
  repeat' first
    | (with_reducible first
        | assumption | apply fryCmd_keeps | apply fryRegWrite_keeps | apply plainWrite_keeps | apply flagWord_keeps | apply ite_keeps)
    | simp only [Keeps.upd_iff] | intro _ _ _ | split

theorem coreWrite_keeps {s₀ : State} (a : Nat) (v : Word) {s : State} (h : Keeps s₀ s) : Keeps s₀ (coreWrite a v s) := by
  unfold coreWrite
  try dsimp only
  repeat' first
    | (with_reducible first
        | assumption | apply icInvalidate_keeps | apply dcInvalidate_keeps | apply counterClear_keeps | apply plainWrite_keeps
        | apply ite_keeps)
    | simp only [Keeps.upd_iff] | intro _ _ _ | split

theorem regWrite_keeps {s₀ : State} (ini : Initiator) (cst : Nat) (a : Nat) (v : Word) {s : State} (h :
    Keeps s₀ s) : Keeps s₀ (regWrite ini cst a v s) := by
  unfold regWrite
  try dsimp only
  repeat' first
    | (with_reducible first
        | assumption | apply sysWrite_keeps | apply tideWrite_keeps | apply icWrite_keeps | apply popLog_keeps | apply faultInjection_keeps
        | apply plainWrite_keeps | apply qfaWrite_keeps | apply ckpWrite_keeps | apply lantWrite_keeps | apply secWrite_keeps
        | apply jrnlWrite_keeps | apply eviWrite_keeps | apply pinWrite_keeps | apply popUe_keeps | apply pcieWrite_keeps
        | apply ethWrite_keeps | apply sapWrite_keeps | apply strWrite_keeps | apply campWrite_keeps | apply fryWriteReg_keeps
        | apply coreWrite_keeps | apply ite_keeps)

/-! ## Access -/

theorem memBeat_keeps {s₀ : State} (ini : Initiator) (kind : FabKind) (ecc : EccHit) (part : Bool) (t : Target) (r : Region) (b : Nat) (n : Nat) (data : List Byte) {s : State} (h :
    Keeps s₀ s) : Keeps s₀ (memBeat ini kind ecc part t r b n data s).1 := by
  unfold memBeat
  try dsimp only
  repeat' first
    | (with_reducible first
        | assumption | apply noteUe_keeps | apply ddrEcc_keeps | apply logUe_keeps | apply foldS_keeps | apply countCes_keeps
        | apply storeAt_keeps | apply touchStaging_keeps | apply ite_keeps)
    | intro _ _ _ | split

theorem beat_keeps {s₀ : State} (ini : Initiator) (kind : FabKind) (cst : Nat) (ecc : EccHit) (part : Bool) (a : Nat) (n : Nat) (data : List Byte) {s : State} (h :
    Keeps s₀ s) : Keeps s₀ (beat ini kind cst ecc part a n data s).1 := by
  unfold beat
  try dsimp only
  repeat' first
    | (with_reducible first | assumption | apply regWrite_keeps | apply regRead_keeps | apply memBeat_keeps | apply ite_keeps)
    | simp only [Keeps.upd_iff] | intro _ _ _ | split

theorem answer_keeps {s₀ : State} (n : Nat) (body : List Byte) {s : State} (h : Keeps s₀ s) : Keeps s₀ (answer n body s) := by
  unfold answer
  try dsimp only
  repeat' first
    | (with_reducible first | assumption | apply onLink_keeps)

theorem serveEnd_keeps {s₀ : State} (n : Nat) (wr : Bool) (b : List Byte) (status : Nat) (data : List Byte) {s : State} (h :
    Keeps s₀ s) : Keeps s₀ (serveEnd n wr b status data s) := by
  unfold serveEnd
  try dsimp only
  repeat' first
    | (with_reducible first | assumption | apply answer_keeps)

theorem servedEnd_keeps {s₀ : State} (n : Nat) (wr : Bool) (b : List Byte) (st1 : FabSt) {s : State} (h :
    Keeps s₀ s) : Keeps s₀ (servedEnd n wr b st1 s) := by
  unfold servedEnd
  try dsimp only
  repeat' first
    | (with_reducible first | assumption | apply serveEnd_keeps | apply ite_keeps)
    | simp only [Keeps.upd_iff] | intro _ _ _ | split

theorem afterAnswer_keeps {s₀ : State} (id : Nat) {s : State} (h : Keeps s₀ s) : Keeps s₀ (afterAnswer id s) := by
  unfold afterAnswer
  try dsimp only
  repeat' first
    | (with_reducible first
        | assumption | apply streamAck_keeps | apply sapLate_keeps | apply servedEnd_keeps | apply onLink_keeps | apply hostBeatEnd_keeps
        | apply dropReq_keeps | apply ite_keeps)
    | simp only [Keeps.upd_iff] | intro _ _ _ | split

theorem ownBeat_keeps {s₀ : State} (q : FabReq) (ecc : EccHit) {s : State} (h : Keeps s₀ s) : Keeps s₀ (ownBeat q ecc s) := by
  unfold ownBeat
  try dsimp only
  repeat' first
    | (with_reducible first
        | assumption | apply beginWake_keeps | apply beat_keeps | apply setReqSt_keeps | apply gathered_keeps | apply ite_keeps)
    | simp only [Keeps.upd_iff] | intro _ _ _ | split

theorem fabricAccess_keeps {s₀ : State} (id : Nat) (g : GrantInfo) {s : State} (h : Keeps s₀ s) : Keeps s₀ (fabricAccess id g s) := by
  unfold fabricAccess
  try dsimp only
  repeat' first
    | (with_reducible first
        | assumption | apply afterAnswer_keeps | apply strIssue_keeps | apply ownBeat_keeps | apply arrive_keeps | apply served_keeps
        | apply ite_keeps)
    | simp only [Keeps.upd_iff] | intro _ _ _ | split

theorem grantNow_keeps {s₀ : State} (id : Nat) (n : Nat) : ∀ (ecc : EccHit) {s : State}, Keeps s₀ s → Keeps s₀ (grantNow id n ecc s) := by
  induction n with
  | zero => exact fun _ _ h => h
  | succ n ih =>
    intro ecc s h
    unfold grantNow
    dsimp only
    have k1 : ∀ g, Keeps s₀ (fabricAccess id g s) := fun _ => fabricAccess_keeps _ _ h
    repeat' split
    · exact h
    · exact k1 _
    · exact ih _ (k1 _)
    · exact k1 _

theorem serve_keeps {s₀ : State} (n : Nat) (wr : Bool) (ecc : EccHit) (b : List Byte) {s : State} (h :
    Keeps s₀ s) : Keeps s₀ (serve n wr ecc b s) := by
  unfold serve
  try dsimp only
  repeat' first
    | (with_reducible first
        | assumption | apply serveEnd_keeps | apply request_keeps | apply grantNow_keeps | apply onLink_keeps | apply ite_keeps)
    | simp only [Keeps.upd_iff] | intro _ _ _

theorem rdRow_keeps {s₀ : State} (n : Nat) (ecc : EccHit) {s : State} (h : Keeps s₀ s) : Keeps s₀ (rdRow n ecc s) := by
  unfold rdRow
  try dsimp only
  repeat' first
    | (with_reducible first | assumption | apply serve_keeps | apply answer_keeps | apply ite_keeps)
    | refine takeRx_keeps (by with_reducible assumption) ?_ | simp only [Keeps.upd_iff] | intro _ _ _ | split

theorem wrRow_keeps {s₀ : State} (n : Nat) (ecc : EccHit) {s : State} (h : Keeps s₀ s) : Keeps s₀ (wrRow n ecc s) := by
  unfold wrRow
  try dsimp only
  repeat' first
    | (with_reducible first | assumption | apply serve_keeps | apply answer_keeps | apply ite_keeps)
    | refine takeRx_keeps (by with_reducible assumption) ?_ | simp only [Keeps.upd_iff] | intro _ _ _ | split

theorem hostRefused_keeps {s₀ : State} (a : Nat) {s : State} (h : Keeps s₀ s) : Keeps s₀ (hostRefused a s) := by
  unfold hostRefused
  try dsimp only
  repeat' first
    | (with_reducible first | assumption | apply pcieFlag_keeps | apply setPair_keeps)

theorem hostRun_keeps {s₀ : State} (n : Nat) : ∀ (eccs : List EccHit) {s : State}, Keeps s₀ s → Keeps s₀ (hostRun n eccs s) := by
  induction n with
  | zero => exact fun _ _ h => h
  | succ n ih =>
    intro eccs s h
    unfold hostRun
    dsimp only
    repeat' split
    all_goals first
      | exact h
      | exact grantNow_keeps _ _ _ h
      | exact ih _ (grantNow_keeps _ _ _ h)

theorem hostAsk_keeps {s₀ : State} (store : Bool) (beats : List HostBeat) (eccs : List EccHit) {s : State} (h :
    Keeps s₀ s) : Keeps s₀ (hostAsk store beats eccs s) := by
  unfold hostAsk
  try dsimp only
  repeat' first
    | (with_reducible first | assumption | apply hostRun_keeps | apply hostFlow_keeps)
    | simp only [Keeps.upd_iff]

theorem hostRead_keeps {s₀ : State} (bar : Nat) (off : Nat) (len : Nat) (eccs : List EccHit) {s : State} (h :
    Keeps s₀ s) : Keeps s₀ (hostRead bar off len eccs s) := by
  unfold hostRead
  try dsimp only
  repeat' first
    | (with_reducible first | assumption | apply hostAsk_keeps | apply ite_keeps)
    | simp only [Keeps.upd_iff] | intro _ _ _ | split

theorem hostWrite_keeps {s₀ : State} (bar : Nat) (off : Nat) (data : List Byte) (be : List Bool) (eccs : List EccHit) {s : State} (h :
    Keeps s₀ s) : Keeps s₀ (hostWrite bar off data be eccs s) := by
  unfold hostWrite
  try dsimp only
  repeat' first
    | (with_reducible first | assumption | apply hostAsk_keeps | apply hostRefused_keeps | apply ite_keeps)
    | simp only [Keeps.upd_iff] | intro _ _ _ | split

theorem cpInByte_keeps {s₀ : State} (o : Nat) (b : Byte) {s : State} (h : Keeps s₀ s) : Keeps s₀ (cpInByte o b s) := by
  unfold cpInByte
  try dsimp only
  repeat' first
    | (with_reducible first | assumption | apply secCpIn_keeps)

theorem cpBytes_keeps {s₀ : State} (bs : List Byte) : ∀ (o : Nat) (w : List Byte) {s : State}, Keeps s₀ s → Keeps s₀ (cpBytes bs o w s) := by
  induction bs with
  | nil => exact fun _ _ _ h => orRegIf_keeps _ _ _ h
  | cons b bs ih =>
    intro o w s h
    unfold cpBytes
    dsimp only
    repeat' split
    all_goals first
      | exact ih _ _ (cpInByte_keeps _ _ (orRegIf_keeps _ _ _ h))
      | exact ih _ _ (regWrite_keeps _ _ _ _ h)
      | exact ih _ _ (orReg_keeps _ _ h)
      | exact ih _ _ h

theorem cpEnd_keeps {s₀ s : State} (h : Keeps s₀ s) : Keeps s₀ (cpEnd s) := by
  unfold cpEnd
  try dsimp only
  repeat' first
    | (with_reducible first | assumption)
    | simp only [Keeps.upd_iff]

theorem cpRead_keeps {s₀ : State} (off : Nat) (n : Nat) {s : State} (h : Keeps s₀ s) : Keeps s₀ (cpRead off n s) := by
  unfold cpRead
  try dsimp only
  repeat' first
    | (with_reducible first | assumption | apply ite_keeps)
    | simp only [Keeps.upd_iff]

theorem dbgCapture_keeps {s₀ s : State} (h : Keeps s₀ s) : Keeps s₀ (dbgCapture s) := by
  unfold dbgCapture
  try dsimp only
  repeat' first
    | (with_reducible first | assumption | apply dropReq_keeps | apply ite_keeps)
    | simp only [Keeps.upd_iff] | intro _ _ _ | split

theorem dbgacc_keeps {s₀ : State} (a : Nat) (data : Word) (op : Nat) (ecc : EccHit) {s : State} (h :
    Keeps s₀ s) : Keeps s₀ (dbgacc a data op ecc s) := by
  unfold dbgacc
  try dsimp only
  repeat' first
    | (with_reducible first | assumption | apply dbgCapture_keeps | apply request_keeps | apply grantNow_keeps | apply ite_keeps)
    | simp only [Keeps.upd_iff] | intro _ _ _ | split

/-! ## Fire -/

theorem routesFire_keeps {s₀ : State} (p : Part) {s : State} (h : Keeps s₀ s) : Keeps s₀ (routesFire p s) := by
  unfold routesFire
  try dsimp only
  repeat' first
    | (with_reducible first | assumption)
    | simp only [Keeps.upd_iff]

theorem swapHalves_keeps {s₀ : State} (p : Part) {s : State} (h : Keeps s₀ s) : Keeps s₀ (swapHalves p s) := by
  unfold swapHalves
  try dsimp only
  repeat' first
    | (with_reducible first | assumption | apply foldS_keeps | apply onThread_keeps | apply ite_keeps)
    | simp only [Keeps.upd_iff] | intro _ _ _ | split

theorem outputsFire_keeps {s₀ : State} (p : Part) {s : State} (h : Keeps s₀ s) : Keeps s₀ (outputsFire p s) := by
  unfold outputsFire
  try dsimp only
  repeat' first
    | (with_reducible first | assumption | apply setPt_keeps)

theorem coreFire_keeps {s₀ : State} (p : Part) (l : Nat) {s : State} (h : Keeps s₀ s) : Keeps s₀ (coreFire p l s) := by
  unfold coreFire
  try dsimp only
  repeat' first
    | (with_reducible first
        | assumption | apply setLc_keeps | apply dcInvalidate_keeps | apply startLcore_keeps | apply setTkos_keeps | apply setCore_keeps
        | apply ite_keeps)
    | simp only [Keeps.upd_iff] | intro _ _ _ | split

theorem ptBegin_keeps {s₀ : State} (p : Part) {s : State} (h : Keeps s₀ s) : Keeps s₀ (ptBegin p s) := by
  unfold ptBegin
  try dsimp only
  repeat' first
    | (with_reducible first | assumption | apply setPt_keeps | apply setRegFld_keeps | apply foldS_keeps | apply coreFire_keeps)

theorem ptStop_keeps {s₀ : State} (p : Part) {s : State} (h : Keeps s₀ s) : Keeps s₀ (ptStop p s) := by
  unfold ptStop
  try dsimp only
  repeat' first
    | (with_reducible first
        | assumption | apply setPt_keeps | apply foldS_keeps | apply stopAsDone_keeps | apply holdoffLcore_keeps | apply ite_keeps)
    | simp only [Keeps.upd_iff] | intro _ _ _

theorem ptFire_keeps {s₀ : State} (p : Part) {s : State} (h : Keeps s₀ s) : Keeps s₀ (ptFire p s) := by
  unfold ptFire
  try dsimp only
  repeat' first
    | (with_reducible first
        | assumption | apply outputsFire_keeps | apply routesFire_keeps | apply swapHalves_keeps | apply ptStop_keeps | apply ptBegin_keeps
        | apply ethFrameStart_keeps | apply streamFrameStart_keeps | apply ite_keeps)

theorem frameFire_keeps {s₀ : State} (n : Nat) {s : State} (h : Keeps s₀ s) : Keeps s₀ (frameFire n s) := by
  unfold frameFire
  try dsimp only
  repeat' first
    | (with_reducible first
        | assumption | apply repitchStop_keeps | apply routesFire_keeps | apply repitchStart_keeps | apply ptFire_keeps | apply ite_keeps)
    | simp only [Keeps.upd_iff] | intro _ _ _ | split

theorem releaseWaitt_keeps {s₀ : State} (n : Nat) {s : State} (h : Keeps s₀ s) : Keeps s₀ (releaseWaitt n s) := by
  unfold releaseWaitt
  try dsimp only
  repeat' first
    | (with_reducible first | assumption)
    | simp only [Keeps.upd_iff]

theorem gateAction_keeps {s₀ : State} (n : Nat) (a : Word) {s : State} (h : Keeps s₀ s) : Keeps s₀ (gateAction n a s) := by
  unfold gateAction
  try dsimp only
  repeat' first
    | (with_reducible first | assumption | apply sapGateFire_keeps)
    | simp only [Keeps.upd_iff]

theorem gpioAction_keeps {s₀ : State} (n : Nat) (a : Word) {s : State} (h : Keeps s₀ s) : Keeps s₀ (gpioAction n a s) := by
  unfold gpioAction
  try dsimp only
  repeat' first
    | (with_reducible first | assumption)
    | simp only [Keeps.upd_iff]

theorem cmpAction_keeps {s₀ : State} (n : Nat) {s : State} (h : Keeps s₀ s) : Keeps s₀ (cmpAction n s) := by
  unfold cmpAction
  try dsimp only
  repeat' first
    | (with_reducible first
        | assumption | apply releaseWaitt_keeps | apply fryRelease_keeps | apply gateAction_keeps | apply gpioAction_keeps
        | apply ite_keeps)
    | simp only [Keeps.upd_iff] | intro _ _ _ | split

theorem fire_keeps {s₀ : State} (n : Nat) (late : Bool) {s : State} (h : Keeps s₀ s) : Keeps s₀ (fire n late s) := by
  unfold fire
  try dsimp only
  repeat' first
    | (with_reducible first | assumption | apply cmpAction_keeps | apply cmpFired_keeps | apply frameFire_keeps | apply ite_keeps)

theorem compareMatch_keeps {s₀ : State} (n : Nat) {s : State} (h : Keeps s₀ s) : Keeps s₀ (compareMatch n s) := by
  unfold compareMatch
  try dsimp only
  repeat' first
    | (with_reducible first | assumption | apply fire_keeps | apply ite_keeps)

theorem compareGpioOutput_keeps {s₀ s : State} (h : Keeps s₀ s) : Keeps s₀ (compareGpioOutput s) := by
  unfold compareGpioOutput
  try dsimp only
  repeat' first
    | (with_reducible first | assumption | apply gpioEdge_keeps | apply ite_keeps)
    | simp only [Keeps.upd_iff] | intro _ _ _ | split

theorem tkEdge_keeps {s₀ s : State} (h : Keeps s₀ s) : Keeps s₀ (tkEdge s) := by
  unfold tkEdge
  try dsimp only
  repeat' first
    | (with_reducible first | assumption | apply sapAwait_keeps | apply gpioEdge_keeps | apply tideTick_keeps)

theorem locateFires_keeps {s₀ : State} (old : Nat) (late : Bool) {s : State} (h : Keeps s₀ s) : Keeps s₀ (locateFires old late s) := by
  unfold locateFires
  try dsimp only
  repeat' first
    | (with_reducible first | assumption | apply foldS_keeps | apply fire_keeps | apply ite_keeps)
    | simp only [Keeps.upd_iff] | intro _ _ _

theorem tempoTakes_keeps {s₀ : State} (late : Bool) (e : TempoEntry) {s : State} (h : Keeps s₀ s) : Keeps s₀ (tempoTakes late e s) := by
  unfold tempoTakes
  try dsimp only
  repeat' first
    | (with_reducible first | assumption | apply locateFires_keeps | apply ite_keeps)
    | simp only [Keeps.upd_iff]

theorem frameBoundary_keeps {s₀ s : State} (h : Keeps s₀ s) : Keeps s₀ (frameBoundary s) := by
  unfold frameBoundary
  try dsimp only
  repeat' first
    | (with_reducible first
        | assumption | apply haltBoundary_keeps | apply locateFires_keeps | apply campBoundary_keeps | apply tideNewFrame_keeps
        | apply ite_keeps)

theorem refUsed_keeps {s₀ : State} (u : RefUpdate) {s : State} (h : Keeps s₀ s) : Keeps s₀ (refUsed u s) := by
  unfold refUsed
  try dsimp only
  repeat' first
    | (with_reducible first | assumption | apply onEth_keeps | apply ite_keeps)
    | simp only [Keeps.upd_iff] | intro _ _ _ | split

theorem relabel_keeps {s₀ : State} (k : ℤ) {s : State} (h : Keeps s₀ s) : Keeps s₀ (relabel k s) := by
  unfold relabel
  try dsimp only
  repeat' first
    | (with_reducible first | assumption)
    | simp only [Keeps.upd_iff]

theorem sampleCountStep_keeps {s₀ s : State} (h : Keeps s₀ s) : Keeps s₀ (sampleCountStep s) := by
  unfold sampleCountStep
  try dsimp only
  repeat' first
    | (with_reducible first
        | assumption | apply setReg_keeps | apply orReg_keeps | apply relabel_keeps | apply foldS_keeps | apply tempoTakes_keeps
        | apply fire_keeps | apply ite_keeps)
    | simp only [Keeps.upd_iff] | intro _ _ _ | split

theorem tempoEntryApply_keeps {s₀ s : State} (h : Keeps s₀ s) : Keeps s₀ (tempoEntryApply s) := by
  unfold tempoEntryApply
  try dsimp only
  repeat' first
    | (with_reducible first | assumption | apply tempoTakes_keeps | apply orReg_keeps | apply ite_keeps)
    | simp only [Keeps.upd_iff] | intro _ _ _ | split

theorem repitchStopRow_keeps {s₀ s : State} (h : Keeps s₀ s) : Keeps s₀ (repitchStopRow s) := by
  unfold repitchStopRow
  try dsimp only
  repeat' first
    | (with_reducible first | assumption | apply compareMatch_keeps | apply repitchStop_keeps | apply ite_keeps)
    | simp only [Keeps.upd_iff] | intro _ _ _ | split

theorem repitchStartRow_keeps {s₀ s : State} (h : Keeps s₀ s) : Keeps s₀ (repitchStartRow s) := by
  unfold repitchStartRow
  try dsimp only
  repeat' first
    | (with_reducible first | assumption | apply loaderNext_keeps | apply compareMatch_keeps | apply ite_keeps)
    | simp only [Keeps.upd_iff] | intro _ _ _ | split

/-! ## MemRows -/

theorem eccWriteBack_keeps {s₀ : State} (a : Nat) (wait : Nat) {s : State} (h : Keeps s₀ s) : Keeps s₀ (eccWriteBack a wait s) := by
  unfold eccWriteBack
  try dsimp only
  repeat' first
    | (with_reducible first | assumption | apply noteWrite_keeps | apply served_keeps | apply ite_keeps)
    | simp only [Keeps.upd_iff] | intro _ _ _ | split

theorem requestLift_keeps {s₀ : State} (id : Nat) (wait : Nat) {s : State} (h : Keeps s₀ s) : Keeps s₀ (requestLift id wait s) := by
  unfold requestLift
  try dsimp only
  repeat' first
    | (with_reducible first | assumption | apply setReqSt_keeps | apply ite_keeps)
    | simp only [Keeps.upd_iff] | intro _ _ _ | split

theorem localStarvation_keeps {s₀ : State} (k : Nat) (wait : Nat) {s : State} (h : Keeps s₀ s) : Keeps s₀ (localStarvation k wait s) := by
  unfold localStarvation
  try dsimp only
  repeat' first
    | (with_reducible first | assumption | apply incFld_keeps | apply orReg_keeps | apply setRegFld_keeps | apply ite_keeps)

theorem scrubPassStart_keeps {s₀ : State} (e : Nat) {s : State} (h : Keeps s₀ s) : Keeps s₀ (scrubPassStart e s) := by
  unfold scrubPassStart
  try dsimp only
  repeat' first
    | (with_reducible first | assumption | apply orReg_keeps | apply ite_keeps)
    | simp only [Keeps.upd_iff]

theorem scrubRepair_keeps {s₀ : State} (k : Nat) (a : Nat) {s : State} (h : Keeps s₀ s) : Keeps s₀ (scrubRepair k a s) := by
  unfold scrubRepair
  try dsimp only
  repeat' first
    | (with_reducible first | assumption | apply logEvent_keeps | apply cancelWb_keeps | apply store_keeps | apply ite_keeps)
    | simp only [Keeps.upd_iff] | intro _ _ _ | split

theorem scrubRead_keeps {s₀ : State} (e : Nat) (a : Nat) (ecc : EccHit) {s : State} (h : Keeps s₀ s) : Keeps s₀ (scrubRead e a ecc s) := by
  unfold scrubRead
  try dsimp only
  repeat' first
    | (with_reducible first
        | assumption | apply wakeSpan_keeps | apply countCe_keeps | apply logUe_keeps | apply scrubRepair_keeps | apply ite_keeps)
    | simp only [Keeps.upd_iff] | intro _ _ _ | split

theorem scrubWordRead_keeps {s₀ : State} (e : Nat) (a : Nat) (i : ScrubInfo) {s : State} (h : Keeps s₀ s) : Keeps s₀ (scrubWordRead e a i s) := by
  unfold scrubWordRead
  try dsimp only
  repeat' first
    | (with_reducible first | assumption | apply scrubRead_keeps | apply served_keeps | apply ite_keeps)
    | simp only [Keeps.upd_iff] | intro _ _ _ | split

theorem scrubPassEnd_keeps {s₀ : State} (e : Nat) {s : State} (h : Keeps s₀ s) : Keeps s₀ (scrubPassEnd e s) := by
  unfold scrubPassEnd
  try dsimp only
  repeat' first
    | (with_reducible first | assumption | apply orReg_keeps | apply addReg_keeps | apply ite_keeps)
    | simp only [Keeps.upd_iff]

theorem bankWakeComplete_keeps {s₀ : State} (u : Nat) (stall : Nat) {s : State} (h : Keeps s₀ s) : Keeps s₀ (bankWakeComplete u stall s) := by
  unfold bankWakeComplete
  try dsimp only
  repeat' first
    | (with_reducible first | assumption | apply endWake_keeps | apply markWoken_keeps | apply setReg_keeps | apply ite_keeps)

theorem bankIdlePowerDown_keeps {s₀ : State} (u : Nat) {s : State} (h : Keeps s₀ s) : Keeps s₀ (bankIdlePowerDown u s) := by
  unfold bankIdlePowerDown
  try dsimp only
  repeat' first
    | (with_reducible first | assumption | apply setMemPwr_keeps | apply ite_keeps)
    | simp only [Keeps.upd_iff]

end Sys2Proof.Machine
end

