-- ==== Sys2Proof/Tests/Slice0.lean ====
section
/-! SUPPORT. Tests. The smoke tests of WellFormed refuse an ill-formed term for each of its checks; the worked examples take their
expected values from the spec's text; the witnesses show, for every statement with hypotheses, a state and operands that meet them. -/

open Sys2Proof Sys2Proof.Machine

/-! ## Terms that WellFormed refuses -/

theorem test_wf_reference_source :
    (Instr.referenceUpdate { src := 6, sel := 0, perr := 0, ferr := 0, offs := 0, refOfs := 0, family := true, err := 0, fraction := true, gap := false }).wf
      = false := by decide
theorem test_wf_reference_instance :
    (Instr.referenceUpdate { src := 3, sel := 2, perr := 0, ferr := 0, offs := 0, refOfs := 0, family := true, err := 0, fraction := true, gap := false }).wf
      = false := by decide
theorem test_wf_mode_off : (Instr.cmpModeOff 0 1).wf = false := by decide
theorem test_wf_shared_source : (Instr.sourceLevelChange (.shared 31)).wf = false := by decide
theorem test_wf_private_source : (Instr.holdoffEnd (.priv 0 0 11)).wf = false := by decide
theorem test_wf_done_id : (Instr.icDone .debug 416).wf = false := by decide
theorem test_wf_source_words : (Instr.icPendSet .debug 0 0).wf = false ∧ (Instr.icPendClr .debug 0 0).wf = false ∧
    (Instr.icMaskSet .debug 0 0).wf = false ∧ (Instr.icMaskClr .debug 0 0).wf = false := by decide
theorem test_wf_source_number : (Instr.icSrcCfgWrite .debug 31 0).wf = false := by decide
theorem test_wf_ecc_words : (Instr.eccWriteBack ⟨4, 0⟩).wf = false ∧ (Instr.scrubWordRead 0 4 ⟨.ok, 0⟩).wf = false := by decide
theorem test_wf_frame_bits : (Instr.sapFrame 0 0 (List.replicate 1026 (true, true))).wf = false ∧
    (Instr.frameMissing 0 (List.replicate 1026 (true, true))).wf = false := by
  simp only [Instr.wf, List.length_replicate]; decide
theorem test_wf_feature_words :
    (Instr.trainingEnd 0 { ver := 1, feats := [0, 0, 0], camp := 0, dev := 0, nonce := 0, cap := 0, next := 0, lock10 := 0, lock25 := 0, pair := false }).wf
      = false := by decide
theorem test_wf_flit : (Instr.flitReceive 0 ⟨List.replicate 63 0, 0, 0⟩).wf = false := by decide
theorem test_wf_host_read : (Instr.pcieMemoryRead 0 0 0 []).wf = false := by decide
theorem test_wf_host_write : (Instr.pcieMemoryWrite 0 0 [0, 0] ⟨[true], []⟩).wf = false := by decide
theorem test_wf_frame : (Instr.ethFrameReceive 0 [0] true 0).wf = false := by decide
theorem test_wf_wake : (Instr.wake 2 128 0).wf = false ∧ (Instr.wake 0 0 0).wf = false := by decide
theorem test_wf_port_read : (Instr.cpRead 0 0).wf = false := by decide
theorem test_wf_register_address : (Instr.registerWrite .debug 0x40000002 0).wf = false ∧ (Instr.registerReadClear .debug 0x40000001).wf = false := by
  decide

/-- No row of the table has bits. -/
theorem test_no_word_spells_a_command : decodeTableWord 32 0x12345678 = none := rfl

/-! ## Worked examples of the spec -/

/-- 01_architecture.md: logical core 53 on core 6.5 and, after a take-over, on core 6.8; 20_register_index.md: its CORE_PIPE_CFG. -/
theorem test_core_addresses : localBase 59 = 0x21940000 ∧ itcmBase 59 = 0x21970000 ∧ localBase 62 = 0x21A00000 ∧ aCorePipeCfg 62 = 0x413E0200 := by
  decide

/-- 02_tide.md: compare 17 matches on TKCLK edge 847 of sample 1,234,583, at 48 kHz. -/
theorem test_note_on_stamp :
    ({ Tide.reset with count := 1234583, phase := BitVec.ofNat 32 (847 * (2 ^ 32 / tkPerSample 1)) } : Tide).stamp = 0x00000012D69769E0 := by decide

/-- 04_tuitin_operations.md, "guard bits and extraction": 0.5 × 0.75 once, four times and twice, and what EXTIH reads. -/
theorem test_guard_bits :
    macVal .mulqm 0x40000000 0x60000000 0 0 = 0x3000000000000000 ∧ accVal false false (4 * 0x3000000000000000) = (0xC000000000000000, false) ∧
    extVal 0 0xC000000000000000 32 = (0x7FFFFFFF, true) ∧ extVal 0 0x6000000000000000 32 = (0x60000000, false) := by decide

/-- R164: DIV of 1,000 by 7 takes 22 CCLK. -/
theorem test_division_cycles : divCycles true 1000 7 = 22 ∧ divVal 0 1000 7 = 142 := by decide

/-- 06_exceptions_worlds.md: SVLONG0_OP 0x03E8_10C9 is FDIV D8, D2, D3 (with condition true and end set here). -/
theorem test_decode_fdiv : dec32 false (0x03E810C9 + 0x80000000) = .ok (.long 4 8 2 3) := by decide

/-- 07_memory.md: the bit-set store of 5 and the bit-clear store of 0x30 leave 0xC5, in either order. -/
theorem test_alias_stores :
    let s := State.reset.storeAt (ownTarget 0x10C00100) (leBytes 4 0xF0)
    ((s.storeAt (ownTarget 0x4010C00100) (leBytes 4 5)).storeAt (ownTarget 0x8010C00100) (leBytes 4 0x30)).memWord 0x10C00100 = 0xC5 ∧
    ((s.storeAt (ownTarget 0x8010C00100) (leBytes 4 0x30)).storeAt (ownTarget 0x4010C00100) (leBytes 4 5)).memWord 0x10C00100 = 0xC5 := by decide

/-- 08_ferry.md, the program of FRY40: MOVE (24-bit packed to 32-bit, half, 64 elements), SIGNAL interrupt, PARK, JUMP. -/
theorem test_decode_ferry :
    fryDecode 0x1B10000000000040 0x200000 0x11400000 0 = .move (moveOf 0x1B10000000000040 0x200000 0x11400000 0) ∧
    (let m := moveOf 0x1B10000000000040 0x200000 0x11400000 0
     m.sw = 2 ∧ m.dw = 3 ∧ m.hf = true ∧ m.just = false ∧ m.total = 64 ∧ m.src = 0x200000 ∧ m.dst = 0x11400000 ∧ m.srcAt 1 = 0x200003 ∧
       m.dstAt 63 = 0x114000FC) ∧
    fryDecode 0x6000000000000000 0 0 0 = .sigInt ∧ fryDecode 0x9000000000100020 0 0 0 = .park 0x100020 ∧
    fryDecode 0xA000000000100028 0 0 0 = .jump 0x100028 := by decide

/-- 09_interrupt_controller.md: IC_SRC293_CFG and IC_MASK_CLR9. -/
theorem test_source_register_addresses : aIcSrcCfg (293 - 32) = 0x40021494 ∧ aIcMaskClr (9 - 1) = 0x40020264 := by decide

/-- 16_events_pins.md, "a struck key": the words of the entry in the FIFO of group 5. -/
theorem test_struck_key_entry :
    evNs 800000 = 0x0030D400 ∧
    let s := State.reset.setEvFifo 5 [{ ts := 0x12D6876A40, pin := 3, kind := 3, level := true, value := 0x0030D400 }]
    s.evWord 5 0 = 0xD6876A40 ∧ s.evWord 5 1 = 0x12 ∧ s.evWord 5 2 = 0x5B3 ∧ s.evWord 5 3 = 0x0030D400 := by decide

/-- 17_clocks_power.md, "the regulator cable is pulled during a boost": a reading of 0.847 V gives OP4 and OP5. -/
theorem test_retry_reading :
    pointBelow 847 = 4 ∧ pointAbove 847 = 5 ∧
    (readVout 847 { (State.reset.setReg aCkpVrStat 0x2554) with ckp := { State.reset.ckp with vr := .boot } }).vlo = 4 := by decide

/-! ## Witnesses of the statements -/

/-- A Ferry program block at address 0 holding up to four words. -/
def wBlock (ws : List Nat) : FryBlock := { addr := 0, data := ws.flatMap (leBytes 8), touched := false }

/-- Channel 63 in RUN at address 0 with its first program words held. -/
def wFry (ws : List Nat) : State := State.reset.setFry 63 { Ferry.reset with st := .run, blocks := [wBlock ws] }

/-- Channel 63 changed. -/
def wFryC (f : Ferry → Ferry) : State := State.reset.setFry 63 (f Ferry.reset)

/-- The fabric request of number 0, answered. -/
def wReq (st : FabSt) (s : State) : State :=
  { s with memc := { s.memc with reqs := [{ id := 0, ini := .ferry 63, kind := .load, addr := 0x2000, len := 3, data := [], cst := 0, cls := 3, mask := none, here := false, st := st }], nextId := 1 } }

/-- A 32-bit operation word with condition true that ends its bundle. -/
def wOp (mj d a b fn : Nat) : Nat := 0x80000001 + mj * 2 ^ 21 + d * 2 ^ 16 + a * 2 ^ 11 + b * 2 ^ 6 + fn * 2

/-- Thread 3 of slot 143, running at the start of its I-TCM (segment 1, with data memory in segment 2), where the code stands. -/
def wCore (cst : Word) (code : List Nat) (f : Thread → Thread) : State :=
  let th := [(0x24, BitVec.ofNat 32 (itcmBase 143)), (0x25, 0x1F0000), (0x26, 0xFFFF), (0x28, BitVec.ofNat 32 (localBase 143)),
    (0x29, 0x170000), (0x2A, 0x2FFFF), (0x80, cst)].foldl (fun (t : Thread) (e : Nat × Word) => t.setCreg e.1 e.2)
      { Thread.reset with running := true, pc := 0x20000000 }
  let s := (({ State.reset with pwr := { Pwr.reset with mode := .run } }).setReg (aCorePipeCfg 143) 0xF4).setReg (aBwtrCstat 15) 0x1FF |>.setReg (aBwtrSlotmap 15) 0x86543210
  (s.storeAt (ownTarget (itcmBase 143)) (code.flatMap (leBytes 4))).setThread 143 3 (f th)

/-- Issue with three CCLK passed, the way of a bundle through the fetch unit. -/
def wI : IssueInfo := { dt := 3 }

/-- The operation of a one-operation bundle that thread 3 of slot 143 issues. -/
def wOne (s : State) : Option TOp :=
  match s.bundleAt 143 3 wI with
  | some b => if s.issues 143 3 wI = true ∧ b.1.length = 1 then
      (liveOps ((s.atIssue 143 3 wI).isT2 143) ((s.atIssue 143 3 wI).thread 143 3) b.1).head?.map (fun e => e.2.2) else none
  | none => none

/-- A far load of thread 3 of slot 143 that waits for request 0. -/
def wFarLoad : FarLoad :=
  { parts := [{ id := 0, addr := 0x2000, data := none }], dst := 5, kind := .w, clk := 0, pc := 0, fpc := 0, phys := 0x2000, cst := 5, ue := [], ce := []
    fill := false, late := [], after := 0, chk := false }

/-- A store-buffer entry for the last word of own local memory. -/
def wSb : SbEntry := { addr := localBase 143 + 0x3FFFC, data := [1, 2, 3, 4], pc := 0, cst := 5, at_ := 0, ue := [], ce := [] }

/-- A handler for vector vec of both level-1 tables, at offset 0x800 of the I-TCM. -/
def wVec (s : State) (vec : Nat) : State :=
  (s.storeAt (ownTarget (itcmBase 143 + 0x400 + 8 * vec)) (leBytes 4 0x20000800 ++ leBytes 4 1)).storeAt
    (ownTarget (itcmBase 143 + 0x800)) (leBytes 4 (wOp 0 7 6 5 0)) |>.onThread 143 3 (fun th => (th.setCreg 0x82 0x400).setCreg 0x83 0x400)

/-- Private source 10 of a Landward level-1 server pending on the thread. -/
def wPriv (th : Thread) : Thread :=
  { (th.setCreg 0x10A 0x400).setCreg 0x107 0 with priv := [(10, { Src.init with st := .pending, level := true })] }

/-- A staged image whose directory names one PART entry, of partition 31 with logical core 127. -/
def wImg (s : State) : State :=
  let put := fun (o v : Nat) (s : State) => s.storeAt (.mem .ddr (s.stgBase + o)) (leBytes 4 v)
  put 0x9C 0 (put 0x90 (31 + 0x20 + 0x1000) (put 0xAC 0x80000000 (put 0x4C 1 (put 0x48 80 (put 0x44 0x80 (put 0x40 1 (put 0x24 1 s)))))))

/-- Flash slot 1 valid, with an image of 16 bytes. -/
def wSlot (s0 : State) : State :=
  let s := (s0.setReg aQfaSlotSize 0x1000).setReg aQfaSlotbOff 0x10000
  let h := List.replicate 8 (1 : Byte) ++ leBytes 4 16 ++ List.replicate 24 (2 : Byte)
  let t := leBytes 4 0x54464151 ++ leBytes 4 16 ++ List.replicate 12 (2 : Byte) ++ leBytes 4 7
  ((s.program (s.slotOff 1) h).program (s.trailer 1) (t ++ leBytes 4 (crcIeee t))).program (s.trailer 1 + 0x3F) [0x5A]

/-- Port 63 of the enabled slave group 7 (F = 256, TDM of 8 slots of 32 bits with 24-bit samples) frames in RUN. -/
def wSap (f : SapPort → SapPort) : State :=
  let s := { State.reset with pwr := { Pwr.reset with mode := .run }, tide := { Tide.reset with stopped := false, count := 100 } }
  ((((s.setReg (aSapGrpCfg 7) 0x4100).setReg (aSapCfg 63) 0x63D).setReg (aSapStat 63) 1).setReg (aSapGrpStat 7) 1).onPort 63 f

/-- An input route of port 63, slots 6 and 7, LSB-aligned into 24-bit words. -/
def wRoute (k : Nat) : RtRun :=
  { route := { kind := k, port := 63, first := 6, last := 7, stream := 0, part := 0, half := false, width := 2, just := true, addr := 0x10020000, nbuf := 4, stride := 0x100 }
    r := some 0, idx := 1, start := 98, len := 48, first := 90, live := true }

/-- Routes in force. -/
def wRoutes (rs : List RtRun) (s : State) : State := { s with sap := { s.sap with routes := rs } }

/-- The far end of a link as training finds it: member 2, every lane locked. -/
def wFar : FarEnd := { ver := 1, feats := ownFeats, camp := 0, dev := 2, nonce := 5, cap := 0x1A, next := 0, lock10 := 15, lock25 := 15, pair := false }

/-- Link n, UP. -/
def wLink (n : Nat) (f : Link → Link) : State := ((State.reset.setReg (aStrCtl n) 1).setReg (aStrStat n) 2).onLink n f

/-- An admitted device of a camp with member 2, that serves remote accesses. -/
def wCamp (s : State) : State := ((s.setReg aMemcRmtCfg 3).setReg aCampStat 8).setReg aCampMap 0x05

/-- A transaction with tag 0xA5 outstanding on link 7, epoch e of the tag, and an answer body received. -/
def wTx (wr : Bool) (e : Nat) (b : List Byte) : State :=
  let s := wLink 7 (fun l => { l with rx := [(1, 2, b)], epochs := smSet (fun _ => 0) [] 0xA5 e, txs := [⟨0xA5, 3, 0, 2, 0x100, 3, wr, true, 1, 2, 0⟩] })
  { s with memc := { s.memc with reqs := [{ id := 0, ini := .debug, kind := if wr then .store else .load, addr := 0x8200000100, len := 3, data := [], cst := 0, cls := 4, mask := none, here := false, st := .remote }], nextId := 1 } }

/-- Stream 9 of link 7 to member 2, one route of kind k for partition 31 (blocks of 40 bytes), and what link 7 has received. -/
def wStr (k : Nat) (f : PtRun → PtRun) (rx : List (Nat × Nat × List Byte)) : State :=
  let p : Part := { part := 31, land := true, cls := 0, profile := 0, policy := 0, thrEn := 1, fmul := 0, prio := 1, ssEn := true, ebbSeg := 2, floodSeg := 3,
                    window := 0, bpred := true, budget := 20000, state := 0, cores := 1, h0 := 0x10000000, half := 0x100 }
  let s := wCamp (wLink 7 (fun l => { l with rx := rx })) |>.setReg (aStrPeer 7) 0xA
  { s with setup := { s.setup with parts := [p] }, bw := { s.bw with pts := [(31, f PtRun.init)] },
           sap := { s.sap with routes := [{ wRoute k with route := { (wRoute k).route with port := 7, part := 31, stride := 40, stream := 9 } }] } }

/-- A keeper (member 0, priority 9, auto) that has heard member 2, with a message received on link 7. -/
def wKeep (b : List Byte) : State :=
  let s := wLink 7 (fun l => { l with rx := [(3, 0, padBody b)] }) |>.setReg (aStrPeer 7) 0xA |>.setReg aCampCfg 0x809
  { (((s.setReg aCampStat 0xA).setReg aCampKeeper 0x10900).setReg aCampMap 1) with camp := { s.camp with heard := 4 } }

/-- A member in camp state st whose keeper is member 2 (priority 5), with a message received on link 7. -/
def wMem (st : Nat) (b : List Byte) : State :=
  let s := wLink 7 (fun l => { l with rx := [(3, 0, b)] }) |>.setReg (aStrPeer 7) 0xA |>.setReg (aCampMemInfo 2) 0x505
  { (s.setReg aCampStat (BitVec.ofNat 32 (1 + 4 * st))).setReg aCampKeeper 0x10502 with camp := { s.camp with heard := 4 } }

/-- Port 1 with its link up in 10GBASE-R and a station address. -/
def wEth (f : EthPort → EthPort) : State :=
  (((State.reset.setReg (aEthCfg 1) 1).setReg (aEthCap 1) 7).setReg (aEthMode 1) 0x13).setReg (aEthMacLo 1) 0x44332202 |>.onEth 1 f

/-- Thread 3 of slot 143 is Landward supervisor code; the journal's sector 1 is active with an empty record area; operations wait. -/
def wJrnl (ops : List JOp) : State :=
  let s := ((((State.reset.setReg aJrnlSect 0x1000).setReg aJrnlBase 0x30000).setReg aJrnlUsed 0x10).setReg aJrnlSeq 7).setReg aJrnlStat 2
  { s.setThread 143 3 ({ Thread.reset with running := true }.setCreg 0x80 7) with jrnl := ops }

/-- The device in RUN with an envelope in the control port's channel. -/
def wSec (e : List Byte) : State :=
  { State.reset with pwr := { Pwr.reset with mode := .run }, sec := { CmdProc.reset with cpReq := some e } }

/-- A MUTE_OVERRIDE envelope under the key of slot 2. -/
def wEnv (c : Nat) (v : Byte) : List Byte :=
  (leBytes 2 0x0301 ++ leBytes 2 2 ++ leBytes 8 c ++ leBytes 2 1 ++ leBytes 2 0 ++ [v]) ++
    cmac256 (Config.otpKey 2 (State.reset.keyGen 2)) (leBytes 2 0x0301 ++ leBytes 2 2 ++ leBytes 8 c ++ leBytes 2 1 ++ leBytes 2 0 ++ [v])

/-- The regulator in a step, CKP_VR_STAT, and CKP_CL_OP15, in RUN at a tide frame boundary. -/
def wVr (x : VrSt) (st op : Word) : State :=
  { (State.reset.setReg aCkpVrStat st).setReg (aCkpClOp 15) op with
    ckp := { vr := x, fails := 0 }, pwr := { Pwr.reset with mode := .run }, tide := { Tide.reset with stopped := false } }

/-- The device in a mode, at a tide frame boundary. -/
def wMode (p : Pwr) : State := { State.reset with pwr := p, tide := { Tide.reset with stopped := false } }

/-- A boot header: slots at 0x100000 and 0x200000 of 1 MiB, journal at 0x40000 with sectors of 4 KiB, staging window at 0, all in a flash
of 16 MiB. -/
def wHeader : List Byte :=
  let w := [0x39544F42, 0x0100, 0x100000, 0x200000, 0x100000, 0x40000, 0x1000, 0, 0, 0, 0xFFFFF, 0, 0, 0, 0]
  let h := w.flatMap (leBytes 4)
  h ++ leBytes 4 (crcIeee h)

/-- What the boot ROM finds outside. -/
def wBootEnv : BootEnv :=
  { flashOk := true, sfdp := true, modes := 127, id := 5, sizeK := 16384, erase := 4096, raw0 := 2048, raw1 := 2048, speed0 := 6, speed1 := 5 }

/-- BOOT at stage 0 with bytes at the start of the flash. -/
def wBoot (h : List Byte) : State :=
  ({ State.reset with pwr := { Pwr.reset with mode := .boot } }).program 0 h

/-- A GPIO action on its way. -/
def wGpio : GpioPend := { left := 3, cmp := 5, pin := 71, op := 2 }

/-- StepRunsTheFront: its hypotheses can be met. -/
theorem witness_StepRunsTheFront : (let s := State.reset; s.pending = []) := rfl

/-- EveryStepKeepsTheCanonicalForm: its hypotheses can be met. -/
theorem witness_EveryStepKeepsTheCanonicalForm :
    State.reset.canonical = true ∧ step State.reset = .next (tkEdge State.reset) := ⟨by decide, rfl⟩

/-- TidePositionRows: its hypotheses can be met. -/
theorem witness_TidePositionRows :
    (let s := State.reset; s.counting = true ∧ s.sap.noClk = []) ∧
    (let s := { State.reset with tide := { Tide.reset with framePos := 8 } };
      s.counting = true ∧ s.tide.nNow ≤ s.tide.framePos ∧ s.tide.phase = 0) ∧
    (let s := { State.reset with tide := { Tide.reset with stopped := true } }; s.tide.stopped = true) := by decide

/-- TideLockRows: its hypotheses can be met. -/
theorem witness_TideLockRows :
    (let s := State.reset.setReg aTideRef 0x41
     let u : RefUpdate := ⟨1, 4, 5, 6, 7, 8, false, 0, false, false⟩
     s.refSrc = u.src ∧ (u.src = 5 ∨ s.refSel = u.sel.val) ∧ u.src ≠ 0 ∧ (u.family = false ∨ 1000000 < wordAbs u.refOfs)) ∧
    (let s := { State.reset.setReg aTideRef 0x41 with tide := { Tide.reset with lock := .acquire } }
     let u : RefUpdate := ⟨1, 4, 50000, 1000, 7, 1000000, true, 0, false, false⟩
     s.refSrc = u.src ∧ s.refSel = u.sel.val ∧ u.family = true ∧ wordAbs u.refOfs ≤ 1000000 ∧ s.tide.lock = .acquire) ∧
    (let s := { State.reset.setReg aTideRef 5 with camp := { Camp.reset with pos := some (-3) } }
     let u : RefUpdate := ⟨5, 4, 0, 0, 7, 0, true, 0, false, false⟩
     s.refSrc = u.src ∧ (s.refError u).isSome = true) ∧
    (let s := { State.reset.setReg aTideRef 0x44 with eth := { Eth.reset with crf := [(4, 9)] } }
     let u : RefUpdate := ⟨4, 4, 0, 0, 7, 0, true, 0, false, false⟩
     s.refSrc = u.src ∧ s.refSel = u.sel.val ∧ (s.refError u).isSome = true) ∧
    (let s := { State.reset with tide := { Tide.reset with lock := .acquire, inLimits := 32 } }
     s.tide.lock = .acquire ∧ max 1 (fld (s.reg aTideHold) 16 8) ≤ s.tide.inLimits) ∧
    (let s := { State.reset with tide := { Tide.reset with lock := .locked, farOff := true } }
     s.tide.lock = .locked ∧ (false = true ∨ s.tide.farOff = true)) ∧
    (let s := { State.reset.setReg aTideHold 0x200001 with tide := { Tide.reset with lock := .holdover, returns := 8 } }
     s.tide.lock = .holdover ∧ 8 ≤ s.tide.returns ∧ fld (s.reg aTideHold) 0 16 ≠ 0) := by decide

/-- TideCompareRows: its hypotheses can be met. -/
theorem witness_TideCompareRows :
    (let s := (State.reset.setReg (aTideCmpCtl 223) 1).setCmp 223 { Cmp.init with armed := true }
     s.counting = true ∧ s.cmpMatches (223 : Fin 256) = true ∧ s.cmpMode (223 : Fin 256) ≠ 2) ∧
    (let s := ((State.reset.setReg (aTideCmpCtl 0) 2).setReg (aTideCmpPer 0) 1).setCmp 0 { Cmp.init with armed := true }
     s.counting = true ∧ s.cmpMatches (0 : Fin 256) = true ∧ s.cmpMode (0 : Fin 256) = 2 ∧ s.reg (aTideCmpPer (0 : Fin 256)) ≠ 0) ∧
    (let s := { State.reset.setReg (aGpioOe 2) 0x80 with tide := { Tide.reset with gpioPend := [wGpio] } }
     s.tide.gpioPend = [wGpio] ∧ wGpio.pin = (71 : Fin 72).val ∧ wGpio.op = 2 ∧ fld (s.reg (aPinSel (71 : Fin 72))) 0 3 = 0 ∧ s.gpBit aGpioOe (71 : Fin 72) = true ∧ 2 < 3) :=
  by decide

/-- TempoRows: its hypotheses can be met. -/
theorem witness_TempoRows_at (n : Nat) : (State.reset.cmp n).armed = false := rfl

theorem witness_TempoRows :
    (let s := { State.reset with tide := { Tide.reset with queue := List.replicate 7 ⟨0, 0, false⟩ } }
     s.tide.queue.length < 8 ∧ s.refSrc ≠ 5) ∧
    (let s := { State.reset with tide := { Tide.reset with count := 5, queue := [⟨4, 9, false⟩] } }
     s.tide.queue = [⟨4, 9, false⟩] ∧ s.counting = true ∧ s.tide.phase = 0 ∧ (4 : BitVec 48).toNat < s.tide.count.toNat % 2 ^ 48) ∧
    (let s := { State.reset with tide := { Tide.reset with step := some 3 } }
     s.tide.step = some 3 ∧ s.counting = true ∧ s.atFrameBoundary = true) ∧
    (let s := { State.reset with tide := { Tide.reset with step := some (-2) } }
     s.tide.step = some (-2) ∧ s.counting = true ∧ s.atFrameBoundary = true ∧ (-2 : BitVec 64).toInt ≤ 0) := by decide

/-- FullTempoQueueIgnoresPushes: its hypotheses can be met. -/
theorem witness_FullTempoQueueIgnoresPushes :
    let s := { State.reset with tide := { Tide.reset with queue := List.replicate 8 ⟨0, 0, false⟩ } }
    s.tide.queue.length = 8 ∧ Instr.tempoPush ∈ [Instr.tempoPush, .locatePush] := by decide

/-- TideRowsLeaveTheRest: its hypotheses can be met. -/
theorem witness_TideRowsLeaveTheRest : exec .snapshot State.reset = .next (snapshot State.reset) := rfl

set_option maxRecDepth 50000 in
/-- BundlesReadBeforeTheyWrite: its hypotheses can be met. -/
theorem witness_BundlesReadBeforeTheyWrite :
    (let s := wCore 5 [wOp 0 7 6 5 0, wOp 0 8 7 6 0] (fun th => th.write (.d 6 9));
     (s.bundleAt 143 3 wI).map (fun b => s.issues 143 3 wI && (liveOps false (s.thread 143 3) b.1).all (fun e => e.2.2.plain) &&
       decide (b.2 = 4) && !bit ((s.thread 143 3).creg 0x11) 17 && (branchIn false b.1).isNone && decide (b.1.length = 1)) = some true) ∧
    (let s := wCore 5 [wOp 0x10 3 6 5 0 - 0x80000000, wOp 0 8 7 6 0] (fun th => th.write (.d 6 9));
     (s.bundleAt 143 3 wI).map (fun b => s.issues 143 3 wI && (liveOps false (s.thread 143 3) b.1).all (fun e => e.2.2.plain) &&
       decide (b.2 = 8) && (branchIn false b.1).isNone && decide (b.1.length = 2)) = some true) ∧
    (let s := wCore 5 [0x8000A1B2] (fun th => th.write (.d 6 9));
     (s.bundleAt 143 3 wI).map (fun b => s.issues 143 3 wI && (liveOps false (s.thread 143 3) b.1).all (fun e => e.2.2.plain) &&
       decide (b.2 = 2)) = some true) := by decide

set_option maxRecDepth 50000 in
/-- SingleOperationsTakeEffect: its hypotheses can be met. -/
theorem witness_SingleOperationsTakeEffect :
    (let s := wCore 5 [wOp 0x08 1 2 0 0] (fun th => th.write (.a 2 0x40000100));
     wOne s = some (.load .w 1 2 (.off 0)) ∧ ((s.atIssue 143 3 wI).accessOf 143 ((s.atIssue 143 3 wI).thread 143 3) false 4 2 (.off 0)).getLeft? =
       some (localBase 143 + 0x100) ∧ (regionOf (localBase 143 + 0x100)).map (fun r => r.slot?) = some (some 143)) ∧
    (let s := wCore 5 [wOp 0x09 1 2 0 0] (fun th => (th.write (.a 2 0x40000100)).write (.d 1 0x12345678));
     wOne s = some (.store .w 1 2 (.off 0)) ∧ s.isT2 143 = false) ∧
    (let s := wCore 5 [wOp 0x18 0 0 0 8] (fun th => th); wOne s = some (.branch (.rel 16) false false)) ∧
    (let s := wCore 5 [wOp 0x1C 0 7 0 2] (fun th => th.write (.a 7 0x20000100)); wOne s = some (.branch (.reg 7) false false)) ∧
    (let s := wCore 5 [wOp 0x19 0 0 0 8] (fun th => th); wOne s = some (.branch (.rel 16) false true)) ∧
    (let s := wCore 5 [wOp 0x1A 0 0 0 8] (fun th => th); wOne s = some (.branch (.rel 16) true false)) ∧
    (let s := wCore 5 [wOp 0x1D 6 1 0 8] (fun th => th); wOne s = some (.loopI 2 3 8)) ∧
    (let s := wCore 5 [wOp 0x1F 1 2 3 1] (fun th => th); wOne s = some (.long 1 1 2 3)) ∧
    (let s := wCore 5 [wOp 0x20 0 0 4 0] (fun th => th); wOne s = some (.movc 0 0 4)) ∧
    (let s := wCore 0 [wOp 0x20 0 0x10 4 1] (fun th => th.write (.d 4 0xFFFFFFFF)); wOne s = some (.movc 1 0x10 4)) ∧
    (let s := { wCore 5 [wOp 0x21 7 31 0 0] (fun th => th) with cmps := [(255, { Cmp.init with fired := true })] }.setReg (aTideCmpCtl 255) 0x30;
     wOne s = some (.waitt 255)) ∧
    (let s := wCore 5 [wOp 0x21 0 0 3 1] (fun th => th); wOne s = some (.syncw 3)) ∧
    (let s := wCore 5 [wOp 0x21 0 0 0 2] (fun th => th); wOne s = some .lbar) ∧
    (let s := wCore 0 [wOp 0x21 31 31 0 3] (fun th => th); wOne s = some (.gate 1023)) ∧
    (let s := wCore 5 [wOp 0x21 0 0 4 5] (fun th => th.write (.d 4 9)); wOne s = some (.setmode 4)) ∧
    (let s := wCore 5 [wOp 0x21 0 0 0 4] (fun th => (th.setSv 5 0 0x20000040).setSv 5 1 0x8); wOne s = some .rfe) := by decide

set_option maxRecDepth 50000 in
/-- EntriesSaveAndRedirect: its hypotheses can be met. -/
theorem witness_EntriesSaveAndRedirect :
    (let s := wVec (wCore 0x8 [wOp 0 7 6 5 0] (fun th => wPriv th)) 1;
     s.threadRuns 143 3 = true ∧ (s.sampled 143 3 1).takes 143 3 = some (true, 1) ∧
     ((s.sampled 143 3 1).entering 143 3 (Cause.of 1) true 1 0x20000000 none).handler? 143 3 true 1 1 .ok = some 0x20000800 ∧
     ((s.sampled 143 3 1).thread 143 3).imprec = [] ∧ ((s.sampled 143 3 1).thread 143 3).shadow = none) ∧
    (let s := wVec (wCore 0 [wOp 0x21 31 31 0 6] (fun th => th)) 3;
     wOne s = some (.trap 1023) ∧ excTarget false 0 = some (false, 1) ∧
     ((s.atIssue 143 3 wI).entering 143 3 { Cause.of 3 with info := 1023 } false 1 0x20000004 none).handler? 143 3 false 1 3 .ok =
       some 0x20000800) := by decide

set_option maxRecDepth 50000 in
/-- CoreEventRows: its hypotheses can be met. -/
theorem witness_CoreEventRows :
    (let s := wCore 5 [] (fun th => { th with long := [longOf th 0 1 4 5 6 0 0 |> fun o => { o with bv := 3, av := 100, due := 1 }] });
     ((advance 143 1 s).thread 143 3).long.map (fun o => (o.due, o.byZero)) = [(1, false)] ∧ ((advance 143 1 s).core 143).clk = 1) ∧
    (let s := wCore 5 [wOp 0x21 7 31 0 0] (fun th => { th with wait := .waitt 255 0x20000000 true 0 0 }); wOne s = some (.waitt 255)) ∧
    (let s := wReq (.done [1, 2, 3, 4]) (wCore 5 [] (fun th => { th with far := [wFarLoad] }));
     (s.thread 143 3).far = [wFarLoad] ∧ wFarLoad.parts = [{ id := 0, addr := 0x2000, data := none }] ∧ s.reqSt? 0 = some (.done [1, 2, 3, 4])) ∧
    (let s := wReq (.done [1, 2, 3, 4]) (wCore 5 [] (fun th => { th with fetch := [⟨0, 0x2000, true, true⟩] }));
     (s.thread 143 3).fetch = [⟨0, 0x2000, true, true⟩] ∧ s.reqSt? 0 = some (.done [1, 2, 3, 4])) ∧
    (let s := wReq (.failed false) (wCore 5 [] (fun th => { th with posted := [0], postIn := [⟨0, 5, false⟩] }));
     (s.thread 143 3).posted.contains 0 = true ∧ (s.req? 0).map (fun q => q.st) = some (.failed false) ∧ (s.thread 143 3).postIn.filter (fun e => decide (e.id = 0)) = [⟨0, 5, false⟩]) ∧
    (let s := wReq (.done []) (wCore 5 [] (fun th => { th with posted := [0] }));
     (s.thread 143 3).posted.contains 0 = true ∧ (s.req? 0).map (fun q => q.st) = some (.done [])) ∧
    (let s := wCore 5 [] (fun th => { th with sbuf := [wSb] });
     (s.thread 143 3).sbuf = [wSb] ∧ wSb.ue = [] ∧ wSb.at_ < ((advance 143 1 s).core 143).clk ∧ (s.thread 143 3).far = [] ∧
     (regionOf (localBase 143 + 0x3FFFC)).map (fun r => r.slot?) = some (some 143)) ∧
    (let s := wCore 5 [] (fun th => (th.setCreg 0x102 1).setCreg 0x100 7);
     bit ((s.thread 143 3).creg 0x102) 0 = true ∧ ((s.thread 143 3).creg 0x100).toNat = 7) := by decide

/-- FabricBeatsReachMemory: its hypotheses can be met. -/
theorem witness_FabricBeatsReachMemory :
    (let s := (State.reset.request .loader .store 0x01FFFFF8 8 (leBytes 8 5) 0).1;
     s.req? 0 = some ⟨0, .loader, .store, 0x01FFFFF8, 8, leBytes 8 5, 0, 3, false, none, .waiting⟩ ∧
     s.grants 0 {} = true ∧ s.sap.puts = [] ∧ s.beatLen 0x01FFFFF8 8 = 8 ∧
     s.access (Initiator.anySlot .loader) true 0x01FFFFF8 8 = .mem .reservoir 0x01FFFFF8 ∧
     s.stagingHeld = false ∧ wholeWords 0x01FFFFF8 8 = true ∧ (leBytes 8 5).length = 8) ∧
    (let s := ((State.reset.request (.ferry 0) .load 0x4010000008 4 [] 0).1).setThread 0 0 { Thread.reset with posted := [0] };
     s.req? 0 = some ⟨0, .ferry 0, .load, 0x4010000008, 4, [], 0, 3, false, none, .waiting⟩ ∧
     s.grants 0 {} = true ∧ s.beatLen 0x4010000008 4 = 4 ∧ s.awaited 0 = true ∧
     s.access (Initiator.anySlot (.ferry 0)) false 0x4010000008 4 = .mirror true (.shared 0) 0x10000008) ∧
    (let s := ((State.reset.request .host .store 0x02000000 8 (leBytes 8 5) 0).1).setThread 0 0 { Thread.reset with posted := [0] };
     s.req? 0 = some ⟨0, .host, .store, 0x02000000, 8, leBytes 8 5, 0, 4, false, none, .waiting⟩ ∧ s.awaited 0 = true ∧
     s.grants 0 {} = true ∧ s.beatLen 0x02000000 8 = 8 ∧
     s.access (Initiator.anySlot .host) true 0x02000000 8 = .fail) ∧
    (let s := ((State.reset.request .host .store 0x01FFFFF8 8 (leBytes 8 5) 0).1.request .breakwater .load 0x01F00000 8 [] 0).1;
     s.req? 0 = some ⟨0, .host, .store, 0x01FFFFF8, 8, leBytes 8 5, 0, 4, false, none, .waiting⟩ ∧
     s.olderOpen ⟨0, .host, .store, 0x01FFFFF8, 8, leBytes 8 5, 0, 4, false, none, .waiting⟩ = false ∧
     s.arbAt 0x01FFFFF8 = some 31 ∧ asleep ⟨0, .host, .store, 0x01FFFFF8, 8, leBytes 8 5, 0, 4, false, none, .waiting⟩ s = false ∧
     s.grants 0 {} = false ∧ s.grants 0 { quota := true } = true ∧ s.grants 1 {} = true) := by decide

/-- AliasStoresSetAndClearBits: its hypotheses can be met. -/
theorem witness_AliasStoresSetAndClearBits :
    let s := (State.reset.request (.ferry 63) .store 0x8001FFFFFC 4 (leBytes 4 5) 0).1;
    s.req? 0 = some ⟨0, .ferry 63, .store, 0x8001FFFFFC, 4, leBytes 4 5, 0, 3, false, none, .waiting⟩ ∧
    s.grants 0 {} = true ∧ s.sap.puts = [] ∧ s.beatLen 0x8001FFFFFC 4 = 4 ∧ (leBytes 4 5).length = 4 ∧
    s.access (Initiator.anySlot (.ferry 63)) true 0x8001FFFFFC 4 = .mirror false .reservoir 0x1FFFFFC ∧ s.stagingHeld = false := by decide

/-- UncorrectableErrorLog: its hypotheses can be met. -/
theorem witness_UncorrectableErrorLog :
    let s := { State.reset with memc := { MemCtl.reset with pass := [15, 16] } };
    s.memc.pass.contains (16 : Fin 17).val = true ∧ scrubCovers (16 : Fin 17) (0x1FFFFF8 : BitVec 44).toNat = true ∧
    (0x1FFFFF8 : BitVec 44).toNat % 8 = 0 ∧ s.scrubbed (16 : Fin 17) 0x1FFFFF8 = false ∧ s.arbAt 0x1FFFFF8 = some 31 ∧
    s.fourTurn 31 (Initiator.code .scrubber) 0 = true ∧ (regionOf (0x1FFFFF8 : BitVec 44).toNat).bind Region.slot? = none ∧ s.memc.ue.length < 8 ∧
    scrubCovers (15 : Fin 17) (0x13FFFFF8 : BitVec 44).toNat = true ∧ s.memc.ue = [] := by decide

/-- MemoryControlRows: its hypotheses can be met. -/
theorem witness_MemoryControlRows :
    (let s := (State.reset.request (.ferry 0) .load 0 4 [] 0).1.arrive 0 [];
     s.req? 0 = some ⟨0, .ferry 0, .load, 0, 4, [], 0, 3, true, none, .waiting⟩ ∧ s.arbAt 0 = some 0 ∧ liftAfter 3 = some 10 ∧
     (s.headOf 0 3 false).map (fun x => x.id) = some 0 ∧
     fld (s.reg aMemcLstarvLim) 0 16 < 0x10000) ∧
    (let s := { State.reset with memc := { MemCtl.reset with pass := [16], scrub := [(16, [(0, 0x2000000)])] } };
     s.memc.pass.contains (16 : Fin 17).val = true ∧ smGet (fun _ => []) s.memc.scrub (16 : Fin 17).val = scrubSpans (16 : Fin 17)) ∧
    (let s := { State.reset with memc := { MemCtl.reset with pass := [16, 0], passDue := [0] } };
     s.scrubbed (16 : Fin 17) 0 = false ∧ s.arbAt 0 = some 0 ∧ s.fourTurn 0 (Initiator.code .scrubber) 0 = true ∧
     s.memc.pass.contains (16 : Fin 17).val = true ∧ scrubCovers (16 : Fin 17) (0 : BitVec 44).toNat = true ∧ s.wakeSpan 0 8 = s ∧
     scrubCovers (0 : Fin 17) (0x2023FFF8 : BitVec 44).toNat = true) ∧
    (let s := { State.reset with memc := { MemCtl.reset with pwr := [(0, .wakeOff), (47, .wakeRet)] } };
     s.memPwr (47 : Fin 48) = .wakeRet ∧ s.memPwr (0 : Fin 48) = .wakeOff) ∧
    (let s := { State.reset.setReg aMemcWakeIdle 1 with pwr := { Pwr.reset with mode := .neap }, memc := { MemCtl.reset with woken := [47] } };
     s.memc.woken.contains (47 : Fin 48).val = true ∧ s.pwr.mode = .neap ∧ fld (s.reg aMemcWakeIdle) 0 16 ≠ 0 ∧ s.memPwr (47 : Fin 48) = .on) := by decide

/-- MemoryControlRowsLeaveTheRest: its hypotheses can be met. -/
theorem witness_MemoryControlRowsLeaveTheRest : exec .memcUePop State.reset = .next State.reset := rfl

/-- FerryProgramRows: its hypotheses can be met. -/
theorem witness_FerryProgramRows :
    (let s := wFry [0x0000000000000000]; s.fclkRuns = true ∧ (s.fry 63).st = .run ∧ (s.fry 63).instr.1 = some .nop) ∧
    (let s := wFry [0xA000000000000100]; (s.fry 63).instr.1 = some (.jump 0x100)) ∧
    (let s := wFry [0x30000000FFFFFFFF]; (s.fry 63).instr.1 = some (.loop 0xFFFFFFFF) ∧ (s.fry 63).loops.length < 2) ∧
    (let s := (wFry [0x4000000000000000]).onFry 63 (fun c => { c with loops := [(8, 2)] }); (s.fry 63).instr.1 = some .endl ∧ (s.fry 63).loops ≠ []) ∧
    (let s := wFry [0x50000000000000FF]; (s.fry 63).instr.1 = some (.waitCmp 255)) ∧
    (let s := wFry [0x510000000400000F]; (s.fry 63).instr.1 = some (.waitEvt 15 1024)) ∧
    (let s := (wFry [0x520000000000013F]).setReg aFrygFlagHi 0x80000000; (s.fry 63).instr.1 = some (.waitFlag 63 true) ∧ s.fryFlagOn 63 = true) ∧
    (let s := wFry [0x6000000000000000]; (s.fry 63).instr.1 = some .sigInt ∧ (s.fry 63).writes = []) ∧
    (let s := wFry [0x610000000000003F]; (s.fry 63).instr.1 = some (.sigFlag 63 true) ∧ (s.fry 63).writes = [] ∧
      s.ferry.all (fun e => decide (e.2.wait ≠ .flag 63 true)) = true) ∧
    (let s := wFry [0x620000000000003F]; (s.fry 63).instr.1 = some (.sigFlag 63 false)) ∧
    (let s := wFry [0x7000000000000001]; (s.fry 63).instr.1 = some (.fence true) ∧ (s.fry 63).writes = [] ∧ (s.fry 63).wfRec = false) ∧
    (let s := wFry [0x82000000FFFFFFFF]; (s.fry 63).instr.1 = some (.crcInit 2 0xFFFFFFFF)) ∧
    (let s := wFry [0x8400000000000021, 0x101F]; (s.fry 63).instr.1 = some (.crcFold 0x101F 33) ∧ (s.fry 63).fold = none ∧
      (s.fry 63).tagsUsed < 64 ∧ s.fryMay 63 0x101F 1 false = true) ∧
    (let s := wFry [0x8880000000001004]; (s.fry 63).instr.1 = some (.crcStore true 0x1004) ∧ (s.fry 63).writes = [] ∧
      s.fryMay 63 0x1004 4 true = true) ∧
    (let s := wFry [0x9000000000000000]; (s.fry 63).instr.1 = some (.park 0) ∧ s.fryProgOk 0 = true) ∧
    (let s := wFry [0xB000000000000000]; (s.fry 63).instr.1 = some .endProg ∧ (s.fry 63).writes = [] ∧ (s.fry 63).wfRec = false) ∧
    (let s := wFry [0x1B30000000000005, 0x2000, 0x3000]; (s.fry 63).instr.1 = some (.move (moveOf 0x1B30000000000005 0x2000 0x3000 0)) ∧
      fryBadElem 0x2000 2 = false ∧ fryBadElem 0x3000 3 = false ∧ (List.range 33).all (fun l => s.fryMay 63 0x2000 l false) = true ∧
      0 < (moveOf 0x1B30000000000005 0x2000 0x3000 0).total) ∧
    (let s := wFry [0x2800000000020003, 0x2000, 0x3000, 0x0030030010000100]; ((s.fry 63).instr.1 =
        some (.move (moveOf 0x2800000000020003 0x2000 0x3000 0x0030030010000100)) ∧ fryBadElem 0x2000 2 = false ∧ fryBadElem 0x3000 0 = false)) ∧
    (let s := wFry [0xF000000000000000]; (s.fry 63).instr.1 = some (.illegal 0)) := by decide

/-- FerryTrafficRows: its hypotheses can be met. -/
theorem witness_FerryTrafficRows :
    (let s := wFryC (fun c => { c with st := .wait, released := true, wait := .cmp 255 }); (s.fry 63).st = .wait ∧ (s.fry 63).released = true) ∧
    (let s := wFryC (fun c => { c with st := .parked, released := true }); (s.fry 63).st = .parked ∧ (s.fry 63).released = true) ∧
    (let s := wReq (.done [1, 2]) (wFryC (fun c => { c with st := .run, fetch := some ⟨0, 0, true⟩ }));
     (s.fry 63).fetch = some ⟨0, 0, true⟩ ∧ s.reqSt? 0 = some (.done [1, 2])) ∧
    (let s := wReq (.done [1, 2]) (wFryC (fun c => { c with st := .run, fold := some (0x2003, 5, 8), reads := [⟨0, 3, 0x2000, true⟩] }));
     (s.fry 63).reads.head? = some ⟨0, 3, 0x2000, true⟩ ∧ s.reqSt? 0 = some (.done [1, 2]) ∧ (s.fry 63).fold = some (0x2003, 5, 8)) ∧
    (let s := wReq (.done [1, 2]) (wFryC (fun c => { c with st := .run, hold := [7], reads := [⟨0, 2, 0x2001, true⟩], cur := some { moveOf 0x1BC0000000000001 0x2000 0x301C 0 with rd := 1 } }));
     (s.fry 63).reads.head? = some ⟨0, 2, 0x2001, true⟩ ∧ (s.fry 63).fold = none ∧ (s.fry 63).tagsUsed < 64 ∧
     s.fryMay 63 0x301C 4 true = true ∧ inBlock 0x301C 4 = true ∧ (moveOf 0x1BC0000000000001 0x2000 0x301C 0).dstAt 0 = 0x301C ∧
     (moveOf 0x1BC0000000000001 0x2000 0x301C 0).total = 1 ∧ fryW (moveOf 0x1BC0000000000001 0x2000 0x301C 0).sw = 3) ∧
    (let s := (wReq (.done []) (wFryC (fun c => { c with st := .run, writes := [⟨0, 0x301C, 4, 0, 0⟩] }))).setReg (aFryMoved 63) 0xFFFFFFFE;
     (s.fry 63).writes.find? (fun x => decide (x.id = 0)) = some ⟨0, 0x301C, 4, 0, 0⟩ ∧ s.reqSt? 0 = some (.done []) ∧ (s.fry 63).cur = none) ∧
    (let s := wReq (.failed true) (wFryC (fun c => { c with st := .run, writes := [⟨0, 0x301C, 4, 0, 0⟩] }));
     s.reqSt? 0 = some (.failed true) ∧ (s.fry 63).begun = false) := by decide

/-- FerryCommandRows: its hypotheses can be met. -/
theorem witness_FerryCommandRows :
    (let s := wFryC (fun c => { c with st := .error, pc := 0x18 });
     (s.fry 63).halted = true ∧ s.fryMay 63 0 32 false = true ∧ s.fryProgOk 0 = true ∧ (s.fry 63).st ≠ .idle) ∧
    (let s := wFryC (fun c => { c with st := .stopping, begun := true }); (s.fry 63).st = .stopping ∧ (s.fry 63).ending = false) ∧
    (let s := wFryC (fun c => { c with st := .paused, back := .parked }); (s.fry 63).st = .paused ∧ (s.fry 63).released = false ∧
     (s.fry 63).cur = none ∧ (s.fry 63).back = .parked) ∧
    (let s := wFryC (fun c => { c with st := .run }); (s.fry 63).st = .run ∧ (s.fry 63).ending = false) ∧
    (let s := wFryC (fun c => { c with st := .wait, wait := .cmp 0 }); (s.fry 63).st = .wait ∧ (s.fry 63).ending = false) ∧
    (let s := wFryC (fun c => { c with st := .completed }); (s.fry 63).st = .completed ∧ (s.fry 63).halted = true) := by decide

/-- FerryFlagRows: its hypotheses can be met. -/
theorem witness_FerryFlagRows :
    (let s := wFryC (fun c => { c with st := .wait, wait := .flag 31 false });
     (s.fry 63).inWait = true ∧ (s.fry 63).wait = .flag 31 false ∧ bit 0x80000000 31 = true ∧
     s.ferry.all (fun e => (match e.2.wait with | .flag _ true => false | _ => true)) = true) := by decide

/-- FerryRowsLeaveTheRest: its hypotheses can be met. -/
theorem witness_FerryRowsLeaveTheRest :
    exec (.abort ⟨63, .none⟩) (State.reset.setFry 63 { Ferry.reset with st := .wait }) = .next (abortRow 63 .none (State.reset.setFry 63 { Ferry.reset with st := .wait })) := rfl

/-- SourceLevelRows: its hypotheses can be met. -/
theorem witness_SourceLevelRows :
    (let s := (State.reset.setReg aTideStat 0x4000).setReg aTideIen 0x4000;
     srcExists (.shared 340) = true ∧ s.fclkRuns = true ∧ (s.src (.shared 340)).level ≠ s.sourceLevel (.shared 340)) ∧
    (let s := State.reset.onThread 3 1 (fun th => th.setCreg 0x103 0x400);
     srcExists (.priv 3 1 10) = true ∧ (s.src (.priv 3 1 10)).level ≠ s.sourceLevel (.priv 3 1 10)) := by decide

/-- DoneMovesToHoldoff: its hypotheses can be met. -/
theorem witness_DoneMovesToHoldoff :
    (let s := State.reset.setSrc (.priv 0 1 31) { Src.init with st := .active };
     (31 : Fin 1024).val < 32 ∧ (s.src (.priv 0 1 (Fin.ofNat 32 (31 : Fin 1024)))).st = .active) ∧
    (let s := (State.reset.setReg (aBwtrSlotmap 0) 0xFFFFFFF0).setSrc (.shared 32) { Src.init with st := .active };
     (s.src (.shared (Fin.ofNat 416 (32 : Fin 1024)))).st = .active ∧
     s.lcoreOf (0 : Fin 144) = some (s.src (.shared (Fin.ofNat 416 (32 : Fin 1024)))).srv.lcore ∧
     (s.src (.shared (Fin.ofNat 416 (32 : Fin 1024)))).srv.thr = (0 : Fin 4).val) ∧
    (let s := State.reset.setSrc (.shared 415) { Src.init with st := .holdoff, swpend := true };
     (s.src (.shared 415)).st = .holdoff) ∧
    (let s := State.reset;
     (s.src (.priv 0 1 (Fin.ofNat 32 (31 : Fin 1024)))).st ≠ .active ∧ (s.src (.shared (Fin.ofNat 416 (32 : Fin 1024)))).st ≠ .active) := by
  decide

/-- ClaimTakesTheHighestPriority: its hypotheses can be met. -/
theorem witness_ClaimTakesTheHighestPriority :
    (let s := ((State.reset.setReg (aBwtrSlotmap 0) 0xFFFFFFF0).setSrc (.priv 0 0 1) { Src.init with swpend := true, st := .pending }).onThread 0 0 (fun th => (((th.setCreg 0x107 0).setCreg 0x10A 0).setCreg 0x80 1));
     s.memc.reqs = [] ∧ smWf (fun _ => Src.init) s.srcs = true ∧ smWf (fun _ => Src.init) (s.thread (0 : Fin 144) (0 : Fin 4)).priv = true ∧
     (s.thread 0 0).level = 1 ∧ s.eligible (0 : Fin 144) (0 : Fin 4) (s.thread 0 0).land (decide ((s.thread 0 0).level = 2)) = [(true, 1, 0)]) ∧
    (let s := State.reset;
     s.memc.reqs = [] ∧ s.eligible (143 : Fin 144) (3 : Fin 4) (s.thread 143 3).land (decide ((s.thread 143 3).level = 2)) = []) := by decide

/-- SourceSoftwareRows: its hypotheses can be met. -/
theorem witness_SourceSoftwareRows :
    (let s := State.reset; 1 ≤ (12 : Fin 13).val ∧ s.icRight .loader (s.cstOf .loader) = .all ∧ 32 ≤ (415 : Fin 416).val) ∧
    (let s := State.reset; 1 ≤ (1 : Fin 13).val ∧ s.icRight (.ferry 63) (s.cstOf (.ferry 63)) = .pendAll) ∧
    (let s := State.reset.setReg (aBwtrSlotmap 0) 0x10;
     s.icRight .loader (s.cstOf .loader) ≠ .refused ∧ s.icRight .loader (s.cstOf .loader) ≠ .seaOnly ∧ s.slotOf (fld (0 : Word) 0 7) = some 0) :=
  by decide

/-- SourceRowsLeaveTheRest: its hypotheses can be met. -/
theorem witness_SourceRowsLeaveTheRest :
    exec (.icMaskSet .loader 1 5) State.reset = .next (icMask .all 1 5 true State.reset) := rfl

set_option maxRecDepth 50000 in
/-- CommitOrBridge: its hypotheses can be met. -/
theorem witness_CommitOrBridge :
    let p : Part := { part := 31, land := true, cls := 0, profile := 0, policy := 0, thrEn := 1, fmul := 0, prio := 1, ssEn := true, ebbSeg := 2, floodSeg := 3, window := 0, bpred := true, budget := 20000, state := 0, cores := 1, h0 := 0x10000000, half := 0x100 }
    let s := { State.reset with setup := { Setup.none with parts := [{ part := 31, land := true, cls := 0, profile := 0, policy := 0, thrEn := 1, fmul := 0, prio := 1, ssEn := true, ebbSeg := 2, floodSeg := 3, window := 0, bpred := true, budget := 20000, state := 0, cores := 1, h0 := 0x10000000, half := 0x100 }] }, bw := { Bwtr.reset with pts := [(31, { PtRun.init with inFrame := true, failed := true })], lcs := [(0, { LcRun.init with ready := true })] } };
    s.fclkRuns = true ∧ s.stagingHeld = false ∧ s.part? (31 : Fin 32) = some p ∧ (s.pt (31 : Fin 32)).failed = true ∧ s.ptShed (31 : Fin 32) = false ∧ p.lcores.all (fun l => s.lcDone (31 : Fin 32) l) = true ∧
    (s.pt (31 : Fin 32)).inFrame = true ∧ (s.pt (31 : Fin 32)).committed = false ∧ (regionOf (p.h0 + 2 * p.half)).isSome = true ∧
    (let s := { ((State.reset.setReg (aCorePipeCfg 0) 0).setReg (aCorePipeCfg 1) 0) with setup := { Setup.none with parts := [{ part := 31, land := true, cls := 2, profile := 0, policy := 0, thrEn := 1, fmul := 0, prio := 1, ssEn := true, ebbSeg := 2, floodSeg := 3, window := 0, bpred := true, budget := 20000, state := 0, cores := 3, h0 := 0x10000000, half := 0x100 }] }, bw := { Bwtr.reset with pts := [(31, { PtRun.init with inFrame := true })], lcs := [(0, { LcRun.init with sig := 1 })] }, threads := [(0, { Thread.reset with wait := .waitt 255 0 false 0 0 }), (4, { Thread.reset with wait := .waitt 255 0 false 0 0 })], cores := [(0, { CoreSt.reset with clk := 10 }), (1, { CoreSt.reset with clk := 10 })] };
     (s.part? (31 : Fin 32)).map (fun q => (recordRuns q s).mismatch q) = some [0] ∧ (s.part? (31 : Fin 32)).map (fun q => q.lcores.all (fun l => s.lcDone (31 : Fin 32) l)) = some true ∧
     s.ptShed (31 : Fin 32) = false ∧ (s.pt (31 : Fin 32)).inFrame = true ∧ (s.pt (31 : Fin 32)).failed = false) ∧
    (let s := { State.reset with bw := { Bwtr.reset with pts := [(31, { PtRun.init with awaiting := true })] } };
     (s.pt (31 : Fin 32)).awaiting = true ∧ s.part? (31 : Fin 32) = none) := by decide

/-- CoreFaultRows: its hypotheses can be met. -/
theorem witness_CoreFaultRows :
    let s0 := (State.reset.setReg (aBwtrSlotmap 15) 0x76543210).setLc 127 { LcRun.init with inj := some 4, ripe := true };
    let s := { s0 with bw := { s0.bw with notes := [(142, localBase 142)] } };
    let k : Fin 144 := 142;
    k.val % 9 ≠ 8 ∧ s.inService k = true ∧ s.spareFree (k / 9) = true ∧ s.lcoreOf k = some 127 ∧
    s.isOwn k (s.plain (BitVec.ofNat 44 (localBase 142)).toNat / 8 * 8) = true ∧
    s.bw.notes.any (fun n => decide (n.1 = k.val) && decide (n.2 / 8 = s.plain (BitVec.ofNat 44 (localBase 142)).toNat / 8)) = true ∧ (s.lc 127).ripe = true ∧ s.slotOf 127 = some k.val ∧ (s.lc 127).inj = some 4 ∧ s.bw.log.length < 64 := by
  decide

/-- BreakwaterFrameRows: its hypotheses can be met. -/
theorem witness_BreakwaterFrameRows_part :
    let s := { (State.reset.setReg aBwtrCfg 0).setReg (aCorePipeCfg 0) 0 with setup := { Setup.none with parts := [{ part := 31, land := true, cls := 0, profile := 0, policy := 0, thrEn := 1, fmul := 0, prio := 1, ssEn := true, ebbSeg := 2, floodSeg := 3, window := 0, bpred := true, budget := 20000, state := 0, cores := 1, h0 := 0x10000000, half := 0x100 }] }, bw := { Bwtr.reset with pts := [(31, { PtRun.init with inFrame := true, awaiting := true })], tkos := [⟨0, 8, false, false, false⟩] } };
    let p : Part := { part := 31, land := true, cls := 0, profile := 0, policy := 0, thrEn := 1, fmul := 0, prio := 1, ssEn := true, ebbSeg := 2, floodSeg := 3, window := 0, bpred := true, budget := 20000, state := 0, cores := 1, h0 := 0x10000000, half := 0x100 };
    s.slotOf (0 : Fin 128) = some 0 ∧ s.partOf (0 : Fin 128) = some p ∧ s.part? (31 : Fin 32) = some p ∧ p.budget ≤ (advance 0 20000 s).wdCount 0 ∧
    (s.pt 31).inFrame = true ∧ (s.pt 31).committed = false ∧ (s.lc (0 : Fin 128)).wdFired = false ∧ (s.lc (0 : Fin 128)).ready = false ∧
    s.inService 0 = true ∧ (s.core 0).fenced = false ∧ (advance 0 20000 s).coreDone 0 31 = false ∧ fld (s.reg aBwtrCfg) 0 4 = 0 ∧
    s.ptShed 31 = false ∧ p.lcores.any (fun l => !s.lcDone 31 l) = true ∧
    s.bw.tkos.find? (fun y => decide (y.lcore = (0 : Fin 128).val) && !y.loaded) = some ⟨0, 8, false, false, false⟩ := by decide

theorem witness_BreakwaterFrameRows :
    (let s := { State.reset with setup := { Setup.none with parts := [{ part := 31, land := true, cls := 0, profile := 0, policy := 0, thrEn := 1, fmul := 0, prio := 1, ssEn := true, ebbSeg := 2, floodSeg := 3, window := 0, bpred := true, budget := 20000, state := 0, cores := 1, h0 := 0x10000000, half := 0x100 }] }, bw := { Bwtr.reset with pts := [(31, { PtRun.init with inFrame := true, awaiting := true })] } };
     (s.part? (31 : Fin 32)).isSome = true ∧ (s.pt (31 : Fin 32)).awaiting = true ∧ s.bw.tkos = []) ∧
    (let s := { State.reset with setup := { Setup.none with parts := [{ part := 31, land := true, cls := 0, profile := 0, policy := 0, thrEn := 1, fmul := 0, prio := 1, ssEn := true, ebbSeg := 2, floodSeg := 3, window := 0, bpred := true, budget := 20000, state := 0, cores := 1, h0 := 0x10000000, half := 0x100 }] }, bw := { Bwtr.reset with pts := [(31, { PtRun.init with inFrame := true })], notes := [(0, 0x10000008)] } };
     s.slotOf (0 : Fin 128) = some 0 ∧ s.isOwn 0 (0x10000008 : BitVec 44).toNat = false ∧ (s.partOf (0 : Fin 128)).map (fun p => p.part) = some 31 ∧ (s.pt 31).committed = false ∧
     s.bw.notes.any (fun n => decide (n.1 = 0) && decide (n.2 / 8 = (0x10000008 : BitVec 44).toNat / 8)) = true) ∧
    (let s := { State.reset with pwr := { Pwr.reset with mode := .degraded } };
     s.pwr.mode = .degraded ∧ bit (s.reg aBwtrStat) 0 = false ∧ s.atFrameBoundary = true) ∧
    (let s := (State.reset.setReg aBwtrCfg 0x100).onThread 0 0 (fun th => th.setCreg 0x80 5);
     bit (s.reg aBwtrCfg) 8 = true ∧ 5 ≤ (s.thread (0 : Fin 144) (0 : Fin 4)).cst ∧ 3 ≤ fld (0x300 : Word) 8 4 ∧ fld (0x300 : Word) 8 4 ≤ 5 ∧
     (s.slotOf (fld (0x300 : Word) 0 7)).isSome = true) ∧
    bit (State.reset.reg aBwtrCfg) 8 = false := by decide

set_option maxRecDepth 20000 in
/-- LoaderCommandRows: its hypotheses can be met. -/
theorem witness_LoaderCommandRows :
    (let s := wCore 5 [] (fun th => th);
     landSuper (.core 143 3) (s.cstOf (.core 143 3)) = true ∧ s.loaderFree = true ∧ s.qfa.phase = 0 ∧ s.qfa.running ≠ some 1 ∧
     landSuper .host (s.cstOf .host) = false) ∧
    (let s := wSlot (wCore 5 [] (fun th => th)); s.slotValid 1 = true ∧ s.loaderFree = true) ∧
    (let s := (wCore 5 [] (fun th => th)).setReg aQfaVer 1; (s.reg aQfaFloor).toNat < (s.reg aQfaVer).toNat) ∧
    (let s := (wCore 5 [] (fun th => th)).onQfa (fun q => { q with phase := 3 });
     1 ≤ s.qfa.phase ∧ s.qfa.phase ≤ 3 ∧ s.loaderFree = true ∧ landSuper (.core 143 3) (s.cstOf (.core 143 3)) = true) := by decide

set_option maxRecDepth 20000 in
/-- LoaderEventRows: its hypotheses can be met. -/
theorem witness_LoaderEventRows :
    (let s := State.reset.onQfa (fun q => { q with phase := 2, cmd := 1 }); s.loaderFree = true ∧ s.stage ≠ 3 ∧ s.qfa.phase = 2) ∧
    (let s := State.reset.onQfa (fun q => { q with phase := 3, cmd := 2 }); s.loaderFree = true ∧ s.stage ≠ 3 ∧ s.qfa.phase = 3) ∧
    (let s := (wSlot State.reset).onQfa (fun q => { q with phase := 1, cmd := 3, slot := 1 });
     s.loaderFree = true ∧ s.qfa.phase = 1 ∧ regionOf s.stgBase = some .ddr ∧ 0 < min (s.flash32 (s.trailer s.qfa.slot + 4)) s.stgSize) ∧
    (let s := (wSlot State.reset).onQfa (fun q => { q with phase := 6, cmd := 4, slot := 0 });
     s.loaderFree = true ∧ s.qfa.phase = 6 ∧ bit (s.reg aSysFlashMode) 10 = false ∧ 64 ≤ s.slotSize) ∧
    (let s := { (wImg State.reset).onQfa (fun q => { q with phase := 4, cmd := 2, ready := true }) with pwr := { Pwr.reset with mode := .run } };
     s.b0Due = true) ∧
    (let s := (wImg State.reset).onQfa (fun q => { q with phase := 5, cmd := 2 }); s.loaderFree = true ∧ s.qfa.phase = 5 ∧ s.qfa.part = none) ∧
    (let s := { (wImg State.reset).onQfa (fun q => { q with release := true }) with pwr := { Pwr.reset with mode := .pitch }, tide := { Tide.reset with stopped := false }, setup := { Setup.none with parts := [(wImg State.reset).partEntry 0x90] } };
     s.pwr.mode = .pitch ∧ s.qfa.release = true ∧ s.atFrameBoundary = true ∧ s.tide.stopped = false ∧
     bit (s.reg aBwtrStat) 0 = false ∧ s.setup.parts.map (fun p => p.part) = [31]) ∧
    (let s := (wImg State.reset).onQfa (fun q => { q with phase := 4, cmd := 2, ready := true, part := some 31 });
     s.qfa.part = some 31 ∧ s.qfa.phase = 4 ∧ s.ptActive 31 = false ∧ s.atFrameBoundary = true) ∧
    (let s := (wImg State.reset).onQfa (fun q => { q with phase := 5, cmd := 2, stopped := true, part := some 31 });
     s.qfa.part = some 31 ∧ s.qfa.phase = 5 ∧ ((wakeStaging s).entries 1).head? = some (0x90, 0)) ∧
    (let s := { ((wImg State.reset).onQfa (fun q => { q with phase := 4, cmd := 2, stopped := true, armed := true, part := some 31 })).setReg (aTideCmpCtl 255) 0x32 with cmps := [(255, { Cmp.init with armed := true })], pwr := { Pwr.reset with mode := .run }, tide := { Tide.reset with stopped := false } };
     s.qfa.part = some 31 ∧ s.loaderFree = true ∧ s.qfa.armed = true ∧ s.qfa.stopped = true ∧ s.counting = true ∧ s.cmpMatches 255 = true ∧
     (wakeStaging s).entries 1 ≠ []) := by decide

set_option maxRecDepth 20000 in
/-- SapFrameRows: its hypotheses can be met. -/
theorem witness_SapFrameRows :
    (let s := (wSap (fun p => { p with began := true, period := 99, din := [1, 2, 3, 4, 5, 6, 0xFFFFFF, 0x800000] })).setReg (aSapOutMask 63) 0x80 |>.setReg (aSapGate 63) 0x7F;
     s.sapFrames 63 = true ∧ bit (s.reg (aSapGrpCfg 7)) 14 = true ∧ bit (s.reg (aSapGrpCfg 7)) 11 = false ∧ s.sap.noClk = [] ∧
     s.fclkRuns = true ∧ (s.port 63).period ≠ s.nearPeriod ∧ bit (s.reg (aSapOutMask 63)) 7 = true ∧ s.sapMode = .routed ∧ bit (s.gateAt 63 s.nearPeriod) 7 = false ∧
     sapSlots (s.reg (aSapCfg 63)) = 8) ∧
    (let s0 := wSap (fun p => { p with began := true, period := 99, din := [1, 2, 3, 4, 5, 6, 0xFFFFFF, 0x800000] });
     let s := wRoutes [wRoute 0] (wSap (fun p => { p with began := true, period := 99, din := [1, 2, 3, 4, 5, 6, 0xFFFFFF, 0x800000] }));
     s0.sapFrames 63 = true ∧ s.nearPeriod = (s.port 63).period + 1 ∧ (wRoute 0).place 100 = some (1, 2) ∧ inBlock (0x10020000 + 0x100 + 2 * 2 * 3) 6 = true ∧
     s.sap.routes.filter (fun x => decide (x.route.kind = 0) && decide (x.route.port = 63)) = [wRoute 0]) ∧
    (let s := { wSap (fun p => p) with sap := { Sap.reset with routes := [wRoute 1] }, bw := { Bwtr.reset with pts := [(0, { PtRun.init with outZero := false })] } };
     s.sap.routes[0]? = some (wRoute 1) ∧ s.sap.gets = [] ∧ (s.outPlace (wRoute 1) 101).2.2.2 = (false, false) ∧ s.tide.count.toNat + 1 < 98 + 48) ∧
    (let s := wReq (.failed true) { wSap (fun p => p) with sap := { Sap.reset with puts := [⟨0, 0, 63, 6, 100, 2, false, true⟩] } };
     s.sap.puts = [⟨0, 0, 63, 6, 100, 2, false, true⟩] ∧ s.reqSt? 0 = some (.failed true)) ∧
    (let s := wSap (fun p => { p with began := true, missing := 3 }); (s.port 63).missing = 3 ∧ (s.port 63).lost = false) ∧
    (let s0 := wSap (fun p => { p with began := true }); let s := { s0 with pwr := { s0.pwr with mode := .pitch } };
     s.sapMode = .zero ∧ bit (s.reg (aSapGrpCfg 7)) 14 = true ∧ bit (s.reg (aSapGrpCfg 7)) 11 = false) := by decide

/-- SapConfigurationRows: its hypotheses can be met. -/
theorem witness_SapConfigurationRows :
    (let s := State.reset.setReg (aSapGrpCfg 7) 0x4100; bit (s.reg (aSapGrpCfg (7 : Fin 8))) 14 = true ∧
      (s.reg (aSapGrpCfg (7 : Fin 8)) ^^^ (0x4200 &&& 0x77FFF)) &&& 0x71FFF ≠ (0 : Word)) ∧
    (let s := State.reset; bit (s.reg (aSapGrpCfg (7 : Fin 8))) 14 = false ∧ bit 0x4100 14 = true ∧ grpCfgOk s.rate 0x4100 = true) ∧
    (let s := State.reset.setReg (aSapCfg 63) 0x63D; sapReserved 0x63F = true ∧ sapReserved 0x63C = false ∧ bit (s.reg (aSapCfg (63 : Fin 64))) 0 = true ∧
      s.reg (aSapCfg (63 : Fin 64)) &&& 0x1FFFE ≠ 0x43D &&& 0x1FFFE) ∧
    (let s := State.reset.setReg (aSapGrpCfg 7) 256; bit (s.reg (aSapCfg (63 : Fin 64))) 0 = false ∧ sapCfgOk 0x63D (s.grpF 7) = true) ∧
    (let s := wSap (fun p => p); bit (s.reg (aSapGrpCfg (63 / 8))) 14 = true ∧ bit (s.reg (aSapCfg (63 : Fin 64))) 0 = true ∧ s.tide.phase = 0 ∧ s.sapMode ≠ .off ∧ s.sapMode ≠ .low) := by
  decide

/-- StrandTrainingRows: its hypotheses can be met. -/
theorem witness_StrandTrainingRows :
    (let s := State.reset; bit (s.reg (aStrCtl 7)) 0 = false) ∧
    (let s := (State.reset.setReg (aStrCtl 7) 1).setReg (aStrStat 7) 4; bit (s.reg (aStrCtl 7)) 0 = true ∧ s.linkSt 7 = 4) ∧
    (let s := (State.reset.setReg (aStrCtl 7) 1).setReg (aStrStat 7) 1; s.linkSt 7 = 1 ∧ wFar.ver = 1 ∧ wFar.feats = ownFeats ∧
      wFar.camp.toNat = fld (s.reg aCampCfg) 16 16 ∧ wFar.dev.val ≠ fld (s.reg aSysStrap) 2 3 ∧
      s.strMode 7 { wFar with lock25 := 8, lock10 := 8 } = some (0, true, 8) ∧
      s.strMode 7 { wFar with lock25 := 0, lock10 := 0 } = none ∧ s.reg (aStrMode 7) = 0 ∧
      strFec (fld (s.reg (aStrCap 7)) 4 2) (fld wFar.cap 4 2) = some false) ∧
    (let s := (wLink 7 (fun l => { l with kept := true, seq := 1, replay := [⟨4095, 1, 0, []⟩, ⟨0, 1, 0, []⟩] })).setReg (aStrStat 7) 3 |>.setReg (aStrPeerNonceLo 7) 5 |>.setReg (aStrMode 7) 0x1F6;
     s.linkSt 7 = 3 ∧ (s.link 7).kept = true ∧ s.reg (aStrPeerNonceLo 7) = loW wFar.nonce ∧ s.reg (aStrMode 7) = 0x1F6) ∧
    (let s := (wLink 7 (fun l => { l with kept := true, seq := 1, replay := [⟨4095, 1, 0, []⟩, ⟨0, 1, 0, []⟩] })).setReg (aStrStat 7) 3 |>.setReg (aStrPeerNonceLo 7) 5 |>.setReg (aStrMode 7) 0x1F6;
    s.linkSt 7 = 3 ∧ wFar.ver = 1 ∧ wFar.feats = ownFeats ∧ wFar.camp.toNat = fld (s.reg aCampCfg) 16 16 ∧
    wFar.dev.val ≠ fld (s.reg aSysStrap) 2 3 ∧ s.reg (aStrMode 7) ≠ 0 ∧ s.strMode 7 wFar = some (2, true, 15) ∧
    (strFec (fld (s.reg (aStrCap 7)) 4 2) (fld wFar.cap 4 2)).isSome = true ∧ (s.link 7).kept = true ∧
    s.reg (aStrPeerNonceLo 7) = loW wFar.nonce ∧ s.reg (aStrPeerNonceHi 7) = hiW wFar.nonce ∧ 1 ≤ (s.link 7).replay.length ∧
    (s.link 7).replay.map (fun f => f.seq) = (List.range (s.link 7).replay.length).map (fun i => (4095 + i) % 4096) ∧
    wFar.next.val = (4095 + 1) % 4096) ∧
    (let s := wLink 7 (fun l => { l with replay := [⟨4095, 1, 0, []⟩], txs := [⟨3, 0, 0, 2, 0x100, 4, true, false, 0, 0, 0⟩] }); s.linkUp 7 = true ∧ (s.link 7).replay ≠ []) := by
  decide

set_option maxRecDepth 20000 in
/-- FlitRows: its hypotheses can be met. -/
theorem witness_FlitRows :
    (let s := wLink 7 (fun l => { l with expect := 4095 }); s.linkUp 7 = true ∧ flitKnown 1 2 (padBody [2]) = true ∧ (s.link 7).expect < 4096) ∧
    (let s := wLink 7 (fun l => l); s.linkUp 7 = true ∧ (s.link 7).discard = false ∧
      BitVec.ofNat 32 (leNat ((List.replicate 64 (0 : Byte)).drop 60)) ≠ crc32c 0xFFFFFFFF ((List.replicate 64 (0 : Byte)).take 60) ^^^ 0xFFFFFFFF) ∧
    (let s := wLink 7 (fun l => { l with replay := [⟨4095, 1, 0, []⟩], resend := 1, replays := 7 }); s.linkUp 7 = true ∧
      (s.link 7).replay[(s.link 7).replay.length - (s.link 7).resend]? = some ⟨4095, 1, 0, []⟩) ∧
    (let s := wLink 7 (fun l => { l with mgmtQ := [[1]] }); (s.link 7).mgmtQ.head? = some [1]) ∧
    (let s := wLink 7 (fun l => { l with replay := List.replicate 256 ⟨5, 1, 0, []⟩ }); 256 ≤ (s.link 7).replay.length ∧ (s.link 7).resend = 0) ∧
    (let s := wLink 7 (fun l => { l with streamQ := [[1]] }); (s.link 7).streamQ.head? = some [1]) ∧
    (let s := wLink 7 (fun l => { l with postQ := [⟨3, [], none, 0⟩], npQ := [⟨4, [], none, 0⟩] }); (s.link 7).cplQ = [] ∧ s.linkUp 7 = true) ∧
    (let s := wLink 7 (fun l => { l with postQ := [⟨5, [], none, 0⟩], npQ := [⟨4, [], none, 16⟩] }); (s.link 7).cplQ = [] ∧
      ((s.link 7).sent.2.1 + 256 - (s.link 7).cr.2.1) % 256 < 64) := by decide

set_option maxRecDepth 20000 in
/-- TransactionRows: its hypotheses can be met. -/
theorem witness_TransactionRows :
    (let s := wCamp (wLink 7 (fun l => { l with rx := [(1, 1, txBody 0 0xA5 3 2 0 0x800100 0 1 2 0 [] 0xF0)] }));
     (s.link 7).rx.head? = some (1, 1, txBody 0 0xA5 3 2 0 0x800100 0 1 2 0 [] 0xF0) ∧ bit (s.reg aMemcRmtCfg) 0 = true ∧
     s.campPass 2 = true ∧ s.fabricIdle = true ∧ maskSpan 0xF0 = (4, 8) ∧ txFld (txBody 0 0xA5 3 2 0 0x800100 0 1 2 0 [] 0xF0) 24 35 = 0x800100 ∧
     txFld (txBody 0 0xA5 3 2 0 0x800100 0 1 2 0 [] 0xF0) 16 3 = 2 ∧ plainAddr (s.access false false 0x10002004 4) = some 0x10002004 ∧
     plainAddr (ownTarget 0x10002004) = some 0x10002004 ∧ s.awake (s.access false false 0x10002004 4) = true) ∧
    (let s := wCamp (wLink 7 (fun l => { l with rx := [(1, 0, txBody 1 0xA5 3 2 0 0x800100 0 1 2 0 [1, 2, 3, 4, 5, 6, 7, 8] 0xF0)] }));
     (s.link 7).rx.head?.isSome = true ∧ s.stagingHeld = false ∧ plainAddr (s.access false true 0x10002004 4) = some 0x10002004) ∧
    (let s := (wCamp (wLink 7 (fun l => { l with rx := [(1, 0, txBody 1 0xA5 3 2 0 0x800100 0 1 2 0 [1, 2, 3, 4, 5, 6, 7, 8] 0xF0)] }))).setReg aMemcRmtCfg 0; bit (s.reg aMemcRmtCfg) 0 = false) ∧
    (let s := (wCamp (wLink 7 (fun l => { l with rx := [(1, 1, txBody 0 0xA5 3 2 0 0x800100 0 1 2 0 [1, 2, 3, 4, 5, 6, 7, 8] 0xF0)] }))).setReg aMemcRmtCfg 0; bit (s.reg aMemcRmtCfg) 0 = false) ∧
    (let s := wTx false 3 (txBody 2 0xA5 3 2 0 8 0 0 0 0 [1, 2, 3, 4] 0);
     (s.link 7).txs.find? (fun x => decide (x.tag = 0xA5)) = some ⟨0xA5, 3, 0, 2, 0x100, 3, false, true, 1, 2, 0⟩ ∧ smGet (fun _ => 0) (s.link 7).epochs 0xA5 = 3 ∧
     txFld (txBody 2 0xA5 3 2 0 8 0 0 0 0 [1, 2, 3, 4] 0) 12 4 = 3 ∧ txFld (txBody 2 0xA5 3 2 0 8 0 0 0 0 [1, 2, 3, 4] 0) 64 8 = 0) ∧
    (let s := wTx true 3 (txBody 4 0xA5 3 2 0 8 3 0 0 0 [] 0); (s.link 7).wfq.length < 32 ∧ (s.link 7).rx.length = 1) ∧
    (let s := wTx false 4 (txBody 2 0xA5 3 2 0 8 0 0 0 0 [1, 2, 3, 4] 0); smGet (fun _ => 0) (s.link 7).epochs 0xA5 ≠ 3) ∧
    (let s := wTx true 3 (txBody 3 0 0 2 0 0 0 0 0 0 (leBytes 2 0x83A5) 0); leNat ((txBody 3 0 0 2 0 0 0 0 0 0 (leBytes 2 0x83A5) 0).drop 18) = 0 ∧
      leNat (((txBody 3 0 0 2 0 0 0 0 0 0 (leBytes 2 0x83A5) 0).drop 16).take 2) = 0x83A5 ∧ (s.link 7).rx.length = 1) := by decide

set_option maxRecDepth 20000 in
/-- StreamAndCampRows: its hypotheses can be met. -/
theorem witness_StreamAndCampRows_late :
    (let s := wStr 2 (fun p => p) [(2, 0, streamBody 9 0 false 60000 [])];
     (s.link 7).rx.head? = some (2, 0, streamBody 9 0 false 60000 []) ∧ leNat ((streamBody 9 0 false 60000 []).take 4) % 256 = 9 ∧
     leNat ((streamBody 9 0 false 60000 []).take 4) / 2 ^ 16 % 65536 = 60000 ∧
     s.bothAdmitted (fld (s.reg (aStrPeer 7)) 0 3) = true ∧ (s.strRoute 7 9).any (fun x => s.flitLate x 60000) = true) := by decide

set_option maxRecDepth 20000 in
theorem witness_StreamAndCampRows :
    (let s := wStr 3 (fun p => { p with inFrame := true, committed := true }) [];
     s.sap.routes[0]? = some { wRoute 3 with route := { (wRoute 3).route with port := 7, part := 31, stride := 40, stream := 9 } } ∧
     (s.part? 31).isSome = true ∧ s.bothAdmitted (fld (s.reg (aStrPeer 7)) 0 3) = true ∧ bit (s.reg (aBwtrPtCwHi 31)) 2 = false ∧
     (s.routeRead 0x10020000 40).isSome = true ∧ streamFlits 40 = 1) ∧
    (let s := wStr 3 (fun p => { p with inFrame := false }) []; (s.pt 31).inFrame = false) ∧
    (let s := wStr 2 (fun p => p) [(2, 0, streamBody 9 0 false 77 (List.replicate 40 5))];
     (s.link 7).rx.head? = some (2, 0, streamBody 9 0 false 77 (List.replicate 40 5)) ∧ leNat ((streamBody 9 0 false 77 (List.replicate 40 5)).take 4) % 256 = 9 ∧
     (s.strRoute 7 9).isSome = true ∧ (s.strBlk 7 9).closed = false ∧ (s.strBlk 7 9).flits = [] ∧
     (s.strRoute 7 9).all (fun x => !s.flitLate x 77) = true) ∧
    (let s := wStr 2 (fun p => p) [(2, 0, streamBody 9 0 true 77 [])]; (s.strBlk 7 9).closed = false) ∧
    (let s := wKeep [1, 2, 5, 0]; (s.link 7).rx.head? = some (3, 0, padBody [1, 2, 5, 0]) ∧ s.keeper = some s.ownId ∧ s.ownId = 0 ∧ bit (s.reg aCampCfg) 11 = true ∧
      bit (s.reg aCampMap) 2 = false ∧ (helloTake 7 s).campRole = 2 ∧ (helloTake 7 s).sameImage 2 = true) ∧
    (let s := wMem 1 (padBody ([2, 2, 0, 0] ++ leBytes 4 9 ++ [5])); (campChoose s).keeper = some 2 ∧ (campChoose s).campRole = 1 ∧ s.campState = 1 ∧
      (campChoose s).sameImage 2 = true ∧ s.pwr.mode ≠ .pitch ∧ s.alignedAt (nearest (s.keeperEdge 7 (padBody ([2, 2, 0, 0] ++ leBytes 4 9 ++ [5])) ((s.link 7).beaconAt.headD s.tidePos))) 0 = true ∧
      leNat (((padBody ([2, 2, 0, 0] ++ leBytes 4 9 ++ [5])).drop 19).take 4) = 0 ∧ (5 : Nat).testBit s.ownId = true) ∧
    (let s := (wMem 2 (padBody ([2, 2, 0, 0] ++ leBytes 4 9 ++ [4]))).setReg aCampEpoch 8; (campChoose s).reg aCampEpoch ≠ 0 ∧ (4 : Nat).testBit s.ownId = false) ∧
    (let s := (wLink 7 (fun l => { l with rx := [(3, 0, padBody [3])] })).setReg aTideRef 5; fld (s.reg aTideRef) 0 4 = 5) ∧
    (let s := wLink 7 (fun l => { l with rx := [(3, 0, padBody [4])], delay := true }); (s.link 7).delay = true) ∧
    (let s := wLink 7 (fun l => { l with rx := [(3, 0, padBody [4])] }); (s.link 7).delay = false) ∧
    (let s := wLink 7 (fun l => { l with rx := [(3, 0, padBody [5, 1, 0, 1, 44, 0])] }); (s.link 7).env = none ∧ (padBody [5, 1, 0, 1, 44, 0]).length = 52) ∧
    (let s := wLink 7 (fun l => { l with rx := [(3, 0, padBody [6, 1, 0, 1, 44, 0])] }); s.linkUp 7 = true) ∧
    (let s := (wKeep []).setReg aCampMap 5 |>.setReg (aStrStat 7) 0; s.reached.testBit 2 = false ∧ s.camp.heard.testBit 2 = true ∧ (campChoose s).campRole = 2 ∧
      s.ownId = 0 ∧ bit (s.reg aCampMap) 2 = true) := by decide

/-- HostAndMailboxRows: its hypotheses can be met. -/
theorem witness_HostAndMailboxRows :
    (let s := { State.reset with pcie := { Pcie.reset with perst := true } }; s.pcie.perst = true ∧ 1 ≤ min 7 (fld (s.reg aPcieCap) 0 3) ∧
      pcieWidth 15 (fld (s.reg aPcieCap) 4 4) = some 8) ∧
    (let s := { State.reset.setReg aPcieLink 0x184 |>.setReg aPcieAcc 7 with memc := { State.reset.memc with ddrCap := 0x40000000 } };
      bit (s.reg aPcieLink) 8 = true ∧ bit (s.reg aPcieAcc) 0 = true ∧ bit (s.reg aPcieAcc) 2 = true ∧ s.stagingHeld = false ∧
      s.fabricIdle = true ∧ 0x3FFFFFFF + 1 ≤ s.memc.ddrCap ∧ s.memc.ddrCap ≤ 0x1000000000) ∧
    (let s := (State.reset.setReg aPcieLink 0x184).setReg aPcieAcc 0; barAddr 0 0x10000 = some 0x40010000 ∧ s.hostMay 0x40010000 4 false = false ∧
      s.hostMay 0x40010000 4 true = false) ∧
    (let s := { State.reset.setReg aPcieLink 0x184 |>.setReg aPcieAcc 7 with pcie := { Pcie.reset with ops := [⟨true, [], some 0, some []⟩] } };
      bit (s.reg aPcieLink) 8 = true ∧ s.pcie.ops.head? = some ⟨true, [], some 0, some []⟩) ∧
    (let s := (State.reset.setReg (aPciePba 1) 0x80000000).setReg (aPcieMsixCtl 63) 0; bit (s.reg (aPciePba 1)) 31 = true) ∧
    (let s := State.reset.setReg aPcieMbStat 1; bit (s.reg aPcieMbStat) 0 = true ∧ bit (State.reset.reg aPcieMbStat) 0 = false) ∧
    (let s := State.reset; fld (s.reg aPcieMbStat) 0 2 = 0 ∧ fld 4096 0 13 = 4096) := by decide

/-- GpioBitOperations: its hypotheses can be met. -/
theorem witness_GpioBitOperations :
    let s := State.reset;
    fld (s.reg (aPinSel (71 : Fin 72))) 0 3 = 0 ∧ s.hold = [] ∧ (setMode .run s).gpBank = true := by decide

/-- PinRows: its hypotheses can be met. -/
theorem witness_PinRows :
    (let s := setMode .boot State.reset; s.fclkRuns = true ∧ s.gpBit aGpioIn (71 : Fin 72) ≠ true) ∧
    (let s := State.reset; s.hold = [] ∧ fld (s.reg (aPinSel (0 : Fin 72))) 0 3 ≠ fld 4 0 3) ∧
    (let s := State.reset; s.gpBit aGpioOe (64 : Fin 72) ≠ bit 1 ((64 : Fin 72) % 32)) := by decide

/-- SwitchedPadsKeepTheirLevel: its hypotheses can be met. -/
theorem witness_SwitchedPadsKeepTheirLevel :
    exec (.pinSwitch 0 false 4) State.reset = .next (pinSelWrite 0 4 State.reset) := rfl

/-- EventFifoReads: its hypotheses can be met. -/
theorem witness_EventFifoReads :
    (let s := State.reset; s.evFifo (15 : Fin 16) = []) ∧
    (let s := State.reset.setEvFifo 15 [⟨5, 7, 1, true, 9⟩]; s.evFifo (15 : Fin 16) = [⟨5, 7, 1, true, 9⟩]) := by decide

/-- EventInputRows: its hypotheses can be met. -/
theorem witness_EventInputRows :
    (let s := State.reset.setReg (aEviGCfg 15) 0x101;
     s.fclkRuns = true ∧ bit (s.reg (aEviGCfg ((127 : Fin 128) / 8))) 0 = true ∧ (s.evPin (127 : Fin 128)).run = none ∧
     (true != bit (s.evCfg (127 : Fin 128)) 5) ≠ (s.evPin (127 : Fin 128)).acc) ∧
    (let s := ((State.reset.setReg (aEviGCfg 0) 0x201).setReg (aEviGPin 0 0) 0x19).setEvPin 0 { EvPin.init with raw := true, run := some (0, 7) };
     s.fclkRuns = true ∧ (s.evPin (0 : Fin 128)).run = some (0, 7) ∧ s.evActive (0 : Fin 128) ≠ (s.evPin (0 : Fin 128)).acc ∧
     s.evHold ((0 : Fin 128) / 8) ≤ s.evi.clk + 2 - 0 ∧ (evPass 2 s).evFirst (0 : Fin 128) = some 0 ∧ (s.evPin (pairMate (0 : Fin 128))).run = none ∧ s.evMode (0 : Fin 128) = 1 ∧
     bit (s.evCfg (0 : Fin 128)) (if (s.evPin (0 : Fin 128)).acc then 4 else 3) = true ∧ (s.evFifo ((0 : Fin 128) / 8)).length < 1024) := by
  decide

set_option maxRecDepth 20000 in
/-- EthernetRows: its hypotheses can be met. -/
theorem witness_EthernetRows :
    (let s := (State.reset.setReg (aEthCfg 1) 1).setReg (aEthCap 1) 7 |>.onEth 1 (fun e => { e with try_ := 3 }); bit (s.reg (aEthCfg 1)) 0 = true ∧
      s.ethUp 1 = false ∧ fld (s.reg (aEthCap 1)) 0 3 = 7 ∧ (s.ethPort 1).try_ = 3) ∧
    (let s := wEth (fun e => e); s.ethUp 1 = true ∧ bit (s.reg (aEthFifoCfg 1)) 8 = false ∧ (s.ethPort 1).rx = [] ∧
      beAt (List.replicate 6 0xFF ++ List.replicate 1512 0) 12 2 = 0 ∧ s.ethMine 1 [3, 1, 1, 1, 1, 1] = false) ∧
    (let s := (wEth (fun e => e)).setReg (aEthLsCfg 63) 3 |>.setReg (aEthLsSidLo 63) 9; (List.range 64).find? (fun e => bit (s.reg (aEthLsCfg e)) 0 &&
      decide (enPort (s.reg (aEthLsCfg e)) = 1) && decide ([0, 0, 0, 0, 0, 0, 0, 9] = streamId (s.reg (aEthLsSidLo e)) (s.reg (aEthLsSidHi e)))) = some 63) ∧
    (let s := wEth (fun e => { e with ptpQ := [⟨none, [1, 2]⟩] }); (s.ethPort 1).ptpQ.head?.isSome = true) ∧
    (let s := wEth (fun e => { e with aQ := [⟨none, [1, 2]⟩], bQ := [⟨none, [1, 3]⟩], txQ := [⟨none, [1, 4]⟩] }); (s.ethPort 1).ptpQ = [] ∧ (s.ethPort 1).aQ.length = 1 ∧
      0 ≤ ((ethCredit 1 0 0 (ptpNow 1 5 s)).ethPort 1).crA) ∧
    (let s := wEth (fun e => { e with aQ := [⟨none, [1, 2]⟩], bQ := [⟨none, [1, 3]⟩], crA := -1 }); ((ethCredit 1 0 0 (ptpNow 1 5 s)).ethPort 1).crA < 0 ∧
      0 ≤ ((ethCredit 1 0 0 (ptpNow 1 5 s)).ethPort 1).crB) ∧
    (let s := wEth (fun e => { e with txQ := [⟨none, [1, 4]⟩] }); (s.ethPort 1).aQ = [] ∧ (s.ethPort 1).bQ = []) ∧
    (let s := { (wStr 0 (fun p => { p with inFrame := true, committed := true }) []).setReg (aEthTkCfg 63) 0x1F0013 with eth := State.reset.eth };
      (s.part? (enPart (s.reg (aEthTkCfg (63 : Fin 64))))).isSome = true ∧ bit (s.reg (aEthTkCfg (63 : Fin 64))) 0 = true ∧ enCrf (s.reg (aEthTkCfg (63 : Fin 64))) = false ∧
      (s.tk (63 : Fin 64)).done ≠ (s.pt 31).start + s.pdusGone (s.pt 31) (s.reg (aEthTkCfg (63 : Fin 64))) * s.enLen (s.reg (aEthTkCfg (63 : Fin 64))) + 1 ∧ (s.pt 31).inFrame = true ∧ (s.pt 31).committed = true ∧ bit (s.reg (aEthTkCfg (63 : Fin 64))) 22 = false) ∧
    (let s := State.reset.setReg (aEthTkCfg 63) 0x400005; enCrf (s.reg (aEthTkCfg (63 : Fin 64))) = true ∧ (s.tk (63 : Fin 64)).done ≠ s.tide.frameStart.toNat + 1) ∧
    (let s := (wStr 0 (fun p => p) []).setReg (aEthLsCfg 63) 0x1F0003; enPart (s.reg (aEthLsCfg (63 : Fin 64))) = 31 ∧ enCrf (s.reg (aEthLsCfg (63 : Fin 64))) = false) ∧
    (let s := State.reset.setReg (aEthTkCfg 63) 1; bit (s.reg (aEthTkCfg (63 : Fin 64))) 0 = true ∧ s.reg (aEthTkCfg (63 : Fin 64)) ||| 1 ≠ (2 &&& 0x007FFFFF) ||| 1) ∧
    (let s := State.reset; s.enOk (0x13 &&& 0x007FFFFF) = true ∧ bit (s.reg (aEthTkCfg (63 : Fin 64))) 0 = false) ∧
    (let s := wEth (fun e => { e with txCur := some (15, List.replicate 12 7) }); (s.ethPort 1).txCur = some (15, List.replicate 12 7)) ∧
    (let s := wEth (fun e => { e with rx := [[60, 1], [61, 2]] }); (s.ethPort 1).rx.head? = some [60, 1]) ∧
    (let s := (wEth (fun e => e)).setReg (aEthPtpCfg 1) 3 |>.setReg (aEthPtpStat 1) 1; bit (s.reg (aEthPtpCfg 1)) 0 = true ∧ bit (s.reg (aEthPtpStat 1)) 0 = true ∧ bit (s.reg (aEthPtpCfg 1)) 1 = true ∧ (s.ethPort 1).ptp.best = none) := by
  decide

set_option maxRecDepth 20000 in
/-- FlashAndJournalRows: its hypotheses can be met. -/
theorem witness_FlashAndJournalRows :
    (let s := State.reset.setReg aDdrcMode 0x706; bit (s.reg aDdrcMode) 8 = true ∧ bit (s.reg aDdrcMode) 9 = true) ∧
    (let s := State.reset.setReg aSysFlashMode 0x406; bit (s.reg aSysFlashMode) 10 = true) ∧
    (let s := wJrnl []; landSuper (.core 143 3) (s.cstOf (.core 143 3)) = true ∧ bit (s.reg aJrnlStat) 0 = false ∧ s.jrnlFull 1024 = false) ∧
    (let s := wJrnl [.record 0xFE [1, 2, 3]]; s.jrnl.head? = some (.record 0xFE [1, 2, 3]) ∧ s.mustCompact 3 = false ∧ s.qfa.res = none ∧
      bit (s.reg aSysFlashMode) 10 = false) ∧
    (let s := putRecord 0xFE [1, 2, 3] (wJrnl [.read 0xFE]); s.jrnl.head? = some (.read 0xFE) ∧
      s.jrnlForce.find? (fun r => decide (r.ty = 0xFE)) = some ⟨0xFE, 7, [1, 2, 3]⟩) := by decide

set_option maxRecDepth 20000 in
/-- CommandProcessorRows: its hypotheses can be met. -/
theorem witness_CommandProcessorRows :
    (let s := wSec [1, 2, 3]; s.qfa.res = none ∧ s.cmdRuns = true ∧ s.sec.cur = none ∧ s.sec.warm = none ∧ s.chanReq 0 = some (0, [1, 2, 3]) ∧
      ((List.range 10).map (fun i => (s.sec.last + 1 + i) % 10)).find? (fun ch => (s.chanReq ch).isSome) = some 0) ∧
    (let s := State.reset; fld (s.reg aSecCpStat) 0 2 = 0 ∧ 1 ≤ fld 4096 0 13) ∧
    (let s := { State.reset with sec := { CmdProc.reset with warm := some 0 } }; s.readOut 0 = true) ∧
    (let s := { State.reset.setReg aSecCpStat 2 with sec := { CmdProc.reset with warm := some 0 } }; s.readOut 0 = false) := by decide

/-- CommandProcessorRows: an envelope that passes, below and at the ceiling, where Config's keys let slot 2 sign it. -/
theorem witness_CommandProcessorAccepts :
    (let s := (wSec (wEnv 5 1)).setReg (aSecCeilLo 2) 6; s.chanReq 0 = some (0, wEnv 5 1) ∧ s.keyGen 2 = State.reset.keyGen 2 ∧
      s.num64 (aSecFloorLo 2) (aSecFloorHi 2) = 0 ∧ s.num64 (aSecCeilLo 2) (aSecCeilHi 2) = 6) ∧
    (let s := wSec (wEnv 5 0); s.chanReq 0 = some (0, wEnv 5 0) ∧ s.num64 (aSecCeilLo 2) (aSecCeilHi 2) = 0) :=
  ⟨⟨rfl, rfl, rfl, rfl⟩, rfl, rfl⟩

/-- VoltageAndClockRows: its hypotheses can be met. -/
theorem witness_VoltageAndClockRows :
    (let s := wVr .idle 0x55 0x505; s.ckp.vr = .idle ∧ s.vfail = false ∧ s.opCur 15 = 5 ∧ s.vlo = 5 ∧ s.vhi = 5 ∧ s.reg aCkpClPwr = 0 ∧ s.pwr.mode = .run ∧
      (List.range 16).all (fun j => decide (s.opCur j ≤ s.vlo)) = true) ∧
    (let s := wVr .idle 0x55 0x10502; s.atFrameBoundary = true ∧ s.opTarget 15 < s.opCur 15) ∧
    (let s := wVr .idle 0x33 0x10203; s.atFrameBoundary = true ∧ s.opCur 15 < s.opTarget 15 ∧ s.opTarget 15 ≤ s.vlo) ∧
    (let s := wVr (.ack true) 0x535 0x10503; s.ckp.vr = .ack true) ∧
    (let s := wVr (.poll true) 0x535 0x10503; s.ckp.vr = .poll true ∧ opMv s.vcmd = 850) ∧
    (let s := wVr .boot 0x55 0x505; s.ckp.vr = .boot ∧ opMv s.vlo = 850) ∧
    (let s := wVr .settle 0x553 0x10305; s.ckp.vr = .settle ∧ s.vhi = s.vcmd ∧ s.topTarget = s.vcmd) ∧
    (let s := { wVr (.ack false) 0x55 0x10503 with ckp := { vr := .ack false, fails := 2 } }; s.ckp.vr ≠ .idle ∧ 2 ≤ s.ckp.fails) ∧
    (let s := wVr .idle 0x2055 0x505; s.vfail = true) := by decide

set_option maxRecDepth 20000 in
/-- ModeRows: its hypotheses can be met. -/
theorem witness_ModeRows :
    (let s := wMode { Pwr.reset with mode := .run }; s.atFrameBoundary = true ∧ s.pwr.req = none ∧ ckpWriter .debug 0 = true ∧ modeOf 8 = some .shore) ∧
    (let s := (wMode { Pwr.reset with mode := .run, req := some .neap }).setReg aCkpNeapCl 0x80000004; s.pwr.req = some .neap ∧ bit (s.reg aBwtrStat) 0 = false) ∧
    (let s := wMode { Pwr.reset with mode := .neap, req := some .run }; s.pwr.req = some .run) ∧
    (let s := wMode { Pwr.reset with mode := .run, req := some .shore }; s.pwr.req = some .shore) ∧
    (let s := wMode { Pwr.reset with mode := .shore, req := some .run }; s.pwr.req = some .run) ∧
    (let s := wMode { Pwr.reset with mode := .run, req := some .lantern }; s.pwr.req = some .lantern ∧ s.atFrameBoundary = true) ∧
    (let s := (wMode { Pwr.reset with mode := .run, entering := some .bivouac }).setReg (aStrStat 7) 2; s.pwr.entering = some .bivouac ∧ s.linkUp 7 = true) ∧
    (let s := wMode { Pwr.reset with mode := .run, entering := some .bivouac, woken := true }; s.pwr.woken = true) ∧
    (let s := (wMode { Pwr.reset with mode := .lantern }).setReg aLantWakeEn 4; bit (s.reg aLantWakeEn) 2 = true ∧ s.wakeSource 3 0 = true) ∧
    (let s := wMode { Pwr.reset with mode := .bivouac, woken := true, back := .shore }; s.pwr.woken = true ∧ s.pwr.back = .shore) ∧
    (let s := wMode { Pwr.reset with mode := .lantern, woken := true }; s.pwr.mode = .lantern) ∧
    (let s := (wMode { Pwr.reset with mode := .run }).setReg (aLantRtccmpHi 1) 0x80000000 |>.setReg (aLantRtccmpLo 1) 7; bit (s.reg (aLantRtccmpHi 1)) 31 = true ∧
      s.lant.reached.testBit 1 = false ∧ (s.reg (aLantRtccmpLo 1)).toNat + fld (s.reg (aLantRtccmpHi 1)) 0 16 * 2 ^ 32 ≤ (s.lant.rtc + BitVec.ofNat 48 7).toNat) ∧
    (let s := (wMode { Pwr.reset with mode := .degraded }).setReg aSecDbg 1; bit (s.reg aSecDbg) 0 = true ∧ s.pwr.req = none) ∧
    (let s := (wMode { Pwr.reset with mode := .halt, back := .neap }).setReg aSecDbg 1; s.pwr.mode = .halt) := by decide

set_option maxRecDepth 20000 in
/-- PortAndTapRows: its hypotheses can be met. -/
theorem witness_PortAndTapRows :
    (let s := wMode { Pwr.reset with mode := .run }; s.pwr.entering = none ∧ fld (s.reg aLantCpCfg) 0 7 = 0x58) ∧
    (let s := { wMode { Pwr.reset with mode := .run } with cp := { ready := true, out := [] } }; s.cp.ready = true ∧ bit (s.reg aSecCpStat) 0 = false ∧
      cpReg 0x48 = some (aLantWake 2, false) ∧ (List.replicate 4096 (7 : Byte)).length = 4096) ∧
    (let s := (wMode { Pwr.reset with mode := .run }).setReg aSecDbg 7; s.tapMay = true ∧ s.pwr.mode ≠ .test ∧ s.memc.reqs = [] ∧
      plainAddr (s.access false false 0x01FFFFFC 4) = some 0x01FFFFFC ∧ s.awake (s.access false false 0x01FFFFFC 4) = true ∧
      plainAddr (s.access false true 0x01FFFFFC 4) = some 0x01FFFFFC ∧ s.stagingHeld = false ∧ s.access false true 0x02000000 (s.beatLen 0x02000000 4) = .fail ∧ s.fabricIdle = true) ∧
    (let s := wMode { Pwr.reset with mode := .run }; s.tapMay = false ∧ bit (s.reg aSecDbg) 0 = false ∧ bit (s.reg aSecDbg) 1 = false) ∧
    (0x12 : BitVec 8) ∉ ([0, 1, 2, 3, 4, 5, 6, 0x10, 0x11] : List (BitVec 8)) := by decide

set_option maxRecDepth 40000 in
/-- ResetRows: its hypotheses can be met. -/
theorem witness_ResetRows :
    (let s := wMode { Pwr.reset with mode := .run, resetN := false, pwronN := true }; s.pwr.mode ≠ .off ∧ s.pwr.mode ≠ .anchor ∧ s.pwr.resetN = false) ∧
    (let s := wMode { Pwr.reset with mode := .off }; s.pwr.mode = .off) ∧
    (let s := wMode { Pwr.reset with mode := .anchor, pwronN := false, resetN := true }; s.pwr.mode = .anchor ∧ s.pwr.pwronN = false) ∧
    (let s := wMode { Pwr.reset with mode := .anchor, pwronN := true, resetN := false }; s.pwr.mode = .anchor ∧ s.pwr.resetN = false) ∧
    (let s := (wJrnl []).setReg aSysClrstStat 0; landSuper (.core 143 3) (s.cstOf (.core 143 3)) = true ∧ s.clrstRefused 14 = false) ∧
    (let s := (wJrnl []).setReg aSysClrstStat 0x8000; bit (s.reg aSysClrstStat) 15 = true) ∧
    (let s := wBoot []; s.pwr.mode = .boot ∧ s.stage = 0 ∧ s.qfa.res = none ∧ s.headerOk wBootEnv 0 = false ∧ s.headerOk wBootEnv 0x10000 = false ∧
      wBootEnv.flashOk = true) ∧
    (let s := (wBoot wHeader).setReg aSysStrap 1; s.headerOk wBootEnv 0 = true ∧ fld (s.reg aSysStrap) 0 2 = 1) := by decide

/-- RegisterAccessCodes: its hypotheses can be met. -/
theorem witness_RegisterAccessCodes :
    (inRegBlock aDdrcStat = true ∧ (regRow? aDdrcStat).map (fun r => (r.w1c, r.rw)) = some (0xF, 0) ∧ aDdrcStat % 4 = 0) ∧
    (inRegBlock aDdrcTrk = true ∧ (regRow? aDdrcTrk).map (fun r => r.rw) = some 0xFFFF) ∧
    (inRegBlock aDdrcCeCnt = true ∧ (regRow? aDdrcCeCnt).map (fun r => r.rc) = some 0xFFFFFFFF) ∧
    (inRegBlock aMemcCeThr = true ∧ (regRow? aMemcCeThr).isSome = true ∧ aMemcCeThr ≠ aMemcUePop) ∧
    (inRegBlock 0x400CFFFC = true ∧ regRow? 0x400CFFFC = none) := by decide

/-- UnitRowsLeaveTheRest: its hypotheses can be met. -/
theorem witness_UnitRowsLeaveTheRest :
    exec (.wfqPop 7) State.reset = .next (wfqPop 7 State.reset) ∧ exec .helloTimer State.reset = .next (helloAll State.reset) ∧
    exec (.mbAck 1) State.reset = .next (mbAck 1 State.reset) ∧ exec (.rxfRead 1) State.reset = .next { State.reset with rdata := 0 } ∧
    exec .vrRetry State.reset = .next (vrRetry State.reset) ∧ exec (.secCpAck 1) State.reset = .next (secCpAck 1 State.reset) ∧
    exec .wokeClear State.reset = .next (wokeClear State.reset) := ⟨rfl, rfl, rfl, rfl, rfl, rfl, rfl⟩
end

section
/-! Register accesses by access code (spec/00_scope.md R7 to R13): what a plain read and a plain write do to a register, bit by bit, and
the addresses of the MEMC and DDRC blocks, where every access but the write of MEMC_UE_POP is a plain one. -/

namespace Sys2Proof.Machine

/-! ## The two commands -/

theorem isReg_of_inRegBlock {a : Nat} (h4 : a % 4 = 0) (hb : inRegBlock a = true) : isReg a = true := by
  simp [isReg, h4, hb]

theorem exec_registerWrite_of_isReg {ra : BitVec 44} (h : isReg ra.toNat = true) (ini : Initiator) (v : Word) (s : State) :
    exec (.registerWrite ini ra v) s = .next (regWrite ini (s.cstOf ini) ra.toNat v s) :=
  congrArg Host.Outcome.next (if_pos h)

theorem exec_registerReadClear_of_isReg {ra : BitVec 44} (h : isReg ra.toNat = true) (ini : Initiator) (s : State) :
    exec (.registerReadClear ini ra) s =
      .next { (regRead ini (s.cstOf ini) .ok ra.toNat s).1 with rdata := (regRead ini (s.cstOf ini) .ok ra.toNat s).2 } :=
  congrArg Host.Outcome.next (if_pos h)

/-! ## The access codes -/

theorem plainWrite_of_row {a : Nat} {r : RegRow} (h : regRow? a = some r) (v : Word) (s : State) :
    plainWrite a v s = s.setReg a (r.written s.rwlOpen (s.reg a) v) := by simp [plainWrite, h]

theorem plainWrite_of_no_row {a : Nat} (h : regRow? a = none) (v : Word) (s : State) : plainWrite a v s = s := by
  simp [plainWrite, h]

/-- A bit after a write by the access code, where the bit has one code: none clears and sets it, none replaces it and clears or sets it. -/
theorem bit_written (r : RegRow) (rwl : Bool) (old v : Word) (i : Fin 32) (hone : r.w1c.testBit i = false ∨ r.w1s.testBit i = false)
    (hrw : (r.rw ||| r.rwl).testBit i = false ∨ (r.w1c ||| r.w1s).testBit i = false) :
    bit (r.written rwl old v) i =
      (if r.w1c.testBit i then bit old i && !bit v i
      else if r.w1s.testBit i then bit old i || bit v i
      else if r.rw.testBit i || (r.rwl.testBit i && rwl) then bit v i
      else bit old i) := by
  have hmask : (if rwl then r.rw ||| r.rwl else r.rw).testBit i = (r.rw.testBit i || (r.rwl.testBit i && rwl)) := by
    cases rwl <;> simp
  simp only [Nat.testBit_or, Bool.or_eq_false_iff] at hrw
  simp only [bit, RegRow.written, BitVec.getLsbD_or, BitVec.getLsbD_and, BitVec.getLsbD_not, BitVec.getLsbD_ofNat, i.isLt, decide_true,
    Bool.true_and, hmask]
  by_cases hc : r.w1c.testBit i = true
  · obtain ⟨hrw0, hrwl0⟩ := hrw.resolve_right (by simp [hc])
    simp [hc, hone.resolve_left (by simp [hc]), hrw0, hrwl0]
  by_cases hs : r.w1s.testBit i = true
  · obtain ⟨hrw0, hrwl0⟩ := hrw.resolve_right (by simp [hs])
    simp [hc, hs, hrw0, hrwl0]
  · cases r.rw.testBit i || (r.rwl.testBit i && rwl) <;> simp [hc, hs]

/-- A plain read changes the registers alone. -/
theorem plainRead_frame (a : Nat) (s : State) : (plainRead a s).1 = { s with regs := (plainRead a s).1.regs } := by
  unfold plainRead
  split
  · dsimp only
    split <;> rfl
  · rfl

/-- A plain read clears the RC bits of its register and leaves every other bit. -/
theorem reg_plainRead {a : Nat} {r : RegRow} (h : regRow? a = some r) (s : State) (b : Nat) :
    (plainRead a s).1.reg b = if b = a then s.reg a &&& ~~~(BitVec.ofNat 32 r.rc) else s.reg b := by
  simp only [plainRead, h]
  split
  case isTrue hrc =>
    rw [hrc, show ~~~(BitVec.ofNat 32 0) = BitVec.allOnes 32 from rfl, BitVec.and_allOnes]
    split <;> simp [*]
  case isFalse => exact s.reg_clrReg a _ b

theorem plainRead_snd (a : Nat) (s : State) : (plainRead a s).2 = s.peek a := by
  unfold plainRead
  split <;> rfl

theorem State.peek_of_row {a : Nat} {r : RegRow} {s : State} (h : regRow? a = some r) (hl : s.regLive a = none) : s.peek a = s.reg a := by
  simp [State.peek, h, hl]

theorem plainRead_of_no_row {a : Nat} {s : State} (h : regRow? a = none) (hl : s.regLive a = none) : plainRead a s = (s, 0) := by
  simp [plainRead, State.peek, h, hl]

/-! ## The MEMC and DDRC blocks -/

theorem regWrite_memc_ddrc {a : Nat} (hlo : 0x400B0000 ≤ a) (hhi : a < 0x400D0000) (hpop : a ≠ aMemcUePop) (ini : Initiator) (cst : Nat)
    (v : Word) (s : State) : regWrite ini cst a v s = plainWrite a v s := by
  unfold regWrite
  rw [if_neg hpop]
  simp (disch := omega) only [if_neg, if_pos, ite_self]

theorem regRead_memc_ddrc {a : Nat} (hlo : 0x400B0000 ≤ a) (hhi : a < 0x400D0000) (ini : Initiator) (cst : Nat) (ecc : EccHit)
    (s : State) : regRead ini cst ecc a s = plainRead a s := by
  unfold regRead aIcClaim aLantRamData
  simp (disch := omega) only [if_neg]

theorem State.regLive_memc {a : Nat} (hlo : 0x400B0000 ≤ a) (hhi : a < 0x400C0000) (s : State) :
    s.regLive a = s.memcLive (a - 0x400B0000) := by
  unfold State.regLive
  simp (disch := omega) only [if_neg, if_pos]

theorem State.regLive_ddrc {a : Nat} (hlo : 0x400C0000 ≤ a) (hhi : a < 0x400D0000) (s : State) : s.regLive a = none := by
  unfold State.regLive
  simp (disch := omega) only [if_neg, if_pos]

/-- The words of MEMC that show the uncorrectable-error log are words of the register index. -/
theorem State.memcLive_of_no_row {a : Nat} (hlo : 0x400B0000 ≤ a) (h : regRow? a = none) (s : State) :
    s.memcLive (a - 0x400B0000) = none := by
  have hne (o : Nat) (ho : (regRow? (0x400B0000 + o)).isSome = true) : a - 0x400B0000 ≠ o := by
    rintro rfl
    simp [Nat.add_sub_cancel' hlo, h] at ho
  simp [State.memcLive, hne 0x30 (by decide), hne 0x34 (by decide), hne 0x38 (by decide), hne 0x3C (by decide)]

theorem State.regLive_of_no_row {a : Nat} (hlo : 0x400B0000 ≤ a) (hhi : a < 0x400D0000) (h : regRow? a = none) (s : State) :
    s.regLive a = none := by
  by_cases hm : a < 0x400C0000
  · rw [s.regLive_memc hlo hm, s.memcLive_of_no_row hlo h]
  · exact s.regLive_ddrc (by omega) hhi

theorem ne_aMemcUePop_of_no_row {a : Nat} (h : regRow? a = none) : a ≠ aMemcUePop := by
  rintro rfl
  exact absurd h (by decide)

/-! ## The two commands on the MEMC and DDRC blocks -/

/-- A write of a register of MEMC or DDRC other than MEMC_UE_POP is a write of that register by its access code. -/
theorem exec_registerWrite_row {ra : BitVec 44} {r : RegRow} (h4 : ra.toNat % 4 = 0) (hlo : 0x400B0000 ≤ ra.toNat)
    (hhi : ra.toNat < 0x400D0000) (hpop : ra.toNat ≠ aMemcUePop) (hb : inRegBlock ra.toNat = true) (hr : regRow? ra.toNat = some r)
    (ini : Initiator) (v : Word) (s : State) :
    exec (.registerWrite ini ra v) s = .next (s.setReg ra.toNat (r.written s.rwlOpen (s.reg ra.toNat) v)) := by
  rw [exec_registerWrite_of_isReg (isReg_of_inRegBlock h4 hb), regWrite_memc_ddrc hlo hhi hpop, plainWrite_of_row hr]

/-- A read of a word of MEMC or DDRC is a plain read, whose value the command gives. -/
theorem exec_registerReadClear_memc_ddrc {ra : BitVec 44} (h4 : ra.toNat % 4 = 0) (hlo : 0x400B0000 ≤ ra.toNat)
    (hhi : ra.toNat < 0x400D0000) (hb : inRegBlock ra.toNat = true) (ini : Initiator) (s : State) :
    exec (.registerReadClear ini ra) s = .next { (plainRead ra.toNat s).1 with rdata := (plainRead ra.toNat s).2 } := by
  rw [exec_registerReadClear_of_isReg (isReg_of_inRegBlock h4 hb), regRead_memc_ddrc hlo hhi]

theorem exec_registerWrite_no_row {ra : BitVec 44} (h4 : ra.toNat % 4 = 0) (hlo : 0x400B0000 ≤ ra.toNat) (hhi : ra.toNat < 0x400D0000)
    (hb : inRegBlock ra.toNat = true) (hr : regRow? ra.toNat = none) (ini : Initiator) (v : Word) (s : State) :
    exec (.registerWrite ini ra v) s = .next s := by
  rw [exec_registerWrite_of_isReg (isReg_of_inRegBlock h4 hb), regWrite_memc_ddrc hlo hhi (ne_aMemcUePop_of_no_row hr),
    plainWrite_of_no_row hr]

theorem exec_registerReadClear_no_row {ra : BitVec 44} (h4 : ra.toNat % 4 = 0) (hlo : 0x400B0000 ≤ ra.toNat)
    (hhi : ra.toNat < 0x400D0000) (hb : inRegBlock ra.toNat = true) (hr : regRow? ra.toNat = none) (ini : Initiator) (s : State) :
    exec (.registerReadClear ini ra) s = .next { s with rdata := 0 } := by
  rw [exec_registerReadClear_memc_ddrc h4 hlo hhi hb, plainRead_of_no_row hr (s.regLive_of_no_row hlo hhi hr)]

/-- Settles O59: in the MEMC and DDRC blocks a write and a read are plain ones, so the write is `bit_written` at the one register, the read
clears that register's RC bits, and an address without a row keeps the state. -/
theorem registerAccessCodes : Obligations.RegisterAccessCodes := by
  unfold Obligations.RegisterAccessCodes
  refine ⟨fun s ini ra v h4 hlo hhi hpop hb r hr => ?_, fun s ini ra h4 hlo hhi hb r hr => ?_, fun s ini ra v h4 hlo hhi hb hr => ?_⟩
  · refine ⟨_, exec_registerWrite_row h4 hlo hhi hpop hb hr ini v s, rfl, fun b hne => ?_, fun i hone hrw => ?_⟩
    · rw [State.reg_setReg, if_neg hne]
    · rw [State.reg_setReg, if_pos rfl, bit_written r _ _ v i hone hrw, State.rwlOpen]
  · refine ⟨_, exec_registerReadClear_memc_ddrc h4 (by omega) hhi hb ini s, ?_, fun b hne => ?_, ?_, ?_⟩
    · exact (plainRead_snd _ s).trans (State.peek_of_row hr (s.regLive_ddrc hlo hhi))
    · exact (reg_plainRead hr s b).trans (if_neg hne)
    · exact (reg_plainRead hr s _).trans (if_pos rfl)
    · exact congrArg (fun u : State => { u with rdata := (plainRead ra.toNat s).2 }) (plainRead_frame ra.toNat s)
  · exact ⟨exec_registerWrite_no_row h4 hlo hhi hb hr ini v s, exec_registerReadClear_no_row h4 hlo hhi hb hr ini s⟩

end Sys2Proof.Machine
end

section
/-! What the Tide's clock is to the other units: the audio ports, the links, the loader and Breakwater leave the Tide's counters, and every
register below those of the compares, as they are, and so does every fire (spec/02_tide.md, Position; Tide compares). -/

namespace Sys2Proof.Machine

/-- The Tide but for the actions of fires that are on their way or came with this edge. -/
def Tide.clock (t : Tide) : Tide := { t with gpioPend := [], gateFires := [] }

/-- The Tide's clock with every register below TIDE_CMP_PEND. -/
def State.clock (s : State) : Tide × (Fin 0x40010100 → Word) := (s.tide.clock, fun a => s.reg a)

theorem State.tide_of_clock {s t : State} (h : t.clock = s.clock) : t.tide.clock = s.tide.clock := congrArg Prod.fst h

theorem State.reg_of_clock {s t : State} (h : t.clock = s.clock) {a : Nat} (ha : a < 0x40010100) : t.reg a = s.reg a :=
  congrFun (congrArg Prod.snd h) ⟨a, ha⟩

/-! ## Writes of State -/

/-- A change of fields other than the Tide and the registers. -/
@[simp] theorem State.clock_upd (t : State) (mem cmps srcs threads cores memc ferry setup bw qfa flash sec jrnl boot pwr ckp lant cp tap evi
    hold sap links pcie eth camp draws freeCtr rdata pending) :
    State.clock ⟨t.regs, mem, t.tide, cmps, srcs, threads, cores, memc, ferry, setup, bw, qfa, flash, sec, jrnl, boot, pwr, ckp, lant, cp,
      tap, evi, hold, sap, links, pcie, eth, camp, draws, freeCtr, rdata, pending⟩ = t.clock := (rfl)

@[simp] theorem State.clock_ite {c : Prop} [Decidable c] (s t : State) : (if c then s else t).clock = if c then s.clock else t.clock :=
  apply_ite State.clock c s t

/-- A register of an array lies above the array's base. -/
@[simp] theorem clockEnd_le_add {b : Nat} (h : 0x40010100 ≤ b) (i : Nat) : 0x40010100 ≤ b + i := Nat.le_add_right_of_le h

section
variable {a : Nat} (h : 0x40010100 ≤ a) (s : State)
include h

@[simp] theorem State.clock_setReg (v : Word) : (s.setReg a v).clock = s.clock :=
  Prod.ext rfl (funext fun b => (s.reg_setReg a v b).trans (if_neg (Nat.ne_of_lt (Nat.lt_of_lt_of_le b.isLt h))))

@[simp] theorem State.clock_orReg (m : Word) : (s.orReg a m).clock = s.clock := s.clock_setReg h _

@[simp] theorem State.clock_clrReg (m : Word) : (s.clrReg a m).clock = s.clock := s.clock_setReg h _

@[simp] theorem State.clock_setRegFld (lo w x : Nat) : (s.setRegFld a lo w x).clock = s.clock := s.clock_setReg h _

@[simp] theorem State.clock_incSat : (s.incSat a).clock = s.clock := s.clock_setReg h _

@[simp] theorem State.clock_incFld (lo w n : Nat) : (s.incFld a lo w n).clock = s.clock := s.clock_setReg h _

end

@[simp] theorem foldS_clock {α : Type} {f : α → State → State} (hf : ∀ x s, (f x s).clock = s.clock) (l : List α) (s : State) :
    (foldS f l s).clock = s.clock := by
  induction l generalizing s with
  | nil => rfl
  | cons x l ih => exact (ih (f x s)).trans (hf x s)

@[simp] theorem State.clock_setThread (s : State) (k t : Nat) (th : Thread) : (s.setThread k t th).clock = s.clock := (rfl)

@[simp] theorem State.clock_onThread (s : State) (k t : Nat) (f : Thread → Thread) : (s.onThread k t f).clock = s.clock := (rfl)

@[simp] theorem State.clock_setCore (s : State) (k : Nat) (c : CoreSt) : (s.setCore k c).clock = s.clock := (rfl)

@[simp] theorem State.clock_setPt (s : State) (n : Nat) (p : PtRun) : (s.setPt n p).clock = s.clock := (rfl)

@[simp] theorem State.clock_setLc (s : State) (l : Nat) (x : LcRun) : (s.setLc l x).clock = s.clock := (rfl)

@[simp] theorem State.clock_setTkos (s : State) (ts : List TakeOver) : (s.setTkos ts).clock = s.clock := (rfl)

@[simp] theorem State.clock_setLs (s : State) (e : Nat) (l : EthLs) : (s.setLs e l).clock = s.clock := (rfl)

@[simp] theorem State.clock_setBlk (s : State) (n : Nat) (b : StrBlk) : (s.setBlk n b).clock = s.clock := (rfl)

@[simp] theorem State.clock_onPort (s : State) (n : Nat) (f : SapPort → SapPort) : (s.onPort n f).clock = s.clock := (rfl)

@[simp] theorem State.clock_onQfa (s : State) (f : Qfa → Qfa) : (s.onQfa f).clock = s.clock := (rfl)

@[simp] theorem State.clock_setCmp (s : State) (n : Nat) (c : Cmp) : (s.setCmp n c).clock = s.clock := (rfl)

@[simp] theorem State.clock_zero (s : State) (a n : Nat) : (s.zero a n).clock = s.clock := (rfl)

@[simp] theorem State.clock_request (s : State) (ini : Initiator) (kind : FabKind) (a n : Nat) (data : List Byte) (cst : Nat)
    (mask : Option Nat) : (s.request ini kind a n data cst mask).1.clock = s.clock := (rfl)

@[simp] theorem mgmtSend_clock (n : Nat) (body : List Byte) (s : State) : (mgmtSend n body s).clock = s.clock := (rfl)

/-! ## Memory power -/

@[simp] theorem State.clock_setMemPwr (s : State) (u : Nat) (p : MemPwr) : (s.setMemPwr u p).clock = s.clock := by
  simp [State.setMemPwr, aMemcRpwrStat]

@[simp] theorem State.clock_zeroUnit (s : State) (u : Nat) : (s.zeroUnit u).clock = s.clock := by
  simp [State.zeroUnit]

@[simp] theorem State.clock_beginWake (s : State) (u : Nat) : (s.beginWake u).clock = s.clock := by
  unfold State.beginWake
  split <;> simp [aMemcWakeCnt]

@[simp] theorem State.clock_markWoken (s : State) (u : Nat) : (s.markWoken u).clock = s.clock := by
  simp [State.markWoken]

@[simp] theorem State.clock_endWake (s : State) (u : Nat) : (s.endWake u).clock = s.clock := by
  unfold State.endWake
  split <;> simp

@[simp] theorem State.clock_turnOn (s : State) (u : Nat) : (s.turnOn u).clock = s.clock := by
  unfold State.turnOn
  split <;> simp

@[simp] theorem State.clock_wakeSpan (s : State) (a n : Nat) : (s.wakeSpan a n).clock = s.clock := by
  simp [State.wakeSpan, State.wakeUnit]

/-! ## Modes -/

@[simp] theorem setMode_clock (m : Mode) (s : State) : (setMode m s).clock = s.clock := by
  simp [setMode, aCkpStat]

@[simp] theorem enterMode_clock (m : Mode) (s : State) : (enterMode m s).clock = s.clock := by
  simp [enterMode, neapBanks]

/-- HALT's part of a tide frame boundary leaves the clock. -/
@[simp] theorem haltBoundary_clock (s : State) : (haltBoundary s).clock = s.clock := by
  unfold haltBoundary
  split <;> simp [leaveNeap, banksOn]

/-! ## The camp -/

@[simp] theorem setCampState_clock (st reason : Nat) (s : State) : (setCampState st reason s).clock = s.clock := by
  simp [setCampState, aCampStat]

@[simp] theorem quarantine_clock (r : Nat) (s : State) : (quarantine r s).clock = s.clock := by
  simp [quarantine]

@[simp] theorem campJudge_clock (s : State) : (campJudge s).clock = s.clock := by
  simp [campJudge, aCampStat]

@[simp] theorem hashChange_clock (s : State) : (hashChange s).clock = s.clock := by
  simp [hashChange, helloChange, helloAll]

/-- The Tide at the camp's part of a tide frame boundary: a locate that a BEACON asked for moves the beat position (R545). -/
def Camp.located (c : Camp) (t : Tide) : Tide := (c.fix.map fun v => tempoEffect ⟨0, v, true⟩ t).getD t

/-- The camp's part of a tide frame boundary leaves the clock but for its locate. -/
theorem campBoundary_clock (s : State) : (campBoundary s).clock = { s with tide := s.camp.located s.tide }.clock := by
  have htide (t : Tide) (c : Camp) :
      ({ (s.incSat aCampBeatFix).orReg aCampStat 0x1000 with tide := t, camp := c } : State).clock = ({ s with tide := t } : State).clock :=
    congrArg (fun x => (t.clock, x.2)) (show ((s.incSat aCampBeatFix).orReg aCampStat 0x1000).clock = s.clock by simp [aCampBeatFix, aCampStat])
  unfold campBoundary Camp.located
  dsimp only
  rw [State.clock_ite]
  rw [foldS_clock (fun n s => by simp)]
  rw [ite_self]
  rw [campJudge_clock]
  cases s.camp.fix
  · rfl
  · exact htide _ _

/-! ## Partitions and their cores -/

@[simp] theorem loadThreads_clock (p : Part) (k l : Nat) (run : Bool) (s : State) : (loadThreads p k l run s).clock = s.clock := by
  unfold loadThreads
  split <;> simp

@[simp] theorem startLcore_clock (p : Part) (l k : Nat) (s : State) : (startLcore p l k s).clock = s.clock := by
  simp [startLcore]

@[simp] theorem dcInvalidate_clock (k : Nat) (s : State) : (dcInvalidate k s).clock = s.clock := by
  simp [dcInvalidate]

@[simp] theorem stopAsDone_clock (l : Nat) (s : State) : (stopAsDone l s).clock = s.clock := by
  unfold stopAsDone
  split <;> simp [stopCore]

@[simp] theorem coreFire_clock (p : Part) (l : Nat) (s : State) : (coreFire p l s).clock = s.clock := by
  unfold coreFire
  split
  · rfl
  · dsimp only
    split <;> simp

@[simp] theorem ptBegin_clock (p : Part) (s : State) : (ptBegin p s).clock = s.clock := by
  simp [ptBegin]

@[simp] theorem ptStop_clock (p : Part) (s : State) : (ptStop p s).clock = s.clock := by
  simp [ptStop, holdoffLcore]

@[simp] theorem swapHalves_clock (p : Part) (s : State) : (swapHalves p s).clock = s.clock := by
  simp only [swapHalves, State.clock_ite, ite_eq_right_iff]
  intro _
  refine foldS_clock (fun l s => ?_) _ _
  split <;> simp

@[simp] theorem streamFrameStart_clock (pt : Nat) (s : State) : (streamFrameStart pt s).clock = s.clock := by
  simp [streamFrameStart]

@[simp] theorem ethFrameStart_clock (pt : Nat) (s : State) : (ethFrameStart pt s).clock = s.clock := by
  refine foldS_clock (fun e s => ?_) _ _
  simp

@[simp] theorem ptFire_clock (p : Part) (s : State) : (ptFire p s).clock = s.clock := by
  simp [ptFire, outputsFire, routesFire]

/-! ## Re-pitch -/

@[simp] theorem cmpLive_clock (n : Nat) (s : State) : (cmpLive n s).clock = s.clock := by
  simp [cmpLive]

@[simp] theorem cmpCtlWrite_clock (n : Nat) (v : Word) (s : State) : (cmpCtlWrite n v s).clock = s.clock := by
  simp [cmpCtlWrite]

@[simp] theorem loadCoreCfg_clock (p : Part) (k l : Nat) (s : State) : (loadCoreCfg p k l s).clock = s.clock := by
  unfold loadCoreCfg
  split <;> simp

@[simp] theorem applyThreads_clock (c : CodeRec) (s : State) : (applyThreads c s).clock = s.clock := by
  unfold applyThreads
  split <;> simp

@[simp] theorem applyPart_clock (p : Part) (s : State) : (applyPart p s).clock = s.clock := by
  simp [applyPart, foldS]

@[simp] theorem applyHash_clock (s0 s : State) : (applyHash s0 s).clock = s.clock := by
  simp [applyHash, aQfaHash, aQfaHashHi, aQfaVer]

@[simp] theorem routeMasks_clock (s : State) : (routeMasks s).clock = s.clock := by
  refine foldS_clock (fun n s => ?_) _ _
  simp

@[simp] theorem qfaFinish_clock (ok : Bool) (s : State) : (qfaFinish ok s).clock = s.clock := by
  simp [qfaFinish, aQfaStat]

@[simp] theorem repitchStopOn_clock (n : Nat) (s : State) : (repitchStopOn n s).clock = s.clock := by
  simp only [repitchStopOn, State.clock_upd, State.clock_setPt, cmpCtlWrite_clock, State.clock_clrReg, clockEnd_le_add, Nat.reduceLeDiff,
    foldS_clock, State.clock_setLc, implies_true]
  refine foldS_clock (fun l s => ?_) _ _
  split <;> simp [holdoffLcore]

@[simp] theorem repitchStartOn_clock (n : Nat) (s : State) : (repitchStartOn n s).clock = s.clock := by
  unfold repitchStartOn
  split
  · rfl
  case h_2 e _ =>
    have hgap (s : State) (v : Word) : (s.setReg aQfaGap v).clock = s.clock := s.clock_setReg (by decide) v
    simp only [qfaFinish_clock, applyHash_clock, routeMasks_clock, hgap, applyPart_clock, foldS_clock applyThreads_clock]
    rw [foldS_clock (fun l s => by split <;> simp [freshCore])]
    split
    · rfl
    · rw [foldS_clock (fun i s => by simp), foldS_clock (fun i s => by simp)]
      rfl

/-! ## Fires -/

@[simp] theorem frameFire_clock (n : Nat) (s : State) : (frameFire n s).clock = s.clock := by
  unfold frameFire
  dsimp only
  split
  · rw [repitchStop, repitchStopOn_clock, wakeStaging, State.clock_wakeSpan]
    split <;> simp [routesFire]
  · split <;> simp [repitchStart, wakeStaging]

/-- A fire's own part is in the compares and their registers (R64, R65). -/
@[simp] theorem cmpFired_clock (n : Nat) (late : Bool) (s : State) : (cmpFired n late s).clock = s.clock := by
  simp [cmpFired]

@[simp] theorem sapRegate_clock (n : Nat) (m : Word) (s : State) : (sapRegate n m s).clock = s.clock := by
  simp [sapRegate]

@[simp] theorem sapGateFire_clock (n : Nat) (m : Word) (opens : Bool) (s : State) : (sapGateFire n m opens s).clock = s.clock := by
  simp [sapGateFire]

@[simp] theorem gateAction_clock (n : Nat) (a : Word) (s : State) : (gateAction n a s).clock = s.clock := by
  rw [gateAction, sapGateFire_clock]
  rfl

@[simp] theorem gpioAction_clock (n : Nat) (a : Word) (s : State) : (gpioAction n a s).clock = s.clock := rfl

@[simp] theorem cmpAction_clock (n : Nat) (s : State) : (cmpAction n s).clock = s.clock := by
  unfold cmpAction
  dsimp only
  split <;> simp [releaseWaitt, fryRelease]

/-- No fire moves the clock. -/
@[simp] theorem fire_clock (n : Nat) (late : Bool) (s : State) : (fire n late s).clock = s.clock := by
  simp [fire]

@[simp] theorem locateFires_clock (old : Nat) (late : Bool) (s : State) : (locateFires old late s).clock = s.clock := by
  simp [locateFires]

/-! ## The edges of TKCLK -/

@[simp] theorem gpioAct_clock (j op : Nat) (s : State) : (gpioAct j op s).clock = s.clock := by
  simp only [gpioAct, State.clock_ite, ite_eq_right_iff]
  intro _
  split <;> simp [gpioSet, gpioClr, gpioTgl]

@[simp] theorem gpioEdge_clock (s : State) : (gpioEdge s).clock = s.clock := by
  rw [gpioEdge, foldS_clock (fun (e : GpioPend) s => gpioAct_clock e.pin e.op s)]
  rfl

@[simp] theorem sapAwait_clock (s : State) : (sapAwait s).clock = s.clock := by
  have hslot (n j : Nat) (s : State) : (sapLateSlot n j s).clock = s.clock := by simp [sapLateSlot]
  simp [sapAwait, sapLate, hslot]

@[simp] theorem routePut_clock (x : RtRun) (q idx i per w : Nat) (bytes : List Byte) (s : State) :
    (routePut x q idx i per w bytes s).clock = s.clock := by
  simp [routePut]

@[simp] theorem sapInput_clock (n q : Nat) (vs : List Word) (s : State) : (sapInput n q vs s).clock = s.clock := by
  unfold sapInput
  split
  · rfl
  · refine foldS_clock (fun x s => ?_) _ _
    split
    · rfl
    · exact routePut_clock ..

@[simp] theorem sapZeros_clock (n : Nat) (s : State) : (sapZeros n s).clock = s.clock := by
  simp [sapZeros]

@[simp] theorem sapPeriod_clock (s : State) : (sapPeriod s).clock = s.clock := by
  simp [sapPeriod]

end Sys2Proof.Machine
end

section
/-! The rows that move the Tide's counters (spec/02_tide.md, Position; Rates and frames; Reset and PITCH). -/

namespace Sys2Proof.Machine

theorem bit_or_left {i : Nat} {v : Word} (h : bit v i = true) (m : Word) : bit (v ||| m) i = true := by
  rw [bit, BitVec.getLsbD_or, Bool.or_eq_true]
  exact .inl h

theorem bit_or_right {i : Nat} {m : Word} (h : bit m i = true) (v : Word) : bit (v ||| m) i = true := by
  rw [bit, BitVec.getLsbD_or, Bool.or_eq_true]
  exact .inr h

theorem tkSlew_tide (s : State) : ∃ l, (tkSlew s).tide = { s.tide with followed := l } := by
  unfold tkSlew
  dsimp only
  split
  · exact ⟨s.tide.followed, rfl⟩
  · split
    · exact ⟨_, rfl⟩
    · exact ⟨s.tide.followed, rfl⟩

theorem tkSlew_ferr (s : State) : (tkSlew s).reg aTideFerr =
    BitVec.ofInt 32 (slewed (s.reg aTideFerr).toInt s.tide.goal.toInt (10000000 / rateHz s.rate : Nat)) := by
  unfold tkSlew
  dsimp only
  split
  case isTrue h => exact h.symm
  case isFalse =>
    have hset (v : Word) : (s.setReg aTideFerr v).reg aTideFerr = v := by rw [State.reg_setReg, if_pos rfl]
    split <;> exact hset _

/-- The Tide after the edge that ends a sample, before its TKCLK offset slews. -/
def Tide.nextSample (t : Tide) : Tide :=
  { t with phase := 0, count := t.count + 1, elapsed := t.elapsed + 1, gateFires := [], beat := t.beat + t.tempo.zeroExtend 96
           framePos := t.framePos + 1 }

theorem sampleBoundary_of_counting {s : State} (h : s.counting = true) : sampleBoundary s = tkSlew { s with tide := s.tide.nextSample } :=
  if_pos h

/-- What SAMPLE_BOUNDARY does beside the Tide's own edge, for the pins and the audio ports, leaves the clock. -/
theorem exec_sampleBoundary {s : State} (h : s.counting = true) :
    ∃ t, exec .sampleBoundary s = .next t ∧ t.clock = (tkSlew { s with tide := s.tide.nextSample }).clock :=
  ⟨_, congrArg Host.Outcome.next (if_pos h), by simp [sampleBoundary_of_counting h]⟩

theorem sampleBoundary_position {s : State} (h : s.counting = true) :
    ∃ t, exec .sampleBoundary s = .next t ∧ t.tide.phase = 0 ∧ t.tide.count = s.tide.count + 1 ∧
      t.tide.beat = s.tide.beat + s.tide.tempo.zeroExtend 96 ∧ t.tide.framePos = s.tide.framePos + 1 ∧ t.tide.goal = s.tide.goal ∧
      t.reg aTideFerr = BitVec.ofInt 32 (slewed (s.reg aTideFerr).toInt s.tide.goal.toInt (10000000 / rateHz s.rate : Nat)) := by
  obtain ⟨t, hexec, hclock⟩ := exec_sampleBoundary h
  obtain ⟨l, hl⟩ := tkSlew_tide { s with tide := s.tide.nextSample }
  have ht : t.tide.clock = ({ s.tide.nextSample with followed := l } : Tide).clock := (State.tide_of_clock hclock).trans (congrArg _ hl)
  exact ⟨t, hexec, congrArg Tide.phase ht, congrArg Tide.count ht, congrArg Tide.beat ht, congrArg Tide.framePos ht, (congrArg Tide.goal ht :),
    (State.reg_of_clock hclock (by decide)).trans (tkSlew_ferr _)⟩

/-- A locate by the camp moves the beat position alone. -/
theorem Camp.located_eq (c : Camp) (t : Tide) : ∃ b, c.located t = { t with beat := b } := by
  unfold Camp.located
  cases c.fix
  · exact ⟨t.beat, rfl⟩
  · exact ⟨_, rfl⟩

theorem frameBoundary_position {s : State} (hc : s.counting = true) (hpos : s.tide.nNow ≤ s.tide.framePos) (hphase : s.tide.phase = 0) :
    ∃ t, exec .tideFrameBoundary s = .next t ∧ t.tide.frame = s.tide.frame + 1 ∧ t.tide.frameStart = s.tide.count ∧
      t.tide.framePos = 0 ∧ bit (t.reg aTideStat) 15 = true := by
  have hclock (b : Nat) : (haltBoundary (locateFires b false (campBoundary (tideNewFrame s)))).clock =
      ({ tideNewFrame s with tide := (tideNewFrame s).camp.located (tideNewFrame s).tide } : State).clock := by
    rw [haltBoundary_clock, locateFires_clock, campBoundary_clock]
  obtain ⟨b, hb⟩ := (tideNewFrame s).camp.located_eq (tideNewFrame s).tide
  rw [hb] at hclock
  have ht := State.tide_of_clock (hclock s.tide.beat16.toNat)
  refine ⟨_, congrArg Host.Outcome.next (if_pos ⟨hc, hpos, hphase⟩), (congrArg Tide.frame ht :), (congrArg Tide.frameStart ht :),
    (congrArg Tide.framePos ht :), ?_⟩
  rw [State.reg_of_clock (hclock _) (by decide)]
  exact (congrArg (bit · 15) (State.reg_orReg _ aTideStat 0x8000 aTideStat)).trans (bit_or_right (by decide) _)

/-! ## The lock state -/

/-- The Tide as it takes a lock state. -/
theorem setLock_tide (l : LockState) (s : State) : (setLock l s).tide = { s.tide with
    lock := l, inLimits := 0, returns := 0, goal := lockOffset l s
    followed := if l = .locked then [(s.tide.elapsed, s.reg aTideFerr)] else [] } := by
  unfold setLock
  dsimp only
  split
  · rfl
  · split <;> rfl

theorem rateRestart_position {s : State} (h : s.tide.stopped = true) :
    ∃ t, exec .tideRateRestart s = .next t ∧ t.tide.stopped = false ∧ t.tide.count = 0 ∧ t.tide.phase = 0 ∧ t.tide.frame = 0 ∧
      t.tide.frameStart = 0 ∧ t.tide.framePos = 0 ∧ t.tide.nNow = fld (s.reg aTideCfg) 8 6 ∧ t.tide.beat = s.tide.beat ∧
      t.tide.lock = (if fld (s.reg aTideRef) 0 4 = 0 then .free else .acquire) := by
  refine ⟨_, congrArg Host.Outcome.next (if_pos h), ?_⟩
  simp only [setLock_tide, and_self]

/-- Settles O5: the units that take part in a boundary leave the Tide's clock, so the counters are those of the Tide's own edge. -/
theorem tidePositionRows : Obligations.TidePositionRows :=
  ⟨fun _ hc _ => sampleBoundary_position hc, fun _ hc hpos hphase => frameBoundary_position hc hpos hphase, fun _ h => rateRestart_position h⟩

end Sys2Proof.Machine
end

section
/-! Software's rows on the Tide, and its state after reset (spec/02_tide.md, Snapshot and stamps; Tempo and beat position; Reset and PITCH). -/

namespace Sys2Proof.Machine

/-! ## Snapshot -/

theorem hi_append_lo (x : BitVec 64) : ((x >>> 32).truncate 32 : Word) ++ (x.truncate 32 : Word) = x := by
  refine BitVec.eq_of_getLsbD_eq fun i _ => ?_
  rw [BitVec.getLsbD_append]
  split
  case isTrue hlo => simp [hlo]
  case isFalse hlo => simp [Nat.add_sub_cancel' (Nat.le_of_not_lt hlo), show i - 32 < 32 by omega]

theorem snapshot_frame (s : State) : { snapshot s with regs := s.regs } = s := rfl

/-- Settles O9: the six registers are written from one Tide, each once, and their words read back as what was captured. -/
theorem snapshotCapturesOneEdge : Obligations.SnapshotCapturesOneEdge := by
  intro s
  refine ⟨snapshot s, rfl, ?_, ?_, ?_, ?_, snapshot_frame s, fun a ha => ?_⟩
  · simp [snapshot, hi_append_lo]
  · simp [snapshot]
  · simp [snapshot, hi_append_lo]
  · simp [snapshot]
  · simp only [List.mem_cons, List.not_mem_nil, or_false, not_or] at ha
    simp [snapshot, ha]

/-! ## The tempo queue -/

theorem tempoSoft_of_full {s : State} (h : ¬ s.tide.queue.length < 8) (locate : Bool) : tempoSoft locate s = s.orReg aTideStat 0x2000 := by
  unfold tempoSoft
  split
  · rfl
  · exact if_neg h

/-- Settles O10: a full queue ignores the entry, whether the member takes its entries from the keeper or from software. -/
theorem fullTempoQueueIgnoresPushes : Obligations.FullTempoQueueIgnoresPushes := by
  intro s c hfull hc
  have hsoft (locate : Bool) := tempoSoft_of_full (s := s) (by omega) locate
  refine ⟨?_, (congrArg (bit · 13) (s.reg_orReg aTideStat 0x2000 aTideStat)).trans (bit_or_right (by decide) _)⟩
  simp only [List.mem_cons, List.not_mem_nil, or_false] at hc
  rcases hc with rfl | rfl
  · exact congrArg Host.Outcome.next (hsoft false)
  · exact congrArg Host.Outcome.next (hsoft true)

/-- A push of software's on a member with TIDE_REF.src = 5 is ignored (R545). -/
theorem exec_tempoPush_of_onStrand {s : State} (h : s.onStrand = true) : exec .tempoPush s = .next (s.orReg aTideStat 0x2000) :=
  congrArg Host.Outcome.next (if_pos h)

/-- Refutes O8: where TIDE_REF.src is 5 and the fallback source is in force, the reference in force is not the keeper, but a push of
software's is ignored all the same, as R545 goes by TIDE_REF.src; so the empty queue stays empty. -/
theorem not_tempoRows : ¬ Obligations.TempoRows := by
  intro h
  obtain ⟨⟨t, hexec, hqueue⟩, -⟩ :=
    h.1 { State.reset.setReg aTideRef 5 with tide := { Tide.reset with fallback := true } } (by decide) (by decide)
  cases (exec_tempoPush_of_onStrand (by decide)).symm.trans hexec
  exact absurd hqueue (by decide)

/-! ## COLD reset -/

theorem regRow?_tide {a : Nat} (hlo : 0x40010000 ≤ a) (hhi : a < 0x40020000) : regRow? a = rowsTide.find? (fun r => r.has a) := by
  have hblock : regBlocks.find? (fun b => decide (b.1 ≤ a) && decide (a < b.1 + b.2.1)) = some (0x40010000, 0x10000, rowsTide) := by
    rw [regBlocks, List.find?_cons_of_neg (by simp; omega), List.find?_cons_of_pos (by simp; omega)]
  rw [regRow?, hblock]

theorem reset_of_row_beyond_clock : ∀ r ∈ rowsTide, r.count ≤ (0x40010100 - r.base) / r.stride ∨ r.reset = 0 := by decide

/-- The registers of the compares hold 0 at reset. -/
theorem regDefault_compare {a : Nat} (hlo : 0x40010100 ≤ a) (hhi : a < 0x40020000) : regDefault a = 0 := by
  unfold regDefault
  rw [regRow?_tide (by omega) hhi]
  split
  · rfl
  case h_2 r hr =>
    rcases reset_of_row_beyond_clock r (List.mem_of_find?_eq_some hr) with hend | hreset
    · have hhas := List.find?_some hr
      simp only [RegRow.has, Bool.and_eq_true, decide_eq_true_eq] at hhas
      obtain ⟨-, ⟨hcount, -⟩, -⟩ := hhas
      have := Nat.div_le_div_right (c := r.stride) (Nat.sub_le_sub_right hlo r.base)
      omega
    · exact congrArg (BitVec.ofNat 32) hreset

theorem cmpMode_reset (n : Fin 256) : State.reset.cmpMode n = 0 := by
  have hctl : State.reset.reg (aTideCmpCtl n) = 0 :=
    regDefault_compare (Nat.le_add_right_of_le (by decide)) (by unfold aTideCmpCtl; omega)
  simp [State.cmpMode, hctl, fld, legal]

/-- Settles O11: the Tide and the compares of State.reset are plain data, and the mode of a compare is a register of the compares. -/
theorem tideAfterColdReset : Obligations.TideAfterColdReset :=
  ⟨rfl, rfl, by decide, rfl, by decide, rfl, rfl, rfl, rfl, rfl, fun n => ⟨cmpMode_reset n, rfl, rfl⟩⟩

end Sys2Proof.Machine
end

section
/-! The lock rows of the Tide (spec/02_tide.md, References and lock; Losing and regaining the reference): what an update of the reference in
force does in each lock state, and the changes of the lock state. -/

namespace Sys2Proof.Machine

/-! ## An update of the reference in force -/

/-- Is the reference out of range or of the other rate family (R52, R55)? -/
def refBad (u : RefUpdate) : Bool := !u.family || decide (wordAbs u.refOfs > 1000000)

theorem refBad_eq_true {u : RefUpdate} : refBad u = true ↔ u.family = false ∨ 1000000 < wordAbs u.refOfs := by
  simp [refBad]

theorem refBad_eq_false {u : RefUpdate} (hf : u.family = true) (hr : wordAbs u.refOfs ≤ 1000000) : refBad u = false := by
  simp [refBad, hf, hr]

/-- Is the reference good, with both errors within the limits of lock (R50)? -/
def refWithin (u : RefUpdate) : Bool := !refBad u && decide (wordAbs u.perr ≤ 50000) && decide (wordAbs u.ferr ≤ 1000)

/-- The TKCLK offset that a good reference gives (R55). -/
def refOffset (u : RefUpdate) : Word := BitVec.ofInt 32 (slewed u.refOfs.toInt u.offs.toInt 100000)

/-- The registers after an update: TIDE_PERR, and ref_range for a bad reference. -/
def State.refNoted (s : State) (u : RefUpdate) : State :=
  if refBad u then (s.setReg aTidePerr u.perr).orReg aTideStat 0x800 else s.setReg aTidePerr u.perr

/-- The Tide after an update in the lock state `l`; `ferr` is the TKCLK offset and `step` the step of the sample count that is then due. -/
def Tide.refUpdated (l : LockState) (t : Tide) (u : RefUpdate) (ferr : Word) (step : Option (BitVec 64)) : Tide :=
  match l with
  | .free => { t with goal := 0 }
  | .acquire =>
    { t with goal := if refBad u then 0 else refOffset u, inLimits := if refWithin u then t.inLimits + 1 else 0, step := step }
  | .locked =>
    { t with goal := if refBad u then ferr else refOffset u, farOff := decide (wordAbs u.perr > 1000000), step := step }
  | .holdover => { t with returns := if u.gap then 1 else t.returns + 1 }

theorem referenceUpdate_of_inForce {s : State} {u : RefUpdate} (h : s.refSrc = u.src ∧ (u.src = 5 ∨ s.refSel = u.sel.val) ∧ u.src ≠ 0) :
    ∃ step, referenceUpdate u s = { s.refNoted u with tide := Tide.refUpdated s.tide.lock s.tide u (s.reg aTideFerr) step } := by
  have hnamed : (!u.family || decide (wordAbs u.refOfs > 1000000)) = refBad u := rfl
  rcases Bool.eq_false_or_eq_true (refBad u) with hbad | hbad <;>
    simp only [referenceUpdate, if_pos h, hnamed, hbad, State.refNoted, State.onTide, Tide.refUpdated, refWithin, State.setReg_tide,
      State.orReg_tide, if_true, Bool.false_eq_true,
      if_false] <;>
    cases s.tide.lock
  case inl.free | inl.holdover | inr.free | inr.holdover => exact ⟨none, rfl⟩
  case inl.acquire | inl.locked | inr.acquire | inr.locked => exact ⟨_, rfl⟩

theorem State.refNoted_reg (s : State) (u : RefUpdate) (a : Nat) : (s.refNoted u).reg a =
    if a = aTideStat ∧ refBad u = true then s.reg aTideStat ||| 0x800 else if a = aTidePerr then u.perr else s.reg a := by
  unfold State.refNoted
  cases refBad u <;> simp [show aTideStat ≠ aTidePerr by decide]

theorem State.refNoted_frame (s : State) (u : RefUpdate) : ∃ regs, s.refNoted u = { s with regs := regs } := by
  unfold State.refNoted
  split <;> exact ⟨_, rfl⟩

/-- The errors that State gives an update change none of its other fields. -/
theorem State.absUpdate_eq (s : State) (u : RefUpdate) : ∃ err fraction,
    s.absUpdate u = { u with perr := (s.absUpdate u).perr, err := err, fraction := fraction } := by
  unfold State.absUpdate
  split
  · exact ⟨_, _, rfl⟩
  · split <;> exact ⟨u.err, u.fraction, rfl⟩

theorem State.absUpdate_perr_of_error {s : State} {u : RefUpdate} {e : Int} (h : s.refError u = some e) : (s.absUpdate u).perr =
    BitVec.ofInt 32 (max (-2147483648) (min 2147483647 (e * 1000000000000 / ((rateHz s.rate : Int) * 2 ^ 32)))) := by
  rw [State.absUpdate, h]

theorem State.absUpdate_perr_of_clock {s : State} {u : RefUpdate} (h : u.src = 1 ∨ u.src = 2) :
    (s.absUpdate u).perr = BitVec.ofInt 32 (wrapPhase u.perr.toInt (s.refPeriod u.src)) := by
  have hnone : s.refError u = none := by
    rcases h with h | h <;> simp [State.refError, h]
  rw [State.absUpdate, hnone]
  exact congrArg RefUpdate.perr (if_pos h)

/-- What an update uses up is none of the Tide's. -/
theorem refUsed_frame (u : RefUpdate) (s : State) : ∃ eth camp, refUsed u s = { s with eth := eth, camp := camp } := by
  unfold refUsed
  split
  · exact ⟨_, s.camp, rfl⟩
  · exact ⟨_, s.camp, rfl⟩
  · exact ⟨s.eth, _, rfl⟩
  · exact ⟨s.eth, s.camp, rfl⟩

section
variable {s : State} {u : RefUpdate} (hsrc : s.refSrc = u.src) (hsel : u.src = 5 ∨ s.refSel = u.sel.val) (hne : u.src ≠ 0)
  (hpos : u.src = 3 ∨ u.src = 4 ∨ u.src = 5 → (s.refError u).isSome = true)
include hsrc hsel hne hpos

/-- An update of the reference in force, with its errors from State, and what it uses up. -/
theorem exec_referenceUpdate : ∃ t step, exec (.referenceUpdate u) s = .next t ∧
    t.tide = Tide.refUpdated s.tide.lock s.tide (s.absUpdate u) (s.reg aTideFerr) step ∧
    (∀ a, t.reg a = (s.refNoted (s.absUpdate u)).reg a) ∧ t.eth = (refUsed u s).eth ∧ t.camp = (refUsed u s).camp := by
  have hhave : ¬((u.src = 3 ∨ u.src = 4 ∨ u.src = 5) ∧ s.refError u = none) := by
    rintro ⟨hs, hnone⟩
    simpa [hnone] using hpos hs
  obtain ⟨err, fraction, hu⟩ := s.absUpdate_eq u
  obtain ⟨eth, camp, hs⟩ := refUsed_frame u s
  have hforce : (refUsed u s).refSrc = (s.absUpdate u).src ∧ ((s.absUpdate u).src = 5 ∨ (refUsed u s).refSel = (s.absUpdate u).sel.val) ∧
      (s.absUpdate u).src ≠ 0 := by
    rw [hu, hs]
    exact ⟨hsrc, hsel, hne⟩
  obtain ⟨step, ht⟩ := referenceUpdate_of_inForce hforce
  obtain ⟨regs, hregs⟩ := (refUsed u s).refNoted_frame (s.absUpdate u)
  refine ⟨_, step, congrArg Host.Outcome.next (if_neg hhave), ?_, fun a => ?_, ?_, ?_⟩
  · rw [ht, hs]
    rfl
  · rw [ht]
    change ((refUsed u s).refNoted (s.absUpdate u)).reg a = _
    rw [State.refNoted_reg, State.refNoted_reg, hs]
    rfl
  · rw [ht, hregs]
  · rw [ht, hregs]

end

/-! ## What the update does, by lock state -/

section
variable {l : LockState} {t : Tide} {u : RefUpdate} {ferr : Word} {step : Option (BitVec 64)}

theorem Tide.refUpdated_lock : (t.refUpdated l u ferr step).lock = t.lock := by
  cases l <;> rfl

theorem Tide.refUpdated_goal_of_good (hg : refBad u = false) (hl : l = .acquire ∨ l = .locked) :
    (t.refUpdated l u ferr step).goal = refOffset u := by
  rcases hl with rfl | rfl <;> simp [Tide.refUpdated, hg]

theorem Tide.refUpdated_goal_nominal (h : l = .free ∨ l = .acquire ∧ refBad u = true) : (t.refUpdated l u ferr step).goal = 0 := by
  rcases h with rfl | ⟨rfl, hb⟩
  · rfl
  · simp [Tide.refUpdated, hb]

end


/-- The CRF timestamp that heads the queue is the one that an update of its listener takes (R573). -/
theorem refError_crf_head {s : State} {u : RefUpdate} {x : Nat × Int} {xs : List (Nat × Int)} (hq : s.eth.crf = x :: xs) (hsrc : u.src = 4)
    (hx : x.1 = u.sel) : s.refError u = some (u.err.toInt * 2 ^ 32 + x.2) ∧ (refUsed u s).eth.crf = xs := by
  simp [State.refError, refUsed, hsrc, hq, hx]

/-! ## Changes of the lock state -/

theorem setLock_reg (l : LockState) (s : State) (a : Nat) : (setLock l s).reg a =
    if a = aTideStat ∧ s.tide.lock ≠ l then s.reg aTideStat ||| (if l = .holdover then 0x300 else 0x100) else s.reg a := by
  unfold setLock
  dsimp only
  by_cases h : s.tide.lock = l
  · simp only [h, if_true, ne_eq, not_true_eq_false, and_false, if_false]
    rfl
  · simp only [h, if_false, ne_eq, not_false_eq_true, and_true]
    split <;> exact State.reg_orReg _ _ _ _

theorem setLock_stat {l : LockState} {s : State} (h : s.tide.lock ≠ l) :
    (setLock l s).reg aTideStat = s.reg aTideStat ||| (if l = .holdover then 0x300 else 0x100) :=
  (setLock_reg l s aTideStat).trans (if_pos ⟨rfl, h⟩)

/-- A change of the lock state sets lock_chg (R51). -/
theorem setLock_lockChg {l : LockState} {s : State} (h : s.tide.lock ≠ l) : bit ((setLock l s).reg aTideStat) 8 = true := by
  rw [setLock_stat h]
  exact bit_or_right (by split <;> decide) _

/-- The entry to HOLDOVER sets ref_lost too. -/
theorem setLock_refLost {s : State} (h : s.tide.lock ≠ .holdover) : bit ((setLock .holdover s).reg aTideStat) 9 = true := by
  rw [setLock_stat h]
  exact bit_or_right (by decide) _

theorem setLock_reg_of_ne {a : Nat} (h : a ≠ aTideStat) (l : LockState) (s : State) : (setLock l s).reg a = s.reg a :=
  (setLock_reg l s a).trans (if_neg fun hc => h hc.1)

theorem lockAchieved_row {s : State} (hl : s.tide.lock = .acquire) (hn : max 1 (fld (s.reg aTideHold) 16 8) ≤ s.tide.inLimits) :
    ∃ t, exec .lockAchieved s = .next t ∧ t.tide.lock = .locked ∧ bit (t.reg aTideStat) 8 = true := by
  have hlim : (if fld (s.reg aTideHold) 16 8 = 0 then 1 else fld (s.reg aTideHold) 16 8) ≤ s.tide.inLimits := by
    split <;> omega
  refine ⟨_, congrArg Host.Outcome.next (if_pos ⟨hl, hlim⟩), congrArg Tide.lock (setLock_tide .locked s), ?_⟩
  exact setLock_lockChg (by simp [hl])

theorem holdoverEntry_row {s : State} {missed4 : Bool} (hl : s.tide.lock = .locked) (h : missed4 = true ∨ s.tide.farOff = true) :
    ∃ t, exec (.holdoverEntry missed4) s = .next t ∧ t.tide.lock = .holdover ∧ t.tide.goal = s.heldOffset ∧ bit (t.reg aTideStat) 8 = true ∧
      bit (t.reg aTideStat) 9 = true := by
  have hne : s.tide.lock ≠ .holdover := by simp [hl]
  exact ⟨_, congrArg Host.Outcome.next (if_pos ⟨hl, h⟩), congrArg Tide.lock (setLock_tide .holdover s),
    congrArg Tide.goal (setLock_tide .holdover s), setLock_lockChg hne, setLock_refLost hne⟩

theorem referenceReturn_row {s : State} (hl : s.tide.lock = .holdover) (hn : 8 ≤ s.tide.returns) :
    ∃ t, exec .referenceReturn s = .next t ∧ t.tide.lock = .acquire ∧ bit (t.reg aTideStat) 8 = true :=
  ⟨_, congrArg Host.Outcome.next (if_pos ⟨hl, hn⟩), congrArg Tide.lock (setLock_tide .acquire s), setLock_lockChg (by simp [hl])⟩

/-- The fallback source is in force (R61). -/
def State.onFallback (s : State) : State := s.onTide fun t => { t with fallback := true }

theorem fallbackSwitch_of_holdover {s : State} (hl : s.tide.lock = .holdover) (hn : fld (s.reg aTideHold) 0 16 ≠ 0) :
    fallbackSwitch s = (setLock .acquire s.onFallback).orReg aTideStat 0x4000 :=
  if_pos ⟨hl, hn⟩

theorem fallbackSwitch_row {s : State} (hl : s.tide.lock = .holdover) (hn : fld (s.reg aTideHold) 0 16 ≠ 0) :
    ∃ t, exec .fallbackSwitch s = .next t ∧ t.tide.lock = .acquire ∧ bit (t.reg aTideStat) 8 = true ∧ bit (t.reg aTideStat) 14 = true ∧
      t.refSrc = fld (s.reg aTideRef) 16 4 ∧ t.refSel = fld (s.reg aTideRef) 20 6 := by
  have htide := setLock_tide .acquire s.onFallback
  have hchg := setLock_lockChg (l := .acquire) (s := s.onFallback) (hl.trans_ne (by decide))
  have href : ((setLock .acquire s.onFallback).orReg aTideStat 0x4000).reg aTideRef = s.reg aTideRef :=
    (State.reg_orReg _ _ _ _).trans ((if_neg (by decide)).trans (setLock_reg_of_ne (by decide) _ _))
  have hfall : ((setLock .acquire s.onFallback).orReg aTideStat 0x4000).tide.fallback = true := congrArg Tide.fallback htide
  refine ⟨_, congrArg Host.Outcome.next (fallbackSwitch_of_holdover hl hn), congrArg Tide.lock htide, ?_, ?_, ?_, ?_⟩
  · rw [State.reg_orReg, if_pos rfl]
    exact bit_or_left hchg _
  · rw [State.reg_orReg, if_pos rfl]
    exact bit_or_right (by decide) _
  · exact (if_pos hfall).trans (congrArg (fld · 16 4) href)
  · exact (if_pos hfall).trans (congrArg (fld · 20 6) href)

/-- The lock state that a write of TIDE_REF enters (Table 02-4). -/
def refLock (v : Word) : LockState := if fld v 0 4 = 0 then .free else .acquire

/-- TIDE_REF is written: its primary source is in force. -/
def State.refWritten (s : State) (v : Word) : State :=
  (s.setReg aTideRef (v &&& 0x03FF1FFF)).onTide fun t => { t with fallback := false, step := none }

theorem tideRefWrite_row (s : State) (v : Word) : ∃ t, exec (.tideRefWrite v) s = .next t ∧ t.reg aTideRef = v &&& 0x03FF1FFF ∧
    t.tide.lock = (if fld v 0 4 = 0 then .free else .acquire) ∧ t.tide.fallback = false ∧
    (t.tide.lock ≠ s.tide.lock → bit (t.reg aTideStat) 8 = true) := by
  have htide := setLock_tide (refLock v) (s.refWritten v)
  have href : (setLock (refLock v) (s.refWritten v)).reg aTideRef = v &&& 0x03FF1FFF :=
    (setLock_reg_of_ne (by decide) _ _).trans ((State.reg_setReg _ _ _ _).trans (if_pos rfl))
  have hlock : (setLock (refLock v) (s.refWritten v)).tide.lock = refLock v := congrArg Tide.lock htide
  exact ⟨setLock (refLock v) (s.refWritten v), rfl, href, hlock, congrArg Tide.fallback htide, fun h => setLock_lockChg (hlock ▸ h).symm⟩

/-- Settles O6: an update is `Tide.refUpdated` in the lock state that holds, and every change of the lock state is a `setLock`. -/
theorem tideLockRows : Obligations.TideLockRows := by
  refine ⟨fun s u hsrc hsel hne hpos => ?_, fun _ => lockAchieved_row, fun _ _ => holdoverEntry_row, fun _ => referenceReturn_row,
    fun _ => fallbackSwitch_row, tideRefWrite_row⟩
  obtain ⟨t, step, hexec, htide, hreg, heth, hcamp⟩ := exec_referenceUpdate hsrc hsel hne hpos
  obtain ⟨err, fraction, hu⟩ := s.absUpdate_eq u
  have hbad : refBad (s.absUpdate u) = refBad u := by rw [hu]; rfl
  have hofs : refOffset (s.absUpdate u) = refOffset u := by rw [hu]; rfl
  have hferr : (s.absUpdate u).ferr = u.ferr := by rw [hu]
  have hgap : (s.absUpdate u).gap = u.gap := by rw [hu]
  refine ⟨t, hexec, ?perr, State.absUpdate_perr_of_clock, fun e he => State.absUpdate_perr_of_error he, ?ptp, ?camp, ?crf, ?lock,
    ?goalGood, ?goalNominal, ?goalHeld, ?ferr, ?bad, ?inLimits, ?returns⟩
  case perr => simp [hreg, State.refNoted_reg]
  case ptp => intro h; simp [State.refError, h]
  case camp =>
    intro h
    rw [hcamp, State.refError, refUsed, h]
    exact ⟨rfl, rfl⟩
  case crf =>
    intro x hx h4 hsel
    obtain ⟨xs, hq⟩ := List.head?_eq_some_iff.mp hx
    rw [heth, hq]
    exact refError_crf_head hq h4 hsel
  case lock => rw [htide, Tide.refUpdated_lock]
  case goalGood =>
    intro hf hr hl
    rw [htide, Tide.refUpdated_goal_of_good (hbad.trans (refBad_eq_false hf hr)) hl, hofs]
    rfl
  case goalNominal =>
    intro h
    rw [htide]
    exact Tide.refUpdated_goal_nominal (h.imp_right fun hb => ⟨hb.1, hbad.trans (refBad_eq_true.mpr hb.2)⟩)
  case goalHeld => intro h; rw [htide, h]; rfl
  case ferr => simp [hreg, State.refNoted_reg]
  case bad =>
    intro h
    have hb : refBad (s.absUpdate u) = true := hbad.trans (refBad_eq_true.mpr h)
    rw [hreg, State.refNoted_reg, if_pos ⟨rfl, hb⟩]
    exact ⟨bit_or_right (by decide) _, fun hl => by simp [htide, hl, Tide.refUpdated, refWithin, hb]⟩
  case inLimits =>
    intro hf hr hl
    simp [htide, hl, Tide.refUpdated, refWithin, hbad, refBad_eq_false hf hr, hferr]
  case returns => intro h; rw [htide, h]; simp [Tide.refUpdated, hgap]

end Sys2Proof.Machine
end

section
/-! The compares' rows (spec/02_tide.md, Tide compares): what a write of each of their words does, a fire with its action, and a GPIO
action that reaches its pin. -/

namespace Sys2Proof.Machine

/-! ## Reads of compares after writes -/

@[simp] theorem State.cmp_setCmp (s : State) (n : Nat) (c : Cmp) (m : Nat) : (s.setCmp n c).cmp m = if m = n then c else s.cmp m := by
  simp [State.cmp, State.setCmp]

@[simp] theorem State.cmp_setReg (s : State) (a : Nat) (v : Word) (m : Nat) : (s.setReg a v).cmp m = s.cmp m := rfl

@[simp] theorem State.cmp_orReg (s : State) (a : Nat) (v : Word) (m : Nat) : (s.orReg a v).cmp m = s.cmp m := rfl

@[simp] theorem State.reg_setCmp (s : State) (n : Nat) (c : Cmp) (a : Nat) : (s.setCmp n c).reg a = s.reg a := rfl

/-! ## Staging, arming and switching off -/

theorem cmpTgtLow_cmp (n : Nat) (v : Word) (s : State) : (cmpTgtLow n v s).cmp n = { s.cmp n with staged := v } := by
  simp [cmpTgtLow]

/-- A compare that becomes live notes whether its target is past, and changes in nothing else. -/
theorem cmpLive_cmp (n : Nat) (s : State) : ∃ past, (cmpLive n s).cmp n = { s.cmp n with past := past } := by
  unfold cmpLive
  split
  · exact ⟨_, (s.cmp_setCmp n _ n).trans (if_pos rfl)⟩
  · exact ⟨(s.cmp n).past, rfl⟩

theorem cmpArm_cmp (n : Nat) (v : Word) (s : State) : ∃ past, (cmpArm n v s).cmp n =
    { s.cmp n with target := v ++ (s.cmp n).staged, armed := true, fired := false, cnt := 0, past := past } := by
  obtain ⟨past, h⟩ := cmpLive_cmp n
    (s.setCmp n { s.cmp n with target := v ++ (s.cmp n).staged, armed := true, fired := false, cnt := 0, past := false })
  exact ⟨past, by rw [cmpArm, h, State.cmp_setCmp, if_pos rfl]⟩

theorem fld_and (v m : Word) (lo w : Nat) : fld (v &&& m) lo w = fld v lo w &&& fld m lo w := by
  simp only [fld, BitVec.toNat_and, Nat.shiftRight_and_distrib, Nat.and_mod_two_pow]

/-- Mode 0 has one code, whatever the codes that R12 reserves do. -/
theorem legal_zero {id n : Nat} (h : 0 < n) : legal id n 0 = 0 := if_pos h

theorem cmpCtlWrite_off {n : Nat} {v : Word} (h : fld v 0 2 = 0) (s : State) :
    ((cmpCtlWrite n v s).cmp n).armed = false ∧ (cmpCtlWrite n v s).cmpMode n = 0 := by
  have hoff : legal 0 3 (fld v 0 2) = 0 := by rw [h, legal_zero (by decide)]
  have hmode : fld (v &&& 0xF77) 0 2 = 0 := by rw [fld_and, h, Nat.zero_and]
  simp only [cmpCtlWrite, hoff, if_true, State.cmpMode, State.cmp_setCmp, State.reg_setCmp, State.reg_setReg, hmode]
  exact ⟨trivial, legal_zero (by decide)⟩

/-! ## Fires -/

theorem foldS_induction {α : Type} {f : α → State → State} {P : State → Prop} (hf : ∀ x s, P s → P (f x s)) (l : List α) (s : State)
    (h : P s) : P (foldS f l s) := by
  induction l generalizing s with
  | nil => exact h
  | cons x l ih => exact ih _ (hf x s h)

theorem sapRegate_frame (n : Nat) (m : Word) (s : State) : ∃ sap, sapRegate n m s = { s with sap := sap } := by
  unfold sapRegate
  split
  · exact ⟨s.sap, rfl⟩
  · refine foldS_induction (P := fun t => ∃ sap, t = { s with sap := sap }) (fun j t ht => ?_) _ s ⟨s.sap, rfl⟩
    obtain ⟨sap, rfl⟩ := ht
    split
    · exact ⟨_, rfl⟩
    · exact ⟨sap, rfl⟩

theorem sapGateFire_frame (n : Nat) (m : Word) (opens : Bool) (s : State) :
    ∃ v sap, sapGateFire n m opens s = { s.setReg (aSapGate n) v with sap := sap } := by
  unfold sapGateFire
  dsimp only
  generalize (if opens = true then _ else _ : Word) = v, (if s.tide.phase = 0 then 0 else 1) = wait
  split
  · obtain ⟨sap, h⟩ := sapRegate_frame n m (s.setReg (aSapGate n) v)
    exact ⟨v, sap, h⟩
  · exact ⟨v, _, rfl⟩

/-- An action changes no compare, and no register but one of the gates of the audio ports. -/
theorem cmpAction_frame (n : Nat) (s : State) : (cmpAction n s).cmps = s.cmps ∧ ∀ a < 0x40100000, (cmpAction n s).reg a = s.reg a := by
  unfold cmpAction
  dsimp only
  split
  · exact ⟨rfl, fun _ _ => rfl⟩
  · obtain ⟨v, sap, h⟩ := sapGateFire_frame (fld (s.reg (aTideCmpAct n)) 0 6) _ (bit (s.reg (aTideCmpAct n)) 24)
      { s with tide := { s.tide with gateFires := s.tide.gateFires ++ [(n, s.reg (aTideCmpAct n))] } }
    rw [gateAction, h]
    refine ⟨rfl, fun a ha => (State.reg_setReg _ _ v a).trans (if_neg ?_)⟩
    unfold aSapGate
    omega
  · split <;> exact ⟨rfl, fun _ _ => rfl⟩
  · exact ⟨rfl, fun _ _ => rfl⟩

/-- A compare after it has fired: a periodic one moves its target by its period as often as it takes to pass the position (R65), another is
disarmed (R64). -/
def State.cmpAfter (s : State) (n : Nat) : Cmp :=
  if s.cmpMode n = 2 ∧ s.reg (aTideCmpPer n) ≠ 0 then
    { s.cmp n with
      target := (s.cmp n).target + BitVec.ofNat 64 (((s.cmpPos n - (s.cmp n).target.toNat) / (s.reg (aTideCmpPer n)).toNat + 1) *
        (s.reg (aTideCmpPer n)).toNat)
      cnt := (s.cmp n).cnt + 1, past := false }
  else { s.cmp n with armed := false, fired := true, cnt := (s.cmp n).cnt + 1, past := false }

/-- A fire's own part: the compare after it, its pending bit, and its late bit where it is late (R64 to R66). -/
theorem cmpFired_eq (n : Nat) (late : Bool) (s : State) : ∃ isLate, cmpFired n late s =
    ((s.setCmp n (s.cmpAfter n)).orReg (aTideCmpPend (n / 32)) (1 <<< (n % 32))).orRegIf isLate (aTideCmpLate (n / 32)) (1 <<< (n % 32)) := by
  have htarget (k : Nat) (t : BitVec 64) : BitVec.ofNat 64 (t.toNat + k) = t + BitVec.ofNat 64 k := by
    rw [BitVec.ofNat_add, BitVec.ofNat_toNat, BitVec.setWidth_eq]
  have hper : (s.reg (aTideCmpPer n)).toNat ≠ 0 ↔ s.reg (aTideCmpPer n) ≠ 0 := not_congr (BitVec.toNat_inj (y := 0#32))
  simp only [cmpFired, State.cmpAfter, Bool.and_eq_true, decide_eq_true_eq, hper, htarget]
  exact ⟨_, rfl⟩

theorem cmpFired_cmp (n : Nat) (late : Bool) (s : State) : (cmpFired n late s).cmp n = s.cmpAfter n := by
  obtain ⟨isLate, h⟩ := cmpFired_eq n late s
  cases isLate <;> simp [h, State.orRegIf]

theorem cmpFired_pending (n : Nat) (late : Bool) (s : State) : bit ((cmpFired n late s).reg (aTideCmpPend (n / 32))) (n % 32) = true := by
  obtain ⟨isLate, h⟩ := cmpFired_eq n late s
  have hne : aTideCmpPend (n / 32) ≠ aTideCmpLate (n / 32) := by
    unfold aTideCmpPend aTideCmpLate
    omega
  have hbit : bit (BitVec.ofNat 32 (1 <<< (n % 32))) (n % 32) = true := by
    rw [bit, BitVec.getLsbD_ofNat, Nat.one_shiftLeft, Nat.testBit_two_pow_self, Bool.and_true, decide_eq_true_eq]
    exact Nat.mod_lt n (by decide)
  rw [h, State.reg_orRegIf, if_neg (fun hc => hne hc.1), State.reg_orReg, if_pos rfl]
  exact bit_or_right hbit _

theorem cmpMatches_armed {n : Nat} {s : State} (h : s.cmpMatches n = true) : (s.cmp n).armed = true := by
  simp only [State.cmpMatches, Bool.and_eq_true] at h
  obtain ⟨⟨⟨harmed, -⟩, -⟩, -⟩ := h
  exact harmed

theorem compareMatch_of_below {n : Nat} (hn : n < 224) {s : State} (hc : s.counting = true) (hm : s.cmpMatches n = true) :
    compareMatch n s = cmpAction n (cmpFired n false s) := by
  rw [compareMatch, if_pos (by rw [hc, hm]; rfl), fire, if_neg (by omega)]

/-! ## GPIO actions -/

/-- Every pin has its bit in the words of the GPIO registers. -/
theorem bit_gpMask (j : Fin 72) : bit (bitW (j % 32) &&& gpMask (j / 32)) (j % 32) = true := by
  revert j
  decide

theorem bit_bitW (j : Fin 72) : bit (bitW (j % 32)) (j % 32) = true := by
  have h := bit_gpMask j
  rw [bit, BitVec.getLsbD_and, Bool.and_eq_true] at h
  exact h.1

theorem gpioSet_bit (j : Fin 72) (s : State) : (gpioSet (j / 32) (bitW (j % 32)) s).gpBit aGpioOut j = true := by
  rw [State.gpBit, gpioSet, State.reg_orReg, if_pos rfl]
  exact bit_or_right (bit_gpMask j) _

theorem gpioClr_bit (j : Fin 72) (s : State) : (gpioClr (j / 32) (bitW (j % 32)) s).gpBit aGpioOut j = false := by
  have h : (bitW (j % 32)).getLsbD (j % 32) = true := bit_bitW j
  rw [State.gpBit, gpioClr, State.reg_clrReg, if_pos rfl, bit, BitVec.getLsbD_and, BitVec.getLsbD_not, h, Bool.not_true, Bool.and_false,
    Bool.and_false]

theorem gpioTgl_bit (j : Fin 72) (s : State) : (gpioTgl (j / 32) (bitW (j % 32)) s).gpBit aGpioOut j = !s.gpBit aGpioOut j := by
  have h : (bitW (j % 32) &&& gpMask (j / 32)).getLsbD (j % 32) = true := bit_gpMask j
  rw [State.gpBit, gpioTgl, State.reg_setReg, if_pos rfl, bit, BitVec.getLsbD_xor, h, Bool.xor_true]
  rfl

theorem gpioAct_bit {j : Fin 72} {op : Nat} (hop : op < 3) {s : State} (hsel : fld (s.reg (aPinSel j)) 0 3 = 0)
    (hoe : s.gpBit aGpioOe j = true) :
    (gpioAct j op s).gpBit aGpioOut j = (if op = 0 then true else if op = 1 then false else !s.gpBit aGpioOut j) := by
  unfold gpioAct
  rw [if_pos ⟨hsel, hoe⟩]
  match op, hop with
  | 0, _ => exact gpioSet_bit j s
  | 1, _ => exact gpioClr_bit j s
  | 2, _ => exact gpioTgl_bit j s

theorem gpioAct_tide (j op : Nat) (s : State) : (gpioAct j op s).tide = s.tide := by
  unfold gpioAct
  split
  · split <;> rfl
  · rfl

/-- A GPIO action alone on its way is due at the edge that COMPARE_GPIO_OUTPUT brings. -/
theorem compareGpioOutput_of_single {s : State} {e : GpioPend} (h : s.tide.gpioPend = [e]) :
    compareGpioOutput s = gpioAct e.pin e.op { s with tide := { s.tide with gpioPend := [] } } := by
  simp [compareGpioOutput, h, gpioEdge, foldS]

/-- Settles O7: a write of a compare's word changes that word, a fire is `State.cmpAfter` and its pending bit, which its action leaves, and a
GPIO action on its way reaches its pin with its edge. -/
theorem tideCompareRows : Obligations.TideCompareRows := by
  refine ⟨fun s n v => ⟨_, rfl, cmpTgtLow_cmp n v s⟩, fun s n v => ?arm, fun s n v => ?off, fun s n hn hc hm => ?fires,
    fun s gp gop gj hp hpin hop hsel hoe hlt => ?gpio⟩
  case arm =>
    obtain ⟨past, h⟩ := cmpArm_cmp n v s
    exact ⟨_, rfl, congrArg Cmp.target h, congrArg Cmp.armed h, congrArg Cmp.fired h, congrArg Cmp.cnt h⟩
  case off => exact ⟨_, rfl, cmpCtlWrite_off (by rw [fld_and]; exact Nat.and_zero _) s⟩
  case fires =>
    obtain ⟨hcmps, hreg⟩ := cmpAction_frame n (cmpFired n false s)
    have hcmp : (compareMatch n s).cmp n = s.cmpAfter n := by
      rw [compareMatch_of_below hn hc hm, State.cmp, hcmps]
      exact cmpFired_cmp n false s
    refine ⟨_, rfl, ?_, ?_, fun h => ?_, fun h2 hper => ?_⟩
    · rw [compareMatch_of_below hn hc hm, hreg _ (by unfold aTideCmpPend; omega)]
      exact cmpFired_pending n false s
    · rw [hcmp, State.cmpAfter]
      split <;> rfl
    · rw [hcmp, State.cmpAfter, if_neg (by tauto)]
      exact ⟨rfl, rfl⟩
    · rw [hcmp, State.cmpAfter, if_pos ⟨h2, hper⟩]
      exact ⟨cmpMatches_armed hm, rfl⟩
  case gpio =>
    have hact := compareGpioOutput_of_single hp
    rw [hpin, hop] at hact
    refine ⟨_, congrArg Host.Outcome.next hact, ?_, ?_⟩
    · rw [gpioAct_tide]
    · exact gpioAct_bit hlt hsel hoe

end Sys2Proof.Machine
end

section
/-! Time on a core reaches beyond its slot: a load of Legacy T2 that looks at the store buffer reads memory when its CCLK comes, whatever row
lets the time pass (spec/05_core_pipeline.md, R241), and what ECC corrects of it counts in the MEMC block (spec/07_memory.md, R321). -/

namespace Sys2Proof.Machine

/-- A load of the first word of slot 143's own local memory, issued behind a store that waits in the store buffer: it looks at the buffer in
CCLK 2 (R241), and ECC corrects a single-bit error of the word that it reads (R321). -/
def bufferedLoad : FarLoad :=
  { parts := [], dst := 5, kind := .w, clk := 0, pc := 0x20000000, fpc := 0, phys := localBase 143, cst := 5, ue := [], ce := [localBase 143]
    fill := false, late := [], after := 1, chk := true }

/-- Thread 3 of slot 143 in Legacy T2 with `bufferedLoad` behind a store to another word, and its private timer two CCLK from 0. -/
def timerBesideLoad : State :=
  (State.reset.setReg (aCorePipeCfg 143) 2).setThread 143 3
    (({ Thread.reset with
        far := [bufferedLoad]
        sbuf := [{ addr := localBase 143 + 4, data := [1, 2, 3, 4], pc := 0x1FFFFFFC, cst := 5, at_ := 0, ue := [], ce := [] }] }.setCreg
      0x100 2).setCreg 0x102 1)

/-- The load reads its word while the timer runs out, and the corrected error counts in MEMC_CE_CNT. -/
theorem ceCnt_of_timerBesideLoad :
    (ptimerExpire 143 3 2 timerBesideLoad).reg aMemcCeCnt = 1 ∧ timerBesideLoad.reg aMemcCeCnt = 0 := by
  decide

/-- Refutes O17: PTIMER_EXPIRE lets the CCLK pass in which a load behind a buffered store reads its word, and ECC corrects it: MEMC_CE_CNT, a
register of no slot's block, goes from 0 to 1. -/
theorem not_coreRowsLeaveTheRest : ¬ Obligations.CoreRowsLeaveTheRest := by
  unfold Obligations.CoreRowsLeaveTheRest
  intro h
  obtain ⟨hafter, hbefore⟩ := ceCnt_of_timerBesideLoad
  obtain ⟨-, -, -, -, -, -, -, -, -, hreg⟩ := h timerBesideLoad (ptimerExpire 143 3 2 timerBesideLoad) 143 3 0 0 2 [] (.ptimerExpire 143 3 2)
    (by simp) rfl (by decide) rfl
  have hsame := hreg aMemcCeCnt (by decide)
  rw [hafter, hbefore] at hsame
  exact absurd hsame (by decide)
end Sys2Proof.Machine
end

section
/-! The passage of CCLK on a core leaves memory as it is: fetching, timers, and loads that look at the store buffer store nothing
(spec/05_core_pipeline.md, R197 to R215, R241). -/

namespace Sys2Proof.Machine

theorem foldS_mem {α : Type} {f : α → State → State} (hf : ∀ x s, (f x s).mem = s.mem) (l : List α) (s : State) :
    (foldS f l s).mem = s.mem :=
  foldS_induction (P := fun u => u.mem = s.mem) (fun x u h => (hf x u).trans h) l s rfl

@[simp] theorem State.count_mem (s : State) (k a n clk : Nat) : (s.count k a n clk).mem = s.mem := by
  unfold State.count
  split <;> rfl

@[simp] theorem State.onThread_mem (s : State) (k t : Nat) (f : Thread → Thread) : (s.onThread k t f).mem = s.mem := rfl

@[simp] theorem State.request_mem (s : State) (ini : Initiator) (kind : FabKind) (a n : Nat) (data : List Byte) (cst : Nat)
    (mask : Option Nat) : (s.request ini kind a n data cst mask).1.mem = s.mem := rfl

@[simp] theorem State.passCclk_mem (s : State) (k dt : Nat) : (s.passCclk k dt).mem = s.mem := rfl

/-! ## Fetching -/

theorem beginFetch_mem {k : Fin 144} {t : Fin 4} {a clk : Nat} {s u : State} (h : beginFetch k t a clk s = some u) : u.mem = s.mem := by
  have hcount (b : Bool) (n : Nat) : (if b = true then s.count k n 1 clk else s).mem = s.mem := by
    cases b <;> simp
  unfold beginFetch at h
  dsimp only at h
  split at h
  · split at h
    · cases h; exact hcount _ _
    · split at h <;> cases h <;> exact hcount _ _
  · split at h
    · cases h
    · cases h; exact hcount _ _

@[simp] theorem recapture_mem (k t : Nat) (pc : Word) (s : State) : (recapture k t pc s).mem = s.mem := by
  unfold recapture
  dsimp only
  split
  · split <;> rfl
  · rfl

@[simp] theorem captureLb_mem (k t : Nat) (e : FqEnt) (s : State) : (captureLb k t e s).mem = s.mem := by
  unfold captureLb
  dsimp only
  split
  · split <;> simp
  · simp

@[simp] theorem enqueue_mem (k t : Nat) (early : Bool) (e : FqEnt) (s : State) : (enqueue k t early e s).mem = s.mem := by
  unfold enqueue
  dsimp only
  split <;> simp

@[simp] theorem touchCode_mem (k : Nat) (th : Thread) (a : Nat) (s : State) : (touchCode k th a s).mem = s.mem := by
  unfold touchCode
  split <;> rfl

@[simp] theorem fetchOne_mem (k : Fin 144) (t : Fin 4) (pc : Word) (early : Bool) (clk : Nat) (s : State) :
    (fetchOne k t pc early clk s).mem = s.mem := by
  have hbegin (a : Nat) : ((beginFetch k t a clk s).getD s).mem = s.mem := by
    cases h : beginFetch k t a clk s with
    | none => rfl
    | some u => exact beginFetch_mem h
  unfold fetchOne
  dsimp only
  split
  case h_1 =>
    split
    · simp
    · split
      case h_1 => simp
      case h_2 => exact hbegin _
      case h_3 =>
        split
        · split <;> simp
        · simp
        · simp
  all_goals simp

@[simp] theorem lbDeliver_mem (k clk : Nat) (s : State) : (lbDeliver k clk s).mem = s.mem := by
  unfold lbDeliver
  split
  · rfl
  · split
    · split <;> simp
    · rfl

@[simp] theorem joinAhead_mem (k t : Nat) (s : State) : (joinAhead k t s).mem = s.mem := by
  unfold joinAhead
  dsimp only
  split
  · rfl
  · split <;> rfl

@[simp] theorem entryFetch_mem (k : Fin 144) (t : Fin 4) (clk : Nat) (s : State) : (entryFetch k t clk s).mem = s.mem := by
  simp [entryFetch, apply_ite State.mem]

@[simp] theorem portFetch_mem (k : Fin 144) (clk : Nat) (s : State) : (portFetch k clk s).mem = s.mem := by
  unfold portFetch
  split
  · rfl
  · split
    · rfl
    · split <;> simp

@[simp] theorem fetchCclk_mem (k : Fin 144) (clk : Nat) (s : State) : (fetchCclk k clk s).mem = s.mem := by
  simp [fetchCclk, foldS_mem, apply_ite State.mem]

@[simp] theorem fetchRun_mem (k : Fin 144) (n clk : Nat) (s : State) : (fetchRun k n clk s).mem = s.mem := by
  induction n generalizing clk s with
  | zero => rfl
  | succ n ih => simp [fetchRun, ih, apply_ite State.mem]

/-! ## Loads of own local memory and of the fabric -/

@[simp] theorem askPart_mem (k : Fin 144) (t : Fin 4) (cst a n : Nat) (s : State) : (askPart k t cst a n s).1.mem = s.mem := by
  unfold askPart
  split
  · split <;> rfl
  · rfl

@[simp] theorem askParts_mem (k : Fin 144) (t : Fin 4) (cst : Nat) (ps : List (Nat × Nat)) (s : State) :
    (askParts k t cst ps s).1.mem = s.mem := by
  induction ps generalizing s with
  | nil => rfl
  | cons p ps ih => simp [askParts, ih]

@[simp] theorem farLoad_mem (k : Fin 144) (t : Fin 4) (cst clk hit : Nat) (pc fpc : Word) (kind : LdKind) (d a : Nat)
    (st : State × Thread) : (farLoad k t cst clk hit pc fpc kind d a st).1.mem = st.1.mem := by
  unfold farLoad
  dsimp only
  split
  · split <;> simp
  · simp

@[simp] theorem State.countCe_mem (s : State) (bw : Bool) (a : Nat) : (s.countCe bw a).mem = s.mem := by
  simp [State.countCe, apply_ite State.mem]

@[simp] theorem State.ownCes_mem (s : State) (ws : List Nat) : (s.ownCes ws).mem = s.mem :=
  foldS_mem (fun w u => u.countCe_mem false w) ws s

@[simp] theorem State.logUe_mem (s : State) (ini : Initiator) (k : FabKind) (a : Nat) : (s.logUe ini k a).mem = s.mem := by
  simp [State.logUe, apply_ite State.mem]

@[simp] theorem State.ownUes_mem (s : State) (k : Fin 144) (t : Fin 4) (kind : FabKind) (ws : List Nat) :
    (s.ownUes k t kind ws).mem = s.mem :=
  foldS_mem (fun w u => by simp) ws s

@[simp] theorem memLoad_mem (k : Fin 144) (t : Fin 4) (cst clk : Nat) (pc fpc : Word) (m : State) (i : IssueInfo) (kind : LdKind)
    (d a : Nat) (st : State × Thread) : (memLoad k t cst clk pc fpc m i kind d a st).1.mem = st.1.mem := by
  unfold memLoad
  split
  · split <;> simp
  · rfl
  · simp

@[simp] theorem lateLoad_mem (k : Fin 144) (t : Fin 4) (f : FarLoad) (lag : Nat) (s : State) : (lateLoad k t f lag s).mem = s.mem := by
  unfold lateLoad
  dsimp only
  split
  · rfl
  · split <;> simp

@[simp] theorem checkLoad_mem (k : Fin 144) (t : Fin 4) (f : FarLoad) (s : State) : (checkLoad k t f s).mem = s.mem := by
  unfold checkLoad
  dsimp only
  split
  · simp
  · split <;> rfl

@[simp] theorem checkLoads_mem (k clk : Nat) (s : State) : (checkLoads k clk s).mem = s.mem := by
  refine foldS_mem (fun t u => foldS_mem (fun f v => ?_) _ u) _ s
  split
  · simp
  · rfl

/-! ## Time -/

@[simp] theorem advance_mem (k : Fin 144) (dt : Nat) (s : State) : (advance k dt s).mem = s.mem := by
  have htick (clk : Nat) (u : State) : (foldS (fun t s => s.onThread k t (fun th => th.tick dt clk)) (List.range 4) u).mem = u.mem :=
    foldS_mem (fun t v => v.onThread_mem k t _) _ u
  simp [advance, htick, apply_ite State.mem]

@[simp] theorem State.atIssue_mem (k : Fin 144) (t : Fin 4) (i : IssueInfo) (s : State) : (s.atIssue k t i).mem = s.mem := by
  simp [State.atIssue, State.settled]

end Sys2Proof.Machine
end

section
/-! What `State.issues` says of a thread at its turn, and the bundle that then runs: the machine and the context that its operations see
(spec/05_core_pipeline.md, R191, R216 to R219). -/

namespace Sys2Proof.Machine

/-! ## A bundle of one operation -/

theorem assignSlots_length {t2 : Bool} {ops : List RawOp} {busy l : List Nat} (h : assignSlots t2 ops busy = some l) :
    l.length = ops.length := by
  induction ops generalizing busy l with
  | nil => cases h; rfl
  | cons o os ih =>
    unfold assignSlots at h
    split at h
    · obtain ⟨x, hx, rfl⟩ := Option.map_eq_some_iff.mp h
      simp [ih hx]
    · split at h
      · cases h
      · obtain ⟨x, hx, rfl⟩ := Option.map_eq_some_iff.mp h
        simp [ih hx]

/-- What is live in a bundle of one operation: the operation that it decodes to, in a slot, where its condition is true. -/
theorem mem_liveOps_single {t2 : Bool} {th : Thread} {o : RawOp} {busy : List Nat} {e : Nat × RawOp × TOp}
    (h : e ∈ liveOps t2 th [o] busy) : e.2.1 = o ∧ o.dec t2 = .ok e.2.2 ∧ th.cond o = true := by
  simp only [liveOps, List.mem_filterMap] at h
  obtain ⟨⟨o', n⟩, hmem, hop⟩ := h
  obtain rfl : o' = o := List.mem_singleton.mp (List.of_mem_zip hmem).1
  split at hop
  next op hdec =>
    split at hop
    next hc =>
      cases hop
      exact ⟨rfl, hdec, hc⟩
    · cases hop
  · cases hop

/-- A live operation that is alone in its bundle is the one live operation whatever slots are taken, if it finds one. -/
theorem liveOps_single {t2 : Bool} {th : Thread} {o : RawOp} {op : TOp} (hdec : o.dec t2 = .ok op) (hc : th.cond o = true)
    {busy : List Nat} (h : (assignSlots t2 [o] busy).isSome = true) : ∃ n, liveOps t2 th [o] busy = [(n, o, op)] := by
  obtain ⟨l, hl⟩ := Option.isSome_iff_exists.mp h
  obtain ⟨n, rfl⟩ := List.length_eq_one_iff.mp (assignSlots_length hl)
  exact ⟨n, by simp [liveOps, hl, hdec, hc]⟩

theorem branchIn_single {t2 : Bool} {o : RawOp} {op : TOp} (hdec : o.dec t2 = .ok op) :
    branchIn t2 [o] = (match op with | .branch tg call dl => some (tg, call, dl) | _ => none) := by
  cases op <;> simp [branchIn, hdec]

/-! ## The thread at its turn -/

/-- A bundle that `State.look` lets issue heads the queue, and its operations find slots. -/
theorem State.look_eq_go {s : State} {k t : Nat} {busy : List Nat} {clk : Nat} {i : IssueInfo} {raw : List RawOp} {len : Nat} {ret : Word}
    (h : s.look k t busy clk i = .go raw len ret) :
    s.headAt k (s.thread k t) clk = .ok raw len ∧ (assignSlots (s.isT2 k) raw busy).isSome = true ∧
      s.retOf k (s.thread k t) (liveOps (s.isT2 k) (s.thread k t) raw busy) ((s.thread k t).pc + BitVec.ofNat 32 len) = some ret := by
  unfold State.look at h
  dsimp only at h
  iterate 4 replace h := (ite_eq_iff.mp h).resolve_left (fun hc => by cases hc.2) |>.2
  split at h
  case h_7 raw' len' hhead =>
    iterate 4 replace h := (ite_eq_iff.mp h).resolve_left (fun hc => by cases hc.2) |>.2
    obtain ⟨hslots, h⟩ := (ite_eq_iff.mp h).resolve_left (fun hc => by cases hc.2)
    split at h
    case h_3 =>
      replace h := (ite_eq_iff.mp h).resolve_left (fun hc => by cases hc.2) |>.2
      split at h
      case h_4 hret =>
        cases h
        exact ⟨hhead, by simpa [Option.isSome_iff_ne_none] using hslots, hret⟩
      all_goals cases h
    all_goals cases h
  all_goals cases h

/-- A thread of slot k at its turn: its bundle issues, outside every shadow, loop and discard. -/
structure IssueReady (s : State) (k : Fin 144) (t : Fin 4) (i : IssueInfo) (raw : List RawOp) (len : Nat) (busy : List Nat) (ret : Word) :
    Prop where
  head   : s.headAt k (s.thread k t) (s.core k).clk = .ok raw len
  slots  : (assignSlots (s.isT2 k) raw busy).isSome = true
  retOf  : s.retOf k (s.thread k t) (liveOps (s.isT2 k) (s.thread k t) raw busy) ((s.thread k t).pc + BitVec.ofNat 32 len) = some ret
  look   : s.look k t busy (s.core k).clk i = .go raw len ret
  turn   : s.turn k t busy (s.core k).clk = true
  free   : s.busySlots k t (s.core k).clk = some busy
  lead   : s.withLead k t = true
  par    : i.par = .none
  imprec : (s.thread k t).imprecDue (s.core k).clk = none
  drop   : (s.thread k t).drop = []
  delay  : (s.thread k t).delay = none
  shadow : (s.thread k t).shadow = none
  loops  : ∀ n < 3, (s.thread k t).lpCount n = 0

theorem State.issueReady_of_issues {s : State} {k : Fin 144} {t : Fin 4} {i : IssueInfo} {b : List RawOp × Nat}
    (hb : b ∈ s.bundleAt k t i) (h : s.issues k t i = true) :
    s.threadRuns k t = true ∧ ∃ busy ret, IssueReady (s.atIssue k t i) k t i b.1 b.2 busy ret := by
  simp only [State.issues, Bool.and_eq_true, Option.isNone_iff_eq_none, List.isEmpty_iff, decide_eq_true_eq, List.all_eq_true,
    List.mem_range] at h
  obtain ⟨⟨⟨⟨⟨⟨⟨⟨hruns, himprec⟩, hdrop⟩, hpar⟩, hdelay⟩, hshadow⟩, hloops⟩, hlead⟩, hlook⟩ := h
  split at hlook
  next busy hfree =>
    split at hlook
    next raw len ret hgo =>
      obtain ⟨hhead, hslots, hret⟩ := State.look_eq_go hgo
      have hbundle : s.bundleAt k t i = some (raw, len) := by
        unfold State.bundleAt
        dsimp only
        rw [hhead]
      obtain rfl : (raw, len) = b := Option.some_inj.mp (hbundle.symm.trans hb)
      exact ⟨hruns, busy, ret, hhead, hslots, hret, hgo, hlook, hfree, hlead, hpar, himprec, hdrop, hdelay, hshadow, hloops⟩
    · cases hlook
  · cases hlook

/-! ## BUNDLE_ISSUE at a thread's turn -/

/-- The machine that the operations of a bundle of len bytes see: its code has been read, and its return address drawn. -/
def State.codeRead (s : State) (k : Fin 144) (t : Fin 4) (i : IssueInfo) (len : Nat) : State :=
  let pa := ((s.thread k t).fetchPa (s.thread k t).pc).getD 0
  (if s.isOwn k pa then s.ownCes (hitWords i.ce (s.plain pa) len) else s).advFree

/-- What the bundle issues with. -/
def State.issueCtx (s : State) (k : Fin 144) (t : Fin 4) (i : IssueInfo) (len : Nat) (ret : Word) : Ctx :=
  { k := k, t := t, clk := (s.core k).clk, pc := (s.thread k t).pc, next := (s.thread k t).pc + BitVec.ofNat 32 len, ret := ret
    m := s.codeRead k t i len, th := s.thread k t, t2 := s.isT2 k, i := i
    ent := (s.thread k t).fq.headD (FqEnt.of (s.thread k t).pc (s.core k).clk) }

section
variable {s : State} {k : Fin 144} {t : Fin 4} {i : IssueInfo} {raw : List RawOp} {len : Nat} {busy : List Nat} {ret : Word}

theorem IssueReady.tryIssue (h : IssueReady s k t i raw len busy ret)
    (htrap : trapOf (liveOps (s.isT2 k) (s.thread k t) raw busy) = none) :
    tryIssue k t i busy s = some (runBundle (s.issueCtx k t i len ret) raw (liveOps (s.isT2 k) (s.thread k t) raw busy) busy
      (s.codeRead k t i len)) := by
  unfold Machine.tryIssue
  simp only [h.look, h.turn, h.lead, h.par, htrap]
  rfl

theorem IssueReady.workDrop (h : IssueReady s k t i raw len busy ret) : workDrop k t (s.core k).clk i s = none := by
  simp [Machine.workDrop, h.drop]

theorem IssueReady.imprecNow (h : IssueReady s k t i raw len busy ret) : s.imprecNow k (s.thread k t) (s.core k).clk = none := by
  simp [State.imprecNow, h.imprec]

theorem IssueReady.parityHit (h : IssueReady s k t i raw len busy ret) (clk : Nat) : parityHit k t i.par clk s = none := by
  rw [h.par]
  rfl

end

@[simp] theorem State.count_cores (s : State) (k a n clk : Nat) : (s.count k a n clk).cores = s.cores := by
  unfold State.count
  split <;> rfl

theorem State.atIssue_core (s : State) (k : Fin 144) (t : Fin 4) (i : IssueInfo) (j : Nat) :
    (s.atIssue k t i).core j = (advance k i.dt s).core j :=
  congrArg (smGet _ · j) (State.count_cores _ _ _ _ _)

/-- BUNDLE_ISSUE at a thread's turn runs the bundle, unless it is a TRAP; then an imprecise exception may be taken. -/
theorem exec_bundleIssue_of_ready {s : State} {k : Fin 144} {t : Fin 4} {i : IssueInfo} {raw : List RawOp} {len : Nat} {busy : List Nat}
    {ret : Word} (hruns : s.threadRuns k t = true) (h : IssueReady (s.atIssue k t i) k t i raw len busy ret)
    (htrap : trapOf (liveOps ((s.atIssue k t i).isT2 k) ((s.atIssue k t i).thread k t) raw busy) = none) :
    exec (.bundleIssue k t i) s = .next (afterFirst k t i.vec (runBundle ((s.atIssue k t i).issueCtx k t i len ret) raw
      (liveOps ((s.atIssue k t i).isT2 k) ((s.atIssue k t i).thread k t) raw busy) busy ((s.atIssue k t i).codeRead k t i len))) := by
  have hstep : issueStep k t i s = (tryIssue k t i busy (s.atIssue k t i)).map (afterFirst k t i.vec) := by
    unfold issueStep
    rw [if_neg (by simp [hruns])]
    extract_lets s0 clk s1 s2 th
    have hth : th = (s.atIssue k t i).thread k t := rfl
    have hs2 : s2 = s.atIssue k t i := rfl
    have hclk : clk = ((s.atIssue k t i).core k).clk := (congrArg CoreSt.clk (s.atIssue_core k t i k)).symm
    clear_value th s2 clk
    subst hth hs2 hclk
    simp only [h.imprecNow, h.workDrop, h.free, h.parityHit]
  rw [h.tryIssue htrap] at hstep
  exact congrArg Host.Outcome.next (congrArg (·.getD s) hstep)

end Sys2Proof.Machine
end

section
/-! What the issue of a bundle does to its thread beside the effects of the operations: the thread moves on, and only the fetch unit's own
state of it changes otherwise (spec/05_core_pipeline.md, R199 to R208; spec/04_tuitin_operations.md, R172 to R178). -/

namespace Sys2Proof.Machine

/-- A thread without what the fetch unit keeps of it, and without what every issue notes in it: its CCLK, stalls, discards, and the control
registers that its checks still see. -/
def Thread.kept (th : Thread) : Thread :=
  { th with fq := [], fetch := [], fetched := [], ahead := [], half := none, fetFrom := 0, seqx := false, skip := false
            entry := false, lastIss := 0, resume := 0, drop := [], ctlOld := [] }

/-- What does not look at these parts of two threads is the same for both. -/
theorem Thread.congr_kept {α : Type} {a b : Thread} (f : Thread → α) (h : a.kept = b.kept)
    (hf : ∀ th : Thread, f th.kept = f th := by intro; rfl) : f a = f b := by
  rw [← hf a, h, hf b]

theorem Thread.redirect_kept (th : Thread) (clk : Nat) (misp wrong : Bool) (old : Option Word) :
    (th.redirect clk misp wrong old).kept = th.kept := by
  unfold Thread.redirect
  extract_lets from_
  split
  · split <;> rfl
  · split
    · rfl
    · extract_lets r th1
      split <;> rfl

/-! ## The thread after its bundle -/

theorem loopEnd_of_no_level {th : Thread} {pc seq : Word} {ns : List Nat}
    (h : ∀ n ∈ ns, th.lpCount n = 0 ∨ th.creg (0x49 + 3 * n) ≠ pc) : loopEnd th pc seq ns = (th, seq, none, []) := by
  induction ns with
  | nil => rfl
  | cons n ns ih => rw [loopEnd, if_pos (h n List.mem_cons_self), ih (fun m hm => h m (List.mem_cons_of_mem n hm))]

theorem Thread.tgt_of_delay {th : Thread} (h : th.delay = none) : th.tgt = none := by
  rw [Thread.tgt, h]

/-- The loops change control registers alone. -/
theorem loopEnd_frame (th : Thread) (pc seq : Word) (ns : List Nat) : ∃ ctl, (loopEnd th pc seq ns).1 = { th with ctl := ctl } := by
  induction ns generalizing th with
  | nil => exact ⟨th.ctl, rfl⟩
  | cons n ns ih =>
    unfold loopEnd
    dsimp only
    split
    · exact ih th
    · split
      · exact ⟨_, rfl⟩
      · exact (ih (th.setCreg (0x4A + 3 * n) 0)).imp fun _ h => h

theorem afterBundle_imprec {c : Ctx} {fx : Fx} (hdelay : c.th.delay = none) (hjump : fx.jump = none) (s : State) (dl : Bool) :
    (afterBundle c s fx dl).th.imprec = fx.th.imprec := by
  obtain ⟨ctl, hend⟩ := loopEnd_frame { fx.th with seqx := false, skip := false } c.pc c.next [2, 1, 0]
  unfold afterBundle
  dsimp only
  rw [Thread.tgt_of_delay hdelay, hjump]
  cases fx.taken
  · simp only [hend]
  · cases dl <;> rfl

/-- No loop level of a thread ends with the bundle at pc. -/
def Thread.loopsOpen (th : Thread) (pc : Word) : Prop := ∀ n < 3, th.lpCount n = 0 ∨ th.creg (0x49 + 3 * n) ≠ pc

theorem afterBundle_straight {c : Ctx} {fx : Fx} (hdelay : c.th.delay = none) (htaken : fx.taken = none) (hjump : fx.jump = none)
    (hloops : fx.th.loopsOpen c.pc) (s : State) (dl : Bool) :
    ∃ delay, (afterBundle c s fx dl).th.kept = { fx.th with pc := c.next, delay := delay }.kept := by
  have hend : loopEnd { fx.th with seqx := false, skip := false } c.pc c.next [2, 1, 0] =
      ({ fx.th with seqx := false, skip := false }, c.next, none, []) :=
    loopEnd_of_no_level fun n hn => hloops n (by simp at hn; omega)
  refine ⟨if dl then some { target := none } else none, ?_⟩
  unfold afterBundle
  dsimp only
  simp only [Thread.tgt_of_delay hdelay, htaken, hjump, hend]
  rfl

theorem afterBundle_taken {c : Ctx} {fx : Fx} {tg : Word} (hdelay : c.th.delay = none) (htaken : fx.taken = some tg) (s : State)
    (dl : Bool) : (afterBundle c s fx dl).th.kept =
      { fx.th with pc := if dl then c.next else tg, delay := if dl then some { target := some tg } else none }.kept := by
  unfold afterBundle
  dsimp only
  simp only [Thread.tgt_of_delay hdelay, htaken]
  cases dl <;> rfl

theorem stepShadow_none (new : Option Shadow) (th : Thread) : stepShadow none new th = { th with shadow := new } := by
  cases new <;> rfl

/-! ## The machine after the bundle -/

@[simp] theorem State.thread_setCore (s : State) (k : Nat) (c : CoreSt) (j t : Nat) : (s.setCore k c).thread j t = s.thread j t := rfl

/-- A change of a core that leaves its count of CCLK. -/
theorem State.clk_setCore {s : State} {k : Nat} {c : CoreSt} (h : c.clk = (s.core k).clk) (j : Nat) :
    ((s.setCore k c).core j).clk = (s.core j).clk := by
  rw [State.core_setCore]
  split
  next hj => rw [h, hj]
  · rfl

theorem followLb_frame (k t : Nat) (pc : Word) (taken : Option Word) (ended : List Nat) (s : State) :
    (followLb k t pc taken ended s).mem = s.mem ∧ (followLb k t pc taken ended s).threads = s.threads ∧
      ((followLb k t pc taken ended s).core k).clk = (s.core k).clk := by
  unfold followLb
  split
  · exact ⟨rfl, rfl, rfl⟩
  · exact ⟨rfl, rfl, State.clk_setCore (by rfl) k⟩

theorem train_frame (c : Ctx) (m : State) (br : Option (BTarget × Bool × Bool)) (taken : Bool) (s : State) :
    (train c m br taken s).mem = s.mem ∧ ((train c m br taken s).core c.k).clk = (s.core c.k).clk := by
  unfold train
  split
  · split
    · unfold predUpdate
      dsimp only
      split
      · exact ⟨rfl, State.clk_setCore (by rfl) c.k⟩
      · split
        · exact ⟨rfl, State.clk_setCore (by rfl) c.k⟩
        · exact ⟨rfl, rfl⟩
    · exact ⟨rfl, rfl⟩
  · exact ⟨rfl, rfl⟩

@[simp] theorem State.count_core (s : State) (k a n clk j : Nat) : (s.count k a n clk).core j = s.core j :=
  congrArg (smGet _ · j) (s.count_cores k a n clk)

theorem afterIssue_of_no_shadow {c : Ctx} {fx : Fx} (hshadow : c.th.shadow = none) (hovf : fx.ovf = false) (s : State) :
    afterIssue c fx s = s := by
  simp [afterIssue, hshadow, hovf]

@[simp] theorem State.thread_advFree (s : State) (k t : Nat) : s.advFree.thread k t = s.thread k t := rfl

@[simp] theorem State.core_advFree (s : State) (k : Nat) : s.advFree.core k = s.core k := rfl

theorem drawFour_frame (p : Prop) [Decidable p] (s : State) (k t : Nat) :
    (if p then s.advFree.advFree.advFree.advFree else s).mem = s.mem ∧
    ((if p then s.advFree.advFree.advFree.advFree else s).core k).clk = (s.core k).clk ∧
    (if p then s.advFree.advFree.advFree.advFree else s).thread k t = s.thread k t := by
  split <;> simp

/-- The effects of the operations of a bundle, as it issues. -/
def issueFx (c : Ctx) (ops : List (Nat × RawOp × TOp)) (s : State) : Fx := bundleFx c ops (ripen c.k ops s)

/-- Is the branch of a bundle, if it has one, a delayed one? -/
def delayedIn (t2 : Bool) (raw : List RawOp) : Bool := match branchIn t2 raw with | some (_, _, d) => d | none => false

section
variable {c : Ctx} {ops : List (Nat × RawOp × TOp)} {s : State}

/-- A bundle outside every shadow, without an accumulator overflow, leaves memory and the CCLK as its operations do, and its thread as RFE
or the step to the next bundle leaves it. -/
theorem runBundle_eq (hshadow : c.th.shadow = none) (hovf : (issueFx c ops s).ovf = false) (raw : List RawOp) (busy : List Nat) :
    (runBundle c raw ops busy s).mem = (issueFx c ops s).s.mem ∧
    ((runBundle c raw ops busy s).core c.k).clk = ((issueFx c ops s).s.core c.k).clk ∧
    ∃ (th1 : Thread) (dues : List (Bool × Nat)) (lost : Nat → Word),
      th1.kept = (afterBundle c s (issueFx c ops s) (delayedIn c.t2 raw)).th.kept ∧
      (runBundle c raw ops busy s).thread c.k c.t =
        if (issueFx c ops s).rfe then (rfe c.t2 dues lost c.clk { th1 with delay := none }).1
        else { th1 with shadow := (issueFx c ops s).mode } := by
  unfold runBundle
  extract_lets fx br dl misp af s1 s2 s3 wrong after th1 r th2 s4 core s5 s6
  have hfx : issueFx c ops s = fx := rfl
  rw [hfx] at hovf ⊢
  rw [afterIssue_of_no_shadow hshadow hovf]
  obtain ⟨hmem3, hclk3⟩ : s3.mem = fx.s.mem ∧ (s3.core c.k).clk = (fx.s.core c.k).clk := by
    obtain ⟨hmem, hclk⟩ := train_frame c s br fx.taken.isSome fx.s
    simp [s3, s2, s1, hmem, hclk, coreIssued, CoreSt.tookIssue]
  obtain ⟨hmem4, hclk4, hthread4⟩ : s4.mem = s3.mem ∧ (s4.core c.k).clk = (s3.core c.k).clk ∧ s4.thread c.k c.t = th2 :=
    ⟨rfl, rfl, State.thread_setThread _ _ _ _⟩
  clear_value s4
  obtain ⟨hmem5, hclk5, hthread5⟩ : s5.mem = s3.mem ∧ (s5.core c.k).clk = (s3.core c.k).clk ∧ s5.thread c.k c.t = th2 := by
    unfold s5
    split
    · exact ⟨hmem4, (State.clk_setCore (by rfl) _).trans hclk4, hthread4⟩
    · exact ⟨hmem4, hclk4, hthread4⟩
  clear_value s5
  obtain ⟨hmem6, hthreads6, hclk6⟩ : s6.mem = s5.mem ∧ s6.threads = s5.threads ∧ (s6.core c.k).clk = (s5.core c.k).clk :=
    followLb_frame c.k c.t c.pc fx.taken (fx.ended ++ af.ended) s5
  clear_value s6
  have hth1 : th1.kept = af.th.kept := Thread.redirect_kept _ _ _ _ _
  have hth2 : th2 = if fx.rfe then r.1 else { th1 with shadow := fx.mode } := by
    unfold th2
    rw [hshadow, stepShadow_none]
  obtain ⟨hmem, hclk, hthread⟩ := drawFour_frame (fx.rfe = true ∧ c.clk < r.2) s6 c.k c.t
  refine ⟨hmem.trans (hmem6.trans (hmem5.trans hmem3)), hclk.trans (hclk6.trans (hclk5.trans hclk3)), th1, s3.longDues c.k,
    fun j => loW (Config.freeValue (s3.freeCtr + j)), hth1, ?_⟩
  have hthread6 : s6.thread c.k c.t = s5.thread c.k c.t := congrArg (smGet (fun _ => Thread.reset) · (4 * c.k + c.t)) hthreads6
  rw [hthread, hthread6, hthread5, hth2]

end

end Sys2Proof.Machine
end

section
/-! A bundle of one operation at a thread's turn: BUNDLE_ISSUE answers a state whose thread is what the operation left of it, moved on to the
next bundle, to a branch's target, or to where RFE returns (spec/05_core_pipeline.md, R191; spec/04_tuitin_operations.md). -/

namespace Sys2Proof.Machine

/-! ## The effects of one operation -/

/-- What a bundle's operations have done before the first of them. -/
def Ctx.start (c : Ctx) (s : State) : Fx :=
  { s := s, th := { c.th with entry := false, lastIss := c.clk, drop := c.th.drop.map (fun d => (d.1, true)) }, taken := none, ovf := false
    mode := none, rfe := false, jump := none, ended := [], stall := 0, old := [] }

/-- The thread after the last operation of its bundle: the control registers that its checks still see, and the stall of a spill or fill. -/
def Fx.finish (c : Ctx) (fx : Fx) : Fx :=
  { fx with th := { fx.th with ctlOld := fx.old, resume := max fx.th.resume (if fx.stall = 0 then 0 else c.clk + 1 + fx.stall) } }

/-- Is the operation a store? -/
def TOp.isStore : TOp → Bool
  | .store _ _ _ _ => true
  | _ => false

theorem storeOp_of_not_store {op : TOp} (h : op.isStore = false) (c : Ctx) (fx : Fx) : storeOp c op fx = fx := by
  cases op
  case store => cases h
  all_goals rfl

theorem issueFx_single {op : TOp} (h : op.isStore = false) (c : Ctx) (n : Nat) (o : RawOp) (s : State) :
    issueFx c [(n, o, op)] s = (runOp c o.word op (c.start (ripen c.k [(n, o, op)] s))).finish c := by
  unfold issueFx bundleFx
  cases hw : op.movcW <;> simp only [List.filter, List.foldl, hw, storeOp_of_not_store h] <;> rfl

theorem issueFx_store (c : Ctx) (n : Nat) (o : RawOp) (kind : StKind) (d a : Nat) (m : AMode) (s : State) :
    issueFx c [(n, o, .store kind d a m)] s =
      (storeOp c (.store kind d a m) (memOp c (.store kind d a m) (c.start (ripen c.k [(n, o, .store kind d a m)] s)))).finish c := rfl

theorem ripen_frame (k : Nat) (ops : List (Nat × RawOp × TOp)) (s : State) :
    (ripen k ops s).mem = s.mem ∧ (ripen k ops s).cores = s.cores ∧ (ripen k ops s).regs = s.regs := by
  unfold ripen
  dsimp only
  split
  · exact ⟨rfl, rfl, rfl⟩
  · split <;> exact ⟨rfl, rfl, rfl⟩

theorem foldS_cores {α : Type} {f : α → State → State} (hf : ∀ x s, (f x s).cores = s.cores) (l : List α) (s : State) :
    (foldS f l s).cores = s.cores :=
  foldS_induction (P := fun u => u.cores = s.cores) (fun x u h => (hf x u).trans h) l s rfl

@[simp] theorem State.countCe_cores (s : State) (bw : Bool) (a : Nat) : (s.countCe bw a).cores = s.cores := by
  simp [State.countCe, apply_ite State.cores]

@[simp] theorem State.ownCes_cores (s : State) (ws : List Nat) : (s.ownCes ws).cores = s.cores :=
  foldS_cores (fun w u => u.countCe_cores false w) ws s

theorem State.codeRead_cores (s : State) (k : Fin 144) (t : Fin 4) (i : IssueInfo) (len : Nat) :
    (s.codeRead k t i len).cores = s.cores := by
  simp [State.codeRead, apply_ite State.cores]

theorem State.codeRead_mem (s : State) (k : Fin 144) (t : Fin 4) (i : IssueInfo) (len : Nat) : (s.codeRead k t i len).mem = s.mem := by
  simp [State.codeRead, apply_ite State.mem]

/-! ## A single operation issues -/

theorem afterFirst_of_none {k : Fin 144} {t : Fin 4} {s : State} (h : (s.thread k t).imprecDue (s.core k).clk = none) (ecc : List EccHit) :
    afterFirst k t ecc s = s := by
  simp [afterFirst, h]

theorem rfe_imprec (t2 : Bool) (dues : List (Bool × Nat)) (lost : Nat → Word) (clk : Nat) (th : Thread) :
    (rfe t2 dues lost clk th).1.imprec = th.imprec := by
  simp [rfe, Thread.setCreg, Thread.flush, Thread.refetch, Thread.unmark]

/-- The operation op of word o is alone in the bundle of len bytes that thread t of slot k issues, in slot n. -/
structure SingleIssue (s : State) (k : Fin 144) (t : Fin 4) (i : IssueInfo) (o : RawOp) (op : TOp) (len : Nat) (busy : List Nat)
    (ret : Word) (n : Nat) : Prop where
  ready : IssueReady s k t i [o] len busy ret
  dec   : o.dec (s.isT2 k) = .ok op
  live  : liveOps (s.isT2 k) (s.thread k t) [o] busy = [(n, o, op)]

/-- The machine after that bundle. -/
def State.issued (s : State) (k : Fin 144) (t : Fin 4) (i : IssueInfo) (o : RawOp) (op : TOp) (len : Nat) (busy : List Nat) (ret : Word)
    (n : Nat) : State :=
  afterFirst k t i.vec (runBundle (s.issueCtx k t i len ret) [o] [(n, o, op)] busy (s.codeRead k t i len))

/-- A thread that issues a bundle of one operation other than TRAP issues that operation. -/
theorem singleIssue_of_issues {s : State} {k : Fin 144} {t : Fin 4} {i : IssueInfo} {b : List RawOp × Nat} {e : Nat × RawOp × TOp}
    (hb : b ∈ s.bundleAt k t i) (hissues : s.issues k t i = true) (hlen : b.1.length = 1)
    (he : e ∈ (liveOps ((s.atIssue k t i).isT2 k) ((s.atIssue k t i).thread k t) b.1).head?) :
    ∃ busy ret n, SingleIssue (s.atIssue k t i) k t i e.2.1 e.2.2 b.2 busy ret n ∧
      (trapOf [(n, e.2.1, e.2.2)] = none →
        exec (.bundleIssue k t i) s = .next ((s.atIssue k t i).issued k t i e.2.1 e.2.2 b.2 busy ret n)) := by
  obtain ⟨hruns, busy, ret, hready⟩ := State.issueReady_of_issues hb hissues
  obtain ⟨o, ho⟩ := List.length_eq_one_iff.mp hlen
  rw [ho] at he hready
  obtain ⟨rfl, hdec, hcond⟩ := mem_liveOps_single (List.mem_of_mem_head? he)
  obtain ⟨n, hlive⟩ := liveOps_single hdec hcond hready.slots
  refine ⟨busy, ret, n, ⟨hready, hdec, hlive⟩, fun htrap => ?_⟩
  have hexec := exec_bundleIssue_of_ready hruns hready (by rw [hlive]; exact htrap)
  rwa [hlive] at hexec

/-- The effects of the operation. -/
def State.singleFx (s : State) (k : Fin 144) (t : Fin 4) (i : IssueInfo) (o : RawOp) (op : TOp) (len : Nat) (ret : Word) (n : Nat) : Fx :=
  issueFx (s.issueCtx k t i len ret) [(n, o, op)] (s.codeRead k t i len)

/-- The effects of a bundle leave thread th, a mode change, a branch's target and whether it is an RFE,
and call for nothing more: no accumulator has overflowed, no loop body is passed over, and the exceptions that wait are those that waited. -/
structure Fx.Leaves (fx : Fx) (s : State) (k : Fin 144) (t : Fin 4) (th : Thread) (mode : Option Shadow) (taken : Option Word)
    (returns : Bool) : Prop where
  thread : fx.th.kept = th.kept
  mode   : fx.mode = mode
  taken  : fx.taken = taken
  rfe    : fx.rfe = returns
  ovf    : fx.ovf = false
  jump   : fx.jump = none
  imprec : th.imprec = (s.thread k t).imprec
  clk    : (fx.s.core k).clk = (s.core k).clk

section
variable {s : State} {k : Fin 144} {t : Fin 4} {i : IssueInfo} {o : RawOp} {op : TOp} {len : Nat} {busy : List Nat} {ret : Word} {n : Nat}
  {th : Thread} {mode : Option Shadow} {taken : Option Word} {returns : Bool}

theorem SingleIssue.delayedIn (h : SingleIssue s k t i o op len busy ret n) :
    delayedIn (s.isT2 k) [o] = (match op with | .branch _ _ dl => dl | _ => false) := by
  unfold Machine.delayedIn
  rw [branchIn_single h.dec]
  cases op <;> rfl

/-- The bundle leaves memory as its operation does, and its thread as RFE or the step to the next bundle does. -/
theorem SingleIssue.issued_eq (h : SingleIssue s k t i o op len busy ret n)
    (hl : (s.singleFx k t i o op len ret n).Leaves s k t th mode taken returns) :
    (s.issued k t i o op len busy ret n).mem = (s.singleFx k t i o op len ret n).s.mem ∧
    ∃ (th1 : Thread) (dues : List (Bool × Nat)) (lost : Nat → Word),
      th1.kept = (afterBundle (s.issueCtx k t i len ret) (s.codeRead k t i len) (s.singleFx k t i o op len ret n)
        (Machine.delayedIn (s.isT2 k) [o])).th.kept ∧
      (s.issued k t i o op len busy ret n).thread k t =
        if returns then (rfe (s.isT2 k) dues lost (s.core k).clk { th1 with delay := none }).1
        else { th1 with shadow := mode } := by
  obtain ⟨hmem, hclk, th1, dues, lost, hth1, hthread⟩ :=
    runBundle_eq (s := s.codeRead k t i len) (c := s.issueCtx k t i len ret) (ops := [(n, o, op)]) h.ready.shadow hl.ovf [o] busy
  have himprec : th1.imprec = (s.thread k t).imprec :=
    (Thread.congr_kept Thread.imprec hth1).trans
      ((afterBundle_imprec h.ready.delay hl.jump _ _).trans ((Thread.congr_kept Thread.imprec hl.thread).trans hl.imprec))
  unfold State.issued State.singleFx
  generalize runBundle _ [o] [(n, o, op)] busy _ = u at hmem hclk hthread ⊢
  have hth : (u.thread k t).imprec = th1.imprec := by
    have hu : u.thread k t = _ := hthread
    rw [hu]
    cases (issueFx _ [(n, o, op)] _).rfe
    · rfl
    · exact rfe_imprec _ _ _ _ _
  have hnone : (u.thread k t).imprecDue (u.core k).clk = none := by
    rw [Thread.imprecDue, hth, himprec, show (u.core k).clk = (s.core k).clk from hclk.trans hl.clk]
    exact h.ready.imprec
  rw [afterFirst_of_none hnone, ← hl.mode, ← hl.rfe]
  exact ⟨hmem, th1, dues, lost, hth1, hthread⟩

/-- The step in sequence, where no branch is taken and no loop level ends. -/
theorem SingleIssue.next_straight (h : SingleIssue s k t i o op len busy ret n)
    (hl : (s.singleFx k t i o op len ret n).Leaves s k t th mode none returns) (hloops : th.loopsOpen (s.thread k t).pc) :
    ∃ delay, (afterBundle (s.issueCtx k t i len ret) (s.codeRead k t i len) (s.singleFx k t i o op len ret n)
      (Machine.delayedIn (s.isT2 k) [o])).th.kept = { th with pc := (s.thread k t).pc + BitVec.ofNat 32 len, delay := delay }.kept := by
  have hloops' : (s.singleFx k t i o op len ret n).th.loopsOpen (s.thread k t).pc :=
    (Thread.congr_kept (fun th => th.loopsOpen (s.thread k t).pc) hl.thread).mpr hloops
  obtain ⟨delay, hafter⟩ := afterBundle_straight (c := s.issueCtx k t i len ret) h.ready.delay hl.taken hl.jump hloops'
    (s.codeRead k t i len) (Machine.delayedIn (s.isT2 k) [o])
  exact ⟨delay, hafter.trans
    (congrArg (fun th : Thread => { th with pc := (s.thread k t).pc + BitVec.ofNat 32 len, delay := delay }) hl.thread)⟩

/-- An operation that takes no branch, with no loop level that ends, is followed by the next bundle in sequence. -/
theorem SingleIssue.straight (h : SingleIssue s k t i o op len busy ret n)
    (hl : (s.singleFx k t i o op len ret n).Leaves s k t th mode none false)
    (hloops : th.loopsOpen (s.thread k t).pc) :
    (s.issued k t i o op len busy ret n).mem = (s.singleFx k t i o op len ret n).s.mem ∧
    ∃ delay, ((s.issued k t i o op len busy ret n).thread k t).kept =
      { th with pc := (s.thread k t).pc + BitVec.ofNat 32 len, delay := delay, shadow := mode }.kept := by
  obtain ⟨hmem, th1, dues, lost, hth1, hthread⟩ := h.issued_eq hl
  obtain ⟨delay, hafter⟩ := h.next_straight hl hloops
  refine ⟨hmem, delay, ?_⟩
  rw [hthread]
  exact congrArg (fun th : Thread => { th with shadow := mode }) (hth1.trans hafter)

/-- After a branch that is taken the thread is at its target, or at the delay bundle of a delayed one. -/
theorem SingleIssue.branched {tg : BTarget} {call dl : Bool} {dest : Word}
    (h : SingleIssue s k t i o (.branch tg call dl) len busy ret n)
    (hl : (s.singleFx k t i o (.branch tg call dl) len ret n).Leaves s k t th mode (some dest) false) :
    (s.issued k t i o (.branch tg call dl) len busy ret n).mem = (s.singleFx k t i o (.branch tg call dl) len ret n).s.mem ∧
    ((s.issued k t i o (.branch tg call dl) len busy ret n).thread k t).kept =
      { th with pc := if dl then (s.thread k t).pc + BitVec.ofNat 32 len else dest
                delay := if dl then some { target := some dest } else none, shadow := mode }.kept := by
  obtain ⟨hmem, th1, dues, lost, hth1, hthread⟩ := h.issued_eq hl
  rw [h.delayedIn] at hth1
  have hafter := afterBundle_taken (c := s.issueCtx k t i len ret) h.ready.delay hl.taken (s.codeRead k t i len) dl
  have hkept := congrArg (fun th : Thread => { th with
    pc := if dl then (s.thread k t).pc + BitVec.ofNat 32 len else dest
    delay := if dl then some { target := some dest } else none }) hl.thread
  refine ⟨hmem, ?_⟩
  rw [hthread]
  exact congrArg (fun th : Thread => { th with shadow := mode }) (hth1.trans (hafter.trans hkept))

end

end Sys2Proof.Machine
end

section
/-! What a single operation other than a load or a store leaves of the thread that issues it (spec/04_tuitin_operations.md, R165, R172 to R188;
spec/06_exceptions_worlds.md, R249, R271 to R276). -/

namespace Sys2Proof.Machine

/-! ## Registers of a thread after writes -/

@[simp] theorem Thread.creg_setCreg (th : Thread) (n : Nat) (v : Word) (m : Nat) : (th.setCreg n v).creg m = if m = n then v else th.creg m :=
  smGet_smSet _ _ _ _ _

theorem mem_insPend {p q : PendW} {l : List PendW} : q ∈ insPend p l ↔ q = p ∨ q ∈ l := by
  induction l with
  | nil => simp [insPend]
  | cons x xs ih =>
    unfold insPend
    split
    · simp
    · simp only [List.mem_cons, ih]
      tauto

/-- A result in flight, as the statements look for it. -/
theorem any_pend {l : List PendW} {due : Nat} {w : RegW} (h : { due := due, w := w } ∈ l) :
    l.any (fun p => decide (p.due = due) && decide (p.w = w)) = true :=
  List.any_eq_true.mpr ⟨_, h, by simp⟩

theorem bit_eq_fld (v : Word) (i : Nat) : bit v i = decide (fld v i 1 = 1) := by
  simp [bit, fld, BitVec.getLsbD, Nat.testBit]

theorem setFld_toNat_three (w : Word) (x : Nat) : (setFld w 3 1 x).toNat = w.toNat - w.toNat / 8 % 2 * 8 + x % 2 * 8 := by
  have h := w.isLt
  simp only [setFld, fld, BitVec.toNat_ofNat, Nat.shiftRight_eq_div_pow]
  omega

/-- The write of CSTAT.ie leaves world and level (R251). -/
theorem fld_setFld_three (w : Word) (x : Nat) : fld (setFld w 3 1 x) 0 3 = fld w 0 3 := by
  simp only [fld, setFld_toNat_three, Nat.shiftRight_zero]
  omega

theorem bit_setFld_three (w v : Word) : bit (setFld w 3 1 (fld v 3 1)) 3 = bit v 3 := by
  have h : fld (setFld w 3 1 (fld v 3 1)) 3 1 = fld v 3 1 := by
    simp only [fld, setFld_toNat_three, Nat.shiftRight_eq_div_pow]
    omega
  rw [bit_eq_fld, bit_eq_fld, h]

/-! ## CSTAT after RFE -/

theorem rfe_cstat (t2 : Bool) (dues : List (Bool × Nat)) (lost : Nat → Word) (clk : Nat) (th : Thread) :
    (rfe t2 dues lost clk th).1.creg 0x80 = cstatOf (bit (th.sv (setIdx th.land th.level) 1) 2)
      (fld (th.sv (setIdx th.land th.level) 1) 0 2) (bit (th.sv (setIdx th.land th.level) 1) 3) := by
  simp [rfe, Thread.creg, Thread.setCreg]

theorem rfe_pc (t2 : Bool) (dues : List (Bool × Nat)) (lost : Nat → Word) (clk : Nat) (th : Thread) :
    (rfe t2 dues lost clk th).1.pc = th.sv (setIdx th.land th.level) 0 := by
  simp [rfe]

theorem cstatOf_fields (land : Bool) {level : Nat} (h : level < 4) (ie : Bool) :
    fld (cstatOf land level ie) 0 2 = level ∧ bit (cstatOf land level ie) 2 = land ∧ bit (cstatOf land level ie) 3 = ie := by
  interval_cases level <;> cases land <;> cases ie <;> decide

theorem fld_two_lt (v : Word) (lo : Nat) : fld v lo 2 < 4 := Nat.mod_lt _ (by decide)

/-! ## The machine that the operation sees -/

theorem State.clk_of_cores {u s : State} (h : u.cores = s.cores) (k : Nat) : (u.core k).clk = (s.core k).clk :=
  congrArg (fun c => (smGet (fun _ => CoreSt.reset) c k).clk) h

/-- The effects before the operation. -/
def State.startFx (s : State) (k : Fin 144) (t : Fin 4) (i : IssueInfo) (o : RawOp) (op : TOp) (len : Nat) (ret : Word) (n : Nat) : Fx :=
  (s.issueCtx k t i len ret).start (ripen k [(n, o, op)] (s.codeRead k t i len))

section
variable (s : State) (k : Fin 144) (t : Fin 4) (i : IssueInfo) (o : RawOp) (op : TOp) (len : Nat) (ret : Word) (n : Nat)

theorem State.startFx_mem : (s.startFx k t i o op len ret n).s.mem = s.mem :=
  (ripen_frame k [(n, o, op)] _).1.trans (s.codeRead_mem k t i len)

theorem State.startFx_cores : (s.startFx k t i o op len ret n).s.cores = s.cores :=
  (ripen_frame k [(n, o, op)] _).2.1.trans (s.codeRead_cores k t i len)

theorem State.startFx_clk : ((s.startFx k t i o op len ret n).s.core k).clk = (s.core k).clk :=
  State.clk_of_cores (s.startFx_cores k t i o op len ret n) k

theorem State.startFx_leaves : (s.startFx k t i o op len ret n).Leaves s k t (s.thread k t) none none false :=
  ⟨rfl, rfl, rfl, rfl, rfl, rfl, rfl, s.startFx_clk k t i o op len ret n⟩

theorem State.singleFx_eq (h : op.isStore = false) : s.singleFx k t i o op len ret n =
    (runOp (s.issueCtx k t i len ret) o.word op (s.startFx k t i o op len ret n)).finish (s.issueCtx k t i len ret) :=
  issueFx_single h _ _ _ _

end

theorem Fx.Leaves.finish {fx : Fx} {s : State} {k : Fin 144} {t : Fin 4} {th : Thread} {mode : Option Shadow} {taken : Option Word}
    {returns : Bool} (h : fx.Leaves s k t th mode taken returns) (c : Ctx) : (fx.finish c).Leaves s k t th mode taken returns :=
  ⟨h.thread, h.mode, h.taken, h.rfe, h.ovf, h.jump, h.imprec, h.clk⟩

/-! ## Each operation -/

section
variable {s : State} {k : Fin 144} {t : Fin 4} {i : IssueInfo} {o : RawOp} {op : TOp} {len : Nat} {busy : List Nat} {ret : Word} {n : Nat}
  {th : Thread} {mode : Option Shadow} {taken : Option Word} {returns : Bool}

/-- The effects of a bundle are those of its operation. -/
theorem State.singleFx_leaves (hstore : op.isStore = false)
    (hop : ∀ fx : Fx, fx.Leaves s k t (s.thread k t) none none false →
      (runOp (s.issueCtx k t i len ret) o.word op fx).Leaves s k t th mode taken returns) :
    (s.singleFx k t i o op len ret n).Leaves s k t th mode taken returns := by
  rw [s.singleFx_eq k t i o op len ret n hstore]
  exact (hop _ (s.startFx_leaves k t i o op len ret n)).finish _

theorem SingleIssue.loopsOpen (h : SingleIssue s k t i o op len busy ret n) (hctl : th.ctl = (s.thread k t).ctl) (pc : Word) :
    th.loopsOpen pc := by
  intro m hm
  rw [Thread.lpCount, Thread.creg, hctl]
  exact .inl (h.ready.loops m hm)

theorem SingleIssue.waitt {w : Nat} (h : SingleIssue s k t i o (.waitt w) len busy ret n) :
    ((s.issued k t i o (.waitt w) len busy ret n).thread k t).wait = .none ∧
    ((s.issued k t i o (.waitt w) len busy ret n).thread k t).pc = (s.thread k t).pc + BitVec.ofNat 32 len := by
  have hl : (s.singleFx k t i o (.waitt w) len ret n).Leaves s k t { s.thread k t with wait := .none } none none false :=
    State.singleFx_leaves rfl fun fx h => ⟨congrArg (fun th : Thread => { th with wait := .none }) h.thread, h.mode, h.taken, h.rfe, h.ovf,
      h.jump, h.imprec, h.clk⟩
  obtain ⟨-, delay, hth⟩ := h.straight hl (h.loopsOpen rfl _)
  exact ⟨Thread.congr_kept Thread.wait hth, Thread.congr_kept Thread.pc hth⟩

end

end Sys2Proof.Machine
end

section
/-! Waits, barriers, long operations, mode changes and RFE, alone in their bundles (spec/04_tuitin_operations.md, R165, R184 to R188;
spec/06_exceptions_worlds.md, R249, R271 to R276). -/

namespace Sys2Proof.Machine

section
variable {s : State} {k : Fin 144} {t : Fin 4} {i : IssueInfo} {o : RawOp} {len : Nat} {busy : List Nat} {ret : Word} {n : Nat}

theorem SingleIssue.syncw {f : Nat} (h : SingleIssue s k t i o (.syncw f) len busy ret n) :
    ((s.issued k t i o (.syncw f) len busy ret n).thread k t).pwf = false ∧
    ((s.issued k t i o (.syncw f) len busy ret n).thread k t).pc = (s.thread k t).pc + BitVec.ofNat 32 len ∧
    { due := (s.core k).clk + 1, w := .f f (!(s.thread k t).pwf) } ∈ ((s.issued k t i o (.syncw f) len busy ret n).thread k t).pend := by
  have hl : (s.singleFx k t i o (.syncw f) len ret n).Leaves s k t
      { (s.thread k t).push ((s.core k).clk + 1) (.f f (!(s.thread k t).pwf)) with pwf := false } none none false :=
    State.singleFx_leaves rfl fun fx h => ⟨congrArg (fun th : Thread =>
      { th.push ((s.core k).clk + 1) (.f f (!(s.thread k t).pwf)) with pwf := false }) h.thread, h.mode, h.taken, h.rfe, h.ovf,
      h.jump, h.imprec, h.clk⟩
  obtain ⟨-, delay, hth⟩ := h.straight hl (h.loopsOpen rfl _)
  refine ⟨Thread.congr_kept Thread.pwf hth, Thread.congr_kept Thread.pc hth, ?_⟩
  rw [Thread.congr_kept Thread.pend hth]
  exact mem_insPend.mpr (.inl rfl)

theorem SingleIssue.lbar (h : SingleIssue s k t i o .lbar len busy ret n) :
    ((s.issued k t i o .lbar len busy ret n).thread k t).pc = (s.thread k t).pc + BitVec.ofNat 32 len ∧
    ((s.issued k t i o .lbar len busy ret n).thread k t).ctl = (s.thread k t).ctl := by
  obtain ⟨-, delay, hth⟩ := h.straight (State.singleFx_leaves rfl fun _ h => h) (h.loopsOpen rfl _)
  exact ⟨Thread.congr_kept Thread.pc hth, (Thread.congr_kept Thread.ctl hth).trans rfl⟩

theorem SingleIssue.gate {g : Nat} (h : SingleIssue s k t i o (.gate g) len busy ret n) :
    ((s.issued k t i o (.gate g) len busy ret n).thread k t).pc = (s.thread k t).pc + BitVec.ofNat 32 len ∧
    ((s.issued k t i o (.gate g) len busy ret n).thread k t).shadow = some { cstat := 5, gate := some g, last := false } ∧
    ((s.issued k t i o (.gate g) len busy ret n).thread k t).cst = (s.thread k t).cst := by
  have hl : (s.singleFx k t i o (.gate g) len ret n).Leaves s k t (s.thread k t) (some { cstat := 5, gate := some g, last := false })
      none false :=
    State.singleFx_leaves rfl fun fx h => ⟨h.thread, rfl, h.taken, h.rfe, h.ovf, h.jump, h.imprec, h.clk⟩
  obtain ⟨-, delay, hth⟩ := h.straight hl (h.loopsOpen rfl _)
  exact ⟨Thread.congr_kept Thread.pc hth, Thread.congr_kept Thread.shadow hth, (Thread.congr_kept Thread.cst hth).trans rfl⟩

/-- A thread whose CSTAT.ie SETMODE has written. -/
def Thread.setIe (th : Thread) (v : Word) (clk : Nat) (was : Bool) : Thread :=
  { th.setCreg 0x80 (setFld (th.creg 0x80) 3 1 (fld v 3 1)) with ieWas := some (clk, was) }

theorem Thread.creg_setIe (th : Thread) (v : Word) (clk : Nat) (was : Bool) (m : Nat) :
    (th.setIe v clk was).creg m = if m = 0x80 then setFld (th.creg 0x80) 3 1 (fld v 3 1) else th.creg m :=
  th.creg_setCreg _ _ _

theorem Thread.cst_setIe (th : Thread) (v : Word) (clk : Nat) (was : Bool) : (th.setIe v clk was).cst = th.cst := by
  rw [Thread.cst, Thread.creg_setIe, if_pos rfl, fld_setFld_three, Thread.cst]

theorem Thread.setIe_loopsOpen {th : Thread} (h : ∀ m < 3, th.lpCount m = 0) (v : Word) (clk : Nat) (was : Bool) (pc : Word) :
    (th.setIe v clk was).loopsOpen pc := by
  intro m hm
  rw [Thread.lpCount, Thread.creg_setIe, if_neg (by omega)]
  exact .inl (h m hm)

theorem SingleIssue.setmode {r : Nat} (h : SingleIssue s k t i o (.setmode r) len busy ret n) :
    ((s.issued k t i o (.setmode r) len busy ret n).thread k t).pc = (s.thread k t).pc + BitVec.ofNat 32 len ∧
    ((s.issued k t i o (.setmode r) len busy ret n).thread k t).shadow = some { cstat := (s.thread k t).dr r, gate := none, last := false } ∧
    ((s.issued k t i o (.setmode r) len busy ret n).thread k t).cst = (s.thread k t).cst ∧
    bit (((s.issued k t i o (.setmode r) len busy ret n).thread k t).creg 0x80) 3 = bit ((s.thread k t).dr r) 3 := by
  have hl : (s.singleFx k t i o (.setmode r) len ret n).Leaves s k t
      ((s.thread k t).setIe ((s.thread k t).dr r) (s.core k).clk (s.thread k t).ie)
      (some { cstat := (s.thread k t).dr r, gate := none, last := false }) none false :=
    State.singleFx_leaves rfl fun fx h => ⟨congrArg (fun th : Thread =>
      th.setIe ((s.thread k t).dr r) (s.core k).clk (s.thread k t).ie) h.thread, rfl, h.taken, h.rfe, h.ovf, h.jump, h.imprec, h.clk⟩
  obtain ⟨-, delay, hth⟩ := h.straight hl (Thread.setIe_loopsOpen h.ready.loops _ _ _ _)
  refine ⟨Thread.congr_kept Thread.pc hth, Thread.congr_kept Thread.shadow hth,
    (Thread.congr_kept Thread.cst hth).trans ((s.thread k t).cst_setIe ((s.thread k t).dr r) (s.core k).clk (s.thread k t).ie), ?_⟩
  have hcstat := (Thread.congr_kept (Thread.creg · 0x80) hth).trans
    ((s.thread k t).creg_setIe ((s.thread k t).dr r) (s.core k).clk (s.thread k t).ie 0x80)
  rw [hcstat, if_pos rfl, bit_setFld_three]

theorem SingleIssue.long {fn d a c : Nat} (h : SingleIssue s k t i o (.long fn d a c) len busy ret n) :
    ((s.issued k t i o (.long fn d a c) len busy ret n).thread k t).pc = (s.thread k t).pc + BitVec.ofNat 32 len ∧
    ((s.issued k t i o (.long fn d a c) len busy ret n).thread k t).d = (s.thread k t).d ∧
    ((s.issued k t i o (.long fn d a c) len busy ret n).thread k t).long =
      (s.thread k t).long ++ [longOf (s.thread k t) o.word fn d a c (s.core k).clk (s.thread k t).pc] := by
  have hl : (s.singleFx k t i o (.long fn d a c) len ret n).Leaves s k t { s.thread k t with
      long := (s.thread k t).long ++ [longOf (s.thread k t) o.word fn d a c (s.core k).clk (s.thread k t).pc] } none none false :=
    State.singleFx_leaves rfl fun fx h => ⟨congrArg (fun th : Thread => { th with
      long := th.long ++ [longOf (s.thread k t) o.word fn d a c (s.core k).clk (s.thread k t).pc] }) h.thread, h.mode, h.taken, h.rfe,
      h.ovf, h.jump, h.imprec, h.clk⟩
  obtain ⟨-, delay, hth⟩ := h.straight hl (h.loopsOpen rfl _)
  exact ⟨Thread.congr_kept Thread.pc hth, (Thread.congr_kept Thread.d hth).trans rfl, Thread.congr_kept Thread.long hth⟩

/-- RFE goes on at SVPC with the world, level and ie of SVCSTAT. -/
theorem SingleIssue.rfe (h : SingleIssue s k t i o .rfe len busy ret n) :
    ((s.issued k t i o .rfe len busy ret n).thread k t).pc = (s.thread k t).sv (setIdx (s.thread k t).land (s.thread k t).level) 0 ∧
    ((s.issued k t i o .rfe len busy ret n).thread k t).creg 0x80 =
      cstatOf (bit ((s.thread k t).sv (setIdx (s.thread k t).land (s.thread k t).level) 1) 2)
        (fld ((s.thread k t).sv (setIdx (s.thread k t).land (s.thread k t).level) 1) 0 2)
        (bit ((s.thread k t).sv (setIdx (s.thread k t).land (s.thread k t).level) 1) 3) := by
  have hl : (s.singleFx k t i o .rfe len ret n).Leaves s k t (s.thread k t) none none true :=
    State.singleFx_leaves rfl fun fx h => ⟨h.thread, h.mode, h.taken, rfl, h.ovf, h.jump, h.imprec, h.clk⟩
  obtain ⟨-, th1, dues, lost, hth1, hthread⟩ := h.issued_eq hl
  obtain ⟨delay, hafter⟩ := h.next_straight hl (h.loopsOpen rfl _)
  have hsv (r : Nat) : th1.sv (setIdx th1.land th1.level) r = (s.thread k t).sv (setIdx (s.thread k t).land (s.thread k t).level) r :=
    (Thread.congr_kept (fun th => th.sv (setIdx th.land th.level) r) (hth1.trans hafter)).trans rfl
  rw [hthread, if_pos rfl, rfe_pc, rfe_cstat]
  change th1.sv (setIdx th1.land th1.level) 0 = _ ∧ cstatOf (bit (th1.sv (setIdx th1.land th1.level) 1) 2)
    (fld (th1.sv (setIdx th1.land th1.level) 1) 0 2) (bit (th1.sv (setIdx th1.land th1.level) 1) 3) = _
  rw [hsv, hsv]
  exact ⟨rfl, rfl⟩

end

end Sys2Proof.Machine
end

section
/-! Loops, branches and calls, alone in their bundles (spec/04_tuitin_operations.md, R172 to R178; spec/03_tuitin_model.md, R122, R123). -/

namespace Sys2Proof.Machine

/-- A thread that has set up a loop level. -/
def Thread.setLoop (th : Thread) (lvl : Nat) (start endp count : Word) : Thread :=
  { ((th.setCreg (0x48 + 3 * lvl) start).setCreg (0x49 + 3 * lvl) endp).setCreg (0x4A + 3 * lvl) count with
    fresh := lvl :: th.fresh.filter (fun x => decide (x ≠ lvl)), recap := false }

theorem Thread.creg_setLoop (th : Thread) (lvl : Nat) (start endp count : Word) (m : Nat) :
    (th.setLoop lvl start endp count).creg m =
      if m = 0x4A + 3 * lvl then count else if m = 0x49 + 3 * lvl then endp else if m = 0x48 + 3 * lvl then start else th.creg m := by
  change Thread.creg (Thread.setCreg _ _ _) m = _
  simp only [Thread.creg_setCreg]

/-- A loop level just set up ends with the bundle at its end alone, and the other levels have no iterations. -/
theorem Thread.setLoop_loopsOpen {th : Thread} (h : ∀ m < 3, th.lpCount m = 0) (lvl : Nat) (start : Word) {endp pc : Word} (hend : endp ≠ pc)
    (count : Word) : (th.setLoop lvl start endp count).loopsOpen pc := by
  intro m hm
  by_cases hlvl : m = lvl
  · subst hlvl
    rw [Thread.creg_setLoop, if_neg (by omega), if_pos rfl]
    exact .inr hend
  · rw [Thread.lpCount, Thread.creg_setLoop, if_neg (by omega), if_neg (by omega), if_neg (by omega)]
    exact .inl (h m hm)

theorem setupLoop_of_count_ne_zero {count : Word} (h : count ≠ 0) (c : Ctx) (lvl : Nat) (endp : Word) (fx : Fx) :
    ∃ lb, setupLoop c lvl count endp fx = { fx with
      th := fx.th.setLoop lvl c.next endp count, s := fx.s.setCore c.k { fx.s.core c.k with lb := lb } } := by
  unfold setupLoop
  extract_lets th core nb new_ lb
  rw [if_neg h]
  exact ⟨lb, rfl⟩

theorem ofNat_ne_zero_of_lt {n : Nat} (h0 : 0 < n) (h : n < 2 ^ 32) : BitVec.ofNat 32 n ≠ 0 := by
  rw [Ne, ← BitVec.toNat_inj, BitVec.toNat_ofNat, Nat.mod_eq_of_lt h]
  exact h0.ne'

section
variable {s : State} {k : Fin 144} {t : Fin 4} {i : IssueInfo} {o : RawOp} {len : Nat} {busy : List Nat} {ret : Word} {n : Nat}

theorem SingleIssue.loopI {lvl cnt off : Nat} (h : SingleIssue s k t i o (.loopI lvl cnt off) len busy ret n) (h0 : 0 < cnt)
    (hlt : cnt < 2 ^ 32)
    (hend : (s.thread k t).pc + BitVec.ofNat 32 len + BitVec.ofNat 32 (2 * off) ≠ (s.thread k t).pc) :
    ((s.issued k t i o (.loopI lvl cnt off) len busy ret n).thread k t).pc = (s.thread k t).pc + BitVec.ofNat 32 len ∧
    ((s.issued k t i o (.loopI lvl cnt off) len busy ret n).thread k t).creg (0x48 + 3 * lvl) = (s.thread k t).pc + BitVec.ofNat 32 len ∧
    ((s.issued k t i o (.loopI lvl cnt off) len busy ret n).thread k t).creg (0x49 + 3 * lvl) =
      (s.thread k t).pc + BitVec.ofNat 32 len + BitVec.ofNat 32 (2 * off) ∧
    ((s.issued k t i o (.loopI lvl cnt off) len busy ret n).thread k t).creg (0x4A + 3 * lvl) = BitVec.ofNat 32 cnt := by
  have hl : (s.singleFx k t i o (.loopI lvl cnt off) len ret n).Leaves s k t
      ((s.thread k t).setLoop lvl ((s.thread k t).pc + BitVec.ofNat 32 len)
        ((s.thread k t).pc + BitVec.ofNat 32 len + BitVec.ofNat 32 (2 * off)) (BitVec.ofNat 32 cnt)) none none false := by
    refine State.singleFx_leaves rfl fun fx h => ?_
    obtain ⟨lb, hloop⟩ := setupLoop_of_count_ne_zero (ofNat_ne_zero_of_lt h0 hlt) (s.issueCtx k t i len ret) lvl
      ((s.thread k t).pc + BitVec.ofNat 32 len + BitVec.ofNat 32 (2 * off)) fx
    rw [show runOp (s.issueCtx k t i len ret) o.word (.loopI lvl cnt off) fx = _ from hloop]
    exact ⟨congrArg (fun th : Thread => th.setLoop lvl ((s.thread k t).pc + BitVec.ofNat 32 len)
      ((s.thread k t).pc + BitVec.ofNat 32 len + BitVec.ofNat 32 (2 * off)) (BitVec.ofNat 32 cnt)) h.thread, h.mode, h.taken, h.rfe, h.ovf,
      h.jump, h.imprec, (State.clk_setCore (by rfl) _).trans h.clk⟩
  obtain ⟨-, delay, hth⟩ := h.straight hl (Thread.setLoop_loopsOpen h.ready.loops _ _ hend _)
  have hcreg (m : Nat) := (Thread.congr_kept (Thread.creg · m) hth).trans ((s.thread k t).creg_setLoop lvl
    ((s.thread k t).pc + BitVec.ofNat 32 len) ((s.thread k t).pc + BitVec.ofNat 32 len + BitVec.ofNat 32 (2 * off)) (BitVec.ofNat 32 cnt) m)
  refine ⟨Thread.congr_kept Thread.pc hth, ?_, ?_, ?_⟩
  · rw [hcreg, if_neg (by omega), if_neg (by omega), if_pos rfl]
  · rw [hcreg, if_neg (by omega), if_pos rfl]
  · rw [hcreg, if_pos rfl]

/-! ## Branches -/

theorem branchOp_of_not_link {tg : BTarget} (h : tg ≠ .link) (c : Ctx) (fx : Fx) :
    branchOp c tg false fx = { fx with taken := some (branchTarget c.th c.pc tg) } := by
  cases tg with
  | link => exact absurd rfl h
  | rel off => rfl
  | reg a => rfl

theorem State.singleFx_branch {tg : BTarget} (h : tg ≠ .link) (dl : Bool) :
    (s.singleFx k t i o (.branch tg false dl) len ret n).Leaves s k t (s.thread k t) none
      (some (branchTarget (s.thread k t) (s.thread k t).pc tg)) false :=
  State.singleFx_leaves rfl fun fx hfx => by
    rw [show runOp (s.issueCtx k t i len ret) o.word (.branch tg false dl) fx = _ from branchOp_of_not_link h _ fx]
    exact ⟨hfx.thread, hfx.mode, rfl, hfx.rfe, hfx.ovf, hfx.jump, hfx.imprec, hfx.clk⟩

theorem State.singleFx_branch_mem {tg : BTarget} (h : tg ≠ .link) (dl : Bool) :
    (s.singleFx k t i o (.branch tg false dl) len ret n).s.mem = s.mem := by
  rw [s.singleFx_eq k t i o (.branch tg false dl) len ret n rfl,
    show runOp _ o.word (.branch tg false dl) (s.startFx k t i o (.branch tg false dl) len ret n) = _ from branchOp_of_not_link h _ _]
  exact s.startFx_mem k t i o (.branch tg false dl) len ret n

theorem SingleIssue.branch {tg : BTarget} (h : SingleIssue s k t i o (.branch tg false false) len busy ret n) (htg : tg ≠ .link) :
    ((s.issued k t i o (.branch tg false false) len busy ret n).thread k t).pc = branchTarget (s.thread k t) (s.thread k t).pc tg ∧
    ((s.issued k t i o (.branch tg false false) len busy ret n).thread k t).d = (s.thread k t).d ∧
    (s.issued k t i o (.branch tg false false) len busy ret n).mem = s.mem := by
  obtain ⟨hmem, hth⟩ := h.branched (State.singleFx_branch htg false)
  exact ⟨Thread.congr_kept Thread.pc hth, (Thread.congr_kept Thread.d hth).trans rfl, hmem.trans (State.singleFx_branch_mem htg false)⟩

theorem SingleIssue.delayedBranch {tg : BTarget} (h : SingleIssue s k t i o (.branch tg false true) len busy ret n) (htg : tg ≠ .link) :
    ((s.issued k t i o (.branch tg false true) len busy ret n).thread k t).pc = (s.thread k t).pc + BitVec.ofNat 32 len ∧
    ((s.issued k t i o (.branch tg false true) len busy ret n).thread k t).tgt =
      some (branchTarget (s.thread k t) (s.thread k t).pc tg) := by
  obtain ⟨-, hth⟩ := h.branched (State.singleFx_branch htg true)
  exact ⟨Thread.congr_kept Thread.pc hth, (Thread.congr_kept Thread.tgt hth).trans rfl⟩

/-- A CALL whose return address finds room in the shadow stack of a core outside Legacy T2. -/
theorem branchOp_call {c : Ctx} (ht2 : c.t2 = false) (hss : c.th.ss.length < 64) (tg : BTarget) (fx : Fx) :
    branchOp c tg true fx = { fx with
      th := ({ fx.th with ss := c.ret :: c.th.ss } : Thread).push (c.clk + 1) (.a 15 c.ret), taken := some (branchTarget c.th c.pc tg) } := by
  simp [branchOp, ssEn, ht2, ssPush, hss]

/-- The return address of a CALL without a delay bundle. -/
theorem SingleIssue.ret_eq {tg : BTarget} (h : SingleIssue s k t i o (.branch tg true false) len busy ret n) :
    ret = (s.thread k t).pc + BitVec.ofNat 32 len := by
  have hret := h.ready.retOf
  rw [h.live] at hret
  exact (Option.some_inj.mp hret).symm

theorem SingleIssue.call {tg : BTarget} (h : SingleIssue s k t i o (.branch tg true false) len busy ret n)
    (hss : (s.thread k t).ss.length < 64) (ht2 : s.isT2 k = false) :
    ((s.issued k t i o (.branch tg true false) len busy ret n).thread k t).pc = branchTarget (s.thread k t) (s.thread k t).pc tg ∧
    ((s.issued k t i o (.branch tg true false) len busy ret n).thread k t).ss =
      ((s.thread k t).pc + BitVec.ofNat 32 len) :: (s.thread k t).ss := by
  have hl : (s.singleFx k t i o (.branch tg true false) len ret n).Leaves s k t
      (({ s.thread k t with ss := ret :: (s.thread k t).ss } : Thread).push ((s.core k).clk + 1) (.a 15 ret)) none
      (some (branchTarget (s.thread k t) (s.thread k t).pc tg)) false :=
    State.singleFx_leaves rfl fun fx hfx => by
      rw [show runOp (s.issueCtx k t i len ret) o.word (.branch tg true false) fx = _ from
        branchOp_call (c := s.issueCtx k t i len ret) ht2 hss tg fx]
      exact ⟨congrArg (fun th : Thread => ({ th with ss := ret :: (s.thread k t).ss } : Thread).push ((s.core k).clk + 1) (.a 15 ret))
        hfx.thread, hfx.mode, rfl, hfx.rfe, hfx.ovf, hfx.jump, hfx.imprec, hfx.clk⟩
  obtain ⟨-, hth⟩ := h.branched hl
  refine ⟨Thread.congr_kept Thread.pc hth, (Thread.congr_kept Thread.ss hth).trans ?_⟩
  rw [← h.ret_eq]
  rfl

end

end Sys2Proof.Machine
end

section
/-! MOVC alone in its bundle (spec/04_tuitin_operations.md, R182, R183), and what the machine that an operation sees has of the machine at its
thread's turn: the errors that ECC corrects in code count in registers of memory control alone (spec/07_memory.md, R321). -/

namespace Sys2Proof.Machine

/-! ## The registers that an operation sees -/

theorem foldS_reg {α : Type} {f : α → State → State} {a : Nat} (hf : ∀ x s, (f x s).reg a = s.reg a) (l : List α) (s : State) :
    (foldS f l s).reg a = s.reg a :=
  foldS_induction (P := fun u => u.reg a = s.reg a) (fun x u h => (hf x u).trans h) l s rfl

section
variable {a : Nat} (hcnt : a ≠ aMemcCeCnt) (hstat : a ≠ aMemcStat)
include hcnt hstat

theorem State.countCe_reg (s : State) (bw : Bool) (w : Nat) : (s.countCe bw w).reg a = s.reg a := by
  unfold State.countCe
  extract_lets s1 s2
  have h2 : s2.reg a = s.reg a := by simp [s2, s1, hcnt, hstat]
  split
  · exact h2
  · exact h2

theorem State.ownCes_reg (s : State) (ws : List Nat) : (s.ownCes ws).reg a = s.reg a :=
  foldS_reg (fun w u => u.countCe_reg hcnt hstat false w) ws s

theorem State.codeRead_reg (s : State) (k : Fin 144) (t : Fin 4) (i : IssueInfo) (len : Nat) : (s.codeRead k t i len).reg a = s.reg a := by
  unfold State.codeRead
  extract_lets pa
  change State.reg (if _ then _ else _) a = _
  split
  · exact s.ownCes_reg hcnt hstat _
  · rfl

end

section
variable (s : State) (k : Fin 144) (t : Fin 4) (i : IssueInfo) (len : Nat)

theorem State.codeRead_profile (j : Nat) : (s.codeRead k t i len).profile j = s.profile j := by
  rw [State.profile, State.codeRead_reg (by unfold aCorePipeCfg aMemcCeCnt; omega) (by unfold aCorePipeCfg aMemcStat; omega), State.profile]

theorem State.codeRead_isT2 (j : Nat) : (s.codeRead k t i len).isT2 j = s.isT2 j := by
  rw [State.isT2, s.codeRead_profile, State.isT2]

theorem State.codeRead_isDet (j : Nat) : (s.codeRead k t i len).isDet j = s.isDet j := by
  rw [State.isDet, s.codeRead_profile, State.isDet]

theorem State.codeRead_decodeAddr (a : Nat) : (s.codeRead k t i len).decodeAddr a = s.decodeAddr a := by
  have hid : (s.codeRead k t i len).ownId = s.ownId := by
    rw [State.ownId, State.codeRead_reg (by decide) (by decide), State.ownId]
  rw [State.decodeAddr, hid, State.decodeAddr]

theorem State.codeRead_slotOf {l : Nat} (hl : l < 128) : (s.codeRead k t i len).slotOf l = s.slotOf l := by
  rw [State.slotOf, State.codeRead_reg (by unfold aBwtrSlotmap aMemcCeCnt; omega) (by unfold aBwtrSlotmap aMemcStat; omega), State.slotOf]

theorem State.codeRead_lcoreOf : (s.codeRead k t i len).lcoreOf k = s.lcoreOf k := by
  rw [State.lcoreOf, State.lcoreOf]
  congr 1
  refine List.find?_congr fun j hj => ?_
  rw [s.codeRead_slotOf k t i len (by have := List.mem_range.mp hj; omega)]

/-- The checks of a load or store find after the code is read what they found before. -/
theorem State.codeRead_accessOf (th : Thread) (st : Bool) (sz a : Nat) (m : AMode) :
    (s.codeRead k t i len).accessOf k th st sz a m = s.accessOf k th st sz a m := by
  simp only [State.accessOf, State.isOwn, s.codeRead_isDet, s.codeRead_decodeAddr]
  rfl

theorem State.codeRead_movcRead (th : Thread) (n : Nat) : movcRead (s.codeRead k t i len) k t th n = movcRead s k t th n := by
  unfold movcRead
  rw [s.codeRead_lcoreOf, s.codeRead_isT2]

end

/-! ## MOVC -/

theorem movcReadEffect_frame (n : Nat) (th : Thread) : ∃ priv, movcReadEffect n th = { th with priv := priv } := by
  unfold movcReadEffect
  split
  · exact ⟨_, rfl⟩
  · exact ⟨_, rfl⟩

theorem movcReadEffect_kept (n : Nat) (th : Thread) : (movcReadEffect n th).kept = movcReadEffect n th.kept := by
  unfold movcReadEffect
  split <;> rfl

section
variable {s : State} {k : Fin 144} {t : Fin 4} {i : IssueInfo} {o : RawOp} {len : Nat} {busy : List Nat} {ret : Word} {n : Nat}

/-- A MOVC read has the control register on its way to its register. -/
theorem SingleIssue.movcRead {m r : Nat} (h : SingleIssue s k t i o (.movc 0 m r) len busy ret n) :
    { due := (s.core k).clk + 1, w := .d r (Machine.movcRead s k t (s.thread k t) m) } ∈
      ((s.issued k t i o (.movc 0 m r) len busy ret n).thread k t).pend := by
  obtain ⟨priv, heffect⟩ := movcReadEffect_frame m (s.thread k t)
  have hl : (s.singleFx k t i o (.movc 0 m r) len ret n).Leaves s k t
      ((movcReadEffect m (s.thread k t)).push ((s.core k).clk + 1) (.d r (Machine.movcRead s k t (s.thread k t) m))) none none false := by
    refine State.singleFx_leaves rfl fun fx hfx => ⟨?_, hfx.mode, hfx.taken, hfx.rfe, hfx.ovf, hfx.jump, ?_, hfx.clk⟩
    · have hkept : (movcReadEffect m fx.th).kept = (movcReadEffect m (s.thread k t)).kept := by
        rw [movcReadEffect_kept, hfx.thread, movcReadEffect_kept]
      rw [← s.codeRead_movcRead k t i len]
      exact congrArg (fun th : Thread => th.push ((s.core k).clk + 1)
        (.d r (Machine.movcRead (s.codeRead k t i len) k t (s.thread k t) m))) hkept
    · rw [heffect]
      rfl
  have hctl : ((movcReadEffect m (s.thread k t)).push ((s.core k).clk + 1)
      (.d r (Machine.movcRead s k t (s.thread k t) m))).ctl = (s.thread k t).ctl := by
    rw [heffect]
    rfl
  obtain ⟨-, delay, hth⟩ := h.straight hl (h.loopsOpen hctl _)
  rw [Thread.congr_kept Thread.pend hth]
  exact mem_insPend.mpr (.inl rfl)

/-- A MOVC write of FPCTL, CM0 to CM3 or CRCPOLY changes its writable bits alone. -/
theorem movcOp_user {fn m : Nat} (hfn : fn ≠ 0) (hm : m ∈ [0x10, 0x18, 0x19, 0x1A, 0x1B, 0x1C]) (c : Ctx) (r : Nat) (fx : Fx) :
    movcOp c fn m r fx = { fx with th := fx.th.setCreg m ((c.th.creg m &&& ~~~(movcMask c.t2 m)) |||
      (movcVal fn (c.th.creg m) (c.th.dr r) &&& movcMask c.t2 m)) } := by
  fin_cases hm <;> simp [movcOp, hfn, Machine.movcRead, movcPut, inWindow]

theorem SingleIssue.movcWrite {fn m r : Nat} (h : SingleIssue s k t i o (.movc fn m r) len busy ret n) (hfn : fn ≠ 0)
    (hm : m ∈ [0x10, 0x18, 0x19, 0x1A, 0x1B, 0x1C]) :
    ((s.issued k t i o (.movc fn m r) len busy ret n).thread k t).creg m =
      ((s.thread k t).creg m &&& ~~~(movcMask (s.isT2 k) m)) |||
        (movcVal fn ((s.thread k t).creg m) ((s.thread k t).dr r) &&& movcMask (s.isT2 k) m) := by
  generalize hv : ((s.thread k t).creg m &&& ~~~(movcMask (s.isT2 k) m)) |||
    (movcVal fn ((s.thread k t).creg m) ((s.thread k t).dr r) &&& movcMask (s.isT2 k) m) = v
  have hl : (s.singleFx k t i o (.movc fn m r) len ret n).Leaves s k t ((s.thread k t).setCreg m v) none none false :=
    State.singleFx_leaves rfl fun fx hfx => by
      rw [← hv, show runOp (s.issueCtx k t i len ret) o.word (.movc fn m r) fx = _ from movcOp_user hfn hm _ r fx]
      exact ⟨congrArg (fun th : Thread => th.setCreg m (((s.thread k t).creg m &&& ~~~(movcMask (s.isT2 k) m)) |||
        (movcVal fn ((s.thread k t).creg m) ((s.thread k t).dr r) &&& movcMask (s.isT2 k) m))) hfx.thread, hfx.mode, hfx.taken, hfx.rfe,
        hfx.ovf, hfx.jump, hfx.imprec, hfx.clk⟩
  have hloops : ((s.thread k t).setCreg m v).loopsOpen (s.thread k t).pc := by
    intro j hj
    rw [Thread.lpCount, Thread.creg_setCreg, if_neg (by simp only [List.mem_cons, List.not_mem_nil, or_false] at hm; omega)]
    exact .inl (h.ready.loops j hj)
  obtain ⟨-, delay, hth⟩ := h.straight hl hloops
  exact (Thread.congr_kept (Thread.creg · m) hth).trans (((s.thread k t).creg_setCreg m v m).trans (if_pos rfl))

end

end Sys2Proof.Machine
end

section
/-! Loads and stores of a core's own local memory, alone in their bundles (spec/03_tuitin_model.md, R97; spec/05_core_pipeline.md, R194;
spec/07_memory.md, R315, R321). -/

namespace Sys2Proof.Machine

/-! ## Own local memory -/

/-- n bytes from physical address pa are plainly addressed in region r of slot k's local memory. -/
structure OwnSpan (k pa n : Nat) (r : Region) : Prop where
  region : regionOf pa = some r
  slot   : r.slot? = some k
  lt     : pa < 2 ^ 38
  fits   : pa + n ≤ localBase k + 0x40000

section
variable {k pa n : Nat} {r : Region}

theorem OwnSpan.ownTarget (h : OwnSpan k pa n r) : ownTarget pa = .mem r pa := by
  have hdev : r ≠ .device := by
    rintro rfl
    cases h.slot
  unfold Machine.ownTarget
  simp only [Nat.mod_eq_of_lt h.lt, Nat.div_eq_of_lt h.lt, h.region, if_neg hdev, if_true]

theorem OwnSpan.decodeAddr (h : OwnSpan k pa n r) (s : State) : s.decodeAddr pa = .mem r pa := by
  have hlt : pa < 2 ^ 40 := h.lt.trans (by decide)
  rw [State.decodeAddr, Nat.testBit_lt_two_pow (h.lt.trans (by decide)), if_neg (by decide), Nat.div_eq_of_lt hlt, if_neg (by decide),
    h.ownTarget]

theorem OwnSpan.placeOf (h : OwnSpan k pa n r) (s : State) (st : Bool) : s.placeOf k st pa n = .own (.mem r pa) := by
  unfold State.placeOf
  rw [h.decodeAddr]
  simp only [if_pos h.slot, if_pos h.fits]

end

theorem hitWords_nil (a n : Nat) : hitWords [] a n = [] := rfl

/-! ## Results on their way -/

/-- Results added to a thread are in flight, beside those that were. -/
theorem foldl_push_frame {α : Type} (due : α → Nat) (w : α → RegW) (l : List α) (th : Thread) :
    ∃ pend, l.foldl (fun th x => th.push (due x) (w x)) th = { th with pend := pend } ∧
      (∀ x ∈ l, { due := due x, w := w x } ∈ pend) ∧ ∀ p ∈ th.pend, p ∈ pend := by
  induction l generalizing th with
  | nil => exact ⟨th.pend, rfl, by simp, fun p hp => hp⟩
  | cons x l ih =>
    obtain ⟨pend, hfold, hmem, hold⟩ := ih (th.push (due x) (w x))
    refine ⟨pend, hfold, fun y hy => ?_, fun p hp => hold p (mem_insPend.mpr (.inr hp))⟩
    obtain rfl | hy := List.mem_cons.mp hy
    · exact hold _ (mem_insPend.mpr (.inl rfl))
    · exact hmem y hy

/-- The update of an address register by a load or store. -/
def Thread.baseUpdate (th : Thread) (due a : Nat) (v : Option Word) : Thread :=
  match v with
  | some v => th.push due (.a a v)
  | none => th

theorem Thread.baseUpdate_frame (th : Thread) (due a : Nat) (v : Option Word) :
    ∃ pend, th.baseUpdate due a v = { th with pend := pend } ∧ ∀ p ∈ th.pend, p ∈ pend := by
  cases v with
  | none => exact ⟨th.pend, rfl, fun p hp => hp⟩
  | some v => exact ⟨_, rfl, fun p hp => mem_insPend.mpr (.inr hp)⟩

/-! ## The operations -/

section
variable {c : Ctx} {pa a d : Nat} {r : Region} {m : AMode}

theorem doLoad_own {kind : LdKind} (hspan : OwnSpan c.k pa kind.size r) (hue : c.i.ue = []) (hsbuf : c.th.sbuf = []) (cst : Nat)
    (fpc : Word) (st : State × Thread) :
    doLoad c.k c.t cst c.clk c.pc fpc c.m c.i c.th.sbuf.length kind d pa st =
      (st.1.ownCes (hitWords c.i.ce (c.m.plain pa) kind.size), st.2.loaded (c.clk + 3) kind d (c.m.bytes pa kind.size)) := by
  unfold doLoad memLoad
  rw [hspan.placeOf, hue, hsbuf]
  rfl

theorem advFree_frame (p : Prop) [Decidable p] (s : State) :
    (if p then s.advFree else s).mem = s.mem ∧ (if p then s.advFree else s).cores = s.cores := by
  split <;> exact ⟨rfl, rfl⟩

/-- A load of own local memory without an uncorrectable error has the bytes of memory on their way to its registers. -/
theorem memOp_load {kind : LdKind} (haccess : c.m.accessOf c.k c.th false kind.size a m = .inl pa) (hspan : OwnSpan c.k pa kind.size r)
    (hue : c.i.ue = []) (hsbuf : c.th.sbuf = []) (fx : Fx) :
    ∃ u pend, memOp c (.load kind d a m) fx = { fx with s := u, th := { fx.th with pend := pend } } ∧
      u.mem = fx.s.mem ∧ u.cores = fx.s.cores ∧
      ∀ w ∈ loadWrites kind d (c.m.bytes pa kind.size), { due := c.clk + 3 + kind.extra, w := w } ∈ pend := by
  obtain ⟨pend, hloaded, hmem, -⟩ :=
    foldl_push_frame (fun _ => c.clk + 3 + kind.extra) (fun w => w) (loadWrites kind d (c.m.bytes pa kind.size)) fx.th
  obtain ⟨pend', hbase, hold⟩ := Thread.baseUpdate_frame { fx.th with pend := pend } (c.clk + 1) a
    (eaOf c.th a kind.size m (loW fx.s.free)).2
  obtain ⟨hm, hc⟩ := advFree_frame (m.drawsFree c.th = true) (fx.s.ownCes (hitWords c.i.ce (c.m.plain pa) kind.size))
  refine ⟨_, pend', ?_, hm.trans (State.ownCes_mem _ _), hc.trans (State.ownCes_cores _ _), fun w hw => hold _ (hmem w hw)⟩
  rw [← hbase, ← hloaded]
  unfold memOp
  simp only [TOp.mem?, haccess, doLoad_own hspan hue hsbuf]
  rfl

/-- A store of a bundle updates its address register and sets its flags before it writes. -/
theorem memOp_store {kind : StKind} (haccess : c.m.accessOf c.k c.th true kind.size a m = .inl pa) (fx : Fx) :
    ∃ u pend, memOp c (.store kind d a m) fx = { fx with s := u, th := { fx.th with pend := pend } } ∧
      u.mem = fx.s.mem ∧ u.cores = fx.s.cores := by
  obtain ⟨pend, hflags, -, -⟩ :=
    foldl_push_frame (fun w : Nat × RegW => c.clk + w.1) (fun w => w.2) (fpFlags 4 (storeBytes c.th kind d).2) fx.th
  obtain ⟨pend', hbase, -⟩ := Thread.baseUpdate_frame { fx.th with pend := pend } (c.clk + 1) a
    (eaOf c.th a kind.size m (loW fx.s.free)).2
  obtain ⟨hm, hc⟩ := advFree_frame (m.drawsFree c.th = true) fx.s
  refine ⟨_, pend', ?_, hm, hc⟩
  rw [← hbase, ← hflags]
  unfold memOp
  simp only [TOp.mem?, haccess]
  rfl

theorem foldSig_frame (k a : Nat) (bs : List Byte) (s : State) : (foldSig k a bs s).mem = s.mem ∧ (foldSig k a bs s).cores = s.cores := by
  unfold foldSig
  split
  · exact ⟨rfl, rfl⟩
  · split
    · exact ⟨rfl, rfl⟩
    · split <;> exact ⟨rfl, rfl⟩

theorem storeBytes_length (th : Thread) (kind : StKind) (d : Nat) : (storeBytes th kind d).1.length = kind.size := by
  cases kind <;> rfl

/-- A store to own local memory that meets no uncorrectable error is made at once. -/
theorem memStore_own {k : Fin 144} {bs : List Byte} {i : IssueInfo} (hspan : OwnSpan k pa bs.length r) (hue : i.ue = []) (t : Fin 4)
    (cst clk : Nat) (pc : Word) (st : State × Thread) :
    ∃ u : State, memStore k t cst clk pc i pa bs st = (u.storeAt (.mem r pa) bs, st.2) ∧ u.mem = st.1.mem ∧ u.cores = st.1.cores := by
  unfold memStore
  simp only [hspan.placeOf, hue, hitWords_nil]
  split
  · exact ⟨st.1, rfl, rfl, rfl⟩
  · exact ⟨_, rfl, State.ownCes_mem _ _, State.ownCes_cores _ _⟩

theorem storeOp_own {kind : StKind} (haccess : c.m.accessOf c.k c.th true kind.size a m = .inl pa) (hspan : OwnSpan c.k pa kind.size r)
    (hue : c.i.ue = []) (ht2 : c.t2 = false) (fx : Fx) :
    ∃ u : State, storeOp c (.store kind d a m) fx = { fx with s := u.storeAt (.mem r pa) (storeBytes c.th kind d).1 } ∧
      u.mem = fx.s.mem ∧ u.cores = fx.s.cores := by
  obtain ⟨hsigMem, hsigCores⟩ := foldSig_frame c.k pa (storeBytes c.th kind d).1 fx.s
  rw [← storeBytes_length c.th kind d] at hspan
  obtain ⟨u, hstore, hmem, hcores⟩ := memStore_own hspan hue c.t c.th.cst c.clk c.pc (foldSig c.k pa (storeBytes c.th kind d).1 fx.s, fx.th)
  refine ⟨u, ?_, hmem.trans hsigMem, hcores.trans hsigCores⟩
  unfold storeOp doStore
  simp only [TOp.mem?, haccess, ht2, Bool.false_eq_true, false_and, if_false, hstore]

end

end Sys2Proof.Machine
end

section
/-! A bundle of one operation takes effect: the load and the store, and all the operations together (spec/03_tuitin_model.md, R97;
spec/04_tuitin_operations.md). -/

namespace Sys2Proof.Machine

section
variable {s : State} {k : Fin 144} {t : Fin 4} {i : IssueInfo} {o : RawOp} {len : Nat} {busy : List Nat} {ret : Word} {n : Nat}

/-- Results on their way, and a machine with the same cores, for those of the effects. -/
theorem Fx.Leaves.pend {fx : Fx} (h : fx.Leaves s k t (s.thread k t) none none false) {u : State} (hcores : u.cores = fx.s.cores)
    (pend : List PendW) :
    ({ fx with s := u, th := { fx.th with pend := pend } } : Fx).Leaves s k t { s.thread k t with pend := pend } none none false :=
  ⟨congrArg (fun th : Thread => { th with pend := pend }) h.thread, h.mode, h.taken, h.rfe, h.ovf, h.jump, rfl,
    (State.clk_of_cores hcores k).trans h.clk⟩

theorem SingleIssue.load {kind : LdKind} {d a pa : Nat} {m : AMode} {r : Region} (h : SingleIssue s k t i o (.load kind d a m) len busy ret n)
    (hue : i.ue = []) (hsbuf : (s.thread k t).sbuf = [])
    (haccess : s.accessOf k (s.thread k t) false kind.size a m = .inl pa) (hspan : OwnSpan k pa kind.size r) :
    (s.issued k t i o (.load kind d a m) len busy ret n).mem = s.mem ∧
    ((s.issued k t i o (.load kind d a m) len busy ret n).thread k t).pc = (s.thread k t).pc + BitVec.ofNat 32 len ∧
    ∀ w ∈ loadWrites kind d (s.bytes pa kind.size), { due := (s.core k).clk + 3 + kind.extra, w := w } ∈
      ((s.issued k t i o (.load kind d a m) len busy ret n).thread k t).pend := by
  have hfx := s.startFx_leaves k t i o (.load kind d a m) len ret n
  have hfxMem := s.startFx_mem k t i o (.load kind d a m) len ret n
  have hsingle := s.singleFx_eq k t i o (.load kind d a m) len ret n rfl
  generalize s.startFx k t i o (.load kind d a m) len ret n = fx at hfx hfxMem hsingle
  obtain ⟨u, pend, hop, hmem, hcores, hpend⟩ := memOp_load (c := s.issueCtx k t i len ret) (d := d)
    ((s.codeRead_accessOf k t i len _ _ _ _ _).trans haccess) hspan hue hsbuf fx
  rw [show runOp (s.issueCtx k t i len ret) o.word (.load kind d a m) fx = _ from hop] at hsingle
  have hl : (s.singleFx k t i o (.load kind d a m) len ret n).Leaves s k t { s.thread k t with pend := pend } none none false := by
    rw [hsingle]
    exact (hfx.pend hcores pend).finish (s.issueCtx k t i len ret)
  obtain ⟨hissued, delay, hth⟩ := h.straight hl (h.loopsOpen rfl _)
  refine ⟨?_, Thread.congr_kept Thread.pc hth, fun w hw => ?_⟩
  · rw [hissued, hsingle]
    exact hmem.trans hfxMem
  · rw [Thread.congr_kept Thread.pend hth]
    refine hpend w ?_
    rwa [State.bytes, show (s.issueCtx k t i len ret).m.mem = s.mem from s.codeRead_mem k t i len]

theorem SingleIssue.store {kind : StKind} {d a pa : Nat} {m : AMode} {r : Region}
    (h : SingleIssue s k t i o (.store kind d a m) len busy ret n) (hue : i.ue = []) (ht2 : s.isT2 k = false)
    (haccess : s.accessOf k (s.thread k t) true kind.size a m = .inl pa) (hspan : OwnSpan k pa kind.size r) :
    ((s.issued k t i o (.store kind d a m) len busy ret n).thread k t).pc = (s.thread k t).pc + BitVec.ofNat 32 len ∧
    ∀ x, (s.issued k t i o (.store kind d a m) len busy ret n).byte x =
      if pa ≤ x ∧ x < pa + (storeBytes (s.thread k t) kind d).1.length then (storeBytes (s.thread k t) kind d).1.getD (x - pa) 0
      else s.byte x := by
  have hfx := s.startFx_leaves k t i o (.store kind d a m) len ret n
  have hfxMem := s.startFx_mem k t i o (.store kind d a m) len ret n
  have hsingle : s.singleFx k t i o (.store kind d a m) len ret n =
      (storeOp (s.issueCtx k t i len ret) (.store kind d a m) (memOp (s.issueCtx k t i len ret) (.store kind d a m)
        (s.startFx k t i o (.store kind d a m) len ret n))).finish (s.issueCtx k t i len ret) := issueFx_store _ _ _ _ _ _ _ _
  generalize s.startFx k t i o (.store kind d a m) len ret n = fx at hfx hfxMem hsingle
  have haccess' := (s.codeRead_accessOf k t i len (s.thread k t) true kind.size a m).trans haccess
  obtain ⟨u, pend, hop, hmem, hcores⟩ := memOp_store (c := s.issueCtx k t i len ret) (d := d) haccess' fx
  obtain ⟨u', hstore, hmem', hcores'⟩ := storeOp_own (c := s.issueCtx k t i len ret) (d := d) haccess' hspan hue ht2
    { fx with s := u, th := { fx.th with pend := pend } }
  rw [hop, hstore] at hsingle
  have hl : (s.singleFx k t i o (.store kind d a m) len ret n).Leaves s k t { s.thread k t with pend := pend } none none false := by
    rw [hsingle]
    exact (hfx.pend (u := u'.storeAt (.mem r pa) (storeBytes (s.thread k t) kind d).1) (hcores'.trans hcores) pend).finish
      (s.issueCtx k t i len ret)
  obtain ⟨hissued, delay, hth⟩ := h.straight hl (h.loopsOpen rfl _)
  refine ⟨Thread.congr_kept Thread.pc hth, fun x => ?_⟩
  have hbyte : u'.byte x = s.byte x := congrArg (smGet memDefault · x) (hmem'.trans (hmem.trans hfxMem))
  rw [State.byte, hissued, hsingle, ← hbyte]
  exact State.byte_storeAt_mem u' r pa _ x

end

/-- Settles O14: at its turn the thread issues exactly this operation, and each clause reads off what the operation leaves of the thread and of
memory after the step to the next bundle. -/
theorem singleOperationsTakeEffect : Obligations.SingleOperationsTakeEffect := by
  intro s k t i b hb hissues hlen e he
  obtain ⟨busy, ret, n, h, hexec⟩ := singleIssue_of_issues hb hissues hlen he
  have hmem : (s.atIssue k t i).mem = s.mem := s.atIssue_mem k t i
  generalize s.atIssue k t i = s' at h hexec hmem ⊢
  obtain ⟨m, o, op⟩ := e
  dsimp only at h hexec ⊢
  cases op with
  | load kind d a mode =>
    intro hue hsbuf pa hpa r hr hslot hlt hfits
    obtain ⟨hmem', hpc, hpend⟩ := h.load hue hsbuf (Sum.getLeft?_eq_some_iff.mp hpa) ⟨hr, hslot, hlt, hfits⟩
    refine ⟨_, hexec rfl, hmem'.trans hmem, hpc, List.all_eq_true.mpr fun w hw => List.any_eq_true.mpr ⟨_, hpend w hw, by simp⟩⟩
  | store kind d a mode =>
    intro hue ht2 pa hpa r hr hslot hlt hfits
    obtain ⟨hpc, hbyte⟩ := h.store hue ht2 (Sum.getLeft?_eq_some_iff.mp hpa) ⟨hr, hslot, hlt, hfits⟩
    refine ⟨_, hexec rfl, hpc, fun x => (hbyte x).trans ?_⟩
    rw [show s'.byte x = s.byte x from congrArg (smGet memDefault · x) hmem]
  | branch tg call delayed =>
    cases call <;> cases delayed
    · intro htg
      obtain ⟨hpc, hd, hmem'⟩ := h.branch htg
      exact ⟨_, hexec rfl, hpc, hd, hmem'.trans hmem⟩
    · exact fun htg => ⟨_, hexec rfl, h.delayedBranch htg⟩
    · exact fun hss ht2 => ⟨_, hexec rfl, h.call hss ht2⟩
    · trivial
  | loopI lvl cnt off => exact fun _ h0 hlt hend => ⟨_, hexec rfl, h.loopI h0 hlt hend⟩
  | long fn d a c => exact ⟨_, hexec rfl, h.long⟩
  | movc fn m r =>
    refine ⟨_, hexec rfl, ?_, h.movcWrite⟩
    rintro rfl
    exact any_pend h.movcRead
  | waitt w => exact ⟨_, hexec rfl, h.waitt⟩
  | syncw f =>
    obtain ⟨hpwf, hpc, hpend⟩ := h.syncw
    exact ⟨_, hexec rfl, hpwf, hpc, any_pend hpend⟩
  | lbar => exact ⟨_, hexec rfl, h.lbar⟩
  | gate g => exact ⟨_, hexec rfl, h.gate⟩
  | setmode r => exact ⟨_, hexec rfl, h.setmode⟩
  | rfe =>
    obtain ⟨hpc, hcstat⟩ := h.rfe
    obtain ⟨hlevel, hland, hie⟩ := cstatOf_fields (bit ((s'.thread k t).sv (setIdx (s'.thread k t).land (s'.thread k t).level) 1) 2)
      (fld_two_lt ((s'.thread k t).sv (setIdx (s'.thread k t).land (s'.thread k t).level) 1) 0)
      (bit ((s'.thread k t).sv (setIdx (s'.thread k t).land (s'.thread k t).level) 1) 3)
    refine ⟨_, hexec rfl, hpc, ?_, ?_, ?_⟩
    · rw [Thread.land, hcstat, hland]
    · rw [Thread.level, hcstat, hlevel]
    · rw [Thread.ie, hcstat, hie]
  | _ => trivial

end Sys2Proof.Machine
end

section
/-! What the passage of CCLK does to the threads of a core (spec/05_core_pipeline.md, R197 to R215, R241; spec/09_interrupt_controller.md,
R397): the fetch unit works ahead of a thread, loads that look at the store buffer go on, and its timer counts. -/

namespace Sys2Proof.Machine

/-! ## What time changes -/

/-- A thread without what the passage of CCLK changes of it beside its timer: what the fetch unit holds for it, and what becomes of its loads
that look at the store buffer. -/
def Thread.unclocked (th : Thread) : Thread :=
  { th with fetch := [], fetched := [], fq := [], ahead := [], half := none, recap := false, pend := [], far := [], imprec := [] }

/-- What becomes of a thread as its fetch unit works and its loads look at the store buffer: fetches outstanding stay so, and far loads that
have nothing to look at wait on. -/
structure Thread.PassesTo (a b : Thread) : Prop where
  rest  : b.unclocked = a.unclocked
  fetch : a.fetch <+: b.fetch
  far   : (∀ f ∈ a.far, f.chk = false) → b.far = a.far

@[refl] theorem Thread.PassesTo.refl (th : Thread) : th.PassesTo th := ⟨rfl, List.prefix_rfl, fun _ => rfl⟩

theorem Thread.PassesTo.trans {a b c : Thread} (hab : a.PassesTo b) (hbc : b.PassesTo c) : a.PassesTo c :=
  ⟨hbc.rest.trans hab.rest, hab.fetch.trans hbc.fetch, fun h => (hbc.far (by rwa [hab.far h])).trans (hab.far h)⟩

/-- Every thread passes on, and no store buffer drains. -/
structure State.PassesTo (s u : State) : Prop where
  thread : ∀ j g, (s.thread j g).PassesTo (u.thread j g)
  sbClk  : ∀ j, (u.core j).sbClk = (s.core j).sbClk

@[refl] theorem State.PassesTo.refl (s : State) : s.PassesTo s := ⟨fun _ _ => .refl _, fun _ => rfl⟩

theorem State.PassesTo.trans {s u v : State} (hsu : s.PassesTo u) (huv : u.PassesTo v) : s.PassesTo v :=
  ⟨fun j g => (hsu.thread j g).trans (huv.thread j g), fun j => (huv.sbClk j).trans (hsu.sbClk j)⟩

theorem State.PassesTo.of_eq {s u : State} (hthreads : u.threads = s.threads) (hcores : u.cores = s.cores) : s.PassesTo u :=
  ⟨fun j g => by rw [State.thread, State.thread, hthreads], fun j => by rw [State.core, State.core, hcores]⟩

theorem State.thread_setThread_ite (s : State) (k t : Nat) (th : Thread) (j g : Nat) :
    (s.setThread k t th).thread j g = if 4 * j + g = 4 * k + t then th else s.thread j g :=
  smGet_smSet _ _ _ _ _

/-- A change of a core that is no drain of its store buffers. -/
theorem State.sbClk_setCore {s : State} {k : Nat} {c : CoreSt} (h : c.sbClk = (s.core k).sbClk) (j : Nat) :
    ((s.setCore k c).core j).sbClk = (s.core j).sbClk := by
  rw [State.core_setCore]
  split
  next hj => rw [h, hj]
  · rfl

section
variable {s u : State}

theorem State.PassesTo.setThread {k t : Nat} {th : Thread} (h : s.PassesTo u) (hth : (u.thread k t).PassesTo th) :
    s.PassesTo (u.setThread k t th) := by
  refine h.trans ⟨fun j g => ?_, fun j => rfl⟩
  rw [State.thread_setThread_ite]
  split
  next hidx => rwa [State.thread, hidx]
  · rfl

theorem State.PassesTo.setCore {k : Nat} {c : CoreSt} (h : s.PassesTo u) (hc : c.sbClk = (u.core k).sbClk) : s.PassesTo (u.setCore k c) :=
  h.trans ⟨fun _ _ => .refl _, State.sbClk_setCore hc⟩

end

theorem State.PassesTo.ite {s a b : State} {p : Prop} [Decidable p] (ha : s.PassesTo a) (hb : s.PassesTo b) :
    s.PassesTo (if p then a else b) := by
  split
  · exact ha
  · exact hb

theorem foldS_passesTo {α : Type} {f : α → State → State} (hf : ∀ x (s : State), s.PassesTo (f x s)) (l : List α) (s : State) :
    s.PassesTo (foldS f l s) :=
  foldS_induction (P := fun u => s.PassesTo u) (fun x u h => h.trans (hf x u)) l s (.refl s)

@[simp] theorem State.count_threads (s : State) (k a n clk : Nat) : (s.count k a n clk).threads = s.threads := by
  unfold State.count
  split <;> rfl

/-! ## The fetch unit -/

/-- A new fetch of a thread waits behind those outstanding. -/
theorem Thread.passesTo_fetch (th : Thread) (f : Fetch) : th.PassesTo { th with fetch := th.fetch ++ [f] } :=
  ⟨rfl, List.prefix_append _ _, fun _ => rfl⟩

theorem beginFetch_passesTo {k : Fin 144} {t : Fin 4} {a clk : Nat} {s u : State} (h : beginFetch k t a clk s = some u) : s.PassesTo u := by
  have hset {v : State} {th : Thread} (hthreads : v.threads = s.threads) (hcores : v.cores = s.cores)
      (hth : (s.thread k t).PassesTo th) : s.PassesTo (v.setThread k t th) :=
    .setThread (.of_eq hthreads hcores) (by rwa [State.thread, hthreads])
  have hcount (b : Bool) (n : Nat) {th : Thread} (hth : (s.thread k t).PassesTo th) :
      s.PassesTo ((if b = true then s.count k n 1 clk else s).setThread k t th) :=
    hset (by cases b <;> simp) (by cases b <;> simp) hth
  unfold beginFetch at h
  dsimp only at h
  split at h
  · split at h
    · cases h; exact hcount _ _ (Thread.passesTo_fetch _ _)
    · split at h <;> cases h <;> exact hcount _ _ ⟨rfl, List.prefix_rfl, fun _ => rfl⟩
  · split at h
    · cases h
    · cases h
      refine hset ?_ ?_ (Thread.passesTo_fetch _ _)
      · exact (apply_ite State.threads _ _ _).trans (by simp)
      · exact (apply_ite State.cores _ _ _).trans (by simp)

theorem recapture_passesTo (k t : Nat) (pc : Word) (s : State) : s.PassesTo (recapture k t pc s) := by
  unfold recapture
  dsimp only
  split
  · split
    · exact .setThread (.setCore (.refl s) rfl) ⟨rfl, List.prefix_rfl, fun _ => rfl⟩
    · rfl
  · rfl

theorem captureLb_passesTo (k t : Nat) (e : FqEnt) (s : State) : s.PassesTo (captureLb k t e s) := by
  have hrecap := recapture_passesTo k t e.pc s
  unfold captureLb
  dsimp only
  split
  · split
    · exact .setCore hrecap rfl
    · exact hrecap
  · exact hrecap

theorem enqueue_passesTo (k t : Nat) (early : Bool) (e : FqEnt) (s : State) : s.PassesTo (enqueue k t early e s) := by
  unfold enqueue
  dsimp only
  split
  · exact .setThread (.refl s) ⟨rfl, List.prefix_rfl, fun _ => rfl⟩
  · refine .trans ?_ (captureLb_passesTo k t _ _)
    exact .setThread (.refl s) ⟨rfl, List.prefix_rfl, fun _ => rfl⟩

theorem touchCode_frame (k : Nat) (th : Thread) (a : Nat) (s : State) :
    s.PassesTo (touchCode k th a s) ∧ (touchCode k th a s).threads = s.threads := by
  unfold touchCode
  split
  · exact ⟨.refl s, rfl⟩
  · exact ⟨.setCore (.refl s) rfl, rfl⟩

theorem fetchOne_passesTo (k : Fin 144) (t : Fin 4) (pc : Word) (early : Bool) (clk : Nat) (s : State) :
    s.PassesTo (fetchOne k t pc early clk s) := by
  have hbegin (a : Nat) : s.PassesTo ((beginFetch k t a clk s).getD s) := by
    cases h : beginFetch k t a clk s with
    | none => exact .refl s
    | some u => exact beginFetch_passesTo h
  unfold fetchOne
  extract_lets th ent pre
  split
  case h_1 pa _ =>
    extract_lets e1 a s1 e2
    split
    · exact enqueue_passesTo ..
    · split
      case h_1 => exact enqueue_passesTo ..
      case h_2 => exact hbegin _
      case h_3 =>
        obtain ⟨htouch, hthreads⟩ : s.PassesTo s1 ∧ s1.threads = s.threads := touchCode_frame k th a s
        extract_lets data
        split
        · split
          · refine .setThread htouch ?_
            rw [show s1.thread k t = th from congrArg (smGet _ · (4 * k + t)) hthreads]
            exact ⟨rfl, List.prefix_rfl, fun _ => rfl⟩
          · exact htouch.trans (enqueue_passesTo ..)
        · exact htouch.trans (enqueue_passesTo ..)
        · exact htouch.trans (enqueue_passesTo ..)
  all_goals exact enqueue_passesTo ..

theorem lbDeliver_passesTo (k clk : Nat) (s : State) : s.PassesTo (lbDeliver k clk s) := by
  unfold lbDeliver
  split
  · rfl
  · split
    · split
      · exact enqueue_passesTo ..
      · rfl
    · rfl

theorem joinAhead_passesTo (k t : Nat) (s : State) : s.PassesTo (joinAhead k t s) := by
  unfold joinAhead
  dsimp only
  split
  · rfl
  · split
    · exact .setThread (.refl s) ⟨rfl, List.prefix_rfl, fun _ => rfl⟩
    · rfl

theorem entryFetch_passesTo (k : Fin 144) (t : Fin 4) (clk : Nat) (s : State) : s.PassesTo (entryFetch k t clk s) := by
  unfold entryFetch
  extract_lets th s1
  have h1 : s.PassesTo s1 := fetchOne_passesTo ..
  exact .ite (.ite (h1.trans (fetchOne_passesTo ..)) h1) (.refl s)

theorem portFetch_passesTo (k : Fin 144) (clk : Nat) (s : State) : s.PassesTo (portFetch k clk s) := by
  unfold portFetch
  split
  · rfl
  · split
    · rfl
    · split
      · refine .trans ?_ (fetchOne_passesTo ..)
        exact .setCore (.refl s) rfl
      · rfl

theorem fetchCclk_passesTo (k : Fin 144) (clk : Nat) (s : State) : s.PassesTo (fetchCclk k clk s) := by
  unfold fetchCclk
  extract_lets c s1 s2 s3
  have h1 : s.PassesTo s1 := .ite (.of_eq rfl rfl) (.refl s)
  have h2 : s1.PassesTo s2 := foldS_passesTo (fun t u => entryFetch_passesTo k t clk u) _ _
  have h3 : s2.PassesTo s3 := (lbDeliver_passesTo k clk s2).trans (portFetch_passesTo k clk _)
  exact h1.trans (h2.trans (h3.trans (foldS_passesTo (fun t u => joinAhead_passesTo k t u) _ _)))

theorem fetchRun_passesTo (k : Fin 144) (n clk : Nat) (s : State) : s.PassesTo (fetchRun k n clk s) := by
  induction n generalizing clk s with
  | zero => exact .refl s
  | succ n ih =>
    unfold fetchRun
    extract_lets s1
    have h1 : s.PassesTo s1 := fetchCclk_passesTo k clk s
    clear_value s1
    refine .ite (.ite (h1.trans ?_) h1) (h1.trans (ih _ _))
    exact .of_eq rfl rfl

end Sys2Proof.Machine
end

section
/-! Loads that look at the store buffer as time passes, and all that time does to a thread (spec/05_core_pipeline.md, R229, R241;
spec/09_interrupt_controller.md, R397). -/

namespace Sys2Proof.Machine

/-! ## Loads -/

/-- A thread without its loads and their results. -/
def Thread.unloaded (th : Thread) : Thread := { th with pend := [], far := [], imprec := [] }

/-- What a load changes beside its own thread's loads: no thread, and no drain of a store buffer. -/
structure LoadFrame (a b : State × Thread) : Prop where
  threads : b.1.threads = a.1.threads
  sbClk   : ∀ j, (b.1.core j).sbClk = (a.1.core j).sbClk
  thread  : b.2.unloaded = a.2.unloaded

/-- Results that are pushed for one CCLK join those in flight. -/
theorem foldl_push (due : Nat) (ws : List RegW) (th : Thread) :
    ws.foldl (fun t w => t.push due w) th = { th with pend := ws.foldl (fun p w => insPend { due := due, w := w } p) th.pend } := by
  induction ws generalizing th with
  | nil => rfl
  | cons w ws ih => exact ih _

theorem Thread.loaded_eq (th : Thread) (due : Nat) (kind : LdKind) (d : Nat) (bs : List Byte) :
    th.loaded due kind d bs =
      { th with pend := (loadWrites kind d bs).foldl (fun p w => insPend { due := due + kind.extra, w := w } p) th.pend } :=
  foldl_push _ _ th

theorem Thread.loaded_unloaded (th : Thread) (due : Nat) (kind : LdKind) (d : Nat) (bs : List Byte) :
    (th.loaded due kind d bs).unloaded = th.unloaded := by
  rw [Thread.loaded_eq]
  rfl

theorem foldS_threads {α : Type} {f : α → State → State} (hf : ∀ x s, (f x s).threads = s.threads) (l : List α) (s : State) :
    (foldS f l s).threads = s.threads :=
  foldS_induction (P := fun u => u.threads = s.threads) (fun x u h => (hf x u).trans h) l s rfl

theorem State.countCe_threads (s : State) (bw : Bool) (a : Nat) : (s.countCe bw a).threads = s.threads := by
  simp [State.countCe, apply_ite State.threads]

theorem State.ownCes_threads (s : State) (ws : List Nat) : (s.ownCes ws).threads = s.threads :=
  foldS_threads (fun w u => u.countCe_threads false w) ws s

theorem State.ownUes_frame (s : State) (k : Fin 144) (t : Fin 4) (kind : FabKind) (ws : List Nat) :
    (s.ownUes k t kind ws).threads = s.threads ∧ (s.ownUes k t kind ws).cores = s.cores := by
  refine foldS_induction (P := fun u => u.threads = s.threads ∧ u.cores = s.cores) (fun w u hu => ?_) ws s ⟨rfl, rfl⟩
  obtain ⟨hthreads, hcores⟩ := hu
  unfold State.logUe
  dsimp only
  split
  · exact ⟨hthreads, hcores⟩
  · exact ⟨hthreads, hcores⟩

theorem askPart_frame (k : Fin 144) (t : Fin 4) (cst a n : Nat) (s : State) :
    (askPart k t cst a n s).1.threads = s.threads ∧ (askPart k t cst a n s).1.cores = s.cores := by
  unfold askPart
  split
  · split <;> exact ⟨rfl, rfl⟩
  · exact ⟨rfl, rfl⟩

theorem askParts_frame (k : Fin 144) (t : Fin 4) (cst : Nat) (ps : List (Nat × Nat)) (s : State) :
    (askParts k t cst ps s).1.threads = s.threads ∧ (askParts k t cst ps s).1.cores = s.cores := by
  induction ps generalizing s with
  | nil => exact ⟨rfl, rfl⟩
  | cons p ps ih =>
    obtain ⟨hthreads, hcores⟩ := askPart_frame k t cst p.1 p.2 s
    obtain ⟨hthreads', hcores'⟩ := ih (askPart k t cst p.1 p.2 s).1
    exact ⟨hthreads'.trans hthreads, hcores'.trans hcores⟩

theorem State.sbClk_of_cores {u s : State} (h : u.cores = s.cores) (j : Nat) : (u.core j).sbClk = (s.core j).sbClk := by
  rw [State.core, State.core, h]

theorem farLoad_frame (k : Fin 144) (t : Fin 4) (cst clk hit : Nat) (pc fpc : Word) (kind : LdKind) (d a : Nat) (st : State × Thread) :
    LoadFrame st (farLoad k t cst clk hit pc fpc kind d a st) := by
  unfold farLoad
  extract_lets s th n base lp c r q
  split
  · split
    · exact ⟨rfl, State.sbClk_setCore rfl, Thread.loaded_unloaded _ _ _ _ _⟩
    · obtain ⟨hthreads, hcores⟩ := askParts_frame k t cst lp.2 (s.count k (aCoreDcMiss k) lp.2.length (s.core k).clk)
      exact ⟨hthreads.trans (s.count_threads _ _ _ _), State.sbClk_of_cores (hcores.trans (s.count_cores _ _ _ _)), rfl⟩
  · obtain ⟨hthreads, hcores⟩ := askParts_frame k t cst (farParts a n) s
    exact ⟨hthreads, State.sbClk_of_cores hcores, rfl⟩

theorem memLoad_frame (k : Fin 144) (t : Fin 4) (cst clk : Nat) (pc fpc : Word) (m : State) (i : IssueInfo) (kind : LdKind) (d a : Nat)
    (st : State × Thread) : LoadFrame st (memLoad k t cst clk pc fpc m i kind d a st) := by
  unfold memLoad
  split
  · split
    · exact ⟨State.ownCes_threads _ _, State.sbClk_of_cores (State.ownCes_cores _ _), Thread.loaded_unloaded _ _ _ _ _⟩
    · obtain ⟨hthreads, hcores⟩ := st.1.ownUes_frame k t .load (hitWords i.ue (m.plain a) kind.size)
      exact ⟨hthreads, State.sbClk_of_cores hcores, rfl⟩
  · exact ⟨rfl, fun _ => rfl, rfl⟩
  · exact farLoad_frame ..

/-- What the loads of thread t of slot k change: only what it has of loads, and no drain of a store buffer. -/
structure State.LoadsTo (k : Fin 144) (t : Fin 4) (s u : State) : Prop where
  own    : (u.thread k t).unloaded = (s.thread k t).unloaded
  others : ∀ j g : Nat, 4 * j + g ≠ 4 * k + t → u.thread j g = s.thread j g
  sbClk  : ∀ j, (u.core j).sbClk = (s.core j).sbClk

theorem State.LoadsTo.refl (k : Fin 144) (t : Fin 4) (s : State) : State.LoadsTo k t s s := ⟨rfl, fun _ _ _ => rfl, fun _ => rfl⟩

theorem State.LoadsTo.trans {k : Fin 144} {t : Fin 4} {s u v : State} (hsu : State.LoadsTo k t s u) (huv : State.LoadsTo k t u v) :
    State.LoadsTo k t s v :=
  ⟨huv.own.trans hsu.own, fun j g h => (huv.others j g h).trans (hsu.others j g h), fun j => (huv.sbClk j).trans (hsu.sbClk j)⟩

theorem State.loadsTo_setThread {k : Fin 144} {t : Fin 4} {s u : State} {th : Thread} (hthreads : u.threads = s.threads)
    (hsb : ∀ j, (u.core j).sbClk = (s.core j).sbClk) (hth : th.unloaded = (s.thread k t).unloaded) :
    State.LoadsTo k t s (u.setThread k t th) := by
  refine ⟨?_, fun j g h => ?_, hsb⟩
  · rwa [State.thread_setThread]
  · rw [State.thread_setThread_ite, if_neg h, State.thread, State.thread, hthreads]

theorem lateLoad_loadsTo (k : Fin 144) (t : Fin 4) (f : FarLoad) (lag : Nat) (s : State) : State.LoadsTo k t s (lateLoad k t f lag s) := by
  unfold lateLoad
  extract_lets th need st r
  have hr : LoadFrame st r := by
    unfold r
    split
    · exact farLoad_frame ..
    · exact memLoad_frame ..
  split
  · exact State.loadsTo_setThread rfl (fun _ => rfl) rfl
  · exact State.loadsTo_setThread hr.threads hr.sbClk hr.thread

theorem checkLoad_loadsTo (k : Fin 144) (t : Fin 4) (f : FarLoad) (s : State) : State.LoadsTo k t s (checkLoad k t f s) := by
  unfold checkLoad
  extract_lets th n sb
  split
  · exact lateLoad_loadsTo ..
  · split
    · exact State.loadsTo_setThread rfl (fun _ => rfl) (Thread.loaded_unloaded _ _ _ _ _)
    · exact State.loadsTo_setThread rfl (fun _ => rfl) rfl

theorem checkIf_loadsTo (k : Fin 144) (t : Fin 4) (clk : Nat) (f : FarLoad) (s : State) :
    State.LoadsTo k t s (if f.chk ∧ f.clk + 2 ≤ clk then checkLoad k t f s else s) := by
  split
  · exact checkLoad_loadsTo ..
  · exact .refl k t s

theorem foldS_id {α : Type} {f : α → State → State} {l : List α} (hf : ∀ x ∈ l, ∀ s, f x s = s) (s : State) : foldS f l s = s := by
  induction l with
  | nil => rfl
  | cons x l ih => rw [foldS, hf x List.mem_cons_self, ih fun y hy => hf y (List.mem_cons_of_mem x hy)]

/-- The loads of one thread whose E2 has come look at the store buffer; where none has yet to look, nothing changes. -/
theorem checkThread_passesTo (k : Fin 144) (t : Fin 4) (clk : Nat) (s : State) :
    s.PassesTo (foldS (fun f s => if f.chk ∧ f.clk + 2 ≤ clk then checkLoad k t f s else s) (s.thread k t).far s) := by
  by_cases hchk : ∀ f ∈ (s.thread k t).far, f.chk = false
  · rw [foldS_id fun f hf u => if_neg (by simp [hchk f hf])]
  · obtain ⟨hown, hothers, hsb⟩ := foldS_induction (P := State.LoadsTo k t s)
      (fun f u hu => hu.trans (checkIf_loadsTo k t clk f u)) (s.thread k t).far s (.refl k t s)
    refine ⟨fun j g => ?_, hsb⟩
    by_cases hidx : 4 * j + g = 4 * k + t
    · simp only [State.thread, hidx] at hown hchk ⊢
      have hfetch := (congrArg Thread.fetch hown :)
      exact ⟨(congrArg Thread.unclocked hown :), hfetch ▸ List.prefix_rfl, fun h => absurd h hchk⟩
    · rw [hothers j g hidx]

theorem checkLoads_passesTo (k : Fin 144) (clk : Nat) (s : State) : s.PassesTo (checkLoads k clk s) := by
  refine foldS_passesTo (fun t u => ?_) _ s
  rw [show Fin.ofNat 144 k.val = k from Fin.ofNat_val_eq_self k]
  exact checkThread_passesTo k t clk u

/-! ## Timers -/

theorem Thread.tick_frame (th : Thread) (dt clk : Nat) : ∃ ctl pset, th.tick dt clk = { th with ctl := ctl, pset := pset } := by
  unfold Thread.tick
  extract_lets c r th1
  split
  · split
    · exact ⟨_, _, rfl⟩
    · split <;> exact ⟨_, _, rfl⟩
  · exact ⟨_, _, rfl⟩

/-- A timer that reaches 0 sets PSTAT.tmr and takes its reload value (R397). -/
theorem Thread.tick_expires {th : Thread} {dt clk : Nat} (hon : bit (th.creg 0x102) 0 = true) (h0 : th.creg 0x100 ≠ 0)
    (hdt : (th.creg 0x100).toNat = dt) : bit ((th.tick dt clk).creg 0x103) 0 = true ∧ (th.tick dt clk).creg 0x100 = th.creg 0x101 := by
  have hpos : (th.creg 0x100).toNat ≠ 0 := fun h => h0 (BitVec.eq_of_toNat_eq h)
  have hrun : ptimerRun (th.creg 0x101).toNat 0 = ((th.creg 0x101).toNat, true) := by
    unfold ptimerRun
    split
    next h => rw [h]; rfl
    · simp
  unfold Thread.tick
  extract_lets c r th1
  have hr : r = ((th.creg 0x101).toNat, true) := by rw [← hrun]; simp [r, c, hdt]
  rw [if_pos ⟨hon, hpos⟩, if_neg (by omega), hr, if_pos rfl]
  refine ⟨?_, ?_⟩
  · exact (congrArg (bit · 0) (smGet_smSet _ _ _ _ _)).trans ((congrArg (bit · 0) (if_pos rfl)).trans (bit_or_right (by decide) _))
  · refine (smGet_smSet _ _ _ _ _).trans ((if_neg (by decide)).trans ?_)
    refine (smGet_smSet _ _ _ _ _).trans ((if_pos rfl).trans ?_)
    rw [hr, BitVec.ofNat_toNat, BitVec.setWidth_eq]

/-! ## Time -/

theorem foldS_onThread (k : Nat) (f : Thread → Thread) {l : List Nat} (hl : l.Nodup) (s : State) (t : Nat) :
    (foldS (fun t s => s.onThread k t f) l s).thread k t = if t ∈ l then f (s.thread k t) else s.thread k t := by
  induction l generalizing s with
  | nil => rfl
  | cons x l ih =>
    obtain ⟨hx, hl'⟩ := List.nodup_cons.mp hl
    rw [foldS, ih hl', State.onThread, State.thread_setThread_ite]
    by_cases htx : t = x
    · subst htx
      simp [hx]
    · simp [htx]

theorem State.passesTo_passCclk (s : State) (k dt : Nat) : s.PassesTo (s.passCclk k dt) := by
  refine .trans (u := s.setCore k { s.core k with clk := (s.core k).clk + dt }) (.setCore (.refl s) rfl) ?_
  exact .of_eq rfl rfl

/-- Time passes a thread in three stages: the fetch unit, the timer, and loads that look at the store buffer. -/
theorem advance_thread {dt : Nat} (hdt : dt ≠ 0) (k : Fin 144) (t : Fin 4) (s : State) :
    ∃ th, (s.thread k t).PassesTo th ∧ (th.tick dt ((s.core k).clk + dt)).PassesTo ((advance k dt s).thread k t) := by
  unfold advance
  rw [if_neg hdt]
  extract_lets clk s1 s2 core s3
  have h1 : s.PassesTo s1 := .ite (fetchRun_passesTo k dt clk s) (.refl s)
  refine ⟨s1.thread k t, h1.thread k t, ?_⟩
  have h2 : s2.thread k t = (s1.thread k t).tick dt (clk + dt) :=
    (foldS_onThread k (fun th => th.tick dt (clk + dt)) List.nodup_range (s1.passCclk k dt) t).trans (if_pos (List.mem_range.mpr t.isLt))
  rw [← h2]
  exact (checkLoads_passesTo k (clk + dt) s3).thread k t

theorem advance_sbClk (k : Fin 144) (dt : Nat) (s : State) : ((advance k dt s).core k).sbClk = (s.core k).sbClk := by
  unfold advance
  split
  · rfl
  · extract_lets clk s1 s2 core s3
    have h1 : s.PassesTo s1 := .ite (fetchRun_passesTo k dt clk s) (.refl s)
    have h2 : s2.cores = (s1.passCclk k dt).cores :=
      foldS_cores (f := fun t u => u.onThread k t fun th => th.tick dt (clk + dt)) (fun _ _ => rfl) _ _
    have h3 : s2.PassesTo s3 := .setCore (.refl s2) rfl
    have h4 := h3.trans (checkLoads_passesTo k (clk + dt) s3)
    exact (h4.sbClk k).trans ((State.sbClk_of_cores h2 k).trans ((h1.trans (s1.passesTo_passCclk k dt)).sbClk k))

/-- A thread without what the passage of CCLK may change of it. -/
def Thread.timeless (th : Thread) : Thread := { th.unclocked with ctl := [], pset := none }

theorem Thread.PassesTo.timeless {a b : Thread} (h : a.PassesTo b) : b.timeless = a.timeless :=
  congrArg (fun th : Thread => { th with ctl := [], pset := none }) h.rest

section
variable (k : Fin 144) (t : Fin 4) (dt : Nat) (s : State)

/-- What time leaves of a thread, fetches and loads included. -/
theorem advance_frame : ((advance k dt s).thread k t).timeless = (s.thread k t).timeless ∧
    (s.thread k t).fetch <+: ((advance k dt s).thread k t).fetch ∧
    ((∀ f ∈ (s.thread k t).far, f.chk = false) → ((advance k dt s).thread k t).far = (s.thread k t).far) := by
  by_cases hdt : dt = 0
  · rw [show advance k dt s = s from if_pos hdt]
    exact ⟨rfl, List.prefix_rfl, fun _ => rfl⟩
  · obtain ⟨th, hfetch, hloads⟩ := advance_thread hdt k t s
    obtain ⟨ctl, pset, htick⟩ := th.tick_frame dt ((s.core k).clk + dt)
    rw [htick] at hloads
    refine ⟨hloads.timeless.trans hfetch.timeless, hfetch.fetch.trans hloads.fetch, fun h => ?_⟩
    have hfar := hfetch.far h
    exact (hloads.far fun f hf => h f (hfar ▸ hf)).trans hfar

/-- What does not look at the parts of a thread that time changes is the same after it. -/
theorem advance_congr {α : Type} (f : Thread → α) (hf : ∀ th : Thread, f th.timeless = f th := by intro; rfl) :
    f ((advance k dt s).thread k t) = f (s.thread k t) := by
  rw [← hf, (advance_frame k t dt s).1, hf]

end

end Sys2Proof.Machine
end

section
/-! The rows of a core beside issue (spec/04_tuitin_operations.md, R165, R186, R188; spec/05_core_pipeline.md, R200, R229, R232, R240, R244;
spec/09_interrupt_controller.md, R397): what each does to its thread and its core once the CCLK have passed. -/

namespace Sys2Proof.Machine

/-! ## Long operations and waits -/

theorem retireOp_eq (o : LongOp) (th : Thread) : retireOp o th = { th with
    long := th.long.filter (fun x => decide (x ≠ o)), pend := (o.writes.foldl (fun th w => th.push o.due w) th).pend } := by
  rw [retireOp, foldl_push, foldl_push]

/-- A long operation that is due, and no division by zero, retires. -/
theorem longRetire_due {s : State} {k : Fin 144} {t : Fin 4} {j dt : Nat} {o : LongOp} (hruns : (s.thread k t).running = true)
    (ho : ((advance k dt s).thread k t).long[j]? = some o) (hdue : o.due ≤ ((advance k dt s).core k).clk) (hz : o.byZero = false)
    (ecc : List EccHit) :
    longRetire k t j dt ecc s = (advance k dt s).setThread k t (retireOp o ((advance k dt s).thread k t)) := by
  unfold longRetire
  simp only [advance_congr k t dt s Thread.running, hruns, ho, Nat.not_lt.mpr hdue, hz, Bool.true_eq_false, Bool.false_eq_true, if_false]

/-- The bundle of a released WAITT issues as any bundle does. -/
theorem exec_waittRelease_eq {s : State} {k : Fin 144} {t : Fin 4} {wn wb : Nat}
    (hwait : (s.thread k t).wait = .waitt wn (s.thread k t).pc true wb 0) (i : IssueInfo) :
    exec (.waittRelease k t i) s = exec (.bundleIssue k t i) s := by
  change execWaittRelease k t i s = execBundleIssue k t i s
  unfold execWaittRelease execBundleIssue
  simp only [hwait, if_true]

theorem waitt_passes {s : State} {k : Fin 144} {t : Fin 4} {i : IssueInfo} {wn : Nat} {b : List RawOp × Nat}
    (hb : b ∈ s.bundleAt k t i) (hissues : s.issues k t i = true) (hlen : b.1.length = 1)
    (hlive : (liveOps ((s.atIssue k t i).isT2 k) ((s.atIssue k t i).thread k t) b.1).map (fun e => e.2.2) = [.waitt wn]) :
    ∃ u, exec (.bundleIssue k t i) s = .next u ∧ (u.thread k t).wait = .none ∧
      (u.thread k t).pc = ((s.atIssue k t i).thread k t).pc + BitVec.ofNat 32 b.2 := by
  obtain ⟨e, hops, he⟩ := List.map_eq_singleton_iff.mp hlive
  have h := singleOperationsTakeEffect s k t i b hb hissues hlen e (by rw [hops]; rfl)
  rwa [he] at h

/-! ## Answers of the fabric -/

theorem State.release_frame (s : State) (id : Nat) : (s.release id).threads = s.threads ∧ (s.release id).cores = s.cores := by
  unfold State.release
  split <;> exact ⟨rfl, rfl⟩

@[simp] theorem State.thread_release (s : State) (id j g : Nat) : (s.release id).thread j g = s.thread j g :=
  congrArg (smGet _ · (4 * j + g)) (s.release_frame id).1

@[simp] theorem State.core_release (s : State) (id j : Nat) : (s.release id).core j = s.core j :=
  congrArg (smGet _ · j) (s.release_frame id).2

theorem find?_of_head? {α : Type} {p : α → Bool} {l : List α} {x : α} (hx : l.head? = some x) (hp : p x = true) : l.find? p = some x := by
  obtain ⟨r, rfl⟩ := List.head?_eq_some_iff.mp hx
  exact List.find?_cons_of_pos hp

/-- The machine once fetch f of thread t of slot k has brought its line. -/
def State.fetchDone (s : State) (k : Fin 144) (t : Fin 4) (f : Fetch) (bs : List Byte) : State :=
  let th := s.thread k t
  let u := s.setThread k t { th with
    fetch := th.fetch.filter (fun x => decide (x.id ≠ f.id))
    fetched := if f.live then th.fetched ++ [{ line := f.line, data := bs, bad := none }] else th.fetched }
  if f.inst then u.setCore k { u.core k with icache := installLine { line := f.line, data := bs } (u.core k).icache } else u

theorem fetchArrive_done {s : State} {k : Fin 144} {t : Fin 4} {f : Fetch} {bs : List Byte} (hf : (s.thread k t).fetch.head? = some f)
    (hst : s.reqSt? f.id = some (.done bs)) (dt : Nat) :
    fetchArrive k t f.id dt s = ((advance k dt s).fetchDone k t f bs).release f.id := by
  obtain ⟨-, ⟨new, hnew⟩, -⟩ := advance_frame k t dt s
  have hf' : ((advance k dt s).thread k t).fetch.head? = some f := by
    rw [← hnew, List.head?_append, hf]
    rfl
  unfold fetchArrive State.fetchDone
  rw [find?_of_head? hf (by simp), hst]
  dsimp only
  rw [find?_of_head? hf' (by simp)]
  simp only [Option.isNone_none, Bool.and_true]

theorem State.fetchDone_fetched (s : State) (k : Fin 144) (t : Fin 4) (f : Fetch) (bs : List Byte) :
    ((s.fetchDone k t f bs).thread k t).fetched =
      (s.thread k t).fetched ++ (if f.live then [{ line := f.line, data := bs, bad := none }] else []) := by
  have hthread (u : State) (c : CoreSt) : (if f.inst then u.setCore k c else u).thread k t = u.thread k t := by
    split <;> rfl
  unfold State.fetchDone
  rw [hthread, State.thread_setThread]
  cases f.live <;> simp

theorem State.fetchDone_icache (s : State) (k : Fin 144) (t : Fin 4) (f : Fetch) (bs : List Byte) :
    ((s.fetchDone k t f bs).core k).icache =
      if f.inst then installLine { line := f.line, data := bs } (s.core k).icache else (s.core k).icache := by
  unfold State.fetchDone
  dsimp only
  split
  · rw [State.core_setCore, if_pos rfl]
    rfl
  · rfl

theorem partsWait_single {id a : Nat} : partsWait [{ id := id, addr := a, data := none }] id = true := by
  simp [partsWait]

/-- A load that has all its data and fills no cache line ends, with its results in flight for the next CCLK. -/
theorem finishFar_single {f : FarLoad} (hchk : f.chk = false) (hafter : f.after = 0) (hdata : f.parts.any (fun p => p.data.isNone) = false)
    (hfill : f.fill = false) (k : Fin 144) (t : Fin 4) (clk : Nat) (s : State) :
    finishFar k t clk [f] s = s.setThread k t { (s.thread k t).loaded (clk + 1) f.kind f.dst (partBytes f.parts f.phys f.kind.size) with
      far := (s.thread k t).far.filter (fun x => decide (x ≠ f)), resume := max (s.thread k t).resume (clk + 1), sampleAt := clk + 1 } := by
  simp [finishFar, hchk, hafter, hdata, hfill]

/-- The answer of a far load that stands alone gives it its data. -/
theorem farArrive_alone {s : State} {k : Fin 144} {t : Fin 4} {id dt : Nat} {bs : List Byte} {f : FarLoad}
    (hfar : ((advance k dt s).thread k t).far = [f]) (hwait : partsWait f.parts id = true) (hst : s.reqSt? id = some (.done bs))
    (ecc : List EccHit) :
    farArrive k t id dt ecc s = (finishFar k t ((advance k dt s).core k).clk [{ f with parts := arrived id bs f.parts }]
      ((advance k dt s).setThread k t { (advance k dt s).thread k t with far := [{ f with parts := arrived id bs f.parts }] })).release id := by
  have hfind : ((advance k dt s).thread k t).far.find? (fun f => partsWait f.parts id) = some f :=
    find?_of_head? (by rw [hfar]; rfl) hwait
  unfold farArrive
  dsimp only
  rw [hfind, hst]
  dsimp only
  rw [hfar]
  simp only [List.map_cons, List.map_nil, if_true]

/-- A far load of one block, which stands alone and fills no line, ends with its answer. -/
theorem farArrive_single {s : State} {k : Fin 144} {t : Fin 4} {fid fa : Nat} {bs : List Byte} {f : FarLoad}
    (hfar : (s.thread k t).far = [f]) (hparts : f.parts = [{ id := fid, addr := fa, data := none }]) (hfill : f.fill = false)
    (hchk : f.chk = false) (hafter : f.after = 0) (hst : s.reqSt? fid = some (.done bs)) (dt : Nat) (ecc : List EccHit) :
    ((farArrive k t fid dt ecc s).thread k t).far = [] ∧
    ((farArrive k t fid dt ecc s).thread k t).pend = (((advance k dt s).thread k t).loaded (((advance k dt s).core k).clk + 1) f.kind f.dst
      (partBytes [{ id := fid, addr := fa, data := some bs }] f.phys f.kind.size)).pend ∧
    ((farArrive k t fid dt ecc s).thread k t).resume =
      max ((advance k dt s).thread k t).resume (((advance k dt s).core k).clk + 1) := by
  have hfar' : ((advance k dt s).thread k t).far = [f] :=
    ((advance_frame k t dt s).2.2 (by simp [hfar, hchk])).trans hfar
  have harrived : arrived fid bs f.parts = [{ id := fid, addr := fa, data := some bs }] := by
    simp [arrived, hparts]
  rw [farArrive_alone hfar' (by rw [hparts]; exact partsWait_single) hst, harrived, 
    finishFar_single (f := { f with parts := [{ id := fid, addr := fa, data := some bs }] }) hchk hafter rfl hfill,
    State.thread_release, State.thread_setThread, State.thread_setThread, Thread.loaded_eq, Thread.loaded_eq]
  exact ⟨by simp, rfl, rfl⟩

end Sys2Proof.Machine
end

section
/-! Acknowledgements of posted writes (spec/04_tuitin_operations.md, R188; spec/06_exceptions_worlds.md, R265, R266). -/

namespace Sys2Proof.Machine

theorem logEvent_threads (k : Nat) (e : FaultEvt) (s : State) : (logEvent k e s).threads = s.threads := by
  unfold logEvent
  extract_lets c p n w0 w4 ent s1
  have h1 : s1.threads = s.threads := by
    unfold s1
    split <;> rfl
  split
  · exact h1
  · exact h1

@[simp] theorem thread_postedFaultLog (k addr : Nat) (s : State) (j g : Nat) : (postedFaultLog k addr s).thread j g = s.thread j g := by
  refine congrArg (smGet _ · (4 * j + g)) ?_
  unfold postedFaultLog
  split
  · rfl
  · split
    · rfl
    · exact logEvent_threads _ _ _

/-- What a relation finds of every listed entry and its image, it finds of what is read at a key. -/
theorem smGet_map {α : Type} {R : α → α → Prop} {d : Nat → α} {h : Nat × α → Nat × α} (hkey : ∀ e, (h e).1 = e.1)
    (hR : ∀ e, R e.2 (h e).2) (hd : ∀ n, R (d n) (d n)) (m : SMap α) (n : Nat) : R (smGet d m n) (smGet d (m.map h) n) := by
  induction m with
  | nil => exact hd n
  | cons e m ih =>
    rw [List.map_cons, ← Prod.mk.eta (p := e), ← Prod.mk.eta (p := h (e.1, e.2)), hkey, smGet_cons, smGet_cons]
    split
    · exact hR e
    · exact ih

/-- The end of a spill changes a thread's stalls alone. -/
theorem spillEnds_frame (id : Nat) (s : State) (j g : Nat) :
    ∃ spill resume, (spillEnds id s).thread j g = { s.thread j g with spill := spill, resume := resume } := by
  refine smGet_map (R := fun a b => ∃ spill resume, b = { a with spill := spill, resume := resume }) (fun e => ?_) (fun e => ?_)
    (fun _ => ⟨_, _, rfl⟩) s.threads (4 * j + g)
  · dsimp only
    split <;> rfl
  · dsimp only
    split <;> exact ⟨_, _, rfl⟩

/-- What the fault of a posted write leaves of its thread: the fault record, or SVSTAT.pwf of the set that took it, or a mark that waits. -/
theorem thread_postedFault (k t id : Nat) (s : State) :
    ((postedFault k t id s).thread k t).posted = (s.thread k t).posted ∧
    ((s.thread k t).postIn.filter (fun e => decide (e.id = id)) = [] → ((postedFault k t id s).thread k t).pwf = true) ∧
    ∀ e es, (s.thread k t).postIn.filter (fun e => decide (e.id = id)) = e :: es →
      if es.any (fun x => decide (x.set = e.set)) then ((postedFault k t id s).thread k t).postIn =
        (s.thread k t).postIn.map (fun x => if x.id = id then { x with bad := true } else x)
      else bit (((postedFault k t id s).thread k t).sv e.set 1) 7 = true := by
  generalize hu : (postedFault k t id s).thread k t = u
  rw [postedFault, State.onThread, State.thread_setThread] at hu
  generalize s.thread k t = th at hu ⊢
  dsimp only at hu
  split at hu
  next hnone =>
    subst hu
    exact ⟨rfl, fun _ => rfl, fun e es h => absurd (h.symm.trans hnone) (List.cons_ne_nil e es)⟩
  next e es hsome =>
    refine ⟨?_, fun h => absurd (hsome.symm.trans h) (List.cons_ne_nil e es), fun e' es' h => ?_⟩
    · split at hu <;> exact hu ▸ rfl
    · obtain ⟨rfl, rfl⟩ := List.cons.inj (hsome.symm.trans h)
      split at hu
      next hlater =>
        rw [if_pos hlater, ← hu]
        rfl
      next hlater =>
        rw [if_neg hlater, ← hu]
        refine (congrArg (bit · 7) (smGet_smSet _ _ _ _ _)).trans ?_
        rw [if_pos rfl]
        exact bit_or_right (by decide) _

/-- A thread once posted write id has been answered. -/
def Thread.answered (th : Thread) (id clk : Nat) : Thread :=
  { th with
    posted := th.posted.filter (fun x => decide (x ≠ id))
    postIn := th.postIn.filter (fun e => e.bad || decide (e.id ≠ id))
    lastAck := clk }

theorem thread_spillEnds_answered (k t id clk : Nat) (u : State) :
    ∃ spill resume, (spillEnds id ((u.onThread k t (·.answered id clk)).dropReq id)).thread k t =
      { (u.thread k t).answered id clk with spill := spill, resume := resume } := by
  obtain ⟨spill, resume, h⟩ := spillEnds_frame id ((u.onThread k t (·.answered id clk)).dropReq id) k t
  refine ⟨spill, resume, h.trans ?_⟩
  rw [show ∀ v : State, (v.dropReq id).thread k t = v.thread k t from fun _ => rfl, State.onThread, State.thread_setThread]

/-- The machine as a posted write ends: its fault, where it has one that is no uncorrectable error, is recorded. -/
def State.postedMet (k : Fin 144) (t : Fin 4) (id : Nat) (q : FabReq) (s : State) : State :=
  if q.st = .failed false then postedFaultLog k ((postedFault k t id s).plain q.addr) (postedFault k t id s) else s

theorem postedAck_eq {s : State} {k : Fin 144} {t : Fin 4} {id : Nat} {q : FabReq} (hposted : (s.thread k t).posted.contains id = true)
    (hq : s.req? id = some q) (hst : q.st = .failed false ∨ q.st = .done []) (dt : Nat) :
    postedAck k t id dt s = spillEnds id ((((advance k dt s).postedMet k t id q).onThread k t
      (·.answered id (((advance k dt s).postedMet k t id q).core k).clk)).dropReq id) := by
  unfold postedAck State.postedMet
  rw [hposted, hq]
  rcases hst with hst | hst <;> simp [hst, FabSt.open_, Thread.answered]

section
variable {s : State} {k : Fin 144} {t : Fin 4} {id : Nat} {q : FabReq} (hposted : (s.thread k t).posted.contains id = true)
  (hq : s.req? id = some q)
include hposted hq

theorem thread_postedAck (hst : q.st = .failed false ∨ q.st = .done []) (dt : Nat) :
    ((postedAck k t id dt s).thread k t).posted =
      (((advance k dt s).postedMet k t id q).thread k t).posted.filter (fun x => decide (x ≠ id)) ∧
    ((postedAck k t id dt s).thread k t).postIn =
      (((advance k dt s).postedMet k t id q).thread k t).postIn.filter (fun e => e.bad || decide (e.id ≠ id)) ∧
    ((postedAck k t id dt s).thread k t).lastAck = (((advance k dt s).postedMet k t id q).core k).clk ∧
    ((postedAck k t id dt s).thread k t).pwf = (((advance k dt s).postedMet k t id q).thread k t).pwf ∧
    ((postedAck k t id dt s).thread k t).save = (((advance k dt s).postedMet k t id q).thread k t).save := by
  obtain ⟨spill, resume, hend⟩ := thread_spillEnds_answered k t id (((advance k dt s).postedMet k t id q).core k).clk
    ((advance k dt s).postedMet k t id q)
  rw [postedAck_eq hposted hq hst, hend]
  exact ⟨rfl, rfl, rfl, rfl, rfl⟩

/-- The acknowledgement of a posted write that was made. -/
theorem postedAck_done (hst : q.st = .done []) (dt : Nat) :
    ((postedAck k t id dt s).thread k t).posted = (s.thread k t).posted.filter (fun x => decide (x ≠ id)) ∧
    ((postedAck k t id dt s).thread k t).lastAck = ((advance k dt s).core k).clk ∧
    ((postedAck k t id dt s).thread k t).pwf = (s.thread k t).pwf := by
  obtain ⟨hend, -, hack, hpwf, -⟩ := thread_postedAck hposted hq (.inr hst) dt
  rw [show (advance k dt s).postedMet k t id q = advance k dt s from if_neg (by simp [hst])] at hend hack hpwf
  exact ⟨hend.trans (by rw [advance_congr k t dt s Thread.posted]), hack, hpwf.trans (advance_congr k t dt s Thread.pwf)⟩

/-- The fault of a posted write is recorded where its thread keeps the record, or waits (R188, R265, R266). -/
theorem postedAck_failed (hst : q.st = .failed false) (dt : Nat) :
    ((postedAck k t id dt s).thread k t).posted = (s.thread k t).posted.filter (fun x => decide (x ≠ id)) ∧
    ((s.thread k t).postIn.any (fun e => decide (e.id = id)) = false → ((postedAck k t id dt s).thread k t).pwf = true) ∧
    ∀ e es, (s.thread k t).postIn.filter (fun e => decide (e.id = id)) = e :: es →
      if es.any (fun x => decide (x.set = e.set)) then
        ((postedAck k t id dt s).thread k t).postIn.any (fun x => decide (x.id = id) && x.bad) = true
      else bit (((postedAck k t id dt s).thread k t).sv e.set 1) 7 = true := by
  obtain ⟨hend, hpostIn, -, hpwf, hsave⟩ := thread_postedAck hposted hq (.inl hst) dt
  rw [State.postedMet, if_pos hst, thread_postedFaultLog] at hend hpostIn hpwf hsave
  obtain ⟨hsame, hrecord, hmarked⟩ := thread_postedFault k t id (advance k dt s)
  rw [advance_congr k t dt s Thread.postIn] at hrecord hmarked
  refine ⟨?_, fun hnone => ?_, fun e es hmarks => ?_⟩
  · rw [hend, hsame, advance_congr k t dt s Thread.posted]
  · rw [hpwf]
    exact hrecord (List.filter_eq_nil_iff.mpr (by simpa using hnone))
  · have hmark := hmarked e es hmarks
    split
    next hlater =>
      rw [if_pos hlater] at hmark
      have hmem : e ∈ (s.thread k t).postIn.filter (fun e => decide (e.id = id)) := hmarks ▸ List.mem_cons_self
      obtain ⟨he, hid⟩ := List.mem_filter.mp hmem
      refine List.any_eq_true.mpr ⟨{ e with bad := true }, ?_, by simpa using hid⟩
      rw [hpostIn, hmark]
      exact List.mem_filter.mpr ⟨List.mem_map.mpr ⟨e, he, if_pos (by simpa using hid)⟩, rfl⟩
    next hlater =>
      rw [if_neg hlater] at hmark
      rwa [Thread.sv, hsave]

end

end Sys2Proof.Machine
end

section
/-! The store buffer's drain, invalidation, the counters and the timers of a core (spec/05_core_pipeline.md, R232, R240, R244;
spec/09_interrupt_controller.md, R397), and all the rows beside issue together. -/

namespace Sys2Proof.Machine

/-! ## The store buffer -/

/-- The oldest store-buffer entry, for own local memory, drains where nothing holds it: the machine stores its bytes. -/
theorem sbDrain_own {s : State} {k : Fin 144} {t : Fin 4} {dt : Nat} {e : SbEntry} {es : List SbEntry} {r : Region}
    (hsbuf : ((advance k dt s).thread k t).sbuf = e :: es) (hfar : ((advance k dt s).thread k t).far = []) (hue : e.ue = [])
    (hat : e.at_ < ((advance k dt s).core k).clk)
    (hl1 : ((advance k dt s).core k).l1.contains ((advance k dt s).core k).clk = false)
    (hsb : ((advance k dt s).core k).sbClk ≠ some ((advance k dt s).core k).clk) (hspan : OwnSpan k e.addr e.data.length r) :
    ∃ u : State, sbDrain k t dt s =
        (u.storeAt (.mem r e.addr) e.data).setThread k t { (advance k dt s).thread k t with sbuf := es } ∧ u.mem = s.mem := by
  obtain ⟨u, hstore, hmem, -⟩ := memStore_own (i := { dt := 0, ue := e.ue, ce := e.ce }) hspan hue t e.cst ((advance k dt s).core k).clk e.pc
    ((advance k dt s).setCore k { (advance k dt s).core k with sbClk := some ((advance k dt s).core k).clk },
      { (advance k dt s).thread k t with sbuf := es })
  refine ⟨u, ?_, hmem.trans (advance_mem k dt s)⟩
  have hport : ((advance k dt s).core k).clk ∉ ((advance k dt s).core k).l1 := by simpa using hl1
  unfold sbDrain
  dsimp only
  rw [hsbuf]
  dsimp only
  rw [hspan.placeOf]
  dsimp only
  rw [if_neg (by simp [hport, hsb, hat]), hstore]
  dsimp only
  rw [hfar]
  rfl

/-! ## Invalidation and counters -/

theorem core_foldS_onThread (k : Nat) (f : Thread → Thread) (l : List Nat) (s : State) (j : Nat) :
    (foldS (fun t s => s.onThread k t f) l s).core j = s.core j :=
  congrArg (smGet _ · j) (foldS_cores (f := fun t s => s.onThread k t f) (fun _ _ => rfl) l s)

theorem icInvalidate_thread (k : Fin 144) (s : State) (t : Fin 4) : (icInvalidate k s).thread k t =
    { s.thread k t with fetched := [], fetch := (s.thread k t).fetch.map (fun f => { f with inst := false }) } :=
  (foldS_onThread k _ List.nodup_range _ t).trans (if_pos (List.mem_range.mpr t.isLt))

theorem icInvalidate_core (k : Fin 144) (s : State) : (icInvalidate k s).core k = { s.core k with icache := [] } :=
  (core_foldS_onThread k _ _ _ k).trans ((State.core_setCore s k _ k).trans (if_pos rfl))

theorem dcInvalidate_thread (k : Fin 144) (s : State) (t : Fin 4) : (dcInvalidate k s).thread k t =
    { s.thread k t with far := (s.thread k t).far.map (fun f => { f with fill := false }) } :=
  (foldS_onThread k _ List.nodup_range _ t).trans (if_pos (List.mem_range.mpr t.isLt))

theorem dcInvalidate_core (k : Fin 144) (s : State) : (dcInvalidate k s).core k = { s.core k with dcache := [] } :=
  (core_foldS_onThread k _ _ _ k).trans ((State.core_setCore s k _ k).trans (if_pos rfl))

theorem reg_foldS_setReg_zero (as : List Nat) (s : State) (a : Nat) :
    (foldS (fun a s => s.setReg a 0) as s).reg a = if a ∈ as then 0 else s.reg a := by
  induction as generalizing s with
  | nil => rfl
  | cons b as ih =>
    rw [foldS, ih, State.reg_setReg]
    by_cases hab : a = b <;> simp [hab]

/-! ## The timer -/

theorem ptimerExpire_expires {s : State} {k : Fin 144} {t : Fin 4} {pd : Nat} (hon : bit ((s.thread k t).creg 0x102) 0 = true)
    (h0 : (s.thread k t).creg 0x100 ≠ 0) (hpd : ((s.thread k t).creg 0x100).toNat = pd) :
    bit (((ptimerExpire k t pd s).thread k t).creg 0x103) 0 = true ∧
    ((ptimerExpire k t pd s).thread k t).creg 0x100 = (s.thread k t).creg 0x101 := by
  have hpos : ((s.thread k t).creg 0x100).toNat ≠ 0 := fun h => h0 (BitVec.eq_of_toNat_eq h)
  obtain ⟨th, hfetch, hloads⟩ := advance_thread (hpd ▸ hpos) k t s
  have hcreg (n : Nat) : th.creg n = (s.thread k t).creg n := (congrArg (Thread.creg · n) hfetch.rest :)
  have hafter (n : Nat) : ((advance k pd s).thread k t).creg n = (th.tick pd ((s.core k).clk + pd)).creg n :=
    (congrArg (Thread.creg · n) hloads.rest :)
  obtain ⟨htmr, hreload⟩ := Thread.tick_expires (th := th) (dt := pd) (clk := (s.core k).clk + pd) (by rwa [hcreg]) (by rwa [hcreg])
    (by rwa [hcreg])
  have hexpire : ptimerExpire k t pd s = advance k pd s := if_pos ⟨hon, hpos, hpd.le⟩
  rw [hexpire, hafter, hafter, ← hcreg]
  exact ⟨htmr, hreload⟩

/-! ## The rows together -/

/-- Settles O16: each row is the lemma of its own command on the machine once the CCLK have passed, which leaves of a thread all but its timer,
what the fetch unit holds and its loads that look at the store buffer. -/
theorem coreEventRows : Obligations.CoreEventRows := by
  unfold Obligations.CoreEventRows
  refine ⟨fun s k t jj dt ecc hruns o ho hdue hz => ?_, fun s k t i wn wb hwait b hb hissues hlen hlive => ?_,
    fun s k t fid fa dt bs ecc f _ hfar hparts hfill hchk hafter hfetch hbuf hst => ?_, fun s k t dt bs f hf hst => ?_,
    fun s k t id dt hposted q hq hst => ⟨postedAck k t id dt s, rfl, ?_⟩,
    fun s k t dt e he hue hat hfar hl1 hsb r hr hslot hlt hfits => ?_, fun s k => ⟨?_, ?_, ?_⟩, fun s k t pd hon h0 hpd => ?_⟩
  · refine ⟨_, congrArg Host.Outcome.next (longRetire_due hruns ho hdue hz ecc), ?_⟩
    rw [State.thread_setThread, retireOp_eq]
    exact ⟨rfl, rfl⟩
  · rw [exec_waittRelease_eq hwait]
    exact waitt_passes hb hissues hlen hlive
  · refine ⟨farArrive k t fid dt ecc s, ?_, farArrive_single hfar hparts hfill hchk hafter hst dt ecc⟩
    change execFarAccessResponse k t fid ⟨dt, ecc⟩ s = _
    unfold execFarAccessResponse
    simp only [hfetch, hbuf, List.any_nil, Bool.false_eq_true, if_false]
  · refine ⟨_, congrArg Host.Outcome.next (fetchArrive_done hf hst dt), ?_⟩
    rw [State.thread_release, State.core_release, State.fetchDone_fetched, State.fetchDone_icache]
    refine ⟨rfl, fun hinst => ?_, fun hinst => if_neg (by simp [hinst])⟩
    rw [if_pos hinst]
    rfl
  · rcases hst with hst | hst
    · obtain ⟨hend, hrecord, hmarked⟩ := postedAck_failed hposted hq hst dt
      exact ⟨hend, fun hdone => (nomatch hst.symm.trans hdone), fun _ => hrecord, fun e es _ => hmarked e es⟩
    · obtain ⟨hend, hack, hpwf⟩ := postedAck_done hposted hq hst dt
      exact ⟨hend, fun _ => ⟨hack, hpwf⟩, fun hfail => (nomatch hst.symm.trans hfail), fun _ _ hfail => (nomatch hst.symm.trans hfail)⟩
  · obtain ⟨es, hes⟩ := List.head?_eq_some_iff.mp he
    obtain ⟨u, hdrain, hmem⟩ := sbDrain_own ((advance_congr k t dt s Thread.sbuf).trans hes)
      (((advance_frame k t dt s).2.2 (by simp [hfar])).trans hfar) hue hat hl1 (by rwa [advance_sbClk]) ⟨hr, hslot, hlt, hfits⟩
    refine ⟨_, congrArg Host.Outcome.next hdrain, ?_, fun x => ?_⟩
    · rw [State.thread_setThread, hes]
      rfl
    · rw [← show u.byte x = s.byte x from congrArg (smGet memDefault · x) hmem]
      exact u.byte_storeAt_mem r e.addr e.data x
  · refine ⟨_, rfl, ?_, ?_, fun t => ?_⟩
    · rw [icInvalidate_core]
    · rw [icInvalidate_core]
    · rw [icInvalidate_thread]
      exact ⟨rfl, by simp⟩
  · refine ⟨_, rfl, ?_, ?_, fun t => ?_⟩
    · rw [dcInvalidate_core]
    · rw [dcInvalidate_core]
    · rw [dcInvalidate_thread]
      simp
  · refine ⟨_, rfl, foldS_mem (f := fun a s => s.setReg a 0) (fun _ _ => rfl) _ _, fun a ha => ?_⟩
    exact (reg_foldS_setReg_zero _ _ a).trans (if_pos ha)
  · exact ⟨_, rfl, ptimerExpire_expires hon h0 hpd⟩

end Sys2Proof.Machine
end

section
/-! A bundle of operations that only compute register results, at a thread's turn: every operation reads the registers as they stand, and
the results go on their way in bundle order (spec/05_core_pipeline.md, R191, R194; spec/03_tuitin_model.md, R104). -/

namespace Sys2Proof.Machine

/-! ## The live operations of a bundle -/

/-- The operation that a raw operation of a bundle runs as, where its condition is true. -/
def liveOf (t2 : Bool) (th : Thread) (o : RawOp) : Option (RawOp × TOp) :=
  match o.dec t2 with
  | .ok op => if th.cond o then some (o, op) else none
  | _ => none

/-- Which operations of a bundle are live does not depend on the slots that they find. -/
theorem liveOps_map_snd {t2 : Bool} {ops : List RawOp} {busy : List Nat} (h : (assignSlots t2 ops busy).isSome = true) (th : Thread) :
    (liveOps t2 th ops busy).map Prod.snd = ops.filterMap (liveOf t2 th) := by
  obtain ⟨l, hl⟩ := Option.isSome_iff_exists.mp h
  have hfst : (ops.zip l).map Prod.fst = ops := List.map_fst_zip (assignSlots_length hl).ge
  rw [liveOps, hl, Option.getD_some, List.map_filterMap]
  conv_rhs => rw [← hfst, List.filterMap_map]
  congr 1
  funext e
  unfold liveOf
  simp only [Function.comp_apply]
  cases e.1.dec t2 with
  | ok op => cases th.cond e.1 <;> rfl
  | _ => rfl

/-- A bundle that `State.look` lets issue finds slots when none is taken, too (R101). -/
theorem State.slots_of_look_go {s : State} {k t : Nat} {busy : List Nat} {clk : Nat} {i : IssueInfo} {raw : List RawOp} {len : Nat}
    {ret : Word} (h : s.look k t busy clk i = .go raw len ret) : (assignSlots (s.isT2 k) raw []).isSome = true := by
  unfold State.look at h
  dsimp only at h
  iterate 4 replace h := (ite_eq_iff.mp h).resolve_left (fun hc => by cases hc.2) |>.2
  split at h
  case h_7 raw' len' hhead =>
    iterate 2 replace h := (ite_eq_iff.mp h).resolve_left (fun hc => by cases hc.2) |>.2
    obtain ⟨hlegal, h⟩ := (ite_eq_iff.mp h).resolve_left (fun hc => by cases hc.2)
    replace h := (ite_eq_iff.mp h).resolve_left (fun hc => by cases hc.2) |>.2
    replace h := (ite_eq_iff.mp h).resolve_left (fun hc => by cases hc.2) |>.2
    have hraw : raw' = raw := by
      split at h
      case h_3 =>
        replace h := (ite_eq_iff.mp h).resolve_left (fun hc => by cases hc.2) |>.2
        split at h <;> cases h
        rfl
      all_goals cases h
    simp only [illegalBundle, Bool.or_eq_true, not_or] at hlegal
    obtain ⟨⟨hslots, -⟩, -⟩ := hlegal
    rw [← hraw]
    simpa [Option.isSome_iff_ne_none] using hslots
  all_goals cases h

/-- The operations live in a bundle at its thread's turn are those live with no slot taken. -/
theorem IssueReady.liveOps_map_snd {s : State} {k : Fin 144} {t : Fin 4} {i : IssueInfo} {raw : List RawOp} {len : Nat} {busy : List Nat}
    {ret : Word} (h : IssueReady s k t i raw len busy ret) (th : Thread) :
    (liveOps (s.isT2 k) th raw busy).map Prod.snd = (liveOps (s.isT2 k) th raw).map Prod.snd := by
  rw [Machine.liveOps_map_snd h.slots, Machine.liveOps_map_snd (State.slots_of_look_go h.look)]

/-! ## Plain operations -/

section
variable {op : TOp} (h : op.plain = true)
include h

theorem TOp.movcW_of_plain : op.movcW = false := by
  cases op
  case movc => cases h
  all_goals rfl

theorem TOp.isStore_of_plain : op.isStore = false := by
  cases op
  case store => cases h
  all_goals rfl

theorem TOp.not_trap_of_plain (n : Nat) : op ≠ .trap n := by
  rintro rfl
  cases h

/-- A plain operation adds its results to those on their way, and may overflow an accumulator. -/
theorem runOp_of_plain (c : Ctx) (word : Word) (fx : Fx) : runOp c word op fx =
    { fx with th := fx.th.pushAll c.clk (regOp c.t2 c.th op).1, ovf := fx.ovf || (regOp c.t2 c.th op).2 } := by
  cases op
  case load | store | branch | loopR | loopI | loopOff | long | movc | waitt | syncw | lbar | gate | rfe | setmode | trap => cases h
  all_goals rfl

end

/-- A thread with the results of operations on their way, computed from the registers of src. -/
def Thread.issue (th : Thread) (t2 : Bool) (src : Thread) (clk : Nat) (ops : List (RawOp × TOp)) : Thread :=
  ops.foldl (fun th o => th.pushAll clk (regOp t2 src o.2).1) th

/-- Results go on their way beside those that are on theirs. -/
theorem Thread.pushAll_eq (th th' : Thread) (h : th.pend = th'.pend) (clk : Nat) (ws : List (Nat × RegW)) :
    th.pushAll clk ws = { th with pend := (th'.pushAll clk ws).pend } := by
  unfold Thread.pushAll
  induction ws generalizing th th' with
  | nil => rw [List.foldl_nil, List.foldl_nil, ← h]
  | cons w ws ih => exact ih _ (th'.push (clk + w.1) w.2) (congrArg (insPend _) h)

theorem Thread.issue_eq (th th' : Thread) (h : th.pend = th'.pend) (t2 : Bool) (src : Thread) (clk : Nat) (ops : List (RawOp × TOp)) :
    th.issue t2 src clk ops = { th with pend := (th'.issue t2 src clk ops).pend } := by
  unfold Thread.issue
  induction ops generalizing th th' with
  | nil => rw [List.foldl_nil, List.foldl_nil, ← h]
  | cons o ops ih =>
    have hpush := th.pushAll_eq th' h clk (regOp t2 src o.2).1
    have hpend : (th.pushAll clk (regOp t2 src o.2).1).pend = (th'.pushAll clk (regOp t2 src o.2).1).pend := by rw [hpush]
    rw [List.foldl_cons, List.foldl_cons, ih _ _ hpend, hpush]

end Sys2Proof.Machine
end

section
/-! What the issue of a bundle of plain operations leaves of the machine (spec/05_core_pipeline.md, R191, R194, R216, Table 05-12). -/

namespace Sys2Proof.Machine

/-! ## The counters of a core -/

theorem State.count_reg_ne {b a : Nat} (h : b ≠ a) (s : State) (k n clk : Nat) : (s.count k a n clk).reg b = s.reg b := by
  unfold State.count
  split
  · rfl
  · simp [h]

/-- What a counter reads after it has counted follows from what it read and from the CCLK in which it was cleared. -/
theorem State.count_reg_congr {s u : State} {k a : Nat} (hreg : u.reg a = s.reg a) (hclr : (u.core k).clrClk = (s.core k).clrClk)
    (n clk : Nat) : (u.count k a n clk).reg a = (s.count k a n clk).reg a := by
  unfold State.count
  rw [hclr]
  split
  · exact hreg
  · simp [hreg]

theorem followLb_regs (k t : Nat) (pc : Word) (taken : Option Word) (ended : List Nat) (s : State) :
    (followLb k t pc taken ended s).regs = s.regs := by
  unfold followLb
  split <;> rfl

/-! ## The effects -/

theorem foldl_runOp_of_plain (c : Ctx) (ops : List (Nat × RawOp × TOp)) (h : ∀ e ∈ ops, e.2.2.plain = true) (fx : Fx) :
    ∃ ovf, ops.foldl (fun f e => runOp c e.2.1.word e.2.2 f) fx =
      { fx with th := fx.th.issue c.t2 c.th c.clk (ops.map Prod.snd), ovf := ovf } := by
  induction ops generalizing fx with
  | nil => exact ⟨fx.ovf, rfl⟩
  | cons e ops ih =>
    obtain ⟨hop, hops⟩ := List.forall_mem_cons.mp h
    rw [List.foldl_cons, runOp_of_plain hop]
    exact ih hops _

theorem foldl_storeOp_of_plain (c : Ctx) (ops : List (Nat × RawOp × TOp)) (h : ∀ e ∈ ops, e.2.2.plain = true) (fx : Fx) :
    ops.foldl (fun f e => storeOp c e.2.2 f) fx = fx := by
  induction ops with
  | nil => rfl
  | cons e ops ih =>
    obtain ⟨hop, hops⟩ := List.forall_mem_cons.mp h
    rw [List.foldl_cons, storeOp_of_not_store (TOp.isStore_of_plain hop), ih hops]

/-- A bundle of plain operations puts their results on their way. -/
theorem issueFx_of_plain (c : Ctx) {ops : List (Nat × RawOp × TOp)} (h : ∀ e ∈ ops, e.2.2.plain = true) (s : State) :
    ∃ ovf, issueFx c ops s = Fx.finish c { c.start (ripen c.k ops s) with
      th := (c.start (ripen c.k ops s)).th.issue c.t2 c.th c.clk (ops.map Prod.snd), ovf := ovf } := by
  have hw : ∀ e ∈ ops, e.2.2.movcW = false := fun e he => TOp.movcW_of_plain (h e he)
  obtain ⟨ovf, hrun⟩ := foldl_runOp_of_plain c ops h (c.start (ripen c.k ops s))
  refine ⟨ovf, ?_⟩
  unfold issueFx bundleFx
  rw [List.filter_eq_self.mpr (fun e he => by simp [hw e he]), List.filter_eq_nil_iff.mpr (fun e he => by simp [hw e he])]
  dsimp only
  rw [foldl_storeOp_of_plain c ops h, ← hrun]
  rfl

/-- Of the effects beside them, there is no branch, loop, return or mode change. -/
theorem issueFx_frame_of_plain (c : Ctx) {ops : List (Nat × RawOp × TOp)} (h : ∀ e ∈ ops, e.2.2.plain = true) (s : State) :
    (issueFx c ops s).s = ripen c.k ops s ∧ (issueFx c ops s).rfe = false ∧ (issueFx c ops s).mode = none ∧
    (issueFx c ops s).taken = none ∧ (issueFx c ops s).jump = none ∧ (issueFx c ops s).th.lastIss = c.clk ∧
    (issueFx c ops s).th.kept = (c.th.issue c.t2 c.th c.clk (ops.map Prod.snd)).kept := by
  obtain ⟨ovf, hfx⟩ := issueFx_of_plain c h s
  rw [(c.start (ripen c.k ops s)).th.issue_eq c.th rfl] at hfx
  rw [hfx, c.th.issue_eq c.th rfl]
  exact ⟨rfl, rfl, rfl, rfl, rfl, rfl, rfl⟩

/-! ## The thread moves on -/

theorem Thread.redirect_lastIss (th : Thread) (clk : Nat) (misp wrong : Bool) (old : Option Word) :
    (th.redirect clk misp wrong old).lastIss = th.lastIss := by
  unfold Thread.redirect
  extract_lets from_
  split
  · split <;> rfl
  · split
    · rfl
    · extract_lets r th1
      split <;> rfl

theorem afterBundle_straight_lastIss {c : Ctx} {fx : Fx} (hdelay : c.th.delay = none) (htaken : fx.taken = none) (hjump : fx.jump = none)
    (s : State) (dl : Bool) : (afterBundle c s fx dl).th.lastIss = fx.th.lastIss := by
  obtain ⟨ctl, hend⟩ := loopEnd_frame { fx.th with seqx := false, skip := false } c.pc c.next [2, 1, 0]
  unfold afterBundle
  dsimp only
  simp only [Thread.tgt_of_delay hdelay, htaken, hjump]
  exact (congrArg Thread.lastIss hend :)

theorem afterIssue_of_no_ovf {c : Ctx} (hshadow : c.th.shadow = none) (hbit : bit (c.th.creg 0x11) 17 = false) (fx : Fx) (s : State) :
    afterIssue c fx s = s := by
  simp [afterIssue, hshadow, hbit]

section
variable {c : Ctx} {ops : List (Nat × RawOp × TOp)} {s : State} {raw : List RawOp}

/-- A bundle of plain operations outside every shadow, loop and delay slot puts their results on their way, goes on in sequence, counts in
CORE_ISSUE, and leaves memory. -/
theorem runBundle_of_plain (hplain : ∀ e ∈ ops, e.2.2.plain = true) (hbranch : branchIn c.t2 raw = none) (hshadow : c.th.shadow = none)
    (hbit : bit (c.th.creg 0x11) 17 = false) (hdelay : c.th.delay = none) (hloops : c.th.loopsOpen c.pc) (busy : List Nat) :
    (runBundle c raw ops busy s).mem = s.mem ∧
    ((runBundle c raw ops busy s).core c.k).clk = (s.core c.k).clk ∧
    (runBundle c raw ops busy s).reg (aCoreIssue c.k) = (s.count c.k (aCoreIssue c.k) 1 c.clk).reg (aCoreIssue c.k) ∧
    ((runBundle c raw ops busy s).thread c.k c.t).lastIss = c.clk ∧
    ∃ delay, ((runBundle c raw ops busy s).thread c.k c.t).kept =
      { c.th.issue c.t2 c.th c.clk (ops.map Prod.snd) with pc := c.next, delay := delay, shadow := none }.kept := by
  obtain ⟨hs, hrfe, hmode, htaken, hjump, hlast, hth⟩ := issueFx_frame_of_plain c hplain s
  obtain ⟨hmem, hcores, hregs⟩ := ripen_frame c.k ops s
  unfold runBundle
  extract_lets fx br dl misp af s1 s2 s3 wrong after th1 r th2 s4 core s5 s6
  have hfx : issueFx c ops s = fx := rfl
  rw [hfx] at hs hrfe hmode htaken hjump hlast hth
  rw [afterIssue_of_no_ovf hshadow hbit]
  have hbr : br = none := hbranch
  have hs1 : s1 = fx.s := by simp only [s1, hbr, train]
  have hs5 : s5 = s4 := by simp [s5, hrfe]
  have hth2 : th2 = { th1 with shadow := none } := by simp only [th2, hrfe, hshadow, hmode, stepShadow_none, Bool.false_eq_true, if_false]
  have hs3 : s3 = ((fx.s.count c.k (aCoreBrmisp c.k) (b2n (misp && br.isSome)) c.clk).setCore c.k (coreIssued c raw ops busy
      (fx.s.core c.k))).count c.k (aCoreIssue c.k) 1 c.clk := by simp only [s3, s2, hs1, State.count_core]
  obtain ⟨hmem6, hthreads6, hclk6⟩ := followLb_frame c.k c.t c.pc fx.taken (fx.ended ++ af.ended) s5
  have hregs6 := followLb_regs c.k c.t c.pc fx.taken (fx.ended ++ af.ended) s5
  have hthread6 : s6.thread c.k c.t = { th1 with shadow := none } := by
    rw [← hth2, State.thread, show s6.threads = _ from hthreads6, hs5]
    exact State.thread_setThread _ _ _ _
  obtain ⟨delay, hafter⟩ := afterBundle_straight (c := c) (fx := fx) hdelay htaken hjump
    ((Thread.congr_kept (fun th => th.loopsOpen c.pc) hth).mpr (by rw [c.th.issue_eq c.th rfl]; exact hloops)) s dl
  have hth1 : th1.kept = af.th.kept := Thread.redirect_kept _ _ _ _ _
  have hlast1 : th1.lastIss = c.clk := by
    rw [show th1.lastIss = af.th.lastIss from Thread.redirect_lastIss _ _ _ _ _, ← hlast]
    exact afterBundle_straight_lastIss hdelay htaken hjump s dl
  rw [if_neg (by simp [hrfe]), hthread6]
  refine ⟨?_, ?_, ?_, hlast1, delay, ?_⟩
  · rw [show s6.mem = s5.mem from hmem6, hs5, show s4.mem = s3.mem from rfl, hs3, ← hmem, ← hs]
    simp
  · rw [show (s6.core c.k).clk = (s5.core c.k).clk from hclk6, hs5, show (s4.core c.k).clk = (s3.core c.k).clk from rfl, hs3,
      ← State.clk_of_cores hcores, ← hs]
    simp [coreIssued, CoreSt.tookIssue]
  · rw [State.reg, show s6.regs = s5.regs from hregs6, hs5, show s4.regs = s3.regs from rfl, ← State.reg, hs3]
    refine State.count_reg_congr ?_ ?_ 1 c.clk
    · have hne : aCoreIssue c.k ≠ aCoreBrmisp c.k := by unfold aCoreIssue aCoreBrmisp; omega
      rw [State.reg, State.setCore_regs, ← State.reg, State.count_reg_ne hne, hs, State.reg, hregs, ← State.reg]
    · rw [State.core_setCore, if_pos rfl, hs, State.core, hcores, ← State.core]
      rfl
  · rw [show ({ th1 with shadow := none } : Thread).kept = { th1.kept with shadow := none } from rfl, hth1, hafter]
    exact congrArg (fun th : Thread => { th with pc := c.next, delay := delay, shadow := none }) hth

end

theorem trapOf_of_plain {ops : List (Nat × RawOp × TOp)} (h : ∀ e ∈ ops, e.2.2.plain = true) : trapOf ops = none := by
  refine List.findSome?_eq_none_iff.mpr fun e he => ?_
  split
  next n htrap => exact absurd htrap (TOp.not_trap_of_plain (h e he) n)
  · rfl

/-- Settles O13: at its turn the thread runs the bundle, whose operations add their results to those on their way, and the step to the next
bundle leaves the registers. -/
theorem bundlesReadBeforeTheyWrite : Obligations.BundlesReadBeforeTheyWrite := by
  intro s k t i b hb hissues hbranch hplain hbit
  obtain ⟨hruns, busy, ret, h⟩ := State.issueReady_of_issues hb hissues
  have hexec := exec_bundleIssue_of_ready hruns h
  have hmem : (s.atIssue k t i).mem = s.mem := s.atIssue_mem k t i
  generalize s.atIssue k t i = s' at h hexec hmem hbranch hplain hbit ⊢
  obtain ⟨raw, len⟩ := b
  dsimp only at h hexec hbranch hplain ⊢
  have hlive := h.liveOps_map_snd (s'.thread k t)
  have hops : ∀ e ∈ liveOps (s'.isT2 k) (s'.thread k t) raw busy, e.2.2.plain = true := by
    intro e he
    obtain ⟨e', he', hsnd⟩ := List.mem_map.mp (hlive ▸ List.mem_map_of_mem (f := Prod.snd) he)
    rw [← hsnd]
    exact List.all_eq_true.mp hplain e' he'
  obtain ⟨hmem', hclk, hcount, hlast, delay, hth⟩ := runBundle_of_plain (c := s'.issueCtx k t i len ret) (s := s'.codeRead k t i len) hops
    hbranch h.shadow hbit h.delay (fun n hn => .inl (h.loops n hn)) busy
  rw [hlive] at hth
  specialize hexec (trapOf_of_plain hops)
  generalize runBundle _ _ _ _ _ = u at hexec hmem' hclk hcount hlast hth
  change (u.core k).clk = _ at hclk
  change (u.thread k t).lastIss = _ at hlast
  change u.reg (aCoreIssue k) = _ at hcount
  change (u.thread k t).kept = ({ (s'.thread k t).issue (s'.isT2 k) (s'.thread k t) (s'.core k).clk _ with pc := _, delay := _, shadow := _ } :
    Thread).kept at hth
  have hissue := (s'.thread k t).issue_eq _ rfl (s'.isT2 k) (s'.thread k t) (s'.core k).clk
    ((liveOps (s'.isT2 k) (s'.thread k t) raw).map Prod.snd)
  have hfirst : afterFirst k t i.vec u = u := by
    refine afterFirst_of_none ?_ i.vec
    rw [Thread.imprecDue, Thread.congr_kept Thread.imprec hth, hissue, hclk, State.clk_of_cores (s'.codeRead_cores k t i len)]
    exact h.imprec
  rw [hfirst] at hexec
  refine ⟨u, hexec, ?_, ?_, ?_, ?_, ?_, ?_, ?_, Thread.congr_kept Thread.pc hth, hlast, ?_, hmem'.trans ((s'.codeRead_mem k t i len).trans hmem)⟩
  · rw [Thread.congr_kept Thread.pend hth, Thread.issue, List.foldl_map]
  · rw [Thread.congr_kept Thread.d hth, hissue]
  · rw [Thread.congr_kept Thread.a hth, hissue]
  · rw [Thread.congr_kept Thread.m hth, hissue]
  · rw [Thread.congr_kept Thread.mp hth, hissue]
  · rw [Thread.congr_kept Thread.f hth, hissue]
  · rw [Thread.congr_kept Thread.ss hth, hissue]
  · rw [hcount]
    exact State.count_reg_congr (State.codeRead_reg (by unfold aCoreIssue aMemcCeCnt; omega) (by unfold aCoreIssue aMemcStat; omega) ..)
      (by rw [State.core, s'.codeRead_cores, ← State.core]) 1 (s'.core k).clk

end Sys2Proof.Machine
end

section
/-! What an entry reads: the vector entry and the code at its handler (spec/06_exceptions_worlds.md, R254, R256). Both are the same on two
machines that have the same memory, I-cache and registers but for the counts of corrected errors and of issues. -/

namespace Sys2Proof.Machine

/-! ## Code as slot k reads it -/

/-- Slot k reads the same code on machine u as on s: they differ in what no read of code looks at, as in the counts of corrected errors and
of issues. -/
structure State.SameCode (k : Nat) (s u : State) : Prop where
  mem    : u.mem = s.mem
  icache : (u.core k).icache = (s.core k).icache
  ddr    : u.memc.ddrCap = s.memc.ddrCap
  reg    : ∀ a, a ≠ aMemcCeCnt → a ≠ aMemcStat → a ≠ aCoreIssue k → u.reg a = s.reg a

@[refl] theorem State.SameCode.refl (k : Nat) (s : State) : s.SameCode k s := ⟨rfl, rfl, rfl, fun _ _ _ _ => rfl⟩

theorem State.SameCode.trans {k : Nat} {s u v : State} (hsu : s.SameCode k u) (huv : u.SameCode k v) : s.SameCode k v :=
  ⟨huv.mem.trans hsu.mem, huv.icache.trans hsu.icache, huv.ddr.trans hsu.ddr,
    fun a h1 h2 h3 => (huv.reg a h1 h2 h3).trans (hsu.reg a h1 h2 h3)⟩

theorem regionOf_slot_lt {a j : Nat} {r : Region} (h : regionOf a = some r) (hr : r = .data j ∨ r = .itcm j) : j < 144 := by
  unfold regionOf at h
  dsimp only at h
  split_ifs at h <;> cases h <;> rcases hr with hr | hr <;> cases hr <;> omega

section
variable {k : Nat} {s u : State} (h : s.SameCode k u)
include h

theorem State.SameCode.bytes : u.bytes = s.bytes := by
  funext a n
  rw [State.bytes, h.mem, State.bytes]

theorem State.SameCode.memWord : u.memWord = s.memWord := by
  funext a
  rw [State.memWord, h.bytes, State.memWord]

theorem State.SameCode.inService {j : Nat} (hj : j < 144) : u.inService j = s.inService j := by
  rw [State.inService, h.reg _ (by unfold aBwtrCstat aMemcCeCnt; omega) (by unfold aBwtrCstat aMemcStat; omega)
    (by unfold aBwtrCstat aCoreIssue; omega), State.inService]

theorem State.SameCode.memOk (any : Bool) (r : Region) (a n : Nat) : u.memOk any r a n = s.memOk any r a n := by
  unfold State.memOk
  by_cases hr : regionOf (a + (n - 1)) = some r
  · congr 1
    cases r
    case data j => exact congrArg (any || ·) (h.inService (regionOf_slot_lt hr (.inl rfl)))
    case itcm j => exact congrArg (any || ·) (h.inService (regionOf_slot_lt hr (.inr rfl)))
    case ddr => exact congrArg (fun c => decide (a + n ≤ 0x1000000000 + c)) h.ddr
    all_goals rfl
  · simp [hr]

theorem State.SameCode.decodeAddr : u.decodeAddr = s.decodeAddr := by
  have hid : u.ownId = s.ownId := by
    rw [State.ownId, h.reg _ (by decide) (by decide) (by unfold aSysStrap aCoreIssue; omega), State.ownId]
  funext a
  rw [State.decodeAddr, hid, State.decodeAddr]

theorem State.SameCode.plain : u.plain = s.plain := by
  funext a
  rw [State.plain, h.decodeAddr, State.plain]

theorem State.SameCode.isOwn : u.isOwn k = s.isOwn k := by
  funext a
  rw [State.isOwn, h.decodeAddr, State.isOwn]

theorem State.SameCode.isOwnItcm : u.isOwnItcm k = s.isOwnItcm k := by
  funext a
  rw [State.isOwnItcm, h.decodeAddr, State.isOwnItcm]

theorem State.SameCode.access (any store : Bool) (a n : Nat) : u.access any store a n = s.access any store a n := by
  rw [State.access, h.decodeAddr, State.access]
  cases s.decodeAddr a with
  | mem r b => dsimp only; rw [h.memOk]
  | mirror set r b => dsimp only; rw [h.memOk]
  | _ => rfl

theorem State.SameCode.isDet (hk : k < 144) : u.isDet k = s.isDet k := by
  rw [State.isDet, State.profile, h.reg _ (by unfold aCorePipeCfg aMemcCeCnt; omega) (by unfold aCorePipeCfg aMemcStat; omega)
    (by unfold aCorePipeCfg aCoreIssue; omega), State.isDet, State.profile]

theorem State.SameCode.cacheable (hk : k < 144) : u.cacheable k = s.cacheable k := by
  funext en a
  rw [State.cacheable, h.isDet hk, h.reg _ (by unfold aCoreCacheCfg aMemcCeCnt; omega) (by unfold aCoreCacheCfg aMemcStat; omega)
    (by unfold aCoreCacheCfg aCoreIssue; omega), State.cacheable]

theorem State.SameCode.codeAt (hk : k < 144) : u.codeAt k = s.codeAt k := by
  funext th a
  unfold State.codeAt
  rw [h.isOwn, h.cacheable hk, h.icache, h.bytes, h.plain]

theorem State.SameCode.peekCode (hk : k < 144) : u.peekCode k = s.peekCode k := by
  funext th a
  unfold State.peekCode
  rw [h.codeAt hk, h.access, h.bytes]

theorem State.SameCode.judge (hk : k < 144) : u.judge k = s.judge k := by
  funext th land sup e
  unfold State.judge
  rw [h.isDet hk, h.isOwnItcm]

theorem State.SameCode.handler (hk : k < 144) : u.handler k = s.handler k := by
  have hok : u.handlerOk k = s.handlerOk k := by
    funext th land a
    unfold State.handlerOk
    rw [h.peekCode hk, h.judge hk]
  funext th land level vec ecc
  unfold State.handler
  rw [h.memWord, hok]

end

/-! ## Machines on which the code is the same -/

theorem State.SameCode.countCe (k : Nat) (s : State) (bw : Bool) (a : Nat) : s.SameCode k (s.countCe bw a) := by
  refine ⟨s.countCe_mem bw a, ?_, ?_, fun b h1 h2 _ => State.countCe_reg h1 h2 s bw a⟩
  · rw [State.core, s.countCe_cores, ← State.core]
  · unfold State.countCe
    dsimp only
    split <;> simp [State.incSat]

theorem foldS_sameCode {α : Type} {k : Nat} {f : α → State → State} (hf : ∀ x (s : State), s.SameCode k (f x s)) (l : List α) (s : State) :
    s.SameCode k (foldS f l s) :=
  foldS_induction (P := fun u => s.SameCode k u) (fun x u h => h.trans (hf x u)) l s (.refl k s)

theorem State.SameCode.vectorEcc (s : State) (k : Fin 144) (t : Fin 4) (th : Thread) (land : Bool) (level vec : Nat) {ecc : EccHit}
    (h : ∀ w, ecc ≠ .ue w) : s.SameCode k (s.vectorEcc k t th land level vec ecc) := by
  unfold State.vectorEcc
  split
  · refine foldS_sameCode (fun w u => ?_) _ s
    split
    · exact State.SameCode.countCe k u false _
    · exact .refl k u
  next w _ => exact absurd rfl (h w)
  · exact .refl k s

theorem State.SameCode.codeRead (s : State) (k : Fin 144) (t : Fin 4) (i : IssueInfo) (len : Nat) : s.SameCode k (s.codeRead k t i len) := by
  unfold State.codeRead
  extract_lets pa
  split
  · exact (foldS_sameCode (fun w u => State.SameCode.countCe k u false w) _ s).trans ⟨rfl, rfl, rfl, fun _ _ _ _ => rfl⟩
  · exact ⟨rfl, rfl, rfl, fun _ _ _ _ => rfl⟩

theorem State.SameCode.setCore (s : State) {k : Nat} {c : CoreSt} (h : c.icache = (s.core k).icache) : s.SameCode k (s.setCore k c) :=
  ⟨rfl, by rw [State.core_setCore, if_pos rfl, h], rfl, fun _ _ _ _ => rfl⟩

theorem State.SameCode.setThread (s : State) (k j t : Nat) (th : Thread) : s.SameCode k (s.setThread j t th) :=
  ⟨rfl, rfl, rfl, fun _ _ _ _ => rfl⟩

theorem State.SameCode.countIssue (s : State) (k n clk : Nat) : s.SameCode k (s.count k (aCoreIssue k) n clk) := by
  refine ⟨s.count_mem _ _ _ _, by rw [s.count_core], ?_, fun a _ _ h => State.count_reg_ne h s k n clk⟩
  unfold State.count
  split <;> rfl

theorem State.SameCode.freeLb (s : State) (k t : Nat) : s.SameCode k (freeLb k t s) := by
  unfold Machine.freeLb
  split
  · exact .setCore s rfl
  · exact .refl k s

end Sys2Proof.Machine
end

section
/-! What the stop of a thread and the write of its save set do to the thread (spec/06_exceptions_worlds.md, R196, R252, R263, R267 to R269,
Tables 06-9 and 06-10). -/

namespace Sys2Proof.Machine

/-! ## Results that complete -/

theorem Thread.write_frame (th : Thread) (w : RegW) : ∃ d a m mp f ctl,
    th.write w = { th with d := d, a := a, m := m, mp := mp, f := f, ctl := ctl } ∧
    ({ th with ctl := ctl } : Thread).creg 0x80 = th.creg 0x80 := by
  cases w with
  | f n v =>
    unfold Thread.write
    dsimp only
    split <;> exact ⟨_, _, _, _, _, _, rfl, rfl⟩
  | mst mask => exact ⟨_, _, _, _, _, _, rfl, th.creg_setCreg 0x11 _ 0x80⟩
  | fst mask => exact ⟨_, _, _, _, _, _, rfl, th.creg_setCreg 0x10 _ 0x80⟩
  | _ => exact ⟨_, _, _, _, _, _, rfl, rfl⟩

/-- The results in flight change registers, flags and the status registers alone; CSTAT is none of these. -/
theorem foldl_write_frame (l : List PendW) (th : Thread) : ∃ d a m mp f ctl,
    l.foldl (fun t p => t.write p.w) th = { th with d := d, a := a, m := m, mp := mp, f := f, ctl := ctl } ∧
    ({ th with ctl := ctl } : Thread).creg 0x80 = th.creg 0x80 := by
  induction l generalizing th with
  | nil => exact ⟨_, _, _, _, _, _, rfl, rfl⟩
  | cons p l ih =>
    obtain ⟨d, a, m, mp, f, ctl, hwrite, hcst⟩ := th.write_frame p.w
    obtain ⟨d', a', m', mp', f', ctl', hfold, hcst'⟩ := ih (th.write p.w)
    rw [hwrite] at hfold hcst'
    refine ⟨d', a', m', mp', f', ctl', ?_, hcst'.trans hcst⟩
    rw [List.foldl_cons, hwrite, hfold]

theorem settleAll_frame (th : Thread) : ∃ d a m mp f ctl,
    settleAll th = { th with d := d, a := a, m := m, mp := mp, f := f, ctl := ctl, pend := [] } ∧ (settleAll th).creg 0x80 = th.creg 0x80 := by
  obtain ⟨d, a, m, mp, f, ctl, hfold, hcst⟩ := foldl_write_frame th.pend th
  have h : settleAll th = { th with d := d, a := a, m := m, mp := mp, f := f, ctl := ctl, pend := [] } := by rw [settleAll, hfold]
  exact ⟨d, a, m, mp, f, ctl, h, by rw [h]; exact hcst⟩

theorem settleAll_of_no_pend {th : Thread} (h : th.pend = []) : settleAll th = th := by
  obtain ⟨⟩ := th
  cases h
  rfl

/-! ## The save set as it is written -/

/-- SVSTAT of a cause of entry (Table 06-9). -/
def Thread.svStat (th : Thread) (c : Cause) (tgt : Option Word) : Nat :=
  th.level + 4 * b2n th.land + 8 * b2n th.ie + 16 * b2n tgt.isSome + 32 * b2n c.imp + 64 * b2n c.defer + 128 * b2n th.pwf + 256 * c.vec +
    c.info * 2 ^ 22

/-- The registers of a save set before its records of long operations: SVPC, SVSTAT, and the rest. -/
def Thread.saved (th : Thread) (i : Nat) (pc stat : Word) (rest : List (Nat × Word)) : Thread :=
  rest.foldl (fun t e => t.setSv i e.1 e.2) ((th.setSv i 0 pc).setSv i 1 stat)

/-- What a save set holds beside SVPC and SVSTAT: SVTGT, SVLOOP, SVADDR, SVLONG with n records, and SVDIV. -/
def Cause.rest (c : Cause) (tgt : Option Word) (loops : Word) (n : Nat) : List (Nat × Word) :=
  [(2, tgt.getD 0), (3, loops), (4, c.addr), (5, BitVec.ofNat 32 (n + 256 * c.paHi)), (6, c.div)]

theorem saveSet_eq (i : Nat) (c : Cause) (pc : Word) (tgt : Option Word) (hold : Bool) (lng : List LongOp) (th : Thread) :
    saveSet i c pc tgt hold lng th =
      { putLong i 0 (lng.take 4 ++ c.named)
          (th.saved i pc (BitVec.ofNat 32 (th.svStat c tgt)) (c.rest tgt (svLoop th hold pc) (lng.take 4).length)) with
        pwf := false, svx := putExtra i (lng.take 4) th.svx, wait := th.wait.deeper, postIn := (th.markPosted i).postIn } := rfl

/-! ## What the save set does not hold -/

/-- A thread with another next bundle, another place in a delay slot, and another CCLK in which it took a request. -/
def Thread.aside (th : Thread) (pc : Word) (delay : Option Delay) (took : Option Nat) : Thread :=
  { th with pc := pc, delay := delay, took := took }

section
variable (th : Thread) (pc : Word) (delay : Option Delay) (took : Option Nat)

theorem Thread.write_aside (w : RegW) : (th.aside pc delay took).write w = (th.write w).aside pc delay took := by
  cases w with
  | f n v =>
    unfold Thread.write
    dsimp only
    split <;> rfl
  | _ => rfl

theorem settleAll_aside : settleAll (th.aside pc delay took) = (settleAll th).aside pc delay took := by
  have hfold : (th.aside pc delay took).pend.foldl (fun t p => t.write p.w) (th.aside pc delay took) =
      (th.pend.foldl (fun t p => t.write p.w) th).aside pc delay took :=
    List.foldl_hom (fun t : Thread => t.aside pc delay took) fun t p => t.write_aside pc delay took p.w
  rw [settleAll, hfold]
  rfl

theorem putLong_aside (i j : Nat) (os : List LongOp) :
    putLong i j os (th.aside pc delay took) = (putLong i j os th).aside pc delay took := by
  induction os generalizing j th with
  | nil => rfl
  | cons o os ih =>
    rw [putLong, putLong, ← ih]
    exact congrArg (putLong i (j + 1) os) (List.foldl_hom (fun t : Thread => t.aside pc delay took) fun t e => rfl)

theorem saveSet_aside (i : Nat) (c : Cause) (next : Word) (tgt : Option Word) (hold : Bool) (lng : List LongOp) :
    saveSet i c next tgt hold lng (th.aside pc delay took) = (saveSet i c next tgt hold lng th).aside pc delay took := by
  have hstat : (th.aside pc delay took).svStat c tgt = th.svStat c tgt := by
    unfold Thread.svStat
    rw [show (th.aside pc delay took).level = th.level from rfl, show (th.aside pc delay took).land = th.land from rfl,
      show (th.aside pc delay took).ie = th.ie from rfl, show (th.aside pc delay took).pwf = th.pwf from rfl]
  have hsaved (stat : Word) (rest : List (Nat × Word)) :
      (th.aside pc delay took).saved i next stat rest = (th.saved i next stat rest).aside pc delay took := by
    unfold Thread.saved
    exact List.foldl_hom (init := (th.setSv i 0 next).setSv i 1 stat) (fun t : Thread => t.aside pc delay took) fun t e => rfl
  rw [saveSet_eq, saveSet_eq, hstat, show svLoop (th.aside pc delay took) hold next = svLoop th hold next from rfl, hsaved, putLong_aside]
  rfl

theorem quiesce_aside : quiesce (th.aside pc delay took) = (quiesce th).aside pc none took := by
  have h := settleAll_aside (th.flush th.fetFrom) pc delay took
  unfold quiesce
  rw [show (th.aside pc delay took).flush (th.aside pc delay took).fetFrom = (th.flush th.fetFrom).aside pc delay took from rfl, h]
  rfl

end

/-! ## The save set -/

theorem Thread.sv_setSv (th : Thread) (i r : Nat) (v : Word) (j q : Nat) :
    (th.setSv i r v).sv j q = if 64 * j + q = 64 * i + r then v else th.sv j q :=
  smGet_smSet _ _ _ _ _

theorem Thread.sv_setSv_same (th : Thread) (i r : Nat) (v : Word) : (th.setSv i r v).sv i r = v :=
  (th.sv_setSv i r v i r).trans (if_pos rfl)

theorem Thread.sv_setSv_ne (th : Thread) (i : Nat) {r q : Nat} (v : Word) (h : q ≠ r) : (th.setSv i r v).sv i q = th.sv i q :=
  (th.sv_setSv i r v i q).trans (if_neg (by omega))

theorem foldl_setSv_frame {α : Type} (i : Nat) (r : α → Nat) (v : α → Word) (l : List α) (th : Thread) :
    ∃ save, l.foldl (fun t e => t.setSv i (r e) (v e)) th = { th with save := save } ∧
      ∀ q, (∀ e ∈ l, q ≠ r e) → ({ th with save := save } : Thread).sv i q = th.sv i q := by
  induction l generalizing th with
  | nil => exact ⟨th.save, rfl, fun _ _ => rfl⟩
  | cons e l ih =>
    obtain ⟨save, hfold, hsv⟩ := ih (th.setSv i (r e) (v e))
    refine ⟨save, hfold, fun q hq => ?_⟩
    obtain ⟨hqe, hql⟩ := List.forall_mem_cons.mp hq
    exact (hsv q hql).trans (th.sv_setSv_ne i (v e) hqe)

/-- The records of long operations stand behind the first 8 registers of the set. -/
theorem putLong_frame (i j : Nat) (os : List LongOp) (th : Thread) :
    ∃ save, putLong i j os th = { th with save := save } ∧ ∀ q < 8, ({ th with save := save } : Thread).sv i q = th.sv i q := by
  induction os generalizing j th with
  | nil => exact ⟨th.save, rfl, fun _ _ => rfl⟩
  | cons o os ih =>
    obtain ⟨save, hfold, hsv⟩ := foldl_setSv_frame i (fun e : Word × Nat => 8 + 8 * j + e.2) Prod.fst ((svLongRegs o).zip (List.range 5)) th
    obtain ⟨save', hput, hsv'⟩ := ih (j + 1) { th with save := save }
    refine ⟨save', ?_, fun q hq => (hsv' q hq).trans (hsv q fun e _ => by omega)⟩
    rw [putLong, hfold, hput]

theorem Thread.saved_frame (th : Thread) (i : Nat) (pc stat : Word) {rest : List (Nat × Word)} (h : ∀ e ∈ rest, 2 ≤ e.1) :
    ∃ save, th.saved i pc stat rest = { th with save := save } ∧ ({ th with save := save } : Thread).sv i 0 = pc ∧
      ({ th with save := save } : Thread).sv i 1 = stat := by
  obtain ⟨save, hfold, hsv⟩ := foldl_setSv_frame i Prod.fst Prod.snd rest ((th.setSv i 0 pc).setSv i 1 stat)
  have hne {q : Nat} (hq : q < 2) : ∀ e ∈ rest, q ≠ e.1 := fun e he => by have := h e he; omega
  refine ⟨save, hfold, (hsv 0 (hne (by decide))).trans ?_, (hsv 1 (hne (by decide))).trans (Thread.sv_setSv_same _ i 1 stat)⟩
  rw [Thread.sv_setSv_ne _ i _ (by decide), Thread.sv_setSv_same]

theorem saveSet_frame (i : Nat) (c : Cause) (pc : Word) (tgt : Option Word) (hold : Bool) (lng : List LongOp) (th : Thread) :
    ∃ save, saveSet i c pc tgt hold lng th = { th with
        save := save, pwf := false, svx := putExtra i (lng.take 4) th.svx, wait := th.wait.deeper, postIn := (th.markPosted i).postIn } ∧
      ({ th with save := save } : Thread).sv i 0 = pc ∧
      ({ th with save := save } : Thread).sv i 1 = BitVec.ofNat 32 (th.svStat c tgt) := by
  obtain ⟨save, hsaved, hpc, hstat⟩ := th.saved_frame i pc (BitVec.ofNat 32 (th.svStat c tgt))
    (rest := c.rest tgt (svLoop th hold pc) (lng.take 4).length) (by simp [Cause.rest])
  obtain ⟨save', hput, hsv⟩ := putLong_frame i 0 (lng.take 4 ++ c.named) { th with save := save }
  refine ⟨save', ?_, (hsv 0 (by decide)).trans hpc, (hsv 1 (by decide)).trans hstat⟩
  rw [saveSet_eq, hsaved, hput]

end Sys2Proof.Machine
end

section
/-! An entry that finds its handler (spec/06_exceptions_worlds.md, R263 to R270; R254, R256): the save set, CSTAT, the handler's address, and
the registers with every result complete. -/

namespace Sys2Proof.Machine

/-! ## Long operations before an entry -/

theorem retireDue_of_later {th : Thread} {clk : Nat} (h : ∀ o ∈ th.long, clk < o.due) : retireDue clk th = th := by
  have hnil : th.long.filter (fun o => decide (o.due ≤ clk)) = [] :=
    List.filter_eq_nil_iff.mpr fun o ho => by simpa using h o ho
  rw [retireDue, hnil]
  rfl

/-! ## The thread that has entered -/

/-- Thread v has entered a world and level for a cause in CCLK clk: thread th was to go on at pc, and handler h runs. -/
structure Thread.Entered (v th : Thread) (c : Cause) (land : Bool) (level : Nat) (pc : Word) (tgt : Option Word) (h : Word) (clk : Nat) :
    Prop where
  goes   : v.pc = h
  cstat  : v.creg 0x80 = cstatOf land level false
  svpc   : v.sv (setIdx land level) 0 = pc
  svstat : v.sv (setIdx land level) 1 = BitVec.ofNat 32 (th.svStat c tgt)
  resume : v.resume = clk + 18
  entry  : v.entry = true
  d      : v.d = (settleAll th).d
  a      : v.a = (settleAll th).a
  m      : v.m = (settleAll th).m
  f      : v.f = (settleAll th).f

theorem settleAll_svStat (th : Thread) (c : Cause) (tgt : Option Word) : (settleAll th).svStat c tgt = th.svStat c tgt := by
  obtain ⟨d, a, m, mp, f, ctl, hth, hcst⟩ := settleAll_frame th
  have hpwf : (settleAll th).pwf = th.pwf := by rw [hth]
  simp only [Thread.svStat, Thread.level, Thread.land, Thread.ie, hcst, hpwf]

/-- A thread stopped for an entry, whose save set is written. -/
def Thread.stopped (th : Thread) (i : Nat) (c : Cause) (pc : Word) (tgt : Option Word) (hold : Bool) : Thread :=
  quiesce (saveSet i c pc tgt hold th.long (settleAll th))

/-- A cause with what the reads of vector entries find. -/
def Cause.reading (c : Cause) (ecc : List EccHit) : Cause := { c with ecc := ecc }

theorem Thread.stopped_aside (th : Thread) (i : Nat) (c : Cause) (pc : Word) (tgt : Option Word) (hold : Bool) (p : Word)
    (d : Option Delay) (x : Option Nat) :
    (th.aside p d x).stopped i c pc tgt hold = (th.stopped i c pc tgt hold).aside p none x := by
  unfold Thread.stopped
  rw [settleAll_aside, show (th.aside p d x).long = th.long from rfl, saveSet_aside, quiesce_aside]

/-- A thread that takes its next request from CCLK n on (R287). -/
def Thread.sampling (th : Thread) (n : Nat) : Thread := { th with sampleAt := n }

/-- The thread at its handler. -/
def Thread.atHandler (th : Thread) (land : Bool) (level : Nat) (h : Word) (clk : Nat) : Thread :=
  { (th.setCreg 0x80 (cstatOf land level false)).setCreg 0x81 (BitVec.ofNat 32 (level + 4 * b2n land)) with
    pc := h, resume := clk + 18, fetFrom := clk + 15, entry := true }

theorem quiesce_of_no_pend {th : Thread} (h : th.pend = []) : quiesce th = { th.flush th.fetFrom with
    long := [], shadow := none, delay := none, seqx := false, skip := false, ieWas := none, fresh := [], recap := false, fillBuf := none
    spill := none } := by
  rw [quiesce, settleAll_of_no_pend (th := th.flush th.fetFrom) h]

/-- The thread holds its registers with every result complete, and the save set. -/
theorem Thread.stopped_frame (th : Thread) (i : Nat) (c : Cause) (pc : Word) (tgt : Option Word) (hold : Bool) :
    ∃ v, th.stopped i c pc tgt hold = v ∧ v.d = (settleAll th).d ∧ v.a = (settleAll th).a ∧ v.m = (settleAll th).m ∧
      v.f = (settleAll th).f ∧ v.sv i 0 = pc ∧ v.sv i 1 = BitVec.ofNat 32 (th.svStat c tgt) := by
  obtain ⟨save, hsave, hpc, hstat⟩ := saveSet_frame i c pc tgt hold th.long (settleAll th)
  rw [settleAll_svStat] at hstat
  have hpend : (saveSet i c pc tgt hold th.long (settleAll th)).pend = [] := by rw [hsave]; rfl
  have hstopped := quiesce_of_no_pend hpend
  rw [hsave] at hstopped
  exact ⟨_, (congrArg quiesce hsave).trans hstopped, rfl, rfl, rfl, rfl, hpc, hstat⟩

/-- A thread that was stopped for an entry and starts the handler has entered. -/
theorem Thread.atHandler_entered {th v : Thread} {c : Cause} {land : Bool} {level : Nat} {pc : Word} {tgt : Option Word} {hold : Bool}
    {p : Word} {d : Option Delay} {x : Option Nat} {n : Nat}
    (hv : v = ((th.stopped (setIdx land level) c pc tgt hold).aside p d x).sampling n) (h : Word) (clk : Nat) :
    (v.atHandler land level h clk).Entered th c land level pc tgt h clk := by
  obtain ⟨w, hw, hd, ha, hm, hf, hpc, hstat⟩ := th.stopped_frame (setIdx land level) c pc tgt hold
  rw [hw] at hv
  subst hv
  refine ⟨rfl, ?_, hpc, hstat, rfl, rfl, hd, ha, hm, hf⟩
  exact ((Thread.creg_setCreg _ 0x81 _ 0x80).trans (if_neg (by decide))).trans ((Thread.creg_setCreg _ 0x80 _ 0x80).trans (if_pos rfl))

/-! ## The entry -/

theorem State.entering_thread (s : State) (k : Fin 144) (t : Fin 4) (c : Cause) (land : Bool) (level : Nat) (pc : Word) (tgt : Option Word) :
    (s.entering k t c land level pc tgt).thread k t = (s.thread k t).stopped (setIdx land level) c pc tgt (s.holdsLb k t) :=
  State.thread_setThread _ _ _ _

theorem State.SameCode.entering (s : State) (k : Fin 144) (t : Fin 4) (c : Cause) (land : Bool) (level : Nat) (pc : Word)
    (tgt : Option Word) : s.SameCode k (s.entering k t c land level pc tgt) :=
  (State.SameCode.freeLb s k t).trans (.setThread _ _ _ _ _)

/-- An entry that finds a handler reads its vector entry without an uncorrectable error. -/
theorem ecc_of_handler? {s : State} {k : Fin 144} {t : Fin 4} {land : Bool} {level vec : Nat} {ecc : EccHit} {h : Word}
    (hh : s.handler? k t land level vec ecc = some h) (w : Fin 4) : ecc ≠ .ue w := by
  rintro rfl
  unfold State.handler? State.handler at hh
  split at hh <;> cases hh

/-- The entry to a world and level finds the handler that machine s finds. -/
theorem enterAt_of_handler {u : State} {k : Fin 144} {t : Fin 4} {land : Bool} {level vec : Nat} {ecc : List EccHit} {h : Word}
    (hecc : ∀ w, ecc.headD .ok ≠ .ue w)
    (hh : u.handler k (((u.thread k t).setCreg 0x80 (cstatOf land level false)).setCreg 0x81 (BitVec.ofNat 32 (level + 4 * b2n land))) land
      level vec (ecc.headD .ok) = .inl h) (n clk : Nat) :
    ∃ v : State, v.mem = u.mem ∧ enterAt k t vec (n + 1) ecc land level clk u = v.setThread k t ((u.thread k t).atHandler land level h clk) := by
  have hcode := State.SameCode.vectorEcc u k t (u.thread k t) land level vec hecc
  refine ⟨u.vectorEcc k t (u.thread k t) land level vec (ecc.headD .ok), hcode.mem, ?_⟩
  rw [← hcode.handler k.isLt] at hh
  unfold enterAt
  simp only [hh]
  rfl

/-- An entry writes the target set and stops the thread, then finds the handler; what the reads of vector entries find is not saved. -/
theorem enter_eq (k : Fin 144) (t : Fin 4) (c : Cause) (ecc : List EccHit) (land : Bool) (level : Nat) (pc : Word) (tgt : Option Word)
    (clk : Nat) (s : State) :
    enter k t (c.reading ecc) land level pc tgt clk s = enterAt k t c.vec 3 ecc land level clk ((freeLb k t s).setThread k t
      (((retireDue clk (s.thread k t)).stopped (setIdx land level) c pc tgt (s.holdsLb k t)).sampling
        (max (retireDue clk (s.thread k t)).sampleAt (clk + 1)))) := rfl

/-- An entry on machine u, whose thread and code are those of s, finds the handler that it finds on s, and its thread enters. -/
theorem enter_of_handler? {s u : State} {k : Fin 144} {t : Fin 4} {c : Cause} {land : Bool} {level : Nat} {pc : Word} {tgt : Option Word}
    {ecc : List EccHit} {p : Word} {d : Option Delay} {x : Option Nat} {h : Word} {clk : Nat} (hcode : s.SameCode k u)
    (hlb : u.holdsLb k t = s.holdsLb k t) (hth : u.thread k t = (s.thread k t).aside p d x)
    (hlong : ∀ o ∈ (s.thread k t).long, clk < o.due)
    (hh : (s.entering k t c land level pc tgt).handler? k t land level c.vec (ecc.headD .ok) = some h) :
    (enter k t (c.reading ecc) land level pc tgt clk u).mem = u.mem ∧
    ((enter k t (c.reading ecc) land level pc tgt clk u).thread k t).Entered (s.thread k t) c land level pc tgt h clk := by
  have hfresh : retireDue clk (u.thread k t) = (s.thread k t).aside p d x := by
    rw [hth]
    exact retireDue_of_later hlong
  rw [enter_eq, hfresh, hlb, Thread.stopped_aside]
  generalize hw : (((s.thread k t).stopped (setIdx land level) c pc tgt (s.holdsLb k t)).aside p none x).sampling _ = w
  have hleft := Sum.getLeft?_eq_some_iff.mp hh
  rw [s.entering_thread, (State.SameCode.entering s k t c land level pc tgt).handler k.isLt] at hleft
  have hcode' : s.SameCode k ((freeLb k t u).setThread k t w) := (hcode.trans (.freeLb u k t)).trans (.setThread _ _ _ _ _)
  have hthread : ((freeLb k t u).setThread k t w).thread k t = w := State.thread_setThread _ _ _ _
  obtain ⟨v, hmem, hv⟩ := enterAt_of_handler (u := (freeLb k t u).setThread k t w) (ecc := ecc) (ecc_of_handler? hh)
    (by rw [hthread, hcode'.handler k.isLt, ← hw]; exact hleft) 2 clk
  rw [hv, hthread, State.thread_setThread]
  exact ⟨hmem.trans (State.SameCode.freeLb u k t).mem, Thread.atHandler_entered hw.symm h clk⟩

end Sys2Proof.Machine
end

section
/-! What has retired by a CCLK in which no imprecise exception is due (spec/05_core_pipeline.md, R222; spec/06_exceptions_worlds.md, R253,
R269): every long operation in flight retires later. -/

namespace Sys2Proof.Machine

/-! ## Retirement -/

/-- One step of the retirement of long operations that are due. -/
def retireStep (th : Thread) (o : LongOp) : Thread :=
  if o.byZero then { retireOp o th with imprec := (retireOp o th).imprec ++ [o.imprec] } else retireOp o th

theorem retireDue_eq (clk : Nat) (th : Thread) : retireDue clk th = (th.long.filter (fun o => decide (o.due ≤ clk))).foldl retireStep th := rfl

/-- What has retired is no longer in flight, and a division by zero among it waits to be taken beside what waited. -/
theorem foldl_retireStep (l : List LongOp) (th : Thread) : ∃ long imprec pend,
    l.foldl retireStep th = { th with long := long, imprec := imprec, pend := pend } ∧ (∀ o ∈ long, o ∈ th.long ∧ o ∉ l) ∧
    (∀ e ∈ th.imprec, e ∈ imprec) ∧ ∀ o ∈ l, o.byZero = true → o.imprec ∈ imprec := by
  induction l generalizing th with
  | nil => exact ⟨th.long, th.imprec, th.pend, rfl, by simp, fun e he => he, by simp⟩
  | cons x l ih =>
    obtain ⟨long, imprec, pend, hfold, hlong, hold, hnew⟩ := ih (retireStep th x)
    have hstep : ∃ imprec pend, retireStep th x =
        { th with long := th.long.filter (fun o => decide (o ≠ x)), imprec := imprec, pend := pend } ∧
        (∀ e ∈ th.imprec, e ∈ imprec) ∧ (x.byZero = true → x.imprec ∈ imprec) := by
      unfold retireStep
      rw [retireOp_eq]
      cases x.byZero
      · exact ⟨th.imprec, _, rfl, fun e he => he, fun h => (nomatch h)⟩
      · exact ⟨th.imprec ++ [x.imprec], _, rfl, fun e he => List.mem_append_left _ he, fun _ => by simp⟩
    obtain ⟨imprec', pend', hx, hold', hnew'⟩ := hstep
    rw [hx] at hfold hlong hold
    refine ⟨long, imprec, pend, by rw [List.foldl_cons, hx, hfold], fun o ho => ?_, fun e he => hold e (hold' e he), fun o ho hz => ?_⟩
    · obtain ⟨hmem, hl⟩ := hlong o ho
      obtain ⟨hth, hne⟩ := List.mem_filter.mp hmem
      exact ⟨hth, by simp [hl, of_decide_eq_true hne]⟩
    · obtain rfl | ho := List.mem_cons.mp ho
      · exact hold _ (hnew' hz)
      · exact hnew o ho hz

theorem retireDue_frame (clk : Nat) (th : Thread) : ∃ long imprec pend,
    retireDue clk th = { th with long := long, imprec := imprec, pend := pend } ∧ (∀ o ∈ long, clk < o.due) ∧
    (∀ e ∈ th.imprec, e ∈ imprec) ∧ ∀ o ∈ th.long, o.due ≤ clk → o.byZero = true → o.imprec ∈ imprec := by
  obtain ⟨long, imprec, pend, hfold, hlong, hold, hnew⟩ := foldl_retireStep (th.long.filter (fun o => decide (o.due ≤ clk))) th
  refine ⟨long, imprec, pend, (retireDue_eq clk th).trans hfold, fun o ho => ?_, hold, fun o ho hdue => hnew o (by simp [ho, hdue])⟩
  obtain ⟨hmem, hdue⟩ := hlong o ho
  simpa [hmem] using hdue

/-! ## Imprecise exceptions -/

theorem foldl_isSome {α : Type} {f : Option α → α → Option α} (hf : ∀ m e, (f m e).isSome = true) {l : List α} (h : l ≠ [])
    (m : Option α) : (l.foldl f m).isSome = true := by
  obtain rfl | ⟨l, x, rfl⟩ := l.eq_nil_or_concat'
  · exact absurd rfl h
  · rw [List.foldl_concat]
    exact hf _ _

/-- Where no imprecise exception is due, all that wait come due later. -/
theorem imprecDue_eq_none {th : Thread} {clk : Nat} (h : th.imprecDue clk = none) {e : Imprec} (he : e ∈ th.imprec) : clk < e.due := by
  by_contra hdue
  have hne : th.imprec.filter (fun e => decide (e.due ≤ clk)) ≠ [] :=
    List.ne_nil_of_mem (List.mem_filter.mpr ⟨he, decide_eq_true (Nat.not_lt.mp hdue)⟩)
  refine absurd (foldl_isSome ?_ hne none) (by rw [← Thread.imprecDue, h]; decide)
  rintro (_ | x) e
  · rfl
  · dsimp only
    split <;> rfl

theorem foldl_min_mem (l : List Nat) (b : Nat) : l.foldl min b ≤ b ∧ (l.foldl min b = b ∨ l.foldl min b ∈ l) := by
  induction l generalizing b with
  | nil => exact ⟨le_rfl, .inl rfl⟩
  | cons x l ih =>
    obtain ⟨hle, h⟩ := ih (min b x)
    rw [List.foldl_cons, List.mem_cons]
    refine ⟨hle.trans (min_le_left b x), ?_⟩
    obtain h | h := h
    · rw [h]
      obtain h | h := min_choice b x
      · exact .inl h
      · exact .inr (.inl h)
    · exact .inr (.inr h)

/-- Where no imprecise exception is due once long operations have retired, all have retired that are due. -/
theorem stopAt_eq {th : Thread} {clk : Nat} (h : (retireDue (th.stopAt clk) th).imprecDue clk = none) : th.stopAt clk = clk := by
  obtain ⟨long, imprec, pend, hretire, -, hold, hnew⟩ := retireDue_frame (th.stopAt clk) th
  have hlater {e : Imprec} (he : e ∈ imprec) : clk < e.due := imprecDue_eq_none h (by rw [hretire]; exact he)
  unfold Thread.stopAt at hnew ⊢
  split
  · rfl
  next hentry =>
    rw [if_neg hentry] at hnew
    obtain ⟨hle, hmin⟩ := foldl_min_mem
      (th.imprec.map (fun e => e.due) ++ (th.long.filter (fun o => o.byZero)).map (fun o => o.due)) clk
    refine hmin.resolve_right fun hmin => ?_
    obtain hmin | hmin := List.mem_append.mp hmin
    · obtain ⟨e, he, hdue⟩ := List.mem_map.mp hmin
      have := hlater (hold e he)
      omega
    · obtain ⟨o, ho, hdue⟩ := List.mem_map.mp hmin
      obtain ⟨ho, hz⟩ := List.mem_filter.mp ho
      have : clk < o.due := hlater (hnew o ho hdue.le hz)
      omega

/-- Then every long operation in flight retires later. -/
theorem retireDue_stopAt_later {th : Thread} {clk : Nat} (h : (retireDue (th.stopAt clk) th).imprecDue clk = none) :
    ∀ o ∈ (retireDue (th.stopAt clk) th).long, clk < o.due := by
  obtain ⟨long, imprec, pend, hretire, hlong, -⟩ := retireDue_frame (th.stopAt clk) th
  rw [stopAt_eq h] at hretire hlong ⊢
  rw [hretire]
  exact hlong

theorem settle_frame (clk : Nat) (th : Thread) : (settle clk th).imprec = th.imprec ∧ (settle clk th).long = th.long := by
  obtain ⟨d, a, m, mp, f, ctl, hfold, -⟩ := foldl_write_frame (th.pend.filter (fun p => decide (p.due ≤ clk))) th
  rw [settle, hfold]
  exact ⟨rfl, rfl⟩

theorem State.resolveSkip_frame (s : State) (k clk : Nat) (th : Thread) :
    (s.resolveSkip k clk th).imprec = th.imprec ∧ (s.resolveSkip k clk th).long = th.long := by
  unfold State.resolveSkip
  split
  · split <;> exact ⟨rfl, rfl⟩
  · exact ⟨rfl, rfl⟩

theorem State.settled_later {s : State} {k t clk : Nat} (h : ((s.settled k t clk).thread k t).imprecDue clk = none) :
    ∀ o ∈ ((s.settled k t clk).thread k t).long, clk < o.due := by
  have hth : (s.settled k t clk).thread k t = _ := State.thread_setThread _ _ _ _
  obtain ⟨himprec, hlong⟩ := s.resolveSkip_frame k clk
    (settle ((s.thread k t).stopAt clk) (retireDue ((s.thread k t).stopAt clk) (s.thread k t)))
  obtain ⟨himprec', hlong'⟩ := settle_frame ((s.thread k t).stopAt clk) (retireDue ((s.thread k t).stopAt clk) (s.thread k t))
  rw [hth] at h ⊢
  rw [Thread.imprecDue, himprec, himprec', ← Thread.imprecDue] at h
  rw [hlong, hlong']
  exact retireDue_stopAt_later h

end Sys2Proof.Machine
end

section
/-! INTERRUPT_ENTRY where the core samples a request that the thread may take (spec/06_exceptions_worlds.md, R224, R246 to R248, R263, R264,
R267). -/

namespace Sys2Proof.Machine

/-! ## SVSTAT and CSTAT of an entry -/

theorem b2n_le_one (b : Bool) : b2n b ≤ 1 := by cases b <;> decide

/-- The fields of SVSTAT (Table 06-9): the prior level, world and ie, the vector, and info. -/
theorem svStat_fields (th : Thread) {c : Cause} (hvec : c.vec < 2 ^ 14) (hinfo : c.info < 1024) (tgt : Option Word) :
    fld (BitVec.ofNat 32 (th.svStat c tgt)) 0 4 = th.level + 4 * b2n th.land + 8 * b2n th.ie ∧
    fld (BitVec.ofNat 32 (th.svStat c tgt)) 8 14 = c.vec ∧ fld (BitVec.ofNat 32 (th.svStat c tgt)) 22 10 = c.info := by
  have hlevel : th.level < 4 := fld_two_lt _ _
  have hland := b2n_le_one th.land
  have hie := b2n_le_one th.ie
  have htgt := b2n_le_one tgt.isSome
  have himp := b2n_le_one c.imp
  have hdefer := b2n_le_one c.defer
  have hpwf := b2n_le_one th.pwf
  simp only [fld, Thread.svStat, BitVec.toNat_ofNat, Nat.shiftRight_eq_div_pow]
  omega

theorem Thread.Entered.cst {v th : Thread} {c : Cause} {land : Bool} {level : Nat} {pc : Word} {tgt : Option Word} {h : Word} {clk : Nat}
    (hv : v.Entered th c land level pc tgt h clk) (hlevel : level < 4) : v.land = land ∧ v.level = level ∧ v.ie = false := by
  obtain ⟨h2, h1, h3⟩ := cstatOf_fields land hlevel false
  rw [Thread.land, Thread.level, Thread.ie, hv.cstat]
  exact ⟨h1, h2, h3⟩

/-! ## Sampling -/

theorem endShadow_of_no_shadow {k : Fin 144} {t : Fin 4} {s : State} (h : (s.thread k t).shadow = none) (ecc : List EccHit) :
    endShadow k t ecc s = s := by
  simp only [endShadow, h]

/-- The requests that a thread may take are those of the machine with the same threads. -/
theorem State.takes_setThread_self (s : State) (k t : Nat) : (s.setThread k t (s.thread k t)).takes k t = s.takes k t := by
  have hthread (j g : Nat) : (s.setThread k t (s.thread k t)).thread j g = s.thread j g := by
    rw [State.thread_setThread_ite]
    split
    next hidx => rw [State.thread, State.thread, hidx]
    · rfl
  have hrequests (q : Nat) (land l2 : Bool) : (s.setThread k t (s.thread k t)).requests q t land l2 = s.requests q t land l2 := by
    unfold State.requests State.eligible
    rw [hthread]
    rfl
  unfold State.takes
  simp only [hthread, hrequests]
  rfl

theorem State.takes_level_lt {s : State} {k t : Nat} {w : Bool × Nat} (h : s.takes k t = some w) : w.2 < 4 := by
  unfold State.takes at h
  dsimp only at h
  replace h := (ite_eq_iff.mp h).resolve_left (fun hc => by cases hc.2) |>.2
  have hmem := List.mem_of_find?_eq_some h
  simp only [List.mem_cons, List.not_mem_nil, or_false] at hmem
  obtain rfl | rfl | rfl | rfl := hmem <;> decide

section
variable {s : State} {k : Fin 144} {t : Fin 4} {dt : Nat}

theorem State.sampled_thread (s : State) (k : Fin 144) (t : Fin 4) (dt : Nat) : (s.sampled k t dt).thread k t =
    retireDue (((advance k dt s).thread k t).stopAt ((advance k dt s).core k).clk) ((advance k dt s).thread k t) :=
  State.thread_setThread _ _ _ _

theorem State.sampled_running (h : s.threadRuns k t = true) : ((s.sampled k t dt).thread k t).running = true := by
  obtain ⟨long, imprec, pend, hretire, -⟩ :=
    retireDue_frame (((advance k dt s).thread k t).stopAt ((advance k dt s).core k).clk) ((advance k dt s).thread k t)
  simp only [State.threadRuns, Bool.and_eq_true] at h
  obtain ⟨⟨hrunning, -⟩, -⟩ := h
  rw [s.sampled_thread, hretire]
  exact (advance_congr k t dt s Thread.running).trans hrunning

theorem State.sampled_later (h : ((s.sampled k t dt).thread k t).imprec = []) :
    ∀ o ∈ ((s.sampled k t dt).thread k t).long, ((s.sampled k t dt).core k).clk < o.due := by
  rw [s.sampled_thread] at h ⊢
  refine retireDue_stopAt_later ?_
  rw [Thread.imprecDue, h]
  rfl

/-- A thread that nothing holds takes its request: it enters at its next bundle. -/
theorem interruptEntry_of_takes (hruns : s.threadRuns k t = true) (hskip : ((s.sampled k t dt).thread k t).skip = false)
    (hshadow : ((s.sampled k t dt).thread k t).shadow = none) (hfar : ((s.sampled k t dt).thread k t).far = [])
    (hsample : ((s.sampled k t dt).thread k t).sampleAt ≤ ((s.sampled k t dt).core k).clk)
    (himprec : ((s.sampled k t dt).thread k t).imprec = [])
    (hfault : (advance k dt s).faultsAt k t ((advance k dt s).core k).clk = false) {w : Bool × Nat}
    (hw : (s.sampled k t dt).takes k t = some w) (ecc : List EccHit) :
    interruptEntry k t dt ecc s = enter k t ((Cause.of 1).reading ecc) w.1 w.2 ((s.sampled k t dt).thread k t).pc
      ((s.sampled k t dt).thread k t).tgt ((s.sampled k t dt).core k).clk
      (((s.sampled k t dt).setThread k t ((s.sampled k t dt).thread k t)).setThread k t
        { (s.sampled k t dt).thread k t with took := some ((s.sampled k t dt).core k).clk }) := by
  have hrunning := State.sampled_running (dt := dt) hruns
  unfold interruptEntry
  rw [if_neg (by simp [hruns])]
  extract_lets s1 clk s2 th s3 th3 gate
  change th.skip = false at hskip
  change th.shadow = none at hshadow
  change th.far = [] at hfar
  change th.sampleAt ≤ clk at hsample
  change th.imprec = [] at himprec
  change s1.faultsAt k t clk = false at hfault
  change s2.takes k t = some w at hw
  change th.running = true at hrunning
  have hnow : s2.imprecNow k th clk = none := by
    rw [State.imprecNow, Thread.imprecDue, himprec]
    exact ite_self none
  have hopen : s2.skipOpen k th clk = false := by rw [State.skipOpen, hskip]; rfl
  have hnext : ({ th with pc := s2.nextPc k th, skip := false } : Thread) = th := by
    rw [State.nextPc, hskip, if_neg Bool.false_ne_true, ← hskip]
  have hs3 : s3 = s2.setThread k t th := by
    refine (congrArg (fun x => endShadow k t ecc (s2.setThread k t x)) hnext).trans (endShadow_of_no_shadow ?_ ecc)
    rw [State.thread_setThread, hshadow]
  have hth3 : th3 = th := by rw [show th3 = s3.thread k t from rfl, hs3, State.thread_setThread]
  have hgate : gate = false := by simp only [gate, hshadow]
  have htakes : s3.takes k t = some w := by rw [hs3, ← hw]; exact s2.takes_setThread_self k t
  rw [hnow]
  dsimp only
  rw [if_neg (by simp [hopen, hfault]), if_neg (by simp [hfar, hsample]), hth3, if_pos hrunning, htakes]
  dsimp only
  rw [if_pos hrunning, hgate, hs3]
  rfl

end

end Sys2Proof.Machine
end

section
/-! A TRAP at its thread's turn (spec/06_exceptions_worlds.md, R248, R263, R279, Tables 06-2 and 06-7), and the two entries together. -/

namespace Sys2Proof.Machine

/-! ## The bundle with a TRAP -/

theorem trapOf_map_snd {ops ops' : List (Nat × RawOp × TOp)} (h : ops.map Prod.snd = ops'.map Prod.snd) : trapOf ops = trapOf ops' := by
  have htrap (l : List (Nat × RawOp × TOp)) :
      trapOf l = (l.map Prod.snd).findSome? (fun e => match e.2 with | .trap n => some n | _ => none) := by
    rw [List.findSome?_map]
    rfl
  rw [htrap, h, ← htrap]

/-- What is left of BUNDLE_ISSUE at a thread's turn: the bundle that heads its queue. -/
theorem issueStep_of_ready {s : State} {k : Fin 144} {t : Fin 4} {i : IssueInfo} {raw : List RawOp} {len : Nat} {busy : List Nat} {ret : Word}
    (hruns : s.threadRuns k t = true) (h : IssueReady (s.atIssue k t i) k t i raw len busy ret) :
    issueStep k t i s = (tryIssue k t i busy (s.atIssue k t i)).map (afterFirst k t i.vec) := by
  unfold issueStep
  rw [if_neg (by simp [hruns])]
  extract_lets s0 clk s1 s2 th
  have hth : th = (s.atIssue k t i).thread k t := rfl
  have hs2 : s2 = s.atIssue k t i := rfl
  have hclk : clk = ((s.atIssue k t i).core k).clk := (congrArg CoreSt.clk (s.atIssue_core k t i k)).symm
  clear_value th s2 clk
  subst hth hs2 hclk
  simp only [h.imprecNow, h.workDrop, h.free, h.parityHit]

/-- The machine as a TRAP's bundle has issued on its core. -/
def State.trapIssued (s : State) (k : Fin 144) (t : Fin 4) (i : IssueInfo) (raw : List RawOp) (len : Nat) (busy : List Nat) : State :=
  ((s.codeRead k t i len).setCore k (((s.codeRead k t i len).core k).tookIssue t (s.core k).clk
    ((assignSlots (s.isT2 k) raw busy).getD []))).count k (aCoreIssue k) 1 (s.core k).clk

section
variable {s : State} {k : Fin 144} {t : Fin 4} {i : IssueInfo} {raw : List RawOp} {len : Nat} {busy : List Nat} {ret : Word}

theorem State.SameCode.trapIssued : s.SameCode k (s.trapIssued k t i raw len busy) :=
  ((State.SameCode.codeRead s k t i len).trans (.setCore _ (c := CoreSt.tookIssue _ _ _ _) rfl)).trans (.countIssue _ k 1 _)

theorem State.trapIssued_holdsLb (j : Nat) : (s.trapIssued k t i raw len busy).holdsLb k j = s.holdsLb k j := by
  unfold State.holdsLb State.trapIssued
  rw [State.count_core, State.core_setCore, if_pos rfl, show (CoreSt.tookIssue _ _ _ _).lb = ((s.codeRead k t i len).core k).lb from rfl,
    State.core, s.codeRead_cores, ← State.core]

theorem IssueReady.tryIssue_trap (h : IssueReady s k t i raw len busy ret) {n : Nat}
    (htrap : trapOf (liveOps (s.isT2 k) (s.thread k t) raw busy) = some n) :
    Machine.tryIssue k t i busy s = some (takeTrap (s.issueCtx k t i len ret) n (s.trapIssued k t i raw len busy)) := by
  unfold Machine.tryIssue
  simp only [h.look, h.turn, h.par, htrap]
  rfl

theorem raiseAt_of_target {u : State} {c : Cause} {pc : Word} {tgt : Option Word} {clk : Nat} {w : Bool × Nat}
    (hw : excTarget (u.thread k t).land (u.thread k t).level = some w) :
    raiseAt k t c pc tgt clk u = enter k t c w.1 w.2 pc tgt clk u := by
  simp only [raiseAt, hw]

end

/-- The cause of a TRAP (R279). -/
def Cause.trap (n : Nat) : Cause := { Cause.of 3 with info := n }

/-- A TRAP outside every shadow, loop and delay slot enters the target of its thread's state, to go on behind its bundle. -/
theorem takeTrap_eq {c : Ctx} (hshadow : c.th.shadow = none) (hdelay : c.th.delay = none) (hloops : c.th.loopsOpen c.pc) {w : Bool × Nat}
    (hw : excTarget c.th.land c.th.level = some w) (n : Nat) (u : State) :
    takeTrap c n u = enter c.k c.t ((Cause.trap n).reading c.i.vec) w.1 w.2 c.next none c.clk
      (u.setThread c.k c.t (c.th.aside c.next none c.th.took)) := by
  have hend : loopEnd c.th c.pc c.next [2, 1, 0] = (c.th, c.next, none, []) :=
    loopEnd_of_no_level fun m hm => hloops m (by simp at hm; omega)
  have hshadow' : ((u.setThread c.k c.t (c.th.aside c.next none c.th.took)).thread c.k c.t).shadow = none := by
    rw [State.thread_setThread]
    exact hshadow
  unfold takeTrap
  extract_lets th sh gate src cause s1 th1 r src' th1' s1'
  have hgate : gate = false := by simp only [gate, th, hshadow]
  have hsh : sh = false := by simp only [sh, th, hshadow, Option.isSome_none]
  have hth1 : th1' = c.th.aside c.next none c.th.took := by
    simp only [th1', th, Thread.tgt_of_delay hdelay, src', r, hend]
    rfl
  have hs1 : s1' = u.setThread c.k c.t (c.th.aside c.next none c.th.took) := by
    simp only [s1', hth1]
    exact endShadow_of_no_shadow hshadow' _
  have hc : cause = (Cause.trap n).reading c.i.vec := by
    simp only [cause, src, hgate, hsh, Bool.false_eq_true, if_false]
    rfl
  rw [if_neg (by simp [hgate]), hs1, hc, hth1]
  exact raiseAt_of_target (by rw [State.thread_setThread]; exact hw)

/-! ## The two entries -/

/-- INTERRUPT_ENTRY of a request that the thread may take enters for vector 1. -/
theorem interruptEntry_enters {s : State} {k : Fin 144} {t : Fin 4} {dt : Nat} {ecc : List EccHit} {w : Bool × Nat} {h : Word}
    (hruns : s.threadRuns k t = true) (hskip : ((s.sampled k t dt).thread k t).skip = false)
    (hshadow : ((s.sampled k t dt).thread k t).shadow = none) (hfar : ((s.sampled k t dt).thread k t).far = [])
    (hsample : ((s.sampled k t dt).thread k t).sampleAt ≤ ((s.sampled k t dt).core k).clk)
    (himprec : ((s.sampled k t dt).thread k t).imprec = [])
    (hfault : (advance k dt s).faultsAt k t ((advance k dt s).core k).clk = false) (hw : (s.sampled k t dt).takes k t = some w)
    (hh : ((s.sampled k t dt).entering k t (Cause.of 1) w.1 w.2 ((s.sampled k t dt).thread k t).pc
      ((s.sampled k t dt).thread k t).tgt).handler? k t w.1 w.2 1 (ecc.headD .ok) = some h) :
    (interruptEntry k t dt ecc s).mem = s.mem ∧ ((interruptEntry k t dt ecc s).thread k t).Entered ((s.sampled k t dt).thread k t)
      (Cause.of 1) w.1 w.2 ((s.sampled k t dt).thread k t).pc ((s.sampled k t dt).thread k t).tgt h ((s.sampled k t dt).core k).clk := by
  rw [interruptEntry_of_takes hruns hskip hshadow hfar hsample himprec hfault hw]
  obtain ⟨hmem, hentered⟩ := enter_of_handler? (s := s.sampled k t dt)
    (u := ((s.sampled k t dt).setThread k t ((s.sampled k t dt).thread k t)).setThread k t
      { (s.sampled k t dt).thread k t with took := some ((s.sampled k t dt).core k).clk })
    ((State.SameCode.setThread _ _ _ _ _).trans (.setThread _ _ _ _ _)) rfl (State.thread_setThread _ _ _ _)
    (State.sampled_later himprec) hh
  exact ⟨hmem.trans (advance_mem k dt s), hentered⟩

/-- Nothing more is taken behind an entry (R287). -/
theorem afterFirst_of_entry {k : Fin 144} {t : Fin 4} {s : State} (h : (s.thread k t).entry = true) (ecc : List EccHit) :
    afterFirst k t ecc s = s := by
  unfold afterFirst
  dsimp only
  split
  · rw [if_pos (by simp [h])]
  · rfl

theorem State.atIssue_later {s : State} {k : Fin 144} {t : Fin 4} {i : IssueInfo}
    (h : ((s.atIssue k t i).thread k t).imprecDue ((s.atIssue k t i).core k).clk = none) :
    ∀ o ∈ ((s.atIssue k t i).thread k t).long, ((s.atIssue k t i).core k).clk < o.due := by
  rw [s.atIssue_core k t i k] at h ⊢
  exact State.settled_later h

theorem excTarget_level_lt {land : Bool} {level : Nat} {w : Bool × Nat} (h : excTarget land level = some w) : w.2 < 4 := by
  unfold excTarget at h
  split at h <;> cases h <;> decide

/-- BUNDLE_ISSUE of a TRAP enters for vector 3, with its number in SVSTAT.info. -/
theorem trap_enters {s : State} {k : Fin 144} {t : Fin 4} {i : IssueInfo} {b : List RawOp × Nat} (hb : b ∈ s.bundleAt k t i)
    (hissues : s.issues k t i = true) {n : Nat}
    (hn : trapOf (liveOps ((s.atIssue k t i).isT2 k) ((s.atIssue k t i).thread k t) b.1) = some n) {w : Bool × Nat}
    (hw : excTarget ((s.atIssue k t i).thread k t).land ((s.atIssue k t i).thread k t).level = some w) {h : Word}
    (hh : ((s.atIssue k t i).entering k t (Cause.trap n) w.1 w.2
      (((s.atIssue k t i).thread k t).pc + BitVec.ofNat 32 b.2) none).handler? k t w.1 w.2 3 (i.vec.headD .ok) = some h) :
    ∃ u, exec (.bundleIssue k t i) s = .next u ∧ u.mem = s.mem ∧ (u.thread k t).Entered ((s.atIssue k t i).thread k t)
      (Cause.trap n) w.1 w.2 (((s.atIssue k t i).thread k t).pc + BitVec.ofNat 32 b.2) none h
      ((s.atIssue k t i).core k).clk := by
  obtain ⟨hruns, busy, ret, hready⟩ := State.issueReady_of_issues hb hissues
  have hstep := issueStep_of_ready hruns hready
  have hlater := State.atIssue_later hready.imprec
  have hmem : (s.atIssue k t i).mem = s.mem := s.atIssue_mem k t i
  generalize s.atIssue k t i = s' at hn hw hh hready hstep hlater hmem ⊢
  have htrap := (trapOf_map_snd (hready.liveOps_map_snd (s'.thread k t))).trans hn
  have htake : takeTrap (s'.issueCtx k t i b.2 ret) n (s'.trapIssued k t i b.1 b.2 busy) =
      enter k t ((Cause.trap n).reading i.vec) w.1 w.2 ((s'.thread k t).pc + BitVec.ofNat 32 b.2) none (s'.core k).clk
        ((s'.trapIssued k t i b.1 b.2 busy).setThread k t
          ((s'.thread k t).aside ((s'.thread k t).pc + BitVec.ofNat 32 b.2) none (s'.thread k t).took)) :=
    takeTrap_eq (c := s'.issueCtx k t i b.2 ret) hready.shadow hready.delay (fun m hm => .inl (hready.loops m hm)) hw n _
  rw [hready.tryIssue_trap htrap, htake] at hstep
  have hcode : s'.SameCode k (s'.trapIssued k t i b.1 b.2 busy) := .trapIssued
  obtain ⟨hmem', hentered⟩ := enter_of_handler? (c := Cause.trap n) (clk := (s'.core k).clk) (hcode.trans (.setThread _ k k t
    ((s'.thread k t).aside ((s'.thread k t).pc + BitVec.ofNat 32 b.2) none (s'.thread k t).took))) (State.trapIssued_holdsLb t)
    (State.thread_setThread _ k t _) hlater hh
  refine ⟨_, congrArg Host.Outcome.next (congrArg (·.getD s) hstep), ?_⟩
  rw [Option.map_some, Option.getD_some, afterFirst_of_entry hentered.entry]
  exact ⟨hmem'.trans (hcode.mem.trans hmem), hentered⟩

/-- Settles O15: an entry that finds its handler writes the save set from the thread as it was, and each clause reads off CSTAT, the save set
and the registers of the thread that has entered. -/
theorem entriesSaveAndRedirect : Obligations.EntriesSaveAndRedirect := by
  unfold Obligations.EntriesSaveAndRedirect
  refine ⟨fun s k t dt ecc hruns _ hskip hshadow hfar hsample himprec hfault w hw h hh => ?_,
    fun s k t i b hb hissues n hn hlt w hw h hh => ?_⟩
  · obtain ⟨hmem, hv⟩ := interruptEntry_enters hruns hskip hshadow hfar hsample himprec hfault hw hh
    obtain ⟨hland, hlevel, hie⟩ := hv.cst (State.takes_level_lt hw)
    obtain ⟨hprior, hvec, -⟩ := svStat_fields ((s.sampled k t dt).thread k t) (c := Cause.of 1) (by decide) (by decide)
      ((s.sampled k t dt).thread k t).tgt
    refine ⟨_, rfl, hv.goes, hland, hlevel, hie, hv.svpc, ?_, ?_, hv.resume, hv.d, hv.a, hv.m, hv.f, hmem⟩
    · exact (congrArg (fld · 0 4) hv.svstat).trans hprior
    · exact (congrArg (fld · 8 14) hv.svstat).trans hvec
  · obtain ⟨u, hexec, hmem, hv⟩ := trap_enters hb hissues hn hw hh
    obtain ⟨hland, hlevel, -⟩ := hv.cst (excTarget_level_lt hw)
    obtain ⟨-, hvec, hinfo⟩ := svStat_fields ((s.atIssue k t i).thread k t) (c := Cause.trap n) (by simp [Cause.trap, Cause.of]) hlt none
    refine ⟨u, hexec, hv.goes, hland, hlevel, hv.svpc, ?_, ?_, hv.d, hmem⟩
    · exact (congrArg (fld · 8 14) hv.svstat).trans hvec
    · exact (congrArg (fld · 22 10) hv.svstat).trans hinfo

end Sys2Proof.Machine
end

section
/-! The rows of the memory control (spec/07_memory.md, R302 to R333; spec/opcode_table.json rows ECC_WRITE_BACK to MEMC_UE_POP): they change
the memory control and the registers of its block, and a write-back beside them the Ferry channels that notice it (R366). -/

namespace Sys2Proof.Machine

/-! ## The memory control alone -/

/-- State t is s but for the memory control and the registers of the MEMC block. -/
def State.MemcOnly (s t : State) : Prop :=
  (∃ m r, t = { s with memc := m, regs := r }) ∧ ∀ a, a < 0x400B0000 ∨ 0x400C0000 ≤ a → t.reg a = s.reg a

section
variable {s t : State}

@[refl] theorem State.MemcOnly.refl (s : State) : s.MemcOnly s := ⟨⟨s.memc, s.regs, rfl⟩, fun _ _ => rfl⟩

theorem State.MemcOnly.memc (h : s.MemcOnly t) (m : MemCtl) : s.MemcOnly { t with memc := m } := by
  obtain ⟨⟨m', r, rfl⟩, hreg⟩ := h
  exact ⟨⟨m, r, rfl⟩, hreg⟩

theorem State.MemcOnly.setReg (h : s.MemcOnly t) {a : Nat} (hlo : 0x400B0000 ≤ a) (hhi : a < 0x400C0000) (v : Word) :
    s.MemcOnly (t.setReg a v) := by
  obtain ⟨⟨m, r, rfl⟩, hreg⟩ := h
  refine ⟨⟨m, _, rfl⟩, fun b hb => ?_⟩
  rw [State.reg_setReg, if_neg (by omega)]
  exact hreg b hb

theorem State.MemcOnly.orReg (h : s.MemcOnly t) {a : Nat} (hlo : 0x400B0000 ≤ a) (hhi : a < 0x400C0000) (v : Word) :
    s.MemcOnly (t.orReg a v) :=
  h.setReg hlo hhi _

/-- What every row of the memory control leaves as it is. -/
theorem State.MemcOnly.leaves (h : s.MemcOnly t) :
    t = { s with memc := t.memc, regs := t.regs, ferry := t.ferry } ∧ t.ferry = s.ferry ∧ (∀ a, t.byte a = s.byte a) ∧
      ∀ a, a < 0x400B0000 ∨ 0x400C0000 ≤ a → t.reg a = s.reg a := by
  obtain ⟨⟨m, r, rfl⟩, hreg⟩ := h
  exact ⟨rfl, rfl, fun _ => rfl, hreg⟩

end

/-! ## The rows -/

/-- A write-back changes the memory control, and the Ferry channels that notice it (R366). -/
theorem eccWriteBack_frame (a wait : Nat) (s : State) :
    ∃ m f, eccWriteBack a wait s = { s with memc := m, ferry := f } := by
  unfold eccWriteBack
  split
  · exact ⟨s.memc, s.ferry, rfl⟩
  · dsimp only
    split
    · exact ⟨_, s.ferry, rfl⟩
    · split
      · exact ⟨_, _, rfl⟩
      · exact ⟨s.memc, s.ferry, rfl⟩

theorem requestLift_memcOnly (id wait : Nat) (s : State) : s.MemcOnly (requestLift id wait s) := by
  unfold requestLift
  split
  · rfl
  · split
    · split
      · exact (State.MemcOnly.refl s).memc _
      · rfl
    · rfl

theorem localStarvation_memcOnly (k : Fin 144) (wait : Nat) (s : State) : s.MemcOnly (localStarvation k wait s) := by
  unfold localStarvation
  split
  · have hlo : 0x400B0000 ≤ aMemcLstarv k := by unfold aMemcLstarv; omega
    have hhi : aMemcLstarv k < 0x400C0000 := by unfold aMemcLstarv; omega
    exact (((State.MemcOnly.refl s).setReg hlo hhi _).setReg hlo hhi _).orReg (by decide) (by decide) _
  · rfl

theorem scrubPassStart_memcOnly (e : Nat) (s : State) : s.MemcOnly (scrubPassStart e s) := by
  unfold scrubPassStart
  split
  · exact ((State.MemcOnly.refl s).memc _).orReg (by decide) (by decide) _
  · exact (State.MemcOnly.refl s).memc _

theorem scrubPassEnd_memcOnly (e : Nat) (s : State) : s.MemcOnly (scrubPassEnd e s) := by
  unfold scrubPassEnd
  split
  · dsimp only
    split
    · exact (((State.MemcOnly.refl s).memc _).setReg (by decide) (by decide) _).orReg (by decide) (by decide) _
    · exact (State.MemcOnly.refl s).memc _
  · rfl

theorem State.setMemPwr_memcOnly (s : State) (u : Nat) (p : MemPwr) : s.MemcOnly (s.setMemPwr u p) := by
  unfold State.setMemPwr
  dsimp only
  split
  · exact ((State.MemcOnly.refl s).memc _).setReg (by decide) (by decide) _
  · exact (State.MemcOnly.refl s).memc _

theorem bankIdlePowerDown_memcOnly (u : Nat) (s : State) : s.MemcOnly (bankIdlePowerDown u s) := by
  unfold bankIdlePowerDown
  split
  · exact (s.setMemPwr_memcOnly u _).memc _
  · rfl

theorem State.popUe_memcOnly (s : State) : s.MemcOnly s.popUe := (State.MemcOnly.refl s).memc _

/-- Settles O22: a write-back changes the memory control and the Ferry channels alone, and every other row is one of the memory control
alone. -/
theorem memoryControlRowsLeaveTheRest : Obligations.MemoryControlRowsLeaveTheRest := by
  unfold Obligations.MemoryControlRowsLeaveTheRest
  intro s t c w id k x e u hc hex
  have hrow {v : State} (h : s.MemcOnly v) (hv : Host.Outcome.next (φ := Fault) (ρ := Refusal) v = .next t) :
      t = { s with memc := t.memc, regs := t.regs, ferry := t.ferry } ∧ (c ≠ .eccWriteBack ⟨w, x⟩ → t.ferry = s.ferry) ∧
        (∀ a, t.byte a = s.byte a) ∧ ∀ a, a < 0x400B0000 ∨ 0x400C0000 ≤ a → t.reg a = s.reg a := by
    obtain rfl := Host.Outcome.next.inj hv
    obtain ⟨hrest, hferry, hleft⟩ := h.leaves
    exact ⟨hrest, fun _ => hferry, hleft⟩
  simp only [List.mem_cons, List.not_mem_nil, or_false] at hc
  rcases hc with rfl | rfl | rfl | rfl | rfl | rfl | rfl
  · obtain rfl := Host.Outcome.next.inj hex
    obtain ⟨m, f, heq⟩ := eccWriteBack_frame w.toNat x s
    rw [heq]
    exact ⟨rfl, fun h => absurd rfl h, fun _ => rfl, fun _ _ => rfl⟩
  · exact hrow (requestLift_memcOnly id x s) hex
  · exact hrow (localStarvation_memcOnly k x s) hex
  · exact hrow (scrubPassStart_memcOnly e s) hex
  · exact hrow (scrubPassEnd_memcOnly e s) hex
  · exact hrow (bankIdlePowerDown_memcOnly u s) hex
  · exact hrow s.popUe_memcOnly hex

end Sys2Proof.Machine
end

section
/-! Scrubbing and the log of uncorrectable errors (spec/07_memory.md, R324, R325, R333). -/

namespace Sys2Proof.Machine

/-! ## Waking memory -/

@[simp] theorem State.setMemPwr_ue (s : State) (u : Nat) (p : MemPwr) : (s.setMemPwr u p).memc.ue = s.memc.ue := by
  simp [State.setMemPwr, apply_ite State.memc]

@[simp] theorem State.zeroUnit_ue (s : State) (u : Nat) : (s.zeroUnit u).memc.ue = s.memc.ue := by
  simp [State.zeroUnit, State.zero, apply_ite State.memc]

@[simp] theorem State.beginWake_ue (s : State) (u : Nat) : (s.beginWake u).memc.ue = s.memc.ue := by
  unfold State.beginWake
  split <;> simp

@[simp] theorem State.endWake_ue (s : State) (u : Nat) : (s.endWake u).memc.ue = s.memc.ue := by
  unfold State.endWake
  split <;> simp

@[simp] theorem State.markWoken_ue (s : State) (u : Nat) : (s.markWoken u).memc.ue = s.memc.ue := by
  simp [State.markWoken, apply_ite State.memc, apply_ite MemCtl.ue]

/-- A wake loses no entry of the log. -/
@[simp] theorem State.wakeSpan_ue (s : State) (a n : Nat) : (s.wakeSpan a n).memc.ue = s.memc.ue := by
  refine foldS_induction (P := fun v => v.memc.ue = s.memc.ue) (fun u v h => ?_) _ s rfl
  rw [← h]
  split
  · simp [State.wakeUnit]
  · rfl

/-! ## The log -/

theorem bit_or (v w : Word) (i : Nat) : bit (v ||| w) i = (bit v i || bit w i) := BitVec.getLsbD_or

/-- A log with room takes the error as its newest entry. -/
theorem State.logUe_of_room {s : State} (h : s.memc.ue.length < 8) (ini : Initiator) (k : FabKind) (a : Nat) :
    (s.logUe ini k a).memc.ue = s.memc.ue ++ [⟨a, s.ueSrc ini k a⟩] ∧ bit ((s.logUe ini k a).reg aMemcStat) 1 = true := by
  rw [State.logUe, if_pos h]
  refine ⟨rfl, ?_⟩
  rw [State.reg_orReg, if_pos rfl, bit_or, show bit (2 : Word) 1 = true from rfl, Bool.or_true]

/-- A full log keeps its entries and sets ue_ovf. -/
theorem State.logUe_of_full {s : State} (h : 8 ≤ s.memc.ue.length) (ini : Initiator) (k : FabKind) (a : Nat) :
    (s.logUe ini k a).memc.ue = s.memc.ue ∧ bit ((s.logUe ini k a).reg aMemcStat) 2 = true := by
  rw [State.logUe, if_neg (by omega)]
  refine ⟨rfl, ?_⟩
  rw [State.reg_orReg, if_pos rfl, bit_or, show bit (4 : Word) 2 = true from rfl, Bool.or_true]

/-- The machine as the scrubber reads the word at a: its bank has served it, its memory is awake, and the word counts as read. -/
def State.scrubAt (s : State) (e a b : Nat) : State :=
  let u := (s.served b 4 (Initiator.code .scrubber)).wakeSpan a 8
  { u with memc := { u.memc with scrub := smSet (fun _ => []) u.memc.scrub e (addSpan a (smGet (fun _ => []) u.memc.scrub e)) } }

@[simp] theorem State.scrubAt_ue (s : State) (e a b : Nat) : (s.scrubAt e a b).memc.ue = s.memc.ue :=
  (s.served b 4 (Initiator.code .scrubber)).wakeSpan_ue a 8

/-- An uncorrectable word that the scrubber reads at its turn, outside local memory, is logged. -/
theorem scrubWordRead_ue {s : State} {e a wait b : Nat} (hpass : s.memc.pass.contains e = true) (hcov : scrubCovers e a = true)
    (hword : a % 8 = 0) (hnew : s.scrubbed e a = false) (harb : s.arbAt a = some b)
    (hturn : s.fourTurn b (Initiator.code .scrubber) wait = true) (hslot : (regionOf a).bind Region.slot? = none) (x : Fin 4) :
    scrubWordRead e a ⟨.ue x, wait⟩ s = (s.scrubAt e a b).logUe .scrubber .load a := by
  simp only [scrubWordRead, hpass, hcov, hword, hnew, harb, hturn, and_self, if_true, scrubRead, hslot]
  rfl

/-- Settles O20: the scrubber logs what it finds, and the log has room for eight. -/
theorem uncorrectableErrorLog : Obligations.UncorrectableErrorLog := by
  unfold Obligations.UncorrectableErrorLog
  refine ⟨fun s e w x wait b hpass hcov hword hnew harb hturn hslot => ?_, fun s => ⟨rfl, fun hnil => ?_⟩⟩
  · refine ⟨_, congrArg Host.Outcome.next (scrubWordRead_ue hpass hcov hword hnew harb hturn hslot x), fun hroom => ?_, fun hfull => ?_⟩
    · obtain ⟨hue, hbit⟩ := State.logUe_of_room (s := s.scrubAt e w.toNat b) (by simpa using hroom) .scrubber .load w.toNat
      simp [hue, hbit]
    · obtain ⟨hue, hbit⟩ := State.logUe_of_full (s := s.scrubAt e w.toNat b) (by simpa using hfull) .scrubber .load w.toNat
      simp [hue, hbit]
  · have htail : s.memc.ue.tail = s.memc.ue := by rw [hnil, List.tail_nil]
    exact congrArg (fun l => Host.Outcome.next { s with memc := { s.memc with ue := l } }) htail

/-- A pass of the Reservoir engine whose record holds bytes 4 to 11: no run of words, which a pass never leaves. -/
def halfWordPass : State := { State.reset with memc := { MemCtl.reset with pass := [16], scrub := [(16, [(4, 12)])] } }

/-- Refutes O21: where the record of a pass begins within the word at 0, the scrubber's read of that word finds its second half in the record
and adds nothing, so the word does not count as read. Only a record that is no run of words does this. -/
theorem not_memoryControlRows : ¬ Obligations.MemoryControlRows := by
  unfold Obligations.MemoryControlRows
  rintro ⟨-, -, -, -, -, -, hscrub, -⟩
  obtain ⟨t, hex, -, -, hread, -⟩ := hscrub halfWordPass 16 0 [] 0 0 (by decide) (by decide) (by decide) (by decide) (by decide)
    (by decide) (by decide)
  obtain rfl := Host.Outcome.next.inj hex
  exact absurd hread (by decide)

end Sys2Proof.Machine
end

section
/-! What a beat on memory reaches and leaves (spec/07_memory.md, R292 to R296, R305, R321, R328): two machines on which every address leads to
the same memory, and what ECC does as a word is read. -/

namespace Sys2Proof.Machine

/-! ## Where addresses lead -/

/-- On machine u every address leads where it leads on s, the same memory is awake, the staging window is held alike and the same clocks run:
they may differ in memory, in requests and in the registers of memory control. -/
structure State.SameMap (s u : State) : Prop where
  reg   : ∀ a, a < 0x400B0000 ∨ 0x400D0000 ≤ a → u.reg a = s.reg a
  ddr   : u.memc.ddrCap = s.memc.ddrCap
  units : u.memc.pwr = s.memc.pwr
  pwr   : u.pwr = s.pwr
  phase : u.qfa.phase = s.qfa.phase
  cmd   : u.qfa.cmd = s.qfa.cmd

@[refl] theorem State.SameMap.refl (s : State) : s.SameMap s := ⟨fun _ _ => rfl, rfl, rfl, rfl, rfl, rfl⟩

section
variable {s u v : State} (h : s.SameMap u)
include h

theorem State.SameMap.trans (h' : u.SameMap v) : s.SameMap v :=
  ⟨fun a ha => (h'.reg a ha).trans (h.reg a ha), h'.ddr.trans h.ddr, h'.units.trans h.units, h'.pwr.trans h.pwr,
    h'.phase.trans h.phase, h'.cmd.trans h.cmd⟩

theorem State.SameMap.ownId : u.ownId = s.ownId := by
  rw [State.ownId, h.reg _ (by decide), State.ownId]

theorem State.SameMap.decodeAddr : u.decodeAddr = s.decodeAddr := by
  funext a
  rw [State.decodeAddr, h.ownId, State.decodeAddr]

theorem State.SameMap.plain : u.plain = s.plain := by
  funext a
  rw [State.plain, h.decodeAddr, State.plain]

theorem State.SameMap.inService {j : Nat} (hj : j < 144) : u.inService j = s.inService j := by
  rw [State.inService, h.reg _ (by unfold aBwtrCstat; omega), State.inService]

theorem State.SameMap.memOk (any : Bool) (r : Region) (a n : Nat) : u.memOk any r a n = s.memOk any r a n := by
  unfold State.memOk
  by_cases hr : regionOf (a + (n - 1)) = some r
  · congr 1
    cases r
    case data j => exact congrArg (any || ·) (h.inService (regionOf_slot_lt hr (.inl rfl)))
    case itcm j => exact congrArg (any || ·) (h.inService (regionOf_slot_lt hr (.inr rfl)))
    case ddr => exact congrArg (fun c => decide (a + n ≤ 0x1000000000 + c)) h.ddr
    all_goals rfl
  · simp [hr]

theorem State.SameMap.access (any store : Bool) (a n : Nat) : u.access any store a n = s.access any store a n := by
  rw [State.access, h.decodeAddr, State.access]
  cases s.decodeAddr a with
  | mem r b => dsimp only; rw [h.memOk]
  | mirror set r b => dsimp only; rw [h.memOk]
  | _ => rfl

theorem State.SameMap.beatLen (a n : Nat) : u.beatLen a n = s.beatLen a n := by
  rw [State.beatLen, h.decodeAddr, State.beatLen]

theorem State.SameMap.arbAt (a : Nat) : u.arbAt a = s.arbAt a := by
  rw [State.arbAt, h.decodeAddr, State.arbAt]

theorem State.SameMap.awake (t : Target) : u.awake t = s.awake t := by
  have hunit (k : Nat) : u.memPwr k = s.memPwr k := by rw [State.memPwr, h.units, State.memPwr]
  unfold State.awake
  simp only [hunit]

theorem State.SameMap.stagingHeld : u.stagingHeld = s.stagingHeld := by
  rw [State.stagingHeld, h.phase, h.cmd, State.stagingHeld]

theorem State.SameMap.fclkRuns : u.fclkRuns = s.fclkRuns := by
  rw [State.fclkRuns, State.locked, h.reg _ (by decide), h.pwr, State.fclkRuns, State.locked]

end

/-! ## Words that ECC corrects -/

/-- Machine u is s after ECC has corrected words as they were read: counted and flagged in the registers of memory control, they may wait
for a write-back. -/
def State.Corrected (s u : State) : Prop :=
  (∃ r w, u = { s with regs := r, memc := { s.memc with wb := w } }) ∧ ∀ a, a < 0x400B0000 ∨ 0x400D0000 ≤ a → u.reg a = s.reg a

@[refl] theorem State.Corrected.refl (s : State) : s.Corrected s := ⟨⟨s.regs, s.memc.wb, rfl⟩, fun _ _ => rfl⟩

section
variable {s u v : State}

theorem State.Corrected.trans (h : s.Corrected u) (h' : u.Corrected v) : s.Corrected v := by
  obtain ⟨⟨r, w, rfl⟩, hr⟩ := h
  obtain ⟨⟨r', w', rfl⟩, hr'⟩ := h'
  exact ⟨⟨r', w', rfl⟩, fun a ha => (hr' a ha).trans (hr a ha)⟩

theorem State.Corrected.setReg (h : s.Corrected u) {a : Nat} (hlo : 0x400B0000 ≤ a) (hhi : a < 0x400D0000) (x : Word) :
    s.Corrected (u.setReg a x) := by
  obtain ⟨⟨r, w, rfl⟩, hr⟩ := h
  refine ⟨⟨_, w, rfl⟩, fun b hb => ?_⟩
  rw [State.reg_setReg, if_neg (by omega)]
  exact hr b hb

theorem State.Corrected.orRegIf (h : s.Corrected u) {a : Nat} (hlo : 0x400B0000 ≤ a) (hhi : a < 0x400D0000) (c : Bool) (x : Word) :
    s.Corrected (u.orRegIf c a x) := by
  cases c
  · exact h
  · exact h.setReg hlo hhi _

theorem State.Corrected.wb (h : s.Corrected u) (w : List (Nat × Bool)) : s.Corrected { u with memc := { u.memc with wb := w } } := by
  obtain ⟨⟨r, w', rfl⟩, hr⟩ := h
  exact ⟨⟨r, w, rfl⟩, hr⟩

theorem State.countCe_corrected (s : State) (bw : Bool) (a : Nat) : s.Corrected (s.countCe bw a) := by
  unfold State.countCe
  extract_lets s1 s2
  have h2 : s.Corrected s2 := ((State.Corrected.refl s).setReg (by decide) (by decide) _).orRegIf (by decide) (by decide) _ _
  split
  · exact h2.wb _
  · exact h2

theorem ddrEcc_corrected (a : Nat) (s : State) : s.Corrected (ddrEcc a false s) :=
  ((State.Corrected.refl s).setReg (a := aDdrcCeCnt) (by decide) (by decide) _).orRegIf (by decide) (by decide) _ _

theorem foldS_corrected {α : Type} {f : α → State → State} (hf : ∀ x (s : State), s.Corrected (f x s)) (l : List α) (s : State) :
    s.Corrected (foldS f l s) :=
  foldS_induction (P := s.Corrected) (fun x v h => h.trans (hf x v)) l s (.refl s)

theorem State.countCes_corrected (s : State) (bw : Bool) (a n : Nat) (ws : List (Fin 4)) : s.Corrected (s.countCes bw a n ws) := by
  refine foldS_corrected (fun w v => ?_) ws s
  split
  · exact v.countCe_corrected bw _
  · rfl

theorem State.Corrected.sameMap (h : s.Corrected u) : s.SameMap u := by
  obtain ⟨⟨r, w, rfl⟩, hr⟩ := h
  exact ⟨hr, rfl, rfl, rfl, rfl, rfl⟩

theorem State.Corrected.mem (h : s.Corrected u) : u.mem = s.mem := by
  obtain ⟨⟨r, w, rfl⟩, -⟩ := h
  rfl

theorem State.Corrected.loadAt (h : s.Corrected u) (t : Target) (n : Nat) : u.loadAt t n = s.loadAt t n := by
  obtain ⟨⟨r, w, rfl⟩, -⟩ := h
  rfl

end

/-! ## A beat on memory -/

/-- What memory answers to a beat that meets no uncorrectable error. -/
def State.memAnswer (s : State) (ini : Initiator) (kind : FabKind) (t : Target) (b n : Nat) (data : List Byte) : State × FabSt :=
  if kind = .store then ((if ini = .loader then s.storeAt t data else (s.storeAt t data).touchStaging b n), .done [])
  else (s, .done (s.loadAt t n))

/-- A beat outside the held staging window that meets no uncorrectable error, or reads none of its words, is made. -/
theorem memBeat_made {ini : Initiator} {kind : FabKind} {ecc : EccHit} {part : Bool} {t : Target} {r : Region} {b n : Nat}
    {data : List Byte} {s : State} (hheld : kind = .store → s.stagingHeld = false)
    (hecc : ueHit ecc = false ∨ (kind = .store ∧ aliasAddr t = none ∧ part = false ∧ wholeWords b n = true)) :
    ∃ u, s.Corrected u ∧ memBeat ini kind ecc part t r b n data s = u.memAnswer ini kind t b n data := by
  unfold memBeat
  extract_lets store alias_ reads ddr hit s1
  have hue (w : Fin 4) : hit ≠ .ue w := by
    rcases hecc with hecc | ⟨rfl, halias, rfl, hwhole⟩
    · cases ecc with
      | ue x => cases hecc
      | _ => simp only [hit]; split <;> simp
    · have hreads : reads = false := by cases t <;> simp_all [reads, store, alias_, aliasAddr]
      simp [hit, hreads]
  have hs1 : s.Corrected s1 := by
    clear_value hit
    cases hit with
    | ce ws =>
      simp only [s1]
      split
      · refine foldS_corrected (fun w v => ?_) ws s
        split
        · exact ddrEcc_corrected _ v
        · rfl
      · exact s.countCes_corrected _ b n ws
    | _ => rfl
  have hanswer : (if store = true then
        if ini ≠ .loader ∧ s.stagingHeld = true ∧ s.inStaging b n = true then (s, FabSt.failed false)
        else (if ini = .loader then s1.storeAt t data else (s1.storeAt t data).touchStaging b n, .done [])
      else (s1, .done (s1.loadAt t n))) = s1.memAnswer ini kind t b n data := by
    unfold State.memAnswer
    by_cases hk : kind = .store
    · simp [store, hk, hheld hk]
    · simp [store, hk]
  clear_value hit s1
  refine ⟨s1, hs1, ?_⟩
  cases hit with
  | ue w => exact absurd rfl (hue w)
  | _ => exact hanswer

end Sys2Proof.Machine
end

section
/-! One beat of a request (spec/07_memory.md, R292 to R296, R305, R318, R319, R321, R323): what a load takes and a store leaves. -/

namespace Sys2Proof.Machine

/-! ## Bytes of memory -/

@[simp] theorem State.length_bytes (s : State) (a n : Nat) : (s.bytes a n).length = n := by
  induction n generalizing a with
  | zero => rfl
  | succ n ih => exact congrArg (· + 1) (ih (a + 1))

theorem State.getD_bytes (s : State) {n i : Nat} (h : i < n) (a : Nat) : (s.bytes a n).getD i 0 = s.byte (a + i) := by
  induction n generalizing a i with
  | zero => omega
  | succ n ih =>
    cases i with
    | zero => rfl
    | succ i =>
      rw [show a + (i + 1) = a + 1 + i by omega, ← ih (by omega) (a + 1)]
      rfl

theorem State.byte_of_mem {s u : State} (h : u.mem = s.mem) (a : Nat) : u.byte a = s.byte a := by
  rw [State.byte, h, State.byte]

theorem State.loadAt_of_held {t : Target} {b : Nat} (h : heldAddr t = some b) (s : State) (n : Nat) : s.loadAt t n = s.bytes b n := by
  cases t <;> cases h <;> rfl

theorem heldAddr_of_plain {t : Target} {b : Nat} (h : plainAddr t = some b) : heldAddr t = some b := by
  cases t <;> cases h
  rfl

theorem plainAddr_eq_some {t : Target} {b : Nat} : plainAddr t = some b ↔ ∃ r, t = .mem r b := by
  cases t <;> simp [plainAddr]

/-! ## What a store leaves -/

/-- What a beat on memory leaves beside memory: addresses lead where they led, and requests, links, ports and the host stand as they did. -/
structure State.BeatLeaves (s u : State) : Prop extends State.SameMap s u where
  reqs  : u.memc.reqs = s.memc.reqs
  links : u.links = s.links
  sap   : u.sap = s.sap
  pcie  : u.pcie = s.pcie

@[refl] theorem State.BeatLeaves.refl (s : State) : s.BeatLeaves s := ⟨.refl s, rfl, rfl, rfl, rfl⟩

theorem State.BeatLeaves.trans {s u v : State} (h : s.BeatLeaves u) (h' : u.BeatLeaves v) : s.BeatLeaves v :=
  ⟨h.toSameMap.trans h'.toSameMap, h'.reqs.trans h.reqs, h'.links.trans h.links, h'.sap.trans h.sap, h'.pcie.trans h.pcie⟩

theorem State.Corrected.beatLeaves {s u : State} (h : s.Corrected u) : s.BeatLeaves u := by
  have hmap := h.sameMap
  obtain ⟨⟨r, w, rfl⟩, -⟩ := h
  exact ⟨hmap, rfl, rfl, rfl, rfl⟩

theorem State.storeAt_beatLeaves (s : State) (t : Target) (bs : List Byte) : s.BeatLeaves (s.storeAt t bs) := by
  cases t <;> exact ⟨⟨fun _ _ => rfl, rfl, rfl, rfl, rfl, rfl⟩, rfl, rfl, rfl, rfl⟩

theorem State.touchStaging_beatLeaves (s : State) (a n : Nat) : s.BeatLeaves (s.touchStaging a n) := by
  unfold State.touchStaging
  split
  · exact ⟨⟨fun _ _ => rfl, rfl, rfl, rfl, rfl, rfl⟩, rfl, rfl, rfl, rfl⟩
  · rfl

@[simp] theorem State.touchStaging_mem (s : State) (a n : Nat) : (s.touchStaging a n).mem = s.mem := by
  simp [State.touchStaging, apply_ite State.mem]

theorem State.memAnswer_beatLeaves (s : State) (ini : Initiator) (kind : FabKind) (t : Target) (b n : Nat) (data : List Byte) :
    s.BeatLeaves (s.memAnswer ini kind t b n data).1 := by
  unfold State.memAnswer
  split
  · dsimp only
    split
    · exact s.storeAt_beatLeaves t data
    · exact (s.storeAt_beatLeaves t data).trans (State.touchStaging_beatLeaves _ b n)
  · rfl

theorem State.memAnswer_store_mem (s : State) (ini : Initiator) (t : Target) (b n : Nat) (data : List Byte) :
    (s.memAnswer ini .store t b n data).1.mem = (s.storeAt t data).mem := by
  simp [State.memAnswer, apply_ite State.mem]

/-! ## The beat of a request -/

/-- The bytes that the next beat of a request takes. -/
def State.nextLen (s : State) (q : FabReq) : Nat :=
  s.beatLen q.beatAddr (if decide (q.kind = .store) then q.len else q.len - q.data.length)

/-- What the next beat of a request reaches. -/
def State.nextTarget (s : State) (q : FabReq) : Target :=
  s.access (Initiator.anySlot q.ini) (decide (q.kind = .store)) q.beatAddr (s.nextLen q)

/-- What the next beat of a request is answered, once its memory is awake. -/
def State.nextAnswer (s : State) (q : FabReq) (ecc : EccHit) : State × FabSt :=
  match q.mask, s.nextTarget q with
  | none, _ => beat q.ini q.kind q.cst ecc false q.beatAddr (s.nextLen q) (q.data.take (s.nextLen q)) s
  | some be, .mem _ _ =>
    if decide (q.kind = .store) ∧ (List.range (s.nextLen q)).all (fun i => !be.testBit (q.beatAddr % 32 + i)) = true then (s, .done [])
    else beat q.ini q.kind q.cst ecc true q.beatAddr (s.nextLen q)
      (if decide (q.kind = .store) then s.merged (s.nextTarget q) q.beatAddr be (q.data.take (s.nextLen q)) else []) s
  | some _, _ => (s, .failed false)

/-- Machine u, on which the next beat of a request has been made, once the request has its answer. -/
def State.afterBeat (u : State) (q : FabReq) (n : Nat) : FabSt → State
  | .done bs => u.gathered q.id n bs
  | st => u.setReqSt q.id st

section
variable {q : FabReq} {ecc : EccHit} {s u : State}

theorem awake_of_asleep (h : asleep q s = false) : s.awake (s.nextTarget q) = true := by
  unfold State.nextTarget State.nextLen
  simpa [asleep] using h

theorem ownBeat_eq (hawake : asleep q s = false) (ecc : EccHit) :
    ownBeat q ecc s = (s.nextAnswer q ecc).1.afterBeat q (s.nextLen q) (s.nextAnswer q ecc).2 := by
  have hwake : ¬ (!s.awake (s.nextTarget q)) = true := by simp [awake_of_asleep hawake]
  exact (if_neg hwake).trans rfl

theorem ownBeat_of_done (hawake : asleep q s = false) {bs : List Byte} (h : s.nextAnswer q ecc = (u, .done bs)) :
    ownBeat q ecc s = u.gathered q.id (s.nextLen q) bs := by
  rw [ownBeat_eq hawake, h, State.afterBeat]

theorem ownBeat_of_failed (hawake : asleep q s = false) {ue : Bool} (h : s.nextAnswer q ecc = (u, .failed ue)) :
    ownBeat q ecc s = u.setReqSt q.id (.failed ue) := by
  rw [ownBeat_eq hawake, h, State.afterBeat]
  simp

/-- A beat that reaches memory is one of memory. -/
theorem beat_of_held {ini : Initiator} {kind : FabKind} {a n b : Nat} {t : Target}
    (ht : s.access (Initiator.anySlot ini) (decide (kind = .store)) a n = t) (hb : heldAddr t = some b) (cst : Nat) (ecc : EccHit)
    (part : Bool) (data : List Byte) : ∃ r, beat ini kind cst ecc part a n data s = memBeat ini kind ecc part t r b n data s := by
  unfold beat
  rw [ht]
  cases t with
  | mem r x => cases hb; exact ⟨r, rfl⟩
  | mirror m r x => cases hb; exact ⟨r, rfl⟩
  | _ => cases hb

/-- A beat that reaches memory, outside the held staging window, and meets no uncorrectable error or reads none of its words, is made. -/
theorem beat_made {b : Nat} {part : Bool} (hb : heldAddr (s.nextTarget q) = some b) (hheld : q.kind = .store → s.stagingHeld = false)
    (hecc : ueHit ecc = false ∨
      (q.kind = .store ∧ aliasAddr (s.nextTarget q) = none ∧ part = false ∧ wholeWords b (s.nextLen q) = true)) (data : List Byte) :
    ∃ u, s.Corrected u ∧ beat q.ini q.kind q.cst ecc part q.beatAddr (s.nextLen q) data s =
      u.memAnswer q.ini q.kind (s.nextTarget q) b (s.nextLen q) data := by
  obtain ⟨r, hr⟩ := beat_of_held (t := s.nextTarget q) rfl hb q.cst ecc part data
  rw [hr]
  exact memBeat_made hheld hecc

/-- A beat of a load that reaches awake memory and meets no uncorrectable error takes the bytes there (R319). -/
theorem ownBeat_load (hkind : q.kind ≠ .store) (hawake : asleep q s = false) (hue : ueHit ecc = false) {b : Nat}
    (hb : heldAddr (s.nextTarget q) = some b) (hmask : q.mask = none ∨ plainAddr (s.nextTarget q) = some b) :
    ∃ u, s.Corrected u ∧ ownBeat q ecc s = u.gathered q.id (s.nextLen q) (s.bytes b (s.nextLen q)) := by
  have hbeat (part : Bool) (data : List Byte) : ∃ u, s.Corrected u ∧
      beat q.ini q.kind q.cst ecc part q.beatAddr (s.nextLen q) data s = (u, .done (s.bytes b (s.nextLen q))) := by
    obtain ⟨u, hu, hmade⟩ := beat_made (part := part) hb (fun h => absurd h hkind) (.inl hue) data
    refine ⟨u, hu, ?_⟩
    rw [hmade, State.memAnswer, if_neg hkind, hu.loadAt, State.loadAt_of_held hb]
  cases hm : q.mask with
  | none =>
    obtain ⟨u, hu, hmade⟩ := hbeat false (q.data.take (s.nextLen q))
    refine ⟨u, hu, ownBeat_of_done hawake ?_⟩
    rw [State.nextAnswer, hm, hmade]
  | some be =>
    obtain ⟨r, hr⟩ := plainAddr_eq_some.mp (hmask.resolve_left (by simp [hm]))
    obtain ⟨u, hu, hmade⟩ := hbeat true []
    refine ⟨u, hu, ownBeat_of_done hawake ?_⟩
    simp only [State.nextAnswer, hm, hr, hkind, decide_false, Bool.false_eq_true, false_and, if_false, hmade]

/-- The bytes of a write with byte enables. -/
theorem State.getD_merged (s : State) {t : Target} {b : Nat} (ht : heldAddr t = some b) (a be : Nat) {data : List Byte} {i : Nat}
    (h : i < data.length) : (s.merged t a be data).getD i 0 = if be.testBit (a % 32 + i) then data.getD i 0 else s.byte (b + i) := by
  simp [State.merged, h, State.loadAt_of_held ht, ← s.getD_bytes h b]

theorem State.length_merged (s : State) (t : Target) (a be : Nat) (data : List Byte) : (s.merged t a be data).length = data.length := by
  simp [State.merged]

theorem State.beatLen_le (s : State) (a n : Nat) : s.beatLen a n ≤ n := Nat.min_le_left _ _

theorem FabReq.beatAddr_of_store (hkind : q.kind = .store) : q.beatAddr = q.addr := if_pos hkind

theorem State.nextLen_of_store (hkind : q.kind = .store) (s : State) : s.nextLen q = s.beatLen q.addr q.len := by
  simp [State.nextLen, hkind, FabReq.beatAddr_of_store hkind]

theorem State.length_nextData (hkind : q.kind = .store) (hlen : q.data.length = q.len) (s : State) :
    (q.data.take (s.nextLen q)).length = s.nextLen q := by
  rw [List.length_take, hlen, s.nextLen_of_store hkind]
  exact Nat.min_eq_left (s.beatLen_le q.addr q.len)

theorem getD_take {data : List Byte} {i n : Nat} (h : i < n) : (data.take n).getD i 0 = data.getD i 0 := by
  simp [List.getD_eq_getElem?_getD, h]

/-- A beat of a store that reaches memory plainly outside the held staging window, and meets no uncorrectable error or reads none of its words,
leaves its data there. -/
theorem beat_store (hkind : q.kind = .store) (hheld : s.stagingHeld = false) {b : Nat} (hb : plainAddr (s.nextTarget q) = some b)
    {part : Bool} (hecc : ueHit ecc = false ∨ (part = false ∧ wholeWords b (s.nextLen q) = true)) {data : List Byte}
    (hdata : data.length = s.nextLen q) :
    ∃ u, s.BeatLeaves u ∧ beat q.ini q.kind q.cst ecc part q.beatAddr (s.nextLen q) data s = (u, .done []) ∧
      ∀ a, u.byte a = if b ≤ a ∧ a < b + s.nextLen q then data.getD (a - b) 0 else s.byte a := by
  obtain ⟨r, hr⟩ := plainAddr_eq_some.mp hb
  have hreads : ueHit ecc = false ∨
      (q.kind = .store ∧ aliasAddr (s.nextTarget q) = none ∧ part = false ∧ wholeWords b (s.nextLen q) = true) :=
    hecc.imp_right fun h => ⟨hkind, by rw [hr]; rfl, h⟩
  obtain ⟨u, hu, hmade⟩ := beat_made (heldAddr_of_plain hb) (fun _ => hheld) hreads data
  refine ⟨_, hu.beatLeaves.trans (u.memAnswer_beatLeaves q.ini q.kind (s.nextTarget q) b (s.nextLen q) data), ?_, fun a => ?_⟩
  · rw [hmade, hkind]
    simp [State.memAnswer]
  · rw [hkind, State.byte_of_mem (u.memAnswer_store_mem ..), hr, u.byte_storeAt_mem, hdata, State.byte_of_mem hu.mem]

/-- A beat of a store that reaches awake memory plainly outside the held staging window, and meets no uncorrectable error or reads none of its
words, leaves the bytes that it enables equal to its data and every other byte as it was (R318, R323). -/
theorem ownBeat_store (hkind : q.kind = .store) (hlen : q.data.length = q.len) (hawake : asleep q s = false) (hheld : s.stagingHeld = false)
    {b : Nat} (hb : plainAddr (s.nextTarget q) = some b) (hecc : ueHit ecc = false ∨ (q.mask = none ∧ wholeWords b (s.nextLen q) = true)) :
    ∃ u, s.BeatLeaves u ∧ ownBeat q ecc s = u.gathered q.id (s.nextLen q) [] ∧ ∀ a, u.byte a =
      if b ≤ a ∧ a < b + s.nextLen q ∧ (∀ be ∈ q.mask, be.testBit (q.addr % 32 + (a - b)) = true) then q.data.getD (a - b) 0
      else s.byte a := by
  have hdata := s.length_nextData hkind hlen
  cases hm : q.mask with
  | none =>
    obtain ⟨u, hu, hmade, hbyte⟩ := beat_store hkind hheld hb (part := false) (hecc.imp_right fun h => ⟨rfl, h.2⟩) hdata
    refine ⟨u, hu, ownBeat_of_done hawake ?_, fun a => ?_⟩
    · rw [State.nextAnswer, hm, hmade]
    · rw [hbyte]
      by_cases h : b ≤ a ∧ a < b + s.nextLen q
      · rw [if_pos h, getD_take (by omega), if_pos ⟨h.1, h.2, by simp⟩]
      · rw [if_neg h, if_neg (fun h' => h ⟨h'.1, h'.2.1⟩)]
  | some be =>
    obtain ⟨r, hr⟩ := plainAddr_eq_some.mp hb
    have hue : ueHit ecc = false := hecc.resolve_right (by simp [hm])
    by_cases hnone : (List.range (s.nextLen q)).all (fun i => !be.testBit (q.beatAddr % 32 + i)) = true
    · refine ⟨s, .refl s, ownBeat_of_done hawake ?_, fun a => ?_⟩
      · simp only [State.nextAnswer, hm, hr, hkind, hnone, decide_true, and_self, if_true]
      · rw [if_neg]
        rintro ⟨hlo, hhi, hbe⟩
        have hoff := List.all_eq_true.mp hnone (a - b) (List.mem_range.mpr (by omega))
        rw [FabReq.beatAddr_of_store hkind, hbe be rfl] at hoff
        exact absurd hoff (by decide)
    · obtain ⟨u, hu, hmade, hbyte⟩ := beat_store hkind hheld hb (part := true) (.inl hue)
        (data := s.merged (s.nextTarget q) q.beatAddr be (q.data.take (s.nextLen q))) ((s.length_merged ..).trans hdata)
      refine ⟨u, hu, ownBeat_of_done hawake ?_, fun a => ?_⟩
      · rw [hr] at hmade
        simp only [State.nextAnswer, hm, hr, hkind, hnone, decide_true, and_false, Bool.false_eq_true, if_false, if_true] at hmade ⊢
        exact hmade
      · rw [hbyte]
        by_cases h : b ≤ a ∧ a < b + s.nextLen q
        · obtain ⟨hlo, hhi⟩ := h
          have hi : a - b < s.nextLen q := by omega
          rw [if_pos ⟨hlo, hhi⟩, s.getD_merged (heldAddr_of_plain hb) _ _ (hi.trans_eq hdata.symm), getD_take hi,
            FabReq.beatAddr_of_store hkind, show b + (a - b) = a by omega]
          simp [hlo, hhi]
        · rw [if_neg h, if_neg (fun h' => h ⟨h'.1, h'.2.1⟩)]

end

end Sys2Proof.Machine
end

section
/-! Requests at their banks and their answers (spec/07_memory.md, R299, R305, R307, R312, R314): FABRIC_ACCESS of a request that its bank grants,
and what follows the end of one. -/

namespace Sys2Proof.Machine

/-! ## Requests -/

theorem State.req?_of_map {s u : State} {f : FabReq → FabReq} (hu : u.memc.reqs = s.memc.reqs.map f) (hid : ∀ r, (f r).id = r.id)
    (id : Nat) : u.req? id = (s.req? id).map f := by
  rw [State.req?, hu, List.find?_map]
  simp only [Function.comp_def, hid]
  rfl

theorem State.reqSt?_of_req? {s : State} {id : Nat} {q : FabReq} (h : s.req? id = some q) : s.reqSt? id = some q.st := by
  rw [State.reqSt?, h]
  rfl

theorem State.id_of_req? {s : State} {id : Nat} {q : FabReq} (h : s.req? id = some q) : q.id = id := by
  simpa using List.find?_some h

theorem State.reqSt?_setReqSt (s : State) (id : Nat) (st : FabSt) : (s.setReqSt id st).reqSt? id = (s.reqSt? id).map (fun _ => st) := by
  have hreq := State.req?_of_map (s := s) (u := s.setReqSt id st) rfl (fun r => by split <;> rfl) id
  rw [State.reqSt?, hreq, State.reqSt?]
  cases hq : s.req? id with
  | none => rfl
  | some q => simp [State.id_of_req? hq]

/-- A load that has all its bytes is answered with them. -/
theorem State.reqSt?_gathered_load {s : State} {id : Nat} {q : FabReq} (hq : s.req? id = some q) (hkind : q.kind ≠ .store) (n : Nat)
    {bs : List Byte} (hlen : q.len ≤ (q.data ++ bs).length) : (s.gathered id n bs).reqSt? id = some (.done (q.data ++ bs)) := by
  have hid := State.id_of_req? hq
  rw [State.reqSt?, State.req?_of_map (s := s) (u := s.gathered id n bs) rfl (fun r => by split_ifs <;> rfl) id, hq]
  rw [List.length_append] at hlen
  simp [hid, hkind, Nat.not_lt.mpr hlen]

/-! ## The bank -/

/-- Machine s once the bank of a request, where it has one, has been reached and has served it. -/
def State.atBank (s : State) (q : FabReq) (late : List Nat) : State :=
  match s.arbAt q.beatAddr with
  | none => s
  | some b => (s.arrive b late).served b q.cls (Initiator.code q.ini)

section
variable (s : State) (q : FabReq) (late : List Nat)

theorem State.atBank_frame : ∃ rs tn, s.atBank q late = { s with memc := { s.memc with reqs := rs, turn := tn } } := by
  unfold State.atBank
  split
  · exact ⟨s.memc.reqs, s.memc.turn, rfl⟩
  · exact ⟨_, _, rfl⟩

/-- The bank marks requests as having reached it. -/
theorem State.atBank_reqs : ∃ here : FabReq → Bool, (s.atBank q late).memc.reqs = s.memc.reqs.map fun r => { r with here := here r } := by
  unfold State.atBank
  split
  · exact ⟨FabReq.here, (List.map_id _).symm⟩
  next b _ =>
    refine ⟨fun r => !late.contains r.id && decide (s.arbAt r.beatAddr = some b) || r.here, List.map_congr_left fun r _ => ?_⟩
    dsimp only
    cases !late.contains r.id && decide (s.arbAt r.beatAddr = some b) <;> rfl

theorem State.atBank_sameMap : s.SameMap (s.atBank q late) := by
  obtain ⟨rs, tn, h⟩ := s.atBank_frame q late
  rw [h]
  exact ⟨fun _ _ => rfl, rfl, rfl, rfl, rfl, rfl⟩

@[simp] theorem State.atBank_mem : (s.atBank q late).mem = s.mem := by
  obtain ⟨rs, tn, h⟩ := s.atBank_frame q late
  rw [h]

@[simp] theorem State.atBank_sap : (s.atBank q late).sap = s.sap := by
  obtain ⟨rs, tn, h⟩ := s.atBank_frame q late
  rw [h]

end

/-- A request granted is one whose beat comes about: it is answered what its bank makes of the beat (R314). -/
theorem fabricAccess_of_grants {s : State} {id : Nat} {g : GrantInfo} {q : FabReq} (hg : s.grants id g = true) (hq : s.req? id = some q)
    (hown : ∀ m a, s.decodeAddr q.addr ≠ .remote m a) :
    asleep q s = false ∧ fabricAccess id g s = afterAnswer id (ownBeat q g.ecc (s.atBank q g.late)) := by
  simp only [State.grants, hq, Bool.and_eq_true, Bool.or_eq_true, decide_eq_true_eq, Bool.not_eq_true'] at hg
  obtain ⟨⟨⟨⟨hclk, hst⟩, holder⟩, hawake⟩, hbank⟩ := hg
  refine ⟨hawake, ?_⟩
  have hgo : ¬ (s.fclkRuns = false ∨ (q.st ≠ .waiting ∧ q.st ≠ .lifted) ∨ s.olderOpen q = true) := by
    rw [hclk, holder]
    rcases hst with hst | hst <;> simp [hst]
  unfold fabricAccess State.atBank
  simp only [hq, if_neg hgo]
  split
  next hdec => exact absurd hdec (hown _ _)
  next harb _ => simp only [harb]
  next b harb _ =>
    simp only [harb, decide_eq_true_eq] at hbank
    simp only [harb, hawake, Bool.false_eq_true, if_false, hbank, if_true]

/-! ## What follows the end of a request -/

/-- Slots of a port that wait for the data of a request take them (R498). -/
def slotTakes (id : Nat) (s : State) : State :=
  match s.sap.gets.find? (fun g => decide (g.id = id) && decide (g.kind = 1)) with
  | some g => if (s.port g.port).await.isEmpty then s else sapLate g.port s
  | none => s

/-- The request of another member that a request serves is answered (R525). -/
def memberAnswered (id : Nat) (st : FabSt) (s : State) : State :=
  match s.servingOf id with
  | some (n, wr, b) => servedEnd n wr b st (s.onLink n (fun l => { l with serving := l.serving.filter (fun x => decide (x.1 ≠ id)) }))
  | none => s

/-- The host's request goes on after the beat that a request makes (R558). -/
def hostGoesOn (id : Nat) (st : FabSt) (s : State) : State :=
  if (s.pcie.ops.head?.bind (fun o => o.cur)) = some id then hostBeatEnd (match st with | .done bs => some bs | _ => none) s else s

/-- All that the end of a request brings about beside the request itself, where no write of an input route waits for it. -/
def answered (id : Nat) (st : FabSt) (s : State) : State := hostGoesOn id st (memberAnswered id st (slotTakes id s))

theorem afterAnswer_of_open {s : State} {id : Nat} (h : ∀ st ∈ s.reqSt? id, st.open_ = true) : afterAnswer id s = s := by
  unfold afterAnswer
  cases hst : s.reqSt? id with
  | none => rfl
  | some st => exact if_pos (h st hst)

theorem afterAnswer_of_ended {s : State} {id : Nat} {st : FabSt} (hst : s.reqSt? id = some st) (hend : st.open_ = false)
    (hputs : s.sap.puts.all (fun p => decide (p.id ≠ id)) = true) :
    afterAnswer id s = if (answered id st s).awaited id then answered id st s else (answered id st s).dropReq id := by
  have hput : s.sap.puts.find? (fun p => decide (p.id = id) && decide (p.kind = 2)) = none := by
    rw [List.find?_eq_none]
    intro p hp
    have hne := List.all_eq_true.mp hputs p hp
    simp_all
  unfold afterAnswer
  simp only [hst, hend, Bool.false_eq_true, if_false, hput]
  rfl

/-- What the end of a request leaves as it is: memory, and all that can wait for an answer; no request goes. -/
structure State.EndLeaves (s u : State) : Prop where
  mem     : u.mem = s.mem
  threads : u.threads = s.threads
  ferry   : u.ferry = s.ferry
  gets    : u.sap.gets = s.sap.gets
  puts    : u.sap.puts = s.sap.puts
  reqs    : ∃ rs, u.memc.reqs = s.memc.reqs ++ rs

@[refl] theorem State.EndLeaves.refl (s : State) : s.EndLeaves s := ⟨rfl, rfl, rfl, rfl, rfl, [], (List.append_nil _).symm⟩

section
variable {s u v : State} (h : s.EndLeaves u)
include h

theorem State.EndLeaves.trans (h' : u.EndLeaves v) : s.EndLeaves v := by
  obtain ⟨rs, hrs⟩ := h.reqs
  obtain ⟨rs', hrs'⟩ := h'.reqs
  exact ⟨h'.mem.trans h.mem, h'.threads.trans h.threads, h'.ferry.trans h.ferry, h'.gets.trans h.gets, h'.puts.trans h.puts,
    rs ++ rs', by rw [hrs', hrs, List.append_assoc]⟩

theorem State.EndLeaves.req? {id : Nat} {q : FabReq} (hq : s.req? id = some q) : u.req? id = some q := by
  obtain ⟨rs, hrs⟩ := h.reqs
  rw [State.req?, hrs, List.find?_append, ← State.req?, hq]
  rfl

theorem State.EndLeaves.awaited {id : Nat} (ha : s.awaited id = true) : u.awaited id = true := by
  obtain ⟨rs, hrs⟩ := h.reqs
  simp only [State.awaited, State.waitsFor, Bool.or_eq_true] at ha ⊢
  rw [h.threads, h.ferry, h.gets, h.puts, hrs, List.any_append, Bool.or_eq_true]
  exact ha.imp_right .inl

end

theorem State.setReg_endLeaves (s : State) (a : Nat) (v : Word) : s.EndLeaves (s.setReg a v) :=
  ⟨rfl, rfl, rfl, rfl, rfl, [], (List.append_nil _).symm⟩

theorem State.onPort_endLeaves (s : State) (n : Nat) (f : SapPort → SapPort) : s.EndLeaves (s.onPort n f) :=
  ⟨rfl, rfl, rfl, rfl, rfl, [], (List.append_nil _).symm⟩

theorem State.onLink_endLeaves (s : State) (n : Nat) (f : Link → Link) : s.EndLeaves (s.onLink n f) :=
  ⟨rfl, rfl, rfl, rfl, rfl, [], (List.append_nil _).symm⟩

theorem State.withPcie_endLeaves (s : State) (p : Pcie) : s.EndLeaves { s with pcie := p } :=
  ⟨rfl, rfl, rfl, rfl, rfl, [], (List.append_nil _).symm⟩

theorem sapLateSlot_endLeaves (n j : Nat) (s : State) : s.EndLeaves (sapLateSlot n j s) := by
  unfold sapLateSlot
  dsimp only
  split
  · exact ((s.onPort_endLeaves n _).trans (State.setReg_endLeaves _ _ _)).trans (State.setReg_endLeaves _ _ _)
  · split
    · rfl
    · exact s.onPort_endLeaves n _

theorem slotTakes_endLeaves (id : Nat) (s : State) : s.EndLeaves (slotTakes id s) := by
  unfold slotTakes
  split
  · split
    · rfl
    · exact foldS_induction (P := s.EndLeaves) (fun j v h => h.trans (sapLateSlot_endLeaves _ j v)) _ s (.refl s)
  · rfl

theorem serveEnd_endLeaves (n : Nat) (wr : Bool) (b : List Byte) (status : Nat) (data : List Byte) (s : State) :
    s.EndLeaves (serveEnd n wr b status data s) := by
  unfold serveEnd answer
  exact s.onLink_endLeaves n _

theorem servedEnd_endLeaves (n : Nat) (wr : Bool) (b : List Byte) (st : FabSt) (s : State) : s.EndLeaves (servedEnd n wr b st s) := by
  unfold servedEnd
  dsimp only
  split <;> exact serveEnd_endLeaves n wr b _ _ s

theorem memberAnswered_endLeaves (id : Nat) (st : FabSt) (s : State) : s.EndLeaves (memberAnswered id st s) := by
  unfold memberAnswered
  split
  · exact (s.onLink_endLeaves _ _).trans (servedEnd_endLeaves _ _ _ _ _)
  · rfl

theorem hostFlow_endLeaves (n : Nat) (s : State) : s.EndLeaves (hostFlow n s) := by
  induction n generalizing s with
  | zero => rfl
  | succ n ih =>
    unfold hostFlow
    split
    · rfl
    · split
      · rfl
      · exact ⟨rfl, rfl, rfl, rfl, rfl, _, rfl⟩
      · refine State.EndLeaves.trans ?_ (ih _)
        split
        · exact s.withPcie_endLeaves _
        · exact s.withPcie_endLeaves _

theorem hostGoesOn_endLeaves (id : Nat) (st : FabSt) (s : State) : s.EndLeaves (hostGoesOn id st s) := by
  unfold hostGoesOn
  split
  · unfold hostBeatEnd
    split
    · rfl
    · exact (s.withPcie_endLeaves _).trans (hostFlow_endLeaves _ _)
  · rfl

theorem answered_endLeaves (id : Nat) (st : FabSt) (s : State) : s.EndLeaves (answered id st s) :=
  ((slotTakes_endLeaves id s).trans (memberAnswered_endLeaves id st _)).trans (hostGoesOn_endLeaves id st _)

/-- The end of a request that something waits for leaves its answer, and what waits for it, as they are. -/
theorem afterAnswer_of_awaited {s : State} {id : Nat} {st : FabSt} (hst : s.reqSt? id = some st) (hend : st.open_ = false)
    (hputs : s.sap.puts.all (fun p => decide (p.id ≠ id)) = true) (ha : s.awaited id = true) :
    (afterAnswer id s).reqSt? id = some st ∧ (afterAnswer id s).mem = s.mem := by
  have hleaves := answered_endLeaves id st s
  rw [afterAnswer_of_ended hst hend hputs, if_pos (hleaves.awaited ha)]
  obtain ⟨q, hq, rfl⟩ := Option.map_eq_some_iff.mp hst
  exact ⟨State.reqSt?_of_req? (hleaves.req? hq), hleaves.mem⟩

theorem afterAnswer_mem {s : State} {id : Nat} (hputs : s.sap.puts.all (fun p => decide (p.id ≠ id)) = true) :
    (afterAnswer id s).mem = s.mem := by
  cases hst : s.reqSt? id with
  | none => rw [afterAnswer_of_open (by simp [hst])]
  | some st =>
    cases hend : st.open_ with
    | true => rw [afterAnswer_of_open (by simp [hst, hend])]
    | false =>
      rw [afterAnswer_of_ended hst hend hputs]
      split
      · exact (answered_endLeaves id st s).mem
      · exact (answered_endLeaves id st s).mem

end Sys2Proof.Machine
end

section
/-! FABRIC_ACCESS on memory (spec/07_memory.md, R292, R293, R299, R307, R312, R314, R318, R319, R321; spec/17_clocks_power.md, R634). -/

namespace Sys2Proof.Machine

/-! ## A request as its bank serves it -/

section
variable {s : State} {id : Nat} {g : GrantInfo} {q : FabReq}

/-- The request at its bank is the request itself, now marked as having reached it. -/
theorem State.atBank_req? (hq : s.req? id = some q) (p : FabReq) (late : List Nat) :
    ∃ here, (s.atBank p late).req? id = some { q with here := here } := by
  obtain ⟨f, hf⟩ := s.atBank_reqs p late
  exact ⟨f q, by rw [State.req?_of_map hf (fun _ => rfl), hq]; rfl⟩

theorem State.atBank_reqSt? (p : FabReq) (late : List Nat) : (s.atBank p late).reqSt? id = s.reqSt? id := by
  obtain ⟨f, hf⟩ := s.atBank_reqs p late
  rw [State.reqSt?, State.req?_of_map hf (fun _ => rfl), Option.map_map]
  rfl

/-- Changes of requests that keep their numbers and initiators leave what waits for an answer as it is. -/
theorem State.awaited_mapReqs (s : State) {f : FabReq → FabReq} (hid : ∀ r, (f r).id = r.id) (hini : ∀ r, (f r).ini = r.ini) :
    State.awaited { s with memc := { s.memc with reqs := s.memc.reqs.map f } } id = s.awaited id := by
  simp only [State.awaited, List.any_map, Function.comp_def, hid, hini]
  rfl

theorem State.atBank_awaited (p : FabReq) (late : List Nat) : (s.atBank p late).awaited id = s.awaited id := by
  obtain ⟨f, hf⟩ := s.atBank_reqs p late
  obtain ⟨rs, tn, h⟩ := s.atBank_frame p late
  rw [h] at hf ⊢
  rw [← s.awaited_mapReqs (f := fun r => { r with here := f r }) (fun _ => rfl) (fun _ => rfl), ← hf]
  rfl

theorem State.gathered_awaited (n : Nat) (bs : List Byte) : (s.gathered id n bs).awaited id = s.awaited id :=
  s.awaited_mapReqs (fun r => by split_ifs <;> rfl) (fun r => by split_ifs <;> rfl)

theorem State.setReqSt_awaited (st : FabSt) : (s.setReqSt id st).awaited id = s.awaited id :=
  s.awaited_mapReqs (fun r => by split <;> rfl) (fun r => by split <;> rfl)

theorem State.Corrected.awaited {u : State} (h : s.Corrected u) : u.awaited id = s.awaited id := by
  obtain ⟨⟨r, w, rfl⟩, -⟩ := h
  rfl

theorem State.SameMap.nextLen {u : State} (h : s.SameMap u) (q : FabReq) : u.nextLen q = s.nextLen q := h.beatLen _ _

theorem State.SameMap.nextTarget {u : State} (h : s.SameMap u) (q : FabReq) : u.nextTarget q = s.nextTarget q := by
  rw [State.nextTarget, h.nextLen, h.access, State.nextTarget]

theorem State.SameMap.asleep {u : State} (h : s.SameMap u) (q : FabReq) : asleep q u = asleep q s := by
  unfold Machine.asleep
  rw [h.beatLen, h.access, h.awake]

/-- What reaches memory is no address of another member. -/
theorem State.ne_remote_of_access {any store : Bool} {a n : Nat} {t : Target} (ht : s.access any store a n = t)
    (hnot : ∀ m b, t ≠ .remote m b) (m b : Nat) : s.decodeAddr a ≠ .remote m b := by
  intro hdec
  exact hnot m b (by rw [← ht, State.access, hdec])

theorem ne_remote_of_held {t : Target} {b : Nat} (h : heldAddr t = some b) (m c : Nat) : t ≠ .remote m c := by
  rintro rfl
  cases h

theorem FabReq.beatAddr_of_nil (h : q.data = []) : q.beatAddr = q.addr := by simp [FabReq.beatAddr, h]

end

/-! ## The clauses -/

section
variable {s : State} {id : Nat} {g : GrantInfo} {q : FabReq} (hg : s.grants id g = true) (hq : s.req? id = some q)
  (hputs : s.sap.puts.all (fun p => decide (p.id ≠ id)) = true)
include hg hq hputs

theorem fabricAccess_store (hkind : q.kind = .store) (hlen : q.data.length = q.len) {b : Nat}
    (hb : plainAddr (s.access (Initiator.anySlot q.ini) true q.addr (s.beatLen q.addr q.len)) = some b) (hheld : s.stagingHeld = false)
    (hecc : ueHit g.ecc = false ∨ (q.mask = none ∧ wholeWords b (s.beatLen q.addr q.len) = true)) (a : Nat) :
    (fabricAccess id g s).byte a = if b ≤ a ∧ a < b + s.beatLen q.addr q.len ∧
      (∀ be ∈ q.mask, be.testBit (q.addr % 32 + (a - b)) = true) then q.data.getD (a - b) 0 else s.byte a := by
  have hnext : s.nextTarget q = s.access (Initiator.anySlot q.ini) true q.addr (s.beatLen q.addr q.len) := by
    rw [State.nextTarget, s.nextLen_of_store hkind, FabReq.beatAddr_of_store hkind, hkind]
    rfl
  obtain ⟨hawake, hacc⟩ := fabricAccess_of_grants hg hq (s.ne_remote_of_access rfl (ne_remote_of_held (heldAddr_of_plain hb)))
  have hmap := s.atBank_sameMap q g.late
  rw [← hnext, ← hmap.nextTarget] at hb
  rw [← s.nextLen_of_store hkind, ← hmap.nextLen] at hecc ⊢
  obtain ⟨u, hu, hown, hbyte⟩ := ownBeat_store hkind hlen ((hmap.asleep q).trans hawake) (hmap.stagingHeld.trans hheld) hb hecc
  rw [hacc, hown, State.byte_of_mem (afterAnswer_mem ?_)]
  · exact (hbyte a).trans (by rw [State.byte_of_mem (s.atBank_mem q g.late)])
  · show u.sap.puts.all _ = true
    rw [hu.sap, s.atBank_sap]
    exact hputs

theorem fabricAccess_load (hkind : q.kind ≠ .store) (hdata : q.data = []) (hbeat : s.beatLen q.addr q.len = q.len)
    (hue : ueHit g.ecc = false) (ha : s.awaited id = true) {b : Nat}
    (hb : heldAddr (s.access (Initiator.anySlot q.ini) false q.addr q.len) = some b)
    (hmask : q.mask = none ∨ plainAddr (s.access (Initiator.anySlot q.ini) false q.addr q.len) = some b) :
    (fabricAccess id g s).reqSt? id = some (.done (s.bytes b q.len)) ∧ (fabricAccess id g s).mem = s.mem := by
  have hlen : s.nextLen q = q.len := by
    rw [State.nextLen, FabReq.beatAddr_of_nil hdata, hdata, decide_eq_false hkind]
    exact hbeat
  have hnext : s.nextTarget q = s.access (Initiator.anySlot q.ini) false q.addr q.len := by
    rw [State.nextTarget, hlen, FabReq.beatAddr_of_nil hdata, decide_eq_false hkind]
  obtain ⟨hawake, hacc⟩ := fabricAccess_of_grants hg hq (s.ne_remote_of_access rfl (ne_remote_of_held hb))
  have hmap := s.atBank_sameMap q g.late
  rw [← hnext, ← hmap.nextTarget] at hb hmask
  obtain ⟨u, hu, hown⟩ := ownBeat_load hkind ((hmap.asleep q).trans hawake) hue hb hmask
  have hbytes : (s.atBank q g.late).bytes b q.len = s.bytes b q.len := by rw [State.bytes, s.atBank_mem, State.bytes]
  rw [hmap.nextLen, hlen, hbytes, State.id_of_req? hq] at hown
  obtain ⟨here, hreq⟩ := State.atBank_req? hq q g.late
  have hureq : u.req? id = some { q with here := here } := by
    rw [State.req?, hu.beatLeaves.reqs, ← State.req?, hreq]
  have hst : (u.gathered id q.len (s.bytes b q.len)).reqSt? id = some (.done (s.bytes b q.len)) := by
    have h := State.reqSt?_gathered_load hureq hkind q.len (bs := s.bytes b q.len) (by simp [hdata])
    simpa [hdata] using h
  have hput : (u.gathered id q.len (s.bytes b q.len)).sap.puts.all (fun p => decide (p.id ≠ id)) = true := by
    show u.sap.puts.all _ = true
    rw [hu.beatLeaves.sap, s.atBank_sap]
    exact hputs
  rw [hacc, hown]
  obtain ⟨hanswer, hmem⟩ := afterAnswer_of_awaited hst rfl hput
    (by rw [State.gathered_awaited, hu.awaited, State.atBank_awaited, ha])
  exact ⟨hanswer, hmem.trans (hu.mem.trans (s.atBank_mem q g.late))⟩

theorem fabricAccess_alias (hkind : q.kind = .store) (hlen : q.len = 4) (hmask : q.mask = none) (hbeat : s.beatLen q.addr 4 = 4)
    (hdata : q.data.length = 4) {x : Bool} {b : Nat} (hb : aliasAddr (s.access (Initiator.anySlot q.ini) true q.addr 4) = some (x, b))
    (hheld : s.stagingHeld = false) (hue : ueHit g.ecc = false) :
    ∃ r, (fabricAccess id g s).mem = (s.storeAt (.mirror x r b) q.data).mem := by
  obtain ⟨r, hr⟩ : ∃ r, s.access (Initiator.anySlot q.ini) true q.addr 4 = .mirror x r b := by
    generalize s.access (Initiator.anySlot q.ini) true q.addr 4 = t at hb
    cases t <;> cases hb
    exact ⟨_, rfl⟩
  refine ⟨r, ?_⟩
  have hnextLen : s.nextLen q = 4 := by rw [s.nextLen_of_store hkind, hlen, hbeat]
  have hnext : s.nextTarget q = .mirror x r b := by
    rw [State.nextTarget, hnextLen, FabReq.beatAddr_of_store hkind, hkind]
    exact hr
  obtain ⟨hawake, hacc⟩ := fabricAccess_of_grants hg hq (s.ne_remote_of_access hr (by simp))
  have hmap := s.atBank_sameMap q g.late
  have hnext' := (hmap.nextTarget q).trans hnext
  obtain ⟨u, hu, hmade⟩ := beat_made (part := false) (b := b) (by rw [hnext']; rfl) (fun _ => hmap.stagingHeld.trans hheld) (.inl hue)
    (q.data.take ((s.atBank q g.late).nextLen q))
  have htake : q.data.take ((s.atBank q g.late).nextLen q) = q.data := by
    rw [hmap.nextLen, hnextLen, ← hdata, List.take_length]
  have hanswer : (s.atBank q g.late).nextAnswer q g.ecc =
      ((u.memAnswer q.ini .store (.mirror x r b) b ((s.atBank q g.late).nextLen q) q.data).1, .done []) := by
    rw [State.nextAnswer, hmask]
    dsimp only
    rw [hmade, htake, hnext', hkind]
    simp [State.memAnswer]
  rw [hacc, ownBeat_of_done ((hmap.asleep q).trans hawake) hanswer, afterAnswer_mem ?_]
  · have hmem : u.mem = s.mem := hu.mem.trans (s.atBank_mem q g.late)
    refine (u.memAnswer_store_mem q.ini (.mirror x r b) b _ q.data).trans ?_
    simp only [State.storeAt, State.store, State.memWord, State.bytes, hmem, State.cancelWb, State.noteWrite]
  · show (u.memAnswer _ _ _ _ _ _).1.sap.puts.all _ = true
    rw [(u.memAnswer_beatLeaves ..).sap, hu.beatLeaves.sap, s.atBank_sap]
    exact hputs

theorem fabricAccess_fail (hkind : q.kind = .store) (ha : s.awaited id = true)
    (hfail : s.access (Initiator.anySlot q.ini) true q.addr (s.beatLen q.addr q.len) = .fail) :
    (fabricAccess id g s).reqSt? id = some (.failed false) ∧ (fabricAccess id g s).mem = s.mem := by
  have hnext : s.nextTarget q = .fail := by
    rw [State.nextTarget, s.nextLen_of_store hkind, FabReq.beatAddr_of_store hkind, hkind]
    exact hfail
  obtain ⟨hawake, hacc⟩ := fabricAccess_of_grants hg hq (s.ne_remote_of_access hfail (by simp))
  have hmap := s.atBank_sameMap q g.late
  have hbeat (v : State) (hv : v.nextTarget q = .fail) : v.nextAnswer q g.ecc = (v, .failed false) := by
    unfold State.nextAnswer
    rw [hv]
    cases q.mask with
    | some be => rfl
    | none =>
      have hv' : v.access (Initiator.anySlot q.ini) (decide (q.kind = .store)) q.beatAddr (v.nextLen q) = .fail := hv
      simp only [beat, hv']
  have hown := ownBeat_of_failed ((hmap.asleep q).trans hawake) (hbeat _ ((hmap.nextTarget q).trans hnext))
  have hst : ((s.atBank q g.late).setReqSt id (.failed false)).reqSt? id = some (.failed false) := by
    rw [State.reqSt?_setReqSt, State.atBank_reqSt?, State.reqSt?_of_req? hq]
    rfl
  rw [hacc, hown, State.id_of_req? hq]
  obtain ⟨hanswer, hmem⟩ := afterAnswer_of_awaited hst rfl (by show (s.atBank q g.late).sap.puts.all _ = true; rw [s.atBank_sap]; exact hputs)
    (by rw [State.setReqSt_awaited, State.atBank_awaited, ha])
  exact ⟨hanswer, hmem.trans (s.atBank_mem q g.late)⟩

end

theorem fabricAccess_stopped {s : State} (h : s.fclkRuns = false) (id : Nat) (g : GrantInfo) : fabricAccess id g s = s := by
  unfold fabricAccess
  split
  · rfl
  · exact if_pos (.inl h)

/-- A request that its bank does not grant has reached the bank, and waits. -/
theorem fabricAccess_of_not_granted {s : State} {id : Nat} {g : GrantInfo} {q : FabReq} {b : Nat} (hclk : s.fclkRuns = true)
    (hq : s.req? id = some q) (hst : q.st = .waiting ∨ q.st = .lifted) (hown : ∀ m a, s.decodeAddr q.addr ≠ .remote m a)
    (holder : s.olderOpen q = false) (harb : s.arbAt q.beatAddr = some b) (hawake : asleep q s = false) (hg : s.grants id g = false) :
    fabricAccess id g s = s.arrive b g.late := by
  have hwaits : decide (q.st = .waiting) || decide (q.st = .lifted) := by simpa using hst
  have hchoice : ((s.arrive b g.late).choice b g.quota).map (fun x => x.id) ≠ some id := by
    simpa [State.grants, hq, hclk, holder, hawake, harb, hwaits] using hg
  have hgo : ¬ (s.fclkRuns = false ∨ (q.st ≠ .waiting ∧ q.st ≠ .lifted) ∨ s.olderOpen q = true) := by
    rw [hclk, holder]
    rcases hst with hst | hst <;> simp [hst]
  unfold fabricAccess
  simp only [hq, if_neg hgo, harb, hawake, Bool.false_eq_true, if_false, if_neg hchoice]

/-- Settles O18: at its bank a request is the request itself, its beat does what its store or load says, and its end leaves memory and the
answer that something waits for. -/
theorem fabricBeatsReachMemory : Obligations.FabricBeatsReachMemory := by
  unfold Obligations.FabricBeatsReachMemory
  refine ⟨fun s id g hg q hq hputs hkind hlen b hb hheld hecc => ?_, fun s id g hg q hq hputs hkind hdata _ hbeat hue ha b hb hmask => ?_,
    fun s id g hg q hq hputs hkind ha hfail => ?_, fun s id g hstop => ?_, fun s id g b hclk q hq hst hown holder harb hawake hg => ?_⟩
  · exact ⟨_, rfl, fabricAccess_store hg hq hputs hkind hlen hb hheld hecc⟩
  · obtain ⟨hst, hmem⟩ := fabricAccess_load hg hq hputs hkind hdata hbeat hue ha hb hmask
    exact ⟨_, rfl, hst, State.byte_of_mem hmem⟩
  · obtain ⟨hst, hmem⟩ := fabricAccess_fail hg hq hputs hkind ha hfail
    exact ⟨_, rfl, hst, State.byte_of_mem hmem⟩
  · exact congrArg Host.Outcome.next (fabricAccess_stopped hstop id g)
  · refine ⟨congrArg Host.Outcome.next (fabricAccess_of_not_granted hclk hq hst hown holder harb hawake hg), ?_, fun _ => rfl⟩
    rw [State.reqSt?, State.req?_of_map (s := s) rfl (fun r => by split <;> rfl), Option.map_map, State.reqSt?]
    exact congrArg (fun f => (s.req? id).map f) (funext fun r => by dsimp only [Function.comp]; split <;> rfl)

/-! ## Words of memory -/

theorem leNat_leBytes (n v : Nat) : leNat (leBytes n v) = v % 256 ^ n := by
  induction n generalizing v with
  | zero => simp [leBytes, leNat, Nat.mod_one]
  | succ n ih =>
    have hbyte : (BitVec.ofNat 8 v).toNat = v % 256 := BitVec.toNat_ofNat v 8
    rw [leBytes, leNat, hbyte, ih, pow_succ', Nat.mod_mul]

@[simp] theorem length_leBytes (n v : Nat) : (leBytes n v).length = n := by
  induction n generalizing v with
  | zero => rfl
  | succ n ih => exact congrArg (· + 1) (ih _)

theorem State.bytes_store (s : State) (a : Nat) (bs : List Byte) : (s.store a bs).bytes a bs.length = bs := by
  refine List.ext_getElem (State.length_bytes ..) fun i hi hi' => ?_
  have h := State.getD_bytes (s.store a bs) hi' a
  rw [s.byte_store, if_pos (by omega), Nat.add_sub_cancel_left] at h
  simpa [hi'] using h

/-- A word stored is the word read back. -/
theorem State.memWord_store (s : State) (a : Nat) (w : Word) : (s.store a (leBytes 4 w.toNat)).memWord a = w := by
  have h := s.bytes_store a (leBytes 4 w.toNat)
  rw [length_leBytes] at h
  rw [State.memWord, h, leNat_leBytes, Nat.mod_eq_of_lt (by exact w.isLt), BitVec.ofNat_toNat, BitVec.setWidth_eq]

/-- Settles O19: the access leaves memory as the store by the alias does, which is one store of the changed word. -/
theorem aliasStoresSetAndClearBits : Obligations.AliasStoresSetAndClearBits := by
  unfold Obligations.AliasStoresSetAndClearBits
  rintro s id g hg q hq hputs hkind hlen hmask hbeat hdata ⟨x, b⟩ hb hheld hue
  obtain ⟨r, hmem⟩ := fabricAccess_alias hg hq hputs hkind hlen hmask hbeat hdata hb hheld hue
  refine ⟨_, rfl, ?_, fun a ha => ?_⟩
  · rw [State.memWord, State.bytes, hmem]
    exact s.memWord_store b _
  · rw [State.byte_of_mem hmem, s.byte_storeAt_mirror x r b q.data a ha]

end Sys2Proof.Machine
end

section
/-! Transactions of a link as their answers arrive (spec/13_strand_camps.md, R525, R529 to R533, Table 13-4): an answer of the tag's epoch ends
the transaction, a late one counts, and a timeout frees the tag. -/

namespace Sys2Proof.Machine

/-! ## Links after writes -/

@[simp] theorem State.link_setLink (s : State) (n : Nat) (l : Link) (m : Nat) : (s.setLink n l).link m = if m = n then l else s.link m := by
  simp [State.link, State.setLink]

@[simp] theorem State.link_onLink (s : State) (n : Nat) (f : Link → Link) (m : Nat) :
    (s.onLink n f).link m = if m = n then f (s.link n) else s.link m :=
  s.link_setLink n _ m

theorem State.link_of_links {s u : State} (h : u.links = s.links) (n : Nat) : u.link n = s.link n := by
  rw [State.link, h, State.link]

@[simp] theorem strFlag_link (n : Nat) (m : Word) (s : State) (k : Nat) : (strFlag n m s).link k = s.link k := rfl

@[simp] theorem strFlag_reqSt? (n : Nat) (m : Word) (s : State) (id : Nat) : (strFlag n m s).reqSt? id = s.reqSt? id := rfl

@[simp] theorem State.onLink_reqSt? (s : State) (n : Nat) (f : Link → Link) (id : Nat) : (s.onLink n f).reqSt? id = s.reqSt? id := rfl

@[simp] theorem State.gathered_link (s : State) (id n : Nat) (bs : List Byte) (k : Nat) : (s.gathered id n bs).link k = s.link k := rfl

theorem Link.free_frame (l : Link) (kind vc : Nat) : ∃ f, l.free kind vc = { l with freed := f } := by
  unfold Link.free
  split
  · exact ⟨l.freed, rfl⟩
  · split <;> exact ⟨_, rfl⟩

/-! ## The oldest body received -/

/-- Machine s once the oldest body received on link n has been taken, from transaction channel vc. -/
def State.taken (s : State) (n vc : Nat) : State :=
  s.setLink n ({ s.link n with rx := (s.link n).rx.tail }.free 1 vc)

theorem State.taken_link (s : State) (n vc : Nat) : ∃ f, (s.taken n vc).link n = { s.link n with rx := (s.link n).rx.tail, freed := f } := by
  obtain ⟨f, hf⟩ := Link.free_frame { s.link n with rx := (s.link n).rx.tail } 1 vc
  exact ⟨f, by rw [State.taken, State.link_setLink, if_pos rfl, hf]⟩

/-- A transaction body that heads the queue of what a link has received is taken by the command of its channel and type. -/
theorem takeRx_head {s : State} {n vc ty : Nat} {e : Nat × Nat × List Byte} (he : (s.link n).rx.head? = some e) (hkind : e.1 = 1)
    (hvc : e.2.1 = vc) (hty : (e.2.2.headD 0).toNat % 16 = ty) : takeRx n 1 vc ty s = some (e.2.2, s.taken n vc) := by
  obtain ⟨rest, hrx⟩ := List.head?_eq_some_iff.mp he
  unfold takeRx State.taken
  simpa [hrx, List.findIdx?_cons, hkind, hvc] using hty

/-! ## Answers -/

section
variable {s : State} {n : Nat}

theorem strAnswer_of_epoch {tag tep : Nat} (h : tep = smGet (fun _ => 0) (s.link n).epochs tag) :
    strAnswer n tag tep s = ((s.link n).txs.find? (fun t => decide (t.tag = tag)), s) :=
  if_neg (not_not_intro h)

theorem strAnswer_of_late {tag tep : Nat} (h : tep ≠ smGet (fun _ => 0) (s.link n).epochs tag) :
    strAnswer n tag tep s = (none, strFlag n 0x2000 (s.incSat (aStrLate n))) :=
  if_pos h

theorem tag_of_find {txs : List StrTx} {x : StrTx} {tag : Nat} (h : txs.find? (fun x => decide (x.tag = tag)) = some x) : x.tag = tag := by
  simpa using List.find?_some h

/-- A transaction that ends with its data, or with none, frees its tag and answers its request. -/
theorem strEnd_ok (n : Nat) (x : StrTx) (data : Option (List Byte)) (s : State) :
    strEnd n x data 0 false s =
      (s.onLink n (fun l => { l with txs := l.txs.filter (fun y => decide (y.tag ≠ x.tag)) })).gathered x.req x.len (data.getD []) := rfl

theorem wfqPush_of_room {e : WfqEnt} (h : (s.link n).wfq.length < 32) :
    wfqPush n e s = strFlag n 0x4000 (s.onLink n (fun l => { l with wfq := l.wfq ++ [e] })) :=
  if_pos h

theorem wfqPush_link (n : Nat) (e : WfqEnt) (s : State) : ∃ q, (wfqPush n e s).link n = { s.link n with wfq := q } := by
  unfold wfqPush
  split
  · exact ⟨(s.link n).wfq ++ [e], by simp⟩
  · exact ⟨(s.link n).wfq, rfl⟩

theorem wfqPush_reqSt? (n : Nat) (e : WfqEnt) (s : State) (id : Nat) : (wfqPush n e s).reqSt? id = s.reqSt? id := by
  unfold wfqPush
  split <;> rfl

/-- A flag of STRn_STAT is set. -/
theorem bit_strFlag {m : Word} {i : Nat} (hi : bit m i = true) (n : Nat) (s : State) : bit ((strFlag n m s).reg (aStrStat n)) i = true := by
  rw [strFlag, State.reg_orReg, if_pos rfl, bit_or, hi, Bool.or_true]

theorem State.noteUe_frame (s : State) (ini : Initiator) (k : FabKind) (a : Nat) : ∃ w, s.noteUe ini k a = { s with bw := w } := by
  unfold State.noteUe
  split
  · split
    · exact ⟨s.bw, rfl⟩
    · exact ⟨_, rfl⟩
  · exact ⟨s.bw, rfl⟩

/-- The transaction's end on its own link: its tag is free, with the next epoch where this device ended it, and nothing of it is sent. -/
def StrTx.freed (x : StrTx) (local_ : Bool) (l : Link) : Link :=
  { l with
    txs := l.txs.filter (fun y => decide (y.tag ≠ x.tag))
    epochs := if local_ then smSet (fun _ => 0) l.epochs x.tag ((smGet (fun _ => 0) l.epochs x.tag + 1) % 16) else l.epochs
    postQ := if local_ then l.postQ.filter (fun q => decide (q.tag ≠ some x.tag)) else l.postQ
    npQ := if local_ then l.npQ.filter (fun q => decide (q.tag ≠ some x.tag)) else l.npQ }

/-- A transaction that ends with an error frees its tag and fails its request; a write leaves an entry where its queue has room. -/
theorem strEnd_error {status : Nat} (hst : status ≠ 0) (n : Nat) (x : StrTx) (local_ : Bool) (s : State) :
    ∃ u, u.link n = x.freed local_ (s.link n) ∧ u.reqSt? x.req = (s.reqSt? x.req).map (fun _ => .failed (decide (status = 2))) ∧
      strEnd n x none status local_ s =
        if x.wr then wfqPush n (wfqEnt x.member x.addr x.len status x.tag x.iid x.ithr x.ikind) u else u := by
  let s1 := s.onLink n (x.freed local_)
  obtain ⟨w, hw⟩ : ∃ w, (match s1.req? x.req with
      | some q => if status = 2 then s1.noteUe q.ini q.kind (s1.plain q.beatAddr) else s1
      | none => s1) = { s1 with bw := w } := by
    split
    · split
      · exact s1.noteUe_frame _ _ _
      · exact ⟨s1.bw, rfl⟩
    · exact ⟨s1.bw, rfl⟩
  refine ⟨({ s1 with bw := w } : State).setReqSt x.req (.failed (decide (status = 2))), ?_, ?_, ?_⟩
  · exact (s.link_onLink n (x.freed local_) n).trans (if_pos rfl)
  · exact State.reqSt?_setReqSt _ _ _
  · rw [← hw]
    exact if_neg hst

end

/-- What a transaction that ends with an error leaves on its link and at its request. -/
theorem strEnd_error_leaves {status : Nat} (hst : status ≠ 0) (n : Nat) (x : StrTx) (local_ : Bool) (s : State) :
    (∃ q, (strEnd n x none status local_ s).link n = { x.freed local_ (s.link n) with wfq := q }) ∧
      (strEnd n x none status local_ s).reqSt? x.req = (s.reqSt? x.req).map (fun _ => .failed (decide (status = 2))) := by
  obtain ⟨u, hlink, hreq, hend⟩ := strEnd_error hst n x local_ s
  rw [hend]
  split
  · obtain ⟨q, hq⟩ := wfqPush_link n (wfqEnt x.member x.addr x.len status x.tag x.iid x.ithr x.ikind) u
    exact ⟨⟨q, by rw [hq, hlink]⟩, (wfqPush_reqSt? ..).trans hreq⟩
  · exact ⟨⟨(s.link n).wfq, hlink⟩, hreq⟩

/-- A write that ends with an error leaves an entry in the write-fault queue where that has room (R532, R533). -/
theorem strEnd_error_wfq {status : Nat} (hst : status ≠ 0) {n : Nat} {x : StrTx} (hwr : x.wr = true) {s : State}
    (hroom : (s.link n).wfq.length < 32) (local_ : Bool) :
    ((strEnd n x none status local_ s).link n).wfq =
        (s.link n).wfq ++ [wfqEnt x.member x.addr x.len status x.tag x.iid x.ithr x.ikind] ∧
      bit ((strEnd n x none status local_ s).reg (aStrStat n)) 14 = true := by
  obtain ⟨u, hlink, -, hend⟩ := strEnd_error hst n x local_ s
  rw [hend, if_pos hwr, wfqPush_of_room (by rw [hlink]; exact hroom)]
  refine ⟨?_, bit_strFlag (by decide) _ _⟩
  rw [strFlag_link, State.link_onLink, if_pos rfl, hlink]
  rfl

/-! ## Bytes that are all zero -/

theorem leNat_eq_zero_iff {bs : List Byte} : leNat bs = 0 ↔ ∀ b ∈ bs, b = 0 := by
  induction bs with
  | nil => simp [leNat]
  | cons b bs ih =>
    have hb : b.toNat = 0 ↔ b = 0 := by rw [← BitVec.toNat_inj]; rfl
    simp [leNat, ih, hb]

/-! ## The rows -/

section
variable {s : State} {n : Nat} {e : Nat × Nat × List Byte} (he : (s.link n).rx.head? = some e) (hkind : e.1 = 1) (hvc : e.2.1 = 2)
include he hkind hvc

theorem strCpl_ends (hty : (e.2.2.headD 0).toNat % 16 = 2) {x : StrTx}
    (hx : (s.link n).txs.find? (fun x => decide (x.tag = txFld e.2.2 4 8)) = some x)
    (htep : txFld e.2.2 12 4 = smGet (fun _ => 0) (s.link n).epochs x.tag) (hok : txFld e.2.2 64 8 = 0) :
    ((strCpl n s).link n).txs = (s.link n).txs.filter (fun y => decide (y.tag ≠ x.tag)) ∧
      (strCpl n s).memc.reqs = (s.gathered x.req x.len (((e.2.2.drop 16).drop (x.addr % 32)).take x.len)).memc.reqs := by
  obtain ⟨f, hf⟩ := s.taken_link n 2
  have hans : strAnswer n (txFld e.2.2 4 8) (txFld e.2.2 12 4) (s.taken n 2) = (some x, s.taken n 2) := by
    rw [strAnswer_of_epoch (by rw [hf, htep, tag_of_find hx]), hf, hx]
  have hcpl : strCpl n s = strEnd n x (some (((e.2.2.drop 16).drop (x.addr % 32)).take x.len)) 0 false (s.taken n 2) := by
    simp only [strCpl, takeRx_head he hkind hvc hty, hans, hok]
  rw [hcpl, strEnd_ok]
  refine ⟨?_, rfl⟩
  rw [State.gathered_link, State.link_onLink, if_pos rfl, hf]

theorem strCpl_late (hty : (e.2.2.headD 0).toNat % 16 = 2)
    (htep : txFld e.2.2 12 4 ≠ smGet (fun _ => 0) (s.link n).epochs (txFld e.2.2 4 8)) :
    strCpl n s = strFlag n 0x2000 ((s.taken n 2).incSat (aStrLate n)) := by
  obtain ⟨f, hf⟩ := s.taken_link n 2
  simp only [strCpl, takeRx_head he hkind hvc hty, strAnswer_of_late (s := s.taken n 2) (by rw [hf]; exact htep)]

/-- A late CPL counts, and ends nothing (R529). -/
theorem strCpl_late_leaves (hty : (e.2.2.headD 0).toNat % 16 = 2)
    (htep : txFld e.2.2 12 4 ≠ smGet (fun _ => 0) (s.link n).epochs (txFld e.2.2 4 8)) :
    (strCpl n s).reg (aStrLate n) = (s.incSat (aStrLate n)).reg (aStrLate n) ∧ bit ((strCpl n s).reg (aStrStat n)) 13 = true ∧
      ((strCpl n s).link n).txs = (s.link n).txs ∧ (strCpl n s).memc = s.memc := by
  obtain ⟨f, hf⟩ := s.taken_link n 2
  have hne : aStrLate n ≠ aStrStat n := by unfold aStrLate aStrStat; omega
  have hlink : (((s.taken n 2).incSat (aStrLate n)).link n).txs = (s.link n).txs := by
    show ((s.taken n 2).link n).txs = _
    rw [hf]
  rw [strCpl_late he hkind hvc hty htep]
  refine ⟨?_, bit_strFlag (by decide) _ _, hlink, rfl⟩
  rw [strFlag, State.reg_orReg, if_neg hne, State.reg_incSat, State.reg_incSat]
  rfl

theorem strPwfn_ends (hty : (e.2.2.headD 0).toNat % 16 = 4) {x : StrTx}
    (hx : (s.link n).txs.find? (fun x => decide (x.tag = txFld e.2.2 4 8)) = some x)
    (htep : txFld e.2.2 12 4 = smGet (fun _ => 0) (s.link n).epochs x.tag) :
    strPwfn n s = strEnd n x none (max 1 (txFld e.2.2 64 8)) false (s.taken n 2) := by
  obtain ⟨f, hf⟩ := s.taken_link n 2
  have hans : strAnswer n (txFld e.2.2 4 8) (txFld e.2.2 12 4) (s.taken n 2) = (some x, s.taken n 2) := by
    rw [strAnswer_of_epoch (by rw [hf, htep, tag_of_find hx]), hf, hx]
  simp only [strPwfn, takeRx_head he hkind hvc hty, hans]

/-- A PWFN of the tag's epoch fails the write and leaves its entry (R533). -/
theorem strPwfn_leaves (hty : (e.2.2.headD 0).toNat % 16 = 4) {x : StrTx}
    (hx : (s.link n).txs.find? (fun x => decide (x.tag = txFld e.2.2 4 8)) = some x)
    (htep : txFld e.2.2 12 4 = smGet (fun _ => 0) (s.link n).epochs x.tag) (hwr : x.wr = true) (hroom : (s.link n).wfq.length < 32) :
    ((strPwfn n s).link n).txs = (s.link n).txs.filter (fun y => decide (y.tag ≠ x.tag)) ∧
      ((strPwfn n s).link n).wfq =
        (s.link n).wfq ++ [wfqEnt x.member x.addr x.len (max 1 (txFld e.2.2 64 8)) x.tag x.iid x.ithr x.ikind] ∧
      bit ((strPwfn n s).reg (aStrStat n)) 14 = true ∧
      (strPwfn n s).reqSt? x.req = (s.reqSt? x.req).map (fun _ => .failed (decide (max 1 (txFld e.2.2 64 8) = 2))) := by
  have hst : max 1 (txFld e.2.2 64 8) ≠ 0 := by omega
  obtain ⟨f, hf⟩ := s.taken_link n 2
  obtain ⟨⟨q, hlink⟩, hreq⟩ := strEnd_error_leaves hst n x false (s.taken n 2)
  obtain ⟨hwfq, hbit⟩ := strEnd_error_wfq hst (n := n) (s := s.taken n 2) hwr (by rw [hf]; exact hroom) false
  rw [strPwfn_ends he hkind hvc hty hx htep]
  refine ⟨?_, ?_, hbit, hreq⟩
  · rw [hlink, hf]
    rfl
  · rw [hwfq, hf]

/-- A WACK whose first entry alone names a write ends that write. -/
theorem strWack_ends (hty : (e.2.2.headD 0).toNat % 16 = 3) (hrest : leNat (e.2.2.drop 18) = 0)
    (hfirst : (leNat ((e.2.2.drop 16).take 2)).testBit 15 = true) {x : StrTx}
    (hx : (s.link n).txs.find? (fun x => decide (x.tag = leNat ((e.2.2.drop 16).take 2) % 256)) = some x)
    (htep : leNat ((e.2.2.drop 16).take 2) / 256 % 16 = smGet (fun _ => 0) (s.link n).epochs x.tag) :
    strWack n s = strEnd n x none 0 false (s.taken n 2) := by
  obtain ⟨f, hf⟩ := s.taken_link n 2
  have hans : strAnswer n (leNat ((e.2.2.drop 16).take 2) % 256) (leNat ((e.2.2.drop 16).take 2) / 256 % 16) (s.taken n 2) =
      (some x, s.taken n 2) := by
    rw [strAnswer_of_epoch (by rw [hf, htep, tag_of_find hx]), hf, hx]
  have hzero (i : Nat) : leNat ((e.2.2.drop (16 + 2 * (i + 1))).take 2) = 0 := by
    have hdrop : e.2.2.drop (16 + 2 * (i + 1)) = (e.2.2.drop 18).drop (2 * i) := by
      rw [List.drop_drop, show 16 + 2 * (i + 1) = 18 + 2 * i by omega]
    rw [leNat_eq_zero_iff] at hrest ⊢
    exact fun b hb => hrest b (List.mem_of_mem_drop (hdrop ▸ List.mem_of_mem_take hb))
  have hrange : List.range 16 = 0 :: (List.range 15).map (· + 1) := rfl
  simp only [strWack, takeRx_head he hkind hvc hty, hrange]
  rw [foldS, foldS_id]
  · simp only [Nat.mul_zero, Nat.add_zero, hfirst, if_true, hans]
  · intro i hi v
    obtain ⟨j, -, rfl⟩ := List.mem_map.mp hi
    simp [hzero j]

/-- The write that such a WACK names ends without data. -/
theorem strWack_leaves (hty : (e.2.2.headD 0).toNat % 16 = 3) (hrest : leNat (e.2.2.drop 18) = 0)
    (hfirst : (leNat ((e.2.2.drop 16).take 2)).testBit 15 = true) {x : StrTx}
    (hx : (s.link n).txs.find? (fun x => decide (x.tag = leNat ((e.2.2.drop 16).take 2) % 256)) = some x)
    (htep : leNat ((e.2.2.drop 16).take 2) / 256 % 16 = smGet (fun _ => 0) (s.link n).epochs x.tag) :
    ((strWack n s).link n).txs = (s.link n).txs.filter (fun y => decide (y.tag ≠ x.tag)) ∧
      (strWack n s).memc.reqs = (s.gathered x.req x.len []).memc.reqs := by
  obtain ⟨f, hf⟩ := s.taken_link n 2
  rw [strWack_ends he hkind hvc hty hrest hfirst hx htep, strEnd_ok]
  refine ⟨?_, rfl⟩
  rw [State.gathered_link, State.link_onLink, if_pos rfl, hf]

end

theorem execTransactionTimeout_found {s : State} {n : Fin 8} {tag : Fin 256} {x : StrTx}
    (hx : (s.link n).txs.find? (fun x => decide (x.tag = tag.val)) = some x) :
    execTransactionTimeout n tag s = .next (if x.left then strFlag n 0x1000 (strEnd n x none 4 true s) else s) := by
  simp only [execTransactionTimeout, hx]

/-- A transaction that times out frees its tag, which takes its next epoch, and fails its request (R530 to R532). -/
theorem timeout_leaves {s : State} {n : Nat} {x : StrTx} :
    (∀ y ∈ ((strFlag n 0x1000 (strEnd n x none 4 true s)).link n).txs, y.tag ≠ x.tag) ∧
      smGet (fun _ => 0) ((strFlag n 0x1000 (strEnd n x none 4 true s)).link n).epochs x.tag =
        (smGet (fun _ => 0) (s.link n).epochs x.tag + 1) % 16 ∧
      bit ((strFlag n 0x1000 (strEnd n x none 4 true s)).reg (aStrStat n)) 12 = true ∧
      (strFlag n 0x1000 (strEnd n x none 4 true s)).reqSt? x.req = (s.reqSt? x.req).map (fun _ => .failed false) ∧
      (x.wr = true → (s.link n).wfq.length < 32 → ((strFlag n 0x1000 (strEnd n x none 4 true s)).link n).wfq =
        (s.link n).wfq ++ [wfqEnt x.member x.addr x.len 4 x.tag x.iid x.ithr x.ikind]) := by
  obtain ⟨⟨q, hlink⟩, hreq⟩ := strEnd_error_leaves (status := 4) (by decide) n x true s
  rw [strFlag_link, hlink]
  refine ⟨by simp [StrTx.freed], by simp [StrTx.freed], bit_strFlag (by decide) _ _, hreq, fun hwr hroom => ?_⟩
  rw [← hlink, (strEnd_error_wfq (by decide) hwr hroom true).1]

end Sys2Proof.Machine
end

section
/-! One request in an idle fabric (spec/07_memory.md, R296, R299, R304, R305, R307): its bank grants each of its beats at once, and the beats of
one 32-byte block are at most two. -/

namespace Sys2Proof.Machine

/-! ## Addresses of one block -/

/-- Regions begin and end between blocks of 32 bytes. -/
theorem regionOf_block {a b : Nat} (h : a / 32 = b / 32) : regionOf a = regionOf b := by
  have hlt {c : Nat} (hc : c % 32 = 0) : a < c ↔ b < c := by omega
  obtain ⟨hshared, hcluster, hslot, hlocal, hdata⟩ :
      (a - 0x10000000) / 0x400000 = (b - 0x10000000) / 0x400000 ∧ (a - 0x20000000) / 0x400000 = (b - 0x20000000) / 0x400000 ∧
      (a - 0x20000000) % 0x400000 / 0x40000 = (b - 0x20000000) % 0x400000 / 0x40000 ∧
      ((a - 0x20000000) % 0x400000 < 0x240000 ↔ (b - 0x20000000) % 0x400000 < 0x240000) ∧
      ((a - 0x20000000) % 0x400000 % 0x40000 < 0x30000 ↔ (b - 0x20000000) % 0x400000 % 0x40000 < 0x30000) := by
    refine ⟨?_, ?_, ?_, ?_, ?_⟩ <;> omega
  unfold regionOf
  dsimp only
  rw [hshared, hcluster, hslot]
  simp only [hlocal, hdata]
  simp (disch := omega) only [hlt]

theorem State.decodeAddr_of_lt {a : Nat} (ha : a < 2 ^ 40) (s : State) : s.decodeAddr a = ownTarget a := by
  have hbit : a.testBit 43 = false := Nat.testBit_lt_two_pow (by omega)
  have hwin : a / 2 ^ 40 % 8 = 0 := by omega
  rw [State.decodeAddr, hbit, if_neg (by decide), if_neg (not_not_intro hwin)]

theorem ownTarget_of_region {a : Nat} {r : Region} (ha : a < 2 ^ 38) (hr : regionOf a = some r) (hdev : r ≠ .device) :
    ownTarget a = .mem r a := by
  simp only [ownTarget, Nat.mod_eq_of_lt ha, Nat.div_eq_of_lt ha, hr, if_true, if_neg hdev]

/-- What memory an address of the device's own map names plainly is at that address. -/
theorem region_of_ownTarget {a b : Nat} {r : Region} (h : ownTarget a = .mem r b) (ha : a < 2 ^ 40) :
    a < 2 ^ 38 ∧ b = a ∧ regionOf a = some r ∧ r ≠ .device := by
  unfold ownTarget at h
  dsimp only at h
  split at h
  · cases h
  next r' hr =>
    split_ifs at h with hal hdev
    all_goals cases h
    have hlow : a < 2 ^ 38 := by omega
    rw [Nat.mod_eq_of_lt hlow] at hr ⊢
    exact ⟨hlow, rfl, hr, hdev⟩

theorem State.access_eq_mem {s : State} {any store : Bool} {a n b : Nat} {r : Region} (h : s.access any store a n = .mem r b) :
    s.decodeAddr a = .mem r b ∧ s.memOk any r b n = true := by
  unfold State.access at h
  split at h
  next r' b' hdec =>
    split_ifs at h with hok
    cases h
    exact ⟨hdec, hok⟩
  next => split_ifs at h
  next => split_ifs at h
  next t hnot _ _ => exact absurd h (hnot r b)

theorem State.access_of_mem {s : State} {any store : Bool} {a n b : Nat} {r : Region} (hdec : s.decodeAddr a = .mem r b)
    (hok : s.memOk any r b n = true) : s.access any store a n = .mem r b := by
  simp only [State.access, hdec, hok, if_true]

section
variable {s : State} {any store : Bool} {a len b : Nat} {r : Region} (ha : a < 2 ^ 40) (h : s.access any store a len = .mem r b)
  (hblock : a % 32 + len ≤ 32)
include ha h hblock

/-- A part of an access of one block reaches its part of the same memory. -/
theorem State.access_part {k n : Nat} (hn : 0 < n) (hk : k + n ≤ len) : s.access any store (a + k) n = .mem r (a + k) := by
  obtain ⟨hdec, hok⟩ := State.access_eq_mem h
  rw [State.decodeAddr_of_lt ha] at hdec
  obtain ⟨hlow, rfl, hr, hdev⟩ := region_of_ownTarget hdec ha
  have hpart {i : Nat} (hi : i < len) : regionOf (b + i) = some r := (regionOf_block (by omega)).trans hr
  have hdec' : s.decodeAddr (b + k) = .mem r (b + k) := by
    rw [State.decodeAddr_of_lt (by omega)]
    exact ownTarget_of_region (by omega) (hpart (by omega)) hdev
  refine State.access_of_mem hdec' ?_
  have hlast : regionOf (b + k + (n - 1)) = some r := by
    rw [Nat.add_assoc]
    exact hpart (by omega)
  simp only [State.memOk, Bool.and_eq_true, decide_eq_true_eq] at hok ⊢
  refine ⟨hlast, ?_⟩
  cases r with
  | ddr =>
    have hcap := hok.2
    simp only [decide_eq_true_eq] at hcap ⊢
    omega
  | _ => exact hok.2

/-- The first beat of an access of one block takes all its bytes, or in local memory those up to the next block of 16, and the second beat
takes the rest (R296, R304). -/
theorem State.beatLen_block (hlen : 0 < len) : s.beatLen a len = len ∨
    (0 < s.beatLen a len ∧ s.beatLen a len < len ∧ s.beatLen (a + s.beatLen a len) (len - s.beatLen a len) = len - s.beatLen a len ∧
      r.slot?.isSome = true) := by
  obtain ⟨hdec, -⟩ := State.access_eq_mem h
  by_cases hall : s.beatLen a len = len
  · exact .inl hall
  have hdec' : ∀ k < len, s.decodeAddr (a + k) = .mem r (a + k) := fun k hk =>
    (State.access_eq_mem (State.access_part ha h hblock (k := k) (n := 1) (by omega) (by omega))).1
  have hwide {k n : Nat} (hk : k < len) (hslot : r.slot? = none) : s.beatLen (a + k) n = min n (32 - (a + k) % 32) := by
    rw [State.beatLen, hdec' k hk]
    cases r with
    | data | itcm => cases hslot
    | _ => rfl
  have hlocal {k n j : Nat} (hk : k < len) (hslot : r.slot? = some j) : s.beatLen (a + k) n = min n (16 - (a + k) % 16) := by
    rw [State.beatLen, hdec' k hk]
    cases r with
    | data | itcm => rfl
    | _ => cases hslot
  cases hslot : r.slot? with
  | none =>
    have h0 := hwide (k := 0) (n := len) hlen hslot
    rw [Nat.add_zero] at h0
    omega
  | some j =>
    have h0 := hlocal (k := 0) (n := len) hlen hslot
    rw [Nat.add_zero] at h0
    have h1 := hlocal (k := s.beatLen a len) (n := len - s.beatLen a len) (by omega) hslot
    refine .inr ⟨by omega, by omega, by omega, rfl⟩

end

end Sys2Proof.Machine
end

section
/-! A request of another member, alone in the fabric (spec/07_memory.md, R299, R305, R307, R326; spec/13_strand_camps.md, R525): its bank grants its
beats one after the other, and its end is answered on the link that asked. -/

namespace Sys2Proof.Machine

/-! ## The request at its bank -/

/-- Request q, which waits for its bank for the far end of link n, is all that waits in the fabric, and no write-back stands before it. -/
structure State.Serves (s : State) (q : FabReq) (n : Nat) (wr : Bool) (body : List Byte) : Prop where
  fclk    : s.fclkRuns = true
  reqs    : s.memc.reqs = [q]
  st      : q.st = .waiting
  cls     : q.cls = 4
  wbs     : ∀ b bw, s.arbAt q.beatAddr = some b → s.wbWaits b bw = false
  gets    : s.sap.gets = []
  puts    : s.sap.puts = []
  ops     : s.pcie.ops = []
  serving : s.servingOf q.id = some (n, wr, body)

/-- A request after a beat that took n bytes: it asks for its next beat, or is answered (R305). -/
def FabReq.after (q : FabReq) (n : Nat) (bs : List Byte) : FabReq :=
  if q.kind = .store then
    (if n < q.len then { q with addr := q.addr + n, len := q.len - n, data := q.data.drop n, here := false, st := .waiting }
     else { q with st := .done [] })
  else if (q.data ++ bs).length < q.len then { q with data := q.data ++ bs, here := false, st := .waiting }
  else { q with data := [], st := .done (q.data ++ bs) }

section
variable {q : FabReq} {n : Nat} {bs : List Byte}

theorem FabReq.after_load_more (hkind : q.kind ≠ .store) (h : (q.data ++ bs).length < q.len) :
    q.after n bs = { q with data := q.data ++ bs, here := false, st := .waiting } := by
  rw [FabReq.after, if_neg hkind, if_pos h]

theorem FabReq.after_load_last (hkind : q.kind ≠ .store) (h : q.len ≤ (q.data ++ bs).length) :
    q.after n bs = { q with data := [], st := .done (q.data ++ bs) } := by
  rw [FabReq.after, if_neg hkind, if_neg (Nat.not_lt.mpr h)]

theorem FabReq.after_store_more (hkind : q.kind = .store) (h : n < q.len) :
    q.after n bs = { q with addr := q.addr + n, len := q.len - n, data := q.data.drop n, here := false, st := .waiting } := by
  rw [FabReq.after, if_pos hkind, if_pos h]

theorem FabReq.after_store_last (hkind : q.kind = .store) (h : q.len ≤ n) : q.after n bs = { q with st := .done [] } := by
  rw [FabReq.after, if_pos hkind, if_neg (Nat.not_lt.mpr h)]

end

theorem FabReq.after_keeps (q : FabReq) (n : Nat) (bs : List Byte) : (q.after n bs).id = q.id ∧ (q.after n bs).cls = q.cls := by
  unfold FabReq.after
  split_ifs <;> exact ⟨rfl, rfl⟩

theorem State.servingOf_of_links {s u : State} (h : u.links = s.links) (id : Nat) : u.servingOf id = s.servingOf id := by
  simp only [State.servingOf, State.link_of_links h]

theorem State.gathered_reqs {s : State} {q : FabReq} (h : s.memc.reqs = [q]) (n : Nat) (bs : List Byte) :
    (s.gathered q.id n bs).memc.reqs = [q.after n bs] := by
  simp [State.gathered, h, FabReq.after]

theorem State.req?_of_reqs {s : State} {q : FabReq} (h : s.memc.reqs = [q]) : s.req? q.id = some q := by
  simp [State.req?, h]

/-- Ports, the host and the links stand after a beat as they did before it. -/
theorem State.afterBeat_eqs {s u : State} {q : FabReq} (hu : (s.atBank q []).BeatLeaves u) (id k : Nat) (bs : List Byte) :
    (u.gathered id k bs).sap = s.sap ∧ (u.gathered id k bs).pcie = s.pcie ∧ (u.gathered id k bs).links = s.links := by
  obtain ⟨rs, tn, hframe⟩ := s.atBank_frame q []
  exact ⟨hu.sap.trans (by rw [hframe]), hu.pcie.trans (by rw [hframe]), hu.links.trans (by rw [hframe])⟩

theorem State.afterBeat_sameMap {s u : State} {q : FabReq} (hu : (s.atBank q []).BeatLeaves u) (id k : Nat) (bs : List Byte) :
    s.SameMap (u.gathered id k bs) :=
  ((s.atBank_sameMap q []).trans hu.toSameMap).trans ⟨fun _ _ => rfl, rfl, rfl, rfl, rfl, rfl⟩

section
variable {s : State} {q : FabReq} {n : Nat} {wr : Bool} {body : List Byte} (h : s.Serves q n wr body)
include h

theorem State.Serves.atBank_reqs : ∃ here, (s.atBank q []).memc.reqs = [{ q with here := here }] := by
  obtain ⟨f, hf⟩ := s.atBank_reqs q []
  exact ⟨f q, by rw [hf, h.reqs]; rfl⟩

theorem State.Serves.olderOpen (p : FabReq) (hid : p.id = q.id) : s.olderOpen p = false := by
  simp [State.olderOpen, h.reqs, hid]

/-- The bank chooses the only request that waits for it. -/
theorem State.Serves.choice {b : Nat} (harb : s.arbAt q.beatAddr = some b) :
    ((s.arrive b []).choice b false).map (fun x => x.id) = some q.id := by
  obtain ⟨p, hreqs, hid, hst, hcls, hhere, harb'⟩ : ∃ p, (s.arrive b []).memc.reqs = [p] ∧ p.id = q.id ∧ p.st = .waiting ∧ p.cls = 4 ∧
      p.here = true ∧ (s.arrive b []).arbAt p.beatAddr = some b :=
    ⟨{ q with here := true }, by simp [State.arrive, h.reqs, harb], rfl, h.st, h.cls, rfl, harb⟩
  have holder : (s.arrive b []).olderOpen p = false := by simp [State.olderOpen, hreqs]
  have hqueued : (s.arrive b []).queued b p = true := by simp [State.queued, hst, hhere, harb', holder]
  have hwb (bw : Bool) : (s.arrive b []).wbWaits b bw = false := h.wbs b bw harb
  have hhead (c : Nat) (hc : c ≠ 4) (lift : Bool) : (s.arrive b []).headOf b c lift = none := by
    simp [State.headOf, hreqs, hcls, Ne.symm hc]
  have hlift : (s.arrive b []).headOf b 4 true = none := by simp [State.headOf, hreqs, hst]
  have hlast : (s.arrive b []).headOf b 4 false = some p := by simp [State.headOf, hreqs, hcls, hqueued]
  simp [State.choice, hwb, hhead, hlift, hlast, hid]

/-- A beat of the only request is granted where its memory is awake. -/
theorem State.Serves.access (hawake : asleep q s = false) (hown : ∀ m a, s.decodeAddr q.addr ≠ .remote m a) (ecc : EccHit) :
    fabricAccess q.id { ecc := ecc, late := [] } s = afterAnswer q.id (ownBeat q ecc (s.atBank q [])) := by
  refine (fabricAccess_of_grants (g := { ecc := ecc, late := [] }) ?_ (State.req?_of_reqs h.reqs) hown).2
  simp only [State.grants, State.req?_of_reqs h.reqs, h.fclk, h.st, h.olderOpen q rfl, hawake]
  cases harb : s.arbAt q.beatAddr with
  | none => simp
  | some b => simp [h.choice harb]

/-- The request and what waits with it after a beat that is not its last. -/
theorem State.Serves.next {u : State} (hu : (s.atBank q []).BeatLeaves u) {k : Nat} {bs : List Byte}
    (hst : ∀ here, (FabReq.after { q with here := here } k bs).st = .waiting)
    (hlocal : ∀ here, ∀ b ∈ s.arbAt (FabReq.after { q with here := here } k bs).beatAddr, 288 ≤ b) :
    ∃ here, (u.gathered q.id k bs).Serves (FabReq.after { q with here := here } k bs) n wr body := by
  obtain ⟨here, hreqs⟩ := h.atBank_reqs
  have hmap := State.afterBeat_sameMap hu q.id k bs
  obtain ⟨hsap, hpcie, hlinks⟩ := State.afterBeat_eqs hu q.id k bs
  refine ⟨here, hmap.fclkRuns.trans h.fclk, ?_, hst here, ?_, ?_, ?_, ?_, ?_, ?_⟩
  · exact State.gathered_reqs (q := { q with here := here }) (hu.reqs.trans hreqs) k bs
  · exact (FabReq.after_keeps _ k bs).2.trans h.cls
  · intro b bw harb
    have hb := hlocal here b (by rw [← hmap.arbAt]; exact harb)
    simp [State.wbWaits, Nat.not_lt.mpr hb]
  · exact (congrArg Sap.gets hsap).trans h.gets
  · exact (congrArg Sap.puts hsap).trans h.puts
  · exact (congrArg Pcie.ops hpcie).trans h.ops
  · rw [(FabReq.after_keeps _ k bs).1]
    exact (State.servingOf_of_links (s := s) hlinks q.id).trans h.serving

end

/-! ## The end of a served request -/

/-- The message that answers a request of another member (R525, Table 13-4). -/
def State.serveMsg (s : State) (wr : Bool) (b : List Byte) (status : Nat) (data : List Byte) : List Byte :=
  let msg := fun (kind : Nat) => txBody kind (txFld b 4 8) (txFld b 12 4) s.ownId (txFld b 16 3) (txFld b 24 35) status (txFld b 72 7)
    (txFld b 79 2) (txFld b 81 2) data (leNat ((b.drop 48).take 4))
  if !wr then msg 2
  else if status = 0 then txBody 3 0 0 s.ownId (txFld b 16 3) 0 0 0 0 0 (leBytes 2 (txFld b 4 8 + txFld b 12 4 * 2 ^ 8 + 2 ^ 15)) 0
  else msg 4

theorem State.SameMap.serveMsg {s u : State} (h : s.SameMap u) : u.serveMsg = s.serveMsg := by
  funext wr b status data
  rw [State.serveMsg, h.ownId, State.serveMsg]

/-- The data of the answer to a served request that took bytes `bs`: none for a write, the whole block for a read. -/
def serveData (wr : Bool) (b bs : List Byte) : List Byte :=
  if wr then [] else (List.replicate (maskSpan (leNat ((b.drop 48).take 4))).1 0 ++ bs ++ List.replicate 32 0).take 32

/-- Message `msg` has joined the answers that wait on link n, and what the link has received stands as it did. -/
structure State.Answers (s t : State) (n : Nat) (msg : List Byte) : Prop where
  cplQ : (t.link n).cplQ.map (fun q => q.body) = (s.link n).cplQ.map (fun q => q.body) ++ [msg]
  rx   : (t.link n).rx = (s.link n).rx

theorem State.Answers.of_links {s u t : State} {n : Nat} {msg : List Byte} (h : u.Answers t n msg) (hl : u.links = s.links) :
    s.Answers t n msg := by
  have hlink := State.link_of_links hl n
  exact ⟨hlink ▸ h.cplQ, hlink ▸ h.rx⟩

/-- An answer joins those that wait on the link. -/
theorem serveEnd_answers (n : Nat) (wr : Bool) (b : List Byte) (status : Nat) (data : List Byte) (s : State) :
    s.Answers (serveEnd n wr b status data s) n (s.serveMsg wr b status data) := by
  have hlink : (serveEnd n wr b status data s).link n = { s.link n with
      ord := (s.link n).ord + 1
      cplQ := (s.link n).cplQ ++ [{ ord := (s.link n).ord, body := s.serveMsg wr b status data, tag := none, waited := 0 }] } :=
    (s.link_onLink n _ n).trans (if_pos rfl)
  exact ⟨by rw [hlink]; exact List.map_append, by rw [hlink]⟩

/-- The end of a request that serves the far end of a link is answered there, where nothing else follows it. -/
theorem afterAnswer_served {v : State} {id n : Nat} {wr : Bool} {b ds : List Byte} (hgets : v.sap.gets = []) (hputs : v.sap.puts = [])
    (hops : v.pcie.ops = []) (hserving : v.servingOf id = some (n, wr, b)) (hst : v.reqSt? id = some (.done ds)) :
    (afterAnswer id v).mem = v.mem ∧ v.Answers (afterAnswer id v) n (v.serveMsg wr b 0 (serveData wr b ds)) := by
  let w := v.onLink n (fun l => { l with serving := l.serving.filter (fun x => decide (x.1 ≠ id)) })
  have hw : answered id (.done ds) v = serveEnd n wr b 0 (serveData wr b ds) w := by
    have hslot : slotTakes id v = v := by simp [slotTakes, hgets]
    have hmember : memberAnswered id (.done ds) v = serveEnd n wr b 0 (serveData wr b ds) w := by
      simp only [memberAnswered, hserving]
      rfl
    have hhost : (serveEnd n wr b 0 (serveData wr b ds) w).pcie.ops = [] := hops
    simp [answered, hslot, hmember, hostGoesOn, hhost]
  have hwlink : w.link n = { v.link n with serving := (v.link n).serving.filter (fun x => decide (x.1 ≠ id)) } :=
    (v.link_onLink n _ n).trans (if_pos rfl)
  have hend : (afterAnswer id v).mem = (answered id (.done ds) v).mem ∧ (afterAnswer id v).link n = (answered id (.done ds) v).link n := by
    rw [afterAnswer_of_ended hst rfl (by simp [hputs])]
    split <;> exact ⟨rfl, rfl⟩
  obtain ⟨hcpl, hrx⟩ := serveEnd_answers n wr b 0 (serveData wr b ds) w
  refine ⟨by rw [hend.1, hw]; rfl, ?_, ?_⟩
  · rw [hend.2, hw, hcpl, hwlink]
    rfl
  · rw [hend.2, hw, hrx, hwlink]

/-- A request that has ended is not open afterwards, where it is still there. -/
theorem req?_afterAnswer_ended {v : State} {id : Nat} {st : FabSt} (hputs : v.sap.puts = []) (hst : v.reqSt? id = some st)
    (hend : st.open_ = false) {q : FabReq} (hq : (afterAnswer id v).req? id = some q) : q.st.open_ = false := by
  obtain ⟨p, hp, rfl⟩ := Option.map_eq_some_iff.mp hst
  have hreq := (answered_endLeaves id p.st v).req? hp
  rw [afterAnswer_of_ended hst hend (by simp [hputs])] at hq
  split at hq
  · rw [hreq] at hq
    cases hq
    exact hend
  · have hmem : q ∈ (answered id p.st v).memc.reqs.filter (fun r => decide (r.id ≠ id)) := List.mem_of_find?_eq_some hq
    have hne : q.id ≠ id := by simpa using (List.mem_filter.mp hmem).2
    exact absurd (State.id_of_req? hq) hne

/-! ## Its beats -/

section
variable {s : State} {q : FabReq} {n : Nat} {wr : Bool} {body : List Byte} (h : s.Serves q n wr body) (hawake : asleep q s = false)
  (hown : ∀ m a, s.decodeAddr q.addr ≠ .remote m a) {ecc : EccHit} {u : State} (hu : (s.atBank q []).BeatLeaves u) {k : Nat}
  {bs : List Byte} (hbeat : ownBeat q ecc (s.atBank q []) = u.gathered q.id k bs)
include h hawake hown hu hbeat

/-- The last beat of a served request ends it, and its answer waits on the link. -/
theorem State.Serves.ends {ds : List Byte} (hst : ∀ here, (FabReq.after { q with here := here } k bs).st = .done ds) (f : Nat) :
    (grantNow q.id (f + 1) ecc s).mem = u.mem ∧
      s.Answers (grantNow q.id (f + 1) ecc s) n (s.serveMsg wr body 0 (serveData wr body ds)) := by
  obtain ⟨here, hreqs⟩ := h.atBank_reqs
  obtain ⟨hsap, hpcie, hlinks⟩ := State.afterBeat_eqs hu q.id k bs
  have hmap := State.afterBeat_sameMap hu q.id k bs
  generalize hv : u.gathered q.id k bs = v at hbeat hsap hpcie hlinks hmap
  have hreq : v.reqSt? q.id = some (.done ds) := by
    have hvreqs : v.memc.reqs = [FabReq.after { q with here := here } k bs] := by
      rw [← hv]
      exact State.gathered_reqs (q := { q with here := here }) (hu.reqs.trans hreqs) k bs
    have hfound := State.req?_of_reqs hvreqs
    rw [(FabReq.after_keeps _ k bs).1] at hfound
    rw [State.reqSt?_of_req? hfound, hst here]
  have hputs : v.sap.puts = [] := by rw [hsap, h.puts]
  have hacc : fabricAccess q.id { ecc := ecc, late := [] } s = afterAnswer q.id v := by rw [h.access hawake hown, hbeat]
  have hgrant : grantNow q.id (f + 1) ecc s = afterAnswer q.id v := by
    simp only [grantNow, State.req?_of_reqs h.reqs, h.reqs, List.map_cons, List.map_nil, List.filter_cons, ne_eq, not_true_eq_false,
      decide_false, Bool.false_eq_true, if_false, List.filter_nil, hacc]
    split
    · rfl
    next q1 hq1 => rw [req?_afterAnswer_ended hputs hreq rfl hq1]; simp
  obtain ⟨hmem, hans⟩ := afterAnswer_served (v := v) (id := q.id) (n := n) (wr := wr) (b := body) (ds := ds) (by rw [hsap, h.gets]) hputs
    (by rw [hpcie, h.ops]) ((State.servingOf_of_links hlinks q.id).trans h.serving) hreq
  rw [hgrant]
  refine ⟨?_, ?_⟩
  · rw [hmem, ← hv]
    rfl
  · rw [← hmap.serveMsg]
    exact hans.of_links hlinks

/-- A beat of a served request that is not its last leaves it to the next. -/
theorem State.Serves.goes_on (hst : ∀ here, (FabReq.after { q with here := here } k bs).st = .waiting)
    (hlocal : ∀ here, ∀ b ∈ s.arbAt (FabReq.after { q with here := here } k bs).beatAddr, 288 ≤ b)
    (hmoves : ∀ here, (FabReq.after { q with here := here } k bs).beatAddr ≠ q.beatAddr) (f : Nat) :
    ∃ here j, (u.gathered q.id k bs).Serves (FabReq.after { q with here := here } k bs) n wr body ∧
      grantNow q.id (f + 1) ecc s = grantNow q.id f (eccBeyond ecc j) (u.gathered q.id k bs) := by
  obtain ⟨here, hnext⟩ := h.next hu hst hlocal
  have hfound := State.req?_of_reqs hnext.reqs
  rw [(FabReq.after_keeps _ k bs).1] at hfound
  have hopen : afterAnswer q.id (u.gathered q.id k bs) = u.gathered q.id k bs :=
    afterAnswer_of_open (by simp [State.reqSt?_of_req? hfound, hst here, FabSt.open_])
  have hacc : fabricAccess q.id { ecc := ecc, late := [] } s = u.gathered q.id k bs := by rw [h.access hawake hown, hbeat, hopen]
  have hgo : (FabReq.after { q with here := here } k bs).st.open_ = true ∧
      (FabReq.after { q with here := here } k bs).beatAddr ≠ q.beatAddr := ⟨by rw [hst here]; rfl, hmoves here⟩
  refine ⟨here, (FabReq.after { q with here := here } k bs).beatAddr / 8 - q.beatAddr / 8, hnext, ?_⟩
  simp only [grantNow, State.req?_of_reqs h.reqs, h.reqs, List.map_cons, List.map_nil, List.filter_cons, ne_eq, not_true_eq_false,
    decide_false, Bool.false_eq_true, if_false, List.filter_nil, hacc]
  rw [hfound]
  exact if_pos hgo

end

end Sys2Proof.Machine
end

section
/-! The beats of a served read and of a served write (spec/07_memory.md, R296, R304, R305, R318, R319, R323; spec/13_strand_camps.md, R525): one
block of 32 bytes takes at most two. -/

namespace Sys2Proof.Machine

theorem asleep_of_awake {s : State} {q : FabReq} (h : s.awake (s.nextTarget q) = true) : asleep q s = false := by
  unfold State.nextTarget State.nextLen at h
  simpa [asleep] using h

/-- The words of a block have one power unit. -/
theorem State.awake_block {s : State} {r : Region} {a b : Nat} (h : a / 32 = b / 32) (hawake : s.awake (.mem r a) = true) :
    s.awake (.mem r b) = true := by
  have hunit : powerUnit r b = powerUnit r a := by
    cases r with
    | reservoir => exact congrArg some (by omega)
    | _ => rfl
  simpa only [State.awake, hunit] using hawake

theorem State.bytes_append (s : State) (a m n : Nat) : s.bytes a m ++ s.bytes (a + m) n = s.bytes a (m + n) := by
  induction m generalizing a with
  | zero => simp [State.bytes, readMem]
  | succ m ih =>
    have h := ih (a + 1)
    rw [show a + 1 + m = a + (m + 1) by omega] at h
    rw [show m + 1 + n = m + n + 1 by omega]
    exact congrArg (s.byte a :: ·) h

theorem ueHit_eccBeyond {e : EccHit} (h : ueHit e = false) (k : Nat) : ueHit (eccBeyond e k) = false := by
  cases e with
  | ue w => cases h
  | _ => rfl

/-- The banks of local memory stand behind those of shared memory and of the Reservoir. -/
theorem arbBank_local {r : Region} (h : r.slot?.isSome = true) (a : Nat) : ∀ b ∈ arbBank r a, 288 ≤ b := by
  cases r with
  | data k | itcm k => intro b hb; cases hb; omega
  | _ => cases h

section
variable {s : State} {q : FabReq} {n : Nat} {body : List Byte} {r : Region} {x : Nat}

/-- What the beats of an access of one block of memory reach: the first part of it, and, where that is not all, the rest in local memory. -/
theorem State.block_parts {any store : Bool} {a len : Nat} (ha : a < 2 ^ 40) (hacc : s.access any store a len = .mem r x)
    (hblock : a % 32 + len ≤ 32) (hlen : 0 < len) (hawake : s.awake (.mem r x) = true) :
    x = a ∧ (∀ m b, s.decodeAddr a ≠ .remote m b) ∧ (0 < s.beatLen a len ∧ s.beatLen a len ≤ len) ∧
      (∀ k i, 0 < i → k + i ≤ len → s.access any store (a + k) i = .mem r (a + k)) ∧
      (∀ k, k < len → s.awake (.mem r (a + k)) = true) ∧
      (s.beatLen a len ≠ len → s.beatLen (a + s.beatLen a len) (len - s.beatLen a len) = len - s.beatLen a len ∧
        ∀ b ∈ s.arbAt (a + s.beatLen a len), 288 ≤ b) := by
  have hpart : ∀ k i, 0 < i → k + i ≤ len → s.access any store (a + k) i = .mem r (a + k) :=
    fun k i hi hk => State.access_part ha hacc hblock hi hk
  have hx : x = a := by
    have h0 := hpart 0 len hlen (by omega)
    rw [Nat.add_zero, hacc] at h0
    exact (Target.mem.inj h0).2
  subst hx
  refine ⟨rfl, s.ne_remote_of_access hacc (by simp), ?_, hpart, fun k hk => State.awake_block (by omega) hawake, fun hne => ?_⟩
  · rcases State.beatLen_block ha hacc hblock hlen with h | ⟨hpos, hlt, -⟩ <;> omega
  · obtain ⟨hpos, hlt, hrest, hslot⟩ := (State.beatLen_block ha hacc hblock hlen).resolve_left hne
    refine ⟨hrest, ?_⟩
    have hdec := (State.access_eq_mem (hpart (s.beatLen x len) (len - s.beatLen x len) (by omega) (by omega))).1
    rw [State.arbAt, hdec]
    exact arbBank_local hslot _

/-! ## A read -/

/-- One beat of a served read that reaches plain awake memory takes the bytes there. -/
theorem State.readBeat {a k : Nat} (hkind : q.kind = .load) (hini : Initiator.anySlot q.ini = false) (hbeat : q.beatAddr = a)
    (hlen : s.beatLen a (q.len - q.data.length) = k) (hacc : s.access false false a k = .mem r a)
    (hawake : s.awake (.mem r a) = true) {ecc : EccHit} (hue : ueHit ecc = false) :
    asleep q s = false ∧ ∃ u, (s.atBank q []).Corrected u ∧ ownBeat q ecc (s.atBank q []) = u.gathered q.id k (s.bytes a k) := by
  have hnextLen : s.nextLen q = k := by
    rw [State.nextLen, hbeat, hkind]
    exact hlen
  have hnext : s.nextTarget q = .mem r a := by
    rw [State.nextTarget, hnextLen, hini, hbeat, hkind]
    exact hacc
  have hsleep : asleep q s = false := asleep_of_awake (by rw [hnext]; exact hawake)
  have hmap := s.atBank_sameMap q []
  have hplain : plainAddr ((s.atBank q []).nextTarget q) = some a := by rw [hmap.nextTarget, hnext]; rfl
  obtain ⟨u, hu, hown⟩ := ownBeat_load (by rw [hkind]; decide) ((hmap.asleep q).trans hsleep) hue (heldAddr_of_plain hplain) (.inr hplain)
  refine ⟨hsleep, u, hu, ?_⟩
  rw [hown, hmap.nextLen, hnextLen, State.bytes, s.atBank_mem, State.bytes]

/-- The last beat of a served read, in plain awake memory, ends it with the bytes that it has and those of the beat. -/
theorem State.Serves.read_last {a : Nat} (h : s.Serves q n false body) (hkind : q.kind = .load) (hini : Initiator.anySlot q.ini = false)
    (hown : ∀ m b, s.decodeAddr q.addr ≠ .remote m b) (hbeat : q.beatAddr = a)
    (hlen : s.beatLen a (q.len - q.data.length) = q.len - q.data.length)
    (hacc : s.access false false a (q.len - q.data.length) = .mem r a) (hawake : s.awake (.mem r a) = true) {ecc : EccHit}
    (hue : ueHit ecc = false) (f : Nat) :
    (grantNow q.id (f + 1) ecc s).mem = s.mem ∧ s.Answers (grantNow q.id (f + 1) ecc s) n
      (s.serveMsg false body 0 (serveData false body (q.data ++ s.bytes a (q.len - q.data.length)))) := by
  obtain ⟨hsleep, u, hu, hmade⟩ := State.readBeat hkind hini hbeat hlen hacc hawake hue
  have hload : q.kind ≠ .store := by rw [hkind]; decide
  obtain ⟨hmem, hans⟩ := h.ends hsleep hown hu.beatLeaves hmade (ds := q.data ++ s.bytes a (q.len - q.data.length))
    (fun here => congrArg FabReq.st (FabReq.after_load_last (q := { q with here := here }) hload
      (by dsimp only; rw [List.length_append, State.length_bytes]; omega))) f
  exact ⟨hmem.trans (hu.mem.trans (s.atBank_mem q [])), hans⟩

/-- A served read of plain awake memory is answered with the bytes there, and leaves memory. -/
theorem State.Serves.read (h : s.Serves q n false body) (hkind : q.kind = .load) (hini : Initiator.anySlot q.ini = false)
    (hdata : q.data = []) (ha : q.addr < 2 ^ 40) (hacc : s.access false false q.addr q.len = .mem r x) (hblock : q.addr % 32 + q.len ≤ 32)
    (hlen : 0 < q.len) (hawake : s.awake (.mem r x) = true) {ecc : EccHit} (hue : ueHit ecc = false) :
    (grantNow q.id 4 ecc s).mem = s.mem ∧
      s.Answers (grantNow q.id 4 ecc s) n (s.serveMsg false body 0 (serveData false body (s.bytes x q.len))) := by
  obtain ⟨rfl, hown, ⟨hpos, hle⟩, hpart, hon, hrest⟩ := State.block_parts ha hacc hblock hlen hawake
  have haddr : q.beatAddr = q.addr := FabReq.beatAddr_of_nil hdata
  have hrem : q.len - q.data.length = q.len := by simp [hdata]
  generalize hk : s.beatLen q.addr q.len = k at hpos hle hrest
  by_cases hall : k = q.len
  · have hlast := h.read_last hkind hini hown haddr (by rw [hrem, hk, hall]) (by rw [hrem]; exact hacc) hawake hue 3
    rwa [hrem, hdata, List.nil_append] at hlast
  · obtain ⟨hlast, hbanks⟩ := hrest hall
    have hload : q.kind ≠ .store := by rw [hkind]; decide
    obtain ⟨hsleep, u, hu, hmade⟩ := State.readBeat (k := k) hkind hini haddr (by rw [hrem, hk]) (hpart 0 k hpos (by omega)) hawake hue
    have hafter (here : Bool) : FabReq.after { q with here := here } k (s.bytes q.addr k) =
        { q with data := s.bytes q.addr k, here := false, st := .waiting } := by
      rw [FabReq.after_load_more (q := { q with here := here }) hload (by simp [hdata]; omega)]
      simp [hdata]
    have hnext : FabReq.beatAddr { q with data := s.bytes q.addr k, here := false, st := .waiting } = q.addr + k := by
      simp [FabReq.beatAddr, hload]
    obtain ⟨_, j, hs, hgo⟩ := h.goes_on hsleep hown hu.beatLeaves hmade (fun here => by rw [hafter])
      (fun here => by rw [hafter, hnext]; exact hbanks) (fun here => by rw [hafter, hnext, haddr]; omega) 3
    rw [hafter] at hs
    have hacc' := hpart k (q.len - k) (by omega) (by omega)
    have hmap := State.afterBeat_sameMap hu.beatLeaves q.id k (s.bytes q.addr k)
    have hmem : (u.gathered q.id k (s.bytes q.addr k)).mem = s.mem := hu.mem.trans (s.atBank_mem q [])
    have hlinks := (State.afterBeat_eqs hu.beatLeaves q.id k (s.bytes q.addr k)).2.2
    generalize u.gathered q.id k (s.bytes q.addr k) = v at hs hgo hlinks hmap hmem
    have hbytes (a i : Nat) : v.bytes a i = s.bytes a i := by rw [State.bytes, hmem, State.bytes]
    obtain ⟨hmem', hans⟩ := hs.read_last hkind hini (by rw [hmap.decodeAddr]; exact hown) hnext
      (by rw [hmap.beatLen, State.length_bytes]; exact hlast)
      (by rw [hmap.access, State.length_bytes]; exact hacc') (by rw [hmap.awake]; exact hon k (by omega))
      (ueHit_eccBeyond hue j) 2
    rw [hgo]
    refine ⟨hmem'.trans hmem, ?_⟩
    simp only [hmap.serveMsg, hbytes, State.length_bytes, State.bytes_append, Nat.add_sub_cancel' hle] at hans
    exact hans.of_links hlinks

/-! ## A write -/

/-- The first k bytes of a write stand in memory as its byte enables say, and every other byte is as it was. -/
def State.Writes (s t : State) (q : FabReq) (k : Nat) : Prop :=
  ∀ x, t.byte x = if q.addr ≤ x ∧ x < q.addr + k ∧ (∀ be ∈ q.mask, be.testBit (q.addr % 32 + (x - q.addr)) = true)
    then q.data.getD (x - q.addr) 0 else s.byte x

/-- Two beats of one block write what one would. -/
theorem State.Writes.append {u v : State} {k len : Nat} (h : s.Writes u q k) {p : FabReq} (h' : u.Writes v p (len - k))
    (hk : k < len) (hblock : q.addr % 32 + len ≤ 32) (haddr : p.addr = q.addr + k) (hdata : p.data = q.data.drop k) (hmask : p.mask = q.mask) :
    s.Writes v q len := by
  intro x
  rw [h' x, h x, haddr, hdata, hmask]
  by_cases hlow : x < q.addr + k
  · have hlen : x < q.addr + len := by omega
    simp [hlow, hlen, Nat.not_le.mpr hlow]
  · have hoff : (q.addr + k) % 32 + (x - (q.addr + k)) = q.addr % 32 + (x - q.addr) := by omega
    have hget : (q.data.drop k).getD (x - (q.addr + k)) 0 = q.data.getD (x - q.addr) 0 := by
      rw [List.getD_eq_getElem?_getD, List.getElem?_drop, show k + (x - (q.addr + k)) = x - q.addr by omega, List.getD_eq_getElem?_getD]
    have hlo : q.addr ≤ x ∧ q.addr + k ≤ x := by omega
    have hhi : x < q.addr + k + (len - k) ↔ x < q.addr + len := by omega
    simp only [hoff, hget, hlow, hlo, hhi, true_and, false_and, and_false, if_false]

/-- One beat of a served write that reaches plain awake memory writes its bytes there. -/
theorem State.writeBeat {k : Nat} (hkind : q.kind = .store) (hini : Initiator.anySlot q.ini = false) (hdata : q.data.length = q.len)
    (hlen : s.beatLen q.addr q.len = k) (hacc : s.access false true q.addr k = .mem r q.addr)
    (hawake : s.awake (.mem r q.addr) = true) (hheld : s.stagingHeld = false) {ecc : EccHit} (hue : ueHit ecc = false) :
    asleep q s = false ∧
      ∃ u, (s.atBank q []).BeatLeaves u ∧ ownBeat q ecc (s.atBank q []) = u.gathered q.id k [] ∧ s.Writes u q k := by
  have hnextLen : s.nextLen q = k := by rw [s.nextLen_of_store hkind, hlen]
  have hnext : s.nextTarget q = .mem r q.addr := by
    rw [State.nextTarget, hnextLen, hini, FabReq.beatAddr_of_store hkind, hkind]
    exact hacc
  have hsleep : asleep q s = false := asleep_of_awake (by rw [hnext]; exact hawake)
  have hmap := s.atBank_sameMap q []
  have hplain : plainAddr ((s.atBank q []).nextTarget q) = some q.addr := by rw [hmap.nextTarget, hnext]; rfl
  obtain ⟨u, hu, hown, hbyte⟩ := ownBeat_store hkind hdata ((hmap.asleep q).trans hsleep) (hmap.stagingHeld.trans hheld) hplain (.inl hue)
  rw [hmap.nextLen, hnextLen] at hown hbyte
  exact ⟨hsleep, u, hu, hown, fun x => (hbyte x).trans (by rw [State.byte_of_mem (s.atBank_mem q [])])⟩

/-- The last beat of a served write, in plain awake memory, ends it. -/
theorem State.Serves.write_last (h : s.Serves q n true body) (hkind : q.kind = .store) (hini : Initiator.anySlot q.ini = false)
    (hdata : q.data.length = q.len) (hown : ∀ m b, s.decodeAddr q.addr ≠ .remote m b) (hlen : s.beatLen q.addr q.len = q.len)
    (hacc : s.access false true q.addr q.len = .mem r q.addr) (hawake : s.awake (.mem r q.addr) = true) (hheld : s.stagingHeld = false)
    {ecc : EccHit} (hue : ueHit ecc = false) (f : Nat) :
    s.Writes (grantNow q.id (f + 1) ecc s) q q.len ∧ s.Answers (grantNow q.id (f + 1) ecc s) n (s.serveMsg true body 0 []) := by
  obtain ⟨hsleep, u, hu, hmade, hbyte⟩ := State.writeBeat hkind hini hdata hlen hacc hawake hheld hue
  obtain ⟨hmem, hans⟩ := h.ends hsleep hown hu hmade (ds := [])
    (fun here => congrArg FabReq.st (FabReq.after_store_last (q := { q with here := here }) hkind (le_refl q.len))) f
  exact ⟨fun x => (State.byte_of_mem hmem x).trans (hbyte x), hans⟩

/-- A served write to plain awake memory outside the held staging window stores its bytes. -/
theorem State.Serves.write (h : s.Serves q n true body) (hkind : q.kind = .store) (hini : Initiator.anySlot q.ini = false)
    (hdata : q.data.length = q.len) (ha : q.addr < 2 ^ 40) (hacc : s.access false true q.addr q.len = .mem r x)
    (hblock : q.addr % 32 + q.len ≤ 32) (hlen : 0 < q.len) (hawake : s.awake (.mem r x) = true) (hheld : s.stagingHeld = false)
    {ecc : EccHit} (hue : ueHit ecc = false) :
    s.Writes (grantNow q.id 4 ecc s) q q.len ∧ s.Answers (grantNow q.id 4 ecc s) n (s.serveMsg true body 0 []) := by
  obtain ⟨rfl, hown, ⟨hpos, hle⟩, hpart, hon, hrest⟩ := State.block_parts ha hacc hblock hlen hawake
  generalize hk : s.beatLen q.addr q.len = k at hpos hle hrest
  by_cases hall : k = q.len
  · exact h.write_last hkind hini hdata hown (hk.trans hall) hacc hawake hheld hue 3
  · obtain ⟨hlast, hbanks⟩ := hrest hall
    obtain ⟨hsleep, u, hu, hmade, hwrites⟩ := State.writeBeat hkind hini hdata hk (hpart 0 k hpos (by omega)) hawake hheld hue
    have hafter (here : Bool) : FabReq.after { q with here := here } k [] =
        { q with addr := q.addr + k, len := q.len - k, data := q.data.drop k, here := false, st := .waiting } :=
      FabReq.after_store_more (q := { q with here := here }) hkind (Nat.lt_of_le_of_ne hle hall)
    have hnext : FabReq.beatAddr { q with addr := q.addr + k, len := q.len - k, data := q.data.drop k, here := false, st := .waiting } =
        q.addr + k := FabReq.beatAddr_of_store hkind
    obtain ⟨_, j, hs, hgo⟩ := h.goes_on hsleep hown hu hmade (fun here => by rw [hafter])
      (fun here => by rw [hafter, hnext]; exact hbanks) (fun here => by rw [hafter, hnext, FabReq.beatAddr_of_store hkind]; omega) 3
    rw [hafter] at hs
    have hacc' := hpart k (q.len - k) (by omega) (by omega)
    have hmap := State.afterBeat_sameMap hu q.id k []
    have hlinks := (State.afterBeat_eqs hu q.id k []).2.2
    have hwrites' : s.Writes (u.gathered q.id k []) q k := hwrites
    generalize u.gathered q.id k [] = v at hs hgo hlinks hmap hwrites'
    obtain ⟨hwrites'', hans⟩ := hs.write_last hkind hini (by simp [hdata])
      (by rw [hmap.decodeAddr]; exact (s.ne_remote_of_access hacc' (by simp))) (by rw [hmap.beatLen]; exact hlast)
      (by rw [hmap.access]; exact hacc') (by rw [hmap.awake]; exact hon k (by omega)) (hmap.stagingHeld.trans hheld)
      (ueHit_eccBeyond hue j) 2
    rw [hgo]
    rw [hmap.serveMsg] at hans
    exact ⟨hwrites'.append hwrites'' (by omega) hblock rfl rfl rfl, hans.of_links hlinks⟩

end

end Sys2Proof.Machine
end

section
/-! Requests of other members (spec/13_strand_camps.md, R525; spec/07_memory.md, R326): what a flit asks for, what an idle fabric makes of it, and
the rows of a link's transactions together. -/

namespace Sys2Proof.Machine

/-! ## Byte enables -/

theorem maskSpan_bounds {be : Nat} (h : 0 < (maskSpan be).2) : (maskSpan be).1 < (maskSpan be).2 ∧ (maskSpan be).2 ≤ 32 := by
  unfold maskSpan at h ⊢
  dsimp only at h ⊢
  have hsorted : ((List.range 32).filter (fun i => be.testBit i)).Pairwise (· < ·) := List.pairwise_lt_range.filter _
  have hrange : ∀ i ∈ (List.range 32).filter (fun i => be.testBit i), i < 32 := fun i hi =>
    List.mem_range.mp (List.mem_of_mem_filter hi)
  generalize (List.range 32).filter (fun i => be.testBit i) = on at h hsorted hrange
  cases on with
  | nil => exact absurd h (by simp)
  | cons i is =>
    obtain ⟨hlast, -⟩ := List.pairwise_cons.mp hsorted
    have hmem := List.getLast_mem (List.cons_ne_nil i is)
    have hle : i ≤ (i :: is).getLast (List.cons_ne_nil i is) := by
      rcases List.mem_cons.mp hmem with heq | hin
      · exact heq.ge
      · exact (hlast _ hin).le
    have hlt := hrange _ hmem
    rw [List.getLast?_eq_some_getLast (List.cons_ne_nil i is)]
    dsimp only [List.headD_cons]
    omega

/-- Where the enabled bytes are contiguous, every byte of the span is enabled. -/
theorem testBit_of_maskWhole {be i : Nat} (h : maskWhole be = true) (hi : i < (maskSpan be).2 - (maskSpan be).1) :
    be.testBit ((maskSpan be).1 + i) = true := by
  have hspan : be % 2 ^ 32 = (2 ^ ((maskSpan be).2 - (maskSpan be).1) - 1) * 2 ^ (maskSpan be).1 := of_decide_eq_true h
  have hbit : (be % 2 ^ 32).testBit ((maskSpan be).1 + i) = true := by
    rw [hspan, Nat.testBit_mul_two_pow]
    simp [hi]
  rw [Nat.testBit_mod_two_pow, Bool.and_eq_true] at hbit
  exact hbit.2

/-! ## The request -/

/-- The mask of byte enables of a request's body. -/
def bodyMask (b : List Byte) : Nat := leNat ((b.drop 48).take 4)

/-- The address of the first byte that a request's body enables. -/
def bodyAddr (b : List Byte) : Nat := txFld b 24 35 * 32 + (maskSpan (bodyMask b)).1

/-- The bytes from the first to the last that a request's body enables. -/
def bodyLen (b : List Byte) : Nat := (maskSpan (bodyMask b)).2 - (maskSpan (bodyMask b)).1

theorem bodyAddr_lt {b : List Byte} (h : 0 < (maskSpan (bodyMask b)).2) : bodyAddr b < 2 ^ 40 := by
  have hblock : txFld b 24 35 < 2 ^ 35 := Nat.mod_lt _ (by decide)
  obtain ⟨hlt, hle⟩ := maskSpan_bounds h
  unfold bodyAddr
  omega

theorem bodyAddr_mod {b : List Byte} (h : 0 < (maskSpan (bodyMask b)).2) : bodyAddr b % 32 = (maskSpan (bodyMask b)).1 := by
  obtain ⟨hlt, hle⟩ := maskSpan_bounds h
  unfold bodyAddr
  omega

theorem bodyLen_bounds {b : List Byte} (h : 0 < (maskSpan (bodyMask b)).2) : 0 < bodyLen b ∧ bodyAddr b % 32 + bodyLen b ≤ 32 := by
  obtain ⟨hlt, hle⟩ := maskSpan_bounds h
  rw [bodyAddr_mod h]
  unfold bodyLen
  omega

/-- The fabric request that serves body b. -/
def serveReq (s : State) (wr : Bool) (b : List Byte) : FabReq :=
  { id := s.memc.nextId, ini := .remote (Fin.ofNat 8 (txFld b 16 3)), kind := if wr then .store else .load, addr := bodyAddr b, len := bodyLen b
    data := if wr then ((b.drop 16).drop (maskSpan (bodyMask b)).1).take (bodyLen b) else [], cst := 0, cls := 4, here := false
    mask := if maskWhole (bodyMask b) then none else some (bodyMask b), st := .waiting }

/-- Machine s once the request for body b of link n has been made. -/
def serveAsked (n : Nat) (wr : Bool) (b : List Byte) (s : State) : State :=
  ({ s with memc := { s.memc with reqs := s.memc.reqs ++ [serveReq s wr b], nextId := s.memc.nextId + 1 } } : State).onLink n
    (fun l => { l with serving := l.serving ++ [(s.memc.nextId, wr, b)] })

theorem serve_of_admitted {n : Nat} {wr : Bool} {b : List Byte} {s : State}
    (hst : s.serveStatus (txFld b 16 3) (bodyAddr b) (bodyLen b) wr = 0) (hlen : 0 < bodyLen b) (ecc : EccHit) :
    serve n wr ecc b s = grantNow (serveReq s wr b).id 4 ecc (serveAsked n wr b s) := by
  have hne : ¬ bodyLen b = 0 := by omega
  exact (if_neg (not_not_intro hst)).trans (if_neg hne)

/-- A device that serves no request refuses it (R326). -/
theorem serve_refused {s : State} (h : bit (s.reg aMemcRmtCfg) 0 = false) (n : Nat) (wr : Bool) (ecc : EccHit) (b : List Byte) :
    serve n wr ecc b s = serveEnd n wr b 3 [] s := by
  have hst (src a len : Nat) : s.serveStatus src a len wr = 3 := by simp [State.serveStatus, h]
  unfold serve
  simp only [hst]
  rfl

theorem serveStatus_of_plain {s : State} {src a n : Nat} {wr : Bool} {x : Nat} (hcfg : bit (s.reg aMemcRmtCfg) 0 = true)
    (hpass : s.campPass src = true) (hown : plainAddr (ownTarget a) = some x) (hheld : wr = true → s.stagingHeld = false) :
    s.serveStatus src a n wr = 0 := by
  obtain ⟨r, hr⟩ := plainAddr_eq_some.mp hown
  simp only [State.serveStatus, hcfg, hpass, hr, Bool.not_true, Bool.or_self, Bool.false_eq_true, if_false]
  cases wr with
  | false => simp
  | true => simp [hheld rfl]

theorem State.fabricIdle_iff {s : State} : s.fabricIdle = true ↔ s.fclkRuns = true ∧ s.memc.reqs = [] ∧ s.memc.wb = [] ∧ s.pcie.ops = [] ∧
    s.sap.puts = [] ∧ s.sap.gets = [] ∧ ∀ m < 8, (s.link m).serving = [] := by
  simp [State.fabricIdle, and_assoc]

theorem findSome?_of_only {α β : Type} [DecidableEq α] {f : α → Option β} {l : List α} {n : α} {y : β} (hn : n ∈ l) (hf : f n = some y)
    (hothers : ∀ m ∈ l, m ≠ n → f m = none) : l.findSome? f = some y := by
  induction l with
  | nil => cases hn
  | cons m l ih =>
    by_cases hm : m = n
    · rw [List.findSome?_cons, hm, hf]
    · rw [List.findSome?_cons, hothers m List.mem_cons_self hm]
      exact ih ((List.mem_cons.mp hn).resolve_left (Ne.symm hm)) fun k hk => hothers k (List.mem_cons_of_mem m hk)

/-- In an idle fabric the request for a body is alone. -/
theorem serveAsked_serves {s : State} (h : s.fabricIdle = true) {n : Nat} (hn : n < 8) (wr : Bool) (b : List Byte) :
    (serveAsked n wr b s).Serves (serveReq s wr b) n wr b := by
  obtain ⟨hclk, hreqs, hwb, hops, hputs, hgets, hserving⟩ := State.fabricIdle_iff.mp h
  refine ⟨hclk, ?_, rfl, rfl, ?_, hgets, hputs, hops, ?_⟩
  · show s.memc.reqs ++ _ = _
    rw [hreqs, List.nil_append]
  · intro c bw _
    have hwb' : (serveAsked n wr b s).memc.wb = [] := hwb
    simp [State.wbWaits, hwb']
  · have hlink (m : Nat) : ((serveAsked n wr b s).link m).serving =
        if m = n then (s.link n).serving ++ [(s.memc.nextId, wr, b)] else (s.link m).serving := by
      refine (congrArg Link.serving (State.link_onLink _ n _ m)).trans ?_
      split <;> rfl
    refine findSome?_of_only (n := n) (List.mem_range.mpr hn) ?_ fun m hm hne => ?_
    · rw [hlink, if_pos rfl, hserving n hn]
      simp [serveReq]
    · rw [hlink, if_neg hne, hserving m (List.mem_range.mp hm)]
      rfl

theorem State.taken_fabricIdle (s : State) (n vc : Nat) : (s.taken n vc).fabricIdle = s.fabricIdle := by
  obtain ⟨f, hf⟩ := s.taken_link n vc
  have hserving (m : Nat) : ((s.taken n vc).link m).serving = (s.link m).serving := by
    by_cases hm : m = n
    · rw [hm, hf]
    · exact congrArg Link.serving ((s.link_setLink n _ m).trans (if_neg hm))
  simp only [State.fabricIdle, hserving]
  rfl

/-- What the request that writes for a body writes at an address, in terms of the body. -/
theorem serveReq_byte (s : State) {b : List Byte} (hmask : 0 < (maskSpan (bodyMask b)).2) (a : Nat) :
    (if bodyAddr b ≤ a ∧ a < bodyAddr b + bodyLen b ∧
        (∀ be ∈ (serveReq s true b).mask, be.testBit (bodyAddr b % 32 + (a - bodyAddr b)) = true)
      then (serveReq s true b).data.getD (a - bodyAddr b) 0 else s.byte a) =
    if bodyAddr b ≤ a ∧ a < bodyAddr b + bodyLen b ∧ (bodyMask b).testBit ((maskSpan (bodyMask b)).1 + (a - bodyAddr b)) = true
      then b.getD (16 + (maskSpan (bodyMask b)).1 + (a - bodyAddr b)) 0 else s.byte a := by
  rw [bodyAddr_mod hmask]
  by_cases hin : bodyAddr b ≤ a ∧ a < bodyAddr b + bodyLen b
  · have hoff : a - bodyAddr b < bodyLen b := by omega
    have hget : (serveReq s true b).data.getD (a - bodyAddr b) 0 = b.getD (16 + (maskSpan (bodyMask b)).1 + (a - bodyAddr b)) 0 := by
      refine (getD_take hoff).trans ?_
      rw [List.drop_drop, List.getD_eq_getElem?_getD, List.getElem?_drop, List.getD_eq_getElem?_getD]
    have henabled : (∀ be ∈ (serveReq s true b).mask, be.testBit ((maskSpan (bodyMask b)).1 + (a - bodyAddr b)) = true) ↔
        (bodyMask b).testBit ((maskSpan (bodyMask b)).1 + (a - bodyAddr b)) = true := by
      cases hwhole : maskWhole (bodyMask b) with
      | true => simp [serveReq, hwhole, testBit_of_maskWhole hwhole hoff]
      | false => simp [serveReq, hwhole]
    simp only [hget, henabled]
  · rw [if_neg fun h => hin ⟨h.1, h.2.1⟩, if_neg fun h => hin ⟨h.1, h.2.1⟩]

/-! ## Served requests -/

section
variable {s : State} {n : Nat} {b : List Byte} (hidle : s.fabricIdle = true) (hn : n < 8) (hcfg : bit (s.reg aMemcRmtCfg) 0 = true)
  (hpass : s.campPass (txFld b 16 3) = true) (hmask : 0 < (maskSpan (bodyMask b)).2) {x : Nat}
  (hown : plainAddr (ownTarget (bodyAddr b)) = some x) {ecc : EccHit} (hue : ueHit ecc = false)
include hidle hn hcfg hpass hmask hown hue

/-- A read that this device serves is answered with the bytes of memory (R525). -/
theorem serve_read (hx : plainAddr (s.access false false (bodyAddr b) (bodyLen b)) = some x)
    (hawake : s.awake (s.access false false (bodyAddr b) (bodyLen b)) = true) :
    (serve n false ecc b s).mem = s.mem ∧
      s.Answers (serve n false ecc b s) n (s.serveMsg false b 0 (serveData false b (s.bytes x (bodyLen b)))) := by
  obtain ⟨hlen, hblock⟩ := bodyLen_bounds hmask
  obtain ⟨r, hr⟩ := plainAddr_eq_some.mp hx
  rw [serve_of_admitted (serveStatus_of_plain hcfg hpass hown (by simp)) hlen]
  obtain ⟨hmem, hcpl, hrx⟩ := (serveAsked_serves hidle hn false b).read rfl rfl rfl (bodyAddr_lt hmask) hr hblock hlen (hr ▸ hawake) hue
  have hlink : (serveAsked n false b s).link n = { s.link n with serving := (s.link n).serving ++ [(s.memc.nextId, false, b)] } :=
    (State.link_onLink _ n _ n).trans (if_pos rfl)
  exact ⟨hmem, hcpl.trans (by rw [hlink]; rfl), hrx.trans (by rw [hlink])⟩

/-- A write that this device serves stores the bytes that its byte enables name (R525). -/
theorem serve_write (hheld : s.stagingHeld = false) (hbody : 48 ≤ b.length)
    (hx : plainAddr (s.access false true (bodyAddr b) (bodyLen b)) = some x)
    (hawake : s.awake (s.access false true (bodyAddr b) (bodyLen b)) = true) :
    (∀ a, (serve n true ecc b s).byte a =
      if x ≤ a ∧ a < x + bodyLen b ∧ (bodyMask b).testBit ((maskSpan (bodyMask b)).1 + (a - x)) = true
      then b.getD (16 + (maskSpan (bodyMask b)).1 + (a - x)) 0 else s.byte a) ∧
      s.Answers (serve n true ecc b s) n (s.serveMsg true b 0 []) := by
  obtain ⟨hlen, hblock⟩ := bodyLen_bounds hmask
  obtain ⟨hlt, hle⟩ := maskSpan_bounds hmask
  obtain ⟨r, hr⟩ := plainAddr_eq_some.mp hx
  have hdata : (((b.drop 16).drop (maskSpan (bodyMask b)).1).take (bodyLen b)).length = bodyLen b := by
    simp only [List.length_take, List.length_drop]
    unfold bodyLen
    omega
  obtain ⟨rfl, -⟩ := State.block_parts (bodyAddr_lt hmask) hr hblock hlen (hr ▸ hawake)
  rw [serve_of_admitted (serveStatus_of_plain hcfg hpass hown (fun _ => hheld)) hlen]
  obtain ⟨hwrites, hcpl, hrx⟩ := (serveAsked_serves hidle hn true b).write rfl rfl hdata (bodyAddr_lt hmask) hr hblock hlen
    (hr ▸ hawake) hheld hue
  have hlink : (serveAsked n true b s).link n = { s.link n with serving := (s.link n).serving ++ [(s.memc.nextId, true, b)] } :=
    (State.link_onLink _ n _ n).trans (if_pos rfl)
  refine ⟨fun a => (hwrites a).trans ?_, hcpl.trans (by rw [hlink]; rfl), hrx.trans (by rw [hlink])⟩
  exact serveReq_byte s hmask a

end

end Sys2Proof.Machine
end

section
/-! The rows of a link's transactions (spec/13_strand_camps.md, R525 to R533; spec/07_memory.md, R326). -/

namespace Sys2Proof.Machine

/-! ## Requests that a device serves -/

section
variable {s : State} {n : Fin 8} {e : Nat × Nat × List Byte} {ecc : EccHit} (he : (s.link n).rx.head? = some e) (hkind : e.1 = 1)
include he hkind

theorem rdRow_head (hvc : e.2.1 = 1) (hty : (e.2.2.headD 0).toNat % 16 = 0) :
    rdRow n ecc s = serve n false ecc e.2.2 (s.taken n 1) := by
  simp only [rdRow, takeRx_head he hkind hvc hty]

theorem wrRow_head (hvc : e.2.1 = 0) (hty : (e.2.2.headD 0).toNat % 16 = 1) :
    wrRow n ecc s = serve n true ecc e.2.2 (s.taken n 0) := by
  simp only [wrRow, takeRx_head he hkind hvc hty]

end

/-- What joins the answers after the oldest body has been taken joins those that waited before. -/
theorem State.Answers.of_taken {s t : State} {n vc : Nat} {msg : List Byte} (h : (s.taken n vc).Answers t n msg) :
    (t.link n).cplQ.map (fun q => q.body) = (s.link n).cplQ.map (fun q => q.body) ++ [msg] ∧ (t.link n).rx = (s.link n).rx.tail := by
  obtain ⟨f, hf⟩ := s.taken_link n vc
  obtain ⟨hcpl, hrx⟩ := h
  rw [hf] at hcpl hrx
  exact ⟨hcpl, hrx⟩

/-- A device that serves no request answers REFUSED, and leaves memory (R326). -/
theorem serve_taken_refused {s : State} (h : bit (s.reg aMemcRmtCfg) 0 = false) (n vc : Nat) (wr : Bool) (ecc : EccHit) (b : List Byte) :
    (serve n wr ecc b (s.taken n vc)).mem = s.mem ∧ (s.taken n vc).Answers (serve n wr ecc b (s.taken n vc)) n (s.serveMsg wr b 3 []) := by
  rw [serve_refused (s := s.taken n vc) h]
  exact ⟨rfl, serveEnd_answers n wr b 3 [] (s.taken n vc)⟩

/-! ## Registers and the write-fault queue -/

theorem execWfqPop_leaves (s : State) (n : Fin 8) :
    ∃ t, exec (.wfqPop n) s = .next t ∧ (t.link n).wfq = (s.link n).wfq.tail ∧ t.regs = s.regs :=
  ⟨wfqPop n s, rfl, by rw [wfqPop, State.link_onLink, if_pos rfl], rfl⟩

theorem execStrTtoWrite_eq (s : State) (n : Fin 8) (v : Word) :
    if fld v 0 16 < 64 then exec (.strTtoWrite n v) s = .next (s.orReg (aStrStat n) 0x80000)
    else exec (.strTtoWrite n v) s = .next (s.setReg (aStrTto n) (v &&& 0xFFFF)) := by
  split
  case isTrue h => exact congrArg Host.Outcome.next (if_pos h)
  case isFalse h => exact congrArg Host.Outcome.next (if_neg h)

/-! ## The rows together -/

/-- Settles O44: a request of another member is served alone in an idle fabric, in at most two beats; an answer of the tag's epoch ends the
transaction of its tag, and a timeout ends it here. -/
theorem transactionRows : Obligations.TransactionRows := by
  unfold Obligations.TransactionRows
  refine ⟨?_, ?_, ?_, ?_, ?_, execWfqPop_leaves, execStrTtoWrite_eq⟩
  case refine_1 =>
    intro s n ecc hue e he hkind hvc hty
    have hexec : exec (.rd n ecc) s = .next (serve n false ecc e.2.2 (s.taken n 1)) := congrArg Host.Outcome.next (rdRow_head he hkind hvc hty)
    constructor
    · intro hcfg hpass hidle hmask x hx hown hawake
      obtain ⟨hmem, hans⟩ := serve_read (s := s.taken n 1) ((s.taken_fabricIdle n 1).trans hidle) n.isLt hcfg hpass hmask hown hue hx hawake
      obtain ⟨hcpl, hrx⟩ := hans.of_taken
      exact ⟨_, hexec, hmem, hrx, hcpl⟩
    · intro hcfg
      obtain ⟨hmem, hans⟩ := serve_taken_refused hcfg n 1 false ecc e.2.2
      exact ⟨_, hexec, hmem, hans.of_taken.1⟩
  case refine_2 =>
    intro s n ecc hue e he hkind hvc hty
    have hexec : exec (.wr n ecc) s = .next (serve n true ecc e.2.2 (s.taken n 0)) := congrArg Host.Outcome.next (wrRow_head he hkind hvc hty)
    constructor
    · intro hcfg hpass hidle hheld hmask hbody x hx hown hawake
      obtain ⟨hbyte, hans⟩ := serve_write (s := s.taken n 0) ((s.taken_fabricIdle n 0).trans hidle) n.isLt hcfg hpass hmask hown hue hheld
        hbody hx hawake
      exact ⟨_, hexec, hbyte, hans.of_taken.1⟩
    · intro hcfg
      obtain ⟨hmem, hans⟩ := serve_taken_refused hcfg n 0 true ecc e.2.2
      exact ⟨_, hexec, hmem, hans.of_taken.1⟩
  case refine_3 =>
    intro s n e he hkind hvc
    refine ⟨fun hty x hx htep hok => ?_, fun hty x hx htep hwr hroom => ?_, fun hty htep => ?_⟩
    · exact ⟨strCpl n s, rfl, strCpl_ends he hkind hvc hty hx htep hok⟩
    · exact ⟨strPwfn n s, rfl, strPwfn_leaves he hkind hvc hty hx htep hwr hroom⟩
    · exact ⟨strCpl n s, rfl, strCpl_late_leaves he hkind hvc hty htep⟩
  case refine_4 =>
    intro s n e he hkind hvc hty hrest hfirst x hx htep _
    exact ⟨strWack n s, rfl, strWack_leaves he hkind hvc hty hrest hfirst hx htep⟩
  case refine_5 =>
    intro s n tag x hx
    have hexec : exec (.transactionTimeout n tag) s = _ := execTransactionTimeout_found hx
    constructor
    · intro hleft
      rw [if_pos hleft] at hexec
      have hleaves := timeout_leaves (s := s) (n := n) (x := x)
      rw [tag_of_find hx] at hleaves
      exact ⟨_, hexec, hleaves⟩
    · intro hleft
      rw [hexec, hleft]
      rfl

end Sys2Proof.Machine
end

section
/-! The state of a Ferry channel (spec/08_ferry.md): what is read of a channel and of a register after each write, and what an operation of
channel n leaves beside that channel. -/

namespace Sys2Proof.Machine

/-! ## Reads after writes -/

@[simp] theorem State.fry_setFry (s : State) (n : Nat) (c : Ferry) (m : Nat) : (s.setFry n c).fry m = if m = n then c else s.fry m :=
  smGet_smSet (fun _ => Ferry.reset) s.ferry n c m

@[simp] theorem State.fry_onFry (s : State) (n : Nat) (f : Ferry → Ferry) (m : Nat) :
    (s.onFry n f).fry m = if m = n then f (s.fry n) else s.fry m :=
  s.fry_setFry n (f (s.fry n)) m

@[simp] theorem State.fry_setReg (s : State) (a : Nat) (v : Word) (m : Nat) : (s.setReg a v).fry m = s.fry m := rfl

@[simp] theorem State.fry_incSat (s : State) (a m : Nat) : (s.incSat a).fry m = s.fry m := rfl

@[simp] theorem State.fry_dropReq (s : State) (id m : Nat) : (s.dropReq id).fry m = s.fry m := rfl

@[simp] theorem State.fry_request (s : State) (ini : Initiator) (kind : FabKind) (a k : Nat) (data : List Byte) (cst : Nat)
    (mask : Option Nat) (m : Nat) : (s.request ini kind a k data cst mask).1.fry m = s.fry m := rfl

@[simp] theorem fry_fryFlag (n : Nat) (v : Word) (s : State) (m : Nat) : (fryFlag n v s).fry m = s.fry m := rfl

@[simp] theorem State.snd_request (s : State) (ini : Initiator) (kind : FabKind) (a k : Nat) (data : List Byte) (cst : Nat)
    (mask : Option Nat) : (s.request ini kind a k data cst mask).2 = s.memc.nextId := rfl

@[simp] theorem State.setFry_memc (s : State) (n : Nat) (c : Ferry) : (s.setFry n c).memc = s.memc := rfl

@[simp] theorem State.reg_setFry (s : State) (n : Nat) (c : Ferry) (a : Nat) : (s.setFry n c).reg a = s.reg a := rfl

@[simp] theorem State.reg_onFry (s : State) (n : Nat) (f : Ferry → Ferry) (a : Nat) : (s.onFry n f).reg a = s.reg a := rfl

@[simp] theorem State.reg_request (s : State) (ini : Initiator) (kind : FabKind) (a k : Nat) (data : List Byte) (cst : Nat)
    (mask : Option Nat) (b : Nat) : (s.request ini kind a k data cst mask).1.reg b = s.reg b := rfl

@[simp] theorem reg_fryFlag (n : Nat) (m : Word) (s : State) (a : Nat) :
    (fryFlag n m s).reg a = if a = aFryStat n then s.reg (aFryStat n) ||| m else s.reg a :=
  s.reg_orReg (aFryStat n) m a

/-- A flag of FRYn_STAT is set once the mask that holds its bit has been. -/
theorem bit_fryFlag {m : Word} {i : Nat} (hi : bit m i = true) (n : Nat) (s : State) : bit ((fryFlag n m s).reg (aFryStat n)) i = true := by
  rw [reg_fryFlag, if_pos rfl]
  exact bit_or_right hi _

/-! ## What an operation of channel n leaves -/

/-- A machine without the requests of the fabric, channel n and the registers of its block: what an operation of channel n leaves. -/
def State.beside (s : State) (n : Nat) : State × (Nat → Ferry) × (Nat → Word) :=
  ({ s with regs := [], memc := MemCtl.reset, ferry := [] }, fun m => if m = n then Ferry.reset else s.fry m,
    fun a => if a / 0x1000 = 0x40300 + n then 0 else s.reg a)

section
variable (s : State) (n : Nat)

@[simp] theorem State.beside_setFry (c : Ferry) : (s.setFry n c).beside n = s.beside n := by
  have hothers : (fun m => if m = n then Ferry.reset else (s.setFry n c).fry m) = fun m => if m = n then Ferry.reset else s.fry m := by
    funext m
    split
    · rfl
    case isFalse h => rw [State.fry_setFry, if_neg h]
  exact congrArg (fun f => (_, f, _)) hothers

@[simp] theorem State.beside_onFry (f : Ferry → Ferry) : (s.onFry n f).beside n = s.beside n := s.beside_setFry n _

@[simp] theorem State.beside_request (ini : Initiator) (kind : FabKind) (a k : Nat) (data : List Byte) (cst : Nat) (mask : Option Nat) :
    (s.request ini kind a k data cst mask).1.beside n = s.beside n := (rfl)

@[simp] theorem State.beside_dropReq (id : Nat) : (s.dropReq id).beside n = s.beside n := (rfl)

variable {a n : Nat} (h : a / 0x1000 = 0x40300 + n)
include h

@[simp] theorem State.beside_setReg (v : Word) : (s.setReg a v).beside n = s.beside n := by
  have hregs : (fun b => if b / 0x1000 = 0x40300 + n then 0 else (s.setReg a v).reg b) =
      fun b => if b / 0x1000 = 0x40300 + n then 0 else s.reg b := by
    funext b
    split
    · rfl
    case isFalse hb => rw [State.reg_setReg, if_neg fun (e : b = a) => hb (e ▸ h)]
  exact congrArg (fun f => (_, _, f)) hregs

@[simp] theorem State.beside_orReg (m : Word) : (s.orReg a m).beside n = s.beside n := s.beside_setReg h _

@[simp] theorem State.beside_incSat : (s.incSat a).beside n = s.beside n := s.beside_setReg h _

theorem setPair_beside {hi : Nat} (hhi : hi / 0x1000 = 0x40300 + n) (v : Nat) : (setPair a hi v s).beside n = s.beside n :=
  (State.beside_setReg _ hhi _).trans (s.beside_setReg h _)

end

/-- A register at offset k of the first channel's block stands, for channel n, in the block of channel n. -/
@[simp] theorem ferryBlock_eq {k : Nat} (hk : k / 0x1000 = 0x40300) (n : Nat) : (k + 0x1000 * n) / 0x1000 = 0x40300 + n := by omega

theorem ite_beside {p : Prop} [Decidable p] {s u : State} {n : Nat} {v : State × (Nat → Ferry) × (Nat → Word)} (hs : s.beside n = v)
    (hu : u.beside n = v) : (if p then s else u).beside n = v := by
  split
  · exact hs
  · exact hu

@[simp] theorem State.beside_ite (p : Prop) [Decidable p] (s u : State) (n : Nat) :
    (if p then s else u).beside n = if p then s.beside n else u.beside n := apply_ite (State.beside · n) p s u

section
variable (n : Nat) (s : State)

@[simp] theorem fryFlag_beside (m : Word) : (fryFlag n m s).beside n = s.beside n := s.beside_orReg (by simp) m

@[simp] theorem fryError_beside (code addr : Nat) : (fryError n code addr s).beside n = s.beside n := by
  simp [fryError, setPair_beside]

@[simp] theorem fryComplete_beside : (fryComplete n s).beside n = s.beside n := by
  simp [fryComplete]

@[simp] theorem fryShow_beside (m : FryMove) : (fryShow n m s).beside n = s.beside n := by
  simp [fryShow, setPair_beside]

@[simp] theorem fryFetch_beside (a : Nat) (needed : Bool) : (fryFetch n a needed s).beside n = s.beside n := by
  simp [fryFetch]

@[simp] theorem fryWant_beside : (fryWant n s).beside n = s.beside n := by
  unfold fryWant
  dsimp only
  split
  · split <;> simp
  · split
    · split <;> simp
    · simp

@[simp] theorem frySettle_beside : (frySettle n s).beside n = s.beside n := by
  simp [frySettle]

@[simp] theorem fryNext_beside (k : Nat) : (fryNext n k s).beside n = s.beside n := by
  simp [fryNext]

@[simp] theorem fryGoto_beside (a : Nat) (discard : Bool) : (fryGoto n a discard s).beside n = s.beside n := by
  simp [fryGoto]

@[simp] theorem fryHalfFull_beside : (fryHalfFull n s).beside n = s.beside n := by
  simp [fryHalfFull]

@[simp] theorem fryFoldBytes_beside (bs : List Byte) : (fryFoldBytes n bs s).beside n = s.beside n := by
  simp [fryFoldBytes]

@[simp] theorem fryWrite_beside (a : Nat) (bs : List Byte) (tag elem : Nat) : (fryWrite n a bs tag elem s).beside n = s.beside n := by
  simp [fryWrite]

@[simp] theorem fryWriteBeat_beside (m : FryMove) : (fryWriteBeat n m s).beside n = s.beside n := by
  simp [fryWriteBeat]

@[simp] theorem fryPump_beside (fuel : Nat) : (fryPump n fuel s).beside n = s.beside n := by
  induction fuel generalizing s with
  | zero => rfl
  | succ fuel ih =>
    unfold fryPump
    dsimp only
    split
    · rfl
    · split
      · simp
      · split
        · simp
        · split <;> simp [ih]

@[simp] theorem fryReadBeat_beside (m : FryMove) : (fryReadBeat n m s).beside n = s.beside n := by
  have hissue {p q : Prop} [Decidable p] [Decidable q] (addr : Nat) {u : State} (hu : u.beside n = s.beside n) :
      (if p then s else if q then fryError n 5 addr s else u).beside n = s.beside n :=
    ite_beside rfl (ite_beside (fryError_beside n s 5 addr) hu)
  unfold fryReadBeat
  dsimp only
  refine ite_beside rfl (ite_beside (ite_beside (ite_beside (fryError_beside n s _ _) (fryError_beside n s _ _)) rfl)
    (ite_beside (hissue _ ?_) (ite_beside (hissue _ ?_) (ite_beside (hissue _ ?_) (ite_beside rfl (hissue _ ?_))))))
  all_goals rw [State.beside_onFry, State.beside_request]

@[simp] theorem fryFoldBeat_beside (addr left toFold : Nat) : (fryFoldBeat n addr left toFold s).beside n = s.beside n := by
  simp [fryFoldBeat]

@[simp] theorem fryWaitOn_beside (w : FryWait) (now : Bool) : (fryWaitOn n w now s).beside n = s.beside n := by
  simp [fryWaitOn]

@[simp] theorem fryWaitEnd_beside : (fryWaitEnd n s).beside n = s.beside n := by simp [fryWaitEnd]

@[simp] theorem fryWake_beside : (fryWake n s).beside n = s.beside n := by simp [fryWake]

@[simp] theorem fryFetched_beside : (fryFetched n s).beside n = s.beside n := by
  unfold fryFetched
  dsimp only
  split
  · rfl
  · split
    · split <;> simp
    · split_ifs <;> simp
    · rfl

@[simp] theorem fryReadData_beside (id : Nat) : (fryReadData n id s).beside n = s.beside n := by
  unfold fryReadData
  dsimp only
  split
  · rfl
  · split
    · split_ifs
      · simp
      · rfl
      · split
        · split <;> simp
        · simp
    · split <;> simp
    · rfl

@[simp] theorem fryWriteAck_beside (id : Nat) : (fryWriteAck n id s).beside n = s.beside n := by
  unfold fryWriteAck
  dsimp only
  split
  · rfl
  · split
    · split_ifs <;> simp
    · split_ifs <;> simp [setPair_beside]
    · rfl

@[simp] theorem fryRefuse_beside : (fryRefuse n s).beside n = s.beside n := fryFlag_beside n s _

@[simp] theorem fryStart_beside : (fryStart n s).beside n = s.beside n := by
  simp [fryStart]

@[simp] theorem fryPause_beside : (fryPause n s).beside n = s.beside n := by
  simp [fryPause]

@[simp] theorem fryApply_beside : (fryApply n s).beside n = s.beside n := by
  simp [fryApply]

@[simp] theorem fryResume_beside : (fryResume n s).beside n = s.beside n := by
  simp [fryResume]

@[simp] theorem fryStop_beside : (fryStop n s).beside n = s.beside n := by
  unfold fryStop
  dsimp only
  split
  · simp
  · split <;> simp

@[simp] theorem fryAbort_beside : (fryAbort n s).beside n = s.beside n := by
  unfold fryAbort
  dsimp only
  split <;> simp

@[simp] theorem fryClear_beside : (fryClear n s).beside n = s.beside n := by
  simp [fryClear]

@[simp] theorem fryRegWrite_beside (which : Nat) (v : Word) : (fryRegWrite n which v s).beside n = s.beside n := by
  unfold fryRegWrite
  split
  · split <;> simp
  · simp

end

end Sys2Proof.Machine
end

section
/-! The rows of a Ferry channel and what they leave (spec/08_ferry.md, R340, R346, R354, Table 08-10). -/

namespace Sys2Proof.Machine

/-! ## What the rows of channel n leave -/

/-- Machine t is s but for the requests of the fabric, channel n, the registers of its block and of the flags, and releases of other
channels. -/
structure State.FerryLeaves (n : Nat) (s t : State) : Prop where
  rest   : ({ t with regs := [], memc := MemCtl.reset, ferry := [] } : State) = { s with regs := [], memc := MemCtl.reset, ferry := [] }
  others : ∀ m, m ≠ n → t.fry m = s.fry m ∨ t.fry m = { s.fry m with released := true }
  regs   : ∀ a, a / 0x1000 ≠ 0x40300 + n → a ≠ aFrygFlag → a ≠ aFrygFlagHi → t.reg a = s.reg a

theorem State.FerryLeaves.of_beside {n : Nat} {s t : State} (h : t.beside n = s.beside n) : s.FerryLeaves n t := by
  obtain ⟨hrest, hothers, hregs⟩ : _ ∧ _ ∧ _ := by simpa only [State.beside, Prod.mk.injEq] using h
  refine ⟨hrest, fun m hm => .inl ?_, fun a ha _ _ => ?_⟩
  · simpa only [if_neg hm] using congrFun hothers m
  · simpa only [if_neg ha] using congrFun hregs a

theorem State.FerryLeaves.trans {n : Nat} {s t u : State} (h : s.FerryLeaves n t) (h' : t.FerryLeaves n u) : s.FerryLeaves n u := by
  refine ⟨h'.rest.trans h.rest, fun m hm => ?_, fun a ha hf hfh => (h'.regs a ha hf hfh).trans (h.regs a ha hf hfh)⟩
  rcases h'.others m hm with h2 | h2 <;> rcases h.others m hm with h1 | h1 <;> simp [h1, h2]

theorem State.FerryLeaves.mem {n : Nat} {s t : State} (h : s.FerryLeaves n t) : t.mem = s.mem := by
  have hmem := congrArg State.mem h.rest
  exact hmem

/-! ## Flags -/

theorem setFlagBit_leaves (n f : Nat) (v : Bool) (s : State) : s.FerryLeaves n (setFlagBit f v s) := by
  unfold setFlagBit
  split
  · exact ⟨rfl, fun _ _ => .inl rfl, fun a _ ha _ => (s.reg_setReg aFrygFlag _ a).trans (if_neg ha)⟩
  · exact ⟨rfl, fun _ _ => .inl rfl, fun a _ _ ha => (s.reg_setReg aFrygFlagHi _ a).trans (if_neg ha)⟩

/-- Channels that a set flag releases, as a condition on their entries, are recorded as released. -/
theorem release_leaves (n : Nat) (p : Nat × Ferry → Bool) (s : State) :
    s.FerryLeaves n { s with ferry := s.ferry.map (fun e => if p e then (e.1, { e.2 with released := true }) else e) } := by
  refine ⟨rfl, fun m _ => ?_, fun _ _ _ _ => rfl⟩
  refine smGet_map (R := fun a b => b = a ∨ b = { a with released := true }) (fun e => ?_) (fun e => ?_) (fun _ => .inl rfl) s.ferry m
  · dsimp only
    split <;> rfl
  · dsimp only
    split
    · exact .inr rfl
    · exact .inl rfl

theorem flagSet_leaves (n f : Nat) (s : State) : s.FerryLeaves n (flagSet f s) := by
  have hrel (p : Nat × Ferry → Bool) := (setFlagBit_leaves n f true s).trans (release_leaves n p (setFlagBit f true s))
  unfold flagSet
  dsimp only
  split
  · exact (hrel _).trans (setFlagBit_leaves n f false _)
  · exact hrel _

/-! ## Instructions -/

theorem fryExec_leaves (n : Nat) (i : FInstr) (fired : Nat → Bool) (entries : Nat → Nat) (s : State) :
    s.FerryLeaves n (fryExec n i fired entries s) := by
  cases i with
  | sigFlag f v =>
    unfold fryExec
    dsimp only
    split
    · refine State.FerryLeaves.trans ?_ (.of_beside (fryNext_beside n _ 1))
      split
      · exact flagSet_leaves n f s
      · exact setFlagBit_leaves n f false s
    · exact .of_beside (by simp)
  | waitFlag f take =>
    unfold fryExec
    dsimp only
    split
    · refine State.FerryLeaves.trans ?_ (.of_beside (fryWaitOn_beside n _ (.flag f take) true))
      split
      · exact setFlagBit_leaves n f false s
      · exact .of_beside rfl
    · exact .of_beside (by simp)
  | move m =>
    refine .of_beside ?_
    unfold fryExec
    dsimp only
    split
    · simp
    · split <;> simp
  | endl =>
    refine .of_beside ?_
    unfold fryExec
    dsimp only
    split
    · simp
    · split <;> simp
  | crcFold a k =>
    refine .of_beside ?_
    unfold fryExec
    dsimp only
    split
    · simp
    · split <;> simp
  | _ => exact .of_beside (by simp [fryExec])

theorem fryStep_leaves (n : Nat) (want : FInstr → Bool) (fired : Nat → Bool) (entries : Nat → Nat) (s : State) :
    s.FerryLeaves n (fryStep n want fired entries s) := by
  unfold fryStep
  dsimp only
  split
  · split
    · refine .of_beside ?_
      split
      · split <;> simp
      · simp
    · exact fryExec_leaves n _ fired entries s
    · split
      · exact (fryExec_leaves n _ fired entries s).trans (.of_beside (frySettle_beside n _))
      · exact .of_beside rfl
  · exact .of_beside rfl

/-! ## Rows -/

theorem fryRun_leaves (n : Nat) (want : FInstr → Bool) (s : State) : s.FerryLeaves n (fryRun n want s) :=
  fryStep_leaves n want _ _ s

theorem abortEdge_leaves (n : Nat) (e : AbortEdge) (s : State) : s.FerryLeaves n (abortEdge n e s) := by
  cases e with
  | none => exact .of_beside rfl
  | fetched => exact .of_beside (fryFetched_beside n s)
  | read id => exact .of_beside (fryReadData_beside n s id)
  | ack id => exact .of_beside (fryWriteAck_beside n s id)
  | step => exact fryRun_leaves n _ s

theorem abortRow_leaves (n : Nat) (e : AbortEdge) (s : State) : s.FerryLeaves n (abortRow n e s) := by
  have hedge := abortEdge_leaves n e s
  unfold abortRow
  dsimp only
  split
  · exact hedge.trans (.of_beside (by simp))
  · split
    · exact hedge.trans (.of_beside (fryAbort_beside n _))
    · exact .of_beside (fryAbort_beside n s)

/-- What a row of channel n leaves, in the words of the statement. -/
theorem State.FerryLeaves.row {n : Fin 64} {s t : State} (h : s.FerryLeaves n t) :
    t.mem = s.mem ∧ t.tide = s.tide ∧ t.cmps = s.cmps ∧ t.srcs = s.srcs ∧ t.cores = s.cores ∧
      t.threads = s.threads ∧ t.bw = s.bw ∧ t.pending = s.pending ∧ t.draws = s.draws ∧
      (∀ m : Fin 64, m ≠ n → t.fry m = s.fry m ∨ t.fry m = { s.fry m with released := true }) ∧
      ∀ a, (a < aFryCfg n ∨ aFryCfg n + 0x1000 ≤ a) → a ≠ aFrygFlag → a ≠ aFrygFlagHi → t.reg a = s.reg a := by
  obtain ⟨hrest, hothers, hregs⟩ := h
  have hfield {α : Type} (f : State → α) := congrArg f hrest
  refine ⟨hfield State.mem, hfield State.tide, hfield State.cmps, hfield State.srcs, hfield State.cores, hfield State.threads,
    hfield State.bw, hfield State.pending, hfield State.draws, fun m hm => hothers m (Fin.val_ne_of_ne hm), fun a ha => hregs a ?_⟩
  unfold aFryCfg at ha
  omega

/-- Settles O28: every operation of a channel leaves what stands beside the channel; only a flag's change reaches further, to the flag words
and to the channels that it releases. -/
theorem ferryRowsLeaveTheRest : Obligations.FerryRowsLeaveTheRest := by
  unfold Obligations.FerryRowsLeaveTheRest
  intro s t n id w v e c hc hex
  have hrow {u : State} (hu : s.FerryLeaves n u) (h : Host.Outcome.next (φ := Fault) (ρ := Refusal) u = .next t) : s.FerryLeaves n t :=
    Host.Outcome.next.inj h ▸ hu
  have hrun {want : FInstr → Bool} (h : Host.Outcome.next (φ := Fault) (ρ := Refusal) (fryRun n want s) = .next t) : s.FerryLeaves n t :=
    hrow (fryRun_leaves n want s) h
  have hbeside {u : State} (hu : u.beside n = s.beside n) (h : Host.Outcome.next (φ := Fault) (ρ := Refusal) u = .next t) :
      s.FerryLeaves n t := hrow (.of_beside hu) h
  refine State.FerryLeaves.row ?_
  revert c
  simp only [List.forall_mem_cons, List.not_mem_nil, false_imp_iff, imp_true_iff, and_true]
  exact ⟨hrun, hrun, hrun, hrun, hrun, hrun, hrun, hbeside (ite_beside (fryWaitEnd_beside n s) rfl), hrun, hrun, hrun, hrun, hrun, hrun,
    hrun, hrun, hbeside (ite_beside (fryWake_beside n s) rfl), hrun, hrun, hrun, hbeside (ite_beside (fryFetched_beside n s) rfl),
    hbeside (fryReadData_beside n s id), hbeside (fryWriteAck_beside n s id), hbeside (fryStart_beside n s), hbeside (fryPause_beside n s),
    hbeside (fryResume_beside n s), hbeside (fryStop_beside n s), hrow (abortRow_leaves n e s), hbeside (fryClear_beside n s),
    hbeside (fryRefuse_beside n s), hbeside (fryRegWrite_beside n s w v)⟩

end Sys2Proof.Machine
end

section
/-! FLAG_SET and FLAG_CLR (spec/08_ferry.md, R354, R355, Table 08-12), and the commands that have no meaning (R724). -/

namespace Sys2Proof.Machine

/-! ## One bit of a word -/

/-- The bits of a number given by its bit k, what is above it and what is below it. -/
theorem testBit_around {k r : Nat} (hr : r < 2 ^ k) (h : Nat) (b : Bool) (i : Nat) :
    (2 ^ k * (2 * h + b2n b) + r).testBit i = if i < k then r.testBit i else if i = k then b else h.testBit (i - k - 1) := by
  rw [Nat.testBit_two_pow_mul_add _ hr]
  refine ite_congr rfl (fun _ => rfl) fun hi => ?_
  split
  case isTrue heq => cases b <;> simp [heq, b2n]
  case isFalse hne =>
    obtain ⟨j, hj⟩ : ∃ j, i - k = j + 1 := ⟨i - k - 1, by omega⟩
    have hhalf : (2 * h + b2n b) / 2 = h := by cases b <;> simp only [b2n, Bool.false_eq_true, if_true, if_false] <;> omega
    rw [hj, Nat.testBit_succ, hhalf, Nat.add_sub_cancel]

/-- A bit of a word after a write of one of its bits. -/
theorem bit_setFld_one (v : Word) {k : Nat} (hk : k < 32) (b : Bool) (i : Nat) :
    bit (setFld v k 1 (b2n b)) i = if i = k then b else bit v i := by
  obtain ⟨h, c, r, hr, hv⟩ : ∃ h c r, r < 2 ^ k ∧ v.toNat = 2 ^ k * (2 * h + b2n c) + r := by
    refine ⟨v.toNat / 2 ^ k / 2, decide (v.toNat / 2 ^ k % 2 = 1), v.toNat % 2 ^ k, Nat.mod_lt _ (Nat.two_pow_pos k), ?_⟩
    have hbit : b2n (decide (v.toNat / 2 ^ k % 2 = 1)) = v.toNat / 2 ^ k % 2 := by
      rcases Nat.mod_two_eq_zero_or_one (v.toNat / 2 ^ k) with e | e <;> rw [e] <;> rfl
    rw [hbit, Nat.div_add_mod, Nat.div_add_mod]
  have hfld : fld v k 1 = b2n c := by
    rw [fld, Nat.shiftRight_eq_div_pow, hv, Nat.mul_add_div (Nat.two_pow_pos k), Nat.div_eq_of_lt hr]
    cases c <;> simp only [b2n, Bool.false_eq_true, if_true, if_false] <;> omega
  have hnew : v.toNat - fld v k 1 * 2 ^ k + b2n b % 2 ^ 1 * 2 ^ k = 2 ^ k * (2 * h + b2n b) + r := by
    have hb : b2n b % 2 ^ 1 = b2n b := by cases b <;> rfl
    rw [hfld, hb, hv, Nat.mul_add, Nat.mul_add, Nat.mul_comm (b2n b), Nat.mul_comm (b2n c)]
    omega
  by_cases hi : i < 32
  · have hold : bit v i = v.toNat.testBit i := rfl
    rw [setFld, hnew, bit, BitVec.getLsbD_ofNat, decide_eq_true hi, Bool.true_and, testBit_around hr, hold, hv, testBit_around hr]
    rcases Nat.lt_trichotomy i k with hlt | heq | hgt
    · simp [hlt, hlt.ne]
    · simp [heq]
    · simp [hgt.ne', Nat.not_lt.mpr hgt.le]
  · have hhigh (w : Word) : bit w i = false := BitVec.getLsbD_of_ge w i (by omega)
    rw [hhigh, hhigh, if_neg (by omega)]

/-! ## Flags of a word -/

/-- No channel waits to take a flag: a flag that is set stays set (R354). -/
def State.NoTaker (s : State) : Prop := ∀ e ∈ s.ferry, ∀ f, e.2.wait ≠ .flag f true

/-- The register of flags 0 to 31 or 32 to 63. -/
def flagAddr (hi : Bool) : Nat := if hi then aFrygFlagHi else aFrygFlag

theorem setFlagBit_word (hi : Bool) {b : Nat} (hb : b < 32) (v : Bool) (s : State) :
    setFlagBit ((if hi then 32 else 0) + b) v s = s.setRegFld (flagAddr hi) b 1 (b2n v) := by
  cases hi with
  | false => simp [setFlagBit, flagAddr, hb]
  | true => simp [setFlagBit, flagAddr]

/-- A flag that no channel waits to take is set, and the waits on it release. -/
theorem flagSet_of_noTaker {s : State} (h : s.NoTaker) (f : Nat) :
    flagSet f s = { setFlagBit f true s with ferry := s.ferry.map (fun e =>
      if e.2.inWait && decide (e.2.wait = .flag f false) then (e.1, { e.2 with released := true }) else e) } := by
  have hferry : (setFlagBit f true s).ferry = s.ferry := by
    unfold setFlagBit
    split <;> rfl
  have hnone : s.ferry.find? (fun e => e.2.inWait && !e.2.released && decide (e.2.wait = .flag f true)) = none := by
    rw [List.find?_eq_none]
    intro e he
    simp [h e he f]
  simp [flagSet, hferry, hnone]

theorem State.NoTaker.flagSet {s : State} (h : s.NoTaker) (f : Nat) : (flagSet f s).NoTaker := by
  rw [flagSet_of_noTaker h]
  intro e he g
  obtain ⟨x, hx, rfl⟩ := List.mem_map.mp he
  split
  · exact h x hx g
  · exact h x hx g

/-- A channel after a flag has been set that no channel waits to take. -/
theorem fry_flagSet {s : State} (h : s.NoTaker) (f n : Nat) :
    (flagSet f s).fry n =
      if (s.fry n).inWait && decide ((s.fry n).wait = .flag f false) then { s.fry n with released := true } else s.fry n := by
  rw [flagSet_of_noTaker h]
  refine smGet_map (R := fun a b => b = if a.inWait && decide (a.wait = .flag f false) then { a with released := true } else a)
    (d := fun _ => Ferry.reset) (fun e => ?_) (fun e => ?_) (fun _ => rfl) s.ferry n
  · split <;> rfl
  · split <;> rfl

/-! ## A written word -/

/-- What FLAG_SET or FLAG_CLR of word v does for bit b. -/
def writeFlag (set hi : Bool) (v : Word) (b : Nat) (s : State) : State :=
  if bit v b then if set then flagSet ((if hi then 32 else 0) + b) s else flagClr ((if hi then 32 else 0) + b) s else s

theorem flagWord_eq (set hi : Bool) (v : Word) (s : State) : flagWord set hi v s = foldS (writeFlag set hi v) (List.range 32) s := rfl

theorem State.NoTaker.writeFlag {s : State} (h : s.NoTaker) (hi : Bool) (v : Word) (b : Nat) : (writeFlag true hi v b s).NoTaker := by
  unfold Machine.writeFlag
  split
  · exact h.flagSet _
  · exact h

theorem writeFlag_mem (set hi : Bool) (v : Word) (b : Nat) (s : State) : (writeFlag set hi v b s).mem = s.mem := by
  unfold writeFlag
  split
  · split
    · exact (flagSet_leaves 0 _ s).mem
    · exact (setFlagBit_leaves 0 _ false s).mem
  · rfl

/-- Bit b of a written word writes its flag, and no other register. -/
theorem writeFlag_reg {set hi : Bool} {s : State} (h : set = true → s.NoTaker) (v : Word) {b : Nat} (hb : b < 32) :
    (∀ i, bit ((writeFlag set hi v b s).reg (flagAddr hi)) i = if i = b ∧ bit v i = true then set else bit (s.reg (flagAddr hi)) i) ∧
    ∀ a, a ≠ flagAddr hi → (writeFlag set hi v b s).reg a = s.reg a := by
  by_cases hv : bit v b = true
  case neg =>
    have hstep : writeFlag set hi v b s = s := if_neg hv
    rw [hstep]
    refine ⟨fun i => (if_neg ?_).symm, fun _ _ => rfl⟩
    rintro ⟨rfl, hi⟩
    exact hv hi
  case pos =>
    have hstep (a : Nat) : (writeFlag set hi v b s).reg a = (s.setRegFld (flagAddr hi) b 1 (b2n set)).reg a := by
      rw [← setFlagBit_word hi hb, writeFlag, if_pos hv]
      cases set with
      | true => rw [if_pos rfl, flagSet_of_noTaker (h rfl)]; rfl
      | false => rfl
    refine ⟨fun i => ?_, fun a ha => ?_⟩
    · rw [hstep, State.reg_setRegFld, if_pos rfl, bit_setFld_one _ hb]
      refine if_congr ⟨fun e => ⟨e, e ▸ hv⟩, And.left⟩ rfl rfl
    · rw [hstep, State.reg_setRegFld, if_neg ha]

/-- What is written to the flags bit by bit, over any list of bits. -/
theorem foldS_writeFlag_reg {set hi : Bool} (v : Word) {l : List Nat} (hl : ∀ b ∈ l, b < 32) {s : State} (h : set = true → s.NoTaker) :
    (∀ i, bit ((foldS (writeFlag set hi v) l s).reg (flagAddr hi)) i =
      if i ∈ l ∧ bit v i = true then set else bit (s.reg (flagAddr hi)) i) ∧
    ∀ a, a ≠ flagAddr hi → (foldS (writeFlag set hi v) l s).reg a = s.reg a := by
  induction l generalizing s with
  | nil => simp [foldS]
  | cons b l ih =>
    obtain ⟨hbit, hother⟩ := writeFlag_reg (hi := hi) h v (hl b List.mem_cons_self)
    obtain ⟨hbits, hothers⟩ := ih (fun x hx => hl x (List.mem_cons_of_mem b hx)) (s := writeFlag set hi v b s)
      (fun hset => by subst hset; exact (h rfl).writeFlag hi v b)
    refine ⟨fun i => (hbits i).trans ?_, fun a ha => (hothers a ha).trans (hother a ha)⟩
    rw [hbit]
    by_cases hv : bit v i = true
    · by_cases hib : i = b
      · simp [hv, ← hib]
      · simp [hv, hib]
    · simp [hv]

/-- A written word sets or clears the flags of its ones (R355). -/
theorem flagWord_reg {set hi : Bool} (v : Word) {s : State} (h : set = true → s.NoTaker) :
    (flagWord set hi v s).reg (flagAddr hi) = (if set then s.reg (flagAddr hi) ||| v else s.reg (flagAddr hi) &&& ~~~v) ∧
      ∀ a, a ≠ flagAddr hi → (flagWord set hi v s).reg a = s.reg a := by
  obtain ⟨hbits, hothers⟩ := foldS_writeFlag_reg (hi := hi) v (l := List.range 32) (fun b => List.mem_range.mp) h
  refine ⟨BitVec.eq_of_getLsbD_eq fun i hi32 => (hbits i).trans ?_, hothers⟩
  rw [bit, bit]
  cases set <;> cases hv : v.getLsbD i <;> simp [hv, hi32, -BitVec.getLsbD_eq_getElem]

theorem flagWord_mem (set hi : Bool) (v : Word) (s : State) : (flagWord set hi v s).mem = s.mem :=
  foldS_mem (writeFlag_mem set hi v) (List.range 32) s

theorem writeFlag_clr_ferry (hi : Bool) (v : Word) (b : Nat) (s : State) : (writeFlag false hi v b s).ferry = s.ferry := by
  simp only [writeFlag, flagClr, setFlagBit, apply_ite State.ferry]
  simp [State.setRegFld]

theorem flagWord_clr_ferry (hi : Bool) (v : Word) (s : State) : (flagWord false hi v s).ferry = s.ferry :=
  foldS_induction (P := fun u => u.ferry = s.ferry) (fun b u hu => (writeFlag_clr_ferry hi v b u).trans hu) (List.range 32) s rfl

/-- A channel in a WAIT on a flag of the written word is recorded as released, and the other flags leave it. -/
theorem fry_foldS_writeFlag {c : Ferry} {f : Nat} (hwait : c.inWait = true) (hf : c.wait = .flag f false) {v : Word} (hv : bit v f = true)
    (n : Nat) (l : List Nat) {s : State} (h : s.NoTaker) (hn : s.fry n = { c with released := true } ∨ f ∈ l ∧ s.fry n = c) :
    (foldS (writeFlag true false v) l s).fry n = { c with released := true } := by
  induction l generalizing s with
  | nil => simpa [foldS] using hn
  | cons b l ih =>
    refine ih (h.writeFlag false v b) ?_
    by_cases hb : bit v b = true
    case neg =>
      have hstep : writeFlag true false v b s = s := if_neg hb
      have hne : f ≠ b := fun e => hb (e ▸ hv)
      rw [hstep]
      exact hn.imp_right fun ⟨hmem, hc⟩ => ⟨(List.mem_cons.mp hmem).resolve_left hne, hc⟩
    case pos =>
      have hstep : writeFlag true false v b s = flagSet (0 + b) s := if_pos hb
      rw [hstep, fry_flagSet h, Nat.zero_add]
      rcases hn with hn | ⟨hmem, hn⟩
      · left
        rw [hn]
        exact ite_self _
      · by_cases hne : f = b
        · left
          simp [hn, hwait, hf, hne]
        · right
          exact ⟨(List.mem_cons.mp hmem).resolve_left hne, by simp [hn, hf, hne]⟩

/-! ## The rows -/

/-- Settles O26: a command that has no meaning is refused as one that is not accepted. -/
theorem undefinedFerryCommands : Obligations.UndefinedFerryCommands := by
  unfold Obligations.UndefinedFerryCommands
  intro s n
  exact ⟨rfl, rfl, rfl, bit_fryFlag (by decide) n s, fun a ha => (reg_fryFlag n _ s a).trans (if_neg ha)⟩

/-- A test of the channels that fails of every one that waits to take a flag tells that none does. -/
theorem State.noTaker_of_all {s : State} {p : Nat × Ferry → Bool} (hp : ∀ e f, e.2.wait = .flag f true → p e = false)
    (h : s.ferry.all p = true) : s.NoTaker :=
  fun e he f hf => Bool.false_ne_true ((hp e f hf).symm.trans (List.all_eq_true.mp h e he))

/-- Settles O27: a written word takes its flags bit by bit, and each flag that is set releases the waits on it. -/
theorem ferryFlagRows : Obligations.FerryFlagRows := by
  unfold Obligations.FerryFlagRows
  have haddr : aFrygFlag ≠ aFrygFlagHi := by decide
  refine ⟨fun s v h => ?_, fun s v n f hwait hf hv h => ?_, fun s v => ?_⟩
  · have htaker : s.NoTaker := State.noTaker_of_all (fun e f hf => by simp only [hf]) h
    have hset (hi : Bool) := flagWord_reg (hi := hi) v fun (_ : true = true) => htaker
    exact ⟨⟨_, rfl, (hset false).1, (hset false).2 _ haddr.symm, flagWord_mem true false v s⟩,
      ⟨_, rfl, (hset true).1, (hset true).2 _ haddr, flagWord_mem true true v s⟩⟩
  · have htaker : s.NoTaker := State.noTaker_of_all (fun e f hf => by simp only [hf]) h
    exact ⟨_, rfl, fry_foldS_writeFlag hwait hf hv n (List.range 32) htaker (.inr ⟨List.mem_range.mpr f.isLt, rfl⟩)⟩
  · have hclr (hi : Bool) := flagWord_reg (set := false) (hi := hi) (s := s) v nofun
    exact ⟨⟨_, rfl, (hclr false).1, (hclr false).2 _ haddr.symm, flagWord_clr_ferry false v s⟩,
      ⟨_, rfl, (hclr true).1, (hclr true).2 _ haddr, flagWord_clr_ferry true v s⟩⟩

end Sys2Proof.Machine
end

section
/-! The commands of a Ferry channel (spec/08_ferry.md, Table 08-6, R342, R359 to R364, R373). -/

namespace Sys2Proof.Machine

/-! ## A program fetch that is needed -/

/-- A write of the channel's block below its windows, but of FRYn_CFG, leaves what the windows permit (R340). -/
theorem State.fryMay_setReg (s : State) {n a : Nat} (hcfg : a ≠ aFryCfg n) (hlow : a < 0x40300080 + 0x1000 * n) (v : Word) :
    (s.setReg a v).fryMay n = s.fryMay n := by
  have hwin (j : Nat) : aFryWin n j ≠ a ∧ aFryWinHi n j ≠ a ∧ aFryWinLim n j ≠ a := by
    unfold aFryWin aFryWinHi aFryWinLim
    omega
  funext b len write
  simp only [State.fryMay, State.fryWin, State.reg_setReg, if_neg hcfg.symm, if_neg (hwin _).1, if_neg (hwin _).2.1, if_neg (hwin _).2.2]

theorem State.fryProgOk_setReg (s : State) {a : Nat} (h : a ≠ aSysStrap) (v : Word) : (s.setReg a v).fryProgOk = s.fryProgOk := by
  have hown : (s.setReg a v).ownId = s.ownId := by rw [State.ownId, State.reg_setReg, if_neg h.symm, State.ownId]
  funext b
  have hdecode : (s.setReg a v).decodeAddr b = s.decodeAddr b := by rw [State.decodeAddr, hown, State.decodeAddr]
  rw [State.fryProgOk, hdecode, State.fryProgOk]

/-- A channel that holds no block and fetches none asks for the block at its pc, where that is permitted and a tag is free (R341, R342). -/
theorem fryWant_fetches {s : State} {n : Nat} {c : Ferry} (hc : s.fry n = c) (hblocks : c.blocks = []) (hahead : c.ahead = none)
    (hfetch : c.fetch = none) (halign : c.pc % 8 = 0) (hok : s.fryProgOk (c.pc / 32 * 32) = true)
    (hmay : s.fryMay n (c.pc / 32 * 32) 32 false = true) (htags : c.tagsUsed < 64) :
    (fryWant n s).fry n = { c with fetch := some ⟨s.memc.nextId, c.pc / 32 * 32, false⟩ } ∧ (fryWant n s).regs = s.regs := by
  have hsame : ({ c with blocks := [], ahead := none } : Ferry) = c := by rw [← hblocks, ← hahead]
  have hwant : fryWant n s = fryFetch n c.pc true (s.setFry n c) := by
    simp only [fryWant, hc, hblocks, hahead, List.filter_nil, List.any_nil, Option.filter_none, Bool.false_eq_true, if_false, hsame]
  have hissue : fryFetch n c.pc true (s.setFry n c) =
      ((s.setFry n c).request (.ferry (Fin.ofNat 64 n)) .fetch (c.pc / 32 * 32) 32 [] 0).1.onFry n
        (fun c' => { c' with fetch := some ⟨s.memc.nextId, c.pc / 32 * 32, false⟩ }) := by
    have hok' : (s.setFry n c).fryProgOk (c.pc / 32 * 32) = true := hok
    have hmay' : (s.setFry n c).fryMay n (c.pc / 32 * 32) 32 false = true := hmay
    simp [fryFetch, hblocks, hfetch, halign, hok', hmay', Nat.not_le.mpr htags]
  rw [hwant, hissue]
  exact ⟨by simp, rfl⟩

/-! ## START -/

/-- An accepted START: the channel runs at its pc, with nothing held but a fetch of its first block, and its error and outcome are cleared. -/
theorem fryStart_accepted {s : State} {n : Nat} {c : Ferry} (hc : s.fry n = c) (hhalted : c.halted = true) (halign : c.pc % 8 = 0)
    (hmay : s.fryMay n (c.pc / 32 * 32) 32 false = true) (hok : s.fryProgOk (c.pc / 32 * 32) = true) :
    (∃ f, (fryStart n s).fry n = { Ferry.reset with st := .run, pc := c.pc, tags := c.tags, fetch := some f }) ∧
      (fryStart n s).reg (aFryErr n) = 0 ∧ (fryStart n s).reg (aFryAbt n) = 0 ∧ (fryStart n s).reg (aFryChk n) = s.reg (aFryChk n) := by
  have hpc : c.pc / 8 * 8 = c.pc := by omega
  have hcfg : aFryErr n ≠ aFryCfg n ∧ aFryAbt n ≠ aFryCfg n := by
    unfold aFryErr aFryAbt aFryCfg
    omega
  generalize hu : ((s.setFry n { Ferry.reset with st := .run, pc := c.pc, tags := c.tags }).setReg (aFryErr n) 0).setReg (aFryAbt n) 0 = u
  have hstart : fryStart n s = fryWant n u := by
    simp only [fryStart, hc, hhalted, if_true, hpc, hu]
  have hfry : u.fry n = { Ferry.reset with st := .run, pc := c.pc, tags := c.tags } := by simp [← hu]
  have hmay' : u.fryMay n = s.fryMay n := by
    rw [← hu, State.fryMay_setReg _ hcfg.2 (by unfold aFryAbt; omega), State.fryMay_setReg _ hcfg.1 (by unfold aFryErr; omega)]
    rfl
  have hok' : u.fryProgOk = s.fryProgOk := by
    rw [← hu, State.fryProgOk_setReg _ (by unfold aFryAbt aSysStrap; omega), State.fryProgOk_setReg _ (by unfold aFryErr aSysStrap; omega)]
    rfl
  obtain ⟨hwant, hregs⟩ := fryWant_fetches hfry rfl rfl rfl halign (by rw [hok']; exact hok) (by rw [hmay']; exact hmay)
    (show 0 < 64 by decide)
  have hreg (a : Nat) : (fryStart n s).reg a = u.reg a := by rw [hstart, State.reg, hregs, State.reg]
  rw [hreg, hreg, hreg, hstart]
  exact ⟨⟨_, hwant⟩, by simp [← hu], by simp [← hu], by simp [← hu]⟩

/-! ## The end of PAUSING and STOPPING -/

/-- With no beat outstanding, PAUSING becomes PAUSED (R359). -/
theorem frySettle_paused {s : State} {n : Nat} {c : Ferry} (hc : s.fry n = c) (hst : c.st = .pausing) (hbusy : c.busy = false) :
    frySettle n s = fryFlag n 0x8000 (s.setFry n { c with st := .paused }) := by
  simp [frySettle, hc, hst, hbusy]

theorem frySettle_pausing {s : State} {n : Nat} {c : Ferry} (hc : s.fry n = c) (hst : c.st = .pausing) (hbusy : c.busy = true) :
    frySettle n s = s := by
  simp [frySettle, hc, hst, hbusy]

/-- With its instruction and its writes done, STOPPING becomes STOPPED (R361). -/
theorem frySettle_stopped {s : State} {n : Nat} {c : Ferry} (hc : s.fry n = c) (hst : c.st = .stopping)
    (hdone : c.busy = false ∧ c.cur = none ∧ c.fold = none ∧ c.begun = false) :
    frySettle n s = fryFlag n 0x10000 (s.setFry n { c with st := .stopped }) := by
  simp [frySettle, hc, hst, hdone]

theorem frySettle_stopping {s : State} {n : Nat} {c : Ferry} (hc : s.fry n = c) (hst : c.st = .stopping)
    (hdone : ¬(c.busy = false ∧ c.cur = none ∧ c.fold = none ∧ c.begun = false)) : frySettle n s = s := by
  simp only [frySettle, hc, hst, hdone, reduceCtorEq, true_and, false_and, if_false]

theorem frySettle_of_other {s : State} {n : Nat} (hpausing : (s.fry n).st ≠ .pausing) (hstopping : (s.fry n).st ≠ .stopping) :
    frySettle n s = s := by
  simp [frySettle, hpausing, hstopping]

/-! ## PAUSE and RESUME -/

/-- A channel whose holding register is empty has no beat to write. -/
theorem fryWriteRun_of_empty {s : State} {n : Nat} (hhold : (s.fry n).hold = []) (m : FryMove) : s.fryWriteRun n m = 0 := by
  have hnone (run : Nat) {p : Prop} [Decidable p] : (if run ≤ 0 then run else if p then 0 else 0) = 0 := by
    split
    · omega
    · exact ite_self 0
  simp only [State.fryWriteRun, hhold, List.length_nil, Nat.zero_div]
  exact hnone _

theorem fryWriteBeat_of_empty {s : State} {n : Nat} (hhold : (s.fry n).hold = []) (m : FryMove) : fryWriteBeat n m s = s := by
  simp only [fryWriteBeat, fryWriteRun_of_empty hhold, true_or, if_true]

/-- With an empty holding register and a move, if any, that is not at its end, nothing is written. -/
theorem fryPump_of_empty {s : State} {n : Nat} (hhold : (s.fry n).hold = [])
    (hcur : (s.fry n).cur.all (fun m => decide (m.wr < m.total)) = true) (fuel : Nat) : fryPump n fuel s = s := by
  cases fuel with
  | zero => rfl
  | succ fuel =>
    cases hm : (s.fry n).cur with
    | none => simp only [fryPump, hm]
    | some m =>
      have hleft : ¬ m.total ≤ m.wr := by simpa [hm] using hcur
      simp only [fryPump, hm, hleft, if_false, fryWriteBeat_of_empty hhold, and_self, if_true]

/-- PAUSE with nothing to write waits for the beats outstanding, and is over at once without any (R359). -/
theorem fryPause_leaves {s : State} {n : Nat} {c : Ferry} (hc : s.fry n = c)
    (hst : c.st = .run ∨ c.st = .wait ∨ c.st = .parked ∨ c.st = .stopping) (hending : c.ending = false) (hhold : c.hold = [])
    (hcur : c.cur.all (fun m => decide (m.wr < m.total)) = true) :
    ((fryPause n s).fry n).back = c.st ∧ ((fryPause n s).fry n).pc = c.pc ∧
      if c.busy then ((fryPause n s).fry n).st = .pausing
      else ((fryPause n s).fry n).st = .paused ∧ bit ((fryPause n s).reg (aFryStat n)) 15 = true := by
  generalize hu : s.setFry n { c with st := .pausing, back := c.st } = u
  have hfry : u.fry n = { c with st := .pausing, back := c.st } := by simp [← hu]
  have hpause : fryPause n s = frySettle n u := by
    have hidle : fryPump n 34 u = u := fryPump_of_empty (by rw [hfry]; exact hhold) (by rw [hfry]; exact hcur) 34
    simp only [fryPause, hc, hst, hending, and_self, if_true, hu, hidle]
  rw [hpause]
  cases hbusy : c.busy with
  | true =>
    rw [frySettle_pausing hfry rfl hbusy, hfry]
    exact ⟨rfl, rfl, rfl⟩
  | false =>
    rw [frySettle_paused hfry rfl hbusy, if_neg (by decide)]
    exact ⟨by simp, by simp, by simp, bit_fryFlag (by decide) n _⟩

/-- A channel paused in a WAIT or a PARK that no release has reached returns to it (R360). -/
theorem fryResume_waits {s : State} {n : Nat} {c : Ferry} (hc : s.fry n = c) (hst : c.st = .paused) (hreleased : c.released = false)
    (hcur : c.cur = none) (hback : c.back = .wait ∨ c.back = .parked) : fryResume n s = s.setFry n { c with st := c.back } := by
  generalize hu : s.setFry n { c with st := c.back } = u
  have hfry : u.fry n = { c with st := c.back } := by simp [← hu]
  have hresume : fryResume n s = fryApply n u := by simp only [fryResume, hc, hst, or_true, if_true, hu]
  have hpump : fryPump n 34 u = u := by simp [fryPump, hfry, hcur]
  rw [hresume]
  have hsettle : frySettle n u = u := by
    apply frySettle_of_other <;> rw [hfry] <;> rcases hback with h | h <;> simp [h]
  rcases hback with h | h <;> simp [fryApply, hfry, h, hreleased, hpump, hsettle]

/-! ## STOP -/

/-- STOP of a channel in RUN ends it at once where nothing is under way, and otherwise once that is done (R361). -/
theorem fryStop_running {s : State} {n : Nat} {c : Ferry} (hc : s.fry n = c) (hst : c.st = .run) (hending : c.ending = false) :
    ((fryStop n s).fry n).pc = c.pc ∧
      if c.busy = false ∧ c.cur = none ∧ c.fold = none ∧ c.begun = false then
        ((fryStop n s).fry n).st = .stopped ∧ bit ((fryStop n s).reg (aFryStat n)) 16 = true
      else ((fryStop n s).fry n).st = .stopping := by
  generalize hu : s.setFry n { c with st := .stopping } = u
  have hfry : u.fry n = { c with st := .stopping } := by simp [← hu]
  have hstop : fryStop n s = frySettle n u := by simp [fryStop, hc, hst, hending, hu]
  rw [hstop]
  by_cases hdone : c.busy = false ∧ c.cur = none ∧ c.fold = none ∧ c.begun = false
  · rw [frySettle_stopped hfry rfl hdone, if_pos hdone]
    exact ⟨by simp, by simp, bit_fryFlag (by decide) n _⟩
  · rw [frySettle_stopping hfry rfl hdone, if_neg hdone, hfry]
    exact ⟨rfl, rfl⟩

theorem fryStop_waiting {s : State} {n : Nat} {c : Ferry} (hc : s.fry n = c) (hst : c.st = .wait ∨ c.st = .parked)
    (hending : c.ending = false) : fryStop n s = fryFlag n 0x10000 (s.setFry n { c.endWait with st := .stopped }) := by
  rcases hst with h | h <;> simp [fryStop, hc, h, hending]

/-! ## ABORT and CLEAR -/

/-- A channel that ABORT ends: it drops what it read and holds, and the writes that it has issued stay (R362). -/
def Ferry.aborted (c : Ferry) : Ferry :=
  { c.discard with
    st := .aborted, reads := c.reads.map (fun r => { r with live := false }), hold := [], cur := none, fold := none
    wait := .none, released := false, begun := false, snoop := none }

theorem fryAbort_active {s : State} {n : Nat} (hst : (s.fry n).st ∈ [.run, .wait, .parked, .pausing, .paused, .stopping]) :
    fryAbort n s = fryFlag n 0x2000 ((s.setFry n (s.fry n).aborted).setReg (aFryAbt n) 1) := by
  simp only [List.mem_cons, List.not_mem_nil, or_false] at hst
  rcases hst with h | h | h | h | h | h <;> simp only [fryAbort, h, Ferry.aborted]

theorem fryAbort_completed {s : State} {n : Nat} (hst : (s.fry n).st = .completed) : fryAbort n s = s.setReg (aFryAbt n) 2 := by
  simp only [fryAbort, hst]

/-- An error of the edge of an ABORT is recorded, and the state is ABORTED (R364). -/
theorem abortRow_of_error {s : State} {n : Nat} {e : AbortEdge} (hs : (s.fry n).st ≠ .error) (hst : ((abortEdge n e s).fry n).st = .error) :
    abortRow n e s =
      fryFlag n 0x2000 (((abortEdge n e s).onFry n (fun c => { c.discard with st := .aborted })).setReg (aFryAbt n) 1) :=
  if_pos ⟨hs, hst⟩

/-- A channel that enters COMPLETED on the edge of an ABORT stays there, with outcome 2 (R363). -/
theorem abortRow_of_completed {s : State} {n : Nat} {e : AbortEdge} (hs : (s.fry n).st ≠ .completed)
    (hst : ((abortEdge n e s).fry n).st = .completed) : abortRow n e s = (abortEdge n e s).setReg (aFryAbt n) 2 := by
  have herror : ((abortEdge n e s).fry n).st ≠ .error := by rw [hst]; decide
  rw [← fryAbort_completed hst, abortRow, if_neg fun h => herror h.2, if_pos ⟨hs, hst⟩]

theorem abortRow_of_other {s : State} {n : Nat} {e : AbortEdge} (herror : ((abortEdge n e s).fry n).st ≠ .error)
    (hcompleted : ((abortEdge n e s).fry n).st ≠ .completed) : abortRow n e s = fryAbort n s := by
  rw [abortRow, if_neg fun h => herror h.2, if_neg fun h => hcompleted h.2]

theorem fryClear_halted {s : State} {n : Nat} (hhalted : (s.fry n).halted = true) (hst : (s.fry n).st ≠ .idle) :
    fryClear n s = s.setFry n { Ferry.reset with pc := (s.fry n).pc, tags := (s.fry n).tags } :=
  if_pos ⟨hhalted, hst⟩

/-- A halted channel takes what is written to its program address and its running check (R373). -/
theorem fryRegWrite_halted {s : State} {n : Nat} (hhalted : (s.fry n).halted = true) (v : Word) :
    ((fryRegWrite n 0 v s).fry n).pc = (s.fry n).pc / 2 ^ 32 * 2 ^ 32 + v.toNat / 8 * 8 ∧
      ((fryRegWrite n 1 v s).fry n).pc = fld v 0 12 * 2 ^ 32 + (s.fry n).pc % 2 ^ 32 ∧
      (fryRegWrite n 2 v s).reg (aFryChk n) = v ∧ (fryRegWrite n 3 v s).reg (aFryChkcfg n) = v &&& 3 := by
  simp [fryRegWrite, hhalted]

/-! ## The rows -/

/-- What ABORT of an active channel does, whatever comes about on its edge (R362 to R364). -/
theorem abortRow_active {s : State} {n : Nat} (e : AbortEdge) (hst : (s.fry n).st ∈ [.run, .wait, .parked, .pausing, .paused, .stopping]) :
    (if ((abortEdge n e s).fry n).st = .completed then
      ((abortRow n e s).fry n).st = .completed ∧ (abortRow n e s).reg (aFryAbt n) = 2
     else ((abortRow n e s).fry n).st = .aborted ∧ (abortRow n e s).reg (aFryAbt n) = 1 ∧
      bit ((abortRow n e s).reg (aFryStat n)) 13 = true) ∧
    (e = .none → ((abortRow n e s).fry n).pc = (s.fry n).pc ∧ ((abortRow n e s).fry n).hold = [] ∧
      ((abortRow n e s).fry n).writes = (s.fry n).writes) ∧
    (((abortEdge n e s).fry n).st = .error → (abortRow n e s).reg (aFryErr n) = (abortEdge n e s).reg (aFryErr n)) := by
  have hactive : (s.fry n).st ≠ .error ∧ (s.fry n).st ≠ .completed := by
    constructor <;> intro h <;> simp [h] at hst
  obtain ⟨hne, hnc⟩ := hactive
  by_cases herror : ((abortEdge n e s).fry n).st = .error
  · have hnone : e ≠ .none := fun he => hne (by rw [he] at herror; exact herror)
    rw [abortRow_of_error hne herror, if_neg (by rw [herror]; decide)]
    exact ⟨⟨by simp, by simp, bit_fryFlag (by decide) n _⟩, fun he => absurd he hnone, fun _ => by simp⟩
  · by_cases hcompleted : ((abortEdge n e s).fry n).st = .completed
    · have hnone : e ≠ .none := fun he => hnc (by rw [he] at hcompleted; exact hcompleted)
      rw [abortRow_of_completed hnc hcompleted, if_pos hcompleted]
      exact ⟨⟨hcompleted, by simp⟩, fun he => absurd he hnone, fun h => absurd h herror⟩
    · rw [abortRow_of_other herror hcompleted, fryAbort_active hst, if_neg hcompleted]
      exact ⟨⟨by simp [Ferry.aborted], by simp, bit_fryFlag (by decide) n _⟩, fun _ => by simp [Ferry.aborted, Ferry.discard],
        fun h => absurd h herror⟩

/-- Settles O25: each command where it is accepted, by what it makes of the channel. -/
theorem ferryCommandRows : Obligations.FerryCommandRows := by
  unfold Obligations.FerryCommandRows
  refine ⟨?start, fun s n hst hending hhold hcur => ⟨_, rfl, fryPause_leaves rfl hst hending hhold hcur⟩, ?resume,
    fun s n hst hending => ⟨_, rfl, fryStop_running rfl hst hending⟩, ?stopWaiting, fun s n e hst => ⟨_, rfl, abortRow_active e hst⟩,
    ?abortCompleted, ?clear, ?write⟩
  case start =>
    intro s n hhalted halign hmay hok
    obtain ⟨⟨f, hfry⟩, hregs⟩ := fryStart_accepted rfl hhalted halign hmay hok
    refine ⟨fryStart n s, rfl, ?_⟩
    rw [hfry]
    exact ⟨rfl, rfl, rfl, rfl, rfl, hregs⟩
  case resume =>
    intro s n hst hreleased hcur hback
    exact ⟨fryResume n s, rfl, by simp [fryResume_waits rfl hst hreleased hcur hback]⟩
  case stopWaiting =>
    intro s n hst hending
    refine ⟨fryStop n s, rfl, ?_⟩
    rw [fryStop_waiting rfl hst hending]
    exact ⟨by simp, by simp [Ferry.endWait], by simp [Ferry.endWait], bit_fryFlag (by decide) n _⟩
  case abortCompleted =>
    intro s n hst
    have habort : abortRow n .none s = s.setReg (aFryAbt n) 2 := by simp [abortRow, abortEdge, hst, fryAbort_completed]
    exact ⟨_, congrArg Host.Outcome.next habort, rfl, by simp⟩
  case clear =>
    intro s n hhalted hst
    exact ⟨_, congrArg Host.Outcome.next (fryClear_halted hhalted hst), by simp [Ferry.reset], by simp, rfl⟩
  case write =>
    intro s n v hhalted
    obtain ⟨hpc, hpcHi, hchk, hchkcfg⟩ := fryRegWrite_halted hhalted v
    exact ⟨⟨_, rfl, hpc⟩, ⟨_, rfl, hpcHi⟩, ⟨_, rfl, hchk⟩, ⟨_, rfl, hchkcfg⟩⟩

end Sys2Proof.Machine
end

section
/-! States of a Ferry channel on which two statements about its rows fail (spec/08_ferry.md, R337, R342, R346, R351): a move that finds no
free tag, and two reads of one number. -/

namespace Sys2Proof.Machine

/-! ## A move without a free tag -/

/-- The block of a program that begins with MOVE of five elements of 24 bits from 0x2000 to words from 0x3000. -/
def moveBlock : FryBlock :=
  { addr := 0, data := [0x1B30000000000005, 0x2000, 0x3000, 0].flatMap (leBytes 8), touched := false }

/-- FRY63 in RUN before that MOVE, with 63 writes of moves before it outstanding: the fetch of the next block holds its last tag. -/
def moveWithoutTag : State :=
  State.reset.setFry 63 { Ferry.reset with
    st := .run, blocks := [moveBlock], fetch := some { id := 63, addr := 32, touched := false }
    writes := (List.range 63).map (fun i => { id := i, addr := 0x4000 + 4 * i, n := 4, tag := 0, elem := i }), tags := 1 }

/-- Refutes O23: its clause of a move counts 64 tags for the writes alone, but a program fetch holds one too (R342), so a move that finds 63
writes and a fetch outstanding issues no read yet. -/
theorem not_ferryProgramRows : ¬ Obligations.FerryProgramRows := by
  unfold Obligations.FerryProgramRows
  intro h
  obtain ⟨t, hex, -, -, hreads⟩ := h moveWithoutTag 63 (by decide) (by decide) (.move (moveOf 0x1B30000000000005 0x2000 0x3000 0))
    (by decide) (by decide) (by decide) (by decide) (by decide) (by decide) (by decide) (by decide) (by decide)
  obtain rfl := Host.Outcome.next.inj hex
  exact absurd hreads (by decide)

/-! ## Two reads of one number -/

/-- FRY63 in a CRC fold of eight bytes with two read beats outstanding under one number, which the fabric has answered. -/
def twoReadsOfOneNumber : State :=
  { State.reset.setFry 63 { Ferry.reset with
      st := .run, fold := some (0x2008, 0, 8)
      reads := [{ id := 0, n := 4, addr := 0x2000, live := true }, { id := 0, n := 4, addr := 0x2004, live := true }] } with
    memc := { MemCtl.reset with
      nextId := 1
      reqs := [{ id := 0, ini := .ferry 63, kind := .load, addr := 0x2000, len := 4, data := [], cst := 0, cls := 3, here := true
                 mask := none, st := .done [1, 2, 3, 4] }] } }

/-- Refutes O24: its clause of a CRC fold says that the first read alone leaves the channel, but every read of the answered number leaves it.
Only a state in which two reads share a number, which no channel issues, tells the two apart. -/
theorem not_ferryTrafficRows : ¬ Obligations.FerryTrafficRows := by
  unfold Obligations.FerryTrafficRows
  rintro ⟨-, -, -, hfold, -⟩
  obtain ⟨t, hex, -, -, hreads⟩ := hfold twoReadsOfOneNumber 63 [1, 2, 3, 4] { id := 0, n := 4, addr := 0x2000, live := true } (by decide)
    rfl (by decide) (0x2008, 0, 8) (by decide) (by decide)
  obtain rfl := Host.Outcome.next.inj hex
  exact absurd hreads (by decide)

end Sys2Proof.Machine
end

section
/-! Interrupt sources one by one (spec/09_interrupt_controller.md, R383 to R386, R394): the record that a write of a source leaves, what a level
or swpend does to it, and the rows SOURCE_LEVEL_CHANGE, IC_DONE and HOLDOFF_END. -/

namespace Sys2Proof.Machine

/-! ## Records of sources -/

@[simp] theorem State.src_setSrc (s : State) (r : SrcRef) (x : Src) : (s.setSrc r x).src r = x := by
  cases r with
  | shared n => simp [State.setSrc, State.src]
  | priv k t i => simp [State.setSrc, State.src, State.onThread]

@[simp] theorem State.src_setSrc_shared (s : State) (n m : Fin 416) (x : Src) :
    (s.setSrc (.shared n) x).src (.shared m) = if m = n then x else s.src (.shared m) := by
  simp [State.setSrc, State.src, Fin.ext_iff]

/-- The sources are the shared ones and the private banks of the threads. -/
theorem State.src_of_eq {s t : State} (hsrcs : t.srcs = s.srcs) (hthreads : t.threads = s.threads) (r : SrcRef) : t.src r = s.src r := by
  cases r with
  | shared n => rw [State.src, State.src, hsrcs]
  | priv k g i => rw [State.src, State.src, State.thread, State.thread, hthreads]

/-! ## Levels and swpend -/

/-- A source in INACTIVE or PENDING settles by its level and swpend; nothing else of it changes (R383). -/
theorem Src.settle_eq (x : Src) : x.settle = { x with
    st := match x.st with
      | .active => .active
      | .holdoff => .holdoff
      | _ => if x.level || x.swpend then .pending else .inactive } := by
  obtain ⟨level, swpend, st, srv, cnt⟩ := x
  cases st with
  | inactive => exact (apply_ite (Src.mk level swpend · srv cnt) _ _ _).symm
  | pending => exact (apply_ite (Src.mk level swpend · srv cnt) _ _ _).symm
  | active => rfl
  | holdoff => rfl

@[simp] theorem Src.swpend_setSw (x : Src) (v : Bool) : (x.setSw v).swpend = v := by
  rw [Src.setSw, Src.settle_eq]

/-! ## SOURCE_LEVEL_CHANGE -/

theorem msixSend_frame (v : Nat) (s : State) : ∃ p, msixSend v s = { s with pcie := p } := by
  unfold msixSend
  dsimp only
  split
  · exact ⟨_, rfl⟩
  · exact ⟨_, rfl⟩

/-- An edge that reaches the MSI-X vectors leaves the sources. -/
theorem msixEdge_src (n : Nat) (s : State) (r : SrcRef) : (msixEdge n s).src r = s.src r := by
  refine foldS_induction (P := fun u => u.src r = s.src r) (fun v u hu => ?_) _ s rfl
  dsimp only
  split
  · split
    · exact hu
    · split
      · obtain ⟨p, heq⟩ := msixSend_frame v u
        rw [heq]
        exact (State.src_of_eq rfl rfl r).trans hu
      · exact (State.src_of_eq rfl rfl r).trans hu
  · exact hu

/-- Where the source's clock runs, its record takes the level, unless it held it before. -/
theorem sourceLevelChange_src {s : State} {r : SrcRef} (hex : srcExists r = true) (hclk : s.fclkRuns = true ∨ ∃ k h i, r = .priv k h i) :
    (sourceLevelChange r s).src r = if (s.src r).level = s.sourceLevel r then s.src r else (s.src r).setLevel (s.sourceLevel r) := by
  unfold sourceLevelChange
  dsimp only
  by_cases hl : (s.src r).level = s.sourceLevel r
  · rw [if_pos (.inr (.inr hl)), if_pos hl]
  · rw [if_neg hl]
    cases r with
    | shared n =>
      have hrun : s.fclkRuns = true := by simpa using hclk
      rw [if_neg (by simp [hrun, hex, hl])]
      dsimp only
      split
      · rw [msixEdge_src, State.src_setSrc]
      · exact State.src_setSrc s _ _
    | priv k h i =>
      rw [if_neg (by simp [hex, hl])]
      exact State.src_setSrc s _ _

/-- Settles O29: the record takes the level by `Src.setLevel`, whose settling keeps swpend and the count; a level that differs is a rise where
it is 1. -/
theorem sourceLevelRows : Obligations.SourceLevelRows := by
  unfold Obligations.SourceLevelRows
  intro s r hex hclk
  refine ⟨sourceLevelChange r s, rfl, ?_⟩
  rw [sourceLevelChange_src hex hclk]
  by_cases hl : (s.src r).level = s.sourceLevel r
  · rw [if_pos hl]
    exact ⟨hl, rfl, fun h => absurd hl h⟩
  · rw [if_neg hl, Src.setLevel, Src.settle_eq]
    have hrise : (s.sourceLevel r && !(s.src r).level) = s.sourceLevel r := by
      cases hs : s.sourceLevel r <;> simp_all
    refine ⟨rfl, rfl, fun _ => ⟨?_, rfl⟩⟩
    dsimp only
    rw [hrise]

/-! ## IC_DONE and HOLDOFF_END -/

theorem complete_of_active_priv {k : Fin 144} {t : Fin 4} {id : Nat} {s : State} (hid : id < 32)
    (hact : (s.src (.priv k t (Fin.ofNat 32 id))).st = .active) :
    complete k t id s = s.setSrc (.priv k t (Fin.ofNat 32 id)) (s.src (.priv k t (Fin.ofNat 32 id))).toHoldoff := by
  rw [complete, if_pos hid]
  exact if_pos hact

theorem complete_of_active_shared {k : Fin 144} {t : Fin 4} {id : Nat} {s : State} (hlo : 32 ≤ id) (hhi : id < 416)
    (hact : (s.src (.shared (Fin.ofNat 416 id))).st = .active) (hl : s.lcoreOf k = some (s.src (.shared (Fin.ofNat 416 id))).srv.lcore)
    (ht : (s.src (.shared (Fin.ofNat 416 id))).srv.thr = t) :
    complete k t id s = s.setSrc (.shared (Fin.ofNat 416 id)) (s.src (.shared (Fin.ofNat 416 id))).toHoldoff := by
  rw [complete, if_neg (by omega), if_pos hhi]
  exact if_pos ⟨hact, hl, ht⟩

/-- An ID that is not ACTIVE on the writing thread sets done_err (R394). -/
theorem complete_of_not_active {k : Fin 144} {t : Fin 4} {id : Nat} {s : State}
    (hpriv : id < 32 → (s.src (.priv k t (Fin.ofNat 32 id))).st ≠ .active)
    (hshared : 32 ≤ id → id < 416 → (s.src (.shared (Fin.ofNat 416 id))).st ≠ .active ∨
      s.lcoreOf k ≠ some (s.src (.shared (Fin.ofNat 416 id))).srv.lcore ∨ (s.src (.shared (Fin.ofNat 416 id))).srv.thr ≠ t) :
    complete k t id s = s.orReg aIcStat 1 := by
  unfold complete
  dsimp only
  split
  next hlo => exact if_neg (hpriv hlo)
  next hlo =>
    split
    next hhi =>
      refine if_neg fun ⟨hact, hl, ht⟩ => ?_
      rcases hshared (by omega) hhi with h | h | h
      · exact h hact
      · exact h hl
      · exact h ht
    · rfl

/-- Settles O31: the completion of an ACTIVE source writes its record in HOLDOFF, and the end of HOLDOFF writes it by level and swpend. -/
theorem doneMovesToHoldoff : Obligations.DoneMovesToHoldoff := by
  unfold Obligations.DoneMovesToHoldoff
  refine ⟨?priv, ?shared, ?holdoff, ?other⟩
  case priv =>
    intro s k h id hid hact
    refine ⟨complete k h id s, rfl, ?_⟩
    rw [complete_of_active_priv hid hact, State.src_setSrc, Src.toHoldoff]
  case shared =>
    intro s k h id hlo hhi hact hl ht
    refine ⟨complete k h id s, rfl, ?_⟩
    rw [complete_of_active_shared hlo hhi hact hl ht, State.src_setSrc, Src.toHoldoff]
  case holdoff =>
    intro s r hst
    refine ⟨s.setSrc r (s.src r).endHoldoff, rfl, ?_⟩
    rw [State.src_setSrc, Src.endHoldoff, if_pos hst]
  case other =>
    intro s k h id hpriv hshared
    exact congrArg Host.Outcome.next (complete_of_not_active hpriv hshared)

end Sys2Proof.Machine
end

section
/-! IC_CLAIM (spec/09_interrupt_controller.md, R387, R391, R392): the eligible sources in the order of kind and ID, the one that a claim takes,
and the two answers of the row. -/

namespace Sys2Proof.Machine

/-! ## The order of the eligible sources -/

/-- Listed before: a private source before a shared one, and of one kind the lower ID first (R391). -/
def listedBefore (x y : Bool × Nat × Nat) : Prop := (x.1 = true ∧ y.1 = false) ∨ (x.1 = y.1 ∧ x.2.1 < y.2.1)

theorem lt_of_smAbove {α : Type} {k : Nat} {m : SMap α} (h : smAbove k m = true) : ∀ e ∈ m, k < e.1 := by
  induction m generalizing k with
  | nil => simp
  | cons e m ih =>
    simp only [smAbove, Bool.and_eq_true, decide_eq_true_eq] at h
    obtain ⟨hlt, habove⟩ := h
    intro x hx
    rcases List.mem_cons.mp hx with rfl | hx
    · exact hlt
    · exact hlt.trans (ih habove x hx)

/-- A canonical table lists its keys in rising order. -/
theorem pairwise_of_smWf {α : Type} [DecidableEq α] {d : Nat → α} {m : SMap α} (h : smWf d m = true) : m.Pairwise (fun x y => x.1 < y.1) := by
  induction m with
  | nil => exact .nil
  | cons e m ih =>
    simp only [smWf, Bool.and_eq_true] at h
    obtain ⟨⟨-, habove⟩, hm⟩ := h
    exact .cons (lt_of_smAbove habove) (ih hm)

/-- The eligible sources that one table gives: they carry the table's kind and its keys. -/
theorem pairwise_listedBefore_filterMap {m : SMap Src} (h : smWf (fun _ => Src.init) m = true) {kind : Bool}
    {f : Nat × Src → Option (Bool × Nat × Nat)} (hf : ∀ e, ∀ b ∈ f e, b.1 = kind ∧ b.2.1 = e.1) :
    (m.filterMap f).Pairwise listedBefore := by
  refine List.Pairwise.filterMap f (fun x y hlt b hb c hc => ?_) (pairwise_of_smWf h)
  obtain ⟨hbk, hbi⟩ := hf x b hb
  obtain ⟨hck, hci⟩ := hf y c hc
  exact .inr ⟨hbk.trans hck.symm, by rwa [hbi, hci]⟩

theorem State.eligible_pairwise {s : State} {k t : Nat} (hsrcs : smWf (fun _ => Src.init) s.srcs = true)
    (hpriv : smWf (fun _ => Src.init) (s.thread k t).priv = true) (land l2 : Bool) : (s.eligible k t land l2).Pairwise listedBefore := by
  unfold State.eligible
  split
  · exact .nil
  next l hl =>
    extract_lets th ps ok
    have hp : ∀ e : Nat × Src, ∀ b ∈ (if ok e.2 (th.privTgt e.1) = true then some (true, e.1, (th.privTgt e.1).prio) else none),
        b.1 = true ∧ b.2.1 = e.1 := by
      intro e b hb
      obtain ⟨-, hb⟩ := Option.ite_none_right_eq_some.mp hb
      obtain rfl := Option.some.inj hb
      exact ⟨rfl, rfl⟩
    have hs : ∀ e : Nat × Src, ∀ b ∈ (if s.sharedFor e.1 l t = true ∧ ok e.2 (s.sharedTgt e.1) = true then
        some (false, e.1, (s.sharedTgt e.1).prio) else none), b.1 = false ∧ b.2.1 = e.1 := by
      intro e b hb
      obtain ⟨-, hb⟩ := Option.ite_none_right_eq_some.mp hb
      obtain rfl := Option.some.inj hb
      exact ⟨rfl, rfl⟩
    refine List.pairwise_append.mpr ⟨pairwise_listedBefore_filterMap hpriv hp, pairwise_listedBefore_filterMap hsrcs hs, fun x hx y hy => ?_⟩
    obtain ⟨e, -, hx⟩ := List.mem_filterMap.mp hx
    obtain ⟨g, -, hy⟩ := List.mem_filterMap.mp hy
    exact .inl ⟨(hp e x hx).1, (hs g y hy).1⟩

/-! ## The source that a claim takes -/

theorem mem_of_bestSrc {l : List (Bool × Nat × Nat)} {b : Bool × Nat × Nat} (h : bestSrc l = some b) : b ∈ l := by
  induction l with
  | nil => simp [bestSrc] at h
  | cons x xs ih =>
    unfold bestSrc at h
    split at h
    · obtain rfl := Option.some.inj h
      exact List.mem_cons_self
    next c hc =>
      split at h
      · obtain rfl := Option.some.inj h
        exact List.mem_cons_of_mem x (ih hc)
      · obtain rfl := Option.some.inj h
        exact List.mem_cons_self

/-- The source claimed is the one that no other precedes by priority, kind and ID (R391). -/
theorem bestSrc_eq {l : List (Bool × Nat × Nat)} (hl : l.Pairwise listedBefore) {e : Bool × Nat × Nat} (he : e ∈ l)
    (hbest : ∀ x ∈ l, x.2.2 < e.2.2 ∨ (x.2.2 = e.2.2 ∧ ((e.1 = true ∧ x.1 = false) ∨ (e.1 = x.1 ∧ e.2.1 ≤ x.2.1)))) :
    bestSrc l = some e := by
  induction l with
  | nil => simp at he
  | cons x xs ih =>
    obtain ⟨hx, hxs⟩ := List.pairwise_cons.mp hl
    have hle : ∀ b ∈ xs, b.2.2 ≤ e.2.2 := fun b hb => by
      rcases hbest b (List.mem_cons_of_mem x hb) with h | ⟨h, -⟩
      · exact h.le
      · exact h.le
    rcases List.mem_cons.mp he with rfl | he
    case inl =>
      unfold bestSrc
      split
      · rfl
      next b hb => rw [if_neg (hle b (mem_of_bestSrc hb)).not_gt]
    case inr =>
      have hlt : x.2.2 < e.2.2 := by
        rcases hbest x List.mem_cons_self with h | ⟨-, hfirst⟩
        · exact h
        · rcases hx e he with ⟨hxp, hes⟩ | ⟨hkind, hid⟩
          · simp [hxp, hes] at hfirst
          · simp only [hkind] at hfirst
            rcases hfirst with ⟨ht, hf⟩ | ⟨-, hle⟩
            · simp [ht] at hf
            · omega
      rw [bestSrc, ih hxs he fun y hy => hbest y (List.mem_cons_of_mem x hy)]
      exact if_pos hlt

theorem State.lcoreOf_of_eligible {s : State} {k t : Nat} {land l2 : Bool} {e : Bool × Nat × Nat} (he : e ∈ s.eligible k t land l2) :
    some ((s.lcoreOf k).getD 0) = s.lcoreOf k := by
  cases hl : s.lcoreOf k with
  | none => simp [State.eligible, hl] at he
  | some l => rfl

/-! ## The claim -/

theorem Thread.cst_mod_four (th : Thread) : th.cst % 4 = th.level := by
  simp only [Thread.cst, Thread.level, fld, Nat.shiftRight_zero]
  omega

theorem Thread.four_le_cst (th : Thread) : decide (4 ≤ th.cst) = th.land := by
  rw [Thread.land, bit_eq_fld, Thread.cst]
  simp only [fld, Nat.shiftRight_eq_div_pow]
  congr 1
  exact propext (by omega)

/-- The record that a claim leaves of source e: ACTIVE, served by the claiming thread at its world and level (R391). -/
def State.claimed (s : State) (k : Fin 144) (t : Fin 4) (e : Bool × Nat × Nat) : Src :=
  { s.src (refOf k t e) with
    st := .active, swpend := false
    srv := { lcore := (s.lcoreOf k).getD 0, thr := t.val, land := (s.thread k t).land, lvl2 := decide ((s.thread k t).level = 2), prio := e.2.2 } }

section
variable {s : State} {k : Fin 144} {t : Fin 4}

theorem claim_of_bestSrc (hlevel : (s.thread k t).level = 1 ∨ (s.thread k t).level = 2) {e : Bool × Nat × Nat}
    (he : bestSrc (s.eligible k t (s.thread k t).land (decide ((s.thread k t).level = 2))) = some e) :
    claim k t (s.thread k t).cst s =
      (s.setSrc (refOf k t e) (s.claimed k t e), BitVec.ofNat 32 (e.2.1 + e.2.2 * 2 ^ 16 + b2n e.1 * 2 ^ 20)) := by
  unfold claim
  simp only [Thread.cst_mod_four, Thread.four_le_cst, if_pos hlevel, he]
  rfl

/-- At level 0 or 3, or with nothing eligible, a claim is spurious (R392). -/
theorem claim_spurious (h : (s.thread k t).level = 0 ∨ (s.thread k t).level = 3 ∨
      s.eligible k t (s.thread k t).land (decide ((s.thread k t).level = 2)) = []) :
    claim k t (s.thread k t).cst s = (s.incSat aIcSpur, 0x3FF) := by
  have hpick : (if (s.thread k t).level = 1 ∨ (s.thread k t).level = 2 then
      bestSrc (s.eligible k t (s.thread k t).land (decide ((s.thread k t).level = 2))) else none) = none := by
    rcases h with h | h | h
    · exact if_neg (by omega)
    · exact if_neg (by omega)
    · rw [h, bestSrc, ite_self]
  unfold claim
  simp only [Thread.cst_mod_four, Thread.four_le_cst, hpick]

/-- Without a load of IC_CLAIM on its way the claim is made at the thread's level and world. -/
theorem icClaimRow_of_no_request (h : ∀ q ∈ s.memc.reqs, q.ini ≠ .core k t) :
    icClaimRow k t s = { (claim k t (s.thread k t).cst s).1 with rdata := (claim k t (s.thread k t).cst s).2 } := by
  unfold icClaimRow
  rw [List.find?_eq_none.mpr fun q hq => by simp [h q hq]]

end

theorem exec_icClaim (s : State) (k : Fin 144) (t : Fin 4) : exec (.icClaim k t) s = .next (icClaimRow k t s) := rfl

/-- A claim's result word is not part of its source's record. -/
theorem State.src_rdata (s : State) (w : Word) (r : SrcRef) : ({ s with rdata := w } : State).src r = s.src r := State.src_of_eq rfl rfl r

/-- Settles O32: the eligible sources are listed by kind and ID, so the source that the statement names is the one that `bestSrc` picks. -/
theorem claimTakesTheHighestPriority : Obligations.ClaimTakesTheHighestPriority := by
  unfold Obligations.ClaimTakesTheHighestPriority
  refine ⟨?eligible, ?spurious⟩
  case eligible =>
    intro s k h hreqs hsrcs hpriv hlevel e he _ hbest
    refine ⟨icClaimRow k h s, exec_icClaim s k h, ?_⟩
    rw [icClaimRow_of_no_request hreqs, claim_of_bestSrc hlevel (bestSrc_eq (s.eligible_pairwise hsrcs hpriv _ _) he hbest), State.src_rdata,
      State.src_setSrc]
    exact ⟨rfl, rfl, rfl, State.lcoreOf_of_eligible he, rfl, rfl⟩
  case spurious =>
    intro s k h hreqs hnone
    rw [exec_icClaim, icClaimRow_of_no_request hreqs, claim_spurious hnone]

end Sys2Proof.Machine
end

section
/-! The rows by which software drives the sources (spec/09_interrupt_controller.md, R381, R382, R384, R396, R404), and what every row of the
interrupt controller leaves as it is. -/

namespace Sys2Proof.Machine

/-! ## Bitmaps -/

section
variable {s : State} {r : IcRight}

/-- The initiators that write every bit of a bitmap (R382). -/
theorem State.icBits_of_full (hr : r = .all ∨ r = .pendAll) (k : Nat) (v : Word) : s.icBits r k v = v := by
  rcases hr with rfl | rfl
  · rfl
  · rfl

theorem refusedFlag_of_ne (hr : r ≠ .refused) : refusedFlag r s = s := if_neg hr

theorem IcRight.ne_refused_of_full (hr : r = .all ∨ r = .pendAll) : r ≠ .refused := by
  rcases hr with rfl | rfl
  · decide
  · decide

/-- A bit of a bitmap write that is taken up. -/
def swBit (k : Nat) (v : Word) (val : Bool) (j : Nat) (s : State) : State :=
  if v.getLsbD j then s.setSrc (.shared (Fin.ofNat 416 (32 * k + j))) ((s.src (.shared (Fin.ofNat 416 (32 * k + j)))).setSw val) else s

theorem swBits_eq (k : Nat) (v : Word) (val : Bool) (s : State) : swBits k v val s = foldS (swBit k v val) (List.range 32) s := rfl

theorem swBit_keeps (k : Nat) (v : Word) (val : Bool) (j : Nat) {n : Fin 416} (h : (s.src (.shared n)).swpend = val) :
    ((swBit k v val j s).src (.shared n)).swpend = val := by
  unfold swBit
  split
  · rw [State.src_setSrc_shared]
    split
    · exact Src.swpend_setSw _ _
    · exact h
  · exact h

theorem foldS_swBit {k : Nat} {v : Word} {j : Nat} (hv : v.getLsbD j = true) (val : Bool) {l : List Nat} (hj : j ∈ l) (s : State) :
    ((foldS (swBit k v val) l s).src (.shared (Fin.ofNat 416 (32 * k + j)))).swpend = val := by
  induction l generalizing s with
  | nil => simp at hj
  | cons x l ih =>
    rcases List.mem_cons.mp hj with rfl | hj
    · refine foldS_induction (P := fun u => (u.src (.shared (Fin.ofNat 416 (32 * k + j)))).swpend = val)
        (fun x u hu => swBit_keeps k v val x hu) l _ ?_
      rw [swBit, if_pos hv, State.src_setSrc, Src.swpend_setSw]
    · exact ih hj (swBit k v val x s)

/-- A named source's swpend takes the value written (R384). -/
theorem icPend_src (hr : r = .all ∨ r = .pendAll) {k : Fin 13} (hk : 1 ≤ k.val) {v : Word} (val : Bool) {j : Fin 32} (hj : bit v j = true) :
    ((icPend r k v val s).src (.shared (Fin.ofNat 416 (32 * k + j)))).swpend = val := by
  rw [icPend, if_pos ⟨hk, by omega⟩, State.icBits_of_full hr, swBits_eq]
  exact foldS_swBit hj val (List.mem_range.mpr j.isLt) _

/-- The mask bits of the named sources are set (R381). -/
theorem icMask_set_reg (hr : r = .all ∨ r = .pendAll) {k : Fin 13} (hk : 1 ≤ k.val) (v : Word) :
    (icMask r k v true s).reg (aIcMask (k - 1)) = s.reg (aIcMask (k - 1)) ||| v := by
  rw [icMask, if_pos ⟨hk, by omega⟩, refusedFlag_of_ne (IcRight.ne_refused_of_full hr), State.icBits_of_full hr]
  exact (State.reg_orReg _ _ _ _).trans (if_pos rfl)

/-- The mask bits of the named sources are cleared (R381). -/
theorem icMask_clr_reg (hr : r = .all ∨ r = .pendAll) {k : Fin 13} (hk : 1 ≤ k.val) (v : Word) :
    (icMask r k v false s).reg (aIcMask (k - 1)) = s.reg (aIcMask (k - 1)) &&& ~~~v := by
  rw [icMask, if_pos ⟨hk, by omega⟩, refusedFlag_of_ne (IcRight.ne_refused_of_full hr), State.icBits_of_full hr]
  exact (State.reg_clrReg _ _ _ _).trans (if_pos rfl)

theorem icSrcCfg_reg {n : Fin 416} (hn : 32 ≤ n.val) (v : Word) :
    (icSrcCfg .all n v s).reg (aIcSrcCfg (n - 32)) = v &&& 0x000F337F := by
  rw [icSrcCfg, if_pos ⟨hn, n.isLt⟩, if_pos rfl, State.reg_setReg, if_pos rfl]

end

/-! ## Doorbells -/

theorem bit_bitW_same {i : Nat} (h : i < 32) : bit (bitW i) i = true := by
  simp [bit, bitW, h]

theorem Thread.creg_pstatSet (th : Thread) (clk : Nat) (m : Word) (n : Nat) :
    (th.pstatSet clk m).creg n = if n = 0x103 then th.creg 0x103 ||| m else th.creg n :=
  Thread.creg_setCreg th 0x103 _ n

/-- A doorbell that is not discarded sets its bell in PSTAT (R396). -/
theorem icDbell_creg {s : State} {r : IcRight} {v : Word} (hr : r ≠ .refused) {k : Nat} (hk : s.slotOf (fld v 0 7) = some k)
    (hland : r ≠ .seaOnly ∨ ((s.thread k (fld v 8 2)).privTgt (1 + fld v 10 3)).land = false) :
    bit (((icDbell r v s).thread k (fld v 8 2)).creg 0x103) (1 + fld v 10 3) = true := by
  have hbell : fld v 10 3 < 2 ^ 3 := Nat.mod_lt _ (by decide)
  have hkeep : ¬(r = .seaOnly ∧ ((s.thread k (fld v 8 2)).privTgt (1 + fld v 10 3)).land = true) := by
    rintro ⟨hsea, hl⟩
    rcases hland with h | h
    · exact h hsea
    · exact absurd hl (by simp [h])
  rw [icDbell, if_neg hr, hk]
  dsimp only
  rw [if_neg hkeep, State.thread_setThread, Thread.creg_pstatSet, if_pos rfl]
  exact bit_or_right (bit_bitW_same (by omega)) _

/-- Settles O33: an initiator that R382 admits in full writes every bit of a bitmap, and each clause reads off the register or the records. -/
theorem sourceSoftwareRows : Obligations.SourceSoftwareRows := by
  unfold Obligations.SourceSoftwareRows
  refine ⟨?bitmaps, ?config, ?doorbell⟩
  case bitmaps =>
    intro s ini k v hk hr
    exact ⟨⟨_, rfl, fun j hj => icPend_src hr hk true hj⟩, ⟨_, rfl, fun j hj => icPend_src hr hk false hj⟩,
      ⟨_, rfl, icMask_set_reg hr hk v⟩, ⟨_, rfl, icMask_clr_reg hr hk v⟩⟩
  case config =>
    intro s ini n v hn hr
    refine ⟨icSrcCfg (s.icRight ini (s.cstOf ini)) n v s, rfl, ?_⟩
    rw [hr]
    exact icSrcCfg_reg hn v
  case doorbell =>
    intro s ini v hr k hk hland
    exact ⟨_, rfl, icDbell_creg hr hk hland⟩

/-! ## Sources, threads' private banks and IC registers alone -/

/-- What the interrupt controller leaves of a thread: where it is, its registers and flags, and CSTAT. -/
structure Thread.RunsAs (th u : Thread) : Prop where
  pc : u.pc = th.pc
  d : u.d = th.d
  a : u.a = th.a
  f : u.f = th.f
  cstat : u.creg 0x80 = th.creg 0x80

theorem Thread.RunsAs.trans {th u v : Thread} (h : th.RunsAs u) (h' : u.RunsAs v) : th.RunsAs v :=
  ⟨h'.pc.trans h.pc, h'.d.trans h.d, h'.a.trans h.a, h'.f.trans h.f, h'.cstat.trans h.cstat⟩

theorem Thread.RunsAs.refl (th : Thread) : th.RunsAs th := ⟨rfl, rfl, rfl, rfl, rfl⟩

theorem Thread.runsAs_priv (th : Thread) (m : SMap Src) : th.RunsAs { th with priv := m } := ⟨rfl, rfl, rfl, rfl, rfl⟩

theorem Thread.runsAs_pstatSet (th : Thread) (clk : Nat) (m : Word) : th.RunsAs (th.pstatSet clk m) :=
  ⟨rfl, rfl, rfl, rfl, by rw [Thread.creg_pstatSet, if_neg (by decide)]⟩

/-- State t is s but for the shared sources, the IC registers, and what the interrupt controller changes of threads. -/
structure State.IcOnly (s t : State) : Prop where
  rest : t = { s with srcs := t.srcs, threads := t.threads, regs := t.regs }
  reg : ∀ a, a < 0x40020000 ∨ 0x40030000 ≤ a → t.reg a = s.reg a
  thread : ∀ j h, (s.thread j h).RunsAs (t.thread j h)

section
variable {s t : State}

theorem State.IcOnly.refl (s : State) : s.IcOnly s := ⟨rfl, fun _ _ => rfl, fun _ _ => .refl _⟩

theorem State.IcOnly.trans {u : State} (h : s.IcOnly t) (h' : t.IcOnly u) : s.IcOnly u := by
  refine ⟨h'.rest.trans ?_, fun a ha => (h'.reg a ha).trans (h.reg a ha), fun j g => (h.thread j g).trans (h'.thread j g)⟩
  rw [h.rest]

theorem State.setReg_icOnly (s : State) {a : Nat} (ha : 0x40020000 ≤ a ∧ a < 0x40030000) (v : Word) : s.IcOnly (s.setReg a v) :=
  ⟨rfl, fun b hb => by rw [State.reg_setReg, if_neg (by omega)], fun _ _ => .refl _⟩

theorem State.orStat_icOnly (s : State) (v : Word) : s.IcOnly (s.orReg aIcStat v) := s.setReg_icOnly (by decide) _

theorem State.setThread_icOnly {k g : Nat} {th : Thread} (h : (s.thread k g).RunsAs th) : s.IcOnly (s.setThread k g th) := by
  refine ⟨rfl, fun _ _ => rfl, fun j i => ?_⟩
  rw [State.thread_setThread_ite]
  split
  next hidx =>
    rw [State.thread, hidx]
    exact h
  · exact .refl _

theorem State.setSrc_icOnly (s : State) (r : SrcRef) (x : Src) : s.IcOnly (s.setSrc r x) := by
  cases r with
  | shared n => exact ⟨rfl, fun _ _ => rfl, fun _ _ => .refl _⟩
  | priv k g i => exact State.setThread_icOnly ((s.thread k g).runsAs_priv _)

end

/-! ## The rows -/

theorem aIcMask_in_block {k : Nat} (hk : 1 ≤ k ∧ k ≤ 12) : 0x40020000 ≤ aIcMask (k - 1) ∧ aIcMask (k - 1) < 0x40030000 := by
  unfold aIcMask
  omega

theorem aIcSrcCfg_in_block {n : Nat} (hn : 32 ≤ n ∧ n < 416) : 0x40020000 ≤ aIcSrcCfg (n - 32) ∧ aIcSrcCfg (n - 32) < 0x40030000 := by
  unfold aIcSrcCfg
  omega

theorem complete_icOnly (k : Fin 144) (g : Fin 4) (id : Nat) (s : State) : s.IcOnly (complete k g id s) := by
  unfold complete
  dsimp only
  split
  · split
    · exact s.setSrc_icOnly _ _
    · exact s.orStat_icOnly _
  · split
    · split
      · exact s.setSrc_icOnly _ _
      · exact s.orStat_icOnly _
    · exact s.orStat_icOnly _

theorem icDone_icOnly (ini : Initiator) (id : Nat) (s : State) : s.IcOnly (icDone ini id s) := by
  unfold icDone
  split
  · exact complete_icOnly _ _ id s
  · exact s.orStat_icOnly _

theorem icDbell_icOnly (r : IcRight) (v : Word) (s : State) : s.IcOnly (icDbell r v s) := by
  unfold icDbell
  split
  · exact s.orStat_icOnly _
  · split
    · exact s.orStat_icOnly _
    · dsimp only
      split
      · exact .refl s
      · exact State.setThread_icOnly (Thread.runsAs_pstatSet _ _ _)

theorem refusedFlag_icOnly (r : IcRight) (s : State) : s.IcOnly (refusedFlag r s) := by
  unfold refusedFlag
  split
  · exact s.orStat_icOnly _
  · exact .refl s

theorem swBits_icOnly (k : Nat) (v : Word) (val : Bool) (s : State) : s.IcOnly (swBits k v val s) := by
  rw [swBits_eq]
  refine foldS_induction (P := fun u => s.IcOnly u) (fun j u hu => hu.trans ?_) _ s (.refl s)
  unfold swBit
  split
  · exact u.setSrc_icOnly _ _
  · exact .refl u

theorem icPend_icOnly (r : IcRight) (k : Nat) (v : Word) (val : Bool) (s : State) : s.IcOnly (icPend r k v val s) := by
  unfold icPend
  split
  · exact (refusedFlag_icOnly r s).trans (swBits_icOnly _ _ _ _)
  · exact .refl s

theorem icMask_icOnly (r : IcRight) (k : Nat) (v : Word) (val : Bool) (s : State) : s.IcOnly (icMask r k v val s) := by
  unfold icMask
  dsimp only
  split
  next hk =>
    refine (refusedFlag_icOnly r s).trans ?_
    split
    · exact State.setReg_icOnly _ (aIcMask_in_block hk) _
    · exact State.setReg_icOnly _ (aIcMask_in_block hk) _
  · exact .refl s

theorem icSrcCfg_icOnly (r : IcRight) (n : Nat) (v : Word) (s : State) : s.IcOnly (icSrcCfg r n v s) := by
  unfold icSrcCfg
  split
  next hn =>
    split
    · exact s.setReg_icOnly (aIcSrcCfg_in_block hn) _
    · exact s.orStat_icOnly _
  · exact .refl s

/-- Settles O34: every row is made of writes of sources, of IC registers and of PSTAT. -/
theorem sourceRowsLeaveTheRest : Obligations.SourceRowsLeaveTheRest := by
  unfold Obligations.SourceRowsLeaveTheRest
  intro s t c ini r id k n v hc hex
  have hrow : s.IcOnly t := by
    simp only [List.mem_cons, List.not_mem_nil, or_false] at hc
    rcases hc with rfl | rfl | rfl | rfl | rfl | rfl | rfl | rfl
    · exact Host.Outcome.next.inj hex ▸ icDone_icOnly ini id s
    · exact Host.Outcome.next.inj hex ▸ s.setSrc_icOnly r _
    · exact Host.Outcome.next.inj hex ▸ icDbell_icOnly _ v s
    · exact Host.Outcome.next.inj hex ▸ icPend_icOnly _ k v true s
    · exact Host.Outcome.next.inj hex ▸ icPend_icOnly _ k v false s
    · exact Host.Outcome.next.inj hex ▸ icMask_icOnly _ k v true s
    · exact Host.Outcome.next.inj hex ▸ icMask_icOnly _ k v false s
    · exact Host.Outcome.next.inj hex ▸ icSrcCfg_icOnly _ n v s
  refine ⟨hrow.rest, State.byte_of_mem ?_, hrow.reg, fun j h => ?_⟩
  · rw [hrow.rest]
  · obtain ⟨hpc, hd, ha, hf, hcstat⟩ := hrow.thread j h
    exact ⟨hpc, hd, ha, hf, hcstat⟩

end Sys2Proof.Machine
end

section
/-! What is Breakwater's stays as it is while time passes on a core and while a take-over restores code: fetching, loads, wakes and
corrected words write registers of the memory controller and counters of the cores alone (spec/10_breakwater.md, R428;
spec/05_core_pipeline.md, R197 to R215, R241). -/

namespace Sys2Proof.Machine

/-- What Breakwater keeps and looks at: partitions and image, loader, frames, logical cores, log and take-overs, and the registers below the
memory controller's, with every register that stands 8 above a multiple of 32: among these is BWTR_PTn_STAT of any n. -/
def State.watch (s : State) : Setup × Qfa × Bwtr × (Nat → Word) :=
  (s.setup, s.qfa, ⟨s.bw.pts, s.bw.lcs, s.bw.log, s.bw.tkos, []⟩, fun a => if a < 0x400B0000 ∨ a % 32 = 8 then s.reg a else 0)

section
variable {s u : State} (h : u.watch = s.watch)
include h

theorem State.setup_of_watch : u.setup = s.setup := congrArg (·.1) h

theorem State.qfa_of_watch : u.qfa = s.qfa := congrArg (·.2.1) h

theorem State.log_of_watch : u.bw.log = s.bw.log := congrArg (·.2.2.1.log) h

theorem State.pt_of_watch (n : Nat) : u.pt n = s.pt n := congrArg (fun w : _ × _ × Bwtr × _ => smGet (fun _ => PtRun.init) w.2.2.1.pts n) h

theorem State.lc_of_watch (l : Nat) : u.lc l = s.lc l := congrArg (fun w : _ × _ × Bwtr × _ => smGet (fun _ => LcRun.init) w.2.2.1.lcs l) h

theorem State.reg_of_watch {a : Nat} (ha : a < 0x400B0000 ∨ a % 32 = 8) : u.reg a = s.reg a := by
  have hreg : (if _ then _ else _) = if _ then _ else _ := congrArg (fun w => w.2.2.2 a) h
  rwa [if_pos ha, if_pos ha] at hreg

theorem State.ptOut_of_watch (n : Nat) : u.ptOut n = s.ptOut n := by
  have hstat : u.reg (aBwtrPtStat n) = s.reg (aBwtrPtStat n) := State.reg_of_watch h (.inr (by rw [aBwtrPtStat]; omega))
  rw [State.ptOut, State.ptOut, State.ptShed, State.ptShed, State.qfa_of_watch h, hstat]

theorem State.partOf_of_watch (l : Nat) : u.partOf l = s.partOf l := by
  simp only [State.partOf, State.setup_of_watch h, State.ptOut_of_watch h]

theorem State.slotOf_of_watch {l : Nat} (hl : l < 128) : u.slotOf l = s.slotOf l := by
  have hmap : u.reg (aBwtrSlotmap (l / 8)) = s.reg (aBwtrSlotmap (l / 8)) := State.reg_of_watch h (.inl (by rw [aBwtrSlotmap]; omega))
  rw [State.slotOf, State.slotOf, hmap]

theorem State.lcoreOf_of_watch {k : Nat} (hk : k < 144) : u.lcoreOf k = s.lcoreOf k := by
  have hslot : ∀ i ∈ List.range 8, u.slotOf (8 * (k / 9) + i) = s.slotOf (8 * (k / 9) + i) := fun i hi =>
    State.slotOf_of_watch h (by have := List.mem_range.mp hi; omega)
  rw [State.lcoreOf, State.lcoreOf, List.find?_congr (fun i hi => by rw [hslot i hi])]

theorem State.inService_of_watch {k : Nat} (hk : k < 144) : u.inService k = s.inService k := by
  have hstat : u.reg (aBwtrCstat (k / 9)) = s.reg (aBwtrCstat (k / 9)) := State.reg_of_watch h (.inl (by rw [aBwtrCstat]; omega))
  rw [State.inService, State.inService, hstat]

theorem State.spareFree_of_watch {c : Nat} (hc : c < 16) : u.spareFree c = s.spareFree c := by
  have hstat : u.reg (aBwtrCstat c) = s.reg (aBwtrCstat c) := State.reg_of_watch h (.inl (by rw [aBwtrCstat]; omega))
  rw [State.spareFree, State.spareFree, hstat]

end

/-! ## Writes of State -/

@[simp] theorem State.watch_upd (t : State) (mem tide cmps srcs threads cores memc ferry flash sec jrnl boot pwr ckp lant cp tap evi hold
    sap links pcie eth camp draws freeCtr rdata pending) :
    State.watch ⟨t.regs, mem, tide, cmps, srcs, threads, cores, memc, ferry, t.setup, t.bw, t.qfa, flash, sec, jrnl, boot, pwr, ckp, lant, cp, tap,
      evi, hold, sap, links, pcie, eth, camp, draws, freeCtr, rdata, pending⟩ = t.watch := (rfl)

theorem State.watch_setReg {a : Nat} (ha : 0x400B0000 ≤ a ∧ a % 32 ≠ 8) (s : State) (v : Word) : (s.setReg a v).watch = s.watch := by
  have hreg : (fun b => if b < 0x400B0000 ∨ b % 32 = 8 then (s.setReg a v).reg b else 0) =
      fun b => if b < 0x400B0000 ∨ b % 32 = 8 then s.reg b else 0 := by
    funext b
    split
    next hb => rw [State.reg_setReg, if_neg (by omega)]
    next => rfl
  exact congrArg (fun r => (s.setup, s.qfa, (⟨s.bw.pts, s.bw.lcs, s.bw.log, s.bw.tkos, []⟩ : Bwtr), r)) hreg

theorem foldS_watch {α : Type} {f : α → State → State} (hf : ∀ x s, (f x s).watch = s.watch) (l : List α) (s : State) :
    (foldS f l s).watch = s.watch :=
  foldS_induction (P := fun u => u.watch = s.watch) (fun x u h => (hf x u).trans h) l s rfl

@[simp] theorem State.watch_setThread (s : State) (k t : Nat) (th : Thread) : (s.setThread k t th).watch = s.watch := (rfl)

@[simp] theorem State.watch_setCore (s : State) (k : Nat) (c : CoreSt) : (s.setCore k c).watch = s.watch := (rfl)

@[simp] theorem State.watch_request (s : State) (ini : Initiator) (kind : FabKind) (a n : Nat) (data : List Byte) (cst : Nat)
    (mask : Option Nat) : (s.request ini kind a n data cst mask).1.watch = s.watch := (rfl)

/-- The registers of core k stand as those of core 0, 0x10000 k higher. -/
theorem coreReg_unwatched {b : Nat} (hb : 0x400B0000 ≤ b ∧ b % 32 ≠ 8) (k : Nat) :
    0x400B0000 ≤ b + 0x10000 * k ∧ (b + 0x10000 * k) % 32 ≠ 8 := by omega

theorem State.watch_count {a : Nat} (ha : 0x400B0000 ≤ a ∧ a % 32 ≠ 8) (s : State) (k n clk : Nat) :
    (s.count k a n clk).watch = s.watch := by
  unfold State.count
  split
  · rfl
  · exact State.watch_setReg ha s _

@[simp] theorem State.watch_icMiss (s : State) (k n clk : Nat) : (s.count k (aCoreIcMiss k) n clk).watch = s.watch :=
  State.watch_count (coreReg_unwatched (by decide) k) s k n clk

@[simp] theorem State.watch_dcMiss (s : State) (k n clk : Nat) : (s.count k (aCoreDcMiss k) n clk).watch = s.watch :=
  State.watch_count (coreReg_unwatched (by decide) k) s k n clk

@[simp] theorem State.watch_fqEmpty (s : State) (k n : Nat) : (s.addReg (aCoreFqEmpty k) n).watch = s.watch :=
  State.watch_setReg (coreReg_unwatched (by decide) k) s _

@[simp] theorem State.watch_passCclk (s : State) (k dt : Nat) : (s.passCclk k dt).watch = s.watch :=
  State.watch_setReg (a := aCoreCyc k) (coreReg_unwatched (by decide) k) _ _

/-! ## Fetching -/

theorem beginFetch_watch {k : Fin 144} {t : Fin 4} {a clk : Nat} {s u : State} (h : beginFetch k t a clk s = some u) :
    u.watch = s.watch := by
  have hcount (b : Bool) : (if b = true then s.count k (aCoreIcMiss k) 1 clk else s).watch = s.watch := by
    cases b <;> simp
  have hthread (b : Bool) (th : Thread) : ((if b = true then s.count k (aCoreIcMiss k) 1 clk else s).setThread k t th).watch = s.watch :=
    (State.watch_setThread ..).trans (hcount b)
  unfold beginFetch at h
  dsimp only at h
  split at h
  · split at h
    · cases h; exact hthread _ _
    · split at h <;> cases h <;> exact hthread _ _
  · split at h
    · cases h
    · cases h; exact (State.watch_setThread ..).trans ((State.watch_request ..).trans (hcount _))

@[simp] theorem recapture_watch (k t : Nat) (pc : Word) (s : State) : (recapture k t pc s).watch = s.watch := by
  unfold recapture
  dsimp only
  split
  · split <;> rfl
  · rfl

@[simp] theorem captureLb_watch (k t : Nat) (e : FqEnt) (s : State) : (captureLb k t e s).watch = s.watch := by
  unfold captureLb
  dsimp only
  split
  · split <;> simp
  · simp

@[simp] theorem enqueue_watch (k t : Nat) (early : Bool) (e : FqEnt) (s : State) : (enqueue k t early e s).watch = s.watch := by
  unfold enqueue
  dsimp only
  split <;> simp

@[simp] theorem touchCode_watch (k : Nat) (th : Thread) (a : Nat) (s : State) : (touchCode k th a s).watch = s.watch := by
  unfold touchCode
  split <;> rfl

@[simp] theorem fetchOne_watch (k : Fin 144) (t : Fin 4) (pc : Word) (early : Bool) (clk : Nat) (s : State) :
    (fetchOne k t pc early clk s).watch = s.watch := by
  have hbegin (a : Nat) : ((beginFetch k t a clk s).getD s).watch = s.watch := by
    cases h : beginFetch k t a clk s with
    | none => rfl
    | some u => exact beginFetch_watch h
  unfold fetchOne
  dsimp only
  split
  case h_1 =>
    split
    · simp
    · split
      case h_1 => simp
      case h_2 => exact hbegin _
      case h_3 =>
        split
        · split <;> simp
        · simp
        · simp
  all_goals simp

@[simp] theorem lbDeliver_watch (k clk : Nat) (s : State) : (lbDeliver k clk s).watch = s.watch := by
  unfold lbDeliver
  split
  · rfl
  · split
    · split <;> simp
    · rfl

@[simp] theorem joinAhead_watch (k t : Nat) (s : State) : (joinAhead k t s).watch = s.watch := by
  unfold joinAhead
  dsimp only
  split
  · rfl
  · split <;> rfl

@[simp] theorem entryFetch_watch (k : Fin 144) (t : Fin 4) (clk : Nat) (s : State) : (entryFetch k t clk s).watch = s.watch := by
  simp [entryFetch, apply_ite State.watch]

@[simp] theorem portFetch_watch (k : Fin 144) (clk : Nat) (s : State) : (portFetch k clk s).watch = s.watch := by
  unfold portFetch
  split
  · rfl
  · split
    · rfl
    · split <;> simp

@[simp] theorem fetchCclk_watch (k : Fin 144) (clk : Nat) (s : State) : (fetchCclk k clk s).watch = s.watch := by
  simp [fetchCclk, foldS_watch, apply_ite State.watch]

@[simp] theorem fetchRun_watch (k : Fin 144) (n clk : Nat) (s : State) : (fetchRun k n clk s).watch = s.watch := by
  induction n generalizing clk s with
  | zero => rfl
  | succ n ih => simp [fetchRun, ih, apply_ite State.watch]

/-! ## Loads of own local memory and of the fabric -/

@[simp] theorem askPart_watch (k : Fin 144) (t : Fin 4) (cst a n : Nat) (s : State) : (askPart k t cst a n s).1.watch = s.watch := by
  unfold askPart
  split
  · split <;> rfl
  · rfl

@[simp] theorem askParts_watch (k : Fin 144) (t : Fin 4) (cst : Nat) (ps : List (Nat × Nat)) (s : State) :
    (askParts k t cst ps s).1.watch = s.watch := by
  induction ps generalizing s with
  | nil => rfl
  | cons p ps ih => simp [askParts, ih]

@[simp] theorem farLoad_watch (k : Fin 144) (t : Fin 4) (cst clk hit : Nat) (pc fpc : Word) (kind : LdKind) (d a : Nat)
    (st : State × Thread) : (farLoad k t cst clk hit pc fpc kind d a st).1.watch = st.1.watch := by
  unfold farLoad
  dsimp only
  split
  · split <;> simp
  · simp

@[simp] theorem State.countCe_watch (s : State) (bw : Bool) (a : Nat) : (s.countCe bw a).watch = s.watch := by
  have hcnt : (s.incSat aMemcCeCnt).watch = s.watch := State.watch_setReg (by decide) s _
  have hstat (u : State) (c : Bool) : (u.orRegIf c aMemcStat 1).watch = u.watch := by
    cases c
    · rfl
    · exact State.watch_setReg (by decide) u _
  have hmemc (u : State) (m : MemCtl) : ({ u with memc := m } : State).watch = u.watch := rfl
  unfold State.countCe
  dsimp only
  split
  · exact (hmemc _ _).trans ((hstat _ _).trans hcnt)
  · exact (hstat _ _).trans hcnt

@[simp] theorem State.ownCes_watch (s : State) (ws : List Nat) : (s.ownCes ws).watch = s.watch :=
  foldS_watch (fun w u => u.countCe_watch false w) ws s

@[simp] theorem State.logUe_watch (s : State) (ini : Initiator) (k : FabKind) (a : Nat) : (s.logUe ini k a).watch = s.watch := by
  unfold State.logUe
  split
  · exact State.watch_setReg (by decide) _ _
  · exact State.watch_setReg (by decide) s _

@[simp] theorem State.ownUes_watch (s : State) (k : Fin 144) (t : Fin 4) (kind : FabKind) (ws : List Nat) :
    (s.ownUes k t kind ws).watch = s.watch := by
  refine foldS_watch (fun w u => ?_) ws s
  have hlog := u.logUe_watch (.core k t) kind w
  have hbw : (u.logUe (.core k t) kind w).bw = u.bw := by
    unfold State.logUe
    split <;> rfl
  rw [State.watch, hbw] at hlog
  exact hlog

@[simp] theorem memLoad_watch (k : Fin 144) (t : Fin 4) (cst clk : Nat) (pc fpc : Word) (m : State) (i : IssueInfo) (kind : LdKind)
    (d a : Nat) (st : State × Thread) : (memLoad k t cst clk pc fpc m i kind d a st).1.watch = st.1.watch := by
  unfold memLoad
  split
  · split <;> simp
  · rfl
  · simp

@[simp] theorem lateLoad_watch (k : Fin 144) (t : Fin 4) (f : FarLoad) (lag : Nat) (s : State) :
    (lateLoad k t f lag s).watch = s.watch := by
  unfold lateLoad
  dsimp only
  split
  · rfl
  · split <;> simp

@[simp] theorem checkLoad_watch (k : Fin 144) (t : Fin 4) (f : FarLoad) (s : State) : (checkLoad k t f s).watch = s.watch := by
  unfold checkLoad
  dsimp only
  split
  · simp
  · split <;> rfl

@[simp] theorem checkLoads_watch (k clk : Nat) (s : State) : (checkLoads k clk s).watch = s.watch := by
  refine foldS_watch (fun t u => foldS_watch (fun f v => ?_) _ u) _ s
  split
  · simp
  · rfl

/-! ## Time -/

@[simp] theorem advance_watch (k : Fin 144) (dt : Nat) (s : State) : (advance k dt s).watch = s.watch := by
  have htick (clk : Nat) (u : State) : (foldS (fun t s => s.onThread k t (fun th => th.tick dt clk)) (List.range 4) u).watch = u.watch :=
    foldS_watch (fun t v => v.watch_setThread k t _) _ u
  simp [advance, htick, apply_ite State.watch]

/-! ## Code that a take-over restores -/

@[simp] theorem State.setMemPwr_watch (s : State) (u : Nat) (p : MemPwr) : (s.setMemPwr u p).watch = s.watch := by
  unfold State.setMemPwr
  split
  · exact State.watch_setReg (by decide) _ _
  · rfl

@[simp] theorem State.zero_watch (s : State) (a n : Nat) : (s.zero a n).watch = s.watch := (rfl)

@[simp] theorem State.store_watch (s : State) (a : Nat) (bs : List Byte) : (s.store a bs).watch = s.watch := (rfl)

@[simp] theorem State.zeroUnit_watch (s : State) (u : Nat) : (s.zeroUnit u).watch = s.watch := by
  simp [State.zeroUnit, apply_ite State.watch]

@[simp] theorem State.beginWake_watch (s : State) (u : Nat) : (s.beginWake u).watch = s.watch := by
  have hcnt (v : State) : (v.incSat aMemcWakeCnt).watch = v.watch := State.watch_setReg (by decide) v _
  unfold State.beginWake
  split <;> simp [hcnt]

@[simp] theorem State.markWoken_watch (s : State) (u : Nat) : (s.markWoken u).watch = s.watch := by
  simp [State.markWoken, apply_ite State.watch]

@[simp] theorem State.endWake_watch (s : State) (u : Nat) : (s.endWake u).watch = s.watch := by
  unfold State.endWake
  split <;> simp

@[simp] theorem State.wakeSpan_watch (s : State) (a n : Nat) : (s.wakeSpan a n).watch = s.watch := by
  refine foldS_watch (fun u v => ?_) _ s
  split
  · simp [State.wakeUnit]
  · rfl

@[simp] theorem copyEcc_watch (c : CodeRec) (errs : List (Nat × Bool)) (s : State) : (copyEcc c errs s).watch = s.watch := by
  refine foldS_watch (fun e v => ?_) errs s
  dsimp only
  split
  · rfl
  · split <;> simp

@[simp] theorem copyCode_watch (l k : Nat) (errs : List (Nat × Bool)) (s : State) : (copyCode l k errs s).watch = s.watch := by
  unfold copyCode
  split
  · refine (foldS_watch (fun e v => ?_) errs _).trans (by simp)
    dsimp only
    split <;> rfl
  · rfl

@[simp] theorem restoreCode_watch (l k : Nat) (errs : List (Nat × Bool)) (s : State) : (restoreCode l k errs s).watch = s.watch := by
  simp [restoreCode]

end Sys2Proof.Machine
end

section
/-! Rules of Breakwater's operations (spec/10_breakwater.md, R420 to R430, R450): what the log, the fence, a CORE reset and the beginning of a
take-over write, and what they leave. -/

namespace Sys2Proof.Machine

/-! ## Frames and logical cores after writes -/

@[simp] theorem State.pt_setPt (s : State) (n : Nat) (r : PtRun) (m : Nat) : (s.setPt n r).pt m = if m = n then r else s.pt m := by
  simp [State.pt, State.setPt]

@[simp] theorem State.lc_setLc (s : State) (l : Nat) (x : LcRun) (j : Nat) : (s.setLc l x).lc j = if j = l then x else s.lc j := by
  simp [State.lc, State.setLc]

theorem State.lc_of_lcs {s u : State} (h : u.bw.lcs = s.bw.lcs) (l : Nat) : u.lc l = s.lc l := congrArg (smGet _ · l) h

theorem State.pt_of_pts {s u : State} (h : u.bw.pts = s.bw.pts) (n : Nat) : u.pt n = s.pt n := congrArg (smGet _ · n) h

theorem State.core_of_cores {s u : State} (h : u.cores = s.cores) (k : Nat) : u.core k = s.core k := congrArg (smGet _ · k) h

theorem cevt_bw (c : Nat) (m : Word) (s : State) : (cevt c m s).bw = s.bw := State.orReg_bw s _ m

theorem cevt_cores (c : Nat) (m : Word) (s : State) : (cevt c m s).cores = s.cores := State.orReg_cores s _ m

section
variable (s : State) (ts : List TakeOver)

theorem State.setTkos_log : (s.setTkos ts).bw.log = s.bw.log := rfl

theorem State.setTkos_lc (l : Nat) : (s.setTkos ts).lc l = s.lc l := rfl

theorem State.setTkos_core (k : Nat) : (s.setTkos ts).core k = s.core k := rfl

end

/-! ## The log -/

/-- The log leaves the logical cores, and takes an entry where it has room (R450). -/
theorem logEvent_frame (k : Nat) (e : FaultEvt) (s : State) : (logEvent k e s).bw.lcs = s.bw.lcs ∧
    (s.bw.log.length < 64 → (logEvent k e s).bw.log.length = s.bw.log.length + 1) := by
  unfold logEvent
  extract_lets c p n w0 w4 ent s1
  obtain ⟨hlcs, hlog⟩ : s1.bw.lcs = s.bw.lcs ∧ s1.bw.log = s.bw.log := by
    unfold s1
    split
    · exact ⟨rfl, rfl⟩
    · exact ⟨rfl, rfl⟩
  rw [← hlcs, ← hlog]
  split
  next hroom => exact ⟨rfl, fun _ => List.length_append⟩
  next hfull => exact ⟨rfl, fun h => absurd h hfull⟩

/-- The log writes the event bits of the cluster, BWTR_STAT and the count of events lost. -/
theorem logEvent_reg {a : Nat} {e : FaultEvt} (hevt : a ≠ aBwtrCevt (e.lcore / 8)) (hstat : a ≠ aBwtrStat) (hlost : a ≠ aBwtrLogLost) (k : Nat)
    (s : State) : (logEvent k e s).reg a = s.reg a := by
  unfold logEvent
  extract_lets c p n w0 w4 ent s1
  have h1 : s1.reg a = s.reg a := by
    unfold s1
    split <;> rfl
  split
  · exact ((State.reg_orReg ..).trans (if_neg hevt)).trans h1
  · exact (((State.reg_orReg ..).trans (if_neg hevt)).trans ((State.reg_incSat ..).trans (if_neg hlost))).trans
      (((State.reg_orReg ..).trans (if_neg hstat)).trans h1)

/-! ## The fence and the CORE reset -/

theorem foldS_setThread_frame {α : Type} {f : α → State → State} (hf : ∀ x s, ∃ j t th, f x s = s.setThread j t th) (l : List α) (s : State) :
    (foldS f l s).bw = s.bw ∧ (foldS f l s).regs = s.regs :=
  foldS_induction (P := fun u => u.bw = s.bw ∧ u.regs = s.regs)
    (fun x u h => by obtain ⟨j, t, th, hu⟩ := hf x u; rw [hu]; exact h) l s ⟨rfl, rfl⟩

theorem fenceCore_frame (k : Nat) (s : State) :
    (fenceCore k s).bw = s.bw ∧ (fenceCore k s).regs = s.regs :=
  foldS_setThread_frame (fun _ _ => ⟨_, _, _, rfl⟩) _ s

theorem fenceCore_fenced (k : Nat) (s : State) : ((fenceCore k s).core k).fenced = true := by
  unfold fenceCore
  extract_lets s1
  rw [State.core_setCore, if_pos rfl]

theorem fenceCore_core_ne {k j : Nat} (h : j ≠ k) (s : State) : (fenceCore k s).core j = s.core j := by
  unfold fenceCore
  extract_lets s1
  rw [State.core_setCore, if_neg h]
  exact core_foldS_onThread k _ _ s j

/-- A CORE reset takes back an injection of the slot's logical core, and no other (R673, R452). -/
theorem coreReset_frame (k : Nat) (s : State) : (coreReset k s).bw.log = s.bw.log ∧
    ∀ l, (s.lc l).inj = none → ((coreReset k s).lc l).inj = none := by
  unfold coreReset
  extract_lets s1 c _ s2 s3
  have h1 : s1.bw = s.bw := (foldS_setThread_frame (fun t u => ⟨k, t, Thread.reset, rfl⟩) _ s).1
  have h3 : s3.bw = s.bw := foldS_induction (P := fun u => u.bw = s.bw) (f := fun a u => u.setReg a 0) (fun _ _ h => h) _ s2 h1
  have hlc (l : Nat) : s3.lc l = s.lc l := State.lc_of_lcs (congrArg Bwtr.lcs h3) l
  clear_value s3
  split
  next j hj =>
    refine ⟨(congrArg Bwtr.log h3 : s3.bw.log = s.bw.log), fun l h => ?_⟩
    refine (congrArg LcRun.inj (State.lc_setLc s3 j { s3.lc j with inj := none, ripe := false } l)).trans ?_
    split
    · rfl
    · rw [hlc, h]
  next => exact ⟨congrArg Bwtr.log h3, fun l h => by rw [hlc, h]⟩

/-! ## A core's retirement -/

/-- Retiring a core of the cluster leaves its spare as it is. -/
theorem spareFree_retire {k : Nat} (hk : k % 9 ≠ 8) (s : State) : (retire k s).spareFree (k / 9) = s.spareFree (k / 9) := by
  have hslot : k % 9 < 9 := Nat.mod_lt k (by decide)
  have hne : aBwtrCstat (k / 9) ≠ aBwtrCflt (k / 9) := by rw [aBwtrCstat, aBwtrCflt]; omega
  have hstat : (retire k s).reg (aBwtrCstat (k / 9)) =
      setFld (setFld (s.reg (aBwtrCstat (k / 9))) (k % 9) 1 (b2n false)) (9 + k % 9) 1 (b2n true) := by
    simp only [retire, State.reg_incFld, if_neg hne, State.reg_setRegFld, if_true]
    rfl
  rw [State.spareFree, State.spareFree, hstat, bit_setFld_one _ (by omega), bit_setFld_one _ (by omega), bit_setFld_one _ (by omega),
    bit_setFld_one _ (by omega), if_neg (by omega), if_neg (by omega), if_neg (by omega), if_neg (by omega)]

/-! ## The beginning of a take-over -/

theorem keepTags_frame (l k : Nat) (s : State) : (keepTags l k s).bw.log = s.bw.log ∧ (keepTags l k s).cores = s.cores ∧
    ∀ j, ((keepTags l k s).lc j).inj = (s.lc j).inj := by
  unfold keepTags
  split
  next k' hk' =>
    refine ⟨rfl, rfl, fun j => (congrArg LcRun.inj (State.lc_setLc ..)).trans ?_⟩
    split
    next h => rw [h]
    next => rfl
  next => exact ⟨rfl, rfl, fun _ => rfl⟩

/-- The take-over of logical core l into slot k waits for its release (Table 10-4 step 1). -/
theorem beginTakeOver_tkos (l k : Nat) (replay : Bool) (s : State) :
    ⟨l, k, replay, false, false⟩ ∈ (beginTakeOver l k replay s).bw.tkos :=
  List.mem_append_right _ (List.mem_singleton.mpr rfl)

theorem mapLcore_bw (l : Nat) (slot : Option Nat) (s : State) : (mapLcore l slot s).bw = s.bw :=
  ((State.setRegFld_bw ..).trans (State.setRegFld_bw ..)).trans (State.setRegFld_bw ..)

theorem mapLcore_cores (l : Nat) (slot : Option Nat) (s : State) : (mapLcore l slot s).cores = s.cores :=
  ((State.setRegFld_cores ..).trans (State.setRegFld_cores ..)).trans (State.setRegFld_cores ..)

/-- The beginning of a take-over leaves the log, the injections and every core but the new one. -/
theorem beginTakeOver_leaves (l k : Nat) (replay : Bool) (s : State) : (beginTakeOver l k replay s).bw.log = s.bw.log ∧
    (∀ j, ((beginTakeOver l k replay s).lc j).inj = (s.lc j).inj) ∧ ∀ j ≠ k, (beginTakeOver l k replay s).core j = s.core j := by
  obtain ⟨hlog, hcores, hinj⟩ := keepTags_frame l k s
  unfold beginTakeOver
  extract_lets c s1 s2
  have h1 : s1.bw = (keepTags l k s).bw ∧ s1.cores = (keepTags l k s).cores :=
    ⟨(mapLcore_bw ..).trans (State.setRegFld_bw ..), (mapLcore_cores ..).trans (State.setRegFld_cores ..)⟩
  have h2 : s2.bw = (keepTags l k s).bw := (fenceCore_frame k s1).1.trans h1.1
  have hevt (u : State) (j : Nat) : (cevt c 2 u).lc j = u.lc j := State.lc_of_lcs (congrArg Bwtr.lcs (cevt_bw c 2 u)) j
  refine ⟨?_, fun j => ?_, fun j hj => ?_⟩
  · exact (congrArg Bwtr.log (cevt_bw ..)).trans ((State.setTkos_log s2 _).trans ((congrArg Bwtr.log h2).trans hlog))
  · have hlc : s2.lc j = (keepTags l k s).lc j := State.lc_of_lcs (congrArg Bwtr.lcs h2) j
    exact (congrArg LcRun.inj ((hevt _ j).trans ((State.setTkos_lc s2 _ j).trans hlc))).trans (hinj j)
  · have hcore : s2.core j = s.core j := (fenceCore_core_ne hj s1).trans (State.core_of_cores (h1.2.trans hcores) j)
    exact (State.core_of_cores (cevt_cores ..) j).trans ((State.setTkos_core s2 _ j).trans hcore)

end Sys2Proof.Machine
end

section
/-! A core fault in a cluster whose spare is free (spec/10_breakwater.md, R419, R420, R427, Table 10-4): the core is fenced and its logical
core's take-over into the spare begins. -/

namespace Sys2Proof.Machine

theorem State.notReplayed_frame (n : Nat) (s : State) : (s.notReplayed n).cores = s.cores ∧ (s.notReplayed n).bw.lcs = s.bw.lcs ∧
    (s.notReplayed n).bw.log.length = s.bw.log.length := ⟨rfl, rfl, List.length_map _⟩

theorem holdoffLcore_frame (l : Nat) (s : State) : (holdoffLcore l s).bw = s.bw ∧ (holdoffLcore l s).regs = s.regs := ⟨rfl, rfl⟩

theorem retire_bw (k : Nat) (s : State) : (retire k s).bw = s.bw :=
  ((State.incFld_bw ..).trans (State.setRegFld_bw ..)).trans (State.setRegFld_bw ..)

theorem State.spareFree_of_regs {s u : State} (h : u.regs = s.regs) (c : Nat) : u.spareFree c = s.spareFree c := by
  rw [State.spareFree, State.spareFree, State.reg, State.reg, h]

/-- With the spare of its cluster free, a core in service that fails is logged, reset and fenced, and its logical core's take-over into the
spare begins. -/
theorem coreFault_of_spare {k l : Nat} {s : State} (hl : s.lcoreOf k = some l) (hin : s.inService k = true) (hk : k % 9 ≠ 8)
    (hspare : s.spareFree (k / 9) = true) (det addr after : Nat) :
    ∃ rep u, coreFault det k addr s after = beginTakeOver l (9 * (k / 9) + 8) rep u ∧ (u.core k).fenced = true ∧
      (s.bw.log.length < 64 → u.bw.log.length = s.bw.log.length + 1) ∧ ((s.lc l).inj = none → (u.lc l).inj = none) := by
  unfold coreFault
  simp -zeta only [hl, hin, Bool.not_true, Bool.false_eq_true, if_false]
  extract_lets c pt s1 spare s2 choice r0 shedSelf rep out s2' s3 s4 s4' s5
  clear_value pt
  have hfree : spare = true := by
    refine (State.spareFree_of_regs (holdoffLcore_frame l _).2 c).trans ((spareFree_retire hk _).trans ?_)
    exact (State.spareFree_of_regs (fenceCore_frame k s).2 c).trans hspare
  have hchoice : choice = (some (9 * (k / 9) + 8, none), none) := if_pos hfree
  have h1 : s1.bw = s.bw := ((holdoffLcore_frame l _).1.trans (retire_bw k _)).trans (fenceCore_frame k s).1
  have h2 : s2.bw = s.bw := by
    unfold s2
    rw [if_neg (by rw [hfree]; decide)]
    split
    · exact (cevt_bw ..).trans h1
    · exact h1
  have h4 : s4.cores = s3.cores ∧ s4.bw.lcs = s3.bw.lcs ∧ s4.bw.log = s3.bw.log := by
    unfold s4
    split <;> exact ⟨rfl, rfl, rfl⟩
  have h4' : s4'.cores = s4.cores ∧ s4'.bw.lcs = s4.bw.lcs ∧ s4'.bw.log.length = s4.bw.log.length := by
    unfold s4'
    split
    · split
      · exact State.notReplayed_frame _ _
      · exact ⟨rfl, rfl, rfl⟩
    · exact ⟨rfl, rfl, rfl⟩
  have h5 : s5 = s4' := by
    unfold s5
    rw [hchoice]
  obtain ⟨hresetLog, hresetInj⟩ := coreReset_frame k s2'
  have hlogged : s2'.bw.lcs = s2.bw.lcs ∧ (s2.bw.log.length < 64 → s2'.bw.log.length = s2.bw.log.length + 1) := logEvent_frame k _ s2
  have h3 : s3.bw = (coreReset k s2').bw := (fenceCore_frame k _).1
  refine ⟨rep, s4', by rw [hchoice, ← h5], ?_, fun hroom => ?_, fun hinj => ?_⟩
  · rw [State.core_of_cores (h4'.1.trans h4.1), fenceCore_fenced]
  · rw [h4'.2.2, h4.2.2, h3, hresetLog, ← h2]
    exact hlogged.2 (by rwa [h2])
  · rw [State.lc_of_lcs (h4'.2.1.trans (h4.2.1.trans (congrArg Bwtr.lcs h3)))]
    refine hresetInj l ?_
    rwa [State.lc_of_lcs (hlogged.1.trans (congrArg Bwtr.lcs h2))]

/-! ## The rows that find a core fault -/

/-- From s to t slot k is fenced, the take-over of logical core l into its cluster's spare waits for its release, a log with room takes one
entry, and no injection comes into l. -/
structure State.TakenOver (s t : State) (k l : Nat) : Prop where
  fenced : (t.core k).fenced = true
  begun  : ∃ x ∈ t.bw.tkos, x.lcore = l ∧ x.slot = 9 * (k / 9) + 8 ∧ x.loaded = false
  logged : s.bw.log.length < 64 → t.bw.log.length = s.bw.log.length + 1
  inj    : (s.lc l).inj = none → (t.lc l).inj = none

theorem faultAfter_takenOver {k : Fin 144} {l : Nat} {s : State} (hl : s.lcoreOf k = some l) (hin : s.inService k = true)
    (hk : k.val % 9 ≠ 8) (hspare : s.spareFree (k / 9) = true) (det addr dt : Nat) :
    s.TakenOver (faultAfter det k addr dt s) k l := by
  have hw : (advance (Fin.ofNat 144 k) dt s).watch = s.watch := advance_watch _ dt s
  obtain ⟨rep, u, heq, hfenced, hlog, hinj⟩ := coreFault_of_spare ((State.lcoreOf_of_watch hw k.isLt).trans hl)
    ((State.inService_of_watch hw k.isLt).trans hin) hk ((State.spareFree_of_watch hw (by omega)).trans hspare) det addr 0
  have hfault : faultAfter det k addr dt s = beginTakeOver l (9 * (k / 9) + 8) rep u :=
    (if_pos ⟨hin, by rw [hl]; rfl⟩).trans heq
  obtain ⟨hlog', hinj', hcore'⟩ := beginTakeOver_leaves l (9 * (k / 9) + 8) rep u
  rw [State.log_of_watch hw] at hlog
  rw [State.lc_of_watch hw] at hinj
  rw [hfault]
  exact
    { fenced := by rw [hcore' k (by omega), hfenced]
      begun := ⟨_, beginTakeOver_tkos l _ rep u, rfl, rfl, rfl⟩
      logged := fun h => by rw [hlog', hlog h]
      inj := fun h => by rw [hinj', hinj h] }

/-- A note of which Breakwater has been told is taken up, and nothing else changes. -/
theorem takeNote_of_noted {k a : Nat} {s : State} (h : s.bw.notes.any (fun n => decide (n.1 = k) && decide (n.2 / 8 = a / 8)) = true) :
    ∃ notes, takeNote k a s = some { s with bw := { s.bw with notes := notes } } := by
  obtain ⟨n, hn⟩ := Option.isSome_iff_exists.mp (List.find?_isSome.mpr (List.any_eq_true.mp h))
  exact ⟨_, by rw [takeNote, hn]; rfl⟩

theorem exec_localUeDetect_noted {k : Fin 144} {a : BitVec 44} {s : State} (hown : s.isOwn k (s.plain a.toNat / 8 * 8) = true)
    (hnote : s.bw.notes.any (fun n => decide (n.1 = k.val) && decide (n.2 / 8 = s.plain a.toNat / 8)) = true) (kind : Fin 3) (dt : Nat) :
    ∃ notes, exec (.localUeDetect k a kind dt) s =
      .next (faultAfter 1 k (s.plain a.toNat / 8 * 8) dt { s with bw := { s.bw with notes := notes } }) := by
  obtain ⟨notes, hn⟩ := takeNote_of_noted (a := s.plain a.toNat / 8 * 8) (by rwa [Nat.mul_div_cancel _ (by decide)])
  refine ⟨notes, ?_⟩
  show execLocalUeDetect k a kind dt s = _
  simp only [execLocalUeDetect, hown, hn]

theorem exec_injectedFaultRaise_ripe {c : Fin 128} {k d : Nat} {s : State} (hslot : s.slotOf c = some k) (hd : (s.lc c).inj = some d)
    (h5 : d ≠ 5) (hripe : (s.lc c).ripe = true) (dt : Nat) : exec (.injectedFaultRaise c dt) s =
      .next (faultAfter d k 0 dt (s.setLc c { s.lc c with inj := none, ripe := false })) := by
  show execInjectedFaultRaise c dt s = _
  simp only [execInjectedFaultRaise, hslot, hd, if_neg h5, hripe, if_true]

/-- Settles O36: each row is a core fault of the slot, `faultAfter`, in a state that keeps the slot map, the service bits and the log. -/
theorem coreFaultRows : Obligations.CoreFaultRows := by
  unfold Obligations.CoreFaultRows
  intro s k dt hk hin hspare l hl
  have hrow (det addr : Nat) : s.TakenOver (faultAfter det k addr dt s) k l := faultAfter_takenOver hl hin hk hspare det addr dt
  refine ⟨fun a kind hown hnote => ?_, ?_, ?_, fun c hc hslot d hd h5 hripe => ?_⟩
  · obtain ⟨notes, hex⟩ := exec_localUeDetect_noted hown hnote kind dt
    obtain ⟨hfenced, hbegun, hlogged, -⟩ := faultAfter_takenOver (s := { s with bw := { s.bw with notes := notes } }) hl hin hk hspare 1
      (s.plain a.toNat / 8 * 8) dt
    exact ⟨_, hex, hfenced, hbegun, hlogged⟩
  · obtain ⟨hfenced, hbegun, hlogged, -⟩ := hrow 3 0
    exact ⟨_, rfl, hfenced, hbegun, hlogged⟩
  · obtain ⟨hfenced, hbegun, hlogged, -⟩ := hrow 4 0
    exact ⟨_, rfl, hfenced, hbegun, hlogged⟩
  · subst hc
    obtain ⟨hfenced, hbegun, -, hinj⟩ := faultAfter_takenOver (s := s.setLc c { s.lc c with inj := none, ripe := false }) hl hin hk hspare d 0 dt
    exact ⟨_, exec_injectedFaultRaise_ripe hslot hd h5 hripe dt, hfenced, hinj (by rw [State.lc_setLc, if_pos rfl]), hbegun⟩

end Sys2Proof.Machine
end

section
/-! The rows of a partition frame (spec/10_breakwater.md, R408, R409, R422, R423, R428 to R432, R447, R450, R452): watchdog, commit deadline,
state fault, release of a take-over, replay, return from DEGRADED, the log's pop and injection. -/

namespace Sys2Proof.Machine

/-! ## Cores that stop as done -/

theorem stopCore_frame (k : Nat) (s : State) : (stopCore k s).bw = s.bw ∧ (stopCore k s).regs = s.regs :=
  foldS_setThread_frame (fun _ _ => ⟨_, _, _, rfl⟩) _ s

theorem State.slotOf_of_regs {s u : State} (h : u.regs = s.regs) (l : Nat) : u.slotOf l = s.slotOf l := by
  rw [State.slotOf, State.slotOf, State.reg, State.reg, h]

theorem stopAsDone_frame (l : Nat) (s : State) : (stopAsDone l s).regs = s.regs ∧ (stopAsDone l s).bw.pts = s.bw.pts := by
  unfold stopAsDone
  split
  · exact ⟨rfl, rfl⟩
  next k _ =>
    obtain ⟨hbw, hregs⟩ := stopCore_frame k s
    exact ⟨hregs, (congrArg Bwtr.pts hbw : (stopCore k s).bw.pts = s.bw.pts)⟩

/-- A logical core waits, where b holds, for the next fire of its frame compare. -/
def LcRun.readyIf (x : LcRun) (b : Bool) : LcRun := { x with ready := x.ready || b }

theorem LcRun.readyIf_false (x : LcRun) : x.readyIf false = x := by simp [LcRun.readyIf]

theorem LcRun.readyIf_of_ready {x : LcRun} (h : x.ready = true) (b : Bool) : x.readyIf b = x := by
  rw [LcRun.readyIf, h, Bool.true_or, ← h]

theorem LcRun.readyIf_readyIf (x : LcRun) (a b : Bool) : (x.readyIf a).readyIf b = x.readyIf (a || b) := by
  simp [LcRun.readyIf, Bool.or_assoc]

/-- A logical core with a slot that stops as done waits for the next fire of its frame compare (R409, R422). -/
theorem stopAsDone_lc (l : Nat) (s : State) (j : Nat) : (stopAsDone l s).lc j =
    (s.lc j).readyIf (decide (j = l) && (s.slotOf l).isSome) := by
  unfold stopAsDone
  split
  next hslot => rw [hslot, Option.isSome_none, Bool.and_false, LcRun.readyIf_false]
  next k hslot =>
    rw [State.lc_setLc, State.lc_of_lcs (congrArg Bwtr.lcs (stopCore_frame k s).1), hslot, Option.isSome_some, Bool.and_true]
    by_cases h : j = l
    · simp [h, LcRun.readyIf]
    · simp [h, LcRun.readyIf_false]

/-- What a watchdog's fire does with each core of its partition (R422). -/
def stopUnready (j : Nat) (s : State) : State := if (s.lc j).ready then s else stopAsDone j s

theorem stopUnready_frame (l : Nat) (s : State) : (stopUnready l s).regs = s.regs ∧ (stopUnready l s).bw.pts = s.bw.pts := by
  unfold stopUnready
  split
  · exact ⟨rfl, rfl⟩
  · exact stopAsDone_frame l s

theorem stopUnready_lc (l : Nat) (s : State) (j : Nat) : (stopUnready l s).lc j =
    (s.lc j).readyIf (decide (j = l) && (s.slotOf l).isSome) := by
  unfold stopUnready
  split
  next hready =>
    by_cases h : j = l
    · rw [h, LcRun.readyIf_of_ready hready]
    · rw [decide_eq_false h, Bool.false_and, LcRun.readyIf_false]
  next => exact stopAsDone_lc l s j

/-- The cores of a list stop: the frames stay, and each logical core of the list that has a slot is ready. -/
theorem foldS_stopUnready (ls : List Nat) (s : State) : (foldS stopUnready ls s).bw.pts = s.bw.pts ∧
    ∀ j, (foldS stopUnready ls s).lc j = (s.lc j).readyIf (ls.contains j && (s.slotOf j).isSome) := by
  induction ls generalizing s with
  | nil => exact ⟨rfl, fun j => (LcRun.readyIf_false _).symm⟩
  | cons l ls ih =>
    obtain ⟨hpts, hlc⟩ := ih (stopUnready l s)
    obtain ⟨hregs, hpts'⟩ := stopUnready_frame l s
    refine ⟨hpts.trans hpts', fun j => (hlc j).trans ?_⟩
    rw [stopUnready_lc, LcRun.readyIf_readyIf, State.slotOf_of_regs hregs, List.contains_cons]
    by_cases h : j = l
    · cases hslot : (s.slotOf l).isSome <;> simp [h, hslot]
    · simp [h, beq_eq_false_iff_ne.mpr h]

/-! ## The watchdog -/

theorem cevt_reg {a c : Nat} (h : a ≠ aBwtrCevt c) (m : Word) (s : State) : (cevt c m s).reg a = s.reg a :=
  (State.reg_orReg ..).trans (if_neg h)

/-- The watchdog of an Open partition, without a limit of overruns in a row, fails the frame, counts an overrun and stops the core (R422). -/
theorem watchdog_open {p : Part} {l k : Nat} {s : State} (hcls : p.cls = 0) (hlim : fld (s.reg aBwtrCfg) 0 4 = 0)
    (hopen : (s.pt p.part).committed = false) (hmem : l ∈ p.lcores) (hslot : s.slotOf l = some k) :
    ((watchdog p l k s).pt p.part).failed = true ∧ ((watchdog p l k s).lc l).wdFired = true ∧ ((watchdog p l k s).lc l).ready = true ∧
      ((watchdog p l k s).lc l).overruns = (s.lc l).overruns + 1 := by
  unfold watchdog
  extract_lets x s1 n y s2 lim done s3 _ s4
  rw [if_neg (not_not.mpr hcls)]
  have hdone : done = false := hopen
  have h3 : s3 = logEvent k ⟨5, 1, l, k % 9, k % 9, 0, false, false, 0⟩ s2 := by
    unfold s3
    rw [hdone]
    exact if_neg (fun h => h.1 hlim)
  have h4 : s4 = s3.setPt p.part { s3.pt p.part with failed := true } := by
    unfold s4
    rw [hdone]
    rfl
  have hpt : (s4.pt p.part).failed = true := by rw [h4, State.pt_setPt, if_pos rfl]
  have hlc : s4.lc l = { x with wdFired := true, inj := if x.inj = some 5 then none else x.inj, overruns := n } := by
    have hlcs : s4.bw.lcs = s2.bw.lcs := by
      rw [h4, h3]
      exact (logEvent_frame k _ s2).1
    have hy : y = { x with wdFired := true, inj := if x.inj = some 5 then none else x.inj } := (State.lc_setLc ..).trans (if_pos rfl)
    rw [State.lc_of_lcs (hlcs.trans (congrArg Bwtr.lcs (cevt_bw ..))), State.lc_setLc, if_pos rfl, hy]
  have hslot4 : s4.slotOf l = some k := by
    have hmap : s4.reg (aBwtrSlotmap (l / 8)) = s.reg (aBwtrSlotmap (l / 8)) := by
      have hne : aBwtrSlotmap (l / 8) ≠ aBwtrCevt (l / 8) := by rw [aBwtrSlotmap, aBwtrCevt]; omega
      have hlog : s3.reg (aBwtrSlotmap (l / 8)) = s2.reg (aBwtrSlotmap (l / 8)) := by
        rw [h3]
        exact logEvent_reg hne (by rw [aBwtrSlotmap, aBwtrStat]; omega) (by rw [aBwtrSlotmap, aBwtrLogLost]; omega) k s2
      rw [h4]
      exact hlog.trans (cevt_reg hne ..)
    rw [State.slotOf, hmap]
    exact hslot
  obtain ⟨hpts, hfold⟩ := foldS_stopUnready p.lcores s4
  have hready := hfold l
  rw [hlc, hslot4, List.contains_iff_mem.mpr hmem] at hready
  refine ⟨(congrArg PtRun.failed (State.pt_of_pts hpts p.part)).trans hpt, ?_, ?_, ?_⟩
  · exact congrArg LcRun.wdFired hready
  · exact (congrArg LcRun.ready hready).trans (Bool.or_true _)
  · exact congrArg LcRun.overruns hready

theorem exec_watchdogFire_reached {l : Fin 128} {k : Fin 144} {p : Part} {dt : Nat} {s : State} (hslot : s.slotOf l = some k.val)
    (hp : s.partOf l = some p) (hbudget : p.budget ≤ (advance k dt s).wdCount k) (hin : (s.pt p.part).inFrame = true)
    (hopen : (s.pt p.part).committed = false) (hfired : (s.lc l).wdFired = false) (hready : (s.lc l).ready = false)
    (hserv : s.inService k = true) (hfence : (s.core k).fenced = false) (hdone : (advance k dt s).coreDone k p.part = false) :
    exec (.watchdogFire l dt) s = .next (watchdog p l k (advance k dt s)) := by
  have hk : Fin.ofNat 144 k.val = k := Fin.ofNat_val_eq_self k
  have hfire : watchdogFire l dt s = watchdog p l k (advance k dt s) := by
    simp only [watchdogFire, hslot, hp, hk]
    exact if_pos ⟨hbudget, hin, hfired, hserv, hfence, .inl ⟨hopen, hready, hdone⟩⟩
  exact congrArg Host.Outcome.next hfire

/-- A logical core of a partition stands in the partition's list. -/
theorem mem_lcores_of_partOf {s : State} {l : Nat} {p : Part} (hl : l < 128) (h : s.partOf l = some p) : l ∈ p.lcores := by
  have hp := List.find?_some h
  rw [Bool.and_eq_true] at hp
  exact List.mem_filter.mpr ⟨List.mem_range.mpr hl, hp.1⟩

/-! ## The commit deadline -/

/-- At the commit deadline a core that is not done fails the frame, whether it awaits its replay or not (R409). -/
theorem commitDeadline_late {n : Nat} {p : Part} {s : State} (hp : s.part? n = some p) (hshed : s.ptShed n = false)
    (hin : (s.pt n).inFrame = true) (hopen : (s.pt n).committed = false) (hlate : p.lcores.any (fun l => !s.lcDone n l) = true) :
    ((commitDeadline n s).pt n).failed = true ∧ ((commitDeadline n s).pt n).awaiting = false := by
  unfold commitDeadline
  simp -zeta only [hp]
  extract_lets r late s1 _
  have hsome : late.isEmpty = false := by
    obtain ⟨l, hl, hnot⟩ := List.any_eq_true.mp hlate
    exact List.isEmpty_eq_false_iff_exists_mem.mpr ⟨l, List.mem_filter.mpr ⟨hl, hnot⟩⟩
  rw [if_neg (by rw [hshed, hin, hopen]; decide), if_neg (by rw [hsome]; simp)]
  have hpts (u : State) : (foldS (fun l s => stopAsDone l s) late u).bw.pts = u.bw.pts :=
    foldS_induction (P := fun v => v.bw.pts = u.bw.pts) (fun l v h => (stopAsDone_frame l v).2.trans h) late u rfl
  rw [State.pt_of_pts (hpts _), State.pt_setPt, if_pos rfl]
  exact ⟨rfl, rfl⟩

/-! ## A state fault -/

/-- A state fault of a frame that is not committed fails it and notes the word (R423). -/
theorem stateFault_open {l k a : Nat} {p : Part} {s : State} (hk : s.slotOf l = some k) (hp : s.partOf l = some p)
    (hin : (s.pt p.part).inFrame = true) (hopen : (s.pt p.part).committed = false) :
    ((stateFault l a s).pt p.part).failed = true ∧
      ((stateFault l a s).pt p.part).badWords = (s.pt p.part).badWords ++ [a / 8 * 8] := by
  unfold stateFault
  simp -zeta only [hk, hp]
  extract_lets b r s1 _
  rw [if_pos ⟨hin, hopen⟩, State.pt_setPt, if_pos rfl]
  exact ⟨rfl, rfl⟩

theorem exec_stateFault_noted {l : Fin 128} {a : BitVec 44} {k : Nat} {s : State} (hk : s.slotOf l = some k) (hown : s.isOwn k a.toNat = false)
    (hnote : s.bw.notes.any (fun n => decide (n.1 = k) && decide (n.2 / 8 = a.toNat / 8)) = true) (dt : Nat) : ∃ notes,
    exec (.stateFault l a dt) s =
      .next (stateFault l a.toNat (advance (Fin.ofNat 144 k) dt { s with bw := { s.bw with notes := notes } })) := by
  obtain ⟨notes, hn⟩ := takeNote_of_noted hnote
  refine ⟨notes, ?_⟩
  have htaken : noteTaken l a.toNat dt s =
      stateFault l a.toNat (advance (Fin.ofNat 144 k) dt { s with bw := { s.bw with notes := notes } }) := by
    simp only [noteTaken, hk, hown, hn]
  exact congrArg Host.Outcome.next htaken

/-! ## The start of a logical core -/

theorem loadThreads_bw (p : Part) (k l : Nat) (run : Bool) (s : State) : (loadThreads p k l run s).bw = s.bw := by
  unfold loadThreads
  split
  · rfl
  · refine (foldS_setThread_frame (fun t u => ?_) _ s).1
    split
    · exact ⟨_, _, _, rfl⟩
    · exact ⟨_, _, _, rfl⟩

theorem loadCoreCfg_bw (p : Part) (k l : Nat) (s : State) : (loadCoreCfg p k l s).bw = s.bw := by
  unfold loadCoreCfg
  split
  · rfl
  · exact (State.setReg_bw ..).trans (State.setReg_bw ..)

/-- A logical core that starts is not ready any more; frames and take-overs stay. -/
theorem startLcore_frame (p : Part) (l k : Nat) (s : State) : (startLcore p l k s).bw.pts = s.bw.pts ∧
    (startLcore p l k s).bw.tkos = s.bw.tkos ∧ ((startLcore p l k s).lc l).ready = false := by
  have hbw : (loadThreads p k l true s).bw = s.bw := loadThreads_bw p k l true s
  unfold startLcore
  extract_lets s1 s2 _
  refine ⟨(congrArg Bwtr.pts hbw : (loadThreads p k l true s).bw.pts = s.bw.pts),
    (congrArg Bwtr.tkos hbw : (loadThreads p k l true s).bw.tkos = s.bw.tkos), ?_⟩
  rw [State.lc_setLc, if_pos rfl]

/-! ## The release of a take-over -/

theorem takeOverLoad_replay {l : Nat} {x : TakeOver} {p : Part} {s : State} (hp : s.partOf l = some p) (h : x.replay = true) :
    { x with loaded := true } ∈ (takeOverLoad l x s).bw.tkos := by
  simp only [takeOverLoad, hp, h, if_true]
  exact List.mem_append_right _ (List.mem_singleton.mpr rfl)

theorem takeOverLoad_start {l : Nat} {x : TakeOver} {p : Part} {s : State} (hp : s.partOf l = some p) (h : x.replay = false) :
    (∀ y ∈ (takeOverLoad l x s).bw.tkos, y.lcore ≠ l) ∧ ((takeOverLoad l x s).lc l).ready = !x.late := by
  have hothers : ∀ y ∈ s.bw.tkos.filter (fun y => decide (y.lcore ≠ l)), y.lcore ≠ l := fun y hy =>
    of_decide_eq_true (List.mem_filter.mp hy).2
  unfold takeOverLoad
  simp -zeta only [hp]
  extract_lets others s1 _
  rw [if_neg (by rw [h]; decide)]
  cases hlate : x.late with
  | true =>
    rw [if_pos rfl]
    obtain ⟨-, htkos, hready⟩ := startLcore_frame p l x.slot (s1.setTkos others)
    exact ⟨fun y hy => hothers y (by rwa [htkos] at hy), hready⟩
  | false =>
    rw [if_neg (by decide)]
    exact ⟨hothers, by rw [State.lc_setLc, if_pos rfl]; rfl⟩

theorem takeOverRelease_found {l : Nat} {errs : List (Nat × Bool)} {x : TakeOver} {s : State}
    (hx : s.bw.tkos.find? (fun y => decide (y.lcore = l) && !y.loaded) = some x) :
    takeOverRelease l errs s = takeOverLoad l x (freshCore x.slot (restoreCode l x.slot errs s)) := by
  simp only [takeOverRelease, hx]

/-! ## The replay -/

theorem State.notReplayed_pt (n : Nat) (s : State) : (s.notReplayed n).pt n =
    { s.pt n with evr := [], evc := (s.pt n).evc ++ (s.pt n).evr.filter (fun c => !(s.pt n).evc.contains c) } :=
  (State.pt_setPt s n _ n).trans (if_pos rfl)

theorem restartLcore_pts (p : Part) (l : Nat) (s : State) : (restartLcore p l s).bw.pts = s.bw.pts := by
  unfold restartLcore
  split
  · rfl
  next k _ =>
    extract_lets posted _ s1 s2
    have h1 : s1.bw = s.bw := State.setCore_bw ..
    have h2 : s2.bw.pts = s1.bw.pts := (startLcore_frame p l k _).1.trans
      (congrArg Bwtr.pts ((loadCoreCfg_bw p k l _).trans (holdoffLcore_frame l s1).1))
    have h3 := (foldS_setThread_frame (f := fun t s => s.onThread k t fun th => { th with posted := posted.getD t [] })
      (fun _ _ => ⟨_, _, _, rfl⟩) (List.range 4) s2).1
    exact (congrArg Bwtr.pts h3).trans (h2.trans (congrArg Bwtr.pts h1))

theorem foldS_cevt_bit {a i : Nat} (cs : List Nat) (m : Word) {s : State} (h : bit (s.reg a) i = true) :
    bit ((foldS (fun c s => cevt c m s) cs s).reg a) i = true := by
  refine foldS_induction (P := fun u => bit (u.reg a) i = true) (fun c u hu => ?_) cs s h
  rw [cevt, State.reg_orReg]
  split
  next ha => exact bit_or_left (ha ▸ hu) m
  next => exact hu

theorem foldS_cevt_pts (cs : List Nat) (m : Word) (s : State) : (foldS (fun c s => cevt c m s) cs s).bw.pts = s.bw.pts :=
  foldS_induction (P := fun u => u.bw.pts = s.bw.pts) (fun c u hu => (congrArg Bwtr.pts (cevt_bw c m u)).trans hu) cs s rfl

section
variable {n : Nat} {p : Part} {s : State} (hp : s.part? n = some p) (hawait : (s.pt n).awaiting = true)
  (hloaded : ∀ x ∈ s.bw.tkos, p.cores.getLsbD x.lcore = true → x.loaded = true)
include hawait hloaded

theorem replay_ready : ¬((s.pt n).awaiting = false ∨
    (s.bw.tkos.filter (fun t => p.cores.getLsbD t.lcore)).any (fun t => !t.loaded) = true) := by
  rintro (h | h)
  · exact absurd (hawait.symm.trans h) (by decide)
  · obtain ⟨x, hx, hnot⟩ := List.any_eq_true.mp h
    obtain ⟨hmem, hcore⟩ := List.mem_filter.mp hx
    rw [hloaded x hmem hcore] at hnot
    exact absurd hnot (by decide)

include hp

/-- The cores restart in time: the frame is replayed, and BWTR_PTn_STAT shows it (R431). -/
theorem replayRestart_intime : ((replayRestart n true s).pt n).awaiting = false ∧ ((replayRestart n true s).pt n).replayed = true ∧
    bit ((replayRestart n true s).reg (aBwtrPtStat n)) 4 = true := by
  unfold replayRestart
  simp -zeta only [hp]
  extract_lets r mine _ s1 s2 s3 y _
  rw [if_neg (replay_ready hawait hloaded), if_pos trivial]
  have hy : y = { r with awaiting := false, replayed := true } := by
    have hpts : s3.bw.pts = s2.bw.pts := foldS_induction (P := fun u => u.bw.pts = s2.bw.pts) (f := fun l s => restartLcore p l s)
      (fun l u hu => (restartLcore_pts p l u).trans hu) p.lcores s2 rfl
    exact (State.pt_of_pts hpts n).trans ((State.pt_setPt ..).trans (if_pos rfl))
  refine ⟨?_, ?_, foldS_cevt_bit _ _ ?_⟩
  · rw [State.pt_of_pts (foldS_cevt_pts ..), State.pt_setPt, if_pos rfl, hy]
  · rw [State.pt_of_pts (foldS_cevt_pts ..), State.pt_setPt, if_pos rfl, hy]
  · have hreg : (((s3.incSat (aBwtrPtReplay n)).orReg (aBwtrPtStat n) 0x10).reg (aBwtrPtStat n)) =
        (s3.incSat (aBwtrPtReplay n)).reg (aBwtrPtStat n) ||| 0x10 := (State.reg_orReg ..).trans (if_pos rfl)
    exact (congrArg (bit · 4) hreg).trans (bit_or_right (by decide) _)

/-- Too late for the replay, the frame fails (R432). -/
theorem replayRestart_late : ((replayRestart n false s).pt n).awaiting = false ∧ ((replayRestart n false s).pt n).failed = true := by
  unfold replayRestart
  simp -zeta only [hp]
  extract_lets r mine _ s1 _ _ _ s2
  rw [if_neg (replay_ready hawait hloaded), if_neg Bool.false_ne_true]
  have h2 : (s2.pt n).awaiting = false ∧ (s2.pt n).failed = true := by
    rw [State.notReplayed_pt, State.pt_setPt, if_pos rfl]
    exact ⟨rfl, rfl⟩
  have hpts (u : State) : (foldS (fun t s => s.setLc t.lcore { s.lc t.lcore with ready := true }) mine u).bw.pts = u.bw.pts :=
    foldS_induction (P := fun v => v.bw.pts = u.bw.pts) (f := fun (t : TakeOver) s => s.setLc t.lcore { s.lc t.lcore with ready := true })
      (fun _ _ h => h) mine u rfl
  rw [State.pt_of_pts (hpts _)]
  exact h2

end

/-! ## The return from DEGRADED -/

theorem State.setMemPwr_pwr (s : State) (u : Nat) (p : MemPwr) : (s.setMemPwr u p).pwr = s.pwr := by
  unfold State.setMemPwr
  extract_lets _ s1
  have h1 : s1.pwr = s.pwr := rfl
  split
  · exact (State.setRegFld_pwr ..).trans h1
  · exact h1

theorem State.withMemc_pwr (s : State) (m : MemCtl) : ({ s with memc := m } : State).pwr = s.pwr := rfl

theorem neapUnits_pwr (s : State) : (neapUnits s).pwr = s.pwr := by
  unfold neapUnits
  extract_lets s1
  have h1 : s1.pwr = s.pwr := foldS_induction (P := fun u => u.pwr = s.pwr) (fun u v h => (v.setMemPwr_pwr u _).trans h) _ s rfl
  exact (s1.withMemc_pwr _).trans h1

theorem execDegradedExit_exits {s : State} (hmode : s.pwr.mode = .degraded) (hlost : bit (s.reg aBwtrStat) 0 = false)
    (hframe : s.atFrameBoundary = true) :
    ∃ t, execDegradedExit s = .next t ∧ t.pwr = { s.pwr with mode := s.pwr.replaced, prev := .degraded } := by
  unfold execDegradedExit
  rw [if_pos ⟨hmode, hlost, hframe⟩]
  extract_lets s1
  have h1 : s1.pwr = { s.pwr with mode := s.pwr.replaced, prev := .degraded } := by
    rw [← hmode]
    exact State.orReg_pwr ..
  refine ⟨_, rfl, ?_⟩
  split
  · exact (neapUnits_pwr s1).trans h1
  · exact h1

/-! ## Injection -/

theorem execFaultInjection_registers {k : Fin 144} {h : Fin 4} {v : Word} {s : State} (hen : bit (s.reg aBwtrCfg) 8 = true)
    (hcst : 5 ≤ (s.thread k h).cst) (hlo : 3 ≤ fld v 8 4) (hhi : fld v 8 4 ≤ 5) (hslot : (s.slotOf (fld v 0 7)).isSome = true) :
    execFaultInjection (.core k h) v s =
      .next (s.setLc (fld v 0 7) { s.lc (fld v 0 7) with inj := some (fld v 8 4), ripe := false }) := by
  have hok : (bit (s.reg aBwtrCfg) 8 && decide (5 ≤ (s.thread k h).cst)) = true := by rw [hen, decide_eq_true hcst]; rfl
  exact congrArg Host.Outcome.next ((if_pos hok).trans (if_pos ⟨hlo, hhi, hslot⟩))

/-- Without inj_en nobody's write of BWTR_INJ registers anything (R452). -/
theorem execFaultInjection_refused {s : State} (hen : bit (s.reg aBwtrCfg) 8 = false) (ini : Initiator) (v : Word) :
    execFaultInjection ini v s = .next (s.orReg aBwtrStat 0x200) := by
  simp only [execFaultInjection, faultInjection, hen, Bool.false_and, Bool.false_eq_true, if_false]

/-- Settles O37: each row is one operation on the partition's frame or on a logical core, in the machine once the CCLK have passed or the code
is restored, which leaves Breakwater all that it looks at. -/
theorem breakwaterFrameRows : Obligations.BreakwaterFrameRows := by
  unfold Obligations.BreakwaterFrameRows
  refine ⟨?watchdog, ?deadline, ?stateFault, ?release, ?replay, ?degraded, ?pop, ?injects, ?refused⟩
  case watchdog =>
    intro s l dt k hslot p hp hcls hbudget hin hopen hfired hready hserv hfence hdone hlim
    have hw : (advance k dt s).watch = s.watch := advance_watch k dt s
    refine ⟨_, exec_watchdogFire_reached hslot hp hbudget hin hopen hfired hready hserv hfence hdone, ?_⟩
    rw [← State.lc_of_watch hw l]
    exact watchdog_open hcls (by rw [State.reg_of_watch hw (.inl (by decide)), hlim]) (by rw [State.pt_of_watch hw, hopen])
      (mem_lcores_of_partOf l.isLt hp) ((State.slotOf_of_watch hw l.isLt).trans hslot)
  case deadline =>
    intro s n p hp hshed hin hopen hlate
    exact ⟨_, rfl, commitDeadline_late hp hshed hin hopen hlate⟩
  case stateFault =>
    intro s l a dt k hk p hp hown hnote hin hopen
    obtain ⟨notes, hex⟩ := exec_stateFault_noted hk hown hnote dt
    refine ⟨_, hex, ?_⟩
    have hw := advance_watch (Fin.ofNat 144 k) dt { s with bw := { s.bw with notes := notes } }
    have hpt := State.pt_of_watch hw p.part
    obtain ⟨hfailed, hbad⟩ := stateFault_open (a := a.toNat) ((State.slotOf_of_watch hw l.isLt).trans hk) ((State.partOf_of_watch hw l).trans hp)
      (by rw [hpt]; exact hin) (by rw [hpt]; exact hopen)
    rw [hpt] at hbad
    exact ⟨hfailed, hbad⟩
  case release =>
    intro s l errs hpart x hx
    obtain ⟨p, hp⟩ := Option.isSome_iff_exists.mp hpart
    have hp' : (freshCore x.slot (restoreCode l x.slot errs s)).partOf l = some p :=
      (State.partOf_of_watch ((State.watch_setCore ..).trans (restoreCode_watch l x.slot errs s)) l).trans hp
    exact ⟨_, congrArg Host.Outcome.next (takeOverRelease_found hx), takeOverLoad_replay hp', takeOverLoad_start hp'⟩
  case replay =>
    intro s n intime p hp hawait hloaded
    refine ⟨_, rfl, ?_⟩
    cases intime with
    | true =>
      obtain ⟨hdone, hreplayed, hstat⟩ := replayRestart_intime hp hawait hloaded
      exact ⟨hdone, fun _ => ⟨hreplayed, hstat⟩, fun h => absurd h (by decide)⟩
    | false =>
      obtain ⟨hdone, hfailed⟩ := replayRestart_late hp hawait hloaded
      exact ⟨hdone, fun h => absurd h (by decide), fun _ => hfailed⟩
  case degraded =>
    intro s hmode hlost hframe
    obtain ⟨t, hex, hpwr⟩ := execDegradedExit_exits hmode hlost hframe
    exact ⟨t, hex, congrArg Pwr.mode hpwr, congrArg Pwr.prev hpwr⟩
  case pop => exact fun s => ⟨popLog s, rfl, rfl, rfl⟩
  case injects =>
    intro s k h v hen hcst hlo hhi hslot
    exact ⟨_, execFaultInjection_registers hen hcst hlo hhi hslot, by rw [State.lc_setLc, if_pos rfl]⟩
  case refused => exact fun s ini v hen => execFaultInjection_refused hen ini v

end Sys2Proof.Machine
end

section
/-! The commit of a partition frame (spec/10_breakwater.md, R410, R435, R451). -/

namespace Sys2Proof.Machine

/-- A partition without cores. -/
def emptyPart : Part :=
  { part := 0, land := true, cls := 0, profile := 0, policy := 0, thrEn := 0, fmul := 0, prio := 0, ssEn := false, ebbSeg := 0, floodSeg := 0
    window := 0, bpred := false, budget := 0, state := 0, cores := 0, h0 := 0, half := 0 }

/-- A failed frame of partition 0 whose events name cluster 960. The device has 16 clusters, so no event of it names such a one; its
BWTR_CEVT would stand at the address of BWTR_PT0_CW. -/
def frameBehindNoCluster : State :=
  { State.reset with
    setup := { Setup.none with parts := [emptyPart] }
    bw := { Bwtr.reset with pts := [(0, { PtRun.init with inFrame := true, failed := true, evc := [960] })] } }

/-- Refutes O35: its first clause bounds nothing that BWTR_CEVT shows (R451), so a frame that cluster 960 failed ORs ev_bridge into the
commit word's low half after the word is written. -/
theorem not_commitOrBridge : ¬ Obligations.CommitOrBridge := by
  unfold Obligations.CommitOrBridge
  rintro ⟨hcommit, -, -⟩
  obtain ⟨t, hex, -, hlow, -⟩ := hcommit frameBehindNoCluster 0 (by decide) emptyPart (by decide) (by decide) (by decide) (by decide)
    (by decide) (by decide) (by decide)
  obtain rfl := Host.Outcome.next.inj hex
  exact absurd hlow (by decide)

end Sys2Proof.Machine
end

section
/-! The Quafa loader's commands (spec/11_quafa.md, R471, Table 11-12): what QFA_CMD does by command and phase, and how a command that has
ended is taken up where neither boot ROM nor command waits for it. -/

namespace Sys2Proof.Machine

variable {s : State}

/-! ## The ends of commands -/

theorem State.loaderFree_iff : s.loaderFree = true ↔ s.qfa.res = none ∧ s.boot.auto = false ∧ s.sec.cur = none := by
  simp [State.loaderFree, and_assoc]

/-- While no command has ended there is no outcome to take up. -/
theorem loaderNext_of_running (h : s.qfa.res = none) (n : Nat) : loaderNext n s = s := by
  cases n with
  | zero => rfl
  | succ n => simp only [loaderNext, h]

/-- An outcome that nobody waits for is dropped; at most the boot stage returns to what it was before a PITCH. -/
theorem loaderNext_of_ended {ok : Bool} (hres : s.qfa.res = some ok) (hauto : s.boot.auto = false) (hcur : s.sec.cur = none) (n : Nat) :
    (loaderNext (n + 1) s).qfa = { s.qfa with res := none } ∧
      ∀ a, a ≠ aSysBootStat → (loaderNext (n + 1) s).reg a = s.reg a := by
  let u := s.onQfa fun q => { q with res := none }
  have hhome (k : Nat) : (setStage k u).sec.cur = none := hcur
  have hsame : u.sec.cur = none := hcur
  have hnext : loaderNext (n + 1) s =
      if u.qfa.cmd = 2 ∧ ok = false ∧ u.stage = 3 ∧ u.boot.home ≠ 0 then setStage u.boot.home u else u := by
    rw [loaderNext, hres]
    dsimp only
    rw [if_neg (by simpa using hauto)]
    split_ifs
    · rw [hhome]
    · rw [hsame]
  rw [hnext]
  split
  · exact ⟨rfl, fun a ha => (State.reg_setRegFld ..).trans (if_neg ha)⟩
  · exact ⟨rfl, fun _ _ => rfl⟩

/-- A command that ends unawaited: IDLE, with its outcome in QFA_STAT. -/
theorem loaderNext_qfaFinish (ok : Bool) (hauto : s.boot.auto = false) (hcur : s.sec.cur = none) :
    (loaderNext 4 (qfaFinish ok s)).qfa.phase = 0 ∧
      bit ((loaderNext 4 (qfaFinish ok s)).reg aQfaStat) (if ok then 8 else 9) = true ∧
      ∀ a, a ≠ aSysBootStat → a ≠ aQfaStat → (loaderNext 4 (qfaFinish ok s)).reg a = s.reg a := by
  have hother {a : Nat} (h : a ≠ aQfaStat) : (qfaFinish ok s).reg a = s.reg a := (State.reg_orReg ..).trans (if_neg h)
  have hstat : (qfaFinish ok s).reg aQfaStat = s.reg aQfaStat ||| (if ok then 0x100 else 0x200) := (State.reg_orReg ..).trans (if_pos rfl)
  obtain ⟨hqfa, hreg⟩ := loaderNext_of_ended (s := qfaFinish ok s) (ok := ok) rfl hauto hcur 3
  refine ⟨congrArg Qfa.phase hqfa, ?_, fun a hboot h => (hreg a hboot).trans (hother h)⟩
  rw [hreg _ (by decide), hstat]
  exact bit_or_right (by cases ok <;> decide) _

/-- QFA_ERR holds the code of the cause (R468). -/
theorem fld_errCode (code sec entry : Nat) :
    fld (BitVec.ofNat 32 (code + sec * 2 ^ 8 + entry % 65536 * 2 ^ 16)) 0 8 = code % 256 := by
  simp only [fld, BitVec.toNat_ofNat, Nat.shiftRight_zero]
  omega

/-- A command that fails unawaited: IDLE, with fail in QFA_STAT and the cause in QFA_ERR. -/
theorem loaderNext_qfaFail (e : QErr) (hauto : s.boot.auto = false) (hcur : s.sec.cur = none) :
    (loaderNext 4 (qfaFail e s)).qfa.phase = 0 ∧ bit ((loaderNext 4 (qfaFail e s)).reg aQfaStat) 9 = true ∧
      fld ((loaderNext 4 (qfaFail e s)).reg aQfaErr) 0 8 = e.code % 256 := by
  unfold qfaFail
  obtain ⟨hphase, hfail, hreg⟩ := loaderNext_qfaFinish (s := (s.setReg aQfaErr _).setReg aQfaErrAux _) false hauto hcur
  refine ⟨hphase, hfail, ?_⟩
  rw [hreg aQfaErr (by decide) (by decide), State.reg_setReg, if_neg (by decide), State.reg_setReg, if_pos rfl, fld_errCode]

/-! ## QFA_CMD by initiator and phase (R471) -/

section
variable {ini : Initiator} {cmd slot : Nat}

theorem qfaCmdWrite_taken (h : landSuper ini (s.cstOf ini) = true) : qfaCmdWrite ini cmd slot s = qfaCommand cmd slot s := if_pos h

theorem qfaCmdWrite_refused (h : landSuper ini (s.cstOf ini) = false) : qfaCmdWrite ini cmd slot s = s.orReg aQfaStat 0x800 :=
  if_neg (by simp [h])

theorem qfaCommand_busy (hcmd : cmd ≠ 6) (h : s.qfa.phase ≠ 0) : qfaCommand cmd slot s = qfaCmdErr s :=
  (if_neg hcmd).trans (if_pos (.inr (.inr h)))

theorem qfaCommand_undefined (hcmd : cmd = 0 ∨ cmd = 7) : qfaCommand cmd slot s = qfaCmdErr s := by
  rcases hcmd with rfl | rfl <;> rfl

/-- A command that begins and does not end at once. -/
theorem loaderNext_begins {t : State} (hini : landSuper ini (s.cstOf ini) = true) (hcmd : qfaCommand cmd slot s = t)
    (hres : t.qfa.res = none) : loaderNext 4 (qfaCmdWrite ini cmd slot s) = t := by
  rw [qfaCmdWrite_taken hini, hcmd, loaderNext_of_running hres]

/-- A command other than ABANDON outside IDLE has no effect but cmd_err. -/
theorem loaderNext_busy (hini : landSuper ini (s.cstOf ini) = true) (hfree : s.loaderFree = true) (hphase : s.qfa.phase ≠ 0)
    (hcmd : cmd ≠ 6) : loaderNext 4 (qfaCmdWrite ini cmd slot s) = s.orReg aQfaStat 0x400 :=
  loaderNext_begins hini (qfaCommand_busy hcmd hphase) (State.loaderFree_iff.mp hfree).1

/-- Another initiator's command has no effect but wr_refused. -/
theorem loaderNext_refused (hini : landSuper ini (s.cstOf ini) = false) (hfree : s.loaderFree = true) :
    loaderNext 4 (qfaCmdWrite ini cmd slot s) = s.orReg aQfaStat 0x800 := by
  rw [qfaCmdWrite_refused hini]
  exact loaderNext_of_running (s := s.orReg aQfaStat 0x800) (State.loaderFree_iff.mp hfree).1 4

end

/-- In IDLE each command code begins its own command (Table 11-12). -/
theorem qfaCommand_idle (h : s.qfa.phase = 0) (slot : Nat) :
    qfaCommand 1 slot s = qfaCheck 1 s ∧ qfaCommand 2 slot s = qfaCheck 2 s ∧ qfaCommand 3 slot s = qfaFetch slot s ∧
      qfaCommand 4 slot s = qfaStore slot s ∧ qfaCommand 5 slot s = qfaArb s := by
  unfold qfaCommand
  generalize qfaCheck 1 s = verify, qfaCheck 2 s = pitch, qfaFetch slot s = fetch, qfaStore slot s = store, qfaArb s = arb
  simp [h]

/-! ## What each command begins -/

theorem qfaCheck_qfa (cmd : Nat) (s : State) : (qfaCheck cmd s).qfa = { (wakeStaging s).qfa with
    phase := cmd + 1, cmd := cmd
    part := if cmd = 2 ∧ (wakeStaging s).imgPartial then some (wakeStaging s).imgPart else none
    ready := false, stopped := false, res := none } := by
  unfold qfaCheck
  generalize wakeStaging s = u
  dsimp only
  split <;> rfl

theorem State.onQfa_mem (s : State) (f : Qfa → Qfa) : (s.onQfa f).mem = s.mem := rfl

/-- The boot stage of a PITCH (R692) is no memory. -/
theorem mem_ite_setStage (c : Prop) [Decidable c] (u : State) (b : Boot) :
    (if c then setStage 3 { u with boot := b } else u).mem = u.mem := by
  split
  · exact State.setRegFld_mem ..
  · rfl

theorem qfaCheck_mem (cmd : Nat) (s : State) : (qfaCheck cmd s).mem = (wakeStaging s).mem :=
  (mem_ite_setStage ..).trans ((wakeStaging s).onQfa_mem _)

theorem qfaFetch_valid {k : Nat} (h : s.slotValid k = true) :
    qfaFetch k s = s.onQfa (fun q => { q with phase := 1, cmd := 3, slot := k, res := none }) := if_pos h

theorem slotInfo_qfa (s : State) : (slotInfo s).qfa = s.qfa := by
  simp only [slotInfo, foldS, State.setReg_qfa]

theorem State.flashBytes_eraseFlash (s : State) (a n b : Nat) :
    (s.eraseFlash a n).flashBytes b 1 = if a ≤ b ∧ b < a + n then [0xFF] else s.flashBytes b 1 := by
  by_cases h : a ≤ b ∧ b < a + n
  · simp [State.flashBytes, State.eraseFlash, flashDefault, h]
  · have hkeep : (!(decide (a ≤ b) && decide (b < a + n))) = true := by simpa [or_iff_not_imp_left] using h
    simp only [State.flashBytes, State.eraseFlash, List.range_one, List.map_cons, List.map_nil, Nat.add_zero, smGet_smKeep, hkeep, h, if_true,
      if_false]

/-- A STORE begins with its whole slot erased (R481). -/
theorem qfaStore_erases {k : Nat} (h : s.qfa.running ≠ some k) : (qfaStore k s).qfa.phase = 6 ∧ (qfaStore k s).qfa.slot = k ∧
    (qfaStore k s).qfa.res = none ∧ ∀ i, (qfaStore k s).flashBytes (s.slotOff k + i) 1 =
      if i < s.slotSize then [0xFF] else s.flashBytes (s.slotOff k + i) 1 := by
  rw [qfaStore, if_neg h]
  refine ⟨by rw [slotInfo_qfa]; rfl, by rw [slotInfo_qfa]; rfl, by rw [slotInfo_qfa]; rfl, fun i => ?_⟩
  have herase := (s.onQfa fun q => { q with phase := 6, cmd := 4, slot := k, res := none }).flashBytes_eraseFlash (s.slotOff k) s.slotSize
    (s.slotOff k + i)
  simp only [Nat.le_add_right, true_and, Nat.add_lt_add_iff_left] at herase
  exact herase

theorem qfaArb_above (h : (s.reg aQfaFloor).toNat < (s.reg aQfaVer).toNat) : qfaArb s =
    jrnlStart (.floor (s.reg aQfaVer)) (s.onQfa fun q => { q with phase := 7, cmd := 5, res := none }) := if_pos h

theorem qfaArb_notAbove (h : (s.reg aQfaVer).toNat ≤ (s.reg aQfaFloor).toNat) : qfaArb s =
    qfaFinish true (s.onQfa fun q => { q with phase := 7, cmd := 5, res := none }) := if_neg (Nat.not_lt.mpr h)

theorem qfaAbandon_early (hlo : 1 ≤ s.qfa.phase) (hhi : s.qfa.phase ≤ 3) : qfaAbandon s = qfaFail (qerr 16 0 0) s := if_pos (by omega)

/-! ## The rows -/

/-- Settles O38: the loader takes a command by its code and phase; one that begins has no outcome yet, and one that ends at once leaves its
outcome in QFA_STAT, for nobody waits for it. -/
theorem loaderCommandRows : Obligations.LoaderCommandRows := by
  unfold Obligations.LoaderCommandRows
  refine ⟨?checks, ?slots, ?arb, ?abandon, ?undefined, ?busy, ?refused⟩
  case checks =>
    intro s ini hini _ hidle
    obtain ⟨hverify, hpitch, -⟩ := qfaCommand_idle hidle 0
    have hbegins {cmd : Nat} (h : qfaCommand cmd 0 s = qfaCheck cmd s) : loaderNext 4 (qfaCmdWrite ini cmd 0 s) = qfaCheck cmd s :=
      loaderNext_begins hini h (by rw [qfaCheck_qfa])
    refine ⟨⟨_, congrArg Host.Outcome.next (hbegins hverify), ?_⟩, ⟨_, congrArg Host.Outcome.next (hbegins hpitch), ?_⟩⟩
    all_goals simp [qfaCheck_qfa, qfaCheck_mem]
  case slots =>
    intro s ini slot hini _ hidle
    obtain ⟨-, -, hfetch, hstore, -⟩ := qfaCommand_idle hidle (b2n slot)
    refine ⟨fun hvalid => ?_, fun hrunning => ?_⟩
    · exact ⟨_, congrArg Host.Outcome.next (loaderNext_begins hini (hfetch.trans (qfaFetch_valid hvalid)) rfl), rfl, rfl, rfl⟩
    · obtain ⟨hphase, hslot, hres, herased⟩ := qfaStore_erases hrunning
      exact ⟨_, congrArg Host.Outcome.next (loaderNext_begins hini hstore hres), hphase, hslot, fun i => herased i⟩
  case arb =>
    intro s ini hini hfree hidle
    obtain ⟨-, -, -, -, harb⟩ := qfaCommand_idle hidle 0
    obtain ⟨-, hauto, hcur⟩ := State.loaderFree_iff.mp hfree
    by_cases h : (s.reg aQfaFloor).toNat < (s.reg aQfaVer).toNat
    · exact ⟨_, congrArg Host.Outcome.next (loaderNext_begins hini (harb.trans (qfaArb_above h)) rfl), fun _ => ⟨rfl, rfl⟩,
        fun hle => absurd h (Nat.not_lt.mpr hle)⟩
    · refine ⟨_, rfl, fun habove => absurd habove h, fun hle => ?_⟩
      rw [qfaCmdWrite_taken hini, harb, qfaArb_notAbove hle]
      obtain ⟨hphase, hdone, -⟩ := loaderNext_qfaFinish
        (s := s.onQfa fun q => { q with phase := 7, cmd := 5, res := none }) true hauto hcur
      exact ⟨hphase, hdone⟩
  case abandon =>
    intro s ini hini hfree hlo hhi
    obtain ⟨-, hauto, hcur⟩ := State.loaderFree_iff.mp hfree
    refine ⟨_, rfl, ?_⟩
    have habandon : qfaCmdWrite ini 6 0 s = qfaFail (qerr 16 0 0) s := (qfaCmdWrite_taken hini).trans (qfaAbandon_early hlo hhi)
    rw [habandon]
    exact loaderNext_qfaFail (qerr 16 0 0) hauto hcur
  case undefined =>
    intro s ini seven hini
    refine congrArg Host.Outcome.next ((qfaCmdWrite_taken hini).trans (qfaCommand_undefined ?_))
    cases seven
    · exact .inl rfl
    · exact .inr rfl
  case busy =>
    intro s ini slot hini hfree hphase
    have hbusy {cmd k : Nat} (hcmd : cmd ≠ 6) := congrArg Host.Outcome.next (β := Res) (loaderNext_busy (slot := k) hini hfree hphase hcmd)
    exact ⟨hbusy (by decide), hbusy (by decide), hbusy (by decide), hbusy (by decide), hbusy (by decide)⟩
  case refused =>
    intro s ini hini hfree
    have hrefused {cmd : Nat} := congrArg Host.Outcome.next (β := Res) (loaderNext_refused (cmd := cmd) (slot := 0) hini hfree)
    exact ⟨hrefused, hrefused, hrefused⟩

/-! ## A FETCH into a bank without power -/

/-- In NEAP a FETCH of slot 1, of 16 bytes, has the 64 bytes from 0 of the Reservoir as its staging window; its bank is OFF, and holds a 7
behind the window. -/
def fetchIntoOffBank : State :=
  let s := ((wSlot State.reset).setReg aQfaStgBaseHi 0).setReg aQfaStgLim 0x3F
  { s with
    mem := [(0x40, 7)]
    memc := { MemCtl.reset with pwr := [(0, .off)] }
    pwr := { Pwr.reset with mode := .neap }
    qfa := { Qfa.reset with phase := 1, cmd := 3, slot := 1 } }

set_option maxRecDepth 20000 in
/-- The fetch wakes the bank, which from OFF holds zeros (R328, R329), behind the window too. -/
theorem fetchComplete_zeroes_offBank : (loaderNext 4 (fetchComplete fetchIntoOffBank)).byte 0x40 = 0 := by decide

/-- Refutes O39: its clause of FETCH_COMPLETE keeps every byte beside the fetched ones, but a fetch into a Reservoir bank that is OFF wakes
it, and the bank then holds zeros (R329). -/
theorem not_loaderEventRows : ¬ Obligations.LoaderEventRows := by
  unfold Obligations.LoaderEventRows
  rintro ⟨-, hfetch, -⟩
  obtain ⟨t, hex, -, -, -, hbyte⟩ := hfetch fetchIntoOffBank (by decide) rfl .reservoir (by decide)
  obtain rfl := Host.Outcome.next.inj hex
  have hwindow : fetchIntoOffBank.stgBase + fetchIntoOffBank.stgSize = 0x40 := by decide
  have hbehind : ¬ (fetchIntoOffBank.stgBase ≤ 0x40 ∧ 0x40 < fetchIntoOffBank.stgBase +
      min (fetchIntoOffBank.flash32 (fetchIntoOffBank.trailer fetchIntoOffBank.qfa.slot + 4)) fetchIntoOffBank.stgSize) := by omega
  have hkept := hbyte 0x40
  rw [if_neg hbehind, fetchComplete_zeroes_offBank] at hkept
  exact absurd hkept (by decide)

end Sys2Proof.Machine
end

section
/-! The writes of the serial audio ports' configuration (spec/12_serial_audio_ports.md, R485 to R488, R501, Table 12-3): what a write of
SAP_GRPg_CFG and of SAPn_CFG does by the enable in force and the enable written, and the start of a port. -/

namespace Sys2Proof.Machine

/-! ## Fields that a mask keeps -/

theorem bit_and_of_mask {m : Word} {i : Nat} (h : bit m i = true) (v : Word) : bit (v &&& m) i = bit v i := by
  rw [bit, BitVec.getLsbD_and, ← bit, ← bit, h, Bool.and_true]

theorem fld_and_of_mask {m : Word} {lo w : Nat} (h : fld m lo w = 2 ^ w - 1) (v : Word) : fld (v &&& m) lo w = fld v lo w := by
  rw [fld_and, h, Nat.and_two_pow_sub_one_eq_mod, fld, Nat.mod_mod]

/-! ## SAP_GRPg_CFG (R485 to R488) -/

section
variable {g : Nat} {v : Word} {s : State}

theorem grpCfgWrite_enabled_change (hen : bit (s.reg (aSapGrpCfg g)) 14 = true)
    (hchange : (s.reg (aSapGrpCfg g) ^^^ (v &&& 0x77FFF)) &&& 0x71FFF ≠ 0) : grpCfgWrite g v s = s.orReg (aSapGrpStat g) 0x200 :=
  (if_pos hen).trans (if_pos hchange)

/-- With en = 0 in force, the en that is written decides. -/
theorem grpCfgWrite_disabled (hen : bit (s.reg (aSapGrpCfg g)) 14 = false) : grpCfgWrite g v s =
    if bit v 14 then
      if grpCfgOk s.rate (v &&& 0x77FFF) ∧ ((List.range 8).map (8 * g + ·)).all (fun n =>
          !bit (s.reg (aSapCfg n)) 0 || sapCfgOk (s.reg (aSapCfg n)) (fld v 0 11)) = true then
        s.setReg (aSapGrpCfg g) (v &&& 0x77FFF)
      else s.orReg (aSapGrpStat g) 0x200
    else s.setReg (aSapGrpCfg g) (v &&& 0x77FFF) := by
  rw [← bit_and_of_mask (m := 0x77FFF) (by decide) v, ← fld_and_of_mask (m := 0x77FFF) (lo := 0) (w := 11) (by decide) v]
  exact if_neg (by simp [hen])

/-- The judgement of a group's ports is that of each of its eight. -/
theorem grpPorts_all_iff (p : Nat → Bool) : ((List.range 8).map (8 * g + ·)).all p = true ↔ ∀ i : Fin 8, p (8 * g + i) = true := by
  rw [List.all_map, List.all_eq_true]
  exact ⟨fun h i => h i (List.mem_range.mpr i.isLt), fun h i hi => h ⟨i, List.mem_range.mp hi⟩⟩

end

/-! ## SAPn_CFG (R487, R488) -/

section
variable {n : Nat} {v : Word} {s : State}

/-- The bits that SAPn_CFG does not hold carry no code. -/
theorem sapReserved_and (v : Word) : sapReserved (v &&& 0x1FFFF) = sapReserved v := by
  have hcode {lo : Nat} (h : fld (0x1FFFF : Word) lo 2 = 3) : fld (v &&& 0x1FFFF) lo 2 = fld v lo 2 := fld_and_of_mask h v
  unfold sapReserved
  rw [hcode (by decide), hcode (by decide), hcode (by decide), hcode (by decide)]

theorem sapCfgWrite_reserved (hres : sapReserved v = true) : sapCfgWrite n v s = s.orReg (aSapStat n) 0x8000 :=
  if_pos ((sapReserved_and v).trans hres)

theorem sapCfgWrite_of_codes (hres : sapReserved v = false) : sapCfgWrite n v s =
    if bit (s.reg (aSapCfg n)) 0 then
      if s.reg (aSapCfg n) &&& 0x1FFFE ≠ v &&& 0x1FFFE then s.orReg (aSapStat n) 0x8000
      else if bit v 0 then s
      else sapStop n (s.setReg (aSapCfg n) (v &&& 0x1FFFF))
    else if bit v 0 && !sapCfgOk (v &&& 0x1FFFF) (s.grpF (n / 8)) then s.orReg (aSapStat n) 0x8000
    else s.setReg (aSapCfg n) (v &&& 0x1FFFF) := by
  have hfields : v &&& 0x1FFFE = v &&& 0x1FFFF &&& 0x1FFFE := by rw [BitVec.and_assoc]; rfl
  rw [hfields, ← bit_and_of_mask (m := 0x1FFFF) (by decide) v]
  exact if_neg (by rw [sapReserved_and, hres]; decide)

theorem sapCfgWrite_enabled_change (hres : sapReserved v = false) (hen : bit (s.reg (aSapCfg n)) 0 = true)
    (hchange : s.reg (aSapCfg n) &&& 0x1FFFE ≠ v &&& 0x1FFFE) : sapCfgWrite n v s = s.orReg (aSapStat n) 0x8000 := by
  rw [sapCfgWrite_of_codes hres, if_pos hen, if_pos hchange]

theorem sapCfgWrite_disabled (hres : sapReserved v = false) (hen : bit (s.reg (aSapCfg n)) 0 = false)
    (hok : bit v 0 = false ∨ sapCfgOk (v &&& 0x1FFFF) (s.grpF (n / 8)) = true) :
    sapCfgWrite n v s = s.setReg (aSapCfg n) (v &&& 0x1FFFF) := by
  have hfits : ¬ (bit v 0 && !sapCfgOk (v &&& 0x1FFFF) (s.grpF (n / 8))) = true := by
    rcases hok with h | h
    · simp [h]
    · rw [h, Bool.not_true, Bool.and_false]
      decide
  rw [sapCfgWrite_of_codes hres, if_neg (by simp [hen]), if_neg hfits]

end

/-! ## The start of a port (R487, Table 12-3) -/

theorem sapPortStart_starts {n : Nat} {s : State} (hgrp : bit (s.reg (aSapGrpCfg (n / 8))) 14 = true) (hport : bit (s.reg (aSapCfg n)) 0 = true)
    (hphase : s.tide.phase = 0) (hoff : s.sapMode ≠ .off) (hlow : s.sapMode ≠ .low) : bit ((sapPortStart n s).reg (aSapStat n)) 0 = true := by
  rw [sapPortStart, if_pos ⟨hgrp, hphase, hoff, hlow⟩, hport]
  dsimp only
  rw [State.reg_orRegIf, if_pos ⟨rfl, rfl⟩]
  exact bit_or_right (by decide) _

/-! ## The rows -/

/-- Settles O41: the enable in force and the enable written decide what a write of a configuration does. -/
theorem sapConfigurationRows : Obligations.SapConfigurationRows := by
  unfold Obligations.SapConfigurationRows
  refine ⟨?grpChange, ?grpOff, ?grpOn, ?reserved, ?portChange, ?portFits, ?gate, ?start⟩
  case grpChange => exact fun s g v hen hchange => congrArg Host.Outcome.next (grpCfgWrite_enabled_change hen hchange)
  case grpOff =>
    intro s g v hen hoff
    refine ⟨_, congrArg Host.Outcome.next ((grpCfgWrite_disabled hen).trans (if_neg (by simp [hoff]))), ?_⟩
    rw [State.reg_setReg, if_pos rfl]
  case grpOn =>
    intro s g v hen hon
    have hwrite := (grpCfgWrite_disabled (v := v) hen).trans (if_pos hon)
    simp only [grpPorts_all_iff, Bool.or_eq_true, Bool.not_eq_true', ← Bool.not_eq_true, ← imp_iff_not_or] at hwrite
    split
    case isTrue h => exact congrArg Host.Outcome.next (hwrite.trans (if_pos h))
    case isFalse h => exact congrArg Host.Outcome.next (hwrite.trans (if_neg h))
  case reserved => exact fun s n v hres => congrArg Host.Outcome.next (sapCfgWrite_reserved hres)
  case portChange => exact fun s n v hres hen hchange => congrArg Host.Outcome.next (sapCfgWrite_enabled_change hres hen hchange)
  case portFits => exact fun s n v hres hen hok => congrArg Host.Outcome.next (sapCfgWrite_disabled hres hen hok)
  case gate => exact fun s n v => rfl
  case start => exact fun s n hgrp hport hphase hoff hlow => ⟨_, rfl, sapPortStart_starts hgrp hport hphase hoff hlow⟩

end Sys2Proof.Machine
end

section
/-! What the work on the frames of a serial audio port leaves as it is (spec/12_serial_audio_ports.md, R489 to R504): every field but requests,
ports and what waits at routes, every register but the flags and counters of SAP, and of the port itself what the wire goes by. -/

namespace Sys2Proof.Machine

/-! ## Reads of a port after writes -/

@[simp] theorem State.port_setPort (s : State) (n : Nat) (p : SapPort) (m : Nat) : (s.setPort n p).port m = if m = n then p else s.port m :=
  smGet_smSet (fun _ => SapPort.init) s.sap.ports n p m

@[simp] theorem State.port_onPort (s : State) (n : Nat) (f : SapPort → SapPort) (m : Nat) :
    (s.onPort n f).port m = if m = n then f (s.port n) else s.port m :=
  s.port_setPort n (f (s.port n)) m

theorem State.port_onPort_same (s : State) (n : Nat) (f : SapPort → SapPort) : (s.onPort n f).port n = f (s.port n) := by
  rw [State.port_onPort, if_pos rfl]

/-! ## What all work on frames leaves -/

/-- Machine u is s but for requests, ports, what waits at routes, and the flags and counters of SAP; no flag is lost. -/
structure State.SapLeaves (s u : State) : Prop where
  rest   : ∃ r m p, u = { s with regs := r, memc := m, sap := p }
  reg    : ∀ a, a < 0x40100000 ∨ a % 0x100 = 0 ∨ a % 0x100 = 0x10 ∨ a % 0x100 = 0x14 → u.reg a = s.reg a
  flag   : ∀ a i, a % 0x100 = 4 → bit (s.reg a) i = true → bit (u.reg a) i = true
  routes : u.sap.routes = s.sap.routes
  noClk  : u.sap.noClk = s.sap.noClk

@[refl] theorem State.SapLeaves.refl (s : State) : s.SapLeaves s :=
  ⟨⟨s.regs, s.memc, s.sap, rfl⟩, fun _ _ => rfl, fun _ _ _ h => h, rfl, rfl⟩

section
variable {s u v : State} (h : s.SapLeaves u)
include h

theorem State.SapLeaves.trans (h' : u.SapLeaves v) : s.SapLeaves v := by
  refine ⟨?_, fun a ha => (h'.reg a ha).trans (h.reg a ha), fun a i ha hi => h'.flag a i ha (h.flag a i ha hi), h'.routes.trans h.routes,
    h'.noClk.trans h.noClk⟩
  obtain ⟨r, m, p, rfl⟩ := h.rest
  obtain ⟨r', m', p', rfl⟩ := h'.rest
  exact ⟨r', m', p', rfl⟩

theorem State.SapLeaves.reg_cfg (n : Nat) : u.reg (aSapCfg n) = s.reg (aSapCfg n) := h.reg _ (by unfold aSapCfg; omega)

theorem State.SapLeaves.reg_outMask (n : Nat) : u.reg (aSapOutMask n) = s.reg (aSapOutMask n) := h.reg _ (by unfold aSapOutMask; omega)

theorem State.SapLeaves.reg_gate (n : Nat) : u.reg (aSapGate n) = s.reg (aSapGate n) := h.reg _ (by unfold aSapGate; omega)

theorem State.SapLeaves.reg_grpCfg (g : Nat) : u.reg (aSapGrpCfg g) = s.reg (aSapGrpCfg g) := h.reg _ (by unfold aSapGrpCfg; omega)

theorem State.SapLeaves.mem : u.mem = s.mem := by
  obtain ⟨r, m, p, rfl⟩ := h.rest
  rfl

theorem State.SapLeaves.pwr : u.pwr = s.pwr := by
  obtain ⟨r, m, p, rfl⟩ := h.rest
  rfl

theorem State.SapLeaves.tide : u.tide = s.tide := by
  obtain ⟨r, m, p, rfl⟩ := h.rest
  rfl

theorem State.SapLeaves.sapMode : u.sapMode = s.sapMode := by
  rw [State.sapMode, h.pwr, State.sapMode]

theorem State.SapLeaves.nearPeriod : u.nearPeriod = s.nearPeriod := by
  rw [State.nearPeriod, h.tide, State.nearPeriod]

theorem State.SapLeaves.muteN : u.muteN = s.muteN := by
  rw [State.muteN, h.reg _ (by decide), h.pwr, State.muteN]

theorem State.SapLeaves.sapMuted (n : Nat) : u.sapMuted n = s.sapMuted n := by
  rw [State.sapMuted, h.reg_grpCfg, h.muteN, State.sapMuted]

theorem State.SapLeaves.sapSamples (n : Nat) (din : List (Bool × Bool)) : u.sapSamples n din = s.sapSamples n din := by
  unfold State.sapSamples State.launchFalls State.grpF
  simp only [h.reg_cfg, h.reg_grpCfg]

theorem State.SapLeaves.slotOf {l : Nat} (hl : l < 128) : u.slotOf l = s.slotOf l := by
  rw [State.slotOf, h.reg _ (by unfold aBwtrSlotmap; omega), State.slotOf]

theorem State.SapLeaves.decodeAddr : u.decodeAddr = s.decodeAddr := by
  funext a
  rw [State.decodeAddr, State.ownId, h.reg _ (by decide), State.decodeAddr, State.ownId]

end

/-! ## The address that a route reaches -/

/-- An address in the device's own map leads to no core that the device does not have. -/
theorem ownTarget_slot_lt {a k : Nat} {r : Region} {b : Nat} (hr : r.slot? = some k)
    (h : ownTarget a = .mem r b ∨ ∃ set, ownTarget a = .mirror set r b) : k < 144 := by
  have hregion : regionOf (a % 2 ^ 38) = some r := by
    unfold ownTarget at h
    dsimp only at h
    split at h
    case h_1 => simp at h
    case h_2 r' hr' =>
      suffices hrr : r' = r by rw [hr', hrr]
      split_ifs at h <;> simp at h <;> exact h.1
  refine regionOf_slot_lt hregion ?_
  cases r
  case data j => exact .inl (congrArg Region.data (Option.some.inj hr))
  case itcm j => exact .inr (congrArg Region.itcm (Option.some.inj hr))
  all_goals cases hr

theorem State.decodeAddr_slot_lt {s : State} {a k : Nat} {r : Region} {b : Nat} (hr : r.slot? = some k)
    (h : s.decodeAddr a = .mem r b ∨ ∃ set, s.decodeAddr a = .mirror set r b) : k < 144 := by
  unfold State.decodeAddr at h
  dsimp only at h
  split_ifs at h
  · exact ownTarget_slot_lt hr h
  · simp at h
  · simp at h
  · exact ownTarget_slot_lt hr h

theorem State.SapLeaves.retarget {s u : State} (h : s.SapLeaves u) {a k : Nat} (hk : k < 144) (hspare : k % 9 ≠ 8) :
    State.routeAddr.retarget u a k = State.routeAddr.retarget s a k := by
  rw [State.routeAddr.retarget, h.slotOf (by omega), State.routeAddr.retarget]

theorem State.SapLeaves.routeAddr {s u : State} (h : s.SapLeaves u) (a : Nat) : u.routeAddr a = s.routeAddr a := by
  have hslot {r : Region} (hk : ∀ k, r.slot? = some k → k < 144) :
      (match r.slot? with | some k => if k % 9 = 8 then a else State.routeAddr.retarget u a k | none => a) =
        match r.slot? with | some k => if k % 9 = 8 then a else State.routeAddr.retarget s a k | none => a := by
    cases hr : r.slot? with
    | none => rfl
    | some k =>
      dsimp only
      split
      · rfl
      case isFalse hspare => exact h.retarget (hk k hr) hspare
  unfold State.routeAddr
  rw [h.decodeAddr]
  cases hd : s.decodeAddr a with
  | mem r b => exact hslot fun k hr => State.decodeAddr_slot_lt hr (.inl hd)
  | mirror set r b => exact hslot fun k hr => State.decodeAddr_slot_lt hr (.inr ⟨set, hd⟩)
  | _ => rfl

/-! ## The writes that work on frames makes -/

theorem State.setReg_sapLeaves (s : State) {a : Nat} (hbase : 0x40100000 ≤ a)
    (ha : a % 0x100 = 8 ∨ a % 0x100 = 0x18 ∨ a % 0x100 = 0x1C) (v : Word) : s.SapLeaves (s.setReg a v) := by
  have hreg {b : Nat} (hb : b ≠ a) : (s.setReg a v).reg b = s.reg b := (s.reg_setReg a v b).trans (if_neg hb)
  refine ⟨⟨_, s.memc, s.sap, rfl⟩, fun b hb => hreg (by omega), fun b i hb hi => ?_, rfl, rfl⟩
  rw [hreg (by omega)]
  exact hi

theorem State.orReg_sapLeaves (s : State) {a : Nat} (hbase : 0x40100000 ≤ a) (ha : a % 0x100 = 4) (m : Word) : s.SapLeaves (s.orReg a m) := by
  refine ⟨⟨_, s.memc, s.sap, rfl⟩, fun b hb => (s.reg_orReg a m b).trans (if_neg (by omega)), fun b i hb hi => ?_, rfl, rfl⟩
  rw [State.reg_orReg]
  split
  case isTrue hba => exact bit_or_left (hba ▸ hi) m
  case isFalse => exact hi

theorem State.incSlip_sapLeaves (s : State) (n lo w k : Nat) : s.SapLeaves (s.incFld (aSapSlip n) lo w k) :=
  s.setReg_sapLeaves (by unfold aSapSlip; omega) (by unfold aSapSlip; omega) _

theorem State.incDrop_sapLeaves (s : State) (n lo w k : Nat) : s.SapLeaves (s.incFld (aSapDrop n) lo w k) :=
  s.setReg_sapLeaves (by unfold aSapDrop; omega) (by unfold aSapDrop; omega) _

theorem State.orStat_sapLeaves (s : State) (n : Nat) (m : Word) : s.SapLeaves (s.orReg (aSapStat n) m) :=
  s.orReg_sapLeaves (by unfold aSapStat; omega) (by unfold aSapStat; omega) m

theorem State.onPort_sapLeaves (s : State) (n : Nat) (f : SapPort → SapPort) : s.SapLeaves (s.onPort n f) :=
  ⟨⟨s.regs, s.memc, _, rfl⟩, fun _ _ => rfl, fun _ _ _ h => h, rfl, rfl⟩

/-! ## The port itself -/

/-- A port without the record of its last input, the BCLK since its last edge, and what its slots and gates put on the wire. -/
def SapPort.frame (p : SapPort) : SapPort :=
  { p with since := 0, prev := [], lastIn := 0, ramp := none, slots := [], dout := [], gated := [], await := [] }

/-- What work on frames leaves as well until the next frame begins: what gates and mutes the slots of port n. -/
structure State.WireKept (n : Nat) (s u : State) : Prop extends s.SapLeaves u where
  gated : (u.port n).gated = (s.port n).gated
  ramp  : (u.port n).ramp = (s.port n).ramp

/-- Work that leaves the frame of port n in progress too. -/
structure State.FrameKept (n : Nat) (s u : State) : Prop extends State.WireKept n s u where
  frame : (u.port n).frame = (s.port n).frame

section
variable {n : Nat} {s u v : State}

theorem State.WireKept.of_same (h : s.SapLeaves u) (hport : u.port n = s.port n) : State.WireKept n s u :=
  ⟨h, congrArg SapPort.gated hport, congrArg SapPort.ramp hport⟩

theorem State.WireKept.trans (h : State.WireKept n s u) (h' : State.WireKept n u v) : State.WireKept n s v :=
  ⟨h.toSapLeaves.trans h'.toSapLeaves, h'.gated.trans h.gated, h'.ramp.trans h.ramp⟩

theorem State.WireKept.onPort {f : SapPort → SapPort} (h : State.WireKept n s u) (hgated : ∀ p, (f p).gated = p.gated)
    (hramp : ∀ p, (f p).ramp = p.ramp) : State.WireKept n s (u.onPort n f) := by
  refine h.trans ⟨u.onPort_sapLeaves n f, ?_, ?_⟩ <;> rw [State.port_onPort_same]
  · exact hgated _
  · exact hramp _

theorem State.FrameKept.of_same (h : s.SapLeaves u) (hport : u.port n = s.port n) : State.FrameKept n s u :=
  ⟨.of_same h hport, congrArg SapPort.frame hport⟩

@[refl] theorem State.FrameKept.refl (n : Nat) (s : State) : State.FrameKept n s s := .of_same (.refl s) rfl

theorem State.FrameKept.trans (h : State.FrameKept n s u) (h' : State.FrameKept n u v) : State.FrameKept n s v :=
  ⟨h.toWireKept.trans h'.toWireKept, h'.frame.trans h.frame⟩

theorem State.FrameKept.onPort {f : SapPort → SapPort} (h : State.FrameKept n s u) (hgated : ∀ p, (f p).gated = p.gated)
    (hramp : ∀ p, (f p).ramp = p.ramp) (hframe : ∀ p, (f p).frame = p.frame) : State.FrameKept n s (u.onPort n f) :=
  ⟨h.toWireKept.onPort hgated hramp, (congrArg SapPort.frame (u.port_onPort_same n f)).trans ((hframe _).trans h.frame)⟩

section
variable (h : State.FrameKept n s u)
include h

theorem State.FrameKept.began : (u.port n).began = (s.port n).began := (congrArg SapPort.began h.frame :)

theorem State.FrameKept.period : (u.port n).period = (s.port n).period := (congrArg SapPort.period h.frame :)

theorem State.FrameKept.din : (u.port n).din = (s.port n).din := (congrArg SapPort.din h.frame :)

theorem State.FrameKept.discard : (u.port n).discard = (s.port n).discard := (congrArg SapPort.discard h.frame :)

theorem State.FrameKept.zeroed : (u.port n).zeroed = (s.port n).zeroed := (congrArg SapPort.zeroed h.frame :)

theorem State.FrameKept.missing : (u.port n).missing = (s.port n).missing := (congrArg SapPort.missing h.frame :)

theorem State.FrameKept.lost : (u.port n).lost = (s.port n).lost := (congrArg SapPort.lost h.frame :)

end

theorem foldS_frameKept {α : Type} {f : α → State → State} (hf : ∀ x (s : State), State.FrameKept n s (f x s)) (l : List α) (s : State) :
    State.FrameKept n s (foldS f l s) :=
  foldS_induction (P := State.FrameKept n s) (fun x v h => h.trans (hf x v)) l s (.refl n s)

end

/-! ## Slots that wait for their data (R498) -/

theorem State.port_of_sap {s u : State} (h : u.sap = s.sap) (n : Nat) : u.port n = s.port n := by
  rw [State.port, h, State.port]

theorem sapLateSlot_frameKept (n j : Nat) (s : State) : State.FrameKept n s (sapLateSlot n j s) := by
  unfold sapLateSlot
  extract_lets p past r
  split
  · have hgone : State.FrameKept n s (s.onPort n fun p => { p with await := p.await.filter fun k => decide (k ≠ j) }) :=
      .onPort (.refl n s) (fun _ => rfl) (fun _ => rfl) (fun _ => rfl)
    refine hgone.trans (.of_same ((State.incDrop_sapLeaves _ n 16 16 1).trans (State.orStat_sapLeaves _ n _)) (State.port_of_sap ?_ n))
    rw [State.orReg_sap, State.incFld_sap]
  · split
    · rfl
    · exact .onPort (.refl n s) (fun _ => rfl) (fun _ => rfl) (fun _ => rfl)

theorem sapLateSlot_memc (n j : Nat) (s : State) : (sapLateSlot n j s).memc = s.memc := by
  unfold sapLateSlot
  extract_lets p past r
  split
  · rw [State.orReg_memc, State.incFld_memc]
    rfl
  · split
    · rfl
    · rfl

theorem sapLate_frameKept (n : Nat) (s : State) : State.FrameKept n s (sapLate n s) := foldS_frameKept (sapLateSlot_frameKept n) _ s

theorem sapLate_memc (n : Nat) (s : State) : (sapLate n s).memc = s.memc :=
  foldS_induction (P := fun u => u.memc = s.memc) (fun j u h => (sapLateSlot_memc n j u).trans h) _ s rfl

/-! ## Input (R493 to R495) -/

/-- One block of the writes of an input route for one period, whose data begin at a0. -/
def putBlock (x : RtRun) (q a0 w : Nat) (bytes : List Byte) (e : Nat × Nat) (s : State) : State :=
  let o := e.1 - a0
  let r := s.request .route .store (s.routeAddr e.1) e.2 ((bytes.drop o).take e.2) 0
  let put : RtPut := { id := r.2, kind := x.route.kind, port := x.route.port, sel := if x.route.kind = 0 then x.route.first else x.route.stream
                       period := q, n := (o + e.2 + w - 1) / w - (o + w - 1) / w, tail := decide (o % w ≠ 0), final := s.lastOfTide q }
  { r.1 with sap := { r.1.sap with puts := r.1.sap.puts ++ [put] } }

theorem routePut_eq (x : RtRun) (q idx i per w : Nat) (bytes : List Byte) (s : State) : routePut x q idx i per w bytes s =
    foldS (putBlock x q (x.route.addr + idx * x.route.stride + i * per * w) w bytes)
      (beats (per * w + 1) (x.route.addr + idx * x.route.stride + i * per * w) (per * w)) s := rfl

/-- The bytes of one period of an input route, from samples of db bits (R493). -/
def RtRun.inBytes (x : RtRun) (db : Nat) (vs : List Word) : List Byte :=
  (List.range (x.route.last - x.route.first + 1)).flatMap (fun j => leBytes (x.route.width + 1)
    (fryConvert ((vs.getD (x.route.first + j) 0).toNat % 2 ^ db) db (8 * (x.route.width + 1)) x.route.just true))

/-- An input route takes its slots of period q. -/
def inputRoute (q db : Nat) (vs : List Word) (x : RtRun) (s : State) : State :=
  match x.place q with
  | none => s
  | some (idx, i) => routePut x q idx i (x.route.last - x.route.first + 1) (x.route.width + 1) (x.inBytes db vs) s

/-- The routes that take the input of port n. -/
def State.inRoutes (s : State) (n : Nat) : List RtRun := s.sap.routes.filter (fun x => decide (x.route.kind = 0) && decide (x.route.port = n))

theorem sapInput_eq (n q : Nat) (vs : List Word) (s : State) : sapInput n q vs s =
    if s.sapMode ≠ .routed ∨ s.pwr.entering.isSome = true then s
    else (foldS (inputRoute q (sapBits (fld (s.reg (aSapCfg n)) 10 2)) vs) (s.inRoutes n) s).onPort n
      (fun p => { p with prev := vs, lastIn := q }) := rfl

theorem putBlock_frameKept (n : Nat) (x : RtRun) (q a0 w : Nat) (bytes : List Byte) (e : Nat × Nat) (s : State) :
    State.FrameKept n s (putBlock x q a0 w bytes e s) :=
  .of_same ⟨⟨s.regs, _, _, rfl⟩, fun _ _ => rfl, fun _ _ _ h => h, rfl, rfl⟩ rfl

theorem inputRoute_frameKept (n q db : Nat) (vs : List Word) (x : RtRun) (s : State) : State.FrameKept n s (inputRoute q db vs x s) := by
  unfold inputRoute
  split
  · rfl
  · rw [routePut_eq]
    exact foldS_frameKept (putBlock_frameKept n x q _ _ _) _ s

theorem sapInput_frameKept (n q : Nat) (vs : List Word) (s : State) : State.FrameKept n s (sapInput n q vs s) := by
  rw [sapInput_eq]
  split
  · rfl
  · exact .onPort (foldS_frameKept (inputRoute_frameKept n q _ vs) _ s) (fun _ => rfl) (fun _ => rfl) (fun _ => rfl)

theorem inputRoute_regs (q db : Nat) (vs : List Word) (x : RtRun) (s : State) : (inputRoute q db vs x s).regs = s.regs := by
  unfold inputRoute
  split
  · rfl
  · rw [routePut_eq]
    exact foldS_induction (P := fun u => u.regs = s.regs) (fun e u h => (rfl : (putBlock x q _ _ _ e u).regs = u.regs).trans h) _ s rfl

theorem sapInput_regs (n q : Nat) (vs : List Word) (s : State) : (sapInput n q vs s).regs = s.regs := by
  rw [sapInput_eq]
  split
  · rfl
  · exact foldS_induction (P := fun u => u.regs = s.regs) (fun x u h => (inputRoute_regs q _ vs x u).trans h) _ s rfl

end Sys2Proof.Machine
end

section
/-! What a slot of a serial audio port carries, and how a frame begins and ends (spec/12_serial_audio_ports.md, R491 to R493, R497, R498, R500,
R502, Table 12-3). -/

namespace Sys2Proof.Machine

/-! ## Slots that carry zero (R500, Table 12-3) -/

/-- Slot j of port n carries 0 in period p whatever its route gives: it is muted, its mode gives no routed output, its ramp has ended, or its
gate is closed. -/
def State.Silent (s : State) (n p j : Nat) : Prop :=
  s.sapMuted n = true ∨ s.sapMode = .zero ∨ (s.sapMode = .ramp ∧ (s.port n).ramp = none) ∨
    (s.sapMode = .routed ∧ bit (s.gateAt n p) j = false)

theorem State.Silent.slotValue {s : State} {n p j : Nat} (h : s.Silent n p j) (b : Nat) (o : SlotOut) : (s.slotValue n j p b o).1.out = 0 := by
  unfold State.slotValue
  obtain hmuted | hzero | ⟨hmode, hramp⟩ | ⟨hmode, hgate⟩ := h
  · rw [hmuted]
    split <;> rfl
  · rw [hzero]
  · rw [hmode, hramp]
    exact ite_self _
  · rw [hmode, hgate]
    exact ite_self _

theorem State.WireKept.silent_iff {s u : State} {n : Nat} (h : State.WireKept n s u) (p j : Nat) : u.Silent n p j ↔ s.Silent n p j := by
  unfold State.Silent State.gateAt
  rw [h.sapMuted, h.sapMode, h.gated, h.ramp, h.reg_gate]

/-! ## Output (R489, R497, R498) -/

/-- Slot j takes its place on DOUT in a frame of port n and period p. -/
def sapOutSlot (n p b : Nat) (m : Word) (idle : Option Word) (j : Nat) (s : State) : State :=
  if bit m j then
    let o := smGet (fun _ => SlotOut.init) (s.port n).slots j
    let r := s.slotValue n j p b o
    let s1 := s.onPort n (fun q => { q with slots := smSet (fun _ => SlotOut.init) q.slots j r.1, dout := q.dout ++ [some r.1.out] })
    if r.2 then s1.onPort n (fun q => { q with await := q.await ++ [j] }) else s1
  else s.onPort n (fun q => { q with dout := q.dout ++ [idle] })

/-- What a slot outside OUT_MASK carries (R489). -/
def State.idleSlot (s : State) (n : Nat) : Option Word := if bit (s.reg (aSapCfg n)) 16 then none else some 0

/-- All slots of port n take their places on DOUT. -/
def sapOutSlots (n p : Nat) (s : State) : State :=
  foldS (sapOutSlot n p (sapBits (fld (s.reg (aSapCfg n)) 10 2)) (s.reg (aSapOutMask n)) (s.idleSlot n))
    (List.range (sapSlots (s.reg (aSapCfg n)))) (s.onPort n (fun q => { q with dout := [], await := [] }))

/-- The steps of a ramp and the fires that the wire reaches with period p. -/
def SapPort.output (ramping : Bool) (p : Nat) (q : SapPort) : SapPort :=
  { q with
    ramp := if ramping then q.ramp.map (fun i => min 32 (i + 1)) else none
    gated := q.gated.filter (fun g => decide (p < g.1)) }

theorem sapOutput_eq (n p : Nat) (s : State) : sapOutput n p s =
    (let u := (sapOutSlots n p s).onPort n (SapPort.output (decide (s.sapMode = .ramp)) p)
    { u with sap := { u.sap with gets := u.sap.gets.filter (fun g => decide (g.kind ≠ 1) || decide (g.port ≠ n) || decide (p ≤ g.period)) } }) := by
  have houtput : SapPort.output (decide (s.sapMode = .ramp)) p = fun q => { q with
      ramp := if s.sapMode = .ramp then q.ramp.map (fun i => min 32 (i + 1)) else none
      gated := q.gated.filter (fun g => decide (p < g.1)) } := by
    funext q
    simp only [SapPort.output, decide_eq_true_eq]
  rw [houtput]
  rfl

/-- What slot j of port n puts on DOUT: what lies outside OUT_MASK is idle, and a silent slot carries 0. -/
def State.Carries (s : State) (n p : Nat) (m : Word) (idle : Option Word) (j : Nat) (v : Option Word) : Prop :=
  (bit m j = false → v = idle) ∧ (bit m j = true → s.Silent n p j → v = some 0)

section
variable {s u : State} {n : Nat} (h : State.WireKept n s u)
include h

theorem State.WireKept.carries (p : Nat) (m : Word) (idle : Option Word) : u.Carries n p m idle = s.Carries n p m idle := by
  funext j v
  rw [State.Carries, h.silent_iff, State.Carries]

theorem State.WireKept.idleSlot : u.idleSlot n = s.idleSlot n := by
  rw [State.idleSlot, h.reg_cfg, State.idleSlot]

end

/-- A slot adds what it carries to DOUT. -/
theorem sapOutSlot_dout (n p b : Nat) (m : Word) (idle : Option Word) (j : Nat) (s : State) :
    State.FrameKept n s (sapOutSlot n p b m idle j s) ∧
      ∃ v, s.Carries n p m idle j v ∧ ((sapOutSlot n p b m idle j s).port n).dout = (s.port n).dout ++ [v] := by
  unfold sapOutSlot
  split
  case isTrue hin =>
    extract_lets o r s1
    have hs1 : State.FrameKept n s s1 := .onPort (.refl n s) (fun _ => rfl) (fun _ => rfl) (fun _ => rfl)
    have hdout : (s1.port n).dout = (s.port n).dout ++ [some r.1.out] := congrArg SapPort.dout (State.port_onPort_same ..)
    have hcarries : s.Carries n p m idle j (some r.1.out) :=
      ⟨fun hout => absurd hin (by simp [hout]), fun _ hsilent => congrArg some (hsilent.slotValue b o)⟩
    split
    · exact ⟨hs1.onPort (fun _ => rfl) (fun _ => rfl) (fun _ => rfl), _, hcarries,
        (congrArg SapPort.dout (s1.port_onPort_same n _)).trans hdout⟩
    · exact ⟨hs1, _, hcarries, hdout⟩
  case isFalse hout =>
    exact ⟨.onPort (.refl n s) (fun _ => rfl) (fun _ => rfl) (fun _ => rfl), idle, ⟨fun _ => rfl, fun hin => absurd hin hout⟩,
      congrArg SapPort.dout (State.port_onPort_same ..)⟩

/-- Slots add what they carry to DOUT in their order. -/
theorem foldS_sapOutSlot (n p b : Nat) (m : Word) (idle : Option Word) (js : List Nat) (s : State) :
    State.FrameKept n s (foldS (sapOutSlot n p b m idle) js s) ∧ ∃ vs, List.Forall₂ (s.Carries n p m idle) js vs ∧
      ((foldS (sapOutSlot n p b m idle) js s).port n).dout = (s.port n).dout ++ vs := by
  induction js generalizing s with
  | nil => exact ⟨.refl n s, [], .nil, (List.append_nil _).symm⟩
  | cons j js ih =>
    obtain ⟨hslot, v, hv, hdout⟩ := sapOutSlot_dout n p b m idle j s
    obtain ⟨hslots, vs, hvs, hdouts⟩ := ih (sapOutSlot n p b m idle j s)
    rw [hslot.carries] at hvs
    refine ⟨hslot.trans hslots, v :: vs, .cons hv hvs, ?_⟩
    rw [foldS, hdouts, hdout, List.append_assoc, List.singleton_append]

theorem sapOutSlots_dout (n p : Nat) (s : State) : State.FrameKept n s (sapOutSlots n p s) ∧
    List.Forall₂ (s.Carries n p (s.reg (aSapOutMask n)) (s.idleSlot n)) (List.range (sapSlots (s.reg (aSapCfg n))))
      ((sapOutSlots n p s).port n).dout := by
  have hclear : State.FrameKept n s (s.onPort n fun q => { q with dout := [], await := [] }) :=
    .onPort (.refl n s) (fun _ => rfl) (fun _ => rfl) (fun _ => rfl)
  obtain ⟨hslots, vs, hvs, hdout⟩ := foldS_sapOutSlot n p (sapBits (fld (s.reg (aSapCfg n)) 10 2)) (s.reg (aSapOutMask n)) (s.idleSlot n)
    (List.range (sapSlots (s.reg (aSapCfg n)))) (s.onPort n fun q => { q with dout := [], await := [] })
  have hempty : ((s.onPort n fun q => { q with dout := [], await := [] }).port n).dout = [] :=
    congrArg SapPort.dout (State.port_onPort_same ..)
  refine ⟨hclear.trans hslots, ?_⟩
  rw [hclear.carries] at hvs
  rw [sapOutSlots, hdout, hempty]
  exact hvs

/-- What the output of a frame leaves, and what it puts on DOUT. -/
theorem sapOutput_spec (n p : Nat) (s : State) : s.SapLeaves (sapOutput n p s) ∧ ((sapOutput n p s).port n).frame = (s.port n).frame ∧
    List.Forall₂ (s.Carries n p (s.reg (aSapOutMask n)) (s.idleSlot n)) (List.range (sapSlots (s.reg (aSapCfg n))))
      ((sapOutput n p s).port n).dout := by
  obtain ⟨hkept, hdout⟩ := sapOutSlots_dout n p s
  rw [sapOutput_eq]
  extract_lets u
  have hport : u.port n = SapPort.output _ p ((sapOutSlots n p s).port n) := State.port_onPort_same ..
  have hu : s.SapLeaves u := hkept.toSapLeaves.trans (State.onPort_sapLeaves ..)
  refine ⟨hu.trans ⟨⟨u.regs, u.memc, _, rfl⟩, fun _ _ => rfl, fun _ _ _ h => h, rfl, rfl⟩, ?_, ?_⟩
  · exact (congrArg SapPort.frame hport).trans hkept.frame
  · exact (congrArg SapPort.dout hport).symm ▸ hdout

theorem sapOutput_memc (n p : Nat) (s : State) : (sapOutput n p s).memc = s.memc := by
  have hslot (b : Nat) (m : Word) (idle : Option Word) (j : Nat) (u : State) : (sapOutSlot n p b m idle j u).memc = u.memc := by
    unfold sapOutSlot
    split
    · dsimp only
      split <;> rfl
    · rfl
  rw [sapOutput_eq]
  exact foldS_induction (P := fun u => u.memc = s.memc) (fun j u h => (hslot _ _ _ j u).trans h) _ _ rfl

/-! ## The end of a frame (R493, R502) -/

/-- A port whose frame in progress has ended. -/
def SapPort.ended (cut : Bool) (p : SapPort) : SapPort :=
  { p with began := false, await := [], tail := if cut then none else p.dout.getLast?.getD none }

/-- A frame that ends with its input, unless it is discarded. -/
theorem sapEnd_of_began {n : Nat} {s : State} (h : (s.port n).began = true) (cut : Bool) : sapEnd n cut s =
    (if (s.port n).discard then sapLate n s
      else sapInput n ((s.port n).period + 1) (if cut || (s.port n).zeroed then [] else ((sapLate n s).port n).din) (sapLate n s)).onPort n
        (SapPort.ended cut) := by
  have hlate := sapLate_frameKept n s
  rw [← hlate.discard, ← hlate.period, ← hlate.zeroed]
  exact if_neg (by simp [hlate.began, h])

theorem sapEnd_of_not_began {n : Nat} {s : State} (h : (s.port n).began = false) (cut : Bool) : sapEnd n cut s = sapLate n s :=
  if_pos (by simp [(sapLate_frameKept n s).began, h])

/-- The end of a frame leaves what gates its port's slots, and how the port fares with missing edges. -/
theorem sapEnd_spec (n : Nat) (cut : Bool) (s : State) : State.WireKept n s (sapEnd n cut s) ∧
    ((sapEnd n cut s).port n).missing = (s.port n).missing ∧ ((sapEnd n cut s).port n).lost = (s.port n).lost := by
  have hlate := sapLate_frameKept n s
  cases hbegan : (s.port n).began with
  | false =>
    rw [sapEnd_of_not_began hbegan]
    exact ⟨hlate.toWireKept, hlate.missing, hlate.lost⟩
  | true =>
    have hinput (q : Nat) (vs : List Word) :
        State.FrameKept n s (if (s.port n).discard then sapLate n s else sapInput n q vs (sapLate n s)) := by
      split
      · exact hlate
      · exact hlate.trans (sapInput_frameKept ..)
    rw [sapEnd_of_began hbegan, State.port_onPort_same]
    have h := hinput ((s.port n).period + 1) (if cut || (s.port n).zeroed then [] else ((sapLate n s).port n).din)
    exact ⟨h.toWireKept.onPort (fun _ => rfl) (fun _ => rfl), h.missing, h.lost⟩

/-! ## The beginning of a frame (R491, R492) -/

/-- A port at the beginning of a frame. -/
def SapPort.begun (period : Nat) (edge discard : Bool) (din : List Word) (edgeAt : Nat) (p : SapPort) : SapPort :=
  { p with began := true, period := period, edge := edge, din := din, discard := discard, zeroed := p.lost, edgeAt := edgeAt }

/-- A frame begins at the nearest sample period, after the input that a skipped period takes over; its input is discarded only where the frame
before had the same period, and then DOUT stays as it is. -/
theorem sapBegin_eq (n : Nat) (edge : Bool) (was : Option Nat) (din : List (Bool × Bool)) (s : State) : ∃ v discard edgeAt,
    State.FrameKept n s v ∧ (was.map (· + 2) ≠ some s.nearPeriod → v.memc = s.memc) ∧ (was ≠ some s.nearPeriod → discard = false) ∧
    sapBegin n edge was din s =
      let u := v.onPort n (SapPort.begun s.nearPeriod edge discard (s.sapSamples n din) edgeAt)
      if discard then u else sapOutput n s.nearPeriod u := by
  unfold sapBegin
  extract_lets p x slave skip same s1 s2 s3
  have hs1 : State.FrameKept n s s1 := by
    change State.FrameKept n s (if _ then _ else _)
    split
    · exact sapInput_frameKept ..
    · rfl
  have hs2 : State.FrameKept n s1 s2 := by
    change State.FrameKept n s1 (if _ then _ else _)
    split
    · refine .of_same ((State.incSlip_sapLeaves s1 n 16 16 1).trans (State.orStat_sapLeaves _ n _)) (State.port_of_sap ?_ n)
      rw [State.orReg_sap, State.incFld_sap]
    · rfl
  have hmemc : s2.memc = s1.memc := by
    change State.memc (if _ then _ else _) = _
    split
    · rw [State.orReg_memc, State.incFld_memc]
    · rfl
  refine ⟨s2, same, s.tide.count.toNat * 2 ^ 32 + s.tide.phase.toNat, hs1.trans hs2, fun hskip => hmemc.trans ?_, fun hsame => ?_, rfl⟩
  · have hno : skip = false := by simp [skip, p, hskip]
    exact congrArg State.memc (if_neg (by simp [hno]))
  · simp [same, p, hsame]

end Sys2Proof.Machine
end

section
/-! The start edges of a serial audio port and the frames that begin there (spec/12_serial_audio_ports.md, R489, R491, R500, R502, R503, Table
12-3). -/

namespace Sys2Proof.Machine

/-! ## The beginning of a frame -/

theorem sapBegin_port (n : Nat) (edge : Bool) (was : Option Nat) (din : List (Bool × Bool)) (s : State) :
    s.SapLeaves (sapBegin n edge was din s) ∧ ((sapBegin n edge was din s).port n).began = true ∧
      ((sapBegin n edge was din s).port n).missing = (s.port n).missing ∧ ((sapBegin n edge was din s).port n).lost = (s.port n).lost := by
  obtain ⟨v, discard, edgeAt, hv, -, -, hbegin⟩ := sapBegin_eq n edge was din s
  rw [hbegin]
  extract_lets u
  have hu : s.SapLeaves u := hv.toSapLeaves.trans (State.onPort_sapLeaves ..)
  have hport : u.port n = (v.port n).begun s.nearPeriod edge discard (s.sapSamples n din) edgeAt := State.port_onPort_same ..
  cases discard with
  | true =>
    refine ⟨hu, ?_⟩
    rw [if_pos rfl, hport]
    exact ⟨rfl, hv.missing, hv.lost⟩
  | false =>
    obtain ⟨hout, hframe, -⟩ := sapOutput_spec n s.nearPeriod u
    rw [hport] at hframe
    exact ⟨hu.trans hout, (congrArg SapPort.began hframe :), (congrArg SapPort.missing hframe :).trans hv.missing,
      (congrArg SapPort.lost hframe :).trans hv.lost⟩

/-- A frame that skips no period writes no input. -/
theorem sapBegin_memc {n : Nat} {was : Option Nat} {s : State} (hskip : was.map (· + 2) ≠ some s.nearPeriod) (edge : Bool)
    (din : List (Bool × Bool)) : (sapBegin n edge was din s).memc = s.memc := by
  obtain ⟨v, discard, edgeAt, -, hmemc, -, hbegin⟩ := sapBegin_eq n edge was din s
  rw [hbegin]
  cases discard
  · exact (sapOutput_memc ..).trans (hmemc hskip)
  · exact hmemc hskip

/-- What a frame of port n puts on the wire where its period is another than the frame's before it. -/
theorem sapBegin_output {n : Nat} {was : Option Nat} {s : State} (hnew : was ≠ some s.nearPeriod) (edge : Bool) (din : List (Bool × Bool)) :
    ((sapBegin n edge was din s).port n).period = s.nearPeriod ∧ ((sapBegin n edge was din s).port n).din = s.sapSamples n din ∧
      List.Forall₂ (s.Carries n s.nearPeriod (s.reg (aSapOutMask n)) (s.idleSlot n)) (List.range (sapSlots (s.reg (aSapCfg n))))
        ((sapBegin n edge was din s).port n).dout := by
  obtain ⟨v, discard, edgeAt, hv, -, hdiscard, hbegin⟩ := sapBegin_eq n edge was din s
  rw [hbegin, hdiscard hnew]
  extract_lets u
  have hu : State.WireKept n s u := hv.toWireKept.onPort (fun _ => rfl) (fun _ => rfl)
  have hport : u.port n = (v.port n).begun s.nearPeriod edge false (s.sapSamples n din) edgeAt := State.port_onPort_same ..
  obtain ⟨-, hframe, hdout⟩ := sapOutput_spec n s.nearPeriod u
  rw [hport] at hframe
  rw [hu.carries, hu.reg_cfg, hu.reg_outMask, hu.idleSlot] at hdout
  exact ⟨(congrArg SapPort.period hframe :), (congrArg SapPort.din hframe :), hdout⟩

theorem State.Carries.at_range {s : State} {n p : Nat} {m : Word} {idle : Option Word} {k : Nat} {vs : List (Option Word)}
    (h : List.Forall₂ (s.Carries n p m idle) (List.range k) vs) {j : Nat} (hj : j < k) :
    (bit m j = false → vs[j]? = some idle) ∧ (bit m j = true → s.Silent n p j → vs[j]? = some (some 0)) := by
  obtain ⟨hlen, hget⟩ := List.forall₂_iff_get.mp h
  have hjs : j < (List.range k).length := by rwa [List.length_range]
  obtain ⟨hout, hin⟩ := hget j hjs (hlen ▸ hjs)
  rw [List.get_eq_getElem, List.getElem_range] at hout hin
  rw [List.getElem?_eq_getElem (hlen ▸ hjs)]
  exact ⟨fun h => congrArg some (hout h), fun h h' => congrArg some (hin h h')⟩

/-! ## A start edge (R491, R502, R503) -/

/-- A port framing in its mode. -/
theorem State.sapFrames_iff {s : State} {n : Nat} :
    s.sapFrames n = true ↔ bit (s.reg (aSapStat n)) 0 = true ∧ s.sapMode ≠ .off ∧ s.sapMode ≠ .low := by
  unfold State.sapFrames
  cases s.sapMode <;> simp

/-- An edge gives the group's measurement on the clock port, and counts where it cuts the frame in progress. -/
def sapEdge (n bclk : Nat) (cut : Bool) (s : State) : State :=
  let s0 := (if fld (s.reg (aSapGrpCfg (n / 8))) 16 3 = n % 8 then
    s.setReg (aSapGrpMeas (n / 8)) (BitVec.ofNat 32 (((s.port n).since + bclk) % 2048)) else s).onPort n (fun x => { x with since := 0 })
  if cut then (s0.incFld (aSapSlip n) 0 16 1).orReg (aSapStat n) 0x200 else s0

theorem sapEdge_kept (n bclk : Nat) (cut : Bool) (s : State) :
    State.FrameKept n s (sapEdge n bclk cut s) ∧ (sapEdge n bclk cut s).memc = s.memc := by
  unfold sapEdge
  extract_lets s0
  have hs0 : State.FrameKept n s s0 ∧ s0.memc = s.memc := by
    unfold s0
    split
    · exact ⟨.onPort (.of_same (s.setReg_sapLeaves (by unfold aSapGrpMeas; omega) (by unfold aSapGrpMeas; omega) _) rfl)
        (fun _ => rfl) (fun _ => rfl) (fun _ => rfl), rfl⟩
    · exact ⟨.onPort (.refl n s) (fun _ => rfl) (fun _ => rfl) (fun _ => rfl), rfl⟩
  clear_value s0
  cases cut with
  | false => exact hs0
  | true =>
    rw [if_pos rfl, State.orReg_memc, State.incFld_memc]
    refine ⟨hs0.1.trans (.of_same ((State.incSlip_sapLeaves ..).trans (State.orStat_sapLeaves ..)) (State.port_of_sap ?_ n)), hs0.2⟩
    rw [State.orReg_sap, State.incFld_sap]

/-- An edge ends the count of missing edges, and finds the frames again where it comes on time. -/
def SapPort.edged (found : Bool) (p : SapPort) : SapPort := { p with missing := 0, lost := if found then false else p.lost }

/-- The period of the frame in progress of a port. -/
def SapPort.was (p : SapPort) : Option Nat := if p.began then some p.period else none

/-- Does an edge cut a frame of port n short (R502)? -/
def State.sapCut (s : State) (n bclk : Nat) : Bool :=
  (s.port n).began && !bit (s.reg (aSapGrpCfg (n / 8))) 11 && decide (bclk ≠ s.grpF (n / 8))

section
variable {s : State} {n : Nat} (hframes : s.sapFrames n = true) (hen : bit (s.reg (aSapGrpCfg (n / 8))) 14 = true)
  (hphase : bit (s.reg (aSapGrpCfg (n / 8))) 11 = true → s.tide.phase = 0)
  (hzero : s.sapMode = .zero → bit (s.reg (aSapGrpCfg (n / 8))) 11 = true) (hclk : s.sap.noClk.contains (n / 8) = false)
  (hnew : (s.port n).began = true → (s.port n).period ≠ s.nearPeriod)
include hframes hen hphase hzero hclk hnew

/-- A framing port takes an edge: the frame in progress ends, and another begins. -/
theorem sapFrame_eq (bclk : Nat) (din : List (Bool × Bool)) : ∃ found, sapFrame n bclk din s = sapBegin n true (s.port n).was din
    ((sapEnd n (s.sapCut n bclk) (sapEdge n bclk (s.sapCut n bclk) s)).onPort n (SapPort.edged found)) := by
  obtain ⟨hstat, hoff, hlow⟩ := State.sapFrames_iff.mp hframes
  have hmaster : ¬ (bit (s.reg (aSapGrpCfg (n / 8))) 11 = true ∧
      (s.tide.phase ≠ 0 ∨ (s.counting = true ∧ (s.port n).began = true ∧ (s.port n).period = s.tide.count.toNat))) := by
    rintro ⟨hm, hne | ⟨-, hbegan, hperiod⟩⟩
    · exact hne (hphase hm)
    · refine hnew hbegan ?_
      rw [hperiod, State.nearPeriod, hphase hm]
      rfl
  unfold sapFrame
  extract_lets g cfg master f x s0 s0' cut s1 was s2 found s3
  rw [if_neg, if_neg, if_neg]
  · exact ⟨found, rfl⟩
  · simp [hstat]
  · rintro ⟨hslave, hmode⟩
    exact absurd (hzero hmode) (by simpa [master] using hslave)
  · rintro (h | h | h | h | h)
    · exact absurd hen (by simpa using h)
    · exact hmaster h
    · exact absurd hclk (by simpa using h)
    · exact hoff h
    · exact hlow h

/-- The state in which the frame of an edge begins. -/
theorem sapFrame_begins (bclk : Nat) (din : List (Bool × Bool)) :
    ∃ u, State.WireKept n s u ∧ sapFrame n bclk din s = sapBegin n true (s.port n).was din u := by
  obtain ⟨found, hframe⟩ := sapFrame_eq hframes hen hphase hzero hclk hnew bclk din
  have hended := (sapEdge_kept n bclk (s.sapCut n bclk) s).1.toWireKept.trans (sapEnd_spec n (s.sapCut n bclk) _).1
  refine ⟨_, ?_, hframe⟩
  exact hended.onPort (fun _ => rfl) (fun _ => rfl)

end

theorem SapPort.was_ne {p : SapPort} {q : Nat} (hnew : p.began = true → p.period ≠ q) : p.was ≠ some q := by
  unfold SapPort.was
  split
  case isTrue hbegan => exact fun h => hnew hbegan (Option.some.inj h)
  case isFalse => exact fun h => nomatch h

end Sys2Proof.Machine
end

section
/-! The routes of the serial audio ports (spec/12_serial_audio_ports.md, R493 to R498): the write of a period's input, the reads of a period's
output, and the acknowledgement of a write. -/

namespace Sys2Proof.Machine

/-! ## Blocks of 32 bytes (R305) -/

theorem beats_zero (fuel a : Nat) : beats fuel a 0 = [] := by
  cases fuel <;> rfl

theorem beats_cons {n : Nat} (hpos : 0 < n) (fuel a : Nat) :
    beats (fuel + 1) a n = (a, min n (32 - a % 32)) :: beats fuel (a + min n (32 - a % 32)) (n - min n (32 - a % 32)) := by
  rw [beats, if_neg (Nat.ne_of_gt hpos)]

/-- What lies in one block is written at once. -/
theorem beats_of_inBlock {a n : Nat} (hpos : 0 < n) (h : inBlock a n = true) (fuel : Nat) : beats (fuel + 1) a n = [(a, n)] := by
  have hend : a / 32 = (a + n - 1) / 32 := of_decide_eq_true h
  have hmin : min n (32 - a % 32) = n := Nat.min_eq_left (by omega)
  rw [beats_cons hpos, hmin, Nat.sub_self, beats_zero]

/-! ## Input (R493 to R495) -/

theorem RtRun.inBytes_length (x : RtRun) (db : Nat) (vs : List Word) :
    (x.inBytes db vs).length = (x.route.last - x.route.first + 1) * (x.route.width + 1) := by
  simp [RtRun.inBytes, List.length_flatMap]

/-- The request for a block that begins with the period's data. -/
theorem putBlock_reqs {x : RtRun} {q a w n : Nat} {bytes : List Byte} (hlen : bytes.length = n) (s : State) :
    (putBlock x q a w bytes (a, n) s).memc.reqs = s.memc.reqs ++ [{
      id := s.memc.nextId, ini := .route, kind := .store, addr := s.routeAddr a, len := n, data := bytes, cst := 0, cls := 3, here := false
      mask := none, st := .waiting }] := by
  have hdata : (bytes.drop (a - a)).take n = bytes := by rw [Nat.sub_self, List.drop_zero, ← hlen, List.take_length]
  exact congrArg (fun d => s.memc.reqs ++ [({
      id := s.memc.nextId, ini := .route, kind := .store, addr := s.routeAddr a, len := n, data := d, cst := 0, cls := 3, here := false
      mask := none, st := .waiting } : FabReq)]) hdata

/-- Where the input of port n goes to one route, and there into one block, it is one store. -/
theorem sapInput_reqs {s : State} {n q : Nat} {x : RtRun} {pl : Nat × Nat} (hmode : s.sapMode = .routed) (hent : s.pwr.entering = none)
    (hroute : s.inRoutes n = [x]) (hplace : x.place q = some pl)
    (hblock : inBlock (x.route.addr + pl.1 * x.route.stride + pl.2 * (x.route.last - x.route.first + 1) * (x.route.width + 1))
      ((x.route.last - x.route.first + 1) * (x.route.width + 1)) = true) (vs : List Word) :
    (sapInput n q vs s).memc.reqs = s.memc.reqs ++ [{
      id := s.memc.nextId, ini := .route, kind := .store
      addr := s.routeAddr (x.route.addr + pl.1 * x.route.stride + pl.2 * (x.route.last - x.route.first + 1) * (x.route.width + 1))
      len := (x.route.last - x.route.first + 1) * (x.route.width + 1), data := x.inBytes (sapBits (fld (s.reg (aSapCfg n)) 10 2)) vs
      cst := 0, cls := 3, here := false, mask := none, st := .waiting }] := by
  have hgoes : ¬ (s.sapMode ≠ .routed ∨ s.pwr.entering.isSome = true) := by simp [hmode, hent]
  have hput : inputRoute q (sapBits (fld (s.reg (aSapCfg n)) 10 2)) vs x s = routePut x q pl.1 pl.2 (x.route.last - x.route.first + 1)
      (x.route.width + 1) (x.inBytes (sapBits (fld (s.reg (aSapCfg n)) 10 2)) vs) s := by
    rw [inputRoute, hplace]
  rw [sapInput_eq, if_neg hgoes, hroute, foldS, hput, routePut_eq, beats_of_inBlock (Nat.mul_pos (by omega) (by omega)) hblock]
  exact putBlock_reqs (x := x) (q := q) (w := x.route.width + 1) (x.inBytes_length _ vs) s

/-! ## Output reads (R497, R498) -/

/-- One block of the reads of an output route for period q, whose data begin at a0. -/
def getBlock (x : RtRun) (q a0 : Nat) (e : Nat × Nat) (s : State) : State :=
  let q1 := s.request .route .load (s.routeAddr e.1) e.2 [] 0
  let g : RtGet := { id := q1.2, kind := 1, port := x.route.port, sel := x.route.first, period := q, off := e.1 - a0, n := e.2 }
  { q1.1 with sap := { q1.1.sap with gets := q1.1.sap.gets ++ [g] } }

/-- Blocks are asked for in their order, the first of them at the first address. -/
theorem foldS_getBlock (x : RtRun) (q a0 : Nat) (e : Nat × Nat) (es : List (Nat × Nat)) (s : State) :
    (foldS (getBlock x q a0) (e :: es) s).sap.gets ≠ [] ∧
      ((foldS (getBlock x q a0) (e :: es) s).memc.reqs.drop s.memc.reqs.length).head?.map (fun r => (r.kind, r.addr)) =
        some (.load, s.routeAddr e.1) := by
  have hlater : ∀ u : State, u.sap.gets ≠ [] ∧
        (u.memc.reqs.drop s.memc.reqs.length).head?.map (fun r => (r.kind, r.addr)) = some (.load, s.routeAddr e.1) → ∀ e',
      (getBlock x q a0 e' u).sap.gets ≠ [] ∧
        ((getBlock x q a0 e' u).memc.reqs.drop s.memc.reqs.length).head?.map (fun r => (r.kind, r.addr)) = some (.load, s.routeAddr e.1) := by
    intro u ⟨_, hreq⟩ e'
    obtain ⟨r, hr, hra⟩ := Option.map_eq_some_iff.mp hreq
    refine ⟨List.append_ne_nil_of_right_ne_nil _ (List.cons_ne_nil _ _), Option.map_eq_some_iff.mpr ⟨r, ?_, hra⟩⟩
    rw [List.head?_drop] at hr ⊢
    exact (List.getElem?_append_left (List.getElem?_eq_some_iff.mp hr).1).trans hr
  refine foldS_induction (P := fun u => u.sap.gets ≠ [] ∧
    (u.memc.reqs.drop s.memc.reqs.length).head?.map (fun r => (r.kind, r.addr)) = some (.load, s.routeAddr e.1))
    (fun e' u h => hlater u h e') es (getBlock x q a0 e s) ⟨?_, ?_⟩
  · exact List.append_ne_nil_of_right_ne_nil _ (List.cons_ne_nil _ _)
  · exact congrArg (fun l => l.head?.map fun r : FabReq => (r.kind, r.addr)) (List.drop_left (l₁ := s.memc.reqs))

/-- A live output route that nothing bridges reads its period within the frame in progress. -/
theorem sapOutputRead_eq {s : State} {r : Nat} {x : RtRun} (hfclk : s.fclkRuns = true) (hx : s.sap.routes[r]? = some x)
    (hkind : x.route.kind = 1) (hlive : x.live = true) (hmode : s.sapMode = .routed) (hgets : s.sap.gets = [])
    (hbridge : (s.outPlace x (s.tide.count.toNat + 1)).2.2.2.1 = false) (hzeros : (s.outPlace x (s.tide.count.toNat + 1)).2.2.2.2 = false)
    (hframe : s.tide.count.toNat + 1 < x.start + x.len) : sapOutputRead r s =
      let q := s.tide.count.toNat + 1
      let w := x.route.width + 1
      let per := x.route.last - x.route.first + 1
      let a0 := s.outAddr x (s.outPlace x q).2.2.1 (s.outPlace x q).1 per w
      foldS (getBlock x q a0) (beats (per * w + 1) a0 (per * w)) s := by
  have hnext : decide (x.start + x.len ≤ s.tide.count.toNat + 1) = false := decide_eq_false (by omega)
  unfold sapOutputRead
  rw [hx]
  refine if_neg ?_
  rintro (h | h | h | h | h | h | h | h)
  · exact absurd (h.symm.trans hfclk) (by decide)
  · exact h hkind
  · exact absurd (h.symm.trans hlive) (by decide)
  · rw [hgets] at h
    exact absurd h Bool.false_ne_true
  · exact absurd (h.symm.trans hbridge) (by decide)
  · exact absurd (h.symm.trans hzeros) (by decide)
  · exact h hmode
  · rw [hnext] at h
    exact absurd h (by simp)

/-! ## Acknowledgements (R495, R496) -/

/-- A write that has ended is forgotten. -/
def State.acked (s : State) (id : Nat) : State :=
  ({ s with sap := { s.sap with puts := s.sap.puts.filter (fun x => decide (x.id ≠ id)) } }).dropReq id

/-- What the end of a write makes of the samples it held. -/
def sapPutEnd (p : RtPut) (st : FabSt) (s : State) : State := match st with | .failed _ => sapLose p s | _ => s

/-- The writes of a period have all ended. -/
def sapPeriodWritten (p : RtPut) (s : State) : State :=
  ((s.setReg (aSapLast p.port) (BitVec.ofNat 32 p.period)).setReg (aSapLastHi p.port) (BitVec.ofNat 32 (p.period / 2 ^ 32 % 65536))).orRegIf
    p.final (aSapStat p.port) 0x100

theorem sapPeriodWritten_last (p : RtPut) (s : State) : (sapPeriodWritten p s).reg (aSapLast p.port) = BitVec.ofNat 32 p.period := by
  simp [sapPeriodWritten]

theorem sapPeriodWritten_drop (p : RtPut) (s : State) : (sapPeriodWritten p s).reg (aSapDrop p.port) = s.reg (aSapDrop p.port) := by
  simp [sapPeriodWritten]

theorem sapPeriodWritten_stat (p : RtPut) (s : State) : (sapPeriodWritten p s).reg (aSapStat p.port) =
    if p.final then s.reg (aSapStat p.port) ||| 0x100 else s.reg (aSapStat p.port) := by
  simp [sapPeriodWritten]

theorem sapPeriodWritten_flag {p : RtPut} {s : State} {i : Nat} (h : bit (s.reg (aSapStat p.port)) i = true) :
    bit ((sapPeriodWritten p s).reg (aSapStat p.port)) i = true := by
  rw [sapPeriodWritten_stat]
  split
  · exact bit_or_left h _
  · exact h

theorem sapPeriodWritten_final {p : RtPut} (h : p.final = true) (s : State) :
    bit ((sapPeriodWritten p s).reg (aSapStat p.port)) 8 = true := by
  rw [sapPeriodWritten_stat, if_pos h]
  exact bit_or_right (by decide) _

/-- The acknowledgement of a period's last write gives the period in SAP_LAST. -/
theorem sapWriteAck_last {s : State} {p : RtPut} {st : FabSt} (hputs : s.sap.puts = [p]) (hkind : p.kind = 0) (hst : s.reqSt? p.id = some st)
    (hend : st.open_ = false) :
    sapWriteAck p.id s = sapPeriodWritten p (sapPutEnd p st (s.acked p.id)) ∧ (sapPutEnd p st (s.acked p.id)).sap.puts = [] := by
  have hfind : s.sap.puts.find? (fun x => decide (x.id = p.id) && decide (x.kind = 0)) = some p := by simp [hputs, hkind]
  have hacked : (s.acked p.id).sap.puts = [] := by
    change s.sap.puts.filter _ = []
    rw [hputs]
    simp
  have hrest : (sapPutEnd p st (s.acked p.id)).sap.puts = [] := by
    cases st with
    | failed b =>
      have hlose : (sapLose p (s.acked p.id)).sap.puts = (s.acked p.id).sap.puts.map _ := rfl
      rw [sapPutEnd, hlose, hacked, List.map_nil]
    | _ => exact hacked
  refine ⟨?_, hrest⟩
  have hno : (sapPutEnd p st (s.acked p.id)).sap.puts.any
      (fun x => decide (x.kind = 0) && decide (x.port = p.port) && decide (x.period = p.period)) = false := by rw [hrest]; rfl
  unfold sapWriteAck
  rw [hfind, hst]
  exact (if_neg (by simp [hend])).trans (if_neg (ne_true_of_eq_false hno))

/-- A failed write's samples count in SAPn_DROP, and SAPn_STAT says so. -/
theorem sapLose_reg (p : RtPut) (s : State) : bit ((sapLose p s).reg (aSapStat p.port)) 12 = true ∧
    (sapLose p s).reg (aSapDrop p.port) = (s.incFld (aSapDrop p.port) 0 16 (p.n + b2n p.tail)).reg (aSapDrop p.port) := by
  unfold sapLose
  extract_lets s1
  rw [State.reg_orReg, if_pos rfl, State.reg_orReg, if_neg (by unfold aSapDrop aSapStat; omega)]
  exact ⟨bit_or_right (by decide) _, by rw [State.reg_incFld, State.reg_incFld]; rfl⟩

end Sys2Proof.Machine
end

section
/-! Edges that are missing or ignored, and a slave group's clock that is lost and returns (spec/12_serial_audio_ports.md, R503 to R505, Table
12-3); the rows of the serial audio ports' frames together. -/

namespace Sys2Proof.Machine

/-! ## Missing edges (R503) -/

/-- A port that starts its next frame itself: the fourth in a row says that the frames are lost. -/
theorem frameMissing_spec {n : Nat} {s : State} (hframes : s.sapFrames n = true) (hen : bit (s.reg (aSapGrpCfg (n / 8))) 14 = true)
    (hslave : bit (s.reg (aSapGrpCfg (n / 8))) 11 = false) (hclk : s.sap.noClk.contains (n / 8) = false) (hbegan : (s.port n).began = true)
    (hmode : s.sapMode ≠ .zero) (din : List (Bool × Bool)) : ((frameMissing n din s).port n).missing = (s.port n).missing + 1 ∧
      ((frameMissing n din s).port n).began = true ∧ (3 ≤ (s.port n).missing → ((frameMissing n din s).port n).lost = true ∧
        ((s.port n).lost = false → bit ((frameMissing n din s).reg (aSapStat n)) 10 = true)) := by
  unfold frameMissing
  extract_lets g cfg x k s1 lose s2
  rw [if_neg (by simp only [cfg, g, x, hen, hslave, hclk, hframes, hbegan]; decide), if_neg hmode]
  have hport : s2.port n = { s1.port n with
      missing := k, lost := (s1.port n).lost || decide (4 ≤ k), since := (s1.port n).since + s.grpF g } := State.port_onPort_same ..
  have hlost : (s1.port n).lost = x.lost := (sapEnd_spec n false s).2.2
  obtain ⟨hleaves, hbegan', hmissing', hlost'⟩ := sapBegin_port n false (some x.period) din (s2.orRegIf lose (aSapStat n) 0x400)
  rw [State.port_of_sap (State.orRegIf_sap ..), hport] at hmissing' hlost'
  refine ⟨hmissing', hbegan', fun hthree => ?_⟩
  have hfour : 4 ≤ k := Nat.succ_le_succ hthree
  refine ⟨hlost'.trans (by simp [hfour]), fun hfound => hleaves.flag _ 10 (by unfold aSapStat; omega) ?_⟩
  have hlose : lose = true := by simp [lose, x, hfound, hfour]
  rw [State.reg_orRegIf, if_pos ⟨rfl, hlose⟩]
  exact bit_or_right (by decide) _

/-! ## Edges that are ignored (R505, Table 12-3) -/

theorem sapFrame_ignored {n : Nat} {s : State} (hen : bit (s.reg (aSapGrpCfg (n / 8))) 14 = true)
    (hslave : bit (s.reg (aSapGrpCfg (n / 8))) 11 = false) (hclk : s.sap.noClk.contains (n / 8) = false) (hmode : s.sapMode = .zero)
    (bclk : Nat) (din : List (Bool × Bool)) : sapFrame n bclk din s = sapIgnore n s := by
  unfold sapFrame
  extract_lets g cfg master
  rw [if_neg (by simp only [master, cfg, g, hen, hslave, hclk, hmode, Bool.false_eq_true, false_and]; decide), if_pos ⟨hslave, hmode⟩]

theorem sapIgnore_spec (n : Nat) (s : State) :
    (sapIgnore n s).regs = s.regs ∧ ((sapIgnore n s).port n).began = false ∧ (sapIgnore n s).memc = s.memc := by
  unfold sapIgnore
  split
  · exact ⟨rfl, congrArg SapPort.began (s.port_onPort_same n _), rfl⟩
  case isFalse h => exact ⟨rfl, Bool.eq_false_iff.mpr h, rfl⟩

/-! ## A lost clock and its return (R504) -/

theorem foldS_append {α : Type} (f : α → State → State) (l l' : List α) (s : State) : foldS f (l ++ l') s = foldS f l' (foldS f l s) := by
  induction l generalizing s with
  | nil => rfl
  | cons x l ih => exact ih (f x s)

theorem foldS_sapLeaves {α : Type} {f : α → State → State} (hf : ∀ x (s : State), s.SapLeaves (f x s)) (l : List α) (s : State) :
    s.SapLeaves (foldS f l s) :=
  foldS_induction (P := s.SapLeaves) (fun x v h => h.trans (hf x v)) l s (.refl s)

theorem foldS_reg_of_mem {α : Type} {f : α → State → State} {a : Nat} {l : List α} (hf : ∀ x ∈ l, ∀ s, (f x s).reg a = s.reg a) (s : State) :
    (foldS f l s).reg a = s.reg a := by
  induction l generalizing s with
  | nil => rfl
  | cons x l ih => exact (ih (fun y hy => hf y (List.mem_cons_of_mem x hy)) (f x s)).trans (hf x List.mem_cons_self s)

theorem sapZeros_sapLeaves (n : Nat) (s : State) : s.SapLeaves (sapZeros n s) :=
  foldS_sapLeaves (fun k u => (sapInput_frameKept n (s.tide.count.toNat + 1 - k) [] u).toSapLeaves) _ s

theorem sapZeros_regs (n : Nat) (s : State) : (sapZeros n s).regs = s.regs :=
  foldS_induction (P := fun u => u.regs = s.regs) (fun _ _ h => (sapInput_regs ..).trans h) _ s rfl

/-- Port i of group g loses its clock. -/
def loseClock (g i : Nat) (s : State) : State :=
  let n := 8 * g + i
  if !bit (s.reg (aSapCfg n)) 0 then s
  else
    let s1 := s.orReg (aSapStat n) 0x4000
    if bit (s.reg (aSapStat n)) 0 then sapZeros n (s1.onPort n SapPort.stopped) else s1

theorem loseClock_sapLeaves (g i : Nat) (s : State) : s.SapLeaves (loseClock g i s) := by
  unfold loseClock
  extract_lets n s1
  have hs1 : s.SapLeaves s1 := State.orStat_sapLeaves ..
  split
  · rfl
  · split
    · exact (hs1.trans (State.onPort_sapLeaves ..)).trans (sapZeros_sapLeaves ..)
    · exact hs1

/-- A port that loses its clock writes its own status alone. -/
theorem loseClock_reg (g i : Nat) (s : State) (a : Nat) : (loseClock g i s).reg a = if bit (s.reg (aSapCfg (8 * g + i))) 0 then
    (s.orReg (aSapStat (8 * g + i)) 0x4000).reg a else s.reg a := by
  have hzeros (n : Nat) (u : State) : (sapZeros n (u.onPort n SapPort.stopped)).reg a = u.reg a := by
    rw [State.reg, sapZeros_regs]
    rfl
  unfold loseClock
  extract_lets n s1
  cases hen : bit (s.reg (aSapCfg n)) 0
  · rfl
  · simp only [Bool.not_true, Bool.false_eq_true, if_false, if_true]
    split
    · exact hzeros n s1
    · rfl

theorem loseClock_flag {g i : Nat} {s : State} (hen : bit (s.reg (aSapCfg (8 * g + i))) 0 = true) :
    bit ((loseClock g i s).reg (aSapStat (8 * g + i))) 14 = true := by
  rw [loseClock_reg, if_pos hen, State.reg_orReg, if_pos rfl]
  exact bit_or_right (by decide) _

/-- A machine whose groups without a clock are l. -/
def State.withNoClk (s : State) (l : List Nat) : State := { s with sap := { s.sap with noClk := l } }

theorem State.reg_withNoClk (s : State) (l : List Nat) (a : Nat) : (s.withNoClk l).reg a = s.reg a := rfl

theorem State.noClk_withNoClk (s : State) (l : List Nat) : (s.withNoClk l).sap.noClk = l := rfl

theorem bclkLost_eq {g : Nat} {s : State} (hen : bit (s.reg (aSapGrpCfg g)) 14 = true) (hslave : bit (s.reg (aSapGrpCfg g)) 11 = false)
    (hclk : s.sap.noClk.contains g = false) (hmode : s.sapMode ≠ .zero) : bclkLost g s =
      foldS (loseClock g) (List.range 8) (((s.orReg (aSapGrpStat g) 0x100).clrReg (aSapGrpStat g) 1).withNoClk (s.sap.noClk ++ [g])) :=
  if_neg (by simp only [hen, hslave, hclk, hmode]; decide)

theorem bclkLost_spec {g : Nat} {s : State} (hg : g < 8) (hen : bit (s.reg (aSapGrpCfg g)) 14 = true)
    (hslave : bit (s.reg (aSapGrpCfg g)) 11 = false) (hclk : s.sap.noClk.contains g = false) (hmode : s.sapMode ≠ .zero) :
    (bclkLost g s).sap.noClk.contains g = true ∧ bit ((bclkLost g s).reg (aSapGrpStat g)) 8 = true ∧
      bit ((bclkLost g s).reg (aSapGrpStat g)) 0 = false ∧
      ∀ i : Fin 8, bit (s.reg (aSapCfg (8 * g + i))) 0 = true → bit ((bclkLost g s).reg (aSapStat (8 * g + i))) 14 = true := by
  rw [bclkLost_eq hen hslave hclk hmode]
  set s2 := ((s.orReg (aSapGrpStat g) 0x100).clrReg (aSapGrpStat g) 1).withNoClk (s.sap.noClk ++ [g])
  have hleaves := foldS_sapLeaves (loseClock_sapLeaves g) (List.range 8) s2
  have hstat : (foldS (loseClock g) (List.range 8) s2).reg (aSapGrpStat g) =
      (s.reg (aSapGrpStat g) ||| 0x100) &&& ~~~1 := by
    refine (foldS_reg_of_mem (fun i hi u => ?_) s2).trans ?_
    · have hi8 := List.mem_range.mp hi
      have hother : aSapGrpStat g ≠ aSapStat (8 * g + i) := by unfold aSapGrpStat aSapStat; omega
      rw [loseClock_reg, State.reg_orReg, if_neg hother, ite_self]
    · rw [State.reg_withNoClk, State.reg_clrReg, if_pos rfl, State.reg_orReg, if_pos rfl]
  refine ⟨?_, ?_, ?_, fun i hi => ?_⟩
  · rw [hleaves.noClk, State.noClk_withNoClk]
    simp
  · rw [hstat, bit_and_of_mask (by decide)]
    exact bit_or_right (by decide) _
  · rw [hstat, bit, BitVec.getLsbD_and]
    simp
  · obtain ⟨l, l', hl⟩ := List.append_of_mem (List.mem_range.mpr i.isLt)
    have hcfg (u : State) (hu : s2.SapLeaves u) : u.reg (aSapCfg (8 * g + i)) = s.reg (aSapCfg (8 * g + i)) := by
      have hother : aSapCfg (8 * g + i) ≠ aSapGrpStat g := by unfold aSapCfg aSapGrpStat; omega
      rw [hu.reg_cfg, State.reg_withNoClk, State.reg_clrReg, if_neg hother, State.reg_orReg, if_neg hother]
    rw [hl, foldS_append, foldS]
    refine (foldS_sapLeaves (loseClock_sapLeaves g) l' _).flag _ _ (by unfold aSapStat; omega) (loseClock_flag ?_)
    rw [hcfg _ (foldS_sapLeaves (loseClock_sapLeaves g) l s2)]
    exact hi

/-- Port i of group g has its clock again. -/
def regainClock (g i : Nat) (s : State) : State :=
  let n := 8 * g + i
  if s.sapFrames n then sapBegin n false none [] (s.onPort n (fun p => { p with lost := true, missing := 4, since := 0 })) else s

theorem regainClock_sapLeaves (g i : Nat) (s : State) : s.SapLeaves (regainClock g i s) := by
  unfold regainClock
  extract_lets n
  split
  · exact (State.onPort_sapLeaves ..).trans (sapBegin_port ..).1
  · rfl

theorem bclkReturn_eq {g : Nat} {s : State} (hen : bit (s.reg (aSapGrpCfg g)) 14 = true) (hslave : bit (s.reg (aSapGrpCfg g)) 11 = false) :
    bclkReturn g s =
      let s2 := (s.orReg (aSapGrpStat g) 1).withNoClk (s.sap.noClk.filter (fun x => decide (x ≠ g)))
      if s.sap.noClk.contains g then foldS (regainClock g) (List.range 8) s2 else s2 :=
  if_neg (by simp only [hen, hslave]; decide)

theorem bclkReturn_spec {g : Nat} {s : State} (hen : bit (s.reg (aSapGrpCfg g)) 14 = true) (hslave : bit (s.reg (aSapGrpCfg g)) 11 = false) :
    (bclkReturn g s).sap.noClk.contains g = false ∧ bit ((bclkReturn g s).reg (aSapGrpStat g)) 0 = true := by
  rw [bclkReturn_eq hen hslave]
  extract_lets s2
  have hleaves : s2.SapLeaves (if s.sap.noClk.contains g then foldS (regainClock g) (List.range 8) s2 else s2) := by
    split
    · exact foldS_sapLeaves (regainClock_sapLeaves g) _ s2
    · rfl
  refine ⟨?_, hleaves.flag _ 0 (by unfold aSapGrpStat; omega) ?_⟩
  · rw [hleaves.noClk, State.noClk_withNoClk]
    simp
  · rw [State.reg_withNoClk, State.reg_orReg, if_pos rfl]
    exact bit_or_right (by decide) _

/-! ## The rows -/

/-- An edge on time at a slave port ends its frame with one store of its input. -/
theorem sapFrame_reqs {s : State} {n : Nat} (hframes : s.sapFrames n = true) (hen : bit (s.reg (aSapGrpCfg (n / 8))) 14 = true)
    (hslave : bit (s.reg (aSapGrpCfg (n / 8))) 11 = false) (hclk : s.sap.noClk.contains (n / 8) = false) (hmode : s.sapMode = .routed)
    (hent : s.pwr.entering = none) (hbegan : (s.port n).began = true) (hdiscard : (s.port n).discard = false)
    (hzeroed : (s.port n).zeroed = false) (hnext : s.nearPeriod = (s.port n).period + 1) {x : RtRun} (hroute : s.inRoutes n = [x])
    {pl : Nat × Nat} (hplace : x.place ((s.port n).period + 1) = some pl)
    (hblock : inBlock (x.route.addr + pl.1 * x.route.stride + pl.2 * (x.route.last - x.route.first + 1) * (x.route.width + 1))
      ((x.route.last - x.route.first + 1) * (x.route.width + 1)) = true) (din : List (Bool × Bool)) :
    (sapFrame n (s.grpF (n / 8)) din s).memc.reqs = s.memc.reqs ++ [{
      id := s.memc.nextId, ini := .route, kind := .store
      addr := s.routeAddr (x.route.addr + pl.1 * x.route.stride + pl.2 * (x.route.last - x.route.first + 1) * (x.route.width + 1))
      len := (x.route.last - x.route.first + 1) * (x.route.width + 1)
      data := x.inBytes (sapBits (fld (s.reg (aSapCfg n)) 10 2)) (s.port n).din
      cst := 0, cls := 3, here := false, mask := none, st := .waiting }] := by
  have hnew : (s.port n).began = true → (s.port n).period ≠ s.nearPeriod := fun _ => by omega
  obtain ⟨found, hframe⟩ := sapFrame_eq hframes hen (fun h => absurd h (by simp [hslave])) (fun h => absurd (hmode.symm.trans h) (by decide)) hclk
    hnew (s.grpF (n / 8)) din
  have hcut : s.sapCut n (s.grpF (n / 8)) = false := by simp [State.sapCut]
  have hwas : (s.port n).was = some (s.port n).period := if_pos hbegan
  rw [hframe, hcut, hwas]
  obtain ⟨hedge, hedgeMemc⟩ := sapEdge_kept n (s.grpF (n / 8)) false s
  set e := sapEdge n (s.grpF (n / 8)) false s
  have hlate : State.FrameKept n s (sapLate n e) := hedge.trans (sapLate_frameKept n e)
  have hended : sapEnd n false e = (sapInput n ((s.port n).period + 1) (s.port n).din (sapLate n e)).onPort n (SapPort.ended false) := by
    rw [sapEnd_of_began (hedge.began.trans hbegan), hedge.discard, hdiscard, hedge.zeroed, hzeroed, hedge.period, hlate.din]
    rfl
  have hnear : ((sapEnd n false e).onPort n (SapPort.edged found)).nearPeriod = s.nearPeriod :=
    (hedge.toSapLeaves.trans ((sapEnd_spec n false e).1.toSapLeaves.trans (State.onPort_sapLeaves ..))).nearPeriod
  have hinput := sapInput_reqs (hlate.sapMode.trans hmode) ((congrArg Pwr.entering hlate.pwr).trans hent)
    (s := sapLate n e) (n := n) (x := x) ((congrArg _ hlate.routes).trans hroute) hplace hblock (s.port n).din
  rw [hlate.routeAddr, hlate.reg_cfg, sapLate_memc, hedgeMemc] at hinput
  rw [sapBegin_memc (by rw [hnear, hnext]; simp), hended]
  exact hinput

/-- Settles O40: a framing port's edge begins its frame on what the end of the frame before leaves; the routes' writes and reads are those of
their blocks; missing edges and lost clocks leave the flags they set. -/
theorem sapFrameRows : Obligations.SapFrameRows := by
  unfold Obligations.SapFrameRows
  refine ⟨?frame, ?input, ?read, ?ack, ?missing, ?ignored, ?clock⟩
  case frame =>
    intro s n bclk din hframes hen hphase hzero hclk hnew
    obtain ⟨u, hu, hframe⟩ := sapFrame_begins hframes hen hphase hzero hclk hnew bclk din
    obtain ⟨hleaves, hbegan, -⟩ := sapBegin_port n true (s.port n).was din u
    obtain ⟨hperiod, hdin, hdout⟩ := sapBegin_output (s := u) (hu.nearPeriod ▸ SapPort.was_ne hnew) true din
    rw [hu.nearPeriod] at hperiod hdout
    rw [hu.carries, hu.reg_cfg, hu.reg_outMask, hu.idleSlot] at hdout
    refine ⟨_, congrArg Host.Outcome.next hframe, hbegan, hperiod, hdin.trans (hu.sapSamples n din), hleaves.mem.trans hu.mem, ?_, ?_⟩
    · exact hdout.length_eq.symm.trans List.length_range
    · exact fun j hj => State.Carries.at_range hdout hj
  case input =>
    intro s n din hframes hen hslave hclk hmode hent hbegan hdiscard hzeroed hnext x _ hroute _ pl hpl hblock
    exact ⟨_, rfl, sapFrame_reqs hframes hen hslave hclk hmode hent hbegan hdiscard hzeroed hnext hroute hpl hblock din⟩
  case read =>
    intro s r hfclk x hx hkind hlive hmode hgets hbridge hzeros hframe _ half hhalf
    obtain rfl := List.mem_singleton.mp hhalf
    have hread := sapOutputRead_eq hfclk hx hkind hlive hmode hgets hbridge hzeros hframe
    dsimp only at hread
    rw [beats_cons (Nat.mul_pos (by omega) (by omega))] at hread
    exact ⟨_, congrArg Host.Outcome.next hread, foldS_getBlock ..⟩
  case ack =>
    intro s p _ hkind hputs _ st hst hend
    have hopen : st.open_ = false := by rcases hend with rfl | rfl <;> rfl
    obtain ⟨hack, hrest⟩ := sapWriteAck_last hputs hkind hst hopen
    refine ⟨_, congrArg Host.Outcome.next hack, ?_, sapPeriodWritten_last .., fun hfinal => sapPeriodWritten_final hfinal _, ?_⟩
    · rw [sapPeriodWritten, State.orRegIf_sap]
      exact hrest
    · rintro rfl
      obtain ⟨hflag, hcount⟩ := sapLose_reg p (s.acked p.id)
      exact ⟨sapPeriodWritten_flag hflag, (sapPeriodWritten_drop ..).trans hcount⟩
  case missing =>
    intro s n din hframes hen hslave hclk hbegan hmode
    exact ⟨_, rfl, frameMissing_spec hframes hen hslave hclk hbegan hmode din⟩
  case ignored =>
    intro s n bclk din hen hslave hclk hmode
    exact ⟨_, congrArg Host.Outcome.next (sapFrame_ignored hen hslave hclk hmode bclk din), sapIgnore_spec n s⟩
  case clock =>
    intro s g hen hslave
    exact ⟨fun hclk hmode => ⟨_, rfl, bclkLost_spec g.isLt hen hslave hclk hmode⟩, ⟨_, rfl, bclkReturn_spec hen hslave⟩⟩

end Sys2Proof.Machine
end

section
/-! Every command and every step: the queue stays as it is, and memory, registers and flash keep their canonical form (spec/opcode_table.json;
spec/07_memory.md, Memory system; spec/20_register_index.md, R712, R713). -/

namespace Sys2Proof.Machine

theorem issueStep_getD_keeps {s₀ s : State} (k : Fin 144) (t : Fin 4) (i : IssueInfo) (h : Keeps s₀ s) :
    Keeps s₀ ((issueStep k t i s).getD s) := by
  cases e : issueStep k t i s with
  | none => exact h
  | some u => exact issueStep_keeps k t i e h

/-- Every command answers a next state, with the queue and the canonical form as they were. -/
theorem exec_keeps (c : Instr) (s : State) : ∃ t, exec c s = .next t ∧ Keeps s t := by
  have h := Keeps.refl s
  cases c with
  | sampleBoundary => exact ⟨_, rfl, ite_keeps (sapPeriod_keeps (sapAwait_keeps (gpioEdge_keeps (sampleBoundary_keeps h)))) h⟩
  | tideFrameBoundary => exact ⟨_, rfl, frameBoundary_keeps h⟩
  | referenceUpdate _ => exact ⟨_, rfl, ite_keeps h (referenceUpdate_keeps _ (refUsed_keeps _ h))⟩
  | lockAchieved => exact ⟨_, rfl, lockAchieved_keeps h⟩
  | holdoverEntry _ => exact ⟨_, rfl, holdoverEntry_keeps _ h⟩
  | referenceReturn => exact ⟨_, rfl, referenceReturn_keeps h⟩
  | fallbackSwitch => exact ⟨_, rfl, fallbackSwitch_keeps h⟩
  | sampleCountStep => exact ⟨_, rfl, sampleCountStep_keeps h⟩
  | tideRateRestart => exact ⟨_, rfl, rateRestart_keeps h⟩
  | compareMatch _ => exact ⟨_, rfl, compareMatch_keeps _ h⟩
  | compareGpioOutput => exact ⟨_, rfl, compareGpioOutput_keeps h⟩
  | cmpTgtLowWrite _ _ => exact ⟨_, rfl, cmpTgtLow_keeps _ _ h⟩
  | cmpArm _ _ => exact ⟨_, rfl, cmpArm_keeps _ _ h⟩
  | cmpModeOff _ _ => exact ⟨_, rfl, cmpCtlWrite_keeps _ _ h⟩
  | snapshot => exact ⟨_, rfl, snapshot_keeps h⟩
  | tempoPush => exact ⟨_, rfl, tempoSoft_keeps _ h⟩
  | locatePush => exact ⟨_, rfl, tempoSoft_keeps _ h⟩
  | tempoQueueFlush => exact ⟨_, rfl, tempoFlush_keeps h⟩
  | tempoEntryApply => exact ⟨_, rfl, tempoEntryApply_keeps h⟩
  | tideRefWrite _ => exact ⟨_, rfl, tideRefWrite_keeps _ h⟩
  | bundleIssue _ _ _ => exact ⟨_, rfl, issueStep_getD_keeps _ _ _ h⟩
  | longOpRetire _ _ _ _ => exact ⟨_, rfl, longRetire_keeps _ _ _ _ _ h⟩
  | waittRelease _ _ _ =>
    refine ⟨_, rfl, ?_⟩
    split
    · exact ite_keeps (issueStep_getD_keeps _ _ _ h) h
    · exact h
  | interruptEntry _ _ _ => exact ⟨_, rfl, interruptEntry_keeps _ _ _ _ h⟩
  | farAccessResponse _ _ _ _ => exact ⟨_, rfl, ite_keeps (fetchArrive_keeps _ _ _ _ h) (ite_keeps (fillArrive_keeps _ _ _ _ _ h) (farArrive_keeps _ _ _ _ _ h))⟩
  | iCacheLineFill _ _ _ _ => exact ⟨_, rfl, fetchArrive_keeps _ _ _ _ h⟩
  | postedWriteAck _ _ _ _ => exact ⟨_, rfl, postedAck_keeps _ _ _ _ h⟩
  | storeBufferDrain _ _ _ => exact ⟨_, rfl, sbDrain_keeps _ _ _ h⟩
  | icacheInvalidate _ => exact ⟨_, rfl, icInvalidate_keeps _ h⟩
  | dcacheInvalidate _ => exact ⟨_, rfl, dcInvalidate_keeps _ h⟩
  | coreCounterClear _ => exact ⟨_, rfl, counterClear_keeps _ h⟩
  | ptimerExpire _ _ _ => exact ⟨_, rfl, ptimerExpire_keeps _ _ _ h⟩
  | sourceLevelChange _ => exact ⟨_, rfl, sourceLevelChange_keeps _ h⟩
  | icClaim _ _ => exact ⟨_, rfl, icClaimRow_keeps _ _ h⟩
  | icDone _ _ => exact ⟨_, rfl, icDone_keeps _ _ h⟩
  | holdoffEnd _ => exact ⟨_, rfl, setSrc_keeps _ _ h⟩
  | icDbell _ _ => exact ⟨_, rfl, icDbell_keeps _ _ h⟩
  | icPendSet _ _ _ => exact ⟨_, rfl, icPend_keeps _ _ _ _ h⟩
  | icPendClr _ _ _ => exact ⟨_, rfl, icPend_keeps _ _ _ _ h⟩
  | icMaskSet _ _ _ => exact ⟨_, rfl, icMask_keeps _ _ _ _ h⟩
  | icMaskClr _ _ _ => exact ⟨_, rfl, icMask_keeps _ _ _ _ h⟩
  | icSrcCfgWrite _ _ _ => exact ⟨_, rfl, icSrcCfg_keeps _ _ _ h⟩
  | watchdogFire _ _ => exact ⟨_, rfl, watchdogFire_keeps _ _ h⟩
  | commitDeadline _ => exact ⟨_, rfl, commitDeadline_keeps _ h⟩
  | commit _ => exact ⟨_, rfl, commitRow_keeps _ h⟩
  | localUeDetect _ _ _ _ =>
    refine ⟨_, rfl, ?_⟩
    split
    next hnote => exact faultAfter_keeps _ _ _ _ (takeNote_keeps _ _ hnote h)
    next => exact h
  | parityDetect _ _ => exact ⟨_, rfl, faultAfter_keeps _ _ _ _ h⟩
  | residueMismatch _ _ => exact ⟨_, rfl, faultAfter_keeps _ _ _ _ h⟩
  | stateFault _ _ _ => exact ⟨_, rfl, noteTaken_keeps _ _ _ h⟩
  | takeOverRelease _ => exact ⟨_, rfl, takeOverRelease_keeps _ _ h⟩
  | replayRestart _ _ => exact ⟨_, rfl, replayRestart_keeps _ _ h⟩
  | degradedExit => exact ⟨_, rfl, ite_keeps (ite_keeps (neapUnits_keeps (setMode_keeps _ h)) (setMode_keeps _ h)) h⟩
  | logPop => exact ⟨_, rfl, popLog_keeps h⟩
  | faultInjection _ _ => exact ⟨_, rfl, faultInjection_keeps _ _ _ h⟩
  | injectedFaultRaise _ _ =>
    refine ⟨_, rfl, ?_⟩
    split
    · exact ite_keeps (watchdogFire_keeps _ _ h) (ite_keeps (faultAfter_keeps _ _ _ _ (setLc_keeps _ _ h)) h)
    · exact h
  | verify _ => exact ⟨_, rfl, loaderNext_keeps _ (qfaCmdWrite_keeps _ _ _ h)⟩
  | pitch _ => exact ⟨_, rfl, loaderNext_keeps _ (qfaCmdWrite_keeps _ _ _ h)⟩
  | fetch _ _ => exact ⟨_, rfl, loaderNext_keeps _ (qfaCmdWrite_keeps _ _ _ h)⟩
  | store _ _ => exact ⟨_, rfl, loaderNext_keeps _ (qfaCmdWrite_keeps _ _ _ h)⟩
  | arbCommit _ => exact ⟨_, rfl, loaderNext_keeps _ (qfaCmdWrite_keeps _ _ _ h)⟩
  | abandon _ => exact ⟨_, rfl, loaderNext_keeps _ (qfaCmdWrite_keeps _ _ _ h)⟩
  | qfaCmdUndefined _ _ => exact ⟨_, rfl, qfaCmdWrite_keeps _ _ _ h⟩
  | checksComplete => exact ⟨_, rfl, loaderNext_keeps _ (checksComplete_keeps h)⟩
  | fetchComplete => exact ⟨_, rfl, loaderNext_keeps _ (fetchComplete_keeps h)⟩
  | storeComplete => exact ⟨_, rfl, loaderNext_keeps _ (storeComplete_keeps h)⟩
  | pitchB0 => exact ⟨_, rfl, ite_keeps (pitchB0_keeps h) h⟩
  | applyEnd => exact ⟨_, rfl, loaderNext_keeps _ (applyEnd_keeps h)⟩
  | releasePoint _ => exact ⟨_, rfl, releasePoint_keeps _ h⟩
  | stagedReadUe _ => exact ⟨_, rfl, loaderNext_keeps _ (stagedReadUe_keeps _ h)⟩
  | repitchStop => exact ⟨_, rfl, repitchStopRow_keeps h⟩
  | repitchApplyEnd =>
    refine ⟨_, rfl, ?_⟩
    split
    · exact ite_keeps (applyPartial_keeps _ h) h
    · exact h
  | repitchStart => exact ⟨_, rfl, repitchStartRow_keeps h⟩
  | fabricAccess _ _ => exact ⟨_, rfl, fabricAccess_keeps _ _ h⟩
  | eccWriteBack _ => exact ⟨_, rfl, eccWriteBack_keeps _ _ h⟩
  | requestLift _ => exact ⟨_, rfl, requestLift_keeps _ _ h⟩
  | localStarvation _ _ => exact ⟨_, rfl, localStarvation_keeps _ _ h⟩
  | scrubPassStart _ => exact ⟨_, rfl, scrubPassStart_keeps _ h⟩
  | scrubWordRead _ _ _ => exact ⟨_, rfl, scrubWordRead_keeps _ _ _ h⟩
  | scrubPassEnd _ => exact ⟨_, rfl, scrubPassEnd_keeps _ h⟩
  | bankWakeComplete _ _ => exact ⟨_, rfl, bankWakeComplete_keeps _ _ h⟩
  | bankIdlePowerDown _ => exact ⟨_, rfl, bankIdlePowerDown_keeps _ h⟩
  | memcUePop => exact ⟨_, rfl, popUe_keeps h⟩
  | move _ => exact ⟨_, rfl, fryRun_keeps _ _ h⟩
  | movx _ => exact ⟨_, rfl, fryRun_keeps _ _ h⟩
  | ferryLoop _ => exact ⟨_, rfl, fryRun_keeps _ _ h⟩
  | endl _ => exact ⟨_, rfl, fryRun_keeps _ _ h⟩
  | waitTideCompare _ => exact ⟨_, rfl, fryRun_keeps _ _ h⟩
  | waitEventFifo _ => exact ⟨_, rfl, fryRun_keeps _ _ h⟩
  | waitFlag _ => exact ⟨_, rfl, fryRun_keeps _ _ h⟩
  | ferryWaitRelease _ => exact ⟨_, rfl, ite_keeps (fryWaitEnd_keeps _ h) h⟩
  | signalInterrupt _ => exact ⟨_, rfl, fryRun_keeps _ _ h⟩
  | signalSetFlag _ => exact ⟨_, rfl, fryRun_keeps _ _ h⟩
  | signalClearFlag _ => exact ⟨_, rfl, fryRun_keeps _ _ h⟩
  | fence _ => exact ⟨_, rfl, fryRun_keeps _ _ h⟩
  | crcInit _ => exact ⟨_, rfl, fryRun_keeps _ _ h⟩
  | crcFold _ => exact ⟨_, rfl, fryRun_keeps _ _ h⟩
  | crcStore _ => exact ⟨_, rfl, fryRun_keeps _ _ h⟩
  | park _ => exact ⟨_, rfl, fryRun_keeps _ _ h⟩
  | parkWake _ => exact ⟨_, rfl, ite_keeps (fryWake_keeps _ h) h⟩
  | jump _ => exact ⟨_, rfl, fryRun_keeps _ _ h⟩
  | endProg _ => exact ⟨_, rfl, fryRun_keeps _ _ h⟩
  | ferryNop _ => exact ⟨_, rfl, fryRun_keeps _ _ h⟩
  | ferryFetch _ _ => exact ⟨_, rfl, ite_keeps (fryFetched_keeps _ h) h⟩
  | ferryReadData _ _ => exact ⟨_, rfl, fryReadData_keeps _ _ h⟩
  | ferryWriteAck _ _ => exact ⟨_, rfl, fryWriteAck_keeps _ _ h⟩
  | start _ => exact ⟨_, rfl, fryStart_keeps _ h⟩
  | pause _ => exact ⟨_, rfl, fryPause_keeps _ h⟩
  | resume _ => exact ⟨_, rfl, fryResume_keeps _ h⟩
  | stop _ => exact ⟨_, rfl, fryStop_keeps _ h⟩
  | abort _ => exact ⟨_, rfl, abortRow_keeps _ _ h⟩
  | clear _ => exact ⟨_, rfl, fryClear_keeps _ h⟩
  | ferryCmdUndefined _ => exact ⟨_, rfl, fryRefuse_keeps _ h⟩
  | ferryPcWrite _ _ _ => exact ⟨_, rfl, fryRegWrite_keeps _ _ _ h⟩
  | flagSet _ _ => exact ⟨_, rfl, flagWord_keeps _ _ _ h⟩
  | flagClr _ _ => exact ⟨_, rfl, flagWord_keeps _ _ _ h⟩
  | sapFrame _ _ _ => exact ⟨_, rfl, sapFrame_keeps _ _ _ h⟩
  | frameMissing _ _ => exact ⟨_, rfl, frameMissing_keeps _ _ h⟩
  | bclkLost _ => exact ⟨_, rfl, bclkLost_keeps _ h⟩
  | bclkReturn _ => exact ⟨_, rfl, bclkReturn_keeps _ h⟩
  | sapInputWriteAck _ => exact ⟨_, rfl, sapWriteAck_keeps _ h⟩
  | sapOutputRead _ => exact ⟨_, rfl, sapOutputRead_keeps _ h⟩
  | sapGrpCfgWrite _ _ => exact ⟨_, rfl, grpCfgWrite_keeps _ _ h⟩
  | sapCfgWrite _ _ => exact ⟨_, rfl, sapCfgWrite_keeps _ _ h⟩
  | sapPortStart _ => exact ⟨_, rfl, sapPortStart_keeps _ h⟩
  | sapGateWrite _ _ => exact ⟨_, rfl, sapGateWrite_keeps _ _ h⟩
  | linkEnable _ => exact ⟨_, rfl, strCtlWrite_keeps _ _ h⟩
  | linkRetrain _ => exact ⟨_, rfl, linkRetrain_keeps _ h⟩
  | trainingEnd _ _ => exact ⟨_, rfl, trainingEnd_keeps _ _ h⟩
  | flitReceive _ _ => exact ⟨_, rfl, flitReceive_keeps _ _ (fecCount_keeps _ _ h)⟩
  | replayTimeout _ => exact ⟨_, rfl, ite_keeps (strReplay_keeps _ h) h⟩
  | linkBudgetExpire _ => exact ⟨_, rfl, ite_keeps h (strFail_keeps _ h)⟩
  | laneLockLoss _ => exact ⟨_, rfl, ite_keeps (crossingReset_keeps _ _ (strFail_keeps _ h)) h⟩
  | rd _ _ => exact ⟨_, rfl, rdRow_keeps _ _ h⟩
  | wr _ _ => exact ⟨_, rfl, wrRow_keeps _ _ h⟩
  | cpl _ => exact ⟨_, rfl, strCpl_keeps _ h⟩
  | wack _ => exact ⟨_, rfl, strWack_keeps _ h⟩
  | pwfn _ => exact ⟨_, rfl, strPwfn_keeps _ h⟩
  | transactionTimeout _ _ =>
    refine ⟨_, rfl, ?_⟩
    split
    · exact ite_keeps (strFlag_keeps _ _ (strEnd_keeps _ _ _ _ _ h)) h
    · exact h
  | wfqPop _ => exact ⟨_, rfl, wfqPop_keeps _ h⟩
  | strTtoWrite _ _ => exact ⟨_, rfl, strTtoWrite_keeps _ _ h⟩
  | streamBlockSend _ => exact ⟨_, rfl, streamSend_keeps _ h⟩
  | streamFlit _ => exact ⟨_, rfl, streamTake_keeps _ h⟩
  | streamBlockDeadline _ => exact ⟨_, rfl, streamDeadline_keeps _ h⟩
  | hello _ => exact ⟨_, rfl, helloTake_keeps _ h⟩
  | helloTimer => exact ⟨_, rfl, helloAll_keeps h⟩
  | beacon _ => exact ⟨_, rfl, beaconTake_keeps _ h⟩
  | tempo _ => exact ⟨_, rfl, tempoTake_keeps _ h⟩
  | delay _ _ _ =>
    refine ⟨_, rfl, ?_⟩
    split
    next => exact h
    next hrx =>
      have h1 := takeRx_keeps hrx h
      split
      · exact mgmtSend_keeps _ _ h1
      · exact ite_keeps (setReg_keeps _ _ (onLink_keeps _ _ h1)) h1
  | delayTimer _ => exact ⟨_, rfl, delayTimer_keeps _ h⟩
  | memberLoss _ => exact ⟨_, rfl, memberLoss_keeps _ h⟩
  | commandFragment _ => exact ⟨_, rfl, commandFragment_keeps _ h⟩
  | responseFragment _ => exact ⟨_, rfl, responseFragment_keeps _ h⟩
  | pcieLinkUp _ _ => exact ⟨_, rfl, pcieLinkUp_keeps _ _ h⟩
  | pcieMemoryRead _ _ _ _ => exact ⟨_, rfl, hostRead_keeps _ _ _ _ h⟩
  | pcieMemoryWrite _ _ _ _ => exact ⟨_, rfl, hostWrite_keeps _ _ _ _ _ h⟩
  | msixUnmask _ _ => exact ⟨_, rfl, msixFlush_keeps h⟩
  | functionReset _ => exact ⟨_, rfl, functionReset_keeps _ h⟩
  | mbInWrite _ _ => exact ⟨_, rfl, mbInWrite_keeps _ _ h⟩
  | mbGo _ => exact ⟨_, rfl, mbGo_keeps _ h⟩
  | mbAck _ => exact ⟨_, rfl, mbAck_keeps _ h⟩
  | ethModeTimeout _ => exact ⟨_, rfl, ite_keeps (onEth_keeps _ _ h) h⟩
  | ethLinkLoss _ => exact ⟨_, rfl, ethLoss_keeps _ h⟩
  | ethFrameReceive _ _ _ _ => exact ⟨_, rfl, ethReceive_keeps _ _ _ (ptpNow_keeps _ _ h)⟩
  | ethFrameSend _ _ _ _ => exact ⟨_, rfl, ethSend_keeps _ _ _ (ptpNow_keeps _ _ h)⟩
  | aafTalkerSend _ => exact ⟨_, rfl, aafSend_keeps _ h⟩
  | crfTalkerSend _ => exact ⟨_, rfl, crfSend_keeps _ h⟩
  | listenerFill _ => exact ⟨_, rfl, listenerFill_keeps _ h⟩
  | streamEntryCfgWrite _ _ _ => exact ⟨_, rfl, entryCfgWrite_keeps _ _ _ h⟩
  | txhWrite _ _ => exact ⟨_, rfl, txhWrite_keeps _ _ h⟩
  | txfWrite _ _ => exact ⟨_, rfl, txfWrite_keeps _ _ h⟩
  | rxfRead _ => exact ⟨_, rfl, (rxfRead_keeps _ h).of_eq rfl rfl rfl rfl⟩
  | ptpSet _ _ _ => exact ⟨_, rfl, ptpSet_keeps _ _ (ptpNow_keeps _ _ h)⟩
  | mr4Poll _ _ => exact ⟨_, rfl, orRegIf_keeps _ _ _ (setReg_keeps _ _ h)⟩
  | ddrTracking _ => exact ⟨_, rfl, orRegIf_keeps _ _ _ h⟩
  | flashRenegotiate _ => exact ⟨_, rfl, flashReneg_keeps _ h⟩
  | commandEnvelope => exact ⟨_, rfl, commandEnvelope_keeps h⟩
  | setModeAnchorReset _ => exact ⟨_, rfl, anchorReset_keeps _ h⟩
  | secCpGo _ => exact ⟨_, rfl, secCpGo_keeps _ h⟩
  | secCpAck _ => exact ⟨_, rfl, secCpAck_keeps _ h⟩
  | journalAppend _ _ => exact ⟨_, rfl, ite_keeps (jrnlWr_keeps _ h) h⟩
  | journalRead _ _ => exact ⟨_, rfl, ite_keeps (jrnlRd_keeps _ h) h⟩
  | eviPinChange _ _ _ => exact ⟨_, rfl, evPinChange_keeps _ _ _ h⟩
  | eviChangeAccept _ _ => exact ⟨_, rfl, evChangeAccept_keeps _ _ h⟩
  | eviEntryPop g => exact ⟨_, rfl, (evPop_keeps g h).of_eq rfl rfl rfl rfl⟩
  | eviFlush _ _ => exact ⟨_, rfl, evFlush_keeps _ _ h⟩
  | eviPinCfgWrite _ _ => exact ⟨_, rfl, evPinCfg_keeps _ _ h⟩
  | qposWrite _ _ _ => exact ⟨_, rfl, setReg_keeps _ _ h⟩
  | gpioSet _ _ => exact ⟨_, rfl, gpioSet_keeps _ _ h⟩
  | gpioClr _ _ => exact ⟨_, rfl, gpioClr_keeps _ _ h⟩
  | gpioTgl _ _ => exact ⟨_, rfl, gpioTgl_keeps _ _ h⟩
  | gpioOutWrite _ _ => exact ⟨_, rfl, gpioOut_keeps _ _ h⟩
  | gpioInputEdge _ _ => exact ⟨_, rfl, gpioInput_keeps _ _ h⟩
  | pinSwitch _ _ _ => exact ⟨_, rfl, ite_keeps (gpioOeWrite_keeps _ _ h) (pinSelWrite_keeps _ _ h)⟩
  | pinSwitchApply _ => exact ⟨_, rfl, pinSwitchApply_keeps _ h⟩
  | opRequest _ _ => exact ⟨_, rfl, opRequest_keeps _ _ h⟩
  | cclkLower _ => exact ⟨_, rfl, cclkLower_keeps _ h⟩
  | voutCommandAck => exact ⟨_, rfl, voutCommandAck_keeps h⟩
  | readVout _ => exact ⟨_, rfl, readVout_keeps _ h⟩
  | settleExpire => exact ⟨_, rfl, settleExpire_keeps h⟩
  | cclkRaise _ => exact ⟨_, rfl, cclkRaise_keeps _ h⟩
  | pmbusTimeout => exact ⟨_, rfl, pmbusTimeout_keeps h⟩
  | vrRetry => exact ⟨_, rfl, vrRetry_keeps h⟩
  | pllUnlock _ => exact ⟨_, rfl, orReg_keeps _ _ (orReg_keeps _ _ h)⟩
  | pllRelock _ => exact ⟨_, rfl, clrReg_keeps _ _ h⟩
  | modeRequest _ _ => exact ⟨_, rfl, ite_keeps (modeRequest_keeps _ h) h⟩
  | neapEntry => exact ⟨_, rfl, neapEntry_keeps h⟩
  | neapExit => exact ⟨_, rfl, neapExit_keeps h⟩
  | shoreEntry => exact ⟨_, rfl, shoreEntry_keeps h⟩
  | shoreExit => exact ⟨_, rfl, shoreExit_keeps h⟩
  | lowPowerEntry => exact ⟨_, rfl, lowPowerEntry_keeps h⟩
  | wake _ _ _ => exact ⟨_, rfl, wake_keeps _ _ _ h⟩
  | bivouacReturn => exact ⟨_, rfl, bivouacReturn_keeps h⟩
  | lanternBoot _ => exact ⟨_, rfl, lanternBoot_keeps _ h⟩
  | rtcCompareReached _ _ => exact ⟨_, rfl, rtcReached_keeps _ _ h⟩
  | wokeClear => exact ⟨_, rfl, wokeClear_keeps h⟩
  | cpAddressMatch _ => exact ⟨_, rfl, cpAddressMatch_keeps _ h⟩
  | cpWrite _ _ => exact ⟨_, rfl, ite_keeps (cpEnd_keeps (cpBytes_keeps _ _ _ h)) h⟩
  | cpRead _ _ => exact ⟨_, rfl, cpRead_keeps _ _ h⟩
  | extest _ => exact ⟨_, rfl, tapTest_keeps _ _ _ h⟩
  | samplePreload _ => exact ⟨_, rfl, h.of_eq rfl rfl rfl rfl⟩
  | idcode => exact ⟨_, rfl, h.of_eq rfl rfl rfl rfl⟩
  | clamp => exact ⟨_, rfl, tapTest_keeps _ _ _ h⟩
  | highz => exact ⟨_, rfl, tapTest_keeps _ _ _ h⟩
  | extestPulse _ => exact ⟨_, rfl, tapTest_keeps _ _ _ h⟩
  | extestTrain _ => exact ⟨_, rfl, tapTest_keeps _ _ _ h⟩
  | bypass _ => exact ⟨_, rfl, ite_keeps h (tapBypass_keeps h)⟩
  | dbgacc _ _ _ _ => exact ⟨_, rfl, dbgacc_keeps _ _ _ _ h⟩
  | haltRequest => exact ⟨_, rfl, haltRequest_keeps h⟩
  | haltRelease => exact ⟨_, rfl, haltRelease_keeps h⟩
  | tempUpdate _ => exact ⟨_, rfl, tempUpdate_keeps _ h⟩
  | coldReset => exact ⟨_, rfl, ite_keeps h (onPwr_keeps _ (coldState_keeps h))⟩
  | powerOnRelease _ => exact ⟨_, rfl, powerOn_keeps _ h⟩
  | resetNLow => exact ⟨_, rfl, ite_keeps (setMuteHold_keeps (onPwr_keeps _ h)) (onPwr_keeps _ h)⟩
  | warmReset => exact ⟨_, rfl, ite_keeps (warmReset_keeps _ h) h⟩
  | resetNRise => exact ⟨_, rfl, resetRise_keeps h⟩
  | clusterReset _ _ _ => exact ⟨_, rfl, ite_keeps (clusterReset_keeps _ _ h) h⟩
  | clusterResetComplete _ => exact ⟨_, rfl, clusterResetDone_keeps _ h⟩
  | muteSet _ _ => exact ⟨_, rfl, ite_keeps (muteSet_keeps _ h) h⟩
  | bootFromFlash _ => exact ⟨_, rfl, loaderNext_keeps _ (bootRun_keeps _ h)⟩
  | registerWrite _ _ _ => exact ⟨_, rfl, ite_keeps (regWrite_keeps _ _ _ _ h) h⟩
  | registerReadClear _ _ => exact ⟨_, rfl, ite_keeps ((regRead_keeps _ _ _ _ h).of_eq rfl rfl rfl rfl) h⟩
  | strandSignalReturn _ => exact ⟨_, rfl, ite_keeps (strTrain_keeps _ h) h⟩
  | flitSend _ => exact ⟨_, rfl, flitSend_keeps _ h⟩
  | ethLinkUp _ => exact ⟨_, rfl, ite_keeps (ethFlag_keeps _ _ (setReg_keeps _ _ h)) h⟩
  | gptpMessageTimer _ _ _ => exact ⟨_, rfl, ptpTimer_keeps _ _ (ptpNow_keeps _ _ h)⟩
  | vrReadbackTimeout =>
    refine ⟨_, rfl, ?_⟩
    split
    · exact vrFail_keeps h
    · exact h
  | journalOperationComplete _ => exact ⟨_, rfl, journalComplete_keeps _ h⟩
  | flashRenegotiationComplete _ _ => exact ⟨_, rfl, ite_keeps (flashSettle_keeps _ _ h) h⟩
  | lowPowerEntryComplete => exact ⟨_, rfl, lowPowerDone_keeps h⟩
  | suppliesValid => exact ⟨_, rfl, ite_keeps (onPwr_keeps _ (coldState_keeps h)) h⟩
  | perstNRelease => exact ⟨_, rfl, h.of_eq rfl rfl rfl rfl⟩

theorem step_cons (s : State) (c : Instr) : step { s with pending := c :: s.pending } = exec c s := rfl

theorem step_of_pending_nil {s : State} (h : s.pending = []) : step s = .next (tkEdge s) := by
  rw [step, h]

theorem step_of_pending_cons {s : State} {c : Instr} {cs : List Instr} (h : s.pending = c :: cs) :
    step s = exec c { s with pending := cs } := by
  rw [step, h]

/-- Settles O1: a step is its front command by definition, and an edge of TKCLK keeps the queue. -/
theorem stepRunsTheFront : Obligations.StepRunsTheFront :=
  ⟨step_cons, fun s h => ⟨step_of_pending_nil h, (tkEdge_keeps (.refl s)).1.trans h⟩⟩

/-- Settles O2, by the commands one by one. -/
theorem everyCommandCompletesAndLeavesTheQueue : Obligations.EveryCommandCompletesAndLeavesTheQueue := fun s c =>
  let ⟨t, hexec, hkeeps⟩ := exec_keeps c s
  ⟨t, hexec, hkeeps.1⟩

/-- Settles O3: a step is one edge of TKCLK or one command, on a state that differs from the first in its queue alone. -/
theorem everyStepKeepsTheCanonicalForm : Obligations.EveryStepKeepsTheCanonicalForm := by
  intro s t hs hstep
  cases hq : s.pending with
  | nil =>
    rw [step_of_pending_nil hq] at hstep
    cases hstep
    exact (tkEdge_keeps (.refl s)).2 hs
  | cons c cs =>
    obtain ⟨u, hexec, hkeeps⟩ := exec_keeps c { s with pending := cs }
    rw [step_of_pending_cons hq, hexec] at hstep
    cases hstep
    exact hkeeps.2 hs

/-- Settles O4: memory, registers and flash list nothing at reset. -/
theorem resetIsCanonical : Obligations.ResetIsCanonical :=
  ⟨by decide, by decide, rfl, rfl, fun _ => rfl⟩

end Sys2Proof.Machine
end

section
/-! Levels on shared sources (spec/13_strand_camps.md, R553; spec/14_host_network_memory.md, R565) and the GPIO pins: their bits, their
edges, and the switch rule (spec/16_events_pins.md, R624 to R630; spec/17_clocks_power.md, R634). -/

namespace Sys2Proof.Machine

/-! ## Levels of blocks -/

/-- One bit as a word has that bit and no other. -/
theorem bit_bitW_eq {i : Nat} (hi : i < 32) (j : Nat) : bit (bitW i) j = decide (j = i) := by
  have htwo : bitW i = BitVec.twoPow 32 i := rfl
  rw [bit, htwo, BitVec.getLsbD_twoPow, decide_eq_true hi, Bool.true_and]
  exact decide_eq_decide.mpr eq_comm

/-- A status bit and its enable hold their level together. -/
theorem lvl_bitW {i : Nat} (hi : i < 32) (stat ien : Word) : lvl stat ien (bitW i) = (bit stat i && bit ien i) := by
  have hw (j : Nat) : (bitW i).getLsbD j = decide (j = i) := bit_bitW_eq hi j
  rw [lvl, Bool.eq_iff_iff, decide_eq_true_iff]
  constructor
  · intro hne
    by_contra hbits
    refine hne (BitVec.eq_of_getLsbD_eq fun j hj => ?_)
    rw [BitVec.getLsbD_and, BitVec.getLsbD_and, hw]
    by_cases hji : j = i
    · subst hji
      simpa [bit] using hbits
    · simp [hji]
  · intro hbits h0
    have hb := congrArg (fun w : Word => w.getLsbD i) h0
    simp only [BitVec.getLsbD_and, hw, decide_true, Bool.and_true] at hb
    have h0' : (0 : Word).getLsbD i = false := by simp
    rw [h0'] at hb
    exact Bool.false_ne_true (hb.symm.trans hbits)

/-- Each link has four sources in a row. -/
theorem sharedLevel_strand (s : State) (n : Fin 8) {line : Nat} (hline : line < 4) :
    s.sharedLevel (160 + line + 4 * n) = s.strLevel n line := by
  have hn := n.isLt
  rw [State.sharedLevel, if_neg (by omega), if_neg (by omega), if_pos (by omega), show (160 + line + 4 * n - 160) / 4 = n.val by omega,
    show (160 + line + 4 * n) % 4 = line by omega]

theorem sharedLevel_pcie (s : State) (i : Fin 8) : s.sharedLevel (200 + i) = lvl s.pcieStat (s.reg aPcieIen) (bitW (8 + i)) := by
  have hi := i.isLt
  rw [State.sharedLevel, if_neg (by omega), if_neg (by omega), if_neg (by omega), if_neg (by omega), if_pos (by omega),
    show 200 + i.val - 200 = i by omega]

/-- Settles O30: each shared source stands in its block's range, and the block's level is read off its status and enable. -/
theorem blockLevelsOnSharedSources : Obligations.BlockLevelsOnSharedSources := by
  refine ⟨fun s i => (sharedLevel_pcie s i).trans (lvl_bitW (by omega) _ _), fun s n => ⟨?_, ?_, ?_, ?_⟩⟩
  · exact sharedLevel_strand s n (line := 0) (by decide)
  · exact sharedLevel_strand s n (line := 1) (by decide)
  · exact sharedLevel_strand s n (line := 2) (by decide)
  · rw [sharedLevel_strand s n (line := 3) (by decide)]
    simp only [State.strLevel, lvl, Fin.ext_iff]
    rfl

/-! ## GPIO words -/

/-- Every pin's bit is one of the defined bits of its word. -/
theorem bit_and_gpMask (j : Fin 72) (v : Word) : bit (v &&& gpMask (j / 32)) (j % 32) = bit v (j % 32) := by
  refine bit_and_of_mask ?_ v
  have h := bit_gpMask j
  rw [bit, BitVec.getLsbD_and, Bool.and_eq_true] at h
  exact h.2

theorem gpBit_gpioSet (j : Fin 72) (v : Word) (s : State) :
    (gpioSet (j / 32) v s).gpBit aGpioOut j = (s.gpBit aGpioOut j || bit v (j % 32)) := by
  rw [State.gpBit, gpioSet, State.reg_orReg, if_pos rfl, bit_or, bit_and_gpMask, State.gpBit]

theorem gpBit_gpioClr (j : Fin 72) (v : Word) (s : State) :
    (gpioClr (j / 32) v s).gpBit aGpioOut j = (s.gpBit aGpioOut j && !bit v (j % 32)) := by
  have hj : (j % 32 : Nat) < 32 := Nat.mod_lt _ (by decide)
  rw [State.gpBit, gpioClr, State.reg_clrReg, if_pos rfl, bit, BitVec.getLsbD_and, BitVec.getLsbD_not, decide_eq_true hj, Bool.true_and]
  rfl

theorem gpBit_gpioTgl (j : Fin 72) (v : Word) (s : State) :
    (gpioTgl (j / 32) v s).gpBit aGpioOut j = (s.gpBit aGpioOut j ^^ bit v (j % 32)) := by
  have h : (v &&& gpMask (j / 32)).getLsbD (j % 32) = bit v (j % 32) := bit_and_gpMask j v
  rw [State.gpBit, gpioTgl, State.reg_setReg, if_pos rfl, bit, BitVec.getLsbD_xor, h]
  rfl

theorem gpWord_val (j : Fin 72) : (Fin.ofNat 3 (j / 32)).val = j / 32 := Nat.mod_eq_of_lt (by omega)

theorem legal_of_lt {id n c : Nat} (h : c < n) : legal id n c = c := if_pos h

/-- What a pin in function 0 drives (R624). -/
theorem fnDrive_of_func_zero {s : State} {j : Nat} (h : fld (s.reg (aPinSel j)) 0 3 = 0) (half : Bool) :
    s.fnDrive j half = if s.gpBit aGpioOe j then
      (if bit (s.reg (aPinSel j)) 11 && s.gpBit aGpioOut j then none else some (s.gpBit aGpioOut j)) else none := by
  simp only [State.fnDrive, h, legal_of_lt (show 0 < 5 by decide)]

/-- Settles O47: the three words act bit by bit, and a pin that no switch holds drives what its function gives. -/
theorem gpioBitOperations : Obligations.GpioBitOperations := by
  refine ⟨fun s j v => ⟨⟨_, rfl, ?_⟩, ⟨_, rfl, ?_⟩, ⟨_, rfl, ?_⟩⟩, fun s j hfunc hhold hbank => ?_⟩
  · rw [gpWord_val, gpBit_gpioSet]
  · rw [gpWord_val, gpBit_gpioClr]
  · rw [gpWord_val, gpBit_gpioTgl]
  · rw [State.pad, hbank, hhold, ← fnDrive_of_func_zero hfunc]
    rfl

/-! ## What pins keep through a switch -/

/-- What pin i holds while a switch of it is on its way. -/
def State.held (s : State) (i : Nat) : Option Drive := smGet (fun _ => none) s.hold i

theorem pad_of_held {s : State} {i : Nat} {d : Drive} (hbank : s.gpBank = true) (h : s.held i = some d) (half : Bool) :
    s.pad i half = d := by
  have hg : smGet (fun _ => none) s.hold i = some d := h
  simp [State.pad, hbank, hg]

theorem pad_of_not_held {s : State} {i : Nat} (h : s.held i = none) (half : Bool) :
    s.pad i half = if s.gpBank then s.fnDrive i half else none := by
  have hg : smGet (fun _ => none) s.hold i = none := h
  cases hb : s.gpBank <;> simp [State.pad, hb, hg]

theorem held_padHold (d : Drive) (j : Nat) (s : State) (i : Nat) :
    (padHold d j s).held i = if i = j then some ((s.held j).getD d) else s.held i := by
  unfold padHold
  by_cases hij : i = j
  · subst hij
    rw [if_pos rfl]
    cases h : smGet (fun _ => none) s.hold i with
    | some d' => simp [State.held, h]
    | none => simp [State.held, h]
  · rw [if_neg hij]
    cases h : smGet (fun _ => none) s.hold j with
    | some d' => rfl
    | none => simp [State.held, hij]

theorem padHold_frame (d : Drive) (j : Nat) (s : State) : padHold d j s = { s with hold := (padHold d j s).hold } := by
  unfold padHold
  split <;> rfl

/-- A pad's switch is registered in each pin of the list in turn. -/
def padHolds (ds : List (Nat × Drive)) (s : State) : State := foldS (fun e s => padHold e.2 e.1 s) ds s

theorem padHolds_frame (ds : List (Nat × Drive)) (s : State) : padHolds ds s = { s with hold := (padHolds ds s).hold } := by
  induction ds generalizing s with
  | nil => rfl
  | cons e ds ih =>
    have hcons : padHolds (e :: ds) s = padHolds ds (padHold e.2 e.1 s) := rfl
    rw [hcons, ih, padHold_frame]

/-- Each listed pin, and no other, holds from then on what it held or else what the list gives it. -/
theorem held_padHolds (f : Nat → Drive) (js : List Nat) (s : State) (i : Nat) :
    (padHolds (js.map fun j => (j, f j)) s).held i = if i ∈ js then some ((s.held i).getD (f i)) else s.held i := by
  induction js generalizing s with
  | nil => rfl
  | cons j js ih =>
    have hcons : padHolds ((j :: js).map fun j => (j, f j)) s = padHolds (js.map fun j => (j, f j)) (padHold (f j) j s) := rfl
    rw [hcons, ih, held_padHold]
    by_cases hij : i = j
    · subst hij
      simp
    · simp [hij]

/-! ## The two switches -/

theorem pinSelWrite_eq (j : Nat) (v : Word) (s : State) :
    pinSelWrite j v s =
      if fld (s.reg (aPinSel j)) 0 3 ≠ fld v 0 3 ∨ bit (s.reg (aPinSel j)) 11 ≠ bit v 11 then
        padHold (s.pad j) j (s.setReg (aPinSel j) (v &&& 0xF77))
      else s.setReg (aPinSel j) (v &&& 0xF77) := rfl

/-- The pins of word k whose enable a write of v changes. -/
def oeChanged (k : Nat) (v : Word) (s : State) : List Nat :=
  ((List.range 32).filter fun b => bit (s.reg (aGpioOe k) ^^^ (v &&& gpMask k)) b).map fun b => 32 * k + b

theorem gpioOeWrite_eq (k : Nat) (v : Word) (s : State) :
    gpioOeWrite k v s = padHolds ((oeChanged k v s).map fun j => (j, s.pad j)) (s.setReg (aGpioOe k) (v &&& gpMask k)) := by
  have hv : (if k = 2 then v &&& 0xFF else v) = v &&& gpMask k := by
    unfold gpMask
    split
    · rfl
    · exact (BitVec.and_allOnes (x := v)).symm
  rw [gpioOeWrite, hv, oeChanged, List.map_map]
  rfl

theorem mem_oeChanged {k : Nat} {v : Word} {s : State} {i : Nat} :
    i ∈ oeChanged k v s ↔ i / 32 = k ∧ bit (s.reg (aGpioOe k)) (i % 32) ≠ bit (v &&& gpMask k) (i % 32) := by
  have hx (b : Nat) : bit (s.reg (aGpioOe k) ^^^ (v &&& gpMask k)) b = (bit (s.reg (aGpioOe k)) b ^^ bit (v &&& gpMask k) b) :=
    BitVec.getLsbD_xor
  simp only [oeChanged, List.mem_map, List.mem_filter, List.mem_range, hx, bne_iff_ne]
  constructor
  · rintro ⟨b, ⟨hb, hne⟩, rfl⟩
    rw [show (32 * k + b) / 32 = k by omega, show (32 * k + b) % 32 = b by omega]
    exact ⟨rfl, hne⟩
  · rintro ⟨rfl, hne⟩
    exact ⟨i % 32, ⟨Nat.mod_lt _ (by decide), hne⟩, by omega⟩

/-- A write of a word of the pins' block leaves what the device outputs and the clock outputs show. -/
theorem outputs_setReg {a : Nat} (ha : 0x400A0000 ≤ a) (v : Word) (s : State) :
    (∀ n h, n < 4 → (s.setReg a v).cko n h = s.cko n h) ∧ (s.setReg a v).muteN = s.muteN ∧ (s.setReg a v).faultN = s.faultN := by
  have hlow (b : Nat) (hb : b < 0x400A0000) : (s.setReg a v).reg b = s.reg b := by rw [State.reg_setReg, if_neg (by omega)]
  refine ⟨fun n h hn => ?_, ?_, ?_⟩
  · have hcko : (s.setReg a v).reg (aTideCko n) = s.reg (aTideCko n) := hlow _ (by simp only [aTideCko]; omega)
    have hcfg : (s.setReg a v).reg aTideCfg = s.reg aTideCfg := hlow _ (by decide)
    simp only [State.cko, State.phaseStep, State.rate, hcko, hcfg, State.setReg_tide]
    rfl
  · simp only [State.muteN, hlow aSysMute (by decide), State.setReg_pwr]
  · simp only [State.faultN, hlow aBwtrStat (by decide)]

/-- A write that keeps a pin's function, its open drain, its enable and its output keeps what the pin's function drives. -/
theorem fnDrive_setReg {a : Nat} (ha : 0x400A0000 ≤ a) {v : Word} {s : State} {i : Nat}
    (hfunc : fld ((s.setReg a v).reg (aPinSel i)) 0 3 = fld (s.reg (aPinSel i)) 0 3)
    (hod : bit ((s.setReg a v).reg (aPinSel i)) 11 = bit (s.reg (aPinSel i)) 11)
    (hoe : (s.setReg a v).gpBit aGpioOe i = s.gpBit aGpioOe i) (hout : a ≠ aGpioOut (i / 32)) :
    (s.setReg a v).fnDrive i = s.fnDrive i := by
  obtain ⟨hcko, hmute, hfault⟩ := outputs_setReg ha v s
  have hgpout : (s.setReg a v).gpBit aGpioOut i = s.gpBit aGpioOut i := by
    rw [State.gpBit, State.reg_setReg, if_neg hout.symm, State.gpBit]
  have hready : (s.setReg a v).ready = s.ready := rfl
  simp only [State.fnDrive, hfunc, hod, hoe, hgpout, hcko _ false (Nat.mod_lt i (by decide)), hmute, hfault, hready]

/-- A pin that a switch leaves as it was, or that a switch makes keep what it drives, drives what it drove. -/
theorem pad_of_switch {s t : State} {i : Nat} (hpwr : t.pwr = s.pwr)
    (h : t.held i = some ((s.held i).getD (s.pad i)) ∨ t.held i = s.held i ∧ t.fnDrive i = s.fnDrive i) : t.pad i = s.pad i := by
  have hbank : t.gpBank = s.gpBank := by rw [State.gpBank, hpwr, State.gpBank]
  cases hb : s.gpBank with
  | false => simp [State.pad, hbank, hb]
  | true =>
    rcases h with hnew | ⟨hheld, hdrive⟩
    · rw [pad_of_held (hbank.trans hb) hnew]
      cases hs : s.held i with
      | some d => exact (pad_of_held hb hs false).symm
      | none => rfl
    · cases hs : s.held i with
      | some d => rw [pad_of_held (hbank.trans hb) (hheld.trans hs), pad_of_held hb hs]
      | none => rw [pad_of_not_held (hheld.trans hs), pad_of_not_held hs, hbank, hdrive]

/-! ## PIN_SWITCH by PIN_SELj -/

theorem pinSelWrite_frame (j : Nat) (v : Word) (s : State) :
    pinSelWrite j v s = { s with regs := (s.setReg (aPinSel j) (v &&& 0xF77)).regs, hold := (pinSelWrite j v s).hold } := by
  rw [pinSelWrite_eq]
  split
  · exact padHold_frame _ _ _
  · rfl

theorem pad_pinSelWrite {j : Nat} (hj : j < 72) (v : Word) (s : State) (i : Nat) : (pinSelWrite j v s).pad i = s.pad i := by
  refine pad_of_switch (by rw [pinSelWrite_frame]) ?_
  have hdrive (hkeep : i = j → fld (s.reg (aPinSel j)) 0 3 = fld v 0 3 ∧ bit (s.reg (aPinSel j)) 11 = bit v 11) :
      (s.setReg (aPinSel j) (v &&& 0xF77)).fnDrive i = s.fnDrive i := by
    have hsel : aPinSel i = aPinSel j ↔ i = j := by simp only [aPinSel]; omega
    have hoe : aGpioOe (i / 32) ≠ aPinSel j := by simp only [aPinSel, aGpioOe]; omega
    refine fnDrive_setReg (by simp only [aPinSel]; omega) ?_ ?_ ?_ (by simp only [aPinSel, aGpioOut]; omega)
    · rw [State.reg_setReg]
      split
      case isTrue h =>
        rw [fld_and_of_mask (by decide), hsel.mp h, (hkeep (hsel.mp h)).1]
      case isFalse => rfl
    · rw [State.reg_setReg]
      split
      case isTrue h => rw [bit_and_of_mask (by decide), hsel.mp h, (hkeep (hsel.mp h)).2]
      case isFalse => rfl
    · rw [State.gpBit, State.reg_setReg, if_neg hoe, State.gpBit]
  rw [pinSelWrite_eq]
  split
  case isTrue hswitch =>
    rw [held_padHold]
    by_cases hij : i = j
    · subst hij
      rw [if_pos rfl]
      exact .inl rfl
    · rw [if_neg hij, padHold_frame]
      exact .inr ⟨rfl, hdrive fun h => absurd h hij⟩
  case isFalse hsame =>
    simp only [not_or, not_not] at hsame
    exact .inr ⟨rfl, hdrive fun _ => hsame⟩

/-! ## PIN_SWITCH by GPIO_OE -/

theorem gpioOeWrite_frame (k : Nat) (v : Word) (s : State) :
    gpioOeWrite k v s = { s with regs := (s.setReg (aGpioOe k) (v &&& gpMask k)).regs, hold := (gpioOeWrite k v s).hold } := by
  rw [gpioOeWrite_eq]
  exact padHolds_frame _ _

theorem held_gpioOeWrite (k : Nat) (v : Word) (s : State) (i : Nat) :
    (gpioOeWrite k v s).held i = if i ∈ oeChanged k v s then some ((s.held i).getD (s.pad i)) else s.held i := by
  rw [gpioOeWrite_eq, held_padHolds]
  rfl

theorem pad_gpioOeWrite {k i : Nat} (hk : k < 3) (v : Word) (s : State) (hi : i < 72) : (gpioOeWrite k v s).pad i = s.pad i := by
  refine pad_of_switch (by rw [gpioOeWrite_frame]) ?_
  rw [held_gpioOeWrite]
  split
  case isTrue => exact .inl rfl
  case isFalse hsame =>
    refine .inr ⟨rfl, ?_⟩
    rw [mem_oeChanged, not_and, not_not] at hsame
    have hsel : aPinSel i ≠ aGpioOe k := by simp only [aPinSel, aGpioOe]; omega
    have hdrive : (s.setReg (aGpioOe k) (v &&& gpMask k)).fnDrive i = s.fnDrive i := by
      refine fnDrive_setReg (by simp only [aGpioOe]; omega) ?_ ?_ ?_ (by simp only [aGpioOe, aGpioOut]; omega)
      · rw [State.reg_setReg, if_neg hsel]
      · rw [State.reg_setReg, if_neg hsel]
      · rw [State.gpBit, State.reg_setReg]
        split
        case isTrue h =>
          have hik : i / 32 = k := by simpa [aGpioOe] using h
          rw [← hsame hik, State.gpBit, hik]
        case isFalse => rfl
    rw [gpioOeWrite_frame]
    exact hdrive

/-- Settles O49: a pin whose drive the switch could change holds what it drove, and the others' words keep what they drive by. -/
theorem switchedPadsKeepTheirLevel : Obligations.SwitchedPadsKeepTheirLevel := by
  intro s t j oe v hexec
  cases oe with
  | true =>
    cases hexec
    have hk : (j / 32 : Nat) < 3 := by omega
    refine ⟨fun i => pad_gpioOeWrite hk v s i.isLt, ?_, fun a _ hoe => ?_⟩
    · rw [gpioOeWrite_frame]
      rfl
    · show (gpioOeWrite (j / 32) v s).reg a = _
      rw [gpioOeWrite_frame]
      exact (s.reg_setReg _ _ a).trans (if_neg hoe)
  | false =>
    cases hexec
    refine ⟨fun i => pad_pinSelWrite j.isLt v s i, ?_, fun a hsel _ => ?_⟩
    · rw [pinSelWrite_frame]
      rfl
    · show (pinSelWrite j v s).reg a = _
      rw [pinSelWrite_frame]
      exact (s.reg_setReg _ _ a).trans (if_neg hsel)

/-! ## GPIO inputs and the rows together -/

/-- A new level at a pin shows in GPIO_IN, and in GPIO_INT_STAT where GPIO_INT_CFG selects its edge. -/
theorem gpioInput_spec {j : Fin 72} {level : Bool} {s : State} (hclk : s.fclkRuns = true) (hnew : s.gpBit aGpioIn j ≠ level) :
    (gpioInput j level s).gpBit aGpioIn j = level ∧
      (gpioInput j level s).gpBit aGpioIntStat j = (s.gpBit aGpioIntStat j ||
        (fld (s.reg (aGpioIntCfg (j / 16))) (2 * (j % 16)) 2).testBit (if level then 0 else 1)) := by
  have hb : (j % 32 : Nat) < 32 := Nat.mod_lt _ (by decide)
  have hstat : aGpioIntStat (j / 32) ≠ aGpioIn (j / 32) := by simp only [aGpioIntStat, aGpioIn]; omega
  rw [gpioInput, if_neg (by simp [hnew, hclk])]
  constructor
  · rw [State.gpBit, State.reg_orRegIf, if_neg fun h => hstat h.1.symm, State.reg_setRegFld, if_pos rfl, bit_setFld_one _ hb, if_pos rfl]
  · rw [State.gpBit, State.reg_orRegIf, State.reg_setRegFld, if_neg hstat]
    cases (fld (s.reg (aGpioIntCfg (j / 16))) (2 * (j % 16)) 2).testBit (if level then 0 else 1) with
    | false => simp [State.gpBit]
    | true => rw [if_pos ⟨rfl, rfl⟩, bit_or, bit_bitW, Bool.or_true, Bool.or_true]

theorem held_pinSwitchApply {s : State} (hclk : s.fclkRuns = true) (j : Nat) : (pinSwitchApply j s).held j = none := by
  simp [pinSwitchApply, hclk, State.held]

theorem pinSwitchApply_frame (j : Nat) (s : State) : pinSwitchApply j s = { s with hold := (pinSwitchApply j s).hold } := by
  unfold pinSwitchApply
  split <;> rfl

/-- Settles O48: each row writes its own words, and a switched pin holds its drive until its switch ends. -/
theorem pinRows : Obligations.PinRows := by
  unfold Obligations.PinRows
  refine ⟨fun s k v => ⟨_, rfl, ?_⟩, fun s j level hclk hnew => ⟨_, rfl, gpioInput_spec hclk hnew⟩, fun s j v hhold hswitch => ⟨_, rfl, ?_, ?_⟩,
    fun s j v hne => ⟨_, rfl, ?_, ?_⟩, fun s j hclk => ⟨_, rfl, held_pinSwitchApply hclk j, ?_⟩, fun s j level hclk => ⟨?_, ?_⟩⟩
  · rw [gpioOut, State.reg_setReg, if_pos rfl]
  · show (pinSelWrite j v s).reg _ = _
    rw [pinSelWrite_frame]
    exact (s.reg_setReg _ _ _).trans (if_pos rfl)
  · show (pinSelWrite j v s).hold = _
    rw [pinSelWrite_eq, if_pos hswitch]
    simp [padHold, hhold, smSet, smPut]
  · show (gpioOeWrite (j / 32) v s).gpBit _ _ = _
    rw [gpioOeWrite_frame]
    exact (congrArg (fun w => bit w (j % 32)) ((s.reg_setReg _ _ _).trans (if_pos rfl))).trans (bit_and_gpMask j v)
  · have hmem : (j : Nat) ∈ oeChanged (j / 32) v s := mem_oeChanged.mpr ⟨rfl, by rw [bit_and_gpMask]; exact hne⟩
    show ((gpioOeWrite (j / 32) v s).held j).isSome = true
    rw [held_gpioOeWrite, if_pos hmem, Option.isSome_some]
  · rw [pad_of_not_held (held_pinSwitchApply hclk j)]
    have hbank : (pinSwitchApply j s).gpBank = s.gpBank := by rw [pinSwitchApply_frame]; rfl
    rw [hbank]
  · exact congrArg Host.Outcome.next (if_pos (.inr hclk))
  · exact congrArg Host.Outcome.next (if_pos (by rw [hclk]; rfl))

end Sys2Proof.Machine
end

section
/-! The event inputs' FIFOs (spec/16_events_pins.md, R620), and a state on which the statement of their rows fails (R618). -/

namespace Sys2Proof.Machine

/-! ## FIFOs -/

theorem evFifo_evPop (g h : Nat) (s : State) : (evPop g s).evFifo h = if h = g then (s.evFifo g).tail else s.evFifo h :=
  smGet_smSet _ _ _ _ _

theorem evWord_of_nil {s : State} {g : Nat} (h : s.evFifo g = []) (i : Nat) : s.evWord g i = 0 := by
  rw [State.evWord, h]

theorem hiW_append_loW (v : BitVec 64) : hiW v ++ loW v = v := by
  refine BitVec.eq_of_getLsbD_eq fun i hi => ?_
  rw [hiW, loW, BitVec.getLsbD_append]
  split
  case isTrue h => simp [h]
  case isFalse h =>
    rw [BitVec.truncate_eq_setWidth, BitVec.getLsbD_setWidth, BitVec.getLsbD_ushiftRight, show 32 + (i - 32) = i by omega]
    simp [show i - 32 < 32 by omega]

/-- Settles O50: the words are those of the head of the FIFO, which the read of the last one drops. -/
theorem eventFifoReads : Obligations.EventFifoReads := by
  refine ⟨fun s g => ⟨_, rfl, rfl, ?_, fun h hne => ?_⟩, fun s g i h => evWord_of_nil h i, fun s g e l h => ⟨?_, ?_, ?_⟩⟩
  · exact (evFifo_evPop g g s).trans (if_pos rfl)
  · exact (evFifo_evPop g h s).trans (if_neg fun e => hne (Fin.ext e))
  · simp only [State.evWord, h, hiW_append_loW]
  · simp only [State.evWord, h]
  · simp only [State.evWord, h]

/-! ## The configuration of an odd pin -/

/-- At reset but for the pulse that pin 0's detector measures. -/
def evPulseOnPin0 : State := State.reset.setEvDet 0 { EvDet.init with pulse := some (1, 0) }

/-- Refutes O51: a write of the configuration of an odd pin of no pair leaves the detector of the pin before it, which is not the pair's. -/
theorem not_eventInputRows : ¬ Obligations.EventInputRows := by
  rintro ⟨_, _, _, _, hcfg, _⟩
  obtain ⟨t, hexec, _, _, hpair, _⟩ := hcfg evPulseOnPin0 1 0 rfl
  cases hexec
  exact absurd hpair (by decide)

end Sys2Proof.Machine
end

section
/-! Fields of words: what a field of a word reads as after a write, a mask or a packing (spec/00_scope.md, R6); and registers, links, memory
and requests after a change of other fields of State. -/


namespace Sys2Proof.Machine

theorem testBit_fld (v : Word) (lo w i : Nat) : (fld v lo w).testBit i = (decide (i < w) && bit v (lo + i)) := by
  rw [fld, Nat.testBit_mod_two_pow, Nat.testBit_shiftRight]
  rfl

theorem fld_lt (v : Word) (lo w : Nat) : fld v lo w < 2 ^ w := Nat.mod_lt _ (Nat.two_pow_pos w)

/-- Words that agree on the bits of a field have the same field. -/
theorem fld_congr {u v : Word} {lo w : Nat} (h : ∀ i, lo ≤ i → i < lo + w → bit u i = bit v i) : fld u lo w = fld v lo w := by
  refine Nat.eq_of_testBit_eq fun i => ?_
  rw [testBit_fld, testBit_fld]
  by_cases hi : i < w
  · rw [h (lo + i) (by omega) (by omega)]
  · simp [hi]

/-- A bit of a word after a write of a field. -/
theorem bit_setFld (v : Word) {lo w : Nat} (hw : lo + w ≤ 32) (x i : Nat) :
    bit (setFld v lo w x) i = if lo ≤ i ∧ i < lo + w then x.testBit (i - lo) else bit v i := by
  obtain ⟨h, f, r, hr, hf, hv⟩ : ∃ h f r, r < 2 ^ lo ∧ f < 2 ^ w ∧ v.toNat = 2 ^ lo * (2 ^ w * h + f) + r :=
    ⟨v.toNat / 2 ^ lo / 2 ^ w, v.toNat / 2 ^ lo % 2 ^ w, v.toNat % 2 ^ lo, Nat.mod_lt _ (Nat.two_pow_pos lo),
      Nat.mod_lt _ (Nat.two_pow_pos w), by rw [Nat.div_add_mod, Nat.div_add_mod]⟩
  have hx : x % 2 ^ w < 2 ^ w := Nat.mod_lt _ (Nat.two_pow_pos w)
  have hfld : fld v lo w = f := by
    rw [fld, Nat.shiftRight_eq_div_pow, hv, Nat.mul_add_div (Nat.two_pow_pos lo), Nat.div_eq_of_lt hr, Nat.add_zero, Nat.mul_add_mod,
      Nat.mod_eq_of_lt hf]
  have hnew : v.toNat - fld v lo w * 2 ^ lo + x % 2 ^ w * 2 ^ lo = 2 ^ lo * (2 ^ w * h + x % 2 ^ w) + r := by
    rw [hfld, hv, Nat.mul_add, Nat.mul_add, Nat.mul_comm f, Nat.mul_comm (x % 2 ^ w)]
    omega
  by_cases hi : i < 32
  · have hold : bit v i = v.toNat.testBit i := rfl
    rw [setFld, hnew, bit, BitVec.getLsbD_ofNat, decide_eq_true hi, Bool.true_and, hold, hv, Nat.testBit_two_pow_mul_add _ hr,
      Nat.testBit_two_pow_mul_add _ hr]
    by_cases hlo : i < lo
    · rw [if_pos hlo, if_pos hlo, if_neg (by omega)]
    · rw [if_neg hlo, if_neg hlo, Nat.testBit_two_pow_mul_add _ hx, Nat.testBit_two_pow_mul_add _ hf]
      by_cases hhi : i < lo + w
      · rw [if_pos (by omega), if_pos (by omega), Nat.testBit_mod_two_pow, decide_eq_true (by omega), Bool.true_and]
      · rw [if_neg (by omega), if_neg (by omega), if_neg (by omega)]
  · have hhigh (u : Word) : bit u i = false := BitVec.getLsbD_of_ge u i (by omega)
    rw [hhigh, hhigh, if_neg (by omega)]

theorem fld_setFld_same (v : Word) {lo w x : Nat} (hw : lo + w ≤ 32) (hx : x < 2 ^ w) : fld (setFld v lo w x) lo w = x := by
  refine Nat.eq_of_testBit_eq fun i => ?_
  rw [testBit_fld, bit_setFld v hw]
  by_cases hi : i < w
  · rw [if_pos (by omega), decide_eq_true hi, Bool.true_and, Nat.add_sub_cancel_left]
  · rw [decide_eq_false hi, Bool.false_and, Nat.testBit_eq_false_of_lt (hx.trans_le (Nat.pow_le_pow_right (by decide) (by omega)))]

/-- A write of a field leaves every field beside it. -/
theorem fld_setFld_of_disjoint (v : Word) {lo w lo' w' : Nat} (hw : lo + w ≤ 32) (h : lo' + w' ≤ lo ∨ lo + w ≤ lo') (x : Nat) :
    fld (setFld v lo w x) lo' w' = fld v lo' w' :=
  fld_congr fun i h1 h2 => by rw [bit_setFld v hw, if_neg (by omega)]

theorem bit_setFld_of_disjoint (v : Word) {lo w i : Nat} (hw : lo + w ≤ 32) (h : i < lo ∨ lo + w ≤ i) (x : Nat) :
    bit (setFld v lo w x) i = bit v i := by
  rw [bit_setFld v hw, if_neg (by omega)]

theorem bit_and (v m : Word) (i : Nat) : bit (v &&& m) i = (bit v i && bit m i) := BitVec.getLsbD_and

theorem bit_and_not {i : Nat} (hi : i < 32) (v m : Word) : bit (v &&& ~~~m) i = (bit v i && !bit m i) := by
  rw [bit_and, bit, bit, BitVec.getLsbD_not, decide_eq_true hi, Bool.true_and]
  rfl

theorem fld_or (v m : Word) (lo w : Nat) : fld (v ||| m) lo w = fld v lo w ||| fld m lo w := by
  refine Nat.eq_of_testBit_eq fun i => ?_
  rw [Nat.testBit_or, testBit_fld, testBit_fld, testBit_fld, bit_or, Bool.and_or_distrib_left]

theorem fld_or_of_zero {m : Word} {lo w : Nat} (h : fld m lo w = 0) (v : Word) : fld (v ||| m) lo w = fld v lo w := by
  rw [fld_or, h, Nat.or_zero]

/-- A field of a word given by its number. -/
theorem fld_ofNat {lo w : Nat} (hw : lo + w ≤ 32) (x : Nat) : fld (BitVec.ofNat 32 x) lo w = x / 2 ^ lo % 2 ^ w := by
  refine Nat.eq_of_testBit_eq fun i => ?_
  rw [testBit_fld, Nat.testBit_mod_two_pow, Nat.testBit_div_two_pow, bit, BitVec.getLsbD_ofNat]
  by_cases hi : i < w
  · rw [decide_eq_true (show lo + i < 32 by omega), Bool.true_and, Nat.add_comm]
  · simp [hi]

theorem bit_ofNat {i : Nat} (hi : i < 32) (x : Nat) : bit (BitVec.ofNat 32 x) i = decide (x / 2 ^ i % 2 = 1) := by
  rw [bit, BitVec.getLsbD_ofNat, decide_eq_true hi, Bool.true_and, Nat.testBit_eq_decide_div_mod_eq]

/-- A word that is zero has no field. -/
theorem fld_zero (lo w : Nat) : fld 0 lo w = 0 := by
  simp [fld]

/-! ## Changes of State beside what is read -/

@[simp] theorem State.reg_upd (t : State) (mem tide cmps srcs threads cores memc ferry setup bw qfa flash sec jrnl boot pwr ckp lant cp
      tap evi hold sap links pcie eth camp draws freeCtr rdata pending) :
    State.reg ⟨t.regs, mem, tide, cmps, srcs, threads, cores, memc, ferry, setup, bw, qfa, flash, sec, jrnl, boot, pwr, ckp, lant, cp,
      tap, evi, hold, sap, links, pcie, eth, camp, draws, freeCtr, rdata, pending⟩ = t.reg := (rfl)

@[simp] theorem State.link_upd (t : State) (regs mem tide cmps srcs threads cores memc ferry setup bw qfa flash sec jrnl boot pwr ckp lant
      cp tap evi hold sap pcie eth camp draws freeCtr rdata pending) :
    State.link ⟨regs, mem, tide, cmps, srcs, threads, cores, memc, ferry, setup, bw, qfa, flash, sec, jrnl, boot, pwr, ckp, lant, cp, tap,
      evi, hold, sap, t.links, pcie, eth, camp, draws, freeCtr, rdata, pending⟩ = t.link := (rfl)

@[simp] theorem State.byte_upd (t : State) (regs tide cmps srcs threads cores memc ferry setup bw qfa flash sec jrnl boot pwr ckp lant cp
      tap evi hold sap links pcie eth camp draws freeCtr rdata pending) :
    State.byte ⟨regs, t.mem, tide, cmps, srcs, threads, cores, memc, ferry, setup, bw, qfa, flash, sec, jrnl, boot, pwr, ckp, lant, cp,
      tap, evi, hold, sap, links, pcie, eth, camp, draws, freeCtr, rdata, pending⟩ = t.byte := (rfl)

@[simp] theorem State.reqSt?_upd (t : State) (regs mem tide cmps srcs threads cores ferry setup bw qfa flash sec jrnl boot pwr ckp lant cp
      tap evi hold sap links pcie eth camp draws freeCtr rdata pending) :
    State.reqSt? ⟨regs, mem, tide, cmps, srcs, threads, cores, t.memc, ferry, setup, bw, qfa, flash, sec, jrnl, boot, pwr, ckp, lant, cp,
      tap, evi, hold, sap, links, pcie, eth, camp, draws, freeCtr, rdata, pending⟩ = t.reqSt? := (rfl)

end Sys2Proof.Machine
end

section
/-! The state of a Strand link (spec/13_strand_camps.md, R511 to R518, R534, R542): what a change of STRn_STAT.state and the choice of the
keeper leave, and the end of every transaction of a link. -/

namespace Sys2Proof.Machine

/-! ## The choice of the keeper -/

/-- The choice of the keeper changes CAMP_KEEPER and CAMP_STAT, and which keeper the device follows. -/
theorem campChoose_frame (s : State) :
    campChoose s = { s with regs := (campChoose s).regs, camp := { s.camp with led := (campChoose s).camp.led } } := by
  unfold campChoose
  dsimp only
  split <;> rfl

theorem campChoose_reg {a : Nat} (hk : a ≠ aCampKeeper) (hs : a ≠ aCampStat) (s : State) : (campChoose s).reg a = s.reg a := by
  unfold campChoose
  dsimp only
  split <;> simp [hk, hs]

@[simp] theorem campChoose_link (s : State) (n : Nat) : (campChoose s).link n = s.link n := by
  rw [campChoose_frame]
  rfl

/-! ## STRn_STAT.state -/

/-- STRn_STAT once the link's state is st, for reason r. -/
def statOf (old : Word) (st r : Nat) : Word :=
  let v := setFld (setFld old 0 3 st) 4 4 r
  if fld old 0 3 = st then v else v ||| 0x100

theorem fld_statOf {st : Nat} (hst : st < 8) (old : Word) (r : Nat) : fld (statOf old st r) 0 3 = st := by
  unfold statOf
  split
  · rw [fld_setFld_of_disjoint _ (by decide) (by decide), fld_setFld_same _ (by decide) hst]
  · rw [fld_or_of_zero (by decide), fld_setFld_of_disjoint _ (by decide) (by decide), fld_setFld_same _ (by decide) hst]

theorem fld_statOf_reason {r : Nat} (hr : r < 16) (old : Word) (st : Nat) : fld (statOf old st r) 4 4 = r := by
  unfold statOf
  split
  · rw [fld_setFld_same _ (by decide) hr]
  · rw [fld_or_of_zero (by decide), fld_setFld_same _ (by decide) hr]

theorem bit_statOf {i : Nat} (hi : 9 ≤ i) (old : Word) (st r : Nat) : bit (statOf old st r) i = bit old i := by
  have hmask : bit 0x100 i = false := (bit_bitW_eq (i := 8) (by decide) i).trans (decide_eq_false (by omega))
  unfold statOf
  split
  · rw [bit_setFld_of_disjoint _ (by decide) (by omega), bit_setFld_of_disjoint _ (by decide) (by omega)]
  · rw [bit_or, hmask, Bool.or_false, bit_setFld_of_disjoint _ (by decide) (by omega), bit_setFld_of_disjoint _ (by decide) (by omega)]

/-- The link as it leaves UP: its transactions note it (R530). -/
def Link.leave (l : Link) : Link := { l with txs := l.txs.map fun t => { t with left := true } }

/-- The registers of a link as its state changes. -/
def linkWrites (n st r : Nat) (s : State) : State :=
  let s1 := (s.setRegFld (aStrStat n) 0 3 st).setRegFld (aStrStat n) 4 4 r
  let s2 := if s.linkSt n = st then s1 else strFlag n 0x100 s1
  if st = 2 then s2 else s2.clrReg (aStrPeer n) 8

/-- The link's registers and its transactions as its state changes, before the keeper is chosen anew. -/
def linkMoved (n st r : Nat) (s : State) : State :=
  if s.linkSt n = 2 ∧ st ≠ 2 then (linkWrites n st r s).onLink n Link.leave else linkWrites n st r s

theorem setLinkSt_eq (n st r : Nat) (s : State) :
    setLinkSt n st r s = if s.linkSt n = 2 ∨ st = 2 then campChoose (linkMoved n st r s) else linkMoved n st r s := rfl

@[simp] theorem State.reg_setLink (s : State) (n : Nat) (l : Link) : (s.setLink n l).reg = s.reg := rfl

@[simp] theorem State.reg_onLink (s : State) (n : Nat) (f : Link → Link) : (s.onLink n f).reg = s.reg := rfl

theorem strFlag_reg (n : Nat) (m : Word) (s : State) (a : Nat) :
    (strFlag n m s).reg a = if a = aStrStat n then s.reg (aStrStat n) ||| m else s.reg a :=
  s.reg_orReg _ _ _

section
variable (n st r : Nat) (s : State)

theorem linkWrites_frame : linkWrites n st r s = { s with regs := (linkWrites n st r s).regs } := by
  unfold linkWrites
  dsimp only
  split_ifs <;> rfl

theorem linkWrites_reg (a : Nat) : (linkWrites n st r s).reg a =
    if a = aStrStat n then statOf (s.reg a) st r else if a = aStrPeer n ∧ st ≠ 2 then s.reg a &&& ~~~8 else s.reg a := by
  have hp : aStrPeer n ≠ aStrStat n := by simp only [aStrStat, aStrPeer]; omega
  have hwas : s.linkSt n = fld (s.reg (aStrStat n)) 0 3 := rfl
  have hstat : (if s.linkSt n = st then (s.setRegFld (aStrStat n) 0 3 st).setRegFld (aStrStat n) 4 4 r
      else strFlag n 0x100 ((s.setRegFld (aStrStat n) 0 3 st).setRegFld (aStrStat n) 4 4 r)).reg a =
      if a = aStrStat n then statOf (s.reg a) st r else s.reg a := by
    unfold statOf
    by_cases ha : a = aStrStat n
    · subst ha
      rw [hwas]
      split <;> simp [strFlag_reg]
    · split <;> simp [strFlag_reg, ha]
  unfold linkWrites
  dsimp only
  by_cases hst : st = 2
  · rw [if_pos hst, hstat, if_neg (fun h : a = aStrPeer n ∧ st ≠ 2 => h.2 hst)]
  · rw [if_neg hst, State.reg_clrReg]
    by_cases ha : a = aStrPeer n
    · subst ha
      rw [hstat, if_pos rfl, if_neg hp, if_neg hp, if_pos ⟨rfl, hst⟩]
    · rw [if_neg ha, hstat, if_neg (fun h : a = aStrPeer n ∧ st ≠ 2 => ha h.1)]

theorem linkMoved_reg (a : Nat) : (linkMoved n st r s).reg a =
    if a = aStrStat n then statOf (s.reg a) st r else if a = aStrPeer n ∧ st ≠ 2 then s.reg a &&& ~~~8 else s.reg a := by
  rw [← linkWrites_reg]
  unfold linkMoved
  split <;> rfl

theorem linkMoved_link (m : Nat) : (linkMoved n st r s).link m =
    if m = n ∧ s.linkSt n = 2 ∧ st ≠ 2 then (s.link m).leave else s.link m := by
  have hlink (k : Nat) : (linkWrites n st r s).link k = s.link k := by
    rw [linkWrites_frame]
    rfl
  unfold linkMoved
  by_cases h : s.linkSt n = 2 ∧ st ≠ 2
  · rw [if_pos h, State.link_onLink, hlink, hlink]
    by_cases hm : m = n
    · subst hm
      rw [if_pos rfl, if_pos ⟨rfl, h⟩]
    · rw [if_neg hm, if_neg fun e => hm e.1]
  · rw [if_neg h, if_neg (fun e => h e.2), hlink]

theorem linkMoved_frame : linkMoved n st r s = { s with regs := (linkMoved n st r s).regs, links := (linkMoved n st r s).links } := by
  unfold linkMoved
  split
  · rw [linkWrites_frame]
    rfl
  · rw [linkWrites_frame]

/-- A change of a link's state changes registers, the link's own transactions, and which keeper the device follows. -/
theorem setLinkSt_frame : setLinkSt n st r s =
    { s with regs := (setLinkSt n st r s).regs, links := (setLinkSt n st r s).links
             camp := { s.camp with led := (setLinkSt n st r s).camp.led } } := by
  rw [setLinkSt_eq]
  split
  · rw [campChoose_frame, linkMoved_frame]
  · rw [linkMoved_frame]

theorem setLinkSt_reg {a : Nat} (hk : a ≠ aCampKeeper) (hc : a ≠ aCampStat) : (setLinkSt n st r s).reg a =
    if a = aStrStat n then statOf (s.reg a) st r else if a = aStrPeer n ∧ st ≠ 2 then s.reg a &&& ~~~8 else s.reg a := by
  rw [setLinkSt_eq, ← linkMoved_reg]
  split
  · exact campChoose_reg hk hc _
  · rfl

theorem setLinkSt_link (m : Nat) : (setLinkSt n st r s).link m =
    if m = n ∧ s.linkSt n = 2 ∧ st ≠ 2 then (s.link m).leave else s.link m := by
  rw [setLinkSt_eq, ← linkMoved_link n st r]
  split
  · exact campChoose_link _ m
  · rfl

end

end Sys2Proof.Machine
end

section
/-! Training of a Strand link (spec/13_strand_camps.md, R511 to R518, R523, R534, R540, R541, R640): its start, its refusal, its end in UP with
the replay that goes on or the epoch that begins, and its failures. -/

namespace Sys2Proof.Machine

/-! ## The end of every transaction of a link (R534) -/

theorem State.reqSt?_setReqSt_of_ne {id id' : Nat} (h : id' ≠ id) (s : State) (st : FabSt) : (s.setReqSt id st).reqSt? id' = s.reqSt? id' := by
  have hreq := State.req?_of_map (s := s) (u := s.setReqSt id st) rfl (fun r => by split <;> rfl) id'
  rw [State.reqSt?, hreq, State.reqSt?]
  cases hq : s.req? id' with
  | none => rfl
  | some q => simp [State.id_of_req? hq, h]

/-- A transaction that ends with an error frees its tag and fails its request; Breakwater may be told, and a write may leave an entry. -/
theorem strEnd_error_eq {status : Nat} (hst : status ≠ 0) (n : Nat) (x : StrTx) (local_ : Bool) (s : State) :
    ∃ w, (∃ ns, w = { s.bw with notes := ns }) ∧
      let u := ({ s.onLink n (x.freed local_) with bw := w } : State).setReqSt x.req (.failed (decide (status = 2)))
      strEnd n x none status local_ s =
        if x.wr then wfqPush n (wfqEnt x.member x.addr x.len status x.tag x.iid x.ithr x.ikind) u else u := by
  let s1 := s.onLink n (x.freed local_)
  obtain ⟨w, ⟨ns, hns⟩, hw⟩ : ∃ w, (∃ ns, w = { s.bw with notes := ns }) ∧ (match s1.req? x.req with
      | some q => if status = 2 then s1.noteUe q.ini q.kind (s1.plain q.beatAddr) else s1
      | none => s1) = { s1 with bw := w } := by
    have hsame : ∃ ns, s1.bw = { s.bw with notes := ns } := ⟨s.bw.notes, rfl⟩
    split
    · split
      · unfold State.noteUe
        split
        · split
          · exact ⟨s1.bw, hsame, rfl⟩
          · exact ⟨_, ⟨_, rfl⟩, rfl⟩
        · exact ⟨s1.bw, hsame, rfl⟩
      · exact ⟨s1.bw, hsame, rfl⟩
    · exact ⟨s1.bw, hsame, rfl⟩
  refine ⟨w, ⟨ns, hns⟩, ?_⟩
  dsimp only
  rw [← hw]
  exact if_neg hst

theorem wfqPush_reg (n : Nat) (e : WfqEnt) (s : State) {a : Nat} (ha : a ≠ aStrStat n) : (wfqPush n e s).reg a = s.reg a := by
  unfold wfqPush
  split <;> rw [strFlag_reg, if_neg ha]
  rfl

/-- A transaction that is lost with its link. -/
theorem strEnd_lost (n : Nat) (x : StrTx) (s : State) :
    (∀ a, a ≠ aStrStat n → (strEnd n x none 5 true s).reg a = s.reg a) ∧
      ((strEnd n x none 5 true s).link n).txs = (s.link n).txs.filter (fun y => decide (y.tag ≠ x.tag)) ∧
      ∀ id, (strEnd n x none 5 true s).reqSt? id = if id = x.req then (s.reqSt? id).map (fun _ => .failed false) else s.reqSt? id := by
  obtain ⟨w, -, hend⟩ := strEnd_error_eq (show 5 ≠ 0 by decide) n x true s
  let u := ({ s.onLink n (x.freed true) with bw := w } : State).setReqSt x.req (.failed false)
  have hu : (∀ a, u.reg a = s.reg a) ∧ (u.link n).txs = (s.link n).txs.filter (fun y => decide (y.tag ≠ x.tag)) ∧
      ∀ id, u.reqSt? id = if id = x.req then (s.reqSt? id).map (fun _ => .failed false) else s.reqSt? id := by
    refine ⟨fun a => rfl, congrArg Link.txs ((s.link_onLink n (x.freed true) n).trans (if_pos rfl)), fun id => ?_⟩
    split
    case isTrue h => rw [h]; exact State.reqSt?_setReqSt _ _ _
    case isFalse h => exact State.reqSt?_setReqSt_of_ne h _ _
  have hend' : strEnd n x none 5 true s =
      if x.wr then wfqPush n (wfqEnt x.member x.addr x.len 5 x.tag x.iid x.ithr x.ikind) u else u := hend
  obtain ⟨hreg, htxs, hreq⟩ := hu
  rw [hend']
  split
  · obtain ⟨q, hq⟩ := wfqPush_link n (wfqEnt x.member x.addr x.len 5 x.tag x.iid x.ithr x.ikind) u
    exact ⟨fun a ha => (wfqPush_reg n _ u ha).trans (hreg a), by rw [hq, ← htxs], fun id => (wfqPush_reqSt? ..).trans (hreq id)⟩
  · exact ⟨fun a _ => hreg a, htxs, hreq⟩

/-- The transactions of the list are lost one after another. -/
theorem foldS_strEnd_lost (n : Nat) (l : List StrTx) (s : State) :
    (∀ a, a ≠ aStrStat n → (foldS (fun x s => strEnd n x none 5 true s) l s).reg a = s.reg a) ∧
      (∀ y ∈ ((foldS (fun x s => strEnd n x none 5 true s) l s).link n).txs, y ∈ (s.link n).txs ∧ ∀ x ∈ l, y.tag ≠ x.tag) ∧
      ∀ id, (foldS (fun x s => strEnd n x none 5 true s) l s).reqSt? id =
        if id ∈ l.map (fun x => x.req) then (s.reqSt? id).map (fun _ => .failed false) else s.reqSt? id := by
  induction l generalizing s with
  | nil => exact ⟨fun _ _ => rfl, fun y hy => ⟨hy, by simp⟩, fun _ => rfl⟩
  | cons x l ih =>
    obtain ⟨hreg, htxs, hreq⟩ := strEnd_lost n x s
    obtain ⟨ihreg, ihtxs, ihreq⟩ := ih (strEnd n x none 5 true s)
    refine ⟨fun a ha => (ihreg a ha).trans (hreg a ha), fun y hy => ?_, fun id => ?_⟩
    · obtain ⟨hmem, hne⟩ := ihtxs y hy
      rw [htxs, List.mem_filter, decide_eq_true_iff] at hmem
      exact ⟨hmem.1, List.forall_mem_cons.mpr ⟨hmem.2, hne⟩⟩
    · refine (ihreq id).trans ?_
      rw [hreq]
      simp only [List.map_cons, List.mem_cons]
      by_cases hx : id = x.req
      · simp only [hx, if_true, true_or, Option.map_map]
        exact ite_self _
      · simp only [hx, if_false, false_or]

/-! ## A new epoch, or the replay that goes on (R534) -/

/-- An epoch begins: the link's transactions have failed, and its sequence and replay begin anew. -/
theorem strNewEpoch_spec (n : Nat) (s : State) :
    (∀ a, a ≠ aStrStat n → a ≠ aStrEpoch n → (strNewEpoch n s).reg a = s.reg a) ∧
      (strNewEpoch n s).reg (aStrEpoch n) = (s.reg (aStrEpoch n) + 1) &&& 0xFF ∧ bit ((strNewEpoch n s).reg (aStrStat n)) 10 = true ∧
      ((strNewEpoch n s).link n).txs = [] ∧ ((strNewEpoch n s).link n).replay = [] ∧ ((strNewEpoch n s).link n).seq = 0 ∧
      ((strNewEpoch n s).link n).expect = 0 ∧
      ∀ x ∈ (s.link n).txs, (strNewEpoch n s).reqSt? x.req = (s.reqSt? x.req).map (fun _ => .failed false) := by
  obtain ⟨hreg, htxs, hreq⟩ := foldS_strEnd_lost n (s.link n).txs s
  have hse : aStrEpoch n ≠ aStrStat n := by simp only [aStrEpoch, aStrStat]; omega
  refine ⟨fun a hs he => ?_, ?_, bit_strFlag (by decide) _ _, ?_, ?_, ?_, ?_, fun x hx => ?_⟩
  · rw [strNewEpoch, strFlag_reg, if_neg hs, State.reg_onLink, State.reg_setReg, if_neg he]
    exact hreg a hs
  · rw [strNewEpoch, strFlag_reg, if_neg hse, State.reg_onLink, State.reg_setReg, if_pos rfl, hreg _ hse]
    rfl
  · rw [strNewEpoch, strFlag_link, State.link_onLink, if_pos rfl]
    exact List.eq_nil_iff_forall_not_mem.mpr fun y hy =>
      have ⟨hmem, hne⟩ := htxs y hy
      hne y hmem rfl
  · rw [strNewEpoch, strFlag_link, State.link_onLink, if_pos rfl]
  · rw [strNewEpoch, strFlag_link, State.link_onLink, if_pos rfl]
  · rw [strNewEpoch, strFlag_link, State.link_onLink, if_pos rfl]
  · rw [strNewEpoch, strFlag_reqSt?, State.onLink_reqSt?]
    exact (hreq x.req).trans (if_pos (List.mem_map_of_mem hx))

/-- The link once its flits from the far end's next expected sequence on are to be sent again. -/
def Link.resume (next : Nat) (l : Link) : Link :=
  let rest := l.replay.filter (fun f => let d := (next + 4096 - f.seq) % 4096; decide (d = 0) || decide (2048 < d))
  { l with replay := rest, resend := rest.length, replays := if rest.length < l.replay.length then 0 else l.replays }

theorem strResume_eq (n next : Nat) (s : State) : strResume n next s = s.onLink n (Link.resume next) := rfl

/-- Of flits whose sequence numbers run on from q, those from q + j on go again. -/
theorem resume_replay {l : Link} {q j : Nat} (hlen : l.replay.length ≤ 256) (hj : j ≤ l.replay.length)
    (hseq : l.replay.map (fun f => f.seq) = (List.range l.replay.length).map (fun i => (q + i) % 4096)) :
    (l.resume ((q + j) % 4096)).replay = l.replay.drop j := by
  have hat (i : Nat) (hi : i < l.replay.length) : l.replay[i].seq = (q + i) % 4096 := by
    have h := congrArg (fun m : List Nat => m[i]?) hseq
    simpa [hi] using h
  have hkeep (i : Nat) (hi : i < l.replay.length) :
      (decide (((q + j) % 4096 + 4096 - l.replay[i].seq) % 4096 = 0) ||
        decide (2048 < ((q + j) % 4096 + 4096 - l.replay[i].seq) % 4096)) = decide (j ≤ i) := by
    rw [hat i hi, Bool.eq_iff_iff, Bool.or_eq_true, decide_eq_true_iff, decide_eq_true_iff, decide_eq_true_iff]
    omega
  have hsplit := List.take_append_drop j l.replay
  show l.replay.filter _ = _
  conv_lhs => rw [← hsplit]
  rw [List.filter_append, List.filter_eq_nil_iff.mpr, List.filter_eq_self.mpr, List.nil_append]
  · intro f hf
    obtain ⟨i, hi, rfl⟩ := List.getElem_of_mem hf
    rw [List.length_drop] at hi
    rw [List.getElem_drop]
    exact (hkeep (j + i) (by omega)).trans (decide_eq_true (by omega))
  · intro f hf
    obtain ⟨i, hi, rfl⟩ := List.getElem_of_mem hf
    rw [List.length_take] at hi
    rw [List.getElem_take, Bool.not_eq_true]
    exact (hkeep i (by omega)).trans (decide_eq_false (by omega))

/-! ## The end of training -/

section
variable {n : Nat} {far : FarEnd} {s : State}

theorem strRefuse_of_checks (hver : far.ver = 1) (hfeats : far.feats = ownFeats) (hcamp : far.camp.toNat = fld (s.reg aCampCfg) 16 16)
    (hdev : far.dev.val ≠ fld (s.reg aSysStrap) 2 3) (hmode : (s.strMode n far).isSome = true)
    (hfec : (strFec (fld (s.reg (aStrCap n)) 4 2) (fld far.cap 4 2)).isSome = true) : s.strRefuse n far = none := by
  simp [State.strRefuse, hver, hfeats, hcamp, hdev, Option.isNone_iff_eq_none, Option.isSome_iff_ne_none.mp hmode,
    Option.isSome_iff_ne_none.mp hfec]

/-- The link's registers as training ends in UP. -/
def upRegs (n : Nat) (far : FarEnd) (m : Nat × Bool × Nat) (fec : Bool) (s : State) : State :=
  ((((s.setReg (aStrMode n) (BitVec.ofNat 32 (m.1 + b2n m.2.1 * 4 + b2n fec * 8 + m.2.2 * 16 + 256))).setReg (aStrPeer n)
    (BitVec.ofNat 32 (far.dev.val + 8 + far.camp.toNat * 2 ^ 16))).setReg (aStrPeerNonceLo n) (loW far.nonce)).setReg (aStrPeerNonceHi n)
    (hiW far.nonce))

/-- Do the nonces of both ends stand as at the last UP (R534)? -/
def sameSession (n : Nat) (far : FarEnd) (s : State) : Bool :=
  (s.link n).kept && decide (s.reg (aStrPeerNonceLo n) = loW far.nonce) && decide (s.reg (aStrPeerNonceHi n) = hiW far.nonce)

/-- The session as training ends in UP: the first one, the last one that goes on, or a new epoch. -/
def session (n : Nat) (far : FarEnd) (m : Nat × Bool × Nat) (fec : Bool) (s : State) : State :=
  if s.reg (aStrMode n) = 0 then upRegs n far m fec s
  else if sameSession n far s then strResume n far.next (upRegs n far m fec s) else strNewEpoch n (upRegs n far m fec s)

theorem strUp_eq (m : Nat × Bool × Nat) (fec : Bool) :
    strUp n far m.1 m.2.1 fec m.2.2 s =
      setLinkSt n 2 0 ((session n far m fec s).onLink n (fun l => { l with kept := true, nakDue := false, discard := false })) := rfl

/-- HELLO and a DELAY measurement leave on a link that has come UP (R540, R541). -/
def greet (n : Nat) (s : State) : State := delayTimer n (mgmtSend n s.helloBody s)

theorem greet_frame : greet n s = { s with links := (greet n s).links } := by
  unfold greet delayTimer
  split <;> rfl

theorem greet_link (h : s.linkUp n = true) :
    (greet n s).link n = { s.link n with mgmtQ := (s.link n).mgmtQ ++ [padBody s.helloBody] ++ [padBody [4]], delay := true } := by
  have hup : (mgmtSend n s.helloBody s).linkUp n = true := h
  rw [greet, delayTimer, if_pos hup]
  simp [mgmtSend]

theorem upRegs_reg (m : Nat × Bool × Nat) (fec : Bool) {a : Nat} (h1 : a ≠ aStrMode n) (h2 : a ≠ aStrPeer n) (h3 : a ≠ aStrPeerNonceLo n)
    (h4 : a ≠ aStrPeerNonceHi n) : (upRegs n far m fec s).reg a = s.reg a := by
  simp [upRegs, h1, h2, h3, h4]

/-- What the end of training shows in MODE, PEER and the far end's nonce. -/
theorem upRegs_shown (m : Nat × Bool × Nat) (fec : Bool) :
    (upRegs n far m fec s).reg (aStrMode n) = BitVec.ofNat 32 (m.1 + b2n m.2.1 * 4 + b2n fec * 8 + m.2.2 * 16 + 256) ∧
      (upRegs n far m fec s).reg (aStrPeer n) = BitVec.ofNat 32 (far.dev.val + 8 + far.camp.toNat * 2 ^ 16) ∧
      (upRegs n far m fec s).reg (aStrPeerNonceLo n) = loW far.nonce ∧ (upRegs n far m fec s).reg (aStrPeerNonceHi n) = hiW far.nonce := by
  simp [upRegs]

/-- What the session changes beside what the end of training shows: the link's epoch and flags. -/
theorem session_reg (m : Nat × Bool × Nat) (fec : Bool) {a : Nat} (hs : a ≠ aStrStat n) (he : a ≠ aStrEpoch n) :
    (session n far m fec s).reg a = (upRegs n far m fec s).reg a := by
  unfold session
  split
  · rfl
  · split
    · rw [strResume_eq, State.reg_onLink]
    · exact (strNewEpoch_spec n _).1 a hs he

/-- Training that passes every check ends in UP. -/
theorem trainingEnd_up {m : Nat × Bool × Nat} {fec : Bool} (hst : s.linkSt n = 1 ∨ s.linkSt n = 3) (href : s.strRefuse n far = none)
    (hm : s.strMode n far = some m) (hfec : strFec (fld (s.reg (aStrCap n)) 4 2) (fld far.cap 4 2) = some fec) :
    ∃ q, (trainingEnd n far s).link n = { (session n far m fec s).link n with
        kept := true, nakDue := false, discard := false, delay := true, mgmtQ := q ++ [padBody [4]] } ∧
      (∀ a, a ≠ aCampKeeper → a ≠ aCampStat → (trainingEnd n far s).reg a =
        if a = aStrStat n then statOf ((session n far m fec s).reg a) 2 0 else (session n far m fec s).reg a) ∧
      ∀ id, (trainingEnd n far s).reqSt? id = (session n far m fec s).reqSt? id := by
  have htrained : strTrained n far s = strUp n far m.1 m.2.1 fec m.2.2 s := by
    rw [strTrained, if_pos hst]
    simp only [href, hm, hfec]
  rw [strUp_eq] at htrained
  let v := (session n far m fec s).onLink n (fun l => { l with kept := true, nakDue := false, discard := false })
  have hsc : aStrStat n ≠ aCampStat := by simp only [aStrStat, aCampStat]; omega
  have hsk : aStrStat n ≠ aCampKeeper := by simp only [aStrStat, aCampKeeper]; omega
  have hup : (setLinkSt n 2 0 v).linkUp n = true := by
    rw [State.linkUp, State.linkSt, setLinkSt_reg n 2 0 v hsk hsc, if_pos rfl, fld_statOf (by decide)]
    rfl
  have hwas : s.linkUp n = false := by rw [State.linkUp]; rcases hst with h | h <;> simp [h]
  have hend : trainingEnd n far s = greet n (setLinkSt n 2 0 v) := by
    rw [trainingEnd, htrained, if_pos ⟨hup, hwas⟩]
    rfl
  refine ⟨(v.link n).mgmtQ ++ [padBody (setLinkSt n 2 0 v).helloBody], ?_, fun a hk hc => ?_, fun id => ?_⟩
  · rw [hend, greet_link hup, setLinkSt_link, if_neg (by simp), State.link_onLink, if_pos rfl]
  · rw [hend, greet_frame, State.reg_upd, setLinkSt_reg n 2 0 v hk hc, State.reg_onLink]
    simp
  · rw [hend, greet_frame, State.reqSt?_upd, setLinkSt_frame, State.reqSt?_upd, State.onLink_reqSt?]

/-- Training that fails a check ends REFUSED with the check's reason. -/
theorem trainingEnd_refused {r : Nat} (hst : s.linkSt n = 1 ∨ s.linkSt n = 3) (href : s.strRefuse n far = some r) :
    trainingEnd n far s = strFlag n 0x800 (setLinkSt n 4 r s) := by
  have htrained : strTrained n far s = strFlag n 0x800 (setLinkSt n 4 r s) := by
    rw [strTrained, if_pos hst]
    simp only [href]
  have hsc : aStrStat n ≠ aCampStat := by simp only [aStrStat, aCampStat]; omega
  have hsk : aStrStat n ≠ aCampKeeper := by simp only [aStrStat, aCampKeeper]; omega
  have hdown : (strFlag n 0x800 (setLinkSt n 4 r s)).linkSt n = 4 := by
    rw [State.linkSt, strFlag_reg, if_pos rfl, setLinkSt_reg n 4 r s hsk hsc, if_pos rfl, fld_or_of_zero (by decide), fld_statOf (by decide)]
  have hdown' : (strFlag n 0x800 (setLinkSt n 4 r s)).linkUp n = false := by rw [State.linkUp, hdown]; rfl
  rw [trainingEnd, htrained, hdown', if_neg (by simp)]

end

/-! ## Registers of a link after a change of its state -/

section
variable (n : Fin 8) (st r : Nat) (s : State)

theorem setLinkSt_stat : (setLinkSt n st r s).reg (aStrStat n) = statOf (s.reg (aStrStat n)) st r := by
  rw [setLinkSt_reg _ _ _ _ (by simp only [aStrStat, aCampKeeper]; omega) (by simp only [aStrStat, aCampStat]; omega), if_pos rfl]

theorem setLinkSt_linkSt (hst : st < 8) : (setLinkSt n st r s).linkSt n = st := by
  rw [State.linkSt, setLinkSt_stat, fld_statOf hst]

/-- Registers below the camp's, other than STRn_STAT and STRn_PEER of the link. -/
theorem setLinkSt_reg_below {a : Nat} (ha : a < 0x40280000) (hs : a ≠ aStrStat n) (hp : a ≠ aStrPeer n) :
    (setLinkSt n st r s).reg a = s.reg a := by
  rw [setLinkSt_reg _ _ _ _ (by simp only [aCampKeeper]; omega) (by simp only [aCampStat]; omega), if_neg hs, if_neg fun h => hp h.1]

end

end Sys2Proof.Machine
end

section
/-! The rows of a Strand link's training (spec/13_strand_camps.md, R511 to R518, R523, R534, R540, R541). -/

namespace Sys2Proof.Machine

/-! ## Enabling and retraining -/

section
variable (n : Fin 8) (s : State)

theorem linkEnable_spec :
    bit ((linkEnable n s).reg (aStrCtl n)) 0 = true ∧ (linkEnable n s).reg (aStrNonceLo n) = loW (Config.randomDraw s.draws) ∧
      (linkEnable n s).reg (aStrNonceHi n) = hiW (Config.randomDraw s.draws) ∧ (linkEnable n s).draws = s.draws + 1 ∧
      (linkEnable n s).linkSt n = 1 := by
  unfold linkEnable strTrain
  refine ⟨?_, ?_, ?_, ?_, setLinkSt_linkSt n 1 0 _ (by decide)⟩
  · rw [setLinkSt_reg_below n _ _ _ (by simp only [aStrCtl]; omega) (by simp only [aStrCtl, aStrStat]; omega)
      (by simp only [aStrCtl, aStrPeer]; omega)]
    simp only [State.reg_onLink, State.reg_upd, State.reg_setReg, State.reg_orReg]
    simp only [show aStrCtl n ≠ aStrNonceHi n by simp [aStrCtl, aStrNonceHi], show aStrCtl n ≠ aStrNonceLo n by simp [aStrCtl, aStrNonceLo],
      if_false, if_true]
    exact bit_or_right (by decide) _
  · rw [setLinkSt_reg_below n _ _ _ (by simp only [aStrNonceLo]; omega) (by simp only [aStrNonceLo, aStrStat]; omega)
      (by simp only [aStrNonceLo, aStrPeer]; omega)]
    simp
  · rw [setLinkSt_reg_below n _ _ _ (by simp only [aStrNonceHi]; omega) (by simp only [aStrNonceHi, aStrStat]; omega)
      (by simp only [aStrNonceHi, aStrPeer]; omega)]
    simp
  · rw [setLinkSt_frame]
    rfl

theorem strTrain_spec : (strTrain n s).linkSt n = 1 ∧ (strTrain n s).reg (aStrNonceLo n) = s.reg (aStrNonceLo n) ∧
    (strTrain n s).draws = s.draws := by
  refine ⟨setLinkSt_linkSt n 1 0 s (by decide), ?_, ?_⟩
  · exact setLinkSt_reg_below n _ _ _ (by simp only [aStrNonceLo]; omega) (by simp only [aStrNonceLo, aStrStat]; omega)
      (by simp only [aStrNonceLo, aStrPeer]; omega)
  · rw [strTrain, setLinkSt_frame]

end

/-! ## Training that is refused -/

section
variable {n : Fin 8} {far : FarEnd} {s : State}

/-- The reason of the first check of Table 13-2 that fails. -/
theorem strRefuse_of_fail (h : far.ver ≠ 1 ∨ far.feats ≠ ownFeats ∨ far.camp.toNat ≠ fld (s.reg aCampCfg) 16 16 ∨
      far.dev.val = fld (s.reg aSysStrap) 2 3 ∨ s.strMode n far = none ∨ strFec (fld (s.reg (aStrCap n)) 4 2) (fld far.cap 4 2) = none) :
    ∃ r, r < 16 ∧ s.strRefuse n far = some r ∧
      r = (if far.ver ≠ 1 then 1 else if far.feats ≠ ownFeats then 2 else
        if far.camp.toNat ≠ fld (s.reg aCampCfg) 16 16 then 3 else if far.dev.val = fld (s.reg aSysStrap) 2 3 then 4 else
        if s.strMode n far = none then 6 else 5) := by
  refine ⟨_, ?_, ?_, rfl⟩
  · split_ifs <;> decide
  · unfold State.strRefuse
    simp only [Option.isNone_iff_eq_none]
    split_ifs with h1 h2 h3 h4 h5 h6
    all_goals first | rfl | skip
    simp_all

theorem trainingEnd_refused_spec {r : Nat} (hr : r < 16) (hst : s.linkSt n = 1 ∨ s.linkSt n = 3) (href : s.strRefuse n far = some r) :
    (trainingEnd n far s).linkSt n = 4 ∧ bit ((trainingEnd n far s).reg (aStrStat n)) 11 = true ∧
      bit ((trainingEnd n far s).reg (aStrPeer n)) 3 = false ∧ fld ((trainingEnd n far s).reg (aStrStat n)) 4 4 = r := by
  have hps : aStrPeer n ≠ aStrStat n := by simp only [aStrStat, aStrPeer]; omega
  have hstat : (trainingEnd n far s).reg (aStrStat n) = statOf (s.reg (aStrStat n)) 4 r ||| 0x800 := by
    rw [trainingEnd_refused hst href, strFlag_reg, if_pos rfl, setLinkSt_stat]
  refine ⟨?_, ?_, ?_, ?_⟩
  · rw [State.linkSt, hstat, fld_or_of_zero (by decide), fld_statOf (by decide)]
  · rw [hstat]
    exact bit_or_right (by decide) _
  · rw [trainingEnd_refused hst href, strFlag_reg, if_neg hps,
      setLinkSt_reg _ _ _ _ (by simp only [aStrPeer, aCampKeeper]; omega) (by simp only [aStrPeer, aCampStat]; omega), if_neg hps,
      if_pos ⟨rfl, by decide⟩, bit_and_not (by decide)]
    exact Bool.and_false _
  · rw [hstat, fld_or_of_zero (by decide), fld_statOf_reason hr]

/-! ## Training that ends in UP -/

theorem strMode_lanes {m : Nat × Bool × Nat} (hm : s.strMode n far = some m) : m.1 < 4 := by
  unfold State.strMode at hm
  dsimp only at hm
  generalize (if bit (s.reg (aStrMode n)) 2 then far.lock25 else far.lock10) = lock at hm
  split at hm
  · cases hm
    exact fld_lt _ 0 2
  · obtain ⟨x, hx, hsettle⟩ := List.exists_of_findSome?_eq_some hm
    have hlanes : ∀ y ∈ strModes, y.1 < 4 := by decide
    split at hsettle
    · obtain ⟨_, _, rfl⟩ := Option.map_eq_some_iff.mp hsettle
      exact hlanes x hx
    · cases hsettle

theorem modeWord_fields {lanes : Nat} (hlanes : lanes < 4) (r25 fec : Bool) (mask : Nat) :
    fld (BitVec.ofNat 32 (lanes + b2n r25 * 4 + b2n fec * 8 + mask * 16 + 256)) 0 2 = lanes ∧
      bit (BitVec.ofNat 32 (lanes + b2n r25 * 4 + b2n fec * 8 + mask * 16 + 256)) 2 = r25 ∧
      bit (BitVec.ofNat 32 (lanes + b2n r25 * 4 + b2n fec * 8 + mask * 16 + 256)) 3 = fec := by
  rw [fld_ofNat (by decide), bit_ofNat (by decide), bit_ofNat (by decide)]
  cases r25 <;> cases fec <;> simp [b2n] <;> omega

theorem peerWord_fields (dev : Fin 8) (camp : BitVec 16) :
    fld (BitVec.ofNat 32 (dev.val + 8 + camp.toNat * 2 ^ 16)) 0 3 = dev.val ∧
      bit (BitVec.ofNat 32 (dev.val + 8 + camp.toNat * 2 ^ 16)) 3 = true := by
  have hdev := dev.isLt
  rw [fld_ofNat (by decide), bit_ofNat (by decide), decide_eq_true_iff]
  omega

/-- What a link shows once training has ended in UP, and what its session keeps. -/
theorem trainingEnd_up_spec {m : Nat × Bool × Nat} {fec : Bool} (hst : s.linkSt n = 1 ∨ s.linkSt n = 3) (href : s.strRefuse n far = none)
    (hm : s.strMode n far = some m) (hfec : strFec (fld (s.reg (aStrCap n)) 4 2) (fld far.cap 4 2) = some fec) :
    let t := trainingEnd n far s
    t.linkSt n = 2 ∧ fld (t.reg (aStrMode n)) 0 2 = m.1 ∧ bit (t.reg (aStrMode n)) 2 = m.2.1 ∧
      bit (t.reg (aStrMode n)) 3 = fec ∧ fld (t.reg (aStrPeer n)) 0 3 = far.dev.val ∧ bit (t.reg (aStrPeer n)) 3 = true ∧
      t.reg (aStrPeerNonceLo n) = loW far.nonce ∧ t.reg (aStrPeerNonceHi n) = hiW far.nonce ∧
      (t.link n).mgmtQ.getLast? = some (padBody [4]) ∧ (t.link n).delay = true := by
  obtain ⟨q, hlink, hreg, -⟩ := trainingEnd_up hst href hm hfec
  obtain ⟨hmode, hpeer, hlo, hhi⟩ := upRegs_shown (n := n) (far := far) (s := s) m fec
  obtain ⟨hlanes, hrate, hfecbit⟩ := modeWord_fields (strMode_lanes hm) m.2.1 fec m.2.2
  obtain ⟨hdev, hcur⟩ := peerWord_fields far.dev far.camp
  have hshown {a : Nat} (ha : a < 0x40280000) (hs : a ≠ aStrStat n) (he : a ≠ aStrEpoch n) :
      (trainingEnd n far s).reg a = (upRegs n far m fec s).reg a := by
    rw [hreg a (by simp only [aCampKeeper]; omega) (by simp only [aCampStat]; omega), if_neg hs, session_reg m fec hs he]
  have hmode' : (trainingEnd n far s).reg (aStrMode n) = _ :=
    (hshown (by simp only [aStrMode]; omega) (by simp [aStrMode, aStrStat]) (by simp [aStrMode, aStrEpoch])).trans hmode
  have hpeer' : (trainingEnd n far s).reg (aStrPeer n) = _ :=
    (hshown (by simp only [aStrPeer]; omega) (by simp [aStrPeer, aStrStat]) (by simp [aStrPeer, aStrEpoch])).trans hpeer
  refine ⟨?_, ?_, ?_, ?_, ?_, ?_, ?_, ?_, ?_, ?_⟩
  · rw [State.linkSt, hreg _ (by simp only [aStrStat, aCampKeeper]; omega) (by simp only [aStrStat, aCampStat]; omega), if_pos rfl,
      fld_statOf (by decide)]
  · rw [hmode', hlanes]
  · rw [hmode', hrate]
  · rw [hmode', hfecbit]
  · rw [hpeer', hdev]
  · rw [hpeer', hcur]
  · exact (hshown (by simp only [aStrPeerNonceLo]; omega) (by simp [aStrPeerNonceLo, aStrStat]) (by simp [aStrPeerNonceLo, aStrEpoch])).trans hlo
  · exact (hshown (by simp only [aStrPeerNonceHi]; omega) (by simp [aStrPeerNonceHi, aStrStat]) (by simp [aStrPeerNonceHi, aStrEpoch])).trans hhi
  · rw [hlink]
    exact List.getLast?_concat ..
  · rw [hlink]

/-- The first UP since the link's reset keeps what is held for it. -/
theorem trainingEnd_first {m : Nat × Bool × Nat} {fec : Bool} (hst : s.linkSt n = 1 ∨ s.linkSt n = 3) (href : s.strRefuse n far = none)
    (hm : s.strMode n far = some m) (hfec : strFec (fld (s.reg (aStrCap n)) 4 2) (fld far.cap 4 2) = some fec)
    (h0 : s.reg (aStrMode n) = 0) :
    let t := trainingEnd n far s
    (t.link n).txs = (s.link n).txs ∧ (t.link n).postQ = (s.link n).postQ ∧ (t.link n).npQ = (s.link n).npQ ∧
      t.reg (aStrEpoch n) = s.reg (aStrEpoch n) := by
  obtain ⟨q, hlink, hreg, -⟩ := trainingEnd_up hst href hm hfec
  have hsess : session n far m fec s = upRegs n far m fec s := if_pos h0
  have hsame : (session n far m fec s).link n = s.link n := by rw [hsess]; rfl
  dsimp only
  rw [hlink, hsame]
  refine ⟨rfl, rfl, rfl, ?_⟩
  rw [hreg _ (by simp only [aStrEpoch, aCampKeeper]; omega) (by simp only [aStrEpoch, aCampStat]; omega), if_neg (by simp [aStrEpoch, aStrStat]),
    hsess, upRegs_reg]
  all_goals simp [aStrEpoch, aStrMode, aStrPeer, aStrPeerNonceLo, aStrPeerNonceHi]

theorem sameSession_iff : sameSession n far s = true ↔
    (s.link n).kept = true ∧ s.reg (aStrPeerNonceLo n) = loW far.nonce ∧ s.reg (aStrPeerNonceHi n) = hiW far.nonce := by
  simp [sameSession, and_assoc]

/-- With both nonces as at the last UP the session goes on. -/
theorem trainingEnd_same {m : Nat × Bool × Nat} {fec : Bool} (hst : s.linkSt n = 1 ∨ s.linkSt n = 3) (href : s.strRefuse n far = none)
    (hm : s.strMode n far = some m) (hfec : strFec (fld (s.reg (aStrCap n)) 4 2) (fld far.cap 4 2) = some fec)
    (h0 : s.reg (aStrMode n) ≠ 0) (hsame : sameSession n far s = true) :
    let t := trainingEnd n far s
    (t.link n).txs = (s.link n).txs ∧ (t.link n).seq = (s.link n).seq ∧ t.reg (aStrEpoch n) = s.reg (aStrEpoch n) ∧
      (t.link n).replay = ((s.link n).resume far.next).replay ∧ (t.link n).resend = ((s.link n).resume far.next).replay.length := by
  obtain ⟨q, hlink, hreg, -⟩ := trainingEnd_up hst href hm hfec
  have hsess : session n far m fec s = strResume n far.next (upRegs n far m fec s) := (if_neg h0).trans (if_pos hsame)
  have hsame : (session n far m fec s).link n = (s.link n).resume far.next := by
    rw [hsess, strResume_eq, State.link_onLink, if_pos rfl]
    rfl
  dsimp only
  rw [hlink, hsame]
  refine ⟨rfl, rfl, ?_, rfl, rfl⟩
  rw [hreg _ (by simp only [aStrEpoch, aCampKeeper]; omega) (by simp only [aStrEpoch, aCampStat]; omega), if_neg (by simp [aStrEpoch, aStrStat]),
    hsess, strResume_eq, State.reg_onLink, upRegs_reg]
  all_goals simp [aStrEpoch, aStrMode, aStrPeer, aStrPeerNonceLo, aStrPeerNonceHi]

/-- Otherwise a new epoch begins. -/
theorem trainingEnd_epoch {m : Nat × Bool × Nat} {fec : Bool} (hst : s.linkSt n = 1 ∨ s.linkSt n = 3) (href : s.strRefuse n far = none)
    (hm : s.strMode n far = some m) (hfec : strFec (fld (s.reg (aStrCap n)) 4 2) (fld far.cap 4 2) = some fec)
    (h0 : s.reg (aStrMode n) ≠ 0) (hnew : sameSession n far s = false) :
    let t := trainingEnd n far s
    (t.link n).txs = [] ∧ (t.link n).replay = [] ∧ (t.link n).seq = 0 ∧ (t.link n).expect = 0 ∧
      t.reg (aStrEpoch n) = (s.reg (aStrEpoch n) + 1) &&& 0xFF ∧ bit (t.reg (aStrStat n)) 10 = true ∧
      ∀ x ∈ (s.link n).txs, t.reqSt? x.req = (s.reqSt? x.req).map (fun _ => .failed false) := by
  obtain ⟨q, hlink, hreg, hreq⟩ := trainingEnd_up hst href hm hfec
  have hsess : session n far m fec s = strNewEpoch n (upRegs n far m fec s) := (if_neg h0).trans (if_neg (by simp [hnew]))
  obtain ⟨-, hepoch, hflag, htxs, hreplay, hseq, hexpect, hfail⟩ := strNewEpoch_spec n (upRegs n far m fec s)
  rw [← hsess] at hepoch hflag htxs hreplay hseq hexpect hfail
  have hold : (upRegs n far m fec s).reg (aStrEpoch n) = s.reg (aStrEpoch n) := by
    rw [upRegs_reg]
    all_goals simp [aStrEpoch, aStrMode, aStrPeer, aStrPeerNonceLo, aStrPeerNonceHi]
  dsimp only
  rw [hlink]
  refine ⟨htxs, hreplay, hseq, hexpect, ?_, ?_, fun x hx => (hreq _).trans (hfail x hx)⟩
  · rw [hreg _ (by simp only [aStrEpoch, aCampKeeper]; omega) (by simp only [aStrEpoch, aCampStat]; omega),
      if_neg (by simp [aStrEpoch, aStrStat]), hepoch, hold]
  · rw [hreg _ (by simp only [aStrStat, aCampKeeper]; omega) (by simp only [aStrStat, aCampStat]; omega), if_pos rfl,
      bit_statOf (by decide), hflag]

end

/-! ## Failure -/

section
variable {n : Fin 8} {s : State}

/-- A failure of an UP link takes it to RETRAIN, counts, and leaves its replay. -/
theorem strFail_spec (hup : s.linkUp n = true) :
    (strFail n s).linkSt n = 3 ∧ bit ((strFail n s).reg (aStrStat n)) 9 = true ∧
      (strFail n s).reg (aStrFail n) = (s.incSat (aStrFail n)).reg (aStrFail n) ∧ (strFail n s).link n = (s.link n).leave := by
  have hold : (s.incSat (aStrFail n)).linkSt n = 2 := by
    have h2 : s.linkSt n = 2 := of_decide_eq_true hup
    rw [State.linkSt, State.reg_incSat, if_neg (by simp [aStrStat, aStrFail])]
    exact h2
  have hfs : aStrFail n ≠ aStrStat n := by simp [aStrStat, aStrFail]
  rw [strFail, if_pos hup]
  refine ⟨?_, bit_strFlag (by decide) _ _, ?_, ?_⟩
  · rw [State.linkSt, strFlag_reg, if_pos rfl, fld_or_of_zero (by decide)]
    exact setLinkSt_linkSt n 3 0 _ (by decide)
  · rw [strFlag_reg, if_neg hfs, setLinkSt_reg_below n _ _ _ (by simp only [aStrFail]; omega) hfs (by simp [aStrFail, aStrPeer])]
  · rw [strFlag_link, setLinkSt_link, if_pos ⟨rfl, hold, by decide⟩]
    rfl

theorem crossingReset_spec (x dropped : Nat) (s : State) :
    (∀ a, a < 0x40050000 ∨ 0x40060000 ≤ a → (crossingReset x dropped s).reg a = s.reg a) ∧
      (crossingReset x dropped s).reg aCkpXlast = BitVec.ofNat 32 x ∧ (crossingReset x dropped s).links = s.links := by
  refine ⟨fun a ha => ?_, ?_, rfl⟩
  · have hne (b : Nat) (hb : 0x40050000 ≤ b ∧ b < 0x40060000) : a ≠ b := by omega
    simp [crossingReset, hne aCkpXrstCnt (by decide), hne aCkpXdrop (by decide), hne aCkpXlast (by decide), hne aCkpStat (by decide)]
  · simp [crossingReset]

/-- LANE_LOCK_LOSS of an UP link is a failure, and a reset of the link's crossing. -/
theorem laneLockLoss_spec (hup : s.linkUp n = true) :
    let t := crossingReset (29 + n.val) 0 (strFail n s)
    t.linkSt n = 3 ∧ bit (t.reg (aStrStat n)) 9 = true ∧ t.reg (aStrFail n) = (s.incSat (aStrFail n)).reg (aStrFail n) ∧
      (t.link n).replay = (s.link n).replay ∧ t.reg aCkpXlast = BitVec.ofNat 32 (29 + n.val) ∧ ∀ x ∈ (t.link n).txs, x.left = true := by
  obtain ⟨hst, hflag, hcount, hlink⟩ := strFail_spec hup
  obtain ⟨hreg, hlast, hlinks⟩ := crossingReset_spec (29 + n.val) 0 (strFail n s)
  have hlink' := (State.link_of_links hlinks n).trans hlink
  dsimp only
  refine ⟨?_, ?_, ?_, by rw [hlink']; rfl, hlast, fun x hx => ?_⟩
  · rw [State.linkSt, hreg _ (by simp only [aStrStat]; omega)]
    exact hst
  · rw [hreg _ (by simp only [aStrStat]; omega), hflag]
  · rw [hreg _ (by simp only [aStrFail]; omega), hcount]
  · rw [hlink'] at hx
    obtain ⟨y, -, rfl⟩ := List.mem_map.mp hx
    rfl

end

/-- Settles O42: training by its checks, its end in UP by the session that it goes on with, and a failure as the link's way to RETRAIN. -/
theorem strandTrainingRows : Obligations.StrandTrainingRows := by
  unfold Obligations.StrandTrainingRows
  refine ⟨?enable, ?retrain, ?refused, ?up, ?failure, ?resume⟩
  case enable =>
    intro s n hoff
    have hexec : strCtlWrite n 1 s = linkEnable n s := by
      rw [strCtlWrite, hoff, if_pos (by decide), Bool.not_false, if_pos rfl]
    exact ⟨_, congrArg Host.Outcome.next hexec, linkEnable_spec n s⟩
  case retrain =>
    intro s n hon
    refine ⟨⟨_, congrArg Host.Outcome.next (if_pos hon), strTrain_spec n s⟩, fun hst => ⟨_, congrArg Host.Outcome.next (if_pos ⟨hon, .inl hst⟩), (strTrain_spec n s).1⟩⟩
  case refused =>
    intro s n far hst hfail
    obtain ⟨r, hr, href, hreason⟩ := strRefuse_of_fail hfail
    obtain ⟨h1, h2, h3, h4⟩ := trainingEnd_refused_spec hr hst href
    exact ⟨_, rfl, h1, h2, h3, h4.trans hreason⟩
  case up =>
    intro s n far hst hver hfeats hcamp hdev m hm fec hfec
    have href := strRefuse_of_checks hver hfeats hcamp hdev (Option.isSome_of_mem hm) (Option.isSome_of_mem hfec)
    obtain ⟨h1, h2, h3, h4, h5, h6, h7, h8, h9, h10⟩ := trainingEnd_up_spec hst href hm hfec
    refine ⟨_, rfl, h1, h2, h3, h4, h5, h6, h7, h8, h9, h10, ?_⟩
    split
    case isTrue h0 => exact trainingEnd_first hst href hm hfec h0
    case isFalse h0 =>
      split
      case isTrue hsame =>
        obtain ⟨htxs, hseq, hepoch, hreplay, -⟩ := trainingEnd_same hst href hm hfec h0 (sameSession_iff.mpr hsame)
        refine ⟨htxs, hseq, hepoch, fun f hf => ?_⟩
        have hf' : f ∈ (trainingEnd n far s |>.link n).replay := hf
        rw [hreplay] at hf'
        exact List.mem_of_mem_filter hf'
      case isFalse hnew =>
        exact trainingEnd_epoch hst href hm hfec h0 (by rw [Bool.eq_false_iff]; exact fun h => hnew (sameSession_iff.mp h))
  case failure =>
    intro s n hup
    refine ⟨⟨_, congrArg Host.Outcome.next (if_pos hup), laneLockLoss_spec hup⟩, fun hreplay => ?_⟩
    obtain ⟨hst, hflag, hcount, hlink⟩ := strFail_spec hup
    exact ⟨_, congrArg Host.Outcome.next (if_neg (by simpa using hreplay)), hst, hflag, hcount, by rw [hlink]; rfl⟩
  case resume =>
    intro s n far q j hst hver hfeats hcamp hdev h0 hmode hfec hkept hlo hhi hlen hj hseq hnext
    have href := strRefuse_of_checks hver hfeats hcamp hdev hmode hfec
    obtain ⟨m, hm⟩ := Option.isSome_iff_exists.mp hmode
    obtain ⟨fec, hfec'⟩ := Option.isSome_iff_exists.mp hfec
    obtain ⟨htxs, -, -, hreplay, hresend⟩ := trainingEnd_same hst href hm hfec' h0 (sameSession_iff.mpr ⟨hkept, hlo, hhi⟩)
    rw [hnext, resume_replay hlen hj hseq] at hreplay hresend
    exact ⟨_, rfl, hreplay, hresend.trans List.length_drop, htxs⟩

end Sys2Proof.Machine
end

section
/-! Flits of a Strand link (spec/13_strand_camps.md, R519, R520, R522 to R524, R527, Table 13-3): the fields of a flit's bytes, its receipt in
and out of sequence, the order in which flits leave, and the replay. -/

namespace Sys2Proof.Machine

/-! ## The bytes of a flit (Table 13-3) -/

/-- The first eight bytes of a flit as a number. -/
def flitHead (l : Link) (seq kind vc : Nat) : Nat :=
  seq + (if l.got then (l.expect + 4095) % 4096 * 2 ^ 12 + 2 ^ 24 else 0) + b2n l.nakDue * 2 ^ 25 + kind * 2 ^ 26 + vc * 2 ^ 28 +
    l.freed.1 % 256 * 2 ^ 32 + l.freed.2.1 % 256 * 2 ^ 40 + l.freed.2.2 % 4096 * 2 ^ 48

/-- The CRC of a flit's first 60 bytes. -/
def flitCrc (bs : List Byte) : Word := crc32c 0xFFFFFFFF bs ^^^ 0xFFFFFFFF

theorem flitBytes_eq (l : Link) (seq kind vc : Nat) (body : List Byte) :
    flitBytes l seq kind vc body = (leBytes 8 (flitHead l seq kind vc) ++ body) ++
      leBytes 4 (flitCrc (leBytes 8 (flitHead l seq kind vc) ++ body)).toNat := rfl

@[simp] theorem length_padBody (bs : List Byte) : (padBody bs).length = 52 := by
  rw [padBody, List.length_take, List.length_append, List.length_replicate]
  omega

section
variable {l : Link} {seq kind vc : Nat} {body : List Byte} (hbody : body.length = 52)
include hbody

theorem flitBytes_take60 : (flitBytes l seq kind vc body).take 60 = leBytes 8 (flitHead l seq kind vc) ++ body := by
  rw [flitBytes_eq, List.take_left' (by simp [hbody])]

theorem flitBytes_drop60 :
    (flitBytes l seq kind vc body).drop 60 = leBytes 4 (flitCrc (leBytes 8 (flitHead l seq kind vc) ++ body)).toNat := by
  rw [flitBytes_eq, List.drop_left' (by simp [hbody])]

theorem length_flitBytes : (flitBytes l seq kind vc body).length = 64 := by
  simp [flitBytes_eq, hbody]

omit hbody in
theorem flitBytes_take8 : (flitBytes l seq kind vc body).take 8 = leBytes 8 (flitHead l seq kind vc) := by
  rw [flitBytes_eq, List.append_assoc, List.take_left' (by simp)]

theorem flitBytes_body : ((flitBytes l seq kind vc body).drop 8).take 52 = body := by
  rw [flitBytes_eq, List.append_assoc, List.drop_left' (by simp), List.take_left' hbody]

/-- The CRC of a flit as it was sent is good. -/
theorem flitBytes_good : BitVec.ofNat 32 (leNat ((flitBytes l seq kind vc body).drop 60)) =
    crc32c 0xFFFFFFFF ((flitBytes l seq kind vc body).take 60) ^^^ 0xFFFFFFFF := by
  have hlt (w : Word) : w.toNat % 256 ^ 4 = w.toNat := Nat.mod_eq_of_lt w.isLt
  rw [flitBytes_drop60 hbody, flitBytes_take60 hbody, leNat_leBytes, hlt, BitVec.ofNat_toNat, BitVec.setWidth_eq, flitCrc]

end

/-- An end that has nothing to acknowledge and nothing to ask for, with its fields in their widths. -/
structure Link.Plain (l : Link) : Prop where
  nak : l.nakDue = false
  got : l.got = false
  freed1 : l.freed.1 < 256
  freed2 : l.freed.2.1 < 256
  freed3 : l.freed.2.2 < 4096

/-- The fields that the far end reads. -/
theorem flitHead_fields {l : Link} (h : l.Plain) {seq kind vc : Nat} (hseq : seq < 4096) (hkind : kind ≤ 3) (hvc : vc < 3) :
    flitHead l seq kind vc < 256 ^ 8 ∧ flitHead l seq kind vc % 4096 = seq ∧ flitHead l seq kind vc / 2 ^ 26 % 4 = kind ∧
      flitHead l seq kind vc / 2 ^ 28 % 4 = vc ∧ flitHead l seq kind vc / 2 ^ 24 % 2 ^ 1 = 0 ∧ flitHead l seq kind vc / 2 ^ 25 % 2 = 0 ∧
      (flitHead l seq kind vc / 2 ^ 32 % 2 ^ 8, flitHead l seq kind vc / 2 ^ 40 % 2 ^ 8, flitHead l seq kind vc / 2 ^ 48 % 2 ^ 12) =
        l.freed := by
  obtain ⟨hnak, hgot, h1, h2, h3⟩ := h
  have hhead : flitHead l seq kind vc = seq + kind * 2 ^ 26 + vc * 2 ^ 28 + l.freed.1 * 2 ^ 32 + l.freed.2.1 * 2 ^ 40 +
      l.freed.2.2 * 2 ^ 48 := by
    rw [flitHead, hnak, hgot, Nat.mod_eq_of_lt h1, Nat.mod_eq_of_lt h2, Nat.mod_eq_of_lt h3]
    simp [b2n]
  rw [hhead]
  refine ⟨by omega, by omega, by omega, by omega, by omega, by omega, ?_⟩
  exact Prod.ext (by dsimp only; omega) (Prod.ext (by dsimp only; omega) (by dsimp only; omega))

/-! ## FLIT_RECEIVE (R519, R520, R524) -/

section
variable (n : Nat) (s : State)

/-- Counters of FEC codewords are no part of what a link does with a flit. -/
theorem fecCount_frame (f : FlitIn) : fecCount n f s = { s with regs := (fecCount n f s).regs } := by
  unfold fecCount
  split <;> rfl

theorem fecCount_reg (f : FlitIn) {a : Nat} (h1 : a ≠ aStrFecCorr n) (h2 : a ≠ aStrFecUncorr n) : (fecCount n f s).reg a = s.reg a := by
  unfold fecCount
  split <;> simp [h1, h2]

theorem fecCount_linkUp (f : FlitIn) : (fecCount n f s).linkUp n = s.linkUp n := by
  rw [State.linkUp, State.linkSt, fecCount_reg]
  · rfl
  · simp [aStrStat, aStrFecCorr]
  · simp [aStrStat, aStrFecUncorr]

theorem fecCount_link (f : FlitIn) (m : Nat) : (fecCount n f s).link m = s.link m := by
  rw [fecCount_frame]
  rfl

theorem incFld_word (a k : Nat) : (s.incFld a 0 32 k).reg a = BitVec.ofNat 32 (min 0xFFFFFFFF ((s.reg a).toNat + k)) := by
  have hfld : fld (s.reg a) 0 32 = (s.reg a).toNat := by
    rw [fld, Nat.shiftRight_zero, Nat.mod_eq_of_lt (s.reg a).isLt]
  rw [State.reg_incFld, if_pos rfl, hfld, setFld, hfld]
  congr 1
  omega

/-- While FEC is on it counts its codewords. -/
theorem fecCount_counts (f : FlitIn) (hup : s.linkUp n = true) (hfec : bit (s.reg (aStrMode n)) 3 = true) :
    (fecCount n f s).reg (aStrFecCorr n) = BitVec.ofNat 32 (min 0xFFFFFFFF ((s.reg (aStrFecCorr n)).toNat + f.corr)) ∧
      (fecCount n f s).reg (aStrFecUncorr n) = BitVec.ofNat 32 (min 0xFFFFFFFF ((s.reg (aStrFecUncorr n)).toNat + f.uncorr)) := by
  have hne : aStrFecCorr n ≠ aStrFecUncorr n := by simp [aStrFecCorr, aStrFecUncorr]
  rw [fecCount, hup, hfec, Bool.and_true, if_pos rfl]
  constructor
  · rw [State.reg_incFld, if_neg hne, incFld_word]
  · rw [incFld_word, State.reg_incFld, if_neg hne.symm]

end

/-- What a link does with 64 bytes whose CRC is good or not, by their first eight as a number and by their body. -/
def flitTaken (n : Nat) (good : Bool) (h : Nat) (body : List Byte) (s : State) : State :=
  if !good then (s.onLink n Link.lostFlit).incSat (aStrCrcerr n)
  else if h / 2 ^ 26 % 4 ≠ 0 ∧ h % 4096 ≠ (s.link n).expect then s.onLink n Link.lostFlit
  else
    let s1 := s.onLink n (fun l => l.takeAck h)
    let s2 := if h / 2 ^ 25 % 2 = 1 then strReplay n s1 else s1
    if h / 2 ^ 26 % 4 = 0 then s2
    else
      let l := s2.link n
      let l' := { l with expect := (l.expect + 1) % 4096, got := true, discard := false }
      let s3 := if h / 2 ^ 26 % 4 = 3 then strFlag n 0x40000 s2 else s2
      let l' := if h / 2 ^ 26 % 4 = 3 ∧ (body.headD 0).toNat = 2 then { l' with beaconAt := l'.beaconAt ++ [s.tidePos] } else l'
      s3.setLink n (if flitKnown (h / 2 ^ 26 % 4) (h / 2 ^ 28 % 4) body then
        { l' with rx := l'.rx ++ [(h / 2 ^ 26 % 4, h / 2 ^ 28 % 4, body)] } else l'.free (h / 2 ^ 26 % 4) (h / 2 ^ 28 % 4))

theorem flitReceive_eq {n : Nat} {bs : List Byte} {s : State} (hup : s.linkUp n = true) (hlen : bs.length = 64) :
    flitReceive n bs s =
      flitTaken n (decide (BitVec.ofNat 32 (leNat (bs.drop 60)) = crc32c 0xFFFFFFFF (bs.take 60) ^^^ 0xFFFFFFFF)) (leNat (bs.take 8))
        ((bs.drop 8).take 52) s :=
  if_neg (by simp [hup, hlen])

/-- What a link does with a flit as another end sent it. -/
theorem flitReceive_flitBytes {n : Nat} {s : State} {p : Link} {seq kind vc : Nat} {body : List Byte} (hup : s.linkUp n = true)
    (hbody : body.length = 52) (hhead : flitHead p seq kind vc < 256 ^ 8) :
    flitReceive n (flitBytes p seq kind vc body) s = flitTaken n true (flitHead p seq kind vc) body s := by
  rw [flitReceive_eq hup (length_flitBytes hbody), decide_eq_true (flitBytes_good hbody), flitBytes_take8, flitBytes_body hbody,
    leNat_leBytes, Nat.mod_eq_of_lt hhead]

section
variable {n : Nat} {s : State} {h : Nat} {body : List Byte}

/-- A bad CRC: the link asks for a replay. -/
theorem flitTaken_bad : flitTaken n false h body s = (s.onLink n Link.lostFlit).incSat (aStrCrcerr n) := rfl

theorem flitTaken_out_of_order (hkind : h / 2 ^ 26 % 4 ≠ 0) (hseq : h % 4096 ≠ (s.link n).expect) :
    flitTaken n true h body s = s.onLink n Link.lostFlit := by
  rw [flitTaken, if_neg (by simp), if_pos ⟨hkind, hseq⟩]

/-- The link once it has taken the credits of a flit that acknowledges nothing. -/
theorem takeAck_of_none (l : Link) (hack : h / 2 ^ 24 % 2 ^ 1 = 0) :
    l.takeAck h = { l with cr := (h / 2 ^ 32 % 2 ^ 8, h / 2 ^ 40 % 2 ^ 8, h / 2 ^ 48 % 2 ^ 12) } := by
  simp only [Link.takeAck, hack]
  rfl

/-- A sequenced flit in order is taken; one that acknowledges and asks for nothing leaves the replay. -/
theorem flitTaken_in_order (hkind : h / 2 ^ 26 % 4 ≠ 0) (hseq : h % 4096 = (s.link n).expect) (hack : h / 2 ^ 24 % 2 ^ 1 = 0)
    (hnak : h / 2 ^ 25 % 2 = 0) (hknown : flitKnown (h / 2 ^ 26 % 4) (h / 2 ^ 28 % 4) body = true) :
    let t := flitTaken n true h body s
    (t.link n).rx = (s.link n).rx ++ [(h / 2 ^ 26 % 4, h / 2 ^ 28 % 4, body)] ∧ (t.link n).expect = ((s.link n).expect + 1) % 4096 ∧
      (t.link n).cr = (h / 2 ^ 32 % 2 ^ 8, h / 2 ^ 40 % 2 ^ 8, h / 2 ^ 48 % 2 ^ 12) ∧ (t.link n).replay = (s.link n).replay ∧
      ∀ a, a ≠ aStrStat n → t.reg a = s.reg a := by
  have hno : ¬ (h / 2 ^ 26 % 4 ≠ 0 ∧ h % 4096 ≠ (s.link n).expect) := fun e => e.2 hseq
  have hack' := takeAck_of_none (s.link n) hack
  rw [flitTaken, if_neg (by simp), if_neg hno]
  simp only [hnak, Nat.zero_ne_one, if_false, hkind, hknown, if_true, State.link_setLink, State.link_onLink, hack', State.reg_setLink]
  generalize h / 2 ^ 26 % 4 = kind
  split <;> split <;> simp_all [strFlag_reg]

end

/-- The link asks for a replay at the first flit that is lost. -/
theorem lostFlit_of_first {l : Link} (h : l.discard = false) : l.lostFlit = { l with nakDue := true, discard := true } :=
  if_neg (by simp [h])

end Sys2Proof.Machine
end

section
/-! The rows of flits (spec/13_strand_camps.md, R519, R520, R522 to R524, R527, Tables 13-3 and 13-8). -/

namespace Sys2Proof.Machine

/-! ## FLIT_SEND (R522, R527) -/

section
variable {n : Nat} {s : State}

/-- A flit that is to be sent again goes first. -/
theorem flitSend_resend (hup : s.linkUp n = true) (hre : 0 < (s.link n).resend) {f : Flit}
    (hf : (s.link n).replay[(s.link n).replay.length - (s.link n).resend]? = some f) :
    flitSend n s = s.setLink n { s.link n with
      out := flitBytes (s.link n) f.seq f.kind f.vc f.body, resend := (s.link n).resend - 1, nakDue := false } := by
  simp only [flitSend, hup, Bool.not_true, Bool.false_eq_true, if_false, hre, if_true, hf]

/-- A link with nothing to send again that has room for a flit to be acknowledged sends what it picks, and keeps it for replay. -/
theorem flitSend_pick (hup : s.linkUp n = true) (hre : (s.link n).resend = 0) (hroom : (s.link n).replay.length < 256) {k vc : Nat}
    {b : List Byte} {l' : Link} (hpick : (s.link n).pick = some (k, vc, b, l')) :
    flitSend n s = s.setLink n { l' with
      out := flitBytes (s.link n) (s.link n).seq k vc (s.stamp k b), seq := ((s.link n).seq + 1) % 4096, nakDue := false, resend := 0
      replay := (s.link n).replay ++ [{ seq := (s.link n).seq, kind := k, vc := vc, body := s.stamp k b }] } := by
  simp only [flitSend, hup, Bool.not_true, Bool.false_eq_true, if_false, hre, Nat.lt_irrefl, hroom, if_true, hpick]

/-- Otherwise it sends an idle flit, which takes no sequence number. -/
theorem flitSend_idle (hup : s.linkUp n = true) (hre : (s.link n).resend = 0)
    (hnone : 256 ≤ (s.link n).replay.length ∨ (s.link n).pick = none) :
    flitSend n s = s.setLink n { s.link n with
      out := flitBytes (s.link n) (s.link n).seq 0 0 (List.replicate 52 0), nakDue := false, resend := 0 } := by
  have hpick : (if (s.link n).replay.length < 256 then (s.link n).pick else none) = none := by
    rcases hnone with h | h
    · exact if_neg (by omega)
    · rw [h, ite_self]
  simp only [flitSend, hup, Bool.not_true, Bool.false_eq_true, if_false, hre, Nat.lt_irrefl, hpick]
  rfl

end

/-! ## What goes first (R527) -/

section
variable {l : Link}

theorem pick_mgmt {b : List Byte} {q : List (List Byte)} (h : l.mgmtQ = b :: q) : l.pick = some (3, 0, b, { l with mgmtQ := q }) := by
  simp only [Link.pick, h]

theorem pick_stream {b : List Byte} {q : List (List Byte)} (hm : l.mgmtQ = []) (h : l.streamQ = b :: q) :
    l.pick = some (2, 0, b, { l with streamQ := q }) := by
  simp only [Link.pick, hm, h]

/-- A non-posted flit does not pass an earlier posted one. -/
theorem pick_posted_first {x y : StrQ} {r r' : List StrQ} (hm : l.mgmtQ = []) (hs : l.streamQ = []) (hc : l.cplQ = [])
    (hp : l.postQ = x :: r) (hn : l.npQ = y :: r') (hord : x.ord < y.ord) :
    l.pick = (if (l.sent.1 + 256 - l.cr.1) % 256 < 64 then some (1, 0, x.body, { l with
      postQ := r, npQ := l.npQ.map (fun q => { q with waited := q.waited + 1 }), sent := ((l.sent.1 + 1) % 256, l.sent.2) }) else none) := by
  simp only [Link.pick, hm, hs, hc, hp, hn, show ¬ y.ord < x.ord by omega, decide_false, Bool.and_false, Bool.false_and, Bool.false_eq_true,
    if_false, decide_eq_true_eq]

/-- An earlier non-posted flit that 16 posted ones have passed goes first where it has credit. -/
theorem pick_nonposted {x y : StrQ} {r r' : List StrQ} (hm : l.mgmtQ = []) (hs : l.streamQ = []) (hc : l.cplQ = [])
    (hp : l.postQ = x :: r) (hn : l.npQ = y :: r') (hord : y.ord < x.ord) (hwait : 16 ≤ y.waited)
    (hcredit : (l.sent.2.1 + 256 - l.cr.2.1) % 256 < 64) :
    l.pick = some (1, 1, y.body, { l with npQ := r', sent := (l.sent.1, (l.sent.2.1 + 1) % 256, l.sent.2.2) }) := by
  simp only [Link.pick, hm, hs, hc, hp, hn, hord, hwait, hcredit, decide_true, Bool.and_true, Bool.true_or, if_true]

end

/-! ## Stamps (Table 13-8) -/

theorem stamp_of_kind {k : Nat} (hk : k ≠ 3) (s : State) (b : List Byte) : s.stamp k b = b :=
  if_neg fun h => hk h.1

/-! ## REPLAY_TIMEOUT (R522, R523) -/

theorem strReplay_spec {n : Fin 8} {s : State} (hup : s.linkUp n = true) (hne : (s.link n).replay ≠ []) :
    let t := strReplay n s
    (t.link n).replay = (s.link n).replay ∧ (t.link n).resend = (s.link n).replay.length ∧
      t.reg (aStrReplay n) = (s.incSat (aStrReplay n)).reg (aStrReplay n) ∧ t.linkSt n = (if 7 ≤ (s.link n).replays then 3 else 2) := by
  let ask (l : Link) : Link := { l with resend := l.replay.length, replays := (s.link n).replays + 1 }
  let again (l : Link) : Link := { l with replays := 0 }
  let v := (s.onLink n ask).incSat (aStrReplay n)
  have hsr : aStrStat n ≠ aStrReplay n := by simp [aStrStat, aStrReplay]
  have hst : v.linkSt n = 2 := by
    have h2 : s.linkSt n = 2 := of_decide_eq_true hup
    rw [State.linkSt, State.reg_incSat, if_neg hsr]
    exact h2
  have hlink : v.link n = { s.link n with resend := (s.link n).replay.length, replays := (s.link n).replays + 1 } :=
    (s.link_onLink n ask n).trans (if_pos rfl)
  have hcount : v.reg (aStrReplay n) = (s.incSat (aStrReplay n)).reg (aStrReplay n) := by
    rw [State.reg_incSat, State.reg_incSat, State.reg_onLink]
  have hreplay : strReplay n s = if 8 ≤ (s.link n).replays + 1 then strFail n (v.onLink n again) else v :=
    if_neg (by simpa using hne)
  dsimp only
  rw [hreplay]
  by_cases h8 : 7 ≤ (s.link n).replays
  · let w := v.onLink n again
    have hwup : w.linkUp n = true := decide_eq_true hst
    obtain ⟨hfst, -, -, hflink⟩ := strFail_spec hwup
    have hwlink : w.link n = { v.link n with replays := 0 } := (v.link_onLink n again n).trans (if_pos rfl)
    have hreg : (strFail n w).reg (aStrReplay n) = w.reg (aStrReplay n) := by
      rw [strFail, if_pos hwup, strFlag_reg, if_neg hsr.symm,
        setLinkSt_reg_below n _ _ _ (by simp only [aStrReplay]; omega) hsr.symm (by simp [aStrReplay, aStrPeer]), State.reg_incSat,
        if_neg (by simp [aStrReplay, aStrFail])]
    rw [if_pos (by omega), if_pos h8]
    refine ⟨?_, ?_, hreg.trans hcount, hfst⟩
    · rw [hflink, hwlink, hlink]
      rfl
    · rw [hflink, hwlink, hlink]
      rfl
  · rw [if_neg (by omega), if_neg h8]
    refine ⟨?_, ?_, hcount, hst⟩
    · rw [hlink]
    · rw [hlink]

/-! ## The rows together -/

/-- Settles O43: a flit's bytes read back as its fields, so it is taken, lost or discarded by them; what goes next is what the link picks. -/
theorem flitRows : Obligations.FlitRows := by
  unfold Obligations.FlitRows
  refine ⟨?inOrder, ?badCrc, ?outOfOrder, ?resend, ?order, ?timeout⟩
  case inOrder =>
    intro s n p kind vc corr uncorr body hup hk1 hk3 hvc hknown hexp hnak hgot h1 h2 h3 hown
    let f : FlitIn := ⟨flitBytes p (s.link n).expect kind vc (padBody body), corr, uncorr⟩
    obtain ⟨hhead, hseq, hkind, hvc', hack, hnak', hcr⟩ := flitHead_fields ⟨hnak, hgot, h1, h2, h3⟩ hown hk3 hvc
    have hup' := (fecCount_linkUp n s f).trans hup
    have hexec : exec (.flitReceive n f) s = .next (flitTaken n true (flitHead p (s.link n).expect kind vc) (padBody body) (fecCount n f s)) :=
      congrArg Host.Outcome.next (flitReceive_flitBytes hup' (length_padBody body) hhead)
    obtain ⟨hrx, hexpect, hcredit, hreplay, hreg⟩ := flitTaken_in_order (n := n) (s := fecCount n f s) (body := padBody body)
      (h := flitHead p (s.link n).expect kind vc) (by rw [hkind]; omega) (by rw [hseq, fecCount_link]) hack hnak' (by rw [hkind, hvc']; exact hknown)
    rw [fecCount_link] at hrx hexpect hreplay
    rw [hkind, hvc'] at hrx
    refine ⟨_, hexec, hrx, hexpect, hcredit.trans hcr, hreplay, fun hfec => ?_⟩
    obtain ⟨hc, hu⟩ := fecCount_counts n s f hup hfec
    exact ⟨(hreg _ (by simp [aStrFecCorr, aStrStat])).trans hc, (hreg _ (by simp [aStrFecUncorr, aStrStat])).trans hu⟩
  case badCrc =>
    intro s n bs corr uncorr hup hlen hdiscard hcrc
    let f : FlitIn := ⟨bs, corr, uncorr⟩
    have hup' := (fecCount_linkUp n s f).trans hup
    have hexec : exec (.flitReceive n f) s = .next (((fecCount n f s).onLink n Link.lostFlit).incSat (aStrCrcerr n)) := by
      refine congrArg Host.Outcome.next ((flitReceive_eq hup' hlen).trans ?_)
      rw [decide_eq_false hcrc, flitTaken_bad]
    have hlink : (((fecCount n f s).onLink n Link.lostFlit).incSat (aStrCrcerr n)).link n =
        { s.link n with nakDue := true, discard := true } := by
      rw [← lostFlit_of_first hdiscard]
      exact ((State.link_onLink ..).trans (if_pos rfl)).trans (by rw [fecCount_link])
    refine ⟨_, hexec, ?_, by rw [hlink], by rw [hlink], by rw [hlink]⟩
    rw [State.reg_incSat, State.reg_incSat, State.reg_onLink, fecCount_reg n s f (by simp [aStrCrcerr, aStrFecCorr])
      (by simp [aStrCrcerr, aStrFecUncorr])]
  case outOfOrder =>
    intro s n p kind vc seq corr uncorr body hup hk1 hk3 hvc hexp hnak hgot h1 h2 h3 hlt hne hdiscard
    let f : FlitIn := ⟨flitBytes p seq kind vc (padBody body), corr, uncorr⟩
    obtain ⟨hhead, hseq, hkind, -, -, -, -⟩ := flitHead_fields ⟨hnak, hgot, h1, h2, h3⟩ hlt hk3 hvc
    have hup' := (fecCount_linkUp n s f).trans hup
    have hexec : exec (.flitReceive n f) s = .next ((fecCount n f s).onLink n Link.lostFlit) := by
      refine congrArg Host.Outcome.next ((flitReceive_flitBytes hup' (length_padBody body) hhead).trans ?_)
      exact flitTaken_out_of_order (by rw [hkind]; omega) (by rw [hseq, fecCount_link]; exact hne)
    have hlink : ((fecCount n f s).onLink n Link.lostFlit).link n = { s.link n with nakDue := true, discard := true } := by
      rw [State.link_onLink, if_pos rfl, fecCount_link, lostFlit_of_first hdiscard]
    exact ⟨_, hexec, by rw [hlink], by rw [hlink], by rw [hlink], by rw [hlink], by rw [hlink]⟩
  case resend =>
    intro s n hup
    refine ⟨fun hre f hf => ⟨_, congrArg Host.Outcome.next (flitSend_resend hup hre hf), ?_⟩,
      fun hre hfull => ⟨_, congrArg Host.Outcome.next (flitSend_idle hup hre (.inl hfull)), ?_⟩⟩
    · simp
    · simp
  case order =>
    intro s n hup hre hroom
    refine ⟨fun b hb => ?_, fun b hb => if_neg fun h => hb h.2, fun b hb => if_pos ⟨rfl, hb⟩, fun hm b hb => ?_, fun hm hs hc x hx y hy => ?_⟩
    · obtain ⟨q, hq⟩ := List.head?_eq_some_iff.mp hb
      refine ⟨_, congrArg Host.Outcome.next (flitSend_pick hup hre hroom (pick_mgmt hq)), ?_⟩
      simp [hq]
    · obtain ⟨q, hq⟩ := List.head?_eq_some_iff.mp hb
      refine ⟨_, congrArg Host.Outcome.next (flitSend_pick hup hre hroom (pick_stream hm hq)), ?_⟩
      simp [hq, stamp_of_kind]
    · obtain ⟨r, hr⟩ := List.head?_eq_some_iff.mp hx
      obtain ⟨r', hr'⟩ := List.head?_eq_some_iff.mp hy
      refine ⟨fun hord => ?_, fun hord hwait hcredit => ?_⟩
      · have hpick := pick_posted_first hm hs hc hr hr' hord
        split at hpick
        · refine ⟨_, congrArg Host.Outcome.next (flitSend_pick hup hre hroom hpick), ?_⟩
          simp [Function.comp_def]
        · refine ⟨_, congrArg Host.Outcome.next (flitSend_idle hup hre (.inr hpick)), ?_⟩
          simp
      · refine ⟨_, congrArg Host.Outcome.next (flitSend_pick hup hre hroom (pick_nonposted hm hs hc hr hr' hord hwait hcredit)), ?_⟩
        simp [hr', stamp_of_kind]
  case timeout =>
    intro s n hup hne
    exact ⟨_, congrArg Host.Outcome.next (if_pos hup), strReplay_spec hup hne⟩

end Sys2Proof.Machine
end

section
/-! Stream blocks on Strand links (spec/13_strand_camps.md, R535 to R539, Table 13-7): the flits of a block that an output route sends, the
block that a flit completes, and the deadline. -/

namespace Sys2Proof.Machine

/-! ## Bodies received that are no transactions -/

/-- Machine s once the oldest body received on link n has been taken, where it is no transaction. -/
def State.popRx (s : State) (n : Nat) : State := s.setLink n { s.link n with rx := (s.link n).rx.tail }

/-- A stream or management body that heads the queue of what a link has received is taken by the command of its kind and type. -/
theorem takeRx_popRx {s : State} {n kind ty : Nat} {e : Nat × Nat × List Byte} (he : (s.link n).rx.head? = some e) (hkind : e.1 = kind)
    (h1 : kind ≠ 1) (hty : kind = 3 → (e.2.2.headD 0).toNat = ty) : takeRx n kind 0 ty s = some (e.2.2, s.popRx n) := by
  obtain ⟨rest, hrx⟩ := List.head?_eq_some_iff.mp he
  unfold takeRx State.popRx
  by_cases h3 : kind = 3
  · simpa [hrx, List.findIdx?_cons, hkind, h3, Link.free] using hty h3
  · simp [hrx, List.findIdx?_cons, hkind, h1, h3, Link.free]

theorem State.popRx_link (s : State) (n : Nat) : (s.popRx n).link n = { s.link n with rx := (s.link n).rx.tail } := by
  rw [State.popRx, State.link_setLink, if_pos rfl]

/-! ## STREAM_BLOCK_SEND (R535 to R537) -/

/-- A body waits among the stream flits of a link. -/
def putStream (n : Nat) (b : List Byte) (s : State) : State := s.onLink n (fun l => { l with streamQ := l.streamQ ++ [b] })

theorem putStream_streamQ (n : Nat) (b : List Byte) (s : State) : ((putStream n b s).link n).streamQ = (s.link n).streamQ ++ [b] := by
  rw [putStream, State.link_onLink, if_pos rfl]

/-- What a route reads does not depend on the links and routes. -/
theorem putStream_routeRead (m : Nat) (b : List Byte) (s : State) (a n : Nat) : (putStream m b s).routeRead a n = s.routeRead a n := rfl

theorem routeSent_routeRead (r : Nat) (s : State) (a n : Nat) : (routeSent r s).routeRead a n = s.routeRead a n := rfl

/-- The bodies of a list are put in turn, each as the machine s reads it. -/
theorem foldS_putStream {s : State} (n : Nat) (at_ len : Nat → Nat) (body : Nat → List Byte → List Byte) (l : List Nat)
    (hread : ∀ i ∈ l, (s.routeRead (at_ i) (len i)).isSome = true) (u : State) (hu : ∀ a k, u.routeRead a k = s.routeRead a k) :
    ((foldS (fun i s => match s.routeRead (at_ i) (len i) with
      | some d => putStream n (body i d) s
      | none => streamDrop n s) l u).link n).streamQ =
      (u.link n).streamQ ++ l.map (fun i => body i ((s.routeRead (at_ i) (len i)).getD [])) := by
  induction l generalizing u with
  | nil => exact (List.append_nil _).symm
  | cons i l ih =>
    obtain ⟨d, hd⟩ := Option.isSome_iff_exists.mp (hread i List.mem_cons_self)
    rw [foldS, hu, hd]
    dsimp only
    rw [ih (fun j hj => hread j (List.mem_cons_of_mem _ hj)) _ (fun a k => (putStream_routeRead ..).trans (hu a k)), putStream_streamQ,
      List.map_cons, hd, List.append_assoc]
    rfl

section
variable {s : State} {r : Nat} {x : RtRun} {p : Part}

/-- A route that has a block to send, to a member that is admitted. -/
theorem streamSend_due (hx : s.sap.routes[r]? = some x) (hp : s.part? x.route.part = some p) (hkind : x.route.kind = 3) (hlive : x.live = true)
    (hfirst : x.first ≠ s.sentMark x) (hadm : s.bothAdmitted (fld (s.reg (aStrPeer (x.route.port % 8))) 0 3) = true)
    (hdone : (s.pt p.part).inFrame = true → (s.pt p.part).committed = true) :
    streamSend r s =
      if !(s.pt p.part).inFrame || bit (s.reg (aBwtrPtCwHi p.part)) 2 then
        putStream (x.route.port % 8) (streamBody x.route.stream 0 true (s.streamFrame p (s.framesGone x)) []) (routeSent r s)
      else foldS (fun i u => match u.routeRead ((if x.route.half then p.ebbBase (s.ptEbb p.part) else 0) + x.route.addr + 48 * i)
            (min 48 (x.route.stride - 48 * i)) with
          | some d => putStream (x.route.port % 8) (streamBody x.route.stream i false (s.streamFrame p (s.framesGone x)) d) u
          | none => streamDrop (x.route.port % 8) u) (List.range (streamFlits x.route.stride)) (routeSent r s) := by
  have hgoes : ¬ (x.route.kind ≠ 3 ∨ x.live = false ∨ x.first = s.sentMark x ∨ ((s.pt p.part).inFrame && !(s.pt p.part).committed) = true) := by
    cases hin : (s.pt p.part).inFrame with
    | false => simp [hkind, hlive, hfirst]
    | true => simp [hkind, hlive, hfirst, hdone hin]
  simp only [streamSend, hx, hp]
  rw [if_neg hgoes, hadm]
  rfl

theorem routeSent_link (r : Nat) (s : State) (n : Nat) : (routeSent r s).link n = s.link n := rfl

end

/-! ## The write of a block (R495, R537) -/

/-- The requests of a list of blocks: each for its part of the bytes. -/
theorem foldS_putBlock (x : RtRun) (q a0 w : Nat) (bytes : List Byte) :
    ∀ (fuel a n : Nat) (s : State), n < fuel → a0 ≤ a →
      ∃ l, (foldS (putBlock x q a0 w bytes) (beats fuel a n) s).memc.reqs = s.memc.reqs ++ l ∧
        l.flatMap (fun e => e.data) = (bytes.drop (a - a0)).take n ∧
        (0 < n → l.head?.map (fun e => (e.ini, e.kind, e.addr)) = some (.route, .store, s.routeAddr a)) := by
  intro fuel
  induction fuel with
  | zero => intro a n s hn; omega
  | succ fuel ih =>
    intro a n s hn ha
    by_cases hpos : 0 < n
    · let k := min n (32 - a % 32)
      have hk : 0 < k ∧ k ≤ n := by omega
      obtain ⟨l, hreqs, hdata, -⟩ := ih (a + k) (n - k) (putBlock x q a0 w bytes (a, k) s) (by omega) (by omega)
      let e : FabReq := { id := s.memc.nextId, ini := .route, kind := .store, addr := s.routeAddr a, len := k,
                          data := (bytes.drop (a - a0)).take k, cst := 0, cls := 3, here := false, mask := none, st := .waiting }
      have hone : (putBlock x q a0 w bytes (a, k) s).memc.reqs = s.memc.reqs ++ [e] := rfl
      rw [beats_cons hpos, foldS]
      refine ⟨e :: l, ?_, ?_, fun _ => rfl⟩
      · exact hreqs.trans (by rw [hone, List.append_assoc]; rfl)
      · rw [List.flatMap_cons, hdata]
        show (bytes.drop (a - a0)).take k ++ (bytes.drop (a + k - a0)).take (n - k) = _
        rw [show a + k - a0 = a - a0 + k by omega, ← List.drop_drop, ← List.take_add, show k + (n - k) = n by omega]
    · have h0 : n = 0 := by omega
      subst h0
      exact ⟨[], by rw [beats_zero, List.append_nil]; rfl, by simp, fun h => absurd h (by decide)⟩

/-- The writes of a route's block change the requests of the fabric and what waits of the routes. -/
theorem routePut_frame (x : RtRun) (q idx i per w : Nat) (bytes : List Byte) (s : State) :
    ∃ m ps, routePut x q idx i per w bytes s = { s with memc := m, sap := { s.sap with puts := ps } } := by
  rw [routePut_eq]
  generalize beats (per * w + 1) _ (per * w) = l
  induction l generalizing s with
  | nil => exact ⟨s.memc, s.sap.puts, rfl⟩
  | cons e l ih =>
    obtain ⟨m, ps, h⟩ := ih (putBlock x q (x.route.addr + idx * x.route.stride + i * per * w) w bytes e s)
    exact ⟨m, ps, by rw [foldS, h]; rfl⟩

/-! ## Held blocks (R538, R539) -/

theorem strBlk_stream (s : State) (n stream : Nat) : (s.strBlk n stream).stream = stream := by
  unfold State.strBlk
  cases h : (s.link n).blocks.find? (fun b => decide (b.stream = stream)) with
  | none => rfl
  | some b => simpa using List.find?_some h

/-- The block that a link holds is the one put last. -/
theorem strBlk_setBlk (s : State) (n : Nat) (b : StrBlk) : (s.setBlk n b).strBlk n b.stream = b := by
  have hnone : ((s.link n).blocks.filter (fun x => decide (x.stream ≠ b.stream))).find? (fun x => decide (x.stream = b.stream)) = none := by
    simp [List.find?_eq_none]
  simp only [State.strBlk, State.setBlk, State.link_onLink, if_true, List.find?_append, hnone]
  simp

/-- A block of at most 48 bytes has one flit, whose bytes are the block's. -/
theorem blockBytes_one {b : Nat} (hpos : 0 < b) (hle : b ≤ 48) (d : List Byte) : blockBytes b [(0, d)] = d.take b := by
  have hflits : streamFlits b = 1 := by
    unfold streamFlits
    omega
  simp [blockBytes, hflits]

/-- What the write of a block leaves: its requests, the mark of the last block, and the block closed. -/
theorem streamWrite_spec (n : Nat) (x : RtRun) (k : StrBlk) (nodata : Bool) (s : State) :
    let t := streamWrite n x k nodata s
    t.strBlk n k.stream = { k with flits := [], closed := true } ∧
      (∀ a, t.reg a = if a = aStrSlast n then BitVec.ofNat 32 (k.frame % 65536 + b2n nodata * 65536) else s.reg a) ∧
      ∃ l, t.memc.reqs = s.memc.reqs ++ l ∧
        l.flatMap (fun e => e.data) = (if nodata then List.replicate x.route.stride (0 : Byte) else blockBytes x.route.stride k.flits).take
          x.route.stride ∧
        (0 < x.route.stride → l.head?.map (fun e => (e.ini, e.kind, e.addr)) =
          some (.route, .store, s.routeAddr (x.route.addr + x.idx * x.route.stride))) := by
  let bytes := if nodata then List.replicate x.route.stride (0 : Byte) else blockBytes x.route.stride k.flits
  let v := routePut x x.start x.idx 0 x.route.stride 1 bytes s
  obtain ⟨m, ps, hput⟩ : ∃ m ps, v = { s with memc := m, sap := { s.sap with puts := ps } } := routePut_frame ..
  have hwrite : streamWrite n x k nodata s =
    (v.setReg (aStrSlast n) (BitVec.ofNat 32 (k.frame % 65536 + b2n nodata * 65536))).setBlk n { k with flits := [], closed := true } := rfl
  have hv : ∀ a, v.reg a = s.reg a := fun a => by rw [hput]; rfl
  refine ⟨strBlk_setBlk _ n { k with flits := [], closed := true }, fun a => ?_, ?_⟩
  · rw [hwrite]
    exact (State.reg_setReg ..).trans (by rw [hv])
  · obtain ⟨l, hreqs, hdata, hhead⟩ := foldS_putBlock x x.start (x.route.addr + x.idx * x.route.stride + 0 * x.route.stride * 1) 1 bytes
      (x.route.stride * 1 + 1) _ (x.route.stride * 1) s (Nat.lt_succ_self _) le_rfl
    refine ⟨l, hreqs, hdata.trans (by rw [Nat.sub_self, List.drop_zero, Nat.mul_one]), fun hpos => ?_⟩
    have h := hhead (by omega)
    rwa [Nat.zero_mul, Nat.zero_mul, Nat.add_zero] at h

/-! ## STREAM_FLIT (R537 to R539, R550) -/

section
variable {s : State} {n : Nat} {e : Nat × Nat × List Byte} {x : RtRun}

/-- The stream of a body, its flit's place in the block, and the number of its frame. -/
def bodyStream (b : List Byte) : Nat := leNat (b.take 4) % 256

/-- A flit that comes too late for its block is dropped. -/
theorem streamTake_late (he : (s.link n).rx.head? = some e) (hkind : e.1 = 2)
    (hadm : s.bothAdmitted (fld (s.reg (aStrPeer n)) 0 3) = true) (hx : s.strRoute n (bodyStream e.2.2) = some x)
    (hlate : (s.strBlk n (bodyStream e.2.2)).closed = true ∨ s.flitLate x (leNat (e.2.2.take 4) / 2 ^ 16 % 65536) = true) :
    streamTake n s = streamDrop n (s.popRx n) := by
  have hx' : (s.popRx n).strRoute n (leNat (e.2.2.take 4) % 256) = some x := hx
  have hblk : (s.popRx n).strBlk n (leNat (e.2.2.take 4) % 256) = s.strBlk n (bodyStream e.2.2) := by
    rw [State.strBlk, State.popRx_link]
    rfl
  have hadm' : (s.popRx n).bothAdmitted (fld ((s.popRx n).reg (aStrPeer n)) 0 3) = true := hadm
  have hflit : (s.popRx n).flitLate x (leNat (e.2.2.take 4) / 2 ^ 16 % 65536) = s.flitLate x (leNat (e.2.2.take 4) / 2 ^ 16 % 65536) := rfl
  unfold streamTake
  rw [takeRx_popRx he hkind (by decide) (fun h => absurd h (by decide))]
  dsimp only
  rw [hadm', if_neg (by decide), hx']
  dsimp only
  rw [hblk, hflit, if_pos]
  rcases hlate with h | h
  · rw [h, Bool.true_or, Bool.true_or]
  · rw [h, Bool.or_true, Bool.true_or]

/-- The one flit of a block of at most 48 bytes completes it. -/
theorem streamTake_completes (he : (s.link n).rx.head? = some e) (hkind : e.1 = 2)
    (hadm : s.bothAdmitted (fld (s.reg (aStrPeer n)) 0 3) = true) (hx : s.strRoute n (bodyStream e.2.2) = some x)
    (hopen : (s.strBlk n (bodyStream e.2.2)).closed = false) (hempty : (s.strBlk n (bodyStream e.2.2)).flits = [])
    (hroom : (s.link n).blocks.foldl (fun a b => a + b.flits.length) 0 < 64) (hplace : leNat (e.2.2.take 4) / 2 ^ 8 % 128 = 0)
    (hlate : s.flitLate x (leNat (e.2.2.take 4) / 2 ^ 16 % 65536) = false) (hpos : 0 < x.route.stride) (hle : x.route.stride ≤ 48) :
    ∃ k : StrBlk, k.stream = bodyStream e.2.2 ∧ k.frame = leNat (e.2.2.take 4) / 2 ^ 16 % 65536 ∧
      (leNat (e.2.2.take 4) / 2 ^ 15 % 2 ≠ 1 → k.flits = [(0, (e.2.2.drop 4).take 48)]) ∧
      streamTake n s = streamWrite n x k (decide (leNat (e.2.2.take 4) / 2 ^ 15 % 2 = 1)) (s.popRx n) := by
  have hx' : (s.popRx n).strRoute n (leNat (e.2.2.take 4) % 256) = some x := hx
  have hblk : (s.popRx n).strBlk n (leNat (e.2.2.take 4) % 256) = s.strBlk n (bodyStream e.2.2) := by
    rw [State.strBlk, State.popRx_link]
    rfl
  have hadm' : (s.popRx n).bothAdmitted (fld ((s.popRx n).reg (aStrPeer n)) 0 3) = true := hadm
  have hflit : (s.popRx n).flitLate x (leNat (e.2.2.take 4) / 2 ^ 16 % 65536) = false := hlate
  have hheld : ((s.popRx n).link n).blocks = (s.link n).blocks := by rw [State.popRx_link]
  have hflits : streamFlits x.route.stride = 1 := by
    unfold streamFlits
    omega
  let k0 : StrBlk := { s.strBlk n (bodyStream e.2.2) with frame := leNat (e.2.2.take 4) / 2 ^ 16 % 65536 }
  have htake : streamTake n s = if leNat (e.2.2.take 4) / 2 ^ 15 % 2 = 1 then streamWrite n x k0 true (s.popRx n)
      else streamWrite n x { k0 with flits := [(0, (e.2.2.drop 4).take 48)] } false (s.popRx n) := by
    unfold streamTake
    rw [takeRx_popRx he hkind (by decide) (fun h => absurd h (by decide))]
    dsimp only
    rw [hadm', if_neg (by decide), hx']
    dsimp only
    rw [hblk, hflit, hheld, hopen, hempty, hplace, decide_eq_false (by omega : ¬ 64 ≤ _), if_neg (by decide), hflits]
    simp only [decide_eq_true_eq, List.filter_nil, List.nil_append]
    rfl
  by_cases hno : leNat (e.2.2.take 4) / 2 ^ 15 % 2 = 1
  · exact ⟨k0, strBlk_stream _ _ _, rfl, fun h => absurd hno h, by rw [htake, if_pos hno, decide_eq_true hno]⟩
  · exact ⟨{ k0 with flits := [(0, (e.2.2.drop 4).take 48)] }, strBlk_stream _ _ _, rfl, fun _ => rfl,
      by rw [htake, if_neg hno, decide_eq_false hno]⟩

end

/-! ## STREAM_BLOCK_DEADLINE (R539) -/

/-- An input route's block at its deadline: it is written as it is, and marked incomplete. -/
def deadlineOf (p : Part) (x : RtRun) (s : State) : State :=
  let n := x.route.port % 8
  let k := s.strBlk n x.route.stream
  if k.closed then s
  else
    let k := if k.flits.isEmpty then { k with frame := s.streamFrame p (s.framesGone x) % 65536 } else k
    strFlag n 0x20000 ((streamWrite n x k false s).incFld (aStrSdrop n) 16 16 1)

theorem streamDeadline_eq {pt : Nat} {p : Part} {s : State} (hp : s.part? pt = some p) :
    streamDeadline pt s =
      foldS (deadlineOf p) (s.sap.routes.filter (fun x => x.live && decide (x.route.kind = 2) && decide (x.route.part = pt))) s := by
  simp only [streamDeadline, hp]
  rfl

/-- A block that is open at its deadline. -/
theorem deadlineOf_open {p : Part} {x : RtRun} {s : State} (hopen : (s.strBlk (x.route.port % 8) x.route.stream).closed = false) :
    let t := deadlineOf p x s
    (t.strBlk (x.route.port % 8) x.route.stream).closed = true ∧ bit (t.reg (aStrStat (x.route.port % 8))) 17 = true ∧
      fld (t.reg (aStrSdrop (x.route.port % 8))) 16 16 = min 0xFFFF (fld (s.reg (aStrSdrop (x.route.port % 8))) 16 16 + 1) := by
  obtain ⟨k, hstream, hdue⟩ : ∃ k : StrBlk, k.stream = x.route.stream ∧ deadlineOf p x s = strFlag (x.route.port % 8) 0x20000
      ((streamWrite (x.route.port % 8) x k false s).incFld (aStrSdrop (x.route.port % 8)) 16 16 1) := by
    refine ⟨if (s.strBlk (x.route.port % 8) x.route.stream).flits.isEmpty then
      { s.strBlk (x.route.port % 8) x.route.stream with frame := s.streamFrame p (s.framesGone x) % 65536 }
      else s.strBlk (x.route.port % 8) x.route.stream, ?_, ?_⟩
    · split <;> exact strBlk_stream _ _ _
    · exact if_neg (by simp [hopen])
  obtain ⟨hblk, hreg, -⟩ := streamWrite_spec (x.route.port % 8) x k false s
  have hold : (streamWrite (x.route.port % 8) x k false s).reg (aStrSdrop (x.route.port % 8)) = s.reg (aStrSdrop (x.route.port % 8)) :=
    (hreg _).trans (if_neg (by simp [aStrSdrop, aStrSlast]))
  rw [hstream] at hblk
  dsimp only
  rw [hdue]
  refine ⟨?_, bit_strFlag (by decide) _ _, ?_⟩
  · exact congrArg StrBlk.closed hblk
  · rw [strFlag_reg, if_neg (by simp [aStrSdrop, aStrStat]), State.reg_incFld, if_pos rfl, hold,
      fld_setFld_same _ (by decide) (Nat.lt_of_le_of_lt (Nat.min_le_left _ _) (by decide))]
    rfl

end Sys2Proof.Machine
end

section
/-! The camp (spec/13_strand_camps.md, R540 to R549): the state, map and epoch that a member holds, what HELLO records, the keeper that R542
ranks highest, admission, quarantine, and the loss of a member. -/

namespace Sys2Proof.Machine

/-! ## CAMP_STAT -/

section
variable (st r : Nat) (s : State)

theorem setCampState_frame : setCampState st r s = { s with regs := (setCampState st r s).regs } := by
  unfold setCampState
  dsimp only
  split <;> rfl

theorem setCampState_reg {a : Nat} (ha : a ≠ aCampStat) : (setCampState st r s).reg a = s.reg a := by
  unfold setCampState
  dsimp only
  split <;> simp [ha]

/-- CAMP_STAT with a state and a reason. -/
theorem setCampState_stat : ∃ m : Word, (m = 0 ∨ m = 0x100) ∧
    (setCampState st r s).reg aCampStat = setFld (setFld (s.reg aCampStat) 2 2 st) 4 2 r ||| m := by
  unfold setCampState
  dsimp only
  split
  · exact ⟨0, .inl rfl, by simp⟩
  · exact ⟨0x100, .inr rfl, by simp⟩

theorem setCampState_bit {i : Nat} (hi : i < 2 ∨ 6 ≤ i ∧ i ≠ 8) :
    bit ((setCampState st r s).reg aCampStat) i = bit (s.reg aCampStat) i := by
  obtain ⟨m, hm, h⟩ := setCampState_stat st r s
  have hmask : bit m i = false := by
    rcases hm with rfl | rfl
    · exact BitVec.getLsbD_zero
    · exact (bit_bitW_eq (i := 8) (by decide) i).trans (decide_eq_false (by omega))
  rw [h, bit_or, hmask, Bool.or_false, bit_setFld_of_disjoint _ (by decide) (by omega), bit_setFld_of_disjoint _ (by decide) (by omega)]

theorem setCampState_state (hst : st < 4) : (setCampState st r s).campState = st := by
  obtain ⟨m, hm, h⟩ := setCampState_stat st r s
  have hmask : fld m 2 2 = 0 := by rcases hm with rfl | rfl <;> rfl
  rw [State.campState, h, fld_or_of_zero hmask, fld_setFld_of_disjoint _ (by decide) (by decide), fld_setFld_same _ (by decide) hst]

theorem setCampState_reason (hr : r < 4) : fld ((setCampState st r s).reg aCampStat) 4 2 = r := by
  obtain ⟨m, hm, h⟩ := setCampState_stat st r s
  have hmask : fld m 4 2 = 0 := by rcases hm with rfl | rfl <;> rfl
  rw [h, fld_or_of_zero hmask, fld_setFld_same _ (by decide) hr]

end

/-- A change of CAMP_STAT that leaves the role and the flags beside complete, state_chg, state and mismatch; and of nothing else but what a
quarantine has interrupted. -/
structure State.CampTurn (s t : State) : Prop where
  frame : ∃ r w, t = { s with regs := r, camp := { s.camp with was := w } }
  reg : ∀ a, a ≠ aCampStat → t.reg a = s.reg a
  stat : ∀ i, i < 2 ∨ 7 ≤ i ∧ i ≠ 8 → bit (t.reg aCampStat) i = bit (s.reg aCampStat) i

theorem State.CampTurn.refl (s : State) : s.CampTurn s := ⟨⟨s.regs, s.camp.was, rfl⟩, fun _ _ => rfl, fun _ _ => rfl⟩

theorem State.CampTurn.trans {s t u : State} (h : s.CampTurn t) (h' : t.CampTurn u) : s.CampTurn u := by
  obtain ⟨r, w, rfl⟩ := h.frame
  obtain ⟨r', w', rfl⟩ := h'.frame
  exact ⟨⟨r', w', rfl⟩, fun a ha => (h'.reg a ha).trans (h.reg a ha), fun i hi => (h'.stat i hi).trans (h.stat i hi)⟩

theorem setCampState_turn (st r : Nat) (s : State) : s.CampTurn (setCampState st r s) :=
  ⟨⟨_, s.camp.was, setCampState_frame st r s⟩, fun _ ha => setCampState_reg st r s ha, fun _ hi => setCampState_bit st r s (by omega)⟩

theorem quarantine_turn (r : Nat) (s : State) : s.CampTurn (quarantine r s) := by
  have hwas : s.CampTurn (if s.campState = 3 then s else { s with camp := { s.camp with was := s.campState } }) := by
    split
    · exact .refl s
    · exact ⟨⟨s.regs, s.campState, rfl⟩, fun _ _ => rfl, fun _ _ => rfl⟩
  exact hwas.trans (setCampState_turn 3 r _)

theorem clearMismatch_turn (s : State) : s.CampTurn (s.clrReg aCampStat 0x40) := by
  refine ⟨⟨_, s.camp.was, rfl⟩, fun a ha => (s.reg_clrReg _ _ a).trans (if_neg ha), fun i hi => ?_⟩
  rw [State.reg_clrReg, if_pos rfl]
  by_cases hlt : i < 32
  · rw [bit_and_not hlt]
    have hmask : bit 0x40 i = false := (bit_bitW_eq (i := 6) (by decide) i).trans (decide_eq_false (by omega))
    rw [hmask, Bool.not_false, Bool.and_true]
  · have hhigh (v : Word) : bit v i = false := BitVec.getLsbD_of_ge v i (by omega)
    rw [hhigh, hhigh]

/-- Does the image of a keeper that the device has heard differ from its own (R548)? -/
def State.keeperDiffers (s : State) : Bool :=
  match s.keeper with
  | some k => s.camp.heard.testBit k && !s.sameImage k
  | none => false

theorem campJudge_eq (s : State) : campJudge s =
    if s.campState = 0 ∨ s.campRole = 0 ∨ (s.campState = 3 ∧ fld (s.reg aCampStat) 4 2 = 2) then s
    else if s.campRole = 2 then
      if s.campState = 3 then setCampState s.camp.was 0 (s.clrReg aCampStat 0x40) else s.clrReg aCampStat 0x40
    else if s.keeperDiffers then quarantine 1 s
    else if bit (s.reg aCampStat) 6 then quarantine 3 s
    else if s.campState = 3 then setCampState s.camp.was 0 s
    else s := rfl

theorem campJudge_turn (s : State) : s.CampTurn (campJudge s) := by
  rw [campJudge_eq]
  split
  · exact .refl s
  · split
    · split
      · exact (clearMismatch_turn s).trans (setCampState_turn _ 0 _)
      · exact clearMismatch_turn s
    · split_ifs
      · exact quarantine_turn 1 s
      · exact quarantine_turn 3 s
      · exact setCampState_turn _ 0 s
      · exact .refl s

section
variable {s t : State} (h : s.CampTurn t)
include h

theorem State.CampTurn.campRole : t.campRole = s.campRole :=
  fld_congr fun i _ hi => h.stat i (.inl (by omega))

theorem State.CampTurn.heard : t.camp.heard = s.camp.heard := by
  obtain ⟨r, w, rfl⟩ := h.frame
  rfl

end

/-! ## Who is reached -/

/-- Registers of the links stand below the camp's. -/
theorem reached_congr {s t : State} (h : ∀ a, a < 0x40280000 → t.reg a = s.reg a) : t.reached = s.reached := by
  have hlink (n : Nat) (hn : n < 8) : t.linkUp n = s.linkUp n ∧ t.reg (aStrPeer n) = s.reg (aStrPeer n) := by
    refine ⟨?_, h _ (by simp only [aStrPeer]; omega)⟩
    rw [State.linkUp, State.linkSt, h _ (by simp only [aStrStat]; omega)]
    rfl
  unfold State.reached
  refine List.foldl_ext _ _ _ fun m n hn => ?_
  obtain ⟨hup, hpeer⟩ := hlink n (List.mem_range.mp hn)
  rw [hup, hpeer]

/-! ## HELLO goes out (R540) -/

theorem helloAll_frame (s : State) :
    helloAll s = { s with links := (helloAll s).links, camp := { s.camp with hello := s.helloBody } } := by
  have hfold (b : List Byte) (l : List Nat) : ∀ u : State, foldS (fun n s => if s.linkUp n then mgmtSend n b s else s) l u =
      { u with links := (foldS (fun n s => if s.linkUp n then mgmtSend n b s else s) l u).links } := by
    induction l with
    | nil => exact fun u => rfl
    | cons n l ih =>
      intro u
      have hone : (if u.linkUp n then mgmtSend n b u else u) = { u with links := (if u.linkUp n then mgmtSend n b u else u).links } := by
        split <;> rfl
      rw [foldS, ih, hone]
  exact hfold _ _ _

theorem helloChange_frame (s : State) : ∃ l h, helloChange s = { s with links := l, camp := { s.camp with hello := h } } := by
  unfold helloChange
  split
  · exact ⟨s.links, s.camp.hello, rfl⟩
  · exact ⟨_, _, helloAll_frame s⟩

/-- HELLO_TIMER sends one HELLO on every UP link. -/
theorem helloAll_mgmtQ (s : State) (n : Fin 8) :
    ((helloAll s).link n).mgmtQ = if s.linkUp n then (s.link n).mgmtQ ++ [padBody s.helloBody] else (s.link n).mgmtQ := by
  have hfold (b : List Byte) (l : List Nat) (hl : l.Nodup) : ∀ u : State,
      ((foldS (fun n s => if s.linkUp n then mgmtSend n b s else s) l u).link n).mgmtQ =
        if n.val ∈ l ∧ u.linkUp n = true then (u.link n).mgmtQ ++ [padBody b] else (u.link n).mgmtQ := by
    induction l with
    | nil => intro u; simp [foldS]
    | cons m l ih =>
      intro u
      have hup : (if u.linkUp m then mgmtSend m b u else u).linkUp n = u.linkUp n := by split <;> rfl
      have hm := List.nodup_cons.mp hl
      rw [foldS, ih hm.2, hup]
      by_cases hnm : n.val = m
      · subst hnm
        rw [if_neg fun h => hm.1 h.1]
        cases hu : u.linkUp n <;> simp [mgmtSend]
      · have hother : (if u.linkUp m then mgmtSend m b u else u).link n = u.link n := by
          split
          · exact (State.link_onLink ..).trans (if_neg hnm)
          · rfl
        rw [hother]
        simp [hnm]
  have h := hfold s.helloBody (List.range 8) List.nodup_range { s with camp := { s.camp with hello := s.helloBody } }
  refine h.trans ?_
  simp only [List.mem_range, n.isLt, true_and]
  rfl

end Sys2Proof.Machine
end

section
/-! The keeper that R542 ranks highest, and the records of a member by HELLO (spec/13_strand_camps.md, R540, R542, R547, Table 13-8). -/

namespace Sys2Proof.Machine

/-! ## Ranks (R542) -/

theorem campAbove_iff {p i q j : Nat} : campAbove p i q j = true ↔ q < p ∨ q = p ∧ i < j := by
  simp [campAbove]

/-- The higher ranked of the best so far and a candidate. -/
def campBetter (b : Option (Nat × Nat)) (e : Nat × Nat) : Option (Nat × Nat) :=
  match b with
  | none => some e
  | some x => if campAbove e.1 e.2 x.1 x.2 then some e else some x

/-- The best of a list is one of it, and is ranked above every other. -/
theorem foldl_campBetter (cs : List (Nat × Nat)) : ∀ (b : Option (Nat × Nat)) (r : Nat × Nat), cs.foldl campBetter b = some r →
    (r ∈ cs ∨ b = some r) ∧ (∀ e ∈ cs, e = r ∨ campAbove r.1 r.2 e.1 e.2 = true) ∧
      ∀ x, b = some x → x = r ∨ campAbove r.1 r.2 x.1 x.2 = true := by
  induction cs with
  | nil => exact fun b r h => ⟨.inr h, by simp, fun x hx => .inl (Option.some.inj (hx.symm.trans h))⟩
  | cons e cs ih =>
    intro b r h
    obtain ⟨hmem, hall, hnext⟩ := ih (campBetter b e) r h
    have hstep : (campBetter b e = some e ∧ ∀ x, b = some x → campAbove e.1 e.2 x.1 x.2 = true) ∨
        ∃ x, b = some x ∧ campBetter b e = some x ∧ (e = x ∨ campAbove x.1 x.2 e.1 e.2 = true) := by
      cases b with
      | none => exact .inl ⟨rfl, by simp⟩
      | some x =>
        by_cases hab : campAbove e.1 e.2 x.1 x.2 = true
        · exact .inl ⟨if_pos hab, fun y hy => Option.some.inj hy ▸ hab⟩
        · refine .inr ⟨x, rfl, if_neg hab, ?_⟩
          rw [campAbove_iff] at hab ⊢
          by_cases heq : e = x
          · exact .inl heq
          · have hne : e.1 ≠ x.1 ∨ e.2 ≠ x.2 := by
              by_contra hc
              simp only [not_or, not_not] at hc
              exact heq (Prod.ext hc.1 hc.2)
            exact .inr (by omega)
    rcases hstep with ⟨hb, habove⟩ | ⟨x, hx, hb, hrank⟩
    · have he := hnext e hb
      refine ⟨.inl ?_, List.forall_mem_cons.mpr ⟨he, hall⟩, fun x hx => .inr ?_⟩
      · rcases hmem with hm | hm
        · exact List.mem_cons_of_mem _ hm
        · exact List.mem_cons.mpr (.inl (Option.some.inj (hm.symm.trans hb)))
      · have hex := habove x hx
        rcases he with rfl | her
        · exact hex
        · rw [campAbove_iff] at hex her ⊢
          omega
    · have hx' := hnext x hb
      refine ⟨?_, List.forall_mem_cons.mpr ⟨?_, hall⟩, fun y hy => ?_⟩
      · rcases hmem with hm | hm
        · exact .inl (List.mem_cons_of_mem _ hm)
        · exact .inr (hx.trans (hb.symm.trans hm))
      · rcases hrank with rfl | hrank
        · exact hx'
        · rcases hx' with rfl | hx'
          · exact .inr hrank
          · rw [campAbove_iff] at hrank hx'
            exact .inr (campAbove_iff.mpr (by omega))
      · rw [← Option.some.inj (hx.symm.trans hy)]
        exact hx'

/-- The priority with which member m may become the keeper: its own, or that of its HELLO while UP links reach it. -/
def State.campPrio (s : State) (m : Nat) : Nat :=
  if m = s.ownId then fld (s.reg aCampCfg) 0 8
  else if s.camp.heard.testBit m && s.reached.testBit m then fld (s.reg (aCampMemInfo m)) 0 8 else 0

theorem campPrio_lt (s : State) (m : Nat) : s.campPrio m < 256 := by
  unfold State.campPrio
  split
  · exact fld_lt _ 0 8
  · split
    · exact fld_lt _ 0 8
    · decide

theorem campBest_eq (s : State) : s.campBest =
    ((List.range 8).filterMap (fun m => if s.campPrio m = 0 then none else some (s.campPrio m, m))).foldl campBetter none := rfl

/-- The keeper is a member that may be one, and every other such member is ranked below it. -/
theorem campBest_spec {s : State} {p m : Nat} (h : s.campBest = some (p, m)) :
    p < 256 ∧ m < 8 ∧ ∀ j, j < 8 → s.campPrio j ≠ 0 → j ≠ m → campAbove p m (s.campPrio j) j = true := by
  rw [campBest_eq] at h
  obtain ⟨hmem, hall, -⟩ := foldl_campBetter _ _ _ h
  obtain ⟨m', hm', he⟩ := List.mem_filterMap.mp (hmem.resolve_right (by simp))
  have hm8 := List.mem_range.mp hm'
  split at he
  · cases he
  · cases he
    refine ⟨campPrio_lt s m, hm8, fun j hj hprio hne => ?_⟩
    refine (hall (s.campPrio j, j) (List.mem_filterMap.mpr ⟨j, List.mem_range.mpr hj, if_neg hprio⟩)).resolve_left fun heq => ?_
    exact hne (congrArg Prod.snd heq)

/-- CAMP_KEEPER for the best of the members (R551). -/
def keeperWord (best : Option (Nat × Nat)) : Word :=
  match best with
  | some (p, m) => BitVec.ofNat 32 (m + p * 2 ^ 8 + 2 ^ 16)
  | none => 0

/-- CAMP_KEEPER once the keeper is chosen. -/
theorem campChoose_keeperReg (s : State) : (campChoose s).reg aCampKeeper = keeperWord s.campBest := by
  unfold campChoose
  dsimp only
  have hne : aCampKeeper ≠ aCampStat := by decide
  split
  · simp only [State.reg_setRegFld, State.reg_upd, State.reg_setReg, if_neg hne, if_true]
    rfl
  · simp only [State.reg_orReg, State.reg_setRegFld, State.reg_upd, State.reg_setReg, if_neg hne, if_true]
    rfl

theorem campChoose_keeper (s : State) : (campChoose s).keeper = s.campBest.map (fun e => e.2) := by
  rw [State.keeper, campChoose_keeperReg]
  cases h : s.campBest with
  | none => rfl
  | some e =>
    obtain ⟨p, m⟩ := e
    obtain ⟨hp, hm, -⟩ := campBest_spec h
    rw [keeperWord, bit_ofNat (by decide), fld_ofNat (by decide), decide_eq_true (by omega), if_pos rfl, Option.map_some]
    congr 1
    omega

/-- The keeper that is chosen ranks above every other member that may be it (R542). -/
theorem campChoose_ranks (s : State) {k j : Nat} (hk : (campChoose s).keeper = some k) (hj : j < 8) (hown : j ≠ s.ownId)
    (hheard : s.camp.heard.testBit j = true) (hreached : s.reached.testBit j = true) (hprio : fld (s.reg (aCampMemInfo j)) 0 8 ≠ 0)
    (hne : j ≠ k) : campAbove (fld ((campChoose s).reg aCampKeeper) 8 8) k (fld (s.reg (aCampMemInfo j)) 0 8) j = true := by
  rw [campChoose_keeper] at hk
  obtain ⟨⟨p, m⟩, hbest, rfl⟩ := Option.map_eq_some_iff.mp hk
  obtain ⟨hp, hm, hall⟩ := campBest_spec hbest
  have hprio' : s.campPrio j = fld (s.reg (aCampMemInfo j)) 0 8 := by rw [State.campPrio, if_neg hown, hheard, hreached]; rfl
  have hkeeper : fld ((campChoose s).reg aCampKeeper) 8 8 = p := by
    rw [campChoose_keeperReg, hbest, keeperWord, fld_ofNat (by decide)]
    omega
  rw [hkeeper, ← hprio']
  exact hall j hj (by rw [hprio']; exact hprio) hne

/-! ## HELLO (R540) -/

theorem leNat_take_one (b : List Byte) (i : Nat) : leNat ((b.drop i).take 1) = (b.getD i 0).toNat := by
  rw [List.getD_eq_getElem?_getD]
  cases h : b.drop i with
  | nil =>
    rw [List.getElem?_eq_none (List.drop_eq_nil_iff.mp h)]
    rfl
  | cons x l =>
    have hget : b[i]? = some x := by
      rw [← Nat.add_zero i, ← List.getElem?_drop, h]
      rfl
    rw [hget]
    show x.toNat + 256 * 0 = x.toNat
    omega

/-- Machine s once the HELLO of member m is recorded. -/
def heardFrom (m : Nat) (b : List Byte) (s : State) : State :=
  let at_ := fun (i k : Nat) => leNat ((b.drop i).take k)
  let st := min 2 (at_ 3 1)
  let s1 := (((s.setReg (aCampMemHashLo m) (BitVec.ofNat 32 (at_ 4 4))).setReg (aCampMemHashHi m) (BitVec.ofNat 32 (at_ 8 4))).setReg
    (aCampMemVer m) (BitVec.ofNat 32 (at_ 12 4))).setReg (aCampMemEpoch m) (BitVec.ofNat 32 (at_ 16 4))
  let s2 := s1.setReg (aCampMemInfo m) (BitVec.ofNat 32 (at_ 2 1 + st * 2 ^ 8 + 2 ^ 10))
  let s3 := { s2 with camp := { s2.camp with heard := s2.camp.heard ||| 2 ^ m } }
  (s3.setRegFld aCampMap (8 + m) 1 1).setRegFld aCampMap (16 + m) 1 (if st = 2 then 1 else 0)

/-- The keeper's admission of a member where it admits by itself (R547). -/
def autoAdmit (m : Nat) (s : State) : State := if s.admissible m ∧ bit (s.reg aCampCfg) 11 = true then campAdmit m s else s

theorem helloTake_eq {s : State} {n : Nat} {e : Nat × Nat × List Byte} (he : (s.link n).rx.head? = some e) (hkind : e.1 = 3)
    (hty : (e.2.2.headD 0).toNat = 1) {m : Nat} (hm : (e.2.2.getD 1 0).toNat = m) (h8 : m < 8) (hown : m ≠ s.ownId) :
    helloTake n s = helloChange (autoAdmit m (campJudge (campChoose (heardFrom m e.2.2 (s.popRx n))))) := by
  obtain rfl : leNat ((e.2.2.drop 1).take 1) = m := (leNat_take_one _ _).trans hm
  unfold helloTake
  rw [takeRx_popRx he hkind (by decide) fun _ => hty]
  exact if_neg fun h => h.elim (Nat.not_le.mpr h8) hown

section
variable {m : Nat} {b : List Byte} {s : State}

/-- What HELLO records of the member. -/
theorem heardFrom_records (hm : m < 8) :
    (heardFrom m b s).reg (aCampMemHashLo m) = BitVec.ofNat 32 (leNat ((b.drop 4).take 4)) ∧
      (heardFrom m b s).reg (aCampMemHashHi m) = BitVec.ofNat 32 (leNat ((b.drop 8).take 4)) ∧
      (heardFrom m b s).reg (aCampMemVer m) = BitVec.ofNat 32 (leNat ((b.drop 12).take 4)) ∧
      (heardFrom m b s).reg (aCampMemInfo m) = BitVec.ofNat 32 ((b.getD 2 0).toNat + min 2 (b.getD 3 0).toNat * 2 ^ 8 + 2 ^ 10) ∧
      (heardFrom m b s).camp.heard.testBit m = true ∧ bit ((heardFrom m b s).reg aCampMap) m = bit (s.reg aCampMap) m := by
  have h1 : aCampMemHashLo m ≠ aCampMemEpoch m := by simp only [aCampMemHashLo, aCampMemEpoch]; omega
  have h2 : aCampMemHashHi m ≠ aCampMemEpoch m := by simp only [aCampMemHashHi, aCampMemEpoch]; omega
  have h3 : aCampMemVer m ≠ aCampMemEpoch m := by simp only [aCampMemVer, aCampMemEpoch]; omega
  have h4 : aCampMemHashLo m ≠ aCampMap := by simp only [aCampMemHashLo, aCampMap]; omega
  have h5 : aCampMemHashHi m ≠ aCampMap := by simp only [aCampMemHashHi, aCampMap]; omega
  have h6 : aCampMemVer m ≠ aCampMap := by simp only [aCampMemVer, aCampMap]; omega
  have h7 : aCampMemInfo m ≠ aCampMap := by simp only [aCampMemInfo, aCampMap]; omega
  have h8 : aCampMap ≠ aCampMemEpoch m := by simp only [aCampMemEpoch, aCampMap]; omega
  have hregs (a : Nat) (ha : a ≠ aCampMap) : (heardFrom m b s).reg a =
      if a = aCampMemInfo m then BitVec.ofNat 32 (leNat ((b.drop 2).take 1) + min 2 (leNat ((b.drop 3).take 1)) * 2 ^ 8 + 2 ^ 10)
      else if a = aCampMemEpoch m then BitVec.ofNat 32 (leNat ((b.drop 16).take 4))
      else if a = aCampMemVer m then BitVec.ofNat 32 (leNat ((b.drop 12).take 4))
      else if a = aCampMemHashHi m then BitVec.ofNat 32 (leNat ((b.drop 8).take 4))
      else if a = aCampMemHashLo m then BitVec.ofNat 32 (leNat ((b.drop 4).take 4)) else s.reg a := by
    simp [heardFrom, ha]
  refine ⟨?_, ?_, ?_, ?_, ?_, ?_⟩
  · rw [hregs _ h4, if_neg (by simp), if_neg h1, if_neg (by simp), if_neg (by simp), if_pos rfl]
  · rw [hregs _ h5, if_neg (by simp), if_neg h2, if_neg (by simp), if_pos rfl]
  · rw [hregs _ h6, if_neg (by simp), if_neg h3, if_pos rfl]
  · rw [hregs _ h7, if_pos rfl, leNat_take_one, leNat_take_one]
  · show (s.camp.heard ||| 2 ^ m).testBit m = true
    rw [Nat.testBit_or, Nat.testBit_two_pow_self, Bool.or_true]
  · simp only [heardFrom, State.reg_setRegFld, if_true, State.reg_upd, State.reg_setReg, h7.symm, h8, h6.symm, h5.symm, h4.symm, if_false]
    rw [bit_setFld_of_disjoint _ (by omega) (by omega), bit_setFld_of_disjoint _ (by omega) (by omega)]

/-- Registers that HELLO records nothing in. -/
theorem heardFrom_reg {a : Nat} (hmap : a ≠ aCampMap) (ha : a < 0x40280100) : (heardFrom m b s).reg a = s.reg a := by
  have h (k : Nat) (hk : 0x40280100 ≤ k) : a ≠ k := by omega
  simp [heardFrom, hmap, h (aCampMemInfo m) (by simp only [aCampMemInfo]; omega), h (aCampMemEpoch m) (by simp only [aCampMemEpoch]; omega),
    h (aCampMemVer m) (by simp only [aCampMemVer]; omega), h (aCampMemHashHi m) (by simp only [aCampMemHashHi]; omega),
    h (aCampMemHashLo m) (by simp only [aCampMemHashLo]; omega)]

end

/-! ## The map and the epoch (R547, R551) -/

section
variable (s : State)

theorem campComplete_frame : campComplete s = { s with regs := (campComplete s).regs } := by
  unfold campComplete
  dsimp only
  split <;> rfl

theorem campComplete_reg {a : Nat} (ha : a ≠ aCampStat) : (campComplete s).reg a = s.reg a := by
  unfold campComplete
  dsimp only
  split <;> simp [ha]

theorem campComplete_bit {i : Nat} (h7 : i ≠ 7) (h13 : i ≠ 13) : bit ((campComplete s).reg aCampStat) i = bit (s.reg aCampStat) i := by
  have hmask : bit 0x2000 i = false := (bit_bitW_eq (i := 13) (by decide) i).trans (decide_eq_false h13)
  unfold campComplete
  dsimp only
  split
  · rw [State.reg_setRegFld, if_pos rfl, bit_setFld_of_disjoint _ (by decide) (by omega)]
  · rw [State.reg_orReg, if_pos rfl, bit_or, hmask, Bool.or_false, State.reg_setRegFld, if_pos rfl,
      bit_setFld_of_disjoint _ (by decide) (by omega)]

theorem setCampMap_frame (m : Nat) : setCampMap m s = { s with regs := (setCampMap m s).regs } := by
  rw [setCampMap, campComplete_frame]
  rfl

theorem setCampMap_reg (m : Nat) {a : Nat} (ha : a ≠ aCampStat) :
    (setCampMap m s).reg a = if a = aCampMap then setFld (s.reg aCampMap) 0 8 m else s.reg a := by
  rw [setCampMap, campComplete_reg _ ha, State.reg_setRegFld]

theorem setCampMap_bit (m : Nat) {i : Nat} (h7 : i ≠ 7) (h13 : i ≠ 13) :
    bit ((setCampMap m s).reg aCampStat) i = bit (s.reg aCampStat) i := by
  rw [setCampMap, campComplete_bit _ h7 h13, State.reg_setRegFld, if_neg (by decide)]

theorem setCampEpoch_reg (e a : Nat) : (setCampEpoch e s).reg a = if a = aCampEpoch then BitVec.ofNat 32 e else s.reg a := s.reg_setReg _ _ _

theorem epoch_succ (w : Word) : BitVec.ofNat 32 (w.toNat + 1) = w + 1 := by
  rw [BitVec.ofNat_add, BitVec.ofNat_toNat, BitVec.setWidth_eq]
  rfl

/-- The keeper admits a member: the epoch rises, the map holds it, and its flag is set. -/
theorem campAdmit_spec {m : Nat} (hm : m < 8) :
    (∃ r, campAdmit m s = { s with regs := r }) ∧
      (∀ a, a ≠ aCampStat → a ≠ aCampMap → a ≠ aCampEpoch → (campAdmit m s).reg a = s.reg a) ∧
      bit ((campAdmit m s).reg aCampMap) m = true ∧ (campAdmit m s).reg aCampEpoch = s.reg aCampEpoch + 1 ∧
      bit ((campAdmit m s).reg aCampStat) 10 = true ∧ (campAdmit m s).campRole = s.campRole := by
  let s1 := setCampEpoch ((s.reg aCampEpoch).toNat + 1) s
  let s2 := setCampMap (fld (s1.reg aCampMap) 0 8 ||| 2 ^ m ||| 2 ^ s.ownId) s1
  let s3 := s2.orReg aCampStat 0x400
  have hadmit : campAdmit m s = if s3.campState = 1 then setCampState 2 0 s3 else s3 := rfl
  have hregs {a : Nat} (ha : a ≠ aCampStat) : (campAdmit m s).reg a =
      if a = aCampMap then setFld (s1.reg aCampMap) 0 8 (fld (s1.reg aCampMap) 0 8 ||| 2 ^ m ||| 2 ^ s.ownId) else s1.reg a := by
    have h3 : s3.reg a = s2.reg a := (State.reg_orReg ..).trans (if_neg ha)
    rw [← setCampMap_reg _ _ ha]
    refine Eq.trans ?_ h3
    rw [hadmit]
    split
    · exact setCampState_reg _ _ _ ha
    · rfl
  have hbits {i : Nat} (hi : i < 2 ∨ i = 10) : bit ((campAdmit m s).reg aCampStat) i = bit (s3.reg aCampStat) i := by
    rw [hadmit]
    split
    · exact setCampState_bit _ _ _ (by omega)
    · rfl
  have hflag : s3.reg aCampStat = s2.reg aCampStat ||| 0x400 := (State.reg_orReg ..).trans (if_pos rfl)
  refine ⟨?_, fun a hs hmap hep => ?_, ?_, ?_, ?_, ?_⟩
  · have h3 : ∃ r, s3 = { s with regs := r } := ⟨s3.regs, by
      show s2.orReg aCampStat 0x400 = _
      rw [show s2 = { s1 with regs := s2.regs } from setCampMap_frame _ _]
      rfl⟩
    obtain ⟨r, hr⟩ := h3
    rw [hadmit]
    split
    · exact ⟨_, (setCampState_frame _ _ _).trans (by rw [hr])⟩
    · exact ⟨r, hr⟩
  · rw [hregs hs, if_neg hmap]
    exact (setCampEpoch_reg ..).trans (if_neg hep)
  · rw [hregs (by decide), if_pos rfl, bit_setFld _ (by decide), if_pos ⟨by omega, by omega⟩, Nat.sub_zero, Nat.testBit_or, Nat.testBit_or,
      Nat.testBit_two_pow_self, Bool.or_true, Bool.true_or]
  · rw [hregs (by decide), if_neg (by decide)]
    exact (setCampEpoch_reg ..).trans ((if_pos rfl).trans (epoch_succ _))
  · rw [hbits (.inr rfl), hflag]
    exact bit_or_right (by decide) _
  · refine fld_congr fun i _ hi => ?_
    have hmask : bit 0x400 i = false := (bit_bitW_eq (i := 10) (by decide) i).trans (decide_eq_false (by omega))
    have h1 : s1.reg aCampStat = s.reg aCampStat := (setCampEpoch_reg ..).trans (if_neg (by decide))
    rw [hbits (.inl (by omega)), hflag, bit_or, hmask, Bool.or_false, setCampMap_bit _ _ (by omega) (by omega), h1]

end

end Sys2Proof.Machine
end

section
/-! StreamAndCampRows (O45): what the rows of streams and camps do, and the theorem that settles it. -/

namespace Sys2Proof.Machine

/-! ## Streams -/

section
variable {s : State} {r : Nat} {x : RtRun} {p : Part}

/-- An output route of an idle or bridged partition sends its block as one flit with nodata. -/
theorem streamSend_nodata (hx : s.sap.routes[r]? = some x) (hp : s.part? x.route.part = some p) (hkind : x.route.kind = 3)
    (hlive : x.live = true) (hfirst : x.first ≠ s.sentMark x) (hadm : s.bothAdmitted (fld (s.reg (aStrPeer (x.route.port % 8))) 0 3) = true)
    (hidle : (s.pt p.part).inFrame = false ∨ (s.pt p.part).committed = true ∧ bit (s.reg (aBwtrPtCwHi p.part)) 2 = true) :
    ((streamSend r s).link (x.route.port % 8)).streamQ = (s.link (x.route.port % 8)).streamQ ++
      [streamBody x.route.stream 0 true (s.streamFrame p (s.framesGone x)) []] := by
  have hdone : (s.pt p.part).inFrame = true → (s.pt p.part).committed = true := fun hin =>
    hidle.elim (fun h => absurd (hin.symm.trans h) (by decide)) And.left
  rw [streamSend_due hx hp hkind hlive hfirst hadm hdone, if_pos, putStream_streamQ, routeSent_link]
  rcases hidle with h | ⟨-, h⟩
  · rw [h]; rfl
  · rw [h, Bool.or_true]

/-- A frame committed and not bridged goes as the flits of its block. -/
theorem streamSend_block (hx : s.sap.routes[r]? = some x) (hp : s.part? x.route.part = some p) (hkind : x.route.kind = 3)
    (hlive : x.live = true) (hfirst : x.first ≠ s.sentMark x) (hadm : s.bothAdmitted (fld (s.reg (aStrPeer (x.route.port % 8))) 0 3) = true)
    (hin : (s.pt p.part).inFrame = true) (hdone : (s.pt p.part).committed = true) (hbridge : bit (s.reg (aBwtrPtCwHi p.part)) 2 = false)
    (hread : (List.range (streamFlits x.route.stride)).all (fun i => (s.routeRead ((if x.route.half then p.ebbBase (s.ptEbb p.part) else 0) +
      x.route.addr + 48 * i) (min 48 (x.route.stride - 48 * i))).isSome) = true) :
    ((streamSend r s).link (x.route.port % 8)).streamQ = (s.link (x.route.port % 8)).streamQ ++
      (List.range (streamFlits x.route.stride)).map (fun i => streamBody x.route.stream i false (s.streamFrame p (s.framesGone x))
        ((s.routeRead ((if x.route.half then p.ebbBase (s.ptEbb p.part) else 0) + x.route.addr + 48 * i)
          (min 48 (x.route.stride - 48 * i))).getD [])) := by
  have hflits : ¬ (!(s.pt p.part).inFrame || bit (s.reg (aBwtrPtCwHi p.part)) 2) = true := by rw [hin, hbridge]; decide
  rw [streamSend_due hx hp hkind hlive hfirst hadm fun _ => hdone, if_neg hflits, foldS_putStream (s := s), routeSent_link]
  · exact fun i hi => List.all_eq_true.mp hread i hi
  · exact routeSent_routeRead r s

end

section
variable {s : State} {n : Nat} {e : Nat × Nat × List Byte} {x : RtRun}

/-- A block that its one flit completes is written once, with its bytes or zeros, and shown in STRn_SLAST. -/
theorem streamTake_writes (he : (s.link n).rx.head? = some e) (hkind : e.1 = 2)
    (hadm : s.bothAdmitted (fld (s.reg (aStrPeer n)) 0 3) = true) (hx : s.strRoute n (bodyStream e.2.2) = some x)
    (hopen : (s.strBlk n (bodyStream e.2.2)).closed = false) (hempty : (s.strBlk n (bodyStream e.2.2)).flits = [])
    (hroom : (s.link n).blocks.foldl (fun a b => a + b.flits.length) 0 < 64) (hplace : leNat (e.2.2.take 4) / 2 ^ 8 % 128 = 0)
    (hlate : s.flitLate x (leNat (e.2.2.take 4) / 2 ^ 16 % 65536) = false) (hpos : 0 < x.route.stride) (hle : x.route.stride ≤ 48) :
    let t := streamTake n s
    (t.strBlk n (bodyStream e.2.2)).closed = true ∧
      t.memc.reqs.take s.memc.reqs.length = s.memc.reqs ∧
      ((t.memc.reqs.drop s.memc.reqs.length).head?.map (fun q => (q.ini, q.kind, q.addr))) =
        some (.route, .store, s.routeAddr (x.route.addr + x.idx * x.route.stride)) ∧
      (t.memc.reqs.drop s.memc.reqs.length).flatMap (fun q => q.data) =
        (if leNat (e.2.2.take 4) / 2 ^ 15 % 2 = 1 then List.replicate x.route.stride 0 else (e.2.2.drop 4).take x.route.stride) ∧
      fld (t.reg (aStrSlast n)) 0 16 = leNat (e.2.2.take 4) / 2 ^ 16 % 65536 ∧
      bit (t.reg (aStrSlast n)) 16 = decide (leNat (e.2.2.take 4) / 2 ^ 15 % 2 = 1) := by
  obtain ⟨k, hstream, hframe, hflits, htake⟩ := streamTake_completes he hkind hadm hx hopen hempty hroom hplace hlate hpos hle
  obtain ⟨hblk, hreg, l, hreqs, hdata, hhead⟩ :=
    streamWrite_spec n x k (decide (leNat (e.2.2.take 4) / 2 ^ 15 % 2 = 1)) (s.popRx n)
  dsimp only
  rw [← htake] at hblk hreg hreqs
  have hreqs' : (streamTake n s).memc.reqs = s.memc.reqs ++ l := hreqs
  have hlast : (streamTake n s).reg (aStrSlast n) = _ := (hreg _).trans (if_pos rfl)
  have hb : b2n (decide (leNat (e.2.2.take 4) / 2 ^ 15 % 2 = 1)) = leNat (e.2.2.take 4) / 2 ^ 15 % 2 := by
    rcases Nat.mod_two_eq_zero_or_one (leNat (e.2.2.take 4) / 2 ^ 15) with h | h <;> rw [h] <;> rfl
  rw [hreqs', hlast, hframe, hb, fld_ofNat (by decide), bit_ofNat (by decide)]
  refine ⟨?_, List.take_left, ?_, ?_, by omega, by congr 1; exact propext (by omega)⟩
  · rw [← hstream, hblk]
  · rw [List.drop_left]
    exact hhead hpos
  · rw [List.drop_left, hdata]
    by_cases hno : leNat (e.2.2.take 4) / 2 ^ 15 % 2 = 1
    · rw [decide_eq_true hno, if_pos hno, if_pos (Eq.refl true), List.take_replicate, Nat.min_self]
    · rw [decide_eq_false hno, if_neg (by decide), if_neg hno, hflits hno, blockBytes_one hpos hle, List.take_take, List.take_take]
      congr 1
      omega

/-- A late flit is dropped and counted. -/
theorem streamTake_drops (he : (s.link n).rx.head? = some e) (hkind : e.1 = 2)
    (hadm : s.bothAdmitted (fld (s.reg (aStrPeer n)) 0 3) = true) (hx : s.strRoute n (bodyStream e.2.2) = some x)
    (hlate : (s.strBlk n (bodyStream e.2.2)).closed = true ∨ s.flitLate x (leNat (e.2.2.take 4) / 2 ^ 16 % 65536) = true) :
    bit ((streamTake n s).reg (aStrStat n)) 16 = true ∧ (streamTake n s).memc.reqs = s.memc.reqs ∧
      (streamTake n s).reg (aStrSdrop n) = (s.incFld (aStrSdrop n) 0 16 1).reg (aStrSdrop n) := by
  rw [streamTake_late he hkind hadm hx hlate]
  refine ⟨bit_strFlag (by decide) _ _, rfl, ?_⟩
  rw [streamDrop, strFlag_reg, if_neg (by simp [aStrSdrop, aStrStat])]
  rfl

/-- The deadline of the one input route of a partition. -/
theorem streamDeadline_one {pt : Nat} (hp : ∃ p, s.part? pt = some p) {x : RtRun}
    (hx : (s.sap.routes.filter (fun x => x.live && decide (x.route.kind = 2) && decide (x.route.part = pt))).getLast? = some x)
    (hone : (s.sap.routes.filter (fun x => x.live && decide (x.route.kind = 2) && decide (x.route.part = pt))).length = 1)
    (hopen : (s.strBlk (x.route.port % 8) x.route.stream).closed = false) :
    let t := streamDeadline pt s
    (t.strBlk (x.route.port % 8) x.route.stream).closed = true ∧ bit (t.reg (aStrStat (x.route.port % 8))) 17 = true ∧
      fld (t.reg (aStrSdrop (x.route.port % 8))) 16 16 = min 0xFFFF (fld (s.reg (aStrSdrop (x.route.port % 8))) 16 16 + 1) := by
  obtain ⟨p, hp⟩ := hp
  obtain ⟨y, hy⟩ := List.length_eq_one_iff.mp hone
  obtain rfl : y = x := by simpa [hy] using hx
  have hrun := streamDeadline_eq hp
  rw [hy] at hrun
  rw [hrun]
  exact deadlineOf_open hopen

end

end Sys2Proof.Machine
end

section
/-! HELLO, BEACON and the loss of a member, as whole rows (spec/13_strand_camps.md, R540, R542, R547 to R549). -/

namespace Sys2Proof.Machine

/-! ## HELLO -/

section
variable {m : Nat} {s : State}

theorem autoAdmit_frame (hm : m < 8) : ∃ r, autoAdmit m s = { s with regs := r } := by
  unfold autoAdmit
  split
  · exact (campAdmit_spec s hm).1
  · exact ⟨s.regs, rfl⟩

theorem autoAdmit_reg (hm : m < 8) {a : Nat} (hs : a ≠ aCampStat) (hmap : a ≠ aCampMap) (he : a ≠ aCampEpoch) :
    (autoAdmit m s).reg a = s.reg a := by
  unfold autoAdmit
  split
  · exact (campAdmit_spec s hm).2.1 a hs hmap he
  · rfl

theorem autoAdmit_campRole (hm : m < 8) : (autoAdmit m s).campRole = s.campRole := by
  unfold autoAdmit
  split
  · obtain ⟨-, -, -, -, -, hrole⟩ := campAdmit_spec s hm
    exact hrole
  · rfl

theorem helloChange_reg (s : State) (a : Nat) : (helloChange s).reg a = s.reg a := by
  obtain ⟨l, h, hc⟩ := helloChange_frame s
  rw [hc, State.reg_upd]

theorem helloChange_heard (s : State) : (helloChange s).camp.heard = s.camp.heard := by
  obtain ⟨l, h, hc⟩ := helloChange_frame s
  rw [hc]

theorem campChoose_heard (s : State) : (campChoose s).camp.heard = s.camp.heard := by
  rw [campChoose_frame]

/-- What the HELLO of a member leaves, in registers that are not the map, epoch, state or keeper. -/
theorem helloTurn_reg (hm : m < 8) {a : Nat} (hk : a ≠ aCampKeeper) (hs : a ≠ aCampStat) (hmap : a ≠ aCampMap) (he : a ≠ aCampEpoch) :
    (helloChange (autoAdmit m (campJudge (campChoose s)))).reg a = s.reg a := by
  rw [helloChange_reg, autoAdmit_reg hm hs hmap he, (campJudge_turn _).reg a hs, campChoose_reg hk hs]

theorem helloTurn_heard (hm : m < 8) : (helloChange (autoAdmit m (campJudge (campChoose s)))).camp.heard = s.camp.heard := by
  obtain ⟨r, hr⟩ := autoAdmit_frame (m := m) (s := campJudge (campChoose s)) hm
  rw [helloChange_heard, hr, (campJudge_turn _).heard, campChoose_heard]

theorem helloTurn_keeper (hm : m < 8) :
    (helloChange (autoAdmit m (campJudge (campChoose s)))).reg aCampKeeper = (campChoose s).reg aCampKeeper := by
  rw [helloChange_reg, autoAdmit_reg hm (by decide) (by decide) (by decide), (campJudge_turn _).reg _ (by decide)]

theorem helloTurn_campRole (hm : m < 8) :
    (helloChange (autoAdmit m (campJudge (campChoose s)))).campRole = (campJudge (campChoose s)).campRole := by
  rw [State.campRole, helloChange_reg]
  exact autoAdmit_campRole hm

/-- The keeper that the HELLO leaves is ranked above every other member that UP links reach (R542). -/
theorem helloTurn_ranks (hm : m < 8) {k j : Nat} (hj : j < 8) {t : State}
    (ht : t = helloChange (autoAdmit m (campJudge (campChoose s)))) (hk : t.keeper = some k) (hown : j ≠ s.ownId)
    (hheard : t.camp.heard.testBit j = true) (hreached : t.reached.testBit j = true) (hprio : fld (t.reg (aCampMemInfo j)) 0 8 ≠ 0)
    (hne : j ≠ k) : campAbove (fld (t.reg aCampKeeper) 8 8) k (fld (t.reg (aCampMemInfo j)) 0 8) j = true := by
  have hinfo : t.reg (aCampMemInfo j) = s.reg (aCampMemInfo j) := by
    rw [ht]
    exact helloTurn_reg hm (by simp only [aCampMemInfo, aCampKeeper]; omega) (by simp only [aCampMemInfo, aCampStat]; omega)
      (by simp only [aCampMemInfo, aCampMap]; omega) (by simp only [aCampMemInfo, aCampEpoch]; omega)
  have hreach : t.reached = s.reached := reached_congr fun a ha => by
    rw [ht]
    exact helloTurn_reg hm (by simp only [aCampKeeper]; omega) (by simp only [aCampStat]; omega) (by simp only [aCampMap]; omega)
      (by simp only [aCampEpoch]; omega)
  have hkeep : t.reg aCampKeeper = (campChoose s).reg aCampKeeper := by rw [ht, helloTurn_keeper hm]
  have hk' : (campChoose s).keeper = some k := by rwa [State.keeper, hkeep] at hk
  have hheard' : s.camp.heard.testBit j = true := by rwa [ht, helloTurn_heard hm] at hheard
  rw [hinfo] at hprio ⊢
  rw [hreach] at hreached
  rw [hkeep]
  exact campChoose_ranks s hk' hj hown hheard' hreached hprio hne

/-- The HELLO of a fresh member of the keeper's image, which the map does not hold, admits it where the keeper admits by itself (R547). -/
theorem helloTurn_admits (hm : m < 8) {t : State} (ht : t = helloChange (autoAdmit m (campJudge (campChoose s)))) (hrole : t.campRole = 2)
    (hauto : bit (s.reg aCampCfg) 11 = true) (hmap : bit (s.reg aCampMap) m = false) (hheard : s.camp.heard.testBit m = true)
    (hfresh : fld (s.reg (aCampMemInfo m)) 8 2 = 0) (himage : t.sameImage m = true) :
    bit (t.reg aCampMap) m = true ∧ t.reg aCampEpoch = s.reg aCampEpoch + 1 ∧ bit (t.reg aCampStat) 10 = true := by
  have hreg (a : Nat) (hk : a ≠ aCampKeeper) (hs : a ≠ aCampStat) : (campJudge (campChoose s)).reg a = s.reg a := by
    rw [(campJudge_turn _).reg a hs, campChoose_reg hk hs]
  have hshown (a : Nat) (hk : a ≠ aCampKeeper) (hs : a ≠ aCampStat) (hma : a ≠ aCampMap) (he : a ≠ aCampEpoch) :
      (campJudge (campChoose s)).reg a = t.reg a := by
    rw [hreg a hk hs, ht, helloTurn_reg hm hk hs hma he]
  have hadm : (campJudge (campChoose s)).admissible m = true := by
    have hrole' : (campJudge (campChoose s)).campRole = 2 := by rwa [ht, helloTurn_campRole hm] at hrole
    have himage' : (campJudge (campChoose s)).sameImage m = t.sameImage m := by
      unfold State.sameImage
      rw [hshown (aCampMemHashLo m), hshown (aCampMemHashHi m), hshown (aCampMemVer m), hshown aQfaHash, hshown aQfaHashHi, hshown aQfaVer]
      all_goals simp only [aCampMemHashLo, aCampMemHashHi, aCampMemVer, aQfaHash, aQfaHashHi, aQfaVer, aCampKeeper, aCampStat, aCampMap,
        aCampEpoch]; omega
    have hinfo : (campJudge (campChoose s)).reg (aCampMemInfo m) = s.reg (aCampMemInfo m) :=
      hreg _ (by simp only [aCampMemInfo, aCampKeeper]; omega) (by simp only [aCampMemInfo, aCampStat]; omega)
    unfold State.admissible
    rw [hrole', (campJudge_turn _).heard, campChoose_heard, hheard, hinfo, hfresh, himage', himage, hreg aCampMap (by decide) (by decide), hmap]
    rfl
  have hauto' : bit ((campJudge (campChoose s)).reg aCampCfg) 11 = true := by rwa [hreg aCampCfg (by decide) (by decide)]
  have ht' : t = helloChange (campAdmit m (campJudge (campChoose s))) := by rw [ht, autoAdmit, if_pos ⟨hadm, hauto'⟩]
  obtain ⟨-, -, hmem, hepoch, hflag, -⟩ := campAdmit_spec (campJudge (campChoose s)) hm
  rw [ht', helloChange_reg, helloChange_reg, helloChange_reg]
  exact ⟨hmem, by rw [hepoch, hreg aCampEpoch (by decide) (by decide)], hflag⟩

end

/-- HELLO of a member (R540, R542, R547). -/
theorem hello_spec {s : State} {n : Nat} {m : Fin 8} {e : Nat × Nat × List Byte} (he : (s.link n).rx.head? = some e) (hkind : e.1 = 3)
    (hty : (e.2.2.headD 0).toNat = 1) (hmem : (e.2.2.getD 1 0).toNat = m.val) (hown : m.val ≠ s.ownId) :
    let t := helloTake n s
    t.reg (aCampMemHashLo m) = BitVec.ofNat 32 (leNat ((e.2.2.drop 4).take 4)) ∧
      t.reg (aCampMemHashHi m) = BitVec.ofNat 32 (leNat ((e.2.2.drop 8).take 4)) ∧
      t.reg (aCampMemVer m) = BitVec.ofNat 32 (leNat ((e.2.2.drop 12).take 4)) ∧ t.camp.heard.testBit m = true ∧
      (∀ k ∈ t.keeper, ∀ j : Fin 8, j.val ≠ s.ownId → t.camp.heard.testBit j = true → t.reached.testBit j = true →
        fld (t.reg (aCampMemInfo j)) 0 8 ≠ 0 → j.val ≠ k →
        campAbove (fld (t.reg aCampKeeper) 8 8) k (fld (t.reg (aCampMemInfo j)) 0 8) j = true) ∧
      (t.campRole = 2 → bit (s.reg aCampCfg) 11 = true → bit (s.reg aCampMap) m = false → (e.2.2.getD 3 0).toNat = 0 →
        t.sameImage m = true → bit (t.reg aCampMap) m = true ∧ t.reg aCampEpoch = s.reg aCampEpoch + 1 ∧ bit (t.reg aCampStat) 10 = true) := by
  let h := heardFrom m e.2.2 (s.popRx n)
  have ht : helloTake n s = helloChange (autoAdmit m (campJudge (campChoose h))) := helloTake_eq he hkind hty hmem m.isLt hown
  obtain ⟨hlo, hhi, hver, hinfo, hheard, hmap⟩ := heardFrom_records (b := e.2.2) (s := s.popRx n) m.isLt
  have hold (a : Nat) (hmap : a ≠ aCampMap) (ha : a < 0x40280100) : h.reg a = s.reg a := heardFrom_reg hmap ha
  have hshown (a : Nat) (ha : 0x40280100 ≤ a) : (helloTake n s).reg a = h.reg a := by
    rw [ht]
    exact helloTurn_reg m.isLt (by simp only [aCampKeeper]; omega) (by simp only [aCampStat]; omega) (by simp only [aCampMap]; omega)
      (by simp only [aCampEpoch]; omega)
  dsimp only
  refine ⟨(hshown _ ?_).trans hlo, (hshown _ ?_).trans hhi, (hshown _ ?_).trans hver, ?_, fun k hk j hj hhj hrj hpj hne => ?_,
    fun hrole hauto hout hst himage => ?_⟩
  · simp only [aCampMemHashLo]; omega
  · simp only [aCampMemHashHi]; omega
  · simp only [aCampMemVer]; omega
  · rw [ht, helloTurn_heard m.isLt]
    exact hheard
  · refine helloTurn_ranks m.isLt j.isLt ht hk (fun hjo => hj (hjo.trans ?_)) hhj hrj hpj hne
    rw [State.ownId, hold _ (by decide) (by decide)]
    rfl
  · have hfresh : fld (h.reg (aCampMemInfo m)) 8 2 = 0 := by
      rw [hinfo, hst, fld_ofNat (by decide)]
      have := (e.2.2.getD 2 0).isLt
      omega
    have hauto' : bit (h.reg aCampCfg) 11 = true := by rwa [hold _ (by decide) (by decide)]
    rw [← hold aCampEpoch (by decide) (by decide)]
    exact helloTurn_admits m.isLt ht hrole hauto' (hmap.trans hout) hheard hfresh himage

end Sys2Proof.Machine
end

section
/-! BEACON at a member (spec/13_strand_camps.md, R542 to R545, R547, R548). -/

namespace Sys2Proof.Machine

/-! ## The choice of the keeper and CAMP_STAT -/

theorem campChoose_bit (s : State) {i : Nat} (h2 : 2 ≤ i) (h9 : i ≠ 9) : bit ((campChoose s).reg aCampStat) i = bit (s.reg aCampStat) i := by
  have hmask : bit 0x200 i = false := (bit_bitW_eq (i := 9) (by decide) i).trans (decide_eq_false h9)
  unfold campChoose
  dsimp only
  split
  · simp only [State.reg_setRegFld, State.reg_upd, if_true]
    rw [bit_setFld_of_disjoint _ (by decide) (by omega)]
    exact congrArg (fun v => bit v i) ((State.reg_setReg ..).trans (if_neg (by decide)))
  · simp only [State.reg_orReg, State.reg_setRegFld, State.reg_upd, if_true]
    rw [bit_or, hmask, Bool.or_false, bit_setFld_of_disjoint _ (by decide) (by omega)]
    exact congrArg (fun v => bit v i) ((State.reg_setReg ..).trans (if_neg (by decide)))

theorem campChoose_campState (s : State) : (campChoose s).campState = s.campState :=
  fld_congr fun _ hlo hhi => campChoose_bit s (by omega) (by omega)

/-- The choice of the keeper does not look at the links' queues. -/
theorem campChoose_links (s : State) (l : SMap Link) : campChoose { s with links := l } = { campChoose s with links := l } := by
  by_cases hk : s.keeper = s.campBest.map (fun e => e.2)
  · have hk' : ({ s with links := l } : State).keeper = ({ s with links := l } : State).campBest.map (fun e => e.2) := hk
    unfold campChoose
    dsimp only
    rw [if_pos hk, if_pos hk']
    rfl
  · have hk' : ¬ ({ s with links := l } : State).keeper = ({ s with links := l } : State).campBest.map (fun e => e.2) := hk
    unfold campChoose
    dsimp only
    rw [if_neg hk, if_neg hk']
    rfl

/-! ## What a BEACON says of membership -/

section
variable (b : List Byte) (u : State)

/-- The map of a keeper's BEACON at an aligned member. -/
def beaconMap : State := setCampMap (leNat ((b.drop 8).take 1)) (u.setRegFld aCampStat 6 1 0)

/-- An aligned member that the BEACON's map holds. -/
def beaconAdmit : State :=
  let v := setCampEpoch (leNat ((b.drop 4).take 4)) (beaconMap b u)
  if v.campState = 1 then (setCampState 2 0 v).orReg aCampStat 0x400 else v

theorem beaconMap_reg {a : Nat} (ha : a ≠ aCampStat) :
    (beaconMap b u).reg a = if a = aCampMap then setFld (u.reg aCampMap) 0 8 (leNat ((b.drop 8).take 1)) else u.reg a := by
  have h (k : Nat) (hk : k ≠ aCampStat) : (u.setRegFld aCampStat 6 1 0).reg k = u.reg k := (State.reg_setRegFld ..).trans (if_neg hk)
  rw [beaconMap, setCampMap_reg _ _ ha, h _ (by decide), h _ ha]

theorem beaconMap_bit {i : Nat} (h6 : i ≠ 6) (h7 : i ≠ 7) (h13 : i ≠ 13) :
    bit ((beaconMap b u).reg aCampStat) i = bit (u.reg aCampStat) i := by
  rw [beaconMap, setCampMap_bit _ _ h7 h13, State.reg_setRegFld, if_pos rfl, bit_setFld_of_disjoint _ (by decide) (by omega)]

theorem beaconMap_mismatch : bit ((beaconMap b u).reg aCampStat) 6 = false := by
  rw [beaconMap, setCampMap_bit _ _ (by decide) (by decide), State.reg_setRegFld, if_pos rfl, bit_setFld _ (by decide), if_pos (by decide)]
  rfl

theorem beaconMap_campState : (beaconMap b u).campState = u.campState :=
  fld_congr fun _ hlo hhi => beaconMap_bit b u (by omega) (by omega) (by omega)

/-- What a BEACON says of membership, to the member `own` whose boundaries are aligned or not. -/
def beaconTold (own : Nat) (mis : Bool) : State :=
  let map := leNat ((b.drop 8).take 1)
  let s2 := u.setRegFld aCampStat 6 1 (b2n (decide (u.campState ≠ 0) && mis))
  let s3 := if s2.campState = 0 then s2 else setCampMap map s2
  if s3.campState = 0 then s3
  else if map.testBit own then
    let s4 := setCampEpoch (leNat ((b.drop 4).take 4)) s3
    if s4.campState = 1 ∧ mis = false then (setCampState 2 0 s4).orReg aCampStat 0x400 else s4
  else if s3.reg aCampEpoch ≠ 0 then quarantine 2 s3
  else s3

/-- A machine with the beat position that a BEACON may ask for. -/
def beaconFix (v : State) : State :=
  if v.onStrand ∧ v.camp.beat0 ≠ BitVec.ofNat 64 (leNat ((b.drop 23).take 8)) then
    { v with camp := { v.camp with fix := some (BitVec.ofNat 64 (leNat ((b.drop 23).take 8))) } }
  else v

theorem beaconFix_frame (v : State) : ∃ f, beaconFix b v = { v with camp := { v.camp with fix := f } } := by
  unfold beaconFix
  split
  · exact ⟨_, rfl⟩
  · exact ⟨v.camp.fix, rfl⟩

theorem beaconTold_aligned (hst : u.campState ≠ 0) :
    beaconTold b u u.ownId false = if (leNat ((b.drop 8).take 1)).testBit u.ownId then beaconAdmit b u
      else if u.reg aCampEpoch ≠ 0 then quarantine 2 (beaconMap b u) else beaconMap b u := by
  have hst' : (u.setRegFld aCampStat 6 1 0).campState ≠ 0 := by
    have : (u.setRegFld aCampStat 6 1 0).campState = u.campState := fld_congr fun i hlo hhi => by
      rw [State.reg_setRegFld, if_pos rfl, bit_setFld_of_disjoint _ (by decide) (by omega)]
    rwa [this]
  have hmap : (beaconMap b u).campState ≠ 0 := by rwa [beaconMap_campState]
  have hepoch : (beaconMap b u).reg aCampEpoch = u.reg aCampEpoch := by rw [beaconMap_reg _ _ (by decide), if_neg (by decide)]
  unfold beaconTold
  simp only [Bool.and_false, b2n, Bool.false_eq_true, if_false]
  rw [if_neg hst', ← beaconMap, if_neg hmap, hepoch]
  simp only [and_true]
  rfl

/-- An aligned member outside PITCH takes map and epoch, or is quarantined, and is judged. -/
theorem beaconApply_eq {edge : Nat} (hmode : u.pwr.mode ≠ .pitch)
    (halign : u.alignedAt (nearest edge) (leNat ((b.drop 19).take 4)) = true) :
    beaconApply edge b u = campJudge (beaconFix b (beaconTold b u u.ownId false)) := by
  have hpitch : ¬ (u.pwr.mode = .pitch ∧ u.camp.aligned = false ∧ u.camp.since ≤ edge) := fun h => hmode h.1
  let s1 := if u.pwr.mode = .pitch ∧ u.camp.aligned = false ∧ u.camp.since ≤ edge then
    frameAlign (nearest edge) (leNat ((b.drop 19).take 4)) u else u
  have hs1 : s1 = u := if_neg hpitch
  have happly : beaconApply edge b u = campJudge (beaconFix b (beaconTold b s1 u.ownId (!s1.alignedAt (nearest edge) (leNat ((b.drop 19).take 4))))) :=
    rfl
  rw [happly, hs1, halign]
  rfl

end

end Sys2Proof.Machine
end

section
/-! The member that a BEACON leaves, MEMBER_LOSS, and the rest of O45 (spec/13_strand_camps.md, R541 to R549). -/

namespace Sys2Proof.Machine

/-! ## BEACON -/

theorem campJudge_mismatch {s : State} (h : bit (s.reg aCampStat) 6 = false) : bit ((campJudge s).reg aCampStat) 6 = false := by
  have hset (st r : Nat) (u : State) : bit ((setCampState st r u).reg aCampStat) 6 = bit (u.reg aCampStat) 6 :=
    setCampState_bit _ _ _ (by decide)
  have hclr : bit ((s.clrReg aCampStat 0x40).reg aCampStat) 6 = false := by
    rw [State.reg_clrReg, if_pos rfl, bit_and_not (by decide), h, Bool.false_and]
  have hwas (u : State) : ((if u.campState = 3 then u else { u with camp := { u.camp with was := u.campState } }) : State).reg aCampStat =
      u.reg aCampStat := by split <;> rfl
  have hquar (r : Nat) : bit ((quarantine r s).reg aCampStat) 6 = false := by rw [quarantine, hset, hwas, h]
  rw [campJudge_eq]
  split
  · exact h
  · split
    · split
      · exact (hset ..).trans hclr
      · exact hclr
    · split_ifs
      · exact hquar 1
      · exact hquar 3
      · rw [hset, h]
      · exact h

/-- A member in state ADMITTED whose image is its keeper's and whose boundaries agree stays so. -/
theorem campJudge_sound {s : State} {k : Nat} (hrole : s.campRole = 1) (hst : s.campState = 2) (hk : s.keeper = some k)
    (himage : s.sameImage k = true) (hmis : bit (s.reg aCampStat) 6 = false) : campJudge s = s := by
  have hdiffers : s.keeperDiffers = false := by simp [State.keeperDiffers, hk, himage]
  simp [campJudge_eq, hst, hrole, hdiffers, hmis]

theorem campJudge_stale {s : State} (hst : s.campState = 3) (hr : fld (s.reg aCampStat) 4 2 = 2) : campJudge s = s :=
  if_pos (.inr (.inr ⟨hst, hr⟩))

section
variable {b : List Byte} {u : State}

theorem beaconFix_reg (v : State) (a : Nat) : (beaconFix b v).reg a = v.reg a := by
  obtain ⟨f, h⟩ := beaconFix_frame b v
  rw [h]
  rfl

theorem beaconAdmit_reg {a : Nat} (ha : a ≠ aCampStat) : (beaconAdmit b u).reg a =
    if a = aCampEpoch then BitVec.ofNat 32 (leNat ((b.drop 4).take 4)) else (beaconMap b u).reg a := by
  unfold beaconAdmit
  dsimp only
  split
  · rw [State.reg_orReg, if_neg ha, setCampState_reg _ _ _ ha, setCampEpoch_reg]
  · exact setCampEpoch_reg ..

theorem setCampEpoch_stat (e : Nat) (s : State) : (setCampEpoch e s).reg aCampStat = s.reg aCampStat :=
  (setCampEpoch_reg ..).trans (if_neg (by decide))

theorem beaconAdmit_bit {i : Nat} (hi : i < 2 ∨ i = 6) : bit ((beaconAdmit b u).reg aCampStat) i = bit ((beaconMap b u).reg aCampStat) i := by
  have hmask : bit 0x400 i = false := (bit_bitW_eq (i := 10) (by decide) i).trans (decide_eq_false (by omega))
  unfold beaconAdmit
  dsimp only
  split
  · rw [State.reg_orReg, if_pos rfl, bit_or, hmask, Bool.or_false, setCampState_bit _ _ _ (by omega), setCampEpoch_stat]
  · rw [setCampEpoch_stat]

/-- A FRESH member becomes ADMITTED. -/
theorem beaconAdmit_fresh (hst : u.campState = 1) :
    (beaconAdmit b u).campState = 2 ∧ bit ((beaconAdmit b u).reg aCampStat) 10 = true := by
  let v := setCampEpoch (leNat ((b.drop 4).take 4)) (beaconMap b u)
  have hv : v.campState = 1 := by
    show fld (v.reg aCampStat) 2 2 = 1
    rw [setCampEpoch_stat]
    exact (beaconMap_campState b u).trans hst
  have h : beaconAdmit b u = (setCampState 2 0 v).orReg aCampStat 0x400 := if_pos hv
  have hreg : (beaconAdmit b u).reg aCampStat = (setCampState 2 0 v).reg aCampStat ||| 0x400 := by
    rw [h, State.reg_orReg, if_pos rfl]
  rw [State.campState, hreg]
  exact ⟨(fld_or_of_zero (by decide) _).trans (setCampState_state 2 0 v (by decide)), bit_or_right (by decide) _⟩

end

/-- The member as it takes the BEACON of its keeper. -/
theorem beaconTake_eq {s : State} {n : Nat} {e : Nat × Nat × List Byte} (he : (s.link n).rx.head? = some e) (hkind : e.1 = 3)
    (hty : (e.2.2.headD 0).toNat = 2) (hmode : s.pwr.mode ≠ .pitch) (hkeeper : (campChoose s).keeper = some (e.2.2.getD 1 0).toNat)
    (hrole : (campChoose s).campRole = 1)
    (halign : s.alignedAt (nearest (s.keeperEdge n e.2.2 ((s.link n).beaconAt.headD s.tidePos))) (leNat ((e.2.2.drop 19).take 4)) = true) :
    ∃ u : State, u.regs = (campChoose s).regs ∧ u.camp.heard = s.camp.heard ∧
      beaconTake n s = helloChange (campJudge (beaconFix e.2.2 (beaconTold e.2.2 u u.ownId false))) := by
  let s0 := (s.popRx n).onLink n (fun l => { l with beaconAt := l.beaconAt.tail })
  let came := (s.link n).beaconAt.headD s.tidePos
  have hs0 : campChoose s0 = { campChoose s with links := s0.links } := campChoose_links s s0.links
  have hkeep : (campChoose s0).keeper = (campChoose s).keeper := by rw [hs0]; rfl
  have hrole0 : (campChoose s0).campRole = (campChoose s).campRole := by rw [hs0]; rfl
  have hframe : campChoose s0 =
      { s with regs := (campChoose s).regs, links := s0.links, camp := { s.camp with led := (campChoose s).camp.led } } := by
    rw [hs0, campChoose_frame s]
  have hedge : (campChoose s0).keeperEdge n e.2.2 came = s.keeperEdge n e.2.2 came := by
    have hreg (a : Nat) (hk : a ≠ aCampKeeper) (hst : a ≠ aCampStat) : (campChoose s0).reg a = s.reg a := by
      rw [campChoose_reg hk hst]; rfl
    unfold State.keeperEdge State.flight State.rate
    rw [hreg (aStrDelay n) (by simp only [aStrDelay, aCampKeeper]; omega) (by simp only [aStrDelay, aCampStat]; omega),
      hreg aTideCfg (by decide) (by decide)]
  obtain ⟨u, hu, huregs, hucamp, hutide, hupwr⟩ : ∃ u : State, u = keeperPos n e.2.2 came (campChoose s0) ∧ u.regs = (campChoose s).regs ∧
      u.camp.heard = s.camp.heard ∧ u.tide = s.tide ∧ u.pwr = s.pwr := by
    refine ⟨_, rfl, ?_⟩
    unfold keeperPos
    split <;> rw [hframe] <;> exact ⟨rfl, rfl, rfl, rfl⟩
  have halign' : u.alignedAt (nearest (s.keeperEdge n e.2.2 came)) (leNat ((e.2.2.drop 19).take 4)) = true := by
    rw [State.alignedAt, hutide]
    exact halign
  refine ⟨u, huregs, hucamp, ?_⟩
  have hcame : ((s.popRx n).link n).beaconAt.headD (s.popRx n).tidePos = came := by
    rw [State.popRx_link]
    rfl
  unfold beaconTake
  rw [takeRx_popRx he hkind (by decide) fun _ => hty]
  dsimp only
  rw [hcame]
  have htold : beaconApply (s.keeperEdge n e.2.2 came) e.2.2 u = campJudge (beaconFix e.2.2 (beaconTold e.2.2 u u.ownId false)) :=
    beaconApply_eq e.2.2 u (by rwa [hupwr]) halign'
  rw [← htold, hu, ← hedge]
  exact congrArg helloChange (if_pos ⟨hkeep.trans hkeeper, by rw [hrole0, hrole]; decide⟩)

section
variable {s : State} {n : Nat} {e : Nat × Nat × List Byte} (he : (s.link n).rx.head? = some e) (hkind : e.1 = 3)
  (hty : (e.2.2.headD 0).toNat = 2) (hmode : s.pwr.mode ≠ .pitch) (hkeeper : (campChoose s).keeper = some (e.2.2.getD 1 0).toNat)
  (hrole : (campChoose s).campRole = 1) (hst : s.campState ≠ 0)
  (halign : s.alignedAt (nearest (s.keeperEdge n e.2.2 ((s.link n).beaconAt.headD s.tidePos))) (leNat ((e.2.2.drop 19).take 4)) = true)
include he hkind hty hmode hkeeper hrole hst halign

/-- The BEACON's map holds the member: it takes epoch and map, and a FRESH one of its keeper's image is ADMITTED (R547). -/
theorem beaconTake_held (hown : (leNat ((e.2.2.drop 8).take 1)).testBit s.ownId = true) :
    let t := beaconTake n s
    t.reg aCampEpoch = BitVec.ofNat 32 (leNat ((e.2.2.drop 4).take 4)) ∧ fld (t.reg aCampMap) 0 8 = leNat ((e.2.2.drop 8).take 1) ∧
      bit (t.reg aCampStat) 6 = false ∧
      (s.campState = 1 → (campChoose s).sameImage (e.2.2.getD 1 0).toNat = true → t.campState = 2 ∧ bit (t.reg aCampStat) 10 = true) := by
  obtain ⟨u, huregs, hheard, ht⟩ := beaconTake_eq he hkind hty hmode hkeeper hrole halign
  have hureg (a : Nat) : u.reg a = (campChoose s).reg a := congrArg (fun r => smGet regDefault r a) huregs
  have hust : u.campState = s.campState := by rw [State.campState, hureg]; exact campChoose_campState s
  have huown : u.ownId = s.ownId := by rw [State.ownId, hureg, campChoose_reg (by decide) (by decide)]; rfl
  have htold : beaconTold e.2.2 u u.ownId false = beaconAdmit e.2.2 u := by
    rw [beaconTold_aligned _ _ (by rwa [hust]), huown, if_pos hown]
  let v := beaconFix e.2.2 (beaconAdmit e.2.2 u)
  have hv (a : Nat) : v.reg a = (beaconAdmit e.2.2 u).reg a := beaconFix_reg _ a
  have hmis : bit (v.reg aCampStat) 6 = false := by rw [hv, beaconAdmit_bit (.inr rfl), beaconMap_mismatch]
  have hshown (a : Nat) (ha : a ≠ aCampStat) : (helloChange (campJudge v)).reg a = (beaconAdmit e.2.2 u).reg a := by
    rw [helloChange_reg, (campJudge_turn v).reg a ha, hv]
  dsimp only
  rw [ht, htold]
  refine ⟨?_, ?_, ?_, fun hfresh himage => ?_⟩
  · rw [hshown _ (by decide), beaconAdmit_reg (by decide), if_pos rfl]
  · rw [hshown _ (by decide), beaconAdmit_reg (by decide), if_neg (by decide), beaconMap_reg _ _ (by decide), if_pos rfl,
      fld_setFld_same _ (by decide)]
    rw [leNat_take_one]
    exact BitVec.isLt _
  · rw [helloChange_reg]
    exact campJudge_mismatch hmis
  · obtain ⟨hst2, hflag⟩ := beaconAdmit_fresh (b := e.2.2) (hust.trans hfresh)
    have hvreg (a : Nat) (hs : a ≠ aCampStat) (hm : a ≠ aCampMap) (hepoch : a ≠ aCampEpoch) : v.reg a = (campChoose s).reg a := by
      rw [hv, beaconAdmit_reg hs, if_neg hepoch, beaconMap_reg _ _ hs, if_neg hm, hureg]
    have hvrole : v.campRole = 1 := by
      rw [← hrole]
      exact fld_congr fun i _ hi => by
        rw [hv, beaconAdmit_bit (.inl (by omega)), beaconMap_bit _ _ (by omega) (by omega) (by omega), hureg]
    have hvst : v.campState = 2 := by rw [State.campState, hv]; exact hst2
    have hvk : v.keeper = some (e.2.2.getD 1 0).toNat := by
      rw [← hkeeper, State.keeper, hvreg _ (by decide) (by decide) (by decide)]
      rfl
    have hvimage : v.sameImage (e.2.2.getD 1 0).toNat = true := by
      rw [← himage]
      unfold State.sameImage
      rw [hvreg (aCampMemHashLo _), hvreg (aCampMemHashHi _), hvreg (aCampMemVer _), hvreg aQfaHash, hvreg aQfaHashHi, hvreg aQfaVer]
      all_goals simp only [aCampMemHashLo, aCampMemHashHi, aCampMemVer, aQfaHash, aQfaHashHi, aQfaVer, aCampStat, aCampMap, aCampEpoch]; omega
    rw [State.campState, helloChange_reg, campJudge_sound hvrole hvst hvk hvimage hmis]
    refine ⟨hvst, ?_⟩
    rw [hv]
    exact hflag

/-- The BEACON's map does not hold a member with an epoch: it is quarantined STALE (R548). -/
theorem beaconTake_stale (hown : (leNat ((e.2.2.drop 8).take 1)).testBit s.ownId = false) (hepoch : (campChoose s).reg aCampEpoch ≠ 0) :
    (beaconTake n s).campState = 3 ∧ fld ((beaconTake n s).reg aCampStat) 4 2 = 2 := by
  obtain ⟨u, huregs, hheard, ht⟩ := beaconTake_eq he hkind hty hmode hkeeper hrole halign
  have hureg (a : Nat) : u.reg a = (campChoose s).reg a := congrArg (fun r => smGet regDefault r a) huregs
  have hust : u.campState = s.campState := by rw [State.campState, hureg]; exact campChoose_campState s
  have huown : u.ownId = s.ownId := by rw [State.ownId, hureg, campChoose_reg (by decide) (by decide)]; rfl
  have htold : beaconTold e.2.2 u u.ownId false = quarantine 2 (beaconMap e.2.2 u) := by
    rw [beaconTold_aligned _ _ (by rwa [hust]), huown, hown, if_neg (by decide), hureg, if_pos hepoch]
  let v := beaconFix e.2.2 (quarantine 2 (beaconMap e.2.2 u))
  have hv (a : Nat) : v.reg a = (quarantine 2 (beaconMap e.2.2 u)).reg a := beaconFix_reg _ a
  have hvst : v.campState = 3 := by rw [State.campState, hv]; exact setCampState_state 3 2 _ (by decide)
  have hvr : fld (v.reg aCampStat) 4 2 = 2 := by rw [hv]; exact setCampState_reason 3 2 _ (by decide)
  rw [State.campState, ht, htold, helloChange_reg, campJudge_stale hvst hvr]
  exact ⟨hvst, hvr⟩

end

end Sys2Proof.Machine
end

section
/-! MEMBER_LOSS (spec/13_strand_camps.md, R549), delays, fragments, and the theorem that settles O45. -/

namespace Sys2Proof.Machine

/-! ## The role that the choice of the keeper gives -/

/-- The role of the device `own` in state `st` where `best` is the best of the members (R542). -/
def roleOf (own st : Nat) (best : Option (Nat × Nat)) : Nat :=
  match best with
  | some (_, m) => if m = own then 2 else if st = 0 then 0 else 1
  | none => 0

theorem roleOf_lt (own st : Nat) (best : Option (Nat × Nat)) : roleOf own st best < 4 := by
  unfold roleOf
  split
  · split_ifs <;> decide
  · decide

theorem campChoose_campRole (s : State) : (campChoose s).campRole = roleOf s.ownId s.campState s.campBest := by
  have hlt := roleOf_lt s.ownId s.campState s.campBest
  have hmask : fld (0x200 : Word) 0 2 = 0 := rfl
  show fld ((campChoose s).reg aCampStat) 0 2 = _
  unfold campChoose
  dsimp only
  split
  · simp only [State.reg_setRegFld, State.reg_upd, if_true]
    exact fld_setFld_same _ (by decide) hlt
  · simp only [State.reg_orReg, State.reg_setRegFld, State.reg_upd, if_true]
    exact (fld_or_of_zero hmask _).trans (fld_setFld_same _ (by decide) hlt)

/-! ## Forgetting a member -/

section
variable {m : Nat} {s : State}

theorem campForget_reg {a : Nat} (hmap : a ≠ aCampMap) (hinfo : a ≠ aCampMemInfo m) : (campForget m s).reg a = s.reg a := by
  simp only [campForget, State.reg_setRegFld, if_neg hmap, if_neg hinfo]
  rfl

theorem campForget_map (hm : m < 8) {i : Nat} (hi : i < 8) : bit ((campForget m s).reg aCampMap) i = bit (s.reg aCampMap) i := by
  have hinfo : aCampMap ≠ aCampMemInfo m := by simp only [aCampMap, aCampMemInfo]; omega
  simp only [campForget, State.reg_setRegFld, if_true, if_neg hinfo]
  rw [bit_setFld_of_disjoint _ (by omega) (by omega), bit_setFld_of_disjoint _ (by omega) (by omega)]
  rfl

theorem testBit_forget : ∀ m j : Fin 8, (255 - 2 ^ m.val).testBit j.val = decide (j ≠ m) := by decide

theorem campForget_heard (hm : m < 8) {j : Nat} (hj : j < 8) :
    (campForget m s).camp.heard.testBit j = (s.camp.heard.testBit j && decide (j ≠ m)) := by
  show (s.camp.heard &&& (255 - 2 ^ m)).testBit j = _
  rw [Nat.testBit_and, testBit_forget ⟨m, hm⟩ ⟨j, hj⟩]
  congr 1
  exact decide_eq_decide.mpr (by simp [Fin.ext_iff])

theorem campForget_reached : (campForget m s).reached = s.reached :=
  reached_congr fun a ha => campForget_reg (by simp only [aCampMap]; omega) (by simp only [aCampMemInfo]; omega)

theorem campForget_ownId : (campForget m s).ownId = s.ownId :=
  congrArg (fun v => fld v 2 3) (campForget_reg (by decide) (by simp only [aSysStrap, aCampMemInfo]; omega))

theorem campForget_campState : (campForget m s).campState = s.campState :=
  congrArg (fun v => fld v 2 2) (campForget_reg (by decide) (by simp only [aCampStat, aCampMemInfo]; omega))

/-- A member that no link reaches was no candidate: forgetting it leaves the choice of the keeper. -/
theorem campForget_campBest (hm : m < 8) (hreach : s.reached.testBit m = false) : (campForget m s).campBest = s.campBest := by
  have hprio (j : Nat) (hj : j < 8) : (campForget m s).campPrio j = s.campPrio j := by
    have hcfg : (campForget m s).reg aCampCfg = s.reg aCampCfg := campForget_reg (by decide) (by simp only [aCampCfg, aCampMemInfo]; omega)
    unfold State.campPrio
    rw [campForget_ownId, campForget_reached, campForget_heard hm hj, hcfg]
    by_cases hjm : j = m
    · subst hjm
      rw [hreach, Bool.and_false, Bool.and_false]
      rfl
    · rw [campForget_reg (by simp only [aCampMap, aCampMemInfo]; omega) (by simp only [aCampMemInfo]; omega), decide_eq_true hjm, Bool.and_true]
  rw [campBest_eq, campBest_eq]
  congr 1
  exact List.filterMap_congr fun j hj => by rw [hprio j (List.mem_range.mp hj)]

/-! ## MEMBER_LOSS -/

/-- The loss as CAMP_STAT shows it, and the keeper that is followed no more. -/
def lossNoted (led : Bool) (m : Nat) (s : State) : State :=
  let s2 := if s.campRole = 2 ∨ led = true then s.orReg aCampStat 0x800 else s
  if led then { s2 with camp := { s2.camp with led := s2.camp.led.filter (fun k => decide (k ≠ m)) } } else s2

/-- What the keeper does on a loss. -/
def lossKept (led : Bool) (m : Nat) (s : State) : State :=
  if s.campRole = 2 then (if led then campSucceed s else campRemove m s) else s

theorem memberLoss_eq (hreach : s.reached.testBit m = false) (hheard : s.camp.heard.testBit m = true) :
    memberLoss m s = helloChange (campJudge (lossKept (decide (s.camp.led = some m)) m
      (lossNoted (decide (s.camp.led = some m)) m (campChoose (campForget m s))))) := by
  unfold memberLoss
  rw [hreach, hheard]
  rfl

theorem lossNoted_reg (led : Bool) (m : Nat) (s : State) {a : Nat} (ha : a ≠ aCampStat) : (lossNoted led m s).reg a = s.reg a := by
  have h : ((if s.campRole = 2 ∨ led = true then s.orReg aCampStat 0x800 else s) : State).reg a = s.reg a := by
    split
    · exact (State.reg_orReg ..).trans (if_neg ha)
    · rfl
  unfold lossNoted
  dsimp only
  split <;> simpa using h

theorem lossNoted_stat {led : Bool} (h : s.campRole = 2 ∨ led = true) : (lossNoted led m s).reg aCampStat = s.reg aCampStat ||| 0x800 := by
  unfold lossNoted
  dsimp only
  rw [if_pos h]
  split <;> simp

theorem lossNoted_heard (led : Bool) (m : Nat) (s : State) : (lossNoted led m s).camp.heard = s.camp.heard := by
  unfold lossNoted
  dsimp only
  split <;> split <;> rfl

theorem campSucceed_frame (s : State) : campSucceed s = { s with regs := (campSucceed s).regs } := by
  rw [campSucceed, setCampMap_frame]
  rfl

theorem campRemove_frame (m : Nat) (s : State) : campRemove m s = { s with regs := (campRemove m s).regs } := by
  unfold campRemove
  split
  · rw [setCampMap_frame]
    rfl
  · rfl

theorem setCampMap_lost (k : Nat) (s : State) :
    bit ((setCampMap k (setCampEpoch ((s.reg aCampEpoch).toNat + 1) s)).reg aCampStat) 11 = bit (s.reg aCampStat) 11 := by
  rw [setCampMap_bit _ _ (by decide) (by decide), setCampEpoch_stat]

theorem lossKept_heard (led : Bool) (m : Nat) (s : State) : (lossKept led m s).camp.heard = s.camp.heard := by
  unfold lossKept
  split_ifs
  · rw [campSucceed_frame]
  · rw [campRemove_frame]
  · rfl

theorem lossKept_bit (led : Bool) (m : Nat) (s : State) : bit ((lossKept led m s).reg aCampStat) 11 = bit (s.reg aCampStat) 11 := by
  unfold lossKept
  split_ifs
  · exact setCampMap_lost _ s
  · unfold campRemove
    split
    · exact setCampMap_lost _ s
    · rfl
  · rfl

/-- Map and epoch where a map takes the place of the old one with the next epoch. -/
theorem setCampMap_next {k : Nat} (s : State) (hm : m < 8) (hk : k.testBit m = false) :
    bit ((setCampMap k (setCampEpoch ((s.reg aCampEpoch).toNat + 1) s)).reg aCampMap) m = false ∧
      (setCampMap k (setCampEpoch ((s.reg aCampEpoch).toNat + 1) s)).reg aCampEpoch = s.reg aCampEpoch + 1 := by
  rw [setCampMap_reg _ _ (by decide), setCampMap_reg _ _ (by decide), if_pos rfl, if_neg (by decide), setCampEpoch_reg, setCampEpoch_reg,
    if_pos rfl, bit_setFld _ (by decide), if_pos ⟨by omega, by omega⟩]
  exact ⟨hk, epoch_succ _⟩

/-- The keeper's map loses the member, and the epoch rises. -/
theorem lossKept_keeper {led : Bool} (hrole : s.campRole = 2) (hm : m < 8) (hreach : s.reached.testBit m = false) (hown : m ≠ s.ownId)
    (hmap : bit (s.reg aCampMap) m = true) :
    bit ((lossKept led m s).reg aCampMap) m = false ∧ (lossKept led m s).reg aCampEpoch = s.reg aCampEpoch + 1 := by
  rw [lossKept, if_pos hrole]
  split
  · refine setCampMap_next s hm ?_
    rw [Nat.testBit_or, Nat.testBit_and, hreach, Bool.and_false, Bool.false_or, Nat.testBit_two_pow]
    exact decide_eq_false fun h => hown h.symm
  · rw [campRemove, if_pos hmap]
    refine setCampMap_next s hm ?_
    rw [Nat.testBit_and, testBit_forget ⟨m, hm⟩ ⟨m, hm⟩, decide_eq_false (by simp), Bool.and_false]

end

/-- MEMBER_LOSS of a member that was heard and that no UP link reaches (R549). -/
theorem memberLoss_spec {s : State} {m : Fin 8} (hreach : s.reached.testBit m = false) (hheard : s.camp.heard.testBit m = true) :
    let t := memberLoss m s
    t.camp.heard.testBit m = false ∧ (s.camp.led = some m.val → bit (t.reg aCampStat) 11 = true) ∧
      ((campChoose s).campRole = 2 → m.val ≠ s.ownId → bit (s.reg aCampMap) m = true → bit (t.reg aCampMap) m = false ∧
        t.reg aCampEpoch = s.reg aCampEpoch + 1 ∧ bit (t.reg aCampStat) 11 = true) := by
  let c := campChoose (campForget m s)
  let led := decide (s.camp.led = some m.val)
  let v := lossNoted led m c
  have ht : memberLoss m s = helloChange (campJudge (lossKept led m v)) := memberLoss_eq hreach hheard
  have hc (a : Nat) (hk : a ≠ aCampKeeper) (hs : a ≠ aCampStat) : c.reg a = (campForget m s).reg a := campChoose_reg hk hs _
  have hflag : bit ((memberLoss m s).reg aCampStat) 11 = bit (v.reg aCampStat) 11 := by
    rw [ht, helloChange_reg, (campJudge_turn _).stat 11 (.inr (by decide)), lossKept_bit]
  have hset (h : c.campRole = 2 ∨ led = true) : bit ((memberLoss m s).reg aCampStat) 11 = true := by
    rw [hflag]
    show bit ((lossNoted led m c).reg aCampStat) 11 = true
    rw [lossNoted_stat h]
    exact bit_or_right (by decide) _
  dsimp only
  refine ⟨?_, fun hled => hset (.inr (decide_eq_true hled)), fun hrole hown hmap => ?_⟩
  · rw [ht, helloChange_heard, (campJudge_turn _).heard, lossKept_heard]
    show (lossNoted led m c).camp.heard.testBit m = false
    rw [lossNoted_heard, campChoose_heard, campForget_heard m.isLt m.isLt]
    simp
  · have hcrole : c.campRole = 2 := by
      rw [campChoose_campRole] at hrole ⊢
      rw [campForget_campBest m.isLt hreach, campForget_ownId, campForget_campState, hrole]
    have hv (a : Nat) (hk : a ≠ aCampKeeper) (hs : a ≠ aCampStat) : v.reg a = (campForget m s).reg a :=
      (lossNoted_reg _ _ _ hs).trans (hc a hk hs)
    have hvrole : v.campRole = 2 := by
      rw [← hcrole]
      show fld ((lossNoted led m c).reg aCampStat) 0 2 = _
      rw [lossNoted_stat (.inl hcrole)]
      exact fld_or_of_zero (by decide) _
    have hvreach : v.reached.testBit m = false := by
      have : v.reached = (campForget m s).reached := reached_congr fun a ha => hv a (by simp only [aCampKeeper]; omega)
        (by simp only [aCampStat]; omega)
      rw [this, campForget_reached, hreach]
    have hvown : m.val ≠ v.ownId := by
      rw [State.ownId, hv _ (by decide) (by decide)]
      exact fun h => hown (h.trans campForget_ownId)
    have hvmap : bit (v.reg aCampMap) m = true := by rw [hv _ (by decide) (by decide), campForget_map m.isLt m.isLt, hmap]
    have hepoch : v.reg aCampEpoch = s.reg aCampEpoch := by
      rw [hv _ (by decide) (by decide), campForget_reg (by decide) (by simp only [aCampEpoch, aCampMemInfo]; omega)]
    obtain ⟨hout, hnext⟩ := lossKept_keeper (led := led) hvrole m.isLt hvreach hvown hvmap
    refine ⟨?_, ?_, hset (.inl hcrole)⟩
    · rw [ht, helloChange_reg, (campJudge_turn _).reg _ (by decide), hout]
    · rw [ht, helloChange_reg, (campJudge_turn _).reg _ (by decide), hnext, hepoch]

/-! ## Delays and fragments (R541, R545, R589) -/

theorem tempoPushEntry_tide {s t : State} (h : s.tide = t.tide) (e : TempoEntry) : (tempoPushEntry e s).tide = (tempoPushEntry e t).tide := by
  unfold tempoPushEntry
  rw [h]
  split
  · rfl
  · exact h

theorem mgmtSend_link (n : Nat) (b : List Byte) (s : State) :
    (mgmtSend n b s).link n = { s.link n with mgmtQ := (s.link n).mgmtQ ++ [padBody b] } := by
  rw [mgmtSend, State.link_onLink, if_pos rfl]

theorem delayTimer_spec {s : State} {n : Nat} (hup : s.linkUp n = true) :
    ((delayTimer n s).link n).delay = true ∧ ((delayTimer n s).link n).mgmtQ = (s.link n).mgmtQ ++ [padBody [4]] ∧
      (delayTimer n s).regs = s.regs := by
  rw [delayTimer, if_pos hup, mgmtSend_link, State.link_onLink, if_pos rfl]
  exact ⟨rfl, rfl, rfl⟩

/-- The one fragment of an envelope of at most 44 bytes makes it whole. -/
theorem gather_one {g : Option Gather} {b : List Byte} (hfirst : b.getD 2 0 = 0) (hlast : (b.getD 3 0).toNat % 2 = 1)
    (hpos : 0 < (b.getD 4 0).toNat + 256 * (b.getD 5 0).toNat) (hle : (b.getD 4 0).toNat + 256 * (b.getD 5 0).toNat ≤ 44)
    (hlen : 52 ≤ b.length) :
    gather g b = (none, some ((b.getD 1 0).toNat, (b.drop 8).take ((b.getD 4 0).toNat + 256 * (b.getD 5 0).toNat)), false) := by
  have h0 : (b.getD 2 0).toNat = 0 := by rw [hfirst]; rfl
  unfold gather
  dsimp only
  rw [if_pos h0]
  dsimp only
  rw [if_neg (by rw [h0]; simp), if_pos hlast, List.nil_append, List.length_nil, Nat.sub_zero, Nat.min_eq_left hle]
  exact if_pos ⟨by rw [List.length_take, List.length_drop]; omega, hpos⟩

section
variable {s : State} {n : Nat} {e : Nat × Nat × List Byte} (he : (s.link n).rx.head? = some e) (hkind : e.1 = 3)
include he hkind

theorem tempoTake_spec (hty : (e.2.2.headD 0).toNat = 3) (hsrc : fld (s.reg aTideRef) 0 4 = 5) :
    (tempoTake n s).tide = (tempoPushEntry
      { at_ := BitVec.ofNat 48 (leNat ((e.2.2.drop 2).take 6)), value := BitVec.ofNat 64 (leNat ((e.2.2.drop 8).take 8)),
        locate := decide (e.2.2.getD 1 0 = 1) } s).tide := by
  have hon : (s.popRx n).onStrand = true := decide_eq_true hsrc
  unfold tempoTake
  rw [takeRx_popRx he hkind (by decide) fun _ => hty]
  dsimp only
  rw [if_pos hon]
  exact tempoPushEntry_tide (s := s.popRx n) (t := s) rfl _

/-- The answer to a measurement shows half the round trip less the turnaround. -/
theorem execDelay_answered (hty : (e.2.2.headD 0).toNat = 4) (rtt turn : Nat) (hd : (s.link n).delay = true) (hn : n < 8) :
    ∃ t, execDelay ⟨n, hn⟩ (some rtt) turn s = .next t ∧ (t.link n).delay = false ∧
      t.reg (aStrDelay n) = BitVec.ofNat 32 ((rtt - turn) / 2 % 2 ^ 20) := by
  have hpop : ((s.popRx n).link n).delay = true := by rw [State.popRx_link]; exact hd
  refine ⟨((s.popRx n).onLink n (fun l => { l with delay := false })).setReg (aStrDelay n) (BitVec.ofNat 32 ((rtt - turn) / 2 % 2 ^ 20)),
    ?_, ?_, ?_⟩
  · unfold execDelay
    rw [takeRx_popRx he hkind (by decide) fun _ => hty]
    exact congrArg Host.Outcome.next (if_pos hpop)
  · show (((s.popRx n).onLink n (fun l => { l with delay := false })).link n).delay = false
    rw [State.link_onLink, if_pos rfl]
  · exact (State.reg_setReg ..).trans (if_pos rfl)

/-- The far end's measurement is answered. -/
theorem execDelay_asked (hty : (e.2.2.headD 0).toNat = 4) (turn : Nat) (hn : n < 8) :
    ∃ t, execDelay ⟨n, hn⟩ none turn s = .next t ∧ (t.link n).mgmtQ = (s.link n).mgmtQ ++ [padBody [4]] ∧
      (t.link n).delay = (s.link n).delay ∧ t.regs = s.regs := by
  refine ⟨mgmtSend n [4] (s.popRx n), ?_, ?_, ?_, rfl⟩
  · unfold execDelay
    rw [takeRx_popRx he hkind (by decide) fun _ => hty]
  · rw [mgmtSend_link, State.popRx_link]
  · rw [mgmtSend_link, State.popRx_link]

/-- A one-fragment envelope waits whole for the command processor. -/
theorem commandFragment_one (hty : (e.2.2.headD 0).toNat = 5) (henv : (s.link n).env = none) (hfirst : e.2.2.getD 2 0 = 0)
    (hlast : (e.2.2.getD 3 0).toNat % 2 = 1) (hpos : 0 < (e.2.2.getD 4 0).toNat + 256 * (e.2.2.getD 5 0).toNat)
    (hle : (e.2.2.getD 4 0).toNat + 256 * (e.2.2.getD 5 0).toNat ≤ 44) (hlen : 52 ≤ e.2.2.length) :
    let t := commandFragment n s
    (t.link n).env = none ∧ t.regs = s.regs ∧ (t.link n).req = (s.link n).req ++
      [((e.2.2.getD 1 0).toNat, (e.2.2.drop 8).take ((e.2.2.getD 4 0).toNat + 256 * (e.2.2.getD 5 0).toNat))] := by
  have hpop : ((s.popRx n).link n).env = none := by rw [State.popRx_link]; exact henv
  have hone := gather_one (g := none) hfirst hlast hpos hle hlen
  unfold commandFragment
  rw [takeRx_popRx he hkind (by decide) fun _ => hty]
  dsimp only
  rw [hpop, hone, if_neg (by simp), State.link_onLink, if_pos rfl, State.popRx_link]
  exact ⟨rfl, rfl, rfl⟩

theorem responseFragment_one (hty : (e.2.2.headD 0).toNat = 6) (hfirst : e.2.2.getD 2 0 = 0)
    (hlast : (e.2.2.getD 3 0).toNat % 2 = 1) (hpos : 0 < (e.2.2.getD 4 0).toNat + 256 * (e.2.2.getD 5 0).toNat)
    (hle : (e.2.2.getD 4 0).toNat + 256 * (e.2.2.getD 5 0).toNat ≤ 44) (hlen : 52 ≤ e.2.2.length) :
    ((responseFragment n s).link n).resp = (e.2.2.drop 8).take ((e.2.2.getD 4 0).toNat + 256 * (e.2.2.getD 5 0).toNat) := by
  unfold responseFragment
  rw [takeRx_popRx he hkind (by decide) fun _ => hty]
  dsimp only
  rw [gather_one hfirst hlast hpos hle hlen, State.link_onLink, if_pos rfl]

end

/-! ## The obligation -/

/-- Settles O45: each row of streams and camps by the lemma about its function. -/
theorem streamAndCampRows : Obligations.StreamAndCampRows := by
  unfold Obligations.StreamAndCampRows
  refine ⟨fun s r x hx p hp hkind hlive hfirst hadm => ⟨fun hidle => ⟨_, rfl, ?_⟩, fun hin hdone hbridge hread => ⟨_, rfl, ?_⟩⟩,
    fun s n e he hkind hadm x hx hopen hempty hroom hplace _ hlate hpos hle => ⟨_, rfl, ?_⟩,
    fun s n e he hkind hadm x hx hlate => ⟨_, rfl, ?_⟩, fun s pt p hp x hx hopen hone => ⟨_, rfl, ?_⟩,
    fun s n m e he hkind hty hmem hown => ⟨_, rfl, ?_⟩, fun s => ⟨_, rfl, fun n => helloAll_mgmtQ s n⟩,
    fun s n e he hkind hty hmode hkeeper hrole hst halign => ⟨fun hown => ⟨_, rfl, ?_⟩, fun hown hepoch => ⟨_, rfl, ?_⟩⟩,
    fun s n e he hkind => ⟨fun hty hsrc => ⟨_, rfl, ?_⟩, fun hty rtt turn => ⟨fun hd => ?_, ?_⟩,
      fun hty henv hfirst hlast hpos hle hlen => ⟨_, rfl, ?_⟩, fun hty hfirst hlast hpos hle hlen => ⟨_, rfl, ?_⟩⟩,
    fun s n hup => ⟨_, rfl, ?_⟩, fun s m hreach hheard => ⟨_, rfl, ?_⟩⟩
  · exact streamSend_nodata hx hp hkind hlive hfirst hadm hidle
  · exact streamSend_block hx hp hkind hlive hfirst hadm hin hdone hbridge hread
  · exact streamTake_writes he hkind hadm hx hopen hempty hroom hplace hlate hpos hle
  · exact streamTake_drops he hkind hadm hx hlate
  · exact streamDeadline_one ⟨p, hp⟩ hx hone hopen
  · obtain ⟨hlo, hhi, hver, hheard, hrank, hadmits⟩ := hello_spec he hkind hty hmem hown
    exact ⟨hlo, hhi, hver, hheard, hrank, fun _ => hadmits⟩
  · exact beaconTake_held he hkind hty hmode hkeeper hrole hst halign hown
  · exact beaconTake_stale he hkind hty hmode hkeeper hrole hst halign hown hepoch
  · exact tempoTake_spec he hkind hty hsrc
  · exact execDelay_answered he hkind hty rtt turn hd n.isLt
  · exact execDelay_asked he hkind hty turn n.isLt
  · exact commandFragment_one he hkind hty henv hfirst hlast hpos hle hlen
  · exact responseFragment_one he hkind hty hfirst hlast hpos hle hlen
  · exact delayTimer_spec hup
  · exact memberLoss_spec hreach hheard

end Sys2Proof.Machine
end

section
/-! HostAndMailboxRows (O46): a host read whose first request has a stale namesake does not complete (spec/14_host_network_memory.md, R558). -/

namespace Sys2Proof.Machine

/-- The host may read LPDDR5X and the fabric is idle, but a thread still names, among its posted stores, the number that the fabric will give
to its next request. -/
def wStaleAnswer : State :=
  ({ (State.reset.setReg aPcieLink 0x184).setReg aPcieAcc 7 with memc := { State.reset.memc with ddrCap := 0x40000000 } } : State).setThread
    0 0 { Thread.reset with posted := [0] }

/-- The answer to the first of a read's two beats is kept for the thread, and the host's run of beats ends with it: the second beat waits. -/
theorem hostRead_staleAnswer : (hostRead 2 0 64 [] wStaleAnswer).pcie.cpl = none := by decide

/-- Refutes O46: a request of the host that a thread also waits for, by a number left over in `posted`, is not forgotten when it ends, and a
read of 64 bytes does not complete at once. -/
theorem not_hostAndMailboxRows : ¬ Obligations.HostAndMailboxRows := by
  unfold Obligations.HostAndMailboxRows
  rintro ⟨-, hread, -⟩
  obtain ⟨t, ht, hcpl, -⟩ := hread wStaleAnswer 0 64 [] rfl (by decide) (by decide) (by decide) (by decide) (by decide) (by decide)
  cases ht
  cases hostRead_staleAnswer.symm.trans hcpl

end Sys2Proof.Machine
end

section
/-! ModeRows (O56): on the way to a low-power mode only edges and address matches wake (spec/17_clocks_power.md, R655, R656). -/

namespace Sys2Proof.Machine

/-- The device runs and is entering BIVOUAC; RTC compare 0 has been reached, and its wake class is enabled. -/
def wEnteringRtc : State :=
  { State.reset.setReg aLantWakeEn 8 with
    pwr := { Pwr.reset with mode := .run, entering := some .bivouac }
    lant := { State.reset.lant with reached := 1 } }

/-- A reached compare is a level, which is not sampled before the entry is complete. -/
theorem wake_entering_level : (wake 4 0 0 wEnteringRtc).pwr.woken = false := by decide

/-- Refutes O56: its clause on WAKE lets every enabled class wake a device that is still entering BIVOUAC; the levels of classes 1 and 4 do
not. -/
theorem not_modeRows : ¬ Obligations.ModeRows := by
  unfold Obligations.ModeRows
  rintro ⟨-, -, -, -, hwake, -⟩
  obtain ⟨t, ht, hwoken, -⟩ := hwake wEnteringRtc 4 0 0 (.inr (.inr rfl)) (by decide) (by decide) (by decide)
  cases ht
  cases wake_entering_level.symm.trans hwoken

end Sys2Proof.Machine
end

section
/-! PortAndTapRows (O57): a board-test instruction resets the 144 cores, and State can list threads of no core (spec/17_clocks_power.md, R665). -/

namespace Sys2Proof.Machine

theorem foldS_induction_of_mem {α : Type} {f : α → State → State} {P : State → Prop} {l : List α} (hf : ∀ x ∈ l, ∀ s, P s → P (f x s))
    {s : State} (h : P s) : P (foldS f l s) := by
  induction l generalizing s with
  | nil => exact h
  | cons x l ih => exact ih (fun y hy => hf y (List.mem_cons_of_mem x hy)) (hf x List.mem_cons_self s h)

/-- The reset of a core leaves the threads of every other slot. -/
theorem coreReset_thread_of_ne {k j : Nat} (h : k ≠ j) (s : State) : (coreReset k s).thread j 0 = s.thread j 0 := by
  unfold coreReset
  extract_lets s1 c _ s2 s3
  have h1 : s1.thread j 0 = s.thread j 0 := foldS_induction_of_mem (P := fun u => u.thread j 0 = s.thread j 0)
    (fun t ht u hu => by
      have := List.mem_range.mp ht
      rw [State.thread_setThread_ite, if_neg (by omega), hu]) rfl
  have h3 : s3.thread j 0 = s.thread j 0 :=
    foldS_induction (P := fun u => u.thread j 0 = s.thread j 0) (f := fun a u => u.setReg a 0) (fun _ _ hu => hu) _ s2 h1
  clear_value s3
  split <;> exact h3

theorem foldS_coreReset_thread {ks : List Nat} {j : Nat} (hj : j ∉ ks) (s : State) : (foldS coreReset ks s).thread j 0 = s.thread j 0 :=
  foldS_induction_of_mem (P := fun u => u.thread j 0 = s.thread j 0)
    (fun _ hk u hu => (coreReset_thread_of_ne (ne_of_mem_of_not_mem hk hj) u).trans hu) rfl

theorem setMode_thread (m : Mode) (s : State) : (setMode m s).thread = s.thread := rfl

/-- A board-test instruction that enters TEST from another mode than NEAP leaves the threads of a slot that the device does not have. -/
theorem tapTest_thread {s : State} {j : Nat} (hj : 144 ≤ j) (hmay : s.tapMay = true) (htest : s.pwr.mode ≠ .test) (hneap : s.pwr.mode ≠ .neap)
    (code : Nat) (pins : TapPins) (bits : List Bool) : (tapTest code pins bits s).thread j 0 = s.thread j 0 := by
  have hslots : j ∉ List.range 144 := fun h => absurd (List.mem_range.mp h) (Nat.not_lt.mpr hj)
  unfold tapTest
  dsimp only
  rw [if_pos hmay, if_neg htest, setMode_thread, foldS_coreReset_thread hslots, leaveNeap, if_neg hneap]
  rfl

/-- A state in ANCHOR after a COLD reset that lists a thread of slot 144, which no core has. -/
def wStrayThread : State :=
  ({ State.reset with pwr := { Pwr.reset with mode := .anchor, cold := true } } : State).setThread 144 0 { Thread.reset with pc := 4 }

/-- Refutes O57: its clause on EXTEST says that every thread of State is reset, of whatever slot number. -/
theorem not_portAndTapRows : ¬ Obligations.PortAndTapRows := by
  unfold Obligations.PortAndTapRows
  rintro ⟨-, -, -, htap, -⟩
  obtain ⟨⟨t, ht, -, -, -, -, hthreads⟩, -⟩ := (htap wStrayThread []).1 (by decide)
  obtain rfl : tapTest 0 .extest [] wStrayThread = t := by injection ht
  have hreset := hthreads (by decide) 144 0
  rw [tapTest_thread (le_refl 144) (by decide) (by decide) (by decide)] at hreset
  exact absurd hreset (by decide)

end Sys2Proof.Machine
end

section
/-! UnitRowsLeaveTheRest (O60): the count of a frame sent goes to the talker that the frame names (spec/14_host_network_memory.md, R567). -/

namespace Sys2Proof.Machine

/-- Port 0 is up, and a frame of class A waits that names as its talker one that the device does not have. -/
def wStrayTalker : State :=
  (State.reset.setReg (aEthMode 0) 0x11).onEth 0 fun e => { e with aQ := [{ talker := some 0x10000, bytes := [] }] }

theorem ethSend_strayTalker :
    0x40100000 ≤ aEthTkCnt 0x10000 ∧ (ethSend 0 0 0 (ptpNow 0 0 wStrayTalker)).reg (aEthTkCnt 0x10000) ≠ wStrayTalker.reg (aEthTkCnt 0x10000) := by
  decide

/-- Refutes O60: ETH_FRAME_SEND counts a frame at the address that its talker's number gives, and State bounds no such number. -/
theorem not_unitRowsLeaveTheRest : ¬ Obligations.UnitRowsLeaveTheRest := by
  unfold Obligations.UnitRowsLeaveTheRest
  rintro ⟨-, -, -, heth, -⟩
  obtain ⟨-, hregs⟩ := heth wStrayTalker _ (.ethFrameSend 0 0 0 0) 0 false 0 0 0 0 0 0 (by simp) rfl
  exact ethSend_strayTalker.2 (hregs _ (.inr ethSend_strayTalker.1))

end Sys2Proof.Machine
end

section
/-! ResetRows and CommandProcessorRows (O58, O54): a WARM reset makes its table of registers anew, and of an address listed twice the last entry
stands (spec/18_reset_boot.md, Table 18-2). -/

namespace Sys2Proof.Machine

/-- A state whose table of registers lists SYS_STRAP and SYS_MUTE twice, which the canonical form excludes; a RESET_N low has come, and a
SET_MODE to ANCHOR awaits its reset. -/
def wListedTwice : State :=
  { State.reset with
    regs := [(aSysStrap, 1), (aSysStrap, 2), (aSysMute, 2), (aSysMute, 0)]
    pwr := { Pwr.reset with mode := .run, resetN := false, pwronN := true }
    sec := { CmdProc.reset with warm := some 0 } }

theorem warmReset_listedTwice : (warmReset 2 wListedTwice).reg aSysStrap ≠ wListedTwice.reg aSysStrap := by decide

theorem anchorReset_listedTwice : bit ((anchorReset true wListedTwice).reg aSysMute) 0 = false := by decide

/-- Refutes O58: in a state whose table of registers is not canonical a WARM reset does not leave SYS_STRAP as it reads. -/
theorem not_resetRows : ¬ Obligations.ResetRows := by
  unfold Obligations.ResetRows
  rintro ⟨-, -, hwarm, -⟩
  obtain ⟨t, ht, -, -, -, -, -, hstrap, -⟩ := (hwarm wListedTwice).2.1 rfl rfl (by decide) (by decide)
  cases ht
  exact warmReset_listedTwice hstrap

/-- Refutes O54: in a state whose table of registers is not canonical the reset of SET_MODE ANCHOR does not hold the mute. -/
theorem not_commandProcessorRows : ¬ Obligations.CommandProcessorRows := by
  unfold Obligations.CommandProcessorRows
  rintro ⟨-, -, -, -, hreset⟩
  obtain ⟨t, ht, -, -, hmute, -⟩ := (hreset wListedTwice true 0 rfl).1 (.inl rfl)
  cases ht
  cases anchorReset_listedTwice.symm.trans hmute

end Sys2Proof.Machine
end

section
/-! Operating points and the regulator (spec/17_clocks_power.md, R641 to R647; spec/19_electrical_package.md, R707): what the registers of points and
range hold after each step of the sequence, and O55. -/

namespace Sys2Proof.Machine

/-! ## The points of the clusters -/

section
variable {c d t cur : Nat} {s : State}

theorem setOp_reg (c t cur : Nat) (s : State) {a : Nat} (ha : a ≠ aCkpClOp c) : (setOp c t cur s).reg a = s.reg a :=
  (State.reg_setReg ..).trans (if_neg ha)

theorem aCkpClOp_inj : aCkpClOp d = aCkpClOp c ↔ d = c := by simp only [aCkpClOp]; omega

theorem setOp_opTarget (ht : t < 8) : (setOp c t cur s).opTarget d = if d = c then t else s.opTarget d := by
  rw [State.opTarget, setOp, State.reg_setReg]
  by_cases hd : d = c
  · rw [if_pos hd, if_pos (aCkpClOp_inj.mpr hd), fld_ofNat (by decide)]
    split <;> omega
  · rw [if_neg hd, if_neg fun h => hd (aCkpClOp_inj.mp h)]
    rfl

theorem setOp_opCur (ht : t < 8) (hc : cur < 8) : (setOp c t cur s).opCur d = if d = c then cur else s.opCur d := by
  rw [State.opCur, setOp, State.reg_setReg]
  by_cases hd : d = c
  · rw [if_pos hd, if_pos (aCkpClOp_inj.mpr hd), fld_ofNat (by decide)]
    simp only [Nat.reducePow]
    split
    · have hdiv : (t + cur * 256 + 0) / 256 = cur := by omega
      omega
    · have hdiv : (t + cur * 256 + 65536) / 256 = cur + 256 := by omega
      omega
  · rw [if_neg hd, if_neg fun h => hd (aCkpClOp_inj.mp h)]
    rfl

theorem State.opTarget_lt (s : State) (c : Nat) : s.opTarget c < 8 := fld_lt _ 0 3

theorem State.opCur_lt (s : State) (c : Nat) : s.opCur c < 8 := fld_lt _ 8 3

end

/-- Addresses of the points lie below the registers of the regulator. -/
theorem aCkpClOp_lt {c : Nat} (hc : c < 16) : aCkpClOp c < aCkpVrStat := by simp only [aCkpClOp, aCkpVrStat]; omega

theorem aCkpClOp_ne_stat (c : Nat) : aCkpStat ≠ aCkpClOp c := by simp only [aCkpStat, aCkpClOp]; omega

/-- Machine t has the points of s. -/
structure State.SamePoints (s t : State) : Prop where
  target : ∀ c < 16, t.opTarget c = s.opTarget c
  cur    : ∀ c < 16, t.opCur c = s.opCur c
  top    : t.topTarget = s.topTarget

/-- The points, and the highest of them, are where their registers, CKP_CL_PWR and the mode are. -/
theorem State.SamePoints.of_regs {s t : State} (h : ∀ a, a ≠ aCkpStat → a ≠ aCkpVrStat → a ≠ aCkpVrVout → t.reg a = s.reg a)
    (hp : t.pwr = s.pwr) : s.SamePoints t := by
  have hop (c : Nat) (hc : c < 16) : t.reg (aCkpClOp c) = s.reg (aCkpClOp c) :=
    h _ (aCkpClOp_ne_stat c).symm (by have := aCkpClOp_lt hc; omega) (by simp only [aCkpClOp, aCkpVrVout]; omega)
  refine ⟨fun c hc => by rw [State.opTarget, hop c hc, State.opTarget], fun c hc => by rw [State.opCur, hop c hc, State.opCur], ?_⟩
  have hpwr : t.reg aCkpClPwr = s.reg aCkpClPwr := h _ (by decide) (by decide) (by decide)
  unfold State.topTarget
  rw [hp]
  split
  · rfl
  · refine List.foldl_ext _ _ _ fun m c hc => ?_
    rw [State.clusterOn, hpwr, ← State.clusterOn, State.opTarget, hop c (List.mem_range.mp hc)]
    rfl

theorem State.SamePoints.trans {s t u : State} (h : s.SamePoints t) (h' : t.SamePoints u) : s.SamePoints u :=
  ⟨fun c hc => (h'.target c hc).trans (h.target c hc), fun c hc => (h'.cur c hc).trans (h.cur c hc), h'.top.trans h.top⟩

theorem foldl_max_le {l : List Nat} {p : Nat → Bool} {f : Nat → Nat} {b : Nat} (hf : ∀ c, f c < b) :
    ∀ m, m < b → l.foldl (fun m c => if p c then max m (f c) else m) m < b := by
  induction l with
  | nil => exact fun m hm => hm
  | cons c l ih =>
    intro m hm
    have := hf c
    exact ih _ (by dsimp only; split <;> omega)

theorem State.topTarget_lt (s : State) : s.topTarget < 8 := by
  unfold State.topTarget
  split
  · decide
  · exact foldl_max_le s.opTarget_lt 0 (by decide)

/-- With every cluster ON outside BIVOUAC, no target is above the highest. -/
theorem State.opTarget_le_top {s : State} (hpwr : s.reg aCkpClPwr = 0) (hmode : s.pwr.mode ≠ .bivouac) {c : Nat} (hc : c < 16) :
    s.opTarget c ≤ s.topTarget := by
  have hon (j : Nat) : s.clusterOn j = true := by rw [State.clusterOn, hpwr, fld_zero]; rfl
  have hge (l : List Nat) : ∀ m, m ≤ l.foldl (fun m c => if s.clusterOn c then max m (s.opTarget c) else m) m ∧
      ∀ j ∈ l, s.opTarget j ≤ l.foldl (fun m c => if s.clusterOn c then max m (s.opTarget c) else m) m := by
    induction l with
    | nil => exact fun m => ⟨le_rfl, by simp⟩
    | cons j l ih =>
      intro m
      rw [List.foldl_cons, if_pos (hon j)]
      obtain ⟨hm, hl⟩ := ih (max m (s.opTarget j))
      exact ⟨by omega, List.forall_mem_cons.mpr ⟨by omega, hl⟩⟩
  rw [State.topTarget, if_neg fun h => hmode h.1]
  exact (hge (List.range 16) 0).2 c (List.mem_range.mpr hc)

/-! ## The range (R641) and the regulator's sequence -/

section
variable {s : State}

theorem setRange_reg (lo hi : Nat) (s : State) (a : Nat) :
    (setRange lo hi s).reg a = if a = aCkpVrStat then setFld (setFld (s.reg aCkpVrStat) 0 3 lo) 4 3 hi else s.reg a := by
  simp only [setRange, State.reg_setRegFld, if_true]
  split
  · rfl
  · rfl

theorem setVr_reg (x : VrSt) (s : State) (a : Nat) :
    (setVr x s).reg a = if a = aCkpVrStat then setFld (s.reg aCkpVrStat) 12 1 (if x = VrSt.idle then 0 else 1) else s.reg a := by
  rw [setVr, State.reg_setRegFld]
  rfl

theorem setVr_frame (x : VrSt) (s : State) : setVr x s = { s with regs := (setVr x s).regs, ckp := { vr := x, fails := 0 } } := rfl

theorem setVr_fields (x : VrSt) (s : State) :
    (setVr x s).vlo = s.vlo ∧ (setVr x s).vcmd = s.vcmd ∧ (setVr x s).vfail = s.vfail ∧
      (x ≠ .boot → (setVr x s).vhi = fld (s.reg aCkpVrStat) 4 3) := by
  have hreg : (setVr x s).reg aCkpVrStat = _ := (setVr_reg x s aCkpVrStat).trans (if_pos rfl)
  rw [State.vlo, State.vcmd, State.vfail, State.vhi, hreg, fld_setFld_of_disjoint _ (by decide) (by decide),
    fld_setFld_of_disjoint _ (by decide) (by decide), fld_setFld_of_disjoint _ (by decide) (by decide), bit_setFld_of_disjoint _ (by decide) (by decide)]
  exact ⟨rfl, rfl, rfl, fun hx => if_neg hx⟩

theorem setRange_fields {lo hi : Nat} (hlo : lo < 8) (hhi : hi < 8) (s : State) :
    (setRange lo hi s).vlo = lo ∧ (setRange lo hi s).vcmd = s.vcmd ∧ (setRange lo hi s).vfail = s.vfail ∧
      fld ((setRange lo hi s).reg aCkpVrStat) 4 3 = hi := by
  have hreg : (setRange lo hi s).reg aCkpVrStat = _ := (setRange_reg lo hi s aCkpVrStat).trans (if_pos rfl)
  rw [State.vlo, State.vcmd, State.vfail, hreg, fld_setFld_of_disjoint _ (by decide) (by decide), fld_setFld_same _ (by decide) hlo,
    fld_setFld_of_disjoint _ (by decide) (by decide), fld_setFld_of_disjoint _ (by decide) (by decide),
    bit_setFld_of_disjoint _ (by decide) (by decide), bit_setFld_of_disjoint _ (by decide) (by decide), fld_setFld_same _ (by decide) hhi]
  exact ⟨rfl, rfl, rfl, rfl⟩

theorem State.vlo_lt (s : State) : s.vlo < 8 := fld_lt _ 0 3

theorem State.vcmd_lt (s : State) : s.vcmd < 8 := fld_lt _ 8 3

theorem State.vhi_lt (s : State) : s.vhi < 8 := by
  unfold State.vhi
  split
  · decide
  · exact fld_lt _ 4 3

theorem vrCommand_spec (up : Bool) {v : Nat} (hv : v < 8) (s : State) :
    (vrCommand up v s).vlo = s.vlo ∧ (vrCommand up v s).vcmd = v ∧ (vrCommand up v s).ckp.vr = .ack up := by
  obtain ⟨hlo, hcmd, -, -⟩ := setVr_fields (.ack up) (s.setRegFld aCkpVrStat 8 3 v)
  refine ⟨hlo.trans ?_, hcmd.trans ?_, rfl⟩
  · rw [State.vlo, State.reg_setRegFld, if_pos rfl, fld_setFld_of_disjoint _ (by decide) (by decide)]
    rfl
  · rw [State.vcmd, State.reg_setRegFld, if_pos rfl, fld_setFld_same _ (by decide) hv]

theorem vrCommand_reg (up : Bool) (v : Nat) (s : State) {a : Nat} (ha : a ≠ aCkpVrStat) : (vrCommand up v s).reg a = s.reg a := by
  rw [vrCommand, setVr_reg, if_neg ha, State.reg_setRegFld, if_neg ha]

theorem vrCommand_pwr (up : Bool) (v : Nat) (s : State) : (vrCommand up v s).pwr = s.pwr := by
  rw [vrCommand, setVr, State.setRegFld_pwr]
  exact State.setRegFld_pwr s aCkpVrStat 8 3 v

/-! ## vrAdvance: steps 2 and 3 of R643 -/

/-- Is the regulator free, and no cluster's lowering left? -/
def State.vrFree (s : State) : Prop := s.ckp.vr = .idle ∧ s.vfail = false ∧ ∀ c < 16, s.opCur c ≤ s.opTarget c

theorem vrAdvance_of_free (h : s.vrFree) : vrAdvance s =
    if s.topTarget < s.vhi then vrCommand false s.topTarget (s.setRegFld aCkpVrStat 0 3 s.topTarget)
    else if s.vlo < s.topTarget then vrCommand true s.topTarget s else s := by
  obtain ⟨hidle, hfail, hpoints⟩ := h
  refine if_neg ?_
  rintro (h | h | h)
  · exact h hidle
  · exact absurd (hfail.symm.trans h) (by decide)
  · obtain ⟨c, hc, hlt⟩ := List.any_eq_true.mp h
    have := hpoints c (List.mem_range.mp hc)
    have := of_decide_eq_true hlt
    omega

theorem vrAdvance_of_busy (h : ¬ s.vrFree) : vrAdvance s = s := by
  refine if_pos ?_
  by_contra hc
  simp only [not_or, not_not, Bool.not_eq_true, List.any_eq_false, decide_eq_true_eq, not_lt, List.mem_range] at hc
  exact h ⟨hc.1, hc.2.1, hc.2.2⟩

theorem vrAdvance_reg {a : Nat} (ha : a ≠ aCkpVrStat) : (vrAdvance s).reg a = s.reg a := by
  by_cases hfree : s.vrFree
  · rw [vrAdvance_of_free hfree]
    split_ifs
    · rw [vrCommand_reg _ _ _ ha, State.reg_setRegFld, if_neg ha]
    · exact vrCommand_reg _ _ _ ha
    · rfl
  · rw [vrAdvance_of_busy hfree]

theorem vrAdvance_pwr : (vrAdvance s).pwr = s.pwr := by
  by_cases hfree : s.vrFree
  · rw [vrAdvance_of_free hfree]
    split_ifs
    · exact (vrCommand_pwr ..).trans (State.setRegFld_pwr s aCkpVrStat 0 3 s.topTarget)
    · exact vrCommand_pwr _ _ s
    · rfl
  · rw [vrAdvance_of_busy hfree]

theorem vrAdvance_points : s.SamePoints (vrAdvance s) :=
  .of_regs (fun _ _ ha _ => vrAdvance_reg ha) vrAdvance_pwr

/-- What the step commands (R643 step 2): down with vlo lowered at once, up with vlo kept. -/
theorem vrAdvance_spec (s : State) :
    (s.vrFree →
      if s.topTarget < s.vhi then (vrAdvance s).ckp.vr = .ack false ∧ (vrAdvance s).vlo = s.topTarget ∧ (vrAdvance s).vcmd = s.topTarget
      else if s.vlo < s.topTarget then (vrAdvance s).ckp.vr = .ack true ∧ (vrAdvance s).vlo = s.vlo ∧ (vrAdvance s).vcmd = s.topTarget
      else vrAdvance s = s) ∧
    (¬ s.vrFree → vrAdvance s = s) := by
  refine ⟨fun hfree => ?_, vrAdvance_of_busy⟩
  rw [vrAdvance_of_free hfree]
  split_ifs with hdown hup
  · obtain ⟨hlo, hcmd, hvr⟩ := vrCommand_spec false s.topTarget_lt (s.setRegFld aCkpVrStat 0 3 s.topTarget)
    refine ⟨hvr, hlo.trans ?_, hcmd⟩
    rw [State.vlo, State.reg_setRegFld, if_pos rfl, fld_setFld_same _ (by decide) s.topTarget_lt]
  · obtain ⟨hlo, hcmd, hvr⟩ := vrCommand_spec true s.topTarget_lt s
    exact ⟨hvr, hlo, hcmd⟩
  · rfl

/-- The step lets no cluster outrun the voltage: vlo stays, or falls to the highest target when every point is at or below its target. -/
theorem vrAdvance_safe (hpwr : s.reg aCkpClPwr = 0) (hmode : s.pwr.mode ≠ .bivouac) (hsafe : ∀ c < 16, s.opCur c ≤ s.vlo) :
    ∀ c < 16, (vrAdvance s).opCur c ≤ (vrAdvance s).vlo := by
  intro c hc
  rw [vrAdvance_points.cur c hc]
  obtain ⟨hgo, hstay⟩ := vrAdvance_spec s
  by_cases hfree : s.vrFree
  · have hspec := hgo hfree
    split_ifs at hspec with hdown hup
    · rw [hspec.2.1]
      exact (hfree.2.2 c hc).trans (State.opTarget_le_top hpwr hmode hc)
    · rw [hspec.2.1]
      exact hsafe c hc
    · rw [hspec]
      exact hsafe c hc
  · rw [hstay hfree]
    exact hsafe c hc

end

end Sys2Proof.Machine
end

section
/-! The rows of points, regulator, PLLs and temperature (spec/17_clocks_power.md, R634, R641 to R647; spec/19_electrical_package.md, R707), and the
theorem that settles O55. -/

namespace Sys2Proof.Machine

/-! ## What leaves the regulator -/

/-- Machine t has the regulator's state and range of s. -/
structure State.SameRange (s t : State) : Prop where
  ckp : t.ckp = s.ckp
  reg : t.reg aCkpVrStat = s.reg aCkpVrStat

section
variable {s t : State} (h : s.SameRange t)
include h

theorem State.SameRange.vlo : t.vlo = s.vlo := by rw [State.vlo, h.reg, State.vlo]

theorem State.SameRange.vcmd : t.vcmd = s.vcmd := by rw [State.vcmd, h.reg, State.vcmd]

theorem State.SameRange.vfail : t.vfail = s.vfail := by rw [State.vfail, h.reg, State.vfail]

theorem State.SameRange.vhi : t.vhi = s.vhi := by rw [State.vhi, h.reg, h.ckp, State.vhi]

end

theorem legal_lt {n : Nat} (hn : 0 < n) (id c : Nat) : legal id n c < n := by
  unfold legal
  split
  · assumption
  · exact Nat.mod_lt _ hn

/-! ## Requests, lowering and raising (R642, R643) -/

section
variable {c : Nat} {s : State}

/-- Machine s with a new target and current point of cluster c, and op_done set where `done`. -/
def pointsSet (c t cur : Nat) (done : Bool) (s : State) : State := (setOp c t cur s).orRegIf done aCkpStat 0x100

theorem pointsSet_ckp (c t cur : Nat) (done : Bool) (s : State) : (pointsSet c t cur done s).ckp = s.ckp := by
  cases done <;> rfl

theorem pointsSet_pwr (c t cur : Nat) (done : Bool) (s : State) : (pointsSet c t cur done s).pwr = s.pwr := by
  cases done <;> rfl

theorem pointsSet_reg (c t cur : Nat) (done : Bool) (s : State) {a : Nat} (hc : a ≠ aCkpClOp c) (hs : a ≠ aCkpStat) :
    (pointsSet c t cur done s).reg a = s.reg a := by
  rw [pointsSet, State.reg_orRegIf, if_neg fun h => hs h.1, setOp_reg _ _ _ _ hc]

theorem pointsSet_range (hc : c < 16) (t cur : Nat) (done : Bool) : s.SameRange (pointsSet c t cur done s) :=
  ⟨pointsSet_ckp .., pointsSet_reg _ _ _ _ _ (by have := aCkpClOp_lt hc; omega) (by decide)⟩

theorem pointsSet_done (c t cur : Nat) (s : State) : bit ((pointsSet c t cur true s).reg aCkpStat) 8 = true := by
  rw [pointsSet, State.reg_orRegIf, if_pos ⟨rfl, rfl⟩]
  exact bit_or_right (by decide) _

theorem pointsSet_points (c t cur : Nat) (done : Bool) (s : State) :
    (setOp c t cur s).SamePoints (pointsSet c t cur done s) :=
  .of_regs (fun _ ha _ _ => (State.reg_orRegIf ..).trans (if_neg fun h => ha h.1)) (pointsSet_pwr ..)

theorem pointsSet_opTarget {t cur : Nat} (ht : t < 8) (done : Bool) {d : Nat} (hd : d < 16) :
    (pointsSet c t cur done s).opTarget d = if d = c then t else s.opTarget d :=
  ((pointsSet_points ..).target d hd).trans (setOp_opTarget ht)

theorem pointsSet_opCur {t cur : Nat} (ht : t < 8) (hcur : cur < 8) (done : Bool) {d : Nat} (hd : d < 16) :
    (pointsSet c t cur done s).opCur d = if d = c then cur else s.opCur d :=
  ((pointsSet_points ..).cur d hd).trans (setOp_opCur ht hcur)

theorem opRequest_eq (c p : Nat) (s : State) :
    opRequest c p s = vrAdvance (pointsSet c (legal 12 6 p) (s.opCur c) (decide (legal 12 6 p = s.opCur c)) s) := rfl

theorem cclkLower_of_due (hat : s.atFrameBoundary = true) (hlow : s.opTarget c < s.opCur c) :
    cclkLower c s = vrAdvance (pointsSet c (s.opTarget c) (s.opTarget c) true s) := if_pos ⟨hat, hlow⟩

theorem cclkRaise_of_due (hat : s.atFrameBoundary = true) (hup : s.opCur c < s.opTarget c) (hlo : s.opTarget c ≤ s.vlo) (hfail : s.vfail = false) :
    cclkRaise c s = pointsSet c (s.opTarget c) (s.opTarget c) true s := if_pos ⟨hat, hup, hlo, hfail⟩

/-- The regulator after a step from machine u, which has the regulator of s, in terms of the machine t that it leaves. -/
theorem vrAdvance_commands {u : State} (h : s.SameRange u) :
    if s.ckp.vr = .idle ∧ s.vfail = false ∧ (List.range 16).all (fun i => decide ((vrAdvance u).opCur i ≤ (vrAdvance u).opTarget i)) = true then
      (if (vrAdvance u).topTarget < s.vhi then (vrAdvance u).ckp.vr = .ack false ∧ (vrAdvance u).vlo = (vrAdvance u).topTarget ∧
          (vrAdvance u).vcmd = (vrAdvance u).topTarget
      else if s.vlo < (vrAdvance u).topTarget then (vrAdvance u).ckp.vr = .ack true ∧ (vrAdvance u).vlo = s.vlo ∧
          (vrAdvance u).vcmd = (vrAdvance u).topTarget
      else (vrAdvance u).ckp = s.ckp ∧ (vrAdvance u).vlo = s.vlo ∧ (vrAdvance u).vcmd = s.vcmd)
    else (vrAdvance u).ckp = s.ckp ∧ (vrAdvance u).vlo = s.vlo ∧ (vrAdvance u).vcmd = s.vcmd := by
  have hpoints : u.SamePoints (vrAdvance u) := vrAdvance_points
  obtain ⟨hgo, hstay⟩ := vrAdvance_spec u
  have hfree : u.vrFree ↔ s.ckp.vr = .idle ∧ s.vfail = false ∧
      (List.range 16).all (fun i => decide ((vrAdvance u).opCur i ≤ (vrAdvance u).opTarget i)) = true := by
    rw [State.vrFree, h.ckp, h.vfail, List.all_eq_true]
    refine and_congr_right fun _ => and_congr_right fun _ => ⟨fun hc i hi => ?_, fun hc i hi => ?_⟩
    · have hi := List.mem_range.mp hi
      rw [hpoints.cur i hi, hpoints.target i hi]
      exact decide_eq_true (hc i hi)
    · rw [← hpoints.cur i hi, ← hpoints.target i hi]
      exact of_decide_eq_true (hc i (List.mem_range.mpr hi))
  have hkept : vrAdvance u = u → (vrAdvance u).ckp = s.ckp ∧ (vrAdvance u).vlo = s.vlo ∧ (vrAdvance u).vcmd = s.vcmd := fun hu => by
    rw [hu]
    exact ⟨h.ckp, h.vlo, h.vcmd⟩
  rw [hpoints.top, ← h.vhi]
  split_ifs with hidle hdown hup
  · have hspec := hgo (hfree.mpr hidle)
    rwa [if_pos hdown] at hspec
  · have hspec := hgo (hfree.mpr hidle)
    rw [if_neg hdown, h.vlo, if_pos hup] at hspec
    exact hspec
  · have hspec := hgo (hfree.mpr hidle)
    rw [if_neg hdown, h.vlo, if_neg hup] at hspec
    exact hkept hspec
  · exact hkept (hstay fun hf => hidle (hfree.mp hf))

theorem opRequest_points (hc : c < 16) (p : Nat) :
    (opRequest c p s).opTarget c = legal 12 6 p ∧ (opRequest c p s).opCur c = s.opCur c := by
  have hp : legal 12 6 p < 8 := Nat.lt_trans (legal_lt (by decide) 12 p) (by decide)
  rw [opRequest_eq, vrAdvance_points.target c hc, vrAdvance_points.cur c hc, pointsSet_opTarget hp _ hc, pointsSet_opCur hp (s.opCur_lt c) _ hc,
    if_pos rfl, if_pos rfl]
  exact ⟨rfl, rfl⟩

theorem opRequest_done {p : Nat} (hp : p = s.opCur c) (hlegal : p ≤ 5) : bit ((opRequest c p s).reg aCkpStat) 8 = true := by
  rw [opRequest_eq, vrAdvance_reg (by decide), legal_of_lt (by omega), decide_eq_true hp]
  exact pointsSet_done ..

theorem cclkLower_spec (hc : c < 16) (hat : s.atFrameBoundary = true) (hlow : s.opTarget c < s.opCur c) :
    (cclkLower c s).opCur c = s.opTarget c ∧ (cclkLower c s).opTarget c = s.opTarget c ∧ bit ((cclkLower c s).reg aCkpStat) 8 = true := by
  rw [cclkLower_of_due hat hlow, vrAdvance_points.target c hc, vrAdvance_points.cur c hc, vrAdvance_reg (by decide),
    pointsSet_opTarget (s.opTarget_lt c) _ hc, pointsSet_opCur (s.opTarget_lt c) (s.opTarget_lt c) _ hc]
  exact ⟨if_pos rfl, if_pos rfl, pointsSet_done ..⟩

theorem cclkRaise_spec (hc : c < 16) (hat : s.atFrameBoundary = true) (hup : s.opCur c < s.opTarget c) (hlo : s.opTarget c ≤ s.vlo)
    (hfail : s.vfail = false) :
    (cclkRaise c s).opCur c = s.opTarget c ∧ (cclkRaise c s).opTarget c = s.opTarget c ∧ bit ((cclkRaise c s).reg aCkpStat) 8 = true ∧
      (cclkRaise c s).vlo = s.vlo := by
  rw [cclkRaise_of_due hat hup hlo hfail, pointsSet_opTarget (s.opTarget_lt c) _ hc,
    pointsSet_opCur (s.opTarget_lt c) (s.opTarget_lt c) _ hc]
  exact ⟨if_pos rfl, if_pos rfl, pointsSet_done .., (pointsSet_range hc _ _ _).vlo⟩

end

/-! ## The regulator (R643, R645 to R647) -/

section
variable {s : State} {up : Bool}

theorem voutCommandAck_of_ack (h : s.ckp.vr = .ack up) :
    voutCommandAck s = setVr (.poll up) (if up then setRange s.vlo s.vcmd s else s) := by
  simp only [voutCommandAck, h]

theorem voutCommandAck_spec (h : s.ckp.vr = .ack up) :
    (voutCommandAck s).ckp.vr = .poll up ∧ (voutCommandAck s).vlo = s.vlo ∧ (up = true → (voutCommandAck s).vhi = s.vcmd) := by
  obtain ⟨hlo, -, -, hhi⟩ := setVr_fields (.poll up) (if up then setRange s.vlo s.vcmd s else s)
  obtain ⟨hlo', -, -, hhi'⟩ := setRange_fields s.vlo_lt s.vcmd_lt s
  rw [voutCommandAck_of_ack h]
  refine ⟨rfl, hlo.trans ?_, fun hup => (hhi (by simp)).trans ?_⟩
  · split
    · exact hlo'
    · rfl
  · rw [if_pos hup]
    exact hhi'

theorem voutCommandAck_regs {a : Nat} (ha : a ≠ aCkpVrStat) : (voutCommandAck s).reg a = s.reg a := by
  unfold voutCommandAck
  split
  · rw [setVr_reg, if_neg ha]
    split
    · rw [setRange_reg, if_neg ha]
    · rfl
  · rfl

/-- The reading as CKP_VR_VOUT shows it. -/
def voutShown (mv : Nat) (s : State) : State := s.setReg aCkpVrVout (BitVec.ofNat 32 (mv % 65536))

theorem voutShown_reg (mv : BitVec 16) (s : State) : (voutShown mv.toNat s).reg aCkpVrVout = mv.zeroExtend 32 := by
  rw [voutShown, State.reg_setReg, if_pos rfl, Nat.mod_eq_of_lt mv.isLt, BitVec.ofNat_toNat]

theorem voutShown_range (mv : Nat) (s : State) : s.SameRange (voutShown mv s) :=
  ⟨rfl, (State.reg_setReg ..).trans (if_neg (by decide))⟩

theorem readVout_near (h : s.ckp.vr = .poll up) {mv : Nat} (hlo : mv ≤ opMv s.vcmd + 10) (hhi : opMv s.vcmd ≤ mv + 10) :
    readVout mv s = if up then setVr .settle (voutShown mv s)
      else vrAdvance (setVr .idle (setRange s.vlo s.vcmd (voutShown mv s))) := by
  simp only [readVout, h]
  exact if_pos ⟨hlo, hhi⟩

theorem readVout_far (h : s.ckp.vr = .poll up) {mv : Nat} (hfar : opMv s.vcmd + 10 < mv ∨ mv + 10 < opMv s.vcmd) :
    readVout mv s = { voutShown mv s with ckp := { s.ckp with fails := 0 } } := by
  have hnot : ¬ (mv ≤ opMv s.vcmd + 10 ∧ opMv s.vcmd ≤ mv + 10) := by omega
  unfold readVout
  split
  · exact if_neg hnot
  · next heq => cases h.symm.trans heq
  · next heq => cases h.symm.trans heq
  · next hno _ _ => exact absurd h (hno up)

theorem readVout_near_spec (h : s.ckp.vr = .poll up) {mv : BitVec 16} (hlo : mv.toNat ≤ opMv s.vcmd + 10) (hhi : opMv s.vcmd ≤ mv.toNat + 10) :
    (readVout mv.toNat s).reg aCkpVrVout = mv.zeroExtend 32 ∧
      (up = true → (readVout mv.toNat s).ckp.vr = .settle ∧ (readVout mv.toNat s).vlo = s.vlo ∧ (readVout mv.toNat s).vhi = s.vhi) := by
  rw [readVout_near h hlo hhi]
  refine ⟨?_, fun hup => ?_⟩
  · split
    · rw [setVr_reg, if_neg (by decide), voutShown_reg]
    · rw [vrAdvance_reg (by decide), setVr_reg, if_neg (by decide), setRange_reg, if_neg (by decide), voutShown_reg]
  · rw [if_pos hup]
    obtain ⟨hlo', -, -, hhi'⟩ := setVr_fields .settle (voutShown mv.toNat s)
    have hrange := voutShown_range mv.toNat s
    refine ⟨rfl, hlo'.trans hrange.vlo, (hhi' (by simp)).trans ?_⟩
    rw [hrange.reg, State.vhi, h, if_neg (by simp)]

theorem readVout_far_spec (h : s.ckp.vr = .poll up) {mv : BitVec 16} (hfar : opMv s.vcmd + 10 < mv.toNat ∨ mv.toNat + 10 < opMv s.vcmd) :
    (readVout mv.toNat s).reg aCkpVrVout = mv.zeroExtend 32 ∧ (readVout mv.toNat s).ckp.vr = .poll up ∧ (readVout mv.toNat s).vlo = s.vlo := by
  rw [readVout_far h hfar]
  exact ⟨voutShown_reg mv s, h, (voutShown_range mv.toNat s).vlo⟩

end

/-! ## Failure (R646) -/

/-- A cluster's raise is cancelled. -/
def raiseCancelled (c : Nat) (s : State) : State := if s.opCur c < s.opTarget c then setOp c (s.opCur c) (s.opCur c) s else s

theorem raiseCancelled_reg (c : Nat) (s : State) {a : Nat} (ha : a ≠ aCkpClOp c) : (raiseCancelled c s).reg a = s.reg a := by
  unfold raiseCancelled
  split
  · exact setOp_reg _ _ _ _ ha
  · rfl

theorem raiseCancelled_points (c : Nat) (s : State) : (∀ d, (raiseCancelled c s).opCur d = s.opCur d) ∧
    ∀ d, (raiseCancelled c s).opTarget d = if d = c ∧ s.opCur d < s.opTarget d then s.opCur d else s.opTarget d := by
  have hcur := s.opCur_lt c
  unfold raiseCancelled
  split
  case isTrue hup =>
    refine ⟨fun d => (setOp_opCur hcur hcur).trans ?_, fun d => (setOp_opTarget hcur).trans ?_⟩
    · split
      · next hd => rw [hd]
      · rfl
    · by_cases hd : d = c
      · rw [if_pos hd, hd, if_pos ⟨rfl, hup⟩]
      · rw [if_neg hd, if_neg fun h => hd h.1]
  case isFalse hup =>
    refine ⟨fun _ => rfl, fun d => (if_neg ?_).symm⟩
    rintro ⟨rfl, h⟩
    exact hup h

theorem raiseCancelled_ckp (c : Nat) (s : State) : (raiseCancelled c s).ckp = s.ckp := by
  unfold raiseCancelled
  split
  · rfl
  · rfl

/-- Every raise of the listed clusters is cancelled. -/
def raisesCancelled (l : List Nat) (s : State) : State := foldS raiseCancelled l s

theorem raisesCancelled_range {l : List Nat} (hl : ∀ c ∈ l, c < 16) : ∀ s : State, s.SameRange (raisesCancelled l s) := by
  induction l with
  | nil => exact fun _ => ⟨rfl, rfl⟩
  | cons c l ih =>
    obtain ⟨hc, hl⟩ := List.forall_mem_cons.mp hl
    intro s
    obtain ⟨hckp, hreg⟩ := ih hl (raiseCancelled c s)
    exact ⟨hckp.trans (raiseCancelled_ckp c s), hreg.trans (raiseCancelled_reg c s (by have := aCkpClOp_lt hc; omega))⟩

theorem raisesCancelled_target (l : List Nat) : ∀ (s : State) (d : Nat),
    (raisesCancelled l s).opTarget d = if d ∈ l ∧ s.opCur d < s.opTarget d then s.opCur d else s.opTarget d := by
  induction l with
  | nil => exact fun s d => (if_neg fun h => by simpa using h.1).symm
  | cons c l ih =>
    intro s d
    obtain ⟨hcur, htarget⟩ := raiseCancelled_points c s
    refine (ih (raiseCancelled c s) d).trans ?_
    simp only [hcur, htarget, List.mem_cons]
    by_cases hup : s.opCur d < s.opTarget d
    · by_cases hd : d = c
      · subst hd
        simp [hup]
      · simp [hd, hup]
    · simp [hup]

theorem vrFail_eq (s : State) : vrFail s =
    ((raisesCancelled (List.range 16) (setVr .idle (setRange s.vlo (max s.vhi s.vcmd) s))).orReg aCkpVrStat 0x2000).orReg aCkpStat 0x200 := rfl

theorem setRange_pwr (lo hi : Nat) (s : State) : (setRange lo hi s).pwr = s.pwr := rfl

theorem setRange_points (lo hi : Nat) (s : State) : s.SamePoints (setRange lo hi s) :=
  .of_regs (fun a _ ha _ => (setRange_reg lo hi s a).trans (if_neg ha)) rfl

theorem setVr_points (x : VrSt) (s : State) : s.SamePoints (setVr x s) :=
  .of_regs (fun a _ ha _ => (setVr_reg x s a).trans (if_neg ha)) rfl

theorem vrFail_spec (s : State) : (vrFail s).vfail = true ∧ (vrFail s).ckp.vr = .idle ∧ bit ((vrFail s).reg aCkpStat) 9 = true := by
  have hrange := raisesCancelled_range (l := List.range 16) (fun c hc => List.mem_range.mp hc) (setVr .idle (setRange s.vlo (max s.vhi s.vcmd) s))
  rw [vrFail_eq]
  refine ⟨?_, ?_, ?_⟩
  · rw [State.vfail, State.reg_orReg, if_neg (by decide), State.reg_orReg, if_pos rfl]
    exact bit_or_right (by decide) _
  · rw [State.orReg_ckp, State.orReg_ckp, hrange.ckp]
    rfl
  · rw [State.reg_orReg, if_pos rfl]
    exact bit_or_right (by decide) _

theorem vrFail_target (s : State) {c : Nat} (hc : c < 16) :
    (vrFail s).opTarget c = if s.opCur c < s.opTarget c then s.opCur c else s.opTarget c := by
  have hpoints := (setRange_points s.vlo (max s.vhi s.vcmd) s).trans (setVr_points .idle _)
  have hreg (t : State) : ((t.orReg aCkpVrStat 0x2000).orReg aCkpStat 0x200).opTarget c = t.opTarget c := by
    rw [State.opTarget, State.reg_orReg, if_neg (aCkpClOp_ne_stat c).symm, State.reg_orReg, if_neg (by have := aCkpClOp_lt hc; omega), State.opTarget]
  rw [vrFail_eq, hreg, raisesCancelled_target, hpoints.cur c hc, hpoints.target c hc]
  simp only [List.mem_range, hc, true_and]

theorem vrReread_far {mv : Nat} {s : State} (hfar : mv + 10 < opMv s.vlo ∨ opMv s.vhi + 10 < mv) : vrReread mv s = vrFail s := by
  have hnot : ¬ (opMv s.vlo ≤ mv + 10 ∧ mv ≤ opMv s.vhi + 10) := by omega
  exact if_neg hnot

theorem readVout_reread {s : State} (h : s.ckp.vr = .boot ∨ s.ckp.vr = .retry) (mv : Nat) : readVout mv s = vrReread mv (voutShown mv s) := by
  rcases h with h | h <;> simp only [readVout, h] <;> rfl

/-- A reading outside the range after a reset or a retry is a failure (R646, R647). -/
theorem readVout_implausible {s : State} (h : s.ckp.vr = .boot ∨ s.ckp.vr = .retry) {mv : Nat}
    (hfar : mv + 10 < opMv s.vlo ∨ opMv s.vhi + 10 < mv) : readVout mv s = vrFail (voutShown mv s) := by
  have hrange := voutShown_range mv s
  rw [readVout_reread h, vrReread_far]
  rwa [hrange.vlo, hrange.vhi]

theorem bit_and_not_of {i : Nat} (hi : i < 32) {m : Word} (hm : bit m i = true) (v : Word) : bit (v &&& ~~~m) i = false := by
  rw [bit_and_not hi, hm, Bool.not_true, Bool.and_false]

/-! ## Settling, transactions that fail, and the retry -/

/-- With the voltage at the highest target, nothing is left to command. -/
theorem vrAdvance_of_settled {u : State} {v : Nat} (htop : u.topTarget = v) (hlo : u.vlo = v) (hhi : u.vhi = v) : vrAdvance u = u := by
  obtain ⟨hgo, hbusy⟩ := vrAdvance_spec u
  by_cases hfree : u.vrFree
  · have hspec := hgo hfree
    rwa [htop, hhi, hlo, if_neg (lt_irrefl _), if_neg (lt_irrefl _)] at hspec
  · exact hbusy hfree

theorem settleExpire_spec {s : State} (h : s.ckp.vr = .settle) (hhi : s.vhi = s.vcmd) (htop : s.topTarget = s.vcmd) :
    (settleExpire s).ckp.vr = .idle ∧ (settleExpire s).vlo = s.vcmd ∧ (settleExpire s).vhi = s.vhi := by
  obtain ⟨hlo, -, -, hhi'⟩ := setVr_fields .idle (setRange s.vcmd s.vhi s)
  obtain ⟨hlo', -, -, hfld⟩ := setRange_fields s.vcmd_lt s.vhi_lt s
  have hpoints := (setRange_points s.vcmd s.vhi s).trans (setVr_points .idle _)
  have hstay := vrAdvance_of_settled (hpoints.top.trans htop) (hlo.trans hlo') (((hhi' (by decide)).trans hfld).trans hhi)
  rw [settleExpire, if_pos h, hstay]
  exact ⟨rfl, hlo.trans hlo', (hhi' (by decide)).trans hfld⟩

theorem pmbusTimeout_of_busy {s : State} (hidle : s.ckp.vr ≠ .idle) (hsettle : s.ckp.vr ≠ .settle) : pmbusTimeout s =
    if 2 ≤ s.ckp.fails then vrFail s else { s with ckp := { s.ckp with fails := s.ckp.fails + 1 } } := by
  unfold pmbusTimeout
  split
  · next h => exact absurd h hidle
  · next h => exact absurd h hsettle
  · rfl

theorem vrRetry_spec {s : State} (h : s.vfail = true) : (vrRetry s).vfail = false ∧ (vrRetry s).ckp.vr = .retry := by
  obtain ⟨-, -, hfail, -⟩ := setVr_fields .retry (s.clrReg aCkpVrStat 0x2000)
  rw [vrRetry, if_pos h]
  refine ⟨hfail.trans ?_, rfl⟩
  rw [State.vfail, State.reg_clrReg, if_pos rfl]
  exact bit_and_not_of (by decide) (by decide) _

/-! ## No step lets a cluster outrun the voltage (R641, R643) -/

/-- Every cluster's point is at or below what the voltage allows. -/
def State.PointsHeld (s : State) : Prop := ∀ c < 16, s.opCur c ≤ s.vlo

theorem State.pointsHeld_iff (s : State) : s.PointsHeld ↔ (List.range 16).all (fun j => decide (s.opCur j ≤ s.vlo)) = true := by
  simp only [State.PointsHeld, List.all_eq_true, List.mem_range, decide_eq_true_eq]

section
variable {s : State} {c : Nat} (hc : c < 16) (hsafe : s.PointsHeld)
include hc hsafe

/-- New points of a cluster leave the machine safe where the new point is. -/
theorem pointsSet_safe {t cur : Nat} (ht : t < 8) (hcur : cur < 8) (hlo : cur ≤ s.vlo) (done : Bool) : (pointsSet c t cur done s).PointsHeld := by
  intro d hd
  rw [pointsSet_opCur ht hcur done hd, (pointsSet_range hc t cur done).vlo]
  split
  · exact hlo
  · exact hsafe d hd

theorem pointsSet_advance_safe {t cur : Nat} (ht : t < 8) (hcur : cur < 8) (hlo : cur ≤ s.vlo) (done : Bool) (hpwr : s.reg aCkpClPwr = 0)
    (hmode : s.pwr.mode ≠ .bivouac) : (vrAdvance (pointsSet c t cur done s)).PointsHeld := by
  have hne : aCkpClPwr ≠ aCkpClOp c := by simp only [aCkpClPwr, aCkpClOp]; omega
  refine vrAdvance_safe ?_ ?_ (pointsSet_safe hc hsafe ht hcur hlo done)
  · rw [pointsSet_reg c t cur done s hne (by decide), hpwr]
  · rwa [pointsSet_pwr]

theorem opRequest_safe (p : Nat) (hpwr : s.reg aCkpClPwr = 0) (hmode : s.pwr.mode ≠ .bivouac) : (opRequest c p s).PointsHeld := by
  have hp : legal 12 6 p < 8 := Nat.lt_trans (legal_lt (by decide) 12 p) (by decide)
  exact pointsSet_advance_safe hc hsafe hp (s.opCur_lt c) (hsafe c hc) _ hpwr hmode

theorem cclkLower_safe (hpwr : s.reg aCkpClPwr = 0) (hmode : s.pwr.mode ≠ .bivouac) : (cclkLower c s).PointsHeld := by
  have hcur := hsafe c hc
  unfold cclkLower
  split
  · next h => exact pointsSet_advance_safe hc hsafe (s.opTarget_lt c) (s.opTarget_lt c) (by omega) true hpwr hmode
  · exact hsafe

theorem cclkRaise_safe : (cclkRaise c s).PointsHeld := by
  unfold cclkRaise
  split
  · next h => exact pointsSet_safe hc hsafe (s.opTarget_lt c) (s.opTarget_lt c) h.2.2.1 true
  · exact hsafe

end

theorem voutCommandAck_safe {s : State} (hsafe : s.PointsHeld) : (voutCommandAck s).PointsHeld := by
  cases hvr : s.ckp.vr with
  | ack up =>
    have hpoints : s.SamePoints (voutCommandAck s) := by
      refine .of_regs (fun a _ ha _ => voutCommandAck_regs ha) ?_
      rw [voutCommandAck_of_ack hvr]
      refine (congrArg State.pwr (setVr_frame (.poll up) _)).trans ?_
      split
      · exact setRange_pwr s.vlo s.vcmd s
      · rfl
    intro c hc
    rw [hpoints.cur c hc, (voutCommandAck_spec hvr).2.1]
    exact hsafe c hc
  | _ => simpa only [voutCommandAck, hvr] using hsafe

/-! ## PLLs and temperature (R634, R707) -/

theorem execPllUnlock_spec (p : Fin 7) (s : State) : ∃ t, execPllUnlock p s = .next t ∧ bit (t.reg aCkpPllStat) p = true ∧
    bit (t.reg aCkpStat) 10 = true ∧ t = { s with regs := t.regs } := by
  refine ⟨_, rfl, ?_, ?_, rfl⟩
  · rw [State.reg_orReg, if_neg (by decide), State.reg_orReg, if_pos rfl]
    exact bit_or_right (by rw [bit_bitW_eq (by omega)]; simp) _
  · rw [State.reg_orReg, if_pos rfl]
    exact bit_or_right (by decide) _

theorem execPllRelock_spec (p : Fin 7) (s : State) : ∃ t, execPllRelock p s = .next t ∧ bit (t.reg aCkpPllStat) p = false ∧
    t = { s with regs := t.regs } := by
  refine ⟨_, rfl, ?_, rfl⟩
  rw [State.reg_clrReg, if_pos rfl]
  exact bit_and_not_of (by omega) (by rw [bit_bitW_eq (by omega)]; simp) _

theorem ckpTemp_ne_stat : aCkpTemp ≠ aCkpStat := by decide

theorem tempUpdate_spec (v : BitVec 12) (s : State) : (tempUpdate v s).reg aCkpTemp = v.zeroExtend 32 ∧
    bit ((tempUpdate v s).reg aCkpStat) 12 =
      (bit (s.reg aCkpStat) 12 || decide (((s.reg aCkpTempHi).truncate 12 : BitVec 12).toInt ≤ v.toInt)) := by
  refine ⟨?_, ?_⟩
  · rw [tempUpdate, State.reg_orRegIf, if_neg fun h => ckpTemp_ne_stat h.1, State.reg_setReg, if_pos rfl]
  · rw [tempUpdate, State.reg_orRegIf, State.reg_setReg, if_neg ckpTemp_ne_stat.symm]
    by_cases h : ((s.reg aCkpTempHi).truncate 12 : BitVec 12).toInt ≤ v.toInt
    · rw [if_pos ⟨rfl, decide_eq_true h⟩, decide_eq_true h, Bool.or_true]
      exact bit_or_right (by decide) _
    · rw [if_neg (fun hc => h (of_decide_eq_true hc.2)), decide_eq_false h, Bool.or_false]

/-! ## O55 -/

/-- Settles O55: vrAdvance commands the regulator as R643 gives and never below a running cluster's target, a failure cancels the raises of
the sixteen clusters one after another, and requests, lowering, raising and acknowledgement give a cluster only points that vlo allows. -/
theorem voltageAndClockRows : Obligations.VoltageAndClockRows := by
  unfold Obligations.VoltageAndClockRows
  refine ⟨fun s c p => ⟨⟨_, rfl, ?_⟩, fun hp => ⟨_, rfl, ?_, (opRequest_points c.isLt p).2, fun heq => opRequest_done heq hp, ?_⟩⟩,
    fun s c hat => ⟨fun hlow => ⟨_, rfl, cclkLower_spec c.isLt hat hlow⟩, fun hup hlo hfail => ⟨_, rfl, cclkRaise_spec c.isLt hat hup hlo hfail⟩⟩,
    fun s up h => ⟨_, rfl, voutCommandAck_spec h⟩,
    fun s mv up h => ⟨fun hlo hhi => ⟨_, rfl, readVout_near_spec h hlo hhi⟩, fun hfar => ⟨_, rfl, readVout_far_spec h hfar⟩⟩,
    fun s mv h hfar => ⟨_, rfl, ?_⟩, fun s h hhi htop => ⟨_, rfl, settleExpire_spec h hhi htop⟩,
    fun s => ⟨fun hidle hsettle hfew => congrArg Host.Outcome.next ?_, fun hidle hsettle hmany => ⟨vrFail s, congrArg Host.Outcome.next ?_, ?_⟩,
      fun h => ⟨vrFail s, ?_, vrFail_spec s⟩, fun h => ⟨_, rfl, vrRetry_spec h⟩⟩,
    fun s t c p i hi hpwr hmode hsafe ht => (State.pointsHeld_iff t).mp ?_,
    fun s p => ⟨execPllUnlock_spec p s, execPllRelock_spec p s⟩, fun s v => ⟨_, rfl, tempUpdate_spec v s⟩⟩
  · rw [(opRequest_points c.isLt p).1]
    exact Nat.le_of_lt_succ (legal_lt (by decide) 12 p)
  · rw [(opRequest_points c.isLt p).1, legal_of_lt (by omega)]
  · exact vrAdvance_commands (pointsSet_range c.isLt _ _ _)
  · rw [readVout_implausible h hfar]
    obtain ⟨hfail, -, hstat⟩ := vrFail_spec (voutShown mv.toNat s)
    exact ⟨hfail, hstat⟩
  · rw [pmbusTimeout_of_busy hidle hsettle, if_neg (by omega)]
  · rw [pmbusTimeout_of_busy hidle hsettle, if_pos hmany]
  · obtain ⟨hfail, hvr, hstat⟩ := vrFail_spec s
    refine ⟨hfail, hvr, hstat, fun c => ?_⟩
    rw [vrFail_target s c.isLt]
    split <;> omega
  · rcases h with h | h <;> exact congrArg Host.Outcome.next (by simp only [h])
  · replace hsafe := (State.pointsHeld_iff s).mpr hsafe
    simp only [List.mem_cons, List.not_mem_nil, or_false] at hi
    rcases hi with rfl | rfl | rfl | rfl <;> cases ht
    · exact opRequest_safe c.isLt hsafe p hpwr hmode
    · exact cclkLower_safe c.isLt hsafe hpwr hmode
    · exact cclkRaise_safe c.isLt hsafe
    · exact voutCommandAck_safe hsafe

end Sys2Proof.Machine
end

section
/-! The rows of the LPDDR5X controller, the boot flash and the journal (spec/14_host_network_memory.md, R581 to R585; spec/15_commands_journal.md,
R599 to R605), and the theorem that settles O53. -/

namespace Sys2Proof.Machine

/-! ## LPDDR5X and flash mode (R581 to R585) -/

theorem ddrcTemp_ne_stat : aDdrcTemp ≠ aDdrcStat := by decide

theorem execMr4Poll_spec {s : State} (h0 : bit (s.reg aDdrcMode) 8 = true) (h1 : bit (s.reg aDdrcMode) 9 = true) (r0 r1 : BitVec 5) :
    ∃ t, execMr4Poll r0 r1 s = .next t ∧ t.reg aDdrcTemp = BitVec.ofNat 32 (r0.toNat + r1.toNat * 256) ∧
      bit (t.reg aDdrcStat) 3 = (bit (s.reg aDdrcStat) 3 || decide (14 ≤ r0.toNat) || decide (14 ≤ r1.toNat)) := by
  refine ⟨_, rfl, ?_, ?_⟩
  · rw [State.reg_orRegIf, if_neg fun h => ddrcTemp_ne_stat h.1, State.reg_setReg, if_pos rfl, if_pos h0, if_pos h1]
  · rw [State.reg_orRegIf, State.reg_setReg, if_neg ddrcTemp_ne_stat.symm, if_pos h0, if_pos h1, Bool.or_assoc]
    cases hhot : decide (14 ≤ r0.toNat) || decide (14 ≤ r1.toNat) with
    | true => rw [if_pos ⟨rfl, rfl⟩, bit_or_right (by decide), Bool.or_true]
    | false => rw [if_neg fun h => absurd h.2 (by decide), Bool.or_false]

/-- The mode that a negotiation settles on. -/
def settledMode (modes cap : Nat) (sfdp : Bool) : Nat :=
  if sfdp then ((List.range 7).find? (fun k => decide (1 ≤ k) && decide (cap ≤ k) && (modes.testBit k || decide (k = 6)))).getD 6 else 6

theorem settledMode_lt (modes cap : Nat) (sfdp : Bool) : settledMode modes cap sfdp < 7 := by
  unfold settledMode
  split
  · cases hfind : (List.range 7).find? (fun k => decide (1 ≤ k) && decide (cap ≤ k) && (modes.testBit k || decide (k = 6))) with
    | none => decide
    | some k => exact List.mem_range.mp (List.mem_of_find?_eq_some hfind)
  · decide

theorem flashSettle_mode (modes : Nat) (sfdp : Bool) (s : State) : (flashSettle modes sfdp s).reg aSysFlashMode =
    BitVec.ofNat 32 (settledMode modes (fld (s.reg aSysFlashCap) 0 3) sfdp + b2n (sfdp && decide (16384 < (s.reg aSysFlashSize).toNat)) * 256 +
      b2n sfdp * 512) := (State.reg_setReg ..).trans (if_pos rfl)

theorem b2n_lt (b : Bool) : b2n b < 2 := by cases b <;> decide

theorem decide_b2n (b : Bool) : decide (b2n b = 1) = b := by cases b <;> rfl

theorem flashModeWord_fields {m : Nat} (hm : m < 7) (wide sfdp : Bool) :
    bit (BitVec.ofNat 32 (m + b2n wide * 256 + b2n sfdp * 512)) 10 = false ∧ bit (BitVec.ofNat 32 (m + b2n wide * 256 + b2n sfdp * 512)) 9 = sfdp ∧
      bit (BitVec.ofNat 32 (m + b2n wide * 256 + b2n sfdp * 512)) 8 = wide ∧
      fld (BitVec.ofNat 32 (m + b2n wide * 256 + b2n sfdp * 512)) 0 3 = m := by
  have hwide := b2n_lt wide
  have hsfdp := b2n_lt sfdp
  rw [bit_ofNat (by decide), bit_ofNat (by decide), bit_ofNat (by decide), fld_ofNat (by decide)]
  simp only [Nat.reducePow]
  exact ⟨decide_eq_false (by omega), (decide_eq_decide.mpr (by omega)).trans (decide_b2n sfdp),
    (decide_eq_decide.mpr (by omega)).trans (decide_b2n wide), by omega⟩

theorem flashSettle_spec (modes : Nat) (sfdp : Bool) (s : State) :
    bit ((flashSettle modes sfdp s).reg aSysFlashMode) 10 = false ∧ bit ((flashSettle modes sfdp s).reg aSysFlashMode) 9 = sfdp ∧
      bit ((flashSettle modes sfdp s).reg aSysFlashMode) 8 = (sfdp && decide (16384 < (s.reg aSysFlashSize).toNat)) ∧
      fld ((flashSettle modes sfdp s).reg aSysFlashMode) 0 3 = settledMode modes (fld (s.reg aSysFlashCap) 0 3) sfdp := by
  rw [flashSettle_mode]
  exact flashModeWord_fields (settledMode_lt ..) _ _

/-! ## Bytes of the flash -/

theorem smGet_program (m : SMap Byte) (a : Nat) (bs : List Byte) (k b : Nat) :
    smGet flashDefault ((bs.zipIdx k).foldl (fun m e => smSet flashDefault m (a + e.2) e.1) m) b =
      if a + k ≤ b ∧ b < a + k + bs.length then bs.getD (b - (a + k)) 0 else smGet flashDefault m b := by
  induction bs generalizing m k with
  | nil => rw [List.length_nil, if_neg (by omega)]; rfl
  | cons x bs ih =>
    rw [List.zipIdx_cons, List.foldl_cons, ih, smGet_smSet, List.length_cons]
    rcases Nat.lt_trichotomy b (a + k) with h | h | h
    · rw [if_neg (by omega), if_neg (by omega), if_neg (by omega)]
    · rw [if_neg (by omega), if_pos h, if_pos (by omega), show b - (a + k) = 0 by omega]
      rfl
    · obtain ⟨d, rfl⟩ : ∃ d, b = a + k + 1 + d := ⟨b - (a + k + 1), by omega⟩
      by_cases hd : d < bs.length
      · rw [if_pos (by omega), if_pos (by omega), show a + k + 1 + d - (a + (k + 1)) = d by omega, show a + k + 1 + d - (a + k) = d + 1 by omega]
        rfl
      · rw [if_neg (by omega), if_neg (by omega), if_neg (by omega)]

/-- Bytes programmed are read back. -/
theorem State.flashBytes_program (s : State) (a : Nat) (bs : List Byte) : (s.program a bs).flashBytes a bs.length = bs := by
  refine List.ext_getElem (by simp [State.flashBytes]) fun i hi hi' => ?_
  simp only [State.flashBytes, List.getElem_map, List.getElem_range, State.program]
  rw [smGet_program, if_pos (by omega), show a + i - (a + 0) = i by omega, List.getD_eq_getElem _ _ hi']

/-! ## The journal's contents (R600) -/

/-- Machine t has the journal of s: its flash, sectors, next append and state bits. -/
structure State.SameJournal (s t : State) : Prop where
  flash  : t.flash = s.flash
  sect   : t.reg aJrnlSect = s.reg aJrnlSect
  base   : t.reg aJrnlBase = s.reg aJrnlBase
  used   : t.reg aJrnlUsed = s.reg aJrnlUsed
  seq    : t.reg aJrnlSeq = s.reg aJrnlSeq
  active : t.jrnlActive = s.jrnlActive
  torn   : bit (t.reg aJrnlStat) 2 = bit (s.reg aJrnlStat) 2
  blank  : bit (t.reg aJrnlStat) 3 = bit (s.reg aJrnlStat) 3

section
variable {s t : State} (h : s.SameJournal t)
include h

theorem State.SameJournal.jrnlSect : t.jrnlSect = s.jrnlSect := by rw [State.jrnlSect, h.sect, State.jrnlSect]

theorem State.SameJournal.jrnlBase (i : Nat) : t.jrnlBase i = s.jrnlBase i := by
  rw [State.jrnlBase, h.base, h.jrnlSect, State.jrnlBase]

theorem State.SameJournal.flashBytes (a n : Nat) : t.flashBytes a n = s.flashBytes a n := by rw [State.flashBytes, h.flash, State.flashBytes]

theorem State.SameJournal.jrnlScan (sect n : Nat) : ∀ o acc, t.jrnlScan sect n o acc = s.jrnlScan sect n o acc := by
  induction n with
  | zero => exact fun _ _ => rfl
  | succ n ih => exact fun o acc => by simp only [State.jrnlScan, h.flashBytes, h.jrnlBase, h.jrnlSect, ih]

theorem State.SameJournal.jrnlForce : t.jrnlForce = s.jrnlForce := by
  rw [State.jrnlForce, h.blank, State.jrnlNow, h.active, h.jrnlSect, h.jrnlScan, State.jrnlForce, State.jrnlNow]

theorem State.SameJournal.mustCompact (p : Nat) : t.mustCompact p = s.mustCompact p := by
  rw [State.mustCompact, h.torn, h.blank, h.jrnlSect, h.used, State.mustCompact]

end

/-! ## The record in force of a type (R600, R605) -/

/-- What a read picks of one record after another. -/
def newestOf (ty : Nat) (b : Option JRec) (r : JRec) : Option JRec :=
  if r.ty ≠ ty then b else match b with
    | none => some r
    | some q => if r.newer q then some r else some q

theorem newestOf_other {ty : Nat} {r : JRec} (h : r.ty ≠ ty) (b : Option JRec) : newestOf ty b r = b := if_pos h

theorem foldl_newestOf_other {ty : Nat} {l : List JRec} (h : ∀ r ∈ l, r.ty ≠ ty) (b : Option JRec) : l.foldl (newestOf ty) b = b := by
  induction l with
  | nil => rfl
  | cons r l ih =>
    obtain ⟨hr, hl⟩ := List.forall_mem_cons.mp h
    rw [List.foldl_cons, newestOf_other hr, ih hl]

/-- Where at most one record has the type, the newest is the first. -/
theorem foldl_newestOf {ty : Nat} {l : List JRec} (h : l.Pairwise fun a b => a.ty = ty → b.ty ≠ ty) :
    l.foldl (newestOf ty) none = l.find? (fun r => decide (r.ty = ty)) := by
  induction l with
  | nil => rfl
  | cons r l ih =>
    obtain ⟨hr, hl⟩ := List.pairwise_cons.mp h
    rw [List.foldl_cons]
    by_cases hty : r.ty = ty
    · rw [List.find?_cons_of_pos (by simpa using hty), newestOf, if_neg (not_not.mpr hty)]
      exact foldl_newestOf_other (fun b hb => hr b hb hty) _
    · rw [List.find?_cons_of_neg (by simpa using hty), newestOf_other hty, ih hl]

theorem inForceKind_kind {rs : List JRec} {k : Nat} {r : JRec} (h : inForceKind rs k = some r) : r.kind = k := by
  have hstep (l : List JRec) : ∀ b : Option JRec, (∀ q ∈ b, q.kind = k) → ∀ q ∈ l.foldl (fun b r => if r.kind ≠ k then b else match b with
      | none => some r
      | some q => if r.newer q then some r else some q) b, q.kind = k := by
    induction l with
    | nil => exact fun _ hb => hb
    | cons r l ih =>
      refine fun b hb => ih _ fun q hq => ?_
      dsimp only at hq
      split at hq
      · exact hb q hq
      · next hr =>
        have hr := not_not.mp hr
        cases b with
        | none => cases hq; exact hr
        | some p =>
          dsimp only at hq
          split at hq
          · cases hq; exact hr
          · cases hq; exact hb q rfl
  exact hstep rs none (by simp) r h

/-- The kinds of records, in ascending type order. -/
def jrnlKinds : List Nat := (List.range 4).map (fun i => 256 + i) ++ (List.range 254).map (fun i => i + 2)

theorem jrnlKinds_nodup : jrnlKinds.Nodup := by
  refine List.nodup_append.mpr ⟨List.nodup_range.map fun _ _ h => by omega, List.nodup_range.map fun _ _ h => by omega, ?_⟩
  intro a ha b hb
  obtain ⟨i, hi, rfl⟩ := List.mem_map.mp ha
  obtain ⟨j, hj, rfl⟩ := List.mem_map.mp hb
  have := List.mem_range.mp hj
  omega

/-- Of a type from 2 up at most one record is in force. -/
theorem State.jrnlForce_pairwise (s : State) {ty : Nat} (hty : 2 ≤ ty) : s.jrnlForce.Pairwise fun a b => a.ty = ty → b.ty ≠ ty := by
  have hkind {r : JRec} (hr : r.ty = ty) : r.kind = ty := by rw [JRec.kind, if_neg (by omega), hr]
  unfold State.jrnlForce
  split
  · exact List.Pairwise.nil
  · refine List.pairwise_filterMap.mpr (List.Pairwise.imp (fun hne a ha b hb hta htb => hne ?_) jrnlKinds_nodup)
    rw [← inForceKind_kind ha, ← inForceKind_kind hb, hkind hta, hkind htb]

/-- JRNL_RBUF takes the bytes of a record. -/
def rbufFilled (bs : List Byte) (s : State) : State :=
  foldS (fun i s => s.setReg (aJrnlRbuf i) (BitVec.ofNat 32 (leNat ((bs.drop (4 * i)).take 4)))) (List.range ((bs.length + 3) / 4)) s

theorem rbufFilled_frame (bs : List Byte) (s : State) : (rbufFilled bs s).flash = s.flash ∧ (rbufFilled bs s).qfa = s.qfa := by
  unfold rbufFilled
  refine foldS_induction (P := fun t => t.flash = s.flash ∧ t.qfa = s.qfa) ?_ _ s ⟨rfl, rfl⟩
  exact fun _ _ h => h

/-- The registers of a read take record r. -/
def rbufShown (r : JRec) (s : State) : State :=
  ((rbufFilled r.payload s).setReg aJrnlRdStat (BitVec.ofNat 32 (1 + r.payload.length * 2 ^ 16))).setReg aJrnlRdSeq (BitVec.ofNat 32 r.seq)

theorem jrnlReadOut_of_found {ty : Nat} (hty : 2 ≤ ty) {s : State} {r : JRec} (h : s.jrnlForce.find? (fun r => decide (r.ty = ty)) = some r) :
    jrnlReadOut ty s = (rbufShown r s).orReg aJrnlStat 0x2000 := by
  have hfound : s.jrnlForce.foldl (newestOf ty) none = some r := (foldl_newestOf (s.jrnlForce_pairwise hty)).trans h
  change (match s.jrnlForce.foldl (newestOf ty) none with
    | none => (s.setReg aJrnlRdStat 0).setReg aJrnlRdSeq 0
    | some r => rbufShown r s).orReg aJrnlStat 0x2000 = _
  rw [hfound]

theorem jrnlReadOut_spec {ty : Nat} (hty : 2 ≤ ty) {s : State} {r : JRec} (h : s.jrnlForce.find? (fun r => decide (r.ty = ty)) = some r) :
    (jrnlReadOut ty s).flash = s.flash ∧ (jrnlReadOut ty s).reg aJrnlRdStat = BitVec.ofNat 32 (1 + r.payload.length * 2 ^ 16) ∧
      (jrnlReadOut ty s).reg aJrnlRdSeq = BitVec.ofNat 32 r.seq ∧ bit ((jrnlReadOut ty s).reg aJrnlStat) 13 = true := by
  rw [jrnlReadOut_of_found hty h]
  refine ⟨(rbufFilled_frame r.payload s).1, ?_, ?_, ?_⟩
  · rw [State.reg_orReg, if_neg (by decide), rbufShown, State.reg_setReg, if_neg (by decide), State.reg_setReg, if_pos rfl]
  · rw [State.reg_orReg, if_neg (by decide), rbufShown, State.reg_setReg, if_pos rfl]
  · rw [State.reg_orReg, if_pos rfl]
    exact bit_or_right (by decide) _

/-! ## Requests (R602, R605) -/

theorem jrnlStart_spec (o : JOp) (s : State) : (jrnlStart o s).jrnl = s.jrnl ++ [o] ∧ bit ((jrnlStart o s).reg aJrnlStat) 0 = true ∧
    (jrnlStart o s).flash = s.flash := by
  refine ⟨rfl, ?_, rfl⟩
  rw [jrnlStart, State.reg_orReg, if_pos rfl]
  exact bit_or_right (by decide) _

/-- Is a write of JRNL_WR refused with err: the journal busy, or type or length outside its range? -/
def jrnlWrBad (v : Word) (s : State) : Prop := bit (s.reg aJrnlStat) 0 = true ∨ fld v 0 8 < 0x80 ∨ 0xFE < fld v 0 8 ∨ 1024 < fld v 16 11

theorem jrnlWr_of_bad {v : Word} {s : State} (h : jrnlWrBad v s) : jrnlWr v s = s.orReg aJrnlStat 0x400 := by
  unfold jrnlWr
  split
  · rfl
  · next hidle => exact if_pos (h.resolve_left hidle)

theorem jrnlWr_of_good {v : Word} {s : State} (h : ¬ jrnlWrBad v s) :
    jrnlWr v s = if s.jrnlFull (fld v 16 11) then s.orReg aJrnlStat 0x800 else jrnlStart (.record (fld v 0 8) (s.wbuf (fld v 16 11))) s := by
  obtain ⟨hidle, hrange⟩ := not_or.mp h
  rw [jrnlWr, if_neg hidle]
  exact if_neg hrange

/-! ## The end of an operation (R599) -/

/-- The journal takes up the operations left. -/
def jrnlLeft (os : List JOp) (s : State) : State :=
  if os.isEmpty then { s with jrnl := os }.clrReg aJrnlStat 1 else { s with jrnl := os }

theorem jrnlLeft_reg (os : List JOp) (s : State) {a : Nat} (ha : a ≠ aJrnlStat) : (jrnlLeft os s).reg a = s.reg a := by
  unfold jrnlLeft
  split
  · exact (State.reg_clrReg ..).trans (if_neg ha)
  · rfl

theorem jrnlLeft_stat (os : List JOp) (s : State) {i : Nat} (hi : 1 ≤ i) (hi' : i < 32) :
    bit ((jrnlLeft os s).reg aJrnlStat) i = bit (s.reg aJrnlStat) i := by
  unfold jrnlLeft
  split
  · rw [State.reg_clrReg, if_pos rfl, bit_and_not hi']
    have hone : bit (1 : Word) i = false := (bit_bitW_eq (i := 0) (by decide) i).trans (decide_eq_false (by omega))
    rw [hone, Bool.not_false, Bool.and_true]
    rfl
  · rfl

theorem jrnlLeft_fields (os : List JOp) (s : State) : (jrnlLeft os s).flash = s.flash ∧ (jrnlLeft os s).jrnl = os ∧ (jrnlLeft os s).qfa = s.qfa := by
  unfold jrnlLeft
  split
  · exact ⟨rfl, rfl, rfl⟩
  · exact ⟨rfl, rfl, rfl⟩

theorem jrnlLeft_same (os : List JOp) (s : State) : s.SameJournal (jrnlLeft os s) where
  flash := (jrnlLeft_fields os s).1
  sect := jrnlLeft_reg os s (by decide)
  base := jrnlLeft_reg os s (by decide)
  used := jrnlLeft_reg os s (by decide)
  seq := jrnlLeft_reg os s (by decide)
  active := fld_congr fun i h1 h2 => jrnlLeft_stat os s h1 (by omega)
  torn := jrnlLeft_stat os s (by decide) (by decide)
  blank := jrnlLeft_stat os s (by decide) (by decide)

/-- What follows the end of an operation on a record: nothing, and no loader command waits. -/
theorem journalComplete_of_head {ok : Bool} {o : JOp} {os : List JOp} {s u : State} (hmode : bit (s.reg aSysFlashMode) 10 = false)
    (hjrnl : s.jrnl = o :: os) (hafter : ∀ u, jrnlAfter ok o u = u)
    (hu : (if ok then o.done (jrnlLeft os s) else (jrnlLeft os s).orReg aJrnlStat 0x400) = u) (hres : u.qfa.res = none) :
    journalComplete ok s = u := by
  have hend : jrnlEnd ok s = (u, some o) := by
    simp only [jrnlEnd, hjrnl]
    rw [hmode, ← hu]
    rfl
  simp only [journalComplete, hend, hafter]
  exact loaderNext_of_running hres 4

/-- A flash failure leaves everything but err (R599). -/
theorem journalComplete_failed {ty : Nat} {p : List Byte} {s : State} (hmode : bit (s.reg aSysFlashMode) 10 = false) (hres : s.qfa.res = none)
    {os : List JOp} (hjrnl : s.jrnl = .record ty p :: os) :
    (journalComplete false s).flash = s.flash ∧ (journalComplete false s).jrnl = os ∧ bit ((journalComplete false s).reg aJrnlStat) 10 = true ∧
      (journalComplete false s).reg aJrnlSeq = s.reg aJrnlSeq ∧ (journalComplete false s).reg aJrnlUsed = s.reg aJrnlUsed := by
  obtain ⟨hflash, hleft, hqfa⟩ := jrnlLeft_fields os s
  rw [journalComplete_of_head hmode hjrnl (fun _ => rfl) rfl (by exact (congrArg Qfa.res hqfa).trans hres)]
  refine ⟨hflash, hleft, ?_, ?_, ?_⟩
  · exact (congrArg (bit · 10) ((State.reg_orReg ..).trans (if_pos rfl))).trans (bit_or_right (by decide) _)
  · exact ((State.reg_orReg ..).trans (if_neg (by decide))).trans (jrnlLeft_same os s).seq
  · exact ((State.reg_orReg ..).trans (if_neg (by decide))).trans (jrnlLeft_same os s).used

theorem putRecord_spec (ty : Nat) (p : List Byte) (s : State) :
    (putRecord ty p s).jrnl = s.jrnl ∧ (putRecord ty p s).qfa = s.qfa ∧ (putRecord ty p s).reg aJrnlSeq = s.reg aJrnlSeq + 1 ∧
      (putRecord ty p s).reg aJrnlUsed = s.reg aJrnlUsed + BitVec.ofNat 32 (recSize p.length) ∧
      (putRecord ty p s).flashBytes (s.jrnlBase s.jrnlActive + (s.reg aJrnlUsed).toNat)
        (({ ty := ty, seq := (s.reg aJrnlSeq).toNat, payload := p } : JRec).bytes).length =
        ({ ty := ty, seq := (s.reg aJrnlSeq).toNat, payload := p } : JRec).bytes := by
  refine ⟨rfl, rfl, ?_, ?_, State.flashBytes_program ..⟩
  · exact (State.reg_addReg ..).trans ((if_neg (by decide)).trans ((State.reg_addReg ..).trans (if_pos rfl)))
  · refine (State.reg_addReg ..).trans ((if_pos rfl).trans (congrArg (· + BitVec.ofNat 32 (recSize p.length)) ?_))
    exact (State.reg_addReg ..).trans (if_neg (by decide))

/-- An append that needs no compaction programs its record where the next append begins. -/
theorem journalComplete_appended {ty : Nat} {p : List Byte} {s : State} (hmode : bit (s.reg aSysFlashMode) 10 = false) (hres : s.qfa.res = none)
    {os : List JOp} (hjrnl : s.jrnl = .record ty p :: os) (hfits : s.mustCompact p.length = false) :
    (journalComplete true s).jrnl = os ∧ bit ((journalComplete true s).reg aJrnlStat) 8 = true ∧
      (journalComplete true s).reg aJrnlSeq = s.reg aJrnlSeq + 1 ∧
      (journalComplete true s).reg aJrnlUsed = s.reg aJrnlUsed + BitVec.ofNat 32 (recSize p.length) ∧
      (journalComplete true s).flashBytes (s.jrnlBase s.jrnlActive + (s.reg aJrnlUsed).toNat)
        (({ ty := ty, seq := (s.reg aJrnlSeq).toNat, payload := p } : JRec).bytes).length =
        ({ ty := ty, seq := (s.reg aJrnlSeq).toNat, payload := p } : JRec).bytes := by
  obtain ⟨-, hleft, hqfa⟩ := jrnlLeft_fields os s
  have hsame := jrnlLeft_same os s
  obtain ⟨hjrnl', hqfa', hseq, hused, hbytes⟩ := putRecord_spec ty p (jrnlLeft os s)
  have hdone : JOp.done (.record ty p) (jrnlLeft os s) = (putRecord ty p (jrnlLeft os s)).orReg aJrnlStat 0x100 := by
    rw [JOp.done, jrnlAppend, hsame.mustCompact, hfits]
    rfl
  rw [hsame.seq, hsame.used] at *
  rw [hsame.jrnlBase, hsame.active] at hbytes
  rw [journalComplete_of_head hmode hjrnl (fun _ => rfl) ((if_pos rfl).trans hdone) ((congrArg Qfa.res (hqfa'.trans hqfa)).trans hres)]
  refine ⟨hjrnl'.trans hleft, ?_, ?_, ?_, hbytes⟩
  · exact (congrArg (bit · 8) ((State.reg_orReg ..).trans (if_pos rfl))).trans (bit_or_right (by decide) _)
  · exact ((State.reg_orReg ..).trans (if_neg (by decide))).trans hseq
  · exact ((State.reg_orReg ..).trans (if_neg (by decide))).trans hused

/-- A read shows the record in force. -/
theorem journalComplete_read {ty : Nat} {s : State} (hmode : bit (s.reg aSysFlashMode) 10 = false) (hres : s.qfa.res = none)
    {os : List JOp} (hjrnl : s.jrnl = .read ty :: os) (hty : 2 ≤ ty) {r : JRec} (hr : s.jrnlForce.find? (fun r => decide (r.ty = ty)) = some r) :
    (journalComplete true s).flash = s.flash ∧ (journalComplete true s).reg aJrnlRdStat = BitVec.ofNat 32 (1 + r.payload.length * 2 ^ 16) ∧
      (journalComplete true s).reg aJrnlRdSeq = BitVec.ofNat 32 r.seq ∧ bit ((journalComplete true s).reg aJrnlStat) 13 = true := by
  obtain ⟨hflash, -, hqfa⟩ := jrnlLeft_fields os s
  have hsame := jrnlLeft_same os s
  have hspec := jrnlReadOut_spec hty (s := jrnlLeft os s) (by rwa [hsame.jrnlForce])
  have hres' : (jrnlReadOut ty (jrnlLeft os s)).qfa.res = none := by
    rw [jrnlReadOut_of_found hty (s := jrnlLeft os s) (by rwa [hsame.jrnlForce])]
    exact (congrArg Qfa.res (rbufFilled_frame r.payload _).2).trans ((congrArg Qfa.res hqfa).trans hres)
  rw [hflash] at hspec
  rwa [journalComplete_of_head hmode hjrnl (fun _ => rfl) (u := jrnlReadOut ty (jrnlLeft os s)) rfl hres']

/-! ## O53 -/

/-- Settles O53: a record programmed is read back byte by byte, and of a type from 2 up at most one record is in force, so the one that a read
picks is the first of its type. -/
theorem flashAndJournalRows : Obligations.FlashAndJournalRows := by
  unfold Obligations.FlashAndJournalRows
  refine ⟨fun s r0 r1 h0 h1 => execMr4Poll_spec h0 h1 r0 r1, fun s => ⟨rfl, rfl⟩, fun s v hv => congrArg Host.Outcome.next (if_pos hv),
    fun s modes sfdp hbusy => ⟨flashSettle modes.toNat sfdp s, congrArg Host.Outcome.next (if_pos hbusy), flashSettle_spec ..⟩,
    fun s ini v => ?append, fun s ini v hini => ⟨jrnlRd v s, congrArg Host.Outcome.next (if_pos hini), rfl, rfl⟩, fun s ok hmode hres o ho => ?complete⟩
  case append =>
    split
    case isFalse hini => exact congrArg Host.Outcome.next (if_neg hini)
    case isTrue hini =>
      have hexec {t : State} (ht : jrnlWr v s = t) : exec (.journalAppend ini v) s = .next t :=
        congrArg Host.Outcome.next ((if_pos hini).trans ht)
      split
      case isTrue hbad => exact hexec (jrnlWr_of_bad hbad)
      case isFalse hgood =>
        split
        case isTrue hfull => exact hexec ((jrnlWr_of_good hgood).trans (if_pos hfull))
        case isFalse hfits => exact ⟨_, hexec ((jrnlWr_of_good hgood).trans (if_neg hfits)), jrnlStart_spec ..⟩
  case complete =>
    obtain ⟨os, hjrnl⟩ : ∃ os, s.jrnl = o :: os := List.head?_eq_some_iff.mp ho
    rw [hjrnl, List.tail_cons]
    cases o with
    | record ty p =>
      refine ⟨fun hok => ?_, fun hok hfits => ?_⟩
      · subst hok
        exact ⟨_, rfl, journalComplete_failed hmode hres hjrnl⟩
      · subst hok
        exact ⟨_, rfl, journalComplete_appended hmode hres hjrnl hfits⟩
    | read ty =>
      intro hok hty r hr
      subst hok
      exact ⟨_, rfl, journalComplete_read hmode hres hjrnl hty hr⟩
    | _ => trivial

end Sys2Proof.Machine
end

section
/-! Ethernet ports and their gPTP engine (spec/14_host_network_memory.md, R566, R569): what the engine's steps leave of the machine, links,
and the engine's own rows. -/

namespace Sys2Proof.Machine

/-! ## Ports -/

section
variable {s t : State} {p q : Nat}

theorem State.ethPort_onEth (s : State) (p : Nat) (f : EthPort → EthPort) (q : Nat) :
    (s.onEth p f).ethPort q = if q = p then f (s.ethPort p) else s.ethPort q := smGet_smSet ..

theorem State.ethPort_onEth_same (s : State) (p : Nat) (f : EthPort → EthPort) : (s.onEth p f).ethPort p = f (s.ethPort p) :=
  (s.ethPort_onEth p f p).trans (if_pos rfl)

theorem State.ethPort_of_eth (h : t.eth = s.eth) (p : Nat) : t.ethPort p = s.ethPort p := by rw [State.ethPort, h, State.ethPort]

theorem ethFlag_reg (p : Nat) (m : Word) (s : State) {a : Nat} (ha : a ≠ aEthStat p) : (ethFlag p m s).reg a = s.reg a :=
  (State.reg_orReg ..).trans (if_neg ha)

theorem ethFlag_stat (p : Nat) (m : Word) (s : State) : (ethFlag p m s).reg (aEthStat p) = s.reg (aEthStat p) ||| m :=
  (State.reg_orReg ..).trans (if_pos rfl)

/-- Flags of ETHp_STAT are set and stay set. -/
theorem bit_ethFlag {m : Word} {i : Nat} (hm : bit m i = true) (p : Nat) (s : State) : bit ((ethFlag p m s).reg (aEthStat p)) i = true := by
  rw [ethFlag_stat]
  exact bit_or_right hm _

end

/-! ## What the engine leaves -/

/-- The registers that the gPTP engine of port p shows itself in. -/
def PtpReg (p a : Nat) : Prop := a = aEthStat p ∨ a = aEthPtpStat p ∨ a = aEthPtpGmidLo p ∨ a = aEthPtpGmidHi p

/-- What a step of port p's engine leaves: all but ports and registers, each port but its engine, the registers but the engine's, and the flags
that are set. -/
structure State.PtpLeaves (p : Nat) (s t : State) : Prop where
  frame : ∃ regs ports, t = { s with regs := regs, eth := { s.eth with ports := ports } }
  port  : ∀ q, ∃ g, t.ethPort q = { s.ethPort q with ptp := g }
  reg   : ∀ a, ¬ PtpReg p a → t.reg a = s.reg a
  stat  : ∀ i, bit (s.reg (aEthStat p)) i = true → bit (t.reg (aEthStat p)) i = true

section
variable {s t u : State} {p q : Nat}

theorem State.PtpLeaves.refl (p : Nat) (s : State) : s.PtpLeaves p s := ⟨⟨_, _, rfl⟩, fun _ => ⟨_, rfl⟩, fun _ _ => rfl, fun _ h => h⟩

theorem State.PtpLeaves.trans (h : s.PtpLeaves p t) (h' : t.PtpLeaves p u) : s.PtpLeaves p u where
  frame := by
    obtain ⟨_, _, rfl⟩ := h.frame
    obtain ⟨_, _, rfl⟩ := h'.frame
    exact ⟨_, _, rfl⟩
  port q := by
    obtain ⟨_, hg⟩ := h.port q
    obtain ⟨g, hg'⟩ := h'.port q
    exact ⟨g, by rw [hg', hg]⟩
  reg a ha := (h'.reg a ha).trans (h.reg a ha)
  stat i hi := h'.stat i (h.stat i hi)

theorem State.ptpLeaves_setReg {a : Nat} (ha : PtpReg p a) (hs : a ≠ aEthStat p) (v : Word) (s : State) : s.PtpLeaves p (s.setReg a v) where
  frame := ⟨_, _, rfl⟩
  port q := ⟨_, rfl⟩
  reg b hb := (State.reg_setReg ..).trans (if_neg fun h => hb (by rwa [h]))
  stat i hi := by rwa [State.reg_setReg, if_neg hs.symm]

theorem ethFlag_ptpLeaves (p : Nat) (m : Word) (s : State) : s.PtpLeaves p (ethFlag p m s) where
  frame := ⟨_, _, rfl⟩
  port q := ⟨_, rfl⟩
  reg a ha := ethFlag_reg p m s fun h => ha (.inl h)
  stat i hi := by
    rw [ethFlag_stat]
    exact bit_or_left hi m

theorem State.ptpLeaves_onEth {f : EthPort → EthPort} (hf : ∀ e, ∃ g, f e = { e with ptp := g }) (p : Nat) (s : State) :
    s.PtpLeaves p (s.onEth p f) where
  frame := ⟨_, _, rfl⟩
  port q := by
    rw [State.ethPort_onEth]
    split
    · next h => subst h; exact hf _
    · exact ⟨_, rfl⟩
  reg _ _ := rfl
  stat _ h := h

end

/-! ## The election (R569) -/

theorem ptpStat_ne_stat (p : Nat) : aEthPtpStat p ≠ aEthStat p := by simp only [aEthPtpStat, aEthStat]; omega

theorem ptpGmidLo_ne (p : Nat) : aEthPtpGmidLo p ≠ aEthStat p ∧ aEthPtpGmidLo p ≠ aEthPtpStat p := by
  simp only [aEthPtpGmidLo, aEthPtpStat, aEthStat]; omega

theorem ptpGmidHi_ne (p : Nat) : aEthPtpGmidHi p ≠ aEthStat p ∧ aEthPtpGmidHi p ≠ aEthPtpStat p := by
  simp only [aEthPtpGmidHi, aEthPtpStat, aEthStat]; omega

/-- ETHp_PTP_STAT with a role. -/
def ptpStatOf (p role : Nat) (s : State) : Word :=
  setFld (setFld (s.reg (aEthPtpStat p)) 1 2 role) 3 1 (if role = 1 ∨ role = 2 then 1 else 0)

/-- ETHp_PTP_STAT and the grandmaster's identity take a role and an identity. -/
def ptpRegsSet (p role : Nat) (id : List Byte) (s : State) : State :=
  ((s.setReg (aEthPtpStat p) (ptpStatOf p role s)).setReg (aEthPtpGmidLo p) (BitVec.ofNat 32 (beNat id))).setReg (aEthPtpGmidHi p)
    (BitVec.ofNat 32 (beNat id / 2 ^ 32))

/-- They are shown; a change sets ptp_chg. -/
def ptpShown (p role : Nat) (id : List Byte) (s : State) : State :=
  let s1 := ptpRegsSet p role id s
  if ptpStatOf p role s = s.reg (aEthPtpStat p) ∧ s1.reg (aEthPtpGmidLo p) = s.reg (aEthPtpGmidLo p) ∧
    s1.reg (aEthPtpGmidHi p) = s.reg (aEthPtpGmidHi p) then s1 else ethFlag p 0x200 s1

/-- A start time that waits is taken. -/
def ptpStarted (p : Nat) (s : State) : State :=
  s.onEth p (fun e => { e with ptp := { e.ptp with setDue := false, adj := (s.reg (aEthPtpSetHi p) ++ s.reg (aEthPtpSetLo p)) - e.ptp.now } })

/-- An election gives the port a role, that of grandmaster where the engine may take it, its port is asCapable and it has heard no other, and
only a grandmaster takes a start time that waits. -/
theorem ptpElect_shown (p : Nat) (s : State) : ∃ role id,
    ptpElect p s = (if role = 2 ∧ (s.ethPort p).ptp.setDue = true then ptpStarted p (ptpShown p role id s) else ptpShown p role id s) ∧
    (bit (s.reg (aEthPtpCfg p)) 0 = true → bit (s.reg (aEthPtpCfg p)) 1 = true → bit (s.reg (aEthPtpStat p)) 0 = true →
      (s.ethPort p).ptp.best = none → role = 2) := by
  refine ⟨_, _, rfl, fun h0 h1 hcap hbest => ?_⟩
  rw [h0, h1, hcap, hbest]
  rfl

section
variable {s : State} {p : Nat}

theorem ptpShown_leaves (p role : Nat) (id : List Byte) (s : State) : s.PtpLeaves p (ptpShown p role id s) := by
  have hset : s.PtpLeaves p (ptpRegsSet p role id s) :=
    ((State.ptpLeaves_setReg (.inr (.inl rfl)) (ptpStat_ne_stat p) _ _).trans
      (State.ptpLeaves_setReg (.inr (.inr (.inl rfl))) (ptpGmidLo_ne p).1 _ _)).trans
      (State.ptpLeaves_setReg (.inr (.inr (.inr rfl))) (ptpGmidHi_ne p).1 _ _)
  dsimp only [ptpShown]
  split
  · exact hset
  · exact hset.trans (ethFlag_ptpLeaves ..)

theorem ptpElect_leaves (p : Nat) (s : State) : s.PtpLeaves p (ptpElect p s) := by
  obtain ⟨role, id, heq, -⟩ := ptpElect_shown p s
  rw [heq]
  split
  · exact (ptpShown_leaves ..).trans (State.ptpLeaves_onEth (fun _ => ⟨_, rfl⟩) _ _)
  · exact ptpShown_leaves ..

theorem ptpExpire_leaves (p : Nat) (s : State) : s.PtpLeaves p (ptpExpire p s) := by
  unfold ptpExpire
  dsimp only
  split
  · exact (State.ptpLeaves_onEth (fun _ => ⟨_, rfl⟩) _ _).trans (ptpElect_leaves ..)
  · exact .refl p s

theorem ptpNow_leaves (p : Nat) (now : BitVec 64) (s : State) : s.PtpLeaves p (ptpNow p now s) :=
  (State.ptpLeaves_onEth (fun _ => ⟨_, rfl⟩) _ _).trans (ptpExpire_leaves ..)

theorem setCapable_leaves (p : Nat) (v : Bool) (s : State) : s.PtpLeaves p (setCapable p v s) := by
  unfold setCapable
  split
  · exact .refl p s
  · exact ((State.ptpLeaves_setReg (.inr (.inl rfl)) (ptpStat_ne_stat p) _ _).trans (ethFlag_ptpLeaves ..)).trans (ptpElect_leaves ..)

theorem ptpForget_leaves (p : Nat) (s : State) : s.PtpLeaves p (ptpForget p s) :=
  (State.ptpLeaves_onEth (fun _ => ⟨_, rfl⟩) _ _).trans (setCapable_leaves ..)

/-! ### A grandmaster -/

/-- May port p take the role of grandmaster: its engine runs, may be grandmaster, is asCapable and has heard no other? -/
structure State.MayLead (s : State) (p : Nat) : Prop where
  runs    : bit (s.reg (aEthPtpCfg p)) 0 = true
  allowed : bit (s.reg (aEthPtpCfg p)) 1 = true
  capable : bit (s.reg (aEthPtpStat p)) 0 = true
  alone   : (s.ethPort p).ptp.best = none

theorem ptpShown_role (p : Nat) {role : Nat} (hrole : role < 4) (id : List Byte) (s : State) : (ptpShown p role id s).ptpRole p = role := by
  have hset : (ptpRegsSet p role id s).reg (aEthPtpStat p) = ptpStatOf p role s := by
    rw [ptpRegsSet, State.reg_setReg, if_neg (ptpGmidHi_ne p).2.symm, State.reg_setReg, if_neg (ptpGmidLo_ne p).2.symm, State.reg_setReg, if_pos rfl]
  have hshown : (ptpShown p role id s).reg (aEthPtpStat p) = ptpStatOf p role s := by
    dsimp only [ptpShown]
    split
    · exact hset
    · rw [ethFlag_reg _ _ _ (ptpStat_ne_stat p), hset]
  rw [State.ptpRole, hshown, ptpStatOf, fld_setFld_of_disjoint _ (by decide) (by decide), fld_setFld_same _ (by decide) hrole]

theorem ptpElect_of_mayLead (h : s.MayLead p) : ∃ id, ptpElect p s =
    (if (s.ethPort p).ptp.setDue = true then ptpStarted p (ptpShown p 2 id s) else ptpShown p 2 id s) := by
  obtain ⟨role, id, heq, hrole⟩ := ptpElect_shown p s
  have hrole := hrole h.runs h.allowed h.capable h.alone
  subst hrole
  exact ⟨id, by simpa only [true_and] using heq⟩

theorem ptpElect_role (h : s.MayLead p) : (ptpElect p s).ptpRole p = 2 := by
  obtain ⟨id, heq⟩ := ptpElect_of_mayLead h
  rw [heq]
  split
  · exact ptpShown_role p (by decide) id s
  · exact ptpShown_role p (by decide) id s

/-- An engine that has heard no other grandmaster only takes the time. -/
theorem ptpNow_of_alone (h : (s.ethPort p).ptp.best = none) (now : BitVec 64) :
    ptpNow p now s = s.onEth p (fun e => { e with ptp := { e.ptp with now := now } }) := by
  rw [ptpNow, ptpExpire, State.ethPort_onEth_same, h]
  rfl

theorem State.MayLead.ptpNow (h : s.MayLead p) (now : BitVec 64) : (ptpNow p now s).MayLead p := by
  rw [ptpNow_of_alone h.alone]
  exact ⟨h.runs, h.allowed, h.capable, by rw [State.ethPort_onEth_same]; exact h.alone⟩

theorem ptpStarted_time (p : Nat) (s : State) : (ptpStarted p s).ptpTime p = s.reg (aEthPtpSetHi p) ++ s.reg (aEthPtpSetLo p) := by
  rw [State.ptpTime, ptpStarted, State.ethPort_onEth_same]
  exact add_sub_cancel ..

/-- A write of ETHp_PTP_SET_HI leaves a start time that waits. -/
def startDue (p : Nat) (v : Word) (s : State) : State :=
  (s.setReg (aEthPtpSetHi p) v).onEth p (fun e => { e with ptp := { e.ptp with setDue := true } })

theorem startDue_reg {a : Nat} (ha : a ≠ aEthPtpSetHi p) (v : Word) : (startDue p v s).reg a = s.reg a :=
  (State.reg_setReg ..).trans (if_neg ha)

theorem startDue_port (p : Nat) (v : Word) (s : State) :
    ((startDue p v s).ethPort p).ptp.setDue = true ∧ ((startDue p v s).ethPort p).ptp.best = (s.ethPort p).ptp.best := by
  rw [startDue, State.ethPort_onEth_same]
  exact ⟨rfl, rfl⟩

theorem State.MayLead.startDue (h : s.MayLead p) (v : Word) : (startDue p v s).MayLead p where
  runs := by rw [startDue_reg (by simp only [aEthPtpCfg, aEthPtpSetHi]; omega)]; exact h.runs
  allowed := by rw [startDue_reg (by simp only [aEthPtpCfg, aEthPtpSetHi]; omega)]; exact h.allowed
  capable := by rw [startDue_reg (by simp only [aEthPtpStat, aEthPtpSetHi]; omega)]; exact h.capable
  alone := (startDue_port p v s).2.trans h.alone

/-- A grandmaster's time starts from the value written (R569). -/
theorem ptpSet_spec (h : s.MayLead p) (v : Word) : (ptpSet p v s).ptpRole p = 2 ∧ (ptpSet p v s).ptpTime p = v ++ s.reg (aEthPtpSetLo p) := by
  refine ⟨ptpElect_role (h.startDue v), ?_⟩
  obtain ⟨id, heq⟩ := ptpElect_of_mayLead (h.startDue v)
  rw [if_pos (startDue_port p v s).1] at heq
  have hleaves := ptpShown_leaves p 2 id (startDue p v s)
  have hhi := hleaves.reg (aEthPtpSetHi p) (by simp only [PtpReg, aEthStat, aEthPtpStat, aEthPtpGmidLo, aEthPtpGmidHi, aEthPtpSetHi]; omega)
  have hlo := hleaves.reg (aEthPtpSetLo p) (by simp only [PtpReg, aEthStat, aEthPtpStat, aEthPtpGmidLo, aEthPtpGmidHi, aEthPtpSetLo]; omega)
  have hv : (startDue p v s).reg (aEthPtpSetHi p) = v := (State.reg_setReg ..).trans (if_pos rfl)
  have hset : ptpSet p v s = ptpElect p (startDue p v s) := rfl
  rw [hset, heq, ptpStarted_time, hhi, hlo, hv, startDue_reg (by simp only [aEthPtpSetLo, aEthPtpSetHi]; omega)]

end

/-! ## Links (R566) -/

section
variable {s : State} {p : Nat}

/-- The first mode in order is taken where it is permitted. -/
theorem getD_find_permitted {cap : Word} {k : Nat} {l : List Nat} (h : bit cap (k - 1) = true) :
    ((k :: l).find? (fun m => bit cap (m - 1))).getD 0 = k :=
  congrArg (Option.getD · 0) (List.find?_cons_of_pos (p := fun m => bit cap (m - 1)) h)

/-- With every mode permitted the port tries them in turn. -/
theorem ethNext_of_all {cap : Word} (h : fld cap 0 3 = 7) (k : Nat) : ethNext cap k = if k = 3 then 2 else if k = 2 then 1 else 3 := by
  have hbit {m : Nat} (hm : m < 3) : bit cap m = true := by
    have htest := testBit_fld cap 0 3 m
    rw [h, decide_eq_true hm, Bool.true_and, Nat.zero_add] at htest
    rw [← htest]
    interval_cases m <;> decide
  unfold ethNext
  split_ifs with h3 h2
  · exact getD_find_permitted (hbit (m := 1) (by decide))
  · exact getD_find_permitted (hbit (m := 0) (by decide))
  · exact getD_find_permitted (hbit (m := 2) (by decide))

/-- Where 10GBASE-R is permitted, the cycle begins with it. -/
theorem ethNext_first {cap : Word} (h : bit cap 2 = true) : ethNext cap 0 = 3 :=
  getD_find_permitted h

theorem ethMode_ne_stat (p : Nat) : aEthMode p ≠ aEthStat p := by simp only [aEthMode, aEthStat]; omega

/-- Lock shows the mode that the port tried. -/
theorem ethLinkUp_spec (htop : (s.ethPort p).try_ ≤ 3) :
    let t := ethFlag p 0x100 (s.setReg (aEthMode p) (BitVec.ofNat 32 ((s.ethPort p).try_ + 16)))
    t.ethUp p = true ∧ fld (t.reg (aEthMode p)) 0 2 = (s.ethPort p).try_ ∧ bit (t.reg (aEthStat p)) 8 = true := by
  intro t
  have hmode : t.reg (aEthMode p) = BitVec.ofNat 32 ((s.ethPort p).try_ + 16) := by
    rw [ethFlag_reg _ _ _ (ethMode_ne_stat p), State.reg_setReg, if_pos rfl]
  refine ⟨?_, ?_, bit_ethFlag (by decide) p _⟩
  · rw [State.ethUp, hmode, bit_ofNat (by decide)]
    exact decide_eq_true (by omega)
  · rw [hmode, fld_ofNat (by decide)]
    simp only [Nat.reducePow]
    omega

/-- A loss of lock begins the cycle of modes anew, and shows in ETHp_MODE and lnk. -/
theorem ethLoss_spec (h : s.ethUp p = true) : (ethLoss p s).ethUp p = false ∧ bit ((ethLoss p s).reg (aEthStat p)) 8 = true ∧
    (bit (s.reg (aEthCfg p)) 0 = true → bit (s.reg (aEthCap p)) 2 = true → ((ethLoss p s).ethPort p).try_ = 3) := by
  rw [ethLoss, if_pos h]
  generalize hu : (ethFlag p 0x100 (ethCycle p (s.setReg (aEthMode p) 0))).onEth p (fun e => { e with crA := 0, crB := 0 }) = u
  have hleaves := ptpForget_leaves p u
  have hmode : u.reg (aEthMode p) = 0 := by
    rw [← hu]
    exact (ethFlag_reg _ _ _ (ethMode_ne_stat p)).trans ((State.reg_setReg ..).trans (if_pos rfl))
  refine ⟨?_, hleaves.stat 8 ?_, fun hen hcap => ?_⟩
  · rw [State.ethUp, hleaves.reg _ (by simp only [PtpReg, aEthStat, aEthPtpStat, aEthPtpGmidLo, aEthPtpGmidHi, aEthMode]; omega), hmode]
    decide
  · rw [← hu]
    exact bit_ethFlag (by decide) p _
  · obtain ⟨g, hg⟩ := hleaves.port p
    rw [hg, ← hu, State.ethPort_onEth_same]
    have hcfg : (s.setReg (aEthMode p) 0).reg (aEthCfg p) = s.reg (aEthCfg p) :=
      (State.reg_setReg ..).trans (if_neg (by simp only [aEthCfg, aEthMode]; omega))
    have hcap' : (s.setReg (aEthMode p) 0).reg (aEthCap p) = s.reg (aEthCap p) :=
      (State.reg_setReg ..).trans (if_neg (by simp only [aEthCap, aEthMode]; omega))
    have hcycle : ((ethCycle p (s.setReg (aEthMode p) 0)).ethPort p).try_ = 3 := by
      rw [ethCycle, State.ethPort_onEth_same, hcfg, hcap', if_pos hen, ethNext_first hcap]
    exact hcycle

end

end Sys2Proof.Machine
end

section
/-! Frames of an Ethernet port (spec/14_host_network_memory.md, R567 to R569, R575, R576): what arrives, what leaves and in which order, the FIFOs'
registers, and the messages of the gPTP engine's timer. -/

namespace Sys2Proof.Machine

/-! ## What the engine's step leaves of a port's registers -/

section
variable {s t : State} {p : Nat} (h : s.PtpLeaves p t)
include h

theorem State.PtpLeaves.mem : t.mem = s.mem := by
  obtain ⟨_, _, rfl⟩ := h.frame
  rfl

theorem State.PtpLeaves.ethUp : t.ethUp p = s.ethUp p := by
  rw [State.ethUp, h.reg _ (by simp only [PtpReg, aEthStat, aEthPtpStat, aEthPtpGmidLo, aEthPtpGmidHi, aEthMode]; omega), State.ethUp]

theorem State.PtpLeaves.ethMode : t.reg (aEthMode p) = s.reg (aEthMode p) :=
  h.reg _ (by simp only [PtpReg, aEthStat, aEthPtpStat, aEthPtpGmidLo, aEthPtpGmidHi, aEthMode]; omega)

theorem State.PtpLeaves.ethMac : t.ethMac p = s.ethMac p := by
  rw [State.ethMac, h.reg _ (by simp only [PtpReg, aEthStat, aEthPtpStat, aEthPtpGmidLo, aEthPtpGmidHi, aEthMacLo]; omega),
    h.reg _ (by simp only [PtpReg, aEthStat, aEthPtpStat, aEthPtpGmidLo, aEthPtpGmidHi, aEthMacHi]; omega), State.ethMac]

theorem State.PtpLeaves.ethMine (da : List Byte) : t.ethMine p da = s.ethMine p da := by
  unfold State.ethMine
  dsimp only
  rw [h.ethMac, h.reg (aEthCfg p) (by simp only [PtpReg, aEthStat, aEthPtpStat, aEthPtpGmidLo, aEthPtpGmidHi, aEthCfg]; omega),
    h.reg (if fld (ethFcs da) 0 6 < 32 then aEthMchashLo p else aEthMchashHi p) (by
      simp only [PtpReg, aEthStat, aEthPtpStat, aEthPtpGmidLo, aEthPtpGmidHi, aEthMchashLo, aEthMchashHi]
      split <;> omega)]

end

/-! ## Reception (R568, R575) -/

section
variable {s : State} {p : Nat} {bs : List Byte}

theorem ethReceive_bad {bad : Bool} (hup : s.ethUp p = true) (h : bad = true ∨ bs.length < 60 ∨ 1518 < bs.length) :
    ethReceive p bs bad s = s.incSat (aEthRxBad p) := by
  have hbad : (bad || decide (bs.length < 60) || decide (1518 < bs.length)) = true := by simpa [or_assoc] using h
  rw [ethReceive, hup]
  exact (if_neg (by decide)).trans (if_pos hbad)

/-- Does listener entry e of port p take PDUs with a stream ID? -/
def State.lsTakes (s : State) (p : Nat) (id : List Byte) (e : Nat) : Bool :=
  bit (s.reg (aEthLsCfg e)) 0 && decide (enPort (s.reg (aEthLsCfg e)) = p) &&
    decide (id = streamId (s.reg (aEthLsSidLo e)) (s.reg (aEthLsSidHi e)))

/-- The untagged frame of a listener's stream reaches the listener. -/
theorem ethReceive_pdu (hup : s.ethUp p = true) (hmin : 60 ≤ bs.length) (hmax : bs.length ≤ 1518) (hty : beAt bs 12 2 = 0x22F0) {e : Nat}
    (he : (List.range 64).find? (s.lsTakes p ((bs.drop 18).take 8)) = some e) : ethReceive p bs false s = lsReceive e (bs.drop 14) s := by
  have hgood : ¬ (false || decide (bs.length < 60) || decide (1518 < bs.length)) = true := by simp; omega
  rw [ethReceive, hup]
  refine (if_neg (by decide)).trans ((if_neg hgood).trans ?_)
  simp only [hty, Nat.reduceEqDiff, if_false, if_true, Nat.add_zero, List.drop_drop]
  rw [show (List.range 64).find? (fun e => bit (s.reg (aEthLsCfg e)) 0 && decide (enPort (s.reg (aEthLsCfg e)) = p) &&
    decide (List.take 8 (List.drop (14 + 4) bs) = streamId (s.reg (aEthLsSidLo e)) (s.reg (aEthLsSidHi e)))) = some e from he]

/-- An untagged frame of another type enters the receive FIFO where a rule accepts it, and is dropped elsewhere. -/
theorem ethReceive_other (hup : s.ethUp p = true) (hmin : 60 ≤ bs.length) (hmax : bs.length ≤ 1518)
    (hty : beAt bs 12 2 ∉ [0x8100, 0x88F7, 0x22F0, 0x8808]) :
    ethReceive p bs false s = if s.ethMine p (bs.take 6) = true then rxPush p bs s else s.incSat (aEthRxDrop p) := by
  have hgood : ¬ (false || decide (bs.length < 60) || decide (1518 < bs.length)) = true := by simp; omega
  simp only [List.mem_cons, List.not_mem_nil, or_false, not_or] at hty
  obtain ⟨htag, hptp, havtp, hpause⟩ := hty
  rw [ethReceive, hup]
  refine (if_neg (by decide)).trans ((if_neg hgood).trans ?_)
  simp only [htag, hptp, havtp, hpause, if_false, Nat.add_zero, ne_eq, not_false_eq_true, true_or, and_true]

theorem rxLevel_port (p q : Nat) (s : State) : (rxLevel p s).ethPort q = s.ethPort q := rfl

/-- A frame with room enters the FIFO behind its length word. -/
theorem rxPush_spec (hroom : (s.ethPort p).rx.foldl (fun a f => a + f.length) 0 + 1 + (bs.length + 3) / 4 ≤ 8192)
    (hflag : bit (s.reg (aEthFifoCfg p)) 8 = false) :
    ((rxPush p bs s).ethPort p).rx = (s.ethPort p).rx ++ [BitVec.ofNat 32 bs.length :: bytesWords bs] ∧
      (rxPush p bs s).reg (aEthRxLevel p) = BitVec.ofNat 32 ((s.ethPort p).rx.length + 1) := by
  have hwords : (BitVec.ofNat 32 bs.length :: bytesWords bs).length = 1 + (bs.length + 3) / 4 := by
    rw [List.length_cons, bytesWords, List.length_map, List.length_range, Nat.add_comm]
  have hfits : (s.ethPort p).rx.foldl (fun a f => a + f.length) 0 + (BitVec.ofNat 32 bs.length :: bytesWords bs).length ≤ 8192 := by
    rw [hwords]
    omega
  have hport (ws : List Word) : ((rxLevel p (s.onEth p fun e => { e with rx := e.rx ++ [ws] })).ethPort p).rx = (s.ethPort p).rx ++ [ws] := by
    rw [rxLevel_port, State.ethPort_onEth_same]
  have hcfg (ws : List Word) : (rxLevel p (s.onEth p fun e => { e with rx := e.rx ++ [ws] })).reg (aEthFifoCfg p) = s.reg (aEthFifoCfg p) :=
    (State.reg_setReg ..).trans (if_neg (by simp only [aEthFifoCfg, aEthRxLevel]; omega))
  have hpush : rxPush p bs s = rxLevel p (s.onEth p fun e => { e with rx := e.rx ++ [BitVec.ofNat 32 bs.length :: bytesWords bs] }) := by
    refine (if_pos hfits).trans (if_neg ?_)
    rw [hcfg, hflag]
    decide
  rw [hpush]
  refine ⟨hport _, (State.reg_setReg ..).trans ((if_pos rfl).trans ?_)⟩
  rw [State.ethPort_onEth_same, List.length_append]
  rfl

theorem ethMine_of_station (h : bs = s.ethMac p ∨ bs = List.replicate 6 0xFF) : s.ethMine p bs = true := by
  rcases h with h | h <;> simp [State.ethMine, h]

end

/-! ## The FIFOs' registers (R575, R576) -/

section
variable {s : State} {p : Nat}

theorem rxfRead_of_empty (h : (s.ethPort p).rx = []) : rxfRead p s = (s, 0) := by simp only [rxfRead, h]

theorem rxfRead_of_word {w : Word} {ws : List Word} {fs : List (List Word)} (h : (s.ethPort p).rx = (w :: ws) :: fs) :
    (rxfRead p s).2 = w ∧ ((rxfRead p s).1.ethPort p).rx = if ws = [] then fs else ws :: fs := by
  have hread : rxfRead p s = (rxLevel p (s.onEth p (fun e => { e with rx := if ws.isEmpty then fs else ws :: fs })), w) := by
    simp only [rxfRead, h]
  rw [hread]
  refine ⟨rfl, ?_⟩
  rw [rxLevel_port, State.ethPort_onEth_same]
  simp only [List.isEmpty_iff]

theorem txfWrite_of_none (h : (s.ethPort p).txCur = none) (v : Word) : txfWrite p v s = s := by simp only [txfWrite, h]

theorem txfWrite_of_some {n : Nat} {bs : List Byte} (h : (s.ethPort p).txCur = some (n, bs)) (v : Word) :
    if bs.length + 4 < n then
      ((txfWrite p v s).ethPort p).txCur = some (n, bs ++ leBytes 4 v.toNat) ∧ ((txfWrite p v s).ethPort p).txQ = (s.ethPort p).txQ
    else ((txfWrite p v s).ethPort p).txCur = none ∧ ((txfWrite p v s).ethPort p).txQ = (s.ethPort p).txQ ++
      [{ talker := none, bytes := (bs ++ leBytes 4 v.toNat).take n ++ List.replicate (60 - n) 0 }] := by
  have hlen : (bs ++ leBytes 4 v.toNat).length = bs.length + 4 := by rw [List.length_append, length_leBytes]
  have htaken : ((bs ++ leBytes 4 v.toNat).take n).length < n ↔ bs.length + 4 < n := by rw [List.length_take, hlen]; omega
  simp only [txfWrite, h, htaken]
  split
  · next hpart =>
    rw [List.take_of_length_le (by omega), State.ethPort_onEth_same]
    exact ⟨rfl, rfl⟩
  · rw [State.ethPort_onEth_same]
    exact ⟨rfl, rfl⟩

theorem ethFlag_port (p : Nat) (m : Word) (s : State) (q : Nat) : (ethFlag p m s).ethPort q = s.ethPort q := rfl

theorem txhWrite_spec (s : State) (p : Nat) (v : Word) :
    if 14 ≤ fld v 0 11 ∧ fld v 0 11 ≤ 1518 ∧ (s.ethPort p).txQ.foldl (fun a f => a + f.bytes.length) 0 + fld v 0 11 ≤ 16384 then
      ((txhWrite p v s).ethPort p).txCur = some (fld v 0 11, []) ∧ (txhWrite p v s).regs = s.regs
    else ((txhWrite p v s).ethPort p).txCur = none ∧ bit ((txhWrite p v s).reg (aEthStat p)) 13 = true := by
  dsimp only [txhWrite]
  split
  · rw [State.ethPort_onEth_same]
    exact ⟨rfl, rfl⟩
  · refine ⟨?_, bit_ethFlag (by decide) p _⟩
    rw [ethFlag_port, State.ethPort_onEth_same]

end

/-! ## Sending (R567) -/

/-- A frame with its FCS. -/
def ethFrame (x : EthTx) : List Byte :=
  (x.bytes ++ List.replicate (60 - x.bytes.length) 0) ++ leBytes 4 (ethFcs (x.bytes ++ List.replicate (60 - x.bytes.length) 0)).toNat

theorem ethFrame_take (x : EthTx) : (ethFrame x).take x.bytes.length = x.bytes := by
  rw [ethFrame, List.append_assoc, List.take_left]

section
variable {s : State} {p : Nat}

theorem enCount_eth (port a lo w n : Nat) (s : State) : (enCount port a lo w n s).eth = s.eth := by
  unfold enCount
  split
  · rfl
  · rfl

theorem ethOut_port (p : Nat) (x : EthTx) (s : State) : (ethOut p x s).ethPort p = { s.ethPort p with out := ethFrame x } := by
  have hset : (s.onEth p fun e => { e with out := ethFrame x }).ethPort p = { s.ethPort p with out := ethFrame x } := s.ethPort_onEth_same p _
  cases hx : x.talker with
  | none =>
    simp only [ethOut, hx]
    exact hset
  | some e =>
    simp only [ethOut, hx]
    exact (State.ethPort_of_eth (enCount_eth ..) p).trans hset

/-- The follow-up of a gPTP message leaves the port but its first queue and its engine. -/
theorem ptpSent_port (p : Nat) (x : EthTx) (s : State) : ∃ Q g, (ptpSent p x s).ethPort p = { s.ethPort p with ptpQ := Q, ptp := g } := by
  unfold ptpSent
  extract_lets m tx seq
  clear_value m tx seq
  split
  · rw [ptpRef, State.ethPort_onEth_same, ptpQueue, State.ethPort_onEth_same]
    exact ⟨_, _, rfl⟩
  · rw [State.ethPort_onEth_same]
    exact ⟨_, _, rfl⟩
  · rw [ptpQueue, State.ethPort_onEth_same]
    exact ⟨_, _, rfl⟩
  · exact ⟨_, _, rfl⟩

/-- Accounting credits leaves the port but its credits. -/
theorem ethCredit_port (p gainA gainB : Nat) (s : State) : ∃ paid a b,
    (ethCredit p gainA gainB s).ethPort p = { s.ethPort p with paid := paid, crA := a, crB := b } :=
  ⟨_, _, _, s.ethPort_onEth_same p _⟩

/-- Class A does not send. -/
theorem classA_waits {gainA gainB : Nat} (ha : ((ethCredit p gainA gainB s).ethPort p).crA < 0 ∨ (s.ethPort p).aQ = []) :
    (if 0 ≤ ((ethCredit p gainA gainB s).ethPort p).crA then (s.ethPort p).aQ else []) = [] := by
  split
  · exact ha.resolve_left (by omega)
  · rfl

variable {gainA gainB : Nat} {x : EthTx} {r : List EthTx} (hup : s.ethUp p = true)
include hup

/-- gPTP messages go first. -/
theorem ethSend_ptp (hq : (s.ethPort p).ptpQ = x :: r) : ((ethSend p gainA gainB s).ethPort p).aQ = (s.ethPort p).aQ ∧
    ((ethSend p gainA gainB s).ethPort p).out = ethFrame x := by
  obtain ⟨paid, a, b, hport⟩ := ethCredit_port p gainA gainB s
  have hsend : ethSend p gainA gainB s = ptpSent p x (ethOut p x ((ethCredit p gainA gainB s).onEth p fun e => { e with ptpQ := r })) := by
    simp only [ethSend, hup, hport, hq, Bool.not_true, Bool.false_eq_true, if_false]
  obtain ⟨Q, g, hsent⟩ := ptpSent_port p x (ethOut p x ((ethCredit p gainA gainB s).onEth p fun e => { e with ptpQ := r }))
  rw [hsend, hsent, ethOut_port, State.ethPort_onEth_same, hport]
  exact ⟨rfl, rfl⟩

variable (hptp : (s.ethPort p).ptpQ = [])
include hptp

/-- Then class A while its credit is not negative. -/
theorem ethSend_a (hcr : 0 ≤ ((ethCredit p gainA gainB s).ethPort p).crA) (hq : (s.ethPort p).aQ = x :: r) :
    ((ethSend p gainA gainB s).ethPort p).aQ = r ∧ ((ethSend p gainA gainB s).ethPort p).out = ethFrame x ∧
      ((ethSend p gainA gainB s).ethPort p).crA =
        creditSpend (fld (s.reg (aEthCbsA p)) 0 24) (ethRate (s.reg (aEthMode p))) x ((ethCredit p gainA gainB s).ethPort p).crA := by
  obtain ⟨paid, a, b, hport⟩ := ethCredit_port p gainA gainB s
  rw [hport] at hcr ⊢
  have hsend : ethSend p gainA gainB s = ethOut p x ((ethCredit p gainA gainB s).onEth p fun e =>
      { e with aQ := r, crA := creditSpend (fld (s.reg (aEthCbsA p)) 0 24) (ethRate (s.reg (aEthMode p))) x a }) := by
    simp only [ethSend, hup, hport, hptp, hq, if_pos hcr, Bool.not_true, Bool.false_eq_true, if_false]
  rw [hsend, ethOut_port, State.ethPort_onEth_same]
  exact ⟨rfl, rfl, rfl⟩

variable (ha : ((ethCredit p gainA gainB s).ethPort p).crA < 0 ∨ (s.ethPort p).aQ = [])
include ha

/-- Then class B while its credit is not negative. -/
theorem ethSend_b (hcr : 0 ≤ ((ethCredit p gainA gainB s).ethPort p).crB) (hq : (s.ethPort p).bQ = x :: r) :
    ((ethSend p gainA gainB s).ethPort p).bQ = r ∧ ((ethSend p gainA gainB s).ethPort p).out = ethFrame x ∧
      ((ethSend p gainA gainB s).ethPort p).crB =
        creditSpend (fld (s.reg (aEthCbsB p)) 0 24) (ethRate (s.reg (aEthMode p))) x ((ethCredit p gainA gainB s).ethPort p).crB := by
  have hwait := classA_waits ha
  obtain ⟨paid, a, b, hport⟩ := ethCredit_port p gainA gainB s
  rw [hport] at hcr hwait ⊢
  have hsend : ethSend p gainA gainB s = ethOut p x ((ethCredit p gainA gainB s).onEth p fun e =>
      { e with bQ := r, crB := creditSpend (fld (s.reg (aEthCbsB p)) 0 24) (ethRate (s.reg (aEthMode p))) x b }) := by
    simp only [ethSend, hup, hport, hptp, hwait, hq, if_pos hcr, Bool.not_true, Bool.false_eq_true, if_false]
  rw [hsend, ethOut_port, State.ethPort_onEth_same]
  exact ⟨rfl, rfl, rfl⟩

/-- Last the transmit FIFO. -/
theorem ethSend_tx (hb : ((ethCredit p gainA gainB s).ethPort p).crB < 0 ∨ (s.ethPort p).bQ = []) (hq : (s.ethPort p).txQ = x :: r) :
    ((ethSend p gainA gainB s).ethPort p).txQ = r ∧ ((ethSend p gainA gainB s).ethPort p).out = ethFrame x := by
  have hwait := classA_waits ha
  have hwaitB : (if 0 ≤ ((ethCredit p gainA gainB s).ethPort p).crB then (s.ethPort p).bQ else []) = [] := by
    split
    · exact hb.resolve_left (by omega)
    · rfl
  obtain ⟨paid, a, b, hport⟩ := ethCredit_port p gainA gainB s
  rw [hport] at hwait hwaitB
  have hsend : ethSend p gainA gainB s = ethOut p x ((ethCredit p gainA gainB s).onEth p fun e => { e with txQ := r }) := by
    simp only [ethSend, hup, hport, hptp, hwait, hwaitB, hq, Bool.not_true, Bool.false_eq_true, if_false]
  rw [hsend, ethOut_port, State.ethPort_onEth_same]
  exact ⟨rfl, rfl⟩

end

/-! ## The engine's timer (R569) -/

theorem beAt_append {pre : List Byte} {o : Nat} (h : pre.length = o) (b : Byte) (rest : List Byte) : beAt (pre ++ b :: rest) o 1 = b.toNat := by
  rw [beAt, List.drop_left' h]
  simp [beNat]

theorem ethMac_length (s : State) (p : Nat) : (s.ethMac p).length = 6 := by simp [State.ethMac]

/-- A message shows its type in the first byte of its header. -/
theorem ptpMsg_type (s : State) (p : Nat) {ty : Nat} (hty : ty < 16) (seq corr : Nat) (body : List Byte) :
    beAt (s.ptpMsg p ty seq corr body).bytes 14 1 % 16 = ty := by
  have hpre : ([0x01, 0x80, 0xC2, 0x00, 0x00, 0x0E] ++ s.ethMac p ++ [0x88, 0xF7] : List Byte).length = 14 := by simp [ethMac_length]
  have hbytes : ∃ rest, (s.ptpMsg p ty seq corr body).bytes =
      ([0x01, 0x80, 0xC2, 0x00, 0x00, 0x0E] ++ s.ethMac p ++ [0x88, 0xF7] : List Byte) ++ BitVec.ofNat 8 (0x10 + ty) :: rest := by
    simp only [State.ptpMsg, List.append_assoc, List.cons_append, List.nil_append]
    exact ⟨_, rfl⟩
  obtain ⟨rest, hrest⟩ := hbytes
  rw [hrest, beAt_append hpre, BitVec.toNat_ofNat]
  omega

section
variable {s : State} {p : Nat}

theorem ptpSeq_queue (p : Nat) (m : EthTx) (s : State) : ((ptpSeq p (ptpQueue p m s)).ethPort p).ptpQ = (s.ethPort p).ptpQ ++ [m] := by
  rw [ptpSeq, State.ethPort_onEth_same, ptpQueue, State.ethPort_onEth_same]

theorem State.PtpLeaves.ptpQ {t : State} (h : s.PtpLeaves p t) : (t.ethPort p).ptpQ = (s.ethPort p).ptpQ := by
  obtain ⟨g, hg⟩ := h.port p
  rw [hg]

/-- A peer-delay request waits. -/
theorem ptpRequest_queue (p : Nat) (s : State) : ∃ u : State, ∃ seq body,
    ((ptpRequest p s).ethPort p).ptpQ = (s.ethPort p).ptpQ ++ [u.ptpMsg p 2 seq 0 body] := by
  unfold ptpRequest
  extract_lets g lost s1 s2
  have hs1 : s.PtpLeaves p s1 := State.ptpLeaves_onEth (fun _ => ⟨_, rfl⟩) _ _
  have hs2 : s1.PtpLeaves p s2 := by
    unfold s2
    split
    · exact setCapable_leaves ..
    · exact .refl ..
  exact ⟨s2, _, _, (ptpSeq_queue ..).trans (congrArg (· ++ _) (hs1.trans hs2).ptpQ)⟩

/-- What the timer queues: a peer-delay request, an Announce or a Sync. -/
theorem ptpTimer_queue {kind : Nat} (hen : bit (s.reg (aEthPtpCfg p)) 0 = true) (hup : s.ethUp p = true) (hlead : kind = 0 ∨ s.MayLead p) :
    ∃ u : State, ∃ seq body, ((ptpTimer p kind s).ethPort p).ptpQ = (s.ethPort p).ptpQ ++
      [u.ptpMsg p (if kind = 0 then 2 else if kind = 1 then 11 else 0) seq 0 body] := by
  have helect := (ptpElect_leaves p s).ptpQ
  rw [ptpTimer, if_pos ⟨hen, hup⟩]
  dsimp only
  split
  · obtain ⟨u, seq, body, hq⟩ := ptpRequest_queue p (ptpElect p s)
    exact ⟨u, seq, body, by rw [hq, helect, if_pos rfl]⟩
  · have hrole := ptpElect_role (hlead.resolve_left (by decide))
    rw [if_pos hrole, ptpSeq_queue, helect]
    exact ⟨_, _, _, rfl⟩
  · next k h0 h1 =>
    have hrole := ptpElect_role (hlead.resolve_left h0)
    rw [if_pos hrole, ptpSeq_queue, helect, if_neg h0, if_neg h1]
    exact ⟨_, _, _, rfl⟩

end

end Sys2Proof.Machine
end

section
/-! Stream entries of the Ethernet ports (spec/14_host_network_memory.md, R570 to R574): their configuration, and the PDUs that talkers queue. -/

namespace Sys2Proof.Machine

/-! ## Configuration (R574) -/

section
variable {s : State} {talker : Bool} {e : Nat} {v : Word}

theorem entryMask_odd (talker : Bool) (v : Word) : bit (v &&& (if talker then 0x007FFFFF else 0x3F1FFFFF)) 0 = bit v 0 := by
  have hodd : bit (if talker then 0x007FFFFF else 0x3F1FFFFF) 0 = true := by cases talker <;> decide
  rw [bit_and, hodd, Bool.and_true]

/-- A judged entry refuses changes while enabled. -/
theorem entryCfgWrite_refused (hen : bit (s.reg (if talker then aEthTkCfg e else aEthLsCfg e)) 0 = true)
    (hne : s.reg (if talker then aEthTkCfg e else aEthLsCfg e) ||| 1 ≠ (v &&& (if talker then 0x007FFFFF else 0x3F1FFFFF)) ||| 1) :
    entryCfgWrite talker e v s = s.orReg (aEthStat (enPort (s.reg (if talker then aEthTkCfg e else aEthLsCfg e)))) 0x4000 := by
  dsimp only [entryCfgWrite]
  rw [if_pos hen, if_pos hne, if_pos hen]
  rfl

theorem lsEnable_cfg (e : Nat) (c : Word) (s : State) : (lsEnable e c s).reg (aEthLsCfg e) = s.reg (aEthLsCfg e) :=
  (State.reg_setReg ..).trans (if_neg (by simp only [aEthLsCfg, aEthLsStat]; omega))

/-- A disabled entry takes what does not enable it, and what the judgement passes. -/
theorem entryCfgWrite_taken (hoff : bit (s.reg (if talker then aEthTkCfg e else aEthLsCfg e)) 0 = false)
    (hok : bit v 0 = false ∨ s.enOk (v &&& (if talker then 0x007FFFFF else 0x3F1FFFFF)) = true) :
    (entryCfgWrite talker e v s).reg (if talker then aEthTkCfg e else aEthLsCfg e) = v &&& (if talker then 0x007FFFFF else 0x3F1FFFFF) := by
  have hodd := entryMask_odd talker v
  dsimp only [entryCfgWrite]
  rw [if_neg (by rw [hoff]; decide)]
  cases hv : bit v 0 with
  | true =>
    rw [if_pos (hodd.trans hv), if_pos (hok.resolve_left (by rw [hv]; decide))]
    cases talker with
    | true => exact (State.reg_setReg ..).trans (if_pos rfl)
    | false => exact (lsEnable_cfg ..).trans ((State.reg_setReg ..).trans (if_pos rfl))
  | false =>
    rw [if_neg (by rw [hodd, hv]; decide)]
    exact (State.reg_setReg ..).trans (if_pos rfl)

end

/-! ## What a wake leaves (R328, R329) -/

/-- The registers that show power and wakes of memory. -/
def WakeReg (a : Nat) : Prop := a = aMemcRpwrStat ∨ a = aMemcWakeCnt

/-- What a wake, or a write into memory, leaves: ports and entries, partitions, the Tide, the registers but two of MEMC, and, where only zeros are
written, every byte that does not become 0. -/
structure State.RingLeaves (zeros : Prop) (s t : State) : Prop where
  eth   : t.eth = s.eth
  setup : t.setup = s.setup
  tide  : t.tide = s.tide
  reg   : ∀ a, ¬ WakeReg a → t.reg a = s.reg a
  byte  : zeros → ∀ a, t.byte a = s.byte a ∨ t.byte a = 0

section
variable {z : Prop} {s t u : State}

theorem State.RingLeaves.refl (z : Prop) (s : State) : s.RingLeaves z s := ⟨rfl, rfl, rfl, fun _ _ => rfl, fun _ _ => .inl rfl⟩

theorem State.RingLeaves.trans (h : s.RingLeaves z t) (h' : t.RingLeaves z u) : s.RingLeaves z u where
  eth := h'.eth.trans h.eth
  setup := h'.setup.trans h.setup
  tide := h'.tide.trans h.tide
  reg a ha := (h'.reg a ha).trans (h.reg a ha)
  byte hz a := by
    rcases h'.byte hz a with h1 | h1
    · rw [h1]
      exact h.byte hz a
    · exact .inr h1

theorem State.setMemPwr_ringLeaves (s : State) (u : Nat) (p : MemPwr) : s.RingLeaves z (s.setMemPwr u p) := by
  unfold State.setMemPwr
  dsimp only
  split
  · exact ⟨rfl, rfl, rfl, fun _ ha => (State.reg_setRegFld ..).trans (if_neg fun h => ha (.inl h)), fun _ _ => .inl rfl⟩
  · exact ⟨rfl, rfl, rfl, fun _ _ => rfl, fun _ _ => .inl rfl⟩

theorem State.wakeCnt_ringLeaves (s : State) : s.RingLeaves z (s.incSat aMemcWakeCnt) :=
  ⟨rfl, rfl, rfl, fun _ ha => (State.reg_incSat ..).trans (if_neg fun h => ha (.inr h)), fun _ _ => .inl rfl⟩

theorem State.zero_ringLeaves (s : State) (a n : Nat) : s.RingLeaves z (s.zero a n) := by
  refine ⟨rfl, rfl, rfl, fun _ _ => rfl, fun _ b => ?_⟩
  rw [State.byte_zero]
  split
  · exact .inr rfl
  · exact .inl rfl

theorem State.zeroUnit_ringLeaves (s : State) (u : Nat) : s.RingLeaves z (s.zeroUnit u) := by
  unfold State.zeroUnit
  split
  · exact s.zero_ringLeaves _ _
  · exact (s.zero_ringLeaves _ _).trans (State.zero_ringLeaves _ _ _)

theorem State.beginWake_ringLeaves (s : State) (u : Nat) : s.RingLeaves z (s.beginWake u) := by
  unfold State.beginWake
  split
  · exact (s.setMemPwr_ringLeaves _ _).trans (State.wakeCnt_ringLeaves _)
  · exact (s.setMemPwr_ringLeaves _ _).trans (State.wakeCnt_ringLeaves _)
  · exact .refl z s

theorem State.endWake_ringLeaves (s : State) (u : Nat) : s.RingLeaves z (s.endWake u) := by
  unfold State.endWake
  split
  · exact s.setMemPwr_ringLeaves _ _
  · exact (s.zeroUnit_ringLeaves _).trans (State.setMemPwr_ringLeaves _ _ _)
  · exact .refl z s

theorem State.markWoken_ringLeaves (s : State) (u : Nat) : s.RingLeaves z (s.markWoken u) := by
  unfold State.markWoken
  split
  · exact ⟨rfl, rfl, rfl, fun _ _ => rfl, fun _ _ => .inl rfl⟩
  · exact .refl z s

theorem State.wakeUnit_ringLeaves (s : State) (u : Nat) : s.RingLeaves z (s.wakeUnit u) :=
  ((s.beginWake_ringLeaves u).trans (State.markWoken_ringLeaves _ u)).trans (State.endWake_ringLeaves _ u)

theorem State.wakeFor_ringLeaves (s : State) (t : Target) : s.RingLeaves z (s.wakeFor t) := by
  unfold State.wakeFor
  split
  · split
    · exact s.wakeUnit_ringLeaves _
    · exact .refl z s
  · split
    · exact s.wakeUnit_ringLeaves _
    · exact .refl z s
  · exact .refl z s

theorem foldS_ringLeaves {α : Type} {f : α → State → State} (hf : ∀ x s, State.RingLeaves z s (f x s)) (l : List α) (s : State) :
    s.RingLeaves z (foldS f l s) :=
  foldS_induction (P := fun t => s.RingLeaves z t) (fun x t h => h.trans (hf x t)) l s (.refl z s)

theorem State.wakeSpan_ringLeaves (s : State) (a n : Nat) : s.RingLeaves z (s.wakeSpan a n) := by
  refine foldS_ringLeaves (fun u s => ?_) _ s
  split
  · exact s.wakeUnit_ringLeaves u
  · exact .refl z s

end

/-! ## Lengths of the PDUs' parts -/

theorem length_beBytes (n v : Nat) : (beBytes n v).length = n := by rw [beBytes, List.length_map, List.length_range]

theorem length_streamId (lo hi : Word) : (streamId lo hi).length = 8 := length_beBytes ..

theorem length_tkHeader (s : State) (e p : Nat) (cls : Bool) : (s.tkHeader e p cls).length = 18 := by
  simp [State.tkHeader, ethMac_length, length_beBytes]

theorem length_flatMap_const {α β : Type} {f : α → List β} {n : Nat} (hf : ∀ x, (f x).length = n) (l : List α) :
    (l.flatMap f).length = l.length * n := by
  induction l with
  | nil => rw [List.flatMap_nil, List.length_nil, List.length_nil, Nat.zero_mul]
  | cons x l ih => rw [List.flatMap_cons, List.length_append, hf, ih, List.length_cons, Nat.succ_mul, Nat.add_comm]

/-! ## Queueing (R570) -/

section
variable {s : State} {e p : Nat}

theorem State.tk_setTk (s : State) (e : Nat) (x : EthTk) : (s.setTk e x).tk e = x := (smGet_smSet ..).trans (if_pos rfl)

theorem State.ethPort_setTk (s : State) (e : Nat) (x : EthTk) (p : Nat) : (s.setTk e x).ethPort p = s.ethPort p := rfl

theorem tkDrop_port (e p : Nat) (s : State) : (tkDrop e p s).ethPort p = { s.ethPort p with
    aQ := (s.ethPort p).aQ.filter (fun x => !decide (x.talker = some e)), bQ := (s.ethPort p).bQ.filter (fun x => !decide (x.talker = some e)) } :=
  (State.ethPort_of_eth (enCount_eth ..) p).trans (s.ethPort_onEth_same p _)

/-- Nothing waits of a talker that has no PDU in class A. -/
theorem tkDrop_aQ (h : (s.ethPort p).aQ.all (fun x => decide (x.talker ≠ some e)) = true) : ((tkDrop e p s).ethPort p).aQ = (s.ethPort p).aQ := by
  rw [tkDrop_port]
  refine List.filter_eq_self.mpr fun x hx => ?_
  have hne := of_decide_eq_true (List.all_eq_true.mp h x hx)
  rw [decide_eq_false hne, Bool.not_false]

theorem tkQueue_aQ (p : Nat) (x : EthTx) (s : State) : ((tkQueue p false x s).ethPort p).aQ = (s.ethPort p).aQ ++ [x] := by
  rw [tkQueue, State.ethPort_onEth_same]
  rfl

theorem tkQueue_bQ (p : Nat) (x : EthTx) (s : State) : ((tkQueue p true x s).ethPort p).bQ = (s.ethPort p).bQ ++ [x] := by
  rw [tkQueue, State.ethPort_onEth_same]
  rfl

/-- PDUs wait one behind another. -/
theorem foldS_tkQueue (p : Nat) (pdu : Nat → EthTx) (js : List Nat) : ∀ s : State,
    ((foldS (fun j s => tkQueue p false (pdu j) s) js s).ethPort p).aQ = (s.ethPort p).aQ ++ js.map pdu := by
  induction js with
  | nil => exact fun s => (List.append_nil _).symm
  | cons j js ih => exact fun s => by rw [foldS, ih, tkQueue_aQ, List.map_cons, List.append_assoc, List.singleton_append]

end

/-! ## Talkers (R570, R571, R573) -/

section
variable {s : State} {e : Nat}

/-- The start of the partition frame that talker e sends (R571). -/
def State.aafStart (s : State) (e : Nat) (pa : Part) : Nat :=
  (s.pt pa.part).start + s.pdusGone (s.pt pa.part) (s.reg (aEthTkCfg e)) * s.enLen (s.reg (aEthTkCfg e))

/-- Does it carry the bridge? -/
def State.aafBridge (s : State) (e : Nat) (pa : Part) : Bool :=
  !(s.pt pa.part).inFrame || bit (s.reg (aBwtrPtCwHi pa.part)) 2 || decide (0 < s.pdusGone (s.pt pa.part) (s.reg (aEthTkCfg e)))

/-- Where the output lies. -/
def State.aafBase (s : State) (e : Nat) (pa : Part) : Nat :=
  s.pair (aEthTkAddr e) (aEthTkAddrHi e) + (if bit (s.reg (aEthTkCfg e)) 21 then pa.ebbBase (s.ptEbb pa.part) else 0)

/-- Machine s after the wake of what the talker reads. -/
def State.aafWoken (s : State) (e : Nat) (pa : Part) : State :=
  if s.aafBridge e pa then s
  else s.wakeSpan (s.plain (s.routeAddr (s.aafBase e pa))) (s.enLen (s.reg (aEthTkCfg e)) * enCh (s.reg (aEthTkCfg e)) * 4)

/-- Sample i of channel k of the frame. -/
def State.aafSample (s : State) (e : Nat) (pa : Part) (i k : Nat) : Word :=
  (s.aafWoken e pa).tkSample (s.aafBase e pa) (enCh (s.reg (aEthTkCfg e))) (s.enLen (s.reg (aEthTkCfg e))) (s.aafBridge e pa) (s.tk e).last i k

/-- The payload of the frame's PDU j. -/
def State.aafPay (s : State) (e : Nat) (pa : Part) (j : Nat) : List Byte :=
  (List.range (enSpp (s.reg (aEthTkCfg e)))).flatMap fun i => (List.range (enCh (s.reg (aEthTkCfg e)))).flatMap fun k =>
    if bit (s.reg (aEthTkCfg e)) 3 then beBytes 4 (s.aafSample e pa (enSpp (s.reg (aEthTkCfg e)) * j + i) k).toNat
    else beBytes 3 ((s.aafSample e pa (enSpp (s.reg (aEthTkCfg e)) * j + i) k).toNat / 256)

/-- The frame's PDU j. -/
def State.aafPdu (s : State) (e : Nat) (pa : Part) (j : Nat) : EthTx :=
  let c := s.reg (aEthTkCfg e)
  let ts := (s.countTime (s.aafStart e pa + enSpp c * j + s.enLen c) + (s.reg (aEthTkLat e)).toNat) % 2 ^ 32
  { talker := some e
    bytes := s.tkHeader e (enPort c) (bit c 22) ++ [0x02, if s.ethTide (enPort c) true then 0x81 else 0x80, BitVec.ofNat 8 ((s.tk e).seq + j), 0] ++
      streamId (s.reg (aEthTkSidLo e)) (s.reg (aEthTkSidHi e)) ++ beBytes 4 ts ++ [if bit c 3 then 0x02 else 0x03] ++
      beBytes 2 (nsrCode s.rate * 4096 + enCh c) ++ [if bit c 3 then 32 else 24] ++ beBytes 2 (s.aafPay e pa j).length ++ [0, 0] ++ s.aafPay e pa j }

/-- The talker after its fire. -/
def State.aafTk (s : State) (e : Nat) (pa : Part) : EthTk :=
  { seq := ((s.tk e).seq + s.enLen (s.reg (aEthTkCfg e)) / enSpp (s.reg (aEthTkCfg e))) % 256, done := s.aafStart e pa + 1
    last := (List.range (enCh (s.reg (aEthTkCfg e)))).map (s.aafSample e pa (s.enLen (s.reg (aEthTkCfg e)) - 1)) }

/-- What a talker's fire does: a PDU is queued for every spp samples of the partition frame. -/
theorem aafSend_eq {pa : Part} (hpa : s.part? (enPart (s.reg (aEthTkCfg e))) = some pa) (hen : bit (s.reg (aEthTkCfg e)) 0 = true)
    (hcrf : enCrf (s.reg (aEthTkCfg e)) = false) (hdone : (s.tk e).done ≠ s.aafStart e pa + 1) (hcommitted : (s.pt pa.part).committed = true) :
    aafSend e s = (foldS (fun j s' => tkQueue (enPort (s.reg (aEthTkCfg e))) (bit (s.reg (aEthTkCfg e)) 22) (s.aafPdu e pa j) s')
      (List.range (s.enLen (s.reg (aEthTkCfg e)) / enSpp (s.reg (aEthTkCfg e)))) (tkDrop e (enPort (s.reg (aEthTkCfg e))) (s.aafWoken e pa))).setTk e
        (s.aafTk e pa) := by
  have hgo : ¬ (!bit (s.reg (aEthTkCfg e)) 0 || enCrf (s.reg (aEthTkCfg e)) || decide ((s.tk e).done = s.aafStart e pa + 1) ||
      ((s.pt pa.part).inFrame && !(s.pt pa.part).committed)) = true := by
    simp [hen, hcrf, hdone, hcommitted]
  rw [aafSend]
  dsimp only
  rw [hpa]
  exact if_neg hgo

theorem aafPay_length (s : State) (e : Nat) (pa : Part) (j : Nat) :
    (s.aafPay e pa j).length = enSpp (s.reg (aEthTkCfg e)) * enCh (s.reg (aEthTkCfg e)) * enBytes (s.reg (aEthTkCfg e)) := by
  rw [State.aafPay, length_flatMap_const (n := enCh (s.reg (aEthTkCfg e)) * enBytes (s.reg (aEthTkCfg e))), List.length_range, Nat.mul_assoc]
  intro i
  rw [length_flatMap_const (n := enBytes (s.reg (aEthTkCfg e))), List.length_range]
  intro k
  unfold enBytes
  split
  · exact length_beBytes ..
  · exact length_beBytes ..

theorem aafPdu_spec (s : State) (e : Nat) (pa : Part) (j : Nat) : (s.aafPdu e pa j).talker = some e ∧
    (s.aafPdu e pa j).bytes.length = 18 + 24 + enSpp (s.reg (aEthTkCfg e)) * enCh (s.reg (aEthTkCfg e)) * enBytes (s.reg (aEthTkCfg e)) := by
  refine ⟨rfl, ?_⟩
  rw [← aafPay_length s e pa j]
  simp only [State.aafPdu, List.length_append, length_tkHeader, length_streamId, length_beBytes, List.length_cons, List.length_nil]

theorem aafWoken_eth (s : State) (e : Nat) (pa : Part) : (s.aafWoken e pa).eth = s.eth := by
  unfold State.aafWoken
  split
  · rfl
  · exact (State.wakeSpan_ringLeaves (z := False) ..).eth

/-- The PDUs of a class A talker stand behind those of the other talkers. -/
theorem aafSend_spec {pa : Part} (hpa : s.part? (enPart (s.reg (aEthTkCfg e))) = some pa) (hen : bit (s.reg (aEthTkCfg e)) 0 = true)
    (hcrf : enCrf (s.reg (aEthTkCfg e)) = false) (hdone : (s.tk e).done ≠ s.aafStart e pa + 1) (hcommitted : (s.pt pa.part).committed = true)
    (hcls : bit (s.reg (aEthTkCfg e)) 22 = false)
    (hnone : (s.ethPort (enPort (s.reg (aEthTkCfg e)))).aQ.all (fun x => decide (x.talker ≠ some e)) = true) :
    (aafSend e s).tk e = s.aafTk e pa ∧ ((aafSend e s).ethPort (enPort (s.reg (aEthTkCfg e)))).aQ =
      (s.ethPort (enPort (s.reg (aEthTkCfg e)))).aQ ++
        (List.range (s.enLen (s.reg (aEthTkCfg e)) / enSpp (s.reg (aEthTkCfg e)))).map (s.aafPdu e pa) := by
  have hport := State.ethPort_of_eth (aafWoken_eth s e pa) (enPort (s.reg (aEthTkCfg e)))
  rw [aafSend_eq hpa hen hcrf hdone hcommitted, State.tk_setTk, State.ethPort_setTk, hcls, foldS_tkQueue, tkDrop_aQ (by rwa [hport]), hport]
  exact ⟨rfl, rfl⟩

theorem aafTk_fields (s : State) (e : Nat) (pa : Part) :
    (s.aafTk e pa).done = (s.pt pa.part).start + s.pdusGone (s.pt pa.part) (s.reg (aEthTkCfg e)) * s.enLen (s.reg (aEthTkCfg e)) + 1 ∧
      (s.aafTk e pa).seq = ((s.tk e).seq + s.enLen (s.reg (aEthTkCfg e)) / enSpp (s.reg (aEthTkCfg e))) % 256 := ⟨rfl, rfl⟩

/-- The PDU of a CRF talker. -/
def State.crfPdu (s : State) (e : Nat) : EthTx :=
  let c := s.reg (aEthTkCfg e)
  { talker := some e
    bytes := s.tkHeader e (enPort c) (bit c 22) ++ [0x04, 0x80, BitVec.ofNat 8 (s.tk e).seq, 1] ++
      streamId (s.reg (aEthTkSidLo e)) (s.reg (aEthTkSidHi e)) ++ beBytes 4 (rateHz s.rate) ++ beBytes 2 8 ++ beBytes 2 s.tide.nNow ++
      beBytes 8 (s.countTime s.tide.frameStart.toNat + (s.reg (aEthTkLat e)).toNat) }

theorem crfPdu_time (s : State) (e : Nat) :
    (s.crfPdu e).bytes.drop 38 = beBytes 8 (s.countTime s.tide.frameStart.toNat + (s.reg (aEthTkLat e)).toNat) :=
  List.drop_left' (by simp only [List.length_append, length_tkHeader, length_streamId, length_beBytes, List.length_cons, List.length_nil])

/-- A CRF talker queues one PDU a tide frame (R573). -/
theorem crfSend_eq (hen : bit (s.reg (aEthTkCfg e)) 0 = true) (hcrf : enCrf (s.reg (aEthTkCfg e)) = true)
    (hdone : (s.tk e).done ≠ s.tide.frameStart.toNat + 1) : crfSend e s =
      (tkQueue (enPort (s.reg (aEthTkCfg e))) (bit (s.reg (aEthTkCfg e)) 22) (s.crfPdu e) (tkDrop e (enPort (s.reg (aEthTkCfg e))) s)).setTk e
        { s.tk e with seq := ((s.tk e).seq + 1) % 256, done := s.tide.frameStart.toNat + 1 } := by
  have hgo : ¬ (!bit (s.reg (aEthTkCfg e)) 0 || !enCrf (s.reg (aEthTkCfg e)) || decide ((s.tk e).done = s.tide.frameStart.toNat + 1)) = true := by
    simp [hen, hcrf, hdone]
  exact if_neg hgo

theorem crfSend_spec (hen : bit (s.reg (aEthTkCfg e)) 0 = true) (hcrf : enCrf (s.reg (aEthTkCfg e)) = true)
    (hdone : (s.tk e).done ≠ s.tide.frameStart.toNat + 1) (hcls : bit (s.reg (aEthTkCfg e)) 22 = true) :
    ((crfSend e s).tk e).done = s.tide.frameStart.toNat + 1 ∧
      ((crfSend e s).ethPort (enPort (s.reg (aEthTkCfg e)))).bQ.getLast? = some (s.crfPdu e) := by
  rw [crfSend_eq hen hcrf hdone, State.tk_setTk, State.ethPort_setTk, hcls, tkQueue_bQ]
  exact ⟨rfl, List.getLast?_concat⟩

end

end Sys2Proof.Machine
end

section
/-! Listeners of the Ethernet ports (spec/14_host_network_memory.md, R572, R573): the sequence number that a PDU leaves, the zeros that LISTENER_FILL
writes, and the theorem that settles O52. -/

namespace Sys2Proof.Machine

/-! ## Writes into a ring -/

section
variable {z : Prop} {s : State}

theorem State.storeAt_ringLeaves (s : State) (r : Region) (a : Nat) {bs : List Byte} (hbs : z → ∀ b ∈ bs, b = 0) :
    s.RingLeaves z (s.storeAt (.mem r a) bs) := by
  refine ⟨rfl, rfl, rfl, fun _ _ => rfl, fun hz b => ?_⟩
  rw [State.byte_storeAt_mem]
  split
  · next h =>
    rw [List.getD_eq_getElem _ _ (by omega : b - a < bs.length)]
    exact .inr (hbs hz _ (List.getElem_mem _))
  · exact .inl rfl

theorem State.touchStaging_ringLeaves (s : State) (a n : Nat) : s.RingLeaves z (s.touchStaging a n) := by
  unfold State.touchStaging
  split
  · exact ⟨rfl, rfl, rfl, fun _ _ => rfl, fun _ _ => .inl rfl⟩
  · exact .refl z s

theorem lsWrite_ringLeaves (a : Nat) {bs : List Byte} (hbs : z → ∀ b ∈ bs, b = 0) (s : State) : s.RingLeaves z (lsWrite a bs s) := by
  refine foldS_ringLeaves (fun e s => ?_) _ s
  split
  · split
    · exact .refl z s
    · refine ((s.wakeFor_ringLeaves _).trans (State.storeAt_ringLeaves _ _ _ fun hz b hb => ?_)).trans (State.touchStaging_ringLeaves _ _ _)
      exact hbs hz b (List.mem_of_mem_drop (List.mem_of_mem_take hb))
  · exact .refl z s

end

/-! ## The sequence number of a PDU (R572) -/

/-- What a sample or timestamp of a PDU leaves: the ports, and the sequence number of listener e. -/
structure State.LsLeaves (e : Nat) (s t : State) : Prop where
  ports : t.eth.ports = s.eth.ports
  seq   : (t.ls e).seq = (s.ls e).seq

section
variable {e : Nat} {s t u : State}

theorem State.LsLeaves.refl (e : Nat) (s : State) : s.LsLeaves e s := ⟨rfl, rfl⟩

theorem State.LsLeaves.trans (h : s.LsLeaves e t) (h' : t.LsLeaves e u) : s.LsLeaves e u := ⟨h'.ports.trans h.ports, h'.seq.trans h.seq⟩

theorem State.LsLeaves.of_eth (h : t.eth = s.eth) : s.LsLeaves e t := ⟨by rw [h], by rw [State.ls, h, State.ls]⟩

theorem enCount_lsLeaves (port a lo w n : Nat) (s : State) : s.LsLeaves e (enCount port a lo w n s) := .of_eth (enCount_eth ..)

theorem foldS_lsLeaves {α : Type} {f : α → State → State} (hf : ∀ x s, State.LsLeaves e s (f x s)) (l : List α) (s : State) :
    s.LsLeaves e (foldS f l s) :=
  foldS_induction (P := fun t => s.LsLeaves e t) (fun x t h => h.trans (hf x t)) l s (.refl e s)

theorem State.setLs_ports (s : State) (e : Nat) (l : EthLs) : (s.setLs e l).eth.ports = s.eth.ports := rfl

theorem State.ls_setLs (s : State) (e : Nat) (l : EthLs) : (s.setLs e l).ls e = l := (smGet_smSet ..).trans (if_pos rfl)

theorem lsSample_lsLeaves (cfg : Word) (len : Nat) (c : Int) (pay : List Byte) (s : State) : s.LsLeaves e (lsSample e cfg len c pay s) := by
  unfold lsSample
  extract_lets l p q nb d ch w i a bs
  split
  · exact enCount_lsLeaves ..
  · split
    · exact enCount_lsLeaves ..
    · have heth : (lsWrite a bs s).eth = s.eth := (lsWrite_ringLeaves (z := False) a (fun h => h.elim) s).eth
      exact ⟨(State.setLs_ports ..).trans (congrArg Eth.ports heth), by rw [State.ls_setLs]⟩

theorem crfTake_lsLeaves (p x : Nat) (s : State) : s.LsLeaves e (crfTake e p x s) := by
  unfold crfTake
  split
  · exact ⟨rfl, rfl⟩
  · exact .refl e s

/-- The sequence number of a PDU, with the break that it shows. -/
def lsNumbered (e seq : Nat) (gap : Bool) (s : State) : State :=
  (if gap then enCount (enPort (s.reg (aEthLsCfg e))) (aEthLsErr e) 16 16 1 s else s).setLs e { s.ls e with seq := some seq }

theorem lsNumbered_spec (e seq : Nat) (gap : Bool) (s : State) :
    (lsNumbered e seq gap s).eth.ports = s.eth.ports ∧ ((lsNumbered e seq gap s).ls e).seq = some seq := by
  refine ⟨?_, congrArg EthLs.seq (State.ls_setLs _ _ _)⟩
  refine (State.setLs_ports ..).trans ?_
  split
  · rw [enCount_eth]
  · rfl

/-- A PDU leaves its number at its listener, and the ports as they were. -/
theorem lsReceive_spec (e : Nat) (m : List Byte) (s : State) :
    (lsReceive e m s).eth.ports = s.eth.ports ∧ ((lsReceive e m s).ls e).seq = some (beAt m 2 1) := by
  have hnumber {t : State} (gap : Bool) (h : (lsNumbered e (beAt m 2 1) gap s).LsLeaves e t) :
      t.eth.ports = s.eth.ports ∧ (t.ls e).seq = some (beAt m 2 1) := by
    obtain ⟨hports, hseq⟩ := lsNumbered_spec e (beAt m 2 1) gap s
    exact ⟨h.ports.trans hports, h.seq.trans hseq⟩
  unfold lsReceive
  extract_lets cfg p l seq gap s1 ch w fmtOk n ts now base pt c0 len
  refine hnumber gap (t := _) ?_
  change s1.LsLeaves e _
  clear_value s1
  split
  · split
    · exact foldS_lsLeaves (fun i s => crfTake_lsLeaves _ _ s) _ _
    · exact enCount_lsLeaves ..
  · split
    · exact enCount_lsLeaves ..
    · split
      · exact enCount_lsLeaves ..
      · exact foldS_lsLeaves (fun j s => lsSample_lsLeaves _ _ _ _ s) _ _

end

/-! ## LISTENER_FILL (R572) -/

/-- Does listener e serve partition pt with samples? -/
abbrev State.lsServes (s : State) (pt e : Nat) : Prop :=
  bit (s.reg (aEthLsCfg e)) 0 = true ∧ enCrf (s.reg (aEthLsCfg e)) = false ∧ enPart (s.reg (aEthLsCfg e)) = pt

/-- The samples of the partition frame that no PDU supplied. -/
def State.lsMissing (s : State) (e : Nat) : List Nat :=
  (List.range (s.enLen (s.reg (aEthLsCfg e)))).filter (fun i => decide ((s.ls e).first ≤ (s.ls e).start + i) &&
    !(s.ls e).got.contains ((s.ls e).start + i))

/-- Zeros stand in the ring for them. -/
def lsZeroed (e : Nat) (s : State) : State :=
  foldS (fun i t => lsWrite (s.pair (aEthLsAddr e) (aEthLsAddrHi e) + (s.ls e).idx * (s.reg (aEthLsStride e)).toNat +
    i * enCh (s.reg (aEthLsCfg e)) * 4) (List.replicate (enCh (s.reg (aEthLsCfg e)) * 4) (0 : Byte)) t) (s.lsMissing e) s

/-- The fill of listener e. -/
def lsFill (pt e : Nat) (s : State) : State :=
  if !bit (s.reg (aEthLsCfg e)) 0 || enCrf (s.reg (aEthLsCfg e)) || decide (enPart (s.reg (aEthLsCfg e)) ≠ pt) then s
  else enCount (enPort (s.reg (aEthLsCfg e))) (aEthLsMiss e) 0 16 (s.lsMissing e).length (lsZeroed e s)

theorem listenerFill_eq (pt : Nat) (s : State) : listenerFill pt s = foldS (lsFill pt) (List.range 64) s := rfl

section
variable {pt e : Nat} {s t u : State}

theorem lsFill_of_serves (h : s.lsServes pt e) : lsFill pt e s =
    enCount (enPort (s.reg (aEthLsCfg e))) (aEthLsMiss e) 0 16 (s.lsMissing e).length (lsZeroed e s) := by
  obtain ⟨hen, hcrf, hpart⟩ := h
  refine if_neg ?_
  simp [hen, hcrf, hpart]

theorem lsFill_of_not_serves (h : ¬ s.lsServes pt e) : lsFill pt e s = s := by
  refine if_pos ?_
  by_contra hc
  simp only [Bool.or_eq_true, Bool.not_eq_true', decide_eq_true_eq, not_or, Bool.not_eq_false, ne_eq, not_not, Bool.not_eq_true] at hc
  exact h ⟨hc.1.1, hc.1.2, hc.2⟩

theorem lsZeroed_ringLeaves (e : Nat) (s : State) : s.RingLeaves True (lsZeroed e s) :=
  foldS_ringLeaves (fun _ _ => lsWrite_ringLeaves _ (fun _ _ hb => List.eq_of_mem_replicate hb) _) _ s

/-- What the fill of listener e leaves: entries, partitions, the Tide, bytes that do not become 0, and the registers of the other entries. -/
structure State.FillLeaves (e : Nat) (s t : State) : Prop where
  eth   : t.eth = s.eth
  setup : t.setup = s.setup
  tide  : t.tide = s.tide
  byte  : ∀ a, t.byte a = s.byte a ∨ t.byte a = 0
  cfg   : ∀ i < 64, t.reg (aEthLsCfg i) = s.reg (aEthLsCfg i)
  miss  : ∀ i < 64, i ≠ e → t.reg (aEthLsMiss i) = s.reg (aEthLsMiss i)

theorem enPort_lt (c : Word) : enPort c < 2 := fld_lt c 1 1

theorem enCount_reg (port a lo w n : Nat) (s : State) {b : Nat} (ha : b ≠ a) (hs : b ≠ aEthStat port) :
    (enCount port a lo w n s).reg b = s.reg b := by
  unfold enCount
  split
  · rfl
  · rw [ethFlag_reg _ _ _ hs, State.reg_incFld, if_neg ha]

theorem enCount_frame (port a lo w n : Nat) (s : State) : (enCount port a lo w n s).setup = s.setup ∧ (enCount port a lo w n s).tide = s.tide ∧
    (enCount port a lo w n s).mem = s.mem := by
  unfold enCount
  split
  · exact ⟨rfl, rfl, rfl⟩
  · exact ⟨rfl, rfl, rfl⟩

theorem lsFill_leaves (pt e : Nat) (s : State) : s.FillLeaves e (lsFill pt e s) := by
  by_cases h : s.lsServes pt e
  · have hzero := lsZeroed_ringLeaves e s
    have hport := enPort_lt (s.reg (aEthLsCfg e))
    have hcfg (i : Nat) (hi : i < 64) : ¬ WakeReg (aEthLsCfg i) := by simp only [WakeReg, aEthLsCfg, aMemcRpwrStat, aMemcWakeCnt]; omega
    have hmiss (i : Nat) (hi : i < 64) : ¬ WakeReg (aEthLsMiss i) := by simp only [WakeReg, aEthLsMiss, aMemcRpwrStat, aMemcWakeCnt]; omega
    rw [lsFill_of_serves h]
    refine ⟨(enCount_eth ..).trans hzero.eth, ?_, ?_, fun a => ?_, fun i hi => ?_, fun i hi hne => ?_⟩
    · exact (enCount_frame ..).1.trans hzero.setup
    · exact (enCount_frame ..).2.1.trans hzero.tide
    · rw [State.byte_of_mem (enCount_frame ..).2.2]
      exact hzero.byte trivial a
    · exact (enCount_reg _ _ _ _ _ _ (by simp only [aEthLsCfg, aEthLsMiss]; omega) (by simp only [aEthLsCfg, aEthStat]; omega)).trans
        (hzero.reg _ (hcfg i hi))
    · exact (enCount_reg _ _ _ _ _ _ (by simp only [aEthLsMiss]; omega) (by simp only [aEthLsMiss, aEthStat]; omega)).trans
        (hzero.reg _ (hmiss i hi))
  · rw [lsFill_of_not_serves h]
    exact ⟨rfl, rfl, rfl, fun _ => .inl rfl, fun _ _ => rfl, fun _ _ _ => rfl⟩

/-- The fill counts what is missing in ETH_LSs_MISS. -/
theorem lsFill_counts (he : e < 64) (h : s.lsServes pt e) : fld ((lsFill pt e s).reg (aEthLsMiss e)) 0 16 =
    min 0xFFFF (fld (s.reg (aEthLsMiss e)) 0 16 + (s.lsMissing e).length) := by
  have hreg : (lsZeroed e s).reg (aEthLsMiss e) = s.reg (aEthLsMiss e) :=
    (lsZeroed_ringLeaves e s).reg _ (by simp only [WakeReg, aEthLsMiss, aMemcRpwrStat, aMemcWakeCnt]; omega)
  have hport := enPort_lt (s.reg (aEthLsCfg e))
  have hfld : fld (s.reg (aEthLsMiss e)) 0 16 < 2 ^ 16 := fld_lt ..
  rw [lsFill_of_serves h]
  unfold enCount
  split
  · next hnone => rw [hreg, hnone]; omega
  · rw [ethFlag_reg _ _ _ (by simp only [aEthLsMiss, aEthStat]; omega), State.reg_incFld, if_pos rfl, hreg,
      fld_setFld_same _ (by decide) (by omega)]
    rfl

theorem State.FillLeaves.enLen {i : Nat} (h : s.FillLeaves i t) (c : Word) : t.enLen c = s.enLen c := by
  simp only [State.enLen, State.part?, h.setup, h.tide]

theorem State.FillLeaves.lsServes {i : Nat} (h : s.FillLeaves i t) (he : e < 64) : t.lsServes pt e ↔ s.lsServes pt e := by
  rw [State.lsServes, h.cfg e he, State.lsServes]

theorem State.FillLeaves.lsMissing {i : Nat} (h : s.FillLeaves i t) (he : e < 64) : t.lsMissing e = s.lsMissing e := by
  rw [State.lsMissing, h.cfg e he, h.enLen, State.ls, h.eth, State.lsMissing, State.ls]

/-- ETH_LSs_MISS of an entry after the fills of the entries in a list that holds it once at most. -/
theorem foldS_lsFill_miss (pt : Nat) (he : e < 64) {l : List Nat} (hnodup : l.Nodup) : ∀ s : State,
    if e ∈ l ∧ s.lsServes pt e then fld ((foldS (lsFill pt) l s).reg (aEthLsMiss e)) 0 16 =
      min 0xFFFF (fld (s.reg (aEthLsMiss e)) 0 16 + (s.lsMissing e).length)
    else (foldS (lsFill pt) l s).reg (aEthLsMiss e) = s.reg (aEthLsMiss e) := by
  induction l with
  | nil => exact fun s => by rw [if_neg (by simp)]; rfl
  | cons i l ih =>
    intro s
    obtain ⟨hnot, hnodup⟩ := List.nodup_cons.mp hnodup
    have hleaves := lsFill_leaves pt i s
    have hrest := ih hnodup (lsFill pt i s)
    rw [foldS]
    by_cases hie : e = i
    · subst hie
      rw [if_neg fun h => hnot h.1] at hrest
      rw [hrest]
      split
      · next h => exact lsFill_counts he h.2
      · next h => rw [lsFill_of_not_serves fun hs => h ⟨List.mem_cons_self, hs⟩]
    · rw [hleaves.miss e he hie, hleaves.lsMissing he] at hrest
      have hiff : (e ∈ l ∧ (lsFill pt i s).lsServes pt e) ↔ (e ∈ i :: l ∧ s.lsServes pt e) := by
        rw [hleaves.lsServes he, List.mem_cons, or_iff_right hie]
      simpa only [hiff] using hrest

theorem foldS_lsFill_byte (pt : Nat) (l : List Nat) : ∀ (s : State) (a : Nat),
    (foldS (lsFill pt) l s).byte a = s.byte a ∨ (foldS (lsFill pt) l s).byte a = 0 := by
  induction l with
  | nil => exact fun _ _ => .inl rfl
  | cons i l ih =>
    intro s a
    rw [foldS]
    rcases ih (lsFill pt i s) a with h | h
    · rw [h]
      exact (lsFill_leaves pt i s).byte a
    · exact .inr h

end

end Sys2Proof.Machine
end

section
/-! The theorem that settles O52, from the rules of ports, frames, stream entries and listeners. -/

namespace Sys2Proof.Machine

section
variable {s : State} {p : Nat} (now : BitVec 64)

/-- The port's queues, frames and registers stand as they did once the engine has taken the time. -/
theorem ptpNow_port (s : State) (p : Nat) : ((ptpNow p now s).ethPort p).rx = (s.ethPort p).rx ∧
    ((ptpNow p now s).ethPort p).ptpQ = (s.ethPort p).ptpQ ∧ ((ptpNow p now s).ethPort p).aQ = (s.ethPort p).aQ ∧
    ((ptpNow p now s).ethPort p).bQ = (s.ethPort p).bQ ∧ ((ptpNow p now s).ethPort p).txQ = (s.ethPort p).txQ := by
  obtain ⟨g, hg⟩ := (ptpNow_leaves p now s).port p
  rw [hg]
  exact ⟨rfl, rfl, rfl, rfl, rfl⟩

/-- A bad frame counts, and goes no further. -/
theorem receive_bad {bs : List Byte} {bad : Bool} (hup : s.ethUp p = true) (h : bad = true ∨ bs.length < 60 ∨ 1518 < bs.length) :
    (ethReceive p bs bad (ptpNow p now s)).reg (aEthRxBad p) = (s.incSat (aEthRxBad p)).reg (aEthRxBad p) ∧
      ((ethReceive p bs bad (ptpNow p now s)).ethPort p).rx = (s.ethPort p).rx ∧ (ethReceive p bs bad (ptpNow p now s)).mem = s.mem := by
  have hleaves := ptpNow_leaves p now s
  rw [ethReceive_bad (hleaves.ethUp.trans hup) h]
  refine ⟨?_, (ptpNow_port now s p).1, hleaves.mem⟩
  rw [State.reg_incSat, State.reg_incSat,
    hleaves.reg _ (by simp only [PtpReg, aEthStat, aEthPtpStat, aEthPtpGmidLo, aEthPtpGmidHi, aEthRxBad]; omega)]

section
variable {bs : List Byte} (hup : s.ethUp p = true) (hmin : 60 ≤ bs.length) (hmax : bs.length ≤ 1518)
include hup hmin hmax

/-- A frame for this station enters the receive FIFO. -/
theorem receive_mine (hty : beAt bs 12 2 ∉ [0x8100, 0x88F7, 0x22F0, 0x8808]) (hda : bs.take 6 = s.ethMac p ∨ bs.take 6 = List.replicate 6 0xFF)
    (hroom : (s.ethPort p).rx.foldl (fun a f => a + f.length) 0 + 1 + (bs.length + 3) / 4 ≤ 8192) (hflag : bit (s.reg (aEthFifoCfg p)) 8 = false) :
    ((ethReceive p bs false (ptpNow p now s)).ethPort p).rx = (s.ethPort p).rx ++ [BitVec.ofNat 32 bs.length :: bytesWords bs] ∧
      (ethReceive p bs false (ptpNow p now s)).reg (aEthRxLevel p) = BitVec.ofNat 32 ((s.ethPort p).rx.length + 1) := by
  have hleaves := ptpNow_leaves p now s
  have hrx := (ptpNow_port now s p).1
  have hmine : (ptpNow p now s).ethMine p (bs.take 6) = true := (hleaves.ethMine _).trans (ethMine_of_station hda)
  rw [ethReceive_other (hleaves.ethUp.trans hup) hmin hmax hty, if_pos hmine, ← hrx]
  refine rxPush_spec (by rwa [hrx]) ?_
  rwa [hleaves.reg _ (by simp only [PtpReg, aEthStat, aEthPtpStat, aEthPtpGmidLo, aEthPtpGmidHi, aEthFifoCfg]; omega)]

/-- A frame that no rule accepts is dropped. -/
theorem receive_dropped (hty : beAt bs 12 2 ∉ [0x8100, 0x88F7, 0x22F0, 0x8808]) (hda : s.ethMine p (bs.take 6) = false) :
    (ethReceive p bs false (ptpNow p now s)).reg (aEthRxDrop p) = (s.incSat (aEthRxDrop p)).reg (aEthRxDrop p) ∧
      ((ethReceive p bs false (ptpNow p now s)).ethPort p).rx = (s.ethPort p).rx ∧ (ethReceive p bs false (ptpNow p now s)).mem = s.mem := by
  have hleaves := ptpNow_leaves p now s
  have hmine : ¬ (ptpNow p now s).ethMine p (bs.take 6) = true := by rw [hleaves.ethMine, hda]; decide
  rw [ethReceive_other (hleaves.ethUp.trans hup) hmin hmax hty, if_neg hmine]
  refine ⟨?_, (ptpNow_port now s p).1, hleaves.mem⟩
  rw [State.reg_incSat, State.reg_incSat,
    hleaves.reg _ (by simp only [PtpReg, aEthStat, aEthPtpStat, aEthPtpGmidLo, aEthPtpGmidHi, aEthRxDrop]; omega)]

/-- A PDU of a listener's stream gives it its number. -/
theorem receive_pdu (hty : beAt bs 12 2 = 0x22F0) {e : Nat}
    (he : (List.range 64).find? (s.lsTakes p ((bs.drop 18).take 8)) = some e) :
    ((ethReceive p bs false (ptpNow p now s)).ls e).seq = some (beAt bs 16 1) ∧
      ((ethReceive p bs false (ptpNow p now s)).ethPort p).rx = (s.ethPort p).rx := by
  have hleaves := ptpNow_leaves p now s
  have htakes (i : Nat) (hi : i < 64) : (ptpNow p now s).lsTakes p ((bs.drop 18).take 8) i = s.lsTakes p ((bs.drop 18).take 8) i := by
    unfold State.lsTakes
    rw [hleaves.reg (aEthLsCfg i) (by simp only [PtpReg, aEthStat, aEthPtpStat, aEthPtpGmidLo, aEthPtpGmidHi, aEthLsCfg]; omega),
      hleaves.reg (aEthLsSidLo i) (by simp only [PtpReg, aEthStat, aEthPtpStat, aEthPtpGmidLo, aEthPtpGmidHi, aEthLsSidLo]; omega),
      hleaves.reg (aEthLsSidHi i) (by simp only [PtpReg, aEthStat, aEthPtpStat, aEthPtpGmidLo, aEthPtpGmidHi, aEthLsSidHi]; omega)]
  have hfind : (List.range 64).find? ((ptpNow p now s).lsTakes p ((bs.drop 18).take 8)) = some e :=
    (List.find?_congr fun i hi => htakes i (List.mem_range.mp hi)).trans he
  obtain ⟨hports, hseq⟩ := lsReceive_spec e (bs.drop 14) (ptpNow p now s)
  rw [ethReceive_pdu (hleaves.ethUp.trans hup) hmin hmax hty hfind, hseq, beAt, beAt, List.drop_drop]
  refine ⟨rfl, ?_⟩
  rw [State.ethPort, hports]
  exact (ptpNow_port now s p).1

end

/-! ### What leaves next -/

section
variable {x : EthTx} (hup : s.ethUp p = true)
include hup

theorem sends_ptp (gainA gainB : Nat) (hx : x ∈ (s.ethPort p).ptpQ.head?) :
    ((ethSend p gainA gainB (ptpNow p now s)).ethPort p).aQ = (s.ethPort p).aQ ∧
      ((ethSend p gainA gainB (ptpNow p now s)).ethPort p).out.take x.bytes.length = x.bytes := by
  obtain ⟨-, hptpQ, haQ, -, -⟩ := ptpNow_port now s p
  obtain ⟨r, hr⟩ := List.head?_eq_some_iff.mp hx
  obtain ⟨hA, hout⟩ := ethSend_ptp (gainA := gainA) (gainB := gainB) ((ptpNow_leaves p now s).ethUp.trans hup) (hptpQ.trans hr)
  exact ⟨hA.trans haQ, by rw [hout, ethFrame_take]⟩

variable {gainA gainB : Nat} (hempty : (s.ethPort p).ptpQ = [])
include hempty

theorem sends_a (hx : x ∈ (s.ethPort p).aQ.head?) (hcr : 0 ≤ ((ethCredit p gainA gainB (ptpNow p now s)).ethPort p).crA) :
    ((ethSend p gainA gainB (ptpNow p now s)).ethPort p).aQ = (s.ethPort p).aQ.tail ∧
      ((ethSend p gainA gainB (ptpNow p now s)).ethPort p).out = ethFrame x ∧
      ((ethSend p gainA gainB (ptpNow p now s)).ethPort p).crA = creditSpend (fld (s.reg (aEthCbsA p)) 0 24) (ethRate (s.reg (aEthMode p))) x
        ((ethCredit p gainA gainB (ptpNow p now s)).ethPort p).crA := by
  have hleaves := ptpNow_leaves p now s
  obtain ⟨-, hptpQ, haQ, -, -⟩ := ptpNow_port now s p
  obtain ⟨r, hr⟩ := List.head?_eq_some_iff.mp hx
  obtain ⟨hA, hout, hcrA⟩ := ethSend_a (hleaves.ethUp.trans hup) (hptpQ.trans hempty) hcr (haQ.trans hr)
  rw [hleaves.reg (aEthCbsA p) (by simp only [PtpReg, aEthStat, aEthPtpStat, aEthPtpGmidLo, aEthPtpGmidHi, aEthCbsA]; omega),
    hleaves.ethMode] at hcrA
  exact ⟨by rw [hA, hr, List.tail_cons], hout, hcrA⟩

variable (ha : ((ethCredit p gainA gainB (ptpNow p now s)).ethPort p).crA < 0 ∨ (s.ethPort p).aQ = [])
include ha

theorem sends_b (hx : x ∈ (s.ethPort p).bQ.head?) (hcr : 0 ≤ ((ethCredit p gainA gainB (ptpNow p now s)).ethPort p).crB) :
    ((ethSend p gainA gainB (ptpNow p now s)).ethPort p).bQ = (s.ethPort p).bQ.tail ∧
      ((ethSend p gainA gainB (ptpNow p now s)).ethPort p).out.take x.bytes.length = x.bytes ∧
      ((ethSend p gainA gainB (ptpNow p now s)).ethPort p).crB = creditSpend (fld (s.reg (aEthCbsB p)) 0 24) (ethRate (s.reg (aEthMode p))) x
        ((ethCredit p gainA gainB (ptpNow p now s)).ethPort p).crB := by
  have hleaves := ptpNow_leaves p now s
  obtain ⟨-, hptpQ, haQ, hbQ, -⟩ := ptpNow_port now s p
  obtain ⟨r, hr⟩ := List.head?_eq_some_iff.mp hx
  obtain ⟨hB, hout, hcrB⟩ := ethSend_b (hleaves.ethUp.trans hup) (hptpQ.trans hempty) (by rwa [haQ]) hcr (hbQ.trans hr)
  rw [hleaves.reg (aEthCbsB p) (by simp only [PtpReg, aEthStat, aEthPtpStat, aEthPtpGmidLo, aEthPtpGmidHi, aEthCbsB]; omega),
    hleaves.ethMode] at hcrB
  exact ⟨by rw [hB, hr, List.tail_cons], by rw [hout, ethFrame_take], hcrB⟩

theorem sends_tx (hb : ((ethCredit p gainA gainB (ptpNow p now s)).ethPort p).crB < 0 ∨ (s.ethPort p).bQ = [])
    (hx : x ∈ (s.ethPort p).txQ.head?) :
    ((ethSend p gainA gainB (ptpNow p now s)).ethPort p).txQ = (s.ethPort p).txQ.tail ∧
      ((ethSend p gainA gainB (ptpNow p now s)).ethPort p).out.take x.bytes.length = x.bytes := by
  obtain ⟨-, hptpQ, haQ, hbQ, htxQ⟩ := ptpNow_port now s p
  obtain ⟨r, hr⟩ := List.head?_eq_some_iff.mp hx
  obtain ⟨hT, hout⟩ := ethSend_tx (gainA := gainA) (gainB := gainB) ((ptpNow_leaves p now s).ethUp.trans hup) (hptpQ.trans hempty) (by rwa [haQ]) (by rwa [hbQ]) (htxQ.trans hr)
  exact ⟨by rw [hT, hr, List.tail_cons], by rw [hout, ethFrame_take]⟩

end

/-- A class A talker's fire, as its port shows it. -/
theorem talker_queues {e : Nat} {pa : Part} (hpa : s.part? (enPart (s.reg (aEthTkCfg e))) = some pa) (hen : bit (s.reg (aEthTkCfg e)) 0 = true)
    (hcrf : enCrf (s.reg (aEthTkCfg e)) = false) (hdone : (s.tk e).done ≠ s.aafStart e pa + 1) (hcommitted : (s.pt pa.part).committed = true)
    (hcls : bit (s.reg (aEthTkCfg e)) 22 = false)
    (hnone : (s.ethPort (enPort (s.reg (aEthTkCfg e)))).aQ.all (fun x => decide (x.talker ≠ some e)) = true) :
    ((aafSend e s).tk e).done = (s.pt pa.part).start + s.pdusGone (s.pt pa.part) (s.reg (aEthTkCfg e)) * s.enLen (s.reg (aEthTkCfg e)) + 1 ∧
      ((aafSend e s).tk e).seq = ((s.tk e).seq + s.enLen (s.reg (aEthTkCfg e)) / enSpp (s.reg (aEthTkCfg e))) % 256 ∧
      ((aafSend e s).ethPort (enPort (s.reg (aEthTkCfg e)))).aQ.length =
        (s.ethPort (enPort (s.reg (aEthTkCfg e)))).aQ.length + s.enLen (s.reg (aEthTkCfg e)) / enSpp (s.reg (aEthTkCfg e)) ∧
      ∀ x ∈ ((aafSend e s).ethPort (enPort (s.reg (aEthTkCfg e)))).aQ.drop (s.ethPort (enPort (s.reg (aEthTkCfg e)))).aQ.length,
        x.talker = some e ∧
          x.bytes.length = 18 + 24 + enSpp (s.reg (aEthTkCfg e)) * enCh (s.reg (aEthTkCfg e)) * enBytes (s.reg (aEthTkCfg e)) := by
  obtain ⟨htk, hq⟩ := aafSend_spec hpa hen hcrf hdone hcommitted hcls hnone
  obtain ⟨hdone', hseq⟩ := aafTk_fields s e pa
  rw [htk, hq, List.length_append, List.length_map, List.length_range, List.drop_left]
  refine ⟨hdone', hseq, rfl, fun x hx => ?_⟩
  obtain ⟨j, -, rfl⟩ := List.mem_map.mp hx
  exact aafPdu_spec s e pa j

/-- What the timer queues shows its type. -/
theorem timer_queues {kind : Nat} (hen : bit (s.reg (aEthPtpCfg p)) 0 = true) (hup : s.ethUp p = true) (hlead : kind = 0 ∨ s.MayLead p) :
    ((ptpTimer p kind (ptpNow p now s)).ethPort p).ptpQ.length = (s.ethPort p).ptpQ.length + 1 ∧
      ((ptpTimer p kind (ptpNow p now s)).ethPort p).ptpQ.getLast?.map (fun x => beAt x.bytes 14 1 % 16) =
        some (if kind = 0 then 2 else if kind = 1 then 11 else 0) := by
  have hleaves := ptpNow_leaves p now s
  have hcfg := hleaves.reg (aEthPtpCfg p) (by simp only [PtpReg, aEthStat, aEthPtpStat, aEthPtpGmidLo, aEthPtpGmidHi, aEthPtpCfg]; omega)
  obtain ⟨u, seq, body, hq⟩ := ptpTimer_queue (by rwa [hcfg]) (hleaves.ethUp.trans hup) (hlead.imp_right fun h => h.ptpNow now)
  have htype : (if kind = 0 then 2 else if kind = 1 then 11 else 0) < 16 := by split_ifs <;> decide
  rw [hq, List.length_append, hleaves.ptpQ, List.getLast?_concat, Option.map_some, ptpMsg_type u p htype]
  exact ⟨rfl, rfl⟩

end

/-- Settles O52: the engine's own steps leave queues and FIFOs, so the frames keep their order; each sample of the fill is zeros, and each
listener's count is its own. -/
theorem ethernetRows : Obligations.EthernetRows := by
  unfold Obligations.EthernetRows
  refine ⟨fun s p => ⟨fun hen hdown hcap => ⟨_, congrArg Host.Outcome.next (if_pos ⟨hen, hdown⟩), ?_, rfl⟩,
      fun hdown htry htop => ⟨_, congrArg Host.Outcome.next (if_pos ⟨hdown, htry⟩), ethLinkUp_spec htop⟩, fun hup => ⟨_, rfl, ethLoss_spec hup⟩⟩,
    fun s p bs bad now hup => ⟨fun h => ⟨_, rfl, receive_bad now hup h⟩, fun hgood hmin hmax hty => ?received⟩,
    fun s p bs now hup hmin hmax hty e he => ⟨_, rfl, receive_pdu now hup hmin hmax hty he⟩,
    fun s p gainA gainB now hup => ?sent,
    fun s e pa hpa hen hcrf hdone _ hcommitted hcls hnone => ?talker,
    fun s e hen hcrf hdone hcls => ?crf,
    fun s pt => ⟨_, rfl, fun a => ?_, fun e => ?_⟩,
    fun s talker e v => ⟨fun hen hne => congrArg Host.Outcome.next (entryCfgWrite_refused hen hne),
      fun hoff hok => ⟨_, rfl, entryCfgWrite_taken hoff hok⟩⟩,
    fun s p v => ⟨?header, fun h => congrArg Host.Outcome.next (txfWrite_of_none h v), fun x hx => ⟨_, rfl, txfWrite_of_some hx v⟩⟩,
    fun s p => ⟨fun h => ?_, fun f hf w hw => ?word⟩,
    fun s p v now h0 h1 hcap halone => ?_, fun s p kind now hen hup hlead => ⟨_, rfl, ?_⟩⟩
  case received =>
    subst hgood
    exact ⟨fun hda hroom hflag => ⟨_, rfl, receive_mine now hup hmin hmax hty hda hroom hflag⟩,
      fun hda => ⟨_, rfl, receive_dropped now hup hmin hmax hty hda⟩⟩
  case sent =>
    exact ⟨fun x hx => ⟨_, rfl, sends_ptp now hup gainA gainB hx⟩, fun hempty => ⟨fun x hx hcr => ⟨_, rfl, sends_a now hup hempty hx hcr⟩,
      fun ha => ⟨fun x hx hcr => ⟨_, rfl, sends_b now hup hempty ha hx hcr⟩, fun hb x hx => ⟨_, rfl, sends_tx now hup hempty ha hb hx⟩⟩⟩⟩
  case talker =>
    exact ⟨_, rfl, talker_queues hpa hen hcrf hdone hcommitted hcls hnone⟩
  case crf =>
    obtain ⟨hdone', hlast⟩ := crfSend_spec hen hcrf hdone hcls
    exact ⟨_, rfl, hdone', by rw [hlast, Option.map_some, crfPdu_time]; rfl⟩
  case header =>
    have hspec := txhWrite_spec s p v
    split at hspec
    · next h => rw [if_pos h]; exact ⟨_, rfl, hspec⟩
    · next h => rw [if_neg h]; exact ⟨_, rfl, hspec⟩
  case word =>
    obtain ⟨fs, hfs⟩ := List.head?_eq_some_iff.mp hf
    obtain ⟨ws, rfl⟩ := List.head?_eq_some_iff.mp hw
    obtain ⟨hword, hrx⟩ := rxfRead_of_word hfs
    exact ⟨_, rfl, hword, by rw [hfs]; exact hrx⟩
  · rw [State.ethPort_onEth_same]
    exact ethNext_of_all hcap _
  · rw [listenerFill_eq]
    exact foldS_lsFill_byte pt (List.range 64) s a
  · have hmiss := foldS_lsFill_miss pt e.isLt (List.nodup_range (n := 64)) s
    rw [listenerFill_eq]
    simp only [List.mem_range, e.isLt, true_and] at hmiss
    exact hmiss
  · exact congrArg (fun r : State × Word => Host.Outcome.next { r.1 with rdata := r.2 }) (rxfRead_of_empty h)
  · have hlead : s.MayLead p := ⟨h0, h1, hcap, halone⟩
    obtain ⟨hrole, htime⟩ := ptpSet_spec (hlead.ptpNow now) v
    refine ⟨_, rfl, hrole, htime.trans ?_⟩
    rw [(ptpNow_leaves p now s).reg _ (by simp only [PtpReg, aEthStat, aEthPtpStat, aEthPtpGmidLo, aEthPtpGmidHi, aEthPtpSetLo]; omega)]
  · have hlead' : kind.val = 0 ∨ s.MayLead p := by
      rcases hlead with rfl | ⟨h1, hcap, halone⟩
      · exact .inl rfl
      · exact .inr ⟨hen, h1, hcap, halone⟩
    have hqueued := timer_queues now hen hup hlead'
    simpa only [Fin.ext_iff, Fin.val_zero, Fin.val_one] using hqueued

end Sys2Proof.Machine
end
